-- ==== Sys2Proof/Word.lean ====
section
/-! DEFINITION. Word types: what the manual treats as bits. Counts, indices and addresses in flight are `Nat`. -/

namespace Sys2Proof

/-- One byte of memory. -/
abbrev Byte := BitVec 8

/-- A register is 64 bits wide (R9). -/
abbrev Word64 := BitVec 64

end Sys2Proof
end

