-- ==== Sys2Proof/Syntax.lean ====
section
/-! DEFINITION. The commands of the M9 as a block: one constructor of `Instr` per row of spec/opcode_table.json,
with the operands that say which unit performs it and what its environment supplies. -/

namespace Sys2Proof

/-- Who executes a word of an ephemeris: a physical engine of a matrix die, or a stream context of a Finder on a hub
(R176, R194, R203). -/
inductive Agent where
  | engine (die eng : Nat)
  | stream (hub finder sc : Nat)
  deriving DecidableEq, Repr

/-- What an error-correcting check finds on one access (R53, R68, R223, R262, R377). -/
inductive Ecc where
  | none
  | ce
  | ue
  deriving DecidableEq, Repr

/-- An error that an engine op meets in its storage (R53, R68). Bank errors name the row and the word. -/
inductive EngErr where
  | none
  | osCe
  | accCe
  | osUe
  | accUe
  | bankCe (row word : Nat)
  | bankUe (row word : Nat)
  deriving DecidableEq, Repr

/-- What the checks of a Finder's buffers and of the bank it reads find in one move (R68, R223). Bank errors name the row and
the word. -/
inductive MoveErr where
  | none
  | bufCe
  | bufUe
  | bankCe (row word : Nat)
  | bankUe (row word : Nat)
  deriving DecidableEq, Repr

/-- The measurement of one phase of one engine: energy of the pair's domain in picojoules, handshakes and mean supply in
millivolts (R147, R419). -/
structure PhaseMeas where
  energyPj : Nat
  handshakes : Nat
  mv : Nat
  deriving DecidableEq, Repr

/-- A frame of the Agaelen fabric after its kind byte (R443). -/
structure Frame where
  src : Nat
  dst : Nat
  ttl : Nat
  seq : Nat
  ack : Nat
  tag : Nat
  arg : BitVec 64
  payload : List Byte
  deriving DecidableEq, Repr

/-- What a device behind a root port asks for: a memory read or write, a translation (ATS) or a page (PRI). -/
inductive PcieKind where
  | read
  | write
  | ats
  | pri
  deriving DecidableEq, Repr

/-- A training frame's content (R394): OWN_MAP, PEER_RECORD and FEATURE_EPOCH, with the sender's test result map. -/
structure TrainFrame where
  ownMap : List Bool
  peerRecord : Option (List Bool)
  epoch : Nat
  deriving DecidableEq, Repr

/-- What training, repair and self-test find on the parts of the device (R57, R69, R366, R397): columns that fail as
(die, engine, mask of columns), rows that fail as (near-store die, bank, row numbers), pseudo-channels mapped out by device-wide
number by their pattern test, failing data lanes of a pseudo-channel, failing command or address lanes of a channel (a pair of
pseudo-channels), stacks that fail as a whole, links that do not answer as (die, port), failed pads of each group of 32 of
the bond of a matrix die, and the lanes or wavelengths that fail at an end of a link in its first, second and third test. -/
structure Findings where
  badColumns : List (Nat × Nat × BitVec 128)
  badRows : List (Nat × Nat × List Nat)
  badPcs : List Nat
  dataLanes : List (Nat × Nat)
  caLanes : List (Nat × Nat)
  badStacks : List Nat
  badLinks : List (Nat × Nat)
  bondPads : List (Nat × List Nat)
  lanes : List (Nat × Nat × List (List Nat))
  deriving DecidableEq, Repr

/-- A DDR population as training finds it (R382, R383): populated channels of each host die as bit masks, capacity of a
channel in GiB, speed, module type and DIMMs per channel, whether every populated channel holds identical DIMMs, and
whether every populated channel trained. -/
structure DdrFound where
  pop0 : BitVec 8
  pop1 : BitVec 8
  channelGib : Nat
  mts : Nat
  kind : Nat
  dpc : Nat
  identical : Bool
  trained : Bool
  deriving DecidableEq, Repr

/-- A plate setting list: the settings that R544 tabulates, each absent when the plate does not carry it. -/
structure Plate where
  mode : Option Nat
  hbmLinear : Option (BitVec 4)
  catalogBase : Option Nat
  catalogSize : Option Nat
  ceilingW : Option Nat
  capReqW : Option Nat
  deviceId : Option Nat
  half0 : Option Nat
  half1 : Option Nat
  evtLog : Option (BitVec 64)
  /-- Millivolts of the domains that R412 fixes by the plate, by unit ID. -/
  domainMv : List (Nat × Nat)
  releasedCores : List (Nat × Nat)
  bootAddr : Nat
  /-- GPIO pins that are outputs. -/
  gpioOut : Option (BitVec 32)
  deriving DecidableEq, Repr

/-- One source of a plate as the start-up meets it (R484, R495, R496): the bytes of its image, the settings that its body
carries, and the verdict on its signature (log 128). -/
structure PlateImage where
  plate : Plate
  bytes : List Byte
  signatureOk : Bool
  deriving DecidableEq, Repr

/-- What the board and the dies give to one start-up (R482). -/
structure BootInput where
  strapMv : List Nat
  sysref : Bool
  linkClock : Bool
  /-- The clocks REFCLK100_PD0, REFCLK100_PD1, REFCLK156_PD0 and REFCLK156_PD1, from bit 0 on (R532). -/
  portClocks : BitVec 4
  flashA : Option PlateImage
  flashB : Option PlateImage
  recovery : Option PlateImage
  epochs : List Nat
  findings : Findings
  ddr : DdrFound
  badPersist : List Nat
  /-- The board still holds SYS_RST_N low (R478). -/
  boardHolds : Bool
  firmware : List (BitVec 384)
  deriving DecidableEq, Repr

/-- What the Heliostat measures every 10 µs (R416, R418): the watts of domains by unit ID, the host cores' demand in watts, and the
package input. -/
structure PowerSample where
  domainW : List (Nat × Nat)
  hostDemandW : Nat
  inputMv : Nat
  inputDeciAmps : Nat
  inputW : Nat
  deriving DecidableEq, Repr

/-- What an Eyepiece DEBUG instruction names (R508, R522): an offset of the system die's registers, 8 bytes of memory, or a core
to halt (log 167). -/
inductive DebugTarget where
  | reg (addr : Nat)
  | mem (addr : Nat)
  | core (die core : Nat)
  deriving DecidableEq, Repr

/-- The data of an inbound RoCE message, and whether a frame of it was marked as having met congestion. -/
structure Payload where
  bytes : List Byte
  ecn : Bool
  deriving DecidableEq, Repr

/-- An inbound RDMA request: a READ, or a WRITE with an immediate value or without. -/
inductive RdmaKind where
  | read
  | write (imm : Option (BitVec 32))
  deriving DecidableEq, Repr

/-- A tier access without its response: whether it went to another device, and whether an error completion came in place of
nothing. -/
structure TierLoss where
  remote : Bool
  error : Bool
  deriving DecidableEq, Repr

/-- A step of a MEDIA command: its number, and what the check of the Finder's buffers finds as it reads the entry (R223). -/
structure MediaStep where
  seq : Nat
  ecc : Ecc
  deriving DecidableEq, Repr

/-- The commands: one constructor per row of spec/opcode_table.json, in the table's order. -/
inductive Instr where
  -- host cores (12)
  | load (die core addr size : Nat)
  | store (die core addr size : Nat) (value : BitVec 64)
  | stnt (die core addr size : Nat) (value : BitVec 64)
  | ordL (die core : Nat)
  | ordS (die core : Nat)
  | ordLs (die core : Nat)
  | exceptionEntry (die core : Nat)
  | storeErrorTimeout (die core : Nat)
  | farTimeout (die core : Nat)
  | droopDetect (die core : Nat)
  | registerWrite (die core addr size : Nat) (value : BitVec 64)
  -- ephemeris words (05, 06)
  | end_ (a : Agent) (m : PhaseMeas)
  | nop (a : Agent)
  | loop (a : Agent)
  | cursor (a : Agent)
  | wload (die eng : Nat) (e : EngErr)
  | matmul (die eng : Nat) (e : EngErr)
  | ribbon (die eng : Nat) (e : EngErr)
  | drain (die eng : Nat) (e : EngErr)
  | vector (die eng : Nat) (e : EngErr)
  | reduce (die eng : Nat) (e : EngErr)
  | reduceRead (die eng : Nat)
  | signal (a : Agent)
  | wait (a : Agent)
  | waitHeldAdmit (die : Nat)
  | waitTimeout (die : Nat) (a : Agent)
  | phaseAnnounce (die eng : Nat)
  | phaseAnnounceLapse (die eng : Nat)
  | phaseBegin (die eng : Nat) (m : PhaseMeas)
  | rewindMark (die eng : Nat)
  | geometry (die eng : Nat)
  | rcLoad (die eng : Nat) (e : List (List Ecc))
  | rcInvalidate (die eng : Nat)
  | rcFill (die line : Nat)
  | rdcInvalidate (die : Nat)
  | readCacheInvalidationDone (die : Nat)
  | commit (die eng : Nat)
  | commitComplete (die eng : Nat)
  | rewind (die eng : Nat)
  | rewindRestart (die eng : Nat)
  | rewindReport (ctx seq : Nat)
  | engSelftest (die eng : Nat)
  | selftestDone (die eng : Nat) (failed : BitVec 128)
  | engPhoTest (die eng : Nat)
  -- launches (05)
  | launch (ctx seq : Nat)
  | placementRetry (part : Nat)
  | tokenAllocRetry (ctx seq : Nat)
  | reservationTimeout (ctx seq : Nat)
  | launchStart (ctx seq : Nat)
  | launchError (ctx seq : Nat)
  | launchEnd (ctx seq : Nat)
  -- Finders (07)
  | move (hub finder sc : Nat)
  | moveDone (hub finder sc : Nat) (e : MoveErr)
  | markArrival (hub finder sc : Nat)
  | cancellation (hub finder sc : Nat)
  -- tiers (08)
  | tierRegionDeclare (hub : Nat) (readOnly : Bool) (pages region ctx : Nat)
  | tierRegionRelease (hub region ctx : Nat)
  | movePages (ctx seq : Nat)
  | movePagesCopy (ctx seq : Nat)
  | movePagesSwitch (ctx seq : Nat)
  | movePagesReturn (ctx seq : Nat)
  | lendRetry (hub finder sc : Nat)
  | tierTimeout (ctx seq : Nat) (loss : TierLoss)
  | accessDecay (hub : Nat)
  -- contexts and queues (10)
  | contextEnable (ctx : Nat) (attr : BitVec 64)
  | contextDisable (ctx : Nat) (attr : BitVec 64)
  | unpark (ctx : Nat)
  | cmdTail (ctx : Nat) (value : BitVec 64)
  | cplHead (ctx : Nat) (value : BitVec 64)
  | evtHead (ctx : Nat) (value : BitVec 64)
  | descriptorFetch (hub : Nat)
  | staleRefetch (ctx : Nat)
  | commandDispatch (ctx : Nat)
  | moveCmd (ctx seq : Nat)
  | moveEntry (ctx seq : Nat) (e : Ecc)
  | setQuotas (ctx seq : Nat)
  | media (ctx : Nat) (step : MediaStep)
  | sync (ctx seq : Nat)
  | syncComplete (ctx seq : Nat)
  | attest (ctx seq : Nat)
  | attestSigned (ctx seq : Nat)
  | partitionFullReset (part unit : Nat)
  | partitionResetComplete (part : Nat) (f : Findings)
  -- translation (11)
  | walkComplete (die ctx page : Nat) (held : BitVec 8)
  | faultOpenRetry (ctx page : Nat)
  | faultResume (record : Nat)
  | faultDeny (record : Nat)
  | trcInvalidatePage (hub ctx va : Nat) (tables : Bool)
  | trcInvalidateRange (hub ctx va count : Nat) (tables : Bool)
  | trcInvalidateContext (hub ctx : Nat) (tables : Bool)
  | trcInvalidateAll (hub : Nat) (tables : Bool)
  | trcInvalidationDone (hub : Nat)
  -- cores on and off line, interrupts (12)
  | coreOffline (die core : Nat)
  | coreOnline (die core : Nat)
  | coreRecalibrate (die core : Nat)
  | coreCmdComplete (die passFreq : Nat)
  | irqMessage (vector : Nat)
  | irqAck (die core : Nat)
  | irqEoi (die core vector : Nat)
  | irqIpi (die vector : Nat)
  -- coherence (13)
  | rdShared (home line holder unit : Nat) (e : Ecc)
  | rdOwn (home line holder unit : Nat) (e : Ecc)
  | upgrade (home line holder unit : Nat)
  | rdNc (home line unit : Nat) (e : Ecc)
  | wrFull (home line unit : Nat) (data : List Byte)
  | wrPart (home line unit : Nat) (mask : BitVec 64) (data : List Byte)
  | wrStash (home line unit target : Nat) (data : List Byte)
  | rmwHome (home line unit : Nat) (clear set : List Byte)
  | wb (home line holder : Nat)
  | directoryRetry (home : Nat)
  | probe (holder line : Nat)
  | notPresent (home line holder : Nat)
  | homeTimeout (home line : Nat)
  | coherenceFatal (unit : Nat)
  -- memory controllers (14)
  | hbmStackFailed (stack : Nat)
  | hbmPcFailed (pc : Nat)
  | ddrChannelFailed (die ch : Nat)
  | refresh (unit : Nat)
  | recalibration (unit : Nat) (forced : Bool)
  | patrolScrub (line : Nat) (e : Ecc) (passEnd : Bool)
  -- links (15)
  | flitReceive (die port : Nat) (flit : List Byte)
  | retrain (die port : Nat) (tests : List (List Bool × List Bool))
  | trainingFrame (die port : Nat) (f : TrainFrame)
  | linkDown (die port cause : Nat)
  | laneRecal (die port : Nat) (quiet : Bool)
  | lnkPortCtlRetrain (die port : Nat)
  | nsThermalSample (die deciC : Nat)
  -- power and thermal (16)
  | dipStart (mv : Nat)
  | dipEnd (lowestMv durationUs : Nat)
  | brownout
  | heliostatEvaluation (p : PowerSample)
  | fastLoop (p : PowerSample)
  | powerCeilingUnmet
  | thermalSample (die deciC : Nat)
  | thermalGateStep (die deciC : Nat)
  | thermalTrip (die : Nat)
  | capReqAssert
  | capReqRelease
  | pairIdleOff (die pair : Nat)
  | pwrDomainOffReq (unit : Nat) (off : Bool)
  | pwrLearnFlush
  | slackReport (slackNs watts : Nat)
  | grantDistribution
  | jobCoordinatorLost
  -- network (17)
  | netQpEnable (pd qp : Nat) (record : BitVec 64)
  | netQpDisable (pd qp : Nat)
  | netQpDoorbell (pd qp : Nat) (tail : Nat)
  | send (pd qp : Nat)
  | sendImm (pd qp : Nat)
  | rdmaWrite (pd qp : Nat)
  | rdmaWriteImm (pd qp : Nat)
  | rdmaRead (pd qp : Nat) (data : List Byte)
  | inboundSend (pd qp : Nat) (data : Payload) (imm : BitVec 32)
  | inboundRdma (pd qp rkey va len : Nat) (kind : RdmaKind) (data : Payload)
  | inboundAtomic (pd qp : Nat)
  | remoteNak (pd qp : Nat)
  | retryExceeded (pd qp : Nat)
  | cnp (pd qp : Nat)
  | readReq (port : Nat) (f : Frame)
  | readResp (port : Nat) (f : Frame)
  | fabricWrite (port : Nat) (f : Frame)
  | writeAck (port : Nat) (f : Frame)
  | errorResp (port : Nat) (f : Frame)
  | fabricSignal (port : Nat) (f : Frame)
  | fabricWait (port : Nat) (f : Frame)
  | release (port : Nat) (f : Frame)
  | slack (port : Nat) (f : Frame)
  | grant (port : Nat) (f : Frame)
  | probeResp (port : Nat) (f : Frame)
  | probeFrame (port : Nat) (f : Frame)
  | routeProbe
  | ack (port seq : Nat)
  | frameForward (port kind : Nat) (f : Frame)
  | hopRetransmit (port : Nat)
  | netFctrVal (pd counter : Nat) (value : BitVec 32)
  | pcieInboundRequest (port addr len : Nat) (kind : PcieKind) (data : List Byte)
  | msiWrite (port : Nat) (data : BitVec 32)
  | pciCompletionTimeout (die core : Nat)
  | pciLinkDown (port : Nat)
  | pciRpCxlEnable (pd rp : Nat) (value : BitVec 64)
  -- media (18)
  | pipelineAssign (encode : Bool)
  | decodeEntry (pd pipe : Nat) (e : Ecc)
  | encodeEntry (pd pipe : Nat) (e : Ecc)
  | medPipeEnable (pd pipe : Nat) (on : Bool)
  -- reset, boot, persistent settings (19)
  | pwrGoodRise
  | pwrGoodFall
  | sysRstNAssert
  | domeWatchdog
  | rstCtlCore (key : Nat)
  | rstCtlSystem (key : Nat)
  | rstCtlPartition (key part : Nat)
  | coreResetDrainTimeout (die : Nat)
  | startUp (b : BootInput)
  | persistWrite (n : Nat) (value : BitVec 64)
  | persistCommit (n : Nat)
  -- security (20)
  | secKeyProgram (slot : Nat)
  | secKeyRevoke (slot : Nat)
  | secMrExtend (index : Nat)
  | secRollback (index : Nat) (value : BitVec 32)
  | secUpdate (controller : Nat) (commit : Bool)
  | secDbgNew
  | secDbgSubmit (level : Nat)
  -- servicing (21)
  | retireEngine (unit : Nat)
  | engineRetireSwap (die eng : Nat)
  | setPartitionMode (mode : Nat) (f : Findings)
  | retrainDdr (d : DdrFound)
  | eventRecord
  | evtLogEnable (base : BitVec 64)
  | bypass
  | idcode
  | samplePreload (cells : BitVec 64)
  | extest
  | clamp
  | highz
  | debug (target : DebugTarget) (isWrite : Bool) (value : BitVec 64)
  -- rows at the end of the table
  | resetConfigurationUe (unit : Nat)
  | rideThroughReduced (mv : Nat)
  | pciLinkUp (port width gts : Nat) (cxl : Bool)
  | netPortLinkUp (port peer : Nat)
  | netPortLinkDown (port : Nat)
  | probeResponse (home line holder : Nat)
  | dataResponse (die core line : Nat)
  | coreHalt (die core : Nat)
  | roceRetransmit (pd qp : Nat)
  deriving DecidableEq, Repr

end Sys2Proof
end

