-- ==== Sys2Proof/Machine/State.lean ====
section
/-! DEFINITION. The state of the M9 as plain data. Registers live in one sparse register file, keyed by their offset in
register space; everything the spec gives the machine beside its registers has a field of its own. -/

namespace Sys2Proof.Machine

/-- A sparse map: keys strictly rising. -/
abbrev SMap (α : Type) := List (Nat × α)

/-- A memory: cells strictly rising in address, and no cell that holds 0, which is what an unlisted address reads as
(R69, R131, R364, R365). -/
abbrev Memory := List Host.Cell

/-- Reasons at which the block stops with a fault. None of the spec's behaviours is one: every error of the M9 is a
status, an event or an error response, all of which are next states. -/
inductive Fault where
  /-- Raised by no meaning; kept so that the type is not empty. Safe. -/
  | impossible
  deriving DecidableEq, Repr

/-- Reasons for which the model refuses a command. -/
inductive Refusal where
  /-- An arm of the dispatch that has no meaning yet. Safe. -/
  | notModelled (mnemonic : String)
  deriving DecidableEq, Repr

/-! ### Host cores (12) -/

/-- A buffered store of a core: bytes at an address (R326). -/
structure BufStore where
  addr : Nat
  bytes : List Byte
  /-- Retired stores survive an exception entry; speculative ones are discarded (R333). -/
  retired : Bool
  /-- The store depends on the loads of its core that had not bound their values when it was issued (R327). -/
  dependent : Bool
  deriving DecidableEq, Repr

/-- One line of the non-temporal combining buffer (R331): written bytes by mask. -/
structure NtLine where
  line : Nat
  mask : BitVec 64
  data : List Byte
  deriving DecidableEq, Repr

/-- MESI states of a held line; a line that is not held is I (R341). -/
inductive Mesi where
  | s
  | e
  | m
  deriving DecidableEq, Repr

/-- A line held by a cache. -/
structure CacheLine where
  line : Nat
  st : Mesi
  data : List Byte
  deriving DecidableEq, Repr

/-- What a core takes for an error (R334). -/
inductive CoreTaken where
  | none
  | busErrorLoad
  | busErrorStore
  | machineCheck
  | machineCheckAsync
  deriving DecidableEq, Repr

/-- The last value a core's load bound. -/
inductive LoadResult where
  | none
  | value (v : BitVec 64)
  | error
  deriving DecidableEq, Repr

/-- A cache miss of a core that waits for its home: the access that caused it (R346, R350), and of a load the bytes of its
line that the core's buffers held when it was issued, by mask (R326, R332). -/
structure CoreMiss where
  line : Nat
  addr : Nat
  size : Nat
  isStore : Bool
  mask : BitVec 64
  bytes : List Byte
  deriving DecidableEq, Repr

/-- An access, a barrier or a halt of a core that earlier ones hold back (R328 to R332). -/
inductive CoreOp where
  | load (addr size : Nat)
  | store (addr size : Nat) (value : BitVec 64)
  | stnt (addr size : Nat) (value : BitVec 64)
  | ordL
  | ordS
  | ordLs
  | halt
  | irqAck
  | irqEoi (vector : Nat)
  deriving DecidableEq, Repr

/-- A read of a core that waits for a device: PCIe MMIO, or a CXL device behind far memory (R334, R453). -/
structure CoreWait where
  addr : Nat
  size : Nat
  mask : BitVec 64
  bytes : List Byte
  deriving DecidableEq, Repr

/-- A physical core with its private caches, buffers and error state (R317 to R334). -/
structure Core where
  stores : List BufStore
  stnt : List NtLine
  /-- Lines of the L1I and of the L1D; an L2 holds every one of them (R318). -/
  l1i : List Nat
  l1d : List Nat
  l2 : List CacheLine
  misses : List CoreMiss
  /-- Accesses and barriers held back, in program order. -/
  queue : List CoreOp
  result : LoadResult
  /-- An error response to a store that no barrier has taken yet (R334). -/
  storeError : Option Nat
  taken : CoreTaken
  /-- Reads that wait for a device, oldest first. -/
  waiting : List CoreWait
  /-- Address at which the core last started (R323, R481). -/
  pc : Nat
  exceptions : Nat
  deriving DecidableEq, Repr

/-- One interrupt vector's routing entry (R336). -/
structure Vec where
  enable : Bool
  priority : Nat
  target : Nat
  pending : Bool
  inService : Option Nat
  deriving DecidableEq, Repr

/-! ### Engines (02 to 06) -/

/-- Numbers: exact dyadic values with the special values of IEEE 754. `fin neg m e` is (−1)^neg · m · 2^e. -/
inductive Num where
  | nan
  | inf (neg : Bool)
  | fin (neg : Bool) (m : Nat) (e : Int)
  deriving DecidableEq, Repr

/-- An engine address field of an op (R178): a line number, or an offset from a cursor. -/
inductive EAddr where
  | lit (line : Nat)
  | cur (c off : Nat)
  deriving DecidableEq, Repr

/-- An op word of a slot's stream (R176, R180, R183, R187 to R190), with its indirect fields already resolved at launch
(R126). -/
inductive Op where
  | end_
  | nop
  | loop (body count : Nat) (stepEn : Bool) (cursor : Nat) (step : Int)
  | cursor (c : Nat) (add : Bool) (value : Int)
  | wload (src scale : EAddr) (fmt blk gran rows cols : Nat)
  | matmul (add : Bool) (src acc scale : EAddr) (fmt blk gran m : Nat)
  | ribbon (add : Bool) (src acc scale : EAddr) (fmt blk gran n : Nat)
  | drain (close rewind dequant pitchW axisCol : Bool) (mode : Nat) (dst acc : EAddr) (ofmt blk slot rows cols k : Nat)
  | vector (dst a : EAddr) (b : EAddr) (bIndex vop bmode count : Nat)
  | reduce (clear : Bool) (src : EAddr) (acc func count last : Nat)
  | reduceRead (dst : EAddr) (accA accB post : Nat) (fmt64 : Bool) (l : Nat)
  | signal (token scope amount : Nat)
  | wait (token scope : Nat) (vcursor : Option Nat) (value : Nat)
  | phaseAnnounce (phase : Nat)
  | phaseBegin (phase : Nat)
  | rewindMark (streams : BitVec 64)
  | geometry (ribbon : Bool)
  | rcLoad (dst : EAddr) (binding offset lines : Nat) (cursor : Option Nat)
  | rcInvalidate
  deriving DecidableEq, Repr

/-- A MOVE word (R195). `srcCur`, `dstCur` are the cursors added to the offsets, `done` the done token and its scope. -/
structure MoveWord where
  srcNs : Bool
  srcIndex : Nat
  srcOff : Nat
  dstNs : Bool
  dstIndex : Nat
  dstOff : Nat
  rows : Nat
  cols : Nat
  fmt : Nat
  transform : Nat
  blk : Nat
  srcCur : Option Nat
  dstCur : Option Nat
  done : Option (Nat × Nat)
  aux : Nat
  auxOff : Nat
  paired : Bool
  deriving DecidableEq, Repr

/-- A word of a Finder stream: a control word, or a MOVE (R194). -/
inductive MWord where
  | ctl (o : Op)
  | move (w : MoveWord)
  deriving DecidableEq, Repr

/-- The operand that a WLOAD has loaded: codes in rows, with the scale bytes or the scale words of its layout (R41, R45,
R210, R211). -/
structure Tile where
  fmt : Nat
  blk : Nat
  gran : Nat
  rows : Nat
  cols : Nat
  codes : List (List Nat)
  scales : List Nat
  words : List (BitVec 32 × Int)
  deriving DecidableEq, Repr

/-- The last matrix op that wrote a range of the accumulator: entry `base + r·stride + c`, with the scale words that a
dequantising DRAIN takes from it (R185). -/
structure Writer where
  base : Nat
  stride : Nat
  rows : Nat
  cols : Nat
  integer : Bool
  actGran : Nat
  act : List (BitVec 32 × Int)
  wGran : Nat
  wgt : List (BitVec 32 × Int)
  actBlock : Bool
  wBlock : Bool
  deriving DecidableEq, Repr

/-- The overflow tag of an accumulator entry (R120) with the exact result that R111 and R117 use: for binary32 the sign
and the binary exponent of the exact result, for INT32 the exact result. An infinity that came from an infinite product is no
overflow (R83), and bears a tag of its own. -/
inductive OvfTag where
  | f32 (neg : Bool) (e : Int)
  | i32 (exact : Int)
  | product
  deriving DecidableEq, Repr

/-- A non-negative ratio m · 2^e / d (R117). -/
structure Ratio where
  m : Nat
  e : Int
  d : Nat
  deriving DecidableEq, Repr

/-- An open rewind region of an engine (R112 to R119). -/
structure Region where
  /-- Index in the slot's stream of the op after the mark. -/
  restart : Nat
  streams : BitVec 64
  attempt : Nat
  rOut : Nat
  rAcc : Nat
  /-- Bytes drained, as (engine-local address, bytes), in drain order: the commit buffer. -/
  buffer : List (Nat × List Byte)
  /-- Deferred SIGNALs in stream order: token, scope, amount (R114). -/
  deferred : List (Nat × Nat × Nat)
  /-- The overflow causes seen in this attempt (R110): whether the code-range cause is raised, the largest ratio of the
  region's delayed drains, the largest exponent of a binary32 overflow and the largest magnitude of an INT32 wrap. -/
  codeCause : Bool
  code : Option Ratio
  accExp : Option Int
  intMax : Option Nat
  /-- Saturations of this attempt by scale slot (R122), and the exponents of the scales written by slot (R105). -/
  sats : List (Nat × Nat)
  wrote : List (Nat × Int)
  slot : Nat
  /-- Bytes of the bank below this address the running commit has written, as lines of this group (R115, R263). -/
  written : Nat
  group : Nat
  deriving DecidableEq, Repr

/-- What holds an engine's or a Finder stream's next word back. -/
inductive Hold where
  | run
  /-- A pending WAIT: token and value. -/
  | wait (token value : Nat)
  /-- A WAIT held because the token unit was full (R143). -/
  | held (token value : Nat)
  /-- A WAIT on a remote token whose RELEASE has not come (R447). -/
  | remote (token value : Nat)
  /-- A translation stall on a page (R148). -/
  | xlate (page : Nat)
  /-- Read-cache fills outstanding (R261). -/
  | fill
  /-- RC_INVALIDATE waits for its invalidation (R189). -/
  | inval
  /-- A closing drain ended; COMMIT or REWIND follows (R115, R116). -/
  | decide (rewind : Bool)
  | committing
  | restarting
  /-- Stopped by the end of its launch (R152). -/
  | stopped
  deriving DecidableEq, Repr

/-- A running LOOP (R190): first and last index of its body, iterations left, cursor to step. -/
structure LoopSt where
  first : Nat
  last : Nat
  left : Nat
  stepEn : Bool
  cursor : Nat
  step : Int
  deriving DecidableEq, Repr

/-- The compute state of a physical engine beside its registers (R36 to R64, R101, R120, R131). -/
structure Engine where
  /-- Launch and slot placed here: context, sequence, slot. -/
  placed : Option (Nat × Nat × Nat)
  ribbon : Bool
  shadow : Option Tile
  active : Option Tile
  rowSums : SMap Int
  ovf : SMap OvfTag
  writers : List Writer
  redAcc : List (BitVec 64)
  vregs : SMap (BitVec 32)
  region : Option Region
  /-- r_out kept by the engine for later regions, by scale slot (R119). -/
  keptROut : List (Nat × Nat)
  /-- Operand store lost or in error: to be cleared before the next launch (R53). -/
  dirty : Bool
  /-- Held out of placement by a self-test (R66) or a requested retirement (R512). -/
  testing : Bool
  retiring : Bool
  /-- Phase in progress and announced phase (R146, R147). -/
  phase : Option Nat
  announced : Option Nat
  deriving DecidableEq, Repr

/-! ### Die read caches and token units -/

/-- What an RC_LOAD wants of a line: `len` bytes from byte `skip` of it, for an engine at an engine-local address. -/
structure Want where
  eng : Nat
  addr : Nat
  skip : Nat
  len : Nat
  deriving DecidableEq, Repr

/-- An outstanding read-cache fill: the line, whether an invalidation has intervened, what the RC_LOADs want that asked for
it, and the tag of its request where the line's home is on another device (R261). -/
structure Fill where
  line : Nat
  stale : Bool
  wants : List Want
  tag : Option Nat
  deriving DecidableEq, Repr

/-- A running invalidation of a read cache, by what started it (R260). -/
inductive InvalBy where
  | register
  | op (eng : Nat)
  deriving DecidableEq, Repr

/-- A die read cache (R258 to R262): installed lines with the data of their fill. -/
structure RdCache where
  lines : SMap (List Byte)
  fills : List Fill
  invals : List InvalBy
  deriving DecidableEq, Repr

/-- An allocated token counter (R137). -/
structure Counter where
  ctx : Nat
  seq : Nat
  token : Nat
  value : Nat
  deriving DecidableEq, Repr

/-- A pending WAIT of a token unit (R139). -/
structure PendWait where
  ctx : Nat
  seq : Nat
  token : Nat
  value : Nat
  agent : Agent
  /-- TOK_WAIT_LIMIT as it stood when the WAIT arrived. -/
  limit : Nat
  deriving DecidableEq, Repr

/-- A token unit: counters by physical number, pending WAITs and WAITs held at their requesters (R137, R143). -/
structure TokUnit where
  counters : SMap Counter
  waits : List PendWait
  held : List PendWait
  deriving DecidableEq, Repr

/-! ### Launches (05) -/

/-- Where a launch stands in the sequence of R129. -/
inductive Phase where
  /-- Steps 1 to 3: its image or pins wait for translations. -/
  | fetching
  /-- Step 4. -/
  | placing
  /-- Step 7. -/
  | tokens
  /-- Step 8 is under way. -/
  | preparing
  | running
  /-- An error has reached the front end; ends with a status and a detail (R152). -/
  | ended
  /-- Its units are released; its amax-history records are being updated (R155). -/
  | recording
  deriving DecidableEq, Repr

/-- A slot of a launch: its stream, declared needs and position (R165, R179). -/
structure Slot where
  ops : List Op
  nsGranules : Nat
  accGranules : Nat
  minWidth : Nat
  ribbon : Bool
  group : Nat
  /-- Placement: matrix die and physical engine. -/
  at_ : Option (Nat × Nat)
  pos : Nat
  cursors : List Int
  loops : List LoopSt
  hold : Hold
  finished : Bool
  deriving DecidableEq, Repr

/-- An issued move (R215). `marks` lists the slots whose mark the stream had received when it first issued. -/
structure Move where
  index : Nat
  word : MoveWord
  srcOff : Nat
  dstOff : Nat
  charge : Nat
  marks : List Nat
  /-- Stalled on a translation fault (R222). -/
  stalled : Bool
  /-- LEND_COUNT of its pages has been raised (R239). -/
  lent : Bool
  /-- The move has stalled and replays from its first line (R222); it has ended its request (R223); it has broken off at the stall
  that holds it. -/
  replay : Bool
  ended : Bool
  broke : Bool
  /-- Names its writes among those of its launch. -/
  tag : Nat
  deriving DecidableEq, Repr

/-- A Finder stream of a launch (R167, R203). -/
structure Stream where
  words : List MWord
  firstIndex : Nat
  staging : Nat
  at_ : Option (Nat × Nat × Nat)
  pos : Nat
  cursors : List Int
  loops : List LoopSt
  hold : Hold
  finished : Bool
  window : List Move
  /-- Cancelled moves to be reissued, oldest first (R220). -/
  reissue : List Move
  marks : List Nat
  /-- Marks and cancellations on their way, in the order sent: the slot, and whether it is a cancellation (R221). -/
  inbox : List (Nat × Bool)
  deriving DecidableEq, Repr

/-- A binding with its resolved address and length (R168). -/
structure Binding where
  va : Nat
  len : Nat
  pitch : Nat
  tier : Nat
  writable : Bool
  frozen : Bool
  fmt : Nat
  scaleBinding : Nat
  scaleKind : Nat
  scaleBlk : Nat
  deriving DecidableEq, Repr

/-- A token of a launch (R171): remote device and counter, or home slot with the initial value; `unit` is the matrix die
and the physical counter. -/
structure Token where
  initial : Nat
  home : Nat
  remote : Option (Nat × Nat)
  unit : Option (Nat × Nat)
  deriving DecidableEq, Repr

/-- A phase of the image (R172). -/
structure PhaseDef where
  handshakes : Nat
  array : Nat
  vector : Nat
  bank : Nat
  deriving DecidableEq, Repr

/-- A scale slot of a launch (R104, R108) with what the launch has gathered for its record (R111, R122). -/
structure ScaleSlot where
  fmt : Nat
  zero : Int
  history : Nat
  margin : Nat
  retry : Nat
  /-- log2 of the launch scale. -/
  scaleExp : Int
  /-- Largest |v| seen, exact: m · 2^e. -/
  amax : Option (Nat × Int)
  /-- Largest exponent of a scale written in a scale word. -/
  written : Option Int
  sats : Nat
  deriving DecidableEq, Repr

/-- A write of a launch to one line (R216, R252 to R257): its writer, the engine whose bank it went to if near store, and the
bytes of that store or of memory. -/
structure Fog where
  id : Nat
  writer : Agent
  engine : Option (Nat × Nat)
  lo : Nat
  hi : Nat
  /-- The line as it stood before; nothing where an issued move has yet to write it. -/
  old : List Byte
  done : Bool
  /-- The move, commit or DRAIN that it belongs to, and whether its lines become visible in the order written (R263). -/
  group : Nat
  rising : Bool
  /-- Agents that have acquired it, and agents that have read it as new. -/
  seen : List Agent
  read : List Agent
  deriving DecidableEq, Repr

/-- A SIGNAL that has been applied: the counter's value before it, and the writes that it released (R255 to R257). -/
structure Release where
  token : Nat
  scope : Nat
  before : Nat
  ids : List Nat
  deriving DecidableEq, Repr

/-- A launch in flight. -/
structure Launch where
  ctx : Nat
  seq : Nat
  phase : Phase
  ephId : BitVec 64
  budget : Nat
  amaxBinding : Option Nat
  reportBinding : Option Nat
  totalGranules : Nat
  maxLatency : Nat
  slots : List Slot
  streams : List Stream
  bindings : List Binding
  tokens : List Token
  phases : List PhaseDef
  scales : List ScaleSlot
  pool : List (BitVec 32)
  rewinds : Nat
  rewindReports : Nat
  sats : Nat
  /-- Errors on their way to the front end, first to arrive first: status and detail (R152). -/
  errs : List (Nat × BitVec 64)
  status : Nat
  detail : BitVec 64
  /-- Pages whose pin walk found no leaf for a read, or none for a write (R304). -/
  unpinned : List (Nat × Bool)
  /-- Pages whose pin walk found a leaf, with whether the leaf permits writes (R304). -/
  pinned : List (Nat × Bool)
  /-- The amax-history records: physical address of each, and its bytes at step 3 (R105, R106). -/
  hist : List (Nat × List Byte)
  /-- Launch scales are computed and tokens allocated: steps 5 to 7 have passed. -/
  ready : Bool
  /-- Position in the order of arrival at step 4 (R290). -/
  arrival : Nat
  /-- Waited beyond RESERVE_US and so reserves released units (R291). -/
  reserving : Bool
  reservedEngines : List (Nat × Nat)
  nsCharged : Bool
  /-- QFE_CTX_ROOT as it stood when the launch started its slots (R126). -/
  root : BitVec 64
  /-- Amax-history records updated so far (R155). -/
  recDone : Nat
  /-- Pages of tiered regions on which the launch has lent tiles, once for each lending move (R239). -/
  lends : List Nat
  fog : List Fog
  fogNext : Nat
  releases : List Release
  deriving DecidableEq, Repr

/-! ### Contexts and commands (10) -/

/-- A fetched descriptor (R272). -/
structure Desc where
  opcode : Nat
  flags : BitVec 8
  stamp : Nat
  count : Nat
  argA : BitVec 64
  argB : BitVec 64
  argC : BitVec 64
  raw : List Byte
  deriving DecidableEq, Repr

/-- Progress of a MOVE_PAGES entry (R235). -/
inductive PageStep where
  | check
  /-- Waits in step 2: page, destination home, and its place in the order of arrival there (R238). -/
  | ready (va : Nat) (dst : BitVec 64) (n : Nat)
  | copying (va : Nat) (dst : BitVec 64)
  | switched (old : BitVec 64)
  deriving DecidableEq, Repr

/-- A command between its fetch and its completion record. -/
structure Cmd where
  seq : Nat
  desc : Desc
  dispatched : Bool
  /-- List entries done, and where the current entry of a MOVE_PAGES stands. -/
  done : Nat
  page : PageStep
  /-- Pages that a MOVE_PAGES has moved (R238). -/
  moved : Nat
  /-- Assigned media pipeline, as port die and pipeline. -/
  pipe : Option (Nat × Nat)
  /-- The media job entry that is being carried out, as it was read, and the frames and bytes of output that it has completed
  (R460, R468). An ATTEST keeps its request and then its report in `entry`, and the address of a report that waits for a
  translation in `frames` (R502). -/
  entry : List Byte
  frames : Nat
  outBytes : Nat
  /-- Holds later commands of its context (R281). -/
  blocking : Bool
  stalled : Option Nat
  /-- Denied: the status and the fault record, until the command's own step ends it (R310). -/
  denied : Option (Nat × Nat)
  events : Bool
  /-- The Finder whose command context runs the command (R203, R205). -/
  finder : Option Nat
  /-- The status of a media entry whose result words wait to be written (R460). -/
  result : Option Nat
  /-- SYNC accepted, ATTEST accepted, the current entry of a MOVE has broken off. -/
  accepted : Bool
  deriving DecidableEq, Repr

/-- A context (R268): its QFE_CTX registers as words, ring counters, commands and quotas. -/
structure Ctx where
  cmdRing : BitVec 64
  cplRing : BitVec 64
  evtRing : BitVec 64
  root : BitVec 64
  attr : BitVec 64
  state : BitVec 64
  fetched : Nat
  tail : Nat
  cplHead : Nat
  cplTail : Nat
  evtHead : Nat
  evtTail : Nat
  /-- Refetches of the slot at `fetched` so far, or none (R278). -/
  stale : Option Nat
  cmds : List Cmd
  quota : List Nat
  used : List Nat
  deriving DecidableEq, Repr

/-! ### Tiers (08) -/

/-- A tiered region (R226, R231): first address, permission, page entries. -/
structure TRegion where
  ctx : Nat
  index : Nat
  va : Nat
  readOnly : Bool
  pages : List (BitVec 64)
  deriving DecidableEq, Repr

/-! ### Translation (11) -/

/-- A cached translation (R299). -/
structure Tlb where
  ctx : Nat
  va : Nat
  size : Nat
  frame : Nat
  write : Bool
  deriving DecidableEq, Repr

/-- Who asked for a translation. -/
inductive Requester where
  | agent (a : Agent) (ctx seq : Nat)
  | cmd (ctx seq : Nat)
  /-- The pin check of a launch: opens no fault (R304). -/
  | pin (ctx seq : Nat)
  | qp (pd n : Nat)
  deriving DecidableEq, Repr

/-- An outstanding walk (R301): its context, the root it starts from and its 4 KiB page, requesters with whether each writes,
and whether its result is to be discarded: an invalidation or a fault response came between (R309, R314). -/
structure Walk where
  ctx : Nat
  root : BitVec 64
  page : Nat
  reqs : List (Requester × Bool)
  discard : Bool
  deriving DecidableEq, Repr

/-- An open fault record (R305 to R308). -/
structure FaultRec where
  number : Nat
  ctx : Nat
  page : Nat
  access : BitVec 8
  cause : Nat
  waiters : List Requester
  firstUnit : Nat
  opened : Nat
  level : Nat
  part : Nat
  dma : Bool
  deriving DecidableEq, Repr

/-- A fault that waits for room in the queue (R311). -/
structure FaultWait where
  ctx : Nat
  page : Nat
  cause : Nat
  level : Nat
  req : Requester
  write : Bool
  deriving DecidableEq, Repr

/-- An entry of a walker's table cache (R314): the walker's host die, the context, the level of a table entry, the virtual
address that it covers, as a multiple of its span, and the table of the next level. -/
structure TableEnt where
  die : Nat
  ctx : Nat
  level : Nat
  span : Nat
  base : Nat
  deriving DecidableEq, Repr

/-- The hub translation cache arrays and the matrix-die caches; walks and faults. -/
structure Xlat where
  hub : SMap (List Tlb)
  die : SMap (List Tlb)
  walks : List Walk
  faults : List FaultRec
  waiting : List FaultWait
  /-- Translations that walks have found for requesters whose access goes on (R302). -/
  grants : List (Requester × Tlb)
  /-- Writes that a moving or lent page holds (R236, R239). -/
  held : List (Requester × Nat)
  /-- Invalidations running, by hub: context or all, first page and last page. -/
  invals : List (Nat × Option Nat × Nat × Nat × Bool)
  /-- The table caches of the walkers. -/
  tables : List TableEnt
  deriving DecidableEq, Repr

/-! ### Coherence (13) -/

/-- A directory entry (R344). -/
structure DirEntry where
  line : Nat
  em : Bool
  holders : BitVec 6
  deriving DecidableEq, Repr

/-- A request at a home (R346). -/
structure CohReq where
  code : Nat
  line : Nat
  holder : Nat
  unit : Nat
  target : Nat
  mask : BitVec 64
  data : List Byte
  clear : List Byte
  ecc : Ecc
  deriving DecidableEq, Repr

/-- An open transaction (R348): the line, the request, the holders whose answer is awaited, the holders that answered with
a copy that they keep. An eviction (R352) carries the request that needs the entry. -/
structure Txn where
  line : Nat
  req : CohReq
  waiting : List Nat
  kept : List Nat
  evict : Bool
  deriving DecidableEq, Repr

/-- A probe on its way to a holder: invalidation, or recall to S (R346). -/
structure ProbeMsg where
  home : Nat
  holder : Nat
  line : Nat
  inval : Bool
  /-- Its transaction has timed out (R356). -/
  late : Bool
  deriving DecidableEq, Repr

/-- A line, a grant or a poison on its way to a requester (R349, R350). -/
structure DataMsg where
  holder : Nat
  unit : Nat
  line : Nat
  st : Mesi
  poison : Bool
  data : List Byte
  deriving DecidableEq, Repr

/-- What a holder sends to a home (R345 to R347): a modified line, as an eviction or as the answer to a recall; the answer
that the line is not present; the answer that a clean copy was given up or kept in S. -/
inductive RespKind where
  | evicted (data : List Byte)
  | recalled (data : List Byte) (kept : Bool)
  | notPresent
  | clean (kept : Bool)
  deriving DecidableEq, Repr

/-- A response or a writeback on its way to the home (R347), in the order sent. -/
structure RespMsg where
  home : Nat
  holder : Nat
  line : Nat
  kind : RespKind
  /-- It was on its way, or answers a probe that was, when its line's transaction timed out (R356). -/
  late : Bool
  deriving DecidableEq, Repr

/-- One home: directory, oldest allocation first, open transactions, requests in arrival order behind them, the retry
queue, and requests held at their requesters because it is full (R352). -/
structure Home where
  dir : List DirEntry
  txns : List Txn
  queue : List CohReq
  retry : List CohReq
  held : List CohReq
  deriving DecidableEq, Repr

/-- The coherence fabric. -/
structure Coh where
  homes : SMap Home
  probes : List ProbeMsg
  data : List DataMsg
  resps : List RespMsg
  /-- L3 slices by host die, link caches by hub. -/
  l3 : SMap (List CacheLine)
  link : SMap (List CacheLine)
  /-- Values returned to RD_NC requesters, newest first: unit, line, poison, data. -/
  returned : List (Nat × Nat × Bool × List Byte)
  deriving DecidableEq, Repr

/-! ### Links (15) -/

/-- A message that waits at its requester to cross the links (R391): source die, agent, destination die, transaction ID, line
address, whether it is register or management traffic, channel, payload. -/
structure Parcel where
  src : Nat
  agent : Nat
  dest : Nat
  txn : BitVec 10
  line : Nat
  management : Bool
  chan : Nat
  payload : List Byte
  deriving DecidableEq, Repr

/-- A flit in a replay buffer: its bytes, how often it has been sent, and the message that it carries where one does (R390,
R392). -/
structure SentFlit where
  flit : List Byte
  times : Nat
  parcel : Option Parcel
  deriving DecidableEq, Repr

/-- A link port (R389, R390, R394): flit sequence numbers, the replay buffer and the training record. -/
structure LinkPort where
  lastSeq : Nat
  nextSeq : Nat
  /-- Unacknowledged flits, oldest first: the replay buffer (R390). -/
  sent : List SentFlit
  /-- Every flit that the port has put on the wire, oldest first. -/
  out : List (List Byte)
  /-- Flits sent on each channel whose credit has not come back (R390). -/
  used : SMap Nat
  nakPending : Bool
  /-- Payloads accepted, oldest first, each with its channel. -/
  delivered : List (Nat × List Byte)
  /-- This side's map and the other's, as the last agreement recorded them (R394). -/
  ownMap : Option (List Bool)
  record : Option (List Bool)
  /-- The frame that this side has sent in the training that runs, and the good set that it has computed (R394, R395). -/
  frame : Option TrainFrame
  good : Option (List Bool)
  /-- Attempts of this training that have disagreed (R396). -/
  disagreements : Nat
  deriving DecidableEq, Repr

/-! ### Network and expansion (17) -/

/-- A NAK that a queue pair has sent to its peer (R437, R441). -/
inductive Nak where
  | rnr
  | invalidRequest
  | remoteAccess
  deriving DecidableEq, Repr

/-- A frame of a peer that a queue pair serves (R437, R440, R441). -/
inductive Inbound where
  | send (data : List Byte) (imm : BitVec 32)
  | write (va : Nat) (data : List Byte) (imm : Option (BitVec 32))
  | read (va len : Nat)
  deriving DecidableEq, Repr

/-- A message of a work request on the wire (R438, R439). -/
structure RoceMsg where
  port : Nat
  op : Nat
  dstQpn : Nat
  remoteVa : Nat
  rKey : Nat
  imm : Nat
  srcGid : Nat
  dstGid : Nat
  dstMac : Nat
  tclass : Nat
  priority : Nat
  data : List Byte
  deriving DecidableEq, Repr

/-- A queue pair (R438). -/
structure Qp where
  state : Nat
  context : Nat
  ud : Bool
  port : Nat
  remoteQpn : Nat
  sqVa : Nat
  sqLog2 : Nat
  rqLog2 : Nat
  cqLog2 : Nat
  rKey : Nat
  rqVa : Nat
  cqPa : Nat
  winVa : Nat
  winLen : Nat
  irqVector : Nat
  recordPa : Nat
  tail : Nat
  head : Nat
  rqHead : Nat
  cqTail : Nat
  cqHead : Nat
  errStatus : Nat
  stalled : Option Nat
  rnr : Bool
  rate : Nat
  retransmits : Nat
  stale : Nat
  /-- NAKs and CNPs sent to the peer, the newest NAK last (R437, R441). -/
  naks : List Nak
  cnps : Nat
  /-- FLAGS of the request that runs, and the status with which it has ended while its record waits for space (R439, R440). -/
  flags : Nat
  ended : Option Nat
  /-- Frames of the peer that are held without loss, oldest first (R236). -/
  held : List Inbound
  dstMac : BitVec 48
  srcGid : BitVec 128
  dstGid : BitVec 128
  tclass : Nat
  pfcPriority : Nat
  deriving DecidableEq, Repr

/-- A frame kept until its hop acknowledges it (R444), with its kind. -/
structure TxFrame where
  kind : Nat
  frame : Frame
  tries : Nat
  deriving DecidableEq, Repr

/-- An Ethernet port's hop state in Agaelen mode (R443, R444). -/
structure FabricPort where
  rxSeq : Nat
  txSeq : Nat
  tx : List TxFrame
  /-- Frames that wait for the wire, with their kinds, the next one first (R449). -/
  queue : List (Nat × Frame)
  /-- Every frame that the port has put on the wire, oldest first (R443). -/
  out : List (List Byte)
  /-- Priorities that the link partner has paused (R435). -/
  paused : Nat
  deriving DecidableEq, Repr

/-- A fabric counter with the WAITs registered on it: device, tag, value (R446, R447). -/
structure FabCtr where
  value : Nat
  waits : List (Nat × Nat × Nat)
  deriving DecidableEq, Repr

/-- A request of this device to another (R445, R447): the kind of its frame, the address or counter, and what its response
has brought. -/
structure RemoteReq where
  tag : Nat
  kind : Nat
  dev : Nat
  req : Requester
  addr : Nat
  done : Bool
  data : List Byte
  /-- Of a SIGNAL: the detail with which its launch ends if the counter overflows (R141). -/
  detail : BitVec 64
  deriving DecidableEq, Repr

/-- The port dies beyond their registers. -/
structure Net where
  routes : SMap (BitVec 64)
  ctrs : SMap FabCtr
  qps : SMap Qp
  ports : SMap FabricPort
  remotes : List RemoteReq
  nextTag : Nat
  /-- Outstanding probes: tag, destination, time sent. -/
  probes : List (Nat × Nat × Nat)
  /-- Responses to PCIe requests: port, Unsupported Request, data. -/
  pcie : List (Nat × Bool × List Byte)
  /-- Messages that queue pairs have put on the wire, oldest first. -/
  roce : List RoceMsg
  deriving DecidableEq, Repr

/-! ### Power (16) -/

/-- An entry of the learning table (R419): key, E75 in picojoules, last use. -/
structure Learned where
  ephId : BitVec 64
  phase : Nat
  e75 : Nat
  used : Nat
  deriving DecidableEq, Repr

/-- The Heliostat's state beyond its registers. -/
structure Power where
  learn : List Learned
  /-- Share of each partition in watts, once an evaluation has set it (R418). -/
  shareW : SMap Nat
  /-- Demands on each pair's voltage in mV and gate in eighths, by die and rule. -/
  thermalMv : SMap Nat
  nearMv : SMap Nat
  shareMv : SMap Nat
  busMv : Nat
  clampMv : Nat
  /-- Gate in eighths that each matrix and near-store die asks for (R430). -/
  thermalGate : SMap Nat
  budgetGate : SMap Nat
  /-- Tenths of a degree by which a host die is in its band (R429). -/
  thermalCap : SMap Nat
  budgetCap : SMap Nat
  finderRate : SMap Nat
  thermalFinder : SMap Nat
  /-- Media pipelines that the thermal control pauses, by 12·port die + pipeline (R429). -/
  mediaPaused : SMap Bool
  /-- Port domains that are switched off, by unit ID (R413). -/
  domOff : List Nat
  capReq : Bool
  dip : Bool
  /-- Watts of each domain as last measured, by unit ID, and the host demand (R416, R418). -/
  domW : SMap Nat
  lastHost : Nat
  lastTemp : SMap Nat
  limitSetAt : SMap Nat
  thermalRaised : SMap Nat
  /-- Since when the package has been above its ceiling with every control at its limit (R422). -/
  unmetSince : Option Nat
  unmetRaised : Option Nat
  overSince : Option Nat
  excursionEnd : Option Nat
  /-- The engines' current in mA that the ramp limiter has let through, and the gate in eighths that it asks for (R410). -/
  rampMa : Nat
  rampGate : Nat
  /-- Slack reports a coordinator holds, by device: slack ns, watts, grant. -/
  reports : SMap (Nat × Nat × Nat)
  /-- Device time of each member's last report (R427). -/
  reportAt : SMap Nat
  grants : SMap Nat
  budgets : SMap Nat
  deriving DecidableEq, Repr

/-! ### Reset, persistence, security, events -/

/-- One event on its way to the Dome (R14, R516). -/
structure Event where
  time : Nat
  code : Nat
  severity : Nat
  source : Nat
  ctx : Nat
  detail : BitVec 128
  deriving DecidableEq, Repr

/-- A persistent register (R486 to R489): committed value, pending value, commits and whether its window is open. -/
structure Persist where
  value : BitVec 64
  pendingV : Option (BitVec 64)
  commits : Nat
  windowOpen : Bool
  deriving DecidableEq, Repr

/-- The kind of reset in progress (R479). -/
inductive ResetKind where
  | none
  | core
  | system
  | powerOn
  deriving DecidableEq, Repr

/-- Pins of the package that this manual gives a behaviour (R473 to R478, R522, R528, R534). Levels: true is high. -/
structure Pins where
  pwrGood : Bool
  sysRstDriven : Bool
  sysRstBoard : Bool
  capReqN : Bool
  thermAlertDriven : Bool
  tdoDriven : Bool
  highZ : Bool
  cells : BitVec 64
  /-- GPIO pins that are outputs (R544). -/
  gpioOut : BitVec 32
  /-- Which of REFCLK100_PD0, REFCLK100_PD1, REFCLK156_PD0 and REFCLK156_PD1 the board supplies (R532, R533). -/
  clocks : BitVec 4
  deriving DecidableEq, Repr

/-- The reset controller and the Dome's boot state. -/
structure Reset where
  kind : ResetKind
  /-- Partitions in a full reset, and partitions fenced after a failed link (R293, R400). -/
  parts : List Nat
  fenced : List Nat
  /-- Dies held in reset or powered off. -/
  deadDies : List Nat
  plate : Option Plate
  bootCores : List (Nat × Nat)
  stopped : Bool
  ddrUnmapped : Bool
  deriving DecidableEq, Repr

/-- A firmware update that has been verified: controller, COMMIT, digest and SVN of the image, and the units that have still
to switch (R504, R505). -/
structure Update where
  controller : Nat
  commit : Bool
  digest : BitVec 384
  svn : Nat
  left : List Nat
  deriving DecidableEq, Repr

/-- The security unit (R492 to R508). -/
structure Sec where
  /-- Digests of the owner keys that were programmed in the field (R492). -/
  keys : SMap (BitVec 384)
  mrs : SMap (BitVec 384)
  /-- SVN of the image that runs, by counter: 0 the plate, 1 to 4 the controllers (R498). -/
  svns : SMap Nat
  challenge : Option (BitVec 384)
  /-- ATTEST commands in order of arrival (R503). -/
  attests : List (Nat × Nat)
  /-- Controllers that run slot B (R504). -/
  firmwareB : BitVec 4
  /-- Measurement digest and SVN of what a firmware slot holds, by 2·(controller − 1) + slot (R504, R505). -/
  slots : SMap (BitVec 384 × Nat)
  /-- The extension that runs: register and digest (R500). -/
  extending : Option (Nat × BitVec 384)
  /-- The update that runs (R505). -/
  updating : Option Update
  deriving DecidableEq, Repr

/-- The event log and the trace (R516 to R523). -/
structure Evt where
  arriving : List Event
  waiting : List Event
  traceN : Nat
  deriving DecidableEq, Repr

/-- The JTAG port (R522). -/
structure Jtag where
  ir : Nat
  dr : BitVec 64
  deriving DecidableEq, Repr

/-- The state of the M9. -/
structure State where
  /-- Commands that wait, first in, first out: the model's own field. -/
  pending : List Instr
  /-- Device time in nanoseconds (R520). -/
  time : BitVec 64
  /-- Free values drawn so far: the model's own field. -/
  fresh : Nat
  regs : SMap (BitVec 64)
  fuses : SMap (BitVec 64)
  /-- Row-repair maps of the near-store banks: those in the fuses, and those that the last repair left in force, as row
  numbers, by bank (R69). -/
  rowFuses : SMap (List Nat)
  rowMap : SMap (List Nat)
  mem : Memory
  near : Memory
  ostore : Memory
  /-- Poisoned lines, by line address (R357). -/
  poison : List Nat
  /-- Lines whose stored bits have decayed since they were written, and whether the check bits can no longer correct them
  (R377). -/
  flaws : SMap Bool
  failedPcs : List Nat
  /-- Times of the corrected errors of the last hour, and of the last event 0x0F54, by pseudo-channel number, and 512 on by
  DDR channel (R378). -/
  ceLog : SMap (List Nat × Option Nat)
  /-- Device time at which the scrub pass of a memory die began, and that of the last recalibration of a unit (R378, R380). -/
  scrubFrom : SMap Nat
  recals : SMap Nat
  cores : SMap Core
  vecs : SMap Vec
  irqOut : List Nat
  engines : SMap Engine
  rdc : SMap RdCache
  tok : SMap TokUnit
  launches : List Launch
  ctxs : SMap Ctx
  rrNext : SMap Nat
  /-- MEDIA commands whose entry waits for a pipeline, in order of arrival: context, sequence (R469). -/
  mediaQ : List (Nat × Nat)
  regions : List TRegion
  xlat : Xlat
  coh : Coh
  links : SMap LinkPort
  parcels : List Parcel
  net : Net
  power : Power
  persist : SMap Persist
  rst : Reset
  pins : Pins
  /-- Failure codes of the lines "KM9 BOOT FAIL" that UART 0 has sent (R485). -/
  uart0 : List Nat
  sec : Sec
  evt : Evt
  jtag : Jtag
  ddr : DdrFound
  deriving DecidableEq, Repr

/-- The machine right after a power-on reset: every register at its reset value (none listed), every memory 0, every queue,
cache and table empty, time 0 (R11, R12, R69, R364, R479). -/
def State.reset : State where
  pending := []
  time := 0
  fresh := 0
  regs := []
  fuses := []
  rowFuses := []
  rowMap := []
  mem := []
  near := []
  ostore := []
  poison := []
  flaws := []
  failedPcs := []
  ceLog := []
  scrubFrom := []
  recals := []
  cores := []
  vecs := []
  irqOut := []
  engines := []
  rdc := []
  tok := []
  launches := []
  ctxs := []
  rrNext := []
  mediaQ := []
  regions := []
  xlat := ⟨[], [], [], [], [], [], [], [], []⟩
  coh := ⟨[], [], [], [], [], [], []⟩
  links := []
  parcels := []
  net := ⟨[], [], [], [], [], 0, [], [], []⟩
  power :=
    { learn := [], shareW := [], thermalMv := [], nearMv := [], shareMv := [], busMv := 0, clampMv := 0, thermalGate := [],
      budgetGate := [], thermalCap := [], budgetCap := [], finderRate := [], thermalFinder := [], mediaPaused := [], domOff := [],
      capReq := false, dip := false, domW := [], lastHost := 0, lastTemp := [], limitSetAt := [], thermalRaised := [], unmetSince := none, unmetRaised := none,
      overSince := none, excursionEnd := none, rampMa := 0, rampGate := 0, reports := [], reportAt := [], grants := [], budgets := [] }
  persist := []
  rst :=
    { kind := .powerOn, parts := [], fenced := [], deadDies := [], plate := none, bootCores := [],
      stopped := false, ddrUnmapped := false }
  pins :=
    { pwrGood := false, sysRstDriven := false, sysRstBoard := false, capReqN := true, thermAlertDriven := false,
      tdoDriven := false, highZ := false, cells := 0, gpioOut := 0, clocks := 0xF }
  uart0 := []
  sec :=
    { keys := [], mrs := [], svns := [], challenge := none, attests := [], firmwareB := 0, slots := [],
      extending := none, updating := none }
  evt := ⟨[], [], 0⟩
  jtag := ⟨2, 0⟩
  ddr :=
    { pop0 := 0, pop1 := 0, channelGib := 0, mts := 0, kind := 0, dpc := 0, identical := true, trained := true }

end Sys2Proof.Machine
end

