-- ==== Sys2Proof/Machine/Flags.lean ====
section
/-! DEFINITION. Exact arithmetic on dyadic numbers, the rounding points of R87, and the conditions that rounding raises:
overflow to infinity (R84, R85), wrap (R86), leaving a code range (R110). -/

namespace Sys2Proof.Machine

/-! ### Floating-point formats (R72) -/

/-- A floating-point format: widths of exponent and mantissa, bias, and which codes are special: 0 none, 1 only all-ones
NaN (E4M3), 2 as IEEE 754. -/
structure FloatFmt where
  eb : Nat
  mb : Nat
  bias : Int
  special : Nat
  deriving DecidableEq, Repr

def fE4M3 : FloatFmt := ⟨4, 3, 7, 1⟩
def fE5M2 : FloatFmt := ⟨5, 2, 15, 2⟩
def fE3M2 : FloatFmt := ⟨3, 2, 3, 0⟩
def fE2M3 : FloatFmt := ⟨2, 3, 1, 0⟩
def fE2M1 : FloatFmt := ⟨2, 1, 1, 0⟩
def fBf16 : FloatFmt := ⟨8, 7, 127, 2⟩
def fFp16 : FloatFmt := ⟨5, 10, 15, 2⟩
def f32 : FloatFmt := ⟨8, 23, 127, 2⟩
def f64 : FloatFmt := ⟨11, 52, 1023, 2⟩

/-- Exponent of the smallest normal value. -/
def FloatFmt.emin (f : FloatFmt) : Int := 1 - f.bias

/-- Exponent of the largest normal value. -/
def FloatFmt.emax (f : FloatFmt) : Int := 2 ^ f.eb - (if f.special = 2 then 2 else 1) - f.bias

/-- Mantissa, in units of 2^(emax − mb), of the largest finite value. -/
def FloatFmt.maxMant (f : FloatFmt) : Nat := 2 ^ (f.mb + 1) - (if f.special = 1 then 2 else 1)

/-- The largest finite value. -/
def FloatFmt.maxFin (f : FloatFmt) (neg : Bool) : Num := .fin neg f.maxMant (f.emax - f.mb)

/-- The value of a code (R72, R74). -/
def FloatFmt.decode (f : FloatFmt) (c : Nat) : Num :=
  let neg := c.testBit (f.eb + f.mb)
  let ex := (c >>> f.mb) % 2 ^ f.eb
  let ma := c % 2 ^ f.mb
  if f.special = 2 ∧ ex = 2 ^ f.eb - 1 then (if ma = 0 then .inf neg else .nan)
  else if f.special = 1 ∧ ex = 2 ^ f.eb - 1 ∧ ma = 2 ^ f.mb - 1 then .nan
  else if ex = 0 then .fin neg ma (f.emin - f.mb)
  else .fin neg (2 ^ f.mb + ma) (ex - f.bias - f.mb)

/-- The exponent *e* of R72: that of the smallest normal for a subnormal. -/
def FloatFmt.expOf (f : FloatFmt) (c : Nat) : Int := (max ((c >>> f.mb) % 2 ^ f.eb) 1 : Nat) - f.bias

/-- Whether a format holds infinities. -/
def FloatFmt.hasInf (f : FloatFmt) : Bool := f.special == 2

/-! ### Rounding -/

/-- A magnitude shifted right by `k`, to nearest, ties to even. -/
def rneShift (m k : Nat) : Nat :=
  let q := m >>> k
  let r := m % 2 ^ k
  if 2 * r > 2 ^ k ∨ (2 * r = 2 ^ k ∧ q % 2 = 1) then q + 1 else q

/-- `m · 2^e` as a multiple of 2^q, to nearest, ties to even. -/
def rneTo (m : Nat) (e q : Int) : Nat :=
  if q ≤ e then m * 2 ^ (e - q).toNat else rneShift m (q - e).toNat

/-- `m · 2^e` as a multiple of 2^q, toward zero. -/
def truncTo (m : Nat) (e q : Int) : Nat :=
  if q ≤ e then m * 2 ^ (e - q).toNat else m >>> (q - e).toNat

/-- `m · 2^e` as a multiple of 2^q, away from zero. -/
def ceilTo (m : Nat) (e q : Int) : Nat :=
  if q ≤ e then m * 2 ^ (e - q).toNat
  else (m + 2 ^ (q - e).toNat - 1) >>> (q - e).toNat

/-- The binary exponent of a non-zero magnitude. -/
def binExp (m : Nat) (e : Int) : Int := m.log2 + e

/-- The exponent of the last place at which a magnitude rounds: subnormals keep the smallest normal's. -/
def FloatFmt.quantum (f : FloatFmt) (m : Nat) (e : Int) : Int := max (binExp m e) f.emin - f.mb

/-- Round to a format's mantissa with an exponent unbounded above. -/
def FloatFmt.rneUp (f : FloatFmt) : Num → Num
  | .fin n m e => if m = 0 then .fin n 0 0 else .fin n (rneTo m e (f.quantum m e)) (f.quantum m e)
  | x => x

/-- Compare magnitudes: `a·2^x ≤ b·2^y`. -/
def magLe (a : Nat) (x : Int) (b : Nat) (y : Int) : Bool :=
  if x ≤ y then decide (a ≤ b * 2 ^ (y - x).toNat) else decide (a * 2 ^ (x - y).toNat ≤ b)

/-- Whether a finite value lies beyond a format's largest finite magnitude. -/
def FloatFmt.beyond (f : FloatFmt) : Num → Bool
  | .fin _ m e => !magLe m e f.maxMant (f.emax - f.mb)
  | _ => false

/-- Round to nearest even as IEEE 754: overflow gives infinity. -/
def FloatFmt.round (f : FloatFmt) (x : Num) : Num :=
  match x, f.rneUp x with
  | .fin n _ _, r => if f.beyond r then .inf n else r
  | y, _ => y

/-- Round and clamp to ±maxfin. -/
def FloatFmt.roundClamp (f : FloatFmt) (x : Num) : Num :=
  match x, f.rneUp x with
  | .fin n _ _, r => if f.beyond r then f.maxFin n else r
  | y, _ => y

/-- The code of a value that the format represents. A NaN is the positive quiet NaN with only the mantissa's highest bit
set (R62); E4M3 has only 0x7F. -/
def FloatFmt.encode (f : FloatFmt) : Num → Nat
  | .nan => if f.special = 2 then (2 ^ f.eb - 1) * 2 ^ f.mb + 2 ^ (f.mb - 1) else 2 ^ (f.eb + f.mb) - 1
  | .inf n => (if n then 2 ^ (f.eb + f.mb) else 0) + (2 ^ f.eb - 1) * 2 ^ f.mb
  | .fin n m e =>
    let s := if n then 2 ^ (f.eb + f.mb) else 0
    if m = 0 then s
    else
      let q := f.quantum m e
      let k := truncTo m e q
      if k < 2 ^ f.mb then s + k else s + ((q + f.mb + f.bias).toNat - 1) * 2 ^ f.mb + k

/-- Round and encode. -/
def FloatFmt.enc (f : FloatFmt) (x : Num) : Nat := f.encode (f.round x)

/-! ### Exact arithmetic -/

/-- The signed integer of a finite value in units of 2^q, for `q` not above its exponent. -/
def scaledInt (n : Bool) (m : Nat) (e q : Int) : Int :=
  let k : Int := (m * 2 ^ (e - q).toNat : Nat)
  if n then -k else k

/-- The number `i · 2^q`; zero is +0. -/
def ofInt (i q : Int) : Num := .fin (decide (i < 0)) i.natAbs q

/-- The exact product. -/
def Num.mul : Num → Num → Num
  | .fin a m e, .fin b n f => .fin (a != b) (m * n) (e + f)
  | .inf a, .inf b => .inf (a != b)
  | .inf a, .fin b n _ => if n = 0 then .nan else .inf (a != b)
  | .fin a m _, .inf b => if m = 0 then .nan else .inf (a != b)
  | .nan, _ => .nan
  | _, .nan => .nan

/-- The exact sum, with the signs of zero of IEEE 754 under rounding to nearest. -/
def Num.add : Num → Num → Num
  | .fin a m e, .fin b n f =>
    if m = 0 ∧ n = 0 then .fin (a && b) 0 0
    else
      let q := min e f
      ofInt (scaledInt a m e q + scaledInt b n f q) q
  | .inf a, .inf b => if a = b then .inf a else .nan
  | .inf a, .fin _ _ _ => .inf a
  | .fin _ _ _, .inf b => .inf b
  | .nan, _ => .nan
  | _, .nan => .nan

/-- The opposite. -/
def Num.neg : Num → Num
  | .fin a m e => .fin (!a) m e
  | .inf a => .inf (!a)
  | .nan => .nan

/-- Times 2^k. -/
def Num.shift (k : Int) : Num → Num
  | .fin a m e => .fin a m (e + k)
  | x => x

/-- Strictly less, with −0 below +0; false when either is NaN (R72, R187). -/
def Num.lt : Num → Num → Bool
  | .fin a m e, .fin b n f =>
    if m = 0 ∧ n = 0 then a && !b
    else
      let q := min e f
      decide (scaledInt a m e q < scaledInt b n f q)
  | .inf a, .inf b => a && !b
  | .inf a, .fin _ _ _ => a
  | .fin _ _ _, .inf b => !b
  | .nan, _ => false
  | _, .nan => false

/-- The larger, NaN if either is NaN. -/
def Num.max : Num → Num → Num
  | .nan, _ => .nan
  | _, .nan => .nan
  | x, y => if x.lt y then y else x

/-- The smaller, NaN if either is NaN. -/
def Num.min : Num → Num → Num
  | .nan, _ => .nan
  | _, .nan => .nan
  | x, y => if y.lt x then y else x

/-- Whether a value is NaN. -/
def Num.isNan : Num → Bool
  | .nan => true
  | _ => false

/-- A quotient by a positive integer, with a last bit that records an inexact remainder, so that one later rounding to at
most 64 bits is exact. -/
def Num.divNat (d : Nat) : Num → Num
  | .fin a m e =>
    if m = 0 then .fin a 0 0
    else
      let k := 160 + d.log2
      let n := m * 2 ^ k
      .fin a (2 * (n / d) + (if n % d = 0 then 0 else 1)) (e - k - 1)
  | x => x

/-- Least `n` with `m·2^e ≤ d·2^n`, for positive `m` and `d`: ceil(log2(m·2^e/d)). -/
def ceilLog2 (m : Nat) (e : Int) (d : Nat) : Int :=
  let n := (m.log2 : Int) - d.log2
  let n := if magLe m 0 d n then n else n + 1
  n + e

/-- Compare ratios: first at most second. -/
def Ratio.le (a b : Ratio) : Bool := magLe (a.m * b.d) a.e (b.m * a.d) b.e

/-- The larger of two ratios. -/
def Ratio.max (a b : Ratio) : Ratio := if a.le b then b else a

/-- The larger of a ratio that may be absent and another. -/
def maxRatio (a : Option Ratio) (b : Ratio) : Ratio :=
  match a with
  | some x => x.max b
  | none => b

/-- A ratio in binary32, rounded toward +∞ (ENG_PHO_LAST_OBSERVED). -/
def Ratio.f32Up (r : Ratio) : Nat :=
  if r.m = 0 then 0
  else
    let k := 64 + r.d.log2
    let n := r.m * 2 ^ k
    let m := (n + r.d - 1) / r.d
    let e := r.e - k
    let q := Machine.f32.quantum m e
    let x : Num := .fin false (ceilTo m e q) q
    f32.encode (if Machine.f32.beyond x then .inf false else x)

/-- A magnitude rounded up to BF16 and limited to the largest finite BF16 (R111). -/
def bf16Up (m : Nat) (e : Int) : Nat :=
  if m = 0 then 0
  else
    let q := fBf16.quantum m e
    let x : Num := .fin false (ceilTo m e q) q
    fBf16.encode (if fBf16.beyond x then fBf16.maxFin false else x)

/-! ### Integers -/

/-- The low 32 bits of an integer. -/
def low32 (i : Int) : Nat := (i % 2 ^ 32).toNat

/-- Whether an exact result lies outside INT32 (R86). -/
def wraps32 (i : Int) : Bool := decide (i < -2 ^ 31) || decide (2 ^ 31 ≤ i)

/-- An integer divided by 2^k, to nearest, ties to even (R118). -/
def rneDiv (i : Int) (k : Nat) : Int :=
  let q : Int := rneShift i.natAbs k
  if i < 0 then -q else q

/-- A value rounded to the nearest integer, ties to even (R87, R109). -/
def rneInt (n : Bool) (m : Nat) (e : Int) : Int :=
  let q : Int := rneTo m e 0
  if n then -q else q

end Sys2Proof.Machine
end

