-- ==== Sys2Proof/Config.lean ====
section
/-! DEFINITION. The free values, which are opaque constants with no body, and the sizes that several sections share. -/

namespace Sys2Proof.Config

/-! ### Free values -/

/-- A fresh free value for each counter value: nothing constrains it (DESIGN CHOICE, log 3). -/
opaque free : Nat → BitVec 64

/-- A value of a launch's data that the spec does not state, by the kind of value and its index: 0 an entry that no matrix op
has written, read by a dequantising DRAIN; 1 the row sum of a floating-point row; 2 the code of a padding element; 3 the
scale word of an entry that the last op of its range does not cover; 4 a near-store byte that its reader has not acquired; 5 a
byte of a flit's payload. It depends on nothing else, so that launches that R94
calls identical have identical results (logs 31, 39, 47, 139). -/
opaque unstated : Nat → Nat → BitVec 64

/-- Whether a write that a reader has not acquired is visible to it as it reads: reading, write (R253, log 180). -/
opaque sees : Nat → Nat → Bool

/-- SHA-384 (FIPS 180): the spec names it and does not define it (log 4). -/
opaque sha384 : List Byte → BitVec 384

/-- ECDSA verification over brainpoolP384r1 of a digest: public point, digest, signature (log 4). -/
opaque ecdsaVerify : List Byte → BitVec 384 → List Byte → Bool

/-- The identity key's signature of a digest: 96 bytes as one number (log 4). -/
opaque identitySign : BitVec 384 → BitVec 768

/-- The identity public key: 97 bytes as one number, first byte highest (log 4). -/
opaque identityKey : BitVec 776

/-- Digests of the keys that Kaonnar programs at manufacture: signing slots 0 and 1, debug keys 4 and 5 (R492). -/
opaque keyDigest : Nat → BitVec 384

/-- The certificate's byte `i` (R494). -/
opaque certByte : Nat → Byte

/-- Bytes of the certificate, at most 2,048. -/
opaque certLength : Nat

/-- The result of a special function before its error bound is applied (R63): function code, operand. -/
opaque special : Nat → BitVec 32 → BitVec 32

/-- What a bitstream's header declares (R458, R462): well-formed, its profile by its place among those that R458 names for the
codec, width, height, bit depth, chroma code. -/
opaque streamInfo : Nat → List Byte → Bool × Nat × Nat × Nat × Nat × Nat

/-- Samples of the `n`-th output frame of a bitstream, plane after plane; none past its end (log 5). -/
opaque frameSamples : Nat → List Byte → Nat → Option (List Nat)

/-- Whether the access units up to the `n`-th frame parse without error (R462). -/
opaque frameOk : Nat → List Byte → Nat → Bool

/-- The bitstream that an encode entry produces: codec, quantiser or bitrate, frames (log 5). -/
opaque encodeBits : Nat → Nat → Nat → List (List Nat) → List Byte

/-- The set of a home's directory that holds a line: home die, line address. The spec gives the ways and the entries of a
directory and no index function (R344, log 8). -/
opaque dirSet : Nat → Nat → Nat

/-- The vector of a hub's hint interrupt: the spec names the interrupt and no register that holds its vector (R249, log 35). -/
opaque hintVector : Nat → BitVec 16

/-- The set of a host cache or of a link cache that holds a line, by kind of cache: the spec gives sizes and ways and no index
function (R318, R341, log 156). -/
opaque cacheSet : Nat → Nat → Nat

/-- The set of a hub's translation array that holds a page: 0 for the large array and 1 for the small one, context, page. The
spec gives entries and ways and no index function (R299, log 36). -/
opaque tlbSet : Nat → Nat → Nat → Nat

/-- The entry format of the page tables is that of the K64 reference, which the spec does not hold (R296, log 131). By table
level and entry: what it is, 0 not present, 1 with reserved bits set, 2 a table and 3 a leaf; the number of its 4 KiB frame;
whether a leaf permits writes; and the entry once an access has used it, with the accessed bit, or for a write the dirty bit
too, set. -/
opaque pteKind : Nat → BitVec 64 → BitVec 2
opaque pteFrame : Nat → BitVec 64 → BitVec 36
opaque pteWrite : Nat → BitVec 64 → Bool
opaque pteUsed : Nat → BitVec 64 → Bool → BitVec 64

/-- The set of a die read cache that holds a line: the spec gives 8,192 sets and no index function (R258, log 143). -/
opaque readCacheSet : Nat → Nat

/-- The lowest voltage that supports a core frequency in 25 MHz units, as a number whose remainder by 401 is added to 650 mV
(R412, R415, log 137). -/
opaque coreGroupMv : Nat → BitVec 16

/-- The credits that a channel of a link holds at first, by channel, and the credits of a channel that a CREDITS field
returns: the spec gives the field and neither its format nor a number (R389, R390, log 164). -/
opaque linkCredits : Nat → Nat
opaque creditCount : BitVec 24 → Nat → Nat

/-- The transaction ID that an agent uses for all its writes to a home: agent, destination die (R391). -/
opaque writeTxn : Nat → Nat → BitVec 10

/-- Which of the dies that touch both ends carries traffic for which R401 names no route: source, destination (log 165). -/
opaque openRoute : Nat → Nat → Nat

/-- Widths of R49, R112, R258, R305, R516 and of the queues. -/
def accMax : Nat := 2 * 1024 * 1024
def commitMax : Nat := 1024 * 1024
def bankBytes : Nat := 64 * 1024 * 1024
def granule : Nat := 65536
def page2M : Nat := 2 * 1024 * 1024

end Sys2Proof.Config
end

