-- ==== Sys2Proof/Machine/RegMap.lean ====
section
/-! DEFINITION. The register map of the M9, register by register and field by field as the section files tabulate it
(R9, R11, R12, R26, R27 and the register map of every block). A field that is not listed is reserved (R10). -/

namespace Sys2Proof.Machine

/-- Access codes (R9). -/
inductive Acc where
  | ro | rw | wo | w1c | w1s | rc | rwp
  deriving DecidableEq, Repr

/-- Reset domains (R11). `partOrSys` is PART on hubs and SYS on host dies (COH block). -/
inductive Dom where
  | sys | por | part | none | partOrSys
  deriving DecidableEq, Repr

/-- The Reset column (R12): a literal, a fuse value, a plate setting, the strap, or a value that the persistent array
holds. -/
inductive Rst where
  | lit (n : Nat) | fuse | plate | strap | persist
  deriving DecidableEq, Repr

/-- Register blocks (R27). -/
inductive Blk where
  | dieB | engB | nstB | tokB | fndB | tierB | rdcB | qfeB | trcB | wlkB | coreB | irqB | cohB | hbmB | ddrB | lnkB | pwrB | pwdB | netB | pciB | medB | rstB | bootB | strapB | prsB | secB | evtB | timeB | dbgB
  deriving DecidableEq, Repr

/-- The registers. -/
inductive Reg where
  | dieId
  | dieStepping
  | dieEpoch
  | dieEpochEffective
  | dieGoodLo
  | dieGoodHi
  | diePartition
  | dieSerial
  | engStatus
  | engWidth
  | engColmapLo
  | engColmapHi
  | engBinding
  | engSelftest
  | engHsTotal
  | engHsActive
  | engHsStallFeed
  | engHsStallDrain
  | engErrStatus
  | engErrCount
  | nstCapacity
  | nstErrStatus
  | nstErrCount
  | nstLastError
  | nstBank
  | engPhoStatus
  | engPhoRewinds
  | engPhoSaturations
  | engPhoAccOvf
  | engPhoLastRewind
  | engPhoLastObserved
  | engPhoCommit
  | engPhoTest
  | tokCapacity
  | tokAlloc
  | tokWaitLimit
  | tokPending
  | tokSignals
  | tokWaits
  | tokErrStatus
  | tokErrCount
  | tokLastError
  | tokInspectSel
  | tokInspectVal
  | fndCapacity
  | fndUse
  | fndBytesRead
  | fndBytesWritten
  | fndMoves
  | fndCancels
  | fndErrStatus
  | fndErrCount
  | fndLastError
  | fndEngineStatus
  | tierCatalog
  | tierTimeout
  | tierHintRing
  | tierHintCtl
  | tierHintProd
  | tierHintCons
  | tierHintDropped
  | tierRegionVa
  | tierRegionList
  | tierRegionCmd
  | tierRegionResult
  | tierQuotaSel
  | tierQuotaVal
  | tierMoves
  | tierErrCount
  | rdcCapacity
  | rdcInvalidate
  | rdcLookups
  | rdcInvalidations
  | rdcFillsDropped
  | rdcErrStatus
  | rdcErrCount
  | qfeCapacity
  | qfeCtxSel
  | qfeCtxCmdRing
  | qfeCtxCplRing
  | qfeCtxEvtRing
  | qfeCtxRoot
  | qfeCtxAttr
  | qfeCtxState
  | qfeCtxSeq
  | qfeArb
  | qfeCount
  | trcCapacity
  | trcInvVa
  | trcInvCtl
  | trcLookups
  | trcSmall
  | trcDieFills
  | trcErrCount
  | wlkCapacity
  | wlkFaultRing
  | wlkFaultProd
  | wlkFaultCons
  | wlkFaultRespond
  | wlkFaultOpen
  | wlkFaultCount
  | wlkFaultExcept
  | wlkFaultIrq
  | wlkWalks
  | coreCapacity
  | coreCmd
  | coreStart
  | coreFarTimeout
  | coreState
  | coreFreq
  | coreClk
  | coreErrAddr
  | coreErrInfo
  | irqVecSel
  | irqVecCfg
  | irqIpi
  | irqCount
  | irqAck
  | irqEoi
  | cohCapacity
  | cohTimeout
  | cohOccupancy
  | cohRequests
  | cohWrites
  | cohProbes
  | cohDirEvict
  | cohStash
  | cohStashRecords
  | cohErrStatus
  | cohErrCount
  | cohLastTimeout
  | hbmMode
  | hbmStack
  | hbmRecovery
  | hbmBg
  | hbmStats
  | hbmScrubPass
  | hbmLastError
  | ddrPopulation
  | ddrBg
  | ddrStats
  | ddrScrubPass
  | ddrLastError
  | lnkCapacity
  | lnkRecal
  | lnkStackThermal
  | lnkPortCfg
  | lnkPortState
  | lnkPortCtl
  | lnkPortErr
  | lnkPortFlits
  | pwrCeiling
  | pwrRamp
  | pwrInput
  | pwrShare
  | pwrStatus
  | pwrLearn
  | pwrTherm
  | pwrJobCtl
  | pwrJobStatus
  | pwrDomain
  | pwdIdle
  | pwdGate
  | pwdPair
  | pwdEnergy
  | netDevice
  | netRouteSel
  | netRoute
  | netExport
  | netFctrSel
  | netFctrVal
  | netQpCtl
  | netQpSel
  | netQpDoorbell
  | netPortCfg
  | netPortState
  | pciBifurcation
  | pciRpState
  | pciRpDma
  | pciRpCxl
  | medCapacity
  | medPipe
  | medErrCount
  | rstCause
  | rstHist
  | rstCtl
  | rstPart
  | bootStatus
  | bootNext
  | strapStatus
  | prsStatus
  | prsPend
  | prsWearSel
  | prsWear
  | prsReg
  | secStatus
  | secKeyCtl
  | secMrSel
  | secMrVal
  | secMrData
  | secMrExtend
  | secRollback
  | secUpdate
  | secUpdateAddr
  | secUpdateLen
  | secDbgChallenge
  | secDbgResponse
  | secDbgKey
  | secDbgCtl
  | secCertSel
  | secCertData
  | evtLog
  | evtProd
  | evtCons
  | evtIrq
  | evtLost
  | timeNow
  | dbgCtl
  | dbgTrace
  | dbgIdcode
  | dbgService
  deriving DecidableEq, Repr

/-- Where a register lies in its block: offset, stride and number of instances, and its reset domain. -/
structure RegInfo where
  blk : Blk
  off : Nat
  stride : Nat
  cnt : Nat
  dom : Dom
  deriving DecidableEq, Repr

/-- A field of a register: bits [hi:lo], access code and reset entry. -/
structure Fld where
  reg : Reg
  hi : Nat
  lo : Nat
  acc : Acc
  rst : Rst
  deriving DecidableEq, Repr

/-- The placement of every register, from the headings of the register maps. -/
def Reg.info : Reg → RegInfo
  | .dieId => ⟨.dieB, 0x0, 0, 1, .none⟩
  | .dieStepping => ⟨.dieB, 0x8, 0, 1, .none⟩
  | .dieEpoch => ⟨.dieB, 0x10, 0, 1, .none⟩
  | .dieEpochEffective => ⟨.dieB, 0x18, 0, 1, .sys⟩
  | .dieGoodLo => ⟨.dieB, 0x20, 0, 1, .none⟩
  | .dieGoodHi => ⟨.dieB, 0x28, 0, 1, .none⟩
  | .diePartition => ⟨.dieB, 0x30, 0, 1, .por⟩
  | .dieSerial => ⟨.dieB, 0x38, 0, 1, .none⟩
  | .engStatus => ⟨.engB, 0x0, 0, 1, .part⟩
  | .engWidth => ⟨.engB, 0x8, 0, 1, .sys⟩
  | .engColmapLo => ⟨.engB, 0x10, 0, 1, .sys⟩
  | .engColmapHi => ⟨.engB, 0x18, 0, 1, .sys⟩
  | .engBinding => ⟨.engB, 0x20, 0, 1, .sys⟩
  | .engSelftest => ⟨.engB, 0x28, 0, 1, .sys⟩
  | .engHsTotal => ⟨.engB, 0x30, 0, 1, .part⟩
  | .engHsActive => ⟨.engB, 0x38, 0, 1, .part⟩
  | .engHsStallFeed => ⟨.engB, 0x40, 0, 1, .part⟩
  | .engHsStallDrain => ⟨.engB, 0x48, 0, 1, .part⟩
  | .engErrStatus => ⟨.engB, 0x50, 0, 1, .part⟩
  | .engErrCount => ⟨.engB, 0x58, 0, 1, .part⟩
  | .nstCapacity => ⟨.nstB, 0x0, 0, 1, .none⟩
  | .nstErrStatus => ⟨.nstB, 0x8, 0, 1, .part⟩
  | .nstErrCount => ⟨.nstB, 0x10, 0, 1, .part⟩
  | .nstLastError => ⟨.nstB, 0x18, 0, 1, .part⟩
  | .nstBank => ⟨.nstB, 0x100, 8, 32, .sys⟩
  | .engPhoStatus => ⟨.engB, 0x100, 0, 1, .part⟩
  | .engPhoRewinds => ⟨.engB, 0x108, 0, 1, .part⟩
  | .engPhoSaturations => ⟨.engB, 0x110, 0, 1, .part⟩
  | .engPhoAccOvf => ⟨.engB, 0x118, 0, 1, .part⟩
  | .engPhoLastRewind => ⟨.engB, 0x120, 0, 1, .part⟩
  | .engPhoLastObserved => ⟨.engB, 0x128, 0, 1, .part⟩
  | .engPhoCommit => ⟨.engB, 0x130, 0, 1, .part⟩
  | .engPhoTest => ⟨.engB, 0x138, 0, 1, .part⟩
  | .tokCapacity => ⟨.tokB, 0x0, 0, 1, .none⟩
  | .tokAlloc => ⟨.tokB, 0x8, 0, 1, .part⟩
  | .tokWaitLimit => ⟨.tokB, 0x10, 0, 1, .sys⟩
  | .tokPending => ⟨.tokB, 0x18, 0, 1, .part⟩
  | .tokSignals => ⟨.tokB, 0x20, 0, 1, .part⟩
  | .tokWaits => ⟨.tokB, 0x28, 0, 1, .part⟩
  | .tokErrStatus => ⟨.tokB, 0x30, 0, 1, .part⟩
  | .tokErrCount => ⟨.tokB, 0x38, 0, 1, .part⟩
  | .tokLastError => ⟨.tokB, 0x40, 0, 1, .part⟩
  | .tokInspectSel => ⟨.tokB, 0x48, 0, 1, .part⟩
  | .tokInspectVal => ⟨.tokB, 0x50, 0, 1, .part⟩
  | .fndCapacity => ⟨.fndB, 0x0, 0, 1, .none⟩
  | .fndUse => ⟨.fndB, 0x8, 0, 1, .part⟩
  | .fndBytesRead => ⟨.fndB, 0x10, 0, 1, .part⟩
  | .fndBytesWritten => ⟨.fndB, 0x18, 0, 1, .part⟩
  | .fndMoves => ⟨.fndB, 0x20, 0, 1, .part⟩
  | .fndCancels => ⟨.fndB, 0x28, 0, 1, .part⟩
  | .fndErrStatus => ⟨.fndB, 0x30, 0, 1, .part⟩
  | .fndErrCount => ⟨.fndB, 0x38, 0, 1, .part⟩
  | .fndLastError => ⟨.fndB, 0x40, 0, 1, .part⟩
  | .fndEngineStatus => ⟨.fndB, 0x100, 8, 16, .part⟩
  | .tierCatalog => ⟨.tierB, 0x0, 0, 1, .none⟩
  | .tierTimeout => ⟨.tierB, 0x8, 0, 1, .sys⟩
  | .tierHintRing => ⟨.tierB, 0x10, 0, 1, .sys⟩
  | .tierHintCtl => ⟨.tierB, 0x18, 0, 1, .sys⟩
  | .tierHintProd => ⟨.tierB, 0x20, 0, 1, .sys⟩
  | .tierHintCons => ⟨.tierB, 0x28, 0, 1, .sys⟩
  | .tierHintDropped => ⟨.tierB, 0x30, 0, 1, .sys⟩
  | .tierRegionVa => ⟨.tierB, 0x40, 0, 1, .sys⟩
  | .tierRegionList => ⟨.tierB, 0x48, 0, 1, .sys⟩
  | .tierRegionCmd => ⟨.tierB, 0x50, 0, 1, .sys⟩
  | .tierRegionResult => ⟨.tierB, 0x58, 0, 1, .sys⟩
  | .tierQuotaSel => ⟨.tierB, 0x60, 0, 1, .sys⟩
  | .tierQuotaVal => ⟨.tierB, 0x68, 0, 1, .part⟩
  | .tierMoves => ⟨.tierB, 0x70, 0, 1, .part⟩
  | .tierErrCount => ⟨.tierB, 0x78, 0, 1, .part⟩
  | .rdcCapacity => ⟨.rdcB, 0x0, 0, 1, .none⟩
  | .rdcInvalidate => ⟨.rdcB, 0x8, 0, 1, .part⟩
  | .rdcLookups => ⟨.rdcB, 0x10, 0, 1, .part⟩
  | .rdcInvalidations => ⟨.rdcB, 0x18, 0, 1, .part⟩
  | .rdcFillsDropped => ⟨.rdcB, 0x20, 0, 1, .part⟩
  | .rdcErrStatus => ⟨.rdcB, 0x28, 0, 1, .part⟩
  | .rdcErrCount => ⟨.rdcB, 0x30, 0, 1, .part⟩
  | .qfeCapacity => ⟨.qfeB, 0x0, 0, 1, .none⟩
  | .qfeCtxSel => ⟨.qfeB, 0x8, 0, 1, .sys⟩
  | .qfeCtxCmdRing => ⟨.qfeB, 0x10, 0, 1, .part⟩
  | .qfeCtxCplRing => ⟨.qfeB, 0x18, 0, 1, .part⟩
  | .qfeCtxEvtRing => ⟨.qfeB, 0x20, 0, 1, .part⟩
  | .qfeCtxRoot => ⟨.qfeB, 0x28, 0, 1, .part⟩
  | .qfeCtxAttr => ⟨.qfeB, 0x30, 0, 1, .part⟩
  | .qfeCtxState => ⟨.qfeB, 0x38, 0, 1, .part⟩
  | .qfeCtxSeq => ⟨.qfeB, 0x40, 0, 1, .part⟩
  | .qfeArb => ⟨.qfeB, 0x48, 0, 1, .sys⟩
  | .qfeCount => ⟨.qfeB, 0x50, 0, 1, .part⟩
  | .trcCapacity => ⟨.trcB, 0x0, 0, 1, .none⟩
  | .trcInvVa => ⟨.trcB, 0x8, 0, 1, .sys⟩
  | .trcInvCtl => ⟨.trcB, 0x10, 0, 1, .sys⟩
  | .trcLookups => ⟨.trcB, 0x18, 0, 1, .part⟩
  | .trcSmall => ⟨.trcB, 0x20, 0, 1, .part⟩
  | .trcDieFills => ⟨.trcB, 0x28, 0, 1, .part⟩
  | .trcErrCount => ⟨.trcB, 0x30, 0, 1, .part⟩
  | .wlkCapacity => ⟨.wlkB, 0x0, 0, 1, .none⟩
  | .wlkFaultRing => ⟨.wlkB, 0x8, 0, 1, .sys⟩
  | .wlkFaultProd => ⟨.wlkB, 0x10, 0, 1, .sys⟩
  | .wlkFaultCons => ⟨.wlkB, 0x18, 0, 1, .sys⟩
  | .wlkFaultRespond => ⟨.wlkB, 0x20, 0, 1, .sys⟩
  | .wlkFaultOpen => ⟨.wlkB, 0x28, 0, 1, .sys⟩
  | .wlkFaultCount => ⟨.wlkB, 0x30, 0, 1, .sys⟩
  | .wlkFaultExcept => ⟨.wlkB, 0x38, 0, 1, .sys⟩
  | .wlkFaultIrq => ⟨.wlkB, 0x40, 0, 1, .sys⟩
  | .wlkWalks => ⟨.wlkB, 0x48, 0, 1, .sys⟩
  | .coreCapacity => ⟨.coreB, 0x0, 0, 1, .none⟩
  | .coreCmd => ⟨.coreB, 0x8, 0, 1, .sys⟩
  | .coreStart => ⟨.coreB, 0x10, 0, 1, .sys⟩
  | .coreFarTimeout => ⟨.coreB, 0x18, 0, 1, .sys⟩
  | .coreState => ⟨.coreB, 0x1000, 64, 100, .por⟩
  | .coreFreq => ⟨.coreB, 0x1008, 64, 100, .sys⟩
  | .coreClk => ⟨.coreB, 0x1010, 64, 100, .sys⟩
  | .coreErrAddr => ⟨.coreB, 0x1018, 64, 100, .sys⟩
  | .coreErrInfo => ⟨.coreB, 0x1020, 64, 100, .sys⟩
  | .irqVecSel => ⟨.irqB, 0x0, 0, 1, .sys⟩
  | .irqVecCfg => ⟨.irqB, 0x8, 0, 1, .sys⟩
  | .irqIpi => ⟨.irqB, 0x10, 0, 1, .sys⟩
  | .irqCount => ⟨.irqB, 0x18, 0, 1, .sys⟩
  | .irqAck => ⟨.irqB, 0x1000, 16, 100, .sys⟩
  | .irqEoi => ⟨.irqB, 0x1008, 16, 100, .sys⟩
  | .cohCapacity => ⟨.cohB, 0x0, 0, 1, .none⟩
  | .cohTimeout => ⟨.cohB, 0x8, 0, 1, .sys⟩
  | .cohOccupancy => ⟨.cohB, 0x10, 0, 1, .partOrSys⟩
  | .cohRequests => ⟨.cohB, 0x18, 0, 1, .partOrSys⟩
  | .cohWrites => ⟨.cohB, 0x20, 0, 1, .partOrSys⟩
  | .cohProbes => ⟨.cohB, 0x28, 0, 1, .partOrSys⟩
  | .cohDirEvict => ⟨.cohB, 0x30, 0, 1, .partOrSys⟩
  | .cohStash => ⟨.cohB, 0x38, 0, 1, .partOrSys⟩
  | .cohStashRecords => ⟨.cohB, 0x40, 0, 1, .sys⟩
  | .cohErrStatus => ⟨.cohB, 0x48, 0, 1, .partOrSys⟩
  | .cohErrCount => ⟨.cohB, 0x50, 0, 1, .partOrSys⟩
  | .cohLastTimeout => ⟨.cohB, 0x58, 0, 1, .partOrSys⟩
  | .hbmMode => ⟨.hbmB, 0x0, 0, 1, .por⟩
  | .hbmStack => ⟨.hbmB, 0x8, 8, 4, .por⟩
  | .hbmRecovery => ⟨.hbmB, 0x28, 0, 1, .none⟩
  | .hbmBg => ⟨.hbmB, 0x30, 0, 1, .sys⟩
  | .hbmStats => ⟨.hbmB, 0x38, 0, 1, .part⟩
  | .hbmScrubPass => ⟨.hbmB, 0x40, 0, 1, .part⟩
  | .hbmLastError => ⟨.hbmB, 0x48, 0, 1, .part⟩
  | .ddrPopulation => ⟨.ddrB, 0x0, 0, 1, .por⟩
  | .ddrBg => ⟨.ddrB, 0x8, 0, 1, .sys⟩
  | .ddrStats => ⟨.ddrB, 0x10, 0, 1, .sys⟩
  | .ddrScrubPass => ⟨.ddrB, 0x18, 0, 1, .sys⟩
  | .ddrLastError => ⟨.ddrB, 0x20, 0, 1, .sys⟩
  | .lnkCapacity => ⟨.lnkB, 0x0, 0, 1, .none⟩
  | .lnkRecal => ⟨.lnkB, 0x8, 0, 1, .sys⟩
  | .lnkStackThermal => ⟨.lnkB, 0x10, 0, 1, .sys⟩
  | .lnkPortCfg => ⟨.lnkB, 0x100, 64, 16, .none⟩
  | .lnkPortState => ⟨.lnkB, 0x108, 64, 16, .sys⟩
  | .lnkPortCtl => ⟨.lnkB, 0x110, 64, 16, .sys⟩
  | .lnkPortErr => ⟨.lnkB, 0x118, 64, 16, .sys⟩
  | .lnkPortFlits => ⟨.lnkB, 0x120, 64, 16, .sys⟩
  | .pwrCeiling => ⟨.pwrB, 0x0, 0, 1, .sys⟩
  | .pwrRamp => ⟨.pwrB, 0x8, 0, 1, .sys⟩
  | .pwrInput => ⟨.pwrB, 0x10, 0, 1, .sys⟩
  | .pwrShare => ⟨.pwrB, 0x18, 0, 1, .sys⟩
  | .pwrStatus => ⟨.pwrB, 0x20, 0, 1, .sys⟩
  | .pwrLearn => ⟨.pwrB, 0x28, 0, 1, .sys⟩
  | .pwrTherm => ⟨.pwrB, 0x30, 0, 1, .sys⟩
  | .pwrJobCtl => ⟨.pwrB, 0x38, 0, 1, .sys⟩
  | .pwrJobStatus => ⟨.pwrB, 0x40, 0, 1, .sys⟩
  | .pwrDomain => ⟨.pwrB, 0x48, 0, 1, .sys⟩
  | .pwdIdle => ⟨.pwdB, 0x0, 0, 1, .sys⟩
  | .pwdGate => ⟨.pwdB, 0x8, 0, 1, .part⟩
  | .pwdPair => ⟨.pwdB, 0x100, 8, 17, .part⟩
  | .pwdEnergy => ⟨.pwdB, 0x200, 8, 17, .part⟩
  | .netDevice => ⟨.netB, 0x0, 0, 1, .sys⟩
  | .netRouteSel => ⟨.netB, 0x8, 0, 1, .sys⟩
  | .netRoute => ⟨.netB, 0x10, 0, 1, .sys⟩
  | .netExport => ⟨.netB, 0x18, 0, 1, .sys⟩
  | .netFctrSel => ⟨.netB, 0x20, 0, 1, .sys⟩
  | .netFctrVal => ⟨.netB, 0x28, 0, 1, .sys⟩
  | .netQpCtl => ⟨.netB, 0x30, 0, 1, .sys⟩
  | .netQpSel => ⟨.netB, 0x38, 0, 1, .sys⟩
  | .netQpDoorbell => ⟨.netB, 0x40, 0, 1, .sys⟩
  | .netPortCfg => ⟨.netB, 0x100, 64, 4, .sys⟩
  | .netPortState => ⟨.netB, 0x108, 64, 4, .sys⟩
  | .pciBifurcation => ⟨.pciB, 0x0, 0, 1, .por⟩
  | .pciRpState => ⟨.pciB, 0x100, 64, 8, .sys⟩
  | .pciRpDma => ⟨.pciB, 0x108, 64, 8, .sys⟩
  | .pciRpCxl => ⟨.pciB, 0x110, 64, 8, .sys⟩
  | .medCapacity => ⟨.medB, 0x0, 0, 1, .none⟩
  | .medPipe => ⟨.medB, 0x100, 8, 12, .sys⟩
  | .medErrCount => ⟨.medB, 0x10, 0, 1, .sys⟩
  | .rstCause => ⟨.rstB, 0x0, 0, 1, .por⟩
  | .rstHist => ⟨.rstB, 0x100, 8, 16, .por⟩
  | .rstCtl => ⟨.rstB, 0x8, 0, 1, .sys⟩
  | .rstPart => ⟨.rstB, 0x10, 0, 1, .sys⟩
  | .bootStatus => ⟨.bootB, 0x0, 0, 1, .sys⟩
  | .bootNext => ⟨.bootB, 0x8, 0, 1, .por⟩
  | .strapStatus => ⟨.strapB, 0x0, 0, 1, .por⟩
  | .prsStatus => ⟨.prsB, 0x0, 0, 1, .sys⟩
  | .prsPend => ⟨.prsB, 0x10, 8, 4, .sys⟩
  | .prsWearSel => ⟨.prsB, 0x30, 0, 1, .sys⟩
  | .prsWear => ⟨.prsB, 0x38, 0, 1, .none⟩
  | .prsReg => ⟨.prsB, 0x800, 8, 256, .none⟩
  | .secStatus => ⟨.secB, 0x0, 0, 1, .por⟩
  | .secKeyCtl => ⟨.secB, 0x8, 0, 1, .sys⟩
  | .secMrSel => ⟨.secB, 0x10, 0, 1, .sys⟩
  | .secMrVal => ⟨.secB, 0x18, 8, 6, .sys⟩
  | .secMrData => ⟨.secB, 0x48, 8, 6, .sys⟩
  | .secMrExtend => ⟨.secB, 0x78, 0, 1, .sys⟩
  | .secRollback => ⟨.secB, 0x80, 0, 1, .sys⟩
  | .secUpdate => ⟨.secB, 0x88, 0, 1, .sys⟩
  | .secUpdateAddr => ⟨.secB, 0x90, 0, 1, .sys⟩
  | .secUpdateLen => ⟨.secB, 0x98, 0, 1, .sys⟩
  | .secDbgChallenge => ⟨.secB, 0xA0, 8, 6, .por⟩
  | .secDbgResponse => ⟨.secB, 0xD0, 8, 12, .por⟩
  | .secDbgKey => ⟨.secB, 0x200, 8, 13, .por⟩
  | .secDbgCtl => ⟨.secB, 0x130, 0, 1, .por⟩
  | .secCertSel => ⟨.secB, 0x138, 0, 1, .sys⟩
  | .secCertData => ⟨.secB, 0x140, 0, 1, .none⟩
  | .evtLog => ⟨.evtB, 0x0, 0, 1, .sys⟩
  | .evtProd => ⟨.evtB, 0x8, 0, 1, .sys⟩
  | .evtCons => ⟨.evtB, 0x10, 0, 1, .sys⟩
  | .evtIrq => ⟨.evtB, 0x18, 0, 1, .sys⟩
  | .evtLost => ⟨.evtB, 0x20, 0, 1, .sys⟩
  | .timeNow => ⟨.timeB, 0x0, 0, 1, .por⟩
  | .dbgCtl => ⟨.dbgB, 0x0, 0, 1, .por⟩
  | .dbgTrace => ⟨.dbgB, 0x8, 0, 1, .por⟩
  | .dbgIdcode => ⟨.dbgB, 0x10, 0, 1, .none⟩
  | .dbgService => ⟨.dbgB, 0x18, 0, 1, .sys⟩

/-- 01: DIE_ID [39:32] DIE_TYPE. -/
def Fl.DIE_ID_DIE_TYPE : Fld := ⟨.dieId, 39, 32, .ro, .fuse⟩
/-- 01: DIE_ID [31:16] PART_CODE. -/
def Fl.DIE_ID_PART_CODE : Fld := ⟨.dieId, 31, 16, .ro, .fuse⟩
/-- 01: DIE_ID [4:0] DIE_NUMBER. -/
def Fl.DIE_ID_DIE_NUMBER : Fld := ⟨.dieId, 4, 0, .ro, .fuse⟩
/-- 01: DIE_STEPPING [23:16] PACKAGE_STEPPING. -/
def Fl.DIE_STEPPING_PACKAGE_STEPPING : Fld := ⟨.dieStepping, 23, 16, .ro, .fuse⟩
/-- 01: DIE_STEPPING [15:8] STEPPING. -/
def Fl.DIE_STEPPING_STEPPING : Fld := ⟨.dieStepping, 15, 8, .ro, .fuse⟩
/-- 01: DIE_STEPPING [7:0] METAL_REV. -/
def Fl.DIE_STEPPING_METAL_REV : Fld := ⟨.dieStepping, 7, 0, .ro, .fuse⟩
/-- 01: DIE_EPOCH [7:0] FEATURE_EPOCH. -/
def Fl.DIE_EPOCH_FEATURE_EPOCH : Fld := ⟨.dieEpoch, 7, 0, .ro, .fuse⟩
/-- 01: DIE_EPOCH_EFFECTIVE [63:63] VALID. -/
def Fl.DIE_EPOCH_EFFECTIVE_VALID : Fld := ⟨.dieEpochEffective, 63, 63, .ro, (.lit 0)⟩
/-- 01: DIE_EPOCH_EFFECTIVE [47:16] FEATURES_DISABLED. -/
def Fl.DIE_EPOCH_EFFECTIVE_FEATURES_DISABLED : Fld := ⟨.dieEpochEffective, 47, 16, .ro, (.lit 0)⟩
/-- 01: DIE_EPOCH_EFFECTIVE [7:0] EFFECTIVE_EPOCH. -/
def Fl.DIE_EPOCH_EFFECTIVE_EFFECTIVE_EPOCH : Fld := ⟨.dieEpochEffective, 7, 0, .ro, (.lit 0)⟩
/-- 01: DIE_GOOD_LO [63:0] GOOD. -/
def Fl.DIE_GOOD_LO_GOOD : Fld := ⟨.dieGoodLo, 63, 0, .ro, .fuse⟩
/-- 01: DIE_GOOD_HI [35:0] GOOD. -/
def Fl.DIE_GOOD_HI_GOOD : Fld := ⟨.dieGoodHi, 35, 0, .ro, .fuse⟩
/-- 01: DIE_PARTITION [9:8] MODE. -/
def Fl.DIE_PARTITION_MODE : Fld := ⟨.diePartition, 9, 8, .ro, .plate⟩
/-- 01: DIE_PARTITION [3:0] PARTITION. -/
def Fl.DIE_PARTITION_PARTITION : Fld := ⟨.diePartition, 3, 0, .ro, .plate⟩
/-- 01: DIE_SERIAL [63:0] SERIAL. -/
def Fl.DIE_SERIAL_SERIAL : Fld := ⟨.dieSerial, 63, 0, .ro, .fuse⟩
/-- 02: ENG_STATUS [63:48] CONTEXT. -/
def Fl.ENG_STATUS_CONTEXT : Fld := ⟨.engStatus, 63, 48, .ro, (.lit 0)⟩
/-- 02: ENG_STATUS [47:40] SLOT. -/
def Fl.ENG_STATUS_SLOT : Fld := ⟨.engStatus, 47, 40, .ro, (.lit 0)⟩
/-- 02: ENG_STATUS [7:7] PLACED. -/
def Fl.ENG_STATUS_PLACED : Fld := ⟨.engStatus, 7, 7, .ro, (.lit 0)⟩
/-- 02: ENG_STATUS [6:6] ARRAY_BUSY. -/
def Fl.ENG_STATUS_ARRAY_BUSY : Fld := ⟨.engStatus, 6, 6, .ro, (.lit 0)⟩
/-- 02: ENG_STATUS [5:5] VECTOR_BUSY. -/
def Fl.ENG_STATUS_VECTOR_BUSY : Fld := ⟨.engStatus, 5, 5, .ro, (.lit 0)⟩
/-- 02: ENG_STATUS [4:4] GEOMETRY. -/
def Fl.ENG_STATUS_GEOMETRY : Fld := ⟨.engStatus, 4, 4, .ro, (.lit 0)⟩
/-- 02: ENG_STATUS [3:2] ROLE. -/
def Fl.ENG_STATUS_ROLE : Fld := ⟨.engStatus, 3, 2, .ro, .fuse⟩
/-- 02: ENG_WIDTH [15:8] PRESENTED_WIDTH. -/
def Fl.ENG_WIDTH_PRESENTED_WIDTH : Fld := ⟨.engWidth, 15, 8, .ro, .fuse⟩
/-- 02: ENG_WIDTH [7:0] BAD_COUNT. -/
def Fl.ENG_WIDTH_BAD_COUNT : Fld := ⟨.engWidth, 7, 0, .ro, .fuse⟩
/-- 02: ENG_COLMAP_LO [63:0] BYPASS. -/
def Fl.ENG_COLMAP_LO_BYPASS : Fld := ⟨.engColmapLo, 63, 0, .ro, .fuse⟩
/-- 02: ENG_COLMAP_HI [63:0] BYPASS. -/
def Fl.ENG_COLMAP_HI_BYPASS : Fld := ⟨.engColmapHi, 63, 0, .ro, .fuse⟩
/-- 02: ENG_BINDING [15:8] BANK. -/
def Fl.ENG_BINDING_BANK : Fld := ⟨.engBinding, 15, 8, .ro, (.lit 255)⟩
/-- 02: ENG_BINDING [4:0] POWER_DOMAIN. -/
def Fl.ENG_BINDING_POWER_DOMAIN : Fld := ⟨.engBinding, 4, 0, .ro, .fuse⟩
/-- 02: ENG_SELFTEST [63:63] DONE. -/
def Fl.ENG_SELFTEST_DONE : Fld := ⟨.engSelftest, 63, 63, .ro, (.lit 0)⟩
/-- 02: ENG_SELFTEST [62:62] PASS. -/
def Fl.ENG_SELFTEST_PASS : Fld := ⟨.engSelftest, 62, 62, .ro, (.lit 0)⟩
/-- 02: ENG_SELFTEST [61:61] REJECTED. -/
def Fl.ENG_SELFTEST_REJECTED : Fld := ⟨.engSelftest, 61, 61, .ro, (.lit 0)⟩
/-- 02: ENG_SELFTEST [55:48] NEW_BAD. -/
def Fl.ENG_SELFTEST_NEW_BAD : Fld := ⟨.engSelftest, 55, 48, .ro, (.lit 0)⟩
/-- 02: ENG_SELFTEST [0:0] START. -/
def Fl.ENG_SELFTEST_START : Fld := ⟨.engSelftest, 0, 0, .w1s, (.lit 0)⟩
/-- 02: ENG_HS_TOTAL [47:0] COUNT. -/
def Fl.ENG_HS_TOTAL_COUNT : Fld := ⟨.engHsTotal, 47, 0, .ro, (.lit 0)⟩
/-- 02: ENG_HS_ACTIVE [47:0] COUNT. -/
def Fl.ENG_HS_ACTIVE_COUNT : Fld := ⟨.engHsActive, 47, 0, .ro, (.lit 0)⟩
/-- 02: ENG_HS_STALL_FEED [47:0] COUNT. -/
def Fl.ENG_HS_STALL_FEED_COUNT : Fld := ⟨.engHsStallFeed, 47, 0, .ro, (.lit 0)⟩
/-- 02: ENG_HS_STALL_DRAIN [47:0] COUNT. -/
def Fl.ENG_HS_STALL_DRAIN_COUNT : Fld := ⟨.engHsStallDrain, 47, 0, .ro, (.lit 0)⟩
/-- 02: ENG_ERR_STATUS [5:5] SELFTEST_FAIL. -/
def Fl.ENG_ERR_STATUS_SELFTEST_FAIL : Fld := ⟨.engErrStatus, 5, 5, .w1c, (.lit 0)⟩
/-- 02: ENG_ERR_STATUS [4:4] BANK_UE. -/
def Fl.ENG_ERR_STATUS_BANK_UE : Fld := ⟨.engErrStatus, 4, 4, .w1c, (.lit 0)⟩
/-- 02: ENG_ERR_STATUS [3:3] ACC_UE. -/
def Fl.ENG_ERR_STATUS_ACC_UE : Fld := ⟨.engErrStatus, 3, 3, .w1c, (.lit 0)⟩
/-- 02: ENG_ERR_STATUS [2:2] ACC_CE. -/
def Fl.ENG_ERR_STATUS_ACC_CE : Fld := ⟨.engErrStatus, 2, 2, .w1c, (.lit 0)⟩
/-- 02: ENG_ERR_STATUS [1:1] OS_UE. -/
def Fl.ENG_ERR_STATUS_OS_UE : Fld := ⟨.engErrStatus, 1, 1, .w1c, (.lit 0)⟩
/-- 02: ENG_ERR_STATUS [0:0] OS_CE. -/
def Fl.ENG_ERR_STATUS_OS_CE : Fld := ⟨.engErrStatus, 0, 0, .w1c, (.lit 0)⟩
/-- 02: ENG_ERR_COUNT [31:16] CE. -/
def Fl.ENG_ERR_COUNT_CE : Fld := ⟨.engErrCount, 31, 16, .rc, (.lit 0)⟩
/-- 02: ENG_ERR_COUNT [15:0] UE. -/
def Fl.ENG_ERR_COUNT_UE : Fld := ⟨.engErrCount, 15, 0, .rc, (.lit 0)⟩
/-- 02: NST_CAPACITY [47:32] SPARE_ROWS. -/
def Fl.NST_CAPACITY_SPARE_ROWS : Fld := ⟨.nstCapacity, 47, 32, .ro, .fuse⟩
/-- 02: NST_CAPACITY [31:16] ROWS. -/
def Fl.NST_CAPACITY_ROWS : Fld := ⟨.nstCapacity, 31, 16, .ro, .fuse⟩
/-- 02: NST_CAPACITY [15:8] BANK_MIB. -/
def Fl.NST_CAPACITY_BANK_MIB : Fld := ⟨.nstCapacity, 15, 8, .ro, .fuse⟩
/-- 02: NST_CAPACITY [7:0] BANKS. -/
def Fl.NST_CAPACITY_BANKS : Fld := ⟨.nstCapacity, 7, 0, .ro, .fuse⟩
/-- 02: NST_ERR_STATUS [1:1] UE. -/
def Fl.NST_ERR_STATUS_UE : Fld := ⟨.nstErrStatus, 1, 1, .w1c, (.lit 0)⟩
/-- 02: NST_ERR_STATUS [0:0] CE. -/
def Fl.NST_ERR_STATUS_CE : Fld := ⟨.nstErrStatus, 0, 0, .w1c, (.lit 0)⟩
/-- 02: NST_ERR_COUNT [31:16] CE. -/
def Fl.NST_ERR_COUNT_CE : Fld := ⟨.nstErrCount, 31, 16, .rc, (.lit 0)⟩
/-- 02: NST_ERR_COUNT [15:0] UE. -/
def Fl.NST_ERR_COUNT_UE : Fld := ⟨.nstErrCount, 15, 0, .rc, (.lit 0)⟩
/-- 02: NST_LAST_ERROR [63:62] KIND. -/
def Fl.NST_LAST_ERROR_KIND : Fld := ⟨.nstLastError, 63, 62, .ro, (.lit 0)⟩
/-- 02: NST_LAST_ERROR [52:48] BANK. -/
def Fl.NST_LAST_ERROR_BANK : Fld := ⟨.nstLastError, 52, 48, .ro, (.lit 0)⟩
/-- 02: NST_LAST_ERROR [45:32] ROW. -/
def Fl.NST_LAST_ERROR_ROW : Fld := ⟨.nstLastError, 45, 32, .ro, (.lit 0)⟩
/-- 02: NST_LAST_ERROR [8:0] WORD. -/
def Fl.NST_LAST_ERROR_WORD : Fld := ⟨.nstLastError, 8, 0, .ro, (.lit 0)⟩
/-- 02: NST_BANK [63:62] STATE. -/
def Fl.NST_BANK_STATE : Fld := ⟨.nstBank, 63, 62, .ro, (.lit 0)⟩
/-- 02: NST_BANK [47:40] ENGINE. -/
def Fl.NST_BANK_ENGINE : Fld := ⟨.nstBank, 47, 40, .ro, (.lit 255)⟩
/-- 02: NST_BANK [7:0] SPARES_USED. -/
def Fl.NST_BANK_SPARES_USED : Fld := ⟨.nstBank, 7, 0, .ro, (.lit 0)⟩
/-- 04: ENG_PHO_STATUS [47:40] R_OUT. -/
def Fl.ENG_PHO_STATUS_R_OUT : Fld := ⟨.engPhoStatus, 47, 40, .ro, (.lit 0)⟩
/-- 04: ENG_PHO_STATUS [39:32] R_ACC. -/
def Fl.ENG_PHO_STATUS_R_ACC : Fld := ⟨.engPhoStatus, 39, 32, .ro, (.lit 0)⟩
/-- 04: ENG_PHO_STATUS [31:24] SCALE_SLOT. -/
def Fl.ENG_PHO_STATUS_SCALE_SLOT : Fld := ⟨.engPhoStatus, 31, 24, .ro, (.lit 0)⟩
/-- 04: ENG_PHO_STATUS [17:16] ATTEMPT. -/
def Fl.ENG_PHO_STATUS_ATTEMPT : Fld := ⟨.engPhoStatus, 17, 16, .ro, (.lit 0)⟩
/-- 04: ENG_PHO_STATUS [3:3] COMMITTING. -/
def Fl.ENG_PHO_STATUS_COMMITTING : Fld := ⟨.engPhoStatus, 3, 3, .ro, (.lit 0)⟩
/-- 04: ENG_PHO_STATUS [2:2] OVF_PENDING. -/
def Fl.ENG_PHO_STATUS_OVF_PENDING : Fld := ⟨.engPhoStatus, 2, 2, .ro, (.lit 0)⟩
/-- 04: ENG_PHO_STATUS [1:1] IN_REGION. -/
def Fl.ENG_PHO_STATUS_IN_REGION : Fld := ⟨.engPhoStatus, 1, 1, .ro, (.lit 0)⟩
/-- 04: ENG_PHO_STATUS [0:0] DELAYED. -/
def Fl.ENG_PHO_STATUS_DELAYED : Fld := ⟨.engPhoStatus, 0, 0, .ro, (.lit 0)⟩
/-- 04: ENG_PHO_REWINDS [31:0] COUNT. -/
def Fl.ENG_PHO_REWINDS_COUNT : Fld := ⟨.engPhoRewinds, 31, 0, .rc, (.lit 0)⟩
/-- 04: ENG_PHO_SATURATIONS [31:0] COUNT. -/
def Fl.ENG_PHO_SATURATIONS_COUNT : Fld := ⟨.engPhoSaturations, 31, 0, .rc, (.lit 0)⟩
/-- 04: ENG_PHO_ACC_OVF [31:16] INT32. -/
def Fl.ENG_PHO_ACC_OVF_INT32 : Fld := ⟨.engPhoAccOvf, 31, 16, .rc, (.lit 0)⟩
/-- 04: ENG_PHO_ACC_OVF [15:0] BINARY32. -/
def Fl.ENG_PHO_ACC_OVF_BINARY32 : Fld := ⟨.engPhoAccOvf, 15, 0, .rc, (.lit 0)⟩
/-- 04: ENG_PHO_LAST_REWIND [63:48] CONTEXT. -/
def Fl.ENG_PHO_LAST_REWIND_CONTEXT : Fld := ⟨.engPhoLastRewind, 63, 48, .ro, (.lit 0)⟩
/-- 04: ENG_PHO_LAST_REWIND [47:40] SLOT. -/
def Fl.ENG_PHO_LAST_REWIND_SLOT : Fld := ⟨.engPhoLastRewind, 47, 40, .ro, (.lit 0)⟩
/-- 04: ENG_PHO_LAST_REWIND [39:32] SCALE_SLOT. -/
def Fl.ENG_PHO_LAST_REWIND_SCALE_SLOT : Fld := ⟨.engPhoLastRewind, 39, 32, .ro, (.lit 0)⟩
/-- 04: ENG_PHO_LAST_REWIND [31:24] K. -/
def Fl.ENG_PHO_LAST_REWIND_K : Fld := ⟨.engPhoLastRewind, 31, 24, .ro, (.lit 0)⟩
/-- 04: ENG_PHO_LAST_REWIND [17:16] ATTEMPT. -/
def Fl.ENG_PHO_LAST_REWIND_ATTEMPT : Fld := ⟨.engPhoLastRewind, 17, 16, .ro, (.lit 0)⟩
/-- 04: ENG_PHO_LAST_REWIND [2:2] CAUSE_INT32. -/
def Fl.ENG_PHO_LAST_REWIND_CAUSE_INT32 : Fld := ⟨.engPhoLastRewind, 2, 2, .ro, (.lit 0)⟩
/-- 04: ENG_PHO_LAST_REWIND [1:1] CAUSE_BINARY32. -/
def Fl.ENG_PHO_LAST_REWIND_CAUSE_BINARY32 : Fld := ⟨.engPhoLastRewind, 1, 1, .ro, (.lit 0)⟩
/-- 04: ENG_PHO_LAST_REWIND [0:0] CAUSE_CODE. -/
def Fl.ENG_PHO_LAST_REWIND_CAUSE_CODE : Fld := ⟨.engPhoLastRewind, 0, 0, .ro, (.lit 0)⟩
/-- 04: ENG_PHO_LAST_OBSERVED [31:0] RHO. -/
def Fl.ENG_PHO_LAST_OBSERVED_RHO : Fld := ⟨.engPhoLastObserved, 31, 0, .ro, (.lit 0)⟩
/-- 04: ENG_PHO_COMMIT [52:32] HIGH_WATER. -/
def Fl.ENG_PHO_COMMIT_HIGH_WATER : Fld := ⟨.engPhoCommit, 52, 32, .ro, (.lit 0)⟩
/-- 04: ENG_PHO_COMMIT [20:0] USED. -/
def Fl.ENG_PHO_COMMIT_USED : Fld := ⟨.engPhoCommit, 20, 0, .ro, (.lit 0)⟩
/-- 04: ENG_PHO_TEST [1:1] REJECTED. -/
def Fl.ENG_PHO_TEST_REJECTED : Fld := ⟨.engPhoTest, 1, 1, .ro, (.lit 0)⟩
/-- 04: ENG_PHO_TEST [0:0] INJECT. -/
def Fl.ENG_PHO_TEST_INJECT : Fld := ⟨.engPhoTest, 0, 0, .w1s, (.lit 0)⟩
/-- 05: TOK_CAPACITY [31:16] WAIT_ENTRIES. -/
def Fl.TOK_CAPACITY_WAIT_ENTRIES : Fld := ⟨.tokCapacity, 31, 16, .ro, .fuse⟩
/-- 05: TOK_CAPACITY [15:0] COUNTERS. -/
def Fl.TOK_CAPACITY_COUNTERS : Fld := ⟨.tokCapacity, 15, 0, .ro, .fuse⟩
/-- 05: TOK_ALLOC [47:32] LAUNCHES. -/
def Fl.TOK_ALLOC_LAUNCHES : Fld := ⟨.tokAlloc, 47, 32, .ro, (.lit 0)⟩
/-- 05: TOK_ALLOC [31:16] HIGH_WATER. -/
def Fl.TOK_ALLOC_HIGH_WATER : Fld := ⟨.tokAlloc, 31, 16, .ro, (.lit 0)⟩
/-- 05: TOK_ALLOC [15:0] ALLOCATED. -/
def Fl.TOK_ALLOC_ALLOCATED : Fld := ⟨.tokAlloc, 15, 0, .ro, (.lit 0)⟩
/-- 05: TOK_WAIT_LIMIT [15:0] LIMIT_MS. -/
def Fl.TOK_WAIT_LIMIT_LIMIT_MS : Fld := ⟨.tokWaitLimit, 15, 0, .rw, (.lit 10000)⟩
/-- 05: TOK_PENDING [26:16] HIGH_WATER. -/
def Fl.TOK_PENDING_HIGH_WATER : Fld := ⟨.tokPending, 26, 16, .ro, (.lit 0)⟩
/-- 05: TOK_PENDING [10:0] COUNT. -/
def Fl.TOK_PENDING_COUNT : Fld := ⟨.tokPending, 10, 0, .ro, (.lit 0)⟩
/-- 05: TOK_SIGNALS [31:0] COUNT. -/
def Fl.TOK_SIGNALS_COUNT : Fld := ⟨.tokSignals, 31, 0, .rc, (.lit 0)⟩
/-- 05: TOK_WAITS [63:32] HELD. -/
def Fl.TOK_WAITS_HELD : Fld := ⟨.tokWaits, 63, 32, .rc, (.lit 0)⟩
/-- 05: TOK_WAITS [31:0] COUNT. -/
def Fl.TOK_WAITS_COUNT : Fld := ⟨.tokWaits, 31, 0, .rc, (.lit 0)⟩
/-- 05: TOK_ERR_STATUS [1:1] WAIT_TIMEOUT. -/
def Fl.TOK_ERR_STATUS_WAIT_TIMEOUT : Fld := ⟨.tokErrStatus, 1, 1, .w1c, (.lit 0)⟩
/-- 05: TOK_ERR_STATUS [0:0] OVERFLOW. -/
def Fl.TOK_ERR_STATUS_OVERFLOW : Fld := ⟨.tokErrStatus, 0, 0, .w1c, (.lit 0)⟩
/-- 05: TOK_ERR_COUNT [31:16] WAIT_TIMEOUT. -/
def Fl.TOK_ERR_COUNT_WAIT_TIMEOUT : Fld := ⟨.tokErrCount, 31, 16, .rc, (.lit 0)⟩
/-- 05: TOK_ERR_COUNT [15:0] OVERFLOW. -/
def Fl.TOK_ERR_COUNT_OVERFLOW : Fld := ⟨.tokErrCount, 15, 0, .rc, (.lit 0)⟩
/-- 05: TOK_LAST_ERROR [63:48] CONTEXT. -/
def Fl.TOK_LAST_ERROR_CONTEXT : Fld := ⟨.tokLastError, 63, 48, .ro, (.lit 0)⟩
/-- 05: TOK_LAST_ERROR [35:24] TOKEN. -/
def Fl.TOK_LAST_ERROR_TOKEN : Fld := ⟨.tokLastError, 35, 24, .ro, (.lit 0)⟩
/-- 05: TOK_LAST_ERROR [23:16] SOURCE. -/
def Fl.TOK_LAST_ERROR_SOURCE : Fld := ⟨.tokLastError, 23, 16, .ro, (.lit 0)⟩
/-- 05: TOK_LAST_ERROR [8:8] SOURCE_FINDER. -/
def Fl.TOK_LAST_ERROR_SOURCE_FINDER : Fld := ⟨.tokLastError, 8, 8, .ro, (.lit 0)⟩
/-- 05: TOK_LAST_ERROR [7:0] CODE. -/
def Fl.TOK_LAST_ERROR_CODE : Fld := ⟨.tokLastError, 7, 0, .ro, (.lit 0)⟩
/-- 05: TOK_INSPECT_SEL [12:0] COUNTER. -/
def Fl.TOK_INSPECT_SEL_COUNTER : Fld := ⟨.tokInspectSel, 12, 0, .rw, (.lit 0)⟩
/-- 05: TOK_INSPECT_VAL [63:63] ALLOCATED. -/
def Fl.TOK_INSPECT_VAL_ALLOCATED : Fld := ⟨.tokInspectVal, 63, 63, .ro, (.lit 0)⟩
/-- 05: TOK_INSPECT_VAL [47:32] CONTEXT. -/
def Fl.TOK_INSPECT_VAL_CONTEXT : Fld := ⟨.tokInspectVal, 47, 32, .ro, (.lit 0)⟩
/-- 05: TOK_INSPECT_VAL [31:0] VALUE. -/
def Fl.TOK_INSPECT_VAL_VALUE : Fld := ⟨.tokInspectVal, 31, 0, .ro, (.lit 0)⟩
/-- 07: FND_CAPACITY [31:24] WINDOW. -/
def Fl.FND_CAPACITY_WINDOW : Fld := ⟨.fndCapacity, 31, 24, .ro, .fuse⟩
/-- 07: FND_CAPACITY [23:16] CMD_CONTEXTS. -/
def Fl.FND_CAPACITY_CMD_CONTEXTS : Fld := ⟨.fndCapacity, 23, 16, .ro, .fuse⟩
/-- 07: FND_CAPACITY [15:8] CONTEXTS. -/
def Fl.FND_CAPACITY_CONTEXTS : Fld := ⟨.fndCapacity, 15, 8, .ro, .fuse⟩
/-- 07: FND_CAPACITY [7:0] FINDERS. -/
def Fl.FND_CAPACITY_FINDERS : Fld := ⟨.fndCapacity, 7, 0, .ro, .fuse⟩
/-- 07: FND_USE [23:16] HIGH_WATER. -/
def Fl.FND_USE_HIGH_WATER : Fld := ⟨.fndUse, 23, 16, .ro, (.lit 0)⟩
/-- 07: FND_USE [6:0] BUSY. -/
def Fl.FND_USE_BUSY : Fld := ⟨.fndUse, 6, 0, .ro, (.lit 0)⟩
/-- 07: FND_BYTES_READ [63:0] COUNT. -/
def Fl.FND_BYTES_READ_COUNT : Fld := ⟨.fndBytesRead, 63, 0, .ro, (.lit 0)⟩
/-- 07: FND_BYTES_WRITTEN [63:0] COUNT. -/
def Fl.FND_BYTES_WRITTEN_COUNT : Fld := ⟨.fndBytesWritten, 63, 0, .ro, (.lit 0)⟩
/-- 07: FND_MOVES [63:32] ISSUED. -/
def Fl.FND_MOVES_ISSUED : Fld := ⟨.fndMoves, 63, 32, .rc, (.lit 0)⟩
/-- 07: FND_MOVES [31:0] DONE. -/
def Fl.FND_MOVES_DONE : Fld := ⟨.fndMoves, 31, 0, .rc, (.lit 0)⟩
/-- 07: FND_CANCELS [63:32] REPLAYED. -/
def Fl.FND_CANCELS_REPLAYED : Fld := ⟨.fndCancels, 63, 32, .rc, (.lit 0)⟩
/-- 07: FND_CANCELS [31:0] CANCELLED. -/
def Fl.FND_CANCELS_CANCELLED : Fld := ⟨.fndCancels, 31, 0, .rc, (.lit 0)⟩
/-- 07: FND_ERR_STATUS [6:6] BUF_UE. -/
def Fl.FND_ERR_STATUS_BUF_UE : Fld := ⟨.fndErrStatus, 6, 6, .w1c, (.lit 0)⟩
/-- 07: FND_ERR_STATUS [5:5] BUF_CE. -/
def Fl.FND_ERR_STATUS_BUF_CE : Fld := ⟨.fndErrStatus, 5, 5, .w1c, (.lit 0)⟩
/-- 07: FND_ERR_STATUS [4:4] GATHER. -/
def Fl.FND_ERR_STATUS_GATHER : Fld := ⟨.fndErrStatus, 4, 4, .w1c, (.lit 0)⟩
/-- 07: FND_ERR_STATUS [3:3] QUOTA. -/
def Fl.FND_ERR_STATUS_QUOTA : Fld := ⟨.fndErrStatus, 3, 3, .w1c, (.lit 0)⟩
/-- 07: FND_ERR_STATUS [2:2] TIER. -/
def Fl.FND_ERR_STATUS_TIER : Fld := ⟨.fndErrStatus, 2, 2, .w1c, (.lit 0)⟩
/-- 07: FND_ERR_STATUS [1:1] POISON. -/
def Fl.FND_ERR_STATUS_POISON : Fld := ⟨.fndErrStatus, 1, 1, .w1c, (.lit 0)⟩
/-- 07: FND_ERR_STATUS [0:0] ADDRESS. -/
def Fl.FND_ERR_STATUS_ADDRESS : Fld := ⟨.fndErrStatus, 0, 0, .w1c, (.lit 0)⟩
/-- 07: FND_ERR_COUNT [31:16] CE. -/
def Fl.FND_ERR_COUNT_CE : Fld := ⟨.fndErrCount, 31, 16, .rc, (.lit 0)⟩
/-- 07: FND_ERR_COUNT [15:0] ERRORS. -/
def Fl.FND_ERR_COUNT_ERRORS : Fld := ⟨.fndErrCount, 15, 0, .rc, (.lit 0)⟩
/-- 07: FND_LAST_ERROR [63:48] CONTEXT. -/
def Fl.FND_LAST_ERROR_CONTEXT : Fld := ⟨.fndLastError, 63, 48, .ro, (.lit 0)⟩
/-- 07: FND_LAST_ERROR [47:44] FINDER. -/
def Fl.FND_LAST_ERROR_FINDER : Fld := ⟨.fndLastError, 47, 44, .ro, (.lit 0)⟩
/-- 07: FND_LAST_ERROR [40:40] COMMAND. -/
def Fl.FND_LAST_ERROR_COMMAND : Fld := ⟨.fndLastError, 40, 40, .ro, (.lit 0)⟩
/-- 07: FND_LAST_ERROR [39:38] STREAM_CONTEXT. -/
def Fl.FND_LAST_ERROR_STREAM_CONTEXT : Fld := ⟨.fndLastError, 39, 38, .ro, (.lit 0)⟩
/-- 07: FND_LAST_ERROR [37:32] STREAM. -/
def Fl.FND_LAST_ERROR_STREAM : Fld := ⟨.fndLastError, 37, 32, .ro, (.lit 0)⟩
/-- 07: FND_LAST_ERROR [15:0] STATUS. -/
def Fl.FND_LAST_ERROR_STATUS : Fld := ⟨.fndLastError, 15, 0, .ro, (.lit 0)⟩
/-- 07: FND_ENGINE_STATUS [12:12] CMD_BUSY. -/
def Fl.FND_ENGINE_STATUS_CMD_BUSY : Fld := ⟨.fndEngineStatus, 12, 12, .ro, (.lit 0)⟩
/-- 07: FND_ENGINE_STATUS [11:8] STALLED. -/
def Fl.FND_ENGINE_STATUS_STALLED : Fld := ⟨.fndEngineStatus, 11, 8, .ro, (.lit 0)⟩
/-- 07: FND_ENGINE_STATUS [7:4] ISSUING. -/
def Fl.FND_ENGINE_STATUS_ISSUING : Fld := ⟨.fndEngineStatus, 7, 4, .ro, (.lit 0)⟩
/-- 07: FND_ENGINE_STATUS [3:0] BUSY. -/
def Fl.FND_ENGINE_STATUS_BUSY : Fld := ⟨.fndEngineStatus, 3, 0, .ro, (.lit 0)⟩
/-- 08: TIER_CATALOG [47:21] BASE. -/
def Fl.TIER_CATALOG_BASE : Fld := ⟨.tierCatalog, 47, 21, .ro, .plate⟩
/-- 08: TIER_CATALOG [20:0] SIZE. -/
def Fl.TIER_CATALOG_SIZE : Fld := ⟨.tierCatalog, 20, 0, .ro, .plate⟩
/-- 08: TIER_TIMEOUT [47:32] REMOTE_MS. -/
def Fl.TIER_TIMEOUT_REMOTE_MS : Fld := ⟨.tierTimeout, 47, 32, .rw, (.lit 20)⟩
/-- 08: TIER_TIMEOUT [31:0] FAR_US. -/
def Fl.TIER_TIMEOUT_FAR_US : Fld := ⟨.tierTimeout, 31, 0, .rw, (.lit 2000)⟩
/-- 08: TIER_HINT_RING [47:12] BASE. -/
def Fl.TIER_HINT_RING_BASE : Fld := ⟨.tierHintRing, 47, 12, .rw, (.lit 0)⟩
/-- 08: TIER_HINT_RING [3:0] SIZE_LOG2. -/
def Fl.TIER_HINT_RING_SIZE_LOG2 : Fld := ⟨.tierHintRing, 3, 0, .rw, (.lit 0)⟩
/-- 08: TIER_HINT_CTL [23:8] DECAY_MS. -/
def Fl.TIER_HINT_CTL_DECAY_MS : Fld := ⟨.tierHintCtl, 23, 8, .rw, (.lit 100)⟩
/-- 08: TIER_HINT_CTL [7:0] THRESHOLD. -/
def Fl.TIER_HINT_CTL_THRESHOLD : Fld := ⟨.tierHintCtl, 7, 0, .rw, (.lit 0)⟩
/-- 08: TIER_HINT_PROD [31:0] PROD. -/
def Fl.TIER_HINT_PROD_PROD : Fld := ⟨.tierHintProd, 31, 0, .ro, (.lit 0)⟩
/-- 08: TIER_HINT_CONS [31:0] CONS. -/
def Fl.TIER_HINT_CONS_CONS : Fld := ⟨.tierHintCons, 31, 0, .rw, (.lit 0)⟩
/-- 08: TIER_HINT_DROPPED [31:0] COUNT. -/
def Fl.TIER_HINT_DROPPED_COUNT : Fld := ⟨.tierHintDropped, 31, 0, .rc, (.lit 0)⟩
/-- 08: TIER_REGION_VA [56:21] VA. -/
def Fl.TIER_REGION_VA_VA : Fld := ⟨.tierRegionVa, 56, 21, .rw, (.lit 0)⟩
/-- 08: TIER_REGION_LIST [47:3] PA. -/
def Fl.TIER_REGION_LIST_PA : Fld := ⟨.tierRegionList, 47, 3, .rw, (.lit 0)⟩
/-- 08: TIER_REGION_CMD [63:63] BUSY. -/
def Fl.TIER_REGION_CMD_BUSY : Fld := ⟨.tierRegionCmd, 63, 63, .ro, (.lit 0)⟩
/-- 08: TIER_REGION_CMD [62:62] REJECTED. -/
def Fl.TIER_REGION_CMD_REJECTED : Fld := ⟨.tierRegionCmd, 62, 62, .ro, (.lit 0)⟩
/-- 08: TIER_REGION_CMD [61:61] READ_ONLY. -/
def Fl.TIER_REGION_CMD_READ_ONLY : Fld := ⟨.tierRegionCmd, 61, 61, .rw, (.lit 0)⟩
/-- 08: TIER_REGION_CMD [60:60] OP. -/
def Fl.TIER_REGION_CMD_OP : Fld := ⟨.tierRegionCmd, 60, 60, .rw, (.lit 0)⟩
/-- 08: TIER_REGION_CMD [59:40] PAGES. -/
def Fl.TIER_REGION_CMD_PAGES : Fld := ⟨.tierRegionCmd, 59, 40, .rw, (.lit 0)⟩
/-- 08: TIER_REGION_CMD [25:16] REGION. -/
def Fl.TIER_REGION_CMD_REGION : Fld := ⟨.tierRegionCmd, 25, 16, .rw, (.lit 0)⟩
/-- 08: TIER_REGION_CMD [15:0] CONTEXT. -/
def Fl.TIER_REGION_CMD_CONTEXT : Fld := ⟨.tierRegionCmd, 15, 0, .rw, (.lit 0)⟩
/-- 08: TIER_REGION_RESULT [47:16] ENTRY. -/
def Fl.TIER_REGION_RESULT_ENTRY : Fld := ⟨.tierRegionResult, 47, 16, .ro, (.lit 0)⟩
/-- 08: TIER_REGION_RESULT [15:0] STATUS. -/
def Fl.TIER_REGION_RESULT_STATUS : Fld := ⟨.tierRegionResult, 15, 0, .ro, (.lit 0)⟩
/-- 08: TIER_QUOTA_SEL [18:16] TIER. -/
def Fl.TIER_QUOTA_SEL_TIER : Fld := ⟨.tierQuotaSel, 18, 16, .rw, (.lit 0)⟩
/-- 08: TIER_QUOTA_SEL [15:0] CONTEXT. -/
def Fl.TIER_QUOTA_SEL_CONTEXT : Fld := ⟨.tierQuotaSel, 15, 0, .rw, (.lit 0)⟩
/-- 08: TIER_QUOTA_VAL [63:32] QUOTA. -/
def Fl.TIER_QUOTA_VAL_QUOTA : Fld := ⟨.tierQuotaVal, 63, 32, .ro, (.lit 0)⟩
/-- 08: TIER_QUOTA_VAL [31:0] USED. -/
def Fl.TIER_QUOTA_VAL_USED : Fld := ⟨.tierQuotaVal, 31, 0, .ro, (.lit 0)⟩
/-- 08: TIER_MOVES [63:32] HELD. -/
def Fl.TIER_MOVES_HELD : Fld := ⟨.tierMoves, 63, 32, .rc, (.lit 0)⟩
/-- 08: TIER_MOVES [31:0] PAGES. -/
def Fl.TIER_MOVES_PAGES : Fld := ⟨.tierMoves, 31, 0, .rc, (.lit 0)⟩
/-- 08: TIER_ERR_COUNT [63:48] FAILED. -/
def Fl.TIER_ERR_COUNT_FAILED : Fld := ⟨.tierErrCount, 63, 48, .rc, (.lit 0)⟩
/-- 08: TIER_ERR_COUNT [47:32] TIMEOUT. -/
def Fl.TIER_ERR_COUNT_TIMEOUT : Fld := ⟨.tierErrCount, 47, 32, .rc, (.lit 0)⟩
/-- 08: TIER_ERR_COUNT [31:16] QUOTA. -/
def Fl.TIER_ERR_COUNT_QUOTA : Fld := ⟨.tierErrCount, 31, 16, .rc, (.lit 0)⟩
/-- 08: TIER_ERR_COUNT [15:0] PERMISSION. -/
def Fl.TIER_ERR_COUNT_PERMISSION : Fld := ⟨.tierErrCount, 15, 0, .rc, (.lit 0)⟩
/-- 09: RDC_CAPACITY [39:32] WAYS. -/
def Fl.RDC_CAPACITY_WAYS : Fld := ⟨.rdcCapacity, 39, 32, .ro, .fuse⟩
/-- 09: RDC_CAPACITY [31:16] SETS. -/
def Fl.RDC_CAPACITY_SETS : Fld := ⟨.rdcCapacity, 31, 16, .ro, .fuse⟩
/-- 09: RDC_CAPACITY [15:0] LINE_BYTES. -/
def Fl.RDC_CAPACITY_LINE_BYTES : Fld := ⟨.rdcCapacity, 15, 0, .ro, .fuse⟩
/-- 09: RDC_INVALIDATE [63:63] DONE. -/
def Fl.RDC_INVALIDATE_DONE : Fld := ⟨.rdcInvalidate, 63, 63, .ro, (.lit 0)⟩
/-- 09: RDC_INVALIDATE [0:0] START. -/
def Fl.RDC_INVALIDATE_START : Fld := ⟨.rdcInvalidate, 0, 0, .w1s, (.lit 0)⟩
/-- 09: RDC_LOOKUPS [63:32] HITS. -/
def Fl.RDC_LOOKUPS_HITS : Fld := ⟨.rdcLookups, 63, 32, .rc, (.lit 0)⟩
/-- 09: RDC_LOOKUPS [31:0] MISSES. -/
def Fl.RDC_LOOKUPS_MISSES : Fld := ⟨.rdcLookups, 31, 0, .rc, (.lit 0)⟩
/-- 09: RDC_INVALIDATIONS [47:32] LAUNCH. -/
def Fl.RDC_INVALIDATIONS_LAUNCH : Fld := ⟨.rdcInvalidations, 47, 32, .rc, (.lit 0)⟩
/-- 09: RDC_INVALIDATIONS [31:16] OP. -/
def Fl.RDC_INVALIDATIONS_OP : Fld := ⟨.rdcInvalidations, 31, 16, .rc, (.lit 0)⟩
/-- 09: RDC_INVALIDATIONS [15:0] REGISTER. -/
def Fl.RDC_INVALIDATIONS_REGISTER : Fld := ⟨.rdcInvalidations, 15, 0, .rc, (.lit 0)⟩
/-- 09: RDC_FILLS_DROPPED [31:0] COUNT. -/
def Fl.RDC_FILLS_DROPPED_COUNT : Fld := ⟨.rdcFillsDropped, 31, 0, .rc, (.lit 0)⟩
/-- 09: RDC_ERR_STATUS [2:2] POISON. -/
def Fl.RDC_ERR_STATUS_POISON : Fld := ⟨.rdcErrStatus, 2, 2, .w1c, (.lit 0)⟩
/-- 09: RDC_ERR_STATUS [1:1] UE. -/
def Fl.RDC_ERR_STATUS_UE : Fld := ⟨.rdcErrStatus, 1, 1, .w1c, (.lit 0)⟩
/-- 09: RDC_ERR_STATUS [0:0] CE. -/
def Fl.RDC_ERR_STATUS_CE : Fld := ⟨.rdcErrStatus, 0, 0, .w1c, (.lit 0)⟩
/-- 09: RDC_ERR_COUNT [47:32] POISON. -/
def Fl.RDC_ERR_COUNT_POISON : Fld := ⟨.rdcErrCount, 47, 32, .rc, (.lit 0)⟩
/-- 09: RDC_ERR_COUNT [31:16] CE. -/
def Fl.RDC_ERR_COUNT_CE : Fld := ⟨.rdcErrCount, 31, 16, .rc, (.lit 0)⟩
/-- 09: RDC_ERR_COUNT [15:0] UE. -/
def Fl.RDC_ERR_COUNT_UE : Fld := ⟨.rdcErrCount, 15, 0, .rc, (.lit 0)⟩
/-- 10: QFE_CAPACITY [47:32] FIRST_CONTEXT. -/
def Fl.QFE_CAPACITY_FIRST_CONTEXT : Fld := ⟨.qfeCapacity, 47, 32, .ro, .fuse⟩
/-- 10: QFE_CAPACITY [31:16] CONTEXTS. -/
def Fl.QFE_CAPACITY_CONTEXTS : Fld := ⟨.qfeCapacity, 31, 16, .ro, .fuse⟩
/-- 10: QFE_CAPACITY [7:0] INFLIGHT. -/
def Fl.QFE_CAPACITY_INFLIGHT : Fld := ⟨.qfeCapacity, 7, 0, .ro, .fuse⟩
/-- 10: QFE_CTX_SEL [15:0] CONTEXT. -/
def Fl.QFE_CTX_SEL_CONTEXT : Fld := ⟨.qfeCtxSel, 15, 0, .rw, (.lit 0)⟩
/-- 10: QFE_CTX_CMD_RING [47:12] BASE. -/
def Fl.QFE_CTX_CMD_RING_BASE : Fld := ⟨.qfeCtxCmdRing, 47, 12, .rw, (.lit 0)⟩
/-- 10: QFE_CTX_CMD_RING [4:0] SIZE_LOG2. -/
def Fl.QFE_CTX_CMD_RING_SIZE_LOG2 : Fld := ⟨.qfeCtxCmdRing, 4, 0, .rw, (.lit 0)⟩
/-- 10: QFE_CTX_CPL_RING [47:12] BASE. -/
def Fl.QFE_CTX_CPL_RING_BASE : Fld := ⟨.qfeCtxCplRing, 47, 12, .rw, (.lit 0)⟩
/-- 10: QFE_CTX_CPL_RING [4:0] SIZE_LOG2. -/
def Fl.QFE_CTX_CPL_RING_SIZE_LOG2 : Fld := ⟨.qfeCtxCplRing, 4, 0, .rw, (.lit 0)⟩
/-- 10: QFE_CTX_EVT_RING [47:12] BASE. -/
def Fl.QFE_CTX_EVT_RING_BASE : Fld := ⟨.qfeCtxEvtRing, 47, 12, .rw, (.lit 0)⟩
/-- 10: QFE_CTX_EVT_RING [4:0] SIZE_LOG2. -/
def Fl.QFE_CTX_EVT_RING_SIZE_LOG2 : Fld := ⟨.qfeCtxEvtRing, 4, 0, .rw, (.lit 0)⟩
/-- 10: QFE_CTX_ROOT [47:12] ROOT. -/
def Fl.QFE_CTX_ROOT_ROOT : Fld := ⟨.qfeCtxRoot, 47, 12, .rw, (.lit 0)⟩
/-- 10: QFE_CTX_ROOT [0:0] FAULT_MODE. -/
def Fl.QFE_CTX_ROOT_FAULT_MODE : Fld := ⟨.qfeCtxRoot, 0, 0, .rw, (.lit 0)⟩
/-- 10: QFE_CTX_ATTR [63:63] ENABLE. -/
def Fl.QFE_CTX_ATTR_ENABLE : Fld := ⟨.qfeCtxAttr, 63, 63, .rw, (.lit 0)⟩
/-- 10: QFE_CTX_ATTR [62:62] ADMIN. -/
def Fl.QFE_CTX_ATTR_ADMIN : Fld := ⟨.qfeCtxAttr, 62, 62, .rw, (.lit 0)⟩
/-- 10: QFE_CTX_ATTR [61:61] EVT_IRQ. -/
def Fl.QFE_CTX_ATTR_EVT_IRQ : Fld := ⟨.qfeCtxAttr, 61, 61, .rw, (.lit 0)⟩
/-- 10: QFE_CTX_ATTR [58:56] PRIORITY. -/
def Fl.QFE_CTX_ATTR_PRIORITY : Fld := ⟨.qfeCtxAttr, 58, 56, .rw, (.lit 0)⟩
/-- 10: QFE_CTX_ATTR [31:16] IRQ_VECTOR. -/
def Fl.QFE_CTX_ATTR_IRQ_VECTOR : Fld := ⟨.qfeCtxAttr, 31, 16, .rw, (.lit 0)⟩
/-- 10: QFE_CTX_ATTR [15:0] EXPOSURE_THRESHOLD. -/
def Fl.QFE_CTX_ATTR_EXPOSURE_THRESHOLD : Fld := ⟨.qfeCtxAttr, 15, 0, .rw, (.lit 0)⟩
/-- 10: QFE_CTX_STATE [63:62] STATE. -/
def Fl.QFE_CTX_STATE_STATE : Fld := ⟨.qfeCtxState, 63, 62, .ro, (.lit 0)⟩
/-- 10: QFE_CTX_STATE [61:61] UNPARK. -/
def Fl.QFE_CTX_STATE_UNPARK : Fld := ⟨.qfeCtxState, 61, 61, .wo, (.lit 0)⟩
/-- 10: QFE_CTX_STATE [47:32] EVT_DROPPED. -/
def Fl.QFE_CTX_STATE_EVT_DROPPED : Fld := ⟨.qfeCtxState, 47, 32, .rc, (.lit 0)⟩
/-- 10: QFE_CTX_STATE [31:16] PARK_STATUS. -/
def Fl.QFE_CTX_STATE_PARK_STATUS : Fld := ⟨.qfeCtxState, 31, 16, .ro, (.lit 0)⟩
/-- 10: QFE_CTX_STATE [4:0] INFLIGHT. -/
def Fl.QFE_CTX_STATE_INFLIGHT : Fld := ⟨.qfeCtxState, 4, 0, .ro, (.lit 0)⟩
/-- 10: QFE_CTX_SEQ [47:0] SEQ. -/
def Fl.QFE_CTX_SEQ_SEQ : Fld := ⟨.qfeCtxSeq, 47, 0, .rw, (.lit 0)⟩
/-- 10: QFE_ARB [15:0] RESERVE_US. -/
def Fl.QFE_ARB_RESERVE_US : Fld := ⟨.qfeArb, 15, 0, .rw, (.lit 1000)⟩
/-- 10: QFE_COUNT [63:32] FETCHED. -/
def Fl.QFE_COUNT_FETCHED : Fld := ⟨.qfeCount, 63, 32, .rc, (.lit 0)⟩
/-- 10: QFE_COUNT [31:16] DOORBELLS_IGNORED. -/
def Fl.QFE_COUNT_DOORBELLS_IGNORED : Fld := ⟨.qfeCount, 31, 16, .rc, (.lit 0)⟩
/-- 10: QFE_COUNT [15:0] STALE_REFETCHES. -/
def Fl.QFE_COUNT_STALE_REFETCHES : Fld := ⟨.qfeCount, 15, 0, .rc, (.lit 0)⟩
/-- 11: TRC_CAPACITY [47:32] DIE_ENTRIES. -/
def Fl.TRC_CAPACITY_DIE_ENTRIES : Fld := ⟨.trcCapacity, 47, 32, .ro, .fuse⟩
/-- 11: TRC_CAPACITY [31:16] SMALL_ENTRIES. -/
def Fl.TRC_CAPACITY_SMALL_ENTRIES : Fld := ⟨.trcCapacity, 31, 16, .ro, .fuse⟩
/-- 11: TRC_CAPACITY [15:0] LARGE_ENTRIES. -/
def Fl.TRC_CAPACITY_LARGE_ENTRIES : Fld := ⟨.trcCapacity, 15, 0, .ro, .fuse⟩
/-- 11: TRC_INV_VA [56:12] VA. -/
def Fl.TRC_INV_VA_VA : Fld := ⟨.trcInvVa, 56, 12, .rw, (.lit 0)⟩
/-- 11: TRC_INV_CTL [63:63] BUSY. -/
def Fl.TRC_INV_CTL_BUSY : Fld := ⟨.trcInvCtl, 63, 63, .ro, (.lit 0)⟩
/-- 11: TRC_INV_CTL [62:62] DONE. -/
def Fl.TRC_INV_CTL_DONE : Fld := ⟨.trcInvCtl, 62, 62, .ro, (.lit 0)⟩
/-- 11: TRC_INV_CTL [61:61] REJECTED. -/
def Fl.TRC_INV_CTL_REJECTED : Fld := ⟨.trcInvCtl, 61, 61, .ro, (.lit 0)⟩
/-- 11: TRC_INV_CTL [60:60] TABLES. -/
def Fl.TRC_INV_CTL_TABLES : Fld := ⟨.trcInvCtl, 60, 60, .rw, (.lit 0)⟩
/-- 11: TRC_INV_CTL [59:58] SCOPE. -/
def Fl.TRC_INV_CTL_SCOPE : Fld := ⟨.trcInvCtl, 59, 58, .rw, (.lit 0)⟩
/-- 11: TRC_INV_CTL [55:32] COUNT. -/
def Fl.TRC_INV_CTL_COUNT : Fld := ⟨.trcInvCtl, 55, 32, .rw, (.lit 0)⟩
/-- 11: TRC_INV_CTL [16:16] START. -/
def Fl.TRC_INV_CTL_START : Fld := ⟨.trcInvCtl, 16, 16, .w1s, (.lit 0)⟩
/-- 11: TRC_INV_CTL [15:0] CONTEXT. -/
def Fl.TRC_INV_CTL_CONTEXT : Fld := ⟨.trcInvCtl, 15, 0, .rw, (.lit 0)⟩
/-- 11: TRC_LOOKUPS [63:32] HITS. -/
def Fl.TRC_LOOKUPS_HITS : Fld := ⟨.trcLookups, 63, 32, .rc, (.lit 0)⟩
/-- 11: TRC_LOOKUPS [31:0] MISSES. -/
def Fl.TRC_LOOKUPS_MISSES : Fld := ⟨.trcLookups, 31, 0, .rc, (.lit 0)⟩
/-- 11: TRC_SMALL [63:32] HITS. -/
def Fl.TRC_SMALL_HITS : Fld := ⟨.trcSmall, 63, 32, .rc, (.lit 0)⟩
/-- 11: TRC_SMALL [31:0] MISSES. -/
def Fl.TRC_SMALL_MISSES : Fld := ⟨.trcSmall, 31, 0, .rc, (.lit 0)⟩
/-- 11: TRC_DIE_FILLS [31:0] COUNT. -/
def Fl.TRC_DIE_FILLS_COUNT : Fld := ⟨.trcDieFills, 31, 0, .rc, (.lit 0)⟩
/-- 11: TRC_ERR_COUNT [31:16] PARITY. -/
def Fl.TRC_ERR_COUNT_PARITY : Fld := ⟨.trcErrCount, 31, 16, .rc, (.lit 0)⟩
/-- 11: TRC_ERR_COUNT [15:0] INVALIDATIONS. -/
def Fl.TRC_ERR_COUNT_INVALIDATIONS : Fld := ⟨.trcErrCount, 15, 0, .rc, (.lit 0)⟩
/-- 11: WLK_CAPACITY [31:16] QUEUE_RECORDS. -/
def Fl.WLK_CAPACITY_QUEUE_RECORDS : Fld := ⟨.wlkCapacity, 31, 16, .ro, .fuse⟩
/-- 11: WLK_CAPACITY [15:0] WALKS. -/
def Fl.WLK_CAPACITY_WALKS : Fld := ⟨.wlkCapacity, 15, 0, .ro, .fuse⟩
/-- 11: WLK_FAULT_RING [63:63] ENABLE. -/
def Fl.WLK_FAULT_RING_ENABLE : Fld := ⟨.wlkFaultRing, 63, 63, .rw, (.lit 0)⟩
/-- 11: WLK_FAULT_RING [47:17] BASE. -/
def Fl.WLK_FAULT_RING_BASE : Fld := ⟨.wlkFaultRing, 47, 17, .rw, (.lit 0)⟩
/-- 11: WLK_FAULT_PROD [31:0] PROD. -/
def Fl.WLK_FAULT_PROD_PROD : Fld := ⟨.wlkFaultProd, 31, 0, .ro, (.lit 0)⟩
/-- 11: WLK_FAULT_CONS [31:0] CONS. -/
def Fl.WLK_FAULT_CONS_CONS : Fld := ⟨.wlkFaultCons, 31, 0, .rw, (.lit 0)⟩
/-- 11: WLK_FAULT_RESPOND [33:32] ACTION. -/
def Fl.WLK_FAULT_RESPOND_ACTION : Fld := ⟨.wlkFaultRespond, 33, 32, .wo, (.lit 0)⟩
/-- 11: WLK_FAULT_RESPOND [31:0] RECORD. -/
def Fl.WLK_FAULT_RESPOND_RECORD : Fld := ⟨.wlkFaultRespond, 31, 0, .wo, (.lit 0)⟩
/-- 11: WLK_FAULT_OPEN [28:16] HIGH_WATER. -/
def Fl.WLK_FAULT_OPEN_HIGH_WATER : Fld := ⟨.wlkFaultOpen, 28, 16, .ro, (.lit 0)⟩
/-- 11: WLK_FAULT_OPEN [12:0] OPEN. -/
def Fl.WLK_FAULT_OPEN_OPEN : Fld := ⟨.wlkFaultOpen, 12, 0, .ro, (.lit 0)⟩
/-- 11: WLK_FAULT_COUNT [63:32] OPENED. -/
def Fl.WLK_FAULT_COUNT_OPENED : Fld := ⟨.wlkFaultCount, 63, 32, .rc, (.lit 0)⟩
/-- 11: WLK_FAULT_COUNT [31:0] JOINED. -/
def Fl.WLK_FAULT_COUNT_JOINED : Fld := ⟨.wlkFaultCount, 31, 0, .rc, (.lit 0)⟩
/-- 11: WLK_FAULT_EXCEPT [47:32] FULL_STALLS. -/
def Fl.WLK_FAULT_EXCEPT_FULL_STALLS : Fld := ⟨.wlkFaultExcept, 47, 32, .rc, (.lit 0)⟩
/-- 11: WLK_FAULT_EXCEPT [31:16] IGNORED. -/
def Fl.WLK_FAULT_EXCEPT_IGNORED : Fld := ⟨.wlkFaultExcept, 31, 16, .rc, (.lit 0)⟩
/-- 11: WLK_FAULT_EXCEPT [15:0] DENIED_DISABLED. -/
def Fl.WLK_FAULT_EXCEPT_DENIED_DISABLED : Fld := ⟨.wlkFaultExcept, 15, 0, .rc, (.lit 0)⟩
/-- 11: WLK_FAULT_IRQ [63:63] ENABLE. -/
def Fl.WLK_FAULT_IRQ_ENABLE : Fld := ⟨.wlkFaultIrq, 63, 63, .rw, (.lit 0)⟩
/-- 11: WLK_FAULT_IRQ [15:0] VECTOR. -/
def Fl.WLK_FAULT_IRQ_VECTOR : Fld := ⟨.wlkFaultIrq, 15, 0, .rw, (.lit 0)⟩
/-- 11: WLK_WALKS [63:32] WALKS. -/
def Fl.WLK_WALKS_WALKS : Fld := ⟨.wlkWalks, 63, 32, .rc, (.lit 0)⟩
/-- 11: WLK_WALKS [31:16] WAITING_MAX. -/
def Fl.WLK_WALKS_WAITING_MAX : Fld := ⟨.wlkWalks, 31, 16, .rc, (.lit 0)⟩
/-- 11: WLK_WALKS [15:0] TABLE_ERRORS. -/
def Fl.WLK_WALKS_TABLE_ERRORS : Fld := ⟨.wlkWalks, 15, 0, .rc, (.lit 0)⟩
/-- 12: CORE_CAPACITY [23:16] L3_SLICES. -/
def Fl.CORE_CAPACITY_L3_SLICES : Fld := ⟨.coreCapacity, 23, 16, .ro, .fuse⟩
/-- 12: CORE_CAPACITY [15:8] ONLINE_MAX. -/
def Fl.CORE_CAPACITY_ONLINE_MAX : Fld := ⟨.coreCapacity, 15, 8, .ro, .fuse⟩
/-- 12: CORE_CAPACITY [7:0] PHYSICAL. -/
def Fl.CORE_CAPACITY_PHYSICAL : Fld := ⟨.coreCapacity, 7, 0, .ro, .fuse⟩
/-- 12: CORE_CMD [63:63] BUSY. -/
def Fl.CORE_CMD_BUSY : Fld := ⟨.coreCmd, 63, 63, .ro, (.lit 0)⟩
/-- 12: CORE_CMD [62:62] REJECTED. -/
def Fl.CORE_CMD_REJECTED : Fld := ⟨.coreCmd, 62, 62, .ro, (.lit 0)⟩
/-- 12: CORE_CMD [55:48] RESULT. -/
def Fl.CORE_CMD_RESULT : Fld := ⟨.coreCmd, 55, 48, .ro, (.lit 0)⟩
/-- 12: CORE_CMD [9:8] OP. -/
def Fl.CORE_CMD_OP : Fld := ⟨.coreCmd, 9, 8, .rw, (.lit 0)⟩
/-- 12: CORE_CMD [6:0] CORE. -/
def Fl.CORE_CMD_CORE : Fld := ⟨.coreCmd, 6, 0, .rw, (.lit 0)⟩
/-- 12: CORE_START [47:2] PC. -/
def Fl.CORE_START_PC : Fld := ⟨.coreStart, 47, 2, .rw, (.lit 0)⟩
/-- 12: CORE_FAR_TIMEOUT [31:0] US. -/
def Fl.CORE_FAR_TIMEOUT_US : Fld := ⟨.coreFarTimeout, 31, 0, .rw, (.lit 2000)⟩
/-- 12: CORE_STATE [63:62] ROLE. -/
def Fl.CORE_STATE_ROLE : Fld := ⟨.coreState, 63, 62, .ro, .fuse⟩
/-- 12: CORE_STATE [61:60] STATE. -/
def Fl.CORE_STATE_STATE : Fld := ⟨.coreState, 61, 60, .ro, (.lit 0)⟩
/-- 12: CORE_STATE [23:16] FMAX. -/
def Fl.CORE_STATE_FMAX : Fld := ⟨.coreState, 23, 16, .ro, .fuse⟩
/-- 12: CORE_STATE [15:8] DERATE. -/
def Fl.CORE_STATE_DERATE : Fld := ⟨.coreState, 15, 8, .ro, (.lit 0)⟩
/-- 12: CORE_FREQ [31:24] CAP. -/
def Fl.CORE_FREQ_CAP : Fld := ⟨.coreFreq, 31, 24, .ro, .fuse⟩
/-- 12: CORE_FREQ [23:16] EFFECTIVE. -/
def Fl.CORE_FREQ_EFFECTIVE : Fld := ⟨.coreFreq, 23, 16, .ro, .fuse⟩
/-- 12: CORE_FREQ [7:0] REQUEST. -/
def Fl.CORE_FREQ_REQUEST : Fld := ⟨.coreFreq, 7, 0, .rw, .fuse⟩
/-- 12: CORE_CLK [31:0] STRETCHES. -/
def Fl.CORE_CLK_STRETCHES : Fld := ⟨.coreClk, 31, 0, .rc, (.lit 0)⟩
/-- 12: CORE_ERR_ADDR [47:0] ADDR. -/
def Fl.CORE_ERR_ADDR_ADDR : Fld := ⟨.coreErrAddr, 47, 0, .ro, (.lit 0)⟩
/-- 12: CORE_ERR_INFO [47:32] RESET_LOST. -/
def Fl.CORE_ERR_INFO_RESET_LOST : Fld := ⟨.coreErrInfo, 47, 32, .rc, (.lit 0)⟩
/-- 12: CORE_ERR_INFO [31:16] COUNT. -/
def Fl.CORE_ERR_INFO_COUNT : Fld := ⟨.coreErrInfo, 31, 16, .rc, (.lit 0)⟩
/-- 12: CORE_ERR_INFO [3:0] KIND. -/
def Fl.CORE_ERR_INFO_KIND : Fld := ⟨.coreErrInfo, 3, 0, .ro, (.lit 0)⟩
/-- 12: IRQ_VEC_SEL [14:0] VECTOR. -/
def Fl.IRQ_VEC_SEL_VECTOR : Fld := ⟨.irqVecSel, 14, 0, .rw, (.lit 0)⟩
/-- 12: IRQ_VEC_CFG [63:63] ENABLE. -/
def Fl.IRQ_VEC_CFG_ENABLE : Fld := ⟨.irqVecCfg, 63, 63, .rw, (.lit 0)⟩
/-- 12: IRQ_VEC_CFG [62:62] PENDING. -/
def Fl.IRQ_VEC_CFG_PENDING : Fld := ⟨.irqVecCfg, 62, 62, .w1c, (.lit 0)⟩
/-- 12: IRQ_VEC_CFG [61:61] IN_SERVICE. -/
def Fl.IRQ_VEC_CFG_IN_SERVICE : Fld := ⟨.irqVecCfg, 61, 61, .ro, (.lit 0)⟩
/-- 12: IRQ_VEC_CFG [59:56] PRIORITY. -/
def Fl.IRQ_VEC_CFG_PRIORITY : Fld := ⟨.irqVecCfg, 59, 56, .rw, (.lit 0)⟩
/-- 12: IRQ_VEC_CFG [15:0] TARGET. -/
def Fl.IRQ_VEC_CFG_TARGET : Fld := ⟨.irqVecCfg, 15, 0, .rw, (.lit 0)⟩
/-- 12: IRQ_IPI [63:63] REJECTED. -/
def Fl.IRQ_IPI_REJECTED : Fld := ⟨.irqIpi, 63, 63, .ro, (.lit 0)⟩
/-- 12: IRQ_IPI [15:0] VECTOR. -/
def Fl.IRQ_IPI_VECTOR : Fld := ⟨.irqIpi, 15, 0, .wo, (.lit 0)⟩
/-- 12: IRQ_COUNT [63:32] DELIVERED. -/
def Fl.IRQ_COUNT_DELIVERED : Fld := ⟨.irqCount, 63, 32, .rc, (.lit 0)⟩
/-- 12: IRQ_COUNT [31:16] UNROUTABLE. -/
def Fl.IRQ_COUNT_UNROUTABLE : Fld := ⟨.irqCount, 31, 16, .rc, (.lit 0)⟩
/-- 12: IRQ_COUNT [15:0] EOI_IGNORED. -/
def Fl.IRQ_COUNT_EOI_IGNORED : Fld := ⟨.irqCount, 15, 0, .rc, (.lit 0)⟩
/-- 12: IRQ_ACK [63:63] VALID. -/
def Fl.IRQ_ACK_VALID : Fld := ⟨.irqAck, 63, 63, .rc, (.lit 0)⟩
/-- 12: IRQ_ACK [15:0] VECTOR. -/
def Fl.IRQ_ACK_VECTOR : Fld := ⟨.irqAck, 15, 0, .rc, (.lit 0)⟩
/-- 12: IRQ_EOI [15:0] VECTOR. -/
def Fl.IRQ_EOI_VECTOR : Fld := ⟨.irqEoi, 15, 0, .wo, (.lit 0)⟩
/-- 13: COH_CAPACITY [31:16] LINK_CACHE_KIB. -/
def Fl.COH_CAPACITY_LINK_CACHE_KIB : Fld := ⟨.cohCapacity, 31, 16, .ro, .fuse⟩
/-- 13: COH_CAPACITY [15:8] DIR_WAYS. -/
def Fl.COH_CAPACITY_DIR_WAYS : Fld := ⟨.cohCapacity, 15, 8, .ro, .fuse⟩
/-- 13: COH_CAPACITY [7:0] DIR_ENTRIES_LOG2. -/
def Fl.COH_CAPACITY_DIR_ENTRIES_LOG2 : Fld := ⟨.cohCapacity, 7, 0, .ro, .fuse⟩
/-- 13: COH_TIMEOUT [15:0] HOME_US. -/
def Fl.COH_TIMEOUT_HOME_US : Fld := ⟨.cohTimeout, 15, 0, .rw, (.lit 50)⟩
/-- 13: COH_OCCUPANCY [47:32] RETRY_QUEUE. -/
def Fl.COH_OCCUPANCY_RETRY_QUEUE : Fld := ⟨.cohOccupancy, 47, 32, .ro, (.lit 0)⟩
/-- 13: COH_OCCUPANCY [31:16] OPEN_HIGH_WATER. -/
def Fl.COH_OCCUPANCY_OPEN_HIGH_WATER : Fld := ⟨.cohOccupancy, 31, 16, .ro, (.lit 0)⟩
/-- 13: COH_OCCUPANCY [15:0] OPEN. -/
def Fl.COH_OCCUPANCY_OPEN : Fld := ⟨.cohOccupancy, 15, 0, .ro, (.lit 0)⟩
/-- 13: COH_REQUESTS [63:32] OWN. -/
def Fl.COH_REQUESTS_OWN : Fld := ⟨.cohRequests, 63, 32, .rc, (.lit 0)⟩
/-- 13: COH_REQUESTS [31:0] SHARED. -/
def Fl.COH_REQUESTS_SHARED : Fld := ⟨.cohRequests, 31, 0, .rc, (.lit 0)⟩
/-- 13: COH_WRITES [63:32] WRITEBACKS. -/
def Fl.COH_WRITES_WRITEBACKS : Fld := ⟨.cohWrites, 63, 32, .rc, (.lit 0)⟩
/-- 13: COH_WRITES [31:0] DEVICE. -/
def Fl.COH_WRITES_DEVICE : Fld := ⟨.cohWrites, 31, 0, .rc, (.lit 0)⟩
/-- 13: COH_PROBES [63:32] RECALLS. -/
def Fl.COH_PROBES_RECALLS : Fld := ⟨.cohProbes, 63, 32, .rc, (.lit 0)⟩
/-- 13: COH_PROBES [31:0] NOT_PRESENT. -/
def Fl.COH_PROBES_NOT_PRESENT : Fld := ⟨.cohProbes, 31, 0, .rc, (.lit 0)⟩
/-- 13: COH_DIR_EVICT [63:32] EVICTIONS. -/
def Fl.COH_DIR_EVICT_EVICTIONS : Fld := ⟨.cohDirEvict, 63, 32, .rc, (.lit 0)⟩
/-- 13: COH_DIR_EVICT [31:0] RETRIES. -/
def Fl.COH_DIR_EVICT_RETRIES : Fld := ⟨.cohDirEvict, 31, 0, .rc, (.lit 0)⟩
/-- 13: COH_STASH [63:32] INSTALLED. -/
def Fl.COH_STASH_INSTALLED : Fld := ⟨.cohStash, 63, 32, .rc, (.lit 0)⟩
/-- 13: COH_STASH [31:0] DROPPED. -/
def Fl.COH_STASH_DROPPED : Fld := ⟨.cohStash, 31, 0, .rc, (.lit 0)⟩
/-- 13: COH_STASH_RECORDS [15:0] TARGET. -/
def Fl.COH_STASH_RECORDS_TARGET : Fld := ⟨.cohStashRecords, 15, 0, .rw, (.lit 0)⟩
/-- 13: COH_ERR_STATUS [2:2] LATE_DISCARD. -/
def Fl.COH_ERR_STATUS_LATE_DISCARD : Fld := ⟨.cohErrStatus, 2, 2, .w1c, (.lit 0)⟩
/-- 13: COH_ERR_STATUS [1:1] TIMEOUT. -/
def Fl.COH_ERR_STATUS_TIMEOUT : Fld := ⟨.cohErrStatus, 1, 1, .w1c, (.lit 0)⟩
/-- 13: COH_ERR_STATUS [0:0] DIR_CE. -/
def Fl.COH_ERR_STATUS_DIR_CE : Fld := ⟨.cohErrStatus, 0, 0, .w1c, (.lit 0)⟩
/-- 13: COH_ERR_COUNT [47:32] LATE_DISCARDED. -/
def Fl.COH_ERR_COUNT_LATE_DISCARDED : Fld := ⟨.cohErrCount, 47, 32, .rc, (.lit 0)⟩
/-- 13: COH_ERR_COUNT [31:16] TIMEOUTS. -/
def Fl.COH_ERR_COUNT_TIMEOUTS : Fld := ⟨.cohErrCount, 31, 16, .rc, (.lit 0)⟩
/-- 13: COH_ERR_COUNT [15:0] DIR_CE. -/
def Fl.COH_ERR_COUNT_DIR_CE : Fld := ⟨.cohErrCount, 15, 0, .rc, (.lit 0)⟩
/-- 13: COH_LAST_TIMEOUT [63:48] WAITED_ON. -/
def Fl.COH_LAST_TIMEOUT_WAITED_ON : Fld := ⟨.cohLastTimeout, 63, 48, .ro, (.lit 0)⟩
/-- 13: COH_LAST_TIMEOUT [47:6] LINE. -/
def Fl.COH_LAST_TIMEOUT_LINE : Fld := ⟨.cohLastTimeout, 47, 6, .ro, (.lit 0)⟩
/-- 13: COH_LAST_TIMEOUT [5:0] REQUEST. -/
def Fl.COH_LAST_TIMEOUT_REQUEST : Fld := ⟨.cohLastTimeout, 5, 0, .ro, (.lit 0)⟩
/-- 14: HBM_MODE [63:63] RECOVERY. -/
def Fl.HBM_MODE_RECOVERY : Fld := ⟨.hbmMode, 63, 63, .ro, (.lit 0)⟩
/-- 14: HBM_MODE [60:60] MODE. -/
def Fl.HBM_MODE_MODE : Fld := ⟨.hbmMode, 60, 60, .ro, .plate⟩
/-- 14: HBM_MODE [43:32] USABLE_GIB. -/
def Fl.HBM_MODE_USABLE_GIB : Fld := ⟨.hbmMode, 43, 32, .ro, (.lit 0)⟩
/-- 14: HBM_MODE [9:0] GOOD_PCS. -/
def Fl.HBM_MODE_GOOD_PCS : Fld := ⟨.hbmMode, 9, 0, .ro, (.lit 0)⟩
/-- 14: HBM_STACK [63:62] STATE. -/
def Fl.HBM_STACK_STATE : Fld := ⟨.hbmStack, 63, 62, .ro, (.lit 0)⟩
/-- 14: HBM_STACK [55:48] TEMP_C. -/
def Fl.HBM_STACK_TEMP_C : Fld := ⟨.hbmStack, 55, 48, .ro, (.lit 0)⟩
/-- 14: HBM_STACK [47:40] REPAIRED_LANES. -/
def Fl.HBM_STACK_REPAIRED_LANES : Fld := ⟨.hbmStack, 47, 40, .ro, (.lit 0)⟩
/-- 14: HBM_STACK [31:0] PC_GOOD. -/
def Fl.HBM_STACK_PC_GOOD : Fld := ⟨.hbmStack, 31, 0, .ro, (.lit 0)⟩
/-- 14: HBM_RECOVERY [3:0] EXCLUDE. -/
def Fl.HBM_RECOVERY_EXCLUDE : Fld := ⟨.hbmRecovery, 3, 0, .rwp, .persist⟩
/-- 14: HBM_BG [47:40] SCRUB_HOURS. -/
def Fl.HBM_BG_SCRUB_HOURS : Fld := ⟨.hbmBg, 47, 40, .rw, (.lit 24)⟩
/-- 14: HBM_BG [31:16] RECAL_PERIOD_MS. -/
def Fl.HBM_BG_RECAL_PERIOD_MS : Fld := ⟨.hbmBg, 31, 16, .rw, (.lit 50)⟩
/-- 14: HBM_BG [15:0] CE_THRESHOLD. -/
def Fl.HBM_BG_CE_THRESHOLD : Fld := ⟨.hbmBg, 15, 0, .rw, (.lit 256)⟩
/-- 14: HBM_STATS [63:48] RECAL_FORCED. -/
def Fl.HBM_STATS_RECAL_FORCED : Fld := ⟨.hbmStats, 63, 48, .rc, (.lit 0)⟩
/-- 14: HBM_STATS [47:32] SCRUB_LATE. -/
def Fl.HBM_STATS_SCRUB_LATE : Fld := ⟨.hbmStats, 47, 32, .rc, (.lit 0)⟩
/-- 14: HBM_STATS [31:16] UE. -/
def Fl.HBM_STATS_UE : Fld := ⟨.hbmStats, 31, 16, .rc, (.lit 0)⟩
/-- 14: HBM_STATS [15:0] CE. -/
def Fl.HBM_STATS_CE : Fld := ⟨.hbmStats, 15, 0, .rc, (.lit 0)⟩
/-- 14: HBM_SCRUB_PASS [63:0] LAST_END. -/
def Fl.HBM_SCRUB_PASS_LAST_END : Fld := ⟨.hbmScrubPass, 63, 0, .ro, (.lit 0)⟩
/-- 14: HBM_LAST_ERROR [63:62] KIND. -/
def Fl.HBM_LAST_ERROR_KIND : Fld := ⟨.hbmLastError, 63, 62, .ro, (.lit 0)⟩
/-- 14: HBM_LAST_ERROR [61:55] PC. -/
def Fl.HBM_LAST_ERROR_PC : Fld := ⟨.hbmLastError, 61, 55, .ro, (.lit 0)⟩
/-- 14: HBM_LAST_ERROR [47:6] LINE. -/
def Fl.HBM_LAST_ERROR_LINE : Fld := ⟨.hbmLastError, 47, 6, .ro, (.lit 0)⟩
/-- 14: DDR_POPULATION [56:48] CHANNEL_GIB. -/
def Fl.DDR_POPULATION_CHANNEL_GIB : Fld := ⟨.ddrPopulation, 56, 48, .ro, (.lit 0)⟩
/-- 14: DDR_POPULATION [47:32] MTS. -/
def Fl.DDR_POPULATION_MTS : Fld := ⟨.ddrPopulation, 47, 32, .ro, (.lit 0)⟩
/-- 14: DDR_POPULATION [31:30] TYPE. -/
def Fl.DDR_POPULATION_TYPE : Fld := ⟨.ddrPopulation, 31, 30, .ro, (.lit 0)⟩
/-- 14: DDR_POPULATION [29:28] DPC. -/
def Fl.DDR_POPULATION_DPC : Fld := ⟨.ddrPopulation, 29, 28, .ro, (.lit 0)⟩
/-- 14: DDR_POPULATION [15:8] FAILED. -/
def Fl.DDR_POPULATION_FAILED : Fld := ⟨.ddrPopulation, 15, 8, .ro, (.lit 0)⟩
/-- 14: DDR_POPULATION [7:0] POPULATED. -/
def Fl.DDR_POPULATION_POPULATED : Fld := ⟨.ddrPopulation, 7, 0, .ro, (.lit 0)⟩
/-- 14: DDR_BG [47:40] SCRUB_HOURS. -/
def Fl.DDR_BG_SCRUB_HOURS : Fld := ⟨.ddrBg, 47, 40, .rw, (.lit 24)⟩
/-- 14: DDR_BG [31:16] RECAL_PERIOD_MS. -/
def Fl.DDR_BG_RECAL_PERIOD_MS : Fld := ⟨.ddrBg, 31, 16, .rw, (.lit 50)⟩
/-- 14: DDR_BG [15:0] CE_THRESHOLD. -/
def Fl.DDR_BG_CE_THRESHOLD : Fld := ⟨.ddrBg, 15, 0, .rw, (.lit 256)⟩
/-- 14: DDR_STATS [63:48] RECAL_FORCED. -/
def Fl.DDR_STATS_RECAL_FORCED : Fld := ⟨.ddrStats, 63, 48, .rc, (.lit 0)⟩
/-- 14: DDR_STATS [47:32] SCRUB_LATE. -/
def Fl.DDR_STATS_SCRUB_LATE : Fld := ⟨.ddrStats, 47, 32, .rc, (.lit 0)⟩
/-- 14: DDR_STATS [31:16] UE. -/
def Fl.DDR_STATS_UE : Fld := ⟨.ddrStats, 31, 16, .rc, (.lit 0)⟩
/-- 14: DDR_STATS [15:0] CE. -/
def Fl.DDR_STATS_CE : Fld := ⟨.ddrStats, 15, 0, .rc, (.lit 0)⟩
/-- 14: DDR_SCRUB_PASS [63:0] LAST_END. -/
def Fl.DDR_SCRUB_PASS_LAST_END : Fld := ⟨.ddrScrubPass, 63, 0, .ro, (.lit 0)⟩
/-- 14: DDR_LAST_ERROR [63:62] KIND. -/
def Fl.DDR_LAST_ERROR_KIND : Fld := ⟨.ddrLastError, 63, 62, .ro, (.lit 0)⟩
/-- 14: DDR_LAST_ERROR [58:56] CHANNEL. -/
def Fl.DDR_LAST_ERROR_CHANNEL : Fld := ⟨.ddrLastError, 58, 56, .ro, (.lit 0)⟩
/-- 14: DDR_LAST_ERROR [47:6] LINE. -/
def Fl.DDR_LAST_ERROR_LINE : Fld := ⟨.ddrLastError, 47, 6, .ro, (.lit 0)⟩
/-- 15: LNK_CAPACITY [7:0] PORTS. -/
def Fl.LNK_CAPACITY_PORTS : Fld := ⟨.lnkCapacity, 7, 0, .ro, .fuse⟩
/-- 15: LNK_RECAL [31:16] WAIT_MS. -/
def Fl.LNK_RECAL_WAIT_MS : Fld := ⟨.lnkRecal, 31, 16, .rw, (.lit 100)⟩
/-- 15: LNK_RECAL [15:0] PERIOD_MS. -/
def Fl.LNK_RECAL_PERIOD_MS : Fld := ⟨.lnkRecal, 15, 0, .rw, (.lit 1000)⟩
/-- 15: LNK_STACK_THERMAL [63:48] ENTRIES. -/
def Fl.LNK_STACK_THERMAL_ENTRIES : Fld := ⟨.lnkStackThermal, 63, 48, .rc, (.lit 0)⟩
/-- 15: LNK_STACK_THERMAL [31:16] VLIMIT_MV. -/
def Fl.LNK_STACK_THERMAL_VLIMIT_MV : Fld := ⟨.lnkStackThermal, 31, 16, .ro, (.lit 900)⟩
/-- 15: LNK_STACK_THERMAL [7:0] NS_TEMP_C. -/
def Fl.LNK_STACK_THERMAL_NS_TEMP_C : Fld := ⟨.lnkStackThermal, 7, 0, .ro, (.lit 0)⟩
/-- 15: LNK_PORT_CFG [63:48] PEER. -/
def Fl.LNK_PORT_CFG_PEER : Fld := ⟨.lnkPortCfg, 63, 48, .ro, .fuse⟩
/-- 15: LNK_PORT_CFG [41:40] KIND. -/
def Fl.LNK_PORT_CFG_KIND : Fld := ⟨.lnkPortCfg, 41, 40, .ro, .fuse⟩
/-- 15: LNK_PORT_CFG [24:16] SPARES. -/
def Fl.LNK_PORT_CFG_SPARES : Fld := ⟨.lnkPortCfg, 24, 16, .ro, .fuse⟩
/-- 15: LNK_PORT_CFG [8:0] ACTIVE. -/
def Fl.LNK_PORT_CFG_ACTIVE : Fld := ⟨.lnkPortCfg, 8, 0, .ro, .fuse⟩
/-- 15: LNK_PORT_STATE [63:61] STATE. -/
def Fl.LNK_PORT_STATE_STATE : Fld := ⟨.lnkPortState, 63, 61, .ro, (.lit 0)⟩
/-- 15: LNK_PORT_STATE [55:48] EPOCH. -/
def Fl.LNK_PORT_STATE_EPOCH : Fld := ⟨.lnkPortState, 55, 48, .ro, (.lit 0)⟩
/-- 15: LNK_PORT_STATE [40:32] WIDTH. -/
def Fl.LNK_PORT_STATE_WIDTH : Fld := ⟨.lnkPortState, 40, 32, .ro, (.lit 0)⟩
/-- 15: LNK_PORT_STATE [24:16] SPARES_LEFT. -/
def Fl.LNK_PORT_STATE_SPARES_LEFT : Fld := ⟨.lnkPortState, 24, 16, .ro, (.lit 0)⟩
/-- 15: LNK_PORT_STATE [1:0] ATTEMPTS. -/
def Fl.LNK_PORT_STATE_ATTEMPTS : Fld := ⟨.lnkPortState, 1, 0, .ro, (.lit 0)⟩
/-- 15: LNK_PORT_CTL [1:1] REJECTED. -/
def Fl.LNK_PORT_CTL_REJECTED : Fld := ⟨.lnkPortCtl, 1, 1, .ro, (.lit 0)⟩
/-- 15: LNK_PORT_CTL [0:0] RETRAIN. -/
def Fl.LNK_PORT_CTL_RETRAIN : Fld := ⟨.lnkPortCtl, 0, 0, .w1s, (.lit 0)⟩
/-- 15: LNK_PORT_ERR [63:48] DISAGREE. -/
def Fl.LNK_PORT_ERR_DISAGREE : Fld := ⟨.lnkPortErr, 63, 48, .rc, (.lit 0)⟩
/-- 15: LNK_PORT_ERR [47:32] RETRAINS. -/
def Fl.LNK_PORT_ERR_RETRAINS : Fld := ⟨.lnkPortErr, 47, 32, .rc, (.lit 0)⟩
/-- 15: LNK_PORT_ERR [31:0] CRC. -/
def Fl.LNK_PORT_ERR_CRC : Fld := ⟨.lnkPortErr, 31, 0, .rc, (.lit 0)⟩
/-- 15: LNK_PORT_FLITS [63:0] SENT. -/
def Fl.LNK_PORT_FLITS_SENT : Fld := ⟨.lnkPortFlits, 63, 0, .ro, (.lit 0)⟩
/-- 16: PWR_CEILING [43:32] CAP_REQ_W. -/
def Fl.PWR_CEILING_CAP_REQ_W : Fld := ⟨.pwrCeiling, 43, 32, .rw, .plate⟩
/-- 16: PWR_CEILING [11:0] CEILING_W. -/
def Fl.PWR_CEILING_CEILING_W : Fld := ⟨.pwrCeiling, 11, 0, .rw, .plate⟩
/-- 16: PWR_RAMP [5:0] A_PER_US. -/
def Fl.PWR_RAMP_A_PER_US : Fld := ⟨.pwrRamp, 5, 0, .rw, (.lit 20)⟩
/-- 16: PWR_INPUT [63:48] MILLIVOLTS. -/
def Fl.PWR_INPUT_MILLIVOLTS : Fld := ⟨.pwrInput, 63, 48, .ro, (.lit 0)⟩
/-- 16: PWR_INPUT [47:32] DECIAMPS. -/
def Fl.PWR_INPUT_DECIAMPS : Fld := ⟨.pwrInput, 47, 32, .ro, (.lit 0)⟩
/-- 16: PWR_INPUT [15:0] WATTS. -/
def Fl.PWR_INPUT_WATTS : Fld := ⟨.pwrInput, 15, 0, .ro, (.lit 0)⟩
/-- 16: PWR_SHARE [43:32] HOST_W. -/
def Fl.PWR_SHARE_HOST_W : Fld := ⟨.pwrShare, 43, 32, .rw, (.lit 550)⟩
/-- 16: PWR_SHARE [31:0] WEIGHT. -/
def Fl.PWR_SHARE_WEIGHT : Fld := ⟨.pwrShare, 31, 0, .rw, (.lit 16843009)⟩
/-- 16: PWR_STATUS [63:48] EXCURSIONS. -/
def Fl.PWR_STATUS_EXCURSIONS : Fld := ⟨.pwrStatus, 63, 48, .rc, (.lit 0)⟩
/-- 16: PWR_STATUS [47:32] RIDE_THROUGHS. -/
def Fl.PWR_STATUS_RIDE_THROUGHS : Fld := ⟨.pwrStatus, 47, 32, .rc, (.lit 0)⟩
/-- 16: PWR_STATUS [7:7] UNMET. -/
def Fl.PWR_STATUS_UNMET : Fld := ⟨.pwrStatus, 7, 7, .ro, (.lit 0)⟩
/-- 16: PWR_STATUS [6:6] CLAMP. -/
def Fl.PWR_STATUS_CLAMP : Fld := ⟨.pwrStatus, 6, 6, .ro, (.lit 0)⟩
/-- 16: PWR_STATUS [5:5] FINDER_LIMITED. -/
def Fl.PWR_STATUS_FINDER_LIMITED : Fld := ⟨.pwrStatus, 5, 5, .ro, (.lit 0)⟩
/-- 16: PWR_STATUS [4:4] GATING. -/
def Fl.PWR_STATUS_GATING : Fld := ⟨.pwrStatus, 4, 4, .ro, (.lit 0)⟩
/-- 16: PWR_STATUS [3:3] HOST_CAPPED. -/
def Fl.PWR_STATUS_HOST_CAPPED : Fld := ⟨.pwrStatus, 3, 3, .ro, (.lit 0)⟩
/-- 16: PWR_STATUS [2:2] EXCURSION. -/
def Fl.PWR_STATUS_EXCURSION : Fld := ⟨.pwrStatus, 2, 2, .ro, (.lit 0)⟩
/-- 16: PWR_STATUS [1:1] RIDE_THROUGH. -/
def Fl.PWR_STATUS_RIDE_THROUGH : Fld := ⟨.pwrStatus, 1, 1, .ro, (.lit 0)⟩
/-- 16: PWR_STATUS [0:0] CAP_REQ. -/
def Fl.PWR_STATUS_CAP_REQ : Fld := ⟨.pwrStatus, 0, 0, .ro, (.lit 0)⟩
/-- 16: PWR_LEARN [63:32] MISSES. -/
def Fl.PWR_LEARN_MISSES : Fld := ⟨.pwrLearn, 63, 32, .rc, (.lit 0)⟩
/-- 16: PWR_LEARN [20:10] ENTRIES. -/
def Fl.PWR_LEARN_ENTRIES : Fld := ⟨.pwrLearn, 20, 10, .ro, (.lit 0)⟩
/-- 16: PWR_LEARN [0:0] FLUSH. -/
def Fl.PWR_LEARN_FLUSH : Fld := ⟨.pwrLearn, 0, 0, .w1s, (.lit 0)⟩
/-- 16: PWR_THERM [63:63] ALERT. -/
def Fl.PWR_THERM_ALERT : Fld := ⟨.pwrTherm, 63, 63, .ro, (.lit 0)⟩
/-- 16: PWR_THERM [44:40] HOTTEST_DIE. -/
def Fl.PWR_THERM_HOTTEST_DIE : Fld := ⟨.pwrTherm, 44, 40, .ro, (.lit 0)⟩
/-- 16: PWR_THERM [39:32] HOTTEST_C. -/
def Fl.PWR_THERM_HOTTEST_C : Fld := ⟨.pwrTherm, 39, 32, .ro, (.lit 0)⟩
/-- 16: PWR_THERM [15:0] LIMIT_EVENTS. -/
def Fl.PWR_THERM_LIMIT_EVENTS : Fld := ⟨.pwrTherm, 15, 0, .rc, (.lit 0)⟩
/-- 16: PWR_JOB_CTL [63:63] ENABLE. -/
def Fl.PWR_JOB_CTL_ENABLE : Fld := ⟨.pwrJobCtl, 63, 63, .rw, (.lit 0)⟩
/-- 16: PWR_JOB_CTL [62:62] COORDINATOR. -/
def Fl.PWR_JOB_CTL_COORDINATOR : Fld := ⟨.pwrJobCtl, 62, 62, .rw, (.lit 0)⟩
/-- 16: PWR_JOB_CTL [61:60] PARTITION. -/
def Fl.PWR_JOB_CTL_PARTITION : Fld := ⟨.pwrJobCtl, 61, 60, .rw, (.lit 0)⟩
/-- 16: PWR_JOB_CTL [59:44] JOB_ID. -/
def Fl.PWR_JOB_CTL_JOB_ID : Fld := ⟨.pwrJobCtl, 59, 44, .rw, (.lit 0)⟩
/-- 16: PWR_JOB_CTL [43:32] STEP_W. -/
def Fl.PWR_JOB_CTL_STEP_W : Fld := ⟨.pwrJobCtl, 43, 32, .rw, (.lit 25)⟩
/-- 16: PWR_JOB_CTL [11:0] BUDGET_W. -/
def Fl.PWR_JOB_CTL_BUDGET_W : Fld := ⟨.pwrJobCtl, 11, 0, .rw, (.lit 0)⟩
/-- 16: PWR_JOB_STATUS [63:48] MISSED. -/
def Fl.PWR_JOB_STATUS_MISSED : Fld := ⟨.pwrJobStatus, 63, 48, .rc, (.lit 0)⟩
/-- 16: PWR_JOB_STATUS [47:32] SLACK_US. -/
def Fl.PWR_JOB_STATUS_SLACK_US : Fld := ⟨.pwrJobStatus, 47, 32, .ro, (.lit 0)⟩
/-- 16: PWR_JOB_STATUS [11:0] GRANT_W. -/
def Fl.PWR_JOB_STATUS_GRANT_W : Fld := ⟨.pwrJobStatus, 11, 0, .ro, (.lit 0)⟩
/-- 16: PWR_DOMAIN [63:62] STATE. -/
def Fl.PWR_DOMAIN_STATE : Fld := ⟨.pwrDomain, 63, 62, .ro, (.lit 0)⟩
/-- 16: PWR_DOMAIN [61:61] OFF_REQ. -/
def Fl.PWR_DOMAIN_OFF_REQ : Fld := ⟨.pwrDomain, 61, 61, .rw, (.lit 0)⟩
/-- 16: PWR_DOMAIN [60:60] REJECTED. -/
def Fl.PWR_DOMAIN_REJECTED : Fld := ⟨.pwrDomain, 60, 60, .ro, (.lit 0)⟩
/-- 16: PWR_DOMAIN [47:32] MILLIVOLTS. -/
def Fl.PWR_DOMAIN_MILLIVOLTS : Fld := ⟨.pwrDomain, 47, 32, .ro, (.lit 0)⟩
/-- 16: PWR_DOMAIN [15:0] UNIT. -/
def Fl.PWR_DOMAIN_UNIT : Fld := ⟨.pwrDomain, 15, 0, .rw, (.lit 0)⟩
/-- 16: PWD_IDLE [15:0] IDLE_US. -/
def Fl.PWD_IDLE_IDLE_US : Fld := ⟨.pwdIdle, 15, 0, .rw, (.lit 100)⟩
/-- 16: PWD_GATE [47:32] WAKES. -/
def Fl.PWD_GATE_WAKES : Fld := ⟨.pwdGate, 47, 32, .rc, (.lit 0)⟩
/-- 16: PWD_GATE [31:0] GATED_US. -/
def Fl.PWD_GATE_GATED_US : Fld := ⟨.pwdGate, 31, 0, .rc, (.lit 0)⟩
/-- 16: PWD_PAIR [63:62] STATE. -/
def Fl.PWD_PAIR_STATE : Fld := ⟨.pwdPair, 63, 62, .ro, (.lit 0)⟩
/-- 16: PWD_PAIR [59:56] LIMIT_REASON. -/
def Fl.PWD_PAIR_LIMIT_REASON : Fld := ⟨.pwdPair, 59, 56, .ro, (.lit 0)⟩
/-- 16: PWD_PAIR [50:48] GATE. -/
def Fl.PWD_PAIR_GATE : Fld := ⟨.pwdPair, 50, 48, .ro, (.lit 0)⟩
/-- 16: PWD_PAIR [31:16] TARGET_MV. -/
def Fl.PWD_PAIR_TARGET_MV : Fld := ⟨.pwdPair, 31, 16, .ro, (.lit 0)⟩
/-- 16: PWD_PAIR [15:0] VOLT_MV. -/
def Fl.PWD_PAIR_VOLT_MV : Fld := ⟨.pwdPair, 15, 0, .ro, (.lit 0)⟩
/-- 16: PWD_ENERGY [63:0] MICROJOULES. -/
def Fl.PWD_ENERGY_MICROJOULES : Fld := ⟨.pwdEnergy, 63, 0, .ro, (.lit 0)⟩
/-- 17: NET_DEVICE [11:0] DEVICE_ID. -/
def Fl.NET_DEVICE_DEVICE_ID : Fld := ⟨.netDevice, 11, 0, .rw, .plate⟩
/-- 17: NET_ROUTE_SEL [11:0] DEVICE. -/
def Fl.NET_ROUTE_SEL_DEVICE : Fld := ⟨.netRouteSel, 11, 0, .rw, (.lit 0)⟩
/-- 17: NET_ROUTE [63:63] VALID. -/
def Fl.NET_ROUTE_VALID : Fld := ⟨.netRoute, 63, 63, .rw, (.lit 0)⟩
/-- 17: NET_ROUTE [58:56] PORT. -/
def Fl.NET_ROUTE_PORT : Fld := ⟨.netRoute, 58, 56, .rw, (.lit 0)⟩
/-- 17: NET_ROUTE [47:40] HOPS. -/
def Fl.NET_ROUTE_HOPS : Fld := ⟨.netRoute, 47, 40, .rw, (.lit 0)⟩
/-- 17: NET_ROUTE [31:0] LATENCY_NS. -/
def Fl.NET_ROUTE_LATENCY_NS : Fld := ⟨.netRoute, 31, 0, .ro, (.lit 0)⟩
/-- 17: NET_EXPORT [63:63] ENABLE. -/
def Fl.NET_EXPORT_ENABLE : Fld := ⟨.netExport, 63, 63, .rw, (.lit 0)⟩
/-- 17: NET_EXPORT [53:36] LAST_GIB. -/
def Fl.NET_EXPORT_LAST_GIB : Fld := ⟨.netExport, 53, 36, .rw, (.lit 0)⟩
/-- 17: NET_EXPORT [17:0] FIRST_GIB. -/
def Fl.NET_EXPORT_FIRST_GIB : Fld := ⟨.netExport, 17, 0, .rw, (.lit 0)⟩
/-- 17: NET_FCTR_SEL [10:0] COUNTER. -/
def Fl.NET_FCTR_SEL_COUNTER : Fld := ⟨.netFctrSel, 10, 0, .rw, (.lit 0)⟩
/-- 17: NET_FCTR_VAL [42:32] WAITS. -/
def Fl.NET_FCTR_VAL_WAITS : Fld := ⟨.netFctrVal, 42, 32, .ro, (.lit 0)⟩
/-- 17: NET_FCTR_VAL [31:0] VALUE. -/
def Fl.NET_FCTR_VAL_VALUE : Fld := ⟨.netFctrVal, 31, 0, .rw, (.lit 0)⟩
/-- 17: NET_QP_CTL [63:63] ENABLE. -/
def Fl.NET_QP_CTL_ENABLE : Fld := ⟨.netQpCtl, 63, 63, .rw, (.lit 0)⟩
/-- 17: NET_QP_CTL [62:61] STATE. -/
def Fl.NET_QP_CTL_STATE : Fld := ⟨.netQpCtl, 62, 61, .ro, (.lit 0)⟩
/-- 17: NET_QP_CTL [47:8] RECORD. -/
def Fl.NET_QP_CTL_RECORD : Fld := ⟨.netQpCtl, 47, 8, .rw, (.lit 0)⟩
/-- 17: NET_QP_SEL [13:0] QP. -/
def Fl.NET_QP_SEL_QP : Fld := ⟨.netQpSel, 13, 0, .rw, (.lit 0)⟩
/-- 17: NET_QP_DOORBELL [61:48] QP. -/
def Fl.NET_QP_DOORBELL_QP : Fld := ⟨.netQpDoorbell, 61, 48, .wo, (.lit 0)⟩
/-- 17: NET_QP_DOORBELL [47:0] TAIL. -/
def Fl.NET_QP_DOORBELL_TAIL : Fld := ⟨.netQpDoorbell, 47, 0, .wo, (.lit 0)⟩
/-- 17: NET_PORT_CFG [63:63] ENABLE. -/
def Fl.NET_PORT_CFG_ENABLE : Fld := ⟨.netPortCfg, 63, 63, .rw, (.lit 0)⟩
/-- 17: NET_PORT_CFG [62:62] MODE. -/
def Fl.NET_PORT_CFG_MODE : Fld := ⟨.netPortCfg, 62, 62, .rw, (.lit 0)⟩
/-- 17: NET_PORT_CFG [55:48] PFC_MASK. -/
def Fl.NET_PORT_CFG_PFC_MASK : Fld := ⟨.netPortCfg, 55, 48, .rw, (.lit 0)⟩
/-- 17: NET_PORT_CFG [47:0] MAC. -/
def Fl.NET_PORT_CFG_MAC : Fld := ⟨.netPortCfg, 47, 0, .rw, .fuse⟩
/-- 17: NET_PORT_STATE [63:62] STATE. -/
def Fl.NET_PORT_STATE_STATE : Fld := ⟨.netPortState, 63, 62, .ro, (.lit 0)⟩
/-- 17: NET_PORT_STATE [43:32] PEER. -/
def Fl.NET_PORT_STATE_PEER : Fld := ⟨.netPortState, 43, 32, .ro, (.lit 0)⟩
/-- 17: NET_PORT_STATE [31:16] TTL_DROPS. -/
def Fl.NET_PORT_STATE_TTL_DROPS : Fld := ⟨.netPortState, 31, 16, .rc, (.lit 0)⟩
/-- 17: NET_PORT_STATE [15:0] RETRANSMITS. -/
def Fl.NET_PORT_STATE_RETRANSMITS : Fld := ⟨.netPortState, 15, 0, .rc, (.lit 0)⟩
/-- 17: PCI_BIFURCATION [3:2] HALF1. -/
def Fl.PCI_BIFURCATION_HALF1 : Fld := ⟨.pciBifurcation, 3, 2, .ro, .plate⟩
/-- 17: PCI_BIFURCATION [1:0] HALF0. -/
def Fl.PCI_BIFURCATION_HALF0 : Fld := ⟨.pciBifurcation, 1, 0, .ro, .plate⟩
/-- 17: PCI_RP_STATE [63:62] STATE. -/
def Fl.PCI_RP_STATE_STATE : Fld := ⟨.pciRpState, 63, 62, .ro, (.lit 0)⟩
/-- 17: PCI_RP_STATE [55:48] WIDTH. -/
def Fl.PCI_RP_STATE_WIDTH : Fld := ⟨.pciRpState, 55, 48, .ro, (.lit 0)⟩
/-- 17: PCI_RP_STATE [47:40] GTS. -/
def Fl.PCI_RP_STATE_GTS : Fld := ⟨.pciRpState, 47, 40, .ro, (.lit 0)⟩
/-- 17: PCI_RP_STATE [15:0] UR_COUNT. -/
def Fl.PCI_RP_STATE_UR_COUNT : Fld := ⟨.pciRpState, 15, 0, .rc, (.lit 0)⟩
/-- 17: PCI_RP_DMA [47:30] LAST_GIB. -/
def Fl.PCI_RP_DMA_LAST_GIB : Fld := ⟨.pciRpDma, 47, 30, .rw, (.lit 0)⟩
/-- 17: PCI_RP_DMA [17:0] FIRST_GIB. -/
def Fl.PCI_RP_DMA_FIRST_GIB : Fld := ⟨.pciRpDma, 17, 0, .rw, (.lit 0)⟩
/-- 17: PCI_RP_CXL [63:63] ENABLE. -/
def Fl.PCI_RP_CXL_ENABLE : Fld := ⟨.pciRpCxl, 63, 63, .rw, (.lit 0)⟩
/-- 17: PCI_RP_CXL [62:62] REJECTED. -/
def Fl.PCI_RP_CXL_REJECTED : Fld := ⟨.pciRpCxl, 62, 62, .ro, (.lit 0)⟩
/-- 17: PCI_RP_CXL [45:32] SIZE_GIB. -/
def Fl.PCI_RP_CXL_SIZE_GIB : Fld := ⟨.pciRpCxl, 45, 32, .rw, (.lit 0)⟩
/-- 17: PCI_RP_CXL [13:0] BASE_GIB. -/
def Fl.PCI_RP_CXL_BASE_GIB : Fld := ⟨.pciRpCxl, 13, 0, .rw, (.lit 0)⟩
/-- 18: MED_CAPACITY [15:8] ENCODE. -/
def Fl.MED_CAPACITY_ENCODE : Fld := ⟨.medCapacity, 15, 8, .ro, .fuse⟩
/-- 18: MED_CAPACITY [7:0] DECODE. -/
def Fl.MED_CAPACITY_DECODE : Fld := ⟨.medCapacity, 7, 0, .ro, .fuse⟩
/-- 18: MED_PIPE [63:63] ENABLE. -/
def Fl.MED_PIPE_ENABLE : Fld := ⟨.medPipe, 63, 63, .rw, (.lit 1)⟩
/-- 18: MED_PIPE [62:61] STATE. -/
def Fl.MED_PIPE_STATE : Fld := ⟨.medPipe, 62, 61, .ro, (.lit 0)⟩
/-- 18: MED_PIPE [47:32] CONTEXT. -/
def Fl.MED_PIPE_CONTEXT : Fld := ⟨.medPipe, 47, 32, .ro, (.lit 0)⟩
/-- 18: MED_PIPE [31:0] FRAMES. -/
def Fl.MED_PIPE_FRAMES : Fld := ⟨.medPipe, 31, 0, .rc, (.lit 0)⟩
/-- 18: MED_ERR_COUNT [63:48] PIPELINE. -/
def Fl.MED_ERR_COUNT_PIPELINE : Fld := ⟨.medErrCount, 63, 48, .rc, (.lit 0)⟩
/-- 18: MED_ERR_COUNT [47:32] BITSTREAM. -/
def Fl.MED_ERR_COUNT_BITSTREAM : Fld := ⟨.medErrCount, 47, 32, .rc, (.lit 0)⟩
/-- 18: MED_ERR_COUNT [31:16] CE. -/
def Fl.MED_ERR_COUNT_CE : Fld := ⟨.medErrCount, 31, 16, .rc, (.lit 0)⟩
/-- 18: MED_ERR_COUNT [15:0] OTHER. -/
def Fl.MED_ERR_COUNT_OTHER : Fld := ⟨.medErrCount, 15, 0, .rc, (.lit 0)⟩
/-- 19: RST_CAUSE [47:32] UNIT. -/
def Fl.RST_CAUSE_UNIT : Fld := ⟨.rstCause, 47, 32, .ro, (.lit 0)⟩
/-- 19: RST_CAUSE [9:8] LEVEL. -/
def Fl.RST_CAUSE_LEVEL : Fld := ⟨.rstCause, 9, 8, .ro, (.lit 0)⟩
/-- 19: RST_CAUSE [7:0] SOURCE. -/
def Fl.RST_CAUSE_SOURCE : Fld := ⟨.rstCause, 7, 0, .ro, (.lit 0)⟩
/-- 19: RST_HIST [63:0] ENTRY. -/
def Fl.RST_HIST_ENTRY : Fld := ⟨.rstHist, 63, 0, .ro, (.lit 0)⟩
/-- 19: RST_CTL [63:63] REJECTED. -/
def Fl.RST_CTL_REJECTED : Fld := ⟨.rstCtl, 63, 63, .ro, (.lit 0)⟩
/-- 19: RST_CTL [23:16] KEY. -/
def Fl.RST_CTL_KEY : Fld := ⟨.rstCtl, 23, 16, .wo, (.lit 0)⟩
/-- 19: RST_CTL [9:8] LEVEL. -/
def Fl.RST_CTL_LEVEL : Fld := ⟨.rstCtl, 9, 8, .wo, (.lit 0)⟩
/-- 19: RST_CTL [1:0] PARTITION. -/
def Fl.RST_CTL_PARTITION : Fld := ⟨.rstCtl, 1, 0, .wo, (.lit 0)⟩
/-- 19: RST_PART [31:16] COUNT. -/
def Fl.RST_PART_COUNT : Fld := ⟨.rstPart, 31, 16, .rc, (.lit 0)⟩
/-- 19: RST_PART [7:0] STATE. -/
def Fl.RST_PART_STATE : Fld := ⟨.rstPart, 7, 0, .ro, (.lit 0)⟩
/-- 19: BOOT_STATUS [47:32] PLATE_KIB. -/
def Fl.BOOT_STATUS_PLATE_KIB : Fld := ⟨.bootStatus, 47, 32, .ro, (.lit 0)⟩
/-- 19: BOOT_STATUS [31:24] CODE. -/
def Fl.BOOT_STATUS_CODE : Fld := ⟨.bootStatus, 31, 24, .ro, (.lit 0)⟩
/-- 19: BOOT_STATUS [17:16] SOURCE. -/
def Fl.BOOT_STATUS_SOURCE : Fld := ⟨.bootStatus, 17, 16, .ro, (.lit 0)⟩
/-- 19: BOOT_STATUS [3:0] STAGE. -/
def Fl.BOOT_STATUS_STAGE : Fld := ⟨.bootStatus, 3, 0, .ro, (.lit 0)⟩
/-- 19: BOOT_NEXT [63:63] VALID. -/
def Fl.BOOT_NEXT_VALID : Fld := ⟨.bootNext, 63, 63, .rw, (.lit 0)⟩
/-- 19: BOOT_NEXT [0:0] BANK. -/
def Fl.BOOT_NEXT_BANK : Fld := ⟨.bootNext, 0, 0, .rw, (.lit 0)⟩
/-- 19: STRAP_STATUS [63:63] UNSTABLE. -/
def Fl.STRAP_STATUS_UNSTABLE : Fld := ⟨.strapStatus, 63, 63, .ro, (.lit 0)⟩
/-- 19: STRAP_STATUS [31:16] MILLIVOLTS. -/
def Fl.STRAP_STATUS_MILLIVOLTS : Fld := ⟨.strapStatus, 31, 16, .ro, (.lit 0)⟩
/-- 19: STRAP_STATUS [7:4] BAND. -/
def Fl.STRAP_STATUS_BAND : Fld := ⟨.strapStatus, 7, 4, .ro, (.lit 0)⟩
/-- 19: STRAP_STATUS [3:3] EYEPIECE. -/
def Fl.STRAP_STATUS_EYEPIECE : Fld := ⟨.strapStatus, 3, 3, .ro, (.lit 0)⟩
/-- 19: STRAP_STATUS [2:2] HBM_LINEAR. -/
def Fl.STRAP_STATUS_HBM_LINEAR : Fld := ⟨.strapStatus, 2, 2, .ro, (.lit 0)⟩
/-- 19: STRAP_STATUS [1:0] BOOT_SOURCE. -/
def Fl.STRAP_STATUS_BOOT_SOURCE : Fld := ⟨.strapStatus, 1, 0, .ro, (.lit 0)⟩
/-- 19: PRS_STATUS [63:63] BAD. -/
def Fl.PRS_STATUS_BAD : Fld := ⟨.prsStatus, 63, 63, .ro, (.lit 0)⟩
/-- 19: PRS_STATUS [55:48] BAD_REG. -/
def Fl.PRS_STATUS_BAD_REG : Fld := ⟨.prsStatus, 55, 48, .ro, (.lit 0)⟩
/-- 19: PRS_STATUS [47:32] REJECTED_WRITES. -/
def Fl.PRS_STATUS_REJECTED_WRITES : Fld := ⟨.prsStatus, 47, 32, .rc, (.lit 0)⟩
/-- 19: PRS_STATUS [8:0] PENDING. -/
def Fl.PRS_STATUS_PENDING : Fld := ⟨.prsStatus, 8, 0, .ro, (.lit 0)⟩
/-- 19: PRS_PEND [63:0] PENDING. -/
def Fl.PRS_PEND_PENDING : Fld := ⟨.prsPend, 63, 0, .ro, (.lit 0)⟩
/-- 19: PRS_WEAR_SEL [7:0] REG. -/
def Fl.PRS_WEAR_SEL_REG : Fld := ⟨.prsWearSel, 7, 0, .rw, (.lit 0)⟩
/-- 19: PRS_WEAR [63:63] EXHAUSTED. -/
def Fl.PRS_WEAR_EXHAUSTED : Fld := ⟨.prsWear, 63, 63, .ro, .persist⟩
/-- 19: PRS_WEAR [62:62] WARNED. -/
def Fl.PRS_WEAR_WARNED : Fld := ⟨.prsWear, 62, 62, .ro, .persist⟩
/-- 19: PRS_WEAR [34:32] COPY. -/
def Fl.PRS_WEAR_COPY : Fld := ⟨.prsWear, 34, 32, .ro, .persist⟩
/-- 19: PRS_WEAR [23:0] COMMITS. -/
def Fl.PRS_WEAR_COMMITS : Fld := ⟨.prsWear, 23, 0, .ro, .persist⟩
/-- 19: PRS_REG [63:0] VALUE. -/
def Fl.PRS_REG_VALUE : Fld := ⟨.prsReg, 63, 0, .rwp, .persist⟩
/-- 20: SEC_STATUS [15:12] REVOKED. -/
def Fl.SEC_STATUS_REVOKED : Fld := ⟨.secStatus, 15, 12, .ro, .fuse⟩
/-- 20: SEC_STATUS [11:8] PROGRAMMED. -/
def Fl.SEC_STATUS_PROGRAMMED : Fld := ⟨.secStatus, 11, 8, .ro, .fuse⟩
/-- 20: SEC_STATUS [5:4] PLATE_SLOT. -/
def Fl.SEC_STATUS_PLATE_SLOT : Fld := ⟨.secStatus, 5, 4, .ro, (.lit 0)⟩
/-- 20: SEC_STATUS [3:3] LOCKOUT. -/
def Fl.SEC_STATUS_LOCKOUT : Fld := ⟨.secStatus, 3, 3, .ro, (.lit 0)⟩
/-- 20: SEC_STATUS [1:0] DEBUG_LEVEL. -/
def Fl.SEC_STATUS_DEBUG_LEVEL : Fld := ⟨.secStatus, 1, 0, .ro, (.lit 0)⟩
/-- 20: SEC_KEY_CTL [63:63] REJECTED. -/
def Fl.SEC_KEY_CTL_REJECTED : Fld := ⟨.secKeyCtl, 63, 63, .ro, (.lit 0)⟩
/-- 20: SEC_KEY_CTL [9:8] OP. -/
def Fl.SEC_KEY_CTL_OP : Fld := ⟨.secKeyCtl, 9, 8, .wo, (.lit 0)⟩
/-- 20: SEC_KEY_CTL [1:0] SLOT. -/
def Fl.SEC_KEY_CTL_SLOT : Fld := ⟨.secKeyCtl, 1, 0, .wo, (.lit 0)⟩
/-- 20: SEC_MR_SEL [3:0] INDEX. -/
def Fl.SEC_MR_SEL_INDEX : Fld := ⟨.secMrSel, 3, 0, .rw, (.lit 0)⟩
/-- 20: SEC_MR_VAL [63:0] BYTES. -/
def Fl.SEC_MR_VAL_BYTES : Fld := ⟨.secMrVal, 63, 0, .ro, (.lit 0)⟩
/-- 20: SEC_MR_DATA [63:0] BYTES. -/
def Fl.SEC_MR_DATA_BYTES : Fld := ⟨.secMrData, 63, 0, .rw, (.lit 0)⟩
/-- 20: SEC_MR_EXTEND [63:63] BUSY. -/
def Fl.SEC_MR_EXTEND_BUSY : Fld := ⟨.secMrExtend, 63, 63, .ro, (.lit 0)⟩
/-- 20: SEC_MR_EXTEND [62:62] REJECTED. -/
def Fl.SEC_MR_EXTEND_REJECTED : Fld := ⟨.secMrExtend, 62, 62, .ro, (.lit 0)⟩
/-- 20: SEC_MR_EXTEND [4:4] START. -/
def Fl.SEC_MR_EXTEND_START : Fld := ⟨.secMrExtend, 4, 4, .w1s, (.lit 0)⟩
/-- 20: SEC_MR_EXTEND [3:0] INDEX. -/
def Fl.SEC_MR_EXTEND_INDEX : Fld := ⟨.secMrExtend, 3, 0, .rw, (.lit 0)⟩
/-- 20: SEC_ROLLBACK [63:63] REJECTED. -/
def Fl.SEC_ROLLBACK_REJECTED : Fld := ⟨.secRollback, 63, 63, .ro, (.lit 0)⟩
/-- 20: SEC_ROLLBACK [35:32] INDEX. -/
def Fl.SEC_ROLLBACK_INDEX : Fld := ⟨.secRollback, 35, 32, .wo, (.lit 0)⟩
/-- 20: SEC_ROLLBACK [31:0] VALUE. -/
def Fl.SEC_ROLLBACK_VALUE : Fld := ⟨.secRollback, 31, 0, .wo, (.lit 0)⟩
/-- 20: SEC_UPDATE [63:63] BUSY. -/
def Fl.SEC_UPDATE_BUSY : Fld := ⟨.secUpdate, 63, 63, .ro, (.lit 0)⟩
/-- 20: SEC_UPDATE [62:62] REJECTED. -/
def Fl.SEC_UPDATE_REJECTED : Fld := ⟨.secUpdate, 62, 62, .ro, (.lit 0)⟩
/-- 20: SEC_UPDATE [55:48] RESULT. -/
def Fl.SEC_UPDATE_RESULT : Fld := ⟨.secUpdate, 55, 48, .ro, (.lit 0)⟩
/-- 20: SEC_UPDATE [11:8] ACTIVE. -/
def Fl.SEC_UPDATE_ACTIVE : Fld := ⟨.secUpdate, 11, 8, .ro, (.lit 0)⟩
/-- 20: SEC_UPDATE [4:4] COMMIT. -/
def Fl.SEC_UPDATE_COMMIT : Fld := ⟨.secUpdate, 4, 4, .rw, (.lit 0)⟩
/-- 20: SEC_UPDATE [3:3] START. -/
def Fl.SEC_UPDATE_START : Fld := ⟨.secUpdate, 3, 3, .w1s, (.lit 0)⟩
/-- 20: SEC_UPDATE [2:0] CONTROLLER. -/
def Fl.SEC_UPDATE_CONTROLLER : Fld := ⟨.secUpdate, 2, 0, .rw, (.lit 0)⟩
/-- 20: SEC_UPDATE_ADDR [47:0] VALUE. -/
def Fl.SEC_UPDATE_ADDR_VALUE : Fld := ⟨.secUpdateAddr, 47, 0, .rw, (.lit 0)⟩
/-- 20: SEC_UPDATE_LEN [47:0] VALUE. -/
def Fl.SEC_UPDATE_LEN_VALUE : Fld := ⟨.secUpdateLen, 47, 0, .rw, (.lit 0)⟩
/-- 20: SEC_DBG_CHALLENGE [63:0] BYTES. -/
def Fl.SEC_DBG_CHALLENGE_BYTES : Fld := ⟨.secDbgChallenge, 63, 0, .ro, (.lit 0)⟩
/-- 20: SEC_DBG_RESPONSE [63:0] BYTES. -/
def Fl.SEC_DBG_RESPONSE_BYTES : Fld := ⟨.secDbgResponse, 63, 0, .wo, (.lit 0)⟩
/-- 20: SEC_DBG_KEY [63:0] BYTES. -/
def Fl.SEC_DBG_KEY_BYTES : Fld := ⟨.secDbgKey, 63, 0, .wo, (.lit 0)⟩
/-- 20: SEC_DBG_CTL [63:56] RESULT. -/
def Fl.SEC_DBG_CTL_RESULT : Fld := ⟨.secDbgCtl, 63, 56, .ro, (.lit 0)⟩
/-- 20: SEC_DBG_CTL [9:8] FAILURES. -/
def Fl.SEC_DBG_CTL_FAILURES : Fld := ⟨.secDbgCtl, 9, 8, .ro, (.lit 0)⟩
/-- 20: SEC_DBG_CTL [3:2] LEVEL. -/
def Fl.SEC_DBG_CTL_LEVEL : Fld := ⟨.secDbgCtl, 3, 2, .rw, (.lit 0)⟩
/-- 20: SEC_DBG_CTL [1:1] SUBMIT. -/
def Fl.SEC_DBG_CTL_SUBMIT : Fld := ⟨.secDbgCtl, 1, 1, .w1s, (.lit 0)⟩
/-- 20: SEC_DBG_CTL [0:0] NEW. -/
def Fl.SEC_DBG_CTL_NEW : Fld := ⟨.secDbgCtl, 0, 0, .w1s, (.lit 0)⟩
/-- 20: SEC_CERT_SEL [7:0] WORD. -/
def Fl.SEC_CERT_SEL_WORD : Fld := ⟨.secCertSel, 7, 0, .rw, (.lit 0)⟩
/-- 20: SEC_CERT_DATA [63:0] BYTES. -/
def Fl.SEC_CERT_DATA_BYTES : Fld := ⟨.secCertData, 63, 0, .ro, .fuse⟩
/-- 21: EVT_LOG [63:63] ENABLE. -/
def Fl.EVT_LOG_ENABLE : Fld := ⟨.evtLog, 63, 63, .rw, .plate⟩
/-- 21: EVT_LOG [47:17] BASE. -/
def Fl.EVT_LOG_BASE : Fld := ⟨.evtLog, 47, 17, .rw, .plate⟩
/-- 21: EVT_PROD [31:0] COUNT. -/
def Fl.EVT_PROD_COUNT : Fld := ⟨.evtProd, 31, 0, .ro, (.lit 0)⟩
/-- 21: EVT_CONS [31:0] COUNT. -/
def Fl.EVT_CONS_COUNT : Fld := ⟨.evtCons, 31, 0, .rw, (.lit 0)⟩
/-- 21: EVT_IRQ [63:63] ENABLE. -/
def Fl.EVT_IRQ_ENABLE : Fld := ⟨.evtIrq, 63, 63, .rw, (.lit 0)⟩
/-- 21: EVT_IRQ [17:16] MIN_SEVERITY. -/
def Fl.EVT_IRQ_MIN_SEVERITY : Fld := ⟨.evtIrq, 17, 16, .rw, (.lit 0)⟩
/-- 21: EVT_IRQ [15:0] VECTOR. -/
def Fl.EVT_IRQ_VECTOR : Fld := ⟨.evtIrq, 15, 0, .rw, (.lit 0)⟩
/-- 21: EVT_LOST [63:32] OVERWRITTEN. -/
def Fl.EVT_LOST_OVERWRITTEN : Fld := ⟨.evtLost, 63, 32, .rc, (.lit 0)⟩
/-- 21: EVT_LOST [31:0] DROPPED. -/
def Fl.EVT_LOST_DROPPED : Fld := ⟨.evtLost, 31, 0, .rc, (.lit 0)⟩
/-- 21: TIME_NOW [63:0] NS. -/
def Fl.TIME_NOW_NS : Fld := ⟨.timeNow, 63, 0, .ro, (.lit 0)⟩
/-- 21: DBG_CTL [1:1] TRACE_EN. -/
def Fl.DBG_CTL_TRACE_EN : Fld := ⟨.dbgCtl, 1, 1, .rw, (.lit 0)⟩
/-- 21: DBG_CTL [0:0] EYEPIECE_EN. -/
def Fl.DBG_CTL_EYEPIECE_EN : Fld := ⟨.dbgCtl, 0, 0, .rw, .strap⟩
/-- 21: DBG_TRACE [63:63] STOPPED. -/
def Fl.DBG_TRACE_STOPPED : Fld := ⟨.dbgTrace, 63, 63, .w1c, (.lit 0)⟩
/-- 21: DBG_TRACE [47:12] BASE. -/
def Fl.DBG_TRACE_BASE : Fld := ⟨.dbgTrace, 47, 12, .rw, (.lit 0)⟩
/-- 21: DBG_TRACE [3:0] SIZE_LOG2. -/
def Fl.DBG_TRACE_SIZE_LOG2 : Fld := ⟨.dbgTrace, 3, 0, .rw, (.lit 0)⟩
/-- 21: DBG_IDCODE [31:28] VERSION. -/
def Fl.DBG_IDCODE_VERSION : Fld := ⟨.dbgIdcode, 31, 28, .ro, .fuse⟩
/-- 21: DBG_IDCODE [27:12] PART. -/
def Fl.DBG_IDCODE_PART : Fld := ⟨.dbgIdcode, 27, 12, .ro, .fuse⟩
/-- 21: DBG_IDCODE [11:1] MANUFACTURER. -/
def Fl.DBG_IDCODE_MANUFACTURER : Fld := ⟨.dbgIdcode, 11, 1, .ro, .fuse⟩
/-- 21: DBG_IDCODE [0:0] ONE. -/
def Fl.DBG_IDCODE_ONE : Fld := ⟨.dbgIdcode, 0, 0, .ro, (.lit 1)⟩
/-- 21: DBG_SERVICE [63:63] BUSY. -/
def Fl.DBG_SERVICE_BUSY : Fld := ⟨.dbgService, 63, 63, .ro, (.lit 0)⟩
/-- 21: DBG_SERVICE [62:62] REJECTED. -/
def Fl.DBG_SERVICE_REJECTED : Fld := ⟨.dbgService, 62, 62, .ro, (.lit 0)⟩
/-- 21: DBG_SERVICE [55:48] RESULT. -/
def Fl.DBG_SERVICE_RESULT : Fld := ⟨.dbgService, 55, 48, .ro, (.lit 0)⟩
/-- 21: DBG_SERVICE [17:16] OP. -/
def Fl.DBG_SERVICE_OP : Fld := ⟨.dbgService, 17, 16, .rw, (.lit 0)⟩
/-- 21: DBG_SERVICE [15:0] ARG. -/
def Fl.DBG_SERVICE_ARG : Fld := ⟨.dbgService, 15, 0, .rw, (.lit 0)⟩

/-- The fields of a register, highest first. -/
def Reg.fields : Reg → List Fld
  | .dieId => [Fl.DIE_ID_DIE_TYPE, Fl.DIE_ID_PART_CODE, Fl.DIE_ID_DIE_NUMBER]
  | .dieStepping => [Fl.DIE_STEPPING_PACKAGE_STEPPING, Fl.DIE_STEPPING_STEPPING, Fl.DIE_STEPPING_METAL_REV]
  | .dieEpoch => [Fl.DIE_EPOCH_FEATURE_EPOCH]
  | .dieEpochEffective => [Fl.DIE_EPOCH_EFFECTIVE_VALID, Fl.DIE_EPOCH_EFFECTIVE_FEATURES_DISABLED,
    Fl.DIE_EPOCH_EFFECTIVE_EFFECTIVE_EPOCH]
  | .dieGoodLo => [Fl.DIE_GOOD_LO_GOOD]
  | .dieGoodHi => [Fl.DIE_GOOD_HI_GOOD]
  | .diePartition => [Fl.DIE_PARTITION_MODE, Fl.DIE_PARTITION_PARTITION]
  | .dieSerial => [Fl.DIE_SERIAL_SERIAL]
  | .engStatus => [Fl.ENG_STATUS_CONTEXT, Fl.ENG_STATUS_SLOT, Fl.ENG_STATUS_PLACED, Fl.ENG_STATUS_ARRAY_BUSY,
    Fl.ENG_STATUS_VECTOR_BUSY, Fl.ENG_STATUS_GEOMETRY, Fl.ENG_STATUS_ROLE]
  | .engWidth => [Fl.ENG_WIDTH_PRESENTED_WIDTH, Fl.ENG_WIDTH_BAD_COUNT]
  | .engColmapLo => [Fl.ENG_COLMAP_LO_BYPASS]
  | .engColmapHi => [Fl.ENG_COLMAP_HI_BYPASS]
  | .engBinding => [Fl.ENG_BINDING_BANK, Fl.ENG_BINDING_POWER_DOMAIN]
  | .engSelftest => [Fl.ENG_SELFTEST_DONE, Fl.ENG_SELFTEST_PASS, Fl.ENG_SELFTEST_REJECTED, Fl.ENG_SELFTEST_NEW_BAD,
    Fl.ENG_SELFTEST_START]
  | .engHsTotal => [Fl.ENG_HS_TOTAL_COUNT]
  | .engHsActive => [Fl.ENG_HS_ACTIVE_COUNT]
  | .engHsStallFeed => [Fl.ENG_HS_STALL_FEED_COUNT]
  | .engHsStallDrain => [Fl.ENG_HS_STALL_DRAIN_COUNT]
  | .engErrStatus => [Fl.ENG_ERR_STATUS_SELFTEST_FAIL, Fl.ENG_ERR_STATUS_BANK_UE, Fl.ENG_ERR_STATUS_ACC_UE,
    Fl.ENG_ERR_STATUS_ACC_CE, Fl.ENG_ERR_STATUS_OS_UE, Fl.ENG_ERR_STATUS_OS_CE]
  | .engErrCount => [Fl.ENG_ERR_COUNT_CE, Fl.ENG_ERR_COUNT_UE]
  | .nstCapacity => [Fl.NST_CAPACITY_SPARE_ROWS, Fl.NST_CAPACITY_ROWS, Fl.NST_CAPACITY_BANK_MIB,
    Fl.NST_CAPACITY_BANKS]
  | .nstErrStatus => [Fl.NST_ERR_STATUS_UE, Fl.NST_ERR_STATUS_CE]
  | .nstErrCount => [Fl.NST_ERR_COUNT_CE, Fl.NST_ERR_COUNT_UE]
  | .nstLastError => [Fl.NST_LAST_ERROR_KIND, Fl.NST_LAST_ERROR_BANK, Fl.NST_LAST_ERROR_ROW, Fl.NST_LAST_ERROR_WORD]
  | .nstBank => [Fl.NST_BANK_STATE, Fl.NST_BANK_ENGINE, Fl.NST_BANK_SPARES_USED]
  | .engPhoStatus => [Fl.ENG_PHO_STATUS_R_OUT, Fl.ENG_PHO_STATUS_R_ACC, Fl.ENG_PHO_STATUS_SCALE_SLOT,
    Fl.ENG_PHO_STATUS_ATTEMPT, Fl.ENG_PHO_STATUS_COMMITTING, Fl.ENG_PHO_STATUS_OVF_PENDING,
    Fl.ENG_PHO_STATUS_IN_REGION, Fl.ENG_PHO_STATUS_DELAYED]
  | .engPhoRewinds => [Fl.ENG_PHO_REWINDS_COUNT]
  | .engPhoSaturations => [Fl.ENG_PHO_SATURATIONS_COUNT]
  | .engPhoAccOvf => [Fl.ENG_PHO_ACC_OVF_INT32, Fl.ENG_PHO_ACC_OVF_BINARY32]
  | .engPhoLastRewind => [Fl.ENG_PHO_LAST_REWIND_CONTEXT, Fl.ENG_PHO_LAST_REWIND_SLOT,
    Fl.ENG_PHO_LAST_REWIND_SCALE_SLOT, Fl.ENG_PHO_LAST_REWIND_K, Fl.ENG_PHO_LAST_REWIND_ATTEMPT,
    Fl.ENG_PHO_LAST_REWIND_CAUSE_INT32, Fl.ENG_PHO_LAST_REWIND_CAUSE_BINARY32, Fl.ENG_PHO_LAST_REWIND_CAUSE_CODE]
  | .engPhoLastObserved => [Fl.ENG_PHO_LAST_OBSERVED_RHO]
  | .engPhoCommit => [Fl.ENG_PHO_COMMIT_HIGH_WATER, Fl.ENG_PHO_COMMIT_USED]
  | .engPhoTest => [Fl.ENG_PHO_TEST_REJECTED, Fl.ENG_PHO_TEST_INJECT]
  | .tokCapacity => [Fl.TOK_CAPACITY_WAIT_ENTRIES, Fl.TOK_CAPACITY_COUNTERS]
  | .tokAlloc => [Fl.TOK_ALLOC_LAUNCHES, Fl.TOK_ALLOC_HIGH_WATER, Fl.TOK_ALLOC_ALLOCATED]
  | .tokWaitLimit => [Fl.TOK_WAIT_LIMIT_LIMIT_MS]
  | .tokPending => [Fl.TOK_PENDING_HIGH_WATER, Fl.TOK_PENDING_COUNT]
  | .tokSignals => [Fl.TOK_SIGNALS_COUNT]
  | .tokWaits => [Fl.TOK_WAITS_HELD, Fl.TOK_WAITS_COUNT]
  | .tokErrStatus => [Fl.TOK_ERR_STATUS_WAIT_TIMEOUT, Fl.TOK_ERR_STATUS_OVERFLOW]
  | .tokErrCount => [Fl.TOK_ERR_COUNT_WAIT_TIMEOUT, Fl.TOK_ERR_COUNT_OVERFLOW]
  | .tokLastError => [Fl.TOK_LAST_ERROR_CONTEXT, Fl.TOK_LAST_ERROR_TOKEN, Fl.TOK_LAST_ERROR_SOURCE,
    Fl.TOK_LAST_ERROR_SOURCE_FINDER, Fl.TOK_LAST_ERROR_CODE]
  | .tokInspectSel => [Fl.TOK_INSPECT_SEL_COUNTER]
  | .tokInspectVal => [Fl.TOK_INSPECT_VAL_ALLOCATED, Fl.TOK_INSPECT_VAL_CONTEXT, Fl.TOK_INSPECT_VAL_VALUE]
  | .fndCapacity => [Fl.FND_CAPACITY_WINDOW, Fl.FND_CAPACITY_CMD_CONTEXTS, Fl.FND_CAPACITY_CONTEXTS,
    Fl.FND_CAPACITY_FINDERS]
  | .fndUse => [Fl.FND_USE_HIGH_WATER, Fl.FND_USE_BUSY]
  | .fndBytesRead => [Fl.FND_BYTES_READ_COUNT]
  | .fndBytesWritten => [Fl.FND_BYTES_WRITTEN_COUNT]
  | .fndMoves => [Fl.FND_MOVES_ISSUED, Fl.FND_MOVES_DONE]
  | .fndCancels => [Fl.FND_CANCELS_REPLAYED, Fl.FND_CANCELS_CANCELLED]
  | .fndErrStatus => [Fl.FND_ERR_STATUS_BUF_UE, Fl.FND_ERR_STATUS_BUF_CE, Fl.FND_ERR_STATUS_GATHER,
    Fl.FND_ERR_STATUS_QUOTA, Fl.FND_ERR_STATUS_TIER, Fl.FND_ERR_STATUS_POISON, Fl.FND_ERR_STATUS_ADDRESS]
  | .fndErrCount => [Fl.FND_ERR_COUNT_CE, Fl.FND_ERR_COUNT_ERRORS]
  | .fndLastError => [Fl.FND_LAST_ERROR_CONTEXT, Fl.FND_LAST_ERROR_FINDER, Fl.FND_LAST_ERROR_COMMAND,
    Fl.FND_LAST_ERROR_STREAM_CONTEXT, Fl.FND_LAST_ERROR_STREAM, Fl.FND_LAST_ERROR_STATUS]
  | .fndEngineStatus => [Fl.FND_ENGINE_STATUS_CMD_BUSY, Fl.FND_ENGINE_STATUS_STALLED, Fl.FND_ENGINE_STATUS_ISSUING,
    Fl.FND_ENGINE_STATUS_BUSY]
  | .tierCatalog => [Fl.TIER_CATALOG_BASE, Fl.TIER_CATALOG_SIZE]
  | .tierTimeout => [Fl.TIER_TIMEOUT_REMOTE_MS, Fl.TIER_TIMEOUT_FAR_US]
  | .tierHintRing => [Fl.TIER_HINT_RING_BASE, Fl.TIER_HINT_RING_SIZE_LOG2]
  | .tierHintCtl => [Fl.TIER_HINT_CTL_DECAY_MS, Fl.TIER_HINT_CTL_THRESHOLD]
  | .tierHintProd => [Fl.TIER_HINT_PROD_PROD]
  | .tierHintCons => [Fl.TIER_HINT_CONS_CONS]
  | .tierHintDropped => [Fl.TIER_HINT_DROPPED_COUNT]
  | .tierRegionVa => [Fl.TIER_REGION_VA_VA]
  | .tierRegionList => [Fl.TIER_REGION_LIST_PA]
  | .tierRegionCmd => [Fl.TIER_REGION_CMD_BUSY, Fl.TIER_REGION_CMD_REJECTED, Fl.TIER_REGION_CMD_READ_ONLY,
    Fl.TIER_REGION_CMD_OP, Fl.TIER_REGION_CMD_PAGES, Fl.TIER_REGION_CMD_REGION, Fl.TIER_REGION_CMD_CONTEXT]
  | .tierRegionResult => [Fl.TIER_REGION_RESULT_ENTRY, Fl.TIER_REGION_RESULT_STATUS]
  | .tierQuotaSel => [Fl.TIER_QUOTA_SEL_TIER, Fl.TIER_QUOTA_SEL_CONTEXT]
  | .tierQuotaVal => [Fl.TIER_QUOTA_VAL_QUOTA, Fl.TIER_QUOTA_VAL_USED]
  | .tierMoves => [Fl.TIER_MOVES_HELD, Fl.TIER_MOVES_PAGES]
  | .tierErrCount => [Fl.TIER_ERR_COUNT_FAILED, Fl.TIER_ERR_COUNT_TIMEOUT, Fl.TIER_ERR_COUNT_QUOTA,
    Fl.TIER_ERR_COUNT_PERMISSION]
  | .rdcCapacity => [Fl.RDC_CAPACITY_WAYS, Fl.RDC_CAPACITY_SETS, Fl.RDC_CAPACITY_LINE_BYTES]
  | .rdcInvalidate => [Fl.RDC_INVALIDATE_DONE, Fl.RDC_INVALIDATE_START]
  | .rdcLookups => [Fl.RDC_LOOKUPS_HITS, Fl.RDC_LOOKUPS_MISSES]
  | .rdcInvalidations => [Fl.RDC_INVALIDATIONS_LAUNCH, Fl.RDC_INVALIDATIONS_OP, Fl.RDC_INVALIDATIONS_REGISTER]
  | .rdcFillsDropped => [Fl.RDC_FILLS_DROPPED_COUNT]
  | .rdcErrStatus => [Fl.RDC_ERR_STATUS_POISON, Fl.RDC_ERR_STATUS_UE, Fl.RDC_ERR_STATUS_CE]
  | .rdcErrCount => [Fl.RDC_ERR_COUNT_POISON, Fl.RDC_ERR_COUNT_CE, Fl.RDC_ERR_COUNT_UE]
  | .qfeCapacity => [Fl.QFE_CAPACITY_FIRST_CONTEXT, Fl.QFE_CAPACITY_CONTEXTS, Fl.QFE_CAPACITY_INFLIGHT]
  | .qfeCtxSel => [Fl.QFE_CTX_SEL_CONTEXT]
  | .qfeCtxCmdRing => [Fl.QFE_CTX_CMD_RING_BASE, Fl.QFE_CTX_CMD_RING_SIZE_LOG2]
  | .qfeCtxCplRing => [Fl.QFE_CTX_CPL_RING_BASE, Fl.QFE_CTX_CPL_RING_SIZE_LOG2]
  | .qfeCtxEvtRing => [Fl.QFE_CTX_EVT_RING_BASE, Fl.QFE_CTX_EVT_RING_SIZE_LOG2]
  | .qfeCtxRoot => [Fl.QFE_CTX_ROOT_ROOT, Fl.QFE_CTX_ROOT_FAULT_MODE]
  | .qfeCtxAttr => [Fl.QFE_CTX_ATTR_ENABLE, Fl.QFE_CTX_ATTR_ADMIN, Fl.QFE_CTX_ATTR_EVT_IRQ,
    Fl.QFE_CTX_ATTR_PRIORITY, Fl.QFE_CTX_ATTR_IRQ_VECTOR, Fl.QFE_CTX_ATTR_EXPOSURE_THRESHOLD]
  | .qfeCtxState => [Fl.QFE_CTX_STATE_STATE, Fl.QFE_CTX_STATE_UNPARK, Fl.QFE_CTX_STATE_EVT_DROPPED,
    Fl.QFE_CTX_STATE_PARK_STATUS, Fl.QFE_CTX_STATE_INFLIGHT]
  | .qfeCtxSeq => [Fl.QFE_CTX_SEQ_SEQ]
  | .qfeArb => [Fl.QFE_ARB_RESERVE_US]
  | .qfeCount => [Fl.QFE_COUNT_FETCHED, Fl.QFE_COUNT_DOORBELLS_IGNORED, Fl.QFE_COUNT_STALE_REFETCHES]
  | .trcCapacity => [Fl.TRC_CAPACITY_DIE_ENTRIES, Fl.TRC_CAPACITY_SMALL_ENTRIES, Fl.TRC_CAPACITY_LARGE_ENTRIES]
  | .trcInvVa => [Fl.TRC_INV_VA_VA]
  | .trcInvCtl => [Fl.TRC_INV_CTL_BUSY, Fl.TRC_INV_CTL_DONE, Fl.TRC_INV_CTL_REJECTED, Fl.TRC_INV_CTL_TABLES,
    Fl.TRC_INV_CTL_SCOPE, Fl.TRC_INV_CTL_COUNT, Fl.TRC_INV_CTL_START, Fl.TRC_INV_CTL_CONTEXT]
  | .trcLookups => [Fl.TRC_LOOKUPS_HITS, Fl.TRC_LOOKUPS_MISSES]
  | .trcSmall => [Fl.TRC_SMALL_HITS, Fl.TRC_SMALL_MISSES]
  | .trcDieFills => [Fl.TRC_DIE_FILLS_COUNT]
  | .trcErrCount => [Fl.TRC_ERR_COUNT_PARITY, Fl.TRC_ERR_COUNT_INVALIDATIONS]
  | .wlkCapacity => [Fl.WLK_CAPACITY_QUEUE_RECORDS, Fl.WLK_CAPACITY_WALKS]
  | .wlkFaultRing => [Fl.WLK_FAULT_RING_ENABLE, Fl.WLK_FAULT_RING_BASE]
  | .wlkFaultProd => [Fl.WLK_FAULT_PROD_PROD]
  | .wlkFaultCons => [Fl.WLK_FAULT_CONS_CONS]
  | .wlkFaultRespond => [Fl.WLK_FAULT_RESPOND_ACTION, Fl.WLK_FAULT_RESPOND_RECORD]
  | .wlkFaultOpen => [Fl.WLK_FAULT_OPEN_HIGH_WATER, Fl.WLK_FAULT_OPEN_OPEN]
  | .wlkFaultCount => [Fl.WLK_FAULT_COUNT_OPENED, Fl.WLK_FAULT_COUNT_JOINED]
  | .wlkFaultExcept => [Fl.WLK_FAULT_EXCEPT_FULL_STALLS, Fl.WLK_FAULT_EXCEPT_IGNORED,
    Fl.WLK_FAULT_EXCEPT_DENIED_DISABLED]
  | .wlkFaultIrq => [Fl.WLK_FAULT_IRQ_ENABLE, Fl.WLK_FAULT_IRQ_VECTOR]
  | .wlkWalks => [Fl.WLK_WALKS_WALKS, Fl.WLK_WALKS_WAITING_MAX, Fl.WLK_WALKS_TABLE_ERRORS]
  | .coreCapacity => [Fl.CORE_CAPACITY_L3_SLICES, Fl.CORE_CAPACITY_ONLINE_MAX, Fl.CORE_CAPACITY_PHYSICAL]
  | .coreCmd => [Fl.CORE_CMD_BUSY, Fl.CORE_CMD_REJECTED, Fl.CORE_CMD_RESULT, Fl.CORE_CMD_OP, Fl.CORE_CMD_CORE]
  | .coreStart => [Fl.CORE_START_PC]
  | .coreFarTimeout => [Fl.CORE_FAR_TIMEOUT_US]
  | .coreState => [Fl.CORE_STATE_ROLE, Fl.CORE_STATE_STATE, Fl.CORE_STATE_FMAX, Fl.CORE_STATE_DERATE]
  | .coreFreq => [Fl.CORE_FREQ_CAP, Fl.CORE_FREQ_EFFECTIVE, Fl.CORE_FREQ_REQUEST]
  | .coreClk => [Fl.CORE_CLK_STRETCHES]
  | .coreErrAddr => [Fl.CORE_ERR_ADDR_ADDR]
  | .coreErrInfo => [Fl.CORE_ERR_INFO_RESET_LOST, Fl.CORE_ERR_INFO_COUNT, Fl.CORE_ERR_INFO_KIND]
  | .irqVecSel => [Fl.IRQ_VEC_SEL_VECTOR]
  | .irqVecCfg => [Fl.IRQ_VEC_CFG_ENABLE, Fl.IRQ_VEC_CFG_PENDING, Fl.IRQ_VEC_CFG_IN_SERVICE,
    Fl.IRQ_VEC_CFG_PRIORITY, Fl.IRQ_VEC_CFG_TARGET]
  | .irqIpi => [Fl.IRQ_IPI_REJECTED, Fl.IRQ_IPI_VECTOR]
  | .irqCount => [Fl.IRQ_COUNT_DELIVERED, Fl.IRQ_COUNT_UNROUTABLE, Fl.IRQ_COUNT_EOI_IGNORED]
  | .irqAck => [Fl.IRQ_ACK_VALID, Fl.IRQ_ACK_VECTOR]
  | .irqEoi => [Fl.IRQ_EOI_VECTOR]
  | .cohCapacity => [Fl.COH_CAPACITY_LINK_CACHE_KIB, Fl.COH_CAPACITY_DIR_WAYS, Fl.COH_CAPACITY_DIR_ENTRIES_LOG2]
  | .cohTimeout => [Fl.COH_TIMEOUT_HOME_US]
  | .cohOccupancy => [Fl.COH_OCCUPANCY_RETRY_QUEUE, Fl.COH_OCCUPANCY_OPEN_HIGH_WATER, Fl.COH_OCCUPANCY_OPEN]
  | .cohRequests => [Fl.COH_REQUESTS_OWN, Fl.COH_REQUESTS_SHARED]
  | .cohWrites => [Fl.COH_WRITES_WRITEBACKS, Fl.COH_WRITES_DEVICE]
  | .cohProbes => [Fl.COH_PROBES_RECALLS, Fl.COH_PROBES_NOT_PRESENT]
  | .cohDirEvict => [Fl.COH_DIR_EVICT_EVICTIONS, Fl.COH_DIR_EVICT_RETRIES]
  | .cohStash => [Fl.COH_STASH_INSTALLED, Fl.COH_STASH_DROPPED]
  | .cohStashRecords => [Fl.COH_STASH_RECORDS_TARGET]
  | .cohErrStatus => [Fl.COH_ERR_STATUS_LATE_DISCARD, Fl.COH_ERR_STATUS_TIMEOUT, Fl.COH_ERR_STATUS_DIR_CE]
  | .cohErrCount => [Fl.COH_ERR_COUNT_LATE_DISCARDED, Fl.COH_ERR_COUNT_TIMEOUTS, Fl.COH_ERR_COUNT_DIR_CE]
  | .cohLastTimeout => [Fl.COH_LAST_TIMEOUT_WAITED_ON, Fl.COH_LAST_TIMEOUT_LINE, Fl.COH_LAST_TIMEOUT_REQUEST]
  | .hbmMode => [Fl.HBM_MODE_RECOVERY, Fl.HBM_MODE_MODE, Fl.HBM_MODE_USABLE_GIB, Fl.HBM_MODE_GOOD_PCS]
  | .hbmStack => [Fl.HBM_STACK_STATE, Fl.HBM_STACK_TEMP_C, Fl.HBM_STACK_REPAIRED_LANES, Fl.HBM_STACK_PC_GOOD]
  | .hbmRecovery => [Fl.HBM_RECOVERY_EXCLUDE]
  | .hbmBg => [Fl.HBM_BG_SCRUB_HOURS, Fl.HBM_BG_RECAL_PERIOD_MS, Fl.HBM_BG_CE_THRESHOLD]
  | .hbmStats => [Fl.HBM_STATS_RECAL_FORCED, Fl.HBM_STATS_SCRUB_LATE, Fl.HBM_STATS_UE, Fl.HBM_STATS_CE]
  | .hbmScrubPass => [Fl.HBM_SCRUB_PASS_LAST_END]
  | .hbmLastError => [Fl.HBM_LAST_ERROR_KIND, Fl.HBM_LAST_ERROR_PC, Fl.HBM_LAST_ERROR_LINE]
  | .ddrPopulation => [Fl.DDR_POPULATION_CHANNEL_GIB, Fl.DDR_POPULATION_MTS, Fl.DDR_POPULATION_TYPE,
    Fl.DDR_POPULATION_DPC, Fl.DDR_POPULATION_FAILED, Fl.DDR_POPULATION_POPULATED]
  | .ddrBg => [Fl.DDR_BG_SCRUB_HOURS, Fl.DDR_BG_RECAL_PERIOD_MS, Fl.DDR_BG_CE_THRESHOLD]
  | .ddrStats => [Fl.DDR_STATS_RECAL_FORCED, Fl.DDR_STATS_SCRUB_LATE, Fl.DDR_STATS_UE, Fl.DDR_STATS_CE]
  | .ddrScrubPass => [Fl.DDR_SCRUB_PASS_LAST_END]
  | .ddrLastError => [Fl.DDR_LAST_ERROR_KIND, Fl.DDR_LAST_ERROR_CHANNEL, Fl.DDR_LAST_ERROR_LINE]
  | .lnkCapacity => [Fl.LNK_CAPACITY_PORTS]
  | .lnkRecal => [Fl.LNK_RECAL_WAIT_MS, Fl.LNK_RECAL_PERIOD_MS]
  | .lnkStackThermal => [Fl.LNK_STACK_THERMAL_ENTRIES, Fl.LNK_STACK_THERMAL_VLIMIT_MV, Fl.LNK_STACK_THERMAL_NS_TEMP_C]
  | .lnkPortCfg => [Fl.LNK_PORT_CFG_PEER, Fl.LNK_PORT_CFG_KIND, Fl.LNK_PORT_CFG_SPARES, Fl.LNK_PORT_CFG_ACTIVE]
  | .lnkPortState => [Fl.LNK_PORT_STATE_STATE, Fl.LNK_PORT_STATE_EPOCH, Fl.LNK_PORT_STATE_WIDTH,
    Fl.LNK_PORT_STATE_SPARES_LEFT, Fl.LNK_PORT_STATE_ATTEMPTS]
  | .lnkPortCtl => [Fl.LNK_PORT_CTL_REJECTED, Fl.LNK_PORT_CTL_RETRAIN]
  | .lnkPortErr => [Fl.LNK_PORT_ERR_DISAGREE, Fl.LNK_PORT_ERR_RETRAINS, Fl.LNK_PORT_ERR_CRC]
  | .lnkPortFlits => [Fl.LNK_PORT_FLITS_SENT]
  | .pwrCeiling => [Fl.PWR_CEILING_CAP_REQ_W, Fl.PWR_CEILING_CEILING_W]
  | .pwrRamp => [Fl.PWR_RAMP_A_PER_US]
  | .pwrInput => [Fl.PWR_INPUT_MILLIVOLTS, Fl.PWR_INPUT_DECIAMPS, Fl.PWR_INPUT_WATTS]
  | .pwrShare => [Fl.PWR_SHARE_HOST_W, Fl.PWR_SHARE_WEIGHT]
  | .pwrStatus => [Fl.PWR_STATUS_EXCURSIONS, Fl.PWR_STATUS_RIDE_THROUGHS, Fl.PWR_STATUS_UNMET, Fl.PWR_STATUS_CLAMP,
    Fl.PWR_STATUS_FINDER_LIMITED, Fl.PWR_STATUS_GATING, Fl.PWR_STATUS_HOST_CAPPED, Fl.PWR_STATUS_EXCURSION,
    Fl.PWR_STATUS_RIDE_THROUGH, Fl.PWR_STATUS_CAP_REQ]
  | .pwrLearn => [Fl.PWR_LEARN_MISSES, Fl.PWR_LEARN_ENTRIES, Fl.PWR_LEARN_FLUSH]
  | .pwrTherm => [Fl.PWR_THERM_ALERT, Fl.PWR_THERM_HOTTEST_DIE, Fl.PWR_THERM_HOTTEST_C, Fl.PWR_THERM_LIMIT_EVENTS]
  | .pwrJobCtl => [Fl.PWR_JOB_CTL_ENABLE, Fl.PWR_JOB_CTL_COORDINATOR, Fl.PWR_JOB_CTL_PARTITION,
    Fl.PWR_JOB_CTL_JOB_ID, Fl.PWR_JOB_CTL_STEP_W, Fl.PWR_JOB_CTL_BUDGET_W]
  | .pwrJobStatus => [Fl.PWR_JOB_STATUS_MISSED, Fl.PWR_JOB_STATUS_SLACK_US, Fl.PWR_JOB_STATUS_GRANT_W]
  | .pwrDomain => [Fl.PWR_DOMAIN_STATE, Fl.PWR_DOMAIN_OFF_REQ, Fl.PWR_DOMAIN_REJECTED, Fl.PWR_DOMAIN_MILLIVOLTS,
    Fl.PWR_DOMAIN_UNIT]
  | .pwdIdle => [Fl.PWD_IDLE_IDLE_US]
  | .pwdGate => [Fl.PWD_GATE_WAKES, Fl.PWD_GATE_GATED_US]
  | .pwdPair => [Fl.PWD_PAIR_STATE, Fl.PWD_PAIR_LIMIT_REASON, Fl.PWD_PAIR_GATE, Fl.PWD_PAIR_TARGET_MV,
    Fl.PWD_PAIR_VOLT_MV]
  | .pwdEnergy => [Fl.PWD_ENERGY_MICROJOULES]
  | .netDevice => [Fl.NET_DEVICE_DEVICE_ID]
  | .netRouteSel => [Fl.NET_ROUTE_SEL_DEVICE]
  | .netRoute => [Fl.NET_ROUTE_VALID, Fl.NET_ROUTE_PORT, Fl.NET_ROUTE_HOPS, Fl.NET_ROUTE_LATENCY_NS]
  | .netExport => [Fl.NET_EXPORT_ENABLE, Fl.NET_EXPORT_LAST_GIB, Fl.NET_EXPORT_FIRST_GIB]
  | .netFctrSel => [Fl.NET_FCTR_SEL_COUNTER]
  | .netFctrVal => [Fl.NET_FCTR_VAL_WAITS, Fl.NET_FCTR_VAL_VALUE]
  | .netQpCtl => [Fl.NET_QP_CTL_ENABLE, Fl.NET_QP_CTL_STATE, Fl.NET_QP_CTL_RECORD]
  | .netQpSel => [Fl.NET_QP_SEL_QP]
  | .netQpDoorbell => [Fl.NET_QP_DOORBELL_QP, Fl.NET_QP_DOORBELL_TAIL]
  | .netPortCfg => [Fl.NET_PORT_CFG_ENABLE, Fl.NET_PORT_CFG_MODE, Fl.NET_PORT_CFG_PFC_MASK, Fl.NET_PORT_CFG_MAC]
  | .netPortState => [Fl.NET_PORT_STATE_STATE, Fl.NET_PORT_STATE_PEER, Fl.NET_PORT_STATE_TTL_DROPS,
    Fl.NET_PORT_STATE_RETRANSMITS]
  | .pciBifurcation => [Fl.PCI_BIFURCATION_HALF1, Fl.PCI_BIFURCATION_HALF0]
  | .pciRpState => [Fl.PCI_RP_STATE_STATE, Fl.PCI_RP_STATE_WIDTH, Fl.PCI_RP_STATE_GTS, Fl.PCI_RP_STATE_UR_COUNT]
  | .pciRpDma => [Fl.PCI_RP_DMA_LAST_GIB, Fl.PCI_RP_DMA_FIRST_GIB]
  | .pciRpCxl => [Fl.PCI_RP_CXL_ENABLE, Fl.PCI_RP_CXL_REJECTED, Fl.PCI_RP_CXL_SIZE_GIB, Fl.PCI_RP_CXL_BASE_GIB]
  | .medCapacity => [Fl.MED_CAPACITY_ENCODE, Fl.MED_CAPACITY_DECODE]
  | .medPipe => [Fl.MED_PIPE_ENABLE, Fl.MED_PIPE_STATE, Fl.MED_PIPE_CONTEXT, Fl.MED_PIPE_FRAMES]
  | .medErrCount => [Fl.MED_ERR_COUNT_PIPELINE, Fl.MED_ERR_COUNT_BITSTREAM, Fl.MED_ERR_COUNT_CE,
    Fl.MED_ERR_COUNT_OTHER]
  | .rstCause => [Fl.RST_CAUSE_UNIT, Fl.RST_CAUSE_LEVEL, Fl.RST_CAUSE_SOURCE]
  | .rstHist => [Fl.RST_HIST_ENTRY]
  | .rstCtl => [Fl.RST_CTL_REJECTED, Fl.RST_CTL_KEY, Fl.RST_CTL_LEVEL, Fl.RST_CTL_PARTITION]
  | .rstPart => [Fl.RST_PART_COUNT, Fl.RST_PART_STATE]
  | .bootStatus => [Fl.BOOT_STATUS_PLATE_KIB, Fl.BOOT_STATUS_CODE, Fl.BOOT_STATUS_SOURCE, Fl.BOOT_STATUS_STAGE]
  | .bootNext => [Fl.BOOT_NEXT_VALID, Fl.BOOT_NEXT_BANK]
  | .strapStatus => [Fl.STRAP_STATUS_UNSTABLE, Fl.STRAP_STATUS_MILLIVOLTS, Fl.STRAP_STATUS_BAND,
    Fl.STRAP_STATUS_EYEPIECE, Fl.STRAP_STATUS_HBM_LINEAR, Fl.STRAP_STATUS_BOOT_SOURCE]
  | .prsStatus => [Fl.PRS_STATUS_BAD, Fl.PRS_STATUS_BAD_REG, Fl.PRS_STATUS_REJECTED_WRITES, Fl.PRS_STATUS_PENDING]
  | .prsPend => [Fl.PRS_PEND_PENDING]
  | .prsWearSel => [Fl.PRS_WEAR_SEL_REG]
  | .prsWear => [Fl.PRS_WEAR_EXHAUSTED, Fl.PRS_WEAR_WARNED, Fl.PRS_WEAR_COPY, Fl.PRS_WEAR_COMMITS]
  | .prsReg => [Fl.PRS_REG_VALUE]
  | .secStatus => [Fl.SEC_STATUS_REVOKED, Fl.SEC_STATUS_PROGRAMMED, Fl.SEC_STATUS_PLATE_SLOT,
    Fl.SEC_STATUS_LOCKOUT, Fl.SEC_STATUS_DEBUG_LEVEL]
  | .secKeyCtl => [Fl.SEC_KEY_CTL_REJECTED, Fl.SEC_KEY_CTL_OP, Fl.SEC_KEY_CTL_SLOT]
  | .secMrSel => [Fl.SEC_MR_SEL_INDEX]
  | .secMrVal => [Fl.SEC_MR_VAL_BYTES]
  | .secMrData => [Fl.SEC_MR_DATA_BYTES]
  | .secMrExtend => [Fl.SEC_MR_EXTEND_BUSY, Fl.SEC_MR_EXTEND_REJECTED, Fl.SEC_MR_EXTEND_START, Fl.SEC_MR_EXTEND_INDEX]
  | .secRollback => [Fl.SEC_ROLLBACK_REJECTED, Fl.SEC_ROLLBACK_INDEX, Fl.SEC_ROLLBACK_VALUE]
  | .secUpdate => [Fl.SEC_UPDATE_BUSY, Fl.SEC_UPDATE_REJECTED, Fl.SEC_UPDATE_RESULT, Fl.SEC_UPDATE_ACTIVE,
    Fl.SEC_UPDATE_COMMIT, Fl.SEC_UPDATE_START, Fl.SEC_UPDATE_CONTROLLER]
  | .secUpdateAddr => [Fl.SEC_UPDATE_ADDR_VALUE]
  | .secUpdateLen => [Fl.SEC_UPDATE_LEN_VALUE]
  | .secDbgChallenge => [Fl.SEC_DBG_CHALLENGE_BYTES]
  | .secDbgResponse => [Fl.SEC_DBG_RESPONSE_BYTES]
  | .secDbgKey => [Fl.SEC_DBG_KEY_BYTES]
  | .secDbgCtl => [Fl.SEC_DBG_CTL_RESULT, Fl.SEC_DBG_CTL_FAILURES, Fl.SEC_DBG_CTL_LEVEL, Fl.SEC_DBG_CTL_SUBMIT,
    Fl.SEC_DBG_CTL_NEW]
  | .secCertSel => [Fl.SEC_CERT_SEL_WORD]
  | .secCertData => [Fl.SEC_CERT_DATA_BYTES]
  | .evtLog => [Fl.EVT_LOG_ENABLE, Fl.EVT_LOG_BASE]
  | .evtProd => [Fl.EVT_PROD_COUNT]
  | .evtCons => [Fl.EVT_CONS_COUNT]
  | .evtIrq => [Fl.EVT_IRQ_ENABLE, Fl.EVT_IRQ_MIN_SEVERITY, Fl.EVT_IRQ_VECTOR]
  | .evtLost => [Fl.EVT_LOST_OVERWRITTEN, Fl.EVT_LOST_DROPPED]
  | .timeNow => [Fl.TIME_NOW_NS]
  | .dbgCtl => [Fl.DBG_CTL_TRACE_EN, Fl.DBG_CTL_EYEPIECE_EN]
  | .dbgTrace => [Fl.DBG_TRACE_STOPPED, Fl.DBG_TRACE_BASE, Fl.DBG_TRACE_SIZE_LOG2]
  | .dbgIdcode => [Fl.DBG_IDCODE_VERSION, Fl.DBG_IDCODE_PART, Fl.DBG_IDCODE_MANUFACTURER, Fl.DBG_IDCODE_ONE]
  | .dbgService => [Fl.DBG_SERVICE_BUSY, Fl.DBG_SERVICE_REJECTED, Fl.DBG_SERVICE_RESULT, Fl.DBG_SERVICE_OP,
    Fl.DBG_SERVICE_ARG]

/-- Registers, part 1 of the list of all. -/
def Reg.all1 : List Reg :=
  [.dieId, .dieStepping, .dieEpoch, .dieEpochEffective, .dieGoodLo, .dieGoodHi, .diePartition, .dieSerial,
    .engStatus, .engWidth, .engColmapLo, .engColmapHi, .engBinding, .engSelftest, .engHsTotal, .engHsActive,
    .engHsStallFeed, .engHsStallDrain, .engErrStatus, .engErrCount, .nstCapacity, .nstErrStatus, .nstErrCount,
    .nstLastError, .nstBank, .engPhoStatus, .engPhoRewinds, .engPhoSaturations, .engPhoAccOvf, .engPhoLastRewind,
    .engPhoLastObserved, .engPhoCommit, .engPhoTest, .tokCapacity, .tokAlloc, .tokWaitLimit, .tokPending,
    .tokSignals, .tokWaits, .tokErrStatus]
/-- Registers, part 2 of the list of all. -/
def Reg.all2 : List Reg :=
  [.tokErrCount, .tokLastError, .tokInspectSel, .tokInspectVal, .fndCapacity, .fndUse, .fndBytesRead,
    .fndBytesWritten, .fndMoves, .fndCancels, .fndErrStatus, .fndErrCount, .fndLastError, .fndEngineStatus,
    .tierCatalog, .tierTimeout, .tierHintRing, .tierHintCtl, .tierHintProd, .tierHintCons, .tierHintDropped,
    .tierRegionVa, .tierRegionList, .tierRegionCmd, .tierRegionResult, .tierQuotaSel, .tierQuotaVal, .tierMoves,
    .tierErrCount, .rdcCapacity, .rdcInvalidate, .rdcLookups, .rdcInvalidations, .rdcFillsDropped, .rdcErrStatus,
    .rdcErrCount, .qfeCapacity, .qfeCtxSel, .qfeCtxCmdRing, .qfeCtxCplRing]
/-- Registers, part 3 of the list of all. -/
def Reg.all3 : List Reg :=
  [.qfeCtxEvtRing, .qfeCtxRoot, .qfeCtxAttr, .qfeCtxState, .qfeCtxSeq, .qfeArb, .qfeCount, .trcCapacity, .trcInvVa,
    .trcInvCtl, .trcLookups, .trcSmall, .trcDieFills, .trcErrCount, .wlkCapacity, .wlkFaultRing, .wlkFaultProd,
    .wlkFaultCons, .wlkFaultRespond, .wlkFaultOpen, .wlkFaultCount, .wlkFaultExcept, .wlkFaultIrq, .wlkWalks,
    .coreCapacity, .coreCmd, .coreStart, .coreFarTimeout, .coreState, .coreFreq, .coreClk, .coreErrAddr,
    .coreErrInfo, .irqVecSel, .irqVecCfg, .irqIpi, .irqCount, .irqAck, .irqEoi, .cohCapacity]
/-- Registers, part 4 of the list of all. -/
def Reg.all4 : List Reg :=
  [.cohTimeout, .cohOccupancy, .cohRequests, .cohWrites, .cohProbes, .cohDirEvict, .cohStash, .cohStashRecords,
    .cohErrStatus, .cohErrCount, .cohLastTimeout, .hbmMode, .hbmStack, .hbmRecovery, .hbmBg, .hbmStats,
    .hbmScrubPass, .hbmLastError, .ddrPopulation, .ddrBg, .ddrStats, .ddrScrubPass, .ddrLastError, .lnkCapacity,
    .lnkRecal, .lnkStackThermal, .lnkPortCfg, .lnkPortState, .lnkPortCtl, .lnkPortErr, .lnkPortFlits, .pwrCeiling,
    .pwrRamp, .pwrInput, .pwrShare, .pwrStatus, .pwrLearn, .pwrTherm, .pwrJobCtl, .pwrJobStatus]
/-- Registers, part 5 of the list of all. -/
def Reg.all5 : List Reg :=
  [.pwrDomain, .pwdIdle, .pwdGate, .pwdPair, .pwdEnergy, .netDevice, .netRouteSel, .netRoute, .netExport,
    .netFctrSel, .netFctrVal, .netQpCtl, .netQpSel, .netQpDoorbell, .netPortCfg, .netPortState, .pciBifurcation,
    .pciRpState, .pciRpDma, .pciRpCxl, .medCapacity, .medPipe, .medErrCount, .rstCause, .rstHist, .rstCtl,
    .rstPart, .bootStatus, .bootNext, .strapStatus, .prsStatus, .prsPend, .prsWearSel, .prsWear, .prsReg,
    .secStatus, .secKeyCtl, .secMrSel, .secMrVal, .secMrData]
/-- Registers, part 6 of the list of all. -/
def Reg.all6 : List Reg :=
  [.secMrExtend, .secRollback, .secUpdate, .secUpdateAddr, .secUpdateLen, .secDbgChallenge, .secDbgResponse,
    .secDbgKey, .secDbgCtl, .secCertSel, .secCertData, .evtLog, .evtProd, .evtCons, .evtIrq, .evtLost, .timeNow,
    .dbgCtl, .dbgTrace, .dbgIdcode, .dbgService]
/-- All registers. -/
def Reg.all : List Reg := Reg.all1 ++ Reg.all2 ++ Reg.all3 ++ Reg.all4 ++ Reg.all5 ++ Reg.all6

end Sys2Proof.Machine
end

