-- ==== Sys2Proof/Machine/Fuses.lean ====
section
/-! DEFINITION. What one device fixes: fuse values of a perfect part, the plate defaults (R544), and the link table of
R387. -/

namespace Sys2Proof.Machine

/-! ### The device that the model starts from (log 2: a perfect part of stepping B) -/

/-- Die types as DIE_TYPE codes them. -/
def dieType (d : Nat) : Nat :=
  if d < 8 then 0 else if d < 16 then 1 else if d < 18 then 2 else if d < 22 then 3 else if d < 24 then 4 else 5

/-- Group 1 instances per die type (R18). -/
def group1 (d : Nat) : Nat :=
  match dieType d with
  | 0 => 34 | 1 => 32 | 2 => 100 | 3 => 16 | 4 => 4 | _ => 0

/-- Ports per die of LNK_CAPACITY. -/
def linkPorts (d : Nat) : Nat :=
  match dieType d with
  | 0 => 6 | 1 => 1 | 2 => 7 | 3 => 16 | 4 => 7 | _ => 8

/-- Unit ID from die, group and index (R18). -/
def unitId (die group index : Nat) : Nat := die * 2048 + group * 256 + index

/-- One end of R387's table as (peer die, peer port, kind, active, spares); kind 0 bond, 1 electrical, 2 optical. -/
def linkEnd (d p : Nat) : Nat × Nat × Nat × Nat × Nat :=
  let others (m : Nat) (k : Nat) : Nat := if k < m then k else k + 1
  match dieType d with
  | 0 =>
    if p = 0 then (8 + d, 0, 0, 0, 0)
    else if p = 1 then (18 + d / 2, 2 + d, 1, 272, 17)
    else if p = 2 then (d ^^^ 1, 2, 1, 64, 4)
    else (18 + others (d / 2) (p - 3), 2 + d, 2, 4, 4)
  | 1 => (d - 8, 0, 0, 0, 0)
  | 2 =>
    let h := d - 16
    if p < 4 then
      (18 + p, h, if (h = 0 ∧ p < 2) ∨ (h = 1 ∧ 2 ≤ p) then 1 else 2,
        if (h = 0 ∧ p < 2) ∨ (h = 1 ∧ 2 ≤ p) then 56 else 4, 4)
    else if p < 6 then (18 + p, h, 1, 32, 2)
    else (24, h, 1, 8, 1)
  | 3 =>
    let m := d - 18
    if p < 2 then
      let near := (p = 0 ∧ m < 2) ∨ (p = 1 ∧ 2 ≤ m)
      (16 + p, m, if near then 1 else 2, if near then 56 else 4, 4)
    else if p < 10 then
      let md := p - 2
      if md / 2 = m then (md, 1, 1, 272, 17)
      else (md, 3 + (if m < md / 2 then m else m - 1), 2, 4, 4)
    else if p < 13 then
      let q := others m (p - 10)
      (18 + q, 10 + (if m < q then m else m - 1), if m / 2 = q / 2 then 1 else 2, if m / 2 = q / 2 then 28 else 2, 2)
    else if p < 15 then (22 + (p - 13), 2 + m, 2, 2, 2)
    else (24, 2 + m, 2, 1, 1)
  | 4 =>
    let q := d - 22
    if p < 2 then (16 + p, 4 + q, 1, 32, 2)
    else if p < 6 then (18 + (p - 2), 13 + q, 2, 2, 2)
    else (24, 6 + q, 1, 8, 1)
  | _ =>
    if p < 2 then (16 + p, 6, 1, 8, 1)
    else if p < 6 then (18 + (p - 2), 15, 2, 1, 1)
    else (22 + (p - 6), 6, 1, 8, 1)

/-- Fuse values (R12). Capacities are those of the section files; the rest is a perfect part of stepping B: every unit
passed its test, no column is bypassed, engines 32 and 33 and cores 96 to 99 are spares, FMAX is 4.0 GHz (log 2). -/
def fuse (d : Nat) (f : Fld) (i : Nat) : Nat :=
  match f.reg with
  | .dieId => if f.lo = 32 then dieType d else if f.lo = 16 then 0x2516 else d
  | .dieStepping => if f.lo = 16 then 0x0B else if f.lo = 8 then 0x0B else 0
  | .dieEpoch => 2
  | .dieGoodLo => 2 ^ (min 64 (group1 d)) - 1
  | .dieGoodHi => if group1 d > 64 then 2 ^ (group1 d - 64) - 1 else 0
  | .dieSerial => 0x2516_0000_0000_0000 + d
  | .engStatus => if i < 32 then 0 else 1
  | .engWidth => if f.lo = 8 then 128 else 0
  | .engBinding => i / 2
  | .nstCapacity => if f.lo = 32 then 128 else if f.lo = 16 then 16384 else if f.lo = 8 then 64 else 32
  | .tokCapacity => if f.lo = 16 then 1024 else 8192
  | .fndCapacity => if f.lo = 24 then 32 else if f.lo = 16 then 1 else if f.lo = 8 then 4 else 16
  | .rdcCapacity => if f.lo = 32 then 16 else if f.lo = 16 then 8192 else 64
  | .qfeCapacity => if f.lo = 32 then 16384 * (d - 18) else if f.lo = 16 then 16384 else 16
  | .trcCapacity => if f.lo = 32 then 512 else if f.lo = 16 then 1024 else 16384
  | .wlkCapacity => if f.lo = 16 then 4096 else 128
  | .coreCapacity => if f.lo = 16 then 48 else if f.lo = 8 then 96 else 100
  | .coreState => if f.lo = 62 then (if i < 96 then 0 else 1) else 160
  | .coreFreq => 160
  | .cohCapacity =>
    if f.lo = 16 then (if dieType d = 3 then 16384 else 0)
    else if f.lo = 8 then 16 else if dieType d = 3 then 23 else 24
  | .lnkCapacity => linkPorts d
  | .lnkPortCfg =>
    let e := linkEnd d i
    if linkPorts d ≤ i then 0
    else if f.lo = 48 then unitId e.1 6 e.2.1
    else if f.lo = 40 then e.2.2.1
    else if f.lo = 16 then e.2.2.2.2
    else e.2.2.2.1
  | .netPortCfg => 0x0200_0000_0000 + d * 16 + i
  | .medCapacity => if f.lo = 8 then 4 else 8
  | .secStatus => if f.lo = 8 then 3 else 0
  | .dbgIdcode => if f.lo = 28 then 1 else if f.lo = 12 then 0x2516 else 0
  | _ => 0

/-- Plate defaults (R544), which a register field whose Reset entry is "plate" takes (R12). -/
def plateDefault (d : Nat) (f : Fld) : Nat :=
  match f.reg with
  | .diePartition => if f.lo = 0 then (if d < 16 ∨ (18 ≤ d ∧ d < 22) then 0 else 0xF) else 0
  | .pwrCeiling => 1200
  | _ => 0

/-- The value of a field at the reset that clears it. Persistent fields have their home in the persistent array. -/
def fieldReset (d : Nat) (f : Fld) (i : Nat) : Nat :=
  match f.rst with
  | .lit n => n
  | .fuse => fuse d f i
  | .plate => plateDefault d f
  | .strap => 0
  | .persist => 0

end Sys2Proof.Machine
end

