-- ==== Sys2Proof/Machine/Ops.lean ====
section
/-! DEFINITION. The named operations over memory, registers, events, completion records and the records of State. Every
family reads and writes the state through them. -/

namespace Sys2Proof.Machine

/-! ### Sparse maps -/

/-- Look a key up. -/
def smGet {α : Type} : SMap α → Nat → Option α
  | [], _ => none
  | (k, v) :: r, a => if k = a then some v else if a < k then none else smGet r a

/-- Look a key up, with a value for an unlisted key. -/
def smGetD {α : Type} (m : SMap α) (d : α) (a : Nat) : α := (smGet m a).getD d

/-- Set a key. -/
def smPut {α : Type} : SMap α → Nat → α → SMap α
  | [], a, v => [(a, v)]
  | (k, w) :: r, a, v =>
    if k = a then (a, v) :: r else if a < k then (a, v) :: (k, w) :: r else (k, w) :: smPut r a v

/-- Remove a key. -/
def smDel {α : Type} : SMap α → Nat → SMap α
  | [], _ => []
  | (k, w) :: r, a => if k = a then r else if a < k then (k, w) :: r else (k, w) :: smDel r a

/-! ### Memory -/

/-- The byte at an address: 0 where nothing is listed. -/
def memRead (m : Memory) (a : Nat) : Byte := smGetD m 0 a

/-- Write one byte, keeping the canonical form. -/
def memWrite (m : Memory) (a : Nat) (b : Byte) : Memory := if b = 0 then smDel m a else smPut m a b

/-- Read `n` bytes. -/
def memReadN (m : Memory) (a n : Nat) : List Byte := (List.range n).map fun i => memRead m (a + i)

/-- Write bytes one after another. -/
def memWriteN : Memory → Nat → List Byte → Memory
  | m, _, [] => m
  | m, a, b :: bs => memWriteN (memWrite m a b) (a + 1) bs

/-- Keys strictly rising. -/
def smSorted {α : Type} : SMap α → Bool
  | [] => true
  | [_] => true
  | (a, _) :: (b, w) :: r => decide (a < b) && smSorted ((b, w) :: r)

/-- The canonical form of a memory: addresses strictly rising, no cell equal to what an unlisted address reads as. -/
def Memory.wf (m : Memory) : Bool := smSorted m && m.all (fun c => c.2 != 0)

/-- Remove every cell in `[lo, hi)`. -/
def memClear (m : Memory) (lo hi : Nat) : Memory := m.filter fun c => decide (c.1 < lo) || decide (hi ≤ c.1)

/-- Little-endian value of bytes. -/
def leNat : List Byte → Nat
  | [] => 0
  | b :: bs => b.toNat + 256 * leNat bs

/-- The `n` little-endian bytes of a value. -/
def leBytes : Nat → Nat → List Byte
  | 0, _ => []
  | n + 1, v => BitVec.ofNat 8 v :: leBytes n (v / 256)

/-- Bits [hi:lo] of a number. -/
def bits (v hi lo : Nat) : Nat := (v >>> lo) % 2 ^ (hi - lo + 1)

/-- Two's complement reading of a `w`-bit number. -/
def sext (w v : Nat) : Int := if v < 2 ^ (w - 1) then (v : Int) else (v : Int) - 2 ^ w

/-- The line that holds an address. -/
def lineOf (a : Nat) : Nat := a / 64 * 64

/-- Replace element `i` of a list. -/
def setAt {α : Type} (l : List α) (i : Nat) (v : α) : List α := l.set i v

/-- The sorted insertion of a number without repetition. -/
def insertNat : List Nat → Nat → List Nat
  | [], a => [a]
  | x :: r, a => if x = a then x :: r else if a < x then a :: x :: r else x :: insertNat r a

/-! ### Register space (R26 to R30) -/

/-- The slot of a block on a die type, and how many consecutive slots carry it (R27). -/
def blkSlot (t : Nat) : Blk → Option Nat
  | .dieB => some 0
  | .lnkB => some 48
  | .engB => if t = 0 then some 1 else none
  | .tokB => if t = 0 then some 40 else none
  | .rdcB => if t = 0 then some 41 else none
  | .pwdB => if t = 0 then some 42 else none
  | .nstB => if t = 1 then some 1 else none
  | .coreB => if t = 2 then some 1 else none
  | .cohB => if t = 2 then some 2 else if t = 3 then some 5 else none
  | .wlkB => if t = 2 then some 3 else none
  | .ddrB => if t = 2 then some 4 else none
  | .irqB => if t = 2 then some 5 else none
  | .qfeB => if t = 3 then some 1 else none
  | .fndB => if t = 3 then some 2 else none
  | .tierB => if t = 3 then some 3 else none
  | .trcB => if t = 3 then some 4 else none
  | .hbmB => if t = 3 then some 6 else none
  | .netB => if t = 4 then some 1 else none
  | .pciB => if t = 4 then some 2 else none
  | .medB => if t = 4 then some 3 else none
  | .rstB => if t = 5 then some 1 else none
  | .pwrB => if t = 5 then some 2 else none
  | .prsB => if t = 5 then some 3 else none
  | .secB => if t = 5 then some 4 else none
  | .bootB => if t = 5 then some 5 else none
  | .evtB => if t = 5 then some 6 else none
  | .timeB => if t = 5 then some 7 else none
  | .dbgB => if t = 5 then some 8 else none
  | .strapB => if t = 5 then some 9 else none

/-- Registers of an ENG block are indexed by physical engine: its block lies in slot 1 + e (R27). -/
def regKey (d : Nat) (r : Reg) (i : Nat) : Nat :=
  let n := r.info
  match n.blk with
  | .engB => (d * 64 + 1 + i) * 0x100000 + n.off
  | b => (d * 64 + (blkSlot (dieType d) b).getD 0) * 0x100000 + n.off + n.stride * i

/-- The word a register holds after the reset that clears it. Fuses that were blown since override the shipped ones. -/
def resetWord (s : State) (d : Nat) (r : Reg) (i : Nat) : BitVec 64 :=
  match smGet s.fuses (regKey d r i) with
  | some w => w
  | none => BitVec.ofNat 64 ((r.fields.map fun f => fieldReset d f i * 2 ^ f.lo).sum)

/-- A register's word. -/
def rget (s : State) (d : Nat) (r : Reg) (i : Nat) : BitVec 64 :=
  match smGet s.regs (regKey d r i) with
  | some w => w
  | none => resetWord s d r i

/-- Set a register's word. -/
def rput (s : State) (d : Nat) (r : Reg) (i : Nat) (w : BitVec 64) : State :=
  { s with regs := smPut s.regs (regKey d r i) w }

/-- A field's value in a word. -/
def fldOf (f : Fld) (w : BitVec 64) : Nat := bits w.toNat f.hi f.lo

/-- A word with one field replaced; bits of the value beyond the field's width are dropped. -/
def fldSet (f : Fld) (w : BitVec 64) (v : Nat) : BitVec 64 :=
  let n := f.hi - f.lo + 1
  let mask := BitVec.ofNat 64 ((2 ^ n - 1) * 2 ^ f.lo)
  (w &&& ~~~mask) ||| BitVec.ofNat 64 (v % 2 ^ n * 2 ^ f.lo)

/-- A field of a register. -/
def fget (s : State) (d i : Nat) (f : Fld) : Nat := fldOf f (rget s d f.reg i)

/-- Set a field of a register. -/
def fput (s : State) (d i : Nat) (f : Fld) (v : Nat) : State := rput s d f.reg i (fldSet f (rget s d f.reg i) v)

/-- Add to a counter field that saturates at its largest value (the RC counters). -/
def fsat (s : State) (d i : Nat) (f : Fld) (n : Nat) : State :=
  fput s d i f (min (fget s d i f + n) (2 ^ (f.hi - f.lo + 1) - 1))

/-- Add to a counter field that wraps (R67, R387). -/
def fwrap (s : State) (d i : Nat) (f : Fld) (n : Nat) : State := fput s d i f (fget s d i f + n)

/-- Raise a high-water field to at least a value. -/
def fhigh (s : State) (d i : Nat) (f : Fld) (n : Nat) : State := fput s d i f (max (fget s d i f) n)

/-- A Boolean as a field value. -/
def b2n (b : Bool) : Nat := if b then 1 else 0

/-! ### Free values -/

/-- Draw a free value. -/
def draw (s : State) : BitVec 64 × State := (Config.free s.fresh, { s with fresh := s.fresh + 1 })

/-- Draw a free number below `n` (0 when `n` is 0). -/
def drawBelow (s : State) (n : Nat) : Nat × State := ((draw s).1.toNat % n, (draw s).2)

/-! ### Dies, partitions, contexts (R19, R20) -/

/-- The partition mode code of DIE_PARTITION.MODE on the system die. -/
def modeOf (s : State) : Nat := fget s 24 0 Fl.DIE_PARTITION_MODE

/-- Hubs per partition in a mode. -/
def hubsPer (mode : Nat) : Nat := if mode = 0 then 4 else if mode = 1 then 2 else 1

/-- Number of partitions in a mode. -/
def partCount (mode : Nat) : Nat := if mode = 0 then 1 else if mode = 1 then 2 else 4

/-- The hub die that serves a context (R20). -/
def ctxHub (c : Nat) : Nat := 18 + c / 16384

/-- The partition of a hub index in a mode (R19). -/
def partOfHubIdx (mode h : Nat) : Nat := h / hubsPer mode

/-- The partition of a context. -/
def ctxPart (s : State) (c : Nat) : Nat := partOfHubIdx (modeOf s) (c / 16384)

/-- Matrix dies of a partition. -/
def partDies (s : State) (p : Nat) : List Nat :=
  (List.range (2 * hubsPer (modeOf s))).map fun i => 2 * hubsPer (modeOf s) * p + i

/-- Hub dies of a partition. -/
def partHubs (s : State) (p : Nat) : List Nat := (List.range (hubsPer (modeOf s))).map fun i => 18 + hubsPer (modeOf s) * p + i

/-- Every die of a partition: matrix, near-store and hub dies. -/
def partAllDies (s : State) (p : Nat) : List Nat := partDies s p ++ (partDies s p).map (· + 8) ++ partHubs s p

/-- The partition that owns a die, if one does. -/
def diePart (s : State) (d : Nat) : Option Nat :=
  if d < 8 then some (d / 2 / hubsPer (modeOf s))
  else if d < 16 then some ((d - 8) / 2 / hubsPer (modeOf s))
  else if 18 ≤ d ∧ d < 22 then some ((d - 18) / hubsPer (modeOf s))
  else none

/-- Every die but the system die is held in reset, from the source of a system or power-on reset until step 5 of the start
(R478, R482). -/
def heldInReset (s : State) : Bool := s.rst.kind == .system || s.rst.kind == .powerOn

/-- A die whose window answers with an error: held in reset, powered off or fenced (R29). -/
def windowDead (s : State) (d : Nat) : Bool :=
  (heldInReset s && decide (d < 24)) || s.rst.deadDies.contains d || (diePart s d).any fun p => s.rst.parts.contains p || s.rst.fenced.contains p

/-- A register access reaches its die unless the die's window answers with an error (R29). -/
def onDie (s : State) (d : Nat) (f : State → State) : State := if windowDead s d then s else f s

/-- Whether a unit of group 1 of a die passed manufacturing test; one that did not is never enabled (R34). -/
def unitGood (s : State) (d i : Nat) : Bool :=
  if i < 64 then (fget s d 0 Fl.DIE_GOOD_LO_GOOD).testBit i else (fget s d 0 Fl.DIE_GOOD_HI_GOOD).testBit (i - 64)

/-! ### Measured values -/

/-- A measured field shows a free value. -/
def gauge (s : State) (d i : Nat) (f : Fld) : State := fput (draw s).2 d i f (draw s).1.toNat

/-- A counter of something that goes on without commands has advanced by a free amount and wraps. -/
def advance (s : State) (d i : Nat) (f : Fld) : State := fwrap (draw s).2 d i f (draw s).1.toNat

/-- A counter of such things that saturates. -/
def accrue (s : State) (d i : Nat) (f : Fld) : State := fsat (draw s).2 d i f ((draw s).1.toNat % 65536)

/-- The handshake counters of an engine have advanced up to now (R54, R55, R67). -/
def countHandshakes (s : State) (d e : Nat) : State :=
  [Fl.ENG_HS_TOTAL_COUNT, Fl.ENG_HS_ACTIVE_COUNT, Fl.ENG_HS_STALL_FEED_COUNT, Fl.ENG_HS_STALL_DRAIN_COUNT].foldl
    (fun s f => advance s d e f) s

/-! ### Physical address map (R22, R23, R371) -/

/-- Kinds of physical address. -/
inductive PaKind where
  | ddr
  | hbm (stack : Nat)
  | far
  | reg
  | doorbell
  | mmio (port : Nat)
  | hole
  deriving DecidableEq, Repr

def hbmBase : Nat := 0x0800_0000_0000
def stackBytes : Nat := 0x0010_0000_0000
def farBase : Nat := 0x1000_0000_0000
def regBase : Nat := 0x3F00_0000_0000
def bellBase : Nat := 0x3F40_0000_0000
def mmioBase : Nat := 0x3F80_0000_0000
def gib : Nat := 0x4000_0000

/-- Number of 1 bits. -/
def popcount (w n : Nat) : Nat := ((List.range n).filter fun i => w.testBit i).length

/-- Installed DDR capacity in bytes: populated channels times the channel capacity (R384). -/
def ddrBytes (s : State) : Nat :=
  if s.rst.ddrUnmapped then 0
  else (popcount (fget s 16 0 Fl.DDR_POPULATION_POPULATED) 8 + popcount (fget s 17 0 Fl.DDR_POPULATION_POPULATED) 8)
    * fget s 16 0 Fl.DDR_POPULATION_CHANNEL_GIB * gib

/-- Good pseudo-channels of a stack, by its number 0–15. -/
def goodPcs (s : State) (st : Nat) : Nat := fget s (18 + st / 4) (st % 4) Fl.HBM_STACK_PC_GOOD

/-- Good pseudo-channels of a partition in ascending device-wide number. -/
def partPcs (s : State) (p : Nat) : List Nat :=
  (partHubs s p).flatMap fun h => (List.range 4).flatMap fun k =>
    let st := (h - 18) * 4 + k
    ((List.range 32).filter fun i => (goodPcs s st).testBit i).map fun i => 32 * st + i

/-- First HBM address of a partition (R19). -/
def partBase (s : State) (p : Nat) : Nat := hbmBase + p * hubsPer (modeOf s) * 4 * stackBytes

/-- The partition whose HBM range holds an address. -/
def hbmPart (s : State) (pa : Nat) : Nat := (pa - hbmBase) / (hubsPer (modeOf s) * 4 * stackBytes)

/-- Whether a partition is in linear mode (R368). -/
def linear (s : State) (p : Nat) : Bool := fget s (18 + hubsPer (modeOf s) * p) 0 Fl.HBM_MODE_MODE == 1

/-- The algorithm of R369 with `lin` for R370: pseudo-channel and byte offset of an address. -/
def pcMap (list : List Nat) (base a : Nat) (lin : Bool) : Option (Nat × Nat) :=
  let n := list.length
  if n = 0 then none
  else
    let b := (a - base) / 256
    let q := b / n
    let h := if lin then 0 else (q ^^^ (q >>> 8) ^^^ (q >>> 16)) % 65536
    let slot := (b % n + h) % n
    list[slot]?.map fun pc => (pc, q * 256 + (a - base) % 256)

/-- Pseudo-channel and offset that hold an HBM address (R369, R370), within the usable range (R371). -/
def hbmDecode (s : State) (pa : Nat) : Option (Nat × Nat) :=
  let p := hbmPart s pa
  if linear s p then
    let st := (pa - hbmBase) / stackBytes
    let base := hbmBase + st * stackBytes
    let list := ((List.range 32).filter fun i => (goodPcs s st).testBit i).map fun i => 32 * st + i
    if pa - base < list.length * (2 * gib) then pcMap list base pa true else none
  else
    let list := partPcs s p
    if pa - partBase s p < list.length * (2 * gib) then pcMap list (partBase s p) pa false else none

/-- Populated DDR channels in the order of R384, as (host die, channel) coded 8·die index + channel. -/
def ddrChans (s : State) : List Nat :=
  ((List.range 8).filter fun i => (fget s 16 0 Fl.DDR_POPULATION_POPULATED).testBit i) ++
  ((List.range 8).filter fun i => (fget s 17 0 Fl.DDR_POPULATION_POPULATED).testBit i).map (8 + ·)

/-- The DDR channel that holds an address (R384). -/
def ddrDecode (s : State) (pa : Nat) : Option Nat := (pcMap (ddrChans s) 0 pa false).map (·.1)

/-- The enabled CXL window that holds a far-memory address: global port (R546). -/
def farPort (s : State) (pa : Nat) : Option Nat :=
  (List.range 16).find? fun g =>
    let d := 22 + g / 8
    let w := rget s d .pciRpCxl (g % 8)
    fldOf Fl.PCI_RP_CXL_ENABLE w == 1 && g % 2 == 0 &&
      decide (farBase + fldOf Fl.PCI_RP_CXL_BASE_GIB w * gib ≤ pa) &&
      decide (pa < farBase + (fldOf Fl.PCI_RP_CXL_BASE_GIB w + fldOf Fl.PCI_RP_CXL_SIZE_GIB w) * gib)

/-- The kind of a physical address (R22, R23). -/
def paKind (s : State) (pa : Nat) : PaKind :=
  if pa < 0x0400_0000_0000 then (if pa < ddrBytes s then .ddr else .hole)
  else if hbmBase ≤ pa ∧ pa < 0x0900_0000_0000 then
    match hbmDecode s pa with
    | some (pc, _) => .hbm (pc / 32)
    | none => .hole
  else if farBase ≤ pa ∧ pa < 0x2000_0000_0000 then
    match farPort s pa with
    | some _ => .far
    | none => .hole
  else if regBase ≤ pa ∧ pa < 0x3F01_0000_0000 then .reg
  else if bellBase ≤ pa ∧ pa < 0x3F40_1000_0000 then .doorbell
  else if mmioBase ≤ pa ∧ pa < 0x4000_0000_0000 then .mmio ((pa - mmioBase) / 0x0008_0000_0000)
  else .hole

/-- Whether a far-memory window's port is up in CXL state (R245, R455). -/
def farUp (s : State) (pa : Nat) : Bool :=
  match farPort s pa with
  | some g => fget s (22 + g / 8) (g % 8) Fl.PCI_RP_STATE_STATE == 3
  | none => false

/-- What refuses an access of an engine, Finder, pipeline or network DMA of a partition to a physical address: a status
of R21, R25 or R245, or nothing. A hole in another partition's HBM range is refused as that partition's (log 146), and PCIe MMIO
with the status of register space (log 168). -/
def accelRefusal (s : State) (part pa : Nat) : Option Nat :=
  match paKind s pa with
  | .ddr => none
  | .hbm _ => if hbmPart s pa = part then none else some 0x0211
  | .far => if farUp s pa then none else some 0x0311
  | _ => if hbmBase ≤ pa ∧ pa < 0x0900_0000_0000 ∧ hbmPart s pa ≠ part then some 0x0211 else some 0x0210

/-! ### Lines at their homes -/

/-- A line reads as poison: poisoned, or on a failed pseudo-channel or DDR channel (R357, R374, R385). -/
def poisoned (s : State) (line : Nat) : Bool :=
  s.poison.contains line ||
  (match paKind s line with
   | .hbm _ => (match hbmDecode s line with
     | some (pc, _) => s.failedPcs.contains pc
     | none => false)
   | .ddr => (match ddrDecode s line with
     | some c => (fget s (16 + c / 8) 0 Fl.DDR_POPULATION_FAILED).testBit (c % 8)
     | none => false)
   | _ => false)

/-- Memory accepts accesses at a line: not from the source of a reset of its die until its training has ended (R359, R365). -/
def accepts (s : State) (line : Nat) : Bool := !heldInReset s && match paKind s line with
  | .hbm _ => !s.rst.parts.contains (hbmPart s line)
  | _ => true

/-- Writes to a line are discarded: its pseudo-channel or DDR channel has failed (R374, R385), its partition's HBM does not
accept accesses yet (R365), its CXL port is down (R455), or no memory is there (R25). -/
def deadLine (s : State) (line : Nat) : Bool :=
  !accepts s line || match paKind s line with
  | .hbm _ => (match hbmDecode s line with
    | some (pc, _) => s.failedPcs.contains pc
    | none => false)
  | .ddr => (match ddrDecode s line with
    | some c => (fget s (16 + c / 8) 0 Fl.DDR_POPULATION_FAILED).testBit (c % 8)
    | none => false)
  | .far => !farUp s line
  | _ => true

/-- Put bytes of a line into memory, unless they are discarded. -/
def memPut (s : State) (a : Nat) (bs : List Byte) : State :=
  if deadLine s (lineOf a) then s else { s with mem := memWriteN s.mem a bs }

/-- Put a whole line into memory: its check bits are written with it, which ends poison and any error in them (R357). -/
def linePut (s : State) (line : Nat) (bs : List Byte) : State :=
  memPut { s with poison := s.poison.filter (· != line), flaws := smDel s.flaws line } line (bs.take 64)

/-- What an L2 has lost its L1I and L1D lose too (R318). -/
def trimL1 (k : Core) : Core :=
  { k with l1i := k.l1i.filter fun a => k.l2.any (·.line == a), l1d := k.l1d.filter fun a => k.l2.any (·.line == a) }

/-- Apply a function to every L2 of the coherent domain. -/
def mapL2 (s : State) (f : List CacheLine → List CacheLine) : State :=
  { s with cores := s.cores.map fun c => (c.1, trimL1 { c.2 with l2 := f c.2.l2 }) }

/-- The home of a line (R342). -/
def homeOf (s : State) (line : Nat) : Nat :=
  match paKind s line with
  | .ddr => 16 + (ddrDecode s line).getD 0 / 8
  | .hbm st => 18 + st / 4
  | _ => if line.testBit 12 then 17 else 16

def Home.fresh : Home := ⟨[], [], [], [], []⟩
def getHome (s : State) (h : Nat) : Home := smGetD s.coh.homes Home.fresh h
def putHome (s : State) (h : Nat) (x : Home) : State := { s with coh := { s.coh with homes := smPut s.coh.homes h x } }
def modHome (s : State) (h : Nat) (f : Home → Home) : State := putHome s h (f (getHome s h))

/-- The directory entry of a line. -/
def dirFind (x : Home) (line : Nat) : Option DirEntry := x.dir.find? (·.line == line)

/-- The number of a die as a holder: host dies 0 and 1, link caches 2 to 5 (R344). -/
def holderOf (die : Nat) : Nat := if die = 16 then 0 else if die = 17 then 1 else die - 16

/-- An entry records a line's holders, or none once no holder is left. The place of an entry that exists is kept, since
R352 evicts by age. -/
def dirSet (x : Home) (line : Nat) (em : Bool) (holders : BitVec 6) : Home :=
  if holders = 0 then { x with dir := x.dir.filter (·.line != line) }
  else if x.dir.any (·.line == line) then
    { x with dir := x.dir.map fun d => if d.line = line then ⟨line, em, holders⟩ else d }
  else { x with dir := x.dir ++ [⟨line, em, holders⟩] }

/-- Whether a home has a transaction open on a line. -/
def openOn (x : Home) (line : Nat) : Bool := x.txns.any (·.line == line)

/-- Record a read of a poisoned line at its controller: kind 3 of HBM_LAST_ERROR and DDR_LAST_ERROR. -/
def notePoison (s : State) (line : Nat) : State :=
  if !poisoned s line then s
  else match paKind s line with
    | .hbm _ => match hbmDecode s line with
      | some (pc, _) =>
        let h := 18 + pc / 128
        let s := fput s h 0 Fl.HBM_LAST_ERROR_KIND 3
        let s := fput s h 0 Fl.HBM_LAST_ERROR_PC (pc % 128)
        fput s h 0 Fl.HBM_LAST_ERROR_LINE (line / 64)
      | none => s
    | .ddr => match ddrDecode s line with
      | some c =>
        let d := 16 + c / 8
        let s := fput s d 0 Fl.DDR_LAST_ERROR_KIND 3
        let s := fput s d 0 Fl.DDR_LAST_ERROR_CHANNEL (c % 8)
        fput s d 0 Fl.DDR_LAST_ERROR_LINE (line / 64)
      | none => s
    | _ => s

/-- The line addresses that a range of bytes touches. -/
def linesOf (a n : Nat) : List Nat :=
  if n = 0 then [] else (List.range ((a + n - 1) / 64 - a / 64 + 1)).map fun i => (a / 64 + i) * 64

/-- Whether a read of a range meets poison. -/
def rangePoison (s : State) (a n : Nat) : Bool := (linesOf a n).any (poisoned s)

/-- Cut bytes at line boundaries. -/
def cutLines : Nat → Nat → List Byte → List (Nat × List Byte)
  | 0, _, _ => []
  | fuel + 1, a, bs =>
    if bs.isEmpty then []
    else
      let n := 64 - a % 64
      (a, bs.take n) :: cutLines fuel (a + n) (bs.drop n)

/-! ### Host cores -/

/-- A host core is online: it runs, or is halted by its own software (R323). -/
def coreUp (s : State) (d c : Nat) : Bool :=
  fget s d c Fl.CORE_STATE_STATE == 1 || fget s d c Fl.CORE_STATE_STATE == 2

/-- The core of a host die, as the model keys it. -/
def coreKey (d c : Nat) : Nat := d * 128 + c
def Core.fresh : Core := ⟨[], [], [], [], [], [], [], .none, none, .none, [], 0, 0⟩
def getCore (s : State) (d c : Nat) : Core := smGetD s.cores Core.fresh (coreKey d c)
def putCore (s : State) (d c : Nat) (x : Core) : State := { s with cores := smPut s.cores (coreKey d c) x }
def modCore (s : State) (d c : Nat) (f : Core → Core) : State := putCore s d c (f (getCore s d c))

/-! ### Interrupts, events and records -/

/-- Send a device interrupt message (R336): it is on its way until IRQ_MESSAGE delivers it. -/
def sendIrq (s : State) (v : Nat) : State := { s with irqOut := s.irqOut ++ [v] }

/-- Raise an event towards the Dome (R14, R516). -/
def raise (s : State) (code sev src : Nat) (ctx : Nat := 0) (detail : BitVec 128 := 0) : State :=
  { s with evt := { s.evt with arriving := s.evt.arriving ++ [⟨s.time.toNat, code, sev, src, ctx, detail⟩] } }

/-- An event record's 32 bytes (R14). -/
def eventBytes (e : Event) : List Byte :=
  leBytes 8 e.time ++ leBytes 2 e.code ++ leBytes 1 e.severity ++ [0] ++ leBytes 2 e.source ++ leBytes 2 e.ctx ++
    leBytes 16 e.detail.toNat

/-- A completion record's 32 bytes (R13). -/
def completionBytes (handle status flags time : Nat) (detail : BitVec 64) : List Byte :=
  leBytes 8 handle ++ leBytes 2 status ++ leBytes 2 flags ++ leBytes 4 0 ++ leBytes 8 time ++ leBytes 8 detail.toNat

/-! ### Contexts -/

/-- A context after a reset that clears it: DISABLED, quotas 0 (R242, R293). -/
def Ctx.fresh : Ctx := ⟨0, 0, 0, 0, 0, 0, 0, 0, 0, 0, 0, 0, none, [], [0, 0, 0, 0, 0], [0, 0, 0, 0, 0]⟩

def getCtx (s : State) (c : Nat) : Ctx := smGetD s.ctxs Ctx.fresh c
def putCtx (s : State) (c : Nat) (x : Ctx) : State := { s with ctxs := smPut s.ctxs c x }
def modCtx (s : State) (c : Nat) (f : Ctx → Ctx) : State := putCtx s c (f (getCtx s c))

/-- Context states (QFE_CTX_STATE.STATE). -/
def stDisabled : Nat := 0
def stRunning : Nat := 1
def stParked : Nat := 2
def stDraining : Nat := 3

def ctxState (x : Ctx) : Nat := fldOf Fl.QFE_CTX_STATE_STATE x.state
def setCtxState (x : Ctx) (v : Nat) : Ctx := { x with state := fldSet Fl.QFE_CTX_STATE_STATE x.state v }
def ringBase (w : BitVec 64) : Nat := fldOf Fl.QFE_CTX_CMD_RING_BASE w * 4096
def ringSize (w : BitVec 64) : Nat := 2 ^ fldOf Fl.QFE_CTX_CMD_RING_SIZE_LOG2 w

/-- Handle of a command (R273). -/
def handleOf (ctx seq : Nat) : Nat := ctx * 2 ^ 48 + seq % 2 ^ 48

/-- Commands dispatched and not completed (QFE_CTX_STATE.INFLIGHT). -/
def inflight (x : Ctx) : Nat := (x.cmds.filter (·.dispatched)).length

def findCmd (x : Ctx) (seq : Nat) : Option Cmd := x.cmds.find? (·.seq == seq)
def getCmd (s : State) (c seq : Nat) : Option Cmd := findCmd (getCtx s c) seq

/-- Change one command of a context. -/
def modCmd (s : State) (c seq : Nat) (f : Cmd → Cmd) : State :=
  modCtx s c fun x => { x with cmds := x.cmds.map fun k => if k.seq = seq then f k else k }

/-- A DRAINING context with nothing in flight becomes DISABLED. Commands that were fetched and not dispatched stay and are
dispatched once the context runs again: disabling cancels none (R270, log 67). -/
def settleCtx (x : Ctx) : Ctx := if ctxState x = stDraining ∧ inflight x = 0 then setCtxState x stDisabled else x

/-- Detail of list commands: entries done and the failing entry (R238, R284, R470). -/
def listDetail (done : Nat) (failing : Option Nat) : BitVec 64 :=
  BitVec.ofNat 64 (done % 2 ^ 32 * 2 ^ 32 + (failing.getD 0xFFFF_FFFF) % 2 ^ 32)

/-! ### Engines, launches, streams -/

/-- The engine as every reset and the clear of R131 leave it. -/
def Engine.fresh : Engine :=
  ⟨none, false, none, none, [], [], [], List.replicate 8 0, [], none, [], false, false, false, none, none⟩

def engKey (d e : Nat) : Nat := d * 34 + e
def getEng (s : State) (d e : Nat) : Engine := smGetD s.engines Engine.fresh (engKey d e)
def putEng (s : State) (d e : Nat) (x : Engine) : State := { s with engines := smPut s.engines (engKey d e) x }
def modEng (s : State) (d e : Nat) (f : Engine → Engine) : State := putEng s d e (f (getEng s d e))

def findLaunch (s : State) (c seq : Nat) : Option Launch := s.launches.find? fun l => l.ctx == c && l.seq == seq
def modLaunch (s : State) (c seq : Nat) (f : Launch → Launch) : State :=
  { s with launches := s.launches.map fun l => if l.ctx = c ∧ l.seq = seq then f l else l }

/-- Report an error of a launch to its front end; the first to arrive ends it (R152). -/
def launchErr (s : State) (c seq status : Nat) (detail : BitVec 64) : State :=
  modLaunch s c seq fun l => { l with errs := l.errs ++ [(status, detail)] }

/-- The launch and the slot placed on an engine. -/
def slotOf (s : State) (d e : Nat) : Option (Launch × Nat × Slot) :=
  (getEng s d e).placed.bind fun p =>
    (findLaunch s p.1 p.2.1).bind fun l => (l.slots[p.2.2]?).map fun sl => (l, p.2.2, sl)

/-- The launch and the stream that a stream context runs. -/
def streamOf (s : State) (h f c : Nat) : Option (Launch × Nat × Stream) :=
  s.launches.findSome? fun l =>
    (List.range l.streams.length).findSome? fun i =>
      (l.streams[i]?).bind fun st => if st.at_ = some (h, f, c) then some (l, i, st) else none

def modSlot (s : State) (c seq i : Nat) (f : Slot → Slot) : State :=
  modLaunch s c seq fun l => { l with slots := (l.slots.zipIdx).map fun p => if p.2 = i then f p.1 else p.1 }
def modStream (s : State) (c seq i : Nat) (f : Stream → Stream) : State :=
  modLaunch s c seq fun l => { l with streams := (l.streams.zipIdx).map fun p => if p.2 = i then f p.1 else p.1 }

/-! ### Near store and operand stores (R48) -/

/-- The number under which the row maps of a bank of the near-store die `d` are kept. -/
def bankIndex (d bank : Nat) : Nat := d * 32 + bank

def bankKey (md bank off : Nat) : Nat := (md * 32 + bank) * Config.bankBytes + off
def osKey (d e off : Nat) : Nat := (d * 34 + e) * 0x80_0000 + off

/-- The bank bound to an engine. -/
def boundBank (s : State) (d e : Nat) : Nat := fget s d e Fl.ENG_BINDING_BANK

/-- Write engine-local bytes. -/
def elWrite (s : State) (d e a : Nat) (bs : List Byte) : State :=
  if a < Config.bankBytes then { s with near := memWriteN s.near (bankKey d (boundBank s d e) a) bs }
  else { s with ostore := memWriteN s.ostore (osKey d e (a - Config.bankBytes)) bs }

/-- The row and word of a bank error into NST_LAST_ERROR and the NST counters (R68). -/
def bankError (s : State) (md bank row word : Nat) (ue : Bool) : State :=
  let n := md + 8
  let s := fput s n 0 (if ue then Fl.NST_ERR_STATUS_UE else Fl.NST_ERR_STATUS_CE) 1
  let s := fsat s n 0 (if ue then Fl.NST_ERR_COUNT_UE else Fl.NST_ERR_COUNT_CE) 1
  let s := fput s n 0 Fl.NST_LAST_ERROR_KIND (if ue then 2 else 1)
  let s := fput s n 0 Fl.NST_LAST_ERROR_BANK bank
  let s := fput s n 0 Fl.NST_LAST_ERROR_ROW row
  fput s n 0 Fl.NST_LAST_ERROR_WORD word

end Sys2Proof.Machine
end

