-- ==== Sys2Proof/Machine/Operands.lean ====
section
/-! DEFINITION. Element formats and their codes (R72 to R79, R175), packing (R75), engine layout (R209), scale words (R96
to R99), one pass over codes (R80 to R86), and the Photometer's conversions (R91, R102, R103, R109, R184). -/

namespace Sys2Proof.Machine

/-! ### Format codes (R175) -/

/-- Element width in bits of a format code. -/
def fmtBits (c : Nat) : Nat := [8, 8, 8, 8, 6, 6, 4, 8, 8, 8, 4, 4, 16, 16, 32, 32].getD c 32

/-- The floating-point element format of a code, if it has one. -/
def fmtFloat (c : Nat) : Option FloatFmt :=
  [some fE4M3, some fE5M2, some fE4M3, some fE5M2, some fE3M2, some fE2M3, some fE2M1, none, none, none, none, none,
    some fBf16, some fFp16, some f32, none].getD c none

/-- A block format (R76). -/
def isBlock (c : Nat) : Bool := decide (2 ≤ c) && decide (c ≤ 7)

/-- An integer code format (R95). -/
def isIntFmt (c : Nat) : Bool := decide (8 ≤ c) && decide (c ≤ 11)

/-- FP8 without block scales. -/
def isFp8 (c : Nat) : Bool := decide (c ≤ 1)

/-- Signed integer codes. -/
def fmtSigned (c : Nat) : Bool := c == 8 || c == 10

/-- Rate class (R37): 4, 8 or 16. -/
def rateClass (c : Nat) : Nat := if c = 6 ∨ c = 10 ∨ c = 11 then 4 else if c = 12 ∨ c = 13 then 16 else 8

/-- Groups of R79: two operands combine when they are in the same group. -/
def pairGroup (c : Nat) : Nat :=
  if c ≤ 5 then 0 else if c = 7 then 1 else if c = 8 ∨ c = 9 then 2 else if c = 6 then 3
  else if c = 10 ∨ c = 11 then 4 else 5

/-- Block size of a block size code. -/
def blkSize (c : Nat) : Nat := 16 * 2 ^ c

/-- Record length P(x) (R209). -/
def recLen (x : Nat) : Nat := if x ≤ 128 then 128 else if x ≤ 256 then 256 else if x ≤ 512 then 512 else 1024

/-- Ceiling of a quotient. -/
def cdiv (a b : Nat) : Nat := (a + b - 1) / b

/-- Least multiple of `b` not below `a`. -/
def roundUp (a b : Nat) : Nat := cdiv a b * b

/-! ### Packing (R75) -/

/-- Codes of width `w` as a little-endian number. -/
def packNat (w : Nat) : List Nat → Nat
  | [] => 0
  | c :: cs => c % 2 ^ w + 2 ^ w * packNat w cs

/-- Bytes of one packed row; the spare bits of a last byte that no code fills are 0 (R75, log 153). -/
def packRow (w : Nat) (cs : List Nat) : List Byte := leBytes (cdiv (cs.length * w) 8) (packNat w cs)

/-- The first `n` codes of a packed row. -/
def unpackRow (w n : Nat) (bs : List Byte) : List Nat :=
  let v := leNat bs
  (List.range n).map fun i => bits v (w * i + w - 1) (w * i)

/-- Bytes of a packed row of `n` elements. -/
def rowBytes (w n : Nat) : Nat := cdiv (n * w) 8

/-! ### Element values -/

/-- A code's integer value. -/
def intElem (c v : Nat) : Int := if fmtSigned c then sext (fmtBits c) v else v

/-- A code's value (R72, R73). -/
def elemNum (c v : Nat) : Num :=
  match fmtFloat c with
  | some f => f.decode v
  | none => if c = 7 then ofInt (sext 8 v) (-6) else ofInt (intElem c v) 0

/-- An element's exponent for the anchor of a pass (R72, R73, R81). -/
def elemExp (c v : Nat) : Int :=
  match fmtFloat c with
  | some f => f.expOf v
  | none => 0

/-- An operand element: its value with the block scale applied, and its part of the anchor (R80, R81). -/
structure El where
  v : Num
  x : Int
  deriving DecidableEq, Repr

/-- The element of a code under a block scale code; 127 stands for no scale (R76, R77). -/
def elOf (c v scale : Nat) : El :=
  if scale = 255 then ⟨.nan, 0⟩
  else
    let k : Int := (scale : Int) - 127
    ⟨(elemNum c v).shift k, elemExp c v + k⟩

/-! ### One pass (R80 to R86, R118) -/

/-- The anchor over finite products that are not zero. -/
def passAnchor : List (El × El) → Option Int
  | [] => none
  | (a, b) :: r =>
    let rest := passAnchor r
    match a.v, b.v with
    | .fin _ m _, .fin _ n _ =>
      if m = 0 ∨ n = 0 then rest
      else
        match rest with
        | some y => some (max y (a.x + b.x))
        | none => some (a.x + b.x)
    | _, _ => rest

/-- The fixed-point sum of the finite products in units of 2^q, each truncated toward zero (R81). -/
def passSum (q : Int) : List (El × El) → Int
  | [] => 0
  | (a, b) :: r =>
    match a.v.mul b.v with
    | .fin n m e => (if n then -(truncTo m e q : Int) else (truncTo m e q : Int)) + passSum q r
    | _ => passSum q r

/-- Round an exact finite result to binary32 and tell an overflow with its exponent (R84, R85, R117). -/
def round32 (x : Num) : Num × Option OvfTag :=
  match x with
  | .fin n m e =>
    if f32.beyond (f32.rneUp x) then (.inf n, some (.f32 n (binExp m e))) else (f32.round x, none)
  | y => (y, none)

/-- The result of a floating-point pass of one column (R83, R84, R118). -/
def passFloat (rAcc : Nat) (ps : List (El × El)) : Num × Option OvfTag :=
  let prods := ps.map fun p => p.1.v.mul p.2.v
  let pinf := prods.contains (.inf false)
  let ninf := prods.contains (.inf true)
  if prods.contains .nan ∨ (pinf ∧ ninf) then (.nan, none)
  else if pinf then (.inf false, some .product)
  else if ninf then (.inf true, some .product)
  else
    match passAnchor ps with
    | none => (.fin false 0 0, none)
    | some a => round32 (ofInt (passSum (a - 82) ps) (a - 82 - rAcc))

/-- The sum of an integer pass (R86, R118). -/
def passInt (rAcc : Nat) (ps : List (Int × Int)) : Int := rneDiv ((ps.map fun p => p.1 * p.2).sum) rAcc

/-! ### Scale words (R96 to R98) -/

def swScale (w : BitVec 32) : Num := fBf16.decode (bits w.toNat 31 16)
def swHasSum (w : BitVec 32) : Bool := w.getLsbD 4

/-- A zero point byte under a format (R97). -/
def zeroPoint (fmt v : Nat) : Int :=
  if fmt = 10 then sext 4 (v % 16) else if fmt = 11 then v % 16 else if fmt = 8 then sext 8 v else v

/-- The zero point of a scale word; 0 for FP8 (R98). -/
def swZero (fmt : Nat) (w : BitVec 32) : Int := if isIntFmt fmt then zeroPoint fmt (bits w.toNat 15 8) else 0

/-- SCALE is positive, finite and normal. -/
def swScaleOk (w : BitVec 32) : Bool :=
  let b := bits w.toNat 31 16
  decide (b < 0x8000) && decide (0x80 ≤ b) && decide (b < 0x7F80)

/-- A scale word is valid for a format (R98). -/
def swValid (fmt : Nat) (w : BitVec 32) : Bool :=
  w.getLsbD 7 && swScaleOk w &&
    (isFp8 fmt || (w.getLsbD 6 == fmtSigned fmt && w.getLsbD 5 == decide (fmtBits fmt = 4)))

/-- A scale word that the Photometer writes (R109). -/
def swMake (fmt : Nat) (scaleExp z : Int) : BitVec 32 :=
  BitVec.ofNat 32 (fBf16.encode (.fin false 1 scaleExp) * 65536 + (if isIntFmt fmt then (z % 256).toNat else 0) * 256 + 128 +
    (if fmtSigned fmt then 64 else 0) + (if isIntFmt fmt ∧ fmtBits fmt = 4 then 32 else 0))

/-! ### Code ranges (R97, R107) -/

/-- Code range of an integer format. -/
def codeRange (fmt : Nat) : Int × Int :=
  if fmt = 8 then (-128, 127) else if fmt = 9 then (0, 255) else if fmt = 10 then (-8, 7) else (0, 15)

/-- The code limit L of a scale slot (R107). -/
def codeLimit (fmt : Nat) (z : Int) : Nat :=
  if fmt = 0 then 448
  else if fmt = 1 then 57344
  else
    let r := codeRange fmt
    if z = r.1 then (r.2 - z).toNat else if z = r.2 then (z - r.1).toNat else (min (r.2 - z) (z - r.1)).toNat

/-- An integer as the code of a format. -/
def intCode (fmt : Nat) (i : Int) : Nat := (i % 2 ^ fmtBits fmt).toNat

/-- Clamp an integer. -/
def clampInt (lo hi i : Int) : Int := if i < lo then lo else if hi < i then hi else i

/-! ### The Photometer's conversions -/

/-- PLAIN conversion of a binary32 value (R184). -/
def plainCode (ofmt : Nat) (v : Num) : Nat :=
  match fmtFloat ofmt with
  | some f => f.enc v
  | none => 0

/-- Dequantisation of an INT32 entry (R102, R118). -/
def dequantInt (acc sumW sumA k za zw : Int) (sa sw : Num) (rAcc : Nat) : Num :=
  let c := -za * sumW - zw * sumA + k * za * zw
  f32.round ((sa.mul sw).mul (ofInt (acc + rneDiv c rAcc) 0))

/-- Dequantisation of a binary32 entry by per-tensor scales (R103). -/
def dequantFloat (acc sa sw : Num) : Num :=
  match acc with
  | .fin n m e => f32.round ((sa.mul sw).mul (.fin n m e))
  | x => x

/-- Magnitude of a finite value. -/
def Num.mag : Num → Nat × Int
  | .fin _ m e => (m, e)
  | _ => (0, 0)

/-- The larger of two magnitudes. -/
def magMax (a b : Nat × Int) : Nat × Int := if magLe a.1 a.2 b.1 b.2 then b else a

/-- emax of a block format (R91). -/
def blockEmax (fmt : Nat) : Int :=
  match fmtFloat fmt with
  | some f => f.emax
  | none => 0

/-- Whether a quotient rounded with unbounded exponent exceeds the format's largest element (R91). -/
def blockBeyond (fmt : Nat) (x : Num) : Bool :=
  match fmtFloat fmt with
  | some f => f.beyond (f.rneUp x)
  | none =>
    match x with
    | .fin _ m e => decide (127 < rneTo m e (max (binExp m e) 0 - 6) * 2 ^ (max (binExp m e) 0).toNat)
    | _ => false

/-- The element code of a quotient, and whether it was clamped (R91 to R93). -/
def blockCode (fmt : Nat) (x : Num) : Nat × Bool :=
  match fmtFloat fmt with
  | some f => (f.encode (f.roundClamp x), f.beyond (f.rneUp x))
  | none =>
    match x with
    | .fin n m e =>
      let k := rneTo m e (-6)
      let i : Int := min k 127
      (intCode 8 (if n then -i else i), decide (127 < k))
    | _ => (0, false)

/-- Scale selection in block mode (R91, R118): scale code, element codes, and whether an element was clamped. -/
def blockEncode (fmt rAcc : Nat) (vs : List Num) : Nat × List Nat × Bool :=
  let bad := vs.any fun v => match v with
    | .fin _ _ _ => false
    | _ => true
  if bad then (255, vs.map fun _ => 0, false)
  else
    let a := vs.foldl (fun m v => magMax m v.mag) (0, 0)
    if a.1 = 0 then (127, vs.map fun v => (blockCode fmt v).1, false)
    else
      let x := max (binExp a.1 a.2 - blockEmax fmt) (-127)
      let x := if blockBeyond fmt (.fin false a.1 (a.2 - x)) ∧ x < 127 then x + 1 else x
      let w := min (x + rAcc) 127
      let cs := vs.map fun v => blockCode fmt (v.shift (rAcc - w))
      ((w + 127).toNat, cs.map (·.1), cs.any (·.2))

/-- What became of an element in delayed mode. -/
inductive CodeFate where
  | ok
  /-- Outside the code range: raises the code-range cause (R110) and is clamped (R120). -/
  | range
  /-- A ±∞ entry, at the limit code (R120). -/
  | limit
  /-- A NaN entry (R109). -/
  | nan
  deriving DecidableEq, Repr

/-- The code at distance L from zero in a direction (R120). -/
def limitCode (fmt : Nat) (z : Int) (neg : Bool) : Nat :=
  match fmtFloat fmt with
  | some f => f.encode (f.maxFin neg)
  | none =>
    let l : Int := codeLimit fmt z
    let r := codeRange fmt
    intCode fmt (clampInt r.1 r.2 (if neg then z - l else z + l))

/-- The limit code of a sign: the end of the code range, for an INT32 entry that wrapped (R120). -/
def endCode (fmt : Nat) (neg : Bool) : Nat :=
  match fmtFloat fmt with
  | some f => f.encode (f.maxFin neg)
  | none => intCode fmt (if neg then (codeRange fmt).1 else (codeRange fmt).2)

/-- The delayed-mode code of a value under the exponent of the effective scale (R109, R110, R120). -/
def delayedCode (fmt : Nat) (z sEff : Int) (v : Num) : Nat × CodeFate :=
  match v with
  | .nan => if isFp8 fmt then (0x7F, .nan) else (intCode fmt z, .nan)
  | .inf n => (limitCode fmt z n, .limit)
  | .fin n m e =>
    match fmtFloat fmt with
    | some f =>
      let q : Num := .fin n m (e - sEff)
      (f.encode (f.roundClamp q), if f.beyond (f.rneUp q) then .range else .ok)
    | none =>
      let i := rneInt n m (e - sEff) + z
      let r := codeRange fmt
      (intCode fmt (clampInt r.1 r.2 i), if i < r.1 ∨ r.2 < i then .range else .ok)

end Sys2Proof.Machine
end

