-- ==== Sys2Proof/Machine/Visible.lean ====
section
/-! DEFINITION. Which writes of a launch its engines and streams see: the lines that a move or an engine has written and a
reader has not acquired, SIGNALs that release them and WAITs that acquire them (R144, R216, R252 to R257, R263). -/

namespace Sys2Proof.Machine

/-! ### Writes of a launch -/

/-- A write of a part of one line joins those of a launch; what stood in the line before is `old`, none for a line that an issued
move has yet to write. -/
def addFog (l : Launch) (w : Agent) (eng : Option (Nat × Nat)) (lo n : Nat) (old : List Byte) (group : Option Nat) (done rising : Bool) :
    Launch :=
  { l with fog := l.fog ++ [⟨l.fogNext, w, eng, lo, lo + n, old, done, group.getD l.fogNext, rising, [w], []⟩], fogNext := l.fogNext + 1 }

/-- A launch's write to an engine's bank, line by line, as it is about to be made. -/
def noteNear (s : State) (c q : Nat) (w : Agent) (d e a n : Nat) (group : Option Nat) (done rising : Bool) : State :=
  let k := bankKey d (boundBank s d e) a
  modLaunch s c q fun l => (cutLines (n + 1) k (List.replicate n 0)).foldl (fun l x =>
    addFog l w (some (d, e)) x.1 x.2.length (memReadN s.near (lineOf x.1) 64) group done rising) l

/-- Whether an agent has acquired a write or has read its line as new. -/
def knows (g : Fog) (a : Agent) : Bool := g.seen.contains a || g.read.contains a

/-- The writes that have been made of a line of an engine's bank or of memory, first to last. -/
def lineFog (l : Launch) (eng : Option (Nat × Nat)) (line : Nat) : List Fog :=
  l.fog.filter fun g => g.engine == eng && !g.old.isEmpty && lineOf g.lo == line

/-- A line as a reader sees it: as it stood after the last write that the reader knows (R253, R254). -/
def lineView (l : Launch) (eng : Option (Nat × Nat)) (known : Fog → Bool) (line : Nat) (now : List Byte) : List Byte :=
  match ((lineFog l eng line).reverse.takeWhile fun g => !known g).getLast? with
  | some g => g.old
  | none => now

/-- Whether a byte belongs to a move that is not done: to an engine it is undefined (R216, log 162). -/
def undone (l : Launch) (eng : Option (Nat × Nat)) (k : Nat) : Bool :=
  l.fog.any fun g => g.engine == eng && !g.done && decide (g.lo ≤ k) && decide (k < g.hi)

/-- The bytes from an address on as an engine sees them. -/
def engineView (l : Launch) (eng : Option (Nat × Nat)) (k : Nat) (bs : List Byte) : List Byte :=
  bs.zipIdx.map fun x => if undone l eng (k + x.2) then (Config.unstated 4 (k + x.2)).setWidth 8 else x.1

/-- A range as a reader sees its lines; `now` reads a line as it stands. -/
def rangeView (l : Launch) (eng : Option (Nat × Nat)) (known : Fog → Bool) (now : Nat → List Byte) (k n : Nat) : List Byte :=
  (cutLines (n + 1) k (List.replicate n 0)).flatMap fun x =>
    ((lineView l eng known (lineOf x.1) (now (lineOf x.1))).drop (x.1 % 64)).take x.2.length

/-! ### Reading -/

/-- Before an agent reads, writes that it has not acquired become visible to it: in free measure (R253, R255); every line that a
commit or a DRAIN wrote before one that it has read as new (R263); and, once visible, for good (R254). -/
def observe (s : State) (a : Agent) (c q : Nat) (may : Fog → Bool) : State :=
  match findLaunch s c q with
  | none => s
  | some l =>
    let open_ (g : Fog) : Bool := may g && !g.old.isEmpty && !knows g a
    if !(l.fog.any open_) then s
    else
      let new (g : Fog) : Bool := Config.sees s.fresh g.id ||
        (g.rising && l.fog.any fun h => h.rising && h.group == g.group && decide (g.id ≤ h.id) && h.read.contains a)
      modLaunch { s with fresh := s.fresh + 1 } c q fun l =>
        { l with fog := l.fog.map fun g => if open_ g && new g then { g with read := a :: g.read } else g }

/-- Read an engine's bank for an agent of a launch (R216, R253, R254). -/
def nearRead (s : State) (l : Option Launch) (a : Agent) (d e off n : Nat) : List Byte :=
  let k := bankKey d (boundBank s d e) off
  match l with
  | none => memReadN s.near k n
  | some l =>
    if !(l.fog.any fun g => g.engine == some (d, e)) then memReadN s.near k n
    else
      let bs := rangeView l (some (d, e)) (fun g => knows g a) (fun x => memReadN s.near x 64) k n
      match a with
      | .engine _ _ => engineView l (some (d, e)) k bs
      | .stream _ _ _ => bs

/-- Read engine-local bytes (R48): bank below 64 MiB, operand store from 0x400_0000. -/
def elRead (s : State) (d e a n : Nat) : List Byte :=
  if a < Config.bankBytes then nearRead s ((slotOf s d e).map (·.1)) (.engine d e) d e a n
  else memReadN s.ostore (osKey d e (a - Config.bankBytes)) n

/-- Bytes of memory that a stream has read, as its launch lets it see them (R253, R254). -/
def seeMem (s : State) (c q : Nat) (r : Agent) (a : Nat) (bs : List Byte) : List Byte :=
  match findLaunch s c q with
  | none => bs
  | some l =>
    if !(l.fog.any fun g => g.engine.isNone) then bs
    else
      let now (x : Nat) : List Byte := (List.range 64).map fun i => if x + i < a then 0 else bs.getD (x + i - a) 0
      rangeView l none (fun g => knows g r) now a bs.length

/-! ### SIGNAL and WAIT -/

/-- The counter that a token of a launch names: of the launch, or of the fabric. -/
def counterOf (l : Launch) (tok : Nat) : Nat ⊕ (Nat × Nat) := match (l.tokens[tok]?).bind (·.remote) with
  | some x => .inr x
  | none => .inl tok

/-- What a SIGNAL of an agent releases: its own writes and those that it has acquired (R257). -/
def released (l : Launch) (a : Agent) : List Nat := (l.fog.filter fun g => g.done && g.seen.contains a).map (·.id)

/-- A SIGNAL of a scope is applied to a token's counter, which stands at `value` before it. -/
def noteRelease (s : State) (c q : Nat) (a : Agent) (tok scope value : Nat) : State :=
  modLaunch s c q fun l => { l with releases := l.releases ++ [⟨tok, scope, value, released l a⟩] }

/-- Whether an effective scope contains a write of a launch and a reader of it (R144, R255): 0 ENGINE, 1 DIE, and the wider
ones. -/
def contains (scope : Nat) (g : Fog) : Agent → Bool
  | .engine d e => match scope with
    | 0 => g.engine == some (d, e)
    | 1 => g.engine.any fun x => x.1 == d
    | _ => true
  | .stream _ _ _ => decide (2 ≤ scope)

/-- An agent acquires from a SIGNAL on the pair's effective scope (R255). -/
def acquireOne (a : Agent) (scope : Nat) (l : Launch) (r : Release) : Launch :=
  let take (g : Fog) : Bool := r.ids.contains g.id && contains (min r.scope scope) g a && !g.seen.contains a
  { l with fog := l.fog.map fun g => if take g then { g with seen := a :: g.seen } else g }

/-- An agent acquires from SIGNALs, each pair on its own effective scope (R256). -/
def acquireFrom (l : Launch) (a : Agent) (scope : Nat) (rs : List Release) : Launch := rs.foldl (acquireOne a scope) l

/-- The WAIT that an agent executes: token and scope. -/
def waitOf (s : State) : Agent → Option (Launch × Nat × Nat)
  | .engine d e => (slotOf s d e).bind fun x => match x.2.2.ops[x.2.2.pos]? with
    | some (.wait tok scope _ _) => some (x.1, tok, scope)
    | _ => none
  | .stream h f c => (streamOf s h f c).bind fun x => match x.2.2.words[x.2.2.pos]? with
    | some (.ctl (.wait tok scope _ _)) => some (x.1, tok, scope)
    | _ => none

/-- The SIGNALs of a launch on the counter of a token, in the order of their application. -/
def signalsOn (l : Launch) (tok : Nat) : List Release := l.releases.filter fun r => counterOf l r.token == counterOf l tok

/-- The WAIT of an agent for a value has been satisfied: it acquires from the SIGNALs that were applied up to the one that
satisfied it (R256). -/
def acquireWait (s : State) (a : Agent) (value : Nat) : State :=
  match waitOf s a with
  | some (l, tok, scope) => modLaunch s l.ctx l.seq fun l => acquireFrom l a scope ((signalsOn l tok).filter fun r => decide (r.before < value))
  | none => s

/-- A WAIT on another device's counter has been satisfied there: which of the SIGNALs that this device has sent were applied
by then is a free choice, first sent first (R256, log 180). -/
def acquireRemote (s : State) (a : Agent) : State :=
  match waitOf s a with
  | some (l, tok, scope) =>
    let rs := signalsOn l tok
    let n := drawBelow s (rs.length + 1)
    modLaunch n.2 l.ctx l.seq fun l => acquireFrom l a scope (rs.take n.1)
  | none => s

end Sys2Proof.Machine
end

