-- ==== Sys2Proof/Machine/Matrix.lean ====
section
/-! DEFINITION. The tile engine's array: reading operands in engine layout with their scales, the passes, and the
accumulator with its overflow tags and row sums (R39 to R49, R78 to R86, R98 to R101, R118, R210, R211). -/

namespace Sys2Proof.Machine

/-- The engine-local address of an engine address field (R178). -/
def eaddr (cursors : List Int) : EAddr → Nat
  | .lit n => 64 * n
  | .cur c off => (64 * ((off : Int) + cursors.getD c 0)).toNat

/-- Presented width of an engine. -/
def width (s : State) (d e : Nat) : Nat := fget s d e Fl.ENG_WIDTH_PRESENTED_WIDTH

/-- The unit ID of an engine and its slot as R53 and R124 put them in a detail. -/
def engDetail (d e slot : Nat) : BitVec 64 := BitVec.ofNat 64 (unitId d 1 e * 2 ^ 48 + slot % 256 * 2 ^ 40)

/-- Records of an operand: the first `real` codes of each (R210, R211). -/
def readRecords (s : State) (d e addr fmt n real : Nat) : List (List Nat) :=
  let rb := recLen real * fmtBits fmt / 8
  (List.range n).map fun r => unpackRow (fmtBits fmt) real (elRead s d e (addr + r * rb) rb)

/-- Rows and columns exchanged. -/
def transposeCodes {α : Type} (dflt : α) (n : Nat) (rows : List (List α)) : List (List α) :=
  (List.range n).map fun j => rows.map fun r => r.getD j dflt

/-- Block scale bytes of `n` records (R99, R211): kind 1 along records, kind 2 across them. -/
def readScales (s : State) (d e addr blk n real : Nat) (across : Bool) : List Nat :=
  let c := recLen real
  let k := if across then cdiv n (blkSize blk) * c else n * (c / blkSize blk)
  (elRead s d e addr k).map (·.toNat)

/-- The scale byte of element `k` of record `r`. -/
def scaleAt (scales : List Nat) (blk real r k : Nat) (across : Bool) : Nat :=
  let c := recLen real
  scales.getD (if across then r / blkSize blk * c + k else r * (c / blkSize blk) + k / blkSize blk) 127

/-- A 32-bit word of engine-local storage. -/
def elWord (s : State) (d e a : Nat) : Nat := leNat (elRead s d e a 4)

/-- The scale words of `n` groups with their sums; none where one is invalid (R96 to R99). -/
def readWords (s : State) (d e addr fmt gran n : Nat) : Option (List (BitVec 32 × Int)) :=
  let w0 := BitVec.ofNat 32 (elWord s d e addr)
  let sumAt (a : Nat) : Int := sext 32 (elWord s d e a)
  if gran = 0 then
    if swValid fmt w0 then some (List.replicate n (w0, if isIntFmt fmt ∧ swHasSum w0 then sumAt (addr + 4) else 0)) else none
  else
    let sums := gran == 2 && swHasSum w0
    let stride := if sums then 8 else 4
    let ws := (List.range n).map fun g =>
      let a := addr + stride * g
      (BitVec.ofNat 32 (elWord s d e a), if sums then sumAt (a + 4) else 0)
    if ws.all fun w => swValid fmt w.1 && (gran != 2 || swHasSum w.1 == swHasSum w0) then some ws else none

/-- Whether an operand takes scale words: integer formats and FP8 without block scales (R96, R98). -/
def takesWords (fmt : Nat) : Bool := isIntFmt fmt || isFp8 fmt

/-- An operand as a WLOAD or a stream op reads it: none where it meets an invalid scale word. -/
def readOperand (s : State) (d e : Nat) (src scale fmt blk gran n real groups : Nat) (across : Bool) : Option Tile :=
  let codes := readRecords s d e src fmt n real
  let scales := if isBlock fmt then readScales s d e scale blk n real across else []
  let t : Tile := ⟨fmt, blk, gran, n, real, codes, scales, []⟩
  if takesWords fmt then (readWords s d e scale fmt gran groups).map fun w => { t with words := w } else some t

/-- The elements of a tile, record by record. -/
def tileEls (t : Tile) (across : Bool) : List (List El) :=
  t.codes.zipIdx.map fun r => r.1.zipIdx.map fun c =>
    elOf t.fmt c.1 (if isBlock t.fmt then scaleAt t.scales t.blk t.cols r.2 c.2 across else 127)

/-- The integer codes of a tile, record by record. -/
def tileInts (t : Tile) : List (List Int) := t.codes.map fun r => r.map (intElem t.fmt)

/-! ### The accumulator -/

/-- Index of the accumulator entry at an engine-local address (R49). -/
def entryOf (a : Nat) : Nat := (a - Config.bankBytes) / 4

/-- Raise the accumulator overflow condition: it is kept in the open region and counted (R84, R86, R110). Outside a
region LAST_OBSERVED stays (log 170). -/
def raiseAcc (s : State) (d e : Nat) (t : OvfTag) : State :=
  match t with
  | .f32 _ x =>
    let s := fsat s d e Fl.ENG_PHO_ACC_OVF_BINARY32 1
    match (getEng s d e).region with
    | none => s
    | some g =>
      let s := fput s d e Fl.ENG_PHO_STATUS_OVF_PENDING 1
      modEng s d e fun y => { y with region := some { g with accExp := some (max x (g.accExp.getD x)) } }
  | .i32 x =>
    let s := fsat s d e Fl.ENG_PHO_ACC_OVF_INT32 1
    match (getEng s d e).region with
    | none => s
    | some g =>
      let s := fput s d e Fl.ENG_PHO_STATUS_OVF_PENDING 1
      modEng s d e fun y => { y with region := some { g with intMax := some (max x.natAbs (g.intMax.getD 0)) } }
  | .product => s

/-- Write an entry and its tag. -/
def putEntry (s : State) (d e a : Nat) (v : Nat) (tag : Option OvfTag) : State :=
  let s := elWrite s d e a (leBytes 4 v)
  modEng s d e fun y => { y with ovf := match tag with
    | some t => smPut y.ovf (entryOf a) t
    | none => smDel y.ovf (entryOf a) }

/-- Store or add a floating-point pass result (R84, R85). -/
def accFloat (s : State) (d e a : Nat) (add : Bool) (r : Num × Option OvfTag) : State :=
  let raised (s : State) (t : Option OvfTag) : State := match t with
    | some x => raiseAcc s d e x
    | none => s
  let s := raised s r.2
  if !add then putEntry s d e a (f32.encode r.1) r.2
  else
    let old := f32.decode (elWord s d e a)
    let q := round32 (old.add r.1)
    let s := raised s q.2
    let tag : Option OvfTag := match q.1 with
      | .inf _ => (q.2.or (r.2.filter (· != .product))).or ((smGet (getEng s d e).ovf (entryOf a)).or r.2)
      | _ => none
    putEntry s d e a (f32.encode q.1) tag

/-- A tag that records an INT32 wrap, the tag of R120. -/
def OvfTag.int : OvfTag → Bool
  | .i32 _ => true
  | .f32 _ _ => false
  | .product => false

/-- Store or add an integer pass sum (R86): each addition is one of 32 bits, and one whose exact result lies outside INT32
raises the condition and sets the entry's tag, which a later addition that does not wrap leaves set (R120, log 30). -/
def accInt (s : State) (d e a : Nat) (add : Bool) (v : Int) : State :=
  if !add then putEntry s d e a (low32 v) none
  else
    let x := sext 32 (elWord s d e a) + v
    if wraps32 x then putEntry (raiseAcc s d e (.i32 x)) d e a (low32 x) (some (.i32 x))
    else putEntry s d e a (low32 x) ((smGet (getEng s d e).ovf (entryOf a)).filter (·.int))

/-- Set or add to the row sums of an op's activation rows (R101). -/
def putRowSums (s : State) (d e acc : Nat) (add : Bool) (sums : List Int) : State :=
  let base := entryOf acc / 128
  modEng s d e fun y => { y with rowSums := sums.zipIdx.foldl (fun m p =>
    let k := (base + p.2) % 4096
    let v := if add then smGetD m 0 k + p.1 else p.1
    smPut m k (sext 32 (low32 v))) y.rowSums }

/-- Record the op as the last writer of its range (R185). -/
def putWriter (s : State) (d e : Nat) (w : Writer) : State :=
  modEng s d e fun y => { y with writers := w :: y.writers.filter fun v =>
    !(v.base == w.base && v.stride == w.stride && v.rows == w.rows && v.cols == w.cols) }

/-- Pair the elements of two vectors. -/
def pairs {α : Type} (a b : List α) : List (α × α) := List.zip a b

/-- r_acc of the region attempt in progress, 0 outside a region (R117). -/
def rAccOf (s : State) (d e : Nat) : Nat := match (getEng s d e).region with
  | some g => g.rAcc
  | none => 0

/-- Run a pass: every output (m, n) goes to entry m · stride + n from `acc` (R49). -/
def runFloat (s : State) (d e acc stride : Nat) (add : Bool) (av wv : List (List El)) : State :=
  av.zipIdx.foldl (fun s a => wv.zipIdx.foldl (fun s w =>
    accFloat s d e (acc + 4 * (a.2 * stride + w.2)) add (passFloat (rAccOf s d e) (pairs a.1 w.1))) s) s

/-- The same for integer codes. -/
def runInt (s : State) (d e acc stride : Nat) (add : Bool) (av wv : List (List Int)) : State :=
  av.zipIdx.foldl (fun s a => wv.zipIdx.foldl (fun s w =>
    accInt s d e (acc + 4 * (a.2 * stride + w.2)) add (passInt (rAccOf s d e) (pairs a.1 w.1))) s) s

/-- A pass with zero operands over a range (R47). -/
def runZero (s : State) (d e acc stride rows cols : Nat) (add integer : Bool) : State :=
  let cells := (List.range rows).flatMap fun m => (List.range cols).map fun n => acc + 4 * (m * stride + n)
  let s := cells.foldl (fun s a =>
    if integer then accInt s d e a add 0 else accFloat s d e a add (.fin false 0 0, none)) s
  let s := putRowSums s d e acc add (List.replicate rows 0)
  if add then s
  else putWriter s d e ⟨entryOf acc, stride, rows, cols, integer, 0, [], 0, [], false, false⟩

/-- Row sums of floating-point rows are not stated: free values that depend on the row only (R94, log 31). -/
def freeSums (n : Nat) : List Int := (List.range n).map fun i => sext 32 ((Config.unstated 1 i).toNat % 2 ^ 32)

/-- A pass of activations `a` over weights `w`, both as read, with their vectors over the reduction index. -/
def runPass (s : State) (d e acc stride : Nat) (add : Bool) (a w : Tile) (aEls wEls : List (List El))
    (aInts wInts : List (List Int)) : State :=
  let s := if isIntFmt a.fmt then runInt s d e acc stride add aInts wInts else runFloat s d e acc stride add aEls wEls
  let s := putRowSums s d e acc add (if isIntFmt a.fmt then aInts.map (·.sum) else freeSums aEls.length)
  let cols := if isIntFmt a.fmt then wInts.length else wEls.length
  let rows := if isIntFmt a.fmt then aInts.length else aEls.length
  putWriter s d e ⟨entryOf acc, stride, rows, cols, isIntFmt a.fmt, a.gran, a.words, w.gran, w.words,
    isBlock a.fmt, isBlock w.fmt⟩

/-- MATMUL with the weights of the last WLOAD (R39 to R41). -/
def runSquare (s : State) (d e acc : Nat) (add : Bool) (w a : Tile) : State :=
  runPass s d e acc (width s d e) add a w (tileEls a false) (transposeCodes ⟨.fin false 0 0, 0⟩ w.cols (tileEls w true))
    (tileInts a) (transposeCodes 0 w.cols (tileInts w))

/-- The reduction length of a ribbon pass over block formats on an engine with bypassed columns (R78). -/
def ribbonReach (s : State) (d e : Nat) (a w : Tile) : Nat :=
  let b := max (if isBlock a.fmt then blkSize a.blk else 1) (if isBlock w.fmt then blkSize w.blk else 1)
  8 * width s d e / b * b

/-- Activations beyond the reach hold zero (R78). -/
def zeroBeyond {α : Type} (z : α) (n : Nat) (r : List α) : List α := r.take n ++ (r.drop n).map fun _ => z

/-- RIBBON with the activations of the last WLOAD (R43 to R45). -/
def runRibbon (s : State) (d e acc n : Nat) (add : Bool) (a w : Tile) : State :=
  let k := ribbonReach s d e a w
  runPass s d e acc n add a w ((tileEls a false).map (zeroBeyond ⟨.fin false 0 0, 0⟩ k)) (tileEls w false)
    ((tileInts a).map (zeroBeyond 0 k)) (tileInts w)

/-- Activation rows that the array holds in a rate class (R47). -/
def ribbonRows (fmt : Nat) : Nat := if rateClass fmt = 4 then 32 else 16

end Sys2Proof.Machine
end

