-- ==== Sys2Proof/Machine/Drain.lean ====
section
/-! DEFINITION. The Photometer: reading accumulator entries, dequantisation, the three modes, the commit buffer, the
decision at a closing drain, rewinds and saturation (R89 to R125, R183 to R186). -/

namespace Sys2Proof.Machine

/-- Write engine-local bytes; accumulator entries that they overwrite lose their overflow tag (R120, log 32). -/
def elPut (s : State) (d e a : Nat) (bs : List Byte) : State :=
  let s := elWrite s d e a bs
  if bs.isEmpty ∨ a < Config.bankBytes then s
  else modEng s d e fun y => { y with
    ovf := y.ovf.filter fun p => decide (p.1 < entryOf a) || decide (entryOf (a + bs.length - 1) < p.1) }

/-- A write of an engine to its bank is one of its launch's; the lines of one commit or DRAIN form a group (R252, R263). -/
def elNote (s : State) (d e a n : Nat) (group : Option Nat) : State :=
  match slotOf s d e with
  | some (l, _, _) => if a < Config.bankBytes then noteNear s l.ctx l.seq (.engine d e) d e a n group true group.isSome else s
  | none => s

/-- Write engine-local bytes as an op of the engine. -/
def elStore (s : State) (d e a : Nat) (bs : List Byte) (group : Option Nat := none) : State :=
  elPut (elNote s d e a bs.length group) d e a bs

/-- A name for the group of the next writes of the launch on an engine. -/
def nextGroup (s : State) (d e : Nat) : Nat := (slotOf s d e).elim 0 fun x => x.1.fogNext

/-- Row and column of an entry in the range that an op wrote; none outside it. -/
def Writer.at_ (w : Writer) (ent : Nat) : Option (Nat × Nat) :=
  let k := ent - w.base
  let st := max w.stride 1
  if w.base ≤ ent ∧ k / st < w.rows ∧ k % st < w.cols then some (k / st, k % st) else none

/-- The last matrix op that wrote an entry of a range (R185). -/
def writerOf (s : State) (d e e1 stride rows cols : Nat) : Option Writer :=
  (getEng s d e).writers.find? fun w => (List.range rows).any fun r => (List.range cols).any fun c =>
    (w.at_ (e1 + r * stride + c)).isSome

/-- The scale word of row or column `i` of an op's operand: a tensor of one word gives it to all (R99); where the op did not
cover the row, the spec names no word (log 139). -/
def wordAt (gran : Nat) (ws : List (BitVec 32 × Int)) (i : Option Nat) : Option (BitVec 32 × Int) :=
  (i.bind fun i => ws[i]?).or (if gran = 0 then ws.head? else none)

/-- An entry as a drain reads it: its value, its tag, and the magnitude that stands for it in the amax (R111). -/
structure Entry where
  v : Num
  raw : Nat
  tag : Option OvfTag
  big : Option (Nat × Int)
  deriving DecidableEq, Repr

/-- An INT32 entry, or the limit that stands for one whose tag is set (R120). -/
def intEntry (raw : Nat) : Option OvfTag → Int
  | some (.i32 x) => if x < 0 then -2 ^ 31 else 2 ^ 31 - 1
  | _ => sext 32 raw

/-- The magnitude with which a value enters an amax, times 2^r_acc: an infinity that rounding made is above every BF16, and a
NaN enters with none (R111). -/
def amaxMag (v : Num) (rAcc : Int) : Nat × Int :=
  match v with
  | .fin _ m e => (m, e + rAcc)
  | .inf _ => (1, 128)
  | .nan => (0, 0)

/-- Read the entry at row `r`, column `c` of a drained range (R102, R103, R120, R185). `e1` is the index of the range's
first entry, `w` the last op that wrote an entry of the range. What the spec does not state is a free value of the entry
(R94, logs 47, 139). -/
def readEntry (s : State) (d e : Nat) (dequant : Bool) (w : Option Writer) (k e1 r stride c : Nat) : Entry :=
  let ent := e1 + r * stride + c
  let raw := elWord s d e (Config.bankBytes + 4 * ent)
  let tag := smGet (getEng s d e).ovf ent
  let plainBig : Option (Nat × Int) := match tag with
    | some (.f32 _ x) => some (1, x + 1)
    | some (.i32 x) => some (x.natAbs, 0)
    | some .product => some (0, 0)
    | none => none
  match dequant, w with
  | true, some w =>
    let p := w.at_ ent
    match w.integer, wordAt w.actGran w.act (p.map (·.1)), wordAt w.wGran w.wgt (p.map (·.2)) with
    | true, some a, some b =>
      let sumA := smGetD (getEng s d e).rowSums 0 ((e1 / 128 + r) % 4096)
      let za := swZero (if a.1.getLsbD 6 then (if a.1.getLsbD 5 then 10 else 8) else (if a.1.getLsbD 5 then 11 else 9)) a.1
      let zw := swZero (if b.1.getLsbD 6 then (if b.1.getLsbD 5 then 10 else 8) else (if b.1.getLsbD 5 then 11 else 9)) b.1
      let deq (acc : Int) := dequantInt acc b.2 sumA k za zw (swScale a.1) (swScale b.1) (rAccOf s d e)
      let big : Option (Nat × Int) := match tag with
        | some (.i32 x) => some (amaxMag (deq x) 0)
        | _ => none
      ⟨deq (intEntry raw tag), raw, tag, big⟩
    | false, a, b =>
      let one : Num := .fin false 1 0
      let sa := match a with
        | some x => if w.actBlock then one else swScale x.1
        | none => one
      let sb := match b with
        | some x => if w.wBlock then one else swScale x.1
        | none => one
      let big : Option (Nat × Int) := match tag with
        | some (.f32 _ x) => some ((sa.mul sb).shift (x + 1)).mag
        | some .product => some (0, 0)
        | _ => none
      ⟨dequantFloat (f32.decode raw) sa sb, raw, tag, big⟩
    | true, _, _ => ⟨f32.decode ((Config.unstated 3 (r * stride + c)).toNat % 2 ^ 32), raw, tag, plainBig⟩
  | true, none => ⟨f32.decode ((Config.unstated 0 (r * stride + c)).toNat % 2 ^ 32), raw, tag, plainBig⟩
  | false, _ => ⟨f32.decode raw, raw, tag, plainBig⟩

/-- The rows of a drained range. -/
def readRange (s : State) (d e : Nat) (dequant : Bool) (k acc stride rows cols : Nat) : List (List Entry) :=
  let w := writerOf s d e (entryOf acc) stride rows cols
  (List.range rows).map fun r => (List.range cols).map fun c => readEntry s d e dequant w k (entryOf acc) r stride c

/-! ### The launch's scale slots and saturations -/

/-- Change a scale slot of a launch. -/
def modScale (s : State) (c seq i : Nat) (f : ScaleSlot → ScaleSlot) : State :=
  modLaunch s c seq fun l => { l with scales := l.scales.zipIdx.map fun p => if p.2 = i then f p.1 else p.1 }

/-- Count saturations against a scale slot (R122). -/
def addSats (s : State) (d e c seq : Nat) (n : List (Nat × Nat)) : State :=
  n.foldl (fun s p =>
    let s := fsat s d e Fl.ENG_PHO_SATURATIONS_COUNT p.2
    let s := modLaunch s c seq fun l => { l with sats := l.sats + p.2 }
    modScale s c seq p.1 fun x => { x with sats := x.sats + p.2 }) s

/-- The larger of an exponent that may be absent and another. -/
def maxOpt (a : Option Int) (b : Int) : Option Int := some (max b (a.getD b))

/-- Record the exponents of scales that have been written (R105). -/
def addWrote (s : State) (c seq : Nat) (w : List (Nat × Int)) : State :=
  w.foldl (fun s p => modScale s c seq p.1 fun x => { x with written := maxOpt x.written p.2 }) s

/-- Bytes in a commit buffer (R112). -/
def bufBytes (b : List (Nat × List Byte)) : Nat := (b.map fun p => p.2.length).sum

/-- Send a drain's bytes to their destination, or to the commit buffer inside a region (R112, R184). -/
def emit (s : State) (d e a : Nat) (bs : List Byte) (group : Nat) : State :=
  match (getEng s d e).region with
  | none => elStore s d e a bs (some group)
  | some g =>
    let buf := g.buffer ++ [(a, bs)]
    let s := modEng s d e fun y => { y with region := some { g with buffer := buf } }
    let s := fput s d e Fl.ENG_PHO_COMMIT_USED (bufBytes buf)
    fhigh s d e Fl.ENG_PHO_COMMIT_HIGH_WATER (bufBytes buf)

/-- Saturations and written scales go to the region, or at once to the launch outside one (R116, R122). -/
def drainCounts (s : State) (d e c seq : Nat) (sats : List (Nat × Nat)) (wrote : List (Nat × Int)) : State :=
  match (getEng s d e).region with
  | none => addWrote (addSats s d e c seq sats) c seq wrote
  | some g => modEng s d e fun y => { y with region := some { g with sats := g.sats ++ sats, wrote := g.wrote ++ wrote } }

/-! ### Modes -/

/-- Blocks of a list. -/
def chunks {α : Type} (n : Nat) : Nat → List α → List (List α)
  | 0, _ => []
  | k + 1, l => if l.isEmpty then [] else l.take n :: chunks n k (l.drop n)

/-- PLAIN codes (R184). -/
def drainPlain (ofmt : Nat) (es : List (List Entry)) : List (List Nat) :=
  es.map fun r => r.map fun x => if ofmt = 15 then low32 (intEntry x.raw x.tag) else plainCode ofmt x.v

/-- An entry whose INT32 overflow tag is set (R120); a binary32 infinity is none. -/
def Entry.tagged (x : Entry) : Bool := x.tag.any (·.int)

/-- BLOCK mode along rows: codes, scale bytes, saturated blocks (R89, R91, R120, R122). -/
def blockRows (ofmt b rAcc : Nat) (es : List (List Entry)) : List (List Nat) × List Nat × Nat :=
  let rs := es.map fun r => (chunks b r.length r).map fun blk =>
    (blockEncode ofmt rAcc (blk.map (·.v)), blk.any Entry.tagged)
  (rs.map fun r => r.flatMap (·.1.2.1), rs.flatMap fun r => r.map (·.1.1),
    ((rs.flatMap id).filter fun x => x.1.2.2 || x.2).length)

/-- BLOCK mode in either axis (R89, R99). -/
def drainBlock (ofmt b rAcc cols : Nat) (axisCol : Bool) (es : List (List Entry)) : List (List Nat) × List Nat × Nat :=
  if axisCol then
    let t := blockRows ofmt b rAcc (transposeCodes ⟨.fin false 0 0, 0, none, none⟩ cols es)
    let nb := es.length / b
    (transposeCodes 0 es.length t.1, (List.range nb).flatMap fun i => (List.range cols).map fun c =>
      t.2.1.getD (c * nb + i) 127, t.2.2)
  else blockRows ofmt b rAcc es

/-- What a delayed drain finds: codes, whether an element left the code range, saturation, largest ratio, amax. -/
structure Delayed where
  codes : List (List Nat)
  range : Bool
  saturated : Bool
  rho : Option Ratio
  amax : Nat × Int
  deriving DecidableEq, Repr

/-- A ratio |v| / (2^sEff · L) of a finite value (R117). -/
def rhoOf (v : Num) (sEff : Int) (l : Nat) : Option Ratio :=
  match v with
  | .fin _ m e => some ⟨m, e - sEff, max l 1⟩
  | _ => none

/-- The larger of two ratios that may be absent. -/
def ratioMax (a b : Option Ratio) : Option Ratio :=
  match b with
  | some x => some (maxRatio a x)
  | none => a

/-- The code of an entry in DELAYED mode and what became of it. A wrapped INT32 entry takes the limit code of its sign; its
value, the limit that stands for it, leaves the code range or not as any other (R109, R110, R120). -/
def delayedEntry (ofmt : Nat) (z sEff : Int) (x : Entry) : Nat × CodeFate :=
  let q := delayedCode ofmt z sEff x.v
  match x.tag with
  | some (.i32 y) => (endCode ofmt (decide (y < 0)), if q.2 = .range then .range else .limit)
  | _ => q

/-- DELAYED mode (R109 to R111, R120). An overflowed entry shows the magnitude of the attempt's exact result, not multiplied
by 2^r_acc (log 142). -/
def drainDelayed (ofmt : Nat) (z sEff : Int) (rAcc : Nat) (es : List (List Entry)) : Delayed :=
  let cs := es.map fun r => r.map (delayedEntry ofmt z sEff)
  let flat := cs.flatMap id
  let amax := (es.flatMap id).foldl (fun m x => magMax m (match x.big, x.v with
    | some b, _ => b
    | none, v => amaxMag v rAcc)) (0, 0)
  { codes := cs.map fun r => r.map (·.1)
    range := flat.any fun c => c.2 == .range
    saturated := flat.any fun c => c.2 == .range || c.2 == .limit || (c.2 == .nan && isIntFmt ofmt)
    rho := (es.flatMap id).foldl (fun r x => ratioMax r (rhoOf x.v sEff (codeLimit ofmt z))) none
    amax := amax }

/-- Note the code-range cause and the ratios of a delayed drain in the open region; outside a region the condition
saturates at once and its ratio is observed (R110, R116, R117). -/
def noteDelayed (s : State) (d e : Nat) (x : Delayed) : State :=
  match (getEng s d e).region with
  | some g =>
    let s := if x.range then fput s d e Fl.ENG_PHO_STATUS_OVF_PENDING 1 else s
    modEng s d e fun y => { y with
      region := some { g with codeCause := g.codeCause || x.range, code := ratioMax g.code x.rho } }
  | none =>
    match x.range, x.rho with
    | true, some r => fput s d e Fl.ENG_PHO_LAST_OBSERVED_RHO r.f32Up
    | _, _ => s

/-- What a DRAIN makes of its entries: rows of codes, bytes of scale words, saturations by scale slot, and what a DELAYED drain
notes and writes to its slot. -/
structure Drained where
  codes : List (List Nat)
  scales : List Byte
  sats : List (Nat × Nat)
  delayed : Option (Delayed × Int)
  deriving DecidableEq, Repr

/-- The three modes (R108 to R111); none where a DELAYED drain's slot does not exist. -/
def drained (s : State) (d e : Nat) (l : Launch) (dequant pitchW axisCol : Bool) (mode acc ofmt blk slot rows cols k : Nat) :
    Option Drained :=
  let es := readRange s d e dequant k acc (if pitchW then width s d e else cols) rows cols
  let rAcc := rAccOf s d e
  if mode = 0 then some ⟨drainPlain ofmt es, [], [], none⟩
  else if mode = 1 then
    let q := drainBlock ofmt (blkSize blk) rAcc cols axisCol es
    some ⟨q.1, q.2.1.map (BitVec.ofNat 8), if q.2.2 = 0 then [] else [(slot, q.2.2)], none⟩
  else l.scales[slot]?.map fun sc =>
    let rOut : Int := match (getEng s d e).region with
      | some g => g.rOut
      | none => 0
    let sWord := min (sc.scaleExp + rOut) 127
    let q := drainDelayed ofmt sc.zero (sWord - rAcc) rAcc es
    let word := leBytes 4 (swMake ofmt sWord (if isIntFmt ofmt then sc.zero else 0)).toNat
    ⟨q.codes, (List.range (if axisCol then cols else rows)).flatMap fun _ => word, if q.saturated then [(slot, 1)] else [],
      some (q, sWord)⟩

/-- The bytes of a drain's packed rows. -/
def drainRows (ofmt : Nat) (q : Drained) : List Byte := q.codes.flatMap fun r => packRow (fmtBits ofmt) r

/-- The bytes from DST on that a drain writes or passes over: its rows, and its scales at the next line (R184). -/
def drainLen (ofmt : Nat) (q : Drained) : Nat :=
  if q.scales.isEmpty then (drainRows ofmt q).length else roundUp (drainRows ofmt q).length 64 + q.scales.length

/-- Bytes of a drain: its packed rows, then its scales at the next line (R184). -/
def drainBytes (s : State) (d e dst ofmt : Nat) (q : Drained) : State :=
  let bs := drainRows ofmt q
  let g := nextGroup s d e
  let s := emit s d e dst bs g
  if q.scales.isEmpty then s else emit s d e (dst + roundUp bs.length 64) q.scales g

/-- One DRAIN before the decision at a close. -/
def runDrain (s : State) (d e : Nat) (l : Launch) (dequant pitchW axisCol : Bool)
    (mode dst acc ofmt blk slot rows cols k : Nat) : State :=
  match drained s d e l dequant pitchW axisCol mode acc ofmt blk slot rows cols k with
  | none => s
  | some q =>
    let s := drainBytes s d e dst ofmt q
    match q.delayed with
    | none => if q.sats.isEmpty then s else drainCounts s d e l.ctx l.seq q.sats []
    | some (x, w) =>
      let s := noteDelayed s d e x
      let s := modScale s l.ctx l.seq slot fun y => { y with amax := some (magMax (y.amax.getD (0, 0)) x.amax) }
      drainCounts s d e l.ctx l.seq q.sats [(slot, w)]

/-- An armed injection raises the code-range cause with ratio 2 at the first closing drain (R125). -/
def runInject (s : State) (d e : Nat) : State :=
  if fget s d e Fl.ENG_PHO_TEST_INJECT = 0 then s
  else
    let s := fput s d e Fl.ENG_PHO_TEST_INJECT 0
    noteDelayed s d e ⟨[], true, false, some ⟨2, 0, 1⟩, (0, 0)⟩

/-- Whether the overflow condition is pending in a region (R115, R116). -/
def Region.pending (g : Region) : Bool := g.codeCause || g.accExp.isSome || g.intMax.isSome

/-- The ratio of a binary32 overflow of exponent `x`, and of an INT32 wrap (R117). -/
def accRatio (x : Int) : Ratio := ⟨1, x + 1 - 104, 2 ^ 24 - 1⟩
def intRatio (n : Nat) : Ratio := ⟨n, 0, 2 ^ 31 - 1⟩

/-- The largest ratio of the causes present. -/
def Region.rho (g : Region) : Option Ratio :=
  ratioMax (ratioMax (if g.codeCause then g.code else none) (g.accExp.map accRatio)) (g.intMax.map intRatio)

/-- The exponent increase that each cause demands (R117). -/
def Region.kCode (g : Region) : Nat :=
  if g.codeCause then
    match g.code with
    | some r => (max 1 (ceilLog2 (max r.m 1) r.e r.d)).toNat
    | none => 1
  else 0
def Region.kAcc (g : Region) : Nat := match g.accExp with
  | some x => (max 1 (x - 126)).toNat
  | none => 0
def Region.kInt (g : Region) : Nat := match g.intMax with
  | some n => (max 1 (ceilLog2 (max n 1) 0 (2 ^ 31 - 1))).toNat
  | none => 0

/-- Bytes of a commit buffer by address, the last write of an address standing. -/
def commitCells (b : List (Nat × List Byte)) : SMap Byte :=
  b.foldl (fun m p => p.2.zipIdx.foldl (fun m q => smPut m (p.1 + q.2) q.1) m) []

/-- Write the cells of a commit that lie in one line, as one write (R253). -/
def writeLine (s : State) (d e group line : Nat) (cells : SMap Byte) : State :=
  cells.foldl (fun s c => elPut s d e c.1 [c.2]) (elNote s d e line 64 (some group))

/-- Write a commit's cells from one address below another, line by line in ascending order (R115, R263). -/
def writeCells (s : State) (d e group lo hi : Nat) (cells : SMap Byte) : State :=
  let cs := cells.filter fun c => decide (lo ≤ c.1) && decide (c.1 < hi)
  (cs.map fun c => lineOf c.1).dedup.foldl (fun s x => writeLine s d e group x (cs.filter fun c => lineOf c.1 == x)) s

/-- Discard the open region with its buffer and deferred signals (R112). -/
def dropRegion (s : State) (d e : Nat) : State :=
  let s := modEng s d e fun y => { y with region := none }
  let s := fput s d e Fl.ENG_PHO_COMMIT_USED 0
  let s := fput s d e Fl.ENG_PHO_STATUS_OVF_PENDING 0
  let s := fput s d e Fl.ENG_PHO_STATUS_COMMITTING 0
  let s := fput s d e Fl.ENG_PHO_STATUS_R_OUT 0
  let s := fput s d e Fl.ENG_PHO_STATUS_R_ACC 0
  let s := fput s d e Fl.ENG_PHO_STATUS_SCALE_SLOT 0
  let s := fput s d e Fl.ENG_PHO_STATUS_ATTEMPT 0
  fput s d e Fl.ENG_PHO_STATUS_IN_REGION 0

end Sys2Proof.Machine
end

