-- ==== Sys2Proof/Machine/Heliostat.lean ====
section
/-! DEFINITION. The Heliostat's shared operations: rates and predictions, the choice of a partition's voltage, what each
pair is set to, the learning table (R65, R147, R419 to R424). -/

namespace Sys2Proof.Machine

/-- The typical handshake rate in 10^6 per second at a voltage in mV, interpolated linearly (R65). -/
def typicalRate (mv : Nat) : Nat :=
  if mv ≤ 600 then 1200
  else if mv ≤ 700 then 1200 + (mv - 600) * 5
  else if mv ≤ 750 then 1700 + (mv - 700) * 4
  else if mv ≤ 800 then 1900 + (mv - 750) * 3
  else if mv ≤ 850 then 2050 + (mv - 800) * 13 / 5
  else if mv ≤ 900 then 2180 + (mv - 850) * 12 / 5
  else 2300

/-- The learned E75 of a phase in picojoules (R419). -/
def learnedE75 (s : State) (eph : BitVec 64) (phase : Nat) : Option Nat :=
  (s.power.learn.find? fun x => x.ephId == eph && x.phase == phase).map (·.e75)

/-- E75 of a phase of a launch: learned, or from its activities (R420). -/
def phaseE75 (s : State) (l : Launch) (phase : Nat) : Nat :=
  match learnedE75 s l.ephId phase, l.phases[phase]? with
  | some e, _ => e
  | none, some p => (4600 * p.array + 500 * p.vector + 300 * 255) / 255
  | none, none => 1000

/-- E75 that an engine is predicted with: its announced phase, else its phase in progress, 1.0 nJ when it is placed and
has begun none, 0 when it is not placed (R420, R421). -/
def engineE75 (s : State) (d e : Nat) : Nat :=
  match slotOf s d e with
  | none => 0
  | some (l, _, _) =>
    match (getEng s d e).announced, (getEng s d e).phase with
    | some p, _ => phaseE75 s l p
    | none, some p => phaseE75 s l p
    | none, none => 1000

/-- Voltage limits of a pair other than the share, with their reasons in the order of LIMIT_REASON (R424). -/
def pairLimits (s : State) (d : Nat) : List (Nat × Nat) :=
  [(if s.power.clampMv = 0 then 900 else s.power.clampMv, 1), (if s.power.busMv = 0 then 900 else s.power.busMv, 2),
    (smGetD s.power.nearMv 900 d, 3), (smGetD s.power.thermalMv 900 d, 4)]

/-- The lowest limit and its reason, the first in order when rules tie; reason 0 where none limits. -/
def lowest (l : List (Nat × Nat)) : Nat × Nat :=
  l.foldl (fun a b => if b.1 < a.1 then b else a) (900, 0)

/-- Predicted power of a pair at the lower of a voltage and its limit, in units of 10^-6 W · 750² (R420). -/
def pairPower (s : State) (d p v : Nat) : Nat :=
  let v := min v (lowest (pairLimits s d)).1
  (engineE75 s d (2 * p) + engineE75 s d (2 * p + 1)) * typicalRate v * v * v

/-- Predicted power of a partition at a voltage. -/
def partPower (s : State) (k v : Nat) : Nat :=
  ((partDies s k).map fun d => ((List.range 17).map fun p => pairPower s d p v).sum).sum

/-- The highest voltage in 5 mV steps at which a partition's predictions sum to no more than its share; 600 mV where none
does (R420). -/
def chooseVoltage (s : State) (k watts : Nat) : Nat :=
  ((List.range 61).map fun i => 900 - 5 * i).find? (fun v => decide (partPower s k v ≤ watts * 1000000 * 562500)) |>.getD 600

/-- Gate of a matrix die's engines in eighths: the largest that any rule requests (R410, R423, R424, R430). -/
def dieGate (s : State) (d : Nat) : Nat :=
  let thermal := max (smGetD s.power.thermalGate 0 d) (smGetD s.power.thermalGate 0 (8 + d))
  max (max (max thermal s.power.rampGate) (smGetD s.power.budgetGate 0 ((diePart s d).getD 4))) (if s.power.clampMv = 0 then 0 else 4)

/-- Set one pair's registers from the limits that apply to it (R424). A domain that is off keeps 0 V. -/
def setPair (s : State) (d p : Nat) : State :=
  if fget s d p Fl.PWD_PAIR_STATE = 0 then s
  else
    let share := smGetD s.power.shareMv 900 ((diePart s d).getD 4)
    let l := lowest (pairLimits s d ++ [(share, 5)])
    let s := fput s d p Fl.PWD_PAIR_TARGET_MV l.1
    let s := fput s d p Fl.PWD_PAIR_VOLT_MV l.1
    let s := fput s d p Fl.PWD_PAIR_LIMIT_REASON l.2
    fput s d p Fl.PWD_PAIR_GATE (dieGate s d)

/-- Set every pair of a matrix die. -/
def setDiePairs (s : State) (d : Nat) : State := (List.range 17).foldl (fun s p => setPair s d p) s

/-- Set every pair of every matrix die. -/
def setAllPairs (s : State) : State := (List.range 8).foldl setDiePairs s

/-- Choose a partition's voltage again against its current share (R421). -/
def rechoose (s : State) (k : Nat) : State :=
  match smGet s.power.shareW k with
  | none => s
  | some w =>
    let s := { s with power := { s.power with shareMv := smPut s.power.shareMv k (chooseVoltage s k w) } }
    (partDies s k).foldl setDiePairs s

/-- The current in mA that the engines ask for at the voltages that they have, in the phases that they are in (R410). -/
def demandMa (s : State) : Nat :=
  let e75 (d e : Nat) : Nat := match slotOf s d e with
    | none => 0
    | some (l, _, _) => (getEng s d e).phase.elim 1000 (phaseE75 s l)
  let pair (d p : Nat) : Nat :=
    let v := fget s d p Fl.PWD_PAIR_VOLT_MV
    (e75 d (2 * p) + e75 d (2 * p + 1)) * typicalRate v * v * v
  if s.launches.isEmpty then 0
  else ((List.range 8).map fun d => ((List.range 17).map (pair d)).sum).sum / (562500 * 12000)

/-- PWR_RAMP.A_PER_US: outside 5 to 40 the nearer limit. -/
def rampRate (s : State) : Nat := min 40 (max 5 (fget s 24 0 Fl.PWR_RAMP_A_PER_US))

/-- 10 ns of the ramp limiter: a demand that rises faster is held back by the least gate that keeps it below the ramp, and the gate is
released as the ramp allows (R410). -/
def rampTick (s : State) : State :=
  let want := demandMa s
  let step := 10 * rampRate s
  let now := max (min want (s.power.rampMa + step)) (s.power.rampMa - step)
  let g := ((List.range 8).find? fun g => decide (want * (8 - g) ≤ now * 8)).getD 7
  let t : State := { s with power := { s.power with rampMa := now, rampGate := g } }
  if g = s.power.rampGate then t else fput (setAllPairs t) 24 0 Fl.PWR_STATUS_GATING (b2n ((List.range 8).any fun d => decide (0 < dieGate t d)))

/-- Switch a pair's domain on (R413). -/
def pairOn (s : State) (d p : Nat) : State :=
  if fget s d p Fl.PWD_PAIR_STATE = 0 then
    setPair (fsat (fput s d p Fl.PWD_PAIR_STATE 2) d 0 Fl.PWD_GATE_WAKES 1) d p
  else s

/-- Enter a measured phase in the learning table (R147, R419). -/
def learnPhase (s : State) (eph : BitVec 64) (phase : Nat) (m : PhaseMeas) : State :=
  if m.handshakes = 0 ∨ m.mv = 0 then s
  else
    let v := m.energyPj * 562500 / (2 * m.handshakes * m.mv * m.mv)
    let t := s.time.toNat
    let tab := s.power.learn
    let isKey (x : Learned) : Bool := x.ephId == eph && x.phase == phase
    let new :=
      if tab.any isKey then tab.map fun x => if isKey x then { x with e75 := (3 * x.e75 + v) / 4, used := t } else x
      else
        let oldest := (tab.map (·.used)).foldl min (2 ^ 64)
        let tab := if tab.length < 1024 then tab else tab.eraseP fun x => x.used == oldest
        tab ++ [⟨eph, phase, v, t⟩]
    fput { s with power := { s.power with learn := new } } 24 0 Fl.PWR_LEARN_ENTRIES new.length

/-- The end of an engine's phase, at PHASE_BEGIN or END (R147). -/
def endPhase (s : State) (d e : Nat) (m : PhaseMeas) : State :=
  match slotOf s d e, (getEng s d e).phase with
  | some (l, _, _), some p => learnPhase s l.ephId p m
  | _, _ => s

end Sys2Proof.Machine
end

