-- ==== Sys2Proof/Machine/Fabric.lean ====
section
/-! DEFINITION. The Agaelen fabric as the other units use it: routes, sending a frame on its hop, requests that await a
response, fabric counters (R442 to R448). -/

namespace Sys2Proof.Machine

/-- This device's ID (R442). -/
def deviceId (s : State) : Nat := fget s 22 0 Fl.NET_DEVICE_DEVICE_ID

/-- The route table entry of a port die for a device (NET_ROUTE). -/
def routeWord (s : State) (pd dev : Nat) : BitVec 64 := smGetD s.net.routes 0 (pd * 4096 + dev)

/-- The valid route of a port die to a device. -/
def routeOf (s : State) (pd dev : Nat) : Option (BitVec 64) :=
  let w := routeWord s pd dev
  if fldOf Fl.NET_ROUTE_VALID w = 1 then some w else none

/-- The route of this device's own requests: PD0's table, then PD1's (log 33). -/
def localRoute (s : State) (dev : Nat) : Option (BitVec 64) := (routeOf s 22 dev).or (routeOf s 23 dev)

/-- An Ethernet port that is up in Agaelen fabric mode (R436). -/
def fabricUp (s : State) (p : Nat) : Bool :=
  fget s (22 + p / 4) (p % 4) Fl.NET_PORT_STATE_STATE == 2 && fget s (22 + p / 4) (p % 4) Fl.NET_PORT_CFG_MODE == 1

def FabricPort.fresh : FabricPort := ⟨0, 0, [], [], [], 0⟩
def getFab (s : State) (p : Nat) : FabricPort := smGetD s.net.ports FabricPort.fresh p
def putFab (s : State) (p : Nat) (x : FabricPort) : State := { s with net := { s.net with ports := smPut s.net.ports p x } }

/-- Frame kinds (R443). -/
def kReadReq : Nat := 1
def kReadResp : Nat := 2
def kWrite : Nat := 3
def kWriteAck : Nat := 4
def kSignal : Nat := 5
def kWait : Nat := 6
def kRelease : Nat := 7
def kSlack : Nat := 8
def kGrant : Nat := 9
def kProbe : Nat := 10
def kProbeResp : Nat := 11
def kAck : Nat := 12
def kErrorResp : Nat := 15

/-- The CRC-32 of IEEE 802.3 over bytes. -/
def crc32 (bs : List Byte) : BitVec 32 :=
  ~~~((bs.flatMap fun b => (List.range 8).map fun i => b.getLsbD i).foldl (fun (c : BitVec 32) b =>
    if c.getLsbD 0 != b then (c >>> 1) ^^^ 0xEDB8_8320#32 else c >>> 1) 0xFFFF_FFFF)

/-- The header of a frame (R443). -/
def frameHeader (kind : Nat) (f : Frame) : List Byte :=
  leBytes 1 1 ++ leBytes 1 kind ++ leBytes 2 f.src ++ leBytes 2 f.dst ++ leBytes 1 f.ttl ++ leBytes 1 0 ++ leBytes 4 f.seq ++
    leBytes 4 f.ack ++ leBytes 4 f.tag ++ leBytes 4 f.payload.length ++ leBytes 8 f.arg.toNat

/-- A frame as a port puts it on the wire: MAC addresses, EtherType 0x88B5, header, payload, FCS (R443). The spec does not say
which MAC address its partner has (log 183). -/
def frameBytes (s : State) (p kind : Nat) (f : Frame) : List Byte :=
  let src := fget s (22 + p / 4) (p % 4) Fl.NET_PORT_CFG_MAC
  let b := (leBytes 6 (Config.unstated 7 p).toNat).reverse ++ (leBytes 6 src).reverse ++ [0x88, 0xB5] ++
    frameHeader kind f ++ f.payload
  b ++ leBytes 4 (crc32 b).toNat

/-- The first frame that waits at a port leaves: it takes the hop's next sequence number and is kept until it is acknowledged
(R443, R444). -/
def hopLeave (s : State) (p : Nat) : State :=
  let x := getFab s p
  match x.queue with
  | [] => s
  | (kind, f) :: r =>
    let g : Frame := { f with seq := x.txSeq, ack := x.rxSeq }
    putFab s p { x with
      queue := r, txSeq := (x.txSeq + 1) % 2 ^ 32, tx := x.tx ++ [⟨kind, g, 0⟩], out := x.out ++ [frameBytes s p kind g] }

/-- Whether a frame travels ahead of data (R449). -/
def slackKind (kind : Nat) : Bool := kind == kSlack || kind == kGrant

/-- Put a frame on a port: it leaves at once, or waits behind what waits there already or a frame that is on its way, as a free
choice. Slack frames wait ahead of data (R449). -/
def hopSend (s : State) (p kind : Nat) (f : Frame) : State :=
  let x := getFab s p
  let n := if slackKind kind then (x.queue.takeWhile fun y => slackKind y.1).length else x.queue.length
  let t := putFab s p { x with queue := x.queue.take n ++ (kind, f) :: x.queue.drop n }
  if !x.queue.isEmpty then t
  else
    let w := drawBelow t 2
    if w.1 = 0 then w.2 else hopLeave w.2 p

/-- Acknowledge what a port has received in order, in a frame that is not itself acknowledged (R444, log 183). -/
def hopAck (s : State) (p : Nat) : State :=
  let x := getFab s p
  let f : Frame := ⟨deviceId s, fget s (22 + p / 4) (p % 4) Fl.NET_PORT_STATE_PEER, 1, x.txSeq, x.rxSeq, 0, 0, []⟩
  putFab s p { x with out := x.out ++ [frameBytes s p kAck f] }

/-- Send a frame of this device along a route: its TTL is the route's hop count (R443). None where no route leads there
or the egress port is not up. -/
def fabricSend (s : State) (kind dev tag : Nat) (arg : BitVec 64) (payload : List Byte) : Option State :=
  (localRoute s dev).bind fun w =>
    let p := fldOf Fl.NET_ROUTE_PORT w
    if fabricUp s p then
      some (hopSend s p kind ⟨deviceId s, dev, fldOf Fl.NET_ROUTE_HOPS w, 0, 0, tag, arg, payload⟩)
    else none

/-- The kind under which a write is kept whose move has been cancelled: only its acknowledgement is awaited (R155). -/
def kOrphan : Nat := 103

/-- Send a request and remember it until its response (R443: TAG). -/
def fabricRequest (s : State) (kind dev addr : Nat) (arg : BitVec 64) (req : Requester) (payload : List Byte)
    (detail : BitVec 64 := 0) : Option State :=
  let tag := s.net.nextTag
  (fabricSend s kind dev tag arg payload).map fun t =>
    { t with net := { t.net with nextTag := (tag + 1) % 2 ^ 32, remotes := t.net.remotes ++ [⟨tag, kind, dev, req, addr, false, [], detail⟩] } }

/-- The access of a requester has ended: the translations that walks found for it are its no more. -/
def dropGrants (s : State) (req : Requester) : State :=
  { s with xlat := { s.xlat with grants := s.xlat.grants.filter fun g => g.1 != req } }

/-- Forget the requests of a requester, whose access has ended. -/
def dropRemotes (s : State) (req : Requester) : State :=
  dropGrants { s with net := { s.net with remotes := s.net.remotes.filter fun r => r.req != req } } req

/-- A fabric counter (R446): counter `i` of the device. -/
def getFctr (s : State) (i : Nat) : FabCtr := smGetD s.net.ctrs ⟨0, []⟩ i
def putFctr (s : State) (i : Nat) (x : FabCtr) : State := { s with net := { s.net with ctrs := smPut s.net.ctrs i x } }

/-- ARG of a SIGNAL or WAIT frame: counter index in the low half, amount or value in the high half (log 34). -/
def tokenArg (counter amount : Nat) : BitVec 64 := BitVec.ofNat 64 (counter % 2 ^ 32 + amount % 2 ^ 32 * 2 ^ 32)

end Sys2Proof.Machine
end

