-- ==== Sys2Proof/Machine/Memctl.lean ====
section
/-! DEFINITION. The memory controllers: errors found by a read, poison form, corrected-error rates, failed channels,
refresh, recalibration and scrub (R374 to R386). -/

namespace Sys2Proof.Machine

/-- The controller of a line: its die, whether it is an HBM controller, the index of its pseudo-channel or channel on that
die. -/
def controllerOf (s : State) (line : Nat) : Option (Nat × Bool × Nat) :=
  match paKind s line with
  | .hbm _ => (hbmDecode s line).map fun p => (18 + p.1 / 128, true, p.1 % 128)
  | .ddr => (ddrDecode s line).map fun c => (16 + c / 8, false, c % 8)
  | _ => none

/-- The unit ID of a pseudo-channel or a DDR channel (R18, R386). -/
def memUnit (c : Nat × Bool × Nat) : Nat := unitId c.1 (if c.2.1 then 3 else 2) c.2.2

/-- The key of a pseudo-channel or a DDR channel in the log of corrected errors. -/
def ceKey (c : Nat × Bool × Nat) : Nat := if c.2.1 then (c.1 - 18) * 128 + c.2.2 else 512 + (c.1 - 16) * 8 + c.2.2

/-- Record the last error of a controller. -/
def lastError (s : State) (c : Nat × Bool × Nat) (kind line : Nat) : State :=
  if c.2.1 then
    fput (fput (fput s c.1 0 Fl.HBM_LAST_ERROR_KIND kind) c.1 0 Fl.HBM_LAST_ERROR_PC c.2.2) c.1 0 Fl.HBM_LAST_ERROR_LINE (line / 64)
  else
    fput (fput (fput s c.1 0 Fl.DDR_LAST_ERROR_KIND kind) c.1 0 Fl.DDR_LAST_ERROR_CHANNEL c.2.2) c.1 0
      Fl.DDR_LAST_ERROR_LINE (line / 64)

def hourNs : Nat := 3600000000000

/-- Count a corrected error of a unit; the error that reaches CE_THRESHOLD within an hour raises event 0x0F54, once per
hour (R378). -/
def ceRate (s : State) (c : Nat × Bool × Nat) : State :=
  let now := s.time.toNat
  let old := smGetD s.ceLog ([], none) (ceKey c)
  let times := now :: old.1.filter fun t => decide (now < t + hourNs)
  let limit := if c.2.1 then fget s c.1 0 Fl.HBM_BG_CE_THRESHOLD else fget s c.1 0 Fl.DDR_BG_CE_THRESHOLD
  let told := old.2.any fun t => decide (now < t + hourNs)
  if limit ≠ 0 ∧ limit ≤ times.length ∧ !told then
    raise { s with ceLog := smPut s.ceLog (ceKey c) (times, some now) } 0x0F54 1 (memUnit c)
  else { s with ceLog := smPut s.ceLog (ceKey c) (times, old.2) }

/-- A corrected error: the corrected line is what memory already holds (R377). -/
def memCe (s : State) (line : Nat) : State :=
  match controllerOf s line with
  | none => s
  | some c => ceRate (lastError (fsat s c.1 0 (if c.2.1 then Fl.HBM_STATS_CE else Fl.DDR_STATS_CE) 1) c 1 line) c

/-- Write a line in poison form: its data is zero (R377). -/
def poisonLine (s : State) (line : Nat) : State :=
  { s with mem := memClear s.mem line (line + 64), poison := insertNat s.poison line }

/-- An uncorrected error: the line takes poison form and event 0x0F52 is raised (R377). -/
def memUe (s : State) (line : Nat) : State :=
  match controllerOf s line with
  | none => poisonLine s line
  | some c =>
    let s := lastError (fsat s c.1 0 (if c.2.1 then Fl.HBM_STATS_UE else Fl.DDR_STATS_UE) 1) c 2 line
    raise (poisonLine s line) 0x0F52 2 (memUnit c) 0 (BitVec.ofNat 128 line)

/-- What a read finds in a line: what the command names, or the decay that the line has suffered, whichever is worse. -/
def findEcc (s : State) (line : Nat) (e : Ecc) : Ecc :=
  match smGet s.flaws line, e with
  | some true, _ => .ue
  | some false, .none => .ce
  | _, e => e

/-- What the check bits of one read find, on a line that is not poisoned already; the controller writes the line back
corrected or as poison (R377). -/
def memEcc (s : State) (line : Nat) (e : Ecc) : State :=
  let t : State := { s with flaws := smDel s.flaws line }
  if poisoned s line then notePoison s line
  else match findEcc s line e with
    | .none => t
    | .ce => memCe t line
    | .ue => memUe t line

/-- A line of far memory whose port is down gives no data (R455). -/
def farDown (s : State) (line : Nat) : Bool := match paKind s line with
  | .far => !farUp s line
  | _ => false

/-- Read a line at its home: data, whether it is poison or cannot be had, and the state after the checks. -/
def memFetch (s : State) (line : Nat) (e : Ecc) : List Byte × Bool × State :=
  if farDown s line then ([], true, s)
  else
    let t := memEcc s line e
    (memReadN t.mem line 64, poisoned t line, t)

/-! ### The commands -/

/-- DDR_CHANNEL_FAILED. -/
def doDdrChannelFailed (die ch : Nat) (s : State) : State :=
  let f := fget s die 0 Fl.DDR_POPULATION_FAILED
  if !(fget s die 0 Fl.DDR_POPULATION_POPULATED).testBit ch ∨ f.testBit ch then s
  else raise (fput s die 0 Fl.DDR_POPULATION_FAILED (f ||| 2 ^ ch)) 0x0F53 3 (unitId die 2 ch)

def execDdrChannelFailed (die ch : Nat) (s : State) : Host.Outcome State Fault Refusal := .next (doDdrChannelFailed die ch s)

/-- REFRESH takes its slot: no request is lost or reordered, and nothing that the machine holds changes (R379). -/
def execRefresh (_unit : Nat) (s : State) : Host.Outcome State Fault Refusal := .next s

/-- The controller of a unit ID that is in service: a good pseudo-channel or a populated DDR channel. -/
def recalUnit (s : State) (unit : Nat) : Option (Nat × Bool × Nat) :=
  let d := unit / 2048
  let g := unit / 256 % 8
  let i := unit % 256
  if dieType d = 3 ∧ g = 3 ∧ i < 128 ∧ (goodPcs s ((d - 18) * 4 + i / 32)).testBit (i % 32) then some (d, true, i)
  else if dieType d = 2 ∧ g = 2 ∧ (fget s d 0 Fl.DDR_POPULATION_POPULATED).testBit i then some (d, false, i)
  else none

/-- Device time in ns at which a unit is next due. -/
def recalDue (s : State) (unit : Nat) (c : Nat × Bool × Nat) : Nat :=
  smGetD s.recals (smGetD s.scrubFrom 0 c.1) unit +
    fget s c.1 0 (if c.2.1 then Fl.HBM_BG_RECAL_PERIOD_MS else Fl.DDR_BG_RECAL_PERIOD_MS) * 1000000

/-- A stream that a WAIT holds. -/
def Hold.isWait : Hold → Bool
  | .wait _ _ => true
  | .held _ _ => true
  | .remote _ _ => true
  | _ => false

/-- Every stream context of a hub's Finders is unassigned or held at a WAIT; that its queue has been empty for 1 µs, the
command says. -/
def quietHub (s : State) (h : Nat) : Bool :=
  s.launches.all fun l => l.streams.all fun x => x.at_.all (fun a => a.1 != h) || x.hold.isWait

/-- RECALIBRATION of a unit that is due: in a quiet window, or forced once it has been due for 100 ms, which is counted
(R380). -/
def doRecalibration (unit : Nat) (forced : Bool) (s : State) : State :=
  match recalUnit s unit with
  | none => s
  | some c =>
    let now := s.time.toNat
    let due := recalDue s unit c
    let t : State := { s with recals := smPut s.recals unit now }
    if now < due then s
    else if forced then
      if now < due + 100000000 then s
      else fsat t c.1 0 (if c.2.1 then Fl.HBM_STATS_RECAL_FORCED else Fl.DDR_STATS_RECAL_FORCED) 1
    else if c.2.1 ∧ !quietHub s c.1 then s else t

def execRecalibration (unit : Nat) (forced : Bool) (s : State) : Host.Outcome State Fault Refusal :=
  .next (doRecalibration unit forced s)

/-- Hours of a scrub pass: 0 and values above 24 are read as 24. -/
def scrubHours (v : Nat) : Nat := if v = 0 ∨ 24 < v then 24 else v

/-- The end of a scrub pass of a memory die: a pass that took longer than SCRUB_HOURS is late (R378). -/
def scrubEnd (s : State) (c : Nat × Bool × Nat) : State :=
  let now := s.time.toNat
  let hours := scrubHours (fget s c.1 0 (if c.2.1 then Fl.HBM_BG_SCRUB_HOURS else Fl.DDR_BG_SCRUB_HOURS))
  let late := decide (hours * hourNs < now - smGetD s.scrubFrom 0 c.1)
  let s : State := { s with scrubFrom := smPut s.scrubFrom c.1 now }
  let s := if late then fsat s c.1 0 (if c.2.1 then Fl.HBM_STATS_SCRUB_LATE else Fl.DDR_STATS_SCRUB_LATE) 1 else s
  fput s c.1 0 (if c.2.1 then Fl.HBM_SCRUB_PASS_LAST_END else Fl.DDR_SCRUB_PASS_LAST_END) now

/-- PATROL_SCRUB of one line of a good pseudo-channel or a populated channel. -/
def doPatrolScrub (line : Nat) (e : Ecc) (passEnd : Bool) (s : State) : State :=
  match controllerOf s line with
  | none => s
  | some c =>
    let t := memEcc s line e
    if passEnd then scrubEnd t c else t

def execPatrolScrub (line : Nat) (e : Ecc) (passEnd : Bool) (s : State) : Host.Outcome State Fault Refusal :=
  .next (doPatrolScrub line e passEnd s)

end Sys2Proof.Machine
end

