-- ==== Sys2Proof/Machine/Coherence.lean ====
section
/-! DEFINITION. The homes, their directories and the messages between homes and holders (R341 to R361). -/

namespace Sys2Proof.Machine

/-! ### Codes, units, counters -/

/-- Request codes (R346). -/
def cRdShared : Nat := 1
def cRdOwn : Nat := 2
def cUpgrade : Nat := 3
def cRdNc : Nat := 4
def cWrFull : Nat := 8
def cWrPart : Nat := 9
def cWrStash : Nat := 10
def cRmwHome : Nat := 11

/-- The COH block of a die as a unit (R18, R27). -/
def cohUnit (die : Nat) : Nat := unitId die 0 (if die < 18 then 2 else 5)

/-- The die of a holder. -/
def holderDie (holder : Nat) : Nat := 16 + holder

/-- Show a home's occupancy (COH_OCCUPANCY). -/
def showHome (s : State) (h : Nat) : State :=
  let x := getHome s h
  let s := fput s h 0 Fl.COH_OCCUPANCY_RETRY_QUEUE x.retry.length
  let s := fput s h 0 Fl.COH_OCCUPANCY_OPEN x.txns.length
  fhigh s h 0 Fl.COH_OCCUPANCY_OPEN_HIGH_WATER x.txns.length

/-- Count a request that is served. -/
def countServed (s : State) (h code : Nat) : State :=
  if code = cRdOwn ∨ code = cUpgrade then fsat s h 0 Fl.COH_REQUESTS_OWN 1
  else if code = cRdShared ∨ code = cRdNc then fsat s h 0 Fl.COH_REQUESTS_SHARED 1
  else fsat s h 0 Fl.COH_WRITES_DEVICE 1

/-! ### What holders hold -/

/-- The core that a unit ID names, if it names one (R317). -/
def unitCore (unit : Nat) : Option (Nat × Nat) :=
  let d := unit / 2048
  if (d = 16 ∨ d = 17) ∧ unit / 256 % 8 = 1 ∧ unit % 256 < 100 then some (d, unit % 256) else none

/-- The copy of a line in a core's L2. -/
def l2Find (s : State) (d c line : Nat) : Option CacheLine := (getCore s d c).l2.find? (·.line == line)

/-- Whether a unit holds a line in S: a core in its L2, a link cache of its hub. -/
def holdsS (s : State) (unit line : Nat) : Bool :=
  match unitCore unit with
  | some (d, c) => (l2Find s d c line).any fun x => x.st == .s
  | none => (smGetD s.coh.link [] (unit / 2048)).any fun x => x.line == line && x.st == .s

/-- The copies of a line in a holder: every L2 and the L3 slice of a host die, or a link cache (R343). -/
def holderCopies (s : State) (holder line : Nat) : List CacheLine :=
  let die := holderDie holder
  let all :=
    if holder < 2 then (s.cores.filter fun c => c.1 / 128 == die).flatMap (fun c => c.2.l2) ++ smGetD s.coh.l3 [] die
    else smGetD s.coh.link [] die
  all.filter (·.line == line)

/-- Change every copy of a line in a holder. -/
def mapHolder (s : State) (holder line : Nat) (f : CacheLine → Option CacheLine) : State :=
  let die := holderDie holder
  let g (l : List CacheLine) : List CacheLine := l.filterMap fun x => if x.line = line then f x else some x
  if holder < 2 then
    let s : State := { s with cores := s.cores.map fun c => if c.1 / 128 = die then (c.1, trimL1 { c.2 with l2 := g c.2.l2 }) else c }
    { s with coh := { s.coh with l3 := s.coh.l3.map fun c => if c.1 = die then (c.1, g c.2) else c } }
  else { s with coh := { s.coh with link := s.coh.link.map fun c => if c.1 = die then (c.1, g c.2) else c } }

/-- Drop every cached copy of a line: L2s, L3 slices and link caches. -/
def dropCopies (s : State) (line : Nat) : State :=
  let t := mapL2 s fun l => l.filter fun c => c.line != line
  { t with coh := { t.coh with
      l3 := t.coh.l3.map fun c => (c.1, c.2.filter fun x => x.line != line),
      link := t.coh.link.map fun c => (c.1, c.2.filter fun x => x.line != line) } }

/-! ### Room in the caches (R318, R341) -/

/-- The caches that hold lines. -/
inductive CacheKind where
  | l1i
  | l1d
  | l2
  | l3
  | link
  deriving DecidableEq, Repr

def CacheKind.num : CacheKind → Nat
  | .l2 => 0
  | .l3 => 1
  | .link => 2
  | .l1i => 3
  | .l1d => 4

/-- Sets of a cache: 64 KiB in 4 ways, 64 KiB in 8 ways, 2 MiB in 16 ways, 48 slices of 3 MiB in 12 ways, 16 MiB in 16 ways. -/
def CacheKind.sets : CacheKind → Nat
  | .l1i => 256
  | .l1d => 128
  | .l2 => 2048
  | .l3 => 48 * 4096
  | .link => 16384

def CacheKind.ways : CacheKind → Nat
  | .l1i => 4
  | .l1d => 8
  | .l2 => 16
  | .l3 => 12
  | .link => 16

/-- The lines of a cache in the set of a line, that line left out. -/
def setMates (k : CacheKind) (l : List Nat) (line : Nat) : List Nat :=
  l.filter fun x => x != line && Config.cacheSet k.num x % k.sets == Config.cacheSet k.num line % k.sets

/-- The line that leaves a cache when another comes in: a free choice of a full set (log 156). -/
def cacheVictim (s : State) (k : CacheKind) (l : List Nat) (line : Nat) : Option Nat × State :=
  let m := setMates k l line
  if m.length < k.ways then (none, s)
  else
    let n := drawBelow s m.length
    (m[n.1]?, n.2)

/-- A line of a core's L2 comes into its L1I or its L1D (R318). -/
def fillL1 (s : State) (d c line : Nat) (code : Bool) : State :=
  let k := getCore s d c
  let l := if code then k.l1i else k.l1d
  if l.contains line ∨ !(k.l2.any (·.line == line)) then s
  else
    let v := cacheVictim s (if code then .l1i else .l1d) l line
    let new := (l.filter fun x => v.1 != some x) ++ [line]
    modCore v.2 d c fun x => if code then { x with l1i := new } else { x with l1d := new }

/-- Put a line into a list of held lines, in place of a victim. -/
def cacheSet (l : List CacheLine) (v : Option Nat) (c : CacheLine) : List CacheLine :=
  (l.filter fun x => x.line != c.line && v != some x.line) ++ [c]

/-- Put a line into a die's L3; a victim there is clean and leaves silently (R343). -/
def putL3 (s : State) (d : Nat) (c : CacheLine) : State :=
  let l := smGetD s.coh.l3 [] d
  let v := cacheVictim s .l3 (l.map (·.line)) c.line
  { v.2 with coh := { v.2.coh with l3 := smPut v.2.coh.l3 d (cacheSet l v.1 c) } }

/-- Put a line into a link cache; its victims are clean. -/
def putLink (s : State) (d : Nat) (c : CacheLine) : State :=
  let l := smGetD s.coh.link [] d
  let v := cacheVictim s .link (l.map (·.line)) c.line
  { v.2 with coh := { v.2.coh with link := smPut v.2.coh.link d (cacheSet l v.1 c) } }

/-! ### Messages -/

def sendProbe (s : State) (home line : Nat) (inval : Bool) (holder : Nat) : State :=
  { s with coh := { s.coh with probes := s.coh.probes ++ [⟨home, holder, line, inval, false⟩] } }

def sendResp (s : State) (m : RespMsg) : State := { s with coh := { s.coh with resps := s.coh.resps ++ [m] } }

def sendData (s : State) (r : CohReq) (st : Mesi) (poison : Bool) (data : List Byte) : State :=
  { s with coh := { s.coh with data := s.coh.data ++ [⟨r.holder, r.unit, r.line, st, poison, data⟩] } }

/-- The answer to a non-caching agent: data of a read, or an acknowledgement; poison is status 0x0502 (R357, R360). -/
def sendReturn (s : State) (r : CohReq) (poison : Bool) (data : List Byte) : State :=
  { s with coh := { s.coh with returned := (r.unit, r.line, poison, data) :: s.coh.returned } }

/-- A line leaves an L2: a modified one is written back, a clean one may go to the die's L3 slice, as a free choice (R343). -/
def leaveL2 (s : State) (d : Nat) (x : CacheLine) : State :=
  if x.st = .m then sendResp s ⟨homeOf s x.line, holderOf d, x.line, .evicted x.data, false⟩
  else
    let n := drawBelow s 2
    if n.1 = 0 then n.2 else putL3 n.2 d x

def putL2 (s : State) (d c : Nat) (x : CacheLine) : State :=
  let l := (getCore s d c).l2
  let v := cacheVictim s .l2 (l.map (·.line)) x.line
  let s := modCore v.2 d c fun k => trimL1 { k with l2 := cacheSet k.l2 v.1 x }
  match v.1.bind fun y => l.find? (·.line == y) with
  | none => s
  | some y => leaveL2 s d y

/-! ### Stash targets (R354) -/

/-- Whether a stash target names a unit that can take a line. -/
def stashUnit (s : State) (target : Nat) : Bool :=
  let kind := bits target 15 14
  let d := bits target 13 9
  let i := bits target 6 0
  match kind with
  | 1 => (d == 16 || d == 17) && decide (i < 100) && coreUp s d i
  | 2 => (d == 16 || d == 17) && decide (i < 48)
  | 3 => decide (18 ≤ d) && decide (d < 22) && i == 0 && !windowDead s d
  | _ => false

/-- Install a line in E at a target. A slice takes it where the die's L3 keeps that line (log 158). -/
def stashPut (s : State) (target line : Nat) : State :=
  let d := bits target 13 9
  let c : CacheLine := ⟨line, .e, memReadN s.mem line 64⟩
  match bits target 15 14 with
  | 1 => putL2 s d (bits target 6 0) c
  | 2 => putL3 s d c
  | _ => putLink s d c

/-- Answer a request with poison (R356). -/
def answerPoison (s : State) (r : CohReq) : State :=
  if r.code ≤ cUpgrade then sendData s r .s true [] else sendReturn s r true []

/-! ### Serving a request (R346, R348, R349, R352) -/

/-- Requests that record a holder and so need an entry: a stash whose target cannot take the line needs none. -/
def needsEntry (s : State) (r : CohReq) : Bool := decide (r.code ≤ cUpgrade) || r.code == cWrStash && stashUnit s r.target

/-- Sets of a home's directory: 16,777,216 entries of a host die and 8,388,608 of a hub in 16 ways (R344). -/
def dirSets (h : Nat) : Nat := if h < 18 then 1048576 else 524288

/-- The entries of a line's set. -/
def dirWays (x : Home) (h line : Nat) : List DirEntry :=
  x.dir.filter fun e => Config.dirSet h e.line % dirSets h == Config.dirSet h line % dirSets h

/-- Whether the line has an entry, or its set a free way among 16 (R344). -/
def hasRoom (x : Home) (h line : Nat) : Bool := (dirFind x line).isSome || decide ((dirWays x h line).length < 16)

/-- Holders named by an entry's vector, in ascending order. -/
def holdersOf (v : BitVec 6) : List Nat := (List.range 6).filter fun i => v.getLsbD i

/-- The probes that a request needs: the holders, and whether they are invalidated (R346). -/
def probesFor (e : Option DirEntry) (r : CohReq) : List Nat × Bool :=
  match e with
  | none => ([], true)
  | some e =>
    if r.code = cRdShared ∨ r.code = cRdNc then (if e.em then holdersOf e.holders else [], false)
    else if r.code = cRdOwn ∨ r.code = cUpgrade then
      (if e.em then holdersOf e.holders else (holdersOf e.holders).filter (· != r.holder), true)
    else (holdersOf e.holders, true)

/-- Open a transaction: an entry is taken, if one is needed, and the probes leave. -/
def openTxn (s : State) (h : Nat) (r : CohReq) : State × Txn :=
  let x := getHome s h
  let e := dirFind x r.line
  let p := probesFor e r
  let t : Txn := ⟨r.line, r, p.1, [], false⟩
  let recalls := if e.any (·.em) then p.1.length else 0
  let s := fsat (countServed s h r.code) h 0 Fl.COH_PROBES_RECALLS recalls
  let s := modHome s h fun x => { x with
    dir := if needsEntry s r ∧ e.isNone then x.dir ++ [⟨r.line, false, 0⟩] else x.dir
    txns := x.txns ++ [t] }
  let s := fhigh s h 0 Fl.COH_OCCUPANCY_OPEN_HIGH_WATER (x.txns.length + 1)
  (p.1.foldl (fun s k => sendProbe s h r.line p.2 k) s, t)

/-- Evict the oldest entry of a set that has no open transaction, for a request that needs its way (R352). -/
def openEvict (s : State) (h : Nat) (v : DirEntry) (r : CohReq) : State :=
  let ks := holdersOf v.holders
  let s := fsat s h 0 Fl.COH_DIR_EVICT_EVICTIONS 1
  let s := if v.em then fsat s h 0 Fl.COH_PROBES_RECALLS ks.length else s
  let s := modHome s h fun x => { x with txns := x.txns ++ [⟨v.line, r, ks, [], true⟩] }
  let s := fhigh s h 0 Fl.COH_OCCUPANCY_OPEN_HIGH_WATER (getHome s h).txns.length
  ks.foldl (fun s k => sendProbe s h v.line true k) s

/-- A request whose way is not to be had waits in the retry queue of 256 entries, or at its requester when that is full. -/
def toRetry (s : State) (h : Nat) (r : CohReq) : State :=
  if (getHome s h).retry.length < 256 then
    modHome (fsat s h 0 Fl.COH_DIR_EVICT_RETRIES 1) h fun x => { x with retry := x.retry ++ [r] }
  else modHome s h fun x => { x with held := x.held ++ [r] }

/-- The entry of a line after its transaction: with whom, or freed (R346, R354). -/
def setEntry (s : State) (h line : Nat) (em : Bool) (v : BitVec 6) : State := modHome s h fun x => dirSet x line em v

def bitOf (holder : Nat) : BitVec 6 := 1 <<< holder
def vecOf (l : List Nat) : BitVec 6 := l.foldl (fun v k => v ||| bitOf k) 0

/-- Bytes of a line after a merge under a mask. -/
def mergeMask (old new : List Byte) (mask : BitVec 64) : List Byte :=
  (old.zip new).zipIdx.map fun p => if mask.getLsbD p.2 then p.1.2 else p.1.1

/-- Bytes of a line after a read-modify-write that clears and sets bits. -/
def rmwBytes (old clear set : List Byte) : List Byte := ((old.zip clear).zip set).map fun p => (p.1.1 &&& ~~~p.1.2) ||| p.2

/-- What a request does once every answer that it waits for has come (R346, R349, R354, R357). A whole line written under a
mask is a record: 0 stands beside it where the line was poison (R545). `kept` are the holders left before it. -/
def finishReq (s : State) (h : Nat) (t : Txn) : State :=
  let r := t.req
  let e := dirFind (getHome s h) r.line
  let kept : List Nat := match e with
    | none => []
    | some e => if e.em then t.kept else holdersOf e.holders
  let rest := kept.filter (· != r.holder)
  if r.code = cRdShared then
    let m := memFetch s r.line r.ecc
    if m.2.1 then sendData (setEntry m.2.2 h r.line false (vecOf kept)) r .s true []
    else if rest.isEmpty then sendData (setEntry m.2.2 h r.line true (bitOf r.holder)) r .e false m.1
    else sendData (setEntry m.2.2 h r.line false (vecOf (r.holder :: rest))) r .s false m.1
  else if r.code = cRdOwn then
    let m := memFetch s r.line r.ecc
    if m.2.1 then sendData (setEntry m.2.2 h r.line false 0) r .s true []
    else sendData (setEntry m.2.2 h r.line true (bitOf r.holder)) r .e false m.1
  else if r.code = cUpgrade then sendData (setEntry s h r.line true (bitOf r.holder)) r .e false []
  else if r.code = cRdNc then
    let m := memFetch s r.line r.ecc
    sendReturn (setEntry m.2.2 h r.line false (vecOf kept)) r m.2.1 m.1
  else
    let s := setEntry s h r.line false 0
    if r.code = cWrFull ∨ r.code = cWrStash then
      let m := if r.mask = BitVec.allOnes 64 then (r.data, false, s) else memFetch s r.line .none
      let old := if m.2.1 then List.replicate 64 0 else m.1
      let s := sendReturn (linePut m.2.2 r.line (mergeMask old r.data r.mask)) r (farDown s r.line) []
      if r.code = cWrFull then s
      else if stashUnit s r.target then
        let s := setEntry (stashPut s r.target r.line) h r.line true (bitOf (holderOf (bits r.target 13 9)))
        fsat s h 0 Fl.COH_STASH_INSTALLED 1
      else fsat s h 0 Fl.COH_STASH_DROPPED 1
    else
      let m := memFetch s r.line .none
      if m.2.1 then sendReturn m.2.2 r true []
      else
        let new := if r.code = cWrPart then mergeMask m.1 r.data r.mask else rmwBytes m.1 r.clear r.data
        sendReturn (memPut m.2.2 r.line new) r false []

/-- A request is served as RD_OWN when it is an UPGRADE whose requester has lost its copy (R346, R351). -/
def asServed (s : State) (r : CohReq) : CohReq := if r.code = cUpgrade ∧ !holdsS s r.unit r.line then { r with code := cRdOwn } else r

/-- Close a transaction whose answers have all come. -/
def closeReq (s : State) (h : Nat) (t : Txn) : State :=
  finishReq (modHome s h fun x => { x with txns := x.txns.filter fun y => y.line != t.line }) h t

/-- Serve a request on a line that nothing else occupies: open it, and close it at once when it waits for no answer. -/
def serveReq (s : State) (h : Nat) (r : CohReq) : State :=
  let x := getHome s h
  let r := asServed s r
  if needsEntry s r ∧ !hasRoom x h r.line then
    match (dirWays x h r.line).find? fun e => !openOn x e.line with
    | some v => openEvict s h v r
    | none => toRetry s h r
  else
    let p := openTxn s h r
    if p.2.waiting.isEmpty then closeReq p.1 h p.2 else p.1

/-- A line is occupied while a transaction is open on it or a request for it waits for an entry. -/
def lineBusy (x : Home) (line : Nat) : Bool :=
  (x.txns.any fun t => t.line == line || t.req.line == line) || (x.retry.any (·.line == line)) || (x.held.any (·.line == line))

/-- A request arrives at a home (R348): it is served, or it queues behind the line's transactions in order of arrival. A
request for a line of another home, for no memory, or for memory in reset (R365) never arrives. -/
def arriveReq (s : State) (h : Nat) (r : CohReq) : State :=
  let mem := match paKind s r.line with
    | .ddr => true
    | .hbm _ => true
    | .far => true
    | _ => false
  if !mem ∨ !accepts s r.line ∨ homeOf s r.line ≠ h then s
  else if lineBusy (getHome s h) r.line then showHome (modHome s h fun x => { x with queue := x.queue ++ [r] }) h
  else showHome (serveReq s h r) h

/-- Serve the requests that wait for a line, oldest first, until one stays open. -/
def serveQueue : Nat → State → Nat → Nat → State
  | 0, s, _, _ => s
  | n + 1, s, h, line =>
    let x := getHome s h
    if lineBusy x line then s
    else match x.queue.find? (·.line == line) with
      | none => s
      | some r => serveQueue n (serveReq (putHome s h { x with queue := x.queue.erase r }) h r) h line

/-- Go on with what waited for a line. -/
def serveNext (s : State) (h line : Nat) : State := showHome (serveQueue ((getHome s h).queue.length + 1) s h line) h

/-- Close a transaction or an eviction. The request that an eviction made way for is served then. -/
def closeTxn (s : State) (h : Nat) (t : Txn) : State :=
  if t.evict then
    let s := modHome s h fun x => { x with txns := x.txns.filter fun y => y.line != t.line }
    let s := serveReq (setEntry s h t.line false 0) h t.req
    serveNext (serveNext s h t.req.line) h t.line
  else serveNext (closeReq s h t) h t.line

/-! ### Probes and answers (R345, R347, R350, R351) -/

/-- A holder processes the oldest probe of a line. It completes the access of a line or grant that is on its way to it
first (R350). For the link cache of a fenced hub it is answered NOT_PRESENT (R359). -/
def doProbe (holder line : Nat) (s : State) : State :=
  match s.coh.probes.find? fun p => p.holder == holder && p.line == line with
  | none => s
  | some p =>
    if 2 ≤ holder ∧ windowDead s (holderDie holder) then
      sendResp { s with coh := { s.coh with probes := s.coh.probes.erase p } } ⟨p.home, holder, line, .notPresent, p.late⟩
    else if s.coh.data.any fun m => m.holder == holder && m.line == line && !m.poison then s
    else
      let s : State := { s with coh := { s.coh with probes := s.coh.probes.erase p } }
      let inFlight := s.coh.resps.any fun r => r.holder == holder && r.line == line &&
        match r.kind with
        | .evicted _ => true
        | .recalled _ _ => true
        | .notPresent => false
        | .clean _ => false
      let copies := holderCopies s holder line
      let t := mapHolder s holder line fun x => if p.inval then none else some { x with st := .s }
      let kind : RespKind :=
        match copies.find? (fun x => x.st == .m) with
        | some x => .recalled x.data (!p.inval)
        | none => if copies.isEmpty ∨ inFlight then .notPresent else .clean (!p.inval)
      sendResp t ⟨p.home, holder, line, kind, p.late⟩

def execProbe (holder line : Nat) (s : State) : Host.Outcome State Fault Refusal := .next (doProbe holder line s)

/-- A response or writeback that comes too late is discarded and counted (R356). -/
def discardLate (s : State) (h : Nat) : State :=
  fsat (fput s h 0 Fl.COH_ERR_STATUS_LATE_DISCARD 1) h 0 Fl.COH_ERR_COUNT_LATE_DISCARDED 1

/-- The transaction of a line that waits for a holder. -/
def waitsFor (x : Home) (line holder : Nat) : Option Txn := x.txns.find? fun t => t.line == line && t.waiting.contains holder

/-- One awaited answer of a transaction has come. -/
def answered (s : State) (h : Nat) (t : Txn) (holder : Nat) (kept : Bool) : State :=
  let u : Txn := { t with waiting := t.waiting.erase holder, kept := if kept then t.kept ++ [holder] else t.kept }
  if u.waiting.isEmpty then closeTxn s h u
  else modHome s h fun x => { x with txns := x.txns.map fun y => if y.line = t.line then u else y }

/-- A writeback reaches memory; a poisoned line stays poisoned (R357). -/
def wbPut (s : State) (h line : Nat) (d : List Byte) : State :=
  let s := fsat s h 0 Fl.COH_WRITES_WRITEBACKS 1
  if poisoned s line then s else linePut s line d

def isWb : RespKind → Bool
  | .evicted _ => true
  | .recalled _ _ => true
  | .notPresent => false
  | .clean _ => false

/-- The answer to a recall: the data of an M holder is discarded where a whole line is written (R346). -/
def recallPut (s : State) (h : Nat) (t : Txn) (line : Nat) (d : List Byte) : State :=
  if !t.evict ∧ (t.req.code = cWrFull ∨ t.req.code = cWrStash) ∧ t.req.mask = BitVec.allOnes 64 then s else wbPut s h line d

/-- A message of a holder as the home meets it. -/
def takeResp (s : State) (m : RespMsg) : State :=
  let s : State := { s with coh := { s.coh with resps := s.coh.resps.erase m } }
  let x := getHome s m.home
  let w := waitsFor x m.line m.holder
  if m.late then discardLate s m.home
  else match m.kind, w with
  | .evicted d, some _ => wbPut s m.home m.line d
  | .evicted d, none =>
    if (dirFind x m.line).any fun e => e.em && e.holders.getLsbD m.holder then
      let s := wbPut s m.home m.line d
      if openOn x m.line then s else setEntry s m.home m.line false 0
    else discardLate s m.home
  | .recalled d kept, some t => answered (recallPut s m.home t m.line d) m.home t m.holder kept
  | .recalled _ _, none => discardLate s m.home
  | .notPresent, some t => answered (fsat s m.home 0 Fl.COH_PROBES_NOT_PRESENT 1) m.home t m.holder false
  | .notPresent, none => discardLate s m.home
  | .clean kept, some t => answered s m.home t m.holder kept
  | .clean _, none => discardLate s m.home

/-- The oldest message of a line from a holder to a home that may arrive: a writeback may overtake, an answer may not
overtake a writeback of its holder to the same home (R347). -/
def nextResp (s : State) (h line holder : Nat) (p : RespKind → Bool) : Option RespMsg :=
  let l := s.coh.resps.filter fun m => m.home == h && m.holder == holder
  match l.find? fun m => m.line == line && p m.kind with
  | none => none
  | some m => if isWb m.kind ∨ !((l.takeWhile (· != m)).any fun y => isWb y.kind) then some m else none

/-- WB: a writeback on its way reaches its home; where none is, a modified line of the holder is evicted first. -/
def doWb (home line holder : Nat) (s : State) : State :=
  match nextResp s home line holder isWb with
  | some m => showHome (takeResp s m) home
  | none =>
    if homeOf s line ≠ home then s
    else match (holderCopies s holder line).find? fun x => x.st == .m with
      | none => s
      | some x =>
        let m : RespMsg := ⟨home, holder, line, .evicted x.data, false⟩
        showHome (takeResp (sendResp (mapHolder s holder line fun y => if y.st = .m then none else some y) m) m) home

def execWb (home line holder : Nat) (s : State) : Host.Outcome State Fault Refusal := .next (doWb home line holder s)

def doNotPresent (home line holder : Nat) (s : State) : State :=
  match nextResp s home line holder fun k => k == .notPresent with
  | none => s
  | some m => showHome (takeResp s m) home

def execNotPresent (home line holder : Nat) (s : State) : Host.Outcome State Fault Refusal := .next (doNotPresent home line holder s)

def isClean : RespKind → Bool
  | .clean _ => true
  | .evicted _ => false
  | .recalled _ _ => false
  | .notPresent => false

/-- PROBE_RESPONSE: an answer that is neither NOT_PRESENT nor a writeback. -/
def doProbeResponse (home line holder : Nat) (s : State) : State :=
  match nextResp s home line holder isClean with
  | none => s
  | some m => showHome (takeResp s m) home

def execProbeResponse (home line holder : Nat) (s : State) : Host.Outcome State Fault Refusal :=
  .next (doProbeResponse home line holder s)

/-! ### The request commands -/

def bareReq (code line holder unit : Nat) (e : Ecc) : CohReq :=
  ⟨code, line, holder, unit, 0, BitVec.allOnes 64, [], [], e⟩

def execRdShared (home line holder unit : Nat) (e : Ecc) (s : State) : Host.Outcome State Fault Refusal :=
  .next (arriveReq s home (bareReq cRdShared line holder unit e))

def execRdOwn (home line holder unit : Nat) (e : Ecc) (s : State) : Host.Outcome State Fault Refusal :=
  .next (arriveReq s home (bareReq cRdOwn line holder unit e))

def execUpgrade (home line holder unit : Nat) (s : State) : Host.Outcome State Fault Refusal :=
  .next (arriveReq s home (bareReq cUpgrade line holder unit .none))

def execRdNc (home line unit : Nat) (e : Ecc) (s : State) : Host.Outcome State Fault Refusal :=
  .next (arriveReq s home (bareReq cRdNc line 6 unit e))

def execWrFull (home line unit : Nat) (data : List Byte) (s : State) : Host.Outcome State Fault Refusal :=
  .next (arriveReq s home { bareReq cWrFull line 6 unit .none with data := data })

def execWrPart (home line unit : Nat) (mask : BitVec 64) (data : List Byte) (s : State) : Host.Outcome State Fault Refusal :=
  .next (arriveReq s home { bareReq cWrPart line 6 unit .none with mask := mask, data := data })

def execWrStash (home line unit target : Nat) (data : List Byte) (s : State) : Host.Outcome State Fault Refusal :=
  .next (arriveReq s home { bareReq cWrStash line 6 unit .none with target := target, data := data })

def execRmwHome (home line unit : Nat) (clear set : List Byte) (s : State) : Host.Outcome State Fault Refusal :=
  .next (arriveReq s home { bareReq cRmwHome line 6 unit .none with clear := clear, data := set })

/-- DIRECTORY_RETRY: the first request of the retry queue whose set has a way, or an entry to evict, is served; a request
held at its requester takes its place in the queue. -/
def doDirectoryRetry (home : Nat) (s : State) : State :=
  let x := getHome s home
  let may (r : CohReq) : Bool := hasRoom x home r.line || (dirWays x home r.line).any fun e => !openOn x e.line
  match x.retry.find? may with
  | none => s
  | some r =>
    let s := putHome s home { x with retry := x.retry.erase r ++ x.held.take 1, held := x.held.drop 1 }
    let s := if x.held.isEmpty then s else fsat s home 0 Fl.COH_DIR_EVICT_RETRIES 1
    serveNext (serveReq s home r) home r.line

def execDirectoryRetry (home : Nat) (s : State) : Host.Outcome State Fault Refusal := .next (doDirectoryRetry home s)

/-- HOME_TIMEOUT (R356). An eviction that times out reports request code 0, and the request it made way for is served. -/
def doHomeTimeout (home line : Nat) (s : State) : State :=
  match (getHome s home).txns.find? (·.line == line) with
  | none => s
  | some t =>
    let code := if t.evict then 0 else t.req.code
    let unit := (t.waiting.head?.map fun k => cohUnit (holderDie k)).getD 0
    let behind := (getHome s home).queue.filter (·.line == line)
    let s := setEntry (poisonLine s line) home line false 0
    let s := modHome s home fun x => { x with
      txns := x.txns.filter fun y => y.line != line
      queue := x.queue.filter fun y => y.line != line }
    let s : State := { s with coh := { s.coh with
      probes := s.coh.probes.map fun m => if m.home = home ∧ m.line = line then { m with late := true } else m
      resps := s.coh.resps.map fun m => if m.home = home ∧ m.line = line then { m with late := true } else m } }
    let s := behind.foldl answerPoison (if t.evict then s else answerPoison s t.req)
    let s := fsat (fput s home 0 Fl.COH_ERR_STATUS_TIMEOUT 1) home 0 Fl.COH_ERR_COUNT_TIMEOUTS 1
    let s := fput s home 0 Fl.COH_LAST_TIMEOUT_WAITED_ON unit
    let s := fput s home 0 Fl.COH_LAST_TIMEOUT_LINE (line / 64)
    let s := fput s home 0 Fl.COH_LAST_TIMEOUT_REQUEST code
    let s := raise s 0x0501 2 (cohUnit home) 0 (BitVec.ofNat 128 (line + code * 2 ^ 64 + unit * 2 ^ 80))
    if t.evict then serveNext (serveReq s home t.req) home t.req.line else showHome s home

def execHomeTimeout (home line : Nat) (s : State) : Host.Outcome State Fault Refusal := .next (doHomeTimeout home line s)

/-! ### Running a request to its end -/

/-- The lines whose messages a request on a line may wait for: its own and those of evictions that make way for it. -/
def linesFor (s : State) (h line : Nat) : List Nat :=
  line :: ((getHome s h).txns.filter fun t => t.evict && t.req.line == line).map (·.line)

/-- Deliver the probes and answers that a request waits for, one after another, while any can be. -/
def settleReq : Nat → State → Nat → Nat → State
  | 0, s, _, _ => s
  | n + 1, s, h, line =>
    let ls := linesFor s h line
    let free (p : ProbeMsg) : Bool := !s.coh.data.any fun m => m.holder == p.holder && m.line == p.line && !m.poison
    match s.coh.probes.find? fun p => p.home == h && ls.contains p.line && free p with
    | some p => settleReq n (doProbe p.holder p.line s) h line
    | none => match s.coh.resps.find? fun m => m.home == h && ls.contains m.line && nextResp s h m.line m.holder (· == m.kind) == some m with
      | some m => settleReq n (showHome (takeResp s m) h) h line
      | none => s

end Sys2Proof.Machine
end

