-- ==== Sys2Proof/Machine/CoreMem.lean ====
section
/-! DEFINITION. A host core's Normal accesses: misses, store buffer, combining buffer, barriers, and the errors that a core
takes (R317 to R334). -/

namespace Sys2Proof.Machine

/-- The unit ID of a core (R317). -/
def coreUnit (d c : Nat) : Nat := unitId d 1 c

/-! ### Errors (R334) -/

def kBusLoad : Nat := 1
def kBusStore : Nat := 2
def kPoison : Nat := 3
def kFarTimeout : Nat := 4

/-- Write the error registers of a core. -/
def coreErr (s : State) (d c kind addr : Nat) : State :=
  let s := fput s d c Fl.CORE_ERR_ADDR_ADDR addr
  fsat (fput s d c Fl.CORE_ERR_INFO_KIND kind) d c Fl.CORE_ERR_INFO_COUNT 1

/-- A load ends in an error: a bus error, or a machine check for poison. -/
def loadError (s : State) (d c kind addr : Nat) : State :=
  modCore (coreErr s d c kind addr) d c fun x => { x with
    result := .error
    taken := if kind = kPoison then .machineCheck else .busErrorLoad }

/-- A store ends in an error response, which a later barrier takes; a store that needs a poisoned line is a machine check. -/
def storeErr (s : State) (d c kind addr : Nat) : State :=
  if kind = kPoison then modCore (coreErr s d c kind addr) d c fun x => { x with taken := .machineCheck }
  else modCore (coreErr s d c kind addr) d c fun x => { x with storeError := some addr }

/-- What answers a Normal access before it is performed: the kind of its error, if it has one (R24, R334, R359). -/
def normalRefusal (s : State) (isLoad : Bool) (pa : Nat) : Option Nat :=
  match paKind s pa with
  | .ddr => none
  | .hbm _ => if accepts s pa then none else some (if isLoad then kBusLoad else kBusStore)
  | .far => if farUp s pa then none else some kFarTimeout
  | _ => some (if isLoad then kBusLoad else kBusStore)

/-! ### Lines (R343, R346, R350) -/

/-- How an attempt to hold a line ended. -/
inductive Held where
  | held
  | wait
  | poison
  deriving DecidableEq, Repr

/-- Take a line or a grant that has reached its requester: E drops every other copy of the die, a grant keeps the data of
the copy in S (R343, R346, R350). -/
def installLine (s : State) (d c : Nat) (m : DataMsg) : State :=
  let data := match m.data, l2Find s d c m.line with
    | [], some x => x.data
    | [], none => memReadN s.mem m.line 64
    | b :: r, _ => b :: r
  let s := if m.st = .e then mapHolder s (holderOf d) m.line (fun _ => none) else s
  putL2 s d c ⟨m.line, m.st, data⟩

/-- The line or grant that is on its way to a core. -/
def dataFor (s : State) (d c line : Nat) : Option DataMsg :=
  s.coh.data.find? fun m => m.holder == holderOf d && m.unit == coreUnit d c && m.line == line

/-- Receive what a home sent. -/
def takeData (s : State) (d c : Nat) (m : DataMsg) : Held × State :=
  let s : State := { s with coh := { s.coh with data := s.coh.data.erase m } }
  if m.poison then (.poison, s) else (.held, installLine s d c m)

/-- A clean copy of the die's L3 slice fills an L2; a copy in E passes to the L2 (R343). -/
def l3Fill (s : State) (d c line : Nat) (own : Bool) : Option State :=
  match (smGetD s.coh.l3 [] d).find? (·.line == line) with
  | none => none
  | some x =>
    if x.st = .m ∨ (own ∧ x.st = .s) then none
    else
      let l3 := if x.st = .e then (smGetD s.coh.l3 [] d).filter (·.line != line) else smGetD s.coh.l3 [] d
      some (putL2 { s with coh := { s.coh with l3 := smPut s.coh.l3 d l3 } } d c x)

/-- Hold a line, for a store in a state that permits it. A miss sends its request and waits where the line is occupied at
its home or an answer cannot come yet. -/
def acquire (s : State) (d c line : Nat) (own : Bool) : Held × State :=
  let have_ := l2Find s d c line
  if have_.any fun x => !own || x.st != .s then (.held, s)
  else match l3Fill s d c line own with
    | some t => (.held, t)
    | none =>
      if (getCore s d c).misses.any (·.line == line) then (.wait, s)
      else
        let code := if !own then cRdShared else if have_.isSome then cUpgrade else cRdOwn
        let h := homeOf s line
        let s := settleReq 64 (arriveReq s h (bareReq code line (holderOf d) (coreUnit d c) .none)) h line
        match dataFor s d c line with
        | some m => takeData s d c m
        | none => (.wait, s)

/-! ### Stores (R326, R327, R333) -/

/-- Bytes of an access within one line. -/
def clip (a : Nat) (bs : List Byte) : List Byte := bs.take (64 - a % 64)

def overwrite (old : List Byte) (off : Nat) (new : List Byte) : List Byte :=
  old.take off ++ new ++ old.drop (off + new.length)

/-- The mask of `n` bytes from byte `off` of a line. -/
def spanMask (off n : Nat) : BitVec 64 := BitVec.ofNat 64 ((2 ^ n - 1) * 2 ^ off)

/-- A load of the core has not bound its value. -/
def loadsOut (x : Core) : Bool := (x.misses.any fun m => !m.isStore) || !x.waiting.isEmpty

/-- A load of the core waits for a device that is to answer with a line. -/
def lineWaits (x : Core) (line : Nat) : Bool := x.waiting.any fun w => lineOf w.addr == line

/-- A store that depends on a load waits for it, unless its line is on its way already (R327, R350), and one behind a load of its
line waits for that (R325). -/
def storeHeld (x : Core) (b : BufStore) : Bool :=
  b.dependent && loadsOut x && !(x.misses.any fun m => m.isStore && m.line == lineOf b.addr) || lineWaits x (lineOf b.addr)

/-- The kind of error with which a line that gives no data answers (R334). -/
def lineError (s : State) (line : Nat) : Nat := if farDown s line then kFarTimeout else kPoison

/-- Write bytes into a line that the core holds: it becomes M. -/
def writeL2 (s : State) (d c a : Nat) (bs : List Byte) : State :=
  match l2Find s d c (lineOf a) with
  | none => s
  | some x => fillL1 (putL2 s d c ⟨lineOf a, .m, overwrite x.data (a % 64) bs⟩) d c (lineOf a) false

def missStore (s : State) (d c : Nat) (b : BufStore) : State :=
  modCore s d c fun x =>
    if x.misses.any (·.line == lineOf b.addr) then x
    else { x with misses := x.misses ++ [⟨lineOf b.addr, b.addr, b.bytes.length, true, 0, b.bytes⟩] }

/-- Perform one buffered store: it becomes visible to every agent at one moment (R326). Answers whether it has left the
buffer. -/
def performStore (s : State) (d c : Nat) (b : BufStore) : Bool × State :=
  match normalRefusal s false b.addr with
  | some k => (true, storeErr s d c k b.addr)
  | none => match acquire s d c (lineOf b.addr) true with
    | (.held, s) => (true, writeL2 s d c b.addr b.bytes)
    | (.poison, s) => (true, storeErr s d c (lineError s (lineOf b.addr)) b.addr)
    | (.wait, s) => (false, missStore s d c b)

/-- Perform the buffered stores that `p` selects, oldest first. A store that waits keeps its place, and later stores to its
line stay behind it. -/
def drainList (p : BufStore → Bool) : List BufStore → State → Nat → Nat → List BufStore × State
  | [], s, _, _ => ([], s)
  | b :: r, s, d, c =>
    if !p b then
      let q := drainList (fun x => p x && lineOf x.addr != lineOf b.addr) r s d c
      (b :: q.1, q.2)
    else
      let w := performStore s d c b
      if w.1 then drainList p r w.2 d c
      else
        let q := drainList (fun x => p x && lineOf x.addr != lineOf b.addr) r w.2 d c
        (b :: q.1, q.2)

def drainStores (s : State) (d c : Nat) (p : BufStore → Bool) : State :=
  let x := getCore s d c
  let q := drainList (fun b => p b && !storeHeld x b) x.stores s d c
  modCore q.2 d c fun x => { x with stores := q.1 }

/-- The stores of the core that wait for no load have retired. -/
def retireStores (s : State) (d c : Nat) : State :=
  modCore s d c fun x => { x with stores := x.stores.map fun b => { b with retired := b.retired || !storeHeld x b } }

/-! ### Loads (R325, R326, R332) -/

/-- The bytes of a line that the core's own buffers hold, by mask. -/
def ownBytes (x : Core) (line : Nat) : BitVec 64 × List Byte :=
  let z : BitVec 64 × List Byte := match x.stnt.find? (·.line == line) with
    | some l => (l.mask, l.data)
    | none => (0, List.replicate 64 0)
  x.stores.foldl (fun o b =>
    if lineOf b.addr = line then (o.1 ||| spanMask (b.addr % 64) b.bytes.length, overwrite o.2 (b.addr % 64) b.bytes) else o) z

/-- Bind a load's value from a line. -/
def bindLoad (s : State) (d c a n : Nat) (line : List Byte) : State :=
  modCore s d c fun x => { x with result := .value (BitVec.ofNat 64 (leNat ((line.drop (a % 64)).take n))) }

/-- Bind a load from a line that the core holds, under the bytes that its buffers held when it was issued. -/
def bindLine (s : State) (d c a n : Nat) (own : BitVec 64 × List Byte) : State :=
  match l2Find s d c (lineOf a) with
  | some x => bindLoad (fillL1 s d c (lineOf a) false) d c a n (mergeMask x.data own.2 own.1)
  | none => s

/-- A load that its core's buffers do not cover is performed when its line is held. -/
def lineLoad (s : State) (d c a n : Nat) (own : BitVec 64 × List Byte) : State :=
  match acquire s d c (lineOf a) false with
  | (.held, s) => bindLine s d c a n own
  | (.poison, s) => loadError s d c (lineError s (lineOf a)) a
  | (.wait, s) => modCore s d c fun x => { x with misses := x.misses ++ [⟨lineOf a, a, n, false, own.1, own.2⟩] }

/-- A Normal load of `n` bytes within a line. One whose bytes all stand in the core's own buffers takes them, wherever its
address lies (log 147). A read of a CXL device is answered at once or later, as a free choice; one behind a load of its line that waits
so waits too, and one behind a store of its line that is on its way does not (R325). -/
def normalLoad (s : State) (d c a n : Nat) : State :=
  let own := ownBytes (getCore s d c) (lineOf a)
  if spanMask (a % 64) n &&& ~~~own.1 = 0 then bindLoad s d c a n own.2
  else match normalRefusal s true a with
    | some k => loadError s d c k a
    | none =>
      let x := getCore s d c
      let w := if paKind s a = .far ∧ (l2Find s d c (lineOf a)).isNone ∧ !(x.stores.any fun b => lineOf b.addr == lineOf a) then
        drawBelow s 2 else (1, s)
      if w.1 = 0 ∨ lineWaits x (lineOf a) then modCore w.2 d c fun x => { x with waiting := x.waiting ++ [⟨a, n, own.1, own.2⟩] }
      else lineLoad w.2 d c a n own

/-- The stores of a line that is to be written, and with them every store before them, have retired (R333). -/
def retireFor (s : State) (d c line : Nat) : State :=
  modCore s d c fun x =>
    let n := (x.stores.reverse.dropWhile fun b => lineOf b.addr != line || storeHeld x b).length
    { x with stores := (x.stores.take n).map (fun b => { b with retired := true }) ++ x.stores.drop n }

/-- What DATA_RESPONSE does at a core or a link cache (R350): the line is installed, and the access that caused the request
completes before a probe is answered. -/
def deliver (s : State) (d c line : Nat) : State :=
  if d < 18 then
    match dataFor s d c line with
    | none => s
    | some m =>
      let mine := (getCore s d c).misses.filter (·.line == line)
      let w := takeData s d c m
      let s := modCore w.2 d c fun x => { x with misses := x.misses.filter (·.line != line) }
      let one (s : State) (k : CoreMiss) : State :=
        if k.isStore then s else if w.1 = .poison then loadError s d c (lineError s line) k.addr else bindLine s d c k.addr k.size (k.mask, k.bytes)
      let s := mine.foldl one s
      if w.1 = .poison then
        let p (b : BufStore) : Bool := lineOf b.addr == line
        let bad := (getCore s d c).stores.filter p
        if bad.isEmpty then s
        else storeErr (modCore s d c fun x => { x with stores := x.stores.filter fun b => !p b }) d c (lineError s line) line
      else if m.st = .s then s
      else drainStores (retireFor s d c line) d c fun b => lineOf b.addr == line
  else
    match s.coh.data.find? fun m => m.holder == holderOf d && m.line == line with
    | none => s
    | some m =>
      let s : State := { s with coh := { s.coh with data := s.coh.data.erase m } }
      if m.poison then s else putLink s d ⟨line, m.st, m.data⟩

/-! ### Requests of agents that hold no lines (R253, R343, R346 to R349, R355) -/

/-- The writeback of another line behind which an answer about one of the lines waits (R347). -/
def blockingWb (s : State) (h : Nat) (ls : List Nat) : Option RespMsg :=
  (s.coh.resps.find? fun m => m.home == h && ls.contains m.line).bind fun m =>
    s.coh.resps.find? fun y => y.home == h && y.holder == m.holder && isWb y.kind

/-- The messages about a line and about what makes way for it are delivered, and what waits for them is served, until none is
left that can be delivered. An agent's own request for the line comes after them (log 159). -/
def settleLine : Nat → State → Nat → State
  | 0, s, _ => s
  | n + 1, s, line =>
    let h := homeOf s line
    let ls := linesFor s h line
    let ready (p : ProbeMsg) : Bool := !s.coh.data.any fun m => m.holder == p.holder && m.line == p.line && !m.poison
    match s.coh.probes.find? fun p => p.home == h && ls.contains p.line && ready p with
    | some p => settleLine n (doProbe p.holder p.line s) line
    | none => match s.coh.resps.find? fun m => m.home == h && ls.contains m.line && nextResp s h m.line m.holder (· == m.kind) == some m with
      | some m => settleLine n (showHome (takeResp s m) h) line
      | none => match s.coh.data.find? fun m => ls.contains m.line with
        | some m => settleLine n (if m.holder < 2 then deliver s (m.unit / 2048) (m.unit % 256) m.line
            else deliver s (holderDie m.holder) 0 m.line) line
        | none => match blockingWb s h ls with
          | some m => settleLine n (showHome (takeResp s m) h) line
          | none => s

/-- A request of an agent of the device, carried out at its line's home after everything that came before it. Answers
whether it met poison. -/
def ncReq (s : State) (r : CohReq) : Bool × State :=
  let s := settleLine 256 s r.line
  let t := settleLine 256 (arriveReq s (homeOf s r.line) r) r.line
  match t.coh.returned with
  | m :: l => if s.coh.returned.length < t.coh.returned.length ∧ m.2.1 = r.line then
      (m.2.2.1, { t with coh := { t.coh with returned := l } }) else (false, t)
  | [] => (false, t)

/-- A hub's link cache serves a read of a line that is homed elsewhere (R343). -/
def linkServes (s : State) (hub line : Nat) : Bool :=
  homeOf s line != hub && (smGetD s.coh.link [] hub).any fun x => x.line == line

/-- A read of one line by an agent of a hub, or of none. -/
def ncReadLine (hub : Nat) (s : State) (line : Nat) : State :=
  if linkServes s hub line then s else (ncReq s (bareReq cRdNc line 6 0 .none)).2

/-- Read physical memory as a non-caching agent does: from the homes, or from the link cache of the agent's hub. -/
def ncRead (s : State) (a n : Nat) (hub : Nat := 0) : List Byte × State :=
  let t := (linesOf a n).foldl (ncReadLine hub) s
  (memReadN t.mem a n, t)

/-- A read that meets poison has no data (R357). -/
def ncFetch (s : State) (a n : Nat) (hub : Nat := 0) : Option (List Byte) × State :=
  let q := ncRead s a n hub
  (if rangePoison q.2 a n then none else some q.1, q.2)

/-- Bytes of a line as a request carries them: mask and data. -/
def lineBytes (a : Nat) (bs : List Byte) : BitVec 64 × List Byte :=
  (spanMask (a % 64) bs.length, overwrite (List.replicate 64 0) (a % 64) bs)

/-- Write a whole line or a part of one (WR_FULL, WR_PART). A partial write leaves a poisoned line poisoned (R357). Answers
whether poison was met. -/
def ncWrite1 (s : State) (a : Nat) (bs : List Byte) : Bool × State :=
  let w := lineBytes a bs
  ncReq s { bareReq (if bs.length = 64 then cWrFull else cWrPart) (lineOf a) 6 0 .none with mask := w.1, data := w.2 }

/-- A write that may span lines; every line is one indivisible write (R253). -/
def ncWrite (s : State) (a : Nat) (bs : List Byte) : Bool × State :=
  (cutLines (bs.length + 1) a bs).foldl (fun (p : Bool × State) c =>
    let q := ncWrite1 p.2 c.1 c.2
    (p.1 || q.1, q.2)) (false, s)

/-- RMW_HOME: a read, a change and a write of one line that nothing divides (R105, R301, R346). Answers what the line held, or
that it gives no data. -/
def ncRmw (s : State) (line : Nat) (f : List Byte → List Byte) : Option (List Byte) × State :=
  let zero := List.replicate 64 0
  let q := ncReq s { bareReq cRmwHome line 6 0 .none with clear := zero, data := zero }
  let old := memReadN q.2.mem line 64
  if q.1 then (none, q.2) else (some old, memPut q.2 line (f old))

/-- Write a record in its line, with a stash target or none; a poisoned line is written whole, with 0 beside the record
(R355, R545). -/
def recPut (s : State) (a : Nat) (bs : List Byte) (target : Nat) : Bool × State :=
  let w := lineBytes a bs
  ncReq s { bareReq (if target = 0 then cWrFull else cWrStash) (lineOf a) 6 0 .none with target := target, mask := w.1, data := w.2 }

/-! ### The combining buffer (R331, R332) -/

/-- A combining-buffer line leaves as one indivisible write of its written bytes; it bypasses the caches. A write of the whole
line clears poison; a partial one meets it as an error of the store (R357). -/
def leaveNt (s : State) (d c : Nat) (l : NtLine) : State :=
  let s := modCore s d c fun x => { x with stnt := x.stnt.filter fun y => y.line != l.line }
  match normalRefusal s false l.line with
  | some k => storeErr s d c k l.line
  | none =>
    let code := if l.mask = BitVec.allOnes 64 then cWrFull else cWrPart
    let q := ncReq s { bareReq code l.line 6 (coreUnit d c) .none with mask := l.mask, data := l.data }
    if q.1 then storeErr q.2 d c (lineError q.2 l.line) l.line else q.2

/-- Whether a write of a core that left its combining buffer is open at its home (R328). -/
def ntOpen (s : State) (d c : Nat) : Bool :=
  let mine (r : CohReq) : Bool := r.unit == coreUnit d c && decide (cWrFull ≤ r.code)
  s.coh.homes.any fun h => (h.2.txns.any fun t => mine t.req) || h.2.queue.any mine || h.2.retry.any mine || h.2.held.any mine

/-- What the homes have answered to such writes since: an error is one of the store (R334, R357). -/
def takeNt (s : State) (d c : Nat) : State :=
  let mine (m : Nat × Nat × Bool × List Byte) : Bool := m.1 == coreUnit d c && m.2.2.2.isEmpty
  let l := s.coh.returned.filter mine
  l.foldl (fun s m => if m.2.2.1 then storeErr s d c (lineError s m.2.1) m.2.1 else s)
    { s with coh := { s.coh with returned := s.coh.returned.filter fun m => !mine m } }

/-- The whole combining buffer drains, oldest line first. -/
def drainNt (s : State) (d c : Nat) : State := (getCore s d c).stnt.foldl (fun s l => leaveNt s d c l) s

/-- The combining-buffer entry of a line leaves, if there is one. -/
def leaveLine (s : State) (d c line : Nat) : State :=
  match (getCore s d c).stnt.find? (·.line == line) with
  | some l => leaveNt s d c l
  | none => s

/-- Merge bytes of an STNT into its line's entry. -/
def ntAdd (l : NtLine) (off : Nat) (bs : List Byte) : NtLine :=
  { l with data := overwrite l.data off bs, mask := l.mask ||| spanMask off bs.length }

/-! ### Stores enter the buffers -/

/-- Whether an access depends on a load of the core that is not bound: a free choice while there is one (R327). -/
def dependsOn (s : State) (d c : Nat) : Bool × State :=
  if loadsOut (getCore s d c) then ((drawBelow s 2).1 == 1, (drawBelow s 2).2) else (false, s)

/-- STORE to a Normal address: a combining-buffer entry of its line leaves first, and the store enters the buffer. Whether it
has retired, with those before it, and whether it depends on a load that is not bound are free (logs 133, 160). -/
def normalStore (s : State) (d c a n : Nat) (v : BitVec 64) : State :=
  let s := leaveLine s d c (lineOf a)
  let w := dependsOn s d c
  let dep := w.1
  let w := drawBelow w.2 2
  let x := getCore w.2 d c
  let r := decide (w.1 = 1) && !dep && !(x.stores.any (storeHeld x))
  modCore w.2 d c fun x => { x with
    stores := (x.stores.map fun b => { b with retired := b.retired || r }) ++ [⟨a, clip a (leBytes n v.toNat), r, dep⟩] }

/-- Every store before an access that is never speculative can retire (R319, R333). -/
def mayRetire (s : State) (d c : Nat) : Bool := !(getCore s d c).stores.any (storeHeld (getCore s d c))

/-- STNT to a Normal address. Stores before it retire, and those of its line are performed first; it waits for them, for the
loads of its line, and for a load on which it depends, which is free as a store's is (R327, log 160). Answers whether it has
entered the buffer. -/
def normalStnt (s : State) (d c a n : Nat) (v : BitVec 64) : Bool × State :=
  let line := lineOf a
  let bs := clip a (leBytes n v.toNat)
  let s := if mayRetire s d c then drainStores (retireStores s d c) d c fun b => lineOf b.addr == line else s
  let w := dependsOn s d c
  let s := w.2
  let x := getCore s d c
  if w.1 ∨ !mayRetire s d c ∨ (x.stores.any fun b => lineOf b.addr == line) ∨ (x.misses.any (·.line == line)) ∨ lineWaits x line then
    (false, s)
  else
    let s := match x.stnt.find? (·.line == line), x.stnt with
      | none, old :: _ => if 16 ≤ x.stnt.length then leaveNt s d c old else s
      | _, _ => s
    let x := getCore s d c
    let l := ntAdd ((x.stnt.find? (·.line == line)).getD ⟨line, 0, List.replicate 64 0⟩) (a % 64) bs
    let put := if x.stnt.any (·.line == line) then x.stnt.map fun y => if y.line = line then l else y else x.stnt ++ [l]
    let s := putCore s d c { x with stnt := put }
    (true, if l.mask = BitVec.allOnes 64 then leaveNt s d c l else s)

/-! ### Barriers, exceptions, errors -/

/-- Take the error response of a store at a barrier (R334). -/
def takeStoreError (s : State) (d c : Nat) : State :=
  modCore s d c fun x => if x.storeError.isSome then { x with storeError := none, taken := .busErrorStore } else x

/-- What ORD.S and ORD.LS drain: every store and the combining buffer (R328). -/
def drainAll (s : State) (d c : Nat) : State := takeNt (drainNt (drainStores (retireStores s d c) d c fun _ => true) d c) d c

/-- A store of the core is not visible yet. -/
def storesOut (s : State) (d c : Nat) : Bool :=
  !((getCore s d c).stores.isEmpty && (getCore s d c).stnt.isEmpty) || ntOpen s d c

/-- EXCEPTION_ENTRY: speculative stores are discarded, retired stores are kept, and no barrier is implied (R333). -/
def doExceptionEntry (d c : Nat) (s : State) : State :=
  modCore s d c fun x => { x with stores := x.stores.filter (·.retired), exceptions := x.exceptions + 1 }

def execExceptionEntry (die core : Nat) (s : State) : Host.Outcome State Fault Refusal := .next (doExceptionEntry die core s)

/-- STORE_ERROR_TIMEOUT: the error response becomes an asynchronous machine check (R334). -/
def doStoreErrorTimeout (d c : Nat) (s : State) : State :=
  modCore s d c fun x => if x.storeError.isSome then { x with storeError := none, taken := .machineCheckAsync } else x

def execStoreErrorTimeout (die core : Nat) (s : State) : Host.Outcome State Fault Refusal := .next (doStoreErrorTimeout die core s)

/-- 64 free bytes. -/
def freeBytes (s : State) : List Byte × State :=
  (List.range 8).foldl (fun (q : List Byte × State) _ =>
    let w := draw q.2
    (q.1 ++ leBytes 8 w.1.toNat, w.2)) ([], s)

/-- Write free values over a line (R334). -/
def freeLine (s : State) (line : Nat) : State :=
  let w := freeBytes s
  (ncWrite1 w.2 line w.1).2

/-- FAR_TIMEOUT: the oldest far read that waits for its device ends in an error, else one that waits for its home, else the oldest
far store; the target line of a write that times out is undefined (R334). -/
def doCoreFarTimeout (d c : Nat) (s : State) : State :=
  let x := getCore s d c
  match x.waiting.find? (fun w => paKind s w.addr == .far), x.misses.find? fun m => !m.isStore && paKind s m.addr == .far with
  | some w, _ => loadError (modCore s d c fun x => { x with waiting := x.waiting.erase w }) d c kFarTimeout w.addr
  | none, some m => loadError (modCore s d c fun x => { x with misses := x.misses.erase m }) d c kFarTimeout m.addr
  | none, none => match x.stores.find? fun b => paKind s b.addr == .far with
    | none => s
    | some b =>
      let s := modCore s d c fun x => { x with
        stores := x.stores.erase b, misses := x.misses.filter fun m => !(m.isStore && m.line == lineOf b.addr) }
      storeErr (freeLine s (lineOf b.addr)) d c kFarTimeout b.addr

def execFarTimeout (die core : Nat) (s : State) : Host.Outcome State Fault Refusal := .next (doCoreFarTimeout die core s)

/-! ### A core's caches and buffers are emptied -/

/-- Empty a core's caches, every modified line written back to memory (R323, R480). -/
def flushCore (s : State) (d c : Nat) : State :=
  let f (s : State) (x : CacheLine) : State :=
    if x.st = .m then
      let h := homeOf s x.line
      let s := wbPut s h x.line x.data
      modHome s h fun y => if openOn y x.line then y else dirSet y x.line false 0
    else s
  modCore ((getCore s d c).l2.foldl f s) d c fun x => { x with l1i := [], l1d := [], l2 := [] }

/-- Perform what is left in a core's buffers with writes at the homes, which nothing holds up (R323, R408). -/
def forceDrain (s : State) (d c : Nat) : State :=
  let s := drainAll s d c
  let f (s : State) (b : BufStore) : State := match normalRefusal s false b.addr with
    | some k => storeErr s d c k b.addr
    | none =>
      let w := ncWrite1 s b.addr b.bytes
      if w.1 then storeErr w.2 d c kPoison b.addr else w.2
  modCore ((getCore s d c).stores.foldl f s) d c fun x => { x with stores := [], misses := [] }

end Sys2Proof.Machine
end

