-- ==== Sys2Proof/Machine/Records.lean ====
section
/-! DEFINITION. Reads and writes of physical memory by the agents of the device that hold no lines, and the records that they
write: trace, event and completion records (R13, R14, R283, R288, R346, R355, R523, R545). -/

namespace Sys2Proof.Machine

/-- Write a record in its line. -/
def recWrite (s : State) (a : Nat) (bs : List Byte) : State := (recPut s a bs 0).2

/-- Write a record of a queue front end or of the walker: a stash write to the target that COH_STASH_RECORDS of the
writer's own die names (R355). -/
def recStash (s : State) (die a : Nat) (bs : List Byte) : State := (recPut s a bs (fget s die 0 Fl.COH_STASH_RECORDS_TARGET)).2

/-- Write a trace record when tracing is on; the record that fills the ring stops it (R523). -/
def traceRec (s : State) (e : Event) : State :=
  if fget s 24 0 Fl.SEC_STATUS_DEBUG_LEVEL = 0 ∨ fget s 24 0 Fl.DBG_CTL_TRACE_EN = 0 ∨ fget s 24 0 Fl.DBG_TRACE_STOPPED = 1 then s
  else
    let n := s.evt.traceN
    let s := recWrite s (fget s 24 0 Fl.DBG_TRACE_BASE * 4096 + n * 32) (eventBytes e)
    let s : State := { s with evt := { s.evt with traceN := n + 1 } }
    if n + 1 = 2 ^ (fget s 24 0 Fl.DBG_TRACE_SIZE_LOG2 + 12) then fput s 24 0 Fl.DBG_TRACE_STOPPED 1 else s

/-- The trace record of a launch's start or end, or of a rewind: code 0 with the handle (R523). -/
def traceLaunch (s : State) (ctx seq src : Nat) : State :=
  traceRec s ⟨s.time.toNat, 0, 0, src, ctx, BitVec.ofNat 128 (ctx * 2 ^ 48 + seq % 2 ^ 48)⟩

/-- A context's event ring has no free slot. -/
def eventRingFull (s : State) (c : Nat) : Bool :=
  let x := getCtx s c
  decide (ringSize x.evtRing ≤ (x.evtTail + 2 ^ 32 - x.evtHead) % 2 ^ 32)

/-- What refuses an access of a context's queue front end to its rings: a hole, or another partition's memory (R21, R25). -/
def ringRefusal (s : State) (c a : Nat) : Option Nat := accelRefusal s (ctxPart s c) a

/-- Write an event to a context's event ring (R288): dropped and counted when the ring is full, or
is no longer in memory (log 179); with EVT_IRQ the vector
is sent when the ring goes from empty to non-empty (R289). -/
def ctxEvent (s : State) (c code sev : Nat) (detail : BitVec 128) : State :=
  let x := getCtx s c
  let size := ringSize x.evtRing
  if eventRingFull s c || (ringRefusal s c (ringBase x.evtRing)).isSome then
    let n := min (fldOf Fl.QFE_CTX_STATE_EVT_DROPPED x.state + 1) 0xFFFF
    putCtx s c { x with state := fldSet Fl.QFE_CTX_STATE_EVT_DROPPED x.state n }
  else
    let e : Event := ⟨s.time.toNat, code, sev, unitId (ctxHub c) 0 1, c, detail⟩
    let t := recStash s (ctxHub c) (ringBase x.evtRing + x.evtTail % size * 32) (eventBytes e)
    let t := putCtx t c { x with evtTail := (x.evtTail + 1) % 2 ^ 32 }
    if fldOf Fl.QFE_CTX_ATTR_EVT_IRQ x.attr = 1 ∧ x.evtTail = x.evtHead then
      sendIrq t (fldOf Fl.QFE_CTX_ATTR_IRQ_VECTOR x.attr)
    else t

/-- Write the completion record of a command. One that has no memory to go to ends with the status of R25, which an event
of the context reports (log 179). -/
def cplRecord (s : State) (c : Nat) (x : Ctx) (b : List Byte) : State :=
  match ringRefusal s c (ringBase x.cplRing) with
  | some st => ctxEvent s c st 2 (BitVec.ofNat 128 x.cplTail)
  | none => recStash s (ctxHub c) (ringBase x.cplRing + x.cplTail % ringSize x.cplRing * 32) b

/-- End a command: write its completion record after its writes, and send its interrupt (R281, R283, R289). -/
def complete (s : State) (c seq status : Nat) (detail : BitVec 64) : State :=
  match getCmd s c seq with
  | none => s
  | some k =>
    let x := getCtx s c
    let flags := b2n (k.desc.flags.getLsbD 0) + 4 * b2n k.events
    let t := cplRecord s c x (completionBytes (handleOf c seq) status flags s.time.toNat detail)
    let t := modCtx t c fun y => settleCtx { y with cplTail := (y.cplTail + 1) % 2 ^ 32, cmds := y.cmds.filter fun k => k.seq != seq }
    if k.desc.flags.getLsbD 0 then sendIrq t (fldOf Fl.QFE_CTX_ATTR_IRQ_VECTOR x.attr) else t

end Sys2Proof.Machine
end

