-- ==== Sys2Proof/Machine/Tokens.lean ====
section
/-! DEFINITION. Streams of words and their loops, token units, SIGNAL and WAIT on local and remote counters (R137 to
R144, R179, R190, R446, R447). -/

namespace Sys2Proof.Machine

/-! ### Positions in a stream -/

/-- Where a stream goes after the word at `p`: loops whose body ends there step their cursor, and repeat or end (R190). -/
def loopEnd : Nat → List LoopSt → List Int → Nat × List LoopSt × List Int
  | p, [], cs => (p + 1, [], cs)
  | p, l :: r, cs =>
    if p = l.last then
      let cs := if l.stepEn then cs.set l.cursor (cs.getD l.cursor 0 + l.step) else cs
      if 1 < l.left then (l.first, { l with left := l.left - 1 } :: r, cs) else loopEnd p r cs
    else (p + 1, l :: r, cs)

/-- Pass the current word of a slot. -/
def Slot.advance (x : Slot) : Slot :=
  let n := loopEnd x.pos x.loops x.cursors
  { x with pos := n.1, loops := n.2.1, cursors := n.2.2, hold := .run }

/-- Pass the current word of a stream. -/
def Stream.advance (x : Stream) : Stream :=
  let n := loopEnd x.pos x.loops x.cursors
  { x with pos := n.1, loops := n.2.1, cursors := n.2.2, hold := .run }

/-- A stream issues no further word while its oldest move is stalled or replays (R222). -/
def Stream.blocked (x : Stream) : Bool := x.window.any fun m => m.stalled || m.replay

/-- Change the slot or stream that an agent runs. -/
def modAgent (s : State) (a : Agent) (f : Slot → Slot) (g : Stream → Stream) : State :=
  match a with
  | .engine d e =>
    match slotOf s d e with
    | some (l, i, _) => modSlot s l.ctx l.seq i f
    | none => s
  | .stream h x c =>
    match streamOf s h x c with
    | some (l, i, _) => modStream s l.ctx l.seq i g
    | none => s

def advanceAgent (s : State) (a : Agent) : State := modAgent s a Slot.advance Stream.advance
/-- An agent passes its WAIT for a value, which is satisfied. -/
def passWait (s : State) (a : Agent) (value : Nat) : State := advanceAgent (acquireWait s a value) a

def holdAgent (s : State) (a : Agent) (h : Hold) : State :=
  modAgent s a (fun x => { x with hold := h }) (fun x => { x with hold := h })

/-- The launch an agent runs, its slot or stream number, whether it is a stream, and its hold. -/
def agentAt (s : State) (a : Agent) : Option (Launch × Nat × Bool × Hold) :=
  match a with
  | .engine d e => (slotOf s d e).map fun x => (x.1, x.2.1, false, x.2.2.hold)
  | .stream h f c => (streamOf s h f c).map fun x => (x.1, x.2.1, true, x.2.2.hold)

/-- The control word that an agent executes next, with its cursors: its launch runs and nothing holds it. -/
def readyOp (s : State) (a : Agent) : Option (Launch × Nat × Op × List Int) :=
  match a with
  | .engine d e =>
    match slotOf s d e with
    | some (l, i, x) =>
      if l.phase = .running ∧ x.hold = .run ∧ !x.finished then (x.ops[x.pos]?).map fun o => (l, i, o, x.cursors) else none
    | none => none
  | .stream h f c =>
    match streamOf s h f c with
    | some (l, i, x) =>
      if l.phase = .running ∧ x.hold = .run ∧ !x.finished ∧ x.reissue.isEmpty ∧ !x.blocked then
        match x.words[x.pos]? with
        | some (.ctl o) => some (l, i, o, x.cursors)
        | _ => none
      else none
    | none => none

/-! ### Token units -/

def TokUnit.fresh : TokUnit := ⟨[], [], []⟩
def getTok (s : State) (md : Nat) : TokUnit := smGetD s.tok TokUnit.fresh md
def putTok (s : State) (md : Nat) (x : TokUnit) : State :=
  let s := { s with tok := smPut s.tok md x }
  fput s md 0 Fl.TOK_PENDING_COUNT x.waits.length

/-- A token's detail (R141, R142). -/
def tokenDetail (tok src : Nat) (finder : Bool) : BitVec 64 := BitVec.ofNat 64 (tok * 2 ^ 16 + b2n finder * 256 + src % 256)

/-- Record an error of a token unit (TOK_ERR_STATUS, TOK_ERR_COUNT, TOK_LAST_ERROR). -/
def tokError (s : State) (md ctx tok src : Nat) (finder timeout : Bool) : State :=
  let s := fput s md 0 (if timeout then Fl.TOK_ERR_STATUS_WAIT_TIMEOUT else Fl.TOK_ERR_STATUS_OVERFLOW) 1
  let s := fsat s md 0 (if timeout then Fl.TOK_ERR_COUNT_WAIT_TIMEOUT else Fl.TOK_ERR_COUNT_OVERFLOW) 1
  let s := fput s md 0 Fl.TOK_LAST_ERROR_CONTEXT ctx
  let s := fput s md 0 Fl.TOK_LAST_ERROR_TOKEN tok
  let s := fput s md 0 Fl.TOK_LAST_ERROR_SOURCE src
  let s := fput s md 0 Fl.TOK_LAST_ERROR_SOURCE_FINDER (b2n finder)
  fput s md 0 Fl.TOK_LAST_ERROR_CODE (if timeout then 0x22 else 0x21)

/-- Release the pending WAITs that a counter satisfies (R139). -/
def wakeWaits (s : State) (md ctx seq tok value : Nat) : State :=
  let u := getTok s md
  let hit (w : PendWait) : Bool := w.ctx == ctx && w.seq == seq && w.token == tok && decide (w.value ≤ value)
  let s := putTok s md { u with waits := u.waits.filter fun w => !hit w }
  (u.waits.filter hit).foldl (fun s w => passWait s w.agent w.value) s

/-! ### Fabric counters -/

/-- Release the WAITs that a fabric counter satisfies: a local waiter at once, another device's by a RELEASE (R447). -/
def wakeFabric (s : State) (i : Nat) : State :=
  let x := getFctr s i
  let hit (w : Nat × Nat × Nat) : Bool := decide (w.2.2 ≤ x.value)
  let s := putFctr s i { x with waits := x.waits.filter fun w => !hit w }
  (x.waits.filter hit).foldl (fun s w =>
    if w.1 = deviceId s then
      match s.net.remotes.find? fun r => r.tag == w.2.1 && r.kind == kWait with
      | some ⟨_, _, _, .agent a _ _, _, _, _, _⟩ =>
        passWait { s with net := { s.net with remotes := s.net.remotes.filter fun r => r.tag != w.2.1 } } a w.2.2
      | _ => s
    else (fabricSend s kRelease w.1 w.2.1 (tokenArg i 0) []).getD s) s

/-- Add to a fabric counter; none where it would overflow (R447). -/
def fabricAdd (s : State) (i amount : Nat) : Option State :=
  let x := getFctr s i
  if 2 ^ 32 ≤ x.value + amount then none else some (wakeFabric (putFctr s i { x with value := x.value + amount }) i)

/-! ### SIGNAL and WAIT -/

/-- Apply a SIGNAL of a launch's slot or stream (R138, R141, R255, R447). -/
def signalToken (s : State) (l : Launch) (tok scope amount src : Nat) (finder : Bool) (a : Agent) : State :=
  match l.tokens[tok]? with
  | none => s
  | some t =>
    match t.remote, t.unit with
    | some (dev, i), _ =>
      if dev = deviceId s then
        match fabricAdd (noteRelease s l.ctx l.seq a tok scope (getFctr s i).value) i amount with
        | some s => s
        | none => launchErr s l.ctx l.seq 0x0121 (tokenDetail tok src finder)
      else
        match fabricRequest (noteRelease s l.ctx l.seq a tok scope 0) kSignal dev i (tokenArg i amount) (.agent a l.ctx l.seq) [] (tokenDetail tok src finder) with
        | some s => s
        | none => launchErr s l.ctx l.seq 0x0711 0
    | none, some (md, phys) =>
      match smGet (getTok s md).counters phys with
      | none => s
      | some c =>
        if 2 ^ 32 ≤ c.value + amount then
          launchErr (tokError s md l.ctx tok src finder false) l.ctx l.seq 0x0121 (tokenDetail tok src finder)
        else
          let v := c.value + amount
          let u := getTok s md
          let s := putTok (noteRelease s l.ctx l.seq a tok scope c.value) md { u with counters := smPut u.counters phys { c with value := v } }
          wakeWaits (fsat s md 0 Fl.TOK_SIGNALS_COUNT 1) md l.ctx l.seq tok v
    | none, none => s

/-- Take a WAIT in at its token unit: satisfied at once whether or not the unit is full (log 172), pending, or
held while it is (R139, R143). -/
def arriveWait (s : State) (md : Nat) (w : PendWait) : State :=
  let u := getTok s md
  let now := (u.counters.find? fun c => c.2.ctx == w.ctx && c.2.seq == w.seq && c.2.token == w.token).map (·.2.value)
  if w.value ≤ now.getD 0 then passWait s w.agent w.value
  else if u.waits.length < 1024 then
    let s := putTok s md { u with waits := u.waits ++ [{ w with limit := fget s md 0 Fl.TOK_WAIT_LIMIT_LIMIT_MS }] }
    let s := fhigh s md 0 Fl.TOK_PENDING_HIGH_WATER (u.waits.length + 1)
    holdAgent s w.agent (.wait w.token w.value)
  else
    let s := putTok s md { u with held := u.held ++ [w] }
    holdAgent (fsat s md 0 Fl.TOK_WAITS_HELD 1) w.agent (.held w.token w.value)

/-- Execute a WAIT of an agent (R139, R447). -/
def waitToken (s : State) (l : Launch) (tok value : Nat) (a : Agent) : State :=
  match l.tokens[tok]? with
  | none => s
  | some t =>
    match t.remote, t.unit with
    | some (dev, i), _ =>
      if dev = deviceId s then
        let x := getFctr s i
        if value ≤ x.value then passWait s a value
        else
          let tag := s.net.nextTag
          let s := putFctr s i { x with waits := x.waits ++ [(dev, tag, value)] }
          let s := { s with net := { s.net with
            nextTag := (tag + 1) % 2 ^ 32
            remotes := s.net.remotes ++ [⟨tag, kWait, dev, .agent a l.ctx l.seq, i, false, [], 0⟩] } }
          holdAgent s a (.remote tok value)
      else
        match fabricRequest s kWait dev i (tokenArg i value) (.agent a l.ctx l.seq) [] with
        | some s => holdAgent s a (.remote tok value)
        | none => launchErr s l.ctx l.seq 0x0711 0
    | none, some (md, _) => arriveWait (fsat s md 0 Fl.TOK_WAITS_COUNT 1) md ⟨l.ctx, l.seq, tok, value, a, 0⟩
    | none, none => s

end Sys2Proof.Machine
end

