-- ==== Sys2Proof/Machine/Xlate.lean ====
section
/-! DEFINITION. Tiered pages, quotas, translation caches, walks and the fault queue as the other units use them (R228,
R236, R239, R242 to R249, R296 to R312), and the ends of the requests that a fault can end. -/

namespace Sys2Proof.Machine

/-! ### Queue pair records and completions (R440) -/

def qpKey (pd n : Nat) : Nat := (pd - 22) * 16384 + n
def getQp (s : State) (pd n : Nat) : Option Qp := smGet s.net.qps (qpKey pd n)
def putQp (s : State) (pd n : Nat) (q : Qp) : State := { s with net := { s.net with qps := smPut s.net.qps (qpKey pd n) q } }
def modQp (s : State) (pd n : Nat) (f : Qp → Qp) : State :=
  match getQp s pd n with
  | some q => putQp s pd n (f q)
  | none => s

/-- Write a completion record of a queue pair, and its interrupt. A record that has no memory to go to puts the queue pair in
the error state with the status of R25 (log 179). -/
def qpRecord (s : State) (pd n status flags seq : Nat) (detail : BitVec 64) : State :=
  match getQp s pd n, (getQp s pd n).bind fun q => ringRefusal s q.context q.cqPa with
  | none, _ => s
  | some q, some st => putQp s pd n { q with state := 2, errStatus := st }
  | some q, none =>
    let s := recWrite s (q.cqPa + q.cqTail % 2 ^ q.cqLog2 * 32)
      (completionBytes (handleOf q.context seq) status flags s.time.toNat detail)
    let s := putQp s pd n { q with cqTail := (q.cqTail + 1) % 2 ^ 32 }
    if flags % 2 = 1 then sendIrq s q.irqVector else s

/-- Whether a queue pair's completion ring is full. The hardware learns of the ring's space by no register, so a ring that
has wrapped is full by a free choice (log 82). -/
def ringFull (s : State) (q : Qp) : Bool × State :=
  if q.cqTail < 2 ^ q.cqLog2 then (false, s)
  else
    let d := drawBelow s 2
    (d.1 == 1, d.2)

/-- The requests that end with a status complete one after another while the completion ring has space: the current one where it has
ended, and in the error state every one posted (R440, R441). A later request's FLAGS are never read (log 138). -/
def endPosted : Nat → State → Nat → Nat → State
  | 0, s, _, _ => s
  | k + 1, s, pd, n =>
    match getQp s pd n with
    | none => s
    | some q =>
      let st := if q.state = 2 then some q.errStatus else q.ended
      let f := ringFull s q
      match st with
      | none => s
      | some st =>
        if q.head = q.tail then s
        else if f.1 then f.2
        else endPosted k (modQp (qpRecord f.2 pd n st (q.flags % 2) q.head 0) pd n fun x => { x with
          head := q.head + 1, flags := 0, ended := none, state := if x.state = 3 then 0 else x.state }) pd n

/-- What has ended in a queue pair completes. -/
def settleQp (s : State) (pd n : Nat) : State :=
  match getQp s pd n with
  | none => s
  | some q => endPosted (q.tail - q.head) s pd n

/-- Put a queue pair in the error state: its current request, and every later one posted, completes with a status (R441). -/
def qpError (s : State) (pd n status : Nat) : State :=
  settleQp (modQp s pd n fun q => { q with state := 2, errStatus := status, stalled := none, ended := none, held := [] }) pd n

/-- Answer a peer with a NAK. -/
def nakPeer (s : State) (pd n : Nat) (k : Nak) : State := modQp s pd n fun q => { q with naks := q.naks ++ [k] }

/-- The current request of a queue pair fails. A late or failed tier ends that request only (R246); a denial ends the queue
pair's work and NAKs its peer (R441). -/
def qpFail (s : State) (pd n status : Nat) : State :=
  if status ≠ 0x0310 ∧ status ≠ 0x0311 then nakPeer (qpError s pd n status) pd n .remoteAccess
  else settleQp (modQp s pd n fun q => { q with stalled := none, ended := if q.head = q.tail then none else some status }) pd n

/-! ### Requesters -/

/-- Whether a requester is of class Compute (R297). -/
def Requester.compute : Requester → Bool
  | .agent _ _ _ => true
  | .cmd _ _ => false
  | .pin _ _ => false
  | .qp _ _ => false

/-- The unit ID a requester shows in a fault record (R306): the engine, Finder, media pipeline or Ethernet port that
accesses, and the front end for what it fetches itself. -/
def reqUnit (s : State) : Requester → Nat
  | .agent (.engine d e) _ _ => unitId d 1 e
  | .agent (.stream h f _) _ _ => unitId h 1 f
  | .cmd c q => match getCmd s c q with
    | some k => match k.pipe, k.finder with
      | some (pd, p), _ => if p < 8 then unitId pd 3 p else unitId pd 4 (p - 8)
      | none, some f => unitId (ctxHub c) 1 f
      | none, none => unitId (ctxHub c) 0 1
    | none => unitId (ctxHub c) 0 1
  | .pin c _ => unitId (ctxHub c) 0 1
  | .qp pd n => match getQp s pd n with
    | some q => unitId pd 1 (q.port % 4)
    | none => unitId pd 0 1

/-- The context of a requester. -/
def reqCtx (s : State) : Requester → Nat
  | .agent _ c _ => c
  | .cmd c _ => c
  | .pin c _ => c
  | .qp pd n => match getQp s pd n with
    | some q => q.context
    | none => 0

/-- Let a requester try again: its stall is lifted (R310). A stalled move replays from its first line (R222). -/
def unstall (s : State) (r : Requester) : State :=
  match r with
  | .agent (.engine d e) _ _ => match slotOf s d e with
    | some (l, i, x) => match x.hold with
      | .xlate _ => modSlot s l.ctx l.seq i fun y => { y with hold := .run }
      | _ => s
    | none => s
  | .agent (.stream h f c) _ _ => match streamOf s h f c with
    | some (l, i, x) =>
      let s := if x.window.any (·.stalled) then fsat s h 0 Fl.FND_CANCELS_REPLAYED 1 else s
      modStream s l.ctx l.seq i fun y => { y with window := y.window.map fun m => { m with stalled := false, broke := false } }
    | none => s
  | .cmd c q => modCmd s c q fun k => { k with stalled := none }
  | .pin c q => modCmd s c q fun k => { k with stalled := none }
  | .qp pd n => modQp s pd n fun q => { q with stalled := none }

/-- The oldest move in flight of a stream stalls (R222). -/
def stallMove (x : Stream) : Stream := match x.window with
  | [] => x
  | m :: r => { x with window := { m with stalled := true } :: r }

/-- The oldest move in flight of a stream ends its request (R223). -/
def endHead (x : Stream) : Stream := match x.window with
  | [] => x
  | m :: r => { x with window := { m with ended := true } :: r, hold := .stopped }

/-- Stall a requester on a page (R303). -/
def stallReq (s : State) (r : Requester) (page : Nat) : State :=
  match r with
  | .agent (.engine d e) _ _ => holdAgent s (.engine d e) (.xlate page)
  | .agent (.stream h f c) _ _ => modAgent s (.stream h f c) id stallMove
  | .cmd c q => modCmd s c q fun k => { k with stalled := some page }
  | .pin c q => modCmd s c q fun k => { k with stalled := some page }
  | .qp pd n => modQp s pd n fun q => { q with stalled := some page }

/-- Count and record a move of a Finder that ended with an error (R223, FND_LAST_ERROR). -/
def finderError (s : State) (h f c stream ctx status : Nat) (command : Bool) : State :=
  let fl := if status = 0x0502 then some Fl.FND_ERR_STATUS_POISON
    else if status = 0x0310 ∨ status = 0x0311 then some Fl.FND_ERR_STATUS_TIER
    else if status = 0x0301 then some Fl.FND_ERR_STATUS_QUOTA
    else if status = 0x013A then some Fl.FND_ERR_STATUS_GATHER
    else if status = 0x0203 ∨ status = 0x0210 ∨ status = 0x0211 then some Fl.FND_ERR_STATUS_ADDRESS
    else if status = 0x0F33 then some Fl.FND_ERR_STATUS_BUF_UE else none
  let s := match fl with
    | some x => fput s h 0 x 1
    | none => s
  let s := fsat s h 0 Fl.FND_ERR_COUNT_ERRORS 1
  let s := fput s h 0 Fl.FND_LAST_ERROR_CONTEXT ctx
  let s := fput s h 0 Fl.FND_LAST_ERROR_FINDER f
  let s := fput s h 0 Fl.FND_LAST_ERROR_COMMAND (b2n command)
  let s := fput s h 0 Fl.FND_LAST_ERROR_STREAM_CONTEXT c
  let s := fput s h 0 Fl.FND_LAST_ERROR_STREAM stream
  let s := fput s h 0 Fl.FND_LAST_ERROR_STATUS status
  let s := match status with
    | 0x0310 => fsat s h 0 Fl.TIER_ERR_COUNT_TIMEOUT 1
    | 0x0311 => fsat s h 0 Fl.TIER_ERR_COUNT_FAILED 1
    | _ => s
  if status = 0x0F33 then raise s 0x0F33 2 (unitId h 1 f) else s

/-- End a requester's request with a status (R223, R303, R310). A command keeps the status until its own step. -/
def failReq (s : State) (r : Requester) (status record : Nat) : State :=
  match r with
  | .agent (.engine d e) c q =>
    launchErr (holdAgent s (.engine d e) .stopped) c q status (BitVec.ofNat 64 record)
  | .agent (.stream h f x) c q =>
    let n := match streamOf s h f x with
      | some (_, i, _) => i
      | none => 0
    let s := finderError s h f x n c status false
    launchErr (modAgent s (.stream h f x) id endHead) c q status (BitVec.ofNat 64 record)
  | .cmd c q => modCmd s c q fun k => { k with denied := some (status, record), stalled := none }
  | .pin c q => modCmd s c q fun k => { k with denied := some (status, record), stalled := none }
  | .qp pd n => qpFail s pd n status

/-! ### Quotas (R242 to R244) -/

/-- Charge granules of a tier to a context; none if the quota would be exceeded. -/
def charge (s : State) (c tier n : Nat) : Option State :=
  let x := getCtx s c
  if x.used.getD tier 0 + n ≤ x.quota.getD tier 0 then
    some (putCtx s c { x with used := x.used.set tier (x.used.getD tier 0 + n) })
  else none

/-- Return granules. -/
def refund (s : State) (c tier n : Nat) : State :=
  modCtx s c fun x => { x with used := x.used.set tier (x.used.getD tier 0 - n) }

/-- Count a refused charge (TIER_ERR_COUNT.QUOTA). -/
def quotaRefused (s : State) (c : Nat) : State := fsat s (ctxHub c) 0 Fl.TIER_ERR_COUNT_QUOTA 1

/-! ### Page entries (R231) -/

def peMoving (w : BitVec 64) : Bool := w.getLsbD 62
def peTier (w : BitVec 64) : Nat := bits w.toNat 61 60
def peLend (w : BitVec 64) : Nat := bits w.toNat 59 52
def peAccess (w : BitVec 64) : Nat := bits w.toNat 51 44
def peHinted (w : BitVec 64) : Bool := w.getLsbD 43
def peDevice (w : BitVec 64) : Nat := bits w.toNat 38 27
def peFrame (w : BitVec 64) : Nat := bits w.toNat 26 0 * Config.page2M

/-- A word with bits [hi:lo] replaced. -/
def setBits (w : BitVec 64) (hi lo v : Nat) : BitVec 64 := fldSet ⟨.dieId, hi, lo, .rw, .lit 0⟩ w v

/-- The home part of an entry: tier, device and frame. -/
def peHome (w : BitVec 64) : BitVec 64 := w &&& BitVec.ofNat 64 0x3000_007F_FFFF_FFFF

/-- The tiered region and page index that cover a virtual address (R226). -/
def tierPage (s : State) (c va : Nat) : Option (TRegion × Nat × BitVec 64) :=
  s.regions.findSome? fun r =>
    if r.ctx = c ∧ r.va ≤ va then
      (r.pages[(va - r.va) / Config.page2M]?).map fun w => (r, (va - r.va) / Config.page2M, w)
    else none

/-- Change the page entry that covers a virtual address. -/
def modPage (s : State) (c va : Nat) (f : BitVec 64 → BitVec 64) : State :=
  { s with regions := s.regions.map fun r =>
      if r.ctx = c ∧ r.va ≤ va then
        { r with pages := r.pages.zipIdx.map fun p => if p.2 = (va - r.va) / Config.page2M then f p.1 else p.1 }
      else r }

/-- Slots of the hint ring (TIER_HINT_RING). -/
def hintSize (s : State) (h : Nat) : Nat := 2 ^ (min (fget s h 0 Fl.TIER_HINT_RING_SIZE_LOG2) 8 + 8)

/-- Write a migration hint, and raise the hint interrupt when the ring was empty (R249). -/
def writeHint (s : State) (h c page : Nat) (w : BitVec 64) : State :=
  let prod := fget s h 0 Fl.TIER_HINT_PROD_PROD
  let cons := fget s h 0 Fl.TIER_HINT_CONS_CONS
  let size := hintSize s h
  if (prod + 2 ^ 32 - cons) % 2 ^ 32 = size then fsat s h 0 Fl.TIER_HINT_DROPPED_COUNT 1
  else
    let s := recWrite s (fget s h 0 Fl.TIER_HINT_RING_BASE * 4096 + prod % size * 16)
      (leBytes 8 page ++ leBytes 2 c ++ leBytes 1 (peAccess w) ++ leBytes 1 (peTier w) ++ leBytes 4 (s.time.toNat / 1000))
    let s := fput s h 0 Fl.TIER_HINT_PROD_PROD (prod + 1)
    if prod = cons then sendIrq s (Config.hintVector h).toNat else s

/-- Count `lines` line accesses to a tiered page: ACCESS rises by a free amount of at most one a line (R247), and a hint
follows when it reaches the threshold (R248). -/
def touchPage (s : State) (c va lines : Nat) : State :=
  match tierPage s c va with
  | none => s
  | some (r, i, w) =>
    let n := drawBelow s (lines + 1)
    let a := min (peAccess w + n.1) 255
    let h := ctxHub c
    let th := fget s h 0 Fl.TIER_HINT_CTL_THRESHOLD
    let w := setBits w 51 44 a
    if th ≠ 0 ∧ th ≤ a ∧ !peHinted w ∧ peTier w ≠ 0 then
      writeHint (modPage n.2 c va fun _ => setBits w 43 43 1) h c (r.va + i * Config.page2M) w
    else modPage n.2 c va fun _ => w

/-! ### Translation caches (R299, R300) -/

/-- What a translation gives. -/
inductive Tr where
  | ok (pa : Nat)
  | remote (dev addr : Nat)
  /-- Stalled, or held without loss. -/
  | wait
  | fail (status : Nat)
  deriving DecidableEq, Repr

/-- The entry of a cache that covers an address. -/
def tlbFind (l : List Tlb) (c va : Nat) : Option Tlb :=
  l.find? fun t => t.ctx == c && decide (t.va ≤ va) && decide (va < t.va + t.size)

/-- Install an entry among those that compete with it for `ways` places: a free choice of a full set makes room (log 36). -/
def tlbFill (s : State) (l : List Tlb) (t : Tlb) (ways : Nat) (rival : Tlb → Bool) : List Tlb × State :=
  let l := l.filter fun x => !(x.ctx == t.ctx && x.va == t.va && x.size == t.size)
  let m := l.filter rival
  if m.length < ways then (t :: l, s)
  else
    let n := drawBelow s m.length
    (t :: l.filter fun x => m[n.1]? != some x, n.2)

/-- The array of a hub and the set of it that hold an entry: 16,384 entries in 8 ways for 2 MiB and 1 GiB, 1,024 in 4 ways for
4 KiB (R299). -/
def tlbPlace (t : Tlb) : Nat × Nat :=
  if t.size = 4096 then (1, Config.tlbSet 1 t.ctx (t.va / t.size) % 256) else (0, Config.tlbSet 0 t.ctx (t.va / t.size) % 2048)

def hubTlb (s : State) (h : Nat) : List Tlb := smGetD s.xlat.hub [] h
def dieTlb (s : State) (d : Nat) : List Tlb := smGetD s.xlat.die [] d
def putHubTlb (s : State) (h : Nat) (l : List Tlb) : State := { s with xlat := { s.xlat with hub := smPut s.xlat.hub h l } }
def putDieTlb (s : State) (d : Nat) (l : List Tlb) : State := { s with xlat := { s.xlat with die := smPut s.xlat.die d l } }

/-- Install an entry in a hub's arrays. -/
def hubInstall (s : State) (h : Nat) (t : Tlb) : State :=
  let f := tlbFill s (hubTlb s h) t (if t.size = 4096 then 4 else 8) fun x => tlbPlace x == tlbPlace t
  putHubTlb f.2 h f.1

/-- A matrix die's cache of 512 entries is filled from the hub that serves the context. -/
def dieInstall (s : State) (h d : Nat) (t : Tlb) : State :=
  let f := tlbFill s (dieTlb s d) t 512 fun _ => true
  fsat (putDieTlb f.2 d f.1) h 0 Fl.TRC_DIE_FILLS_COUNT 1

/-- Remove entries everywhere they may be: the hub's arrays and the matrix dies of its partition (R235, R314). -/
def tlbDrop (s : State) (h : Nat) (p : Tlb → Bool) : State :=
  let s := putHubTlb s h ((hubTlb s h).filter fun t => !p t)
  match diePart s h with
  | none => s
  | some k => (partDies s k).foldl (fun s d => putDieTlb s d ((dieTlb s d).filter fun t => !p t)) s

/-! ### The fault queue (R305 to R312) -/

/-- A fault record's 32 bytes (R306). -/
def faultBytes (r : FaultRec) : List Byte :=
  leBytes 8 r.page ++ leBytes 2 r.ctx ++ leBytes 1 r.access.toNat ++ leBytes 1 r.cause ++
    leBytes 2 (min r.waiters.length 0xFFFF) ++ leBytes 2 r.firstUnit ++ leBytes 8 r.opened ++ leBytes 4 r.number ++
    leBytes 1 r.level ++ leBytes 1 r.part ++ leBytes 1 (b2n r.dma) ++ [0]

/-- Write a record in its slot as one indivisible write. -/
def writeFault (s : State) (r : FaultRec) : State :=
  recStash s 16 (fget s 16 0 Fl.WLK_FAULT_RING_BASE * 2 ^ 17 + r.number % 4096 * 32) (faultBytes r)

def putFaults (s : State) (l : List FaultRec) : State :=
  fput { s with xlat := { s.xlat with faults := l } } 16 0 Fl.WLK_FAULT_OPEN_OPEN l.length

/-- Whether a new record can be opened (R311). -/
def canOpen (s : State) : Bool :=
  let prod := fget s 16 0 Fl.WLK_FAULT_PROD_PROD
  let cons := fget s 16 0 Fl.WLK_FAULT_CONS_CONS
  decide ((prod + 2 ^ 32 - cons) % 2 ^ 32 < 4096) && s.xlat.faults.all fun r => r.number % 4096 != prod % 4096

/-- The entries of a page. -/
def entriesOf (c page : Nat) (t : Tlb) : Bool := t.ctx == c && decide (t.va ≤ page) && decide (page < t.va + t.size)

/-- Open a record (R305, R307, R312). A write that was denied takes the entry of its page with it (R300). -/
def openFault (s : State) (c page cause level : Nat) (r : Requester) (write : Bool) : State :=
  let s := if cause = 2 then tlbDrop s (ctxHub c) (entriesOf c page) else s
  let prod := fget s 16 0 Fl.WLK_FAULT_PROD_PROD
  let f : FaultRec := ⟨prod, c, page, if write then 2 else 1, cause, [r], reqUnit s r, s.time.toNat, level, ctxPart s c, !r.compute⟩
  let s := putFaults (writeFault s f) (s.xlat.faults ++ [f])
  let s := fhigh s 16 0 Fl.WLK_FAULT_OPEN_HIGH_WATER s.xlat.faults.length
  let s := fsat s 16 0 Fl.WLK_FAULT_COUNT_OPENED 1
  let s := stallReq (fput s 16 0 Fl.WLK_FAULT_PROD_PROD (prod + 1)) r page
  if prod = fget s 16 0 Fl.WLK_FAULT_CONS_CONS ∧ fget s 16 0 Fl.WLK_FAULT_IRQ_ENABLE = 1 then
    sendIrq s (fget s 16 0 Fl.WLK_FAULT_IRQ_VECTOR)
  else s

/-- Join an open record (R307). -/
def joinFault (s : State) (f : FaultRec) (r : Requester) (write : Bool) : State :=
  let g := { f with waiters := f.waiters ++ [r], access := f.access ||| (if write then 2 else 1) }
  let s := putFaults (writeFault s g) (s.xlat.faults.map fun x => if x.number = f.number then g else x)
  stallReq (fsat s 16 0 Fl.WLK_FAULT_COUNT_JOINED 1) r f.page

/-- The translation root of a request: a launch keeps the one it started with (R126). -/
def rootOf (s : State) (c : Nat) : Requester → BitVec 64
  | .agent _ k q => ((findLaunch s k q).map (·.root)).getD (getCtx s k).root
  | .cmd _ _ => (getCtx s c).root
  | .pin _ _ => (getCtx s c).root
  | .qp _ _ => (getCtx s c).root

/-- Raise a fault of a request (R303, R307, R311). -/
def raiseFault (s : State) (c page cause level : Nat) (r : Requester) (write : Bool) : State :=
  if r.compute ∧ fldOf Fl.QFE_CTX_ROOT_FAULT_MODE (rootOf s c r) = 1 then failReq s r 0x0203 0
  else
    match s.xlat.faults.find? fun f => f.ctx == c && f.page == page with
    | some f => joinFault s f r write
    | none =>
      if fget s 16 0 Fl.WLK_FAULT_RING_ENABLE = 0 then
        failReq (fsat s 16 0 Fl.WLK_FAULT_EXCEPT_DENIED_DISABLED 1) r 0x0201 0
      else if canOpen s then openFault s c page cause level r write
      else
        let s := fsat s 16 0 Fl.WLK_FAULT_EXCEPT_FULL_STALLS 1
        let s := { s with xlat := { s.xlat with waiting := s.xlat.waiting ++ [⟨c, page, cause, level, r, write⟩] } }
        stallReq s r page

/-- Withdraw a requester from walks, waiting faults and records; a record it leaves is rewritten (R153, R221, R308). -/
def withdraw (s : State) (p : Requester → Bool) : State :=
  let old := s.xlat.faults
  let new := old.map fun f => { f with waiters := f.waiters.filter fun r => !p r }
  let s := { s with xlat := { s.xlat with
    walks := s.xlat.walks.map fun w => { w with reqs := w.reqs.filter fun r => !p r.1 }
    grants := s.xlat.grants.filter fun g => !p g.1
    held := s.xlat.held.filter fun x => !p x.1
    waiting := s.xlat.waiting.filter fun w => !p w.req } }
  let s := putFaults s new
  (new.filter fun f => !old.contains f).foldl writeFault s

/-! ### Walks (R301) -/

/-- The walker that serves a hub. -/
def walkerOf (h : Nat) : Nat := if h < 20 then 16 else 17

/-- Ask for a walk, or join the outstanding one of the same page. -/
def askWalk (s : State) (c va : Nat) (r : Requester) (write : Bool) : State :=
  let page := va / 4096 * 4096
  if s.xlat.walks.any fun w => w.ctx == c && w.page == page then
    { s with xlat := { s.xlat with walks := s.xlat.walks.map fun w =>
        if w.ctx = c ∧ w.page = page ∧ !(w.reqs.contains (r, write)) then { w with reqs := w.reqs ++ [(r, write)] } else w } }
  else
    let s := { s with xlat := { s.xlat with walks := s.xlat.walks ++ [⟨c, rootOf s c r, page, [(r, write)], false⟩] } }
    let n := (s.xlat.walks.filter fun w => walkerOf (ctxHub w.ctx) == walkerOf (ctxHub c)).length
    fhigh s (walkerOf (ctxHub c)) 0 Fl.WLK_WALKS_WAITING_MAX (n - 128)

/-- A requester waits for its walk; a Finder stream, whose moves wait without holding it, only tries again. -/
def waitWalk (s : State) (r : Requester) (page : Nat) : State :=
  match r with
  | .agent (.stream _ _ _) _ _ => s
  | _ => stallReq s r page

/-! ### Translating one access -/

/-- Count the lookups of an access that hits a hub's arrays. How many an access of several lines makes, and whether one
that waited looks up again, the spec does not say: the amount is free (log 136). -/
def countHits (s : State) (h size : Nat) : State :=
  let n := drawBelow s (2 ^ 32)
  let s := fsat n.2 h 0 Fl.TRC_LOOKUPS_HITS n.1
  if size = 4096 then fsat s h 0 Fl.TRC_SMALL_HITS n.1 else s

/-- Count a miss of a requester, unless it waits for the walk of that page already (TRC_LOOKUPS.MISSES). -/
def countMiss (s : State) (h c page : Nat) (r : Requester) (write : Bool) : State :=
  if s.xlat.walks.any fun w => w.ctx == c && w.page == page && w.reqs.contains (r, write) then s
  else fsat s h 0 Fl.TRC_LOOKUPS_MISSES 1

/-- An access of a tiered page looks its entry up as any other; on a miss the Catalog fills the hub's large array (R299). -/
def lookTiered (s : State) (c : Nat) (t : Tlb) (die : Option Nat) : State :=
  let h := ctxHub c
  let hub (s : State) : State :=
    if (hubTlb s h).any (· == t) then countHits s h t.size else fsat (hubInstall s h t) h 0 Fl.TRC_LOOKUPS_MISSES 1
  match die with
  | none => hub s
  | some d => if (dieTlb s d).any (· == t) then s else dieInstall (hub s) h d t

/-- Count a held write: once, however often its requester tries (TIER_MOVES.HELD). -/
def countHeld (s : State) (h : Nat) (r : Requester) (page : Nat) : State :=
  if s.xlat.held.contains (r, page) then s
  else fsat { s with xlat := { s.xlat with held := s.xlat.held ++ [(r, page)] } } h 0 Fl.TIER_MOVES_HELD 1

/-- A write that was held goes on. -/
def endHeld (s : State) (r : Requester) (page : Nat) : State :=
  if s.xlat.held.contains (r, page) then { s with xlat := { s.xlat with held := s.xlat.held.erase (r, page) } } else s

/-- A launch that has lent tiles of a page (R239). -/
def lendsPage (l : Launch) (page : Nat) : Bool := l.lends.contains page

/-- Whether a write by a requester to a tiered page is held: its page is moving, or lent to another launch (R236,
R239, R240). -/
def writeHeld (s : State) (r : Requester) (page : Nat) (w : BitVec 64) : Bool :=
  peMoving w || (peLend w != 0 && !(match r with
    | .agent _ c q => (match findLaunch s c q with
      | some l => lendsPage l page
      | none => false)
    | _ => false))

/-- The level of the table that holds a leaf (R306). -/
def leafLevel (size : Nat) : Nat := if size = 4096 then 1 else if size = Config.page2M then 2 else 3

/-- A translation that a walk has found for the access that a requester makes: the access keeps it until it ends, however
many pages it still waits for (R302). -/
def heldGrant (s : State) (r : Requester) (c va : Nat) (write : Bool) : Option Nat :=
  (s.xlat.grants.find? fun g => g.1 == r && entriesOf c va g.2 && (g.2.write || !write)).map fun g => g.2.frame + (va - g.2.va)

/-- Translate an address for a request of a context; `die` is the matrix die whose cache serves an RC_LOAD. A miss asks
for a walk and stalls the requester (R228, R236, R296 to R303). -/
def xlate (s : State) (r : Requester) (c va : Nat) (write : Bool) (die : Option Nat) : Tr × State :=
  let h := ctxHub c
  match tierPage s c va with
  | some (reg, i, w) =>
    let page := reg.va + i * Config.page2M
    if write ∧ reg.readOnly then (.fail 0x0305, fsat s h 0 Fl.TIER_ERR_COUNT_PERMISSION 1)
    else if write ∧ writeHeld s r page w then (.wait, countHeld s h r page)
    else
      let s := lookTiered (endHeld s r page) c ⟨c, page, Config.page2M, peFrame w, !reg.readOnly⟩ die
      if peTier w = 3 then (.remote (peDevice w) (peFrame w + va % Config.page2M), s)
      else (.ok (peFrame w + va % Config.page2M), s)
  | none =>
    let page := va / 4096 * 4096
    match die.bind fun d => tlbFind (dieTlb s d) c va with
    | some t => (.ok (t.frame + (va - t.va)), s)
    | none =>
      match tlbFind (hubTlb s h) c va, heldGrant s r c va write with
      | some t, _ =>
        let s := countHits s h t.size
        if write ∧ !t.write then (.wait, raiseFault s c page 2 (leafLevel t.size) r write)
        else (.ok (t.frame + (va - t.va)), die.elim s fun d => dieInstall s h d t)
      | none, some pa => (.ok pa, s)
      | none, none =>
        let s := countMiss s h c page r write
        (.wait, waitWalk (askWalk s c va r write) r page)

end Sys2Proof.Machine
end

