-- ==== Sys2Proof/Machine/Dma.lean ====
section
/-! DEFINITION. Reads and writes of virtual memory by hub-side agents: translation page by page, refusals, poison, and
lines whose home is on another device (R21, R25, R159, R206, R208, R223, R245, R297, R445). -/

namespace Sys2Proof.Machine

/-- A range cut at 4 KiB boundaries, as (start, length). -/
def cutPages : Nat → Nat → Nat → List (Nat × Nat)
  | 0, _, _ => []
  | fuel + 1, va, n =>
    if n = 0 then []
    else
      let k := min n (4096 - va % 4096)
      (va, k) :: cutPages fuel (va + k) (n - k)

def pageChunks (va n : Nat) : List (Nat × Nat) := cutPages (n / 4096 + 2) va n

/-- What holds an access back or ends it. -/
inductive Stop where
  | wait
  | fail (status : Nat)
  deriving DecidableEq, Repr

/-- Translate the chunks of a range one after another. -/
def xlateChunks (s : State) (r : Requester) (c : Nat) (write : Bool) : List (Nat × Nat) → Except Stop (List (Tr × Nat)) × State
  | [] => (.ok [], s)
  | (va, n) :: rest =>
    match xlate s r c va write none with
    | (.wait, s) => (.error .wait, s)
    | (.fail st, s) => (.error (.fail st), s)
    | (.ok pa, s) =>
      match accelRefusal s (ctxPart s c) pa with
      | some st => (.error (.fail st), s)
      | none => match xlateChunks s r c write rest with
        | (.ok l, s) => (.ok ((.ok pa, n) :: l), s)
        | x => x
    | (.remote d a, s) => match xlateChunks s r c write rest with
      | (.ok l, s) => (.ok ((.remote d a, n) :: l), s)
      | x => x

/-- Translate a range. -/
def xlateRange (s : State) (r : Requester) (c va n : Nat) (write : Bool) : Except Stop (List (Tr × Nat)) × State :=
  xlateChunks s r c write (pageChunks va n)

/-! ### Lines of another device -/

/-- The request of a requester for an address of another device. -/
def findRemote (s : State) (r : Requester) (kind dev addr : Nat) : Option RemoteReq :=
  s.net.remotes.find? fun x => x.req == r && x.kind == kind && x.dev == dev && x.addr == addr

/-- Read lines of another device: their bytes once every response has come, else the requests that are missing are sent. -/
def remoteLines (s : State) (r : Requester) (dev : Nat) : List Nat → Except Stop (List Byte) × State
  | [] => (.ok [], s)
  | a :: rest =>
    match findRemote s r kReadReq dev a with
    | some x => match remoteLines s r dev rest with
      | (.ok d, s) => (if x.done then .ok (x.data ++ d) else .error .wait, s)
      | y => y
    | none => match fabricRequest s kReadReq dev a (BitVec.ofNat 64 a) r [] with
      | none => (.error (.fail 0x0311), s)
      | some s => match remoteLines s r dev rest with
        | (.ok _, s) => (.error .wait, s)
        | y => y

/-- Read `n` bytes of another device. -/
def remoteRead (s : State) (r : Requester) (dev a n : Nat) : Except Stop (List Byte) × State :=
  match remoteLines s r dev (linesOf a n) with
  | (.ok d, s) => (.ok ((d.drop (a % 64)).take n), s)
  | x => x

/-- Write bytes to another device: done once it is acknowledged. -/
def remoteWrite (s : State) (r : Requester) (dev a : Nat) (bs : List Byte) : Except Stop Unit × State :=
  match findRemote s r kWrite dev a with
  | some x => (if x.done then .ok () else .error .wait, s)
  | none => match fabricRequest s kWrite dev a (BitVec.ofNat 64 a) r bs with
    | some s => (.error .wait, s)
    | none => (.error (.fail 0x0311), s)

/-! ### Reads and writes by virtual address -/

/-- The hub whose agent reads for a requester, if one does. -/
def reqHub : Requester → Nat
  | .agent (.stream h _ _) _ _ => h
  | .agent (.engine _ _) _ _ => 0
  | .cmd c _ => ctxHub c
  | .pin c _ => ctxHub c
  | .qp _ _ => 0

/-- Read the pieces of a range; a poisoned line ends the request (R223, R355). -/
def readPieces (s : State) (r : Requester) : List (Tr × Nat) → Except Stop (List Byte) × State
  | [] => (.ok [], s)
  | (.ok pa, n) :: rest =>
    match ncFetch s pa n (reqHub r) with
    | (none, s) => (.error (.fail 0x0502), s)
    | (some bs, s) => match readPieces s r rest with
      | (.ok d, s) => (.ok (bs ++ d), s)
      | x => x
  | (.remote dev a, n) :: rest =>
    match remoteRead s r dev a n with
    | (.error .wait, s) => (.error .wait, (readPieces s r rest).2)
    | (.error e, s) => (.error e, s)
    | (.ok d, s) => match readPieces s r rest with
      | (.ok d2, s) => (.ok (d ++ d2), s)
      | x => x
  | (.wait, _) :: _ => (.error .wait, s)
  | (.fail st, _) :: _ => (.error (.fail st), s)

/-- Count the lines of a range as accesses of tiered pages (R247). -/
def touchRange (s : State) (c : Nat) (l : List (Nat × Nat)) : State :=
  l.foldl (fun s x => touchPage s c x.1 (linesOf x.1 x.2).length) s

/-- Read `n` bytes of a context's virtual memory for a requester. -/
def readVa (s : State) (r : Requester) (c va n : Nat) : Except Stop (List Byte) × State :=
  match xlateRange s r c va n false with
  | (.error e, s) => (.error e, s)
  | (.ok l, s) =>
    match readPieces s r l with
    | (.ok d, s) => (.ok d, touchRange s c (pageChunks va n))
    | x => x

/-- Write the pieces of a range whose pages have been translated. A partial write of a poisoned line leaves it poisoned and
ends the request (R357). -/
def writePieces (s : State) (r : Requester) : List (Tr × Nat) → List Byte → Except Stop Unit × State
  | [], _ => (.ok (), s)
  | (.ok pa, n) :: rest, bs =>
    let q := ncWrite s pa (bs.take n)
    if q.1 then (.error (.fail 0x0502), q.2) else writePieces q.2 r rest (bs.drop n)
  | (.remote dev a, n) :: rest, bs =>
    match remoteWrite s r dev a (bs.take n) with
    | (.error .wait, s) => (.error .wait, (writePieces s r rest (bs.drop n)).2)
    | (.error e, s) => (.error e, s)
    | (.ok _, s) => writePieces s r rest (bs.drop n)
  | (.wait, _) :: _, _ => (.error .wait, s)
  | (.fail st, _) :: _, _ => (.error (.fail st), s)

/-- Write bytes to a context's virtual memory for a requester: nothing is written until every page is translated. -/
def writeVa (s : State) (r : Requester) (c va : Nat) (bs : List Byte) : Except Stop Unit × State :=
  match xlateRange s r c va bs.length true with
  | (.error e, s) => (.error e, s)
  | (.ok l, s) =>
    match writePieces s r l bs with
    | (.ok _, s) => (.ok (), touchRange s c (pageChunks va bs.length))
    | x => x

end Sys2Proof.Machine
end

