-- ==== Sys2Proof/Machine/ReadCache.lean ====
section
/-! DEFINITION. The die read caches: lookups, fills and invalidations of RC_LOAD (R189, R258 to R262). -/

namespace Sys2Proof.Machine

def RdCache.fresh : RdCache := ⟨[], [], []⟩
def getRdc (s : State) (md : Nat) : RdCache := smGetD s.rdc RdCache.fresh md
def putRdc (s : State) (md : Nat) (x : RdCache) : State := { s with rdc := smPut s.rdc md x }

/-- The tag of a line whose home is on another device. -/
def remoteTag (dev addr : Nat) : Nat := 2 ^ 60 + dev * 2 ^ 48 + addr

/-- Translate the lines of an RC_LOAD one after another: their tags, or where the first one stops. -/
def rcLines (s : State) (r : Requester) (md ctx part : Nat) : List Nat → Except Tr (List Nat) × State
  | [] => (.ok [], s)
  | va :: vs =>
    match xlate s r ctx va false (some md) with
    | (.ok pa, s) =>
      match accelRefusal s part pa with
      | some st => (.error (.fail st), s)
      | none =>
        match rcLines s r md ctx part vs with
        | (.ok l, s) => (.ok (pa :: l), s)
        | x => x
    | (.remote dev a, s) =>
      match rcLines s r md ctx part vs with
      | (.ok l, s) => (.ok (remoteTag dev a :: l), s)
      | x => x
    | (x, s) => (.error x, s)

/-- The fill that a remote read was sent for. -/
def fillOf (c : RdCache) (tag : Nat) : Option Fill := c.fills.find? fun f => f.tag == some tag

/-- A fill has failed: every op that waits for it ends its launch (R245, R262). -/
def failFill (s : State) (md : Nat) (f : Fill) (status : Nat) : State :=
  let c := getRdc s md
  f.wants.foldl (fun s w => match slotOf s md w.eng with
    | some (l, _, _) => failReq s (.agent (.engine md w.eng) l.ctx l.seq) status 0
    | none => s) (putRdc s md { c with fills := c.fills.erase f })

/-- The fill of a line of another device has failed. -/
def endFill (s : State) (md tag status : Nat) : State :=
  match fillOf (getRdc s md) tag with
  | none => s
  | some f => failFill s md f status

/-- A read or write at another device has failed: its requester ends; the read of a fill ends whatever waits for it. -/
def failAccess (s : State) (r : RemoteReq) (status : Nat) : State :=
  match r.req with
  | .agent (.engine d _) _ _ => if r.kind = kReadReq then endFill s d r.tag status else failReq s r.req status 0
  | .agent (.stream _ _ _) _ _ => failReq s r.req status 0
  | .cmd _ _ => failReq s r.req status 0
  | .pin _ _ => failReq s r.req status 0
  | .qp _ _ => failReq s r.req status 0

/-- An engine that is released waits for no line; the read of a remote line that nothing waits for is given up. -/
def dropWants (s : State) (d e : Nat) : State :=
  let c := getRdc s d
  if c.fills.any fun f => f.wants.any fun w => w.eng == e then
    let fs := c.fills.map fun f => { f with wants := f.wants.filter fun w => w.eng != e }
    putRdc s d { c with fills := fs.filter fun f => decide (f.line < 2 ^ 60) || !f.wants.isEmpty }
  else s

/-- For whom a remote read of a fill goes on when its launch is released: the next engine that waits for that fill. -/
def heir (s : State) (r : RemoteReq) : Option RemoteReq :=
  match r.req with
  | .agent (.engine d _) _ _ =>
    if r.kind = kReadReq then
      ((fillOf (getRdc s d) r.tag).bind fun f => f.wants.head?).bind fun w =>
        (slotOf s d w.eng).map fun x => { r with req := .agent (.engine d w.eng) x.1.ctx x.1.seq }
    else none
  | .agent (.stream _ _ _) _ _ => none
  | .cmd _ _ => none
  | .pin _ _ => none
  | .qp _ _ => none

/-- Ask for a line that missed: join its fill unless an invalidation has intervened, else send one (R261). A line of
another device is asked for over the fabric, and its fill keeps the request's tag. -/
def rcMiss (s : State) (md tag : Nat) (w : Want) (r : Requester) : State :=
  let s := fsat s md 0 Fl.RDC_LOOKUPS_MISSES 1
  let c := getRdc s md
  let add (s : State) (f : Fill) : State := putRdc s md { getRdc s md with fills := (getRdc s md).fills ++ [f] }
  if c.fills.any fun f => f.line == tag && !f.stale then
    putRdc s md { c with fills := c.fills.map fun f =>
      if f.line = tag ∧ !f.stale then { f with wants := f.wants ++ [w] } else f }
  else if tag < 2 ^ 60 then add s ⟨tag, false, [w], none⟩
  else
    let a := tag % 2 ^ 48
    match fabricRequest s kReadReq (tag / 2 ^ 48 % 4096) a (BitVec.ofNat 64 a) r [] with
    | some t => add t ⟨tag, false, [w], some s.net.nextTag⟩
    | none => failReq s r 0x0311 0

/-- Store the part of a line that an RC_LOAD wants. -/
def giveLine (s : State) (md : Nat) (w : Want) (d : List Byte) : State := elStore s md w.eng w.addr ((d.drop w.skip).take w.len)

/-- How many of the eight 64-bit words of a line, which SECDED checks one by one, a check finds in a state. -/
def eccCount (w : List Ecc) (e : Ecc) : Nat := (w.take 8).count e

/-- Count the errors of each kind in a line of the read cache (R262). -/
def rcErrors (s : State) (md : Nat) (w : List Ecc) : State :=
  let n := eccCount w .ce
  let u := eccCount w .ue
  let s := if n = 0 then s else fsat (fput s md 0 Fl.RDC_ERR_STATUS_CE 1) md 0 Fl.RDC_ERR_COUNT_CE n
  if u = 0 then s else fsat (fput s md 0 Fl.RDC_ERR_STATUS_UE 1) md 0 Fl.RDC_ERR_COUNT_UE u

/-- Serve one line of an RC_LOAD from the cache, or ask for it. What the checks of the words of a line that hits find: a
corrected error is counted; an uncorrected one is counted and drops the line, and the read proceeds as a miss (R262). -/
def rcLine (s : State) (md tag : Nat) (w : Want) (r : Requester) (e : List Ecc) : State :=
  let c := getRdc s md
  match smGet c.lines tag with
  | none => rcMiss s md tag w r
  | some d =>
    if eccCount e .ue = 0 then giveLine (fsat (rcErrors s md e) md 0 Fl.RDC_LOOKUPS_HITS 1) md w d
    else rcMiss (rcErrors (putRdc s md { c with lines := smDel c.lines tag }) md e) md tag w r

/-- Whether a fill of a die still owes a line to an engine. -/
def owed (s : State) (md eng : Nat) : Bool := (getRdc s md).fills.any fun f => f.wants.any fun w => w.eng == eng

/-- The lines that a range of `n` lines from a virtual address touches, with what the range takes of each: a binding need not
start at a line (R168). -/
def rcParts (eng dst va n : Nat) : List (Nat × Want) :=
  let o := va % 64
  (List.range (if o = 0 then n else n + 1)).map fun i =>
    let lo := 64 * i - o
    let hi := min (64 * (i + 1) - o) (64 * n)
    (va - o + 64 * i, ⟨eng, dst + lo, o - 64 * i, hi - lo⟩)

/-- An RC_LOAD op of an engine: translation, then every line from the cache or through it (R189). `e` is what the checks of
the words of its lines find, in their order. -/
def runRcLoad (s : State) (l : Launch) (md eng : Nat) (e : List (List Ecc)) (dst va lines : Nat) : State :=
  let r : Requester := .agent (.engine md eng) l.ctx l.seq
  let parts := rcParts eng dst va lines
  match rcLines s r md l.ctx (ctxPart s l.ctx) (parts.map (·.1)) with
  | (.ok tags, s) =>
    let s := touchRange s l.ctx (pageChunks va (64 * lines))
    let s := (List.zip tags (parts.map (·.2))).zipIdx.foldl (fun s t =>
      rcLine s md t.1.1 t.1.2 r ((e[t.2]?).getD [])) s
    if (agentAt s (.engine md eng)).elim false fun x => x.2.2.2 == .stopped then s
    else
      let s := dropGrants s r
      if owed s md eng then holdAgent s (.engine md eng) .fill else advanceAgent s (.engine md eng)
  | (.error (.fail st), s) => failReq s r st 0
  | (_, s) => s

/-- Deliver a line to the ops that wait for it; an op whose last line this is goes on. -/
def rcDeliver (s : State) (md : Nat) (wants : List Want) (d : List Byte) : State :=
  let s := wants.foldl (fun s w => giveLine s md w d) s
  wants.foldl (fun s w =>
    match agentAt s (.engine md w.eng) with
    | some (_, _, _, .fill) => if owed s md w.eng then s else advanceAgent s (.engine md w.eng)
    | _ => s) s

/-- A fill returns poison: it is not installed, and its RC_LOADs end their launches (R262). -/
def rcPoison (s : State) (md : Nat) (f : Fill) : State :=
  failFill (fsat (fput s md 0 Fl.RDC_ERR_STATUS_POISON 1) md 0 Fl.RDC_ERR_COUNT_POISON 1) md f 0x0502

/-- The set of a line among the 8,192 of a read cache (R258, log 143). -/
def rdcSet (line : Nat) : Nat := Config.readCacheSet line % 8192

/-- Install a line in its set of 16 ways. Which line a full set gives up the spec does not say: a free choice (R258, log
36). -/
def installFill (s : State) (md line : Nat) (d : List Byte) : State :=
  let c := getRdc s md
  let set := (c.lines.filter fun x => rdcSet x.1 == rdcSet line && x.1 != line).map (·.1)
  if set.length < 16 then putRdc s md { c with lines := smPut c.lines line d }
  else
    let n := drawBelow s set.length
    putRdc n.2 md { c with lines := smPut (smDel c.lines (set.getD n.1 line)) line d }

/-- The response that has come for a fill of another device's line. -/
def fillResp (s : State) (f : Fill) : Option RemoteReq :=
  f.tag.bind fun t => s.net.remotes.find? fun r => r.done && r.kind == kReadReq && r.tag == t

/-- A fill of a line completes with its data (R258, R261). -/
def endOfFill (s : State) (md : Nat) (f : Fill) (d : List Byte) : State :=
  let c := getRdc s md
  let s := putRdc s md { c with fills := c.fills.erase f }
  let s := if f.stale then fsat s md 0 Fl.RDC_FILLS_DROPPED_COUNT 1 else installFill s md f.line d
  rcDeliver s md f.wants d

/-- The one launch whose slots the engines of a die run, if they run one only. -/
def soleLaunch (s : State) (md : Nat) : Option Launch :=
  match ((List.range 34).filterMap fun e => slotOf s md e).map (·.1) with
  | [] => none
  | l :: r => if r.all fun x => x.ctx == l.ctx && x.seq == l.seq then some l else none

/-- A line of memory as a fill of a die reads it, for every engine of the die: no older than any of them has acquired or
than an earlier fill has read (R253, R254, R259). A line of a move that is not done is undefined (R216). `.engine md 255` stands
for the cache among the readers. Engines of two launches have no such write in common (log 180). -/
def fillView (s : State) (md line : Nat) (bs : List Byte) : List Byte × State :=
  match soleLaunch s md with
  | none => (bs, s)
  | some l =>
    let rc : Agent := .engine md 255
    let held (g : Fog) : Bool := g.seen.any fun a => match a with
      | .engine d _ => d == md
      | .stream _ _ _ => false
    let t := observe s rc l.ctx l.seq fun g => g.engine.isNone && lineOf g.lo == line && !held g
    match findLaunch t l.ctx l.seq with
    | none => (bs, t)
    | some l => (engineView l none line (lineView l none (fun g => held g || knows g rc) line bs), t)

/-- RC_FILL: the oldest fill of a line whose data can be had completes. A line of another device comes with the response to
the fill's own request (R261). -/
def runFill (s : State) (md line : Nat) : State :=
  match (getRdc s md).fills.find? fun f => f.line == line && (decide (line < 2 ^ 60) || (fillResp s f).isSome) with
  | none => s
  | some f =>
    match fillResp s f with
    | some r => endOfFill { s with net := { s.net with remotes := s.net.remotes.erase r } } md f r.data
    | none =>
      if paKind s line = .far ∧ !farUp s line then failFill s md f 0x0311
      else match ncFetch s line 64 with
      | (none, s) => rcPoison s md f
      | (some bs, s) =>
        let v := fillView s md line bs
        endOfFill v.2 md f v.1

/-- An invalidation takes effect: every line goes, outstanding fills will not be installed (R260, R261). -/
def rdcClear (s : State) (md : Nat) : State :=
  let c := getRdc s md
  putRdc s md { c with
    lines := []
    fills := c.fills.map fun f => { f with stale := true } }

/-- The oldest running invalidation of a die takes effect (R189, R260). -/
def runInvalDone (s : State) (md : Nat) : State :=
  let c := getRdc s md
  match c.invals with
  | [] => s
  | i :: r =>
    let s := rdcClear (putRdc s md { c with invals := r }) md
    match i with
    | .register =>
      let s := fsat (fput s md 0 Fl.RDC_INVALIDATE_DONE 1) md 0 Fl.RDC_INVALIDATIONS_REGISTER 1
      fput s md 0 Fl.RDC_INVALIDATE_START 0
    | .op e => 
      let s := fsat s md 0 Fl.RDC_INVALIDATIONS_OP 1
      match agentAt s (.engine md e) with
      | some (_, _, _, .inval) => advanceAgent s (.engine md e)
      | _ => s

end Sys2Proof.Machine
end

