-- ==== Sys2Proof/Machine/VectorUnit.lean ====
section
/-! DEFINITION. The vector unit: lane arithmetic, special functions within their error bounds, binary64 reductions
(R61 to R64, R187, R188). -/

namespace Sys2Proof.Machine

/-! ### Special functions (R63)

Each result is the exact result's lower neighbour in binary32 moved by a free number of places within the error bound
(log 6). -/

/-- Fixed-point places of the exponential. -/
def expPlaces : Nat := 400

/-- Sum of the Taylor series of exp at `t` (fixed point), `n` terms left, current term `u` of index `i`. -/
def expTerms (t : Int) : Nat → Nat → Int → Int
  | 0, _, _ => 0
  | n + 1, i, u => u + expTerms t n (i + 1) (u * t / 2 ^ expPlaces / ((i : Int) + 1))

/-- Square `n` times in fixed point. -/
def sqTimes : Nat → Int → Int
  | 0, x => x
  | n + 1, x => sqTimes n (x * x / 2 ^ expPlaces)

/-- exp(x) in fixed point for |x| below 128. -/
def expFix (x : Int) : Nat := (sqTimes 12 (expTerms (x / 2 ^ 12) 48 0 (2 ^ expPlaces))).toNat

/-- The largest integer whose square is at most `n`, by bits from `b` down. -/
def isqrt : Nat → Nat → Nat → Nat
  | 0, _, r => r
  | b + 1, n, r => if (r + 2 ^ b) * (r + 2 ^ b) ≤ n then isqrt b n (r + 2 ^ b) else isqrt b n r

/-- A positive result: its lower neighbour in binary32 plus `k` places; beyond the largest finite value, infinity. -/
def nudge (neg : Bool) (m : Nat) (e : Int) (k : Int) : Num :=
  let q := f32.quantum (max m 1) e
  let n := ((truncTo m e q : Int) + k).toNat
  let x : Num := .fin neg n q
  if f32.beyond x then .inf neg else x

/-- A free place offset below `n`, a function of the operation and its operand (R94). -/
def place (func : Nat) (a : Nat) (n : Nat) : Int := ((Config.special func (BitVec.ofNat 32 a)).toNat % n : Nat)

/-- exp of a binary32 value (R63). -/
def expOp (a : Nat) : Num :=
  match f32.decode a with
  | .nan => .nan
  | .inf n => if n then .fin false 0 0 else .inf false
  | .fin n m e =>
    if m = 0 then .fin false 1 0
    else if !n ∧ !magLe (m * 1000000) e 88722839 0 then .inf false
    else if n ∧ !magLe (m * 1000000) e 103972084 0 then .fin false 0 0
    else
      let x : Int := truncTo m e (-(expPlaces : Int))
      nudge false (expFix (if n then -x else x)) (-(expPlaces : Int)) (place 0 a 4 - 1)

/-- 1/x (R63). -/
def recipOp (a : Nat) : Num :=
  match f32.decode a with
  | .nan => .nan
  | .inf n => .fin n 0 0
  | .fin n m e =>
    if m = 0 then .inf n
    else if 2 ^ m.log2 = m then nudge n 1 (-(m.log2 : Int) - e) (place 1 a 3 - 1)
    else nudge n (2 ^ 400 / m) (-400 - e) (place 1 a 2)

/-- 1/√x (R63). -/
def rsqrtOp (a : Nat) : Num :=
  match f32.decode a with
  | .nan => .nan
  | .inf n => if n then .nan else .fin false 0 0
  | .fin n m e =>
    if m = 0 then .inf n
    else if n then .nan
    else
      let m := if e % 2 = 0 then m else 2 * m
      let e := if e % 2 = 0 then e else e - 1
      let q := 2 ^ 400 / m
      let r := isqrt 202 q 0
      if q * m = 2 ^ 400 ∧ r * r = q then nudge false r (-200 - e / 2) (place 2 a 3 - 1)
      else nudge false r (-200 - e / 2) (place 2 a 2)

/-! ### Lanes (R187) -/

/-- A lane's result as its output code: operation, operands and old destination as binary32 words. -/
def laneOp (vop a b d : Nat) : Nat :=
  let x := f32.decode a
  let y := f32.decode b
  match vop with
  | 0 => f32.enc (x.add y)
  | 1 => f32.enc (x.add y.neg)
  | 2 => f32.enc (x.mul y)
  | 3 => f32.enc ((x.mul y).add (f32.decode d))
  | 4 => f32.enc (x.max y)
  | 5 => f32.enc (x.min y)
  | 6 => f32.encode (expOp a)
  | 7 => f32.encode (expOp (f32.enc (x.add y.neg)))
  | 8 => f32.encode (recipOp a)
  | 9 => f32.encode (rsqrtOp a)
  | 10 => a
  | 11 => fBf16.enc x
  | 12 => fFp16.enc x
  | _ => f32.enc (fBf16.decode a)

/-- The 64 lanes at an address, of 4 or 2 bytes each. -/
def readLanes (s : State) (d e addr bytes : Nat) : List Nat :=
  unpackRow (8 * bytes) 64 (elRead s d e addr (64 * bytes))

/-- One vector of a VECTOR op; `one` is the operand b of modes 1 and 2, the same for every lane and vector. -/
def vectorStep (s : State) (d e vop dst src srcB bmode one i : Nat) : State :=
  let inB := if vop = 13 then 2 else 4
  let outB := if vop = 11 ∨ vop = 12 then 2 else 4
  let a := readLanes s d e (src + i * 64 * inB) inB
  let b := if bmode = 0 then readLanes s d e (srcB + i * 256) 4 else List.replicate 64 one
  let old := readLanes s d e (dst + i * 64 * outB) outB
  let r := (List.range 64).map fun j => laneOp vop (a.getD j 0) (b.getD j 0) (old.getD j 0)
  elStore s d e (dst + i * 64 * outB) (packRow (8 * outB) r)

/-- A VECTOR op. -/
def runVector (s : State) (d e vop dst src srcB bmode pool count : Nat) : State :=
  let one := if bmode = 1 then pool else elWord s d e srcB
  (List.range count).foldl (fun s i => vectorStep s d e vop dst src srcB bmode one i) s

/-! ### Reductions (R64, R188) -/

/-- Combine two inputs, either of which may be absent: a node of the tree. -/
def redNode (func : Nat) (a b : Option Num) : Option Num :=
  match a, b with
  | some x, some y =>
    some (if func = 2 then x.max y else if func = 3 then x.min y else f64.round (x.add y))
  | some x, none => some x
  | none, y => y

/-- One level of the pairwise tree. -/
def redLevel (func : Nat) : List (Option Num) → List (Option Num)
  | a :: b :: r => redNode func a b :: redLevel func r
  | l => l

/-- The pairwise tree over 64 lanes. -/
def redTree (func : Nat) (l : List (Option Num)) : Option Num :=
  ((List.range 6).foldl (fun l _ => redLevel func l) l).headD none

/-- The value that CLEAR sets (R188). -/
def redClear (func : Nat) : BitVec 64 :=
  BitVec.ofNat 64 (f64.encode (if func = 2 then .inf true else if func = 3 then .inf false else .fin true 0 0))

/-- Take one vector into an accumulator; a NaN stays until the next CLEAR. -/
def reduceStep (s : State) (d e src acc func lanes i : Nat) : State :=
  let ins := (readLanes s d e (src + i * 256) 4).zipIdx.map fun p =>
    if p.2 < lanes then
      let x := f32.decode p.1
      some (if func = 1 then f64.round (x.mul x) else x)
    else none
  let old := f64.decode ((getEng s d e).redAcc.getD acc 0).toNat
  let new := if old.isNan then Num.nan else (redNode func (some old) (redTree func ins)).getD old
  modEng s d e fun y => { y with redAcc := y.redAcc.set acc (BitVec.ofNat 64 (f64.encode new)) }

/-- A REDUCE op. -/
def runReduce (s : State) (d e : Nat) (clear : Bool) (src acc func count last : Nat) : State :=
  let s := if clear then modEng s d e fun y => { y with redAcc := y.redAcc.set acc (redClear func) } else s
  (List.range count).foldl (fun s i => reduceStep s d e src acc func (if i + 1 = count then last else 64) i) s

/-- The result of a REDUCE_READ (R188): every binary64 step of POST rounds to nearest even. -/
def redResult (a b : Num) (post l : Nat) : Num :=
  if post = 0 then a
  else if post = 1 then f64.round (a.divNat l)
  else
    let m := f64.round (b.divNat l)
    f64.round ((f64.round (a.divNat l)).add (f64.round (m.mul m)).neg)

/-- A REDUCE_READ op. -/
def runReduceRead (s : State) (d e dst a b post : Nat) (fmt64 : Bool) (l : Nat) : State :=
  let g (i : Nat) : Num := f64.decode ((getEng s d e).redAcc.getD i 0).toNat
  let r := redResult (g a) (g b) post l
  elStore s d e dst (if fmt64 then leBytes 8 (f64.encode r) else leBytes 4 (f32.enc r))

end Sys2Proof.Machine
end

