-- ==== Sys2Proof/Machine/Engine.lean ====
section
/-! DEFINITION. The words of an ephemeris as engines and Finder streams execute them, rewind regions, read-cache events
and self-tests (02 to 06, 09). A command finds its word at the agent's position; where the next word is another one, or
the agent is held, the command changes nothing (log 7). -/

namespace Sys2Proof.Machine

/-- Run a control word if it is the agent's next word. -/
def ctlWord (s : State) (a : Agent) (f : Launch → Nat → Op → List Int → Option State) : State :=
  match readyOp s a with
  | some (l, i, o, cs) => (f l i o cs).getD s
  | none => s

/-! ### Control words -/

/-- END: a slot has finished, the phase it was in is measured, and an announcement lapses (log 174); a stream finishes once its moves are done (R154). -/
def doEnd (a : Agent) (m : PhaseMeas) (s : State) : State :=
  ctlWord s a fun _ _ o _ => match o with
    | .end_ => match a with
      | .engine d e =>
        let s := endPhase s d e m
        let s := modEng s d e fun y => { y with phase := none, announced := none }
        some (modAgent s a (fun x => { x with finished := true }) id)
      | .stream h f c => match streamOf s h f c with
        | some (_, _, x) => if x.window.isEmpty then some (modAgent s a id fun y => { y with finished := true }) else none
        | none => none
    | _ => none

def execEnd (a : Agent) (m : PhaseMeas) (s : State) : Host.Outcome State Fault Refusal := .next (doEnd a m s)

/-- NOP: no effect (R176). -/
def doNop (a : Agent) (s : State) : State :=
  ctlWord s a fun _ _ o _ => match o with
    | .nop => some (advanceAgent s a)
    | _ => none

def execNop (a : Agent) (s : State) : Host.Outcome State Fault Refusal := .next (doNop a s)

/-- Enter a loop (R190). -/
def enterLoop (p : Nat) (loops : List LoopSt) (body count : Nat) (en : Bool) (c : Nat) (st : Int) : List LoopSt :=
  ⟨p + 1, p + body, count, en, c, st⟩ :: loops

/-- LOOP: the next BODY words run COUNT times (R190). -/
def doLoop (a : Agent) (s : State) : State :=
  ctlWord s a fun _ _ o _ => match o with
    | .loop b n en c st => some (modAgent s a
        (fun x => { x with loops := enterLoop x.pos x.loops b n en c st, pos := x.pos + 1 })
        (fun x => { x with loops := enterLoop x.pos x.loops b n en c st, pos := x.pos + 1 }))
    | _ => none

def execLoop (a : Agent) (s : State) : Host.Outcome State Fault Refusal := .next (doLoop a s)

/-- CURSOR: set a cursor or add to it (R179, R190). -/
def doCursor (a : Agent) (s : State) : State :=
  ctlWord s a fun _ _ o cs => match o with
    | .cursor c add v =>
      let cs := cs.set c (if add then cs.getD c 0 + v else v)
      some (advanceAgent (modAgent s a (fun x => { x with cursors := cs }) (fun x => { x with cursors := cs })) a)
    | _ => none

def execCursor (a : Agent) (s : State) : Host.Outcome State Fault Refusal := .next (doCursor a s)

/-! ### Errors in an engine's storage (R53, R68) -/

/-- The bits and counters of an error. -/
def engErrBits (s : State) (d e : Nat) (x : EngErr) : State :=
  match x with
  | .none => s
  | .osCe => fsat (fput s d e Fl.ENG_ERR_STATUS_OS_CE 1) d e Fl.ENG_ERR_COUNT_CE 1
  | .accCe => fsat (fput s d e Fl.ENG_ERR_STATUS_ACC_CE 1) d e Fl.ENG_ERR_COUNT_CE 1
  | .osUe => fsat (fput s d e Fl.ENG_ERR_STATUS_OS_UE 1) d e Fl.ENG_ERR_COUNT_UE 1
  | .accUe => fsat (fput s d e Fl.ENG_ERR_STATUS_ACC_UE 1) d e Fl.ENG_ERR_COUNT_UE 1
  | .bankCe r w => bankError s d (boundBank s d e) r w false
  | .bankUe r w =>
    fsat (fput (bankError s d (boundBank s d e) r w true) d e Fl.ENG_ERR_STATUS_BANK_UE 1) d e Fl.ENG_ERR_COUNT_UE 1

/-- Whether an error is uncorrected. -/
def engFatal : EngErr → Bool
  | .osUe => true
  | .accUe => true
  | .bankUe _ _ => true
  | .none => false
  | .osCe => false
  | .accCe => false
  | .bankCe _ _ => false

/-- Run an op that reads an engine's storage; which writes of other agents it sees is settled first (R253). A corrected error has no other effect; an uncorrected one ends the launch,
and the op writes nothing (R53, log 37). -/
def engineOp (s : State) (d e : Nat) (x : EngErr) (f : State → Launch → Nat → Op → List Int → Option State) : State :=
  match readyOp s (.engine d e) with
  | none => s
  | some (l, i, o, cs) =>
    let t := engErrBits (observe s (.engine d e) l.ctx l.seq fun g => g.engine == some (d, e)) d e x
    match f t l i o cs with
    | none => s
    | some u =>
      if engFatal x then
        let t := modEng t d e fun y => { y with dirty := true }
        launchErr (holdAgent t (.engine d e) .stopped) l.ctx l.seq 0x0F32 (engDetail d e i)
      else u

/-- End the launch for an invalid scale word (R98). -/
def badWord (s : State) (d e : Nat) (l : Launch) (i : Nat) : State :=
  launchErr (holdAgent s (.engine d e) .stopped) l.ctx l.seq 0x0405 (engDetail d e i)

/-! ### Matrix ops -/

/-- WLOAD: load the stationary operand (R41, R45, R180). -/
def doWload (d e : Nat) (x : EngErr) (s : State) : State :=
  engineOp s d e x fun s l i o cs => match o with
    | .wload src scale fmt blk gran rows cols =>
      let ribbon := (getEng s d e).ribbon
      match readOperand s d e (eaddr cs src) (eaddr cs scale) fmt blk gran rows cols (if ribbon then rows else cols)
          (!ribbon) with
      | some t => some (advanceAgent (modEng s d e fun y => { y with shadow := some t }) (.engine d e))
      | none => some (badWord s d e l i)
    | _ => none

def execWload (die eng : Nat) (e : EngErr) (s : State) : Host.Outcome State Fault Refusal := .next (doWload die eng e s)

/-- MATMUL: one square pass (R39, R40, R47, R49). -/
def doMatmul (d e : Nat) (x : EngErr) (s : State) : State :=
  engineOp s d e x fun s l i o cs => match o with
    | .matmul add src acc scale fmt blk gran m =>
      match (getEng s d e).shadow with
      | none =>
        some (advanceAgent (runZero s d e (eaddr cs acc) (width s d e) m (width s d e) add (isIntFmt fmt)) (.engine d e))
      | some w =>
        let s := modEng s d e fun y => { y with active := some w }
        match readOperand s d e (eaddr cs src) (eaddr cs scale) fmt blk gran m w.rows m false with
        | some a => some (advanceAgent (runSquare s d e (eaddr cs acc) add w a) (.engine d e))
        | none => some (badWord s d e l i)
    | _ => none

def execMatmul (die eng : Nat) (e : EngErr) (s : State) : Host.Outcome State Fault Refusal := .next (doMatmul die eng e s)

/-- RIBBON: one ribbon pass (R43 to R45, R47, R49). -/
def doRibbon (d e : Nat) (x : EngErr) (s : State) : State :=
  engineOp s d e x fun s l i o cs => match o with
    | .ribbon add src acc scale fmt blk gran n =>
      match (getEng s d e).shadow with
      | none => some (advanceAgent (runZero s d e (eaddr cs acc) n (ribbonRows fmt) n add (isIntFmt fmt)) (.engine d e))
      | some a =>
        let s := modEng s d e fun y => { y with active := some a }
        match readOperand s d e (eaddr cs src) (eaddr cs scale) fmt blk gran n a.cols n false with
        | some w => some (advanceAgent (runRibbon s d e (eaddr cs acc) n add a w) (.engine d e))
        | none => some (badWord s d e l i)
    | _ => none

def execRibbon (die eng : Nat) (e : EngErr) (s : State) : Host.Outcome State Fault Refusal := .next (doRibbon die eng e s)

/-! ### DRAIN -/

/-- What follows a closing drain (R115, R116): a rewind, or a commit. A rewind follows also where the scale has reached its
bound (R117, log 154). -/
def closeDrain (s : State) (d e : Nat) (l : Launch) (rewind : Bool) (slot : Nat) : State :=
  let s := runInject s d e
  match (getEng s d e).region with
  | none => advanceAgent s (.engine d e)
  | some g =>
    let retry := match l.scales[slot]? with
      | some c => c.retry
      | none => 0
    holdAgent s (.engine d e) (.decide (g.pending && rewind && g.attempt != retry))

/-- DRAIN: read accumulator entries through the Photometer (R183, R184). -/
def doDrain (d e : Nat) (x : EngErr) (s : State) : State :=
  engineOp s d e x fun s l _ o cs => match o with
    | .drain close rewind dequant pitchW axisCol mode dst acc ofmt blk slot rows cols k =>
      let s := runDrain s d e l dequant pitchW axisCol mode (eaddr cs dst) (eaddr cs acc) ofmt blk slot rows cols k
      some (if close then closeDrain s d e l rewind slot else advanceAgent s (.engine d e))
    | _ => none

def execDrain (die eng : Nat) (e : EngErr) (s : State) : Host.Outcome State Fault Refusal := .next (doDrain die eng e s)

/-! ### Vector ops -/

/-- VECTOR (R187). -/
def doVector (d e : Nat) (x : EngErr) (s : State) : State :=
  engineOp s d e x fun s l _ o cs => match o with
    | .vector dst a b idx vop bmode count =>
      let pool := ((l.pool.getD idx 0).toNat)
      some (advanceAgent (runVector s d e vop (eaddr cs dst) (eaddr cs a) (eaddr cs b) bmode pool count) (.engine d e))
    | _ => none

def execVector (die eng : Nat) (e : EngErr) (s : State) : Host.Outcome State Fault Refusal := .next (doVector die eng e s)

/-- REDUCE (R188). -/
def doReduce (d e : Nat) (x : EngErr) (s : State) : State :=
  engineOp s d e x fun s _ _ o cs => match o with
    | .reduce clear src acc func count last =>
      some (advanceAgent (runReduce s d e clear (eaddr cs src) acc func count last) (.engine d e))
    | _ => none

def execReduce (die eng : Nat) (e : EngErr) (s : State) : Host.Outcome State Fault Refusal := .next (doReduce die eng e s)

/-- REDUCE_READ (R188). -/
def doReduceRead (d e : Nat) (s : State) : State :=
  engineOp s d e .none fun s _ _ o cs => match o with
    | .reduceRead dst a b post fmt64 l =>
      some (advanceAgent (runReduceRead s d e (eaddr cs dst) a b post fmt64 l) (.engine d e))
    | _ => none

def execReduceRead (die eng : Nat) (s : State) : Host.Outcome State Fault Refusal := .next (doReduceRead die eng s)

/-! ### Tokens -/

/-- SIGNAL: inside a region it is deferred to the commit; a stream's waits until its earlier moves are done (R114, R138,
log 38). -/
def doSignal (a : Agent) (s : State) : State :=
  ctlWord s a fun l i o _ => match o with
    | .signal tok scope amount => match a with
      | .engine d e => match (getEng s d e).region with
        | some g => some (advanceAgent (modEng s d e fun y => { y with
            region := some { g with deferred := g.deferred ++ [(tok, scope, amount)] } }) a)
        | none => some (signalToken (advanceAgent s a) l tok scope amount i false a)
      | .stream h f c => match streamOf s h f c with
        | some (_, _, x) =>
          if x.window.isEmpty then some (signalToken (advanceAgent s a) l tok scope amount i true a) else none
        | none => none
    | _ => none

def execSignal (a : Agent) (s : State) : Host.Outcome State Fault Refusal := .next (doSignal a s)

/-- WAIT: the stream goes on once the counter is at least the value (R139). -/
def doWait (a : Agent) (s : State) : State :=
  ctlWord s a fun l _ o cs => match o with
    | .wait tok _ cur v =>
      let off : Int := match cur with
        | some c => cs.getD c 0
        | none => 0
      some (waitToken s l tok ((v : Int) + off).toNat a)
    | _ => none

def execWait (a : Agent) (s : State) : Host.Outcome State Fault Refusal := .next (doWait a s)

/-- The oldest WAIT held at its requester takes an entry that has freed (R143). -/
def doWaitHeldAdmit (md : Nat) (s : State) : State :=
  let u := getTok s md
  match u.held with
  | [] => s
  | w :: r => if u.waits.length < 1024 then arriveWait (putTok s md { u with held := r }) md w else s

def execWaitHeldAdmit (die : Nat) (s : State) : Host.Outcome State Fault Refusal := .next (doWaitHeldAdmit die s)

/-- The die whose TOK_WAIT_LIMIT counts for a WAIT on a remote token: the waiting engine's (R447); for a stream, the first die of its
launch (log 185). -/
def waitDie (l : Launch) : Agent → Option Nat
  | .engine d _ => some d
  | .stream _ _ _ => ((l.slots.filterMap (·.at_)).map (·.1)).min?

/-- A WAIT has been pending for its limit: the launch ends (R142). A WAIT on a remote token takes the limit of the
waiting engine's die (R447). -/
def doWaitTimeout (md : Nat) (a : Agent) (s : State) : State :=
  match (getTok s md).waits.find? fun w => w.agent == a with
  | some w =>
    if w.limit = 0 then s
    else match agentAt s a with
      | some (l, i, st, _) =>
        let u := getTok s md
        let s := putTok s md { u with waits := u.waits.erase w }
        let s := tokError s md w.ctx w.token i st true
        launchErr (holdAgent s a .stopped) l.ctx l.seq 0x0122 (tokenDetail w.token i st)
      | none => s
  | none => match agentAt s a with
    | some (l, i, st, .remote tok _) =>
      if waitDie l a ≠ some md ∨ fget s md 0 Fl.TOK_WAIT_LIMIT_LIMIT_MS = 0 then s
      else launchErr (holdAgent (tokError s md l.ctx tok i st true) a .stopped) l.ctx l.seq 0x0122 (tokenDetail tok i st)
    | _ => s

def execWaitTimeout (die : Nat) (a : Agent) (s : State) : Host.Outcome State Fault Refusal := .next (doWaitTimeout die a s)

/-! ### Phases -/

/-- Choose the voltage of an engine's partition again (R421). -/
def rechooseFor (s : State) (d : Nat) : State := match diePart s d with
  | some k => rechoose s k
  | none => s

/-- PHASE_ANNOUNCE: a later announce replaces an earlier one (R146, R421). -/
def doPhaseAnnounce (d e : Nat) (s : State) : State :=
  ctlWord s (.engine d e) fun _ _ o _ => match o with
    | .phaseAnnounce p =>
      some (advanceAgent (rechooseFor (modEng s d e fun y => { y with announced := some p }) d) (.engine d e))
    | _ => none

def execPhaseAnnounce (die eng : Nat) (s : State) : Host.Outcome State Fault Refusal := .next (doPhaseAnnounce die eng s)

/-- An announce that no PHASE_BEGIN has followed lapses (R146). -/
def doPhaseAnnounceLapse (d e : Nat) (s : State) : State :=
  match (getEng s d e).announced with
  | some _ => rechooseFor (modEng s d e fun y => { y with announced := none }) d
  | none => s

def execPhaseAnnounceLapse (die eng : Nat) (s : State) : Host.Outcome State Fault Refusal :=
  .next (doPhaseAnnounceLapse die eng s)

/-- PHASE_BEGIN: the phase before it is measured, and the new one begins (R146, R147). -/
def doPhaseBegin (d e : Nat) (m : PhaseMeas) (s : State) : State :=
  ctlWord s (.engine d e) fun l _ o _ => match o with
    | .phaseBegin p =>
      let s := endPhase s d e m
      let s := if (learnedE75 s l.ephId p).isNone then fsat s 24 0 Fl.PWR_LEARN_MISSES 1 else s
      let s := modEng s d e fun y => { y with
        phase := some p
        announced := if y.announced = some p then none else y.announced }
      some (advanceAgent (rechooseFor s d) (.engine d e))
    | _ => none

def execPhaseBegin (die eng : Nat) (m : PhaseMeas) (s : State) : Host.Outcome State Fault Refusal :=
  .next (doPhaseBegin die eng m s)

/-! ### Regions -/

/-- The scale slot of the drain that closes a region whose ops are given; a PLAIN drain names none (R116, R186). -/
def closingSlot : List Op → Option Nat
  | [] => none
  | o :: r => match o with
    | .drain true _ _ _ _ mode _ _ _ _ slot _ _ _ => if mode = 0 then none else some slot
    | _ => closingSlot r

/-- r_out that the engine keeps for a scale slot (R119). -/
def keptROut (s : State) (d e slot : Nat) : Nat :=
  ((getEng s d e).keptROut.find? fun p => p.1 == slot).elim 0 (·.2)

/-- Show the region's exponents and attempt (ENG_PHO_STATUS). -/
def showRegion (s : State) (d e rOut rAcc slot attempt : Nat) : State :=
  let s := fput s d e Fl.ENG_PHO_STATUS_R_OUT (min rOut 255)
  let s := fput s d e Fl.ENG_PHO_STATUS_R_ACC (min rAcc 255)
  let s := fput s d e Fl.ENG_PHO_STATUS_SCALE_SLOT slot
  let s := fput s d e Fl.ENG_PHO_STATUS_ATTEMPT attempt
  fput s d e Fl.ENG_PHO_STATUS_IN_REGION 1

/-- Send a mark of a slot to the Finder streams it names (R221). -/
def sendMark (s : State) (l : Launch) (i : Nat) (streams : BitVec 64) : State :=
  (List.range l.streams.length).foldl (fun s k =>
    if streams.getLsbD k then modStream s l.ctx l.seq k fun x => { x with inbox := x.inbox ++ [(i, false)] } else s) s

/-- REWIND_MARK: open a region (R112, R117, R119, R221). Its exponents start at the r_out kept for the scale slot of its
closing drain, and at 0 where that drain names none (log 141). -/
def doRewindMark (d e : Nat) (s : State) : State :=
  ctlWord s (.engine d e) fun l i o _ => match o with
    | .rewindMark streams => match slotOf s d e with
      | some (_, _, x) =>
        let close := closingSlot (x.ops.drop (x.pos + 1))
        let slot := close.getD 0
        let r := close.elim 0 (keptROut s d e)
        let g : Region := ⟨x.pos + 1, streams, 0, r, 0, [], [], false, none, none, none, [], [], slot, 0, 0⟩
        let s := modEng s d e fun y => { y with region := some g }
        some (advanceAgent (sendMark (showRegion s d e r 0 slot 0) l i streams) (.engine d e))
      | none => none
    | _ => none

def execRewindMark (die eng : Nat) (s : State) : Host.Outcome State Fault Refusal := .next (doRewindMark die eng s)

/-- GEOMETRY: the array switches, and both register sets of every cell hold zero (R46). -/
def doGeometry (d e : Nat) (s : State) : State :=
  ctlWord s (.engine d e) fun _ _ o _ => match o with
    | .geometry r =>
      let s := fput s d e Fl.ENG_STATUS_GEOMETRY (b2n r)
      some (advanceAgent (modEng s d e fun y => { y with ribbon := r, shadow := none, active := none }) (.engine d e))
    | _ => none

def execGeometry (die eng : Nat) (s : State) : Host.Outcome State Fault Refusal := .next (doGeometry die eng s)

/-! ### The read cache -/

/-- RC_LOAD (R189, R259). -/
def doRcLoad (d e : Nat) (x : List (List Ecc)) (s : State) : State :=
  match slotOf s d e with
  | none => s
  | some (l, _, sl) =>
    ctlWord s (.engine d e) fun _ _ o cs => match o with
      | .rcLoad dst b off lines cur =>
        let c : Int := match cur with
          | some c => cs.getD c 0
          | none => 0
        match l.bindings[b]? with
        | some bd => some (runRcLoad s l d e x (eaddr sl.cursors dst) (bd.va + (64 * ((off : Int) + c)).toNat) lines)
        | none => none
      | _ => none

def execRcLoad (die eng : Nat) (e : List (List Ecc)) (s : State) : Host.Outcome State Fault Refusal := .next (doRcLoad die eng e s)

/-- RC_INVALIDATE: it completes when the invalidation takes effect (R189, R260). -/
def doRcInvalidate (d e : Nat) (s : State) : State :=
  ctlWord s (.engine d e) fun _ _ o _ => match o with
    | .rcInvalidate =>
      let c := getRdc s d
      some (holdAgent (putRdc s d { c with invals := c.invals ++ [.op e] }) (.engine d e) .inval)
    | _ => none

def execRcInvalidate (die eng : Nat) (s : State) : Host.Outcome State Fault Refusal := .next (doRcInvalidate die eng s)

/-- A write of 1 to RDC_INVALIDATE.START; none has an effect while one runs (R260). -/
def doRdcInvalidate (d : Nat) (s : State) : State :=
  if fget s d 0 Fl.RDC_INVALIDATE_START = 1 then s
  else
    let s := fput (fput s d 0 Fl.RDC_INVALIDATE_START 1) d 0 Fl.RDC_INVALIDATE_DONE 0
    putRdc s d { getRdc s d with invals := (getRdc s d).invals ++ [.register] }

def execRdcInvalidate (die : Nat) (s : State) : Host.Outcome State Fault Refusal := .next (onDie s die fun s => doRdcInvalidate die s)

def execReadCacheInvalidationDone (die : Nat) (s : State) : Host.Outcome State Fault Refusal := .next (runInvalDone s die)

/-! ### Commit and rewind -/

/-- Observe the largest ratio of a rewind or a saturation (ENG_PHO_LAST_OBSERVED). -/
def observeRho (s : State) (d e : Nat) (g : Region) : State :=
  match g.rho with
  | some r => fput s d e Fl.ENG_PHO_LAST_OBSERVED_RHO r.f32Up
  | none => s

/-- COMMIT: the commit begins. Its lines become visible in ascending address order; which of them are visible before it
ends is free (R115, R263). -/
def doCommit (d e : Nat) (s : State) : State :=
  match slotOf s d e, (getEng s d e).region with
  | some (l, _, x), some g =>
    if x.hold = .decide false ∧ l.phase = .running then
      let s := if g.pending then observeRho s d e g else s
      let s := fput (holdAgent s (.engine d e) .committing) d e Fl.ENG_PHO_STATUS_COMMITTING 1
      let q := draw s
      let n := nextGroup s d e
      let s := modEng q.2 d e fun y => { y with region := some { g with written := q.1.toNat * 64, group := n } }
      writeCells s d e n 0 (q.1.toNat * 64) (commitCells g.buffer)
    else s
  | _, _ => s

def execCommit (die eng : Nat) (s : State) : Host.Outcome State Fault Refusal := .next (doCommit die eng s)

/-- COMMIT_COMPLETE: every line is written, then the deferred signals apply in stream order; a commit that has begun
completes even when its launch has ended (R112, R114, R115). -/
def doCommitComplete (d e : Nat) (s : State) : State :=
  match slotOf s d e, (getEng s d e).region with
  | some (l, i, x), some g =>
    if x.hold = .committing then
      let s := writeCells s d e g.group g.written (2 ^ 27) (commitCells g.buffer)
      let s := addWrote (addSats s d e l.ctx l.seq g.sats) l.ctx l.seq g.wrote
      let s := advanceAgent (dropRegion s d e) (.engine d e)
      g.deferred.foldl (fun s t => signalToken s l t.1 t.2.1 t.2.2 i false (.engine d e)) s
    else s
  | _, _ => s

def execCommitComplete (die eng : Nat) (s : State) : Host.Outcome State Fault Refusal := .next (doCommitComplete die eng s)

/-- Send the cancellation of a rewind to the streams its mark named (R119, R219). -/
def sendCancel (s : State) (l : Launch) (i : Nat) (streams : BitVec 64) : State :=
  (List.range l.streams.length).foldl (fun s k =>
    if streams.getLsbD k then modStream s l.ctx l.seq k fun x => { x with inbox := x.inbox ++ [(i, true)] } else s) s

/-- What a rewind shows of itself (ENG_PHO_REWINDS, ENG_PHO_LAST_REWIND). -/
def showRewind (s : State) (d e : Nat) (l : Launch) (i : Nat) (g : Region) (k : Nat) : State :=
  let s := fsat s d e Fl.ENG_PHO_REWINDS_COUNT 1
  let s := fput s d e Fl.ENG_PHO_LAST_REWIND_CONTEXT l.ctx
  let s := fput s d e Fl.ENG_PHO_LAST_REWIND_SLOT i
  let s := fput s d e Fl.ENG_PHO_LAST_REWIND_SCALE_SLOT g.slot
  let s := fput s d e Fl.ENG_PHO_LAST_REWIND_K (min k 255)
  let s := fput s d e Fl.ENG_PHO_LAST_REWIND_ATTEMPT (g.attempt + 1)
  let s := fput s d e Fl.ENG_PHO_LAST_REWIND_CAUSE_INT32 (b2n g.intMax.isSome)
  let s := fput s d e Fl.ENG_PHO_LAST_REWIND_CAUSE_BINARY32 (b2n g.accExp.isSome)
  fput s d e Fl.ENG_PHO_LAST_REWIND_CAUSE_CODE (b2n g.codeCause)

/-- REWIND: raise the exponents, discard the attempt, cancel, report (R117, R119). -/
def doRewind (d e : Nat) (s : State) : State :=
  match slotOf s d e, (getEng s d e).region with
  | some (l, i, x), some g =>
    if x.hold = .decide true ∧ l.phase = .running then
      let k := max g.kCode (max g.kAcc g.kInt)
      let rOut := g.rOut + k
      let rAcc := g.rAcc + max g.kAcc g.kInt
      let s := showRewind (observeRho s d e g) d e l i g k
      let h : Region := ⟨g.restart, g.streams, g.attempt + 1, rOut, rAcc, [], [], false, none, none, none, [], [], g.slot, 0, 0⟩
      let s := modEng s d e fun y => { y with
        region := some h
        keptROut := (g.slot, rOut) :: y.keptROut.filter fun p => p.1 != g.slot }
      let s := fput (fput s d e Fl.ENG_PHO_COMMIT_USED 0) d e Fl.ENG_PHO_STATUS_OVF_PENDING 0
      let s := showRegion s d e rOut rAcc g.slot (g.attempt + 1)
      let s := traceLaunch (sendCancel s l i g.streams) l.ctx l.seq (unitId d 1 e)
      let s := modLaunch s l.ctx l.seq fun y => { y with rewindReports := y.rewindReports + 1 }
      holdAgent s (.engine d e) .restarting
    else s
  | _, _ => s

def execRewind (die eng : Nat) (s : State) : Host.Outcome State Fault Refusal := .next (doRewind die eng s)

/-- REWIND_RESTART: the region runs again from the op after the mark (R119). The operand registers stay as the failed attempt
left them (log 148). -/
def doRewindRestart (d e : Nat) (s : State) : State :=
  match slotOf s d e, (getEng s d e).region with
  | some (l, i, x), some g =>
    if x.hold = .restarting ∧ l.phase = .running then
      modSlot s l.ctx l.seq i fun y => { y with pos := g.restart, hold := .run }
    else s
  | _, _ => s

def execRewindRestart (die eng : Nat) (s : State) : Host.Outcome State Fault Refusal := .next (doRewindRestart die eng s)

/-- REWIND_REPORT: a report reaches the front end; the one above the budget ends the launch (R121). -/
def doRewindReport (c seq : Nat) (s : State) : State :=
  match findLaunch s c seq with
  | none => s
  | some l =>
    if l.rewindReports = 0 then s
    else
      let s := modLaunch s c seq fun y => { y with rewindReports := y.rewindReports - 1, rewinds := y.rewinds + 1 }
      if l.budget < l.rewinds + 1 then launchErr s c seq 0x0402 (BitVec.ofNat 64 (l.rewinds + 1)) else s

def execRewindReport (ctx seq : Nat) (s : State) : Host.Outcome State Fault Refusal := .next (doRewindReport ctx seq s)

/-! ### Self-test, retirement and injection (R57, R60, R66, R125) -/

/-- ROLE of an engine: 0 active, 1 spare, 2 retired, 3 failed. -/
def engRole (s : State) (d e : Nat) : Nat := fget s d e Fl.ENG_STATUS_ROLE

/-- A write of 1 to ENG_SELFTEST.START (R66). -/
def doEngSelftest (d e : Nat) (s : State) : State :=
  let ok := !(getEng s d e).testing &&
    (engRole s d e == 1 || (engRole s d e == 0 && fget s d e Fl.ENG_STATUS_PLACED == 0))
  if ok then
    let s := modEng s d e fun y => { y with testing := true }
    let s := fput (fput s d e Fl.ENG_SELFTEST_REJECTED 0) d e Fl.ENG_SELFTEST_DONE 0
    pairOn (fput s d e Fl.ENG_SELFTEST_START 1) d (e / 2)
  else fput s d e Fl.ENG_SELFTEST_REJECTED 1

def execEngSelftest (die eng : Nat) (s : State) : Host.Outcome State Fault Refusal := .next (onDie s die fun s => doEngSelftest die eng s)

/-- Number of active engines of a die. -/
def activeCount (s : State) (d : Nat) : Nat := ((List.range 34).filter fun e => engRole s d e == 0).length

/-- The spare of a die that replaces an engine: the lowest-numbered, one under self-test among them (log 150). -/
def spareOf (s : State) (d : Nat) : Option Nat := (List.range 34).find? fun e => engRole s d e == 1

/-- Bind an engine to a bank of the near-store die beneath, or to none (R58, R60). -/
def bindBank (s : State) (d e bank : Nat) : State :=
  let s := fput s d e Fl.ENG_BINDING_BANK bank
  if bank < 32 then fput s (d + 8) bank Fl.NST_BANK_ENGINE e else s

/-- Retire an engine while no launch is placed on it: a spare takes over its binding and the bank's contents, or the die
has one engine less (R59, R60). -/
def retireEngine (s : State) (d e : Nat) : State :=
  let bank := boundBank s d e
  let active := engRole s d e == 0
  let s := raise (fput s d e Fl.ENG_STATUS_ROLE 2) 0x0F30 1 (unitId d 1 e)
  let s := bindBank s d e 0xFF
  let s := modEng s d e fun y => { y with retiring := false }
  if !active then s
  else
    match spareOf s d with
    | some k => bindBank (fput s d k Fl.ENG_STATUS_ROLE 0) d k bank
    | none =>
      let s := if bank < 32 then fput s (d + 8) bank Fl.NST_BANK_ENGINE 0xFF else s
      raise s 0x0F31 2 (unitId d 0 0)

/-- The column map of an engine as 128 bits. -/
def colmap (s : State) (d e : Nat) : Nat :=
  (rget s d .engColmapLo e).toNat + (rget s d .engColmapHi e).toNat * 2 ^ 64

/-- Set the column map and what follows from it (R55, R56). -/
def setColmap (s : State) (d e m : Nat) : State :=
  let s := rput s d .engColmapLo e (BitVec.ofNat 64 m)
  let s := rput s d .engColmapHi e (BitVec.ofNat 64 (m / 2 ^ 64))
  let b := popcount m 128
  let s := fput s d e Fl.ENG_WIDTH_BAD_COUNT b
  fput s d e Fl.ENG_WIDTH_PRESENTED_WIDTH (if b ≤ 4 then 128 - b else 0)

/-- The self-test of an engine ends; columns that fail join the map (R60, R66). -/
def doSelftestDone (d e : Nat) (failed : BitVec 128) (s : State) : State :=
  if !(getEng s d e).testing then s
  else
    let old := colmap s d e
    let new := old ||| failed.toNat
    let added := popcount new 128 - popcount old 128
    let s := modEng (setColmap s d e new) d e fun y => { y with testing := false }
    let s := fput (fput s d e Fl.ENG_SELFTEST_START 0) d e Fl.ENG_SELFTEST_DONE 1
    let s := fput (fput s d e Fl.ENG_SELFTEST_PASS (b2n (added == 0))) d e Fl.ENG_SELFTEST_NEW_BAD added
    let s := if added = 0 then s else fput s d e Fl.ENG_ERR_STATUS_SELFTEST_FAIL 1
    if 4 < popcount new 128 ∧ engRole s d e ≤ 1 then retireEngine s d e else s

def execSelftestDone (die eng : Nat) (failed : BitVec 128) (s : State) : Host.Outcome State Fault Refusal :=
  .next (doSelftestDone die eng failed s)

/-- A write of 1 to ENG_PHO_TEST.INJECT (R125). -/
def doEngPhoTest (d e : Nat) (s : State) : State :=
  if fget s d e Fl.ENG_STATUS_PLACED = 0 then
    fput (fput s d e Fl.ENG_PHO_TEST_INJECT 1) d e Fl.ENG_PHO_TEST_REJECTED 0
  else fput s d e Fl.ENG_PHO_TEST_REJECTED 1

def execEngPhoTest (die eng : Nat) (s : State) : Host.Outcome State Fault Refusal := .next (onDie s die fun s => doEngPhoTest die eng s)

end Sys2Proof.Machine
end

