-- ==== Sys2Proof/Machine/Events.lean ====
section
/-! DEFINITION. The system event log (R516 to R519). -/

namespace Sys2Proof.Machine

/-- Records in the ring, and records that wait while the log is off. -/
def logSize : Nat := 4096
def logWait : Nat := 64

/-- Write one record: the oldest slot is overwritten when the ring is full, and the vector is sent after the record. -/
def writeEvent (s : State) (e : Event) : State :=
  let prod := fget s 24 0 Fl.EVT_PROD_COUNT
  let cons := fget s 24 0 Fl.EVT_CONS_COUNT
  let s :=
    if (prod + 2 ^ 32 - cons) % 2 ^ 32 = logSize then
      fsat (fput s 24 0 Fl.EVT_CONS_COUNT (cons + 1)) 24 0 Fl.EVT_LOST_OVERWRITTEN 1
    else s
  let s := recWrite s (fget s 24 0 Fl.EVT_LOG_BASE * 2 ^ 17 + prod % logSize * 32) (eventBytes e)
  let s := fput s 24 0 Fl.EVT_PROD_COUNT (prod + 1)
  if fget s 24 0 Fl.EVT_IRQ_ENABLE = 1 ∧ fget s 24 0 Fl.EVT_IRQ_MIN_SEVERITY ≤ e.severity then
    sendIrq s (fget s 24 0 Fl.EVT_IRQ_VECTOR)
  else s

/-- A record reaches the Dome: it is written, or waits, or is dropped. -/
def logEvent (s : State) (e : Event) : State :=
  let s := traceRec s e
  if fget s 24 0 Fl.EVT_LOG_ENABLE = 1 then writeEvent s e
  else if s.evt.waiting.length < logWait then { s with evt := { s.evt with waiting := s.evt.waiting ++ [e] } }
  else fsat s 24 0 Fl.EVT_LOST_DROPPED 1

/-- EVENT_RECORD: the record that arrived first. -/
def doEventRecord (s : State) : State :=
  match s.evt.arriving with
  | [] => s
  | e :: r => logEvent { s with evt := { s.evt with arriving := r } } e

def execEventRecord (s : State) : Host.Outcome State Fault Refusal := .next (doEventRecord s)

/-- ENABLE becomes 1 with a base: the waiting records are written in order. BASE is ignored while ENABLE is 1. -/
def doEvtLogEnable (w : BitVec 64) (s : State) : State :=
  if fget s 24 0 Fl.EVT_LOG_ENABLE = 1 then s
  else
    let s := fput (fput s 24 0 Fl.EVT_LOG_BASE (fldOf Fl.EVT_LOG_BASE w)) 24 0 Fl.EVT_LOG_ENABLE 1
    let l := s.evt.waiting
    l.foldl writeEvent { s with evt := { s.evt with waiting := [] } }

def execEvtLogEnable (base : BitVec 64) (s : State) : Host.Outcome State Fault Refusal := .next (onDie s 24 fun s => doEvtLogEnable base s)

end Sys2Proof.Machine
end

