-- ==== Sys2Proof/Machine/Tiles.lean ====
section
/-! DEFINITION. The shapes of a move's endpoints, their bytes and the layout of their scales (R99, R196, R197, R209 to
R215), as launch validation and the Finders use them. -/

namespace Sys2Proof.Machine

/-- Rows of an endpoint, the real elements of each, and whether a row is a record. -/
structure Shape where
  rows : Nat
  cols : Nat
  rec_ : Bool
  deriving DecidableEq, Repr

/-- The source of a move (R212). -/
def srcShape (w : MoveWord) : Shape := ⟨w.rows, w.cols, w.transform == 2 && w.srcNs⟩

/-- The destination of a move (R212). -/
def dstShape (w : MoveWord) : Shape :=
  if w.transform = 1 then ⟨w.cols, w.rows, w.dstNs⟩
  else ⟨w.rows, w.cols, w.dstNs && (w.transform == 2 || w.transform == 3)⟩

/-- Element slots of a row. -/
def Shape.width (x : Shape) : Nat := if x.rec_ then recLen x.cols else x.cols

/-- Bytes of a row. -/
def Shape.rowLen (x : Shape) (fmt : Nat) : Nat := rowBytes (fmtBits fmt) x.width

/-- Codes of an endpoint whose rows are packed without gaps. -/
def Shape.codes (x : Shape) (fmt : Nat) : Nat := x.rows * x.rowLen fmt

/-- The scale kind after a transform: transpose exchanges kinds 1 and 2, and 3 and 4 (R214). -/
def scaleKindAfter (transform kind : Nat) : Nat :=
  if transform ≠ 1 then kind
  else match kind with
    | 1 => 2
    | 2 => 1
    | 3 => 4
    | 4 => 3
    | k => k

/-- Bytes of a scale tensor of a data tensor of `r` rows of `c` element slots (R99). -/
def scaleLen (kind blk r c : Nat) : Nat :=
  match kind with
  | 1 => r * cdiv c (blkSize blk)
  | 2 => cdiv r (blkSize blk) * c
  | 3 => 4 * r
  | 4 => 4 * c
  | 5 => 8 * c
  | 6 => 8
  | _ => 0

/-- Byte offset and size of the scale of element (r, c) in a scale tensor whose data tensor has rows of `C` elements
(R99). -/
def scaleAddr (kind blk C r c : Nat) : Nat × Nat :=
  match kind with
  | 1 => (r * cdiv C (blkSize blk) + c / blkSize blk, 1)
  | 2 => (r / blkSize blk * C + c, 1)
  | 3 => (4 * r, 4)
  | 4 => (4 * c, 4)
  | 5 => (8 * c, 8)
  | _ => (0, 8)

/-- The binding endpoint of a PAIRED move. -/
def pairedBinding (w : MoveWord) : Nat := if w.srcNs then w.dstIndex else w.srcIndex

/-- Scale bytes at the near-store endpoint of a PAIRED move; they take the binding's kind, exchanged by a transpose when
near store is the destination (R214). -/
def nearScaleLen (w : MoveWord) (kind : Nat) : Nat :=
  let x := if w.srcNs then srcShape w else dstShape w
  scaleLen (scaleKindAfter w.transform kind) w.blk x.rows x.width

/-- Bytes of the near-store endpoint: codes, and the scales after the next 64-byte boundary (R197). -/
def nearBytes (w : MoveWord) (kind : Nat) : Nat :=
  let x := if w.srcNs then srcShape w else dstShape w
  if w.paired then roundUp (x.codes w.fmt) 64 + nearScaleLen w kind else x.codes w.fmt

/-- Bytes of the scales that a PAIRED move carries at its binding endpoint. -/
def bindScaleLen (w : MoveWord) (kind : Nat) : Nat :=
  let x := if w.srcNs then dstShape w else srcShape w
  scaleLen kind w.blk x.rows x.cols

/-- The staging charge: the bytes that the move writes, rounded up to 4 KiB (R215, R218). -/
def stagingCharge (w : MoveWord) (kind : Nat) : Nat :=
  let n := if w.dstNs then roundUp (nearBytes w kind) 64
    else (dstShape w).codes w.fmt + (if w.paired then bindScaleLen w kind else 0)
  roundUp n 4096

/-- Origin row and column of a binding endpoint, and whether the column is whole (R197). -/
def originOf (off pitch fmt : Nat) : Nat × Nat × Bool :=
  let rest := if pitch = 0 then off else off % pitch
  (if pitch = 0 then 0 else off / pitch, rest * 8 / fmtBits fmt, rest * 8 % fmtBits fmt == 0)

/-- End of the scale sub-tensor of `r` rows and `c` columns at an origin (R99). -/
def scaleEnd (kind blk C r0 c0 r c : Nat) : Nat :=
  let a := scaleAddr kind blk C (r0 + r - 1) (c0 + c - 1)
  a.1 + a.2

end Sys2Proof.Machine
end

