-- ==== Sys2Proof/Machine/MoveData.lean ====
section
/-! DEFINITION. The data of a tile move: its source lines, the transform of codes and scales, its destination lines
(R212 to R218, R223, R285). -/

namespace Sys2Proof.Machine

/-- Where bytes lie: in the bank of an engine, at a virtual address, or at a physical address of this or of another
device. -/
inductive Loc where
  | near (die eng off : Nat)
  | va (a : Nat)
  | pa (a : Nat)
  | remote (dev a : Nat)
  deriving DecidableEq, Repr

/-- A location some bytes further on. -/
def Loc.plus (n : Nat) : Loc → Loc
  | .near d e o => .near d e (o + n)
  | .va a => .va (a + n)
  | .pa a => .pa (a + n)
  | .remote d a => .remote d (a + n)

/-- Offset of a location in its line. -/
def Loc.inLine : Loc → Nat
  | .near _ _ o => o % 64
  | .va a => a % 64
  | .pa a => a % 64
  | .remote _ a => a % 64

/-- A byte or a code, with whether it comes from a line that could not be read. -/
abbrev Flagged := Nat × Bool

/-- Bytes that were read, with the first error met. -/
structure Got where
  bytes : List Flagged
  err : Option Nat
  deriving DecidableEq, Repr

/-- `n` bytes that could not be read. -/
def Got.bad (n status : Nat) : Got := ⟨List.replicate n (0, true), some status⟩

/-- Two reads one after the other. -/
def Got.append (a b : Got) : Got := ⟨a.bytes ++ b.bytes, a.err.or b.err⟩

/-! ### Reading -/

/-- Bytes of memory as the requester sees them: a stream may not have acquired what another agent of its launch wrote. -/
def seeAs (s : State) (r : Requester) (a : Nat) (bs : List Byte) : List Byte :=
  match r with
  | .agent w c q => seeMem s c q w a bs
  | .cmd _ _ => bs
  | .pin _ _ => bs
  | .qp _ _ => bs

/-- Before a stream's job reads, writes that it has not acquired become visible to it in free measure (R253). -/
def observeReq (s : State) (r : Requester) : State :=
  match r with
  | .agent w c q => observe s w c q fun _ => true
  | .cmd _ _ => s
  | .pin _ _ => s
  | .qp _ _ => s

/-- Read physical memory; bytes of poisoned lines are marked (R223). -/
def getPa (s : State) (r : Requester) (a n : Nat) : Got × State :=
  let w := a + n - lineOf a
  let q := ncRead s (lineOf a) (roundUp w 64) (reqHub r)
  let bs := ((seeAs q.2 r (lineOf a) q.1).drop (a - lineOf a)).take n
  let bs := bs.zipIdx.map fun x => (x.1.toNat, poisoned q.2 (lineOf (a + x.2)))
  (⟨bs, if rangePoison q.2 a n then some 0x0502 else none⟩, q.2)

/-- Near store as the requester sees it. -/
def getNear (s : State) (r : Requester) (d e off n : Nat) : List Byte :=
  match r with
  | .agent w c q => nearRead s (findLaunch s c q) w d e off n
  | .cmd _ _ => memReadN s.near (bankKey d (boundBank s d e) off) n
  | .pin _ _ => memReadN s.near (bankKey d (boundBank s d e) off) n
  | .qp _ _ => memReadN s.near (bankKey d (boundBank s d e) off) n

/-- Read the translated pieces of a range; none while a line of another device is on its way. -/
def getPieces (s : State) (r : Requester) : List (Tr × Nat) → Option Got × State
  | [] => (some ⟨[], none⟩, s)
  | (.ok pa, n) :: rest =>
    let q := getPa s r pa n
    match getPieces q.2 r rest with
    | (some g, s) => (some (q.1.append g), s)
    | x => x
  | (.remote dev a, n) :: rest =>
    match remoteRead s r dev a n with
    | (.error .wait, s) => (none, (getPieces s r rest).2)
    | (.error (.fail st), s) =>
      match getPieces s r rest with
      | (some g, s) => (some ((Got.bad n st).append g), s)
      | x => x
    | (.ok d, s) =>
      match getPieces s r rest with
      | (some g, s) => (some (Got.append ⟨d.map fun b => (b.toNat, false), none⟩ g), s)
      | x => x
  | (.wait, _) :: _ => (none, s)
  | (.fail st, n) :: rest =>
    match getPieces s r rest with
    | (some g, s) => (some ((Got.bad n st).append g), s)
    | x => x

/-- Read `n` bytes of a move's source; none while a translation is awaited. -/
def getLoc (s : State) (r : Requester) (c : Nat) (l : Loc) (n : Nat) : Option Got × State :=
  match l with
  | .near d e o => (some ⟨(getNear s r d e o n).map fun b => (b.toNat, false), none⟩, s)
  | .pa a => let q := getPa s r a n; (some q.1, q.2)
  | .remote dev a => getPieces s r [(.remote dev a, n)]
  | .va a =>
    match xlateRange s r c a n false with
    | (.error .wait, s) => (none, s)
    | (.error (.fail st), s) => (some (Got.bad n st), s)
    | (.ok l, s) =>
      match getPieces s r l with
      | (some g, s) => (some g, touchRange s c (pageChunks a n))
      | x => x

/-- How a job reads a range: none while a translation or a response is awaited. -/
abbrev Reader := State → Loc → Nat → Option Got × State

/-- Whether the `n` bytes from the first location hold the second. -/
def Loc.holds (n : Nat) : Loc → Loc → Bool
  | .near d e o, .near d' e' o' => d == d' && e == e' && decide (o ≤ o') && decide (o' < o + n)
  | .pa a, .pa b => decide (a ≤ b) && decide (b < a + n)
  | .remote d a, .remote d' b => d == d' && decide (a ≤ b) && decide (b < a + n)
  | _, _ => false

/-- Mark the bytes read at a location that lie in ranges which give no data. -/
def markBad (bad : List (Loc × Nat)) (l : Loc) (bs : List Flagged) : List Flagged :=
  if bad.isEmpty then bs
  else bs.zipIdx.map fun b => (b.1.1, b.1.2 || bad.any fun x => Loc.holds x.2 x.1 (l.plus b.2))

/-- The reads of a job that runs; lines in `bad` are in error (R68). -/
def jobReader (r : Requester) (c : Nat) (bad : List (Loc × Nat)) : Reader := fun s l n =>
  match getLoc s r c l n with
  | (some g, t) =>
    let bs := markBad bad l g.bytes
    (some ⟨bs, g.err.or (if bs.any (·.2) then some 0x0502 else none)⟩, t)
  | x => x

/-- Bytes at a place that is known, as far as they can be had at once; those in `blk` cannot. -/
def peekAt (s : State) (r : Requester) (blk : List (Loc × Nat)) (l : Loc) (n : Nat) : List Flagged :=
  match l with
  | .near d e o => markBad blk l ((getNear s r d e o n).map fun b => (b.toNat, false))
  | .pa a => markBad blk l (getPa s r a n).1.bytes
  | .remote dev a => match (remoteRead s r dev a n).1 with
    | .ok d => markBad blk l (d.map fun b => (b.toNat, false))
    | .error _ => List.replicate n (0, true)
  | .va _ => List.replicate n (0, true)

/-- Where the page of a virtual address lies for a read or a write, if its translation is at hand. -/
def peekTr (s : State) (r : Requester) (c va : Nat) (write : Bool) : Option Loc :=
  match (xlate s r c va write none).1 with
  | .ok pa => if (accelRefusal s (ctxPart s c) pa).isNone then some (.pa pa) else none
  | .remote d a => some (.remote d a)
  | _ => none

/-- The reads that a job has made by the time it breaks off: they await nothing and change nothing, and what `blk` covers
had not been written. -/
def peekReader (r : Requester) (c : Nat) (blk : List (Loc × Nat)) : Reader := fun s l n =>
  let bs := match l with
    | .va a => (pageChunks a n).flatMap fun p => match peekTr s r c p.1 false with
      | some x => peekAt s r blk x p.2
      | none => List.replicate p.2 (0, true)
    | _ => peekAt s r blk l n
  (some ⟨bs, none⟩, s)

/-- Read several ranges. -/
def getRows (rd : Reader) (s : State) : List (Loc × Nat) → Option (List Got) × State
  | [] => (some [], s)
  | (l, n) :: rest =>
    match rd s l n with
    | (none, s) => (none, s)
    | (some g, s) =>
      match getRows rd s rest with
      | (some gs, s) => (some (g :: gs), s)
      | x => x

/-! ### Codes and scales -/

/-- The codes of a row of `w`-bit elements; a code is marked when a byte that holds a part of it is (R75). -/
def rowCodes (w n : Nat) (row : List Flagged) : List Flagged :=
  let cs := unpackRow w n (row.map fun b => BitVec.ofNat 8 b.1)
  cs.zipIdx.map fun p =>
    (p.1, (row.drop (p.2 * w / 8)).take ((p.2 * w + w - 1) / 8 - p.2 * w / 8 + 1) |>.any (·.2))

/-- The bytes of a row of codes; a byte is marked when a code that it holds a part of is. -/
def rowPack (w : Nat) (cs : List Flagged) : List Flagged :=
  let bs := packRow w (cs.map (·.1))
  bs.zipIdx.map fun p =>
    (p.1.toNat, (cs.drop (8 * p.2 / w)).take ((8 * p.2 + 7) / w - 8 * p.2 / w + 1) |>.any (·.2))

/-- Columns of a list of rows. -/
def flip {α : Type} (z : α) (n : Nat) (rows : List (List α)) : List (List α) :=
  (List.range n).map fun c => rows.map fun r => r.getD c z

/-- Pad rows to a record length with free codes that depend on their place only: the spec gives padding elements no value
(R94, R209, R211, log 39). -/
def padRows (w width : Nat) (rows : List (List Flagged)) : List (List Flagged) :=
  rows.zipIdx.map fun p => p.1 ++ (List.range (width - p.1.length)).map fun i =>
    ((Config.unstated 2 (p.2 * width + p.1.length + i)).toNat % 2 ^ w, false)

/-- The scale units of a tile of `rows` × `cols`: rows of units, units of a row, bytes of a unit (R99). -/
def scaleGrid (kind blk rows cols : Nat) : Nat × Nat × Nat :=
  match kind with
  | 1 => (rows, cdiv cols (blkSize blk), 1)
  | 2 => (cdiv rows (blkSize blk), cols, 1)
  | 3 => (rows, 1, 4)
  | 4 => (1, cols, 4)
  | 5 => (1, cols, 8)
  | 6 => (1, 1, 8)
  | _ => (0, 0, 0)

/-- A scale tensor: its kind, block code, the row length of its data tensor, where it starts, and the tile's origin. -/
structure ScaleT where
  kind : Nat
  blk : Nat
  rowLen : Nat
  base : Loc
  r0 : Nat
  c0 : Nat
  deriving DecidableEq, Repr

/-- Byte offset of row `u` of a tile's scale units, which are contiguous. -/
def ScaleT.row (t : ScaleT) (u : Nat) : Nat :=
  (scaleAddr t.kind t.blk t.rowLen (t.r0 + (if t.kind = 2 then u * blkSize t.blk else u)) t.c0).1

/-- Split a row of bytes into units. -/
def units (size n : Nat) (row : List Flagged) : List (List Flagged) :=
  (List.range n).map fun i => (row.drop (i * size)).take size

/-! ### A move -/

/-- One tile move with its endpoints resolved: first byte and pitch of either side, shapes, and paired scales. -/
structure Job where
  src : Loc
  srcPitch : Nat
  srcShape : Shape
  dst : Loc
  dstPitch : Nat
  dstShape : Shape
  fmt : Nat
  transform : Nat
  /-- Gather: the index list, and the end of the source binding where there is one. -/
  index : Option Loc
  srcEnd : Option Nat
  scales : Option (ScaleT × ScaleT)
  /-- The name of a stream's move among the writes of its launch. -/
  tag : Nat
  deriving DecidableEq, Repr

/-- The outcome of reading a job: its destination ranges, or what holds it back. -/
inductive Fetched where
  | wait
  /-- A gather index is out of range: which one (R198). -/
  | gather (i : Nat)
  | data (out : List (Loc × List Flagged)) (err : Option Nat) (read : Nat)
  deriving DecidableEq, Repr

/-- The signed value of four bytes. -/
def i32Of (bs : List Flagged) : Int := sext 32 (leNat (bs.map fun b => BitVec.ofNat 8 b.1))

/-- The source row of each tile row, or the first index that is negative or reaches past the source (R198, R285). -/
def gatherRows (j : Job) (idx : List Int) : Except Nat (List Nat) :=
  let bad (p : Int × Nat) : Bool := decide (p.1 < 0) || match j.srcEnd, j.src with
    | some e, .va a => decide (e < a + p.1.toNat * j.srcPitch + j.srcShape.rowLen j.fmt)
    | _, _ => false
  match idx.zipIdx.find? bad with
  | some p => .error p.2
  | none => .ok (idx.map (·.toNat))

/-- A near-store destination as whole lines: what follows the bytes in the last line is zero (R218). -/
def fillLine (bs : List Flagged) : List Flagged := bs ++ List.replicate (roundUp bs.length 64 - bs.length) (0, false)

/-- The scale bytes of a destination as ranges: near store takes them as one block with padding 0x7F for block scales and
0 for words (R214). -/
def scaleOut (t : ScaleT) (sh : Shape) (near : Bool) (grid : List (List (List Flagged))) : List (Loc × List Flagged) :=
  let rows := grid.zipIdx.map fun p => (t.row p.2, p.1.flatten)
  if near then
    let pad : Nat := if t.kind ≤ 2 then 0x7F else 0
    let img := List.replicate (scaleLen t.kind t.blk sh.rows sh.width) (pad, false)
    let img := rows.foldl (fun (m : List Flagged) r => m.take r.1 ++ r.2 ++ m.drop (r.1 + r.2.length)) img
    [(t.base, fillLine img)]
  else rows.map fun r => (t.base.plus r.1, r.2)

/-- Whether a location is in near store. -/
def Loc.isNear : Loc → Bool
  | .near _ _ _ => true
  | _ => false

/-- The scale units of a job's source after the transform, as far as the index list leads (log 175). -/
def jobScales (s : State) (rd : Reader) (j : Job) (rows : List Nat) :
    Option (List (Loc × List Flagged) × Option Nat × Nat) × State :=
  match j.scales with
  | none => (some ([], none, 0), s)
  | some (a, b) =>
    let g := scaleGrid a.kind a.blk j.srcShape.rows j.srcShape.cols
    let at_ (u : Nat) : Nat := if j.index.isSome ∧ a.kind ≠ 6 then rows.getD u 0 else u
    match getRows rd s ((List.range g.1).map fun u => (a.base.plus (a.row (at_ u)), g.2.1 * g.2.2)) with
    | (none, s) => (none, s)
    | (some gs, s) =>
      let grid := gs.map fun x => units g.2.2 g.2.1 x.bytes
      let grid := if j.transform = 1 then flip [] g.2.1 grid else grid
      (some (scaleOut b j.dstShape j.dst.isNear grid, gs.findSome? (·.err), g.1 * g.2.1 * g.2.2), s)

/-- Read a job's sources and form what it writes. -/
def fetchJob (s : State) (rd : Reader) (j : Job) : Fetched × State :=
  let w := fmtBits j.fmt
  let lst : Option (List Got) × State := match j.index with
    | none => (some [], s)
    | some l => getRows rd s [(l, 4 * j.srcShape.rows)]
  match lst with
  | (none, s) => (.wait, s)
  | (some gl, s) =>
    if gl.any fun g => g.bytes.any (·.2) then (.data [] (gl.findSome? (·.err)) 0, s)
    else
      let idx := gl.flatMap fun g => (units 4 j.srcShape.rows g.bytes).map i32Of
      let rowsOf : Except Nat (List Nat) := if j.index.isSome then gatherRows j idx else .ok (List.range j.srcShape.rows)
      match rowsOf with
      | .error i => (.gather i, s)
      | .ok rows =>
        let len := j.srcShape.rowLen j.fmt
        match getRows rd s (rows.map fun i => (j.src.plus (i * j.srcPitch), len)) with
        | (none, s) => (.wait, s)
        | (some gs, s) =>
          match jobScales s rd j rows with
          | (none, s) => (.wait, s)
          | (some (sc, serr, sn), s) =>
            let codes := gs.map fun g => (rowCodes w j.srcShape.width g.bytes).take j.srcShape.cols
            let codes := if j.transform = 1 then flip (0, false) j.srcShape.cols codes else codes
            let bytes := (padRows w j.dstShape.width codes).map (rowPack w)
            let out :=
              if j.dst.isNear then [(j.dst, fillLine bytes.flatten)]
              else bytes.zipIdx.map fun b => (j.dst.plus (b.2 * j.dstPitch), b.1)
            (.data (out ++ sc) ((gs.findSome? (·.err)).or serr) (rows.length * len + sn + (gl.map (·.bytes.length)).sum), s)

/-! ### Writing -/

/-- Translate destination ranges: pieces in place of virtual ranges, or what holds the write back. -/
def placeOut (s : State) (r : Requester) (c : Nat) :
    List (Loc × List Flagged) → Except Stop (List (Loc × List Flagged)) × State
  | [] => (.ok [], s)
  | (.va a, bs) :: rest =>
    match xlateRange s r c a bs.length true with
    | (.error e, s) => (.error e, s)
    | (.ok l, s) =>
      let cut := l.foldl (fun (acc : List (Loc × List Flagged) × List Flagged) p =>
        let here : Loc := match p.1 with
          | .remote d x => .remote d x
          | .ok pa => .pa pa
          | _ => .va a
        (acc.1 ++ [(here, acc.2.take p.2)], acc.2.drop p.2)) ([], bs)
      match placeOut (touchRange s c (pageChunks a bs.length)) r c rest with
      | (.ok x, s) => (.ok (cut.1 ++ x), s)
      | x => x
  | x :: rest =>
    match placeOut s r c rest with
    | (.ok l, s) => (.ok (x :: l), s)
    | y => y

/-- Cut a range at line boundaries. -/
def cutLoc : Nat → Loc → List Flagged → List (Loc × List Flagged)
  | 0, _, _ => []
  | fuel + 1, l, bs =>
    if bs.isEmpty then []
    else
      let n := 64 - l.inLine
      (l, bs.take n) :: cutLoc fuel (l.plus n) (bs.drop n)

/-- Ranges of bytes as lines. -/
def asLines (out : List (Loc × List Flagged)) : List (Loc × List Flagged) := out.flatMap fun x => cutLoc (x.2.length + 1) x.1 x.2

/-- The lines of a move that take no data from a failing source line. -/
def goodLines (out : List (Loc × List Flagged)) : List (Loc × List Flagged) := (asLines out).filter fun x => !(x.2.any (·.2))

def plainBytes (bs : List Flagged) : List Byte := bs.map fun b => BitVec.ofNat 8 b.1

/-- A stream's move is about to write a line: its own launch sees it through its tokens only (R252). The line is noted as it
stands at its home (R266). -/
def noteWrite (s : State) (r : Requester) (tag : Nat) (l : Loc) (n : Nat) : State :=
  match r, l with
  | .agent w c q, .near d e o => noteNear s c q w d e o n (some tag) false false
  | .agent w c q, .pa a => modLaunch s c q fun l => addFog l w none a n (ncRead s (lineOf a) 64 (reqHub r)).1 (some tag) false false
  | _, _ => s

/-- Write one line at once. A line of another device that is not acknowledged yet leaves the write unfinished. A poisoned line
of which a part is written stays poisoned, and the write ends in an error (R357). -/
def putLine (s : State) (r : Requester) (tag : Nat) (x : Loc × List Flagged) : Except Stop Unit × State :=
  match x.1 with
  | .near d e o => (.ok (), elWrite (noteWrite s r tag x.1 x.2.length) d e o (plainBytes x.2))
  | .pa a =>
    let q := ncWrite (noteWrite s r tag x.1 x.2.length) a (plainBytes x.2)
    (if q.1 then .error (.fail 0x0502) else .ok (), q.2)
  | .remote dev a => remoteWrite s r dev a (plainBytes x.2)
  | .va _ => (.ok (), s)

/-- Write lines; `wait` while an acknowledgement is missing. -/
def putLines (s : State) (r : Requester) (tag : Nat) : List (Loc × List Flagged) → Except Stop Unit × State
  | [] => (.ok (), s)
  | x :: rest =>
    match putLine s r tag x with
    | (.error (.fail e), s) => (.error (.fail e), s)
    | (.error .wait, s) => match putLines s r tag rest with
      | (.error (.fail e), s) => (.error (.fail e), s)
      | (_, s) => (.error .wait, s)
    | (.ok _, s) => putLines s r tag rest

/-- Write a free choice of lines: which lines of a move that is cancelled or fails have been written is open (R219,
R223). Answers the lines written. -/
def putSome (s : State) (r : Requester) (tag : Nat) (ls : List (Loc × List Flagged)) : List Loc × State :=
  ls.foldl (fun p x =>
    let q := draw p.2
    if q.1.getLsbD 0 then (p.1 ++ [x.1], (putLine q.2 r tag x).2) else (p.1, q.2)) ([], s)

/-- A requester's reads and writes at other devices are over; the acknowledgement of a write that is on its way is still
awaited (R155). -/
def dropData (s : State) (r : Requester) : State :=
  let f (x : RemoteReq) : Option RemoteReq :=
    if x.req == r && (x.kind == kReadReq || x.kind == kWrite) then
      (if x.kind == kWrite && !x.done then some { x with kind := kOrphan } else none)
    else some x
  dropGrants { s with net := { s.net with remotes := s.net.remotes.filterMap f } } r

/-- A virtual range page by page, each part at the place that `tr` gives its page; a part of which it gives none is left out. -/
def placeParts (tr : Nat → Option Loc) (a : Nat) (bs : List Flagged) : List (Loc × List Flagged) :=
  (pageChunks a bs.length).filterMap fun p => (tr p.1).map fun x => (x, (bs.drop (p.1 - a)).take p.2)

/-- The parts of a job's output whose pages may be written (R222). -/
def placeGood (s : State) (r : Requester) (c : Nat) (out : List (Loc × List Flagged)) : List (Loc × List Flagged) :=
  out.flatMap fun x => match x.1 with
    | .va a => placeParts (fun va => peekTr s r c va true) a x.2
    | _ => [x]

/-- The destination ranges of a job, whatever it writes there. -/
def jobDst (j : Job) : List (Loc × List Flagged) :=
  let z (n : Nat) : List Flagged := List.replicate n (0, true)
  let n := j.dstShape.rowLen j.fmt
  let data :=
    if j.dst.isNear then [(j.dst, fillLine (z (j.dstShape.rows * n)))]
    else (List.range j.dstShape.rows).map fun i => (j.dst.plus (i * j.dstPitch), z n)
  match j.scales with
  | none => data
  | some (_, b) =>
    let g := scaleGrid b.kind b.blk j.dstShape.rows j.dstShape.cols
    data ++ scaleOut b j.dstShape j.dst.isNear (List.replicate g.1 (List.replicate g.2.1 (z g.2.2)))

/-- The destination lines of a job that can be told, those among them that it may not write. -/
def dstLines (s : State) (r : Requester) (c : Nat) (j : Job) : List (Loc × Nat) :=
  let tr (va : Nat) : Option Loc := (peekTr s r c va true).or (peekTr s r c va false)
  (asLines ((jobDst j).flatMap fun x => match x.1 with
    | .va a => placeParts tr a x.2
    | _ => [x])).map fun x => (x.1, x.2.length)

/-- The source rows of a job, and with them its scales and its index list. -/
def jobSrc (s : State) (rd : Reader) (j : Job) : List (Loc × Nat) × List (Loc × Nat) :=
  let lst : List (Loc × Nat) := match j.index with
    | none => []
    | some l => [(l, 4 * j.srcShape.rows)]
  let rows := match j.index, (getRows rd s lst).1 with
    | some _, some [g] => (units 4 j.srcShape.rows g.bytes).map fun u => (i32Of u).toNat
    | some _, _ => []
    | none, _ => List.range j.srcShape.rows
  let sc := match j.scales with
    | none => []
    | some (a, _) =>
      let g := scaleGrid a.kind a.blk j.srcShape.rows j.srcShape.cols
      (List.range g.1).map fun u =>
        (a.base.plus (a.row (if j.index.isSome ∧ a.kind ≠ 6 then rows.getD u 0 else u)), g.2.1 * g.2.2)
  (rows.map fun i => (j.src.plus (i * j.srcPitch), j.srcShape.rowLen j.fmt), lst ++ sc)

/-- How a job ends; one that fails leaves lines that it has not written. -/
inductive JobEnd where
  | wait
  | gather (i : Nat) (left : List (Loc × Nat))
  | fail (status : Nat) (left : List (Loc × Nat))
  | done (read written : Nat)
  deriving DecidableEq, Repr

/-- Bytes of a job's output. -/
def outLength (out : List (Loc × List Flagged)) : Nat := (out.map fun x => x.2.length).sum

/-- A job that fails has written a free choice of the lines that it could (R223). -/
def failJob (s : State) (r : Requester) (c : Nat) (j : Job) (status : Nat) (out : List (Loc × List Flagged)) : JobEnd × State :=
  let q := putSome s r j.tag (goodLines out)
  (.fail status ((dstLines s r c j).filter fun x => !q.1.contains x.1), dropData q.2 r)

/-- Run a job to its end: read everything, translate every destination, then write (R212 to R218, R223). `fatal` is the
status of an uncorrected error in the Finder's buffers, `bad` the source lines in error. -/
def runJob (s : State) (r : Requester) (c : Nat) (j : Job) (fatal : Option Nat) (bad : List (Loc × Nat)) : JobEnd × State :=
  match fetchJob (observeReq s r) (jobReader r c bad) j with
  | (.wait, s) => (.wait, s)
  | (.gather i, s) => (.gather i (dstLines s r c j), s)
  | (.data out err n, s) =>
    match placeOut s r c out with
    | (.error .wait, s) => (.wait, s)
    | (.error (.fail e), t) => failJob t r c j ((err.or fatal).getD e) (placeGood s r c out)
    | (.ok out, s) =>
      match err.or fatal with
      | some e => failJob s r c j e out
      | none =>
        match putLines s r j.tag (goodLines out) with
        | (.error .wait, s) => (.wait, s)
        | (.error (.fail e), s) => (.fail e (dstLines s r c j), dropData s r)
        | (.ok _, s) => (.done n (outLength out), dropData s r)

/-- A job breaks off: it has written a free choice of the lines whose sources it could read, whatever earlier jobs have
still to write (`blk`) excepted. It asks for no translation. Answers its own lines that it has not written (R217, R219,
R222). -/
def cancelJob (s : State) (r : Requester) (c : Nat) (j : Job) (blk : List (Loc × Nat)) : List (Loc × Nat) × State :=
  let s := observeReq s r
  let all := dstLines s r c j
  match (fetchJob s (peekReader r c blk) j).1 with
  | .data out _ _ =>
    let q := putSome s r j.tag (goodLines (placeGood s r c out))
    (all.filter fun x => !q.1.contains x.1, dropData q.2 r)
  | _ => (all, dropData s r)

end Sys2Proof.Machine
end

