-- ==== Sys2Proof/Machine/Placement.lean ====
section
/-! DEFINITION. Placement of launches on engines and stream contexts, token counters, and the release of what a launch
holds (R129 to R137, R203, R204, R239, R243, R291). -/

namespace Sys2Proof.Machine

/-- A candidate engine: die, engine, presented width. -/
abbrev Cand := Nat × Nat × Nat

/-! ### The choice of R133 -/

/-- Insert an element where `before` first holds of it and the element there. -/
def insertBy {α : Type} (before : α → α → Bool) (x : α) : List α → List α
  | [] => [x]
  | y :: r => if before x y then x :: y :: r else y :: insertBy before x r

/-- Stable sort: `before a b` tells that `a` comes strictly before `b`. -/
def sortBy {α : Type} (before : α → α → Bool) (l : List α) : List α :=
  l.foldl (fun acc x => insertBy before x acc) []

/-- The candidate of the smallest width that fits, the first among equals. -/
def pickCand (l : List Cand) (w : Nat) : Option Cand :=
  l.foldl (fun best c => if c.2.2 < w then best else match best with
    | none => some c
    | some b => if c.2.2 < b.2.2 then some c else best) none

/-- Give each slot, as (index, width), a candidate: the assignment and the candidates left, or the first slot that finds
none. -/
def pickEach : List Cand → List (Nat × Nat) → Except Nat (List (Nat × Cand) × List Cand)
  | cs, [] => .ok ([], cs)
  | cs, (i, w) :: r =>
    match pickCand cs w with
    | none => .error i
    | some c => match pickEach (cs.erase c) r with
      | .ok (a, l) => .ok ((i, c) :: a, l)
      | .error j => .error j

/-- The die that takes a group: of those on which every slot of it fits, the one with the fewest candidates. An engine held out
of placement is no candidate (log 173). -/
def pickDie (cs : List Cand) (slots : List (Nat × Nat)) : List Nat → Option Nat
  | [] => none
  | d :: r =>
    let mine := cs.filter fun c => c.1 == d
    let rest := pickDie cs slots r
    match pickEach mine slots with
    | .error _ => rest
    | .ok _ => match rest with
      | none => some d
      | some e => if mine.length ≤ (cs.filter fun c => c.1 == e).length then some d else some e

/-- Place die groups, largest first (R133); a group that fits nowhere answers its first slot (R134). -/
def placeGroups (dies : List Nat) : List Cand → List (List (Nat × Nat)) → Except Nat (List (Nat × Cand) × List Cand)
  | cs, [] => .ok ([], cs)
  | cs, g :: r =>
    match pickDie cs g dies with
    | none => .error ((g.head?).elim 0 (·.1))
    | some d => match pickEach (cs.filter fun c => c.1 == d) g with
      | .error i => .error i
      | .ok (a, _) =>
        match placeGroups dies (cs.filter fun c => !(a.any fun x => x.2 == c)) r with
        | .ok (b, l) => .ok (a ++ b, l)
        | .error i => .error i

/-- Place every slot of a launch, or answer the first that could not be placed (R133, R134). -/
def placeSlots (dies : List Nat) (cs : List Cand) (slots : List Slot) : Except Nat (List (Nat × Cand)) :=
  let order : List (Nat × Nat × Nat) :=
    sortBy (fun a b => decide (b.2.1 < a.2.1)) (slots.zipIdx.map fun p => (p.2, p.1.minWidth, p.1.group))
  let member (g : Nat) : List (Nat × Nat) := (order.filter fun x => x.2.2 == g).map fun x => (x.1, x.2.1)
  let groups := ((List.range 128).map member).filter fun l => !l.isEmpty
  match placeGroups dies cs (sortBy (fun a b => decide (b.length < a.length)) groups) with
  | .error i => .error i
  | .ok (a, rest) => match pickEach rest (member 255) with
    | .error i => .error i
    | .ok (b, _) => .ok (a ++ b)

/-! ### Candidates and reservations -/

/-- Priority class of a context. -/
def prioOf (s : State) (c : Nat) : Nat := fldOf Fl.QFE_CTX_ATTR_PRIORITY (getCtx s c).attr

/-- A unit is held for a launch that has waited long and arrived before, of the same or a higher class (R291). -/
def reservedFor (s : State) (l : Launch) (u : Nat × Nat) : Bool :=
  s.launches.any fun o => o.phase == .placing && o.reserving && o.reservedEngines.contains u &&
    decide (o.arrival < l.arrival) && decide (prioOf s l.ctx ≤ prioOf s o.ctx)

/-- The engines of a partition that may be placed: active, and not placed, tested, being retired or reserved; or every
active one (R133, R134, R512). -/
def candidates (s : State) (l : Launch) (part : Nat) (all : Bool) : List Cand :=
  (partDies s part).flatMap fun d => (List.range 34).filterMap fun e =>
    let x := getEng s d e
    let free := fget s d e Fl.ENG_STATUS_PLACED == 0 && !x.testing && !x.retiring && !reservedFor s l (d, e)
    if fget s d e Fl.ENG_STATUS_ROLE = 0 ∧ (all ∨ free) then some (d, e, fget s d e Fl.ENG_WIDTH_PRESENTED_WIDTH) else none

/-- Stream contexts that launches hold. -/
def busyStreams (s : State) : List (Nat × Nat × Nat) := s.launches.flatMap fun l => l.streams.filterMap (·.at_)

/-- Assign `n` streams to free stream contexts, each to the Finder with the fewest busy ones (R204). -/
def assignStreams (s : State) (l : Launch) (hubs : List Nat) :
    Nat → List (Nat × Nat × Nat) → Option (List (Nat × Nat × Nat))
  | 0, _ => some []
  | n + 1, busy =>
    let free : List (Nat × Nat × Nat) := hubs.flatMap fun h => (List.range 16).flatMap fun f => (List.range 4).filterMap fun c =>
      if busy.contains (h, f, c) ∨ !unitGood s h f ∨ reservedFor s l (h, f * 4 + c) then none else some (h, f, c)
    let load (x : Nat × Nat × Nat) : Nat := (busy.filter fun b => b.1 == x.1 && b.2.1 == x.2.1).length
    match free.foldl (fun best x => match best with
      | none => some x
      | some b => if load x < load b then some x else best) none with
    | none => none
    | some x => (assignStreams s l hubs n (x :: busy)).map (x :: ·)

/-! ### What the registers show -/

/-- FND_USE and FND_ENGINE_STATUS of a hub, from the streams that run on it (R203). -/
def showFinders (s : State) (h : Nat) : State :=
  let sts := s.launches.flatMap fun l => l.streams.filterMap fun x => x.at_.map fun a => (a, x)
  let here := sts.filter fun x => x.1.1 == h
  let bitsOf (f : Nat) (p : Stream → Bool) : Nat := ((List.range 4).map fun c =>
    if here.any fun x => x.1.2.1 == f && x.1.2.2 == c && p x.2 then 2 ^ c else 0).sum
  let cmdBusy (f : Nat) : Bool := s.ctxs.any fun c => ctxHub c.1 == h && c.2.cmds.any fun k => k.finder == some f
  let s := fput s h 0 Fl.FND_USE_BUSY here.length
  let s := fhigh s h 0 Fl.FND_USE_HIGH_WATER here.length
  (List.range 16).foldl (fun s f =>
    let s := fput s h f Fl.FND_ENGINE_STATUS_BUSY (bitsOf f fun _ => true)
    let s := fput s h f Fl.FND_ENGINE_STATUS_ISSUING (bitsOf f fun x => !x.window.isEmpty)
    let s := fput s h f Fl.FND_ENGINE_STATUS_STALLED (bitsOf f fun x => x.window.any (·.stalled))
    fput s h f Fl.FND_ENGINE_STATUS_CMD_BUSY (b2n (cmdBusy f))) s

def showPartFinders (s : State) (part : Nat) : State := (partHubs s part).foldl showFinders s

/-- TOK_ALLOC of a matrix die. -/
def showTok (s : State) (md : Nat) : State :=
  let cs := (getTok s md).counters
  let owners := (cs.map fun c => (c.2.ctx, c.2.seq)).dedup
  let s := fput s md 0 Fl.TOK_ALLOC_ALLOCATED cs.length
  let s := fhigh s md 0 Fl.TOK_ALLOC_HIGH_WATER cs.length
  fput s md 0 Fl.TOK_ALLOC_LAUNCHES owners.length

/-! ### Taking and releasing -/

/-- Place a slot on an engine and switch its domain on (R133, R413). -/
def takeEngine (s : State) (c q i : Nat) (x : Cand) : State :=
  let d := x.1
  let e := x.2.1
  let s := modSlot s c q i fun y => { y with at_ := some (d, e) }
  let s := modEng s d e fun y => { y with placed := some (c, q, i) }
  let s := fput (fput s d e Fl.ENG_STATUS_PLACED 1) d e Fl.ENG_STATUS_CONTEXT c
  pairOn (fput s d e Fl.ENG_STATUS_SLOT i) d (e / 2)

/-- The lowest free physical counter of a token unit. -/
def freeCounter (u : TokUnit) : Option Nat := (List.range 8192).find? fun i => (smGet u.counters i).isNone

/-- Matrix die of a token's home slot. -/
def homeDie (l : Launch) (t : Token) : Option Nat := (l.slots[t.home]?).bind fun x => x.at_.map (·.1)

/-- Allocate the token counters of a launch, or none while a token unit lacks room (R137). -/
def allocTokens (s : State) (l : Launch) : Option State :=
  let homes := l.tokens.filterMap fun t => if t.remote.isSome then none else homeDie l t
  if homes.any fun d => decide (8192 < (getTok s d).counters.length + (homes.filter (· == d)).length) then none
  else
    let s := l.tokens.zipIdx.foldl (fun s p =>
      match p.1.remote, homeDie l p.1 with
      | none, some d => match freeCounter (getTok s d) with
        | none => s
        | some i =>
          let u := getTok s d
          let s := putTok s d { u with counters := smPut u.counters i ⟨l.ctx, l.seq, p.2, p.1.initial⟩ }
          modLaunch s l.ctx l.seq fun y => { y with
            tokens := y.tokens.zipIdx.map fun t => if t.2 = p.2 then { t.1 with unit := some (d, i) } else t.1 }
      | _, _ => s) s
    some (homes.dedup.foldl showTok s)

/-- Free the token counters and pending WAITs of a launch. -/
def freeTokens (s : State) (l : Launch) : State :=
  let dies := (l.tokens.filterMap fun t => t.unit.map (·.1)).dedup
  dies.foldl (fun s d =>
    let u := getTok s d
    let mine (c q : Nat) : Bool := c == l.ctx && q == l.seq
    showTok (putTok s d
      { counters := u.counters.filter fun c => !mine c.2.ctx c.2.seq
        waits := u.waits.filter fun w => !mine w.ctx w.seq
        held := u.held.filter fun w => !mine w.ctx w.seq }) d) s

/-- Units that are released become reserved for the launches that have waited long and could use them (R291). -/
def reserveUnits (s : State) (part : Nat) (engs : List Cand) (strs : List (Nat × Nat × Nat)) : State :=
  { s with launches := s.launches.map fun o =>
      if o.phase = .placing ∧ o.reserving ∧ ctxPart s o.ctx = part then
        { o with reservedEngines := o.reservedEngines ++
            ((engs.filter fun e => o.slots.any fun x => decide (x.minWidth ≤ e.2.2)).map fun e => (e.1, e.2.1)) ++
            (if o.streams.isEmpty then [] else strs.map fun x => (x.1, x.2.1 * 4 + x.2.2)) }
      else o }

/-- Release an engine of a launch. -/
def freeEngine (s : State) (d e : Nat) : State :=
  let s := modEng s d e fun y => { y with placed := none, phase := none, announced := none, region := none, keptROut := [] }
  let s := fput (fput s d e Fl.ENG_STATUS_PLACED 0) d e Fl.ENG_PHO_STATUS_IN_REGION 0
  dropWants (fput (fput s d e Fl.ENG_PHO_STATUS_COMMITTING 0) d e Fl.ENG_PHO_COMMIT_USED 0) d e

/-- LEND_COUNT falls for each lending move of a launch (R239). -/
def returnLends (s : State) (l : Launch) : State :=
  l.lends.foldl (fun s page => modPage s l.ctx page fun w => setBits w 59 52 (peLend w - 1)) s

/-- Requests of a launch, its own and those of its agents. -/
def ofLaunch (l : Launch) : Requester → Bool
  | .agent _ c q => c == l.ctx && q == l.seq
  | .cmd c q => c == l.ctx && q == l.seq
  | .pin c q => c == l.ctx && q == l.seq
  | .qp _ _ => false

/-- Release every unit a launch holds: engines, stream contexts, token counters, near-store space, lends (R129, R155 step 2,
R239). -/
def releaseUnits (s : State) (l : Launch) : State :=
  let part := ctxPart s l.ctx
  let engs : List Cand := l.slots.filterMap fun x => x.at_.map fun a => (a.1, a.2, fget s a.1 a.2 Fl.ENG_WIDTH_PRESENTED_WIDTH)
  let strs := l.streams.filterMap (·.at_)
  let s := engs.foldl (fun s x => freeEngine s x.1 x.2.1) s
  let s := freeTokens (returnLends s l) l
  let s := if l.nsCharged then refund s l.ctx 4 l.totalGranules else s
  let s := modLaunch s l.ctx l.seq fun y => { y with
    slots := y.slots.map fun x => { x with at_ := none }
    streams := y.streams.map fun x => { x with at_ := none, window := [], reissue := [], inbox := [] }
    tokens := y.tokens.map fun t => { t with unit := none }
    nsCharged := false
    lends := [], fog := [], releases := [] }
  let s : State := { s with net := { s.net with
    remotes := s.net.remotes.filterMap fun r => if ofLaunch l r.req then heir s r else some r } }
  showPartFinders (reserveUnits (withdraw s (ofLaunch l)) part engs strs) part

/-- Forget a launch. -/
def forgetLaunch (s : State) (c q : Nat) : State := { s with launches := s.launches.filter fun o => !(o.ctx == c && o.seq == q) }

/-- Release everything a launch holds, and forget it. -/
def releaseLaunch (s : State) (l : Launch) : State := forgetLaunch (releaseUnits s l) l.ctx l.seq

end Sys2Proof.Machine
end

