-- ==== Sys2Proof/Machine/Finder.lean ====
section
/-! DEFINITION. Finder streams: issue, window and completion of moves, marks, cancellation and reissue, lending (R203 to
R225, R239, R240). -/

namespace Sys2Proof.Machine

/-! ### The job of a move -/

/-- Location of a near-store offset of a slot, as it is placed (R135). -/
def nearLoc (l : Launch) (slot off : Nat) : Loc := match (l.slots[slot]?).bind (·.at_) with
  | some (d, e) => .near d e off
  | none => .near 0 0 off

def bindAt (l : Launch) (i : Nat) : Binding := (l.bindings[i]?).getD ⟨0, 0, 0, 0, false, false, 0, 255, 0, 0⟩

/-- Scale kind of the binding endpoint of a PAIRED move, 0 for any other. -/
def moveKind (l : Launch) (w : MoveWord) : Nat := if w.paired then (bindAt l (pairedBinding w)).scaleKind else 0

/-- First byte and pitch of an endpoint at a resolved offset (R196). -/
def endLoc (l : Launch) (w : MoveWord) (src : Bool) (off : Nat) : Loc × Nat :=
  let ns := if src then w.srcNs else w.dstNs
  let i := if src then w.srcIndex else w.dstIndex
  if ns then (nearLoc l i off, (if src then srcShape w else dstShape w).rowLen w.fmt)
  else (.va ((bindAt l i).va + off), (bindAt l i).pitch)

/-- The scale tensor of an endpoint of a PAIRED move (R197, R214). -/
def endScale (l : Launch) (w : MoveWord) (src : Bool) (off : Nat) : ScaleT :=
  let ns := if src then w.srcNs else w.dstNs
  let x := if src then srcShape w else dstShape w
  let k := moveKind l w
  if ns then
    { kind := scaleKindAfter w.transform k, blk := w.blk, rowLen := x.width, r0 := 0, c0 := 0,
      base := (endLoc l w src off).1.plus (roundUp (x.codes w.fmt) 64) }
  else
    let b := bindAt l (if src then w.srcIndex else w.dstIndex)
    let o := originOf off b.pitch w.fmt
    { kind := k, blk := w.blk, rowLen := b.pitch * 8 / fmtBits w.fmt, r0 := o.1, c0 := o.2.1,
      base := .va (bindAt l b.scaleBinding).va }

/-- The job of a move with resolved offsets. -/
def moveJob (l : Launch) (m : Move) : Job :=
  let w := m.word
  let a := endLoc l w true m.srcOff
  let b := endLoc l w false m.dstOff
  let sb := bindAt l w.srcIndex
  { src := a.1, srcPitch := a.2, srcShape := srcShape w, dst := b.1, dstPitch := b.2, dstShape := dstShape w, fmt := w.fmt,
    transform := w.transform,
    index := if w.transform = 3 then some (.va ((bindAt l w.aux).va + w.auxOff)) else none,
    srcEnd := if w.transform = 3 then some (sb.va + sb.len) else none,
    scales := if w.paired then some (endScale l w true m.srcOff, endScale l w false m.dstOff) else none, tag := m.tag }

/-- The requester that a stream's moves translate for. -/
def streamReq (h f c : Nat) (l : Launch) : Requester := .agent (.stream h f c) l.ctx l.seq

/-! ### Lending (R239, R240) -/

/-- A move into near store from a binding that is WRITABLE lends the tiered pages that its tile touches. -/
def lending (l : Launch) (w : MoveWord) : Bool := w.dstNs && !w.srcNs && (bindAt l w.srcIndex).writable

/-- The tiered pages of ranges, as their virtual addresses, each once. -/
def lendPages (s : State) (c : Nat) (ranges : List (Nat × Nat)) : List Nat :=
  ((ranges.flatMap fun r => (pageChunks r.1 r.2).filterMap fun p =>
    (tierPage s c p.1).map fun t => t.1.va + t.2.1 * Config.page2M)).dedup

/-- Raise LEND_COUNT of pages for a launch; none while one of them holds 255. -/
def lend (s : State) (l : Launch) (pages : List Nat) : Option State :=
  let full (p : Nat) : Bool := match tierPage s l.ctx p with
    | some (_, _, w) => peLend w == 255
    | none => false
  if pages.any full then none
  else
    let s := pages.foldl (fun s p => modPage s l.ctx p fun w => setBits w 59 52 (peLend w + 1)) s
    some (modLaunch s l.ctx l.seq fun y => { y with lends := y.lends ++ pages })

/-- The virtual rows of a move's source; those of a gather lie where its index list says, and none is known while the list
cannot be read. -/
def srcRows (s : State) (r : Requester) (l : Launch) (m : Move) : List (Nat × Nat) :=
  (jobSrc s (jobReader r l.ctx []) (moveJob l m)).1.filterMap fun x => match x.1 with
    | .va a => some (a, x.2)
    | _ => none

/-- Lend a move's pages if it lends and has not yet, and answer whether it has; none while one of them holds the largest
count. -/
def lendMove (s : State) (r : Requester) (l : Launch) (m : Move) : Option (State × Bool) :=
  if m.lent ∨ !lending l m.word then some (s, true)
  else
    let rows := srcRows s r l m
    if rows.isEmpty then some (s, false) else (lend s l (lendPages s l.ctx rows)).map fun s => (s, true)

/-! ### Issue (R215, R220) -/

/-- A cursor's value times 64. -/
def cursorOff (cs : List Int) : Option Nat → Int
  | some c => 64 * cs.getD c 0
  | none => 0

/-- A move word as it is issued first: its offsets are fixed. -/
def newMove (l : Launch) (x : Stream) (w : MoveWord) : Move :=
  { index := x.firstIndex + x.pos, word := w
    srcOff := ((w.srcOff : Int) + cursorOff x.cursors w.srcCur).toNat
    dstOff := ((w.dstOff : Int) + cursorOff x.cursors w.dstCur).toNat
    charge := stagingCharge w (moveKind l w), marks := x.marks, stalled := false, lent := false, replay := false, ended := false,
    broke := false, tag := l.fogNext }

/-- Whether the window and the staging of a stream allow a move (R215). -/
def mayIssue (x : Stream) (m : Move) : Bool :=
  x.window.isEmpty ||
    (decide (x.window.length < 32) && decide ((x.window.map (·.charge)).sum + m.charge ≤ x.staging * 4096))

/-- The move that a stream issues next: its oldest cancelled one, else its next word. -/
def nextMove (l : Launch) (x : Stream) : Option Move :=
  match x.reissue with
  | m :: _ => some { m with marks := x.marks }
  | [] => if x.hold = .run ∧ !x.finished then match x.words[x.pos]? with
      | some (.move w) => some (newMove l x w)
      | _ => none
    else none

/-- The lines that a move is to write, as far as their pages are known, stand among the writes of its launch until it is done
(R216). -/
def noteIssued (s : State) (l : Launch) (a : Nat × Nat × Nat) (m : Move) : State :=
  let w : Agent := .stream a.1 a.2.1 a.2.2
  let mark (s : State) (eng : Option (Nat × Nat)) (k n : Nat) : State := modLaunch s l.ctx l.seq fun y =>
    if y.fog.any fun g => g.engine == eng && g.lo == k && g.group == m.tag && g.old.isEmpty then y
    else addFog y w eng k n [] (some m.tag) false false
  (dstLines s (streamReq a.1 a.2.1 a.2.2 l) l.ctx (moveJob l m)).foldl (fun s y => match y.1 with
    | .near d e o => mark s (some (d, e)) (bankKey d (boundBank s d e) o) y.2
    | .pa k => mark s none k y.2
    | .remote _ _ => s
    | .va _ => s) s

/-- The moves in flight of every launch that runs, with the lines whose pages have become known since. -/
def noteWindows (s : State) : State :=
  s.launches.foldl (fun s l => l.streams.foldl (fun s x => match x.at_ with
    | some a => x.window.foldl (fun s m => noteIssued s l a m) s
    | none => s) s) s

/-- A move is done: its writes can be released (R216). -/
def finishWrites (s : State) (l : Launch) (a : Agent) (m : Move) : State :=
  let mine (g : Fog) : Bool := g.writer == a && g.group == m.tag
  modLaunch s l.ctx l.seq fun y => { y with
    fog := (y.fog.filter fun g => !(mine g && g.old.isEmpty)).map fun g => if mine g then { g with done := true } else g }

/-- Issue a move. -/
def issueMove (s : State) (h f c : Nat) (l : Launch) (i : Nat) (x : Stream) (m : Move) : State :=
  let s := modLaunch (fsat s h 0 Fl.FND_MOVES_ISSUED 1) l.ctx l.seq fun y => { y with fogNext := y.fogNext + 1 }
  let s := noteIssued s l (h, f, c) m
  let s := modStream s l.ctx l.seq i fun y => match x.reissue with
    | _ :: r => { y with reissue := r, window := y.window ++ [m] }
    | [] => { y.advance with window := y.window ++ [m] }
  showFinders s h

/-- Issue the next move of a stream context if `want` holds of it. A lending move waits for room in LEND_COUNT; the pages
of a lending gather are those of its indices, which it reads with its sources. -/
def tryIssue (s : State) (h f c : Nat) (want : Launch → Move → Bool) : State :=
  match streamOf s h f c with
  | none => s
  | some (l, i, x) =>
    if l.phase = .running ∧ x.hold ≠ .stopped ∧ !x.blocked then
      match nextMove l x with
      | none => s
      | some m =>
        if !want l m ∨ !mayIssue x m then s
        else if m.word.transform = 3 then issueMove s h f c l i x m
        else match lendMove s (streamReq h f c l) l m with
          | some p => issueMove p.1 h f c l i x { m with lent := true }
          | none => s
    else s

def execMove (hub finder sc : Nat) (s : State) : Host.Outcome State Fault Refusal :=
  .next (tryIssue s hub finder sc fun _ _ => true)

/-! ### Cancellation (R219 to R221) -/

/-- Moves that `p` names break off, oldest first. One that has broken off at its stall writes no more; `blk` are lines that
moves before have still to write (R217, R219). -/
def breakMoves (r : Requester) (l : Launch) (p : Move → Bool) : List Move → List (Loc × Nat) → State → State
  | [], _, s => s
  | m :: rest, blk, s =>
    let j := moveJob l m
    if p m ∧ !m.broke then
      let q := cancelJob s r l.ctx j blk
      breakMoves r l p rest (blk ++ q.1) q.2
    else breakMoves r l p rest (blk ++ dstLines s r l.ctx j) s

/-- Take moves out of a stream's window: each has written a free choice of its lines, and takes nothing from `blk`, which an
earlier move has still to write; a stalled one leaves its fault record. The moves are reissued unless their launch has ended. -/
def cancelMoves (s : State) (h f c : Nat) (l : Launch) (i : Nat) (x : Stream) (p : Move → Bool) (blk : List (Loc × Nat) := []) : State :=
  let gone := x.window.filter p
  let r := streamReq h f c l
  let s := breakMoves r l p x.window blk s
  let s := if gone.any (·.stalled) then withdraw s (· == r) else s
  let s := fsat s h 0 Fl.FND_CANCELS_CANCELLED gone.length
  let again (m : Move) : Move := { m with stalled := false, replay := false, broke := false }
  let s := modStream s l.ctx l.seq i fun y => { y with
    window := y.window.filter fun m => !p m
    reissue := if l.phase = .running ∧ x.hold ≠ .stopped then gone.map again ++ y.reissue else [] }
  showFinders s h

/-- Take the first message of a kind out of an inbox: the messages of one slot arrive in the order sent. -/
def takeMsg (cancel : Bool) : List Nat → List (Nat × Bool) → Option (Nat × List (Nat × Bool))
  | _, [] => none
  | seen, (k, b) :: r =>
    if b = cancel ∧ !seen.contains k then some (k, r)
    else (takeMsg cancel (k :: seen) r).map fun p => (p.1, (k, b) :: p.2)

/-- CANCELLATION: a rewind's cancellation reaches a stream; it cancels what the stream issued after the mark. -/
def doCancellation (h f c : Nat) (s : State) : State :=
  match streamOf s h f c with
  | none => s
  | some (l, i, x) =>
    match takeMsg true [] x.inbox with
    | none => s
    | some (k, rest) =>
      let s := cancelMoves s h f c l i x fun m => m.marks.contains k
      modStream s l.ctx l.seq i fun y => { y with inbox := rest }

def execCancellation (hub finder sc : Nat) (s : State) : Host.Outcome State Fault Refusal :=
  .next (doCancellation hub finder sc s)

/-- MARK_ARRIVAL: moves that the stream has issued before the mark are not after it, whatever earlier mark of the same slot
they followed (R219). -/
def doMarkArrival (h f c : Nat) (s : State) : State :=
  match streamOf s h f c with
  | none => s
  | some (l, i, x) =>
    match takeMsg false [] x.inbox with
    | none => s
    | some (k, rest) =>
      let old (m : Move) : Move := { m with marks := m.marks.filter (· != k) }
      modStream s l.ctx l.seq i fun y => { y with
        inbox := rest
        marks := insertNat y.marks k
        window := y.window.map old
        reissue := y.reissue.map old }

def execMarkArrival (hub finder sc : Nat) (s : State) : Host.Outcome State Fault Refusal :=
  .next (doMarkArrival hub finder sc s)

/-- The oldest move of a stream has stalled: it has written a free choice of its lines and will replay (R222). -/
def beginStall (s : State) (h f c : Nat) (l : Launch) (i : Nat) (m : Move) : State :=
  if m.broke then s
  else modStream (cancelJob s (streamReq h f c l) l.ctx (moveJob l m) []).2 l.ctx l.seq i fun y => match y.window with
    | [] => y
    | m :: r => { y with window := { m with replay := true, broke := true } :: r }

/-- The oldest move of a stream ends its request and leaves the window; those behind it break off and read nothing that it has
left unwritten (R217, R223). -/
def endHeadMove (s : State) (h f c : Nat) (left : List (Loc × Nat)) : State :=
  match streamOf s h f c with
  | none => s
  | some (l, i, x) =>
    let drop (y : Stream) : Stream := { y with window := y.window.drop 1, hold := .stopped }
    cancelMoves (modStream s l.ctx l.seq i drop) h f c l i (drop x) (fun _ => true) left

/-- Settle a stream whose oldest move has stalled or ended: the lines that the move has written are a free choice, a stalled
one cancels the moves behind it (R219, R222), and one that has ended leaves the window (R223). -/
def settleStream (s : State) (a : Nat × Nat × Nat) : State :=
  match streamOf s a.1 a.2.1 a.2.2 with
  | none => s
  | some (l, i, x) =>
    match x.window with
    | [] => showFinders s a.1
    | m :: rest =>
      let r := streamReq a.1 a.2.1 a.2.2 l
      if m.ended then
        let q := if m.broke then (dstLines s r l.ctx (moveJob l m), s) else cancelJob s r l.ctx (moveJob l m) []
        endHeadMove q.2 a.1 a.2.1 a.2.2 q.1
      else if m.stalled then
        let s := beginStall s a.1 a.2.1 a.2.2 l i m
        if rest.isEmpty then showFinders s a.1
        else cancelMoves s a.1 a.2.1 a.2.2 l i x fun y => !y.stalled
      else showFinders s a.1

/-- Cancel behind every stall. -/
def settleStalls (s : State) : State := (busyStreams s).foldl settleStream s

/-! ### Completion (R216, R217, R223) -/

/-- An error ends a move and its launch; `left` are lines that the move has not written (R222, R223). -/
def moveFail (s : State) (h f c : Nat) (l : Launch) (i status : Nat) (detail : BitVec 64) (left : List (Loc × Nat)) : State :=
  launchErr (finderError (endHeadMove s h f c left) h f c i l.ctx status false) l.ctx l.seq status detail

/-- Bytes that the Finders of a hub have read and written. -/
def countBytes (s : State) (h rd wr : Nat) : State :=
  fwrap (fwrap s h 0 Fl.FND_BYTES_READ_COUNT rd) h 0 Fl.FND_BYTES_WRITTEN_COUNT wr

/-- A corrected error in a Finder's buffers (R223). -/
def finderCe (s : State) (h : Nat) (e : Ecc) : State :=
  if e = .ce then fsat (fput s h 0 Fl.FND_ERR_STATUS_BUF_CE 1) h 0 Fl.FND_ERR_COUNT_CE 1 else s

/-- The near-store word that a move's check finds in error, where the move reads it: die, engine and offset. -/
def bankWord (j : Job) (row word : Nat) : Option (Nat × Nat × Nat) :=
  let off := row * 4096 + word * 8
  let n := j.srcShape.rowLen j.fmt
  let sc := match j.scales with
    | none => []
    | some (a, _) =>
      let g := scaleGrid a.kind a.blk j.srcShape.rows j.srcShape.cols
      (List.range g.1).map fun u => (a.base.plus (a.row u), g.2.1 * g.2.2)
  match j.src with
  | .near d e _ =>
    if ((List.range j.srcShape.rows).map (fun i => (j.src.plus (i * j.srcPitch), n)) ++ sc).any fun x =>
      (List.range 8).any fun b => Loc.holds x.2 x.1 (.near d e (off + b)) then some (d, e, off) else none
  | _ => none

/-- What the checks of a move's reads find: the state with the errors counted, the status of an error in the Finder's
buffers, and the near-store lines that cannot be read (R68, R223). -/
def moveErr (s : State) (h : Nat) (j : Job) : MoveErr → State × Option Nat × List (Loc × Nat)
  | .none => (s, none, [])
  | .bufCe => (finderCe s h .ce, none, [])
  | .bufUe => (s, some 0x0F33, [])
  | .bankCe row word => match bankWord j row word with
    | some (d, e, _) => (bankError s d (boundBank s d e) row word false, none, [])
    | none => (s, none, [])
  | .bankUe row word => match bankWord j row word with
    | some (d, e, off) => (bankError s d (boundBank s d e) row word true, none, [(.near d e (lineOf off), 64)])
    | none => (s, none, [])

/-- Note that the oldest move of a stream has lent its pages. -/
def noteLent (s : State) (l : Launch) (i : Nat) : State :=
  modStream s l.ctx l.seq i fun y => match y.window with
    | [] => y
    | m :: r => { y with window := { m with lent := true } :: r }

/-- MOVE_DONE: the oldest move of a stream reads, transforms and writes its tile, and signals its token. -/
def doMoveDone (h f c : Nat) (e : MoveErr) (s : State) : State :=
  match streamOf s h f c with
  | none => s
  | some (l, i, x) =>
    match x.window with
    | [] => s
    | m :: _ =>
      if l.phase ≠ .running ∨ x.hold = .stopped ∨ m.stalled ∨ m.ended then s
      else
        let r := streamReq h f c l
        match lendMove s r l m with
        | none => s
        | some p =>
          let x := moveErr (if p.2 then noteLent p.1 l i else p.1) h (moveJob l m) e
          match runJob x.1 r l.ctx (moveJob l m) x.2.1 x.2.2 with
          | (.wait, t) => settleStream t (h, f, c)
          | (.gather k left, t) => moveFail t h f c l i 0x013A (BitVec.ofNat 64 (m.index * 2 ^ 32 + k)) left
          | (.fail st left, t) => moveFail t h f c l i st 0 left
          | (.done rd wr, t) =>
            let t := finishWrites (fsat (countBytes t h rd wr) h 0 Fl.FND_MOVES_DONE 1) l (.stream h f c) m
            let t := modStream t l.ctx l.seq i fun y => { y with window := y.window.drop 1 }
            let t := match m.word.done with
              | some (tok, scope) => signalToken t l tok scope 1 i true (.stream h f c)
              | none => t
            showFinders t h

def execMoveDone (hub finder sc : Nat) (e : MoveErr) (s : State) : Host.Outcome State Fault Refusal :=
  .next (doMoveDone hub finder sc e s)

/-- LEND_RETRY: a lending move that waited for LEND_COUNT to fall issues; one that has issued, a gather, lends (R240). -/
def doLendRetry (h f c : Nat) (s : State) : State :=
  match streamOf s h f c with
  | none => s
  | some (l, i, x) =>
    match x.window with
    | m :: _ =>
      if l.phase = .running ∧ lending l m.word ∧ !m.lent ∧ !m.stalled then
        match lendMove s (streamReq h f c l) l m with
        | some p => if p.2 then noteLent p.1 l i else s
        | none => s
      else tryIssue s h f c fun l m => lending l m.word && !m.lent
    | [] => tryIssue s h f c fun l m => lending l m.word && !m.lent

/-- RC_FILL: a line that a move in flight is to write is undefined to the engines of a die (R216). -/
def execRcFill (die line : Nat) (s : State) : Host.Outcome State Fault Refusal := .next (runFill (noteWindows s) die line)

def execLendRetry (hub finder sc : Nat) (s : State) : Host.Outcome State Fault Refusal := .next (doLendRetry hub finder sc s)

end Sys2Proof.Machine
end

