-- ==== Sys2Proof/Machine/Persist.lean ====
section
/-! DEFINITION. The persistent array (R486 to R489). -/

namespace Sys2Proof.Machine

/-- A persistent register as shipped: 0, no commit counted, its window open (DESIGN CHOICE, log 60). -/
def Persist.fresh : Persist := ⟨0, none, 0, true⟩
def getPersist (s : State) (n : Nat) : Persist := smGetD s.persist Persist.fresh n
def putPersist (s : State) (n : Nat) (x : Persist) : State := { s with persist := smPut s.persist n x }

/-- The last value written, pending or committed (R487). -/
def persistRead (s : State) (n : Nat) : BitVec 64 := (getPersist s n).pendingV.getD (getPersist s n).value

/-- The unit that raises the array's events: the PRS block. -/
def prsUnit : Nat := unitId 24 0 3

def wearWarn : Nat := 9000000
def wearEnd : Nat := 10000000

/-- Commit a value: the register's 64 ms window closes, and wear is reported (R487, R489). -/
def persistCommitNow (s : State) (n : Nat) (v : BitVec 64) : State :=
  let x := getPersist s n
  let s := putPersist s n ⟨v, none, x.commits + 1, false⟩
  if x.commits + 1 = wearWarn then raise s 0x0F20 1 prsUnit
  else if x.commits + 1 = wearEnd then raise s 0x0F21 2 prsUnit
  else s

/-- Write a persistent register by whoever may write it: at once where its window is open, pending otherwise; an exhausted
register ignores the write (R487, R489). -/
def persistPut (s : State) (n : Nat) (v : BitVec 64) : State :=
  let x := getPersist s n
  if wearEnd ≤ x.commits then fsat s 24 0 Fl.PRS_STATUS_REJECTED_WRITES 1
  else if x.windowOpen then persistCommitNow s n v
  else putPersist s n { x with pendingV := some v }

/-- PERSIST_WRITE: registers 0 to 63 are read-only to system software (R486). -/
def doPersistWrite (n : Nat) (v : BitVec 64) (s : State) : State := if 64 ≤ n ∧ n < 256 then persistPut s n v else s

def execPersistWrite (n : Nat) (value : BitVec 64) (s : State) : Host.Outcome State Fault Refusal :=
  .next (onDie s 24 fun s => doPersistWrite n value s)

/-- PERSIST_COMMIT: the window opens, and a pending value commits, which closes it again. -/
def doPersistCommit (n : Nat) (s : State) : State :=
  let x := getPersist s n
  match x.pendingV with
  | none => if n < 256 ∧ !x.windowOpen then putPersist s n { x with windowOpen := true } else s
  | some v => if wearEnd ≤ x.commits then putPersist s n { x with pendingV := none } else persistCommitNow s n v

def execPersistCommit (n : Nat) (s : State) : Host.Outcome State Fault Refusal := .next (doPersistCommit n s)

/-- The first `n` registers with pending values commit. -/
def commitFirst (s : State) (n : Nat) : State :=
  ((s.persist.filter fun p => p.2.pendingV.isSome).take n).foldl (fun s p => match p.2.pendingV with
    | some v => if wearEnd ≤ p.2.commits then s else persistCommitNow s p.1 v
    | none => s) s

/-- Every pending value commits at once, at the start of a power-on-level reset (R488). -/
def commitAll (s : State) : State := commitFirst s s.persist.length

/-- Replace bits [hi:lo] of a persistent register by one write. -/
def persistField (s : State) (n hi lo v : Nat) : State :=
  let old := (persistRead s n).toNat
  let w := 2 ^ (hi - lo + 1)
  persistPut s n (BitVec.ofNat 64 (old - bits old hi lo * 2 ^ lo + v % w * 2 ^ lo))

/-- HBM_RECOVERY.EXCLUDE of a hub (R486). -/
def hbmExclude (s : State) (hub : Nat) : Nat := bits (persistRead s 1).toNat (4 * (hub - 18) + 3) (4 * (hub - 18))

/-- The register and byte that hold a core's DERATE (R486). -/
def derateReg (d c : Nat) : Nat := (if d = 16 then 2 else 15) + c / 8

/-- The anti-rollback counters (R497). -/
def rollback (s : State) (i : Nat) : Nat := (persistRead s (28 + i)).toNat % 2 ^ 32

end Sys2Proof.Machine
end

