-- ==== Sys2Proof/Machine/CoreCmd.lean ====
section
/-! DEFINITION. Host cores on and off line, their frequency, droop (R320 to R323, R415). -/

namespace Sys2Proof.Machine

def coreState (s : State) (d c : Nat) : Nat := fget s d c Fl.CORE_STATE_STATE
def coreRole (s : State) (d c : Nat) : Nat := fget s d c Fl.CORE_STATE_ROLE

/-- FMAX − DERATE in 25 MHz units. -/
def coreTop (s : State) (d c : Nat) : Nat := fget s d c Fl.CORE_STATE_FMAX - fget s d c Fl.CORE_STATE_DERATE

/-- REQUEST: values below 40 are read as 40. -/
def coreRequest (s : State) (d c : Nat) : Nat := max 40 (fget s d c Fl.CORE_FREQ_REQUEST)

/-- The effective frequency of a core: never below 1.0 GHz (R320). -/
def setEffective (s : State) (d c : Nat) : State :=
  fput s d c Fl.CORE_FREQ_EFFECTIVE
    (max 40 (min (min (coreRequest s d c) (coreTop s d c)) (fget s d c Fl.CORE_FREQ_CAP)))

/-- CAP of a core: the lowest that any rule requests. A host die that is `x` tenths of a degree into its band limits each
core in proportion, from its FMAX down to 1.0 GHz (R424, R429). -/
def capOf (s : State) (d c : Nat) : Nat :=
  let f := fget s d c Fl.CORE_STATE_FMAX
  min (f - (f - 40) * smGetD s.power.thermalCap 0 d / 50) (smGetD s.power.budgetCap 255 (coreKey d c))

def setCap (s : State) (d c : Nat) : State := setEffective (fput s d c Fl.CORE_FREQ_CAP (capOf s d c)) d c

/-- Cores of a die that are online. -/
def onlineCores (s : State) (d : Nat) : List Nat := (List.range 100).filter fun c => coreUp s d c

/-- Refuse a write of CORE_CMD (R323). -/
def refuseCoreCmd (s : State) (d result : Nat) : State :=
  fput (fput s d 0 Fl.CORE_CMD_REJECTED 1) d 0 Fl.CORE_CMD_RESULT result

/-- Accept a write of CORE_CMD. -/
def acceptCoreCmd (s : State) (d op c : Nat) : State :=
  let s := fput (fput s d 0 Fl.CORE_CMD_OP op) d 0 Fl.CORE_CMD_CORE c
  fput (fput s d 0 Fl.CORE_CMD_REJECTED 0) d 0 Fl.CORE_CMD_BUSY 1

def coreCmdBusy (s : State) (d : Nat) : Bool := fget s d 0 Fl.CORE_CMD_BUSY == 1

/-- CORE_OFFLINE: the buffers drain, modified lines are written back, and the core is power-gated (R323). -/
def doCoreOffline (d c : Nat) (s : State) : State :=
  if coreCmdBusy s d then refuseCoreCmd s d 5
  else if coreState s d c = 1 then refuseCoreCmd s d 1
  else if coreState s d c ≠ 2 ∨ 100 ≤ c then refuseCoreCmd s d 4
  else
    let s := flushCore (forceDrain (acceptCoreCmd s d 1 c) d c) d c
    fput s d c Fl.CORE_STATE_STATE 0

def execCoreOffline (die core : Nat) (s : State) : Host.Outcome State Fault Refusal := .next (onDie s die fun s => doCoreOffline die core s)

/-- A core starts in the K64 reset state, with empty caches, at an address. -/
def startCore (s : State) (d c pc : Nat) : State :=
  setCap (fput (putCore s d c { Core.fresh with pc := pc }) d c Fl.CORE_STATE_STATE 1) d c

/-- CORE_ONLINE (R323). -/
def doCoreOnline (d c : Nat) (s : State) : State :=
  if coreCmdBusy s d then refuseCoreCmd s d 5
  else if 100 ≤ c ∨ 1 < coreRole s d c ∨ !unitGood s d c then refuseCoreCmd s d 3
  else if coreState s d c ≠ 0 then refuseCoreCmd s d 4
  else if 96 ≤ (onlineCores s d).length then refuseCoreCmd s d 2
  else
    let s := acceptCoreCmd s d 2 c
    startCore (fput s d c Fl.CORE_STATE_ROLE 0) d c (fget s d 0 Fl.CORE_START_PC * 4)

def execCoreOnline (die core : Nat) (s : State) : Host.Outcome State Fault Refusal := .next (onDie s die fun s => doCoreOnline die core s)

/-- CORE_RECALIBRATE: the core's self-test begins (R322, R323). -/
def doCoreRecalibrate (d c : Nat) (s : State) : State :=
  if coreCmdBusy s d then refuseCoreCmd s d 5
  else if coreState s d c ≠ 0 ∨ 100 ≤ c then refuseCoreCmd s d 4
  else acceptCoreCmd s d 3 c

def execCoreRecalibrate (die core : Nat) (s : State) : Host.Outcome State Fault Refusal := .next (onDie s die fun s => doCoreRecalibrate die core s)

/-- Retire a core (R322). -/
def retireCore (s : State) (d c : Nat) : State :=
  raise (fput s d c Fl.CORE_STATE_ROLE 2) 0x0F40 1 (coreUnit d c)

/-- The result of a recalibration: DERATE rises to cover a passing frequency below FMAX − DERATE, and a core that would
fall below 2.5 GHz is retired (R322). Answers the result code. -/
def recalibrated (s : State) (d c passMhz : Nat) : Nat × State :=
  if coreTop s d c * 25 ≤ passMhz then (0, s)
  else
    let derate := fget s d c Fl.CORE_STATE_FMAX - passMhz / 25
    let s := fput s d c Fl.CORE_STATE_DERATE derate
    let s := setEffective (persistField s (derateReg d c) (c % 8 * 8 + 7) (c % 8 * 8) derate) d c
    if coreTop s d c < 100 then (3, retireCore s d c) else (0, s)

/-- CORE_CMD_COMPLETE: `passMhz` is the highest frequency in MHz that a recalibration finds. -/
def doCoreCmdComplete (d passMhz : Nat) (s : State) : State :=
  if !coreCmdBusy s d then s
  else
    let c := fget s d 0 Fl.CORE_CMD_CORE
    let q := if fget s d 0 Fl.CORE_CMD_OP = 3 then recalibrated s d c passMhz else (0, s)
    fput (fput q.2 d 0 Fl.CORE_CMD_BUSY 0) d 0 Fl.CORE_CMD_RESULT q.1

def execCoreCmdComplete (die passFreq : Nat) (s : State) : Host.Outcome State Fault Refusal := .next (doCoreCmdComplete die passFreq s)

/-- DROOP_DETECT: no instruction is affected; the stretch episode is counted (R321). -/
def doDroopDetect (d c : Nat) (s : State) : State := fsat s d c Fl.CORE_CLK_STRETCHES 1

def execDroopDetect (die core : Nat) (s : State) : Host.Outcome State Fault Refusal := .next (doDroopDetect die core s)

end Sys2Proof.Machine
end

