-- ==== Sys2Proof/Machine/Words.lean ====
section
/-! DEFINITION. The fields of op words and move words, and their decoding into ops and moves (R176 to R195). -/

namespace Sys2Proof.Machine

/-- Fields of a word by highest and lowest bit. -/
abbrev Fields := List (Nat × Nat)

/-- The bits that fields cover. -/
def fieldMask : Fields → Nat
  | [] => 0
  | (hi, lo) :: r => ((2 ^ (hi - lo + 1) - 1) * 2 ^ lo) ||| fieldMask r

/-- The lowest bit of a word below `n` bits that no field covers and that is not 0. -/
def strayBit (n w : Nat) (f : Fields) : Option Nat :=
  let m := fieldMask f
  (List.range n).find? fun i => w.testBit i && !m.testBit i

def opcodeOf (w : Nat) : Nat := bits w 127 120
def opFlag (w i : Nat) : Bool := w.testBit (112 + i)

/-- The fields that an op word reads under its own rules, or none for an unknown opcode (R160, R176, R180 to R190). -/
def opFields (w : Nat) : Option Fields :=
  let base : Fields := [(127, 120)]
  match opcodeOf w with
  | 0x01 => some base
  | 0x02 => some base
  | 0x49 => some base
  | 0x04 => some (base ++ [(113, 112), (111, 96), if opFlag w 0 then (69, 64) else (95, 64)] ++
      (if opFlag w 1 then [(63, 36)] else []))
  | 0x05 => some (base ++ [(112, 112), (111, 107), if opFlag w 0 then (69, 64) else (95, 64)])
  | 0x10 => some (base ++ [(111, 32)])
  | 0x11 => some (base ++ [(112, 112), (111, 13)])
  | 0x12 => some (base ++ [(112, 112), (111, 10)])
  | 0x18 =>
    let mode := bits w 118 117
    some (base ++ [(115, 112), (118, 117), (111, 56), (45, 17)] ++ (if mode = 0 then [] else [(116, 116), (53, 46)]) ++
      (if mode = 1 then [(55, 54)] else []) ++ (if opFlag w 2 then [(16, 1)] else []))
  | 0x20 =>
    let vop := bits w 33 28
    some (base ++ [(111, 60), (33, 28), (25, 10)] ++
      (if vop ≤ 5 ∨ vop = 7 then [(27, 26), if bits w 27 26 = 1 then (45, 34) else (59, 34)] else []))
  | 0x21 => some (base ++ [(112, 112), (111, 58)])
  | 0x22 => some (base ++ [(111, 83), (79, 77)] ++ (if bits w 79 78 = 2 then [(82, 80)] else []) ++
      (if bits w 79 78 = 0 then [] else [(76, 53)]))
  | 0x30 => some (base ++ [(111, 98), (63, 32)])
  | 0x31 => some (base ++ [(112, 112), (111, 98), (63, 32)] ++ (if opFlag w 0 then [(97, 94)] else []))
  | 0x38 => some (base ++ [(111, 104)])
  | 0x39 => some (base ++ [(111, 104)])
  | 0x40 => some (base ++ [(111, 48)])
  | 0x41 => some (base ++ [(111, 111)])
  | 0x48 => some (base ++ [(112, 112), (111, 28)] ++ (if opFlag w 0 then [(27, 24)] else []))
  | _ => none

/-- The lowest bits of the engine address fields that an op reads (R178). -/
def addrFields (w : Nat) : List Nat :=
  match opcodeOf w with
  | 0x10 => [86, 60]
  | 0x11 => [86, 60, 26]
  | 0x12 => [86, 60, 26]
  | 0x18 => [86, 60]
  | 0x20 =>
    let vop := bits w 33 28
    if (vop ≤ 5 ∨ vop = 7) ∧ bits w 27 26 ≠ 1 then [86, 60, 34] else [86, 60]
  | 0x21 => [86]
  | 0x22 => [86]
  | 0x48 => [86]
  | _ => []

/-- An engine address field (R178). -/
def addrOf (w lo : Nat) : EAddr :=
  if w.testBit (lo + 25) then .cur (bits w (lo + 24) (lo + 21)) (bits w (lo + 20) lo) else .lit (bits w (lo + 20) lo)

/-- Decode an op word; indirect fields take the launch constants (R126, R127, R190). -/
def decodeOp (consts : Nat → Nat) (w : Nat) : Op :=
  let b (hi lo : Nat) : Nat := bits w hi lo
  match opcodeOf w with
  | 0x01 => .end_
  | 0x04 => .loop (b 111 96) (if opFlag w 0 then consts (b 69 64) else b 95 64) (opFlag w 1) (b 63 60) (sext 24 (b 59 36))
  | 0x05 => .cursor (b 111 108) (w.testBit 107) (sext 32 (if opFlag w 0 then consts (b 69 64) % 2 ^ 32 else b 95 64))
  | 0x10 => .wload (addrOf w 86) (addrOf w 60) (b 59 56) (b 55 54) (b 53 52) (b 51 43) (b 42 32)
  | 0x11 => .matmul (opFlag w 0) (addrOf w 86) (addrOf w 60) (addrOf w 26) (b 59 56) (b 55 54) (b 53 52) (b 25 13)
  | 0x12 => .ribbon (opFlag w 0) (addrOf w 86) (addrOf w 60) (addrOf w 26) (b 59 56) (b 55 54) (b 53 52) (b 25 10)
  | 0x18 => .drain (opFlag w 0) (opFlag w 1) (opFlag w 2) (opFlag w 3) (opFlag w 4) (b 118 117) (addrOf w 86)
      (addrOf w 60) (b 59 56) (b 55 54) (b 53 46) (b 45 33) (b 32 17) (b 16 1)
  | 0x20 => .vector (addrOf w 86) (addrOf w 60) (addrOf w 34) (b 45 34) (b 33 28) (b 27 26) (b 25 10)
  | 0x21 => .reduce (opFlag w 0) (addrOf w 86) (b 85 83) (b 82 81) (b 80 65) (b 64 58)
  | 0x22 => .reduceRead (addrOf w 86) (b 85 83) (b 82 80) (b 79 78) (w.testBit 77) (b 76 53)
  | 0x30 => .signal (b 111 100) (b 99 98) (b 63 32)
  | 0x31 => .wait (b 111 100) (b 99 98) (if opFlag w 0 then some (b 97 94) else none) (b 63 32)
  | 0x38 => .phaseAnnounce (b 111 104)
  | 0x39 => .phaseBegin (b 111 104)
  | 0x40 => .rewindMark (BitVec.ofNat 64 (b 111 48))
  | 0x41 => .geometry (w.testBit 111)
  | 0x48 => .rcLoad (addrOf w 86) (b 85 78) (b 77 44) (b 43 28) (if opFlag w 0 then some (b 27 24) else none)
  | 0x49 => .rcInvalidate
  | _ => .nop

/-- Whether an op word names a launch constant. -/
def opIndirect (w : Nat) : Bool := (opcodeOf w == 0x04 || opcodeOf w == 0x05) && opFlag w 0

def mopcodeOf (w : Nat) : Nat := bits w 255 248
def mvFlag (w i : Nat) : Bool := w.testBit (240 + i)

/-- The fields that a MOVE word reads; `blocks` tells whether its paired scales are block scales (R160, R195). -/
def moveFields (w : Nat) (blocks : Bool) : Fields :=
  [(255, 248), (243, 240), (239, 104)] ++ (if mvFlag w 0 && blocks then [(103, 102)] else []) ++
    (if mvFlag w 2 then [(101, 98)] else []) ++ (if mvFlag w 3 then [(97, 94)] else []) ++
    (if mvFlag w 1 then [(93, 80)] else []) ++ (if bits w 105 104 = 3 then [(79, 32)] else [])

/-- Decode a MOVE (R195). -/
def decodeMove (w : Nat) : MoveWord :=
  { srcNs := w.testBit 239, srcIndex := bits w 238 231, srcOff := bits w 230 191, dstNs := w.testBit 190,
    dstIndex := bits w 189 182, dstOff := bits w 181 142, rows := bits w 141 126, cols := bits w 125 110,
    fmt := bits w 109 106, transform := bits w 105 104, blk := bits w 103 102,
    srcCur := if mvFlag w 2 then some (bits w 101 98) else none,
    dstCur := if mvFlag w 3 then some (bits w 97 94) else none,
    done := if mvFlag w 1 then some (bits w 93 82, bits w 81 80) else none,
    aux := bits w 79 72, auxOff := bits w 71 32, paired := mvFlag w 0 }

/-- The control opcodes of move words (R194). -/
def isMoveCtl (c : Nat) : Bool := [0x01, 0x02, 0x04, 0x05, 0x30, 0x31].contains c

/-- Decode a move word. -/
def decodeMWord (consts : Nat → Nat) (w : Nat) : MWord :=
  if mopcodeOf w = 0x10 then .move (decodeMove w) else .ctl (decodeOp consts (w >>> 128))

/-- One bit of a CRC-32C, reflected (R162). -/
def crcBit (c : BitVec 32) : BitVec 32 := if c.getLsbD 0 then (c >>> 1) ^^^ 0x82F63B78#32 else c >>> 1

/-- One byte of a CRC-32C. -/
def crcByte (c : BitVec 32) (b : Byte) : BitVec 32 :=
  (List.range 8).foldl (fun c _ => crcBit c) (c ^^^ b.zeroExtend 32)

/-- CRC-32C: polynomial 0x1EDC6F41, initial value and final inversion as in iSCSI (R162). -/
def crc32c (bs : List Byte) : Nat := (~~~(bs.foldl crcByte 0xFFFF_FFFF#32)).toNat

end Sys2Proof.Machine
end

