-- ==== Sys2Proof/Machine/Image.lean ====
section
/-! DEFINITION. The ephemeris image: header, section table and tables, with the checks of R200 that need no stream (R158
to R175, R193, R199 to R202). -/

namespace Sys2Proof.Machine

/-! ### Failures (R202) -/

/-- A failed check: status, section, entry and field. -/
structure VErr where
  code : Nat
  section_ : Nat
  entry : Nat
  field : Nat
  deriving DecidableEq, Repr

/-- The detail of a failed check. -/
def VErr.detail (e : VErr) : BitVec 64 := BitVec.ofNat 64 (e.section_ + e.entry % 2 ^ 32 * 2 ^ 16 + e.field * 2 ^ 48)

abbrev V (α : Type) := Except VErr α

/-- A check of a field: whether it fails, the status and the field. -/
abbrev Chk := Bool × Nat × Nat

/-- The first check of an entry that fails. -/
def firstBad (sec entry : Nat) : List Chk → V Unit
  | [] => .ok ()
  | (bad, code, fld) :: r => if bad then .error ⟨code, sec, entry, fld⟩ else firstBad sec entry r

/-- Run a check over the elements of a list in order. -/
def eachV {α : Type} (f : Nat → α → V Unit) : Nat → List α → V Unit
  | _, [] => .ok ()
  | i, x :: r => match f i x with
    | .ok _ => eachV f (i + 1) r
    | .error e => .error e

/-! ### The image as bytes -/

/-- The little-endian number of `n` bytes at an offset. -/
def imgNum (b : List Byte) (off n : Nat) : Nat := leNat ((b.drop off).take n)

/-- The first byte of `[lo, hi)` that is not 0. -/
def strayByte (b : List Byte) (lo hi : Nat) : Option Nat :=
  (((b.drop lo).take (hi - lo)).findIdx? (· != 0)).map (lo + ·)

def secHdr : Nat := 0
def secTab : Nat := 0xFE

/-- Bytes of IMAGE_BYTES as the header gives it. -/
def imgBytes (b : List Byte) : Nat := imgNum b 16 4

/-- The header checks, MAGIC and VERSION first (R161, R199, R201). -/
def checkHeader (b : List Byte) : V Unit :=
  let n := imgBytes b
  let flags := imgNum b 23 1
  firstBad secHdr 0
    [(imgNum b 0 4 != 0x4B4D3945, 0x0130, 0), (imgNum b 4 2 != 1, 0x0130, 4), (imgNum b 6 2 == 0, 0x0101, 6),
      (decide (16 < imgNum b 6 2), 0x0103, 6), (n == 0, 0x0101, 16), (n % 64 != 0, 0x0130, 16),
      (decide (n < 384) || decide (268435456 < n), 0x0103, 16), (decide (2 < imgNum b 22 1), 0x0130, 22),
      (decide (4 ≤ flags), 0x0134, 23), (flags % 2 == 0 && imgNum b 24 1 != 0, 0x0134, 24),
      (flags / 2 % 2 == 0 && imgNum b 25 1 != 0, 0x0134, 25), (imgNum b 26 2 != 0, 0x0134, (strayByte b 26 28).getD 26),
      ((strayByte b 44 256).isSome, 0x0134, (strayByte b 44 256).getD 44)]

/-- Both CRCs (R162). -/
def checkCrc (b : List Byte) : V Unit :=
  let head := b.take 36 ++ [0, 0, 0, 0] ++ (b.drop 40).take 216
  firstBad secHdr 0
    [(crc32c head != imgNum b 36 4, 0x0131, 36),
      (crc32c ((b.take (imgBytes b)).drop 256) != imgNum b 40 4, 0x0131, 40)]

/-! ### The section table (R163, R164) -/

/-- Entry bytes and largest count of a section type. -/
def secInfo : Nat → Option (Nat × Nat)
  | 0x01 => some (32, 256)
  | 0x02 => some (16, 64)
  | 0x03 => some (16, 16777216)
  | 0x04 => some (32, 4194304)
  | 0x05 => some (16, 4096)
  | 0x06 => some (16, 256)
  | 0x07 => some (8, 256)
  | 0x08 => some (32, 256)
  | 0x09 => some (4, 4096)
  | 0x0F => some (1, 1048576)
  | _ => none

/-- A section: type, count, offset. -/
structure Sec_ where
  ty : Nat
  count : Nat
  off : Nat
  deriving DecidableEq, Repr

def secBytes (x : Sec_) : Nat := x.count * ((secInfo x.ty).getD (0, 0)).1

/-- The entries of the section table. -/
def sections (b : List Byte) : List Sec_ :=
  (List.range (imgNum b 6 2)).map fun i => ⟨imgNum b (256 + 16 * i) 1, imgNum b (260 + 16 * i) 4, imgNum b (264 + 16 * i) 8⟩

/-- The checks of entry `i` against the entries before it, its reserved bytes first (log 178). -/
def checkSection (b : List Byte) (before : List Sec_) (i : Nat) (x : Sec_) : V Unit :=
  let hit (y : Sec_) : Bool := decide (x.off < y.off + secBytes y) && decide (y.off < x.off + secBytes x)
  firstBad secTab i
    [((strayByte b (257 + 16 * i) (260 + 16 * i)).isSome, 0x0134, (strayByte b (257 + 16 * i) (260 + 16 * i)).getD 0 - (256 + 16 * i)),
      ((secInfo x.ty).isNone || before.any (fun y => y.ty == x.ty), 0x0132, 0), (x.count == 0, 0x0101, 4),
      (decide (((secInfo x.ty).getD (0, 0)).2 < x.count), 0x0103, 4),
      (x.off % 64 != 0 || decide (x.off < 256 + 16 * imgNum b 6 2), 0x0132, 8),
      (decide (imgBytes b < x.off + secBytes x), 0x0103, 8), (before.any hit, 0x0132, 8)]

/-- The section table: every entry, then what is absent (R164, R202). -/
def checkSections (b : List Byte) : V Unit :=
  let l := sections b
  let has (t : Nat) : Bool := l.any fun x => x.ty == t
  match eachV (fun i x => checkSection b (l.take i) i x) 0 l with
  | .error e => .error e
  | .ok _ =>
    if !has 1 || !has 3 || (has 2 && !has 4) then .error ⟨0x0132, secTab, l.length, 0⟩
    else if has 4 && !has 2 then .error ⟨0x0132, secTab, (l.findIdx? (fun x => x.ty == 4)).getD 0, 0⟩
    else .ok ()

/-- Count of a section, 0 where it is absent. -/
def secCount (l : List Sec_) (t : Nat) : Nat := (l.find? fun x => x.ty == t).elim 0 (·.count)

/-- The entries of a section as bytes. -/
def secEntries (b : List Byte) (l : List Sec_) (t : Nat) : List (List Byte) :=
  match l.find? fun x => x.ty == t, secInfo t with
  | some x, some (n, _) => (List.range x.count).map fun i => (b.drop (x.off + n * i)).take n
  | _, _ => []

/-! ### The tables -/

/-- A slot descriptor (R165). -/
structure SlotD where
  first : Nat
  count : Nat
  ns : Nat
  acc : Nat
  width : Nat
  ribbon : Bool
  group : Nat
  deriving DecidableEq, Repr

/-- A stream descriptor (R167). -/
structure StreamD where
  first : Nat
  count : Nat
  staging : Nat
  deriving DecidableEq, Repr

/-- A binding with its indirect flags: an address or a length that names a constant is not resolved yet (R168). -/
structure BindD where
  b : Binding
  vaInd : Bool
  lenInd : Bool
  deriving DecidableEq, Repr

/-- A token (R171). -/
structure TokD where
  initial : Nat
  home : Nat
  indirect : Bool
  remote : Option (Nat × Nat)
  deriving DecidableEq, Repr

/-- A scale slot (R173). -/
structure ScaleD where
  fmt : Nat
  zero : Int
  history : Nat
  margin : Nat
  retry : Nat
  deriving DecidableEq, Repr

/-- An image that has been read. -/
structure Image where
  ephId : BitVec 64
  budget : Nat
  faultMode : Nat
  amax : Option Nat
  report : Option Nat
  latency : Nat
  total : Nat
  slots : List SlotD
  streams : List StreamD
  ops : List Nat
  moves : List Nat
  tokens : List TokD
  phases : List PhaseDef
  scales : List ScaleD
  binds : List BindD
  pool : List (BitVec 32)
  deriving DecidableEq, Repr

def readSlot (e : List Byte) : SlotD :=
  ⟨imgNum e 0 4, imgNum e 4 4, imgNum e 8 2, imgNum e 10 1, imgNum e 11 1, imgNum e 12 1 == 1, imgNum e 13 1⟩

def readStream (e : List Byte) : StreamD := ⟨imgNum e 0 4, imgNum e 4 4, imgNum e 8 2⟩

def readBind (e : List Byte) : BindD :=
  let f := imgNum e 21 1
  ⟨{ va := imgNum e 0 8, len := imgNum e 8 8, pitch := imgNum e 16 4, tier := imgNum e 20 1, writable := f.testBit 0,
     frozen := f.testBit 1, fmt := imgNum e 22 1, scaleBinding := imgNum e 23 1, scaleKind := imgNum e 24 1,
     scaleBlk := imgNum e 25 1 }, f.testBit 2, f.testBit 3⟩

def readTok (e : List Byte) : TokD :=
  let f := imgNum e 5 1
  ⟨imgNum e 0 4, imgNum e 4 1, f.testBit 1, if f.testBit 0 then some (imgNum e 6 2 % 4096, imgNum e 8 2) else none⟩

def readPhase (e : List Byte) : PhaseDef := ⟨imgNum e 0 6, imgNum e 6 1, imgNum e 7 1, imgNum e 8 1⟩

/-- A scale slot; an image that declares no retry limit carries 2 (R104). -/
def readScale (e : List Byte) : ScaleD :=
  let r := imgNum e 4 1
  ⟨imgNum e 0 1, if isIntFmt (imgNum e 0 1) then zeroPoint (imgNum e 0 1) (imgNum e 1 1) else 0, imgNum e 2 1, imgNum e 3 1,
    if r.testBit 7 then r % 4 else 2⟩

/-- Read an image whose section table has passed. -/
def readImage (b : List Byte) : Image :=
  let l := sections b
  let ent := secEntries b l
  let f := imgNum b 23 1
  { ephId := BitVec.ofNat 64 (imgNum b 8 8), budget := imgNum b 20 2, faultMode := imgNum b 22 1,
    amax := if f.testBit 0 then some (imgNum b 24 1) else none,
    report := if f.testBit 1 then some (imgNum b 25 1) else none,
    latency := imgNum b 28 4, total := imgNum b 32 4,
    slots := (ent 1).map readSlot, streams := (ent 2).map readStream,
    ops := (ent 3).map leNat, moves := (ent 4).map leNat, tokens := (ent 5).map readTok,
    phases := (ent 6).map readPhase, scales := (ent 7).map readScale, binds := (ent 8).map readBind,
    pool := (ent 9).map fun e => BitVec.ofNat 32 (leNat e) }

/-- A reserved tail of a table entry. -/
def tail (e : List Byte) (lo : Nat) : Chk := ((strayByte e lo e.length).isSome, 0x0134, (strayByte e lo e.length).getD lo)

/-- SLOTS (R165, R166, R199). -/
def checkSlotD (m : Image) (i : Nat) (e : List Byte) : V Unit :=
  let x := readSlot e
  let g := ((m.slots.take (i + 1)).filter fun y => y.group == x.group).length
  firstBad 1 i
    [(decide (m.ops.length ≤ x.first) || (x.count != 0 && decide (m.ops.length < x.first + x.count)), 0x0103, 0),
      (x.count == 0, 0x0101, 4), (decide (1024 < x.ns), 0x0103, 8), (decide (32 < x.acc), 0x0103, 10),
      (decide (x.width < 124) || decide (128 < x.width), 0x0103, 11), (decide (1 < imgNum e 12 1), 0x0135, 12),
      (x.group != 255 && decide (127 < x.group), 0x0135, 13), (x.group != 255 && decide (32 < g), 0x0103, 13), tail e 14]

/-- STREAMS (R167, R199). -/
def checkStreamD (m : Image) (i : Nat) (e : List Byte) : V Unit :=
  let x := readStream e
  firstBad 2 i
    [(decide (m.moves.length ≤ x.first) || (x.count != 0 && decide (m.moves.length < x.first + x.count)), 0x0103, 0),
      (x.count == 0, 0x0101, 4), (x.staging == 0, 0x0101, 8), tail e 10]

/-- BINDINGS (R168, R169, R175, R201). -/
def checkBindD (m : Image) (i : Nat) (e : List Byte) : V Unit :=
  let x := readBind e
  let b := x.b
  let n := m.binds.length
  firstBad 8 i
    [(x.vaInd && decide (64 ≤ b.va), 0x0134, 0),
      (!x.vaInd && (decide (2 ^ 57 ≤ b.va) || (!x.lenInd && decide (2 ^ 57 < b.va + b.len))), 0x0103, 0),
      (x.lenInd && decide (64 ≤ b.len), 0x0134, 8), (!x.lenInd && b.len == 0, 0x0101, 8),
      (decide (4 < b.tier) || (b.tier == 4 && m.latency == 0), 0x0135, 20), (decide (16 ≤ imgNum e 21 1), 0x0134, 21),
      (b.writable && b.frozen, 0x0135, 21), (decide (15 < b.fmt), 0x0135, 22),
      (b.scaleBinding != 255 && decide (n ≤ b.scaleBinding), 0x0136, 23),
      (decide (6 < b.scaleKind) || (b.scaleKind == 0) != (b.scaleBinding == 255), 0x0135, 24),
      ((b.scaleKind == 1 || b.scaleKind == 2) && decide (3 < b.scaleBlk), 0x0135, 25),
      (!(b.scaleKind == 1 || b.scaleKind == 2) && b.scaleBlk != 0, 0x0134, 25), tail e 26]

/-- Whether the binding that a header field names breaks R170; an unresolved length is checked once it is resolved. -/
def badHeld (m : Image) (b per n : Nat) : Bool := match m.binds[b]? with
  | none => true
  | some x => !x.b.writable || (!x.lenInd && decide (x.b.len < per * n))

/-- R170, between the bindings and the tokens (log 177). -/
def checkHeld (m : Image) : V Unit :=
  firstBad secHdr 0
    [(m.amax.isNone && !m.scales.isEmpty, 0x0136, 23), (m.amax.elim false fun b => badHeld m b 64 m.scales.length, 0x0136, 24),
      (m.report.elim false fun b => badHeld m b 8 m.slots.length, 0x0136, 25)]

/-- TOKENS (R160, R171, R193, R201, R446). -/
def checkTokD (m : Image) (i : Nat) (e : List Byte) : V Unit :=
  let x := readTok e
  let rem := x.remote.isSome
  firstBad 5 i
    [(rem && x.initial != 0, 0x0134, 0), (!rem && x.indirect && decide (64 ≤ x.initial), 0x0134, 0),
      (rem && x.home != 0, 0x0134, 4), (!rem && decide (m.slots.length ≤ x.home), 0x0136, 4),
      (decide (4 ≤ imgNum e 5 1) || (rem && x.indirect), 0x0134, 5), (rem && m.latency == 0, 0x0135, 5),
      ((!rem && imgNum e 6 2 != 0) || decide (4096 ≤ imgNum e 6 2), 0x0134, 6), (!rem && imgNum e 8 2 != 0, 0x0134, 8),
      (decide (4096 ≤ imgNum e 8 2), 0x0103, 8), tail e 10]

/-- SCALE_SLOTS (R173, R175). -/
def checkScaleD (i : Nat) (e : List Byte) : V Unit :=
  let f := imgNum e 0 1
  let r := imgNum e 4 1
  firstBad 7 i
    [(!(decide (f ≤ 1) || (decide (8 ≤ f) && decide (f ≤ 11))), 0x0135, 0), (decide (f ≤ 1) && imgNum e 1 1 != 0, 0x0134, 1),
      (imgNum e 2 1 == 0, 0x0101, 2), (decide (16 < imgNum e 2 1), 0x0103, 2), (decide (3 < imgNum e 3 1), 0x0103, 3),
      (r / 4 % 32 != 0 || (decide (r < 128) && r % 4 != 0), 0x0134, 4), tail e 5]

/-- Run checks one after another. -/
def allV : List (V Unit) → V Unit
  | [] => .ok ()
  | .ok _ :: r => allV r
  | .error e :: _ => .error e

/-- Steps 1 to 4 of R200. -/
def checkTables (b : List Byte) : V Image :=
  match allV [checkHeader b, checkCrc b, checkSections b] with
  | .error e => .error e
  | .ok _ =>
    let m := readImage b
    let ent := secEntries b (sections b)
    match allV
      [eachV (checkSlotD m) 0 (ent 1), eachV (checkStreamD m) 0 (ent 2), eachV (checkBindD m) 0 (ent 8), checkHeld m,
        eachV (checkTokD m) 0 (ent 5), eachV (fun i e => firstBad 6 i [tail e 9]) 0 (ent 6), eachV checkScaleD 0 (ent 7),
        firstBad secHdr 0 [((m.slots.map (·.ns)).sum != m.total, 0x0135, 32)]] with
    | .error e => .error e
    | .ok _ => .ok m

/-- The words of a slot and of a stream. -/
def slotWords (m : Image) (x : SlotD) : List Nat := (m.ops.drop x.first).take x.count
def streamWords (m : Image) (x : StreamD) : List Nat := (m.moves.drop x.first).take x.count

end Sys2Proof.Machine
end

