-- ==== Sys2Proof/Machine/ImageOps.lean ====
section
/-! DEFINITION. Validation of slot streams and Finder streams, each in two passes (R113, R166, R167, R178 to R198, R200,
R213, R214). -/

namespace Sys2Proof.Machine

/-! ### Intervals of addresses -/

abbrev Iv := List (Nat × Nat)

/-- One interval without another. -/
def ivSub (x y : Nat × Nat) : Iv := [(x.1, min x.2 y.1), (max x.1 y.2, x.2)].filter fun p => decide (p.1 < p.2)

/-- What remains of some intervals without others. -/
def ivDiff (xs ys : Iv) : Iv := ys.foldl (fun acc y => acc.flatMap fun x => ivSub x y) xs

/-- Whether two sets of intervals share an address. -/
def ivMeet (xs ys : Iv) : Bool := xs.any fun x => ys.any fun y => decide (x.1 < y.2) && decide (y.1 < x.2)

/-! ### Fields by name, for the detail of R202 -/

/-- The operand fields of an op word, by opcode. -/
def opNames : Nat → Fields
  | 0x04 => [(111, 96), (95, 64), (63, 60), (59, 36)]
  | 0x05 => [(111, 108), (107, 107), (95, 64)]
  | 0x10 => [(111, 86), (85, 60), (59, 56), (55, 54), (53, 52), (51, 43), (42, 32)]
  | 0x11 => [(111, 86), (85, 60), (59, 56), (55, 54), (53, 52), (51, 26), (25, 13)]
  | 0x12 => [(111, 86), (85, 60), (59, 56), (55, 54), (53, 52), (51, 26), (25, 10)]
  | 0x18 => [(111, 86), (85, 60), (59, 56), (55, 54), (53, 46), (45, 33), (32, 17), (16, 1)]
  | 0x20 => [(111, 86), (85, 60), (59, 34), (33, 28), (27, 26), (25, 10)]
  | 0x21 => [(111, 86), (85, 83), (82, 81), (80, 65), (64, 58)]
  | 0x22 => [(111, 86), (85, 83), (82, 80), (79, 78), (77, 77), (76, 53)]
  | 0x30 => [(111, 100), (99, 98), (63, 32)]
  | 0x31 => [(111, 100), (99, 98), (97, 94), (63, 32)]
  | 0x38 => [(111, 104)]
  | 0x39 => [(111, 104)]
  | 0x40 => [(111, 48)]
  | 0x41 => [(111, 111)]
  | 0x48 => [(111, 86), (85, 78), (77, 44), (43, 28), (27, 24)]
  | _ => []

def moveNames : Fields :=
  [(239, 239), (238, 231), (230, 191), (190, 190), (189, 182), (181, 142), (141, 126), (125, 110), (109, 106), (105, 104),
    (103, 102), (101, 98), (97, 94), (93, 82), (81, 80), (79, 72), (71, 32)]

/-- The lowest bit of the field that holds a bit; a bit of no field stands for itself. -/
def fieldLow (f : Fields) (i : Nat) : Nat := (f.find? fun p => decide (p.2 ≤ i) && decide (i ≤ p.1)).elim i (·.2)

/-- The check that reserved bits are 0 (R160). -/
def strayChk (n w : Nat) (read names : Fields) : Chk :=
  match strayBit n w read with
  | some i => (true, 0x0134, fieldLow names i)
  | none => (false, 0, 0)

/-! ### First pass of a slot's stream -/

/-- A field that counts: 0, or above its limit (R199). -/
def countChk (v top lo : Nat) : List Chk := [(v == 0, 0x0101, lo), (decide (top < v), 0x0103, lo)]

/-- BLK and GRAN of an operand that is read (R78, R181). -/
def operandChk (fmt blk gran : Nat) (weight ribbonStream : Bool) : List Chk :=
  [(blk != 0 && !isBlock fmt, 0x0137, 54), (ribbonStream && isBlock fmt && blk == 0, 0x0137, 54),
    (gran != 0 && (isBlock fmt || isFp8 fmt || rateClass fmt == 16), 0x0137, 52),
    (gran == if weight then 1 else 2, 0x0137, 52)]

/-- Output formats of each DRAIN mode (R175). -/
def drainFmtOk (mode ofmt : Nat) : Bool :=
  match mode with
  | 0 => decide (12 ≤ ofmt)
  | 1 => isBlock ofmt
  | _ => isFp8 ofmt || isIntFmt ofmt

/-- A token index and the scope of a remote token (R193). -/
def tokenChk (m : Image) (tok scope lo : Nat) : List Chk :=
  [(decide (m.tokens.length ≤ tok), 0x0136, lo + 2),
    (((m.tokens[tok]?).bind (·.remote)).isSome && scope != 3, 0x0137, lo)]

/-- VECTOR operations that read operand b (R187). -/
def hasB (vop : Nat) : Bool := decide (vop ≤ 5) || vop == 7

/-- What one op word shows on its own (R176 to R193, R199). -/
def opChk (m : Image) (w : Nat) : List Chk :=
  let b (hi lo : Nat) : Nat := bits w hi lo
  let op := opcodeOf w
  let codes : List Chk :=
    [((opFields w).isNone, 0x0133, 120), (op == 0x18 && b 118 117 == 3, 0x0133, 117),
      (op == 0x20 && decide (13 < b 33 28), 0x0133, 28), (op == 0x20 && hasB (b 33 28) && b 27 26 == 3, 0x0133, 26),
      (op == 0x22 && b 79 78 == 3, 0x0133, 78), ((op == 0x10 || op == 0x11 || op == 0x12) && b 53 52 == 3, 0x0137, 52), strayChk 128 w ((opFields w).getD []) (opNames op)] ++
    (addrFields w).map fun lo => (!w.testBit (lo + 25) && b (lo + 24) (lo + 21) != 0, 0x0134, lo)
  let wide := rateClass (b 59 56) == 16
  codes ++ match op with
    | 0x04 => [(b 111 96 == 0, 0x0101, 96), (!opFlag w 0 && b 95 64 == 0, 0x0101, 64)]
    | 0x10 =>
      [(decide (13 < b 59 56), 0x0137, 56), (wide && b 85 60 != 0, 0x0134, 60), (b 51 43 == 0, 0x0101, 43),
        (b 42 32 == 0, 0x0101, 32)]
    | 0x11 => [(decide (13 < b 59 56), 0x0137, 56), (wide && b 51 26 != 0, 0x0134, 26)] ++ countChk (b 25 13) 4096 13
    | 0x12 => [(decide (13 < b 59 56), 0x0137, 56), (wide && b 51 26 != 0, 0x0134, 26)] ++ countChk (b 25 10) 32768 10
    | 0x18 =>
      let mode := b 118 117
      [(mode != 0 && decide (m.scales.length ≤ b 53 46), 0x0136, 46)] ++
      countChk (b 45 33) 4096 33 ++ countChk (b 32 17) 32768 17 ++
      (if opFlag w 2 then countChk (b 16 1) 65535 1 else [])
    | 0x20 =>
      countChk (b 25 10) 65535 10 ++
      [(hasB (b 33 28) && b 27 26 == 1 && decide (m.pool.length ≤ b 45 34), 0x0136, 34)]
    | 0x21 => countChk (b 80 65) 65535 65 ++ countChk (b 64 58) 64 58
    | 0x22 => if b 79 78 = 0 then [] else countChk (b 76 53) 16777215 53
    | 0x30 => tokenChk m (b 111 100) (b 99 98) 98 ++ countChk (b 63 32) (2 ^ 32) 32
    | 0x31 => tokenChk m (b 111 100) (b 99 98) 98
    | 0x38 => [(decide (m.phases.length ≤ b 111 104), 0x0136, 104)]
    | 0x39 => [(decide (m.phases.length ≤ b 111 104), 0x0136, 104)]
    | 0x40 => [(b 111 48 / 2 ^ m.streams.length != 0, 0x0136, 48)]
    | 0x48 => [(decide (m.binds.length ≤ b 85 78), 0x0136, 78)] ++ countChk (b 43 28) 65535 28
    | _ => []

/-- Bytes that a DRAIN writes: codes and scales (R184). -/
def drainSize (w : Nat) : Nat × Nat :=
  let b (hi lo : Nat) : Nat := bits w hi lo
  let rows := b 45 33
  let cols := b 32 17
  let codes := rows * rowBytes (fmtBits (b 59 56)) cols
  match b 118 117 with
  | 1 => (codes, scaleLen (if opFlag w 4 then 2 else 1) (b 55 54) rows cols)
  | 2 => (codes, if opFlag w 4 then 4 * cols else 4 * rows)
  | _ => (codes, 0)

/-- An open loop of the first pass: the index after its body, the geometry at its start, its LOOP word. -/
structure OpenLoop where
  stop : Nat
  ribbon : Bool
  at_ : Nat
  deriving DecidableEq, Repr

/-- An open region of the first pass: its mark, the loop that encloses it, whether it has signalled, and its bytes. -/
structure OpenRegion where
  mark : Nat
  inside : Option Nat
  signalled : Bool
  bytes : Nat
  deriving DecidableEq, Repr

/-- The first pass of a stream so far. -/
structure Scan where
  ribbon : Bool
  loops : List OpenLoop
  region : Option OpenRegion
  deriving DecidableEq, Repr

/-- Leave the loops whose body ends before a word (R191, R192). -/
def leaveLoops (sec first i : Nat) (st : Scan) : List OpenLoop → V Scan
  | [] => .ok { st with loops := [] }
  | l :: r =>
    if i < l.stop then .ok { st with loops := l :: r }
    else match st.region with
      | some g =>
        if g.inside = some l.at_ then .error ⟨0x0138, sec, first + g.mark, 120⟩
        else if st.ribbon ≠ l.ribbon then .error ⟨0x0138, sec, first + l.at_, 120⟩
        else leaveLoops sec first i st r
      | none =>
        if st.ribbon ≠ l.ribbon then .error ⟨0x0138, sec, first + l.at_, 120⟩ else leaveLoops sec first i st r

/-- The structure rules that a word may break (R113, R166, R186, R191, R192). `last` is the index of the stream's END,
`shift` the place of the op's fields in the word. -/
def structChk (st : Scan) (last i op w shift : Nat) : List Chk :=
  let inside := st.loops.head?.map (·.at_)
  let stop := i + 1 + bits w 111 96
  let outer := (st.loops.head?.map (·.stop)).getD last
  [((op == 0x01) != (i == last), 0x0138, 120 + shift),
    (op == 0x04 && (decide (outer < stop) || decide (8 ≤ st.loops.length)), 0x0138, 96 + shift),
    (st.region.isSome && (op == 0x04 || op == 0x05 || op == 0x41 || op == 0x40), 0x0138, 120),
    (op == 0x31 && st.region.elim false (·.signalled), 0x0138, 120),
    (op == 0x18 && opFlag w 1 && (!opFlag w 0 || bits w 118 117 == 0), 0x0138, 113),
    (op == 0x18 && opFlag w 0 && st.region.elim true (fun g => g.inside != inside), 0x0138, 112),
    (op == 0x18 && st.region.elim false (fun g =>
      decide (Config.commitMax < g.bytes + (drainSize w).1 + (drainSize w).2)), 0x0138, 120)]

/-- Pass a word in the first pass. -/
def scanNext (st : Scan) (i op w : Nat) : Scan :=
  match op with
  | 0x04 => { st with loops := ⟨i + 1 + bits w 111 96, st.ribbon, i⟩ :: st.loops }
  | 0x41 => { st with ribbon := w.testBit 111 }
  | 0x40 => { st with region := some ⟨i, st.loops.head?.map (·.at_), false, 0⟩ }
  | 0x30 => { st with region := st.region.map fun g => { g with signalled := true } }
  | 0x18 =>
    if opFlag w 0 then { st with region := none }
    else { st with region := st.region.map fun g => { g with bytes := g.bytes + (drainSize w).1 + (drainSize w).2 } }
  | _ => st

/-- The first pass of a slot's stream. -/
def scanSlot (m : Image) (sd : SlotD) (st : Scan) : Nat → List Nat → V Unit
  | _, [] => match st.region with
    | some g => .error ⟨0x0138, 3, sd.first + g.mark, 120⟩
    | none => .ok ()
  | i, w :: r =>
    match leaveLoops 3 sd.first i st st.loops with
    | .error e => .error e
    | .ok st =>
      match firstBad 3 (sd.first + i) (opChk m w ++ structChk st (sd.count - 1) i (opcodeOf w) w 0) with
      | .error e => .error e
      | .ok _ => scanSlot m sd (scanNext st i (opcodeOf w) w) (i + 1) r

/-! ### First pass of a Finder stream (R194, R195) -/

/-- The MOVE checks that need no cursor value (R193, R195 to R198, R213, R214). -/
def moveChk (m : Image) (w : Nat) : List Chk :=
  let v := decodeMove w
  let bind (i : Nat) : Option Binding := (m.binds[i]?).map (·.b)
  let pb := (bind (pairedBinding v)).elim 0 (·.scaleKind)
  let blocks := v.paired && (pb == 1 || pb == 2)
  let shapeChk (x : Shape) (lo : Nat) : List Chk :=
    [(x.rec_ && decide (1024 < x.cols), 0x0103, lo),
      (!x.rec_ && fmtBits v.fmt == 6 && x.cols % 4 != 0, 0x0137, lo), (!x.rec_ && fmtBits v.fmt == 4 && x.cols % 2 != 0, 0x0137, lo)]
  let one := v.srcNs != v.dstNs
  strayChk 256 w (moveFields w (v.paired && (blocks || (bind (pairedBinding v)).isNone))) moveNames ::
  [(decide ((if v.srcNs then m.slots.length else m.binds.length) ≤ v.srcIndex), 0x0136, 231),
    (decide ((if v.dstNs then m.slots.length else m.binds.length) ≤ v.dstIndex), 0x0136, 182),
    (v.rows == 0, 0x0101, 126), (v.cols == 0, 0x0101, 110), (v.transform == 2 && !one, 0x0137, 104),
    (v.transform == 3 && v.srcNs, 0x0137, 239), (v.paired && !one, 0x0137, 240)] ++
  (match v.done with
    | some (t, sc) => tokenChk m t sc 80
    | none => []) ++
  [(v.transform == 3 && decide (m.binds.length ≤ v.aux), 0x0136, 72)] ++
  shapeChk (srcShape v) 110 ++ shapeChk (dstShape v) (if v.transform = 1 then 126 else 110) ++
  [(v.paired && (pb == 0 || (v.transform == 1 && pb == 5) || (v.transform == 3 && !(pb == 1 || pb == 3 || pb == 6))), 0x0137, 240),
    (blocks && (bind (pairedBinding v)).elim false (fun x => x.scaleBlk != v.blk), 0x0137, 102),
    (v.paired && (bind (pairedBinding v)).elim false (fun x => x.pitch * 8 % fmtBits v.fmt != 0), 0x0137,
      if v.srcNs then 182 else 231)]

/-- Checks with their fields moved up by 128 (R194). -/
def up128 (l : List Chk) : List Chk := l.map fun c => (c.1, c.2.1, c.2.2 + 128)

/-- What one move word shows on its own. -/
def mwordChk (m : Image) (w : Nat) : List Chk :=
  let c := mopcodeOf w
  if c = 0x10 then moveChk m w
  else if isMoveCtl c then
    up128 (opChk m (w / 2 ^ 128)) ++
      [match strayBit 128 (w % 2 ^ 128) [] with
       | some i => (true, 0x0134, i)
       | none => (false, 0, 0)]
  else [(true, 0x0133, 248)]

/-- The first pass of a Finder stream. -/
def scanStream (m : Image) (sd : StreamD) (st : Scan) : Nat → List Nat → V Unit
  | _, [] => .ok ()
  | i, w :: r =>
    match leaveLoops 4 sd.first i st st.loops with
    | .error e => .error e
    | .ok st =>
      let op := if mopcodeOf w = 0x10 then 0x02 else mopcodeOf w
      match firstBad 4 (sd.first + i) (mwordChk m w ++ structChk st (sd.count - 1) i op (w / 2 ^ 128) 128) with
      | .error e => .error e
      | .ok _ => scanStream m sd (scanNext st i op (w / 2 ^ 128)) (i + 1) r

/-! ### The walk in execution order (R179, R190, R200) -/

def in32 (v : Int) : Bool := decide (-2 ^ 31 ≤ v) && decide (v < 2 ^ 31)

/-- Go on after the word at `p`: as `loopEnd`, with the LOOP word whose step takes its cursor out of range. -/
def walkEnd : Nat → List LoopSt → List Int → Except Nat (Nat × List LoopSt × List Int)
  | p, [], cs => .ok (p + 1, [], cs)
  | p, l :: r, cs =>
    if p = l.last then
      let v := if l.stepEn then cs.getD l.cursor 0 + l.step else 0
      if !in32 v then .error (l.first - 1)
      else
        let cs := if l.stepEn then cs.set l.cursor v else cs
        if 1 < l.left then .ok (l.first, { l with left := l.left - 1 } :: r, cs) else walkEnd p r cs
    else .ok (p + 1, l :: r, cs)

/-- Walk a stream in execution order. `ctl` are its words as control ops; `f` checks the word at an index under the
cursor values before it; `sec`, `first` and `shift` place a failure. -/
def walk {σ : Type} (sec first shift : Nat) (ctl : List Op) (f : Nat → List Int → σ → V σ) :
    Nat → Nat → List LoopSt → List Int → σ → V σ
  | 0, _, _, _, st => .ok st
  | fuel + 1, p, loops, cs, st =>
    match ctl[p]? with
    | none => .ok st
    | some o =>
      match f p cs st with
      | .error e => .error e
      | .ok st =>
        let go (cs : List Int) : V σ :=
          match walkEnd p loops cs with
          | .error i => .error ⟨0x0103, sec, first + i, 36 + shift⟩
          | .ok (q, ls, cs) => walk sec first shift ctl f fuel q ls cs st
        match o with
        | .loop body n en c step => walk sec first shift ctl f fuel (p + 1) (⟨p + 1, p + body, n, en, c, step⟩ :: loops) cs st
        | .cursor c add v =>
          let x := if add then cs.getD c 0 + v else v
          if in32 x then go (cs.set c x) else .error ⟨0x0103, sec, first + p, 64 + shift⟩
        | .end_ => .ok st
        | _ => go cs

/-- More words than any stream executes: 8 nested loops of 2^32 iterations over 2^24 words. -/
def walkFuel : Nat := 2 ^ 300

/-- The value of a WAIT, with its cursor (R191). -/
def waitChk (o : Op) (cs : List Int) (shift : Nat) : List Chk :=
  match o with
  | .wait _ _ (some c) v =>
    let x := (v : Int) + cs.getD c 0
    [(decide (x < 0) || decide (2 ^ 32 ≤ x), 0x0103, 32 + shift)]
  | _ => []

/-! ### Second pass of a slot's stream -/

/-- What a matrix op left in the accumulator: intervals, whether it added, and what R186 asks of a writer. -/
structure WriteLog where
  iv : Iv
  add : Bool
  integer : Bool
  wide : Bool
  blocks : Bool
  k : Option Nat
  deriving DecidableEq, Repr

/-- The second pass of a slot so far: the last WLOAD as format, rows and columns, the geometry, matrix writes newest
first, and the open region as addresses read before it wrote them and addresses written. -/
structure Walk2 where
  wl : Option (Nat × Nat × Nat)
  ribbon : Bool
  log : List WriteLog
  reg : Option (Iv × Iv)
  deriving DecidableEq, Repr

/-- An access of an op: its address field, its intervals from that address, whether it writes, and whether it must lie in
the accumulator. -/
structure Acc_ where
  fld : Nat
  iv : Iv
  wr : Bool
  acc : Bool
  deriving DecidableEq, Repr

/-- Rows of `cols` entries 128 entries apart (R182). -/
def accRows (rows cols : Nat) : Iv :=
  if cols = 128 then [(0, 512 * rows)] else (List.range rows).map fun r => (512 * r, 512 * r + 4 * cols)

/-- Bytes of an operand's scales: block scales, or scale words of `groups` groups (R99, R211). Whether words carry sums is not
known before the launch runs, so they count at their widest (log 140). -/
def opScaleLen (fmt blk gran n real groups : Nat) (across : Bool) : Nat :=
  if isBlock fmt then scaleLen (if across then 2 else 1) blk n (recLen real)
  else if gran = 0 then (if isIntFmt fmt then 8 else 4)
  else if gran = 2 then 8 * groups
  else 4 * groups

/-- Bytes of `n` records. -/
def recBytes (fmt n real : Nat) : Nat := n * (recLen real * fmtBits fmt / 8)

/-- What an op reads and writes in engine-local storage (R47, R49, R180 to R189, R210). -/
def opAccs (st : Walk2) (w : Nat) : List Acc_ :=
  let b (hi lo : Nat) : Nat := bits w hi lo
  let fmt := b 59 56
  let rd (f n : Nat) : Acc_ := ⟨f, [(0, n)], false, false⟩
  let wr (f n : Nat) : Acc_ := ⟨f, [(0, n)], true, false⟩
  let scaled := rateClass fmt != 16
  let streamed (n rows : Nat) (iv : Iv) (real : Option Nat) : List Acc_ :=
    (match real with
      | some k => rd 86 (recBytes fmt n k) ::
          (if scaled then [rd 26 (opScaleLen fmt (b 55 54) (b 53 52) n k rows false)] else [])
      | none => []) ++
    (if opFlag w 0 then [⟨60, iv, false, true⟩] else []) ++ [⟨60, iv, true, true⟩]
  match opcodeOf w with
  | 0x10 =>
    rd 86 (recBytes fmt (b 51 43) (b 42 32)) ::
      (if scaled then [rd 60 (opScaleLen fmt (b 55 54) (b 53 52) (b 51 43) (b 42 32)
        (if st.ribbon then b 51 43 else b 42 32) (!st.ribbon))] else [])
  | 0x11 =>
    let n := b 25 13
    streamed n n (accRows n ((st.wl.map (·.2.2)).getD 128)) (st.wl.map (·.2.1))
  | 0x12 =>
    let n := b 25 10
    streamed n n [(0, 4 * n * (st.wl.elim (if rateClass fmt = 4 then 32 else 16) (·.2.1)))] (st.wl.map (·.2.2))
  | 0x18 =>
    let rows := b 45 33
    let cols := b 32 17
    let d := drainSize w
    [⟨60, if opFlag w 3 then accRows rows cols else [(0, 4 * rows * cols)], false, true⟩,
      wr 86 (if d.2 = 0 then d.1 else roundUp d.1 64 + d.2)]
  | 0x20 =>
    let n := b 25 10
    let v := b 33 28
    [rd 60 (n * if v = 13 then 128 else 256)] ++
      (if hasB v ∧ b 27 26 = 0 then [rd 34 (256 * n)] else if hasB v ∧ b 27 26 = 2 then [rd 34 4] else []) ++
      (if v = 3 then [rd 86 (256 * n)] else []) ++ [wr 86 (n * if v = 11 ∨ v = 12 then 128 else 256)]
  | 0x21 => [rd 86 (256 * b 80 65)]
  | 0x22 => [wr 86 (if w.testBit 77 then 8 else 4)]
  | 0x48 => [wr 86 (64 * b 43 28)]
  | _ => []

/-- Highest address of some intervals. -/
def ivEnd (l : Iv) : Nat := l.foldl (fun a p => max a p.2) 0

/-- An access with its address under cursor values: the checks of R178 and R182, and its intervals. -/
def placeAcc (sd : SlotD) (w : Nat) (cs : List Int) (a : Acc_) : List Chk × Iv :=
  let line : Int := match addrOf w a.fld with
    | .lit n => n
    | .cur c off => (off : Int) + cs.getD c 0
  let lo := 64 * line.toNat
  let hi := lo + ivEnd a.iv
  let os := Config.bankBytes
  let inAcc := decide (os ≤ lo) && decide (hi ≤ os + sd.acc * Config.granule)
  let inBank := decide (hi ≤ sd.ns * Config.granule)
  let inOs := decide (os ≤ lo) && decide (hi ≤ 0x4600000)
  ([(decide (line < 0) || decide (2 ^ 21 ≤ line), 0x0103, a.fld), (if a.acc then !inAcc else !(inBank || inOs), 0x0103, a.fld)],
    a.iv.map fun p => (lo + p.1, lo + p.2))

/-- The writers of some entries: for each, the last overwriting op and the adding ops after it (R186). -/
def writersOf : List WriteLog → Iv → List WriteLog
  | [], _ => []
  | x :: r, q =>
    if ivMeet x.iv q then x :: writersOf r (if x.add then q else ivDiff q x.iv) else writersOf r q

/-- The reduction indices accumulated into the entries of `q`: an interval of entries with their sum, which starts at the
last overwriting op (R102, R186, log 42). An op without a WLOAD names none. -/
def kSums : List WriteLog → List ((Nat × Nat) × Option Nat) → List (Option Nat)
  | [], q => q.map (·.2)
  | x :: r, q =>
    let plus (s : Option Nat) : Option Nat := s.bind fun a => x.k.map (a + ·)
    let hit := q.flatMap fun p => (x.iv.map fun v => (max p.1.1 v.1, min p.1.2 v.2)).filterMap fun v =>
      if v.1 < v.2 then some (v, plus p.2) else none
    let rest := q.flatMap fun p => (ivDiff [p.1] x.iv).map fun v => (v, p.2)
    if x.add then kSums r (hit ++ rest) else hit.map (·.2) ++ kSums r rest

/-- The checks of a DRAIN: its formats, the writers of its range, which one dequantising DRAIN takes only if they agree, and its
K against what they accumulated there (R102, R175, R186). -/
def drainChk (m : Image) (w : Nat) (ws : List WriteLog) (sums : List (Option Nat)) : List Chk :=
  let dq := opFlag w 2
  let ofmt := bits w 59 56
  let mode := bits w 118 117
  let plain := mode == 0
  let ints := ws.any (·.integer)
  let ks := ws.filterMap (·.k)
  [(!drainFmtOk mode ofmt, 0x0137, 56),
    (mode == 2 && ((m.scales[bits w 53 46]?).elim false fun x => x.fmt != ofmt), 0x0137, 56),
    (mode == 1 && (if opFlag w 4 then bits w 45 33 else bits w 32 17) % blkSize (bits w 55 54) != 0, 0x0137, 116),
    (dq && ints && ws.any (fun x => !x.integer), 0x0137, 114), (dq && ks.any (· != ks.headD 0), 0x0137, 1),
    (ofmt == 15 && plain && (dq || ws.isEmpty || ws.any (fun x => !x.integer)), 0x0137, 56),
    (!dq && ints && !(plain && ofmt == 15), 0x0137, 114), (dq && (ws.isEmpty || ws.any fun x => x.wide || x.blocks), 0x0137, 114),
    (dq && sums.any (fun k => k.elim false fun n => n != 0 && n != bits w 16 1), 0x0137, 1)]

/-- What a matrix op writes to the accumulator, as R186 sees it. -/
def matrixLog (st : Walk2) (w : Nat) (iv : Iv) : WriteLog :=
  let fmt := bits w 59 56
  let sq := opcodeOf w == 0x11
  { iv := iv, add := opFlag w 0, integer := isIntFmt fmt, wide := rateClass fmt == 16,
    blocks := isBlock fmt && st.wl.elim false (fun x => isBlock x.1), k := st.wl.map fun x => if sq then x.2.1 else x.2.2 }

/-- What R181 asks of a matrix op in the geometry that the ops before it have set, and the limits of a WLOAD there (R180,
R200). -/
def geoChk (sd : SlotD) (st : Walk2) (w : Nat) : List Chk :=
  let b (hi lo : Nat) : Nat := bits w hi lo
  let four := rateClass (b 59 56) == 4
  match opcodeOf w with
  | 0x10 =>
    operandChk (b 59 56) (b 55 54) (b 53 52) (!st.ribbon) false ++
      countChk (b 51 43) (if st.ribbon then (if four then 32 else 16) else if four then 256 else 128) 43 ++
      countChk (b 42 32) (if st.ribbon then 8 * sd.width else sd.width) 32
  | 0x11 => [(st.ribbon, 0x0137, 120)]
  | 0x12 => [(!st.ribbon, 0x0137, 120)]
  | _ => []

/-- The pairing of a stream op with its WLOAD; without one, the fields that are not read (R38, R78, R79, R181). -/
def pairChk (st : Walk2) (w : Nat) : List Chk :=
  let op := opcodeOf w
  let b (hi lo : Nat) : Nat := bits w hi lo
  if op = 0x11 ∨ op = 0x12 then
    match st.wl with
    | none => [(b 111 86 != 0, 0x0134, 86), (b 55 54 != 0, 0x0134, 54), (b 53 52 != 0, 0x0134, 52), (b 51 26 != 0, 0x0134, 26)]
    | some x => operandChk (b 59 56) (b 55 54) (b 53 52) (op == 0x12) (op == 0x12) ++
        [(pairGroup (b 59 56) != pairGroup x.1, 0x0137, 56)]
  else []

/-- The range of an RC_LOAD in its binding (R189). -/
def rcChk (m : Image) (w : Nat) (cs : List Int) : List Chk :=
  if opcodeOf w ≠ 0x48 then []
  else
    let off : Int := (bits w 77 44 : Int) + if opFlag w 0 then cs.getD (bits w 27 24) 0 else 0
    match m.binds[bits w 85 78]? with
    | some x => [(decide (off < 0) || (!x.lenInd && decide ((x.b.len : Int) < 64 * (off + (bits w 43 28 : Nat)))), 0x0103, 44)]
    | none => []

/-- A matrix op that adds: it reads the entries it writes. -/
def adds (w : Nat) : Bool := opFlag w 0 && (opcodeOf w == 0x11 || opcodeOf w == 0x12)

/-- The region rules of R113 for the addresses an op writes: none that the region read before it wrote it, and no entry first
written by an add. A DRAIN of a region writes its commit buffer (R112). -/
def regionChk (st : Walk2) (w : Nat) (wr accWr : Iv) : List Chk :=
  match st.reg with
  | none => []
  | some (inputs, written) =>
    [(opcodeOf w != 0x18 && ivMeet wr inputs, 0x0138, 120), (adds w && !(ivDiff accWr written).isEmpty, 0x0138, 120)]

/-- Pass a word in the second pass. -/
def walkNext (st : Walk2) (w : Nat) (rd wr : Iv) (accWr : Iv) : Walk2 :=
  let st := match st.reg with
    | none => st
    | some (inputs, written) =>
      { st with reg := some (inputs ++ ivDiff rd written, if opcodeOf w = 0x18 then written else written ++ wr) }
  match opcodeOf w with
  | 0x10 => { st with wl := some (bits w 59 56, bits w 51 43, bits w 42 32) }
  | 0x41 => { st with wl := none, ribbon := w.testBit 111 }
  | 0x40 => { st with reg := some ([], []) }
  | 0x18 => if opFlag w 0 then { st with reg := none } else st
  | 0x11 => { st with log := matrixLog st w accWr :: st.log }
  | 0x12 => { st with log := matrixLog st w accWr :: st.log }
  | _ => st

/-- Check one op in the second pass. -/
def walkOp (m : Image) (sd : SlotD) (words : List Nat) (ctl : List Op) (p : Nat) (cs : List Int) (st : Walk2) : V Walk2 :=
  let w := words.getD p 0
  let pl := (opAccs st w).map fun a => (a, placeAcc sd w cs a)
  let sel (q : Acc_ → Bool) : Iv := (pl.filter fun x => q x.1).flatMap fun x => x.2.2
  let rd := sel fun a => !a.wr
  let wr := sel fun a => a.wr
  let accRd := sel fun a => !a.wr && a.acc
  let accWr := sel fun a => a.wr && a.acc
  let checks := geoChk sd st w ++ pairChk st w ++ pl.flatMap (fun x => x.2.1) ++ rcChk m w cs ++ waitChk (ctl.getD p .nop) cs 0 ++
    (if opcodeOf w = 0x18 then drainChk m w (writersOf st.log accRd) (kSums st.log (accRd.map fun p => (p, some 0))) else []) ++
    regionChk st w wr accWr
  match firstBad 3 (sd.first + p) checks with
  | .error e => .error e
  | .ok _ => .ok (walkNext st w rd wr accWr)

/-- A COUNT that a constant supplies (R127, R190, R199). -/
def indirectChk (consts : Nat → Nat) (w lo shift : Nat) : List Chk :=
  if opcodeOf w = 0x04 ∧ opFlag w 0 then countChk (consts (bits w (lo + 5) lo)) (2 ^ 32 - 1) (lo + shift) else []

/-- Both passes of a slot's stream, or only the first while its constants are not known. -/
def checkSlot (m : Image) (consts : Option (Nat → Nat)) (sd : SlotD) : V Unit :=
  let words := slotWords m sd
  match scanSlot m sd ⟨sd.ribbon, [], none⟩ 0 words with
  | .error e => .error e
  | .ok _ =>
    if consts.isNone ∧ words.any opIndirect then .ok ()
    else
      let k := consts.getD fun _ => 1
      match eachV (fun i w => firstBad 3 i (indirectChk k w 64 0)) sd.first words with
      | .error e => .error e
      | .ok _ =>
        let ctl := words.map (decodeOp k)
        match walk 3 sd.first 0 ctl (walkOp m sd words ctl) walkFuel 0 [] (List.replicate 16 0) ⟨none, sd.ribbon, [], none⟩ with
        | .error e => .error e
        | .ok _ => .ok ()

/-! ### Second pass of a Finder stream -/

/-- The checks of the endpoints that need no cursor value, and that R200 names for the second pass (R196). -/
def pitchChk (m : Image) (v : MoveWord) : List Chk :=
  let bind (i : Nat) : Option Binding := (m.binds[i]?).map (·.b)
  let pitch0 (i : Nat) : Bool := (bind i).elim false fun x => x.pitch == 0
  [(v.srcNs && v.srcOff % 64 != 0, 0x0137, 191), (v.dstNs && v.dstOff % 64 != 0, 0x0137, 142),
    (!v.dstNs && (bind v.dstIndex).elim false (fun x => !x.writable), 0x0137, 182),
    (!v.dstNs && pitch0 v.dstIndex && (decide (1 < v.rows) || v.paired), 0x0137, 182),
    (!v.srcNs && pitch0 v.srcIndex && v.paired, 0x0137, 231)]

/-- The checks of one endpoint under cursor values (R196, R197). The scales of a gather lie where its index list leads, but for
one scale word of the whole tensor. -/
def endChk (m : Image) (v : MoveWord) (src : Bool) (cs : List Int) : List Chk :=
  let ns := if src then v.srcNs else v.dstNs
  let idx := if src then v.srcIndex else v.dstIndex
  let x := if src then srcShape v else dstShape v
  let fld := if src then 191 else 142
  let cur := if src then v.srcCur else v.dstCur
  let o : Int := ((if src then v.srcOff else v.dstOff : Nat) : Int) + cur.elim 0 fun c => 64 * cs.getD c 0
  let off := o.toNat
  let kind := ((m.binds[pairedBinding v]?).map (·.b.scaleKind)).getD 0
  (decide (o < 0), 0x0103, fld) ::
  if ns then
    [((m.slots[idx]?).elim false fun d => decide (d.ns * Config.granule < off + nearBytes v kind), 0x0103, fld)]
  else match m.binds[idx]? with
    | none => []
    | some d =>
      let b := d.b
      let og := originOf off b.pitch v.fmt
      let gather := v.transform == 3 && src
      let rowsEnd := off + (x.rows - 1) * b.pitch + x.rowLen v.fmt
      let C := b.pitch * 8 / fmtBits v.fmt
      let sb := (m.binds[b.scaleBinding]?)
      [(!gather && !d.lenInd && decide (b.len < rowsEnd), 0x0103, fld), (v.paired && !og.2.2, 0x0137, fld),
        (v.paired && kind == 1 && og.2.1 % blkSize b.scaleBlk != 0, 0x0137, fld),
        (v.paired && kind == 2 && og.1 % blkSize b.scaleBlk != 0, 0x0137, fld),
        (v.paired && (!gather || kind == 6) && sb.elim false (fun s => !s.lenInd &&
          decide (s.b.len < scaleEnd kind b.scaleBlk C og.1 og.2.1 x.rows x.cols)), 0x0103, fld)]

/-- Check one word of a Finder stream in the second pass. -/
def walkMove (m : Image) (sd : StreamD) (words : List Nat) (ctl : List Op) (p : Nat) (cs : List Int) (_ : Unit) : V Unit :=
  let w := words.getD p 0
  let v := decodeMove w
  let checks :=
    if mopcodeOf w = 0x10 then
      pitchChk m v ++ endChk m v true cs ++ endChk m v false cs ++
        [(v.transform == 3 && (m.binds[v.aux]?).elim false (fun d => !d.lenInd && decide (d.b.len < v.auxOff + 4 * v.rows)), 0x0103, 32)]
    else waitChk (ctl.getD p .nop) cs 128
  firstBad 4 (sd.first + p) checks

/-- The control op of a move word; a move is none. -/
def ctlOf (consts : Nat → Nat) (w : Nat) : Op := match decodeMWord consts w with
  | .ctl o => o
  | .move _ => .nop

/-- Whether a move word names a launch constant. -/
def mwIndirect (w : Nat) : Bool := mopcodeOf w != 0x10 && opIndirect (w / 2 ^ 128)

/-- Both passes of a Finder stream, or only the first while its constants are not known. -/
def checkStream (m : Image) (consts : Option (Nat → Nat)) (sd : StreamD) : V Unit :=
  let words := streamWords m sd
  match scanStream m sd ⟨false, [], none⟩ 0 words with
  | .error e => .error e
  | .ok _ =>
    if consts.isNone ∧ words.any mwIndirect then .ok ()
    else
      let k := consts.getD fun _ => 1
      match eachV (fun i w => firstBad 4 i (indirectChk k (w / 2 ^ 128) 64 128)) sd.first words with
      | .error e => .error e
      | .ok _ =>
        let ctl := words.map (ctlOf k)
        walk 4 sd.first 128 ctl (walkMove m sd words ctl) walkFuel 0 [] (List.replicate 16 0) ()

/-- Steps 5 and 6 of R200. -/
def checkStreams (m : Image) (consts : Option (Nat → Nat)) : V Unit :=
  match eachV (fun _ x => checkSlot m consts x) 0 m.slots with
  | .error e => .error e
  | .ok _ => eachV (fun _ x => checkStream m consts x) 0 m.streams

/-! ### Constants of the tables (R127) -/

/-- The bindings and tokens with their constants. -/
def resolveTables (m : Image) (k : Nat → Nat) : Image :=
  { m with
    binds := m.binds.map fun x => ⟨{ x.b with
      va := if x.vaInd then k x.b.va else x.b.va
      len := if x.lenInd then k x.b.len else x.b.len }, false, false⟩
    tokens := m.tokens.map fun t => { t with initial := if t.indirect then k t.initial % 2 ^ 32 else t.initial } }

/-- The checks of resolved bindings, and of R170 on them (R127, R169, R199). -/
def checkResolved (old new : Image) : V Unit :=
  match eachV (fun i (p : BindD × BindD) => firstBad 8 i
    [(p.1.vaInd && decide (2 ^ 57 ≤ p.2.b.va), 0x0103, 0), (p.1.lenInd && p.2.b.len == 0, 0x0101, 8),
      ((p.1.vaInd || p.1.lenInd) && decide (2 ^ 57 < p.2.b.va + p.2.b.len), 0x0103, if p.1.vaInd then 0 else 8)])
    0 (List.zip old.binds new.binds) with
  | .error e => .error e
  | .ok _ => checkHeld new

/-- Steps 1 to 7 of R200 on an image, under the context's fault mode. -/
def validate (b : List Byte) (mode : Nat) : V Image :=
  match checkTables b with
  | .error e => .error e
  | .ok m =>
    match checkStreams m none with
    | .error e => .error e
    | .ok _ => if m.faultMode ≠ 0 ∧ m.faultMode ≠ mode + 1 then .error ⟨0x0139, 0, 0, 22⟩ else .ok m

end Sys2Proof.Machine
end

