-- ==== Sys2Proof/Machine/Launch.lean ====
section
/-! DEFINITION. The launch sequence and the end of a launch (R104 to R111, R123, R126 to R136, R152 to R156, R304, R448). -/

namespace Sys2Proof.Machine

/-- The command of a context that runs: dispatched, of an opcode, and not stalled. -/
def runCmd (s : State) (c q op : Nat) : Option Cmd :=
  (getCmd s c q).bind fun k => if k.dispatched ∧ k.desc.opcode = op ∧ k.stalled.isNone then some k else none

/-- End a launch command before any effect: what it holds is released first (R129). -/
def rejectLaunch (s : State) (c q status : Nat) (detail : BitVec 64) : State :=
  let s := match findLaunch s c q with
    | some l => releaseLaunch s l
    | none => dropRemotes (withdraw s fun r => r == .cmd c q || r == .pin c q) (.cmd c q)
  complete s c q status detail

/-- A detail that holds a slot, a binding or a scale slot in bits [7:0]. -/
def lowDetail (i : Nat) : BitVec 64 := BitVec.ofNat 64 (i % 256)

/-! ### Amax-history records (R105, R106, R108) -/

/-- Entry `j` before HEAD of a record's AMAX ring. -/
def amaxAt (b : List Byte) (j : Nat) : Nat := imgNum b (2 * ((imgNum b 32 1 + 16 - j) % 16)) 2

/-- A record that breaks R106. -/
def badHistory (b : List Byte) : Bool :=
  let bad (v : Nat) : Bool := (fBf16.decode v).isNan || (v.testBit 15 && v != 0x8000)
  decide (15 < imgNum b 32 1) || decide (16 < imgNum b 33 1) ||
    (List.range (imgNum b 33 1)).any fun j => bad (amaxAt b (j + 1))

/-- The exponent that clamps to −126..127 (R108). -/
def clampExp (e : Int) : Int := clampInt (-126) 127 e

/-- log2 of a slot's launch scale (R108). -/
def launchExp (x : ScaleSlot) (b : List Byte) : Int :=
  let n := min x.history (imgNum b 33 1)
  let amax := ((List.range n).map fun j => fBf16.decode (amaxAt b (j + 1))).foldl Num.max (.fin false 0 0)
  match amax with
  | .fin _ 0 _ => match f32.decode (imgNum b 36 4) with
    | .fin false m e => if m = 0 then 0 else clampExp (ceilLog2 m e 1)
    | _ => 0
  | .fin _ m e => clampExp (ceilLog2 m (e + x.margin) (max (codeLimit x.fmt x.zero) 1))
  | _ => 127

/-- Read the record of each scale slot: its address and bytes, the first failure, or none while a line is awaited. -/
def readHist (s : State) (c q va : Nat) : List Nat → Option (Except (Nat × BitVec 64) (List (Nat × List Byte))) × State
  | [] => (some (.ok []), s)
  | i :: r =>
    let req : Requester := .cmd c q
    match xlateRange s req c (va + 64 * i) 64 false with
    | (.error .wait, s) => (none, s)
    | (.error (.fail st), s) => (some (.error (st, 0)), s)
    | (.ok [(.ok pa, _)], s) =>
      let s := touchPage s c (va + 64 * i) 1
      match ncFetch s pa 64 (ctxHub c) with
      | (none, s) => (some (.error (0x0502, lowDetail i)), s)
      | (some bs, s) => match readHist s c q va r with
        | (some (.ok l), s) => (some (.ok ((pa, bs) :: l)), s)
        | x => x
    | (.ok [(.remote dev a, _)], s) =>
      match remoteRead s req dev a 64 with
      | (.error .wait, s) => (none, s)
      | (.error (.fail st), s) => (some (.error (st, 0)), s)
      | (.ok d, s) => match readHist (touchPage s c (va + 64 * i) 1) c q va r with
        | (some (.ok l), s) => (some (.ok ((remoteTag dev a, d) :: l)), s)
        | x => x
    | (.ok _, s) => (none, s)

/-! ### Pins, tiers and routes (R128, R169, R304, R448) -/

/-- The 4 KiB pages of a binding. -/
def bindPages (b : Binding) : List Nat :=
  (List.range ((b.va + b.len - 1) / 4096 - b.va / 4096 + 1)).map fun i => (b.va / 4096 + i) * 4096

/-- What is known of the pin of a page: pinned, not pinned, or a walk is needed. -/
def pinOf (s : State) (l : Launch) (b : Binding) (page : Nat) : Option Bool :=
  if (tierPage s l.ctx page).isSome then some true
  else if l.unpinned.any fun u => u.1 == page && (!u.2 || b.writable) then some false
  else if l.pinned.any fun u => u.1 == page && (u.2 || !b.writable) then some true
  else match tlbFind (hubTlb s (ctxHub l.ctx)) l.ctx page with
    | some t => if t.write || !b.writable then some true else none
    | none => none

/-- The first page of the bindings that is not known to be pinned: which binding, and whether a walk has to tell. -/
def firstUnpinned (s : State) (l : Launch) : Option (Nat × Nat × Bool) :=
  l.bindings.zipIdx.findSome? fun b => (bindPages b.1).findSome? fun p => match pinOf s l b.1 p with
    | some true => none
    | some false => some (b.2, p, false)
    | none => some (b.2, p, true)

/-- A binding whose TIER differs from the home of one of its pages (R169). -/
def tierMismatch (s : State) (l : Launch) : Option Nat :=
  l.bindings.findIdx? fun b => b.tier != 0 && (bindPages b).any fun p => match tierPage s l.ctx p with
    | some (_, _, w) => peTier w + 1 != b.tier
    | none => true

/-- The devices that a launch's remote tokens name or that home pages of its TIER 4 bindings. -/
def remoteDevices (s : State) (l : Launch) : List Nat :=
  (l.tokens.filterMap fun t => t.remote.map (·.1)) ++
    (l.bindings.filter fun b => b.tier == 4).flatMap fun b => (bindPages b).filterMap fun p =>
      (tierPage s l.ctx p).bind fun t => if peTier t.2.2 = 3 then some (peDevice t.2.2) else none

/-- The status with which a device's route rejects a launch (R448). -/
def routeStatus (s : State) (maxNs dev : Nat) : Option Nat :=
  if dev = deviceId s then none
  else match localRoute s dev with
    | none => some 0x0711
    | some w => if maxNs < fldOf Fl.NET_ROUTE_LATENCY_NS w then some 0x0710 else none

/-! ### Steps 1 to 3 -/

/-- The launch of an image with its constants (R126, R127). -/
def mkLaunch (c q : Nat) (m : Image) (k : Nat → Nat) (errs : List (Nat × BitVec 64)) : Launch :=
  { ctx := c, seq := q, phase := .fetching, ephId := m.ephId, budget := m.budget, amaxBinding := m.amax,
    reportBinding := m.report, totalGranules := m.total, maxLatency := m.latency,
    slots := m.slots.map fun x =>
      { ops := (slotWords m x).map (decodeOp k), nsGranules := x.ns, accGranules := x.acc, minWidth := x.width,
        ribbon := x.ribbon, group := x.group, at_ := none, pos := 0, cursors := List.replicate 16 0, loops := [],
        hold := .run, finished := false },
    streams := m.streams.map fun x =>
      { words := (streamWords m x).map (decodeMWord k), firstIndex := x.first, staging := x.staging, at_ := none, pos := 0,
        cursors := List.replicate 16 0, loops := [], hold := .run, finished := false, window := [], reissue := [],
        marks := [], inbox := [] },
    bindings := m.binds.map (·.b),
    tokens := m.tokens.map fun t => { initial := t.initial, home := t.home, remote := t.remote, unit := none },
    phases := m.phases,
    scales := m.scales.map fun x =>
      { fmt := x.fmt, zero := x.zero, history := x.history, margin := x.margin, retry := x.retry, scaleExp := 0,
        amax := none, written := none, sats := 0 },
    pool := m.pool, rewinds := 0, rewindReports := 0, sats := 0, errs := errs, status := 0, detail := 0, unpinned := [],
    pinned := [], hist := [], ready := false, arrival := 0, reserving := false,
    reservedEngines := [], nsCharged := false, root := 0, recDone := 0, lends := [], fog := [], fogNext := 0, releases := [] }

/-- The constants of a launch command: COUNT values at ARG_B, any other 0 (R127). -/
def constsOf (bs : List Byte) (i : Nat) : Nat := imgNum bs (8 * i) 8

/-- The detail of a validation failure; the fault mode's has none (R201, R202). -/
def vDetail (e : VErr) : BitVec 64 := if e.code = 0x0139 then 0 else e.detail

/-- Steps 2 and 3 once the image has been read: constants, tables, and the launch. What an indirect LENGTH shows to be out of
range is kept for step 5 (log 176). -/
def fetchConsts (s : State) (c q : Nat) (k : Cmd) (m : Image) : State :=
  let n := if k.desc.flags.getLsbD 2 then 8 * k.desc.count else 0
  match readVa s (.cmd c q) c k.desc.argB.toNat n with
  | (.error .wait, s) => s
  | (.error (.fail st), s) => rejectLaunch s c q st 0
  | (.ok bs, s) =>
    let f := constsOf bs
    let m2 := resolveTables m f
    match checkResolved m m2 with
    | .error e => rejectLaunch s c q e.code (vDetail e)
    | .ok _ =>
      let errs := match checkStreams m2 (some f) with
        | .error e => [(e.code, vDetail e)]
        | .ok _ => []
      let s := modCmd s c q fun k => { k with entry := [] }
      { s with launches := s.launches ++ [{ mkLaunch c q m2 f errs with root := (getCtx s c).root }] }

/-- The first `n` bytes of an image: those that the command holds already are not read again (R159). -/
def fetchBytes (s : State) (c q va n : Nat) (got : List Byte) : Except Stop (List Byte) × State :=
  if n ≤ got.length then (.ok got, s)
  else match readVa s (.cmd c q) c (va + got.length) (n - got.length) with
    | (.ok bs, s) => (.ok (got ++ bs), modCmd s c q fun k => { k with entry := got ++ bs })
    | (.error e, s) => (.error e, s)

/-- Steps 1 to 3 up to the constants: the header tells how much to read (R158, R159). -/
def fetchImage (s : State) (c q : Nat) (k : Cmd) : State :=
  let va := k.desc.argA.toNat
  let stop (e : Stop) (s : State) : State := match e with
    | .wait => s
    | .fail st => rejectLaunch s c q st 0
  match fetchBytes s c q va 256 k.entry with
  | (.error e, s) => stop e s
  | (.ok head, s) =>
    match checkHeader (head.take 256) with
    | .error e => rejectLaunch s c q e.code (vDetail e)
    | .ok _ =>
      if 2 ^ 57 < va + imgBytes head then rejectLaunch s c q 0x0103 0
      else match fetchBytes s c q va (imgBytes head) head with
        | (.error e, s) => stop e s
        | (.ok b, s) =>
          match validate b (fldOf Fl.QFE_CTX_ROOT_FAULT_MODE (getCtx s c).root) with
          | .error e => rejectLaunch s c q e.code (vDetail e)
          | .ok m => fetchConsts s c q k m

/-! ### Steps 4 to 8 -/

/-- Where the record of a scale slot lies when step 7 reads it: the page of a tiered region may have moved since step 3. None
for a record on another device. -/
def recordNow (s : State) (l : Launch) (i a : Nat) : Option Nat :=
  let va := (l.amaxBinding.elim 0 fun b => (bindAt l b).va) + 64 * i
  match tierPage s l.ctx va with
  | some (_, _, w) => if peTier w = 3 then none else some (peFrame w + va % Config.page2M)
  | none => if a < 2 ^ 60 then some a else none

/-- log2 of the largest power of two: the launch scales from the records (R108). A record on this device is read where it
lies; one on another device as step 3 brought it. -/
def computeScales (s : State) (l : Launch) : State :=
  (List.range l.scales.length).foldl (fun s i =>
    let h := (l.hist[i]?).getD (0, List.replicate 64 0)
    let b := match recordNow s l i h.1 with
      | some pa => (ncRead s pa 64 (ctxHub l.ctx)).1
      | none => h.2
    modScale (touchPage s l.ctx ((l.amaxBinding.elim 0 fun b => (bindAt l b).va) + 64 * i) 1) l.ctx l.seq i fun x =>
      { x with scaleExp := launchExp x b }) s

/-- Prepare the engine of a slot: its stores are cleared and its geometry is set (R131, R132). -/
def prepareEngine (s : State) (x : Slot) : State :=
  match x.at_ with
  | none => s
  | some (d, e) =>
    let s := modEng s d e fun y => { Engine.fresh with
      placed := y.placed, ribbon := x.ribbon, testing := y.testing, retiring := y.retiring }
    let a := bankKey d (boundBank s d e) 0
    let s : State := { s with
      ostore := memClear s.ostore (osKey d e 0) (osKey d (e + 1) 0)
      near := memClear s.near a (a + x.nsGranules * Config.granule) }
    dropRegion (fput s d e Fl.ENG_STATUS_GEOMETRY (b2n x.ribbon)) d e

/-- Step 8 (R129, R131, R260). -/
def prepareLaunch (s : State) (l : Launch) : State :=
  let s := l.slots.foldl prepareEngine s
  let s := (partDies s (ctxPart s l.ctx)).foldl (fun s d => fsat (rdcClear s d) d 0 Fl.RDC_INVALIDATIONS_LAUNCH 1) s
  modLaunch s l.ctx l.seq fun y => { y with phase := .preparing, ready := true }

/-- Step 7, and step 8 after it: token counters, or a wait for them (R137). -/
def allocLaunch (s : State) (l : Launch) : State :=
  match allocTokens s l with
  | none => s
  | some t =>
    let t := computeScales t l
    match findLaunch t l.ctx l.seq with
    | some y => prepareLaunch t y
    | none => t

/-- Steps 5 and 6: the constants of op and move words, and the near-store charge (R127, R129). -/
def chargeLaunch (s : State) (l : Launch) : State :=
  match l.errs with
  | (st, d) :: _ => rejectLaunch s l.ctx l.seq st d
  | [] => match charge s l.ctx 4 l.totalGranules with
    | none => rejectLaunch (quotaRefused s l.ctx) l.ctx l.seq 0x0301 0
    | some s => allocLaunch (modLaunch s l.ctx l.seq fun y => { y with nsCharged := true }) l

/-- Take the engines and stream contexts of a placement. -/
def takePlaces (s : State) (l : Launch) (a : List (Nat × Cand)) (strs : List (Nat × Nat × Nat)) : State :=
  let s := a.foldl (fun s p => takeEngine s l.ctx l.seq p.1 p.2) s
  let s := modLaunch s l.ctx l.seq fun y => { y with
    phase := .tokens
    reserving := false
    reservedEngines := []
    streams := y.streams.zipIdx.map fun p => { p.1 with at_ := strs[p.2]? } }
  let s := modCmd s l.ctx l.seq fun k => { k with blocking := false }
  showPartFinders s (ctxPart s l.ctx)

/-- Step 4: place the launch as a whole, let it wait, or reject it as impossible (R133, R134, R204). -/
def tryPlace (s : State) (l : Launch) : State :=
  let part := ctxPart s l.ctx
  let dies := partDies s part
  match placeSlots dies (candidates s l part false) l.slots,
      assignStreams s l (partHubs s part) l.streams.length (busyStreams s) with
  | .ok a, some strs =>
    let s := takePlaces s l a strs
    match findLaunch s l.ctx l.seq with
    | some y => chargeLaunch s y
    | none => s
  | _, _ => match placeSlots dies (candidates s l part true) l.slots with
    | .error i => rejectLaunch s l.ctx l.seq 0x0120 (lowDetail i)
    | .ok _ => s

/-- A launch arrives at step 4; while it waits it holds back the later commands of its context (R281, R290). -/
def arriveLaunch (s : State) (l : Launch) : State :=
  let n := (s.launches.map (·.arrival)).foldl max 0 + 1
  let s := modLaunch s l.ctx l.seq fun y => { y with phase := .placing, arrival := n }
  let s := modCmd s l.ctx l.seq fun k => { k with blocking := true }
  match findLaunch s l.ctx l.seq with
  | some y => tryPlace s y
  | none => s

/-- The rest of step 3: tiers and routes. -/
def checkTiers (s : State) (l : Launch) : State :=
  match tierMismatch s l with
  | some i => rejectLaunch s l.ctx l.seq 0x0312 (lowDetail i)
  | none => match (remoteDevices s l).findSome? (routeStatus s l.maxLatency) with
    | some st => rejectLaunch s l.ctx l.seq st 0
    | none => arriveLaunch s l

/-- The rest of step 3: pins, for which the front end walks (R128, R304). -/
def checkPins (s : State) (l : Launch) : State :=
  if fldOf Fl.QFE_CTX_ROOT_FAULT_MODE (getCtx s l.ctx).root = 0 then checkTiers s l
  else match firstUnpinned s l with
    | none => checkTiers s l
    | some (i, _, false) => rejectLaunch s l.ctx l.seq 0x0204 (lowDetail i)
    | some (i, p, true) =>
      let s := fsat s (ctxHub l.ctx) 0 Fl.TRC_LOOKUPS_MISSES 1
      let r : Requester := .pin l.ctx l.seq
      stallReq (askWalk s l.ctx p r (bindAt l i).writable) r p

/-- The rest of step 3: the amax-history records. -/
def checkHists (s : State) (l : Launch) : State :=
  match l.amaxBinding with
  | none => checkPins s l
  | some b =>
    match readHist s l.ctx l.seq (bindAt l b).va (List.range l.scales.length) with
    | (none, s) => s
    | (some (.error (st, d)), s) => rejectLaunch s l.ctx l.seq st d
    | (some (.ok h), s) => match h.findIdx? fun x => badHistory x.2 with
      | some i => rejectLaunch s l.ctx l.seq 0x0404 (lowDetail i)
      | none => checkPins (modLaunch s l.ctx l.seq fun y => { y with hist := h }) { l with hist := h }

/-- LAUNCH: steps 1 to 8 as far as they go; a launch whose image, records or pins await a translation goes on when it is
commanded again. -/
def doLaunch (c q : Nat) (s : State) : State :=
  match runCmd s c q 1 with
  | none => s
  | some k => match k.denied with
    | some (st, rec) => rejectLaunch s c q st (BitVec.ofNat 64 (rec % 2 ^ 32))
    | none => match findLaunch s c q with
      | some l => if l.phase = .fetching then checkHists s l else s
      | none =>
        let t := fetchImage s c q k
        match findLaunch t c q with
        | some l => checkHists t l
        | none => t

def execLaunch (ctx seq : Nat) (s : State) : Host.Outcome State Fault Refusal := .next (doLaunch ctx seq s)

/-- The launches of a partition that wait in step 4, in the order of R290. -/
def waitingLaunches (s : State) (part : Nat) : List Launch :=
  sortBy (fun a b => decide (prioOf s b.ctx < prioOf s a.ctx) ||
      (prioOf s a.ctx == prioOf s b.ctx && decide (a.arrival < b.arrival)))
    (s.launches.filter fun l => l.phase == .placing && ctxPart s l.ctx == part)

/-- PLACEMENT_RETRY: waiting launches are evaluated again, each against what the ones before it left. -/
def doPlacementRetry (part : Nat) (s : State) : State :=
  (waitingLaunches s part).foldl (fun s l => match findLaunch s l.ctx l.seq with
    | some y => tryPlace s y
    | none => s) s

def execPlacementRetry (part : Nat) (s : State) : Host.Outcome State Fault Refusal := .next (doPlacementRetry part s)

/-- TOKEN_ALLOC_RETRY. -/
def doTokenAllocRetry (c q : Nat) (s : State) : State :=
  match findLaunch s c q with
  | some l => if l.phase = .tokens then allocLaunch s l else s
  | none => s

def execTokenAllocRetry (ctx seq : Nat) (s : State) : Host.Outcome State Fault Refusal := .next (doTokenAllocRetry ctx seq s)

/-- RESERVATION_TIMEOUT (R291). -/
def doReservationTimeout (c q : Nat) (s : State) : State :=
  match findLaunch s c q with
  | some l =>
    if l.phase = .placing ∧ fget s (ctxHub c) 0 Fl.QFE_ARB_RESERVE_US ≠ 0 then
      modLaunch s c q fun y => { y with reserving := true }
    else s
  | none => s

def execReservationTimeout (ctx seq : Nat) (s : State) : Host.Outcome State Fault Refusal :=
  .next (doReservationTimeout ctx seq s)

/-! ### Step 9 -/

/-- The placement report: 8 bytes a slot (R136). -/
def reportBytes (s : State) (l : Launch) : List Byte :=
  l.slots.flatMap fun x => match x.at_ with
    | some (d, e) => leBytes 2 (unitId d 1 e) ++ leBytes 1 (fget s d e Fl.ENG_WIDTH_PRESENTED_WIDTH) ++
        leBytes 1 (boundBank s d e) ++ [0, 0, 0, 0]
    | none => List.replicate 8 0

/-- Start every slot and stream. -/
def startLaunch (s : State) (l : Launch) : State :=
  let root := (getCtx s l.ctx).root
  let s := modLaunch s l.ctx l.seq fun y => { y with phase := .running, root := root }
  traceLaunch s l.ctx l.seq (unitId (ctxHub l.ctx) 0 1)

/-- LAUNCH_START: the placement report is written as the command's own access, then every slot and stream starts, or the launch
ends with the error of the write (R129, R136, log 171). -/
def doLaunchStart (c q : Nat) (s : State) : State :=
  match findLaunch s c q with
  | none => s
  | some l =>
    if l.phase ≠ .preparing then s
    else match (getCmd s c q).bind (·.denied) with
      | some (st, rec) => launchErr (startLaunch s l) c q st (BitVec.ofNat 64 (rec % 2 ^ 32))
      | none => match l.reportBinding with
        | none => startLaunch s l
        | some b => match writeVa s (.cmd c q) c (bindAt l b).va (reportBytes s l) with
          | (.ok _, s) => startLaunch s l
          | (.error .wait, s) => s
          | (.error (.fail st), s) => launchErr (startLaunch s l) c q st 0

def execLaunchStart (ctx seq : Nat) (s : State) : Host.Outcome State Fault Refusal := .next (doLaunchStart ctx seq s)

/-! ### Errors (R152, R153) -/

/-- A slot stops at its op boundary: an op in progress and a commit that has begun run on. -/
def stopSlot (x : Slot) : Slot :=
  match x.hold with
  | .committing => x
  | .fill => x
  | .inval => x
  | _ => if x.finished then x else { x with hold := .stopped }

/-- The open regions of the stopped slots are discarded. -/
def dropRegions (s : State) (l : Launch) : State :=
  l.slots.foldl (fun s x => match x.at_, x.hold with
    | _, .committing => s
    | some (d, e), _ => dropRegion s d e
    | none, _ => s) s

/-- Cancel every move of a launch that is not done. -/
def cancelLaunch (s : State) (c q : Nat) : State :=
  match findLaunch s c q with
  | none => s
  | some l => l.streams.zipIdx.foldl (fun s p => match p.1.at_ with
    | some (h, f, x) => cancelMoves s h f x l p.2 p.1 fun _ => true
    | none => s) s

/-- Take the pending WAITs of a launch out of its token units. -/
def dropWaits (s : State) (l : Launch) : State :=
  ((l.tokens.filterMap fun t => t.unit.map (·.1)).dedup).foldl (fun s d =>
    let u := getTok s d
    let mine (w : PendWait) : Bool := w.ctx == l.ctx && w.seq == l.seq
    putTok s d { u with waits := u.waits.filter (fun w => !mine w), held := u.held.filter fun w => !mine w }) s

/-- LAUNCH_ERROR: the first error stops every slot and stream of the launch. -/
def doLaunchError (c q : Nat) (s : State) : State :=
  match findLaunch s c q with
  | none => s
  | some l => match l.phase, l.errs with
    | .running, (st, d) :: _ =>
      let s := modLaunch s c q fun y => { y with
        phase := .ended
        status := st
        detail := d
        slots := y.slots.map stopSlot
        streams := y.streams.map fun x => { x with hold := .stopped, inbox := [] } }
      let s := withdraw (cancelLaunch s c q) fun r => match r with
        | .agent _ x y => x == c && y == q
        | _ => false
      dropRegions (dropWaits s l) l
    | _, _ => s

def execLaunchError (ctx seq : Nat) (s : State) : Host.Outcome State Fault Refusal := .next (doLaunchError ctx seq s)

/-! ### The end (R111, R123, R155) -/

/-- Whether a slot still works after its launch has ended. -/
def slotBusy (x : Slot) : Bool := match x.hold with
  | .committing => true
  | .fill => true
  | .inval => true
  | _ => false

/-- A write of a move that was cancelled is still on its way to another device (R155 step 1). -/
def orphaned (s : State) (l : Launch) : Bool := s.net.remotes.any fun r => r.kind == kOrphan && ofLaunch l r.req

/-- Whether the front end can end a launch: its agents have finished or stopped, and its writes have landed. -/
def mayEnd (s : State) (l : Launch) : Bool := !orphaned s l && (match l.phase with
  | .running => l.errs.isEmpty && l.rewindReports == 0 && l.slots.all (·.finished) && l.streams.all (·.finished)
  | .ended => !(l.slots.any slotBusy)
  | _ => false)

/-- A record after the update of R111 and R122; a slot that no entry contributed to records 0 (log 169). -/
def newRecord (l : Launch) (x : ScaleSlot) (b : List Byte) : List Byte :=
  let a := match x.amax with
    | some (m, e) => bf16Up m e
    | none => 0
  let head := imgNum b 32 1 % 16
  let amax := (List.range 16).flatMap fun i => leBytes 2 (if i = head then a else imgNum b (2 * i) 2)
  let last := f32.enc (.fin false 1 ((x.written).getD x.scaleExp))
  amax ++ leBytes 1 ((head + 1) % 16) ++ leBytes 1 (min (imgNum b 33 1 + 1) 16) ++
    leBytes 2 (min (imgNum b 34 2 + x.sats) 0xFFFF) ++ leBytes 4 last ++ (b.drop 40).take 8 ++
    leBytes 8 (handleOf l.ctx l.seq) ++ (b.drop 56).take 8

/-- Event 0x0410 when an update takes EXPOSURE to the context's threshold (R123). -/
def driftEvent (s : State) (l : Launch) (i old new : Nat) : State :=
  let th := fldOf Fl.QFE_CTX_ATTR_EXPOSURE_THRESHOLD (getCtx s l.ctx).attr
  if th ≠ 0 ∧ old < th ∧ th ≤ new then
    let d := i + new * 2 ^ 16 + handleOf l.ctx l.seq * 2 ^ 64
    let t := modCmd s l.ctx l.seq fun k => { k with events := k.events || !eventRingFull s l.ctx }
    ctxEvent t l.ctx 0x0410 1 (BitVec.ofNat 128 d)
  else s

/-- How the update of a record ends. -/
inductive RecEnd where
  | wait
  | done
  | failed (status : Nat)
  deriving DecidableEq, Repr

/-- Where the record of a scale slot lies now: the home of its page in a tiered region, to which a write may be held, or
where step 3 found it (R105, R228, R236). -/
def recordHome (s : State) (l : Launch) (i a : Nat) : Tr × State :=
  let va := (l.amaxBinding.elim 0 fun b => (bindAt l b).va) + 64 * i
  if (tierPage s l.ctx va).isSome then
    let x := xlate s (.cmd l.ctx l.seq) l.ctx va true none
    (x.1, touchPage x.2 l.ctx va 2)
  else if a < 2 ^ 60 then (.ok a, s)
  else (.remote (a / 2 ^ 48 % 4096) (a % 2 ^ 48), s)

/-- Another launch's update of a record on another device is under way: updates follow one another (R111). -/
def recordBusy (s : State) (l : Launch) (dev a : Nat) : Bool :=
  s.net.remotes.any fun r => r.dev == dev && r.addr == a && (match r.req with
    | .cmd c q => !(c == l.ctx && q == l.seq) && ((findLaunch s c q).elim false fun o => o.phase == .recording)
    | _ => false)

/-- Update the record of a scale slot: one indivisible read-modify-write of its line at its home (R105, R111, R346). A record on another device is read and written over the fabric (log 144). -/
def updateRecord (s : State) (l : Launch) (i : Nat) (x : ScaleSlot) : RecEnd × State :=
  let r : Requester := .cmd l.ctx l.seq
  let drift (s : State) (old new : List Byte) : State := driftEvent s l i (imgNum old 34 2) (imgNum new 34 2)
  match l.hist[i]?, (getCmd s l.ctx l.seq).bind (·.denied) with
  | none, _ => (.done, s)
  | some _, some (st, _) => (.failed st, modCmd (dropRemotes s r) l.ctx l.seq fun k => { k with denied := none })
  | some h, none => match recordHome s l i h.1 with
    | (.wait, s) => (.wait, s)
    | (.fail st, s) => (.failed st, s)
    | (.ok pa, s) =>
      match ncRmw s pa (newRecord l x) with
      | (none, s) => (.failed 0x0502, s)
      | (some old, s) => (.done, drift s old (newRecord l x old))
    | (.remote dev a, s) =>
      if recordBusy s l dev a then (.wait, s)
      else match remoteRead s r dev a 64 with
        | (.error .wait, s) => (.wait, s)
        | (.error (.fail st), s) => (.failed st, dropRemotes s r)
        | (.ok old, s) =>
          let new := newRecord l x old
          match remoteWrite s r dev a new with
          | (.error .wait, s) => (.wait, s)
          | (.error (.fail st), s) => (.failed st, dropRemotes s r)
          | (.ok _, s) => (.done, drift (dropRemotes s r) old new)

/-- A record could not be updated: a launch that would have completed otherwise ends with the status and the lowest such
slot; one that ends with 0x0402 keeps its status (R111, log 144). -/
def noteRecord (i : Nat) (e : RecEnd) (l : Launch) : Launch :=
  let l := { l with recDone := i + 1 }
  match e with
  | .failed st => if l.status = 0 ∨ l.status = 0x0401 then { l with status := st, detail := lowDetail i } else l
  | _ => l

/-- The completion record and the interrupt; the launch is over (R155 steps 4 and 5). -/
def finishLaunch (s : State) (l : Launch) : State :=
  traceLaunch (complete (forgetLaunch s l.ctx l.seq) l.ctx l.seq l.status l.detail) l.ctx l.seq (unitId (ctxHub l.ctx) 0 1)

/-- Update the records that are left, slot by slot, as far as they go; after the last one the launch is over. -/
def recordSteps (c q : Nat) : Nat → State → State
  | 0, s => s
  | n + 1, s => match findLaunch s c q with
    | none => s
    | some l => match l.scales[l.recDone]? with
      | none => finishLaunch s l
      | some x => match updateRecord s l l.recDone x with
        | (.wait, s) => s
        | (e, s) => recordSteps c q n (modLaunch s c q (noteRecord l.recDone e))

/-- Status and detail of a launch that has come to its end (R122, R156). -/
def launchStatus (l : Launch) : Nat × BitVec 64 :=
  if l.phase = .ended then (l.status, l.detail)
  else if l.sats = 0 then (0, BitVec.ofNat 64 l.rewinds)
  else (0x0401, BitVec.ofNat 64 (min l.sats 0xFFFF_FFFF))

/-- The units of a launch are released, and its status stands; an end that R111 does not list updates no record. -/
def beginRecords (s : State) (l : Launch) : State :=
  let st := launchStatus l
  let upd := st.1 = 0 ∨ st.1 = 0x0401 ∨ st.1 = 0x0402
  let s := modCmd (releaseUnits s l) l.ctx l.seq fun k => { k with denied := none, stalled := none }
  modLaunch s l.ctx l.seq fun y => { y with
    phase := .recording
    status := st.1
    detail := st.2
    recDone := if upd then 0 else y.scales.length }

/-- LAUNCH_END: release, records, completion record, interrupt (R155). A launch whose record is held at a moving page or
awaits another device goes on when it is commanded again. -/
def doLaunchEnd (c q : Nat) (s : State) : State :=
  match findLaunch s c q with
  | none => s
  | some l =>
    if l.phase = .recording then recordSteps c q (l.scales.length + 1) s
    else if mayEnd s l then recordSteps c q (l.scales.length + 1) (beginRecords s l)
    else s

def execLaunchEnd (ctx seq : Nat) (s : State) : Host.Outcome State Fault Refusal := .next (doLaunchEnd ctx seq s)

end Sys2Proof.Machine
end

