-- ==== Sys2Proof/Machine/Tier.lean ====
section
/-! DEFINITION. Tiered regions, MOVE_PAGES, tier timeouts and the decay of access counters (R226 to R249). -/

namespace Sys2Proof.Machine

/-! ### Homes (R227, R231) -/

/-- Whether a supplied entry is a home that R227 and R231 allow: a status, or none. -/
def homeStatus (s : State) (c : Nat) (w : BitVec 64) : Option Nat :=
  let f := peFrame w
  let last := f + Config.page2M - 1
  let part := ctxPart s c
  let flat := w &&& BitVec.ofNat 64 0x3000_007F_FFFF_FFFF
  if !w.getLsbD 63 ∨ w &&& BitVec.ofNat 64 0x7FFF_FFFF_FFFF_FFFF ≠ flat then some 0x0303
  else if peTier w ≠ 3 ∧ peDevice w ≠ 0 then some 0x0303
  else match peTier w with
    | 0 =>
      if f < hbmBase ∨ 0x0900_0000_0000 ≤ f then some 0x0303
      else if hbmPart s f ≠ part then some 0x0211 else none
    | 1 => if last < ddrBytes s then none else some 0x0303
    | 2 => if farBase ≤ f ∧ (farPort s f).isSome ∧ farPort s f = farPort s last then none else some 0x0303
    | _ => if peDevice w = 0 ∨ peDevice w = deviceId s then some 0x0303 else none

/-- The entry of a declared page with a home. -/
def peNew (w : BitVec 64) : BitVec 64 := peHome w ||| BitVec.ofNat 64 (2 ^ 63)

/-- An entry with its home replaced. -/
def peSetHome (w dst : BitVec 64) : BitVec 64 := (w &&& ~~~(BitVec.ofNat 64 0x3000_007F_FFFF_FFFF)) ||| peHome dst

/-! ### Regions (R226, R232, R233) -/

/-- RESULT of a region command. -/
def regionResult (s : State) (h status entry : Nat) : State :=
  fput (fput s h 0 Fl.TIER_REGION_RESULT_STATUS status) h 0 Fl.TIER_REGION_RESULT_ENTRY entry

/-- What a write to TIER_REGION_CMD leaves in the register. -/
def regionCmd (s : State) (h c region : Nat) : State :=
  let s := fput (fput s h 0 Fl.TIER_REGION_CMD_REJECTED 0) h 0 Fl.TIER_REGION_CMD_BUSY 0
  fput (fput s h 0 Fl.TIER_REGION_CMD_REGION region) h 0 Fl.TIER_REGION_CMD_CONTEXT c

/-- Page entries that the backing range of a hub's Catalog holds (TIER_CATALOG). -/
def catalogRoom (s : State) (h : Nat) : Nat := fget s h 0 Fl.TIER_CATALOG_SIZE * 262144

/-- Page entries of the regions of a hub. -/
def catalogUsed (s : State) (h : Nat) : Nat :=
  ((s.regions.filter fun r => ctxHub r.ctx == h).map (·.pages.length)).sum

/-- The first entry of a list that is no valid home: its index. A home in another partition's range breaks R227 too. -/
def badHome (s : State) (c : Nat) (l : List (BitVec 64)) : Option Nat := l.findIdx? fun w => (homeStatus s c w).isSome

/-- Charge the pages of a list one after another; the first that exceeds its quota. -/
def chargeAll (s : State) (c : Nat) : Nat → List (BitVec 64) → Except Nat State
  | _, [] => .ok s
  | i, w :: r => match charge s c (peTier w) 1 with
    | some t => chargeAll t c (i + 1) r
    | none => .error i

/-- Whether two ranges of bytes meet. -/
def meets (a n b m : Nat) : Bool := decide (a < b + m) && decide (b < a + n)

/-- DECLARE after its list has been read. -/
def declareRegion (s : State) (h c i va : Nat) (ro : Bool) (l : List (BitVec 64)) : State :=
  let n := l.length * Config.page2M
  let clash (r : TRegion) : Bool :=
    r.ctx == c && (r.index == i || meets r.va (r.pages.length * Config.page2M) va n)
  if 1023 < i ∨ 2 ^ 57 < va + n ∨ s.regions.any clash then regionResult s h 0x0307 0
  else match badHome s c l with
    | some e => regionResult s h 0x0303 e
    | none => match chargeAll s c 0 l with
      | .error e => regionResult (quotaRefused s c) h 0x0301 e
      | .ok t =>
        if catalogRoom s h < catalogUsed s h + l.length then regionResult s h 0x0304 0
        else regionResult { t with regions := t.regions ++ [⟨c, i, va, ro, l.map peNew⟩] } h 0 0

/-- What a write leaves in TIER_REGION_CMD; its PAGES as it is written (R9). -/
def declareCmd (h op : Nat) (ro : Bool) (pages i c : Nat) (s : State) : State :=
  let s := fput (fput (regionCmd s h c i) h 0 Fl.TIER_REGION_CMD_OP op) h 0 Fl.TIER_REGION_CMD_READ_ONLY (b2n ro)
  fput s h 0 Fl.TIER_REGION_CMD_PAGES pages

/-- Pages of a DECLARE: 0 stands for 2^20 (TIER_REGION_CMD.PAGES). -/
def declarePages (pages : Nat) : Nat := if pages = 0 then 2 ^ 20 else pages

/-- The page entries of a DECLARE's list, as the hub reads them; none where it meets poison. -/
def declareList (s : State) (h pa n : Nat) : Option (List (BitVec 64)) × State :=
  let q := ncFetch s pa (8 * n) h
  (q.1.map fun bs => (List.range n).map fun k => BitVec.ofNat 64 (leNat ((bs.drop (8 * k)).take 8)), q.2)

/-- A write of TIER_REGION_CMD while BUSY is 1 sets REJECTED and starts nothing (R232). An operation of this model ends with
the command that starts it (log 145). -/
def regionBusy (s : State) (h : Nat) (f : State → State) : State :=
  if fget s h 0 Fl.TIER_REGION_CMD_BUSY = 1 then fput s h 0 Fl.TIER_REGION_CMD_REJECTED 1 else f s

/-- TIER_REGION_DECLARE (R232). -/
def doTierRegionDeclare (h : Nat) (ro : Bool) (pages i c : Nat) (s : State) : State :=
  regionBusy s h fun s =>
  let n := declarePages pages
  let s := declareCmd h 0 ro pages i c s
  let pa := fget s h 0 Fl.TIER_REGION_LIST_PA * 8
  if 65536 ≤ c ∨ ctxHub c ≠ h then regionResult s h 0x0307 0
  else match (linesOf pa (8 * n)).findSome? (accelRefusal s (ctxPart s c)) with
    | some st => regionResult s h st 0
    | none => match declareList s h pa n with
      | (none, s) => regionResult s h 0x0502 0
      | (some l, s) => declareRegion s h c i (fget s h 0 Fl.TIER_REGION_VA_VA * Config.page2M) ro l

def execTierRegionDeclare (hub : Nat) (readOnly : Bool) (pages region ctx : Nat) (s : State) :
    Host.Outcome State Fault Refusal := .next (onDie s hub fun s => doTierRegionDeclare hub readOnly pages region ctx s)

/-- A launch whose slots and streams run or are about to. -/
def launchRuns (l : Launch) : Bool := match l.phase with
  | .preparing => true
  | .running => true
  | .ended => true
  | _ => false

/-- Whether a running launch of a context holds a binding of a kind that overlaps a range. -/
def bindingHolds (s : State) (c va n : Nat) (p : Binding → Bool) : Bool :=
  s.launches.any fun l => l.ctx == c && launchRuns l && l.bindings.any fun b => p b && meets b.va b.len va n

/-- TIER_REGION_RELEASE (R233). -/
def doTierRegionRelease (h : Nat) (ro : Bool) (pages i c : Nat) (s : State) : State :=
  regionBusy s h fun s =>
  let s := declareCmd h 1 ro pages i c s
  match s.regions.find? fun r => r.ctx == c && r.index == i && ctxHub c == h with
  | none => regionResult s h 0x0307 0
  | some r =>
    if (r.pages.any fun w => peMoving w || peLend w != 0) ||
        bindingHolds s c r.va (r.pages.length * Config.page2M) (fun _ => true) then regionResult s h 0x0306 0
    else
      let s := r.pages.foldl (fun s w => refund s c (peTier w) 1) s
      let s := tlbDrop s h fun t => t.ctx == c && meets t.va t.size r.va (r.pages.length * Config.page2M)
      regionResult { s with regions := s.regions.erase r } h 0 0

def execTierRegionRelease (hub region ctx : Nat) (s : State) : Host.Outcome State Fault Refusal :=
  .next (onDie s hub fun s => doTierRegionRelease hub false 0 region ctx s)

/-! ### MOVE_PAGES (R235 to R238) -/

/-- The lowest-numbered Finder of a hub whose command context is free. -/
def freeFinder (s : State) (h : Nat) : Option Nat :=
  (List.range 16).find? fun f => unitGood s h f && !(s.ctxs.any fun c => ctxHub c.1 == h && c.2.cmds.any fun k => k.finder == some f)

/-- Whether a write of a command to another device, which it has broken off, is not acknowledged yet. -/
def unlanded (s : State) (c q : Nat) : Bool := s.net.remotes.any fun r => r.kind == kOrphan && r.req == .cmd c q

/-- End a command that works through a list: entries before the failing one stay done. Its record waits for the writes that are on
their way to other devices, and its own next step writes it (R265). -/
def endList (s : State) (c q : Nat) (k : Cmd) (status done : Nat) : State :=
  let s := dropData s (.cmd c q)
  if unlanded s c q then
    modCmd s c q fun _ => { k with denied := some (status, 0), stalled := none, accepted := true, page := .check, pipe := none }
  else
    showFinders (complete (dropRemotes s (.cmd c q)) c q status (listDetail done (if status = 0 then none else some k.done))) (ctxHub c)

/-- End a MOVE_PAGES: entries before the failing one stay moved. -/
def endPages (s : State) (c q : Nat) (k : Cmd) (status : Nat) : State := endList s c q k status k.moved

/-- An entry has ended: the next one, or the end of the command. -/
def nextPage (s : State) (c q : Nat) (k : Cmd) : State :=
  let k := { k with done := k.done + 1, page := .check, finder := none }
  if k.desc.count ≤ k.done then endPages s c q k 0 else showFinders (modCmd s c q fun _ => k) (ctxHub c)

/-- The place of the next command that reaches step 2 on a hub. -/
def readyNext (s : State) : Nat :=
  (s.ctxs.flatMap fun x => x.2.cmds.map fun k => match k.page with
    | .ready _ _ n => n + 1
    | _ => 0).foldl max 0

/-- Location of a home. -/
def homeLoc (w : BitVec 64) : Loc := if peTier w = 3 then .remote (peDevice w) (peFrame w) else .pa (peFrame w)

/-- Free bytes at a location: contents that the spec calls undefined (R238, R245). -/
def spoil (s : State) (l : Loc) (n : Nat) : State :=
  match l with
  | .pa a => (cutLines (n + 1) a (List.replicate n 0)).foldl (fun s x =>
      let bs := (List.range x.2.length).map fun i => (Config.free (s.fresh + i)).setWidth 8
      (ncWrite { s with fresh := s.fresh + x.2.length } x.1 bs).2) s
  | _ => s

/-- An entry fails after step 3: the page keeps its home, the granule is returned, the destination frame is undefined
(R238). -/
def failPage (s : State) (c q : Nat) (k : Cmd) (va : Nat) (dst : BitVec 64) (status : Nat) : State :=
  let s := refund (modPage s c va fun w => setBits w 62 62 0) c (peTier dst) 1
  let s := match status with
    | 0x0310 => fsat s (ctxHub c) 0 Fl.TIER_ERR_COUNT_TIMEOUT 1
    | 0x0311 => fsat s (ctxHub c) 0 Fl.TIER_ERR_COUNT_FAILED 1
    | _ => s
  endPages (spoil s (homeLoc dst) Config.page2M) c q k status

/-- MOVE_PAGES: step 1 of the current entry. A copy that has been refused ends here too. -/
def doMovePages (c q : Nat) (s : State) : State :=
  match runCmd s c q 3 with
  | none => s
  | some k => match k.denied, k.page with
    | some (st, _), .copying va dst => failPage s c q k va dst st
    | some _, .switched _ => s
    | some (st, _), _ => endPages s c q k st
    | none, .check => match readVa s (.cmd c q) c (k.desc.argA.toNat + 16 * k.done) 16 with
      | (.error .wait, s) => s
      | (.error (.fail st), s) => endPages s c q k st
      | (.ok bs, s) =>
        let va := imgNum bs 0 8
        let dst := BitVec.ofNat 64 (imgNum bs 8 8)
        match tierPage s c va with
        | none => endPages s c q k 0x0302
        | some (_, _, w) => match homeStatus s c dst with
          | some st => endPages s c q k st
          | none =>
            if peHome dst = peHome w then nextPage s c q k
            else modCmd s c q fun x => { x with page := .ready va dst (readyNext s) }
    | none, _ => s

def execMovePages (ctx seq : Nat) (s : State) : Host.Outcome State Fault Refusal := .next (doMovePages ctx seq s)

/-- Whether another command reached step 2 for the same page before. -/
def readyBefore (s : State) (c va n : Nat) : Bool :=
  (getCtx s c).cmds.any fun k => match k.page with
    | .ready v _ m => v / Config.page2M == va / Config.page2M && decide (m < n)
    | _ => false

/-- MOVE_PAGES_COPY: steps 2 to 4. -/
def doMovePagesCopy (c q : Nat) (s : State) : State :=
  match runCmd s c q 3 with
  | none => s
  | some k => match k.page with
    | .ready va dst n => match tierPage s c va with
      | none => endPages s c q k 0x0302
      | some (r, i, w) =>
        let page := r.va + i * Config.page2M
        let held := bindingHolds s c page Config.page2M fun b => b.frozen || b.tier != 0
        if peMoving w ∨ peLend w ≠ 0 ∨ held ∨ readyBefore s c va n then s
        else if peHome dst = peHome w then nextPage s c q k
        else match freeFinder s (ctxHub c) with
          | none => s
          | some f => match charge s c (peTier dst) 1 with
            | none => endPages (quotaRefused s c) c q k 0x0301
            | some s =>
              let s := modPage s c va fun w => setBits w 62 62 1
              showFinders (modCmd s c q fun x => { x with page := .copying va dst, blocking := decide (k.done + 1 < k.desc.count), finder := some f }) (ctxHub c)
    | _ => s

def execMovePagesCopy (ctx seq : Nat) (s : State) : Host.Outcome State Fault Refusal := .next (doMovePagesCopy ctx seq s)

/-- What refuses access to a home of this device. -/
def homeRefusal (s : State) (c : Nat) (w : BitVec 64) : Option Nat :=
  if peTier w = 3 then none else accelRefusal s (ctxPart s c) (peFrame w)

/-- Switch a page to its new home: its cached translations go, and MOVING clears (R235 step 5). -/
def switchPage (s : State) (c q va : Nat) (old dst : BitVec 64) : State :=
  let h := ctxHub c
  let s := modPage s c va fun w => peSetHome w dst
  let page := va / Config.page2M * Config.page2M
  let s := tlbDrop s h fun t => t.ctx == c && meets t.va t.size page Config.page2M
  let s := modPage s c va fun w => setBits w 62 62 0
  modCmd (fsat s h 0 Fl.TIER_MOVES_PAGES 1) c q fun x => { x with page := .switched old, moved := x.moved + 1 }

/-- MOVE_PAGES_SWITCH: the copy is complete; its data are those of the old home now, which no hub-side agent has written
since the copy began (R236). -/
def doMovePagesSwitch (c q : Nat) (s : State) : State :=
  match runCmd s c q 3 with
  | none => s
  | some k => match k.page with
    | .copying va dst => match tierPage s c va with
      | none => s
      | some (_, _, w) =>
        let fail (s : State) (st : Nat) : State := failPage s c q k va dst st
        let r : Requester := .cmd c q
        match k.denied, (homeRefusal s c w).or (homeRefusal s c dst) with
        | some (st, _), _ => fail s st
        | none, some st => fail s st
        | none, none => match getLoc s r c (homeLoc w) Config.page2M with
          | (none, s) => s
          | (some g, s) => match g.err with
            | some st => fail s st
            | none => match putLines s r 0 (cutLoc (Config.page2M + 1) (homeLoc dst) g.bytes) with
              | (.error .wait, s) => s
              | (.error (.fail st), s) => fail s st
              | (.ok _, s) =>
                let s := touchPage (countBytes (dropData s r) (ctxHub c) Config.page2M Config.page2M) c va 32768
                switchPage s c q va w dst
    | _ => s

def execMovePagesSwitch (ctx seq : Nat) (s : State) : Host.Outcome State Fault Refusal := .next (doMovePagesSwitch ctx seq s)

/-- Whether a read that this device has sent still reaches for the old home of a page: a fill of a read cache, or a request
to another device (R235 step 6). -/
def oldHomeRead (s : State) (old : BitVec 64) : Bool :=
  let a := peFrame old
  if peTier old = 3 then
    s.net.remotes.any fun r => !r.done && r.kind == kReadReq && r.dev == peDevice old &&
      decide (a ≤ r.addr) && decide (r.addr < a + Config.page2M)
  else s.rdc.any fun c => c.2.fills.any fun f => decide (a ≤ f.line) && decide (f.line < a + Config.page2M)

/-- MOVE_PAGES_RETURN: step 6, and the next entry. -/
def doMovePagesReturn (c q : Nat) (s : State) : State :=
  match runCmd s c q 3 with
  | none => s
  | some k => match k.page with
    | .switched old => if oldHomeRead s old then s else nextPage (refund s c (peTier old) 1) c q k
    | _ => s

def execMovePagesReturn (ctx seq : Nat) (s : State) : Host.Outcome State Fault Refusal := .next (doMovePagesReturn ctx seq s)

/-! ### Decay (R247, R248) -/

/-- One page entry after a decay. -/
def decayEntry (th : Nat) (w : BitVec 64) : BitVec 64 :=
  let x := peAccess w / 2
  if 2 * x < th then setBits (setBits w 51 44 x) 43 43 0 else setBits w 51 44 x

/-- A hint for a page whose ACCESS stands at the threshold without one (R248). -/
def hintPage (s : State) (h c page : Nat) : State :=
  match tierPage s c page with
  | none => s
  | some (_, _, w) =>
    let th := fget s h 0 Fl.TIER_HINT_CTL_THRESHOLD
    if th ≠ 0 ∧ th ≤ peAccess w ∧ !peHinted w ∧ peTier w ≠ 0 then
      writeHint (modPage s c page fun _ => setBits w 43 43 1) h c page w
    else s

/-- ACCESS_DECAY. -/
def doAccessDecay (h : Nat) (s : State) : State :=
  let th := fget s h 0 Fl.TIER_HINT_CTL_THRESHOLD
  let aged (r : TRegion) : TRegion := if ctxHub r.ctx = h then { r with pages := r.pages.map (decayEntry th) } else r
  let s : State := { s with regions := s.regions.map aged }
  (s.regions.filter fun r => ctxHub r.ctx == h).foldl (fun s r =>
    (List.range r.pages.length).foldl (fun s i => hintPage s h r.ctx (r.va + i * Config.page2M)) s) s

def execAccessDecay (hub : Nat) (s : State) : Host.Outcome State Fault Refusal := .next (doAccessDecay hub s)

end Sys2Proof.Machine
end

