-- ==== Sys2Proof/Machine/Queue.lean ====
section
/-! DEFINITION. Contexts, doorbells, descriptor fetch, dispatch, and the commands MOVE, SET_QUOTAS and SYNC (R268 to
R290). -/

namespace Sys2Proof.Machine

/-! ### Enabling and disabling (R269 to R271, R279) -/

/-- Whether a context lies in a partition whose dies are fenced (R293). -/
def fencedCtx (s : State) (c : Nat) : Bool := s.rst.parts.contains (ctxPart s c) || s.rst.fenced.contains (ctxPart s c)

/-- Whether a ring passes R271. -/
def ringOk (s : State) (c : Nat) (w : BitVec 64) : Bool :=
  let lg := fldOf Fl.QFE_CTX_CMD_RING_SIZE_LOG2 w
  let base := ringBase w
  let size := 32 * 2 ^ lg
  let part := ctxPart s c
  let width := hubsPer (modeOf s) * 4 * stackBytes
  decide (6 ≤ lg) && decide (lg ≤ 16) && base % max 4096 size == 0 &&
    (decide (base + size ≤ ddrBytes s) ||
      (decide (partBase s part ≤ base) && decide (base + size ≤ partBase s part + width)))

/-- The fields of QFE_CTX_ATTR that a write changes: all of them while ENABLE is 0, else only the priority and the
threshold; ENABLE itself aside (R269). -/
def attrFields (old new : BitVec 64) : BitVec 64 :=
  let a := fldSet Fl.QFE_CTX_ATTR_PRIORITY old (fldOf Fl.QFE_CTX_ATTR_PRIORITY new)
  let a := fldSet Fl.QFE_CTX_ATTR_EXPOSURE_THRESHOLD a (fldOf Fl.QFE_CTX_ATTR_EXPOSURE_THRESHOLD new)
  if fldOf Fl.QFE_CTX_ATTR_ENABLE old = 1 then a
  else
    let a := fldSet Fl.QFE_CTX_ATTR_ADMIN a (fldOf Fl.QFE_CTX_ATTR_ADMIN new)
    let a := fldSet Fl.QFE_CTX_ATTR_EVT_IRQ a (fldOf Fl.QFE_CTX_ATTR_EVT_IRQ new)
    fldSet Fl.QFE_CTX_ATTR_IRQ_VECTOR a (fldOf Fl.QFE_CTX_ATTR_IRQ_VECTOR new)

/-- The context whose registers a hub's QFE block shows: the selected one, if the hub serves it. -/
def validCtx (s : State) (c : Nat) : Bool := decide (c < 65536) && !fencedCtx s c

/-- CONTEXT_ENABLE: a write of QFE_CTX_ATTR with ENABLE 1 (R269). -/
def doContextEnable (c : Nat) (attr : BitVec 64) (s : State) : State :=
  if !validCtx s c then s
  else
    let x := getCtx s c
    let a := attrFields x.attr attr
    if fldOf Fl.QFE_CTX_ATTR_ENABLE x.attr = 1 then putCtx s c { x with attr := a }
    else if ringOk s c x.cmdRing ∧ ringOk s c x.cplRing ∧ ringOk s c x.evtRing then
      let y := { x with attr := fldSet Fl.QFE_CTX_ATTR_ENABLE a 1, stale := none }
      putCtx s c (setCtxState { y with state := fldSet Fl.QFE_CTX_STATE_PARK_STATUS y.state 0 } stRunning)
    else putCtx s c { x with attr := a, state := fldSet Fl.QFE_CTX_STATE_PARK_STATUS x.state 0x0107 }

def execContextEnable (ctx : Nat) (attr : BitVec 64) (s : State) : Host.Outcome State Fault Refusal :=
  .next (onDie s (ctxHub ctx) fun s => doContextEnable ctx attr s)

/-- CONTEXT_DISABLE: a write of QFE_CTX_ATTR with ENABLE 0 (R270). -/
def doContextDisable (c : Nat) (attr : BitVec 64) (s : State) : State :=
  if !validCtx s c then s
  else
    let x := getCtx s c
    let a := attrFields x.attr attr
    if fldOf Fl.QFE_CTX_ATTR_ENABLE x.attr = 0 then putCtx s c { x with attr := a }
    else putCtx s c (settleCtx (setCtxState { x with attr := fldSet Fl.QFE_CTX_ATTR_ENABLE a 0, stale := none } stDraining))

def execContextDisable (ctx : Nat) (attr : BitVec 64) (s : State) : Host.Outcome State Fault Refusal :=
  .next (onDie s (ctxHub ctx) fun s => doContextDisable ctx attr s)

/-- UNPARK (R279). -/
def doUnpark (c : Nat) (s : State) : State :=
  let x := getCtx s c
  if validCtx s c ∧ ctxState x = stParked then
    putCtx s c (setCtxState { x with state := fldSet Fl.QFE_CTX_STATE_PARK_STATUS x.state 0, stale := none } stRunning)
  else s

def execUnpark (ctx : Nat) (s : State) : Host.Outcome State Fault Refusal := .next (onDie s (ctxHub ctx) fun s => doUnpark ctx s)

/-! ### Doorbells (R275, R276, R293) -/

/-- The sequence of the oldest command without a completion record (R276). -/
def oldestSeq (x : Ctx) : Nat := match x.cmds with
  | k :: _ => k.seq
  | [] => x.fetched

/-- A doorbell write reaches a context, unless its partition is fenced or it is neither RUNNING nor PARKED. -/
def doorbell (s : State) (c : Nat) (f : Ctx → State) : State :=
  let x := getCtx s c
  if !validCtx s c then s
  else if ctxState x = stRunning ∨ ctxState x = stParked then f x
  else fsat s (ctxHub c) 0 Fl.QFE_COUNT_DOORBELLS_IGNORED 1

/-- A doorbell write whose value is not accepted is ignored and counted with the others (QFE_COUNT.DOORBELLS_IGNORED). -/
def ignoreBell (s : State) (c : Nat) : State := fsat s (ctxHub c) 0 Fl.QFE_COUNT_DOORBELLS_IGNORED 1

/-- CMD_TAIL (R276). -/
def doCmdTail (c : Nat) (value : BitVec 64) (s : State) : State :=
  doorbell s c fun x =>
    let v := value.toNat % 2 ^ 48
    let o := oldestSeq x
    let far (a : Nat) : Nat := (a + 2 ^ 48 - o) % 2 ^ 48
    if far x.tail ≤ far v ∧ far v ≤ ringSize x.cmdRing then putCtx s c { x with tail := v }
    else ctxEvent (ignoreBell s c) c 0x0107 1 0

def execCmdTail (ctx : Nat) (value : BitVec 64) (s : State) : Host.Outcome State Fault Refusal := .next (doCmdTail ctx value s)

/-- Whether a consumer count moves from `head` to `v` without passing `tail`, in 32 bits. -/
def mayConsume (head tail v : Nat) : Bool :=
  decide ((v + 2 ^ 32 - head) % 2 ^ 32 ≤ (tail + 2 ^ 32 - head) % 2 ^ 32)

def doCplHead (c : Nat) (value : BitVec 64) (s : State) : State :=
  doorbell s c fun x =>
    let v := value.toNat % 2 ^ 32
    if mayConsume x.cplHead x.cplTail v then putCtx s c { x with cplHead := v } else ignoreBell s c

def execCplHead (ctx : Nat) (value : BitVec 64) (s : State) : Host.Outcome State Fault Refusal := .next (doCplHead ctx value s)

def doEvtHead (c : Nat) (value : BitVec 64) (s : State) : State :=
  doorbell s c fun x =>
    let v := value.toNat % 2 ^ 32
    if mayConsume x.evtHead x.evtTail v then putCtx s c { x with evtHead := v } else ignoreBell s c

def execEvtHead (ctx : Nat) (value : BitVec 64) (s : State) : Host.Outcome State Fault Refusal := .next (doEvtHead ctx value s)

/-! ### Fetching (R273, R278, R290) -/

/-- A descriptor's fields (R272). -/
def readDesc (bs : List Byte) : Desc :=
  { opcode := imgNum bs 0 1, flags := BitVec.ofNat 8 (imgNum bs 1 1), stamp := imgNum bs 2 2, count := imgNum bs 4 4,
    argA := BitVec.ofNat 64 (imgNum bs 8 8), argB := BitVec.ofNat 64 (imgNum bs 16 8),
    argC := BitVec.ofNat 64 (imgNum bs 24 8), raw := bs }

/-- A fetched command. -/
def newCmd (seq : Nat) (d : Desc) : Cmd :=
  { seq := seq, desc := d, dispatched := false, done := 0, page := .check, moved := 0, pipe := none, entry := [], frames := 0,
    outBytes := 0, blocking := false, stalled := none, denied := none, events := false, finder := none, result := none, accepted := false }

/-- Read the slot of the next sequence; a line that is poisoned gives no stamp. -/
def readSlotOf (s : State) (c : Nat) (x : Ctx) : Option (List Byte) × State :=
  ncFetch s (ringBase x.cmdRing + x.fetched % ringSize x.cmdRing * 32) 32 (ctxHub c)

/-- Park a context with the status of a descriptor that cannot be taken (R278); one that no memory holds ends with that of R25
(log 179). -/
def parkCtx (s : State) (c seq : Nat) (status : Nat := 0x0104) : State :=
  let s := modCtx s c fun x =>
    setCtxState { x with state := fldSet Fl.QFE_CTX_STATE_PARK_STATUS x.state status, stale := none } stParked
  ctxEvent s c status 2 (BitVec.ofNat 128 seq)

/-- Take a descriptor whose stamp matches. -/
def takeDesc (s : State) (c : Nat) (bs : List Byte) : State :=
  let s := modCtx s c fun x => { x with
    cmds := x.cmds ++ [newCmd x.fetched (readDesc bs)]
    fetched := (x.fetched + 1) % 2 ^ 48
    stale := none }
  fsat s (ctxHub c) 0 Fl.QFE_COUNT_FETCHED 1

/-- Whether fetched bytes carry the stamp of a sequence. -/
def stampOk (bs : Option (List Byte)) (seq : Nat) : Option (List Byte) :=
  bs.filter fun b => imgNum b 2 2 == seq % 65536

/-- A context that has something to fetch. -/
def wantsFetch (s : State) (h : Nat) (p : Nat × Ctx) : Bool :=
  ctxHub p.1 == h && ctxState p.2 == stRunning && p.2.fetched != p.2.tail && p.2.stale.isNone && !fencedCtx s p.1

/-- The context that a hub fetches from next: the highest class, round robin by number within it (R290). -/
def pickCtx (s : State) (h : Nat) : Option Nat :=
  let l := s.ctxs.filter (wantsFetch s h)
  let top := (l.map fun p => fldOf Fl.QFE_CTX_ATTR_PRIORITY p.2.attr).foldl max 0
  let l := (l.filter fun p => fldOf Fl.QFE_CTX_ATTR_PRIORITY p.2.attr == top).map (·.1)
  let from_ := smGetD s.rrNext 0 (h * 8 + top)
  (l.find? fun c => decide (from_ ≤ c)).or l.head?

/-- DESCRIPTOR_FETCH: one descriptor; a stamp that does not match waits for its refetch. -/
def doDescriptorFetch (h : Nat) (s : State) : State :=
  match pickCtx s h with
  | none => s
  | some c =>
    let x := getCtx s c
    let s : State := { s with rrNext := smPut s.rrNext (h * 8 + fldOf Fl.QFE_CTX_ATTR_PRIORITY x.attr) (c + 1) }
    match ringRefusal s c (ringBase x.cmdRing) with
    | some st => parkCtx s c x.fetched st
    | none =>
      let q := readSlotOf s c x
      match stampOk q.1 x.fetched with
      | some bs => takeDesc q.2 c bs
      | none => modCtx q.2 c fun x => { x with stale := some 0 }

def execDescriptorFetch (hub : Nat) (s : State) : Host.Outcome State Fault Refusal := .next (doDescriptorFetch hub s)

/-- STALE_REFETCH: the fourth mismatch parks the context. -/
def doStaleRefetch (c : Nat) (s : State) : State :=
  let x := getCtx s c
  match x.stale with
  | none => s
  | some n =>
    if ctxState x ≠ stRunning ∨ fencedCtx s c then s
    else
      let s := fsat s (ctxHub c) 0 Fl.QFE_COUNT_STALE_REFETCHES 1
      match ringRefusal s c (ringBase x.cmdRing) with
      | some st => parkCtx s c x.fetched st
      | none =>
        let q := readSlotOf s c x
        match stampOk q.1 x.fetched with
        | some bs => takeDesc q.2 c bs
        | none => if n + 1 < 4 then modCtx q.2 c fun x => { x with stale := some (n + 1) } else parkCtx q.2 c x.fetched

def execStaleRefetch (ctx : Nat) (s : State) : Host.Outcome State Fault Refusal := .next (doStaleRefetch ctx s)

/-! ### Dispatch (R280 to R282) -/

/-- The command-specific flags that a command defines, and the bytes and bits that it reserves (R272, R284, R286). -/
def descReserved (d : Desc) : Bool :=
  let f := d.flags.toNat / 4
  let a := d.argA.toNat
  let b := d.argB.toNat
  match d.opcode with
  | 1 => decide (1 < f) || d.argC != 0 || (f == 0 && d.count != 0) || a % 64 != 0 || (f == 1 && b % 8 != 0)
  | 2 => f != 0 || d.argB != 0 || d.argC != 0 || a % 64 != 0
  | 3 => f != 0 || d.argB != 0 || d.argC != 0 || a % 16 != 0
  | 4 => f != 0 || imgNum d.raw 7 1 != 0 || imgNum d.raw 28 4 != 0
  | 5 => f != 0 || d.argB != 0 || d.argC != 0
  | 6 => f % 2 == 1 || decide (8 ≤ f) || d.count != 0 || (f.testBit 2 && b % 8 != 0)
  | 7 => f != 0 || d.argB != 0 || d.argC != 0
  | _ => true

/-- Counts and extents: a status, or none (R280). -/
def descRange (d : Desc) : Option Nat :=
  let a := d.argA.toNat
  let b := d.argB.toNat
  let list (n : Nat) : Option Nat := if d.count = 0 then some 0x0101 else if 2 ^ 57 < a + n * d.count then some 0x0103 else none
  match d.opcode with
  | 1 =>
    if 2 ^ 57 < a + 384 then some 0x0103
    else if !d.flags.getLsbD 2 then none
    else if d.count = 0 then some 0x0101
    else if 64 < d.count ∨ 2 ^ 57 < b + 8 * d.count then some 0x0103 else none
  | 2 => list 64
  | 3 => list 16
  | 4 => if 2 ^ 20 ≤ imgNum d.raw 24 4 then some 0x0103 else none
  | 5 => list 1
  | 6 => if d.flags.getLsbD 4 ∧ 2 ^ 57 < b + 8 then some 0x0103 else none
  | 7 => list 1
  | _ => none

/-- The first of checks 2 to 4 of R280 that a descriptor fails. -/
def descStatus (x : Ctx) (d : Desc) : Option Nat :=
  if descReserved d then some 0x0102
  else if d.opcode = 4 ∧ fldOf Fl.QFE_CTX_ATTR_ADMIN x.attr = 0 then some 0x0105
  else descRange d

/-- The detail of a command that fails a check: list commands have done nothing (R284). -/
def descDetail (d : Desc) : BitVec 64 := if d.opcode = 2 ∨ d.opcode = 3 ∨ d.opcode = 5 then listDetail 0 none else 0

/-- The command of a context that is dispatched next, if nothing holds it back. -/
def mayDispatch (x : Ctx) : Option Cmd :=
  match x.cmds.find? fun k => !k.dispatched with
  | none => none
  | some k =>
    let free := ringSize x.cplRing - (x.cplTail + 2 ^ 32 - x.cplHead) % 2 ^ 32
    let first := (x.cmds.head?).any fun y => y.seq == k.seq
    if !(x.cmds.any fun y => y.dispatched && y.blocking) ∧ inflight x < 16 ∧ inflight x + 1 ≤ free ∧
        (!k.desc.flags.getLsbD 1 ∨ first) then some k else none

/-- A command that may wait before it takes effect holds back the later commands of its context from its dispatch until
that wait is over: LAUNCH, MOVE_PAGES, SYNC (R281). -/
def holdsLater (d : Desc) : Bool := d.opcode == 1 || d.opcode == 3 || d.opcode == 6

/-- COMMAND_DISPATCH. -/
def doCommandDispatch (c : Nat) (s : State) : State :=
  let x := getCtx s c
  if (ctxState x = stRunning ∨ ctxState x = stParked) ∧ !fencedCtx s c then
    match mayDispatch x with
    | none => s
    | some k => match descStatus x k.desc with
      | some st => complete s c k.seq st (descDetail k.desc)
      | none => modCmd s c k.seq fun y => { y with dispatched := true, blocking := holdsLater y.desc }
  else s

def execCommandDispatch (ctx : Nat) (s : State) : Host.Outcome State Fault Refusal := .next (doCommandDispatch ctx s)

/-! ### MOVE (R285) -/

/-- MOVE_CMD: the command takes the command context of a Finder. -/
def doMoveCmd (c q : Nat) (s : State) : State :=
  match runCmd s c q 2 with
  | none => s
  | some k => match k.finder, freeFinder s (ctxHub c) with
    | none, some f => showFinders (modCmd s c q fun x => { x with finder := some f }) (ctxHub c)
    | _, _ => s

def execMoveCmd (ctx seq : Nat) (s : State) : Host.Outcome State Fault Refusal := .next (doMoveCmd ctx seq s)

/-- The move that an entry spells, as a move word with two binding endpoints. -/
def entryWord (b : List Byte) : MoveWord :=
  { srcNs := false, srcIndex := 0, srcOff := 0, dstNs := false, dstIndex := 0, dstOff := 0, rows := imgNum b 24 2,
    cols := imgNum b 26 2, fmt := imgNum b 28 1 % 16, transform := imgNum b 29 1, blk := imgNum b 31 1 % 4, srcCur := none,
    dstCur := none, done := none, aux := 0, auxOff := 0, paired := (imgNum b 30 1).testBit 0 }

/-- The scale tensor of a side of an entry, located from the tile's first scale. -/
def entryScale (w : MoveWord) (kind pitch va : Nat) : ScaleT :=
  ⟨kind, w.blk, pitch * 8 / fmtBits w.fmt, .va va, 0, 0⟩

/-- The job of an entry. -/
def entryJob (b : List Byte) : Job :=
  let w := entryWord b
  let kind := imgNum b 56 1
  { src := .va (imgNum b 0 8), srcPitch := imgNum b 16 4, srcShape := srcShape w, dst := .va (imgNum b 8 8),
    dstPitch := imgNum b 20 4, dstShape := dstShape w, fmt := w.fmt, transform := w.transform,
    index := if w.transform = 3 then some (.va (imgNum b 48 8)) else none, srcEnd := none,
    scales := if w.paired then some (entryScale w kind (imgNum b 16 4) (imgNum b 32 8),
      entryScale w (scaleKindAfter w.transform kind) (imgNum b 20 4) (imgNum b 40 8)) else none, tag := 0 }

/-- The first check that an entry fails (R285): the status. -/
def entryStatus (b : List Byte) : Option Nat :=
  let w := entryWord b
  let j := entryJob b
  let kind := imgNum b 56 1
  let reserved := decide (16 ≤ imgNum b 28 1) || decide (2 ≤ imgNum b 30 1) || decide (4 ≤ imgNum b 31 1) || imgNum b 57 7 != 0
  let past (a pitch : Nat) (x : Shape) : Bool := decide (2 ^ 57 < a + (x.rows - 1) * pitch + x.rowLen w.fmt)
  if reserved ∨ 3 < w.transform ∨ (w.paired ∧ 6 < kind) then some 0x0102
  else if w.transform = 2 ∨ (w.paired ∧ kind = 0) ∨ (w.paired ∧ w.transform = 1 ∧ kind = 5) ∨
      (w.paired ∧ w.transform = 3 ∧ !(kind == 1 || kind == 3 || kind == 6)) then some 0x0137
  else if w.rows = 0 ∨ w.cols = 0 then some 0x0101
  else if j.srcPitch < j.srcShape.rowLen w.fmt ∨ j.dstPitch < j.dstShape.rowLen w.fmt ∨
      (w.transform ≠ 3 ∧ past (imgNum b 0 8) j.srcPitch j.srcShape) ∨ past (imgNum b 8 8) j.dstPitch j.dstShape ∨
      (w.transform = 3 ∧ 2 ^ 57 < imgNum b 48 8 + 4 * w.rows) then some 0x0103
  else none

/-- End a MOVE: entries before the failing one stay done. -/
def endMove (s : State) (c q : Nat) (k : Cmd) (status : Nat) : State :=
  let s := dropData s (.cmd c q)
  endList (if status = 0 ∨ unlanded s c q then s else finderError s (ctxHub c) (k.finder.getD 0) 0 0 c status true) c q k
    status k.done

/-- The current entry of a MOVE breaks off: it has written a free choice of its lines (R222, R223). -/
def breakEntry (s : State) (c q : Nat) (k : Cmd) : State :=
  match readVa s (.cmd c q) c (k.desc.argA.toNat + 64 * k.done) 64 with
  | (.ok b, t) => modCmd (cancelJob t (.cmd c q) c (entryJob b) []).2 c q fun x => { x with accepted := true }
  | (_, _) => s

/-- A MOVE that waits on a fault record has broken off once (R222). -/
def settleMove (s : State) (c q : Nat) : State :=
  match getCmd s c q with
  | some k =>
    if k.desc.opcode = 2 ∧ k.stalled.isSome ∧ !k.accepted ∧ s.xlat.faults.any (fun f => f.waiters.contains (.cmd c q)) then
      breakEntry s c q k
    else s
  | none => s

/-- Break off every MOVE that has come to wait on a fault record. -/
def settleMoves (s : State) : State := s.ctxs.foldl (fun s x => x.2.cmds.foldl (fun s k => settleMove s x.1 k.seq) s) s

/-- MOVE_ENTRY: the next entry is carried out. -/
def doMoveEntry (c q : Nat) (e : Ecc) (s : State) : State :=
  match runCmd s c q 2 with
  | none => s
  | some k => if k.finder.isNone then s
    else
      let r : Requester := .cmd c q
      match k.denied with
      | some (st, _) => endMove (if k.accepted then s else breakEntry s c q k) c q k st
      | none =>
        let s := modCmd s c q fun x => { x with accepted := false }
        match readVa s r c (k.desc.argA.toNat + 64 * k.done) 64 with
        | (.error .wait, t) => t
        | (.error (.fail st), t) => endMove t c q k st
        | (.ok b, t) => match entryStatus b with
          | some st => endMove t c q k st
          | none =>
            let t := finderCe t (ctxHub c) e
            match runJob t r c (entryJob b) (if e = .ue then some 0x0F33 else none) [] with
            | (.wait, t) => settleMove t c q
            | (.gather _ _, t) => endMove t c q k 0x013A
            | (.fail st _, t) => endMove t c q k st
            | (.done rd wr, t) =>
              let k := { k with done := k.done + 1 }
              let t := modCmd (countBytes t (ctxHub c) rd wr) c q fun x => { x with done := k.done }
              if k.desc.count ≤ k.done then endMove t c q k 0 else t

def execMoveEntry (ctx seq : Nat) (e : Ecc) (s : State) : Host.Outcome State Fault Refusal := .next (doMoveEntry ctx seq e s)

/-! ### SET_QUOTAS and SYNC (R286, R287) -/

/-- SET_QUOTAS. -/
def doSetQuotas (c q : Nat) (s : State) : State :=
  match runCmd s c q 4 with
  | none => s
  | some k =>
    let b := k.desc.raw
    let t := imgNum b 4 2
    let mask := imgNum b 6 1
    let vals := [imgNum b 8 4, imgNum b 12 4, imgNum b 16 4, imgNum b 20 4, imgNum b 24 4]
    if ctxPart s t ≠ ctxPart s c then complete s c q 0x0106 0
    else
      let s := modCtx s t fun x => { x with
        quota := vals.zipIdx.map fun v => if mask.testBit v.2 then v.1 else x.quota.getD v.2 0 }
      complete s c q 0 0

def execSetQuotas (ctx seq : Nat) (s : State) : Host.Outcome State Fault Refusal := .next (doSetQuotas ctx seq s)

/-- Sequence `a` is `b` or comes before it, modulo 2^48. -/
def seqLe (a b : Nat) : Bool := decide ((b + 2 ^ 48 - a) % 2 ^ 48 < 2 ^ 47)

/-- SYNC: the handle's context must lie in the partition; the wait begins. -/
def doSync (c q : Nat) (s : State) : State :=
  match runCmd s c q 6 with
  | none => s
  | some k =>
    let t := k.desc.argA.toNat / 2 ^ 48
    if k.desc.flags.getLsbD 3 ∧ ctxPart s t ≠ ctxPart s c then complete s c q 0x0106 0
    else modCmd s c q fun x => { x with accepted := true }

def execSync (ctx seq : Nat) (s : State) : Host.Outcome State Fault Refusal := .next (doSync ctx seq s)

/-- Whether everything that a SYNC waits for has completed. One that waits for its own handle waits for ever. -/
def syncReady (s : State) (c q : Nat) (k : Cmd) : Bool :=
  let own := ((getCtx s c).cmds.head?).any fun y => y.seq == q
  let h := k.desc.argA.toNat
  let x := getCtx s (h / 2 ^ 48)
  let n := h % 2 ^ 48
  own && (!k.desc.flags.getLsbD 3 ||
    (!seqLe x.fetched n && x.cmds.all fun y => !seqLe y.seq n))

/-- SYNC_COMPLETE: the value is written, if asked, and the command completes. -/
def doSyncComplete (c q : Nat) (s : State) : State :=
  match runCmd s c q 6 with
  | none => s
  | some k =>
    if !k.accepted ∨ !syncReady s c q k then s
    else match k.denied with
      | some (st, _) => complete s c q st 0
      | none =>
        if !k.desc.flags.getLsbD 4 then complete s c q 0 0
        else match writeVa s (.cmd c q) c k.desc.argB.toNat (leBytes 8 k.desc.argC.toNat) with
          | (.ok _, s) => complete s c q 0 0
          | (.error .wait, s) => s
          | (.error (.fail st), s) => complete s c q st 0

def execSyncComplete (ctx seq : Nat) (s : State) : Host.Outcome State Fault Refusal := .next (doSyncComplete ctx seq s)

end Sys2Proof.Machine
end

