-- ==== Sys2Proof/Machine/RegSpace.lean ====
section
/-! DEFINITION. Which register an offset of register space names (R26, R27, R30), and which registers a reset clears (R11). -/

namespace Sys2Proof.Machine

/-- The block in a slot of a die of a type (R27). -/
def blkAt (t slot : Nat) : Option Blk :=
  if slot = 0 then some .dieB
  else if slot = 48 then some .lnkB
  else if t = 0 then
    (if slot ≤ 34 then some .engB else if slot = 40 then some .tokB else if slot = 41 then some .rdcB
      else if slot = 42 then some .pwdB else none)
  else if t = 1 then (if slot = 1 then some .nstB else none)
  else if t = 2 then [Blk.coreB, .cohB, .wlkB, .ddrB, .irqB][slot - 1]?
  else if t = 3 then [Blk.qfeB, .fndB, .tierB, .trcB, .cohB, .hbmB][slot - 1]?
  else if t = 4 then [Blk.netB, .pciB, .medB][slot - 1]?
  else [Blk.rstB, .pwrB, .prsB, .secB, .bootB, .evtB, .timeB, .dbgB, .strapB][slot - 1]?

/-- The instance of a register at an offset of its block. -/
def instanceAt (n : RegInfo) (off : Nat) : Option Nat :=
  if off < n.off then none
  else if n.stride = 0 then (if off = n.off then some 0 else none)
  else if (off - n.off) % n.stride = 0 ∧ (off - n.off) / n.stride < n.cnt then some ((off - n.off) / n.stride)
  else none

/-- Registers that the blocks of HD1 do not carry: the fault queue's and COH_STASH_RECORDS. -/
def notOnHd1 (b : Blk) (off : Nat) : Bool := (b == .wlkB && decide (8 ≤ off) && decide (off ≤ 0x40)) || (b == .cohB && off == 0x40)

/-- The register and instance at an offset of a slot of a die; engines are instances of the ENG registers. -/
def regAt (d slot off : Nat) : Option (Reg × Nat) :=
  ((blkAt (dieType d) slot).filter fun b => !(d == 17 && notOnHd1 b off)).bind fun b =>
    Reg.all.findSome? fun r =>
      if r.info.blk = b then (instanceAt r.info off).map fun i => (r, if b = .engB then slot - 1 else i) else none

/-- Die, register and instance of a key of the register file. -/
def regOfKey (k : Nat) : Option (Nat × Reg × Nat) :=
  let d := k / 0x4000000
  (regAt d (k / 0x100000 % 64) (k % 0x100000)).map fun x => (d, x)

/-- Clear the registers that a predicate on die and domain selects. -/
def clearRegs (s : State) (p : Nat → Dom → Bool) : State :=
  { s with regs := s.regs.filter fun x => match regOfKey x.1 with
      | some (d, r, _) => !p d r.info.dom
      | none => true }

/-- Domains that a system reset clears (R11). -/
def bySystem (_ : Nat) (m : Dom) : Bool := match m with
  | .sys => true
  | .part => true
  | .partOrSys => true
  | .por => false
  | .none => false

/-- Domains that a power-on reset clears. -/
def byPowerOn (_ : Nat) (m : Dom) : Bool := match m with
  | .none => false
  | .sys => true
  | .part => true
  | .partOrSys => true
  | .por => true

/-- Registers that a partition full reset clears on the dies `l`. -/
def byPart (l : List Nat) (d : Nat) (m : Dom) : Bool := l.contains d && (match m with
  | .part => true
  | .partOrSys => true
  | .sys => false
  | .por => false
  | .none => false)

end Sys2Proof.Machine
end

