-- ==== Sys2Proof/Machine/ResetOps.lean ====
section
/-! DEFINITION. Reset sources, what each level clears, and the beginning of each reset (R293, R333, R357 to R359, R408,
R432, R475 to R481). -/

namespace Sys2Proof.Machine

/-! ### Recording (R475, R479) -/

/-- Order of the levels of resets in progress. -/
def ResetKind.rank : ResetKind → Nat
  | .none => 0
  | .core => 1
  | .system => 2
  | .powerOn => 3

/-- An entry in the layout of RST_CAUSE. -/
def causeWord (source level unit : Nat) : BitVec 64 := BitVec.ofNat 64 (source + level * 2 ^ 8 + unit * 2 ^ 32)

/-- Enter a source in the history. -/
def histPush (s : State) (w : BitVec 64) : State :=
  let s := (List.range 15).foldl (fun t i => rput t 24 .rstHist (15 - i) (rget s 24 .rstHist (14 - i))) s
  rput s 24 .rstHist 0 (w ||| (1 <<< 63))

/-- Record the source of a reset that takes place. -/
def recordCause (s : State) (source level unit : Nat) : State :=
  histPush (rput s 24 .rstCause 0 (causeWord source level unit)) (causeWord source level unit)

/-- The reset controller's unit ID. -/
def rstUnit : Nat := unitId 24 0 1

/-! ### System and power-on resets (R478 to R480) -/

/-- Every core, as host die and number. -/
def everyCore : List (Nat × Nat) := [16, 17].flatMap fun d => (List.range 100).map fun c => (d, c)

/-- No core runs: what CORE_STATE keeps in its domain is the rest of it. -/
def stopCores (s : State) : State :=
  (everyCore.filter fun x => fget s x.1 x.2 Fl.CORE_STATE_STATE != 0).foldl (fun s x => fput s x.1 x.2 Fl.CORE_STATE_STATE 0) s

/-- What a system reset leaves: registers of domain POR, persistent array, fuses, strap, debug logic, plate and keys. -/
def clearSystem (s : State) : State :=
  let t := stopCores (clearRegs s bySystem)
  { State.reset with
    pending := s.pending
    time := s.time
    fresh := s.fresh
    regs := t.regs
    fuses := s.fuses
    rowFuses := s.rowFuses
    persist := s.persist
    failedPcs := s.failedPcs
    rst := { State.reset.rst with kind := .system, plate := s.rst.plate }
    pins := { s.pins with sysRstDriven := true, thermAlertDriven := false, gpioOut := 0 }
    sec := { State.reset.sec with keys := s.sec.keys, challenge := s.sec.challenge }
    evt := { State.reset.evt with traceN := s.evt.traceN }
    jtag := s.jtag }

/-- What a power-on reset leaves: persistent array, fuses and keys. -/
def clearPowerOn (s : State) : State :=
  let t := clearRegs s byPowerOn
  { State.reset with
    pending := s.pending
    fresh := s.fresh
    regs := t.regs
    fuses := s.fuses
    rowFuses := s.rowFuses
    persist := s.persist
    failedPcs := s.failedPcs
    pins := { s.pins with sysRstDriven := true, thermAlertDriven := false, tdoDriven := false, highZ := false, cells := 0, gpioOut := 0 }
    sec := { State.reset.sec with keys := s.sec.keys } }

/-- After a failed start the device stays stopped: only SYS_RST_N or PWR_GOOD begins another (R485). -/
def stayStopped (s t : State) : State :=
  if s.rst.stopped then
    { t with rst := { t.rst with stopped := true, deadDies := List.range 24 } }
  else t

/-- A source of system level fires. -/
def systemReset (s : State) (source unit : Nat) : State :=
  if 2 ≤ s.rst.kind.rank ∧ !s.rst.stopped then histPush s (causeWord source 2 unit)
  else
    let t := recordCause (clearSystem s) source 2 unit
    if source = 0x06 then t else stayStopped s t

/-- The record of a power-on-level reset in persistent register 0 (R486). -/
def causeRecord (source unit : Nat) : BitVec 64 := BitVec.ofNat 64 (2 ^ 63 + unit % 65536 * 2 ^ 16 + source % 256)

/-- Keep the record, unless register 0 is exhausted and so read-only (R486, R489). -/
def keepRecord (s : State) (source unit : Nat) : State :=
  if wearEnd ≤ (getPersist s 0).commits then s else persistCommitNow s 0 (causeRecord source unit)

/-- A source of power-on level fires: pending persistent writes commit, and its record is kept (R486, R488). -/
def powerOnReset (s : State) (source unit : Nat) : State :=
  if s.rst.kind = .powerOn ∧ !s.rst.stopped then histPush s (causeWord source 0 unit)
  else stayStopped s (clearPowerOn (keepRecord (commitAll s) source unit))

/-- Every core that is up, as host die and number. -/
def upCores (s : State) : List (Nat × Nat) := [16, 17].flatMap fun d => (onlineCores s d).map fun c => (d, c)

/-- Steps 1 to 3 of R408: commit buffers are discarded, buffers drain, pending persistent writes commit. A board that does not hold
the bus up for that long ends it at any moment, as a free choice: what has not drained is lost, and a register whose write has not
ended keeps its value (R409). -/
def orderlyStop (s : State) : State :=
  let s : State := { s with engines := s.engines.map fun e => (e.1, { e.2 with region := none }) }
  let l := upCores s
  let h := drawBelow s 2
  let n := if h.1 = 0 then (l.length + s.persist.length, h.2) else drawBelow h.2 (l.length + s.persist.length)
  commitFirst ((l.take n.1).foldl (fun s x => forceDrain s x.1 x.2) n.2) (n.1 - l.length)

/-- A brownout (R408). -/
def doBrownout (s : State) : State :=
  if s.rst.kind = .powerOn ∧ !s.rst.stopped then histPush s (causeWord 0x03 0 0)
  else stayStopped s (clearPowerOn (keepRecord (orderlyStop s) 0x03 0))

def execBrownout (s : State) : Host.Outcome State Fault Refusal := .next (doBrownout s)

/-- THERMAL_TRIP: no drain (R432, R477). -/
def execThermalTrip (die : Nat) (s : State) : Host.Outcome State Fault Refusal := .next (powerOnReset s 0x04 (unitId die 0 0))

def execResetConfigurationUe (unit : Nat) (s : State) : Host.Outcome State Fault Refusal := .next (powerOnReset s 0x05 unit)

/-- PWR_GOOD_FALL: the orderly stop leads to power-on reset, whatever is in progress (R477, R535). -/
def doPwrGoodFall (s : State) : State :=
  if !s.pins.pwrGood then s
  else
    let s := orderlyStop s
    let t := clearPowerOn (keepRecord s 0x02 0)
    { t with pins := { t.pins with pwrGood := false } }

def execPwrGoodFall (s : State) : Host.Outcome State Fault Refusal := .next (doPwrGoodFall s)

/-- PWR_GOOD_RISE: the M9 drives SYS_RST_N and step 1 of R482 begins; device time starts at 0. -/
def doPwrGoodRise (s : State) : State :=
  if s.pins.pwrGood ∨ s.rst.kind ≠ .powerOn then s
  else fput { s with pins := { s.pins with pwrGood := true, sysRstDriven := true }, time := 0 } 24 0 Fl.BOOT_STATUS_STAGE 1

def execPwrGoodRise (s : State) : Host.Outcome State Fault Refusal := .next (doPwrGoodRise s)

/-- SYS_RST_N_ASSERT: ignored while the M9 drives the pin itself (R476) and before PWR_GOOD (R535); after a failed start it
is a source whatever the pin was (R485). -/
def doSysRstN (s : State) : State :=
  if !s.pins.pwrGood then s
  else
    let s : State := { s with pins := { s.pins with sysRstBoard := true } }
    if s.pins.sysRstDriven ∧ !s.rst.stopped then s else systemReset s 0x06 0

def execSysRstNAssert (s : State) : Host.Outcome State Fault Refusal := .next (doSysRstN s)

def execDomeWatchdog (s : State) : Host.Outcome State Fault Refusal :=
  .next (if s.rst.stopped then s else systemReset s 0x07 (unitId 24 0 0))

/-- COHERENCE_FATAL (R358). -/
def execCoherenceFatal (unit : Nat) (s : State) : Host.Outcome State Fault Refusal := .next (systemReset s 0x09 unit)

/-! ### Core reset (R333, R480, R481) -/

/-- A core's buffers are empty. -/
def buffersEmpty (s : State) (d c : Nat) : Bool := (getCore s d c).stores.isEmpty && (getCore s d c).stnt.isEmpty

/-- The address at which released cores start. -/
def bootAddr (s : State) : Nat := (s.rst.plate.map (·.bootAddr)).getD 0

/-- A core reset ends: modified lines are written back, L3 is invalidated, and the cores that were online start at the
plate's boot-loader address. -/
def finishCoreReset (s : State) : State :=
  let s := everyCore.foldl (fun s x => flushCore s x.1 x.2) s
  let s : State := { s with
    cores := []
    coh := { s.coh with l3 := [], data := s.coh.data.filter fun m => decide (2 ≤ m.holder) } }
  let s := s.rst.bootCores.foldl (fun s x => startCore s x.1 x.2 (bootAddr s)) s
  { s with rst := { s.rst with kind := .none, bootCores := [] } }

/-- Commit buffers and deferred signals are discarded; a commit that has begun goes on (R112, log 155). -/
def dropCommits (s : State) : State :=
  (s.engines.map (·.1)).foldl (fun s k =>
    let d := k / 34
    let e := k % 34
    match (getEng s d e).region, agentAt s (.engine d e) with
    | some _, some (_, _, _, .committing) => s
    | some g, _ => fput (modEng s d e fun y => { y with region := some { g with buffer := [], deferred := [] } }) d e Fl.ENG_PHO_COMMIT_USED 0
    | none, _ => s) s

/-- A core reset begins: the buffers drain. -/
def coreReset (s : State) : State :=
  if s.rst.kind ≠ .none then histPush s (causeWord 0x08 1 0)
  else
    let s := dropCommits (recordCause s 0x08 1 0)
    let l := upCores s
    let s : State := { s with
      rst := { s.rst with kind := .core, bootCores := l }
      sec := { s.sec with mrs := s.sec.mrs.filter fun m => decide (m.1 < 8) } }
    let s := l.foldl (fun s x => drainAll s x.1 x.2) s
    if l.all fun x => buffersEmpty s x.1 x.2 then finishCoreReset s else s

/-- Lines that a core still buffers. -/
def bufferedLines (x : Core) : Nat := ((x.stores.map fun b => lineOf b.addr) ++ x.stnt.map (·.line)).dedup.length

/-- Discard what a core has not drained, and report it. -/
def loseStores (s : State) (d c : Nat) : State :=
  let n := bufferedLines (getCore s d c)
  if n = 0 then s
  else
    let s := modCore s d c fun x => { x with stores := [], stnt := [], misses := [], queue := [] }
    raise (fsat s d c Fl.CORE_ERR_INFO_RESET_LOST n) 0x0F41 2 (coreUnit d c)

/-- CORE_RESET_DRAIN_TIMEOUT. -/
def doCoreResetDrainTimeout (d : Nat) (s : State) : State :=
  if s.rst.kind ≠ .core then s
  else
    let s := (List.range 100).foldl (fun s c => loseStores s d c) s
    if s.rst.bootCores.all fun x => buffersEmpty s x.1 x.2 then finishCoreReset s else s

def execCoreResetDrainTimeout (die : Nat) (s : State) : Host.Outcome State Fault Refusal := .next (doCoreResetDrainTimeout die s)

/-! ### Partition full reset (R293, R308, R359, R480) -/

/-- STATE of a partition in RST_PART. -/
def setPartState (s : State) (p v : Nat) : State :=
  let w := rget s 24 .rstPart 0
  rput s 24 .rstPart 0 (fldSet ⟨.rstPart, 2 * p + 1, 2 * p, .ro, .lit 0⟩ w v)

/-- The completion record that a partition full reset writes for a context (step 2). -/
def resetRecord (s : State) (c : Nat) : State :=
  let x := getCtx s c
  let base := ringBase x.cplRing
  let used := (x.cplTail + 2 ^ 32 - x.cplHead) % 2 ^ 32
  if ctxState x = stDisabled ∨ paKind s base ≠ .ddr ∨ ringSize x.cplRing ≤ used then s
  else
    let o := (x.cmds.head?.map (·.seq)).getD x.fetched
    recWrite s (base + x.cplTail % ringSize x.cplRing * 32)
      (completionBytes (handleOf c o) 0x0F10 2 s.time.toNat (BitVec.ofNat 64 x.fetched))

/-- The HBM range of a partition. -/
def partRange (s : State) (p : Nat) : Nat × Nat := (partBase s p, partBase s p + hubsPer (modeOf s) * 4 * stackBytes)

def inRange (r : Nat × Nat) (a : Nat) : Bool := decide (r.1 ≤ a) && decide (a < r.2)

/-- A core's wait for a line of a range ends in an error; a store that waits stays buffered and meets the error when it is
performed. -/
def dropMisses (s : State) (r : Nat × Nat) (d c : Nat) : State :=
  let mine := (getCore s d c).misses.filter fun m => inRange r m.line
  let s := modCore s d c fun x => { x with misses := x.misses.filter fun m => !inRange r m.line }
  (mine.filter fun m => !m.isStore).foldl (fun s m => loadError s d c kBusLoad m.addr) s

/-- Every cached copy of a line of a range is dropped, its messages with it, modified data discarded (R359). -/
def dropRange (s : State) (r : Nat × Nat) : State :=
  let keep (l : List CacheLine) : List CacheLine := l.filter fun x => !inRange r x.line
  let s := mapL2 s keep
  let s : State := { s with coh := { s.coh with
    l3 := s.coh.l3.map fun c => (c.1, keep c.2)
    link := s.coh.link.map fun c => (c.1, keep c.2)
    probes := s.coh.probes.filter fun m => !inRange r m.line
    data := s.coh.data.filter fun m => !inRange r m.line
    resps := s.coh.resps.filter fun m => !inRange r m.line } }
  everyCore.foldl (fun s x => dropMisses s r x.1 x.2) s

/-- Zeros with valid check bits are written over a partition's HBM range (step 5 of R365). -/
def wipeHbm (s : State) (p : Nat) : State :=
  let r := partRange s p
  { s with
    mem := memClear s.mem r.1 r.2
    poison := s.poison.filter fun a => !inRange r a
    flaws := s.flaws.filter fun x => !inRange r x.1 }

/-- The contents of a partition's HBM range are lost (R359). A pseudo-channel that failed stays failed until its next training
maps it out (R374). -/
def clearHbm (s : State) (p : Nat) : State :=
  let pcs := (partHubs s p).map fun h => (h - 18) * 128
  let mine (pc : Nat) : Bool := pcs.any fun b => decide (b ≤ pc) && decide (pc < b + 128)
  let s := wipeHbm (dropRange s (partRange s p)) p
  { s with ceLog := s.ceLog.filter fun x => !mine x.1 }

/-- Whether a requester acts for a context that `p` selects. -/
def actsFor (p : Nat → Bool) : Requester → Bool
  | .agent _ c _ => p c
  | .cmd c _ => p c
  | .pin c _ => p c
  | .qp _ _ => false

/-- Contexts, commands, launches and everything that a partition's dies hold. A running self-test ends with its engine's state
(log 151), and a running invalidation ends with the caches it was to clear (log 152). -/
def clearAccel (s : State) (p : Nat) : State :=
  let mine (c : Nat) : Bool := ctxPart s c == p
  let dies := partDies s p
  let hubs := partHubs s p
  let pair (r : Requester) : Bool := match r with
    | .qp pd n => (getQp s pd n).elim false fun q => mine q.context
    | _ => false
  let s := withdraw s fun r => actsFor mine r || pair r
  let s := s.xlat.invals.foldl (fun s x => if hubs.contains x.1 then
    fput (fput (fput s x.1 0 Fl.TRC_INV_CTL_BUSY 0) x.1 0 Fl.TRC_INV_CTL_START 0) x.1 0 Fl.TRC_INV_CTL_DONE 1 else s) s
  let mds (k per : Nat) : Bool := dies.contains (k / per)
  { s with
    ctxs := s.ctxs.filter fun c => !mine c.1
    launches := s.launches.filter fun l => !mine l.ctx
    regions := s.regions.filter fun r => !mine r.ctx
    parcels := s.parcels.filter fun x => !(partAllDies s p).contains x.src
    mediaQ := s.mediaQ.filter fun x => !mine x.1
    engines := s.engines.filter fun e => !mds e.1 34
    rdc := s.rdc.filter fun x => !dies.contains x.1
    tok := s.tok.filter fun x => !dies.contains x.1
    near := s.near.filter fun x => !mds x.1 (32 * Config.bankBytes)
    ostore := s.ostore.filter fun x => !mds x.1 (34 * 0x80_0000)
    xlat := { s.xlat with
      hub := s.xlat.hub.filter fun x => !hubs.contains x.1
      die := s.xlat.die.filter fun x => !dies.contains x.1
      walks := s.xlat.walks.filter fun w => !mine w.ctx
      waiting := s.xlat.waiting.filter fun w => !mine w.ctx
      invals := s.xlat.invals.filter fun x => !hubs.contains x.1
      tables := s.xlat.tables.filter fun e => !mine e.ctx }
    coh := { s.coh with
      homes := s.coh.homes.filter fun x => !hubs.contains x.1
      data := s.coh.data.filter fun m => !(decide (2 ≤ m.holder) && hubs.contains (holderDie m.holder))
      link := s.coh.link.filter fun x => !hubs.contains x.1 }
    net := { s.net with
      remotes := s.net.remotes.filter fun r => !actsFor mine r.req
      ctrs := s.net.ctrs.map fun x => (x.1, { x.2 with waits := x.2.waits.filter fun w =>
        !(w.1 == fget s 22 0 Fl.NET_DEVICE_DEVICE_ID &&
          s.net.remotes.any fun r => r.tag == w.2.1 && actsFor mine r.req) }) }
    sec := { s.sec with attests := s.sec.attests.filter fun x => !mine x.1 } }

/-- Media pipelines that worked for a partition's contexts are idle. -/
def clearPipes (s : State) (p : Nat) : State :=
  let all := [22, 23].flatMap fun pd => (List.range 12).map fun i => (pd, i)
  all.foldl (fun s x =>
    if fget s x.1 x.2 Fl.MED_PIPE_STATE ≠ 0 ∧ ctxPart s (fget s x.1 x.2 Fl.MED_PIPE_CONTEXT) = p then
      fput (fput s x.1 x.2 Fl.MED_PIPE_STATE 0) x.1 x.2 Fl.MED_PIPE_CONTEXT 0
    else s) s

/-- Steps 1 to 4 of R293 up to the training: fenced, recorded, cleared. -/
def resetPart (s : State) (p : Nat) : State :=
  let s : State := { s with rst := { s.rst with parts := insertNat s.rst.parts p, fenced := s.rst.fenced.filter (· != p) } }
  let s := fsat (setPartState s p 1) 24 0 Fl.RST_PART_COUNT 1
  let s := ((s.ctxs.map (·.1)).filter fun c => ctxPart s c == p).foldl resetRecord s
  let s := raise s 0x0F10 3 rstUnit 0 (BitVec.ofNat 128 p)
  let s := clearAccel (clearPipes (clearHbm s p) p) p
  clearRegs s (byPart (partAllDies s p))

/-- A partition full reset starts, or is absorbed (R479). -/
def partReset (s : State) (p source : Nat) : State :=
  if partCount (modeOf s) ≤ p then s
  else if 2 ≤ s.rst.kind.rank ∨ s.rst.parts.contains p then histPush s (causeWord source 3 p)
  else resetPart (recordCause s source 3 p) p

/-- PARTITION_FULL_RESET by an uncorrectable error of a token unit or a queue front end (source 0x0A), or by the Dome
(0x0B), as the unit tells. -/
def doPartitionFullReset (p unit : Nat) (s : State) : State :=
  partReset s p (if unit / 2048 < 8 ∧ unit % 2048 = 40 ∨ 18 ≤ unit / 2048 ∧ unit % 2048 = 1 then 0x0A else 0x0B)

def execPartitionFullReset (part unit : Nat) (s : State) : Host.Outcome State Fault Refusal :=
  .next (doPartitionFullReset part unit s)

/-! ### RST_CTL (R481) -/

/-- A write of RST_CTL. -/
def rstCtl (s : State) (key level p : Nat) : State :=
  if key ≠ 0xA5 ∨ level = 0 ∨ (level = 3 ∧ partCount (modeOf s) ≤ p) then fput s 24 0 Fl.RST_CTL_REJECTED 1
  else
    let s := fput s 24 0 Fl.RST_CTL_REJECTED 0
    if level = 1 then coreReset s else if level = 2 then systemReset s 0x08 0 else partReset s p 0x08

def execRstCtlCore (key : Nat) (s : State) : Host.Outcome State Fault Refusal := .next (onDie s 24 fun s => rstCtl s key 1 0)
def execRstCtlSystem (key : Nat) (s : State) : Host.Outcome State Fault Refusal := .next (onDie s 24 fun s => rstCtl s key 2 0)
def execRstCtlPartition (key part : Nat) (s : State) : Host.Outcome State Fault Refusal := .next (onDie s 24 fun s => rstCtl s key 3 part)

end Sys2Proof.Machine
end

