-- ==== Sys2Proof/Machine/PowerCtl.lean ====
section
/-! DEFINITION. Power capping and thermal control: the commands of the Heliostat that end in no reset (R403, R406, R407,
R413, R416 to R431, R449). -/

namespace Sys2Proof.Machine

/-- The PWR block as the source of its events. -/
def pwrUnit : Nat := unitId 24 0 2

/-- Watts of a ceiling field: outside 1,200 to 3,600 the nearer limit. -/
def ceilClip (v : Nat) : Nat := min 3600 (max 1200 v)

/-- The sustained ceiling (R417). -/
def sustainedW (s : State) : Nat :=
  let c := ceilClip (fget s 24 0 Fl.PWR_CEILING_CEILING_W)
  if s.power.capReq then min c (ceilClip (fget s 24 0 Fl.PWR_CEILING_CAP_REQ_W)) else c

/-- What the budget may give: the sustained ceiling, and in a dip no more than 300 A (R407, R418). -/
def ceilingW (s : State) : Nat :=
  if s.power.dip then min (sustainedW s) (fget s 24 0 Fl.PWR_INPUT_MILLIVOLTS * 300 / 1000) else sustainedW s

/-- A domain that the Heliostat controls: an engine pair or a host core group (R418). -/
def controlled (unit : Nat) : Bool :=
  unit / 2048 < 8 && unit % 256 < 17 || dieType (unit / 2048) == 2 && unit % 256 < 10

/-- U: the measured watts of every domain that it does not control. -/
def uncontrolledW (s : State) : Nat := ((s.power.domW.filter fun x => !controlled x.1).map (·.2)).sum

/-- The measured watts of a partition's engine pairs. -/
def engineW (s : State) (p : Nat) : Nat :=
  ((s.power.domW.filter fun x => controlled x.1 && (partDies s p).contains (x.1 / 2048)).map (·.2)).sum

/-- Take a sample (R416). -/
def takeSample (s : State) (p : PowerSample) : State :=
  let s : State := { s with power := { s.power with
    domW := p.domainW.foldl (fun m x => smPut m x.1 x.2) []
    lastHost := p.hostDemandW } }
  let s := fput (fput s 24 0 Fl.PWR_INPUT_MILLIVOLTS p.inputMv) 24 0 Fl.PWR_INPUT_DECIAMPS p.inputDeciAmps
  fput s 24 0 Fl.PWR_INPUT_WATTS p.inputW

/-! ### The budget (R418, R422) -/

/-- Partitions that are neither in reset nor fenced. -/
def activeParts (s : State) : List Nat :=
  (List.range (partCount (modeOf s))).filter fun p => !s.rst.parts.contains p && !s.rst.fenced.contains p

/-- The weight of a partition: 0 is read as 1. -/
def weightOf (s : State) (p : Nat) : Nat := max 1 (bits (rget s 24 .pwrShare 0).toNat (8 * p + 7) (8 * p))

/-- Watts that a partition could use, its pairs at their limits. -/
def needW (s : State) (p : Nat) : Nat := (partPower s p 900 + 562499999999) / 562500000000

/-- Divide watts among partitions in proportion to their weights; what one leaves unused goes to the others, where there are others
that use it (R418). -/
def divide (s : State) : Nat → List Nat → Nat → List (Nat × Nat)
  | 0, _, _ => []
  | n + 1, ps, r =>
    let sum := (ps.map (weightOf s)).sum
    let share (p : Nat) : Nat := r * weightOf s p / max 1 sum
    let low := ps.filter fun p => decide (needW s p ≤ share p)
    if low.isEmpty ∨ low.length = ps.length then ps.map fun p => (p, share p)
    else
      (low.map fun p => (p, needW s p)) ++
        divide s n (ps.filter fun p => !low.contains p) (r - (low.map (needW s)).sum)

/-- The partition of this device's job, and the watts that it may have at most (R425). -/
def jobLimit (s : State) (p w : Nat) : Nat :=
  if fget s 24 0 Fl.PWR_JOB_CTL_ENABLE = 1 ∧ fget s 24 0 Fl.PWR_JOB_CTL_PARTITION = p then
    min w (fget s 24 0 Fl.PWR_JOB_STATUS_GRANT_W)
  else w

/-- Power of a partition at a voltage: what is predicted, raised in proportion where more than that has been measured at the voltage
and the gate that it has (R420, R422). -/
def partExpect (s : State) (p v : Nat) : Nat :=
  let now := smGetD s.power.shareMv 900 p
  let cur := partPower s p now
  let got := engineW s p * 1000000 * 562500 * 8 / (8 - smGetD s.power.budgetGate 0 p)
  if got ≤ cur then partPower s p v else if cur = 0 then got * v * v / (now * now) else partPower s p v * got / cur

/-- Whether a partition at a voltage and a gate keeps within a share. -/
def fits (s : State) (p v g w : Nat) : Bool := decide (partExpect s p v * (8 - g) ≤ w * 1000000 * 562500 * 8)

/-- Apply one partition's share: voltage, gate, Finder rate, each once the one before it is at its limit, and released in the reverse
order (R420, R422). The Finder limit moves by one eighth at each evaluation (DESIGN CHOICE, log 71). -/
def applyShare (s : State) (p w : Nat) : State :=
  let was := smGetD s.power.budgetGate 0 p
  let old := smGetD s.power.finderRate 8 p
  let mv := (((List.range 61).map fun i => 900 - 5 * i).find? fun v => fits s p v 0 w).getD 600
  let need := if mv = 600 then ((List.range 8).find? fun g => fits s p 600 g w).getD 7 else 0
  let rate := if need = 7 ∧ !fits s p 600 7 w then max 1 (old - 1) else min 8 (old + 1)
  let g := if old < 8 then max need was else need
  let s := { s with power := { s.power with
    shareW := smPut s.power.shareW p w
    shareMv := smPut s.power.shareMv p (if 0 < max g was then 600 else mv)
    budgetGate := smPut s.power.budgetGate p g
    finderRate := smPut s.power.finderRate p rate } }
  (partDies s p).foldl setDiePairs s

/-! ### Host caps (R320, R418, R424) -/

/-- The running core with the highest effective frequency above 1.0 GHz. -/
def fastest (s : State) : Option (Nat × Nat) :=
  let l : List ((Nat × Nat) × Nat) := [16, 17].flatMap fun d =>
    (onlineCores s d).map fun c => ((d, c), fget s d c Fl.CORE_FREQ_EFFECTIVE)
  let top : Nat := (l.map (·.2)).foldl max 0
  if top ≤ 40 then none else (l.find? fun p => p.2 == top).map (·.1)

/-- Lower the CAP of the fastest running core by 25 MHz, `n` times. -/
def lowerCaps : Nat → State → State
  | 0, s => s
  | n + 1, s => match fastest s with
    | none => s
    | some (d, c) =>
      let v := fget s d c Fl.CORE_FREQ_EFFECTIVE - 1
      lowerCaps n (setCap { s with power := { s.power with budgetCap := smPut s.power.budgetCap (coreKey d c) v } } d c)

/-- Set the CAP of every core that is online. -/
def setCaps (s : State) : State :=
  [16, 17].foldl (fun s d => (onlineCores s d).foldl (fun s c => setCap s d c) s) s

/-- The host grant is below the host demand: CAPs fall. The spec gives no power of a core at a frequency, so the number of
steps is free (log 72); where the grant covers the demand and no gate is left to release first, no budget CAP applies (R422). -/
def hostCaps (s : State) (short : Bool) : State :=
  if short then
    let q := drawBelow s 16384
    lowerCaps q.1 q.2
  else if s.power.budgetGate.any fun g => decide (0 < g.2) then s
  else setCaps { s with power := { s.power with budgetCap := [] } }

/-- Show what limits apply (PWR_STATUS). -/
def showPower (s : State) : State :=
  let capped := [16, 17].any fun d => (onlineCores s d).any fun c => decide (fget s d c Fl.CORE_FREQ_CAP < coreTop s d c)
  let gating := (List.range 8).any fun d => decide (0 < dieGate s d)
  let limited := (s.power.finderRate.any fun p => decide (p.2 < 8)) || s.power.thermalFinder.any fun p => decide (p.2 < 8)
  let s := fput s 24 0 Fl.PWR_STATUS_HOST_CAPPED (b2n capped)
  let s := fput s 24 0 Fl.PWR_STATUS_GATING (b2n gating)
  let s := fput s 24 0 Fl.PWR_STATUS_FINDER_LIMITED (b2n limited)
  fput s 24 0 Fl.PWR_STATUS_CLAMP (b2n (s.power.clampMv != 0))

/-- Evaluate the budget from what was last measured (R418). -/
def budget (s : State) : State :=
  let host := min s.power.lastHost (fget s 24 0 Fl.PWR_SHARE_HOST_W)
  let r := ceilingW s - uncontrolledW s - host
  let s := hostCaps s (decide (host < s.power.lastHost))
  showPower ((divide s 5 (activeParts s) r).foldl (fun s p => applyShare s p.1 (jobLimit s p.1 p.2)) s)

/-- Engine-microseconds that gates have held in 100 µs, on every die (PWD_GATE). -/
def countGated (s : State) : State :=
  (List.range 8).foldl (fun s d =>
    let on := ((List.range 17).filter fun p => fget s d p Fl.PWD_PAIR_STATE == 2).length
    fsat s d 0 Fl.PWD_GATE_GATED_US (2 * on * dieGate s d * 100 / 8)) s

/-- Every control is at its limit: voltage, CAP, gate and Finder rate (R422). -/
def atLimits (s : State) : Bool :=
  (fastest s).isNone && (activeParts s).all fun p =>
    smGetD s.power.shareMv 900 p == 600 && smGetD s.power.budgetGate 0 p == 7 && smGetD s.power.finderRate 8 p == 1

/-- Note since when the package has been above its ceiling with every control at its limit. -/
def noteUnmet (s : State) (watts : Nat) : State :=
  if sustainedW s < watts ∧ atLimits s then
    { s with power := { s.power with unmetSince := some (s.power.unmetSince.getD s.time.toNat) } }
  else fput { s with power := { s.power with unmetSince := none } } 24 0 Fl.PWR_STATUS_UNMET 0

/-- HELIOSTAT_EVALUATION: the clamp is handed back, and the budget is evaluated (R418, R423). -/
def doHeliostatEvaluation (p : PowerSample) (s : State) : State :=
  let s := takeSample (countGated s) p
  noteUnmet (budget { s with power := { s.power with clampMv := 0 } }) p.inputW

def execHeliostatEvaluation (p : PowerSample) (s : State) : Host.Outcome State Fault Refusal := .next (doHeliostatEvaluation p s)

/-! ### The bus (R406, R407) -/

/-- DIP_START: the bus is below 11.4 V; input current is limited to 300 A, and below 9.6 V every pair to 0.60 V. Below 9.0 V it is
a brownout. -/
def doDipStart (mv : Nat) (s : State) : State :=
  if mv < 9000 then doBrownout s
  else if s.power.dip ∨ 11400 ≤ mv then s
  else
    let s := fsat (fput s 24 0 Fl.PWR_STATUS_RIDE_THROUGH 1) 24 0 Fl.PWR_STATUS_RIDE_THROUGHS 1
    let s := fput s 24 0 Fl.PWR_INPUT_MILLIVOLTS mv
    budget { s with power := { s.power with dip := true, busMv := if mv < 9600 then 600 else 0 } }

def execDipStart (mv : Nat) (s : State) : Host.Outcome State Fault Refusal := .next (doDipStart mv s)

/-- RIDE_THROUGH_REDUCED: the bus crosses 9.6 V, or 9.0 V, during a dip. -/
def doRideThroughReduced (mv : Nat) (s : State) : State :=
  if mv < 9000 then doBrownout s
  else if !s.power.dip then s
  else
    let s := fput s 24 0 Fl.PWR_INPUT_MILLIVOLTS mv
    budget { s with power := { s.power with busMv := if mv < 9600 then 600 else 0 } }

def execRideThroughReduced (mv : Nat) (s : State) : Host.Outcome State Fault Refusal := .next (doRideThroughReduced mv s)

/-- DIP_END: event 0x0F61 with the lowest voltage and the duration; a dip of more than 2 ms has been a brownout. -/
def doDipEnd (lowestMv durationUs : Nat) (s : State) : State :=
  if !s.power.dip then s
  else if 2000 < durationUs then doBrownout s
  else
    let s := fput s 24 0 Fl.PWR_STATUS_RIDE_THROUGH 0
    let s := raise s 0x0F61 1 pwrUnit 0 (BitVec.ofNat 128 (lowestMv % 2 ^ 16 + durationUs % 2 ^ 32 * 2 ^ 16))
    budget { s with power := { s.power with dip := false, busMv := 0 } }

def execDipEnd (lowestMv durationUs : Nat) (s : State) : Host.Outcome State Fault Refusal := .next (doDipEnd lowestMv durationUs s)

/-! ### The fast loop and the ceiling (R417, R422, R423) -/

/-- FAST_LOOP: the domains and the input are measured. An excursion begins and ends with the crossing of the sustained ceiling; one
above 4,300 W, longer than 10 ms, or begun within 90 ms of the last one's end sets the clamp. -/
def doFastLoop (p : PowerSample) (s : State) : State :=
  let s := takeSample s p
  let watts := p.inputW
  let now := s.time.toNat
  if watts ≤ sustainedW s then
    if s.power.overSince.isNone then s
    else fput { s with power := { s.power with overSince := none, excursionEnd := some now } } 24 0 Fl.PWR_STATUS_EXCURSION 0
  else
    let begun := s.power.overSince.getD now
    let s := if s.power.overSince.isSome then s
      else fsat (fput s 24 0 Fl.PWR_STATUS_EXCURSION 1) 24 0 Fl.PWR_STATUS_EXCURSIONS 1
    let early := s.power.excursionEnd.any fun e => decide (begun < e + 90000000)
    let s : State := { s with power := { s.power with overSince := some begun } }
    if 4300 < watts ∨ begun + 10000000 < now ∨ early then
      showPower (setAllPairs { s with power := { s.power with clampMv := 600 } })
    else s

def execFastLoop (p : PowerSample) (s : State) : Host.Outcome State Fault Refusal := .next (doFastLoop p s)

/-- POWER_CEILING_UNMET: the condition has lasted for 10 ms: event 0x0F60, once per second while it lasts. -/
def doPowerCeilingUnmet (s : State) : State :=
  let now := s.time.toNat
  if !s.power.unmetSince.any fun t => decide (t + 10000000 ≤ now) then s
  else
  let s := fput s 24 0 Fl.PWR_STATUS_UNMET 1
  if s.power.unmetRaised.any fun t => decide (now < t + 1000000000) then s
  else raise { s with power := { s.power with unmetRaised := some now } } 0x0F60 2 pwrUnit

def execPowerCeilingUnmet (s : State) : Host.Outcome State Fault Refusal := .next (doPowerCeilingUnmet s)

/-- CAP_REQ_ASSERT: the pin counts from step 5 of the start-up on (R417, R534). -/
def doCapReqAssert (s : State) : State :=
  let s : State := { s with pins := { s.pins with capReqN := false } }
  if fget s 24 0 Fl.BOOT_STATUS_STAGE < 5 then s
  else fput { s with power := { s.power with capReq := true } } 24 0 Fl.PWR_STATUS_CAP_REQ 1

def execCapReqAssert (s : State) : Host.Outcome State Fault Refusal := .next (doCapReqAssert s)

def doCapReqRelease (s : State) : State :=
  fput { s with pins := { s.pins with capReqN := true }, power := { s.power with capReq := false } } 24 0 Fl.PWR_STATUS_CAP_REQ 0

def execCapReqRelease (s : State) : Host.Outcome State Fault Refusal := .next (doCapReqRelease s)

/-! ### Thermal control (R403, R428 to R431) -/

/-- Tmax of a die in 0.1 °C (R428). -/
def tMax (d : Nat) : Nat := if dieType d = 1 then 950 else 1050

/-- Millivolts, down to a step of 5 mV. -/
def step5 (mv : Nat) : Nat := mv / 5 * 5

/-- How far a die is in its band, 0 to 50 tenths of a degree (R429). -/
def bandOf (d t : Nat) : Nat := min 50 (t - (tMax d - 50))

/-- Set the controls of a die for a temperature (R429). -/
def setLimits (s : State) (d t : Nat) : State :=
  let x := bandOf d t
  let p := s.power
  match dieType d with
  | 0 => setDiePairs { s with power := { p with thermalMv := smPut p.thermalMv d (step5 (900 - 6 * x)) } } d
  | 2 =>
    setCaps { s with power := { p with thermalCap := if x = 0 then smDel p.thermalCap d else smPut p.thermalCap d x } }
  | 3 => { s with power := { p with thermalFinder := smPut p.thermalFinder d (max 1 (8 - (7 * x + 49) / 50)) } }
  | 4 => { s with power := { p with mediaPaused := (List.range 12).foldl (fun m i => smPut m (12 * d + i) (decide (i < 12 * x / 50))) p.mediaPaused } }
  | _ => s

/-- A limit tightens at once and is lifted once the die has cooled by 1 °C from where it was set (R403, R429). -/
def mustSet (s : State) (d t : Nat) : Bool :=
  match smGet s.power.limitSetAt d with
  | none => true
  | some a => decide (a ≤ t) || decide (t + 10 ≤ a)

def noteSet (s : State) (d t : Nat) : State := { s with power := { s.power with limitSetAt := smPut s.power.limitSetAt d t } }

/-- The die nearest its Tmax, THERM_ALERT_N (R431). -/
def showTherm (s : State) : State :=
  let l := s.power.lastTemp
  let gap (p : Nat × Nat) : Int := (tMax p.1 : Int) - p.2
  let best := l.foldl (fun (b : Option (Nat × Nat)) p => match b with
    | none => some p
    | some q => if gap p < gap q then some p else some q) none
  let hot := l.any fun p => decide (tMax p.1 ≤ p.2)
  let cool := l.all fun p => decide (p.2 + 20 ≤ tMax p.1)
  let drive := if hot then true else if cool then false else s.pins.thermAlertDriven
  let s : State := { s with pins := { s.pins with thermAlertDriven := drive } }
  let s := fput s 24 0 Fl.PWR_THERM_ALERT (b2n drive)
  match best with
  | none => s
  | some p => fput (fput s 24 0 Fl.PWR_THERM_HOTTEST_DIE p.1) 24 0 Fl.PWR_THERM_HOTTEST_C (p.2 / 10)

/-- Event 0x0F63, the first time in each second that a die reaches Tmax (R429). -/
def limitEvent (s : State) (d t : Nat) : State :=
  let sec := s.time.toNat / 1000000000
  if t < tMax d ∨ smGet s.power.thermalRaised d = some sec then s
  else
    let s : State := { s with power := { s.power with thermalRaised := smPut s.power.thermalRaised d sec } }
    raise (fsat s 24 0 Fl.PWR_THERM_LIMIT_EVENTS 1) 0x0F63 1 (unitId d 0 0)

/-- THERMAL_SAMPLE of a die in 0.1 °C. -/
def doThermalSample (d t : Nat) (s : State) : State :=
  if 25 ≤ d then s
  else
    let s : State := { s with power := { s.power with lastTemp := smPut s.power.lastTemp d t } }
    let s := limitEvent s d t
    let s := if dieType d ≠ 1 ∧ mustSet s d t then setLimits (noteSet s d t) d t else s
    showPower (showTherm s)

def execThermalSample (die deciC : Nat) (s : State) : Host.Outcome State Fault Refusal := .next (doThermalSample die deciC s)

/-- The voltage limit of R403 for a near-store temperature in 0.1 °C. -/
def nearLimit (t : Nat) : Nat := if t < 900 then 900 else if 950 ≤ t then 600 else step5 (900 - 6 * (t - 900))

/-- NS_THERMAL_SAMPLE of near-store die 8 + d (R403). -/
def doNsThermalSample (die t : Nat) (s : State) : State :=
  if die < 8 ∨ 16 ≤ die then s
  else
    let d := die - 8
    let s := fput s d 0 Fl.LNK_STACK_THERMAL_NS_TEMP_C (t / 10)
    if !mustSet s die t then s
    else
      let mv := nearLimit t
      let s := noteSet s die t
      let s := fput s d 0 Fl.LNK_STACK_THERMAL_VLIMIT_MV mv
      let s := if mv < 900 then fsat s d 0 Fl.LNK_STACK_THERMAL_ENTRIES 1 else s
      setDiePairs { s with power := { s.power with nearMv := smPut s.power.nearMv d mv } } d

def execNsThermalSample (die deciC : Nat) (s : State) : Host.Outcome State Fault Refusal := .next (doNsThermalSample die deciC s)

/-- The matrix die whose engines a die's gate holds, and whether its voltage is at the floor (R430). -/
def gateDie (s : State) (d : Nat) : Option (Nat × Bool) :=
  if d < 8 then some (d, smGetD s.power.thermalMv 900 d == 600)
  else if d < 16 then some (d - 8, smGetD s.power.nearMv 900 (d - 8) == 600)
  else none

/-- THERMAL_GATE_STEP (R430). -/
def doThermalGateStep (d t : Nat) (s : State) : State :=
  match gateDie s d with
  | none => s
  | some (m, floor) =>
    let g := smGetD s.power.thermalGate 0 d
    let n := if tMax d ≤ t ∧ floor then min 7 (g + 1) else if t + 10 ≤ tMax d then g - 1 else g
    showPower (setDiePairs { s with power := { s.power with thermalGate := smPut s.power.thermalGate d n } } m)

def execThermalGateStep (die deciC : Nat) (s : State) : Host.Outcome State Fault Refusal := .next (doThermalGateStep die deciC s)

/-! ### Domains (R413) -/

/-- PAIR_IDLE_OFF: the pair's domain switches off, and its operand stores lose their contents. -/
def doPairIdleOff (d p : Nat) (s : State) : State :=
  let busy (e : Nat) : Bool := fget s d e Fl.ENG_STATUS_PLACED == 1 || (getEng s d e).testing
  if 8 ≤ d ∨ 17 ≤ p ∨ fget s d 0 Fl.PWD_IDLE_IDLE_US = 0 ∨ busy (2 * p) ∨ busy (2 * p + 1) ∨ fget s d p Fl.PWD_PAIR_STATE = 0 then s
  else
    let s := countHandshakes (countHandshakes s d (2 * p)) d (2 * p + 1)
    let s := rput (advance s d p Fl.PWD_ENERGY_MICROJOULES) d .pwdPair p 0
    let lose (s : State) (e : Nat) : State :=
      modEng { s with ostore := memClear s.ostore (osKey d e 0) (osKey d (e + 1) 0) } d e fun y => { y with dirty := true }
    lose (lose s (2 * p)) (2 * p + 1)

def execPairIdleOff (die pair : Nat) (s : State) : Host.Outcome State Fault Refusal := .next (doPairIdleOff die pair s)

/-- Whether every unit of a port domain is disabled (R413, R436, R469). A root port counts as disabled while its link is
absent or down. -/
def domIdle (s : State) (pd k : Nat) : Bool :=
  let eth (i : Nat) : Bool := fget s pd i Fl.NET_PORT_CFG_ENABLE == 0
  let pipe (i : Nat) : Bool := fget s pd i Fl.MED_PIPE_ENABLE == 0 && fget s pd i Fl.MED_PIPE_STATE == 0
  match k with
  | 0 => eth 0 && eth 1
  | 1 => eth 2 && eth 3
  | 2 => (List.range 8).all fun r => decide (fget s pd r Fl.PCI_RP_STATE_STATE ≤ 1)
  | 3 => (List.range 8).all pipe
  | _ => (List.range 4).all fun i => pipe (8 + i)

/-- A write of PWR_DOMAIN: a port domain 0 to 4 goes off or on, any other unit is a selection, which requests nothing (R413). -/
def doPwrDomainOffReq (unit : Nat) (off : Bool) (s : State) : State :=
  let pd := unit / 2048
  let k := unit % 256
  let s := fput (fput s 24 0 Fl.PWR_DOMAIN_UNIT unit) 24 0 Fl.PWR_DOMAIN_OFF_REQ (b2n off)
  if dieType pd ≠ 4 ∨ unit / 256 % 8 ≠ 7 ∨ 4 < k then s
  else if off ∧ !domIdle s pd k then fput s 24 0 Fl.PWR_DOMAIN_REJECTED 1
  else
    let l := s.power.domOff.filter (· != unit)
    fput { s with power := { s.power with domOff := if off then insertNat l unit else l } } 24 0 Fl.PWR_DOMAIN_REJECTED 0

def execPwrDomainOffReq (unit : Nat) (off : Bool) (s : State) : Host.Outcome State Fault Refusal := .next (onDie s 24 fun s => doPwrDomainOffReq unit off s)

/-- Millivolts of a host core group: the lowest voltage that supports the highest effective frequency of its online cores
(R412, R415). -/
def coreGroupMv (s : State) (d k : Nat) : Nat :=
  let up := ((List.range 10).map (10 * k + ·)).filter fun c => coreUp s d c
  650 + (Config.coreGroupMv ((up.map fun c => fget s d c Fl.CORE_FREQ_EFFECTIVE).foldl max 0)).toNat % 401

/-- A domain that a reset keeps off: before step 5 of a power-on start every one but the system die's, of which those after the
first come on at step 1 (R408, R482); and a partition's during its full reset (R413, log 182). -/
def resetOff (s : State) (d k : Nat) : Bool :=
  s.rst.deadDies.contains d || (diePart s d).any s.rst.parts.contains ||
    s.rst.kind == .powerOn && (d != 24 || 0 < k && fget s 24 0 Fl.BOOT_STATUS_STAGE == 0)

/-- The state and the voltage in mV that PWR_DOMAIN reports for a unit of group 7 (R412, R544). -/
def domainView (s : State) (unit : Nat) : Nat × Nat :=
  let d := unit / 2048
  let k := unit % 256
  let plateMv := ((s.rst.plate.bind fun p => (p.domainMv.find? (·.1 == unit)).map (·.2))).getD 750
  if unit / 256 % 8 ≠ 7 ∨ resetOff s d k then (0, 0)
  else match dieType d with
    | 0 => if k < 17 then (fget s d k Fl.PWD_PAIR_STATE, fget s d k Fl.PWD_PAIR_VOLT_MV) else if k = 17 then (2, 750) else (0, 0)
    | 1 => if k < 4 then (2, 700) else (0, 0)
    | 2 =>
      if k < 10 then
        if (List.range 10).any fun i => coreUp s d (10 * k + i) then (2, coreGroupMv s d k) else (0, 0)
      else if k < 14 then (2, plateMv) else (0, 0)
    | 3 => if k < 5 then (2, plateMv) else (0, 0)
    | 4 => if 5 < k ∨ s.power.domOff.contains unit then (0, 0) else (2, plateMv)
    | _ => if k < 4 then (2, plateMv) else (0, 0)

/-- PWR_LEARN_FLUSH (R419). -/
def doPwrLearnFlush (s : State) : State :=
  fput { s with power := { s.power with learn := [] } } 24 0 Fl.PWR_LEARN_ENTRIES 0

def execPwrLearnFlush (s : State) : Host.Outcome State Fault Refusal := .next (onDie s 24 fun s => doPwrLearnFlush s)

/-! ### Jobs across devices (R425 to R427, R449) -/

def jobId (s : State) : Nat := fget s 24 0 Fl.PWR_JOB_CTL_JOB_ID
def jobOn (s : State) : Bool := fget s 24 0 Fl.PWR_JOB_CTL_ENABLE == 1
def coordinator (s : State) : Bool := jobOn s && fget s 24 0 Fl.PWR_JOB_CTL_COORDINATOR == 1
def grantW (s : State) : Nat := fget s 24 0 Fl.PWR_JOB_STATUS_GRANT_W

/-- The coordinator takes a report: a device that reports first is a member whose budget is its grant. -/
def takeReport (s : State) (dev slack watts grant : Nat) : State :=
  let p := s.power
  { s with power := { p with
    reports := smPut p.reports dev (slack, watts, grant)
    reportAt := smPut p.reportAt dev s.time.toNat
    budgets := if (smGet p.budgets dev).isSome then p.budgets else smPut p.budgets dev grant
    grants := if (smGet p.grants dev).isSome then p.grants else smPut p.grants dev grant } }

/-- SLACK_REPORT. The spec names no register that holds the coordinator's device ID, so a member's report goes to a free
device (log 73). -/
def doSlackReport (slackNs watts : Nat) (s : State) : State :=
  if !jobOn s then s
  else
    let s := fput s 24 0 Fl.PWR_JOB_STATUS_SLACK_US (slackNs / 1000)
    let me := deviceId s
    if coordinator s then takeReport s me slackNs watts (grantW s)
    else
      let q := drawBelow s 4096
      let payload := leBytes 2 me ++ leBytes 2 0 ++ leBytes 4 slackNs ++ leBytes 2 watts ++ leBytes 2 (grantW s)
      (fabricSend q.2 kSlack q.1 0 (BitVec.ofNat 64 (jobId s)) payload).getD q.2

def execSlackReport (slackNs watts : Nat) (s : State) : Host.Outcome State Fault Refusal := .next (doSlackReport slackNs watts s)

/-- Set this device's grant. -/
def setGrant (s : State) (w : Nat) : State := fput s 24 0 Fl.PWR_JOB_STATUS_GRANT_W w

/-- Send a member its grant. -/
def sendGrant (s : State) (dev w : Nat) : State :=
  if dev = deviceId s then setGrant s w
  else (fabricSend s kGrant dev 0 (BitVec.ofNat 64 (jobId s)) (leBytes 2 w)).getD s

/-- The report of the highest slack and the one of the lowest, the lower device first on ties. -/
def extremes (l : SMap (Nat × Nat × Nat)) : Option ((Nat × Nat) × (Nat × Nat)) :=
  l.foldl (fun (b : Option ((Nat × Nat) × (Nat × Nat))) p => match b with
    | none => some ((p.1, p.2.1), (p.1, p.2.1))
    | some (h, c) => some (if h.2 < p.2.1 then (p.1, p.2.1) else h, if p.2.1 < c.2 then (p.1, p.2.1) else c)) none

/-- GRANT_DISTRIBUTION (R426, R427): a member missed for 10 ms is left out. -/
def doGrantDistribution (s : State) : State :=
  let p := s.power
  let late (d : Nat) : Bool := decide (smGetD p.reportAt 0 d + 10000000 ≤ s.time.toNat)
  let waiting := p.budgets.any fun b => (smGet p.reports b.1).isNone && !late b.1
  if !coordinator s ∨ waiting then s
  else match extremes p.reports with
    | none => s
    | some (h, c) =>
      let missed := (p.budgets.filter fun b => (smGet p.reports b.1).isNone).length
      let gh := smGetD p.grants 0 h.1
      let m := min (fget s 24 0 Fl.PWR_JOB_CTL_STEP_W) (gh - (smGetD p.budgets 0 h.1 + 9) / 10)
      let grants :=
        if c.2 + 50000 ≤ h.2 then smPut (smPut p.grants h.1 (gh - m)) c.1 (smGetD p.grants 0 c.1 + m) else p.grants
      let s := fsat { s with power := { p with grants := grants, reports := [] } } 24 0 Fl.PWR_JOB_STATUS_MISSED missed
      grants.foldl (fun s g => sendGrant s g.1 g.2) s

def execGrantDistribution (s : State) : Host.Outcome State Fault Refusal := .next (doGrantDistribution s)

/-- JOB_COORDINATOR_LOST (R427). -/
def doJobCoordinatorLost (s : State) : State :=
  if !jobOn s ∨ coordinator s then s
  else
    let s := setGrant s (fget s 24 0 Fl.PWR_JOB_CTL_BUDGET_W)
    raise (fsat s 24 0 Fl.PWR_JOB_STATUS_MISSED 1) 0x0F62 1 pwrUnit

def execJobCoordinatorLost (s : State) : Host.Outcome State Fault Refusal := .next (doJobCoordinatorLost s)

end Sys2Proof.Machine
end

