-- ==== Sys2Proof/Machine/Network.lean ====
section
/-! DEFINITION. The Ethernet ports in Agaelen fabric mode: hops, remote accesses, fabric counters, probes, and the frames of
the job coordinator (R435, R436, R442 to R449). -/

namespace Sys2Proof.Machine

/-! ### Ends of remote requests (R245, R445, R447) -/

/-- Forget a remote request. -/
def forgetRemote (s : State) (r : RemoteReq) : State := { s with net := { s.net with remotes := s.net.remotes.erase r } }

/-- A remote request ends in an error: 0x0711 for a SIGNAL or WAIT, 0x0311 for a read or write. The write of a move that was
cancelled ends nothing. -/
def failRemote (s : State) (r : RemoteReq) : State :=
  let s := forgetRemote s r
  if r.kind = kOrphan then s
  else if r.kind = kSignal ∨ r.kind = kWait then
    match r.req with
    | .agent a c q => launchErr (holdAgent s a .stopped) c q 0x0711 0
    | .cmd _ _ => s
    | .pin _ _ => s
    | .qp _ _ => s
  else failAccess s r 0x0311

/-- The egress port of this device's requests to another. -/
def egress (s : State) (dev : Nat) : Option Nat := (localRoute s dev).map (fldOf Fl.NET_ROUTE_PORT)

/-- A port has not yet brought a frame to its next hop. -/
def unsent (x : FabricPort) (kind tag : Nat) : Bool :=
  (x.tx.any fun t => t.kind == kind && t.frame.tag == tag) || x.queue.any fun t => t.1 == kind && t.2.tag == tag

/-- A port goes down: it keeps nothing to retransmit, and the requests that went out by it end (R445). A SIGNAL, which has no response,
fails where its frame is still at the port (R447). -/
def portDown (s : State) (p state : Nat) : State :=
  let x := getFab s p
  let s := fput s (22 + p / 4) (p % 4) Fl.NET_PORT_STATE_STATE state
  let s := putFab s p { FabricPort.fresh with out := x.out }
  settleStalls ((s.net.remotes.filter fun r =>
    r.dev != deviceId s && !r.done && egress s r.dev == some p && (r.kind != kSignal || unsent x kSignal r.tag)).foldl failRemote s)

/-- The unit ID of an Ethernet port. -/
def portUnit (p : Nat) : Nat := unitId (22 + p / 4) 1 (p % 4)

/-! ### Hops (R444) -/

/-- Frames before `n` have been acknowledged. -/
def ackTo (s : State) (p n : Nat) : State :=
  let x := getFab s p
  match x.tx with
  | [] => s
  | t :: _ =>
    let k := (n + 2 ^ 32 - t.frame.seq) % 2 ^ 32
    if k ≤ x.tx.length then putFab s p { x with tx := x.tx.drop k } else s

/-- Accept and acknowledge a frame that arrives in order; any other is discarded, and one of more than 8,192 payload bytes is no
frame (R443, R444). -/
def takeFrame (s : State) (p : Nat) (f : Frame) : Option State :=
  let x := getFab s p
  if fabricUp s p ∧ f.seq = x.rxSeq ∧ f.payload.length ≤ 8192 then
    some (hopAck (ackTo (putFab s p { x with rxSeq := (x.rxSeq + 1) % 2 ^ 32 }) p f.ack) p)
  else none

/-- A frame addressed to this device. -/
def receiveFrame (s : State) (p : Nat) (f : Frame) (k : State → State) : State :=
  if f.dst ≠ deviceId s ∨ deviceId s = 0 then s
  else match takeFrame s p f with
    | none => s
    | some t => k t

/-- Answer a frame. -/
def reply (s : State) (f : Frame) (kind : Nat) (arg : BitVec 64) (payload : List Byte) : State :=
  (fabricSend s kind f.src f.tag arg payload).getD s

def execAck (port seq : Nat) (s : State) : Host.Outcome State Fault Refusal :=
  .next (if fabricUp s port then ackTo s port seq else s)

/-- HOP_RETRANSMIT: every frame from the first unacknowledged one is sent again; a frame that has been sent again 16 times
takes the port down. -/
def doHopRetransmit (p : Nat) (s : State) : State :=
  let x := getFab s p
  match x.tx with
  | [] => s
  | t :: _ =>
    if !fabricUp s p then s
    else if t.tries < 16 then
      fsat (putFab s p { x with
        tx := x.tx.map fun y => { y with tries := y.tries + 1 }
        out := x.out ++ x.tx.map fun y => frameBytes s p y.kind y.frame }) (22 + p / 4) (p % 4)
        Fl.NET_PORT_STATE_RETRANSMITS x.tx.length
    else raise (portDown s p 1) 0x0703 2 (portUnit p)

def execHopRetransmit (port : Nat) (s : State) : Host.Outcome State Fault Refusal := .next (doHopRetransmit port s)

/-- FRAME_FORWARD: by this device's route to the destination, or dropped where TTL reaches 0 (R442, R443). -/
def doFrameForward (p kind : Nat) (f : Frame) (s : State) : State :=
  if f.dst = deviceId s then s
  else match takeFrame s p f with
    | none => s
    | some s =>
      if f.ttl ≤ 1 then fsat s (22 + p / 4) (p % 4) Fl.NET_PORT_STATE_TTL_DROPS 1
      else match egress s f.dst with
        | some e => if fabricUp s e then hopSend s e kind { f with ttl := f.ttl - 1 } else s
        | none => s

def execFrameForward (port kind : Nat) (f : Frame) (s : State) : Host.Outcome State Fault Refusal :=
  .next (doFrameForward port kind f s)

/-! ### Remote reads and writes (R445) -/

/-- Memory that the fabric and PCIe reach: lines with a home, which accept accesses (R341, R365). -/
def hasHome (s : State) (a : Nat) : Bool := accepts s a && match paKind s a with
  | .ddr => true
  | .hbm _ => true
  | .far => farUp s a
  | _ => false

/-- Whether a range lies in the export window of a port's die. -/
def exported (s : State) (p a n : Nat) : Bool :=
  let pd := 22 + p / 4
  fget s pd 0 Fl.NET_EXPORT_ENABLE == 1 && decide (0 < n) && decide (fget s pd 0 Fl.NET_EXPORT_FIRST_GIB ≤ a / gib) &&
    decide ((a + n - 1) / gib ≤ fget s pd 0 Fl.NET_EXPORT_LAST_GIB) && (linesOf a n).all (hasHome s)

/-- READ_REQ: one line, as RD_NC. -/
def doReadReq (p : Nat) (f : Frame) (s : State) : State :=
  receiveFrame s p f fun s =>
    let a := lineOf f.arg.toNat
    if !exported s p a 64 then reply s f kErrorResp f.arg []
    else
      let q := ncRead s a 64
      if poisoned q.2 a then reply q.2 f kErrorResp f.arg [] else reply q.2 f kReadResp f.arg q.1

def execReadReq (port : Nat) (f : Frame) (s : State) : Host.Outcome State Fault Refusal := .next (doReadReq port f s)

/-- FABRIC_WRITE: as WR_FULL or WR_PART line by line. -/
def doFabricWrite (p : Nat) (f : Frame) (s : State) : State :=
  receiveFrame s p f fun s =>
    if !exported s p f.arg.toNat f.payload.length then reply s f kErrorResp f.arg []
    else
      let q := ncWrite s f.arg.toNat f.payload
      reply q.2 f (if q.1 then kErrorResp else kWriteAck) f.arg []

def execFabricWrite (port : Nat) (f : Frame) (s : State) : Host.Outcome State Fault Refusal := .next (doFabricWrite port f s)

/-- The outstanding request that a response answers. -/
def awaited (s : State) (f : Frame) (p : RemoteReq → Bool) : Option RemoteReq :=
  s.net.remotes.find? fun r => r.tag == f.tag && r.dev == f.src && !r.done && p r

/-- The request's response has come. -/
def markDone (s : State) (r : RemoteReq) (data : List Byte) : State :=
  { s with net := { s.net with remotes := s.net.remotes.map fun x => if x = r then { x with done := true, data := data } else x } }

def doReadResp (p : Nat) (f : Frame) (s : State) : State :=
  receiveFrame s p f fun s =>
    match awaited s f (fun r => r.kind == kReadReq && f.payload.length == 64) with
    | some r => markDone s r f.payload
    | none => s

def execReadResp (port : Nat) (f : Frame) (s : State) : Host.Outcome State Fault Refusal := .next (doReadResp port f s)

/-- WRITE_ACK: the write has landed; one whose move was cancelled is forgotten (R155). -/
def doWriteAck (p : Nat) (f : Frame) (s : State) : State :=
  receiveFrame s p f fun s =>
    match awaited s f (fun r => r.kind == kWrite || r.kind == kOrphan) with
    | some r => if r.kind = kOrphan then forgetRemote s r else markDone s r []
    | none => s

def execWriteAck (port : Nat) (f : Frame) (s : State) : Host.Outcome State Fault Refusal := .next (doWriteAck port f s)

/-- ERROR_RESP: the request ends. One that answers a SIGNAL with 0x0121 in ARG says that the counter would overflow (R141,
log 83). -/
def doErrorResp (p : Nat) (f : Frame) (s : State) : State :=
  receiveFrame s p f fun s =>
    match awaited s f (fun _ => true) with
    | none => s
    | some r =>
      if r.kind = kSignal ∧ f.arg = 0x0121 then
        let t : State := { s with net := { s.net with remotes := s.net.remotes.erase r } }
        match r.req with
        | .agent _ c q => launchErr t c q 0x0121 r.detail
        | .cmd _ _ => t
        | .pin _ _ => t
        | .qp _ _ => t
      else settleStalls (failRemote s r)

def execErrorResp (port : Nat) (f : Frame) (s : State) : Host.Outcome State Fault Refusal := .next (doErrorResp port f s)

/-! ### Fabric counters (R446, R447) -/

def argCounter (f : Frame) : Nat := f.arg.toNat % 2 ^ 32
def argAmount (f : Frame) : Nat := f.arg.toNat / 2 ^ 32

/-- FABRIC_SIGNAL: the counter rises and the WAITs that it satisfies are released; an overflow leaves it unchanged. -/
def doFabricSignal (p : Nat) (f : Frame) (s : State) : State :=
  receiveFrame s p f fun s =>
    if 4096 ≤ argCounter f then reply s f kErrorResp 0 []
    else match fabricAdd s (argCounter f) (argAmount f) with
      | some s => s
      | none => reply s f kErrorResp 0x0121 []

def execFabricSignal (port : Nat) (f : Frame) (s : State) : Host.Outcome State Fault Refusal := .next (doFabricSignal port f s)

/-- FABRIC_WAIT: registered, and released at once where the counter is already at the value. -/
def doFabricWait (p : Nat) (f : Frame) (s : State) : State :=
  receiveFrame s p f fun s =>
    let i := argCounter f
    if 4096 ≤ i then reply s f kErrorResp 0 []
    else
      let x := getFctr s i
      wakeFabric (putFctr s i { x with waits := x.waits ++ [(f.src, f.tag, argAmount f)] }) i

def execFabricWait (port : Nat) (f : Frame) (s : State) : Host.Outcome State Fault Refusal := .next (doFabricWait port f s)

/-- RELEASE: the waiting engine or stream goes on. -/
def doRelease (p : Nat) (f : Frame) (s : State) : State :=
  receiveFrame s p f fun s =>
    match awaited s f (fun r => r.kind == kWait) with
    | none => s
    | some r =>
      let t : State := { s with net := { s.net with remotes := s.net.remotes.erase r } }
      match r.req with
      | .agent a _ _ => match agentAt t a with
        | some (_, _, _, .remote _ _) => advanceAgent (acquireRemote t a) a
        | _ => t
      | .cmd _ _ => t
      | .pin _ _ => t
      | .qp _ _ => t

def execRelease (port : Nat) (f : Frame) (s : State) : Host.Outcome State Fault Refusal := .next (doRelease port f s)

/-- NET_FCTR_VAL: a write sets the counter. -/
def doNetFctrVal (pd counter : Nat) (value : BitVec 32) (s : State) : State :=
  let i := (pd - 22) * 2048 + counter
  wakeFabric (putFctr s i { getFctr s i with value := value.toNat }) i

def execNetFctrVal (pd counter : Nat) (value : BitVec 32) (s : State) : Host.Outcome State Fault Refusal :=
  .next (onDie s pd fun s => doNetFctrVal pd counter value s)

/-! ### Job frames (R449) -/

/-- A frame of this device's job. -/
def ofJob (s : State) (f : Frame) : Bool := jobOn s && f.arg.toNat == jobId s

def payloadField (f : Frame) (lo n : Nat) : Nat := leNat ((f.payload.drop lo).take n)

/-- SLACK: the coordinator takes the report of a member. -/
def doSlack (p : Nat) (f : Frame) (s : State) : State :=
  receiveFrame s p f fun s =>
    if coordinator s ∧ ofJob s f then
      takeReport s (payloadField f 0 2) (payloadField f 4 4) (payloadField f 8 2) (payloadField f 10 2)
    else s

def execSlack (port : Nat) (f : Frame) (s : State) : Host.Outcome State Fault Refusal := .next (doSlack port f s)

/-- GRANT: the member takes its new grant. -/
def doGrant (p : Nat) (f : Frame) (s : State) : State :=
  receiveFrame s p f fun s => if ofJob s f then setGrant s (payloadField f 0 2) else s

def execGrant (port : Nat) (f : Frame) (s : State) : Host.Outcome State Fault Refusal := .next (doGrant port f s)

/-! ### Probes (R448) -/

/-- Send a PROBE on one route of one port die and remember when. -/
def probeRoute (s : State) (key : Nat) (w : BitVec 64) : State :=
  let p := fldOf Fl.NET_ROUTE_PORT w
  if !fabricUp s p then s
  else
    let tag := s.net.nextTag
    let s := hopSend s p kProbe ⟨deviceId s, key % 4096, fldOf Fl.NET_ROUTE_HOPS w, 0, 0, tag, 0, []⟩
    { s with net := { s.net with
      nextTag := (tag + 1) % 2 ^ 32
      probes := s.net.probes.filter (fun x => x.2.1 != key) ++ [(tag, key, s.time.toNat)] } }

def doRouteProbe (s : State) : State :=
  (s.net.routes.filter fun r => fldOf Fl.NET_ROUTE_VALID r.2 == 1).foldl (fun s r => probeRoute s r.1 r.2) s

def execRouteProbe (s : State) : Host.Outcome State Fault Refusal := .next (doRouteProbe s)

def execProbeFrame (port : Nat) (f : Frame) (s : State) : Host.Outcome State Fault Refusal :=
  .next (receiveFrame s port f fun s => reply s f kProbeResp f.arg [])

/-- PROBE_RESP: LATENCY_NS of the route becomes half the round trip. -/
def doProbeResp (p : Nat) (f : Frame) (s : State) : State :=
  receiveFrame s p f fun s =>
    match s.net.probes.find? fun x => x.1 == f.tag && x.2.1 % 4096 == f.src with
    | none => s
    | some x =>
      let w := smGetD s.net.routes 0 x.2.1
      let ns := min ((s.time.toNat - x.2.2) / 2) (2 ^ 32 - 1)
      { s with net := { s.net with
        routes := smPut s.net.routes x.2.1 (fldSet Fl.NET_ROUTE_LATENCY_NS w ns)
        probes := s.net.probes.erase x } }

def execProbeResp (port : Nat) (f : Frame) (s : State) : Host.Outcome State Fault Refusal := .next (doProbeResp port f s)

/-! ### Port links (R435, R436, R442) -/

/-- A port between commands: the first frame that waits leaves, or the link partner pauses a free set of the priorities under PFC,
as a free choice (R435, R449). -/
def portTick (s : State) : State :=
  let n := drawBelow s 16
  let p := n.1 % 8
  if fget n.2 (22 + p / 4) (p % 4) Fl.NET_PORT_STATE_STATE ≠ 2 then n.2
  else if n.1 < 8 then hopLeave n.2 p
  else
    let m := drawBelow n.2 256
    putFab m.2 p { getFab m.2 p with paused := m.1 &&& fget s (22 + p / 4) (p % 4) Fl.NET_PORT_CFG_PFC_MASK }

/-- NET_PORT_LINK_UP: an enabled port that is down comes up with its partner; device ID 0 refuses Agaelen mode, and a port die
without its clock keeps its ports down (R533). -/
def doNetPortLinkUp (p peer : Nat) (s : State) : State :=
  let pd := 22 + p / 4
  let i := p % 4
  let agaelen := fget s pd i Fl.NET_PORT_CFG_MODE = 1
  if fget s pd i Fl.NET_PORT_CFG_ENABLE = 0 ∨ fget s pd i Fl.NET_PORT_STATE_STATE ≠ 1 ∨ (agaelen ∧ deviceId s = 0) ∨
      !s.pins.clocks.getLsbD (2 + p / 4) then s
  else
    let s := fput s pd i Fl.NET_PORT_STATE_STATE 2
    putFab (fput s pd i Fl.NET_PORT_STATE_PEER (if agaelen then peer else 0)) p FabricPort.fresh

def execNetPortLinkUp (port peer : Nat) (s : State) : Host.Outcome State Fault Refusal := .next (doNetPortLinkUp port peer s)

/-- NET_PORT_LINK_DOWN: an enabled port loses its partner. -/
def doNetPortLinkDown (p : Nat) (s : State) : State :=
  if fget s (22 + p / 4) (p % 4) Fl.NET_PORT_STATE_STATE = 2 then portDown s p 1 else s

def execNetPortLinkDown (port : Nat) (s : State) : Host.Outcome State Fault Refusal := .next (doNetPortLinkDown port s)

end Sys2Proof.Machine
end

