-- ==== Sys2Proof/Machine/Rdma.lean ====
section
/-! DEFINITION. RoCEv2 queue pairs: their records, the requests that they carry out, and what their peers send (R435 to
R441). -/

namespace Sys2Proof.Machine

/-- An Ethernet port that is up in Ethernet mode (R436). -/
def ethUp (s : State) (p : Nat) : Bool :=
  fget s (22 + p / 4) (p % 4) Fl.NET_PORT_STATE_STATE == 2 && fget s (22 + p / 4) (p % 4) Fl.NET_PORT_CFG_MODE == 0

/-- Little-endian field of a record: first byte and size. -/
def recField (w : List Byte) (lo n : Nat) : Nat := leNat ((w.drop lo).take n)

/-- The rate at which a queue pair starts, in Gb/s: its port's (log 80). -/
def qpStartRate : Nat := 800

/-- The queue pair that a record describes (R438). -/
def parseQp (w : List Byte) (pa : Nat) : Qp :=
  { state := 1, context := recField w 0 2, ud := recField w 2 1 == 1, port := recField w 3 1
    remoteQpn := recField w 4 3, sqVa := recField w 48 8, sqLog2 := recField w 56 1, rqLog2 := recField w 57 1
    cqLog2 := recField w 58 1, rKey := recField w 60 4, rqVa := recField w 64 8, cqPa := recField w 72 8
    winVa := recField w 80 8, winLen := recField w 88 8, irqVector := recField w 96 2, recordPa := pa
    tail := 0, head := 0, rqHead := 0, cqTail := 0, cqHead := 0, errStatus := 0, stalled := none, rnr := false
    rate := qpStartRate, retransmits := 0, stale := 0, naks := [], cnps := 0, flags := 0, ended := none, held := []
    dstMac := BitVec.ofNat 48 (recField w 40 6), srcGid := BitVec.ofNat 128 (recField w 8 16)
    dstGid := BitVec.ofNat 128 (recField w 24 16), tclass := recField w 46 1, pfcPriority := recField w 47 1 }

def logOk (n : Nat) : Bool := decide (6 ≤ n) && decide (n ≤ 16)

/-- The checks of a record: the limits of R438, a port of this die, and the completion ring under R271. -/
def qpOk (s : State) (pd : Nat) (w : List Byte) (q : Qp) : Bool :=
  decide (recField w 2 1 < 2) && decide (q.port / 4 = pd - 22) && decide (q.port < 8) && logOk q.sqLog2 && logOk q.rqLog2 &&
    logOk q.cqLog2 && decide (q.pfcPriority < 8) && q.cqPa % 4096 == 0 &&
    ringOk s q.context (BitVec.ofNat 64 (q.cqPa + q.cqLog2))

/-- The state of a queue pair (NET_QP_CTL.STATE). -/
def qpState (s : State) (pd n : Nat) : Nat := match getQp s pd n with
  | some q => q.state
  | none => 0

/-- NET_QP_ENABLE: the record is read and the queue pair starts; one that fails its checks leaves it in the error state
(log 81). -/
def doNetQpEnable (pd n : Nat) (record : BitVec 64) (s : State) : State :=
  if qpState s pd n ≠ 0 then s
  else
    let pa := bits record.toNat 47 8 * 256
    let bad := parseQp (List.replicate 256 0) pa
    match paKind s pa with
    | .ddr => match ncFetch s pa 256 with
      | (none, s) => putQp s pd n { bad with state := 2, errStatus := 0x0102 }
      | (some bs, s) =>
        let q := parseQp bs pa
        putQp s pd n (if qpOk s pd bs q then q else { q with state := 2, errStatus := 0x0102 })
    | .hbm _ => putQp s pd n { bad with state := 2, errStatus := 0x0102 }
    | .far => putQp s pd n { bad with state := 2, errStatus := 0x0102 }
    | _ => putQp s pd n { bad with state := 2, errStatus := 0x0210 }

def execNetQpEnable (pd qp : Nat) (record : BitVec 64) (s : State) : Host.Outcome State Fault Refusal :=
  .next (onDie s pd fun s => doNetQpEnable pd qp record s)

/-- NET_QP_DISABLE: the queue pair stops once the request in flight has ended. -/
def doNetQpDisable (pd n : Nat) (s : State) : State :=
  modQp s pd n fun q => { q with state := if q.state = 1 ∧ q.stalled.isSome ∧ q.head ≠ q.tail then 3 else if q.state = 3 then 3 else 0 }

def execNetQpDisable (pd qp : Nat) (s : State) : Host.Outcome State Fault Refusal := .next (onDie s pd fun s => doNetQpDisable pd qp s)

/-- NET_QP_DOORBELL: requests up to TAIL are posted, at most a ring of them; in the error state each completes at once with
the status of the error (R439, R441). -/
def doNetQpDoorbell (pd n tail : Nat) (s : State) : State :=
  match getQp s pd n with
  | none => s
  | some q =>
    if tail < q.tail ∨ q.head + 2 ^ q.sqLog2 < tail then s
    else if q.state = 1 then putQp s pd n { q with tail := tail }
    else if q.state = 2 then settleQp (putQp s pd n { q with tail := tail }) pd n
    else s

def execNetQpDoorbell (pd qp tail : Nat) (s : State) : Host.Outcome State Fault Refusal := .next (onDie s pd fun s => doNetQpDoorbell pd qp tail s)

/-! ### Requests (R439, R440) -/

/-- The current request completes: what it asked of other devices is done with. -/
def endRequest (s : State) (pd n status flags : Nat) : State :=
  match getQp s pd n with
  | none => s
  | some q => modQp (qpRecord (dropRemotes s (.qp pd n)) pd n status flags q.head 0) pd n fun x => { x with
      head := q.head + 1
      retransmits := 0
      flags := 0
      state := if x.state = 3 then 0 else x.state }

/-- A request whose own access is refused: the queue pair goes on where it still runs. -/
def endRefused (s : State) (pd n status flags : Nat) : State :=
  if qpState s pd n = 2 then s else endRequest s pd n status flags

/-- A stamp mismatch: fetched again four times, then the queue pair enters the error state (R278, R439). -/
def qpStale (s : State) (pd n : Nat) (q : Qp) : State :=
  if q.stale < 4 then modQp s pd n fun x => { x with stale := x.stale + 1 }
  else qpError (ctxEvent s q.context 0x0104 2 (BitVec.ofNat 128 q.head)) pd n 0x0104

/-- The link partner has paused a queue pair's priority, which PFC_MASK puts under flow control (R435). -/
def pfcPaused (s : State) (q : Qp) : Bool :=
  (getFab s q.port).paused.testBit q.pfcPriority &&
    (fget s (22 + q.port / 4) (q.port % 4) Fl.NET_PORT_CFG_PFC_MASK).testBit q.pfcPriority

/-- A queue pair that takes a request: running or finishing its last one, not stalled, its port up and not paused, and its completion
ring not full (R440). -/
def takesRequest (s : State) (q : Qp) : Bool × State :=
  if (q.state ≠ 1 ∧ q.state ≠ 3) ∨ q.stalled.isSome ∨ q.ended.isSome ∨ q.head = q.tail ∨ !ethUp s q.port ∨ pfcPaused s q then (false, s)
  else
    let full := ringFull s q
    (!full.1, full.2)

/-- The message of a work request (R438, R439): a UD request names its destination, an RC queue pair's record does. -/
def roceMsg (q : Qp) (w data : List Byte) : RoceMsg :=
  { port := q.port, op := recField w 0 1, remoteVa := recField w 16 8, rKey := recField w 24 4, imm := recField w 28 4
    dstQpn := if q.ud then recField w 32 4 else q.remoteQpn, srcGid := q.srcGid.toNat
    dstGid := if q.ud then recField w 40 16 else q.dstGid.toNat, dstMac := if q.ud then recField w 56 6 else q.dstMac.toNat
    tclass := q.tclass, priority := q.pfcPriority, data := data }

/-- Put a message on the wire. -/
def sendRoce (s : State) (m : RoceMsg) : State := { s with net := { s.net with roce := s.net.roce ++ [m] } }

/-- Carry out a request that has passed its checks: an RDMA READ asks its peer and writes its data locally, any other reads its data
from local memory and sends them. -/
def performRequest (s : State) (pd n : Nat) (q : Qp) (w : List Byte) (data : List Byte) : State :=
  let va := recField w 8 8
  let len := recField w 4 4
  let flags := recField w 1 1 % 2
  if recField w 0 1 = 5 then
    if data.length ≠ len then s
    else match writeVa s (.qp pd n) q.context va data with
      | (.error .wait, s) => s
      | (.error (.fail st), s) => endRefused s pd n st flags
      | (.ok _, s) => endRequest (sendRoce s (roceMsg q w [])) pd n 0 flags
  else match readVa s (.qp pd n) q.context va len with
    | (.error .wait, s) => s
    | (.error (.fail st), s) => endRefused s pd n st flags
    | (.ok bs, s) => endRequest (sendRoce s (roceMsg q w bs)) pd n 0 flags

/-- The request at the head of the send ring, if its opcode is `op`. -/
def runRequest (s : State) (pd n op : Nat) (data : List Byte) : State :=
  let s := settleQp s pd n
  match getQp s pd n with
  | none => s
  | some q =>
    let t := takesRequest s q
    if !t.1 then t.2
    else match readVa t.2 (.qp pd n) q.context (q.sqVa + q.head % 2 ^ q.sqLog2 * 64) 64 with
      | (.error .wait, s) => s
      | (.error (.fail st), s) => if qpState s pd n = 2 then s else qpFail s pd n st
      | (.ok w, s) =>
        let code := recField w 0 1
        let len := recField w 4 4
        let flags := recField w 1 1 % 2
        if recField w 2 2 ≠ q.head % 65536 then qpStale s pd n q
        else
          let s := modQp s pd n fun x => { x with stale := 0, flags := flags }
          if code = 0 ∨ 5 < code ∨ (q.ud ∧ 2 < code) then endRequest s pd n 0x0102 flags
          else if code ≠ op then s
          else if len = 0 then endRequest s pd n 0x0101 flags
          else if 2 ^ 31 < len then endRequest s pd n 0x0103 flags
          else performRequest s pd n q w data

def execSend (pd qp : Nat) (s : State) : Host.Outcome State Fault Refusal := .next (runRequest s pd qp 1 [])
def execSendImm (pd qp : Nat) (s : State) : Host.Outcome State Fault Refusal := .next (runRequest s pd qp 2 [])
def execRdmaWrite (pd qp : Nat) (s : State) : Host.Outcome State Fault Refusal := .next (runRequest s pd qp 3 [])
def execRdmaWriteImm (pd qp : Nat) (s : State) : Host.Outcome State Fault Refusal := .next (runRequest s pd qp 4 [])
def execRdmaRead (pd qp : Nat) (data : List Byte) (s : State) : Host.Outcome State Fault Refusal :=
  .next (runRequest s pd qp 5 data)

/-! ### Inbound traffic (R437, R440, R441) -/

/-- Answer a peer with an RNR NAK. -/
def rnrPeer (s : State) (pd n : Nat) : State := modQp s pd n fun q => { q with rnr := true, naks := q.naks ++ [.rnr] }

/-- A queue pair that takes inbound frames. -/
def takesInbound (s : State) (q : Qp) : Bool := q.state == 1 && ethUp s q.port

/-- What a peer sends has been received: a RECEIVE record for the next slot (R440). -/
def received (s : State) (pd n len : Nat) (imm : BitVec 32) : State :=
  match getQp s pd n with
  | none => s
  | some q =>
    modQp (qpRecord s pd n 0 256 q.rqHead (BitVec.ofNat 64 (len + imm.toNat * 2 ^ 32))) pd n fun x => { x with rqHead := q.rqHead + 1 }

/-- The access of an inbound frame through the context's translation. -/
def inboundAccess (s : State) (pd n : Nat) (q : Qp) : Inbound → Except Stop Unit × State
  | .send data _ => writeVa s (.qp pd n) q.context (q.rqVa + q.rqHead % 2 ^ q.rqLog2 * 4096) data
  | .write va data _ => writeVa s (.qp pd n) q.context va data
  | .read va len =>
    let r := readVa s (.qp pd n) q.context va len
    (r.1.map fun _ => (), r.2)

/-- What follows an access that is done: the record of a SEND, or of an RDMA WRITE with immediate, which takes a receive slot
(log 184). -/
def inboundDone (s : State) (pd n : Nat) : Inbound → State
  | .send data imm => received s pd n data.length imm
  | .write _ data (some imm) => received s pd n data.length imm
  | .write _ _ none => s
  | .read _ _ => s

/-- Serve an inbound frame. Answers whether it is done with. -/
def serveInbound (s : State) (pd n : Nat) (q : Qp) (x : Inbound) : Bool × State :=
  match inboundAccess s pd n q x with
  | (.error .wait, s) => (qpState s pd n == 2, s)
  | (.error (.fail _), s) => (true, nakPeer (dropRemotes s (.qp pd n)) pd n .remoteAccess)
  | (.ok _, s) => (true, modQp (inboundDone (dropRemotes s (.qp pd n)) pd n x) pd n fun y => { y with rnr := false })

/-- What a queue pair holds goes on, oldest first, until a frame must wait (R236). -/
def runHeld : Nat → State → Nat → Nat → State
  | 0, s, _, _ => s
  | k + 1, s, pd, n =>
    match getQp s pd n with
    | none => s
    | some q =>
      match q.held with
      | [] => s
      | x :: r =>
        if q.state ≠ 1 ∨ q.stalled.isSome then s
        else
          let t := serveInbound s pd n q x
          if t.1 then runHeld k (modQp t.2 pd n fun y => { y with held := r }) pd n else t.2

/-- The queue pairs that hold frames go on with them. -/
def heldTick (s : State) : State :=
  (s.net.qps.filter fun x => !x.2.held.isEmpty).foldl
    (fun s x => runHeld x.2.held.length s (22 + x.1 / 16384) (x.1 % 16384)) s

/-- Why a queue pair refuses an inbound frame: a SEND longer than a receive slot, or an RDMA outside the window or with another key
(R438, R440, R441). -/
def inboundNak (q : Qp) (rkey : Nat) : Inbound → Option Nak
  | .send data _ => if 4096 < data.length then some .invalidRequest else none
  | .write va data _ => if !q.ud && rkey == q.rKey && decide (q.winVa ≤ va ∧ va + data.length ≤ q.winVa + q.winLen) then none else some .remoteAccess
  | .read va len => if !q.ud && rkey == q.rKey && decide (q.winVa ≤ va ∧ va + len ≤ q.winVa + q.winLen) then none else some .remoteAccess

/-- A frame of the peer: refused in the error state (R441), answered with RNR while the queue pair is stalled or its ring is full, held
without loss behind a page that moves or another device, or served. A frame with an ECN mark is answered with a CNP (R437). -/
def inbound (pd n rkey : Nat) (ecn : Bool) (x : Inbound) (s : State) : State :=
  match getQp s pd n with
  | none => s
  | some q =>
    if q.state = 2 ∧ ethUp s q.port then nakPeer s pd n .remoteAccess
    else if !takesInbound s q then s
    else
      let s := runHeld q.held.length (if ecn then modQp s pd n fun y => { y with cnps := y.cnps + 1 } else s) pd n
      let q := (getQp s pd n).getD q
      let full := ringFull s q
      if q.stalled.isSome ∨ full.1 then rnrPeer full.2 pd n
      else match inboundNak q rkey x with
        | some k => nakPeer full.2 pd n k
        | none =>
          let hold (s : State) : State := modQp s pd n fun y => { y with held := y.held ++ [x] }
          if !q.held.isEmpty then hold full.2
          else
            let t := serveInbound full.2 pd n q x
            if t.1 then t.2
            else if (getQp t.2 pd n).any (·.stalled.isSome) then rnrPeer t.2 pd n else hold t.2

/-- INBOUND_SEND. -/
def execInboundSend (pd qp : Nat) (data : Payload) (imm : BitVec 32) (s : State) : Host.Outcome State Fault Refusal :=
  .next (inbound pd qp 0 data.ecn (.send data.bytes imm) s)

/-- An inbound RDMA request as the pair serves it. -/
def rdmaInbound (va len : Nat) (b : List Byte) : RdmaKind → Inbound
  | .read => .read va len
  | .write imm => .write va (b.take len) imm

/-- INBOUND_RDMA: a WRITE, with an immediate value or without, or a READ. -/
def execInboundRdma (pd qp rkey va len : Nat) (kind : RdmaKind) (data : Payload) (s : State) : Host.Outcome State Fault Refusal :=
  .next (inbound pd qp rkey data.ecn (rdmaInbound va len data.bytes kind) s)

/-- INBOUND_ATOMIC: a NAK for an invalid request. -/
def doInboundAtomic (pd n : Nat) (s : State) : State :=
  match getQp s pd n with
  | none => s
  | some q => if takesInbound s q then nakPeer s pd n .invalidRequest else s

def execInboundAtomic (pd qp : Nat) (s : State) : Host.Outcome State Fault Refusal := .next (doInboundAtomic pd qp s)

/-- Whether a queue pair has a request in flight. -/
def qpBusy (q : Qp) : Bool := (q.state == 1 || q.state == 3) && q.head != q.tail

/-- REMOTE_NAK: the request and every later one complete with 0x0701. -/
def doRemoteNak (pd n : Nat) (s : State) : State :=
  match getQp s pd n with
  | none => s
  | some q => if qpBusy q then qpError s pd n 0x0701 else s

def execRemoteNak (pd qp : Nat) (s : State) : Host.Outcome State Fault Refusal := .next (doRemoteNak pd qp s)

/-- RETRY_EXCEEDED: the request has been sent again 7 times. -/
def doRetryExceeded (pd n : Nat) (s : State) : State :=
  match getQp s pd n with
  | none => s
  | some q => if qpBusy q ∧ !q.ud ∧ q.retransmits = 7 then qpError s pd n 0x0702 else s

def execRetryExceeded (pd qp : Nat) (s : State) : Host.Outcome State Fault Refusal := .next (doRetryExceeded pd qp s)

/-- ROCE_RETRANSMIT: the request is sent again, at most 7 times. -/
def doRoceRetransmit (pd n : Nat) (s : State) : State :=
  modQp s pd n fun q => if qpBusy q ∧ !q.ud ∧ q.retransmits < 7 then { q with retransmits := q.retransmits + 1 } else q

def execRoceRetransmit (pd qp : Nat) (s : State) : Host.Outcome State Fault Refusal := .next (doRoceRetransmit pd qp s)

/-- CNP: the rate falls to a free lower value; the spec gives no amount (log 80). -/
def doCnp (pd n : Nat) (s : State) : State :=
  match getQp s pd n with
  | none => s
  | some q => if !takesInbound s q then s else modQp (drawBelow s q.rate).2 pd n fun x => { x with rate := (drawBelow s q.rate).1 }

def execCnp (pd qp : Nat) (s : State) : Host.Outcome State Fault Refusal := .next (doCnp pd qp s)

/-- Every queue pair of a port die whose port is `p` enters the error state with 0x0703 (R436). -/
def qpsPortDown (s : State) (p : Nat) : State :=
  (s.net.qps.filter fun x => decide (x.2.port = p) && x.2.state != 0 && x.2.state != 2).foldl
    (fun s x => qpError s (22 + x.1 / 16384) (x.1 % 16384) 0x0703) s

end Sys2Proof.Machine
end

