-- ==== Sys2Proof/Machine/Links.lean ====
section
/-! DEFINITION. The Sahic links: flits and their replay, training, retrain, loss (R387 to R402). -/

namespace Sys2Proof.Machine

/-- A port before any flit: the first SEQ is 0. -/
def LinkPort.fresh : LinkPort := ⟨4095, 0, [], [], [], false, [], none, none, none, none, 0⟩
def lnkKey (d p : Nat) : Nat := d * 16 + p
def getLnk (s : State) (d p : Nat) : LinkPort := smGetD s.links LinkPort.fresh (lnkKey d p)
def putLnk (s : State) (d p : Nat) (x : LinkPort) : State := { s with links := smPut s.links (lnkKey d p) x }

/-- STATE of LNK_PORT_STATE. -/
def lDown : Nat := 0
def lUp : Nat := 2
def lRetraining : Nat := 3
def lHeld : Nat := 4

def lnkState (s : State) (d p : Nat) : Nat := fget s d p Fl.LNK_PORT_STATE_STATE
def lnkUnit (d p : Nat) : Nat := unitId d 6 p
def lnkKind (d p : Nat) : Nat := (linkEnd d p).2.2.1
def lnkActive (d p : Nat) : Nat := (linkEnd d p).2.2.2.1
def lnkSpares (d p : Nat) : Nat := (linkEnd d p).2.2.2.2
/-- The other end of a link. -/
def lnkPeer (d p : Nat) : Nat × Nat := ((linkEnd d p).1, (linkEnd d p).2.1)
/-- A port that R387 gives the die. -/
def lnkExists (d p : Nat) : Bool := decide (p < linkPorts d)
/-- The stack bond (R388). -/
def isBond (d p : Nat) : Bool := lnkKind d p == 0

/-- Do something at both ends of a link. -/
def bothEnds (s : State) (d p : Nat) (f : State → Nat → Nat → State) : State :=
  f (f s d p) (lnkPeer d p).1 (lnkPeer d p).2

/-! ### Flits (R389, R390) -/

/-- The bits of a byte, the highest first. -/
def byteBits (b : Byte) : List Bool := (List.range 8).map fun i => b.getLsbD (7 - i)

/-- CRC-64 of ECMA-182, initial value 0, not inverted. -/
def crc64 (bs : List Byte) : BitVec 64 :=
  (bs.flatMap byteBits).foldl (fun (c : BitVec 64) b =>
    if c.getLsbD 63 != b then (c <<< 1) ^^^ 0x42F0_E1EB_A9EA_3693#64 else c <<< 1) 0

def flitSeq (f : List Byte) : Nat := imgNum f 0 2 % 4096
def flitKind (f : List Byte) : Nat := imgNum f 0 2 / 4096
def flitAck (f : List Byte) : Nat := imgNum f 2 2 % 4096
def flitNak (f : List Byte) : Bool := (imgNum f 2 2).testBit 15
def flitCrcOk (f : List Byte) : Bool := (crc64 (f.take 248)).toNat == imgNum f 248 8
def flitChan (f : List Byte) : Nat := imgNum f 4 1 % 8
def flitCredits (f : List Byte) : BitVec 24 := BitVec.ofNat 24 (imgNum f 5 3)

/-- The flit that a port with a given ACK and NAK builds: SEQ, KIND, channel, credits and payload (R389). -/
def buildFlit (x : LinkPort) (seq kind chan : Nat) (credits : BitVec 24) (payload : List Byte) : List Byte :=
  let body := leBytes 2 (seq + kind * 4096) ++ leBytes 2 (x.lastSeq + b2n x.nakPending * 2 ^ 15) ++
    leBytes 4 (chan + credits.toNat * 256) ++ (payload ++ List.replicate 240 0).take 240
  body ++ leBytes 8 (crc64 body).toNat

/-- A payload that the spec does not state, by a number. -/
def freePayload (n : Nat) : List Byte := (List.range 240).map fun i => (Config.unstated 5 (n * 240 + i)).setWidth 8

/-- A sender may send a flit on a channel: fewer than 2,047 unacknowledged, and a credit left (R390). -/
def mayOffer (s : State) (d p chan : Nat) : Bool :=
  let x := getLnk s d p
  lnkState s d p == lUp && decide (x.sent.length < 2047) && decide (smGetD x.used 0 chan < Config.linkCredits chan)

/-- Send a message in a data flit with the next SEQ; it stays in the replay buffer. -/
def sendFlit (s : State) (d p : Nat) (m : Parcel) : State :=
  let c := draw s
  let x := getLnk c.2 d p
  let f := buildFlit x x.nextSeq 0 m.chan (c.1.setWidth 24) m.payload
  fwrap (putLnk c.2 d p { x with
    nextSeq := (x.nextSeq + 1) % 4096, sent := x.sent ++ [⟨f, 1, some m⟩], out := x.out ++ [f]
    used := smPut x.used m.chan (smGetD x.used 0 m.chan + 1), nakPending := false }) d p Fl.LNK_PORT_FLITS_SENT 1

/-- Send an idle flit, which carries ACK and NAK, has no SEQ and is not replayed (R389). -/
def sendIdle (s : State) (d p : Nat) : State :=
  let c := draw s
  let x := getLnk c.2 d p
  let f := buildFlit x (bits c.1.toNat 35 24) 2 (bits c.1.toNat 38 36) (c.1.setWidth 24) (freePayload c.2.fresh)
  putLnk c.2 d p { x with out := x.out ++ [f], nakPending := false }

/-- Discard a flit and send NAK. -/
def sendNak (s : State) (d p : Nat) : State :=
  sendIdle (putLnk s d p { getLnk s d p with nakPending := true }) d p

/-- The credits that a flit returns. -/
def takeCredits (s : State) (d p : Nat) (f : List Byte) : State :=
  let x := getLnk s d p
  putLnk s d p { x with used := x.used.map fun u => (u.1, u.2 - Config.creditCount (flitCredits f) u.1) }

/-- The acknowledgement of an accepted flit: at once where ACK_COALESCE is disabled, otherwise now or with a later flit, as a
free choice (R389, R398). -/
def acknowledge (s : State) (d p : Nat) : State :=
  if (fget s d 0 Fl.DIE_EPOCH_EFFECTIVE_FEATURES_DISABLED).testBit 0 then sendIdle s d p
  else
    let n := drawBelow s 2
    if n.1 = 0 then n.2 else sendIdle n.2 d p

/-- An acknowledgement: flits up to SEQ `n` leave the replay buffer. -/
def lnkAck (s : State) (d p n : Nat) : State :=
  let x := getLnk s d p
  match x.sent with
  | [] => s
  | f :: _ =>
    let k := (n + 1 + 4096 - flitSeq f.flit) % 4096
    if 0 < k ∧ k ≤ x.sent.length then putLnk s d p { x with sent := x.sent.drop k } else s

/-- Lanes or wavelengths of a link, spares with them. -/
def laneCount (d p : Nat) : Nat := if lnkKind d p = 2 then 9 * lnkActive d p else lnkActive d p + lnkSpares d p

/-- A side sends its training frame: its recorded map, without a test, or what its test of every lane finds, which is good where
`test` says nothing (R394). -/
def sendFrame (s : State) (d p : Nat) (test : List Bool) : State :=
  let x := getLnk s d p
  let n := laneCount d p
  let own := x.ownMap.getD ((test ++ List.replicate n true).take n)
  putLnk s d p { x with frame := some ⟨own, x.record, fget s d 0 Fl.DIE_EPOCH_FEATURE_EPOCH⟩, good := none }

/-- Start a retrain of a link that is up: both senders hold their flits, and the training frames go out (R392). -/
def startRetrain (s : State) (d p : Nat) : State :=
  if lnkState s d p ≠ lUp then s
  else bothEnds s d p fun s d p =>
    sendFrame (fsat (fput s d p Fl.LNK_PORT_STATE_STATE lRetraining) d p Fl.LNK_PORT_ERR_RETRAINS 1) d p []

/-- Send every unacknowledged flit again, or retrain where one of them has been sent 8 times (R390, R392). -/
def replay (s : State) (d p : Nat) : State :=
  let x := getLnk s d p
  if x.sent.isEmpty then s
  else if x.sent.any fun f => decide (8 ≤ f.times) then startRetrain s d p
  else fwrap (putLnk s d p { x with
    sent := x.sent.map fun f => { f with times := f.times + 1 }
    out := x.out ++ x.sent.map (·.flit) }) d p Fl.LNK_PORT_FLITS_SENT x.sent.length

/-- What an accepted flit carries for the reverse direction: its acknowledgement, its credits and its NAK. -/
def takeReverse (s : State) (d p : Nat) (f : List Byte) : State :=
  let s := takeCredits (lnkAck s d p (flitAck f)) d p f
  if flitNak f then replay s d p else s

/-- FLIT_RECEIVE on a Sahic link that is up: a data or control flit is accepted in order, an idle flit has no SEQ, and any other
flit is discarded, with all that it carries, and answered with a NAK (R390). -/
def doFlitReceive (d p : Nat) (f : List Byte) (s : State) : State :=
  if lnkState s d p ≠ lUp ∨ isBond d p then s
  else if !flitCrcOk f then fsat (sendNak s d p) d p Fl.LNK_PORT_ERR_CRC 1
  else if flitKind f = 2 then takeReverse s d p f
  else if flitKind f < 2 ∧ flitSeq f = ((getLnk s d p).lastSeq + 1) % 4096 then
    let s := takeReverse s d p f
    let x := getLnk s d p
    acknowledge (putLnk s d p { x with
      lastSeq := flitSeq f, nakPending := false
      delivered := x.delivered ++ [(flitChan f, (f.drop 8).take 240)] }) d p
  else sendNak s d p

def execFlitReceive (die port : Nat) (flit : List Byte) (s : State) : Host.Outcome State Fault Refusal :=
  .next (doFlitReceive die port flit s)

/-! ### Width (R395) -/

def countTrue (l : List Bool) : Nat := (l.filter id).length

/-- Good wavelengths of each waveguide: nine each. -/
def guides : Nat → List Bool → List Nat
  | 0, _ => []
  | n + 1, l => countTrue (l.take 9) :: guides n (l.drop 9)

/-- Trained width and spares left of a link whose good set is `l`; none when it is down. -/
def lnkWidth (d p : Nat) (l : List Bool) : Option (Nat × Nat) :=
  let a := lnkActive d p
  if lnkKind d p = 2 then
    let g := (guides a l).filter fun n => decide (8 ≤ n)
    if a ≤ 2 * g.length then some (g.length, (g.map (· - 8)).sum) else none
  else
    let n := countTrue l
    if a ≤ n then some (a, n - a)
    else if a * 3 / 4 ≤ n then some (a * 3 / 4, n - a * 3 / 4)
    else if a / 2 ≤ n then some (a / 2, n - a / 2)
    else none

/-- The epoch at which a link runs: the lower of its two ends (R398). -/
def lnkEpoch (s : State) (d p : Nat) : Nat :=
  min (fget s d 0 Fl.DIE_EPOCH_FEATURE_EPOCH) (fget s (lnkPeer d p).1 0 Fl.DIE_EPOCH_FEATURE_EPOCH)

/-- A link comes up with a width: replay of what was not acknowledged, and event 0x0510 below full width (R392, R395). -/
def lnkComeUp (s : State) (d p attempts : Nat) (w : Nat × Nat) : State :=
  let s := bothEnds s d p fun s d p =>
    let s := fput s d p Fl.LNK_PORT_STATE_STATE lUp
    let s := fput s d p Fl.LNK_PORT_STATE_WIDTH w.1
    let s := fput s d p Fl.LNK_PORT_STATE_SPARES_LEFT w.2
    let s := fput s d p Fl.LNK_PORT_STATE_EPOCH (lnkEpoch s d p)
    let s := fput s d p Fl.LNK_PORT_STATE_ATTEMPTS attempts
    let s := fput s d p Fl.LNK_PORT_CTL_RETRAIN 0
    let x := getLnk s d p
    let s := putLnk s d p { x with
      nakPending := false, frame := none, good := none, disagreements := 0
      sent := x.sent.map fun f => { f with times := 1 }
      out := x.out ++ x.sent.map (·.flit) }
    fwrap s d p Fl.LNK_PORT_FLITS_SENT x.sent.length
  if w.1 < lnkActive d p then raise s 0x0510 1 (lnkUnit d p) else s

/-! ### Link loss (R400) -/

/-- A die of a link that is not on the matrix side of R400's table: host, hub, port or system. -/
def lossClass (d p : Nat) : Nat :=
  let t := dieType d
  let u := dieType (lnkPeer d p).1
  if t ≤ 1 ∨ u ≤ 1 then 1 else if (t = 2 ∨ t = 3) ∧ (u = 2 ∨ u = 3) then 0 else 2

/-- The matrix die of a link, whose partition owns it. -/
def lnkMatrix (d p : Nat) : Nat :=
  if d < 8 then d else if d < 16 then d - 8 else if (lnkPeer d p).1 < 8 then (lnkPeer d p).1 else (lnkPeer d p).1 - 8

/-- The detail of event 0x0511. -/
def lossDetail (d p cause : Nat) : BitVec 128 :=
  BitVec.ofNat 128 (lnkUnit d p + lnkUnit (lnkPeer d p).1 (lnkPeer d p).2 * 2 ^ 16 + cause * 2 ^ 32)

/-- The link is down at both ends. -/
def lnkGoDown (s : State) (d p : Nat) : State :=
  bothEnds s d p fun s d p =>
    let s := fput s d p Fl.LNK_PORT_STATE_STATE lDown
    let s := fput (fput s d p Fl.LNK_PORT_STATE_WIDTH 0) d p Fl.LNK_PORT_STATE_SPARES_LEFT 0
    fput s d p Fl.LNK_PORT_CTL_RETRAIN 0

/-- Whether a port or system die still has a link to a host die or a hub. -/
def attached (s : State) (d : Nat) : Bool :=
  (List.range (linkPorts d)).any fun p =>
    let t := dieType (lnkPeer d p).1
    (t == 2 || t == 3) && (lnkState s d p == lUp || lnkState s d p == lRetraining)

/-- An Ethernet port is disabled: its transmitter is off (R436). -/
def disablePort (s : State) (p : Nat) : State :=
  portDown (fput s (22 + p / 4) (p % 4) Fl.NET_PORT_CFG_ENABLE 0) p 0

/-- A die without a link: a port die stops its ports, the system die its register access. -/
def detach (s : State) (d : Nat) : State :=
  if attached s d then s
  else if dieType d = 4 then
    (List.range 4).foldl (fun s i => let p := (d - 22) * 4 + i; qpsPortDown (disablePort s p) p) s
  else if d = 24 then { s with rst := { s.rst with deadDies := insertNat s.rst.deadDies d } }
  else s

/-- Fence a partition after a loss and start its full reset. -/
def fenceReset (s : State) (p : Nat) : State :=
  let s : State := { s with rst := { s.rst with fenced := insertNat s.rst.fenced p } }
  partReset (setPartState s p 2) p 0x0B

/-- The messages whose flits a lost link has not brought over wait again at its end, before those of later (R391, R400). -/
def sendElsewhere (s : State) (d p : Nat) : State :=
  let x := getLnk s d p
  { putLnk s d p { x with sent := [] } with
    parcels := ((x.sent.filterMap (·.parcel)).map fun m => { m with src := d }) ++ s.parcels }

/-- The consequences of a link's loss. -/
def linkLoss (s : State) (d p cause : Nat) : State :=
  let s := bothEnds (lnkGoDown s d p) d p sendElsewhere
  match lossClass d p with
  | 0 => systemReset (raise s 0x0511 3 (lnkUnit d p) 0 (lossDetail d p cause)) 0x09 (lnkUnit d p)
  | 1 => fenceReset (raise s 0x0511 3 (lnkUnit d p) 0 (lossDetail d p cause)) ((diePart s (lnkMatrix d p)).getD 4)
  | _ =>
    let s := raise s 0x0511 2 (lnkUnit d p) 0 (lossDetail d p cause)
    let s := if 4 ≤ dieType d then detach s d else s
    if 4 ≤ dieType (lnkPeer d p).1 then detach s (lnkPeer d p).1 else s

/-- LINK_DOWN: a link that was up or training goes down in service. -/
def doLinkDown (d p cause : Nat) (s : State) : State :=
  if !lnkExists d p ∨ lnkState s d p = lDown ∨ lnkState s d p = lHeld then s else linkLoss s d p cause

def execLinkDown (die port cause : Nat) (s : State) : Host.Outcome State Fault Refusal := .next (doLinkDown die port cause s)

/-! ### Retrain (R392, R393, R396) -/

/-- The map that a side has sent. -/
def sentMap (x : LinkPort) : List Bool := (x.frame.map (·.ownMap)).getD []

/-- The good set that a side computes from the other's frame; none where a record differs from a map (R395, R396). -/
def goodSet (x : LinkPort) (f : TrainFrame) : Option (List Bool) :=
  if (x.record.all fun r => r == f.ownMap) && (f.peerRecord.all fun r => r == sentMap x) then
    some (List.zipWith (fun a b => a && b) (sentMap x) f.ownMap)
  else none

/-- A side takes the other's frame: it records both maps and the good set, where they agree. -/
def takeTraining (s : State) (d p : Nat) (f : TrainFrame) : State :=
  let x := getLnk s d p
  match goodSet x f with
  | some g => putLnk s d p { x with ownMap := some (sentMap x), record := some f.ownMap, good := some g }
  | none => putLnk s d p { x with good := none }

/-- A disagreement: event 0x0512, both sides count it and discard both records (R394, R396). -/
def disagree (s : State) (d p : Nat) : State :=
  let s := bothEnds s d p fun s d p =>
    fsat (putLnk s d p { getLnk s d p with
      ownMap := none, record := none, frame := none, good := none
      disagreements := (getLnk s d p).disagreements + 1 }) d p Fl.LNK_PORT_ERR_DISAGREE 1
  raise s 0x0512 1 (lnkUnit d p)

/-- A training whose sides agree ends: the width follows from the good set. Answers the cause where the link stays down. -/
def setWidth (s : State) (d p : Nat) (g : List Bool) : Option Nat × State :=
  match lnkWidth d p g with
  | some w => (none, lnkComeUp s d p ((getLnk s d p).disagreements + 1) w)
  | none => (some 1, s)

/-- The attempts of a training, of which three may disagree, given what the test of each side finds in each; a side tests where
it has no record. A side that has no answer to an attempt ends the training. -/
def attempts (s : State) (d p : Nat) : List (List Bool × List Bool) → Option Nat × State
  | [] => (some 3, s)
  | (a, b) :: r =>
    let e := lnkPeer d p
    let s := sendFrame (sendFrame s d p a) e.1 e.2 b
    let fx := (getLnk s d p).frame
    let fy := (getLnk s e.1 e.2).frame
    let s := fx.elim s fun f => takeTraining (fy.elim s fun g => takeTraining s d p g) e.1 e.2 f
    match (getLnk s d p).good, (getLnk s e.1 e.2).good with
    | some g, some _ => setWidth s d p g
    | _, _ =>
      let s := disagree s d p
      if 3 ≤ (getLnk s d p).disagreements then (some 2, s) else attempts s d p r

/-- ATTEMPTS of a training that has ended with the link down. -/
def showAttempts (s : State) (d p cause : Nat) : State :=
  let n := (getLnk s d p).disagreements
  bothEnds s d p fun s d p => fput s d p Fl.LNK_PORT_STATE_ATTEMPTS (if cause = 2 then n else min 3 (n + 1))

/-- A training that ends with the link down in service has the consequences of R400. -/
def endTraining (d p : Nat) : Option Nat × State → State
  | (none, s) => s
  | (some c, s) => linkLoss (showAttempts s d p c) d p c

/-- RETRAIN of a link that is up or already retraining. -/
def doRetrain (d p : Nat) (tests : List (List Bool × List Bool)) (s : State) : State :=
  if !lnkExists d p ∨ isBond d p then s
  else
    let s := startRetrain s d p
    if lnkState s d p = lRetraining then endTraining d p (attempts s d p tests) else s

def execRetrain (die port : Nat) (tests : List (List Bool × List Bool)) (s : State) : Host.Outcome State Fault Refusal :=
  .next (doRetrain die port tests s)

/-- What a test of every lane finds where no command says it: a free choice for each lane. -/
def freeTest (s : State) (d p : Nat) : List Bool × State :=
  let n := s.fresh
  ((List.range (laneCount d p)).map fun i => (Config.unstated 6 (n * 512 + i)).getLsbD 0, { s with fresh := n + 1 })

/-- A training starts from scratch, or ends at the third disagreement (R396). -/
def fromScratch (s : State) (d p : Nat) : State :=
  let s := disagree s d p
  if 3 ≤ (getLnk s d p).disagreements then endTraining d p (some 2, s)
  else bothEnds s d p fun s d p =>
    let t := freeTest s d p
    sendFrame t.2 d p t.1

/-- TRAINING_FRAME: a side of a link in training takes the other's frame. The width is set once both sides have computed the same
good set; otherwise they disagree (R394 to R396). -/
def doTrainingFrame (d p : Nat) (f : TrainFrame) (s : State) : State :=
  if !lnkExists d p ∨ lnkState s d p ≠ lRetraining then s
  else
    let s := takeTraining s d p f
    let e := lnkPeer d p
    match (getLnk s d p).good, (getLnk s e.1 e.2).good with
    | none, _ => fromScratch s d p
    | some _, none => s
    | some g, some h => if g = h then endTraining d p (setWidth s d p g) else fromScratch s d p

def execTrainingFrame (die port : Nat) (f : TrainFrame) (s : State) : Host.Outcome State Fault Refusal :=
  .next (doTrainingFrame die port f s)

/-- The good set of a link that is up, as one side has recorded it. -/
def goodNow (x : LinkPort) : List Bool := List.zipWith (fun a b => a && b) (x.ownMap.getD []) (x.record.getD [])

/-- Whether the lane set, or every waveguide in use, has a free spare for a recalibration (R393). -/
def hasSpare (s : State) (d p : Nat) : Bool :=
  if lnkKind d p = 2 then (guides (lnkActive d p) (goodNow (getLnk s d p))).all fun n => n != 8
  else decide (0 < fget s d p Fl.LNK_PORT_STATE_SPARES_LEFT)

/-- LANE_RECAL: on a free spare without any effect; otherwise, once the link has been quiet for 1 µs or WAIT_MS has passed,
by a retrain. -/
def doLaneRecal (d p : Nat) (quiet : Bool) (s : State) : State :=
  if !lnkExists d p ∨ isBond d p ∨ hasSpare s d p ∨ !quiet then s else startRetrain s d p

def execLaneRecal (die port : Nat) (quiet : Bool) (s : State) : Host.Outcome State Fault Refusal :=
  .next (doLaneRecal die port quiet s)

/-- LNK_PORT_CTL_RETRAIN: a write of 1 to RETRAIN. -/
def doLnkPortCtlRetrain (d p : Nat) (s : State) : State :=
  if !lnkExists d p then s
  else if lnkState s d p ≠ lUp ∨ isBond d p then fput s d p Fl.LNK_PORT_CTL_REJECTED 1
  else startRetrain (fput (fput s d p Fl.LNK_PORT_CTL_REJECTED 0) d p Fl.LNK_PORT_CTL_RETRAIN 1) d p

def execLnkPortCtlRetrain (die port : Nat) (s : State) : Host.Outcome State Fault Refusal := .next (onDie s die fun s => doLnkPortCtlRetrain die port s)

/-! ### Training after a reset (R397) -/

/-- Whether a link joins the dies of two different partitions and is held down. -/
def heldDown (s : State) (d p : Nat) : Bool :=
  match diePart s d, diePart s (lnkPeer d p).1 with
  | some a, some b => a != b && !(dieType d == 3 && dieType (lnkPeer d p).1 == 3)
  | _, _ => false

/-- Every link once, by its lower-numbered end. -/
def allLinks : List (Nat × Nat) :=
  (List.range 25).flatMap fun d =>
    ((List.range (linkPorts d)).filter fun p => decide (d < (lnkPeer d p).1)).map fun p => (d, p)

/-- A bond with more failed pads in a group of 32 than its one spare (R387, R388). -/
def bondBad (f : Findings) (d p : Nat) : Bool := f.bondPads.any fun x => x.1 == min d (lnkPeer d p).1 && x.2.any fun n => decide (1 < n)

/-- What the `i`-th test of an end finds. -/
def laneTest (f : Findings) (d p i : Nat) : List Bool :=
  let bad := ((f.lanes.find? fun x => x.1 == d && x.2.1 == p).bind fun x => x.2.2[i]?).getD []
  (List.range (laneCount d p)).map fun j => !bad.contains j

/-- What three attempts find at both ends; a link that does not answer has none. -/
def laneTests (f : Findings) (d p : Nat) : List (List Bool × List Bool) :=
  let e := lnkPeer d p
  if f.badLinks.contains (d, p) || f.badLinks.contains e then []
  else (List.range 3).map fun i => (laneTest f d p i, laneTest f e.1 e.2 i)

/-- The end of a link before its training: one that has been reset holds nothing. The other keeps its maps and what it has sent,
which counts from SEQ 0 again (R394, R402, log 181). -/
def startEnd (fresh : Nat → Bool) (s : State) (d p : Nat) : State :=
  let x := getLnk s d p
  let y := { LinkPort.fresh with ownMap := x.ownMap, record := x.record, out := x.out, delivered := x.delivered }
  putLnk s d p (if fresh d then LinkPort.fresh else { y with
    nextSeq := x.sent.length
    sent := x.sent.zipIdx.map fun f =>
      { f.1 with flit := buildFlit y f.2 (flitKind f.1.flit) (flitChan f.1.flit) (flitCredits f.1.flit) ((f.1.flit.drop 8).take 240) } })

/-- Train one link after a reset of the dies that `fresh` selects: held, or as its attempts end (R388, R397). -/
def trainLink (f : Findings) (fresh : Nat → Bool) (s : State) (d p : Nat) : Option Nat × State :=
  if heldDown s d p then (none, bothEnds s d p fun s d p => fput s d p Fl.LNK_PORT_STATE_STATE lHeld)
  else if isBond d p then
    if bondBad f d p then (some 1, s) else (none, lnkComeUp s d p 1 (1, lnkSpares d p))
  else attempts (bothEnds s d p (startEnd fresh)) d p (laneTests f d p)

/-- Train the links that `sel` selects. Answers those that cannot be trained, each with its cause. -/
def trainLinks (s : State) (f : Findings) (fresh : Nat → Bool) (sel : Nat → Nat → Bool) : List (Nat × Nat × Nat) × State :=
  (allLinks.filter fun x => sel x.1 x.2).foldl (fun q x =>
    match trainLink f fresh q.2 x.1 x.2 with
    | (none, s) => (q.1, s)
    | (some c, s) => (q.1 ++ [(x.1, x.2, c)], lnkGoDown (showAttempts s x.1 x.2 c) x.1 x.2)) ([], s)

end Sys2Proof.Machine
end

