-- ==== Sys2Proof/Machine/Pci.lean ====
section
/-! DEFINITION. PCIe root ports and CXL memory expanders (R450 to R455, R546). -/

namespace Sys2Proof.Machine

/-- Port die and local number of a root port. -/
def rpDie (g : Nat) : Nat := 22 + g / 8
def rpUnit (g : Nat) : Nat := unitId (rpDie g) 2 (g % 8)

/-- Lanes of a root port under the split of its half (R450). -/
def rpLanes (s : State) (g : Nat) : Nat :=
  let split := fget s (rpDie g) 0 (if g % 8 < 4 then Fl.PCI_BIFURCATION_HALF0 else Fl.PCI_BIFURCATION_HALF1)
  match split, g % 4 with
  | 0, 0 => 16
  | 0, _ => 0
  | 1, 0 => 8
  | 1, 2 => 8
  | 1, _ => 0
  | 2, 0 => 8
  | 2, 2 => 4
  | 2, 3 => 4
  | 2, _ => 0
  | _, _ => 4

/-- STATE of a root port: 0 absent, 1 down, 2 PCIe, 3 CXL. -/
def rpState (s : State) (g : Nat) : Nat := fget s (rpDie g) (g % 8) Fl.PCI_RP_STATE_STATE
def rpUp (s : State) (g : Nat) : Bool := decide (2 ≤ rpState s g)

/-- The MSI page of a root port (R452). -/
def msiPage (g : Nat) : Nat := 0x3F40_1000_0000 + g * 0x1000

/-- Whether an inbound range is served (R452). -/
def dmaServed (s : State) (g a n : Nat) : Bool :=
  decide (0 < n) && decide (fget s (rpDie g) (g % 8) Fl.PCI_RP_DMA_FIRST_GIB ≤ a / gib) &&
    decide ((a + n - 1) / gib ≤ fget s (rpDie g) (g % 8) Fl.PCI_RP_DMA_LAST_GIB) && (linesOf a n).all (hasHome s)

/-- Answer an inbound request: Unsupported Request, or its data. -/
def pcieAnswer (s : State) (g : Nat) (ur : Bool) (data : List Byte) : State :=
  { s with net := { s.net with pcie := s.net.pcie ++ [(g, ur, data)] } }

def unsupported (s : State) (g : Nat) : State :=
  pcieAnswer (fsat s (rpDie g) (g % 8) Fl.PCI_RP_STATE_UR_COUNT 1) g true []

/-- A memory write to the MSI page sends the vector in its low 16 bits. -/
def doMsiWrite (g : Nat) (data : BitVec 32) (s : State) : State :=
  if rpUp s g then sendIrq s (data.toNat % 65536) else s

def execMsiWrite (port : Nat) (data : BitVec 32) (s : State) : Host.Outcome State Fault Refusal := .next (doMsiWrite port data s)

/-- PCIE_INBOUND_REQUEST: a memory read or write within the window; ATS, PRI and peer-to-peer requests are not supported (R450,
R452). A read that meets poison is answered with no data. -/
def doPcieInbound (g a n : Nat) (kind : PcieKind) (data : List Byte) (s : State) : State :=
  if !rpUp s g then s
  else match kind with
    | .ats => unsupported s g
    | .pri => unsupported s g
    | .write =>
      if msiPage g ≤ a ∧ a < msiPage g + 4096 then doMsiWrite g (BitVec.ofNat 32 (leNat (data.take 2))) s
      else if dmaServed s g a n then (ncWrite s a (data.take n)).2 else unsupported s g
    | .read =>
      if !dmaServed s g a n then unsupported s g
      else
        let q := ncRead s a n
        pcieAnswer q.2 g false (if rangePoison q.2 a n then [] else q.1)

def execPcieInboundRequest (port addr len : Nat) (kind : PcieKind) (data : List Byte) (s : State) :
    Host.Outcome State Fault Refusal := .next (doPcieInbound port addr len kind data s)

/-- The root port whose slice of MMIO holds an address. -/
def sliceOf (s : State) (a : Nat) : Option Nat := match paKind s a with
  | .mmio g => some g
  | _ => none

/-- PCI_COMPLETION_TIMEOUT: the read of a core that waits in a slice returns an error response. -/
def doPciCompletionTimeout (d c : Nat) (s : State) : State :=
  match (getCore s d c).waiting.find? fun w => (sliceOf s w.addr).isSome with
  | none => s
  | some w =>
    let s := loadError (modCore s d c fun x => { x with waiting := x.waiting.erase w }) d c kBusLoad w.addr
    raise s 0x0720 1 (rpUnit ((sliceOf s w.addr).getD 0))

def execPciCompletionTimeout (die core : Nat) (s : State) : Host.Outcome State Fault Refusal :=
  .next (doPciCompletionTimeout die core s)

/-- A core's reads that wait on a port that has gone down end in error responses; one of far memory is of kind FAR_TIMEOUT
(R334, R453, R455). -/
def failWaiting (s : State) (g d c : Nat) : State :=
  let far (a : Nat) : Bool := farPort s a == some g
  let bad (w : CoreWait) : Bool := sliceOf s w.addr == some g || far w.addr
  let x := getCore s d c
  let l := (x.waiting.filter bad).map (·.addr) ++ (x.misses.filter fun m => far m.line && !m.isStore).map (·.addr)
  if l.isEmpty then s
  else
    let t := putCore s d c { x with
      waiting := x.waiting.filter fun w => !bad w
      misses := x.misses.filter fun m => m.isStore || !far m.line }
    l.foldl (fun s a => loadError s d c (if far a then kFarTimeout else kBusLoad) a) t

/-- Every core, as host die and number. -/
def allCores : List (Nat × Nat) := [16, 17].flatMap fun d => (List.range 100).map fun c => (d, c)

/-- PCI_LINK_DOWN (R453, R455). -/
def doPciLinkDown (g : Nat) (s : State) : State :=
  if !rpUp s g then s
  else
    let s := fput s (rpDie g) (g % 8) Fl.PCI_RP_STATE_STATE 1
    let s := fput (fput s (rpDie g) (g % 8) Fl.PCI_RP_STATE_WIDTH 0) (rpDie g) (g % 8) Fl.PCI_RP_STATE_GTS 0
    let s := allCores.foldl (fun s x => failWaiting s g x.1 x.2) s
    raise s 0x0721 1 (rpUnit g)

def execPciLinkDown (port : Nat) (s : State) : Host.Outcome State Fault Refusal := .next (doPciLinkDown port s)

/-- PCI_LINK_UP: a root port that has lanes and its die's clock trains; an even one that negotiates CXL runs as CXL (R450, R454,
R533). -/
def doPciLinkUp (g width gts : Nat) (cxl : Bool) (s : State) : State :=
  if rpUp s g ∨ rpLanes s g < width ∨ rpLanes s g = 0 ∨ !s.pins.clocks.getLsbD (g / 8) then s
  else
    let s := fput s (rpDie g) (g % 8) Fl.PCI_RP_STATE_STATE (if cxl && g % 2 == 0 then 3 else 2)
    fput (fput s (rpDie g) (g % 8) Fl.PCI_RP_STATE_WIDTH width) (rpDie g) (g % 8) Fl.PCI_RP_STATE_GTS gts

def execPciLinkUp (port width gts : Nat) (cxl : Bool) (s : State) : Host.Outcome State Fault Refusal :=
  .next (doPciLinkUp port width gts cxl s)

/-! ### Far-memory windows (R546) -/

/-- Whether a window is refused: empty, past the range, or over another enabled window. -/
def windowRefused (s : State) (g base size : Nat) : Bool :=
  size == 0 || decide (0x4000 < base + size) ||
    (List.range 16).any fun h =>
      let w := rget s (rpDie h) .pciRpCxl (h % 8)
      h != g && fldOf Fl.PCI_RP_CXL_ENABLE w == 1 &&
        decide (base < fldOf Fl.PCI_RP_CXL_BASE_GIB w + fldOf Fl.PCI_RP_CXL_SIZE_GIB w) &&
        decide (fldOf Fl.PCI_RP_CXL_BASE_GIB w < base + size)

/-- PCI_RP_CXL_ENABLE: a write of PCI_RP_CXL. -/
def doPciRpCxl (pd r : Nat) (v : BitVec 64) (s : State) : State :=
  let w := rget s pd .pciRpCxl r
  let base := fldOf Fl.PCI_RP_CXL_BASE_GIB v
  let size := fldOf Fl.PCI_RP_CXL_SIZE_GIB v
  let en := fldOf Fl.PCI_RP_CXL_ENABLE v
  if r % 2 = 1 ∨ (en = 1 ∧ fldOf Fl.PCI_RP_CXL_ENABLE w = 1) then s
  else if en = 1 ∧ windowRefused s ((pd - 22) * 8 + r) base size then fput s pd r Fl.PCI_RP_CXL_REJECTED 1
  else
    let s := fput (fput s pd r Fl.PCI_RP_CXL_BASE_GIB base) pd r Fl.PCI_RP_CXL_SIZE_GIB size
    let s := fput s pd r Fl.PCI_RP_CXL_ENABLE en
    if en = 1 then fput s pd r Fl.PCI_RP_CXL_REJECTED 0 else s

def execPciRpCxlEnable (pd rp : Nat) (value : BitVec 64) (s : State) : Host.Outcome State Fault Refusal :=
  .next (onDie s pd fun s => doPciRpCxl pd rp value s)

end Sys2Proof.Machine
end

