-- ==== Sys2Proof/Machine/Boot.lean ====
section
/-! DEFINITION. Training, repair and self-test, and the start-up sequence (R56 to R60, R69, R70, R293, R364 to R374, R382 to
R385, R397 to R402, R473, R482 to R485, R496, R499, R513, R514, R544). -/

namespace Sys2Proof.Machine

def domeUnit : Nat := unitId 24 0 0
def bootUnit : Nat := unitId 24 0 5
def strapUnit : Nat := unitId 24 0 9

/-! ### HBM (R364 to R368, R372, R373) -/

/-- Set STATE and PC_GOOD of a stack of a hub. -/
def setStack (s : State) (h k state good : Nat) : State :=
  fput (fput s h k Fl.HBM_STACK_STATE state) h k Fl.HBM_STACK_PC_GOOD good

/-- A stack fails: event 0x0F50 and its bit of HBM_RECOVERY.EXCLUDE (R372, R373). -/
def excludeStack (s : State) (h k : Nat) : State :=
  let b := 4 * (h - 18) + k
  persistField (raise s 0x0F50 3 (unitId h 2 k)) 1 b b 1

/-- A number that the findings give, 0 where they give none. -/
def found (l : List (Nat × Nat)) (k : Nat) : Nat := ((l.find? fun x => x.1 == k).map (·.2)).getD 0

/-- Lanes within the repair budget: 2 data lanes of a pseudo-channel, 1 command or address lane of a channel (R366). -/
def dataBudget : Nat := 2
def caBudget : Nat := 1

/-- A pseudo-channel is mapped out: it fails its test or failed in service, or its lanes or its channel's exceed the budget. -/
def mapsOut (f : Findings) (s : State) (pc : Nat) : Bool :=
  f.badPcs.contains pc || s.failedPcs.contains pc || decide (dataBudget < found f.dataLanes pc) ||
    decide (caBudget < found f.caLanes (pc / 2))

/-- Lanes that the training of a stack repairs (log 163). -/
def repaired (f : Findings) (st : Nat) : Nat :=
  ((List.range 32).map fun i => let n := found f.dataLanes (32 * st + i); if n ≤ dataBudget then n else 0).sum +
    ((List.range 16).map fun i => let n := found f.caLanes (16 * st + i); if n ≤ caBudget then n else 0).sum

/-- Train one stack: excluded, failed and excluded, or trained without the pseudo-channels that are mapped out (R365 to R367,
R374). -/
def trainStack (f : Findings) (h : Nat) (s : State) (k : Nat) : State :=
  let st := (h - 18) * 4 + k
  let bad := (List.range 32).filter fun i => mapsOut f s (32 * st + i)
  let s : State := { s with failedPcs := s.failedPcs.filter fun pc => pc / 32 != st }
  if (hbmExclude s h).testBit k then setStack s h k 3 0
  else if f.badStacks.contains st then setStack (excludeStack s h k) h k 3 0
  else
    let s := bad.foldl (fun s i => raise s 0x0F55 1 (unitId h 3 (32 * k + i))) s
    if 8 < bad.length then setStack (excludeStack s h k) h k 3 0
    else
      setStack (fput s h k Fl.HBM_STACK_REPAIRED_LANES (repaired f st)) h k (if bad.isEmpty then 0 else 1)
        (2 ^ 32 - 1 - (bad.map fun i => 2 ^ i).sum)

/-- Whether the strap puts every partition in linear mode. -/
def strapLinear (s : State) : Bool := fget s 24 0 Fl.STRAP_STATUS_HBM_LINEAR == 1

/-- Whether the plate puts a partition in linear mode. -/
def plateLinear (s : State) (p : Nat) : Bool := ((s.rst.plate.bind (·.hbmLinear)).getD 0).getLsbD p

/-- The controllers of a memory die begin their first scrub pass and their recalibration periods (R378, R380). -/
def startControllers (s : State) (d : Nat) : State :=
  { s with
    scrubFrom := smPut s.scrubFrom d s.time.toNat
    recals := s.recals.filter fun x => x.1 / 2048 != d }

/-- Train the stacks of a partition, clear them and set the mode that its hubs report (R365, R368). -/
def trainHbm (f : Findings) (s : State) (p : Nat) : State :=
  let hubs := partHubs s p
  let s := wipeHbm (hubs.foldl (fun s h => (List.range 4).foldl (trainStack f h) s) s) p
  let rec_ := hubs.any fun h => (List.range 4).any fun k => fget s h k Fl.HBM_STACK_STATE == 3
  let lin := rec_ || strapLinear s || plateLinear s p
  let n := (partPcs s p).length
  hubs.foldl (fun s h =>
    let s := startControllers s h
    let s := fput (fput s h 0 Fl.HBM_MODE_RECOVERY (b2n rec_)) h 0 Fl.HBM_MODE_MODE (b2n lin)
    fput (fput s h 0 Fl.HBM_MODE_USABLE_GIB (2 * n)) h 0 Fl.HBM_MODE_GOOD_PCS n) s

/-- HBM_STACK_FAILED: a stack in service fails (R372). -/
def failStack (s : State) (st : Nat) : State :=
  let h := 18 + st / 4
  partReset (fput (excludeStack s h (st % 4)) h (st % 4) Fl.HBM_STACK_STATE 2) ((diePart s h).getD 0) 0x0B

/-- A stack that training left in service. -/
def stackServes (s : State) (st : Nat) : Bool :=
  decide (st < 16) && decide (fget s (18 + st / 4) (st % 4) Fl.HBM_STACK_STATE < 2) && decide (0 < goodPcs s st)

def doHbmStackFailed (st : Nat) (s : State) : State := if stackServes s st then failStack s st else s

def execHbmStackFailed (stack : Nat) (s : State) : Host.Outcome State Fault Refusal := .next (doHbmStackFailed stack s)

/-- Pseudo-channels of a stack that are mapped out or have failed. -/
def lostPcs (s : State) (st : Nat) : Nat :=
  ((List.range 32).filter fun i => !(goodPcs s st).testBit i || s.failedPcs.contains (32 * st + i)).length

/-- HBM_PC_FAILED: the pseudo-channel's lines read as poison and its writes are discarded, or the stack has failed with it
(R372, R374). -/
def doHbmPcFailed (pc : Nat) (s : State) : State :=
  let st := pc / 32
  if !stackServes s st ∨ !(goodPcs s st).testBit (pc % 32) ∨ s.failedPcs.contains pc then s
  else
    let s : State := { s with failedPcs := insertNat s.failedPcs pc }
    if 8 < lostPcs s st then failStack s st
    else
      let h := 18 + pc / 128
      let s := fput s h (st % 4) Fl.HBM_STACK_STATE 1
      raise s 0x0F51 2 (unitId h 3 (pc % 128))

def execHbmPcFailed (pc : Nat) (s : State) : Host.Outcome State Fault Refusal := .next (doHbmPcFailed pc s)

/-! ### Near store and engines (R57 to R59, R69, R70) -/

/-- Repair one bank of the near-store die `d`: its map is loaded from fuses, and rows that fail join it while spare rows are
left (R69, R70). A bank that did not pass manufacturing test is not put in service (R34). -/
def repairBank (f : Findings) (d : Nat) (s : State) (bank : Nat) : State :=
  let found := ((f.badRows.find? fun x => x.1 == d && x.2.1 == bank).map (·.2.2)).getD []
  let rows := found.foldl insertNat (smGetD s.rowFuses [] (bankIndex d bank))
  let room := fget s d 0 Fl.NST_CAPACITY_SPARE_ROWS
  let s := fput { s with rowMap := smPut s.rowMap (bankIndex d bank) rows } d bank Fl.NST_BANK_ENGINE 0xFF
  let s := fput s d bank Fl.NST_BANK_SPARES_USED (min rows.length room)
  if !unitGood s d bank then fput s d bank Fl.NST_BANK_STATE 2
  else if room < rows.length then raise (fput s d bank Fl.NST_BANK_STATE 2) 0x0F34 2 (unitId d 1 bank)
  else fput s d bank Fl.NST_BANK_STATE (if rows.isEmpty then 0 else 1)

/-- Repair the near-store die beneath matrix die `md`: every row holds zeros afterwards. -/
def repairNear (f : Findings) (s : State) (md : Nat) : State :=
  let s := (List.range 32).foldl (repairBank f (md + 8)) s
  { s with near := memClear s.near (bankKey md 0 0) (bankKey (md + 1) 0 0) }

/-- Load an engine's column map from its fuses and test its array. ENG_SELFTEST keeps what its last test showed (log 149). -/
def testEngine (f : Findings) (d : Nat) (s : State) (e : Nat) : State :=
  let fused := (resetWord s d .engColmapLo e).toNat + (resetWord s d .engColmapHi e).toNat * 2 ^ 64
  let found := ((f.badColumns.find? fun x => x.1 == d && x.2.1 == e).map (·.2.2)).getD 0
  if unitGood s d e then
    let s := setColmap (countHandshakes (pairOn s d (e / 2)) d e) d e (fused ||| found.toNat)
    if fused ||| found.toNat = fused then s else fput s d e Fl.ENG_ERR_STATUS_SELFTEST_FAIL 1
  else setColmap s d e fused

/-- An engine that R58 may make active. -/
def qualifies (s : State) (d e : Nat) : Bool :=
  unitGood s d e && decide (popcount (colmap s d e) 128 ≤ 4)

/-- Give an engine its role and its bank: the `n`-th qualified engine takes the `n`-th bank in service. -/
def placeRole (quals banks : List Nat) (d : Nat) (s : State) (e : Nat) : State :=
  let s := fput s d e Fl.ENG_BINDING_BANK 0xFF
  if quals.contains e then
    match banks[quals.idxOf e]? with
    | some b => bindBank (fput s d e Fl.ENG_STATUS_ROLE 0) d e b
    | none => fput s d e Fl.ENG_STATUS_ROLE 1
  else fput s d e Fl.ENG_STATUS_ROLE (if unitGood s d e then 2 else 3)

/-- Self-test a matrix die and make its engines active. -/
def testEngines (f : Findings) (s : State) (d : Nat) : State :=
  let s := (List.range 34).foldl (testEngine f d) s
  let quals := (List.range 34).filter (qualifies s d)
  let banks := (List.range 32).filter fun b => fget s (d + 8) b Fl.NST_BANK_STATE != 2
  let s := (List.range 34).foldl (placeRole quals banks d) s
  if quals.length < 32 ∨ banks.length < 32 then raise s 0x0F31 2 (unitId d 0 0) else s

/-- Repair and self-test of a list of matrix dies. -/
def testDies (f : Findings) (s : State) (l : List Nat) : State :=
  l.foldl (fun s d => testEngines f (repairNear f s d) d) s

/-! ### Partition full reset: steps 4 and 5 (R293, R397, R400, R402) -/

/-- A link with an end on one of the dies. -/
def touches (l : List Nat) (d p : Nat) : Bool := l.contains d || l.contains (lnkPeer d p).1

/-- A link fails its training at a partition full reset: event 0x0511; a port or system link detaches its die when it was
the last. -/
def resetLinkFail (s : State) (x : Nat × Nat × Nat) : State :=
  if lossClass x.1 x.2.1 = 2 then linkLoss s x.1 x.2.1 x.2.2
  else raise s 0x0511 3 (lnkUnit x.1 x.2.1) 0 (lossDetail x.1 x.2.1 x.2.2)

/-- Training at the end of a partition full reset. The partition stays fenced when a link other than a port or system
link fails. -/
def finishPart (f : Findings) (s : State) (p : Nat) : State :=
  let dies := partAllDies s p
  let t := trainLinks s f dies.contains (touches dies)
  let bad := t.1
  let s := bad.foldl resetLinkFail t.2
  let s := testDies f (trainHbm f s p) (partDies s p)
  let s : State := { s with rst := { s.rst with parts := s.rst.parts.filter (· != p) } }
  if bad.any fun x => lossClass x.1 x.2.1 != 2 then
    setPartState { s with rst := { s.rst with fenced := insertNat s.rst.fenced p } } p 2
  else setPartState s p 0

def doPartitionResetComplete (p : Nat) (f : Findings) (s : State) : State :=
  if s.rst.parts.contains p ∧ s.rst.kind.rank < 2 then finishPart f s p else s

def execPartitionResetComplete (part : Nat) (f : Findings) (s : State) : Host.Outcome State Fault Refusal :=
  .next (doPartitionResetComplete part f s)

/-! ### DDR (R382 to R385) -/

/-- A valid population (R383). -/
def ddrValid (d : DdrFound) : Bool :=
  d.identical && d.trained && d.pop0 == d.pop1 && (d.pop0 == 0xFF || d.pop0 == 0x55 || d.pop0 == 0x11)

/-- DDR_POPULATION of both host dies after training. A population that breaks R383 leaves DDR unmapped, and in a retraining it
stays so until the next system reset (R514). -/
def setDdr (s : State) (d : DdrFound) : State :=
  let one (s : State) (h : Nat) (pop : BitVec 8) : State :=
    let s := fput (fput s h 0 Fl.DDR_POPULATION_POPULATED pop.toNat) h 0 Fl.DDR_POPULATION_FAILED 0
    let s := fput (fput s h 0 Fl.DDR_POPULATION_CHANNEL_GIB d.channelGib) h 0 Fl.DDR_POPULATION_MTS d.mts
    fput (fput s h 0 Fl.DDR_POPULATION_TYPE d.kind) h 0 Fl.DDR_POPULATION_DPC d.dpc
  let s := startControllers (startControllers (one (one s 16 d.pop0) 17 d.pop1) 16) 17
  { s with ddr := d, rst := { s.rst with ddrUnmapped := s.rst.ddrUnmapped || !ddrValid d } }

/-! ### The plate (R484, R496, R544) -/

/-- Bytes `o` to `o + n - 1` of a list. -/
def slice (l : List Byte) (o n : Nat) : List Byte := (l.drop o).take n

/-- The trailer of an image (R495). -/
def trailer (b : List Byte) : List Byte := b.drop (b.length - 256)

/-- The signed digest of an image: its body and trailer bytes 0–159. -/
def imageDigest (b : List Byte) : BitVec 384 := Config.sha384 (b.take (b.length - 96))

/-- SVN, ROLLBACK_INDEX, KEY_SLOT and PUBLIC_KEY of an image. -/
def imageSvn (b : List Byte) : Nat := leNat (slice (trailer b) 4 4)
def imageCounter (b : List Byte) : Nat := leNat (slice (trailer b) 8 1)
def imageSlot (b : List Byte) : Nat := leNat (slice (trailer b) 9 1)
def imageKey (b : List Byte) : List Byte := slice (trailer b) 16 97

/-- MAGIC, the reserved bytes, BODY_BYTES and the length are right (R495). -/
def imageFormat (b : List Byte) : Bool :=
  let t := trailer b
  let body := leNat (slice t 12 4)
  decide (256 ≤ b.length) && decide (b.length ≤ 0x400_0000) && leNat (slice t 0 4) == 0x4B4D5347 &&
    (slice t 10 2 ++ slice t 113 47).all (· == 0) && body % 64 == 0 && body + 256 == b.length

/-- The digest that a slot holds. -/
def slotDigest (s : State) (slot : Nat) : BitVec 384 := (smGet s.sec.keys slot).getD (Config.keyDigest slot)

def slotProgrammed (s : State) (slot : Nat) : Bool := (fget s 24 0 Fl.SEC_STATUS_PROGRAMMED).testBit slot
def slotRevoked (s : State) (slot : Nat) : Bool := (fget s 24 0 Fl.SEC_STATUS_REVOKED).testBit slot

/-- The first check of R496 that an image fails, of those whose key slot is below `slots` and whose SVN is compared with a
counter; 0 when it passes. -/
def imageCheck (s : State) (b : List Byte) (slots counter : Nat) (lengthOk signed : Bool) : Nat :=
  let slot := imageSlot b
  if !imageFormat b ∨ !lengthOk then 1
  else if slots ≤ slot ∨ !slotProgrammed s slot ∨ slotRevoked s slot ∨ Config.sha384 (imageKey b) ≠ slotDigest s slot then 2
  else if !signed then 3
  else if 16 ≤ counter ∨ imageSvn b < rollback s counter then 4
  else 0

/-- The first check of R496 that a plate fails, its own length field among them; 0 when it passes. The verdict on the
signature is part of the operand (log 128). -/
def plateCheck (s : State) (x : PlateImage) : Nat :=
  imageCheck s x.bytes 4 (imageCounter x.bytes) (leNat (slice x.bytes 0 4) + 256 == x.bytes.length) x.signatureOk

/-- A source that holds an acceptable plate. -/
def goodPlate (s : State) (x : Option PlateImage) : Option PlateImage := x.filter fun y => plateCheck s y == 0

/-- The plate that the start takes: the source that gave it, the image, and whether the other bank was tried; or the
failure code. -/
def choosePlate (s : State) (b : BootInput) (source : Nat) : Except Nat (Nat × PlateImage × Bool) :=
  let first := if source = 0 then b.flashA else b.flashB
  let second := if source = 0 then b.flashB else b.flashA
  if source ≤ 1 then
    match goodPlate s first, goodPlate s second with
    | some x, _ => .ok (source, x, false)
    | none, some x => .ok (1 - source, x, true)
    | none, none => .error 1
  else
    match b.recovery with
    | none => .error 2
    | some x => if plateCheck s x = 0 then .ok (source, x, false) else .error 1

/-- A measurement register (R499). -/
def mrGet (s : State) (n : Nat) : BitVec 384 := smGetD s.sec.mrs 0 n

/-- Bytes of a number, the highest first. -/
def beBytes (n v : Nat) : List Byte := (leBytes n v).reverse

/-- Extend a measurement register with a digest. -/
def mrExtend (s : State) (n : Nat) (d : BitVec 384) : State :=
  let v := Config.sha384 (beBytes 48 (mrGet s n).toNat ++ beBytes 48 d.toNat)
  { s with sec := { s.sec with mrs := smPut s.sec.mrs n v } }

/-- The extension of MR7 at an unlock to a level, and at each boot while unlocked: SHA-384 of "KM9 DEBUG" and the level. -/
def mrDebug (s : State) (level : Nat) : State :=
  mrExtend s 7 (Config.sha384 (([0x4B, 0x4D, 0x39, 0x20, 0x44, 0x45, 0x42, 0x55, 0x47] : List Byte) ++ [BitVec.ofNat 8 level]))

/-- Enter the plate that was accepted: PLATE_SLOT, MR0 to MR4, and the images that slot A of each controller takes and that run
now (R504). -/
def enterPlate (s : State) (b : BootInput) (source : Nat) (x : PlateImage) : State :=
  let svn := imageSvn x.bytes
  let s := fput s 24 0 Fl.SEC_STATUS_PLATE_SLOT (imageSlot x.bytes)
  let s := fput (fput s 24 0 Fl.BOOT_STATUS_SOURCE source) 24 0 Fl.BOOT_STATUS_PLATE_KIB ((x.bytes.length + 1023) / 1024)
  let s := (b.firmware.take 4).zipIdx.foldl (fun s d => mrExtend s (d.2 + 1) d.1) (mrExtend s 0 (imageDigest x.bytes))
  let s : State := { s with
    rst := { s.rst with plate := some x.plate }
    sec := { s.sec with
      svns := (List.range 5).map fun i => (i, svn)
      firmwareB := 0
      slots := (b.firmware.take 4).zipIdx.map fun d => (2 * d.2, (d.1, svn)) } }
  let level := fget s 24 0 Fl.SEC_STATUS_DEBUG_LEVEL
  if level = 0 then s else mrDebug s level

/-- DIE_PARTITION of every die (R19). -/
def setMode (s : State) (mode : Nat) : State :=
  (List.range 25).foldl (fun s d =>
    let t := dieType d
    let h := if d < 8 then d / 2 else if d < 16 then (d - 8) / 2 else d - 18
    let p := if t = 0 ∨ t = 1 ∨ t = 3 then partOfHubIdx mode h else 0xF
    fput (fput s d 0 Fl.DIE_PARTITION_MODE mode) d 0 Fl.DIE_PARTITION_PARTITION p) s

/-- Lanes and presence of the root ports under the split that the plate sets: without lanes a port is absent. -/
def setRootPorts (s : State) : State :=
  (List.range 16).foldl (fun s g => fput s (rpDie g) (g % 8) Fl.PCI_RP_STATE_STATE (if rpLanes s g = 0 then 0 else 1)) s

/-- Step 5: apply every setting of the plate, with the defaults of R544; the partition mode at power-on only. The pin
PWR_CAP_REQ_N is sampled from here on (R534). -/
def applyPlate (s : State) (pl : Plate) (powerOn : Bool) : State :=
  let s := if powerOn then setMode s (pl.mode.getD 0) else s
  let s := [18, 19, 20, 21].foldl (fun s h =>
    fput (fput s h 0 Fl.TIER_CATALOG_BASE ((pl.catalogBase.getD 0) / 2 ^ 21)) h 0 Fl.TIER_CATALOG_SIZE (pl.catalogSize.getD 0)) s
  let s := fput (fput s 24 0 Fl.PWR_CEILING_CEILING_W (pl.ceilingW.getD 1200)) 24 0 Fl.PWR_CEILING_CAP_REQ_W (pl.capReqW.getD 1200)
  let s := [22, 23].foldl (fun s d =>
    let s := fput s d 0 Fl.NET_DEVICE_DEVICE_ID (pl.deviceId.getD 0)
    fput (fput s d 0 Fl.PCI_BIFURCATION_HALF0 (pl.half0.getD 0)) d 0 Fl.PCI_BIFURCATION_HALF1 (pl.half1.getD 0)) s
  let s : State := { s with pins := { s.pins with gpioOut := pl.gpioOut.getD 0 } }
  let cap := !s.pins.capReqN
  let s := fput { s with power := { s.power with capReq := cap } } 24 0 Fl.PWR_STATUS_CAP_REQ (b2n cap)
  setRootPorts s

/-! ### Start-up (R473, R482, R485) -/

/-- A start fails: the sequence stops and every domain but the system die's is off (R485). -/
def failStart (s : State) (code : Nat) : State :=
  let s := fput (fput s 24 0 Fl.BOOT_STATUS_STAGE 15) 24 0 Fl.BOOT_STATUS_CODE code
  { s with
    rst := { s.rst with stopped := true, deadDies := List.range 24 }
    uart0 := s.uart0 ++ [code] }

/-- Band of a sample of CFG_SENSE. -/
def strapBand (mv : Nat) : Nat := min 15 (mv * 10 / 1125)

def insertSorted (a : Nat) : List Nat → List Nat
  | [] => [a]
  | x :: r => if a ≤ x then a :: x :: r else x :: insertSorted a r

/-- Step 2: the strap is sensed and latched (R473, R474). -/
def senseStrap (s : State) (mv : List Nat) : State :=
  let l := mv.foldr insertSorted []
  let m := l[7]?.getD 1800
  let band := strapBand m
  let unstable := strapBand (l.head?.getD m) != strapBand (l.getLast?.getD m)
  let s := fput (fput s 24 0 Fl.STRAP_STATUS_UNSTABLE (b2n unstable)) 24 0 Fl.STRAP_STATUS_MILLIVOLTS m
  let s := fput (fput s 24 0 Fl.STRAP_STATUS_BAND band) 24 0 Fl.STRAP_STATUS_EYEPIECE (b2n (decide (band < 8)))
  let s := fput s 24 0 Fl.STRAP_STATUS_HBM_LINEAR (b2n (decide (band % 8 < 4)))
  let s := fput s 24 0 Fl.STRAP_STATUS_BOOT_SOURCE ([3, 2, 1, 0][band % 4]?.getD 0)
  fput s 24 0 Fl.DBG_CTL_EYEPIECE_EN (b2n (decide (band < 8)))

/-- A persistent register whose copy fails its check is loaded as 0 (R489). -/
def loadBad (s : State) (n : Nat) : State :=
  raise (putPersist s n { getPersist s n with value := 0, pendingV := none }) 0x0F22 2 prsUnit

/-- Step 3: the persistent array is loaded; at power-on, a record in register 0 enters the history and is cleared. -/
def loadPersist (s : State) (bad : List Nat) (powerOn : Bool) : State :=
  if !powerOn then s
  else
    let s := bad.foldl loadBad s
    let s := match bad.foldr insertSorted [] with
      | [] => s
      | n :: _ => fput (fput s 24 0 Fl.PRS_STATUS_BAD 1) 24 0 Fl.PRS_STATUS_BAD_REG n
    let r := (persistRead s 0).toNat
    if r.testBit 63 then persistPut (recordCause s (r % 256) 0 (bits r 31 16)) 0 0
    else recordCause s 0x01 0 0

/-- Step 4: where the plate is read from; BOOT_NEXT applies at a system reset and is then cleared. -/
def plateSource (s : State) (powerOn : Bool) : Nat × State :=
  if !powerOn ∧ fget s 24 0 Fl.BOOT_NEXT_VALID = 1 then
    (fget s 24 0 Fl.BOOT_NEXT_BANK, fput s 24 0 Fl.BOOT_NEXT_VALID 0)
  else (fget s 24 0 Fl.STRAP_STATUS_BOOT_SOURCE, s)

/-- The steppings that the dies report (R398): stepping A is epoch 1, stepping B epoch 2; the package is A when every die
is. -/
def fuseEpochs (s : State) (l : List Nat) : State :=
  let pkg := if l.all (· == 1) then 0x0A else 0x0B
  { s with fuses := l.zipIdx.foldl (fun f x =>
      let st := if x.1 = 1 then 0x0A else 0x0B
      smPut (smPut f (regKey x.2 .dieEpoch 0) (BitVec.ofNat 64 x.1)) (regKey x.2 .dieStepping 0)
        (BitVec.ofNat 64 (pkg * 2 ^ 16 + st * 2 ^ 8))) s.fuses }

def epochOf (s : State) (d : Nat) : Nat := fget s d 0 Fl.DIE_EPOCH_FEATURE_EPOCH

/-- The combinations of epochs that Kaonnar ships (R399): every die the same, or only both host dies A. -/
def steppingOk (l : List Nat) : Bool :=
  let e (d : Nat) : Nat := l.getD d 2
  let rest := (List.range 25).filter fun d => d != 16 && d != 17
  rest.all (fun d => e d == e 24) && e 16 == e 17 && (e 16 == e 24 || e 16 == 1)

/-- DIE_EPOCH_EFFECTIVE of every die: the lowest epoch, and the features disabled below epoch 2. -/
def setEpochs (s : State) : State :=
  let e := (List.range 25).foldl (fun m d => min m (epochOf s d)) 255
  (List.range 25).foldl (fun s d =>
    let s := fput (fput s d 0 Fl.DIE_EPOCH_EFFECTIVE_VALID 1) d 0 Fl.DIE_EPOCH_EFFECTIVE_EFFECTIVE_EPOCH e
    fput s d 0 Fl.DIE_EPOCH_EFFECTIVE_FEATURES_DISABLED (if e < 2 then 7 else 0)) s

/-- A link that joins a host die and a hub. -/
def hostHub (d p : Nat) : Bool :=
  (dieType d == 2 && dieType (lnkPeer d p).1 == 3) || (dieType d == 3 && dieType (lnkPeer d p).1 == 2)

/-- Links that cannot be trained at a power-on or system reset have the consequences of R400, one after another until a reset
has begun. -/
def bootLinkFails (s : State) (bad : List (Nat × Nat × Nat)) : State :=
  bad.foldl (fun s x => if s.rst.kind = .none then linkLoss s x.1 x.2.1 x.2.2 else s) s

/-- DERATE of every core from the persistent array; a core below 2.5 GHz is retired (R322, R486). -/
def loadDerate (s : State) : State :=
  everyCore.foldl (fun s x =>
    let v := bits (persistRead s (derateReg x.1 x.2)).toNat (x.2 % 8 * 8 + 7) (x.2 % 8 * 8)
    if v = 0 then s
    else
      let s := fput s x.1 x.2 Fl.CORE_STATE_DERATE v
      if coreTop s x.1 x.2 < 100 ∧ coreRole s x.1 x.2 ≤ 1 then retireCore s x.1 x.2 else s) s

/-- Step 11: the cores that the plate marks are released. -/
def releaseCores (s : State) (pl : Plate) : State :=
  pl.releasedCores.foldl (fun s x => if coreRole s x.1 x.2 ≤ 1 ∧ unitGood s x.1 x.2 then startCore s x.1 x.2 pl.bootAddr else s) s

/-- Steps 10 and 11: the event log opens, the records of the start are written, and the host cores are released. -/
def openStart (s : State) (pl : Plate) (fallback unstable : Bool) : State :=
  let s := match pl.evtLog with
    | some w => if fldOf Fl.EVT_LOG_ENABLE w = 1 then doEvtLogEnable w s else fput s 24 0 Fl.EVT_LOG_BASE (fldOf Fl.EVT_LOG_BASE w)
    | none => s
  let s := if fallback then raise s 0x0F70 1 bootUnit else s
  let s := if unstable then raise s 0x0F72 1 strapUnit else s
  let s := raise s 0x0F73 0 rstUnit 0 ((rget s 24 .rstCause 0).setWidth 128)
  fput (releaseCores (loadDerate s) pl) 24 0 Fl.BOOT_STATUS_STAGE 11

/-- Steps 6 to 11 after the links are trained. -/
def startRest (s : State) (b : BootInput) (pl : Plate) (powerOn fallback : Bool) : State :=
  let s := setEpochs s
  if !steppingOk b.epochs then failStart (raise s 0x0F58 3 domeUnit) 4
  else
    let s := (List.range (partCount (modeOf s))).foldl (trainHbm b.findings) s
    let s := setDdr s b.ddr
    if !ddrValid b.ddr then failStart s 3
    else
      let s := testDies b.findings s (List.range 8)
      openStart s pl fallback (powerOn && fget s 24 0 Fl.STRAP_STATUS_UNSTABLE == 1)

/-- Steps 5 to 11: SYS_RST_N is released, and the reset has ended. A hub-to-hub link that cannot be trained starts a system
reset anew (R400). -/
def startFrom5 (s : State) (b : BootInput) (pl : Plate) (powerOn fallback : Bool) : State :=
  let s := applyPlate s pl powerOn
  let s : State := { s with
    pins := { s.pins with sysRstDriven := false, sysRstBoard := false, highZ := false, clocks := b.portClocks }
    jtag := { s.jtag with ir := if 3 ≤ s.jtag.ir ∧ s.jtag.ir ≤ 5 then 0 else s.jtag.ir } }
  let s := fuseEpochs s b.epochs
  let t := if b.linkClock then trainLinks s b.findings (fun _ => true) fun _ _ => true else ([], s)
  match t.1.find? fun x => hostHub x.1 x.2.1 with
  | some x => failStart (raise t.2 0x0511 3 (lnkUnit x.1 x.2.1) 0 (lossDetail x.1 x.2.1 x.2.2)) 5
  | none =>
    if !b.linkClock then failStart t.2 5
    else
    let s := bootLinkFails { t.2 with rst := { t.2.rst with kind := .none } } t.1
    if s.rst.kind = .none then startRest s b pl powerOn fallback else s

/-- START_UP: the sequence of R482 from step 2 after a power-on reset, from step 3 after a system reset. Without SYSREF25 the
M9 stays at step 1 (R533), and a board that holds SYS_RST_N low lengthens a system reset (R478). -/
def doStartUp (b : BootInput) (s : State) : State :=
  let powerOn := decide (s.rst.kind = .powerOn)
  if s.rst.kind.rank < 2 ∨ !s.pins.pwrGood ∨ s.rst.stopped then s
  else if s.rst.kind = .system ∧ s.pins.sysRstBoard ∧ b.boardHolds then s
  else if !b.sysref then fput s 24 0 Fl.BOOT_STATUS_STAGE 1
  else
    let s := if powerOn then senseStrap s b.strapMv else s
    let s := loadPersist s b.badPersist powerOn
    let src := plateSource s powerOn
    match choosePlate src.2 b src.1 with
    | .error code => failStart src.2 code
    | .ok (source, x, fallback) => startFrom5 (enterPlate src.2 b source x) b x.plate powerOn fallback

def execStartUp (b : BootInput) (s : State) : Host.Outcome State Fault Refusal := .next (doStartUp b s)

/-! ### Service operations that train (R511, R513, R514) -/

def refuseService (s : State) (result : Nat) : State :=
  fput (fput s 24 0 Fl.DBG_SERVICE_REJECTED 1) 24 0 Fl.DBG_SERVICE_RESULT result

/-- Accept an operation and show it. -/
def acceptService (s : State) (op arg : Nat) : State :=
  let s := fput (fput s 24 0 Fl.DBG_SERVICE_REJECTED 0) 24 0 Fl.DBG_SERVICE_RESULT 0
  fput (fput s 24 0 Fl.DBG_SERVICE_OP op) 24 0 Fl.DBG_SERVICE_ARG arg

def serviceBusy (s : State) : Bool := fget s 24 0 Fl.DBG_SERVICE_BUSY == 1

/-- Step 4 of R293 for the dies of one partition of the mode in force, without the records and the event of steps 2 and 3. -/
def clearPart (s : State) (p : Nat) : State :=
  clearRegs (clearAccel (clearPipes (clearHbm s p) p) p) (byPart (partAllDies s p))

/-- SET_PARTITION_MODE (R513). -/
def doSetPartitionMode (mode : Nat) (f : Findings) (s : State) : State :=
  if serviceBusy s then refuseService s 1
  else if !(s.ctxs.all fun c => ctxState c.2 == stDisabled) ∨ 3 ≤ mode ∨ !s.rst.parts.isEmpty ∨ s.rst.kind ≠ .none then refuseService s 2
  else
    let s := acceptService s 2 mode
    let s := (List.range (partCount (modeOf s))).foldl clearPart s
    let s := (List.range 4).foldl (fun s p => setPartState s p 0) (setMode s mode)
    let s : State := { s with rst := { s.rst with fenced := [] } }
    let s := (List.range (partCount mode)).foldl (finishPart f) s
    raise s 0x0F90 0 domeUnit

def execSetPartitionMode (mode : Nat) (f : Findings) (s : State) : Host.Outcome State Fault Refusal :=
  .next (onDie s 24 fun s => doSetPartitionMode mode f s)

/-- A ring of an enabled context lies in DDR. -/
def ringInDdr (s : State) (x : Ctx) : Bool :=
  ctxState x != stDisabled && ([x.cmdRing, x.cplRing, x.evtRing].any fun w => paKind s (ringBase w) == .ddr)

/-- The acceptance conditions of RETRAIN_DDR (R514). -/
def retrainOk (s : State) : Bool :=
  fget s 24 0 Fl.EVT_LOG_ENABLE == 0 && [16, 17].all (fun d => fget s d 0 Fl.WLK_FAULT_RING_ENABLE == 0) &&
  [18, 19, 20, 21].all (fun h => fget s h 0 Fl.TIER_HINT_CTL_THRESHOLD == 0) && fget s 24 0 Fl.DBG_CTL_TRACE_EN == 0 &&
  s.ctxs.all (fun c => !ringInDdr s c.2) && s.regions.isEmpty && s.net.qps.all (fun q => q.2.state == 0)

/-- Bytes of the DDR range. -/
def ddrRange : Nat × Nat := (0, 0x0400_0000_0000)

/-- What is open on a DDR line ends first: its messages are delivered and what waits for it is served. -/
def settleDdr (s : State) : State :=
  let open_ (h : Home) : List Nat := h.txns.map (·.line) ++ (h.queue ++ h.retry ++ h.held).map (·.line)
  let l := s.coh.homes.flatMap (fun h => open_ h.2) ++ s.coh.data.map (·.line) ++ s.coh.probes.map (·.line) ++ s.coh.resps.map (·.line)
  ((l.filter (inRange ddrRange)).dedup).foldl (settleLine 256) s

/-- Every modified DDR line of the coherent domain is written back to its home (R514). -/
def writeBackDdr (s : State) : State :=
  let mine (l : List CacheLine) : List CacheLine := l.filter fun x => x.st == .m && inRange ddrRange x.line
  let all := (s.cores.flatMap fun c => mine c.2.l2) ++ (s.coh.l3.flatMap fun c => mine c.2) ++ s.coh.link.flatMap fun c => mine c.2
  all.foldl (fun s x => wbPut s (homeOf s x.line) x.line x.data) s

/-- RETRAIN_DDR: modified DDR lines are written back, cached copies of DDR lines are given up, the channels are trained again,
and DDR is cleared. -/
def doRetrainDdr (d : DdrFound) (s : State) : State :=
  if serviceBusy s then refuseService s 1
  else if !retrainOk s ∨ s.rst.kind ≠ .none then refuseService s 2
  else
    let s := acceptService s 3 0
    let keep (l : List CacheLine) : List CacheLine := l.filter fun x => !inRange ddrRange x.line
    let s := mapL2 (writeBackDdr (settleDdr s)) keep
    let home (h : Home) : Home := { h with dir := h.dir.filter fun e => !inRange ddrRange e.line }
    let s : State := { s with
      mem := memClear s.mem ddrRange.1 ddrRange.2
      poison := s.poison.filter fun a => !inRange ddrRange a
      flaws := s.flaws.filter fun x => !inRange ddrRange x.1
      ceLog := s.ceLog.filter fun x => decide (x.1 < 512)
      rdc := s.rdc.map fun x => (x.1, { x.2 with lines := x.2.lines.filter fun l => !inRange ddrRange l.1 })
      coh := { s.coh with
        homes := s.coh.homes.map fun h => (h.1, home h.2)
        l3 := s.coh.l3.map fun c => (c.1, keep c.2)
        link := s.coh.link.map fun c => (c.1, keep c.2)
        data := s.coh.data.filter fun m => !inRange ddrRange m.line
        probes := s.coh.probes.filter fun m => !inRange ddrRange m.line
        resps := s.coh.resps.filter fun m => !inRange ddrRange m.line } }
    let s := setDdr s d
    let s := if ddrValid d then s else fput s 24 0 Fl.DBG_SERVICE_RESULT 3
    raise s 0x0F91 1 domeUnit 0 ((rget s 16 .ddrPopulation 0).setWidth 128)

def execRetrainDdr (d : DdrFound) (s : State) : Host.Outcome State Fault Refusal := .next (onDie s 24 fun s => doRetrainDdr d s)

end Sys2Proof.Machine
end

