-- ==== Sys2Proof/Machine/Irq.lean ====
section
/-! DEFINITION. The interrupt controllers of the host dies (R336 to R339). -/

namespace Sys2Proof.Machine

/-- A routing entry at reset. -/
def Vec.fresh : Vec := ⟨false, 0, 0, false, none⟩
def getVec (s : State) (v : Nat) : Vec := smGetD s.vecs Vec.fresh v
def putVec (s : State) (v : Nat) (x : Vec) : State := { s with vecs := smPut s.vecs v x }

/-- The host die whose controller a vector belongs to (R336). -/
def vecDie (v : Nat) : Nat := 16 + v / 32768

/-- Whether a unit ID names an online core. -/
def onlineUnit (s : State) (unit : Nat) : Bool := (unitCore unit).any fun p => coreUp s p.1 p.2

/-- A message reaches the controller: PENDING is set, and a target that is not an online core is counted (R337). -/
def vecMessage (s : State) (v : Nat) : State :=
  let x := getVec s v
  let s := putVec s v { x with pending := true }
  if onlineUnit s x.target then s else fsat s (vecDie v) 0 Fl.IRQ_COUNT_UNROUTABLE 1

/-- IRQ_MESSAGE: the oldest message of a vector that is on its way arrives. -/
def doIrqMessage (v : Nat) (s : State) : State :=
  if s.irqOut.contains v then vecMessage { s with irqOut := s.irqOut.erase v } v else s

def execIrqMessage (vector : Nat) (s : State) : Host.Outcome State Fault Refusal := .next (doIrqMessage vector s)

/-- The vector that a read of IRQ_ACK_n returns for a core: enabled, pending, not in service, of the highest priority, and
the lowest number among those (R337, R338). -/
def ackVector (s : State) (unit : Nat) : Option Nat :=
  let l := s.vecs.filter fun p => p.2.enable && p.2.pending && p.2.inService.isNone && p.2.target == unit
  let top := (l.map fun p => p.2.priority).foldl max 0
  (l.find? fun p => p.2.priority == top).map (·.1)

/-- Whether the controller signals a core: a vector that it may take has a priority above the core's running one (R338). -/
def irqSignal (s : State) (unit : Nat) : Bool :=
  let run := (s.vecs.filter fun p => p.2.inService == some unit).map fun p => p.2.priority
  (ackVector s unit).any fun v => run.all fun p => decide (p < (getVec s v).priority)

/-- A read of IRQ_ACK_n: the word read, and the vector in service. -/
def readAck (s : State) (d c : Nat) : BitVec 64 × State :=
  match ackVector s (coreUnit d c) with
  | none => (0, s)
  | some v =>
    let s := putVec s v { getVec s v with pending := false, inService := some (coreUnit d c) }
    (BitVec.ofNat 64 (2 ^ 63 + v), fsat s d 0 Fl.IRQ_COUNT_DELIVERED 1)

/-- The core's read of IRQ_ACK_n returns its vector. -/
def doIrqAck (d c : Nat) (s : State) : State := onDie s d fun s =>
  let q := readAck s d c
  modCore q.2 d c fun x => { x with result := .value q.1 }

/-- The core's write of IRQ_EOI_n: the vector leaves service, or the write is ignored and counted (R338). -/
def doIrqEoi (d c v : Nat) (s : State) : State := onDie s d fun s =>
  if (getVec s v).inService = some (coreUnit d c) then putVec s v { getVec s v with inService := none }
  else fsat s d 0 Fl.IRQ_COUNT_EOI_IGNORED 1

/-- IRQ_IPI: PENDING of a vector of this die's controller, or REJECTED (R339). -/
def doIrqIpi (d v : Nat) (s : State) : State :=
  if vecDie v = d then vecMessage (fput s d 0 Fl.IRQ_IPI_REJECTED 0) v else fput s d 0 Fl.IRQ_IPI_REJECTED 1

def execIrqIpi (die vector : Nat) (s : State) : Host.Outcome State Fault Refusal := .next (onDie s die fun s => doIrqIpi die vector s)

end Sys2Proof.Machine
end

