-- ==== Sys2Proof/Machine/Media.lean ====
section
/-! DEFINITION. The media engines: job entries, pipelines, output layouts and the conversion of samples to tensors (R458 to
R472). What the codecs compute is opaque (log 5). -/

namespace Sys2Proof.Machine

/-! ### Job entries (R460, R461) -/

def eOp (b : List Byte) : Nat := imgNum b 0 1
def eCodec (b : List Byte) : Nat := imgNum b 1 1
def eKind (b : List Byte) : Nat := imgNum b 2 1
def eFlags (b : List Byte) : Nat := imgNum b 3 1
def eFrames (b : List Byte) : Nat := imgNum b 4 4
def eWidth (b : List Byte) : Nat := imgNum b 56 2
def eHeight (b : List Byte) : Nat := imgNum b 58 2
def eTileW (b : List Byte) : Nat := imgNum b 60 1
def eTileH (b : List Byte) : Nat := imgNum b 61 1
def eEncode (b : List Byte) : Bool := eOp b == 2

/-- Largest quantiser of an encoder's codec: AV1 and H.265 (PRESUMED, log 84). -/
def qpMax (codec : Nat) : Nat := if codec = 0 then 255 else 51

/-- Samples of a frame, by chroma format: 0 4:0:0, 1 4:2:0, 2 4:2:2, 3 4:4:4. -/
def frameLen (w h chroma : Nat) : Nat := w * h * [2, 3, 4, 6].getD chroma 6 / 2

/-- Scratch that an entry needs (R464). -/
def scratchNeed (b : List Byte) (chroma : Nat) : Nat :=
  let d := if eEncode b then 3 else [8, 16, 16, 0].getD (eCodec b) 0
  (d + 1) * frameLen (eWidth b) (eHeight b) chroma * 2

/-- The chroma format of an encode, and the one with the least samples that a decoder's codec supports (R458). -/
def leastChroma (b : List Byte) : Nat := if eEncode b then 1 else if eCodec b = 3 then 2 else 0

/-- Whether a decoder supports a profile, bit depth and chroma format (R458). -/
def supported (codec profile depth chroma : Nat) : Bool :=
  match codec with
  | 0 => decide (profile < 2) && (depth == 8 || depth == 10) && (decide (chroma < 2) || (chroma == 3 && profile == 1))
  | 1 => decide (profile < 5) && decide (8 ≤ depth) && decide (depth ≤ 12) && decide (chroma < 3)
  | 2 => profile == 0 && (depth == 8 || depth == 10) && decide (chroma < 2)
  | 3 => decide (profile < 2) && decide (8 ≤ depth) && decide (depth ≤ 12) && (chroma == 2 || chroma == 3)
  | _ => false

/-- Whether an entry breaks R459, R460 or R461 by its own bytes. -/
def entryBad (b : List Byte) : Bool :=
  let enc := eEncode b
  let tensor := !enc && eKind b != 0
  (eOp b != 1 && eOp b != 2) || decide ((if enc then 1 else 3) < eCodec b) || (!enc && decide (2 < eKind b)) ||
    decide (8 ≤ eFlags b) || imgNum b 63 1 != 0 || leNat ((b.drop 92).take 20) != 0 ||
    eFrames b == 0 || imgNum b 16 8 == 0 || imgNum b 32 8 == 0 ||
    decide (eWidth b < 16) || decide (8192 < eWidth b) || eWidth b % 2 != 0 ||
    decide (eHeight b < 16) || decide (4352 < eHeight b) || eHeight b % 2 != 0 ||
    (tensor && (eTileW b == 0 || eTileH b == 0 || decide (32 < eTileW b) || decide (32 < eTileH b) ||
      decide (1024 < eTileW b * eTileH b * 3))) ||
    (enc && !(eFlags b).testBit 2 && decide (qpMax (eCodec b) < imgNum b 62 1)) ||
    decide (imgNum b 48 8 < scratchNeed b (leastChroma b))

/-- Whether a buffer of an entry reaches past the virtual space (R280). -/
def entryPast (b : List Byte) : Bool :=
  [8, 24, 40].any fun o => decide (2 ^ 57 < imgNum b o 8 + imgNum b (o + 8) 8)

/-! ### Layouts (R459, R464 to R466) -/

/-- Planes of a frame as (width, height), by chroma format: 0 4:0:0, 1 4:2:0, 2 4:2:2, 3 4:4:4. -/
def planes (w h chroma : Nat) : List (Nat × Nat) :=
  match chroma with
  | 0 => [(w, h)]
  | 1 => [(w, h), (w / 2, h / 2), (w / 2, h / 2)]
  | 2 => [(w, h), (w / 2, h), (w / 2, h)]
  | _ => [(w, h), (w, h), (w, h)]

/-- Bytes of a planar frame: rows at multiples of 64 bytes. -/
def planarBytes (w h chroma : Nat) : Nat := ((planes w h chroma).map fun p => roundUp (2 * p.1) 64 * p.2).sum

/-- Frames of 16-bit samples as rows of planes. -/
def planeRows (w h chroma : Nat) (samples : List Nat) : List (List Nat) :=
  ((planes w h chroma).foldl (fun (q : List (List Nat) × List Nat) p =>
    (q.1 ++ (List.range p.2).map fun y => (q.2.drop (y * p.1)).take p.1, q.2.drop (p.1 * p.2))) ([], samples)).1

/-- The bytes of a planar frame of samples of `depth` bits; the spec gives the bytes between rows no value, so they are
free. -/
def planarOut (s : State) (w h chroma depth : Nat) (samples : List Nat) : List Byte × State :=
  let rows := (planeRows w h chroma samples).map fun r => leRow (r.map fun v => v % 2 ^ depth)
  let pad (n i : Nat) : List Byte := (List.range n).map fun j => BitVec.ofNat 8 (Config.free (s.fresh + i * 64 + j)).toNat
  let out := rows.zipIdx.flatMap fun p => p.1 ++ pad (roundUp p.1.length 64 - p.1.length) p.2
  (out, { s with fresh := s.fresh + rows.length * 64 })
where
  /-- Samples as 16-bit little-endian values. -/
  leRow (r : List Nat) : List Byte := r.flatMap fun v => leBytes 2 v

/-! ### Samples to tensors (R466, R467) -/

/-- Numerators over 10,000 of Kr and Kb. -/
def kr (flags : Nat) : Nat := if flags.testBit 1 then 2627 else 2126
def kb (flags : Nat) : Nat := if flags.testBit 1 then 593 else 722

/-- An exact number times an integer. -/
def Num.times (k : Int) (x : Num) : Num := Num.mul (ofInt k 0) x

/-- A normalised luma or chroma sample of depth `d`. -/
def lumaNorm (flags d y : Nat) : Num :=
  if flags.testBit 0 then f32.round (Num.divNat (2 ^ d - 1) (ofInt y 0))
  else f32.round (Num.divNat (219 * 2 ^ (d - 8)) (ofInt ((y : Int) - 16 * 2 ^ (d - 8)) 0))
def chromaNorm (flags d c : Nat) : Num :=
  if flags.testBit 0 then f32.round (Num.divNat (2 ^ d - 1) (ofInt ((c : Int) - 2 ^ (d - 1)) 0))
  else f32.round (Num.divNat (224 * 2 ^ (d - 8)) (ofInt ((c : Int) - 128 * 2 ^ (d - 8)) 0))

/-- Red, green and blue of normalised samples, each formula rounded once. -/
def toRgb (flags : Nat) (y cb cr : Num) : Num × Num × Num :=
  let r := f32.round (Num.divNat 10000 (Num.add (Num.times 10000 y) (Num.times (2 * (10000 - kr flags : Int)) cr)))
  let b := f32.round (Num.divNat 10000 (Num.add (Num.times 10000 y) (Num.times (2 * (10000 - kb flags : Int)) cb)))
  let g := Num.add (Num.add (Num.times 10000 y) (Num.times (-(kr flags : Int)) r)) (Num.times (-(kb flags : Int)) b)
  (r, f32.round (Num.divNat (10000 - kr flags - kb flags) g), b)

/-- A channel clamped, shifted and scaled. -/
def normalise (mean inv v : Num) : Num :=
  let c := Num.max (.fin false 0 0) (Num.min (.fin false 1 0) v)
  f32.round (Num.mul (Num.add c (Num.neg mean)) inv)

/-- The three channels of the pixel at (x, y). -/
def pixel (w h chroma depth flags : Nat) (samples : List Nat) (x y : Nat) : Num × Num × Num :=
  let luma := lumaNorm flags depth (samples.getD (y * w + x) 0)
  if chroma = 0 then (luma, luma, luma)
  else
    let cw := if chroma = 3 then w else w / 2
    let ch := if chroma = 1 then h / 2 else h
    let i := (if chroma = 1 then y / 2 else y) * cw + (if chroma = 3 then x else x / 2)
    toRgb flags luma (chromaNorm flags depth (samples.getD (w * h + i) 0))
      (chromaNorm flags depth (samples.getD (w * h + cw * ch + i) 0))

/-- The code of one element of a record. -/
def tensorCode (b : List Byte) (chroma depth : Nat) (samples : List Nat) (c x y : Nat) : Nat :=
  let w := eWidth b
  let h := eHeight b
  if w ≤ x ∨ h ≤ y then 0
  else
    let p := pixel w h chroma depth (eFlags b) samples x y
    let v := if c = 0 then p.1 else if c = 1 then p.2.1 else p.2.2
    plainCode (if eKind b = 1 then 12 else 13)
      (normalise (f32.decode (imgNum b (64 + 4 * c) 4)) (f32.decode (imgNum b (76 + 4 * c) 4)) v)

/-- The records of a tensor frame, patches in raster order. -/
def tensorRecords (b : List Byte) (chroma depth : Nat) (samples : List Nat) : List (List Nat) :=
  let tw := eTileW b
  let th := eTileH b
  (List.range (cdiv (eHeight b) th)).flatMap fun py => (List.range (cdiv (eWidth b) tw)).map fun px =>
    (List.range 3).flatMap fun c => (List.range th).flatMap fun y => (List.range tw).map fun x =>
      tensorCode b chroma depth samples c (px * tw + x) (py * th + y)

/-- The bytes of a tensor frame. -/
def tensorOut (b : List Byte) (chroma depth : Nat) (samples : List Nat) : List Byte :=
  let width := recLen (3 * eTileW b * eTileH b)
  let rows := padRows 16 width ((tensorRecords b chroma depth samples).map fun r => r.map fun v => (v, false))
  rows.flatMap fun r => r.flatMap fun v => leBytes 2 v.1

/-- Bytes of an output frame, and the distance from one to the next. -/
def outFrame (b : List Byte) (chroma : Nat) : Nat × Nat :=
  if eKind b = 0 then
    let n := planarBytes (eWidth b) (eHeight b) chroma
    (n, roundUp n 4096)
  else
    let n := cdiv (eWidth b) (eTileW b) * cdiv (eHeight b) (eTileH b) * recLen (3 * eTileW b * eTileH b) * 2
    (n, n)

/-! ### Pipelines (R469) -/

/-- The pipelines of a kind, in the order of choice. -/
def pipesOf (encode : Bool) : List (Nat × Nat) :=
  [22, 23].flatMap fun pd => (List.range (if encode then 4 else 8)).map fun i => (pd, if encode then 8 + i else i)

def pipeOn (s : State) (p : Nat × Nat) : Bool := fget s p.1 p.2 Fl.MED_PIPE_ENABLE == 1
def pipeIdle (s : State) (p : Nat × Nat) : Bool := fget s p.1 p.2 Fl.MED_PIPE_STATE == 0

/-- The unit ID of a pipeline. -/
def pipeUnit (p : Nat × Nat) : Nat := if p.2 < 8 then unitId p.1 3 p.2 else unitId p.1 4 (p.2 - 8)

/-- A pipeline takes a command's entry. -/
def givePipe (s : State) (c q : Nat) (p : Nat × Nat) : State :=
  let s := fput (fput s p.1 p.2 Fl.MED_PIPE_STATE 1) p.1 p.2 Fl.MED_PIPE_CONTEXT c
  modCmd { s with mediaQ := s.mediaQ.filter (· != (c, q)) } c q fun k => { k with pipe := some p }

/-- Whether a queued command waits for a pipeline of a kind. -/
def wantsPipe (s : State) (encode : Bool) (x : Nat × Nat) : Bool := (getCmd s x.1 x.2).any fun k => eEncode k.entry == encode

/-- PIPELINE_ASSIGN: the oldest waiting entry of the kind goes to the first enabled idle pipeline. -/
def doPipelineAssign (encode : Bool) (s : State) : State :=
  match s.mediaQ.find? (wantsPipe s encode), (pipesOf encode).find? fun p => pipeOn s p && pipeIdle s p with
  | some x, some p => givePipe s x.1 x.2 p
  | _, _ => s

def execPipelineAssign (encode : Bool) (s : State) : Host.Outcome State Fault Refusal := .next (doPipelineAssign encode s)

/-- End a MEDIA command. -/
def endMedia (s : State) (c q : Nat) (k : Cmd) (status : Nat) : State :=
  endList { s with mediaQ := s.mediaQ.filter (· != (c, q)) } c q k status k.done

/-- The command's next entry, as read, goes to a pipeline, waits for one, or ends the command. -/
def startEntry (s : State) (c q : Nat) (k : Cmd) (b : List Byte) : State :=
  let enc := eEncode b
  if entryBad b then endMedia s c q k 0x0601
  else if entryPast b then endMedia s c q k 0x0103
  else if !((pipesOf enc).any (pipeOn s)) then endMedia s c q k 0x0606
  else doPipelineAssign enc (modCmd { s with mediaQ := s.mediaQ ++ [(c, q)] } c q fun x => { x with entry := b, frames := 0, outBytes := 0 })

/-- MEDIA: the command takes a Finder's command context and reads its next entry, whose last 16 bytes are not read. `e` is what the
check of the Finder's buffers finds (R223). -/
def doMedia (c q : Nat) (e : Ecc) (s : State) : State :=
  match runCmd s c q 5 with
  | none => s
  | some k =>
    if k.pipe.isSome ∨ s.mediaQ.contains (c, q) then s
    else if k.desc.count % 128 ≠ 0 then complete s c q 0x0601 (listDetail 0 none)
    else match k.finder.or (freeFinder s (ctxHub c)) with
      | none => s
      | some f =>
        let s := if k.finder.isNone then showFinders (modCmd s c q fun x => { x with finder := some f }) (ctxHub c) else s
        match k.denied, readVa s (.cmd c q) c (k.desc.argA.toNat + 128 * k.done) 112 with
        | some (st, _), _ => endMedia s c q k st
        | none, (.error .wait, s) => s
        | none, (.error (.fail st), s) => endMedia s c q k st
        | none, (.ok b, s) =>
          if e = .ue then endMedia (finderError s (ctxHub c) f 0 0 c 0x0F33 true) c q k 0x0F33
          else startEntry (finderCe s (ctxHub c) e) c q k b

def execMedia (ctx : Nat) (step : MediaStep) (s : State) : Host.Outcome State Fault Refusal := .next (doMedia ctx step.seq step.ecc s)

/-- MED_PIPE_ENABLE: clearing takes effect when the current entry ends, since it is assigned already. -/
def doMedPipeEnable (pd pipe : Nat) (on : Bool) (s : State) : State := fput s pd pipe Fl.MED_PIPE_ENABLE (b2n on)

def execMedPipeEnable (pd pipe : Nat) (on : Bool) (s : State) : Host.Outcome State Fault Refusal :=
  .next (onDie s pd fun s => doMedPipeEnable pd pipe on s)

/-! ### Carrying out an entry (R462 to R468) -/

/-- The command whose entry a pipeline works on. -/
def pipeCmd (s : State) (p : Nat × Nat) : Option (Nat × Cmd) :=
  s.ctxs.findSome? fun c => (c.2.cmds.find? fun k => k.pipe == some p).map fun k => (c.1, k)

/-- The pipeline is free again. -/
def freePipe (s : State) (p : Nat × Nat) : State :=
  fput (fput s p.1 p.2 Fl.MED_PIPE_STATE 0) p.1 p.2 Fl.MED_PIPE_CONTEXT 0

/-- Count an entry that ended with an error (MED_ERR_COUNT), and raise 0x0605. -/
def pipeError (s : State) (p : Nat × Nat) (status : Nat) : State :=
  match status with
  | 0 => s
  | 0x0602 => fsat s p.1 0 Fl.MED_ERR_COUNT_BITSTREAM 1
  | 0x0605 => raise (fsat s p.1 0 Fl.MED_ERR_COUNT_PIPELINE 1) 0x0605 2 (pipeUnit p)
  | _ => fsat s p.1 0 Fl.MED_ERR_COUNT_OTHER 1

/-- An entry ends: its command goes on to its next entry, or ends. -/
def endEntry (s : State) (p : Nat × Nat) (c : Nat) (k : Cmd) (status : Nat) : State :=
  let s := pipeError (freePipe s p) p status
  if status ≠ 0 then endMedia s c k.seq k status
  else
    let k := { k with done := k.done + 1 }
    let s := modCmd (dropRemotes s (.cmd c k.seq)) c k.seq fun x => { x with
      done := k.done, pipe := none, entry := [], frames := 0, outBytes := 0, result := none }
    if k.desc.count ≤ 128 * k.done then endMedia s c k.seq k 0 else s

/-- The result words are written after the output, then the entry ends (R460). While they wait, the status of the entry is
kept; a result that cannot be written gives an entry without an error its status. -/
def finishEntry (s : State) (p : Nat × Nat) (c q status : Nat) : State :=
  match getCmd s c q with
  | none => s
  | some k =>
    let w := leBytes 8 k.outBytes ++ leBytes 4 k.frames ++ leBytes 4 status
    let s := if k.result.isNone then modCmd s c q fun x => { x with result := some status, denied := none } else s
    match k.result, k.denied with
    | some _, some (st, _) => endEntry s p c k (if status = 0 then st else status)
    | _, _ => match writeVa s (.cmd c q) c (k.desc.argA.toNat + 128 * k.done + 112) w with
      | (.error .wait, s) => s
      | (.error (.fail st), s) => endEntry s p c k (if status = 0 then st else status)
      | (.ok _, s) => endEntry s p c k status

/-- A frame of output is complete. -/
def frameDone (s : State) (p : Nat × Nat) (c q frames bytes : Nat) : State :=
  fsat (modCmd s c q fun x => { x with frames := x.frames + frames, outBytes := bytes }) p.1 p.2 Fl.MED_PIPE_FRAMES frames

/-- Decode and write frames from `n` on, at most `fuel` of them: the status, or none while the pipeline stalls. -/
def decodeFrames (s : State) (p : Nat × Nat) (c q : Nat) (b bitsIn : List Byte) (chroma depth : Nat) :
    Nat → Nat → Option Nat × State
  | 0, _ => (some 0, s)
  | fuel + 1, n =>
    match Config.frameSamples (eCodec b) bitsIn n with
    | none => (some (if Config.frameOk (eCodec b) bitsIn n then 0 else 0x0602), s)
    | some samples =>
      let f := outFrame b chroma
      if !Config.frameOk (eCodec b) bitsIn n then (some 0x0602, s)
      else if imgNum b 32 8 < n * f.2 + f.1 then (some 0x0603, s)
      else
        let o := if eKind b = 0 then planarOut s (eWidth b) (eHeight b) chroma depth samples else (tensorOut b chroma depth samples, s)
        match writeVa o.2 (.cmd c q) c (imgNum b 24 8 + n * f.2) o.1 with
        | (.error .wait, s) => (none, s)
        | (.error (.fail st), s) => (some st, s)
        | (.ok _, s) => decodeFrames (frameDone s p c q 1 (n * f.2 + f.1)) p c q b bitsIn chroma depth fuel (n + 1)

/-- A pipeline keeps reference pictures in the scratch buffer: what it writes there the spec does not say (R464). -/
def useScratch (s : State) (c q : Nat) (b : List Byte) (chroma : Nat) : Except Stop Unit × State :=
  let n := scratchNeed b chroma
  writeVa { s with fresh := s.fresh + n } (.cmd c q) c (imgNum b 40 8)
    ((List.range n).map fun i => (Config.free (s.fresh + i)).setWidth 8)

/-- A decode entry whose input has been read. -/
def decodeInput (s : State) (p : Nat × Nat) (c : Nat) (k : Cmd) (b bitsIn : List Byte) : State :=
  let info := Config.streamInfo (eCodec b) bitsIn
  let depth := info.2.2.2.2.1
  let chroma := info.2.2.2.2.2
  if !info.1 then finishEntry s p c k.seq 0x0602
  else if !supported (eCodec b) info.2.1 depth chroma then finishEntry s p c k.seq 0x0601
  else if imgNum b 48 8 < scratchNeed b chroma then endEntry s p c k 0x0601
  else if info.2.2.1 ≠ eWidth b ∨ info.2.2.2.1 ≠ eHeight b then finishEntry s p c k.seq 0x0602
  else match useScratch s c k.seq b chroma with
    | (.error .wait, s) => s
    | (.error (.fail st), s) => finishEntry s p c k.seq st
    | (.ok _, s) => match decodeFrames s p c k.seq b bitsIn chroma depth (eFrames b - k.frames) k.frames with
      | (none, s) => s
      | (some st, s) => finishEntry s p c k.seq st

/-- The samples of the `n`-th frame that an encode entry has read. -/
def rawFrame (w h : Nat) (raw : List Byte) (n : Nat) : List Nat :=
  ((planes w h 1).foldl (fun (q : List Nat × Nat) x =>
    let row := roundUp (2 * x.1) 64
    (q.1 ++ (List.range x.2).flatMap fun y => (List.range x.1).map fun i => imgNum raw (q.2 + y * row + 2 * i) 2 % 1024,
      q.2 + row * x.2)) ([], n * roundUp (planarBytes w h 1) 4096)).1

/-- An encode entry whose frames have been read. -/
def encodeInput (s : State) (p : Nat × Nat) (c : Nat) (k : Cmd) (b raw : List Byte) : State :=
  let w := eWidth b
  let h := eHeight b
  let rate := if (eFlags b).testBit 2 then imgNum b 88 4 else imgNum b 62 1
  let out := Config.encodeBits (eCodec b) (eFlags b + 256 * (w + 65536 * h)) rate ((List.range (eFrames b)).map (rawFrame w h raw))
  if imgNum b 32 8 < out.length then finishEntry s p c k.seq 0x0603
  else match useScratch s c k.seq b 1 with
    | (.error .wait, s) => s
    | (.error (.fail st), s) => finishEntry s p c k.seq st
    | (.ok _, s) => match writeVa s (.cmd c k.seq) c (imgNum b 24 8) out with
      | (.error .wait, s) => s
      | (.error (.fail st), s) => finishEntry s p c k.seq st
      | (.ok _, s) => finishEntry (frameDone s p c k.seq (eFrames b) out.length) p c k.seq 0

/-- Bytes of the frames that an encode entry reads. -/
def encodeBytes (b : List Byte) : Nat :=
  let n := planarBytes (eWidth b) (eHeight b) 1
  (eFrames b - 1) * roundUp n 4096 + n

/-- What a pipeline does with its entry: a pause, result words that wait, buffer errors, a denial, what is wrong with the entry,
then its work on its input. -/
def runPipe (s : State) (p : Nat × Nat) (e : Ecc) (wrong : List Byte → Option Nat) (len : List Byte → Nat)
    (work : State → Nat → Cmd → List Byte → List Byte → State) : State :=
  match pipeCmd s p with
  | none => s
  | some (c, k) =>
    if k.stalled.isSome ∨ smGetD s.power.mediaPaused false (12 * p.1 + p.2) then s
    else match k.result with
      | some st => finishEntry s p c k.seq st
      | none =>
        if e = .ue then finishEntry s p c k.seq 0x0605
        else
          let s := if e = .ce then fsat s p.1 0 Fl.MED_ERR_COUNT_CE 1 else s
          match k.denied.map (·.1) |>.or (wrong k.entry) with
          | some st => finishEntry s p c k.seq st
          | none => match readVa s (.cmd c k.seq) c (imgNum k.entry 8 8) (len k.entry) with
            | (.error .wait, s) => s
            | (.error (.fail st), s) => finishEntry s p c k.seq st
            | (.ok d, s) => work s c k k.entry d

/-- DECODE_ENTRY. -/
def doDecodeEntry (pd pipe : Nat) (e : Ecc) (s : State) : State :=
  runPipe s (pd, pipe) e (fun _ => none) (fun b => imgNum b 16 8) fun s c k b d => decodeInput s (pd, pipe) c k b d

def execDecodeEntry (pd pipe : Nat) (e : Ecc) (s : State) : Host.Outcome State Fault Refusal := .next (doDecodeEntry pd pipe e s)

/-- ENCODE_ENTRY: pipeline `pipe` of the encoders. Frames that do not fit in IN_BYTES end it. -/
def doEncodeEntry (pd pipe : Nat) (e : Ecc) (s : State) : State :=
  let p := (pd, 8 + pipe)
  runPipe s p e (fun b => if imgNum b 16 8 < encodeBytes b then some 0x0103 else none) encodeBytes
    fun s c k b d => encodeInput s p c k b d

def execEncodeEntry (pd pipe : Nat) (e : Ecc) (s : State) : Host.Outcome State Fault Refusal := .next (doEncodeEntry pd pipe e s)

end Sys2Proof.Machine
end

