-- ==== Sys2Proof/Machine/Security.lean ====
section
/-! DEFINITION. The security unit: keys, measurement registers, counters, attestation, firmware updates and debug unlock
(R492 to R508). -/

namespace Sys2Proof.Machine

def secUnit : Nat := unitId 24 0 4

/-- Bytes of `n` consecutive instances of a register of the SEC block, the first in bits [63:56]. -/
def secRegBytes (s : State) (r : Reg) (n : Nat) : List Byte := (List.range n).flatMap fun k => beBytes 8 (rget s 24 r k).toNat

/-- Value of bytes, the first highest. -/
def beNat (l : List Byte) : Nat := leNat l.reverse

/-- The digest in SEC_MR_DATA. -/
def mrData (s : State) : BitVec 384 := BitVec.ofNat 384 (beNat (secRegBytes s .secMrData 6))

/-! ### Keys (R492, R493) -/

/-- Blow fuse bits of SEC_STATUS: the register shows them, and every later reset keeps them. -/
def blowSec (s : State) (f : Fld) (slot : Nat) : State :=
  let k := regKey 24 .secStatus 0
  let w := fldSet f (resetWord s 24 .secStatus 0) (fldOf f (resetWord s 24 .secStatus 0) ||| 2 ^ slot)
  fput { s with fuses := smPut s.fuses k w } 24 0 f (fget s 24 0 f ||| 2 ^ slot)

def secKeyRejected (s : State) (b : Bool) : State := fput s 24 0 Fl.SEC_KEY_CTL_REJECTED (b2n b)

/-- SEC_KEY_CTL OP 1: a blank owner slot takes the digest in SEC_MR_DATA. -/
def doSecKeyProgram (slot : Nat) (s : State) : State :=
  if slot < 2 ∨ 4 ≤ slot ∨ slotProgrammed s slot then secKeyRejected s true
  else
    let s : State := { s with sec := { s.sec with keys := smPut s.sec.keys slot (mrData s) } }
    secKeyRejected (blowSec s Fl.SEC_STATUS_PROGRAMMED slot) false

def execSecKeyProgram (slot : Nat) (s : State) : Host.Outcome State Fault Refusal := .next (onDie s 24 fun s => doSecKeyProgram slot s)

/-- SEC_KEY_CTL OP 2: refused for the slot that verified the plate. -/
def doSecKeyRevoke (slot : Nat) (s : State) : State :=
  if 4 ≤ slot ∨ slot = fget s 24 0 Fl.SEC_STATUS_PLATE_SLOT then secKeyRejected s true
  else secKeyRejected (blowSec s Fl.SEC_STATUS_REVOKED slot) false

def execSecKeyRevoke (slot : Nat) (s : State) : Host.Outcome State Fault Refusal := .next (onDie s 24 fun s => doSecKeyRevoke slot s)

/-! ### Measurements and counters (R497 to R500) -/

/-- The extension that runs ends (R500). -/
def endExtend (s : State) : State :=
  match s.sec.extending with
  | none => s
  | some (i, d) =>
    let s : State := { s with sec := { s.sec with extending := none } }
    mrExtend (fput (fput s 24 0 Fl.SEC_MR_EXTEND_BUSY 0) 24 0 Fl.SEC_MR_EXTEND_START 0) i d

/-- A write of SEC_MR_EXTEND.START: the extension runs until a tick, or ends at once, as a free choice (log 166). -/
def doSecMrExtend (i : Nat) (s : State) : State :=
  let s := fput s 24 0 Fl.SEC_MR_EXTEND_INDEX i
  if i < 8 ∨ 16 ≤ i ∨ s.sec.extending.isSome then fput s 24 0 Fl.SEC_MR_EXTEND_REJECTED 1
  else
    let s := fput (fput (fput s 24 0 Fl.SEC_MR_EXTEND_REJECTED 0) 24 0 Fl.SEC_MR_EXTEND_BUSY 1) 24 0 Fl.SEC_MR_EXTEND_START 1
    let w := drawBelow { s with sec := { s.sec with extending := some (i, mrData s) } } 2
    if w.1 = 1 then w.2 else endExtend w.2

def execSecMrExtend (index : Nat) (s : State) : Host.Outcome State Fault Refusal := .next (onDie s 24 fun s => doSecMrExtend index s)

/-- Whether R498 accepts a value for a counter. -/
def rollbackOk (s : State) (i v : Nat) : Bool :=
  decide (i < 16) && decide (rollback s i < v) && (decide (8 ≤ i) || (smGet s.sec.svns i).any fun n => decide (v ≤ n))

/-- A write of SEC_ROLLBACK. -/
def doSecRollback (i : Nat) (v : BitVec 32) (s : State) : State :=
  if rollbackOk s i v.toNat then
    persistPut (fput s 24 0 Fl.SEC_ROLLBACK_REJECTED 0) (28 + i) (v.setWidth 64)
  else fput s 24 0 Fl.SEC_ROLLBACK_REJECTED 1

def execSecRollback (index : Nat) (value : BitVec 32) (s : State) : Host.Outcome State Fault Refusal :=
  .next (onDie s 24 fun s => doSecRollback index value s)

/-! ### Firmware updates (R495, R496, R504, R505) -/

/-- The first check of R496 that a firmware image fails against a counter; 0 when it passes. -/
def updateCheck (s : State) (b : List Byte) (counter : Nat) : Nat :=
  imageCheck s b 2 counter true (Config.ecdsaVerify (imageKey b) (imageDigest b) (slice (trailer b) 160 96))

/-- The image that SEC_UPDATE_ADDR and SEC_UPDATE_LEN name: none outside DDR, beyond 64 MiB, or poisoned. -/
def updateImage (s : State) : Option (List Byte) × State :=
  let a := fget s 24 0 Fl.SEC_UPDATE_ADDR_VALUE
  let n := fget s 24 0 Fl.SEC_UPDATE_LEN_VALUE
  if n < 256 ∨ 0x400_0000 < n ∨ ddrBytes s < a + n ∨ a % 64 ≠ 0 then (none, s)
  else ncFetch s a n

def secUpdateFail (s : State) (check : Nat) : State :=
  raise (fput s 24 0 Fl.SEC_UPDATE_RESULT check) 0x0F83 1 secUnit

/-- Units that switch one after another: hubs for the queue front ends, port dies for the port controllers (R504). -/
def switchUnits (c : Nat) : List Nat := if c = 3 then [18, 19, 20, 21] else if c = 4 then [22, 23] else [24]

/-- The slot of a controller that does not run, as a key of the slots. -/
def spareSlot (s : State) (c : Nat) : Nat := 2 * (c - 1) + (if s.sec.firmwareB.getLsbD (c - 1) then 0 else 1)

/-- The last unit has switched: measurement, event, and the counter when COMMIT is set (R505). -/
def endUpdate (s : State) (u : Update) : State :=
  let act := s.sec.firmwareB ^^^ BitVec.ofNat 4 (2 ^ (u.controller - 1))
  let s : State := { s with sec := { s.sec with firmwareB := act, svns := smPut s.sec.svns u.controller u.svn, updating := none } }
  let s := fput (fput s 24 0 Fl.SEC_UPDATE_RESULT 0) 24 0 Fl.SEC_UPDATE_ACTIVE act.toNat
  let s := fput (fput s 24 0 Fl.SEC_UPDATE_BUSY 0) 24 0 Fl.SEC_UPDATE_START 0
  let s := raise (mrExtend s u.controller u.digest) 0x0F82 0 secUnit
  if u.commit && rollbackOk s u.controller u.svn then persistPut s (28 + u.controller) (BitVec.ofNat 64 u.svn) else s

/-- The next unit of the update that runs switches (R504). -/
def switchNext (s : State) : State :=
  match s.sec.updating with
  | none => s
  | some u =>
    let u := { u with left := u.left.drop 1 }
    if u.left.isEmpty then endUpdate s u else { s with sec := { s.sec with updating := some u } }

/-- As many units switch at once as a free choice says, and the others at later ticks (log 166). -/
def switchSome (s : State) : State :=
  let w := drawBelow s 5
  (List.range w.1).foldl (fun s _ => switchNext s) w.2

/-- The image passes: the controller's inactive slot is written, and its units begin to switch. -/
def startUpdate (s : State) (c : Nat) (commit : Bool) (b : List Byte) : State :=
  let slots := smPut s.sec.slots (spareSlot s c) (imageDigest b, imageSvn b)
  let u : Update := ⟨c, commit, imageDigest b, imageSvn b, switchUnits c⟩
  let s := fput (fput s 24 0 Fl.SEC_UPDATE_BUSY 1) 24 0 Fl.SEC_UPDATE_START 1
  switchSome { s with sec := { s.sec with slots := slots, updating := some u } }

/-- SEC_UPDATE with START: the image is verified, the controller's inactive slot is written and switched to. -/
def doSecUpdate (c : Nat) (commit : Bool) (s : State) : State :=
  if s.sec.updating.isSome then fput s 24 0 Fl.SEC_UPDATE_REJECTED 1
  else
    let s := fput (fput s 24 0 Fl.SEC_UPDATE_CONTROLLER c) 24 0 Fl.SEC_UPDATE_COMMIT (b2n commit)
    if c = 0 ∨ 4 < c then fput s 24 0 Fl.SEC_UPDATE_REJECTED 1
    else
      let s := fput s 24 0 Fl.SEC_UPDATE_REJECTED 0
      match updateImage s with
      | (none, s) => secUpdateFail s 1
      | (some b, s) =>
        let k := updateCheck s b c
        if k = 0 then startUpdate s c commit b else secUpdateFail s k

def execSecUpdate (controller : Nat) (commit : Bool) (s : State) : Host.Outcome State Fault Refusal :=
  .next (onDie s 24 fun s => doSecUpdate controller commit s)

/-! ### Debug unlock (R508) -/

/-- Six free words make a nonce. -/
def drawNonce : Nat → State → List (BitVec 64) × State
  | 0, s => ([], s)
  | n + 1, s =>
    let q := drawNonce n (draw s).2
    ((draw s).1 :: q.1, q.2)

/-- SEC_DBG_CTL.NEW: a fresh challenge. -/
def doSecDbgNew (s : State) : State :=
  let q := drawNonce 6 s
  let s := q.1.zipIdx.foldl (fun s x => rput s 24 .secDbgChallenge x.2 x.1) q.2
  { s with sec := { s.sec with challenge := some (BitVec.ofNat 384 (beNat (secRegBytes s .secDbgChallenge 6))) } }

def execSecDbgNew (s : State) : Host.Outcome State Fault Refusal := .next (onDie s 24 fun s => doSecDbgNew s)

/-- A SUBMIT fails: event 0x0F81, and the third failure locks the unit. -/
def dbgFail (s : State) (result : Nat) : State :=
  let n := min 3 (fget s 24 0 Fl.SEC_DBG_CTL_FAILURES + 1)
  let s := fput (fput s 24 0 Fl.SEC_DBG_CTL_RESULT result) 24 0 Fl.SEC_DBG_CTL_FAILURES n
  raise (if n = 3 then fput s 24 0 Fl.SEC_STATUS_LOCKOUT 1 else s) 0x0F81 1 secUnit

/-- Whether the key and the signature of a response to a challenge verify: 0, or the RESULT of the failure. -/
def dbgCheck (s : State) (ch : BitVec 384) (level : Nat) : Nat :=
  let key := (secRegBytes s .secDbgKey 13).take 97
  let d := Config.sha384 key
  let msg := beBytes 48 ch.toNat ++ leBytes 8 (rget s 24 .dieSerial 0).toNat ++ [BitVec.ofNat 8 level]
  if d ≠ Config.keyDigest 4 ∧ d ≠ Config.keyDigest 5 then 2
  else if level = 0 ∨ 3 ≤ level ∨ !Config.ecdsaVerify key (Config.sha384 msg) (secRegBytes s .secDbgResponse 12) then 3
  else 0

/-- SEC_DBG_CTL.SUBMIT: each challenge serves one. -/
def doSecDbgSubmit (level : Nat) (s : State) : State :=
  let s := fput s 24 0 Fl.SEC_DBG_CTL_LEVEL level
  if fget s 24 0 Fl.SEC_STATUS_LOCKOUT = 1 then fput s 24 0 Fl.SEC_DBG_CTL_RESULT 4
  else
    match s.sec.challenge with
    | none => dbgFail s 1
    | some ch =>
      let s : State := { s with sec := { s.sec with challenge := none } }
      let k := dbgCheck s ch level
      if k ≠ 0 then dbgFail s k
      else
        let s := fput (fput s 24 0 Fl.SEC_DBG_CTL_RESULT 0) 24 0 Fl.SEC_STATUS_DEBUG_LEVEL level
        raise (mrDebug s level) 0x0F80 1 secUnit

def execSecDbgSubmit (level : Nat) (s : State) : Host.Outcome State Fault Refusal := .next (onDie s 24 fun s => doSecDbgSubmit level s)

/-! ### Attestation (R501 to R503) -/

/-- Registers that a request selects, in ascending order. -/
def maskRegs (mask : Nat) : List Nat := (List.range 16).filter fun i => mask.testBit i

/-- Length of a report. -/
def reportLen (mask : Nat) : Nat := 352 + 48 * (maskRegs mask).length

/-- What a request fails with: version and reserved bytes, then the capacity. -/
def requestBad (b : List Byte) : Option Nat :=
  if leNat (slice b 0 2) ≠ 1 ∨ leNat (slice b 4 4) ≠ 0 then some 0x0140
  else if leNat (slice b 64 8) < reportLen (leNat (slice b 2 2)) then some 0x0103
  else none

/-- The report of a request, at the snapshot (R502). -/
def attestReport (s : State) (c q : Nat) (b : List Byte) : List Byte :=
  let mask := leNat (slice b 2 2)
  let head :=
    leBytes 4 0x4B4D3941 ++ leBytes 2 1 ++ leBytes 2 mask ++ leBytes 8 (handleOf c q) ++ leBytes 8 s.time.toNat ++
    leBytes 2 c ++ leBytes 1 (ctxPart s c) ++ leBytes 1 (modeOf s) ++
    leBytes 1 (fget s 24 0 Fl.DIE_STEPPING_PACKAGE_STEPPING) ++ leBytes 1 (fget s 24 0 Fl.DIE_EPOCH_EFFECTIVE_EFFECTIVE_EPOCH) ++
    leBytes 1 (fget s 24 0 Fl.SEC_STATUS_DEBUG_LEVEL) ++ [0] ++ leBytes 8 (rget s 24 .dieSerial 0).toNat ++ slice b 8 48 ++
    ((List.range 16).flatMap fun i => leBytes 4 (rollback s i)) ++ beBytes 97 Config.identityKey.toNat ++ List.replicate 7 0 ++
    ((maskRegs mask).flatMap fun i => beBytes 48 (mrGet s i).toNat)
  head ++ beBytes 96 (Config.identitySign (Config.sha384 head)).toNat

/-- The unit begins to sign for the first command in its queue: the report is that of this moment, and takes the place of
the request, whose VA stays with the command (R503). -/
def startSigning (s : State) : State :=
  match s.sec.attests.head?.bind fun p => (getCmd s p.1 p.2).map fun k => (p, k) with
  | none => s
  | some (p, k) =>
    if k.entry.length = 72 then
      modCmd s p.1 p.2 fun x => { x with entry := attestReport s p.1 p.2 k.entry, frames := leNat (slice k.entry 56 8) }
    else s

/-- A tick of the security unit: the extension that runs ends, one unit of the update that runs switches, and a command that
has come to the front of the queue is signed for. -/
def secTick (s : State) : State := startSigning (switchNext (endExtend s))

/-- A command leaves the queue, and the unit goes on with the next. -/
def endSigning (s : State) (c q status : Nat) (detail : BitVec 64) : State :=
  let s : State := { s with sec := { s.sec with attests := s.sec.attests.filter (· != (c, q)) } }
  startSigning (complete (dropRemotes s (.cmd c q)) c q status detail)

/-- ATTEST: the request is read and checked, and joins the unit's queue. -/
def doAttest (c q : Nat) (s : State) : State :=
  match runCmd s c q 7 with
  | none => s
  | some k =>
    if k.accepted then s
    else if k.desc.count ≠ 72 then complete s c q 0x0103 0
    else match k.denied with
      | some (st, n) => complete s c q st (BitVec.ofNat 64 n)
      | none => match readVa s (.cmd c q) c k.desc.argA.toNat 72 with
        | (.error .wait, s) => s
        | (.error (.fail st), s) => complete (dropRemotes s (.cmd c q)) c q st 0
        | (.ok b, s) =>
          let s := dropRemotes s (.cmd c q)
          match requestBad b with
          | some st => complete s c q st 0
          | none =>
            startSigning (modCmd { s with sec := { s.sec with attests := s.sec.attests ++ [(c, q)] } } c q fun x =>
              { x with accepted := true, entry := b })

def execAttest (ctx seq : Nat) (s : State) : Host.Outcome State Fault Refusal := .next (doAttest ctx seq s)

/-- ATTEST_SIGNED: the report of the command that the unit serves is written, and the command completes with its length. -/
def doAttestSigned (c q : Nat) (s : State) : State :=
  match runCmd s c q 7 with
  | none => s
  | some k =>
    if !k.accepted ∨ s.sec.attests.head? ≠ some (c, q) then s
    else if k.entry.length = 72 then startSigning s
    else match k.denied with
      | some (st, n) => endSigning s c q st (BitVec.ofNat 64 n)
      | none => match writeVa s (.cmd c q) c k.frames k.entry with
        | (.error .wait, s) => s
        | (.error (.fail st), s) => endSigning s c q st 0
        | (.ok _, s) => endSigning s c q 0 (BitVec.ofNat 64 k.entry.length)

def execAttestSigned (ctx seq : Nat) (s : State) : Host.Outcome State Fault Refusal := .next (doAttestSigned ctx seq s)

end Sys2Proof.Machine
end

