-- ==== Sys2Proof/Machine/Service.lean ====
section
/-! DEFINITION. Retirement of engines by system software, and the Eyepiece (R511, R512, R522). -/

namespace Sys2Proof.Machine

/-! ### RETIRE_ENGINE -/

/-- Matrix die and engine of a unit ID of group 1; none for another unit. -/
def engineOfUnit (u : Nat) : Option (Nat × Nat) :=
  if u / 2048 < 8 ∧ u / 256 % 8 = 1 ∧ u % 256 < 34 then some (u / 2048, u % 256) else none

/-- DBG_SERVICE OP 1: accepted for an active engine whose die has a spare. -/
def doRetireEngine (u : Nat) (s : State) : State :=
  if serviceBusy s then refuseService s 1
  else match engineOfUnit u with
    | none => refuseService s 2
    | some (d, e) =>
      if engRole s d e ≠ 0 ∨ (spareOf s d).isNone then refuseService s 2
      else modEng (fput (acceptService s 1 u) 24 0 Fl.DBG_SERVICE_BUSY 1) d e fun x => { x with retiring := true }

def execRetireEngine (unit : Nat) (s : State) : Host.Outcome State Fault Refusal := .next (onDie s 24 fun s => doRetireEngine unit s)

/-- ENGINE_RETIRE_SWAP: once no launch is placed on the engine, it is retired and the operation ends. -/
def doEngineRetireSwap (d e : Nat) (s : State) : State :=
  if !serviceBusy s ∨ fget s 24 0 Fl.DBG_SERVICE_OP ≠ 1 ∨ fget s 24 0 Fl.DBG_SERVICE_ARG ≠ unitId d 1 e ∨
      fget s d e Fl.ENG_STATUS_PLACED = 1 then s
  else
    let s := if (getEng s d e).retiring then retireEngine s d e else s
    fput (fput s 24 0 Fl.DBG_SERVICE_BUSY 0) 24 0 Fl.DBG_SERVICE_RESULT 0

def execEngineRetireSwap (die eng : Nat) (s : State) : Host.Outcome State Fault Refusal := .next (doEngineRetireSwap die eng s)

/-! ### The Eyepiece -/

/-- Instructions as the model numbers them. -/
def irBypass : Nat := 0
def irSample : Nat := 1
def irIdcode : Nat := 2
def irExtest : Nat := 3
def irClamp : Nat := 4
def irHighz : Nat := 5
def irDebug : Nat := 6

/-- Whether the port takes instructions. -/
def eyepieceOn (s : State) : Bool := fget s 24 0 Fl.DBG_CTL_EYEPIECE_EN == 1

/-- Load an instruction: the selected data register holds `dr`. While EYEPIECE_EN is 0 the TAP stays reset. -/
def tap (s : State) (ir : Nat) (dr : BitVec 64) (highZ : Bool) : State :=
  if eyepieceOn s then
    { s with jtag := ⟨ir, dr⟩, pins := { s.pins with tdoDriven := true, highZ := highZ } }
  else { s with jtag := ⟨irIdcode, s.jtag.dr⟩, pins := { s.pins with tdoDriven := false } }

def execBypass (s : State) : Host.Outcome State Fault Refusal := .next (tap s irBypass 0 false)

def execIdcode (s : State) : Host.Outcome State Fault Refusal := .next (tap s irIdcode (rget s 24 .dbgIdcode 0) false)

/-- SAMPLE/PRELOAD: what the cells capture is a free value, since only the BSDL file describes them. -/
def doSamplePreload (cells : BitVec 64) (s : State) : State :=
  if eyepieceOn s then
    let t := tap (draw s).2 irSample (draw s).1 false
    { t with pins := { t.pins with cells := cells } }
  else tap s irSample 0 false

def execSamplePreload (cells : BitVec 64) (s : State) : Host.Outcome State Fault Refusal := .next (doSamplePreload cells s)

/-- An instruction that is available only while the M9 holds SYS_RST_N low, and acts as BYPASS at any other time. -/
def tapInReset (s : State) (ir : Nat) (dr : BitVec 64) (highZ : Bool) : State :=
  if s.pins.sysRstDriven then tap s ir dr highZ else tap s irBypass 0 false

def execExtest (s : State) : Host.Outcome State Fault Refusal := .next (tapInReset (draw s).2 irExtest (draw s).1 false)
def execClamp (s : State) : Host.Outcome State Fault Refusal := .next (tapInReset s irClamp 0 false)
def execHighz (s : State) : Host.Outcome State Fault Refusal := .next (tapInReset s irHighz 0 true)

end Sys2Proof.Machine
end

