-- ==== Sys2Proof/Machine/Translate.lean ====
section
/-! DEFINITION. Walks, fault responses and invalidations of translation caches (R299 to R316). -/

namespace Sys2Proof.Machine

/-- The walks that a walker of a host die holds: the 128 oldest; later ones wait at their hubs (R301, R304). -/
def heldWalks (s : State) (die : Nat) : List Walk := (s.xlat.walks.filter fun w => walkerOf (ctxHub w.ctx) == die).take 128

/-- The walk of a context's page that a walker of a host die holds. -/
def findWalk (s : State) (die ctx page : Nat) : Option Walk :=
  (heldWalks s die).find? fun w => w.ctx == ctx && w.page == page

def dropWalk (s : State) (w : Walk) : State := { s with xlat := { s.xlat with walks := s.xlat.walks.erase w } }

/-- Install a translation at the hub that serves a context, for `n` misses that joined its walk (R299, R302). -/
def hubFill (s : State) (ctx page frame size : Nat) (write : Bool) (n : Nat) : State :=
  let h := ctxHub ctx
  let va := page / size * size
  let s := hubInstall s h ⟨ctx, va, size, frame, write⟩
  if size = 4096 then fsat s h 0 Fl.TRC_SMALL_MISSES n else s

/-- A page that a pin check found unusable (R304). -/
def unpin (s : State) (c q page : Nat) (write : Bool) : State :=
  unstall (modLaunch s c q fun l => { l with unpinned := l.unpinned ++ [(page, write)] }) (.pin c q)

/-- A fault of one requester of a walk; a pin check opens none (R302 to R304, R307). -/
def walkFault (s : State) (w : Walk) (cause level : Nat) (x : Requester × Bool) : State :=
  match x.1 with
  | .pin c q => unpin s c q w.page x.2
  | r => raiseFault s w.ctx w.page cause level r x.2

/-- A requester of a walk whose leaf permits its access goes on with the translation. -/
def walkGrant (s : State) (t : Tlb) (x : Requester) : State :=
  unstall { s with xlat := { s.xlat with grants := s.xlat.grants ++ [(x, t)] } } x

/-- One requester of a walk that found a leaf: it goes on, or its write is denied (R302). -/
def walkLeaf (s : State) (w : Walk) (t : Tlb) (x : Requester × Bool) : State :=
  match x.1, x.2 && !t.write with
  | .pin c q, true => unpin s c q w.page x.2
  | .pin c q, false => unstall (modLaunch s c q fun l => { l with pinned := (w.page, t.write) :: l.pinned }) x.1
  | r, true => raiseFault s w.ctx w.page 2 (leafLevel t.size) r x.2
  | r, false => walkGrant s t r

/-! ### The page tables (R296, R301, R302, log 131) -/

/-- What a walk finds in the page tables (R302). `frame` is the physical address of the page, `size` its bytes. -/
inductive WalkFound where
  | leaf (frame size : Nat) (write : Bool)
  | notPresent (level : Nat)
  | tableError (level : Nat)
  | poison
  deriving DecidableEq, Repr

/-- An entry that a walk has read and used: its level, its address, its word. -/
structure Used where
  level : Nat
  addr : Nat
  word : BitVec 64
  deriving DecidableEq, Repr

/-- Bytes that an entry of a table at a level covers: 4 KiB at level 1, and 512 times as many at each level above (R298). -/
def spanOf (level : Nat) : Nat := 4096 * 512 ^ (level - 1)

/-- The table that a root names (QFE_CTX_ROOT.ROOT). -/
def rootTable (root : BitVec 64) : Nat := fldOf Fl.QFE_CTX_ROOT_ROOT root * 4096

/-- Whether an address is memory that holds tables. -/
def tableMemory (s : State) (a : Nat) : Bool := match paKind s a with
  | .ddr => true
  | .hbm _ => true
  | .far => true
  | _ => false

/-- The table below an entry, where a walker's table cache may hold it and the command says that it still does (R314). -/
def tableHit (s : State) (die ctx level va : Nat) (held : BitVec 8) : Option TableEnt × State :=
  match s.xlat.tables.find? fun e => e.die == die && e.ctx == ctx && e.level == level && e.span == va / spanOf level with
  | none => (none, s)
  | some e =>
    if held.getLsbD level then (some e, s) else (none, { s with xlat := { s.xlat with tables := s.xlat.tables.erase e } })

/-- Walk from the table of a level downwards: what it finds, and the entries that it used. An entry is read at its home, as a
line of the coherent domain. -/
def walkFrom (die ctx va : Nat) (held : BitVec 8) : Nat → Nat → List Used → State → WalkFound × List Used × State
  | 0, _, us, s => (.tableError 1, us, s)
  | n + 1, base, us, s =>
    let lv := n + 1
    let a := base + 8 * (va / spanOf lv % 512)
    match tableHit s die ctx lv va held with
    | (some e, s) => walkFrom die ctx va held n e.base us s
    | (none, s) =>
      if !tableMemory s a then (.tableError (min 5 (lv + 1)), us, s)
      else match ncFetch s a 8 with
        | (none, s) => (.poison, us, s)
        | (some bs, s) =>
          let w := BitVec.ofNat 64 (leNat bs)
          let f := (Config.pteFrame lv w).toNat * 4096
          let us := us ++ [⟨lv, a, w⟩]
          match (Config.pteKind lv w).toNat with
          | 0 => (.notPresent lv, us, s)
          | 2 =>
            if lv = 1 then (.tableError 1, us, s)
            else walkFrom die ctx va held n f us { s with xlat := { s.xlat with tables := ⟨die, ctx, lv, va / spanOf lv, f⟩ :: s.xlat.tables } }
          | 3 =>
            if 3 < lv then (.tableError lv, us, s)
            else (.leaf (f / spanOf lv * spanOf lv) (spanOf lv) (Config.pteWrite lv w), us, s)
          | _ => (.tableError lv, us, s)

/-- The accessed and dirty bits of the entries that an access has used, as a host core's access of that kind sets them. -/
def markUsed (s : State) (us : List Used) (write : Bool) : State :=
  us.foldl (fun s u =>
    let w := Config.pteUsed u.level u.word write
    if w = u.word then s else (ncRmw s (lineOf u.addr) fun old => overwrite old (u.addr % 64) (leBytes 8 w.toNat)).2) s

/-- Whether an access of a walk's requesters writes; a pin check writes nothing. -/
def walkWrites (w : Walk) : Bool := w.reqs.any fun x => x.2 && match x.1 with
  | .pin _ _ => false
  | _ => true

/-- A walk reads the tables of its root. A leaf that permits an access of its requesters has its bits set. -/
def walkTables (s : State) (die : Nat) (w : Walk) (held : BitVec 8) : WalkFound × State :=
  match walkFrom die w.ctx w.page held 5 (rootTable w.root) [] s with
  | (.leaf frame size write, us, s) =>
    (.leaf frame size write, if w.reqs.all (·.2) && !write then s else markUsed s us (walkWrites w && write))
  | (f, _, s) => (f, s)

/-- What a walk's finding does for its requesters (R302). -/
def finishWalk (s : State) (die : Nat) (w : Walk) : WalkFound → State
  | .leaf frame size write =>
    w.reqs.foldl (fun s x => walkLeaf s w ⟨w.ctx, w.page / size * size, size, frame, write⟩ x)
      (hubFill s w.ctx w.page frame size write w.reqs.length)
  | .notPresent level => w.reqs.foldl (fun s x => walkFault s w 1 level x) s
  | .tableError level => w.reqs.foldl (fun s x => walkFault s w 3 level x) (fsat s die 0 Fl.WLK_WALKS_TABLE_ERRORS 1)
  | .poison => w.reqs.foldl (fun s x => failReq s x.1 0x0502 0) s

/-- WALK_COMPLETE: a walk returns (R302). The result of a walk that an invalidation overtook is discarded, and its
requesters walk again (R314). Bit n of `held` says that the walker's cache still holds the table below the entry of level n. -/
def doWalkComplete (die ctx page : Nat) (held : BitVec 8) (s : State) : State :=
  match findWalk s die ctx page with
  | none => s
  | some w =>
    let s := fsat (dropWalk s w) die 0 Fl.WLK_WALKS_WALKS 1
    if w.discard then w.reqs.foldl (fun s x => unstall s x.1) s
    else
      let q := walkTables s die w held
      finishWalk q.2 die w q.1

def execWalkComplete (die ctx page : Nat) (held : BitVec 8) (s : State) : Host.Outcome State Fault Refusal :=
  .next (settleMoves (settleStalls (doWalkComplete die ctx page held s)))

/-- FAULT_OPEN_RETRY: the oldest fault of a page that waits for room opens its record, or joins the one that has been
opened meanwhile (R311). -/
def doFaultOpenRetry (ctx page : Nat) (s : State) : State :=
  match s.xlat.waiting.find? fun w => w.ctx == ctx && w.page == page with
  | none => s
  | some w =>
    let t : State := { s with xlat := { s.xlat with waiting := s.xlat.waiting.erase w } }
    match t.xlat.faults.find? fun f => f.ctx == ctx && f.page == page with
    | some f => joinFault t f w.req w.write
    | none =>
      if fget t 16 0 Fl.WLK_FAULT_RING_ENABLE = 0 then failReq (fsat t 16 0 Fl.WLK_FAULT_EXCEPT_DENIED_DISABLED 1) w.req 0x0201 0
      else if canOpen t then openFault t ctx page w.cause w.level w.req w.write
      else s

def execFaultOpenRetry (ctx page : Nat) (s : State) : Host.Outcome State Fault Refusal := .next (settleMoves (settleStalls (doFaultOpenRetry ctx page s)))

/-- A response to a record that is not open is ignored and counted (R310). -/
def ignoreResponse (s : State) : State := fsat s 16 0 Fl.WLK_FAULT_EXCEPT_IGNORED 1

/-- Close an open record. A walk of its page that is outstanding and a fault of it that waits for room are treated as new:
their requesters walk again (R309). -/
def closeFault (s : State) (f : FaultRec) : State :=
  let s := putFaults s (s.xlat.faults.erase f)
  let mine (w : FaultWait) : Bool := w.ctx == f.ctx && w.page == f.page
  let late := s.xlat.waiting.filter mine
  let s : State := { s with xlat := { s.xlat with
    walks := s.xlat.walks.map fun w => if w.ctx = f.ctx ∧ w.page = f.page then { w with discard := true } else w
    waiting := s.xlat.waiting.filter fun w => !mine w } }
  late.foldl (fun s w => unstall s w.req) s

/-- Translations that accesses have yet to use are walked for again. -/
def dropHeld (s : State) (p : Tlb → Bool) : State :=
  { s with xlat := { s.xlat with grants := s.xlat.grants.filter fun g => !p g.2 } }

/-- FAULT_RESUME: every waiter replays, with no cached entry for the page (R310). -/
def doFaultResume (record : Nat) (s : State) : State :=
  match s.xlat.faults.find? fun f => f.number == record with
  | none => ignoreResponse s
  | some f =>
    let s := dropHeld (tlbDrop (closeFault s f) (ctxHub f.ctx) (entriesOf f.ctx f.page)) (entriesOf f.ctx f.page)
    f.waiters.foldl unstall s

def execFaultResume (record : Nat) (s : State) : Host.Outcome State Fault Refusal := .next (onDie s 16 fun s => doFaultResume record s)

/-- FAULT_DENY: every waiter's request ends with 0x0201 (R310). -/
def doFaultDeny (record : Nat) (s : State) : State :=
  match s.xlat.faults.find? fun f => f.number == record with
  | none => ignoreResponse s
  | some f => settleStalls (f.waiters.foldl (fun s r => failReq s r 0x0201 record) (closeFault s f))

def execFaultDeny (record : Nat) (s : State) : Host.Outcome State Fault Refusal := .next (onDie s 16 fun s => doFaultDeny record s)

/-! ### Invalidations (R314) -/

/-- Whether a hub serves a context (R20). -/
def serves (h c : Nat) : Bool := decide (c < 65536) && ctxHub c == h

/-- Whether an invalidation matches an entry: hub, context or all, first and last address. -/
def invalHit (h : Nat) (ctx : Option Nat) (first last : Nat) (t : Tlb) : Bool :=
  ctxHub t.ctx == h && ctx.elim true (fun k => t.ctx == k) && decide (t.va ≤ last) && decide (first < t.va + t.size)

/-- Start an invalidation: the walks of the contexts it matches are overtaken, and translations that have not been used are
walked for again (R314). `ctx` none matches all. -/
def startInval (s : State) (h scope : Nat) (ctx : Option Nat) (first last : Nat) (tables : Bool) : State :=
  if fget s h 0 Fl.TRC_INV_CTL_BUSY = 1 ∨ ctx.elim false (fun c => !serves h c) then fput s h 0 Fl.TRC_INV_CTL_REJECTED 1
  else
    let s := fput (fput s h 0 Fl.TRC_INV_CTL_BUSY 1) h 0 Fl.TRC_INV_CTL_START 1
    let s := fput (fput s h 0 Fl.TRC_INV_CTL_DONE 0) h 0 Fl.TRC_INV_CTL_REJECTED 0
    let s := fput (fput s h 0 Fl.TRC_INV_CTL_TABLES (b2n tables)) h 0 Fl.TRC_INV_CTL_SCOPE scope
    let s := match ctx with
      | some c => fput s h 0 Fl.TRC_INV_CTL_CONTEXT c
      | none => s
    let s := dropHeld s (invalHit h ctx first last)
    { s with xlat := { s.xlat with
      invals := s.xlat.invals ++ [(h, ctx, first, last, tables)]
      walks := s.xlat.walks.map fun w =>
        if ctxHub w.ctx = h ∧ ctx.elim true (fun c => w.ctx == c) then { w with discard := true } else w } }

/-- Set TRC_INV_VA for a scope that names pages. -/
def setInvVa (s : State) (h va : Nat) : State := fput s h 0 Fl.TRC_INV_VA_VA (va / 4096)

def doTrcInvalidatePage (h ctx va : Nat) (tables : Bool) (s : State) : State :=
  startInval (setInvVa s h va) h 0 (some ctx) (va / 4096 * 4096) (va / 4096 * 4096 + 4095) tables

def execTrcInvalidatePage (hub ctx va : Nat) (tables : Bool) (s : State) : Host.Outcome State Fault Refusal :=
  .next (onDie s hub fun s => doTrcInvalidatePage hub ctx va tables s)

/-- RANGE of COUNT pages, with 0 standing for 2^24. -/
def doTrcInvalidateRange (h ctx va count : Nat) (tables : Bool) (s : State) : State :=
  let n := if count = 0 then 2 ^ 24 else count
  let s := fput (setInvVa s h va) h 0 Fl.TRC_INV_CTL_COUNT count
  startInval s h 1 (some ctx) (va / 4096 * 4096) (va / 4096 * 4096 + n * 4096 - 1) tables

def execTrcInvalidateRange (hub ctx va count : Nat) (tables : Bool) (s : State) : Host.Outcome State Fault Refusal :=
  .next (onDie s hub fun s => doTrcInvalidateRange hub ctx va count tables s)

def doTrcInvalidateContext (h ctx : Nat) (tables : Bool) (s : State) : State := startInval s h 2 (some ctx) 0 (2 ^ 57) tables

def execTrcInvalidateContext (hub ctx : Nat) (tables : Bool) (s : State) : Host.Outcome State Fault Refusal :=
  .next (onDie s hub fun s => doTrcInvalidateContext hub ctx tables s)

def doTrcInvalidateAll (h : Nat) (tables : Bool) (s : State) : State := startInval s h 3 none 0 (2 ^ 57) tables

def execTrcInvalidateAll (hub : Nat) (tables : Bool) (s : State) : Host.Outcome State Fault Refusal :=
  .next (onDie s hub fun s => doTrcInvalidateAll hub tables s)

/-- Whether an access of a context whose address has been translated is under way: a fill of a read cache, a request to
another device, or a launch that has read its records and not computed its scales. -/
def usesOld (s : State) (p : Nat → Bool) : Bool :=
  (s.rdc.any fun c => c.2.fills.any fun f => f.wants.any fun w => (slotOf s c.1 w.eng).any fun x => p x.1.ctx) ||
    (s.net.remotes.any fun r => !r.done && p (reqCtx s r.req)) ||
    s.launches.any fun l => p l.ctx && !l.ready && !l.hist.isEmpty

/-- The table caches of both walkers give up their entries of some contexts (R314). -/
def dropTables (s : State) (p : Nat → Bool) : State :=
  { s with xlat := { s.xlat with tables := s.xlat.tables.filter fun e => !p e.ctx } }

/-- TRC_INVALIDATION_DONE: no matching entry remains, every walk that it overtook has returned, and every access that used an
entry has completed (R314). -/
def doTrcInvalidationDone (h : Nat) (s : State) : State :=
  match s.xlat.invals.find? fun x => x.1 == h with
  | none => s
  | some x =>
    let ctx := x.2.1
    let first := x.2.2.1
    let last := x.2.2.2.1
    let hit (c : Nat) : Bool := ctxHub c == h && ctx.elim true (fun k => c == k)
    if (s.xlat.walks.any fun w => w.discard && hit w.ctx) ∨ usesOld s hit then s
    else
      let s := tlbDrop s h (invalHit h ctx first last)
      let s := if x.2.2.2.2 then dropTables s hit else s
      let s := fput (fput s h 0 Fl.TRC_INV_CTL_BUSY 0) h 0 Fl.TRC_INV_CTL_START 0
      let s := fsat (fput s h 0 Fl.TRC_INV_CTL_DONE 1) h 0 Fl.TRC_ERR_COUNT_INVALIDATIONS 1
      { s with xlat := { s.xlat with invals := s.xlat.invals.erase x } }

def execTrcInvalidationDone (hub : Nat) (s : State) : Host.Outcome State Fault Refusal := .next (doTrcInvalidationDone hub s)

end Sys2Proof.Machine
end

