-- ==== Sys2Proof/Machine/RegAccess.lean ====
section
/-! DEFINITION. What a read of a register returns and what a write of it does (R9, R10, R28 to R33, and the description of
every register). -/

namespace Sys2Proof.Machine

/-! ### Access codes (R9) -/

/-- What a read returns of a register's word: its write-only fields read 0. -/
def visible (r : Reg) (w : BitVec 64) : BitVec 64 :=
  r.fields.foldl (fun v f => if f.acc = .wo then fldSet f v 0 else v) w

/-- A word whose read-to-clear fields have been read. -/
def afterRead (r : Reg) (w : BitVec 64) : BitVec 64 :=
  r.fields.foldl (fun v f => if f.acc = .rc then fldSet f v 0 else v) w

/-- A word after a write: read-write fields take the value, write-1-to-clear fields lose the bits written as 1. -/
def written (r : Reg) (old w : BitVec 64) : BitVec 64 :=
  r.fields.foldl (fun v f =>
    if f.acc = .rw then fldSet f v (fldOf f w) else if f.acc = .w1c then v &&& ~~~(fldSet f 0 (fldOf f w)) else v) old

/-- A field that a write of 0 leaves unchanged keeps its old value. -/
def keepIfZero (f : Fld) (old w : BitVec 64) : BitVec 64 := if fldOf f w = 0 then fldSet f w (fldOf f old) else w

/-! ### Selected views -/

/-- The context that QFE_CTX_SEL of a hub selects, if the hub serves it. -/
def selCtx (s : State) (d : Nat) : Option Nat :=
  let c := fget s d 0 Fl.QFE_CTX_SEL_CONTEXT
  if ctxHub c = d then some c else none

/-- QFE_CTX_STATE of a context. -/
def ctxStateWord (x : Ctx) : BitVec 64 := fldSet Fl.QFE_CTX_STATE_INFLIGHT x.state (inflight x)

/-- A word of the selected context, 0 when none is. -/
def ctxView (s : State) (d : Nat) (f : Ctx → BitVec 64) : BitVec 64 := ((selCtx s d).map fun c => f (getCtx s c)).getD 0

/-- The vector that IRQ_VEC_SEL selects. -/
def selVec (s : State) (d : Nat) : Nat := (d - 16) * 32768 + fget s d 0 Fl.IRQ_VEC_SEL_VECTOR

/-- IRQ_VEC_CFG of a vector. -/
def vecWord (x : Vec) : BitVec 64 :=
  let w := fldSet Fl.IRQ_VEC_CFG_ENABLE 0 (b2n x.enable)
  let w := fldSet Fl.IRQ_VEC_CFG_PENDING w (b2n x.pending)
  let w := fldSet Fl.IRQ_VEC_CFG_IN_SERVICE w (b2n x.inService.isSome)
  fldSet Fl.IRQ_VEC_CFG_TARGET (fldSet Fl.IRQ_VEC_CFG_PRIORITY w x.priority) x.target

/-- TOK_INSPECT_VAL (R157). -/
def inspectWord (s : State) (d : Nat) : BitVec 64 :=
  match smGet (getTok s d).counters (fget s d 0 Fl.TOK_INSPECT_SEL_COUNTER) with
  | none => 0
  | some k => fldSet Fl.TOK_INSPECT_VAL_VALUE (fldSet Fl.TOK_INSPECT_VAL_CONTEXT (1 <<< 63) k.ctx) k.value

/-- TIER_QUOTA_VAL. -/
def quotaWord (s : State) (h : Nat) : BitVec 64 :=
  let c := fget s h 0 Fl.TIER_QUOTA_SEL_CONTEXT
  let t := fget s h 0 Fl.TIER_QUOTA_SEL_TIER
  if ctxHub c ≠ h then 0
  else
    let x := getCtx s c
    fldSet Fl.TIER_QUOTA_VAL_USED (fldSet Fl.TIER_QUOTA_VAL_QUOTA 0 (x.quota.getD t 0)) (x.used.getD t 0)

/-- The key of the route that NET_ROUTE_SEL selects. -/
def selRoute (s : State) (pd : Nat) : Nat := pd * 4096 + fget s pd 0 Fl.NET_ROUTE_SEL_DEVICE

/-- NET_FCTR_VAL. -/
def fctrWord (s : State) (pd : Nat) : BitVec 64 :=
  let x := getFctr s ((pd - 22) * 2048 + fget s pd 0 Fl.NET_FCTR_SEL_COUNTER)
  fldSet Fl.NET_FCTR_VAL_WAITS (fldSet Fl.NET_FCTR_VAL_VALUE 0 x.value) x.waits.length

/-- NET_QP_CTL of the selected queue pair. -/
def qpWord (s : State) (pd : Nat) : BitVec 64 :=
  let st := qpState s pd (fget s pd 0 Fl.NET_QP_SEL_QP)
  fldSet Fl.NET_QP_CTL_STATE (fldSet Fl.NET_QP_CTL_ENABLE (rget s pd .netQpCtl 0) (b2n (st == 1 || st == 2))) st

/-- MED_PIPE: a pipeline that works shows whether it is stalled or paused. -/
def pipeWord (s : State) (pd i : Nat) : BitVec 64 :=
  let w := rget s pd .medPipe i
  if fldOf Fl.MED_PIPE_STATE w = 0 then w
  else
    let stalled := (pipeCmd s (pd, i)).any fun x => x.2.stalled.isSome
    let paused := smGetD s.power.mediaPaused false (12 * pd + i)
    fldSet Fl.MED_PIPE_STATE w (if paused then 3 else if stalled then 2 else 1)

/-- Persistent registers that hold a pending value. -/
def pendingRegs (s : State) : List Nat := (s.persist.filter fun p => p.2.pendingV.isSome).map (·.1)

/-- PRS_WEAR. -/
def wearWord (s : State) : BitVec 64 :=
  let n := (getPersist s (fget s 24 0 Fl.PRS_WEAR_SEL_REG)).commits
  let w := fldSet Fl.PRS_WEAR_EXHAUSTED 0 (b2n (decide (wearEnd ≤ n)))
  let w := fldSet Fl.PRS_WEAR_WARNED w (b2n (decide (wearWarn ≤ n)))
  fldSet Fl.PRS_WEAR_COMMITS (fldSet Fl.PRS_WEAR_COPY w (min 7 (n / 1250000))) n

/-- SEC_CERT_DATA. -/
def certWord (s : State) : BitVec 64 :=
  let o := 8 * fget s 24 0 Fl.SEC_CERT_SEL_WORD
  BitVec.ofNat 64 (beNat ((List.range 8).map fun j =>
    if o + j < min 2048 Config.certLength then Config.certByte (o + j) else 0))

/-- PWR_DOMAIN of the selected unit. -/
def domainWord (s : State) : BitVec 64 :=
  let v := domainView s (fget s 24 0 Fl.PWR_DOMAIN_UNIT)
  fldSet Fl.PWR_DOMAIN_MILLIVOLTS (fldSet Fl.PWR_DOMAIN_STATE (rget s 24 .pwrDomain 0) v.1) v.2

/-- The value of a register before its write-only fields are masked. -/
def regView (s : State) (d : Nat) (r : Reg) (i : Nat) : BitVec 64 :=
  match r with
  | .timeNow => s.time
  | .tokInspectVal => inspectWord s d
  | .tierQuotaVal => quotaWord s d
  | .qfeCtxCmdRing => ctxView s d (·.cmdRing)
  | .qfeCtxCplRing => ctxView s d (·.cplRing)
  | .qfeCtxEvtRing => ctxView s d (·.evtRing)
  | .qfeCtxRoot => ctxView s d (·.root)
  | .qfeCtxAttr => ctxView s d (·.attr)
  | .qfeCtxState => ctxView s d ctxStateWord
  | .qfeCtxSeq => ctxView s d fun x => BitVec.ofNat 64 x.fetched
  | .irqVecCfg => vecWord (getVec s (selVec s d))
  | .netDevice => rget s 22 .netDevice 0
  | .netRoute => smGetD s.net.routes 0 (selRoute s d)
  | .netFctrVal => fctrWord s d
  | .netQpCtl => qpWord s d
  | .medPipe => pipeWord s d i
  | .hbmRecovery => BitVec.ofNat 64 (hbmExclude s d)
  | .pwrDomain => domainWord s
  | .prsReg => persistRead s i
  | .prsPend => BitVec.ofNat 64 (((pendingRegs s).filter fun n => n / 64 == i).map fun n => 2 ^ (n % 64)).sum
  | .prsStatus => fldSet Fl.PRS_STATUS_PENDING (rget s d r i) (pendingRegs s).length
  | .prsWear => wearWord s
  | .secMrVal => BitVec.ofNat 64 ((mrGet s (fget s 24 0 Fl.SEC_MR_SEL_INDEX)).toNat / 2 ^ (320 - 64 * i))
  | .secCertData => certWord s
  | _ => rget s d r i

/-! ### Measured values -/

/-- A flag that is free while a condition holds, and 0 while it does not. -/
def busyFlag (s : State) (d i : Nat) (f : Fld) (on : Bool) : State :=
  if on then gauge s d i f else if fget s d i f = 0 then s else fput s d i f 0

/-- What the device measures up to a read: handshakes and energy of pairs that are on (R54, R65, R67), work in progress of
a placed engine, temperatures, flits sent, and corrected errors that no command reports. -/
def measure (s : State) (d : Nat) (r : Reg) (i : Nat) : State :=
  let on := decide (fget s d (i / 2) Fl.PWD_PAIR_STATE ≠ 0)
  let placed := fget s d i Fl.ENG_STATUS_PLACED == 1
  match r with
  | .engHsTotal => if on then advance s d i Fl.ENG_HS_TOTAL_COUNT else s
  | .engHsActive => if on then advance s d i Fl.ENG_HS_ACTIVE_COUNT else s
  | .engHsStallFeed => if on then advance s d i Fl.ENG_HS_STALL_FEED_COUNT else s
  | .engHsStallDrain => if on then advance s d i Fl.ENG_HS_STALL_DRAIN_COUNT else s
  | .engStatus => busyFlag (busyFlag s d i Fl.ENG_STATUS_ARRAY_BUSY placed) d i Fl.ENG_STATUS_VECTOR_BUSY placed
  | .engPhoStatus => busyFlag s d i Fl.ENG_PHO_STATUS_DELAYED placed
  | .pwdEnergy => if fget s d i Fl.PWD_PAIR_STATE = 0 then s else advance s d i Fl.PWD_ENERGY_MICROJOULES
  | .hbmStack => if fget s d i Fl.HBM_STACK_STATE < 2 then gauge s d i Fl.HBM_STACK_TEMP_C else s
  | .trcErrCount => accrue s d i Fl.TRC_ERR_COUNT_PARITY
  | .lnkPortFlits => if fget s d i Fl.LNK_PORT_STATE_STATE = 2 ∧ !isBond d i then advance s d i Fl.LNK_PORT_FLITS_SENT else s
  | .cohErrCount => accrue s d i Fl.COH_ERR_COUNT_DIR_CE
  | .cohErrStatus => if fget s d i Fl.COH_ERR_STATUS_DIR_CE = 1 then s else gauge s d i Fl.COH_ERR_STATUS_DIR_CE
  | _ => s

/-- A field between two limits. -/
def within (f : Fld) (lo hi : Nat) (w : BitVec 64) : BitVec 64 := fldSet f w (min hi (max lo (fldOf f w)))

/-- Fields whose values outside a range are read as another value. -/
def readAs (r : Reg) (w : BitVec 64) : BitVec 64 :=
  match r with
  | .tierHintRing => within Fl.TIER_HINT_RING_SIZE_LOG2 0 8 w
  | .coreFreq => within Fl.CORE_FREQ_REQUEST 40 255 w
  | .cohTimeout => within Fl.COH_TIMEOUT_HOME_US 20 65535 w
  | .hbmBg => fldSet Fl.HBM_BG_SCRUB_HOURS w (scrubHours (fldOf Fl.HBM_BG_SCRUB_HOURS w))
  | .ddrBg => fldSet Fl.DDR_BG_SCRUB_HOURS w (scrubHours (fldOf Fl.DDR_BG_SCRUB_HOURS w))
  | .pwrCeiling => within Fl.PWR_CEILING_CEILING_W 1200 3600 (within Fl.PWR_CEILING_CAP_REQ_W 1200 3600 w)
  | .pwrRamp => within Fl.PWR_RAMP_A_PER_US 5 40 w
  | _ => w

/-- Read a register: the value, and the state after the effects of the read. -/
def regRead (s : State) (d : Nat) (r : Reg) (i : Nat) : BitVec 64 × State :=
  let s := measure s d r i
  match r with
  | .irqAck => readAck s d i
  | .qfeCtxState =>
    (visible r (regView s d r i), match selCtx s d with
      | some c => modCtx s c fun x => { x with state := afterRead r x.state }
      | none => s)
  | _ =>
    let v := visible r (readAs r (regView s d r i))
    if r.fields.any fun f => f.acc == .rc then (v, rput s d r i (afterRead r (rget s d r i))) else (v, s)

/-! ### Writes -/

/-- Plain write. -/
def putPlain (s : State) (d : Nat) (r : Reg) (i : Nat) (w : BitVec 64) : State := rput s d r i (written r (rget s d r i) w)

/-- A write of a ring, root or sequence register of the selected context, ignored while its ENABLE is 1 (R269). -/
def ctxWrite (s : State) (d : Nat) (f : Ctx → Ctx) : State :=
  match selCtx s d with
  | none => s
  | some c => if fldOf Fl.QFE_CTX_ATTR_ENABLE (getCtx s c).attr = 1 then s else modCtx s c f

/-- A write of QFE_CTX_ATTR. -/
def attrWrite (s : State) (d : Nat) (w : BitVec 64) : State :=
  match selCtx s d with
  | none => s
  | some c => if fldOf Fl.QFE_CTX_ATTR_ENABLE w = 1 then doContextEnable c w s else doContextDisable c w s

/-- A write of TIER_REGION_CMD. -/
def regionWrite (s : State) (h : Nat) (w : BitVec 64) : State :=
  let i := fldOf Fl.TIER_REGION_CMD_REGION w
  let c := fldOf Fl.TIER_REGION_CMD_CONTEXT w
  let ro := fldOf Fl.TIER_REGION_CMD_READ_ONLY w == 1
  if fldOf Fl.TIER_REGION_CMD_OP w = 1 then doTierRegionRelease h ro (fldOf Fl.TIER_REGION_CMD_PAGES w) i c s
  else doTierRegionDeclare h ro (fldOf Fl.TIER_REGION_CMD_PAGES w) i c s

/-- A write of TRC_INV_CTL: its read-write fields take what is written, whether or not START is ignored. -/
def invWrite (s : State) (h : Nat) (w : BitVec 64) : State :=
  let c := fldOf Fl.TRC_INV_CTL_CONTEXT w
  let va := fget s h 0 Fl.TRC_INV_VA_VA * 4096
  let t := fldOf Fl.TRC_INV_CTL_TABLES w == 1
  if fldOf Fl.TRC_INV_CTL_START w = 0 then putPlain s h .trcInvCtl 0 w
  else
    let s := match fldOf Fl.TRC_INV_CTL_SCOPE w with
      | 0 => doTrcInvalidatePage h c va t s
      | 1 => doTrcInvalidateRange h c va (fldOf Fl.TRC_INV_CTL_COUNT w) t s
      | 2 => doTrcInvalidateContext h c t s
      | _ => doTrcInvalidateAll h t s
    putPlain s h .trcInvCtl 0 w

/-- A write of WLK_FAULT_RESPOND, which HD0 serves (R310). -/
def respondWrite (s : State) (d : Nat) (w : BitVec 64) : State :=
  let n := fldOf Fl.WLK_FAULT_RESPOND_RECORD w
  if d ≠ 16 then s
  else match fldOf Fl.WLK_FAULT_RESPOND_ACTION w with
    | 1 => doFaultResume n s
    | 2 => doFaultDeny n s
    | _ => ignoreResponse s

/-- A write of CORE_CMD: OP 0 does nothing. -/
def coreCmdWrite (s : State) (d : Nat) (w : BitVec 64) : State :=
  let c := fldOf Fl.CORE_CMD_CORE w
  match fldOf Fl.CORE_CMD_OP w with
  | 1 => doCoreOffline d c s
  | 2 => doCoreOnline d c s
  | 3 => doCoreRecalibrate d c s
  | _ => if coreCmdBusy s d then refuseCoreCmd s d 5 else putPlain s d .coreCmd 0 w

/-- A write of IRQ_VEC_CFG. -/
def vecWrite (s : State) (d : Nat) (w : BitVec 64) : State :=
  let v := selVec s d
  let x := getVec s v
  putVec s v { x with
    enable := fldOf Fl.IRQ_VEC_CFG_ENABLE w == 1
    priority := fldOf Fl.IRQ_VEC_CFG_PRIORITY w
    target := fldOf Fl.IRQ_VEC_CFG_TARGET w
    pending := x.pending && fldOf Fl.IRQ_VEC_CFG_PENDING w == 0 }

/-- A coordinator holds nothing of an earlier job. -/
def newJob (s : State) : State :=
  { s with power := { s.power with reports := [], reportAt := [], grants := [], budgets := [] } }

/-- A write of PWR_JOB_CTL: BUDGET_W only while ENABLE is 0; ENABLE going to 1 grants the budget and begins a job, and so does another
JOB_ID (R425, R426). -/
def jobWrite (s : State) (w : BitVec 64) : State :=
  let old := rget s 24 .pwrJobCtl 0
  let on := fldOf Fl.PWR_JOB_CTL_ENABLE old = 1
  let s := if on ∧ fldOf Fl.PWR_JOB_CTL_JOB_ID w = fldOf Fl.PWR_JOB_CTL_JOB_ID old then s else newJob s
  if on then
    putPlain s 24 .pwrJobCtl 0 (fldSet Fl.PWR_JOB_CTL_BUDGET_W w (fldOf Fl.PWR_JOB_CTL_BUDGET_W old))
  else
    let s := putPlain s 24 .pwrJobCtl 0 w
    if fldOf Fl.PWR_JOB_CTL_ENABLE w = 1 then setGrant s (fldOf Fl.PWR_JOB_CTL_BUDGET_W w) else s

/-- A write of NET_PORT_CFG: one that changes MODE while ENABLE is 1 is ignored, and a device without an ID refuses Agaelen mode
(R436, R442). -/
def portWrite (s : State) (pd i : Nat) (w : BitVec 64) : State :=
  let old := rget s pd .netPortCfg i
  let on := fldOf Fl.NET_PORT_CFG_ENABLE old = 1
  let mode := fldOf Fl.NET_PORT_CFG_MODE w
  if on ∧ mode ≠ fldOf Fl.NET_PORT_CFG_MODE old then s
  else
    let s := putPlain s pd .netPortCfg i (if deviceId s = 0 then fldSet Fl.NET_PORT_CFG_MODE w 0 else w)
    if on ∧ fldOf Fl.NET_PORT_CFG_ENABLE w = 0 then disablePort s ((pd - 22) * 4 + i)
    else if ¬ on ∧ fldOf Fl.NET_PORT_CFG_ENABLE w = 1 ∧ unitGood s pd i then fput s pd i Fl.NET_PORT_STATE_STATE 1
    else s

/-- A write of SEC_KEY_CTL: a write with another OP is refused. -/
def keyWrite (s : State) (w : BitVec 64) : State :=
  match fldOf Fl.SEC_KEY_CTL_OP w with
  | 1 => doSecKeyProgram (fldOf Fl.SEC_KEY_CTL_SLOT w) s
  | 2 => doSecKeyRevoke (fldOf Fl.SEC_KEY_CTL_SLOT w) s
  | _ => secKeyRejected s true

/-- A write of SEC_DBG_CTL: NEW before SUBMIT. -/
def dbgCtlWrite (s : State) (w : BitVec 64) : State :=
  let s := fput s 24 0 Fl.SEC_DBG_CTL_LEVEL (fldOf Fl.SEC_DBG_CTL_LEVEL w)
  let s := if fldOf Fl.SEC_DBG_CTL_NEW w = 1 then doSecDbgNew s else s
  if fldOf Fl.SEC_DBG_CTL_SUBMIT w = 1 then doSecDbgSubmit (fldOf Fl.SEC_DBG_CTL_LEVEL w) s else s

/-- A write of EVT_LOG. BASE is ignored while ENABLE is 1 (R518). -/
def logWrite (s : State) (w : BitVec 64) : State :=
  if fldOf Fl.EVT_LOG_ENABLE w = 1 then doEvtLogEnable w s
  else if fget s 24 0 Fl.EVT_LOG_ENABLE = 1 then fput s 24 0 Fl.EVT_LOG_ENABLE 0
  else putPlain s 24 .evtLog 0 w

/-- A write of DBG_CTL: without EYEPIECE_EN the TAP is reset (R522). -/
def dbgWrite (s : State) (w : BitVec 64) : State :=
  let s := putPlain s 24 .dbgCtl 0 w
  if fldOf Fl.DBG_CTL_EYEPIECE_EN w = 1 then s
  else { s with
    jtag := { s.jtag with ir := irIdcode }
    pins := { s.pins with tdoDriven := false, highZ := false } }

/-- A write of DBG_TRACE: clearing STOPPED restarts tracing at the ring's start. -/
def traceWrite (s : State) (w : BitVec 64) : State :=
  let t := putPlain s 24 .dbgTrace 0 w
  if fldOf Fl.DBG_TRACE_STOPPED w = 1 ∧ fget s 24 0 Fl.DBG_TRACE_STOPPED = 1 then { t with evt := { t.evt with traceN := 0 } } else t

/-- What training finds when it is started by a write of DBG_SERVICE: what the device shows now. -/
def deviceFindings (s : State) : Findings :=
  { badColumns := (List.range 8).flatMap fun d => (List.range 34).map fun e => (d, e, BitVec.ofNat 128 (colmap s d e))
    badRows := (List.range 8).flatMap fun d => (List.range 32).map fun b => (d + 8, b, smGetD s.rowMap [] (bankIndex (d + 8) b))
    badPcs := ((List.range 16).filter (stackServes s)).flatMap fun st =>
      ((List.range 32).filter fun i => !(goodPcs s st).testBit i || s.failedPcs.contains (32 * st + i)).map fun i => 32 * st + i
    dataLanes := []
    caLanes := []
    badStacks := []
    badLinks := allLinks.filter fun x => lnkState s x.1 x.2 == lDown
    bondPads := []
    lanes := s.links.filterMap fun x => x.2.ownMap.map fun m =>
      (x.1 / 16, x.1 % 16, List.replicate 3 ((List.range m.length).filter fun i => m[i]? == some false)) }

/-- A write of DBG_SERVICE (R511). -/
def serviceWrite (s : State) (w : BitVec 64) : State :=
  let arg := fldOf Fl.DBG_SERVICE_ARG w
  let keep (s : State) : State := if fget s 24 0 Fl.DBG_SERVICE_REJECTED = 1 then s else fput s 24 0 Fl.DBG_SERVICE_ARG arg
  match fldOf Fl.DBG_SERVICE_OP w with
  | 0 => putPlain s 24 .dbgService 0 w
  | 1 => doRetireEngine arg s
  | 2 => keep (doSetPartitionMode (arg % 4) (deviceFindings s) s)
  | _ => keep (doRetrainDdr s.ddr s)

/-- Write a register. -/
def regWrite (s : State) (d : Nat) (r : Reg) (i : Nat) (w : BitVec 64) : State :=
  match r with
  | .engSelftest => if fldOf Fl.ENG_SELFTEST_START w = 1 then doEngSelftest d i s else s
  | .engPhoTest => if fldOf Fl.ENG_PHO_TEST_INJECT w = 1 then doEngPhoTest d i s else s
  | .rdcInvalidate => if fldOf Fl.RDC_INVALIDATE_START w = 1 then doRdcInvalidate d s else s
  | .tierTimeout =>
    let old := rget s d r i
    putPlain s d r i (keepIfZero Fl.TIER_TIMEOUT_REMOTE_MS old (keepIfZero Fl.TIER_TIMEOUT_FAR_US old w))
  | .tierHintCtl => putPlain s d r i (keepIfZero Fl.TIER_HINT_CTL_DECAY_MS (rget s d r i) w)
  | .tierHintCons =>
    let v := fldOf Fl.TIER_HINT_CONS_CONS w
    if hintSize s d < (fget s d 0 Fl.TIER_HINT_PROD_PROD + 2 ^ 32 - v) % 2 ^ 32 then s else putPlain s d r i w
  | .tierRegionCmd => regionWrite s d w
  | .qfeCtxCmdRing => ctxWrite s d fun x => { x with cmdRing := written r x.cmdRing w }
  | .qfeCtxCplRing => ctxWrite s d fun x => { x with cplRing := written r x.cplRing w }
  | .qfeCtxEvtRing => ctxWrite s d fun x => { x with evtRing := written r x.evtRing w }
  | .qfeCtxRoot => ctxWrite s d fun x => { x with root := written r x.root w }
  | .qfeCtxSeq => ctxWrite s d fun x =>
      { x with fetched := fldOf Fl.QFE_CTX_SEQ_SEQ w, tail := fldOf Fl.QFE_CTX_SEQ_SEQ w }
  | .qfeCtxAttr => attrWrite s d w
  | .qfeCtxState => match selCtx s d with
    | some c => if fldOf Fl.QFE_CTX_STATE_UNPARK w = 1 then doUnpark c s else s
    | none => s
  | .trcInvCtl => invWrite s d w
  | .wlkFaultRing =>
    let old := rget s d r i
    putPlain s d r i (if fldOf Fl.WLK_FAULT_RING_ENABLE old = 1 then
      fldSet Fl.WLK_FAULT_RING_BASE w (fldOf Fl.WLK_FAULT_RING_BASE old) else w)
  | .wlkFaultCons =>
    if mayConsume (fget s d 0 Fl.WLK_FAULT_CONS_CONS) (fget s d 0 Fl.WLK_FAULT_PROD_PROD) (fldOf Fl.WLK_FAULT_CONS_CONS w) then
      putPlain s d r i w
    else s
  | .wlkFaultRespond => respondWrite s d w
  | .coreCmd => coreCmdWrite s d w
  | .coreFarTimeout => putPlain s d r i (keepIfZero Fl.CORE_FAR_TIMEOUT_US (rget s d r i) w)
  | .coreFreq => setEffective (putPlain s d r i w) d i
  | .irqVecCfg => vecWrite s d w
  | .irqIpi => doIrqIpi d (fldOf Fl.IRQ_IPI_VECTOR w) s
  | .irqEoi => doIrqEoi d i (fldOf Fl.IRQ_EOI_VECTOR w) s
  | .cohStashRecords => if d = 17 then s else putPlain s d r i w
  | .hbmRecovery =>
    let b := 4 * (d - 18)
    persistField s 1 (b + 3) b (fldOf Fl.HBM_RECOVERY_EXCLUDE w)
  | .hbmBg => putPlain s d r i (keepIfZero Fl.HBM_BG_RECAL_PERIOD_MS (rget s d r i) w)
  | .ddrBg => putPlain s d r i (keepIfZero Fl.DDR_BG_RECAL_PERIOD_MS (rget s d r i) w)
  | .lnkRecal =>
    let old := rget s d r i
    putPlain s d r i (keepIfZero Fl.LNK_RECAL_WAIT_MS old (keepIfZero Fl.LNK_RECAL_PERIOD_MS old w))
  | .lnkPortCtl => if fldOf Fl.LNK_PORT_CTL_RETRAIN w = 1 then doLnkPortCtlRetrain d i s else s
  | .pwrLearn => if fldOf Fl.PWR_LEARN_FLUSH w = 1 then doPwrLearnFlush s else s
  | .pwrJobCtl => jobWrite s w
  | .pwrDomain => doPwrDomainOffReq (fldOf Fl.PWR_DOMAIN_UNIT w) (fldOf Fl.PWR_DOMAIN_OFF_REQ w == 1) s
  | .netDevice => if d = 22 then putPlain s d r i w else s
  | .netRoute =>
    { s with net := { s.net with routes := smPut s.net.routes (selRoute s d) (written r (smGetD s.net.routes 0 (selRoute s d)) w) } }
  | .netFctrVal => doNetFctrVal d (fget s d 0 Fl.NET_FCTR_SEL_COUNTER) (BitVec.ofNat 32 (fldOf Fl.NET_FCTR_VAL_VALUE w)) s
  | .netQpCtl =>
    let n := fget s d 0 Fl.NET_QP_SEL_QP
    let s := fput s d 0 Fl.NET_QP_CTL_RECORD (fldOf Fl.NET_QP_CTL_RECORD w)
    if fldOf Fl.NET_QP_CTL_ENABLE w = 1 then doNetQpEnable d n w s else doNetQpDisable d n s
  | .netQpDoorbell => doNetQpDoorbell d (fldOf Fl.NET_QP_DOORBELL_QP w) (fldOf Fl.NET_QP_DOORBELL_TAIL w) s
  | .netPortCfg => portWrite s d i w
  | .pciRpCxl => doPciRpCxl d i w s
  | .medPipe => doMedPipeEnable d i (fldOf Fl.MED_PIPE_ENABLE w == 1) s
  | .rstCtl => rstCtl s (fldOf Fl.RST_CTL_KEY w) (fldOf Fl.RST_CTL_LEVEL w) (fldOf Fl.RST_CTL_PARTITION w)
  | .prsReg => doPersistWrite i w s
  | .secKeyCtl => keyWrite s w
  | .secMrExtend =>
    if fldOf Fl.SEC_MR_EXTEND_START w = 1 then doSecMrExtend (fldOf Fl.SEC_MR_EXTEND_INDEX w) s else putPlain s d r i w
  | .secRollback => doSecRollback (fldOf Fl.SEC_ROLLBACK_INDEX w) (BitVec.ofNat 32 (fldOf Fl.SEC_ROLLBACK_VALUE w)) s
  | .secUpdate =>
    if fldOf Fl.SEC_UPDATE_START w = 1 then
      doSecUpdate (fldOf Fl.SEC_UPDATE_CONTROLLER w) (fldOf Fl.SEC_UPDATE_COMMIT w == 1) s
    else putPlain s d r i w
  | .secDbgResponse => rput s d r i w
  | .secDbgKey => rput s d r i w
  | .secDbgCtl => dbgCtlWrite s w
  | .evtLog => logWrite s w
  | .evtCons =>
    if mayConsume (fget s 24 0 Fl.EVT_CONS_COUNT) (fget s 24 0 Fl.EVT_PROD_COUNT) (fldOf Fl.EVT_CONS_COUNT w) then putPlain s d r i w
    else s
  | .dbgCtl => dbgWrite s w
  | .dbgTrace => traceWrite s w
  | .dbgService => serviceWrite s w
  | _ => putPlain s d r i w

/-! ### Accesses to register space (R26 to R30) -/

/-- What an access of register space reaches: nothing when it receives an error response; a die, and the register there
unless the offset defines none. -/
def regTarget (s : State) (pa size : Nat) : Option (Nat × Option (Reg × Nat)) :=
  let d := (pa - regBase) / 0x400_0000
  let slot := pa / 0x10_0000 % 64
  if size ≠ 8 ∨ pa % 8 ≠ 0 ∨ 25 ≤ d ∨ (blkAt (dieType d) slot).isNone ∨ windowDead s d then none
  else some (d, regAt d slot (pa % 0x10_0000))

/-- A read of register space: none is an error response. -/
def spaceRead (s : State) (pa size : Nat) : Option (BitVec 64 × State) :=
  (regTarget s pa size).map fun t => match t.2 with
    | some (r, i) => regRead s t.1 r i
    | none => (0, s)

/-- A write of register space: none is an error response. -/
def spaceWrite (s : State) (pa size : Nat) (w : BitVec 64) : Option State :=
  (regTarget s pa size).map fun t => match t.2 with
    | some (r, i) => regWrite s t.1 r i w
    | none => s

/-! ### Doorbell pages (R275) -/

/-- A read of a doorbell page. -/
def bellRead (s : State) (pa size : Nat) : Option (BitVec 64) :=
  let x := getCtx s ((pa - bellBase) / 4096)
  if size ≠ 8 ∨ pa % 8 ≠ 0 then none
  else some (match pa % 4096 with
    | 0x000 => BitVec.ofNat 64 x.tail
    | 0x008 => BitVec.ofNat 64 x.cplHead
    | 0x010 => BitVec.ofNat 64 x.evtHead
    | 0x018 => BitVec.ofNat 64 x.fetched
    | 0x020 => BitVec.ofNat 64 x.cplTail
    | 0x028 => BitVec.ofNat 64 x.evtTail
    | 0x030 => visible .qfeCtxState (ctxStateWord x)
    | _ => 0)

/-- A write of a doorbell page. -/
def bellWrite (s : State) (pa size : Nat) (w : BitVec 64) : Option State :=
  let c := (pa - bellBase) / 4096
  if size ≠ 8 ∨ pa % 8 ≠ 0 then none
  else some (match pa % 4096 with
    | 0x000 => doCmdTail c w s
    | 0x008 => doCplHead c w s
    | 0x010 => doEvtHead c w s
    | _ => s)

end Sys2Proof.Machine
end

