-- ==== Sys2Proof/Machine/HostCore.lean ====
section
/-! DEFINITION. Loads and stores of the host cores by memory type, register writes, and the Eyepiece's DEBUG access (R319,
R324, R326, R329 to R332, R334, R522). -/

namespace Sys2Proof.Machine

/-- A core executes: it runs, and no reset holds it. -/
def coreRuns (s : State) (d c : Nat) : Bool := fget s d c Fl.CORE_STATE_STATE == 1 && s.rst.kind == .none

/-- A Device load binds its value. -/
def bindDevice (s : State) (d c : Nat) (v : BitVec 64) : State := modCore s d c fun x => { x with result := .value v }

/-- A device outside the M9 answers a load with a value of its own. -/
def mmioAnswer (s : State) (d c size : Nat) : State :=
  let v := draw s
  bindDevice v.2 d c (BitVec.ofNat 64 (v.1.toNat % 2 ^ (8 * size)))

/-- A load of PCIe MMIO: an error response while the port is down; otherwise the device answers at once or later, as a free
choice (R451, R453). -/
def mmioLoad (s : State) (d c a size g : Nat) : State :=
  if !rpUp s g then loadError s d c kBusLoad a
  else
    let w := drawBelow s 2
    if w.1 = 0 then modCore w.2 d c fun x => { x with waiting := x.waiting ++ [⟨a, size, 0, []⟩] } else mmioAnswer w.2 d c size

/-- Whether an address is of Device type (R319). -/
def isDevice (s : State) (a : Nat) : Bool :=
  match paKind s a with
  | .reg => true
  | .doorbell => true
  | .mmio _ => true
  | _ => false

/-- A load of Device memory. -/
def deviceLoad (s : State) (d c a size : Nat) : State :=
  match paKind s a with
  | .reg => match spaceRead s a size with
    | some (v, s) => bindDevice s d c v
    | none => loadError s d c kBusLoad a
  | .doorbell => match bellRead s a size with
    | some v => bindDevice s d c v
    | none => loadError s d c kBusLoad a
  | .mmio g => mmioLoad s d c a size g
  | _ => s

/-- A store to Device memory. A store to PCIe MMIO is posted: what the device does with it is outside the M9. -/
def deviceStore (s : State) (d c a size : Nat) (v : BitVec 64) : State :=
  match paKind s a with
  | .reg => (spaceWrite s a size v).getD (storeErr s d c kBusStore a)
  | .doorbell => (bellWrite s a size v).getD (storeErr s d c kBusStore a)
  | _ => s

/-! ### Program order (R324, R327 to R332) -/

/-- A Device read of the core waits for its device. -/
def deviceWaits (s : State) (x : Core) : Bool := x.waiting.any fun w => isDevice s w.addr

/-- The address of an access. -/
def CoreOp.addr : CoreOp → Option Nat
  | .load a _ => some a
  | .store a _ _ => some a
  | .stnt a _ _ => some a
  | .ordL => none
  | .ordS => none
  | .ordLs => none
  | .halt => none
  | .irqAck => none
  | .irqEoi _ => none

/-- Whether an access of the queue is of Device type. -/
def CoreOp.device (s : State) : CoreOp → Bool
  | .irqAck => true
  | .irqEoi _ => true
  | x => x.addr.any (isDevice s)

/-- A barrier or a halt: everything that is no access. -/
def CoreOp.barrier : CoreOp → Bool
  | .ordL => true
  | .ordS => true
  | .ordLs => true
  | .halt => true
  | .load _ _ => false
  | .store _ _ _ => false
  | .stnt _ _ _ => false
  | .irqAck => false
  | .irqEoi _ => false

/-- Whether what waits holds a later one back: ORD.S lets loads pass; an access holds back those of its line, Device accesses
one another, and all of them the barriers behind them. -/
def holdsBack (s : State) (q x : CoreOp) : Bool :=
  match q, x with
  | .ordS, .load _ _ => false
  | q, x => q.barrier || x.barrier || q.device s && x.device s || q.addr.any fun a => x.addr.any fun b => lineOf a == lineOf b

/-- A Device access is performed once every earlier Device read has its answer, every earlier store has retired, and a load on
which it depends is bound (R319, R327, R329). -/
def deviceStart (s : State) (d c : Nat) (f : State → State) : Bool × State :=
  if deviceWaits s (getCore s d c) ∨ !mayRetire s d c then (false, s)
  else
    let w := dependsOn s d c
    if w.1 then (false, w.2) else (true, f (retireStores w.2 d c))

/-- Start an access or complete a barrier. Answers whether it has. -/
def startOp (s : State) (d c : Nat) (x : CoreOp) : Bool × State :=
  match x with
  | .load a n => if isDevice s a then deviceStart s d c fun s => deviceLoad s d c a n else (true, normalLoad s d c a n)
  | .store a n v => if isDevice s a then deviceStart s d c fun s => deviceStore s d c a n v else (true, normalStore s d c a n v)
  | .stnt a n v => if isDevice s a then deviceStart s d c fun s => deviceStore s d c a n v else normalStnt s d c a n v
  | .ordL => (!loadsOut (getCore s d c), s)
  | .ordS =>
    let t := drainAll s d c
    if storesOut t d c then (false, t) else (true, takeStoreError t d c)
  | .ordLs =>
    let t := drainAll s d c
    if storesOut t d c ∨ loadsOut (getCore t d c) then (false, t) else (true, takeStoreError t d c)
  | .halt => if loadsOut (getCore s d c) then (false, s) else (true, fput (retireStores s d c) d c Fl.CORE_STATE_STATE 2)
  | .irqAck => deviceStart s d c fun s => doIrqAck d c s
  | .irqEoi v => deviceStart s d c fun s => doIrqEoi d c v s

/-- Start what the core holds back, in program order, until something cannot start. -/
def runQueue : Nat → State → Nat → Nat → State
  | 0, s, _, _ => s
  | n + 1, s, d, c =>
    match (getCore s d c).queue with
    | [] => s
    | x :: r =>
      if !coreRuns s d c then s
      else
        let q := startOp s d c x
        if q.1 then runQueue n (modCore q.2 d c fun k => { k with queue := r }) d c else q.2

def runCore (s : State) (d c : Nat) : State := runQueue (getCore s d c).queue.length s d c

/-- A core issues an access, a barrier or a halt. -/
def issue (d c : Nat) (x : CoreOp) (s : State) : State :=
  if !coreRuns s d c then s
  else
    let s := runCore s d c
    let q := if (getCore s d c).queue.any fun y => holdsBack s y x then (false, s) else startOp s d c x
    if q.1 then q.2 else modCore q.2 d c fun k => { k with queue := k.queue ++ [x] }

/-- LOAD. -/
def execLoad (die core addr size : Nat) (s : State) : Host.Outcome State Fault Refusal := .next (issue die core (.load addr size) s)

/-- STORE. -/
def execStore (die core addr size : Nat) (value : BitVec 64) (s : State) : Host.Outcome State Fault Refusal :=
  .next (issue die core (.store addr size value) s)

/-- STNT: to a Device address it is performed as an ordinary Device store (R332). -/
def execStnt (die core addr size : Nat) (value : BitVec 64) (s : State) : Host.Outcome State Fault Refusal :=
  .next (issue die core (.stnt addr size value) s)

/-- REGISTER_WRITE: a store of a core to register space. -/
def doRegisterWrite (d c a size : Nat) (v : BitVec 64) (s : State) : State :=
  if paKind s a ≠ .reg then s else issue d c (.store a size v) s

def execRegisterWrite (die core addr size : Nat) (value : BitVec 64) (s : State) : Host.Outcome State Fault Refusal :=
  .next (doRegisterWrite die core addr size value s)

/-- ORD_L. -/
def execOrdL (die core : Nat) (s : State) : Host.Outcome State Fault Refusal := .next (issue die core .ordL s)

/-- ORD_S. -/
def execOrdS (die core : Nat) (s : State) : Host.Outcome State Fault Refusal := .next (issue die core .ordS s)

/-- ORD_LS. -/
def execOrdLs (die core : Nat) (s : State) : Host.Outcome State Fault Refusal := .next (issue die core .ordLs s)

/-- CORE_HALT: a running core halts by its own software, after everything before it. -/
def execCoreHalt (die core : Nat) (s : State) : Host.Outcome State Fault Refusal := .next (issue die core .halt s)

/-- IRQ_ACK: a read of register space by the core, in its place among the core's accesses (R330, R338). -/
def execIrqAck (die core : Nat) (s : State) : Host.Outcome State Fault Refusal := .next (issue die core .irqAck s)

/-- IRQ_EOI: a write of register space by the core. -/
def execIrqEoi (die core vector : Nat) (s : State) : Host.Outcome State Fault Refusal := .next (issue die core (.irqEoi vector) s)

/-- DATA_RESPONSE: what waited for the line goes on, and what that held back. -/
def doDataResponse (d c line : Nat) (s : State) : State := runCore (deliver s d c line) d c

def execDataResponse (die core line : Nat) (s : State) : Host.Outcome State Fault Refusal := .next (doDataResponse die core line s)

/-- A device answers the oldest read of a core that waits for one. -/
def answerWait (s : State) (d c : Nat) : State :=
  match (getCore s d c).waiting with
  | [] => s
  | w :: r =>
    let s := modCore s d c fun x => { x with waiting := r }
    if isDevice s w.addr then mmioAnswer s d c w.size else lineLoad s d c w.addr w.size (w.mask, w.bytes)

/-! ### DEBUG (R522) -/

/-- A register that the Eyepiece reaches at every debug level. -/
def dbgOpen : Reg → Bool
  | .secDbgChallenge => true
  | .secDbgResponse => true
  | .secDbgKey => true
  | .secDbgCtl => true
  | _ => false

/-- The debug level that an unlock has reached. -/
def dbgLevel (s : State) : Nat := fget s 24 0 Fl.SEC_STATUS_DEBUG_LEVEL

/-- Whether the debug level permits an access. -/
def dbgAllowed (s : State) (r : Option (Reg × Nat)) (isWrite : Bool) : Bool :=
  let level := dbgLevel s
  (r.any fun x => dbgOpen x.1) || decide ((if isWrite then 2 else 1) ≤ level)

/-- DEBUG: an access to the system die's window at an offset; a refused access returns 0 and writes nothing. -/
def dbgReg (a : Nat) (isWrite : Bool) (v : BitVec 64) (s : State) : State :=
  let r := regAt 24 (a / 0x10_0000 % 64) (a % 0x10_0000)
  if a % 8 ≠ 0 ∨ 0x400_0000 ≤ a ∨ !dbgAllowed s r isWrite then tap s irDebug 0 false
  else match r with
    | none => tap s irDebug 0 false
    | some (r, i) =>
      if isWrite then tap (regWrite s 24 r i v) irDebug v false
      else
        let q := regRead s 24 r i
        tap q.2 irDebug q.1 false

/-- DEBUG: 8 bytes of memory, at level 2 (R508). -/
def dbgMem (a : Nat) (isWrite : Bool) (v : BitVec 64) (s : State) : State :=
  if a % 8 ≠ 0 ∨ dbgLevel s < 2 ∨ isDevice s a ∨ paKind s a = .hole then tap s irDebug 0 false
  else if isWrite then tap (ncWrite s a (leBytes 8 v.toNat)).2 irDebug v false
  else
    let q := ncRead s a 8
    tap q.2 irDebug (BitVec.ofNat 64 (leNat q.1)) false

/-- DEBUG: a running core halts, at level 2 (R508). -/
def dbgHalt (d c : Nat) (s : State) : State :=
  if dbgLevel s < 2 ∨ !coreRuns s d c then tap s irDebug 0 false
  else tap (fput (retireStores s d c) d c Fl.CORE_STATE_STATE 2) irDebug 1 false

/-- DEBUG. -/
def doDebug (target : DebugTarget) (isWrite : Bool) (v : BitVec 64) (s : State) : State :=
  if !eyepieceOn s then tap s irDebug 0 false
  else match target with
    | .reg a => dbgReg a isWrite v s
    | .mem a => dbgMem a isWrite v s
    | .core d c => dbgHalt d c s

/-- DEBUG of a register, of memory or of a core, which it halts whatever the other operands are. -/
def execDebug (target : DebugTarget) (isWrite : Bool) (value : BitVec 64) (s : State) : Host.Outcome State Fault Refusal :=
  .next (doDebug target isWrite value s)

end Sys2Proof.Machine
end

