-- ==== Sys2Proof/Machine/Timeouts.lean ====
section
/-! DEFINITION. Accesses of far memory and of other devices that have had no response in time (R245, R246). -/

namespace Sys2Proof.Machine


/-- Whether a physical address lies in a far-memory window. -/
def isFar (s : State) (pa : Nat) : Bool := match paKind s pa with
  | .far => true
  | _ => false

/-- Where a virtual address lies in far memory: a catalog entry or a cached translation says so. -/
def farPa (s : State) (c va : Nat) : Option Nat :=
  match tierPage s c va with
  | some (_, _, w) => if peTier w = 2 then some (peFrame w + va % Config.page2M) else none
  | none => match tlbFind (hubTlb s (ctxHub c)) c va with
    | some t => if isFar s (t.frame + (va - t.va)) then some (t.frame + (va - t.va)) else none
    | none => none

/-- The parts of virtual ranges that lie in far memory. -/
def farParts (s : State) (c : Nat) (l : List (Nat × Nat)) : List (Nat × Nat) :=
  l.flatMap fun x => (pageChunks x.1 x.2).filterMap fun p => (farPa s c p.1).map fun pa => (pa, p.2)

/-- A free choice of a line among ranges of physical addresses: its first byte and length, and which of the ranges it is in. -/
def pickLine (s : State) (l : List (Nat × Nat)) : Option (Nat × Nat × Nat) × State :=
  let i := drawBelow s l.length
  match l[i.1]? with
  | none => (none, s)
  | some x =>
    let ls := cutLines (x.2 + 1) x.1 (List.replicate x.2 0)
    let j := drawBelow i.2 ls.length
    ((ls[j.1]?).map fun y => (y.1, y.2.length, i.1), j.2)

/-- The parts of a job's sources and of its destination that lie in far memory. -/
def jobFar (s : State) (r : Requester) (c : Nat) (j : Job) : List (Nat × Nat) × List (Nat × Nat) :=
  let src := jobSrc s (peekReader r c []) j
  let vas := (src.1 ++ src.2).filterMap fun x => match x.1 with
    | .va a => some (a, x.2)
    | _ => none
  (farParts s c vas, (dstLines s r c j).filterMap fun x => match x.1 with
    | .pa a => if isFar s a then some (a, x.2) else none
    | _ => none)

/-- A far line of a job has had no response, a free choice of them: a source line, from which it writes nothing; or a line
that it writes, whose contents are then undefined unless the tier has answered with an error (R223, R245). Answers the lines
that it has not written. -/
def farJob (s : State) (r : Requester) (c : Nat) (j : Job) (error : Bool) : List (Loc × Nat) × State :=
  let f := jobFar s r c j
  match pickLine s (f.1 ++ f.2) with
  | (none, s) => cancelJob s r c j []
  | (some (a, n, i), s) =>
    if i < f.1.length then cancelJob s r c j [(.pa a, n)]
    else
      let q := cancelJob s r c j []
      (q.1, if error then q.2 else spoil q.2 (.pa a) n)

/-- The oldest move of a launch's streams that has far memory on one side. -/
def farMove (s : State) (l : Launch) : Option (Nat × Nat × Nat × Nat × Move) :=
  l.streams.zipIdx.findSome? fun p => match p.1.at_, p.1.window with
    | some (h, f, x), m :: _ =>
      let y := jobFar s (streamReq h f x l) l.ctx (moveJob l m)
      if !m.stalled ∧ p.1.hold ≠ .stopped ∧ !(y.1 ++ y.2).isEmpty then some (h, f, x, p.2, m) else none
    | _, _ => none

/-- The fill of a far line that an engine of a launch waits for: its die and the fill. -/
def farFill (s : State) (c q : Nat) : Option (Nat × Fill) :=
  s.rdc.findSome? fun x => (x.2.fills.find? fun f => isFar s f.line &&
    f.wants.any fun w => (slotOf s x.1 w.eng).any fun y => y.1.ctx == c && y.1.seq == q).map fun f => (x.1, f)

/-- The virtual ranges that a command's unit reads and writes: its list, its image, its records, and what its current entry
names. -/
def cmdRanges (s : State) (c q : Nat) (k : Cmd) : List (Nat × Nat) × List (Nat × Nat) :=
  let a := k.desc.argA.toNat
  let hist (l : Launch) : List (Nat × Nat) := l.amaxBinding.elim [] fun b => [((bindAt l b).va, 64 * l.scales.length)]
  match k.desc.opcode with
  | 1 => match findLaunch s c q with
    | none => ([(a, max 256 (if k.entry.isEmpty then 0 else imgBytes k.entry)), (k.desc.argB.toNat, 8 * k.desc.count)], [])
    | some l => (hist l, (if l.phase == .recording then hist l else []) ++
        l.reportBinding.elim [] fun b => [((bindAt l b).va, (reportBytes s l).length)])
  | 2 => ([(a + 64 * k.done, 64)], [])
  | 3 => ([(a + 16 * k.done, 16)], [])
  | 5 =>
    let e := a + 128 * k.done
    ([(e, 112), (imgNum k.entry 8 8, imgNum k.entry 16 8)],
      [(imgNum k.entry 24 8, imgNum k.entry 32 8), (imgNum k.entry 40 8, imgNum k.entry 48 8), (e + 112, 16)])
  | 6 => ([], [(k.desc.argB.toNat, 8)])
  | _ => ([(a, 72)], [(k.frames, k.entry.length)])

/-- A far line among ranges that a requester reads and writes has had no response: it ends, and a line that it was writing is
undefined. -/
def farAccess (s : State) (r : Requester) (c : Nat) (x : List (Nat × Nat) × List (Nat × Nat)) (error : Bool) : State :=
  let rd := farParts s c x.1
  match pickLine s (rd ++ farParts s c x.2) with
  | (none, s) => s
  | (some (a, n, i), s) =>
    failReq (if i < rd.length ∨ error then s else spoil s (.pa a) n) r (if error then 0x0311 else 0x0310) 0

/-- A far-memory access of a command outside a launch's run: a page copy fails, a MOVE entry breaks off, and another command
ends at its next step. -/
def farCommand (s : State) (c q : Nat) (k : Cmd) (error : Bool) : State :=
  let st := if error then 0x0311 else 0x0310
  let other (s : State) : State := farAccess s (.cmd c q) c (cmdRanges s c q k) error
  match k.page with
  | .copying va dst => match tierPage s c va with
    | some (_, _, w) => if peTier w = 2 ∨ peTier dst = 2 then failPage s c q k va dst st else s
    | none => s
  | .ready _ _ _ => s
  | .switched _ => s
  | .check =>
    match k.desc.opcode, readVa s (.cmd c q) c (k.desc.argA.toNat + 64 * k.done) 64 with
    | 2, (.ok b, _) =>
      let j := entryJob b
      let f := jobFar s (.cmd c q) c j
      if (f.1 ++ f.2).isEmpty ∨ k.accepted then other s
      else failReq (modCmd (farJob s (.cmd c q) c j error).2 c q fun x => { x with accepted := true }) (.cmd c q) st 0
    | _, _ => other s

/-- The queue pairs of a context that work on a request. -/
def busyQps (s : State) (c : Nat) : List (Nat × Nat × Qp) :=
  (s.net.qps.filter fun x => x.2.context == c && qpBusy x.2).map fun x => (22 + x.1 / 16384, x.1 % 16384, x.2)

/-- The ranges that a queue pair's current request reads and writes. -/
def qpRanges (s : State) (pd n : Nat) (q : Qp) : List (Nat × Nat) × List (Nat × Nat) :=
  let a := q.sqVa + q.head % 2 ^ q.sqLog2 * 64
  match readVa s (.qp pd n) q.context a 64 with
  | (.ok w, _) =>
    let x := (recField w 8 8, recField w 4 4)
    if recField w 0 1 = 5 then ([(a, 64)], [x]) else ([(a, 64), x], [])
  | _ => ([(a, 64)], [])

/-- A far-memory access of a queue pair of a context: its current request ends (R246). -/
def farQp (s : State) (c : Nat) (error : Bool) : State :=
  let far (x : Nat × Nat × Qp) : Bool :=
    let y := qpRanges s x.1 x.2.1 x.2.2
    !(farParts s c (y.1 ++ y.2)).isEmpty
  match (busyQps s c).find? far with
  | some x => farAccess s (.qp x.1 x.2.1) c (qpRanges s x.1 x.2.1 x.2.2) error
  | none => s

/-- A far-memory access has had no response, or an error for one (R245): the oldest far move of a launch, a fill of one of its
RC_LOADs, a command, or a queue pair of a context that has no such command. -/
def farTimeout (s : State) (c q : Nat) (error : Bool) : State :=
  let st := if error then 0x0311 else 0x0310
  match (findLaunch s c q).bind fun l => if l.phase = .running then (farMove s l).map fun m => (l, m) else none with
  | some (l, h, f, x, i, m) =>
    let y := farJob s (streamReq h f x l) l.ctx (moveJob l m) error
    moveFail y.2 h f x l i st 0 y.1
  | none => match farFill s c q, getCmd s c q with
    | some (md, f), _ => failFill s md f st
    | none, some k => farCommand s c q k error
    | none, none => farQp s c error

/-- Whether a remote request belongs to a command or launch, or where the context has no such command to a queue pair of
it. -/
def reqOf (s : State) (c q : Nat) : Requester → Bool
  | .agent _ x y => x == c && y == q
  | .cmd x y => x == c && y == q
  | .pin x y => x == c && y == q
  | .qp pd n => (getCmd s c q).isNone && (getQp s pd n).any fun x => x.context == c

/-- A request of this device to another has had no response, or an error for one: its requester ends. -/
def remoteTimeout (s : State) (c q : Nat) (error : Bool) : State :=
  let st := if error then 0x0311 else 0x0310
  match s.net.remotes.find? fun r => !r.done && reqOf s c q r.req && (r.kind == kReadReq || r.kind == kWrite) with
  | none => s
  | some r =>
    let s : State := { s with net := { s.net with remotes := s.net.remotes.erase r } }
    match getCmd s c q, r.req with
    | some k, .cmd _ _ => match k.page with
      | .copying va dst => failPage s c q k va dst st
      | _ => failReq s r.req st 0
    | _, _ => failAccess s r st

def doTierTimeout (c q : Nat) (remote error : Bool) (s : State) : State :=
  if remote then remoteTimeout s c q error else farTimeout s c q error

/-- TIER_TIMEOUT: an access of a tier has had no response in time, or an error completion instead. -/
def execTierTimeout (ctx seq : Nat) (loss : TierLoss) (s : State) : Host.Outcome State Fault Refusal :=
  .next (settleStalls (doTierTimeout ctx seq loss.remote loss.error s))

end Sys2Proof.Machine
end

