-- ==== Sys2Proof/Machine/Dispatch.lean ====
section
/-! DEFINITION. One arm per command: each calls its meaning. -/

namespace Sys2Proof.Machine

/-- The effect of a command on the state; the queue of waiting commands is left alone. -/
def exec (i : Instr) (s : State) : Host.Outcome State Fault Refusal :=
  match i with
  | .load die core addr size => Sys2Proof.Machine.execLoad die core addr size s
  | .store die core addr size value => Sys2Proof.Machine.execStore die core addr size value s
  | .stnt die core addr size value => Sys2Proof.Machine.execStnt die core addr size value s
  | .ordL die core => Sys2Proof.Machine.execOrdL die core s
  | .ordS die core => Sys2Proof.Machine.execOrdS die core s
  | .ordLs die core => Sys2Proof.Machine.execOrdLs die core s
  | .exceptionEntry die core => Sys2Proof.Machine.execExceptionEntry die core s
  | .storeErrorTimeout die core => Sys2Proof.Machine.execStoreErrorTimeout die core s
  | .farTimeout die core => Sys2Proof.Machine.execFarTimeout die core s
  | .droopDetect die core => Sys2Proof.Machine.execDroopDetect die core s
  | .registerWrite die core addr size value => Sys2Proof.Machine.execRegisterWrite die core addr size value s
  | .end_ a m => Sys2Proof.Machine.execEnd a m s
  | .nop a => Sys2Proof.Machine.execNop a s
  | .loop a => Sys2Proof.Machine.execLoop a s
  | .cursor a => Sys2Proof.Machine.execCursor a s
  | .wload die eng e => Sys2Proof.Machine.execWload die eng e s
  | .matmul die eng e => Sys2Proof.Machine.execMatmul die eng e s
  | .ribbon die eng e => Sys2Proof.Machine.execRibbon die eng e s
  | .drain die eng e => Sys2Proof.Machine.execDrain die eng e s
  | .vector die eng e => Sys2Proof.Machine.execVector die eng e s
  | .reduce die eng e => Sys2Proof.Machine.execReduce die eng e s
  | .reduceRead die eng => Sys2Proof.Machine.execReduceRead die eng s
  | .signal a => Sys2Proof.Machine.execSignal a s
  | .wait a => Sys2Proof.Machine.execWait a s
  | .waitHeldAdmit die => Sys2Proof.Machine.execWaitHeldAdmit die s
  | .waitTimeout die a => Sys2Proof.Machine.execWaitTimeout die a s
  | .phaseAnnounce die eng => Sys2Proof.Machine.execPhaseAnnounce die eng s
  | .phaseAnnounceLapse die eng => Sys2Proof.Machine.execPhaseAnnounceLapse die eng s
  | .phaseBegin die eng m => Sys2Proof.Machine.execPhaseBegin die eng m s
  | .rewindMark die eng => Sys2Proof.Machine.execRewindMark die eng s
  | .geometry die eng => Sys2Proof.Machine.execGeometry die eng s
  | .rcLoad die eng e => Sys2Proof.Machine.execRcLoad die eng e s
  | .rcInvalidate die eng => Sys2Proof.Machine.execRcInvalidate die eng s
  | .rcFill die line => Sys2Proof.Machine.execRcFill die line s
  | .rdcInvalidate die => Sys2Proof.Machine.execRdcInvalidate die s
  | .readCacheInvalidationDone die => Sys2Proof.Machine.execReadCacheInvalidationDone die s
  | .commit die eng => Sys2Proof.Machine.execCommit die eng s
  | .commitComplete die eng => Sys2Proof.Machine.execCommitComplete die eng s
  | .rewind die eng => Sys2Proof.Machine.execRewind die eng s
  | .rewindRestart die eng => Sys2Proof.Machine.execRewindRestart die eng s
  | .rewindReport ctx seq => Sys2Proof.Machine.execRewindReport ctx seq s
  | .engSelftest die eng => Sys2Proof.Machine.execEngSelftest die eng s
  | .selftestDone die eng failed => Sys2Proof.Machine.execSelftestDone die eng failed s
  | .engPhoTest die eng => Sys2Proof.Machine.execEngPhoTest die eng s
  | .launch ctx seq => Sys2Proof.Machine.execLaunch ctx seq s
  | .placementRetry part => Sys2Proof.Machine.execPlacementRetry part s
  | .tokenAllocRetry ctx seq => Sys2Proof.Machine.execTokenAllocRetry ctx seq s
  | .reservationTimeout ctx seq => Sys2Proof.Machine.execReservationTimeout ctx seq s
  | .launchStart ctx seq => Sys2Proof.Machine.execLaunchStart ctx seq s
  | .launchError ctx seq => Sys2Proof.Machine.execLaunchError ctx seq s
  | .launchEnd ctx seq => Sys2Proof.Machine.execLaunchEnd ctx seq s
  | .move hub finder sc => Sys2Proof.Machine.execMove hub finder sc s
  | .moveDone hub finder sc e => Sys2Proof.Machine.execMoveDone hub finder sc e s
  | .markArrival hub finder sc => Sys2Proof.Machine.execMarkArrival hub finder sc s
  | .cancellation hub finder sc => Sys2Proof.Machine.execCancellation hub finder sc s
  | .tierRegionDeclare hub readOnly pages region ctx => Sys2Proof.Machine.execTierRegionDeclare hub readOnly pages region ctx s
  | .tierRegionRelease hub region ctx => Sys2Proof.Machine.execTierRegionRelease hub region ctx s
  | .movePages ctx seq => Sys2Proof.Machine.execMovePages ctx seq s
  | .movePagesCopy ctx seq => Sys2Proof.Machine.execMovePagesCopy ctx seq s
  | .movePagesSwitch ctx seq => Sys2Proof.Machine.execMovePagesSwitch ctx seq s
  | .movePagesReturn ctx seq => Sys2Proof.Machine.execMovePagesReturn ctx seq s
  | .lendRetry hub finder sc => Sys2Proof.Machine.execLendRetry hub finder sc s
  | .tierTimeout ctx seq loss => Sys2Proof.Machine.execTierTimeout ctx seq loss s
  | .accessDecay hub => Sys2Proof.Machine.execAccessDecay hub s
  | .contextEnable ctx attr => Sys2Proof.Machine.execContextEnable ctx attr s
  | .contextDisable ctx attr => Sys2Proof.Machine.execContextDisable ctx attr s
  | .unpark ctx => Sys2Proof.Machine.execUnpark ctx s
  | .cmdTail ctx value => Sys2Proof.Machine.execCmdTail ctx value s
  | .cplHead ctx value => Sys2Proof.Machine.execCplHead ctx value s
  | .evtHead ctx value => Sys2Proof.Machine.execEvtHead ctx value s
  | .descriptorFetch hub => Sys2Proof.Machine.execDescriptorFetch hub s
  | .staleRefetch ctx => Sys2Proof.Machine.execStaleRefetch ctx s
  | .commandDispatch ctx => Sys2Proof.Machine.execCommandDispatch ctx s
  | .moveCmd ctx seq => Sys2Proof.Machine.execMoveCmd ctx seq s
  | .moveEntry ctx seq e => Sys2Proof.Machine.execMoveEntry ctx seq e s
  | .setQuotas ctx seq => Sys2Proof.Machine.execSetQuotas ctx seq s
  | .media ctx step => Sys2Proof.Machine.execMedia ctx step s
  | .sync ctx seq => Sys2Proof.Machine.execSync ctx seq s
  | .syncComplete ctx seq => Sys2Proof.Machine.execSyncComplete ctx seq s
  | .attest ctx seq => Sys2Proof.Machine.execAttest ctx seq s
  | .attestSigned ctx seq => Sys2Proof.Machine.execAttestSigned ctx seq s
  | .partitionFullReset part unit => Sys2Proof.Machine.execPartitionFullReset part unit s
  | .partitionResetComplete part f => Sys2Proof.Machine.execPartitionResetComplete part f s
  | .walkComplete die ctx page held => Sys2Proof.Machine.execWalkComplete die ctx page held s
  | .faultOpenRetry ctx page => Sys2Proof.Machine.execFaultOpenRetry ctx page s
  | .faultResume record => Sys2Proof.Machine.execFaultResume record s
  | .faultDeny record => Sys2Proof.Machine.execFaultDeny record s
  | .trcInvalidatePage hub ctx va tables => Sys2Proof.Machine.execTrcInvalidatePage hub ctx va tables s
  | .trcInvalidateRange hub ctx va count tables => Sys2Proof.Machine.execTrcInvalidateRange hub ctx va count tables s
  | .trcInvalidateContext hub ctx tables => Sys2Proof.Machine.execTrcInvalidateContext hub ctx tables s
  | .trcInvalidateAll hub tables => Sys2Proof.Machine.execTrcInvalidateAll hub tables s
  | .trcInvalidationDone hub => Sys2Proof.Machine.execTrcInvalidationDone hub s
  | .coreOffline die core => Sys2Proof.Machine.execCoreOffline die core s
  | .coreOnline die core => Sys2Proof.Machine.execCoreOnline die core s
  | .coreRecalibrate die core => Sys2Proof.Machine.execCoreRecalibrate die core s
  | .coreCmdComplete die passFreq => Sys2Proof.Machine.execCoreCmdComplete die passFreq s
  | .irqMessage vector => Sys2Proof.Machine.execIrqMessage vector s
  | .irqAck die core => Sys2Proof.Machine.execIrqAck die core s
  | .irqEoi die core vector => Sys2Proof.Machine.execIrqEoi die core vector s
  | .irqIpi die vector => Sys2Proof.Machine.execIrqIpi die vector s
  | .rdShared home line holder unit e => Sys2Proof.Machine.execRdShared home line holder unit e s
  | .rdOwn home line holder unit e => Sys2Proof.Machine.execRdOwn home line holder unit e s
  | .upgrade home line holder unit => Sys2Proof.Machine.execUpgrade home line holder unit s
  | .rdNc home line unit e => Sys2Proof.Machine.execRdNc home line unit e s
  | .wrFull home line unit data => Sys2Proof.Machine.execWrFull home line unit data s
  | .wrPart home line unit mask data => Sys2Proof.Machine.execWrPart home line unit mask data s
  | .wrStash home line unit target data => Sys2Proof.Machine.execWrStash home line unit target data s
  | .rmwHome home line unit clear set => Sys2Proof.Machine.execRmwHome home line unit clear set s
  | .wb home line holder => Sys2Proof.Machine.execWb home line holder s
  | .directoryRetry home => Sys2Proof.Machine.execDirectoryRetry home s
  | .probe holder line => Sys2Proof.Machine.execProbe holder line s
  | .notPresent home line holder => Sys2Proof.Machine.execNotPresent home line holder s
  | .homeTimeout home line => Sys2Proof.Machine.execHomeTimeout home line s
  | .coherenceFatal unit => Sys2Proof.Machine.execCoherenceFatal unit s
  | .hbmStackFailed stack => Sys2Proof.Machine.execHbmStackFailed stack s
  | .hbmPcFailed pc => Sys2Proof.Machine.execHbmPcFailed pc s
  | .ddrChannelFailed die ch => Sys2Proof.Machine.execDdrChannelFailed die ch s
  | .refresh unit => Sys2Proof.Machine.execRefresh unit s
  | .recalibration unit forced => Sys2Proof.Machine.execRecalibration unit forced s
  | .patrolScrub line e passEnd => Sys2Proof.Machine.execPatrolScrub line e passEnd s
  | .flitReceive die port flit => Sys2Proof.Machine.execFlitReceive die port flit s
  | .retrain die port tests => Sys2Proof.Machine.execRetrain die port tests s
  | .trainingFrame die port f => Sys2Proof.Machine.execTrainingFrame die port f s
  | .linkDown die port cause => Sys2Proof.Machine.execLinkDown die port cause s
  | .laneRecal die port quiet => Sys2Proof.Machine.execLaneRecal die port quiet s
  | .lnkPortCtlRetrain die port => Sys2Proof.Machine.execLnkPortCtlRetrain die port s
  | .nsThermalSample die deciC => Sys2Proof.Machine.execNsThermalSample die deciC s
  | .dipStart mv => Sys2Proof.Machine.execDipStart mv s
  | .dipEnd lowestMv durationUs => Sys2Proof.Machine.execDipEnd lowestMv durationUs s
  | .brownout => Sys2Proof.Machine.execBrownout s
  | .heliostatEvaluation p => Sys2Proof.Machine.execHeliostatEvaluation p s
  | .fastLoop p => Sys2Proof.Machine.execFastLoop p s
  | .powerCeilingUnmet => Sys2Proof.Machine.execPowerCeilingUnmet s
  | .thermalSample die deciC => Sys2Proof.Machine.execThermalSample die deciC s
  | .thermalGateStep die deciC => Sys2Proof.Machine.execThermalGateStep die deciC s
  | .thermalTrip die => Sys2Proof.Machine.execThermalTrip die s
  | .capReqAssert => Sys2Proof.Machine.execCapReqAssert s
  | .capReqRelease => Sys2Proof.Machine.execCapReqRelease s
  | .pairIdleOff die pair => Sys2Proof.Machine.execPairIdleOff die pair s
  | .pwrDomainOffReq unit off => Sys2Proof.Machine.execPwrDomainOffReq unit off s
  | .pwrLearnFlush => Sys2Proof.Machine.execPwrLearnFlush s
  | .slackReport slackNs watts => Sys2Proof.Machine.execSlackReport slackNs watts s
  | .grantDistribution => Sys2Proof.Machine.execGrantDistribution s
  | .jobCoordinatorLost => Sys2Proof.Machine.execJobCoordinatorLost s
  | .netQpEnable pd qp record => Sys2Proof.Machine.execNetQpEnable pd qp record s
  | .netQpDisable pd qp => Sys2Proof.Machine.execNetQpDisable pd qp s
  | .netQpDoorbell pd qp tail => Sys2Proof.Machine.execNetQpDoorbell pd qp tail s
  | .send pd qp => Sys2Proof.Machine.execSend pd qp s
  | .sendImm pd qp => Sys2Proof.Machine.execSendImm pd qp s
  | .rdmaWrite pd qp => Sys2Proof.Machine.execRdmaWrite pd qp s
  | .rdmaWriteImm pd qp => Sys2Proof.Machine.execRdmaWriteImm pd qp s
  | .rdmaRead pd qp data => Sys2Proof.Machine.execRdmaRead pd qp data s
  | .inboundSend pd qp data imm => Sys2Proof.Machine.execInboundSend pd qp data imm s
  | .inboundRdma pd qp rkey va len kind data => Sys2Proof.Machine.execInboundRdma pd qp rkey va len kind data s
  | .inboundAtomic pd qp => Sys2Proof.Machine.execInboundAtomic pd qp s
  | .remoteNak pd qp => Sys2Proof.Machine.execRemoteNak pd qp s
  | .retryExceeded pd qp => Sys2Proof.Machine.execRetryExceeded pd qp s
  | .cnp pd qp => Sys2Proof.Machine.execCnp pd qp s
  | .readReq port f => Sys2Proof.Machine.execReadReq port f s
  | .readResp port f => Sys2Proof.Machine.execReadResp port f s
  | .fabricWrite port f => Sys2Proof.Machine.execFabricWrite port f s
  | .writeAck port f => Sys2Proof.Machine.execWriteAck port f s
  | .errorResp port f => Sys2Proof.Machine.execErrorResp port f s
  | .fabricSignal port f => Sys2Proof.Machine.execFabricSignal port f s
  | .fabricWait port f => Sys2Proof.Machine.execFabricWait port f s
  | .release port f => Sys2Proof.Machine.execRelease port f s
  | .slack port f => Sys2Proof.Machine.execSlack port f s
  | .grant port f => Sys2Proof.Machine.execGrant port f s
  | .probeResp port f => Sys2Proof.Machine.execProbeResp port f s
  | .probeFrame port f => Sys2Proof.Machine.execProbeFrame port f s
  | .routeProbe => Sys2Proof.Machine.execRouteProbe s
  | .ack port seq => Sys2Proof.Machine.execAck port seq s
  | .frameForward port kind f => Sys2Proof.Machine.execFrameForward port kind f s
  | .hopRetransmit port => Sys2Proof.Machine.execHopRetransmit port s
  | .netFctrVal pd counter value => Sys2Proof.Machine.execNetFctrVal pd counter value s
  | .pcieInboundRequest port addr len kind data => Sys2Proof.Machine.execPcieInboundRequest port addr len kind data s
  | .msiWrite port data => Sys2Proof.Machine.execMsiWrite port data s
  | .pciCompletionTimeout die core => Sys2Proof.Machine.execPciCompletionTimeout die core s
  | .pciLinkDown port => Sys2Proof.Machine.execPciLinkDown port s
  | .pciRpCxlEnable pd rp value => Sys2Proof.Machine.execPciRpCxlEnable pd rp value s
  | .pipelineAssign encode => Sys2Proof.Machine.execPipelineAssign encode s
  | .decodeEntry pd pipe e => Sys2Proof.Machine.execDecodeEntry pd pipe e s
  | .encodeEntry pd pipe e => Sys2Proof.Machine.execEncodeEntry pd pipe e s
  | .medPipeEnable pd pipe on => Sys2Proof.Machine.execMedPipeEnable pd pipe on s
  | .pwrGoodRise => Sys2Proof.Machine.execPwrGoodRise s
  | .pwrGoodFall => Sys2Proof.Machine.execPwrGoodFall s
  | .sysRstNAssert => Sys2Proof.Machine.execSysRstNAssert s
  | .domeWatchdog => Sys2Proof.Machine.execDomeWatchdog s
  | .rstCtlCore key => Sys2Proof.Machine.execRstCtlCore key s
  | .rstCtlSystem key => Sys2Proof.Machine.execRstCtlSystem key s
  | .rstCtlPartition key part => Sys2Proof.Machine.execRstCtlPartition key part s
  | .coreResetDrainTimeout die => Sys2Proof.Machine.execCoreResetDrainTimeout die s
  | .startUp b => Sys2Proof.Machine.execStartUp b s
  | .persistWrite n value => Sys2Proof.Machine.execPersistWrite n value s
  | .persistCommit n => Sys2Proof.Machine.execPersistCommit n s
  | .secKeyProgram slot => Sys2Proof.Machine.execSecKeyProgram slot s
  | .secKeyRevoke slot => Sys2Proof.Machine.execSecKeyRevoke slot s
  | .secMrExtend index => Sys2Proof.Machine.execSecMrExtend index s
  | .secRollback index value => Sys2Proof.Machine.execSecRollback index value s
  | .secUpdate controller commit => Sys2Proof.Machine.execSecUpdate controller commit s
  | .secDbgNew => Sys2Proof.Machine.execSecDbgNew s
  | .secDbgSubmit level => Sys2Proof.Machine.execSecDbgSubmit level s
  | .retireEngine unit => Sys2Proof.Machine.execRetireEngine unit s
  | .engineRetireSwap die eng => Sys2Proof.Machine.execEngineRetireSwap die eng s
  | .setPartitionMode mode f => Sys2Proof.Machine.execSetPartitionMode mode f s
  | .retrainDdr d => Sys2Proof.Machine.execRetrainDdr d s
  | .eventRecord => Sys2Proof.Machine.execEventRecord s
  | .evtLogEnable base => Sys2Proof.Machine.execEvtLogEnable base s
  | .bypass => Sys2Proof.Machine.execBypass s
  | .idcode => Sys2Proof.Machine.execIdcode s
  | .samplePreload cells => Sys2Proof.Machine.execSamplePreload cells s
  | .extest => Sys2Proof.Machine.execExtest s
  | .clamp => Sys2Proof.Machine.execClamp s
  | .highz => Sys2Proof.Machine.execHighz s
  | .debug target isWrite value => Sys2Proof.Machine.execDebug target isWrite value s
  | .resetConfigurationUe unit => Sys2Proof.Machine.execResetConfigurationUe unit s
  | .rideThroughReduced mv => Sys2Proof.Machine.execRideThroughReduced mv s
  | .pciLinkUp port width gts cxl => Sys2Proof.Machine.execPciLinkUp port width gts cxl s
  | .netPortLinkUp port peer => Sys2Proof.Machine.execNetPortLinkUp port peer s
  | .netPortLinkDown port => Sys2Proof.Machine.execNetPortLinkDown port s
  | .probeResponse home line holder => Sys2Proof.Machine.execProbeResponse home line holder s
  | .dataResponse die core line => Sys2Proof.Machine.execDataResponse die core line s
  | .coreHalt die core => Sys2Proof.Machine.execCoreHalt die core s
  | .roceRetransmit pd qp => Sys2Proof.Machine.execRoceRetransmit pd qp s

end Sys2Proof.Machine
end

