-- ==== Sys2Proof/Machine/Route.lean ====
section
/-! DEFINITION. The routes between dies, and the messages that cross the links (R391, R400 to R402). -/

namespace Sys2Proof.Machine

/-! ### Routes (R401, R402) -/

/-- The port of a die whose link ends on another die. -/
def portTo (d e : Nat) : Option Nat := (List.range (linkPorts d)).find? fun p => (lnkPeer d p).1 == e

/-- A direct link that is not down: a link that retrains holds its flits and keeps its routes (R392). -/
def direct (s : State) (d e : Nat) : Bool :=
  (portTo d e).any fun p => lnkState s d p != lDown && lnkState s d p != lHeld

/-- The hub of a matrix die. -/
def ownHub (d : Nat) : Nat := 18 + d / 2

/-- A hub carries no traffic during its partition's full reset (R402). -/
def hubAway (s : State) (h : Nat) : Bool := s.rst.parts.any fun p => (partHubs s p).contains h

/-- The die through which HD0 and HD1 reach each other: MHk by bits [9:8] of the line address, MH0 for registers and management,
the lowest-numbered hub that is not in a reset where that one is, the system die where every hub is. -/
def hostVia (s : State) (line : Nat) (management : Bool) : Nat :=
  let h := if management then 18 else 18 + bits line 9 8
  if hubAway s h then (([18, 19, 20, 21].find? fun x => !hubAway s x).getD 24) else h

/-- A die that touches both ends, where no rule names one: of a port die or the system die whose link is down (R400), or
between the two port dies (log 165). -/
def anyVia (s : State) (d e : Nat) : List Nat :=
  let l := (List.range 25).filter fun v => direct s d v && direct s v e && !hubAway s v
  match l[Config.openRoute d e % l.length]? with
  | some v => [v, e]
  | none => []

/-- From a hub to a die or back: the link between them, or another way where it is down (R400). -/
def hubWay (s : State) (d e : Nat) : List Nat := if direct s d e then [e] else anyVia s d e

/-- The dies that traffic from `d` passes on its way to `e`, that die last; neither is a near-store die. -/
def coreRoute (s : State) (d e line : Nat) (management : Bool) : List Nat :=
  if d = e then []
  else if direct s d e then [e]
  else if d < 8 ∧ e < 8 then [ownHub e, e]
  else if d < 8 then ownHub d :: hubWay s (ownHub d) e
  else if e < 8 then hubWay s d (ownHub e) ++ [e]
  else if dieType d = 2 ∧ dieType e = 2 then [hostVia s line management, e]
  else anyVia s d e

/-- The dies that traffic from `d` passes on its way to `e`, that die last: a near-store die is reached through its matrix
die. -/
def dieRoute (s : State) (d e line : Nat) (management : Bool) : List Nat :=
  let near (x : Nat) : Bool := dieType x == 1
  if d = e then []
  else
    (if near d then [d - 8] else []) ++
      coreRoute s (if near d then d - 8 else d) (if near e then e - 8 else e) line management ++ (if near e then [e] else [])

/-- The links of a route, as die and port of the sender. -/
def routeLinks : Nat → List Nat → List (Nat × Nat)
  | _, [] => []
  | d, e :: r => (match portTo d e with
    | some p => [(d, p)]
    | none => []) ++ routeLinks e r

/-! ### Messages (R391) -/

/-- A message may leave: no earlier one of its agent, destination and transaction ID waits, no die of its route is away, and
every link of its route is up and takes a flit of its channel; the bond carries no flits. -/
def mayLeave (s : State) (before : List Parcel) (x : Parcel) : Bool :=
  let r := dieRoute s x.src x.dest x.line x.management
  !before.any (fun y => y.agent == x.agent && y.dest == x.dest && y.txn == x.txn) &&
    !(x.src :: r).any (windowDead s) && (x.src :: r).getLast? == some x.dest &&
    (routeLinks x.src r).all fun l => isBond l.1 l.2 || mayOffer s l.1 l.2 x.chan

/-- A message crosses: a flit on each link of its route. -/
def sendAlong (s : State) (x : Parcel) : State :=
  (routeLinks x.src (dieRoute s x.src x.dest x.line x.management)).foldl (fun s l =>
    if isBond l.1 l.2 then s else sendFlit s l.1 l.2 x) s

/-- An agent has a message for another die, as a free choice: a write takes its agent's one transaction ID for the home, and
any other message a free one (log 165). -/
def newParcel (s : State) : State :=
  let a := draw s
  let b := draw a.2
  let v := a.1.toNat
  let src := v % 25
  let agent := unitId src (bits v 15 13) (bits v 12 5)
  let dest := bits v 31 16 % 25
  let chan := bits v 39 32 % 6
  let txn := if v.testBit 40 then Config.writeTxn agent dest else BitVec.ofNat 10 (bits v 50 41)
  if src = dest then b.2
  else { b.2 with parcels := b.2.parcels ++ [⟨src, agent, dest, txn, lineOf (b.1.toNat % 2 ^ 48), v.testBit 51, chan, freePayload b.2.fresh⟩] }

/-- The traffic of an idle step: nothing, a new message, or one that leaves, as a free choice. -/
def traffic (s : State) : State :=
  let n := drawBelow s (s.parcels.length + 2)
  if n.1 = 0 then n.2
  else if n.1 = 1 then newParcel n.2
  else match s.parcels[n.1 - 2]? with
    | some x =>
      if mayLeave s (s.parcels.take (n.1 - 2)) x then
        sendAlong { n.2 with parcels := s.parcels.eraseIdx (n.1 - 2) } x
      else n.2
    | none => n.2

end Sys2Proof.Machine
end

