-- ==== Sys2Proof/Machine/Idle.lean ====
section
/-! DEFINITION. What a step does when no command waits: device time passes, the stores and reads of one core may go on
(R326, R334) and one may fetch code (R318), messages cross the links and the ports (R236, R391, R435, R449), a line of memory may decay (R377), the ramp limiter
and the security unit go on (R410, R500, R505). -/

namespace Sys2Proof.Machine

/-- The keys of the cores that have something to go on with. -/
def busyCores (s : State) : List Nat :=
  (s.cores.filter fun c => !c.2.stores.isEmpty || !c.2.waiting.isEmpty || !c.2.queue.isEmpty).map (·.1)

/-- A core between commands: a free choice of one of its stores, which with the others to its line has retired and is
performed, or of the read that waits longest for a device, which is answered (log 1). -/
def idleCore (s : State) (d c : Nat) : State :=
  let n := drawBelow s ((getCore s d c).stores.length + 1)
  let t := match (getCore s d c).stores[n.1]? with
    | none => answerWait n.2 d c
    | some b => drainStores (retireStores n.2 d c) d c fun x => lineOf x.addr == lineOf b.addr
  runCore t d c

/-- The kind of memory decay: none, correctable or not, as a free choice, in a free line (log 161). -/
def decay (s : State) : State :=
  let n := drawBelow s 4
  let a := draw n.2
  let line := lineOf (a.1.toNat % 2 ^ 48)
  if n.1 = 1 then { a.2 with flaws := smPut a.2.flaws line false }
  else if n.1 = 2 then { a.2 with flaws := smPut a.2.flaws line true } else n.2

/-- A core fetches instructions: a free choice of a running core and of a line, which its L1I takes through its L2 (R318). Poison
there is a machine check (R334). -/
def fetchCode (s : State) : State :=
  let n := drawBelow s 256
  let d := 16 + n.1 / 128
  let c := n.1 % 128
  let a := draw n.2
  let line := lineOf (a.1.toNat % 2 ^ 48)
  if !coreRuns n.2 d c then n.2
  else if (normalRefusal a.2 true line).isSome then a.2
  else match acquire a.2 d c line false with
    | (.held, s) => fillL1 s d c line true
    | (.poison, s) => modCore (coreErr s d c (lineError s line) line) d c fun x => { x with taken := .machineCheck }
    | (.wait, s) => s

/-- Device time advances by 10 ns (R520), and a free choice of the cores that have something to go on with, or of none, does
so. -/
def idle (s : State) : State :=
  let s := fetchCode (secTick (rampTick (heldTick (portTick (traffic (decay { s with time := s.time + 10 }))))))
  if (busyCores s).isEmpty then s
  else
    let n := drawBelow s ((busyCores s).length + 1)
    match (busyCores s)[n.1]? with
    | none => n.2
    | some k => idleCore n.2 (k / 128) (k % 128)

end Sys2Proof.Machine
end

