-- ==== Sys2Proof/Machine/Lands.lean ====
section
/-! DEFINITION. Which output lands of the package the M9 drives (R527 to R529). No command waits on it: it is read off the state. -/

namespace Sys2Proof.Machine

/-- The groups of lands that the M9 drives and no rule but R527 gives a moment to. -/
inductive LandGroup where
  | ddr
  | ddrSideband
  | ethernet
  | pcie
  | perst
  | uart
  | i3c
  | smbus
  | xspi
  | gpio (n : Nat)
  deriving DecidableEq, Repr

/-- The step of the start-up from which the M9 drives a group (R527). -/
def driveStart : LandGroup → Nat
  | .ddr => 8
  | .ddrSideband => 8
  | .ethernet => 5
  | .pcie => 5
  | .perst => 5
  | .uart => 2
  | .i3c => 2
  | .smbus => 10
  | .xspi => 2
  | .gpio _ => 10

/-- The start-up has reached a step, since the last power-on or system reset source fired. A start that has failed holds the lands of
the system die's first steps only, since every other domain is off (R485, R528). -/
def stepReached (s : State) (n : Nat) : Bool :=
  s.pins.pwrGood && (decide (s.rst.kind.rank < 2) || decide (n ≤ if s.rst.stopped then 2 else fget s 24 0 Fl.BOOT_STATUS_STAGE))

/-- A land of a group is driven: from its step on, a GPIO only where the plate makes it an output (R528, R544); HIGHZ lets go of
every one (R522). -/
def landDriven (s : State) (g : LandGroup) : Bool :=
  stepReached s (driveStart g) && !s.pins.highZ && match g with
    | .gpio n => s.pins.gpioOut.getLsbD n
    | _ => true

/-- THERM_ALERT_N is driven from step 5 on (R431, R527). -/
def thermAlertLow (s : State) : Bool := s.pins.thermAlertDriven && stepReached s 5

end Sys2Proof.Machine
end

