-- ==== Sys2Proof/Safety.lean ====
section
/-! DEFINITION. What counts as a safe state and a safe step, and what it means for a step to leave things unchanged, in the
terms that claims use. -/

namespace Sys2Proof.Safety

open Sys2Proof.Machine

/-- The three memories are in canonical form. -/
def MemWf (s : State) : Prop := s.mem.wf = true ∧ s.near.wf = true ∧ s.ostore.wf = true

/-- A step that answers a next state. -/
def Goes (s : State) : Prop := ∃ t, step s = .next t

/-- A kind of address whose accesses are Normal, or that names nothing (R319, R324). -/
def normalKind : PaKind → Bool
  | .reg => false
  | .doorbell => false
  | .mmio _ => false
  | .ddr => true
  | .hbm _ => true
  | .far => true
  | .hole => true

/-- Every byte of memory, of near store and of the operand stores reads as before. -/
abbrev SameMem (s t : State) : Prop := t.mem = s.mem ∧ t.near = s.near ∧ t.ostore = s.ostore

/-- Every register reads as before, but for those at the given places of register space. -/
abbrev RegsBut (s t : State) (ks : List Nat) : Prop :=
  t.fuses = s.fuses ∧ (t.regs.filter fun p => !ks.contains p.1) = s.regs.filter fun p => !ks.contains p.1

/-- Every core is as before, but for one. -/
abbrev CoresBut (s t : State) (d c : Nat) : Prop :=
  (t.cores.filter fun p => p.1 != coreKey d c) = s.cores.filter fun p => p.1 != coreKey d c

/-- Every engine is as before, but for one. -/
abbrev EnginesBut (s t : State) (d e : Nat) : Prop :=
  (t.engines.filter fun p => p.1 != engKey d e) = s.engines.filter fun p => p.1 != engKey d e

/-- Near store and the operand stores read as before, but for `n` bytes of an engine's storage from `a` on: its bank below
64 MiB, its operand store above (R48). -/
abbrev StoreBut (s t : State) (d e a n : Nat) : Prop :=
  (∀ k, (Config.bankBytes ≤ a ∨ k < bankKey d (boundBank s d e) a ∨ bankKey d (boundBank s d e) a + n ≤ k) →
      memRead t.near k = memRead s.near k) ∧
    ∀ k, (a < Config.bankBytes ∨ k < osKey d e (a - Config.bankBytes) ∨ osKey d e (a - Config.bankBytes) + n ≤ k) →
      memRead t.ostore k = memRead s.ostore k

/-- Near store and the operand stores read as before, but for the given places of an engine's storage. -/
abbrev CellsBut (s t : State) (d e : Nat) (l : List Nat) : Prop :=
  (∀ k, (∀ a ∈ l, a < Config.bankBytes → k ≠ bankKey d (boundBank s d e) a) → memRead t.near k = memRead s.near k) ∧
    ∀ k, (∀ a ∈ l, Config.bankBytes ≤ a → k ≠ osKey d e (a - Config.bankBytes)) → memRead t.ostore k = memRead s.ostore k

/-- Every context is as before, but for one. -/
abbrev CtxsBut (s t : State) (c : Nat) : Prop := (t.ctxs.filter fun p => p.1 != c) = s.ctxs.filter fun p => p.1 != c

/-- Memories, cores, engines, contexts, launches, regions, links, queue pairs and waiting media entries are all empty. -/
abbrev Emptied (t : State) : Prop :=
  t.mem = [] ∧ t.near = [] ∧ t.ostore = [] ∧ t.cores = [] ∧ t.engines = [] ∧ t.ctxs = [] ∧ t.launches = [] ∧ t.regions = [] ∧
    t.links = [] ∧ t.net.qps = [] ∧ t.mediaQ = []

/-- Whether a place of register space holds a register whose domain `p` clears. -/
def clearedBy (p : Nat → Dom → Bool) (k : Nat) : Bool := match regOfKey k with
  | some (d, r, _) => p d r.info.dom
  | none => false

/-- No register that `p` clears differs from its value after reset, but for those at the given places; every other register
reads as before, but for those. -/
abbrev RegsCleared (s t : State) (p : Nat → Dom → Bool) (ks : List Nat) : Prop :=
  (∀ x ∈ t.regs, clearedBy p x.1 = true → x.1 ∈ ks) ∧
    (t.regs.filter fun x => !clearedBy p x.1 && !ks.contains x.1) = s.regs.filter fun x => !clearedBy p x.1 && !ks.contains x.1

end Sys2Proof.Safety
end

