-- ==== Sys2Proof/WellFormed.lean ====
section
/-! DEFINITION. Which commands are well formed: the unit named exists on a die of its kind, an access is aligned and of an
allowed size, a line address is a line's, an operand fits its field. `exec` is total on all commands. -/

namespace Sys2Proof

/-- Matrix dies 0 to 7 (R16). -/
def isMatrix (d : Nat) : Bool := decide (d < 8)
/-- Near-store dies 8 to 15. -/
def isNear (d : Nat) : Bool := decide (8 ≤ d) && decide (d < 16)
/-- Host dies 16 and 17. -/
def isHostDie (d : Nat) : Bool := decide (d = 16) || decide (d = 17)
/-- Hub dies 18 to 21. -/
def isHub (d : Nat) : Bool := decide (18 ≤ d) && decide (d < 22)
/-- Port dies 22 and 23. -/
def isPortDie (d : Nat) : Bool := decide (d = 22) || decide (d = 23)
/-- A physical core of a host die (R317). -/
def isCore (d c : Nat) : Bool := isHostDie d && decide (c < 100)
/-- A physical engine of a matrix die (R36). -/
def isEngine (d e : Nat) : Bool := isMatrix d && decide (e < 34)
/-- A stream context of a Finder (R203). -/
def isStream (h f c : Nat) : Bool := isHub h && decide (f < 16) && decide (c < 4)
/-- A link port of a die (R387). -/
def isLink (d p : Nat) : Bool := decide (d < 25) && decide (p < 16)
/-- A context number (R268). -/
def isCtx (c : Nat) : Bool := decide (c < 65536)
/-- A naturally aligned access of 1, 2, 4 or 8 bytes. -/
def isAccess (addr size : Nat) : Bool :=
  (decide (size = 1) || decide (size = 2) || decide (size = 4) || decide (size = 8)) && decide (addr % size = 0)
/-- The address of a line. -/
def isLine (a : Nat) : Bool := decide (a % 64 = 0) && decide (a < 2 ^ 48)
/-- A home: on a hub or a host die (R345). -/
def isHome (d : Nat) : Bool := isHub d || isHostDie d

/-- An agent that exists. -/
def Agent.wf : Agent → Bool
  | .engine d e => isEngine d e
  | .stream h f c => isStream h f c

/-- A bank error names a row and a word of a bank (R68). -/
def EngErr.wf : EngErr → Bool
  | .bankCe row word => decide (row < 16384) && decide (word < 512)
  | .bankUe row word => decide (row < 16384) && decide (word < 512)
  | .none => true
  | .osCe => true
  | .accCe => true
  | .osUe => true
  | .accUe => true

/-- The errors that a move's checks find (R68, R223). -/
def MoveErr.wf : MoveErr → Bool
  | .bankCe row word => decide (row < 16384) && decide (word < 512)
  | .bankUe row word => decide (row < 16384) && decide (word < 512)
  | .none => true
  | .bufCe => true
  | .bufUe => true

/-- The header fields of a frame fit their bytes (R443). -/
def Frame.wf (f : Frame) : Bool :=
  decide (f.src < 65536) && decide (f.dst < 65536) && decide (f.ttl < 256) && decide (f.seq < 2 ^ 32) &&
    decide (f.ack < 2 ^ 32) && decide (f.tag < 2 ^ 32)

/-- Findings name parts that exist. -/
def Findings.wf (f : Findings) : Bool :=
  (f.badColumns.all fun c => isEngine c.1 c.2.1) && (f.badRows.all fun r => isNear r.1 && decide (r.2.1 < 32) && r.2.2.all fun n => decide (n < 16384)) &&
    (f.badPcs.all fun p => decide (p < 512)) && (f.badStacks.all fun k => decide (k < 16)) &&
    (f.badLinks.all fun l => isLink l.1 l.2) && (f.dataLanes.all fun x => decide (x.1 < 512)) &&
    (f.caLanes.all fun x => decide (x.1 < 256)) && (f.bondPads.all fun x => decide (x.1 < 8) && x.2.all fun n => decide (n ≤ 32)) &&
    (f.lanes.all fun x => isLink x.1 x.2.1)

/-- A DDR population is absent, or one of the options of R382: MRDIMMs at one DIMM per channel and 8,800 MT/s (TYPE 2),
RDIMMs (TYPE 1) at one per channel and 6,400 MT/s or at two and 4,800 MT/s, with 32 to 128 GiB per DIMM. -/
def DdrFound.wf (d : DdrFound) : Bool :=
  (d.pop0 == 0 && d.pop1 == 0) ||
    (decide (32 * d.dpc ≤ d.channelGib) && decide (d.channelGib ≤ 128 * d.dpc) &&
      ((d.kind == 2 && d.dpc == 1 && d.mts == 8800) || (d.kind == 1 && d.dpc == 1 && d.mts == 6400) ||
        (d.kind == 1 && d.dpc == 2 && d.mts == 4800)))

/-- A start-up meets 16 samples of the strap (R473), one epoch of 1 or 2 for each die (R399, R482), four firmware digests
(R499), and parts that exist. -/
def BootInput.wf (b : BootInput) : Bool :=
  decide (b.strapMv.length = 16) && decide (b.epochs.length = 25) && (b.epochs.all fun e => e == 1 || e == 2) &&
    decide (b.firmware.length = 4) && b.findings.wf && b.ddr.wf && (b.badPersist.all fun n => decide (n < 256))

/-- Well-formed commands. -/
def Instr.wf : Instr → Bool
  | .load die core addr size => isCore die core && isAccess addr size
  | .store die core addr size _ => isCore die core && isAccess addr size
  | .stnt die core addr size _ => isCore die core && isAccess addr size
  | .ordL die core => isCore die core
  | .ordS die core => isCore die core
  | .ordLs die core => isCore die core
  | .exceptionEntry die core => isCore die core
  | .storeErrorTimeout die core => isCore die core
  | .farTimeout die core => isCore die core
  | .droopDetect die core => isCore die core
  | .registerWrite die core addr size _ => isCore die core && isAccess addr size && decide (addr < 2 ^ 48)
  | .end_ a _ => a.wf
  | .nop a => a.wf
  | .loop a => a.wf
  | .cursor a => a.wf
  | .wload die eng e => e.wf && isEngine die eng
  | .matmul die eng e => e.wf && isEngine die eng
  | .ribbon die eng e => e.wf && isEngine die eng
  | .drain die eng e => e.wf && isEngine die eng
  | .vector die eng e => e.wf && isEngine die eng
  | .reduce die eng e => e.wf && isEngine die eng
  | .reduceRead die eng => isEngine die eng
  | .signal a => a.wf
  | .wait a => a.wf
  | .waitHeldAdmit die => isMatrix die
  | .waitTimeout die a => a.wf && isMatrix die
  | .phaseAnnounce die eng => isEngine die eng
  | .phaseAnnounceLapse die eng => isEngine die eng
  | .phaseBegin die eng _ => isEngine die eng
  | .rewindMark die eng => isEngine die eng
  | .geometry die eng => isEngine die eng
  | .rcLoad die eng _ => isEngine die eng
  | .rcInvalidate die eng => isEngine die eng
  | .rcFill die line => isMatrix die && (isLine line || decide (2 ^ 60 ≤ line))
  | .rdcInvalidate die => isMatrix die
  | .readCacheInvalidationDone die => isMatrix die
  | .commit die eng => isEngine die eng
  | .commitComplete die eng => isEngine die eng
  | .rewind die eng => isEngine die eng
  | .rewindRestart die eng => isEngine die eng
  | .rewindReport ctx seq => isCtx ctx && decide (seq < 2 ^ 48)
  | .engSelftest die eng => isEngine die eng
  | .selftestDone die eng _ => isEngine die eng
  | .engPhoTest die eng => isEngine die eng
  | .launch ctx seq => isCtx ctx && decide (seq < 2 ^ 48)
  | .placementRetry part => decide (part < 4)
  | .tokenAllocRetry ctx seq => isCtx ctx && decide (seq < 2 ^ 48)
  | .reservationTimeout ctx seq => isCtx ctx && decide (seq < 2 ^ 48)
  | .launchStart ctx seq => isCtx ctx && decide (seq < 2 ^ 48)
  | .launchError ctx seq => isCtx ctx && decide (seq < 2 ^ 48)
  | .launchEnd ctx seq => isCtx ctx && decide (seq < 2 ^ 48)
  | .move hub finder sc => isStream hub finder sc
  | .moveDone hub finder sc e => isStream hub finder sc && e.wf
  | .markArrival hub finder sc => isStream hub finder sc
  | .cancellation hub finder sc => isStream hub finder sc
  | .tierRegionDeclare hub _ _ _ ctx => isHub hub && isCtx ctx
  | .tierRegionRelease hub _ ctx => isHub hub && isCtx ctx
  | .movePages ctx seq => isCtx ctx && decide (seq < 2 ^ 48)
  | .movePagesCopy ctx seq => isCtx ctx && decide (seq < 2 ^ 48)
  | .movePagesSwitch ctx seq => isCtx ctx && decide (seq < 2 ^ 48)
  | .movePagesReturn ctx seq => isCtx ctx && decide (seq < 2 ^ 48)
  | .lendRetry hub finder sc => isStream hub finder sc
  | .tierTimeout ctx seq _ => isCtx ctx && decide (seq < 2 ^ 48)
  | .accessDecay hub => isHub hub
  | .contextEnable ctx _ => isCtx ctx
  | .contextDisable ctx _ => isCtx ctx
  | .unpark ctx => isCtx ctx
  | .cmdTail ctx _ => isCtx ctx
  | .cplHead ctx _ => isCtx ctx
  | .evtHead ctx _ => isCtx ctx
  | .descriptorFetch hub => isHub hub
  | .staleRefetch ctx => isCtx ctx
  | .commandDispatch ctx => isCtx ctx
  | .moveCmd ctx seq => isCtx ctx && decide (seq < 2 ^ 48)
  | .moveEntry ctx seq _ => isCtx ctx && decide (seq < 2 ^ 48)
  | .setQuotas ctx seq => isCtx ctx && decide (seq < 2 ^ 48)
  | .media ctx step => isCtx ctx && decide (step.seq < 2 ^ 48)
  | .sync ctx seq => isCtx ctx && decide (seq < 2 ^ 48)
  | .syncComplete ctx seq => isCtx ctx && decide (seq < 2 ^ 48)
  | .attest ctx seq => isCtx ctx && decide (seq < 2 ^ 48)
  | .attestSigned ctx seq => isCtx ctx && decide (seq < 2 ^ 48)
  | .partitionFullReset part unit => decide (part < 4) && decide (unit < 65536)
  | .partitionResetComplete part f => f.wf && decide (part < 4)
  | .walkComplete die ctx page _ => decide (die < 25) && isCtx ctx && decide (page < 2 ^ 57) && decide (page % 4096 = 0)
  | .faultOpenRetry ctx page => isCtx ctx && decide (page < 2 ^ 57) && decide (page % 4096 = 0)
  | .faultResume _ => true
  | .faultDeny _ => true
  | .trcInvalidatePage hub ctx _ _ => isHub hub && isCtx ctx
  | .trcInvalidateRange hub ctx _ _ _ => isHub hub && isCtx ctx
  | .trcInvalidateContext hub ctx _ => isHub hub && isCtx ctx
  | .trcInvalidateAll hub _ => isHub hub
  | .trcInvalidationDone hub => isHub hub
  | .coreOffline die core => isCore die core
  | .coreOnline die core => isCore die core
  | .coreRecalibrate die core => isCore die core
  | .coreCmdComplete die _ => isHostDie die
  | .irqMessage vec => decide (vec < 65536)
  | .irqAck die core => isCore die core
  | .irqEoi die core vec => isCore die core && decide (vec < 65536)
  | .irqIpi die vec => isHostDie die && decide (vec < 65536)
  | .rdShared home line holder unit _ => isLine line && isHome home && decide (holder < 6) && decide (unit < 65536)
  | .rdOwn home line holder unit _ => isLine line && isHome home && decide (holder < 6) && decide (unit < 65536)
  | .upgrade home line holder unit => isLine line && isHome home && decide (holder < 6) && decide (unit < 65536)
  | .rdNc home line unit _ => isLine line && isHome home && decide (unit < 65536)
  | .wrFull home line unit data => isLine line && isHome home && decide (unit < 65536) && decide (data.length = 64)
  | .wrPart home line unit _ data => isLine line && isHome home && decide (unit < 65536) && decide (data.length = 64)
  | .wrStash home line unit _ data => isLine line && isHome home && decide (unit < 65536) && decide (data.length = 64)
  | .rmwHome home line unit clear set => isLine line && isHome home && decide (unit < 65536) && decide (clear.length = 64) && decide (set.length = 64)
  | .wb home line holder => isLine line && isHome home && decide (holder < 6)
  | .directoryRetry home => isHome home
  | .probe holder line => isLine line && decide (holder < 6)
  | .notPresent home line holder => isLine line && isHome home && decide (holder < 6)
  | .homeTimeout home line => isLine line && isHome home
  | .coherenceFatal unit => decide (unit < 65536)
  | .hbmStackFailed stack => decide (stack < 16)
  | .hbmPcFailed pc => decide (pc < 512)
  | .ddrChannelFailed die ch => isHostDie die && decide (ch < 8)
  | .refresh unit => decide (unit < 65536)
  | .recalibration unit _ => decide (unit < 65536)
  | .patrolScrub line _ _ => isLine line
  | .flitReceive die port flit => isLink die port && decide (flit.length = 256)
  | .retrain die port _ => isLink die port
  | .trainingFrame die port _ => isLink die port
  | .linkDown die port cause => isLink die port && decide (cause < 256)
  | .laneRecal die port _ => isLink die port
  | .lnkPortCtlRetrain die port => isLink die port
  | .nsThermalSample die _ => isNear die
  | .dipStart _ => true
  | .dipEnd _ _ => true
  | .brownout => true
  | .heliostatEvaluation _ => true
  | .fastLoop _ => true
  | .powerCeilingUnmet => true
  | .thermalSample die _ => decide (die < 25)
  | .thermalGateStep die _ => decide (die < 25)
  | .thermalTrip die => decide (die < 25)
  | .capReqAssert => true
  | .capReqRelease => true
  | .pairIdleOff die pair => decide (die < 8) && decide (pair < 17)
  | .pwrDomainOffReq unit _ => decide (unit < 65536)
  | .pwrLearnFlush => true
  | .slackReport _ _ => true
  | .grantDistribution => true
  | .jobCoordinatorLost => true
  | .netQpEnable pd qp _ => isPortDie pd && decide (qp < 16384)
  | .netQpDisable pd qp => isPortDie pd && decide (qp < 16384)
  | .netQpDoorbell pd qp _ => isPortDie pd && decide (qp < 16384)
  | .send pd qp => isPortDie pd && decide (qp < 16384)
  | .sendImm pd qp => isPortDie pd && decide (qp < 16384)
  | .rdmaWrite pd qp => isPortDie pd && decide (qp < 16384)
  | .rdmaWriteImm pd qp => isPortDie pd && decide (qp < 16384)
  | .rdmaRead pd qp _ => isPortDie pd && decide (qp < 16384)
  | .inboundSend pd qp _ _ => isPortDie pd && decide (qp < 16384)
  | .inboundRdma pd qp _ _ _ _ _ => isPortDie pd && decide (qp < 16384)
  | .inboundAtomic pd qp => isPortDie pd && decide (qp < 16384)
  | .remoteNak pd qp => isPortDie pd && decide (qp < 16384)
  | .retryExceeded pd qp => isPortDie pd && decide (qp < 16384)
  | .cnp pd qp => isPortDie pd && decide (qp < 16384)
  | .readReq port f => f.wf && decide (port < 8)
  | .readResp port f => f.wf && decide (port < 8)
  | .fabricWrite port f => f.wf && decide (port < 8)
  | .writeAck port f => f.wf && decide (port < 8)
  | .errorResp port f => f.wf && decide (port < 8)
  | .fabricSignal port f => f.wf && decide (port < 8)
  | .fabricWait port f => f.wf && decide (port < 8)
  | .release port f => f.wf && decide (port < 8)
  | .slack port f => f.wf && decide (port < 8)
  | .grant port f => f.wf && decide (port < 8)
  | .probeResp port f => f.wf && decide (port < 8)
  | .probeFrame port f => f.wf && decide (port < 8)
  | .routeProbe => true
  | .ack port _ => decide (port < 8)
  | .frameForward port kind f => f.wf && decide (port < 8) && decide (kind < 256)
  | .hopRetransmit port => decide (port < 8)
  | .netFctrVal pd counter _ => isPortDie pd && decide (counter < 2048)
  | .pcieInboundRequest port _ _ _ _ => decide (port < 16)
  | .msiWrite port _ => decide (port < 16)
  | .pciCompletionTimeout die core => isCore die core
  | .pciLinkDown port => decide (port < 16)
  | .pciRpCxlEnable pd rp _ => isPortDie pd && decide (rp < 8)
  | .pipelineAssign _ => true
  | .decodeEntry pd pipe _ => isPortDie pd && decide (pipe < 8)
  | .encodeEntry pd pipe _ => isPortDie pd && decide (pipe < 4)
  | .medPipeEnable pd pipe _ => isPortDie pd && decide (pipe < 12)
  | .pwrGoodRise => true
  | .pwrGoodFall => true
  | .sysRstNAssert => true
  | .domeWatchdog => true
  | .rstCtlCore _ => true
  | .rstCtlSystem _ => true
  | .rstCtlPartition _ part => decide (part < 4)
  | .coreResetDrainTimeout die => isHostDie die
  | .startUp b => b.wf
  | .persistWrite n _ => decide (n < 256)
  | .persistCommit n => decide (n < 256)
  | .secKeyProgram slot => decide (slot < 4)
  | .secKeyRevoke slot => decide (slot < 4)
  | .secMrExtend index => decide (index < 16)
  | .secRollback index _ => decide (index < 16)
  | .secUpdate controller _ => decide (0 < controller) && decide (controller ≤ 4)
  | .secDbgNew => true
  | .secDbgSubmit level => decide (level < 4)
  | .retireEngine unit => decide (unit < 65536)
  | .engineRetireSwap die eng => isEngine die eng
  | .setPartitionMode mode f => f.wf && decide (mode < 3)
  | .retrainDdr d => d.wf
  | .eventRecord => true
  | .evtLogEnable _ => true
  | .bypass => true
  | .idcode => true
  | .samplePreload _ => true
  | .extest => true
  | .clamp => true
  | .highz => true
  | .debug target _ _ => match target with
    | .reg addr => decide (addr < 0x400_0000) && decide (addr % 8 = 0)
    | .mem addr => decide (addr < 2 ^ 46) && decide (addr % 8 = 0)
    | .core die core => (die == 16 || die == 17) && decide (core < 100)
  | .resetConfigurationUe unit => decide (unit < 65536)
  | .rideThroughReduced _ => true
  | .pciLinkUp port _ _ _ => decide (port < 16)
  | .netPortLinkUp port _ => decide (port < 8)
  | .netPortLinkDown port => decide (port < 8)
  | .probeResponse home line holder => isLine line && isHome home && decide (holder < 6)
  | .dataResponse die core line => (isCore die core || isHub die) && isLine line
  | .coreHalt die core => isCore die core
  | .roceRetransmit pd qp => isPortDie pd && decide (qp < 16384)

end Sys2Proof
end

