-- ==== Sys2Proof/Certificates/Slice0/Obligations.lean ====
section
/-! DEFINITION. The statements for the provers. A statement about commands has one clause for each command or form that it
names: under hypotheses on the state and the operands, `exec` answers a next state, and the clause says which. -/

open Sys2Proof
open Sys2Proof.Machine
open Sys2Proof.Safety

/-- For every command c and state s, step of s with c at the front of its queue is exec of c on s with the rest of the queue. On an empty queue, while no core runs or has anything to go on with, no report waits for its signature and no queue pair holds a frame, the step answers a next state in which device time has advanced by 10 ns (the model's choice, log 1), the queue is empty, and memory, near store, operand stores, cores, launches, contexts and engines are as before. -/
def Obligations.StepRunsFrontCommand : Prop :=
  (∀ (c : Instr) (r : List Instr) (s : State), s.pending = c :: r → step s = exec c { s with pending := r }) ∧
  (∀ s : State, s.pending = [] → busyCores s = [] → (∀ d c, coreRuns s d c = false) → s.sec.attests = [] →
    (∀ q ∈ s.net.qps, q.2.held = []) → ∃ t, step s = .next t ∧ t.time = s.time + 10 ∧ t.pending = [] ∧
    SameMem s t ∧ t.cores = s.cores ∧ t.launches = s.launches ∧ t.ctxs = s.ctxs ∧ t.engines = s.engines)

/-- Of a running core that holds no access back: STORE to a Normal address, naturally aligned, whose line the combining buffer does not hold, while no load is outstanding, appends the store to the store buffer, and the state changes otherwise in nothing but which buffered stores have retired and the free value that says so (log 117). STNT, naturally aligned, to a Normal line that no buffered store, outstanding miss or combining entry names, while the combining buffer has room, adds an entry for the line with exactly the store's bytes marked and holding them, and changes no memory, register or other core. LOAD of exactly the bytes of the newest buffered store returns that store's value and changes nothing else. LOAD of a DDR line that the core's L2 holds and its buffers do not returns the bytes of the L2's copy. Every other access to an address that is not Device is that of normalLoad, normalStore and, where the buffer takes it, normalStnt; a Device access that nothing holds up retires the stores and is deviceLoad or deviceStore. LOAD of an unmapped address whose bytes the buffers do not all hold ends in a bus error with KIND 1 and the address in the core's error registers; ORD_S with an only buffered store, to an unmapped address, while no load waits for its line and no write of the combining buffer is still open at a home or answered, ends in a bus error with KIND 2 and its address; neither changes memory, another core or another register. LOAD of a core that does not run changes nothing. Completes, under hypotheses on the state and the operands alone: STORE, STNT, LOAD, ORD_S. -/
def Obligations.CoreSeesItsBuffers : Prop :=
  (∀ (d c a size : Nat) (v : BitVec 64) (s : State),
      coreRuns s d c = true →
      normalKind (paKind s a) = true →
      (getCore s d c).queue = [] →
      loadsOut (getCore s d c) = false →
      (getCore s d c).stnt.find? (fun x => x.line == lineOf a) = none →
      size = 1 ∨ size = 2 ∨ size = 4 ∨ size = 8 →
      a % size = 0 →
      exec (.store d c a size v) s = .next ({ s with
        fresh := s.fresh + 1
        cores := smPut s.cores (coreKey d c) { getCore s d c with
          stores := ((getCore s d c).stores.map fun b => { b with retired := b.retired || decide ((drawBelow s 2).1 = 1) }) ++
            [⟨a, leBytes size v.toNat, decide ((drawBelow s 2).1 = 1), false⟩] } })) ∧
  (∀ (d c a size : Nat) (v : BitVec 64) (s : State),
      coreRuns s d c = true →
      normalKind (paKind s a) = true →
      (getCore s d c).queue = [] →
      loadsOut (getCore s d c) = false →
      (getCore s d c).misses.any (fun m => m.line == lineOf a) = false →
      (getCore s d c).stores.any (fun b => lineOf b.addr == lineOf a) = false →
      (getCore s d c).stnt.find? (fun x => x.line == lineOf a) = none →
      (getCore s d c).stnt.length < 16 →
      size = 1 ∨ size = 2 ∨ size = 4 ∨ size = 8 →
      a % size = 0 →
      ∃ t, exec (.stnt d c a size v) s = .next t ∧
        (∃ l, (getCore t d c).stnt = (getCore s d c).stnt ++ [l] ∧ l.line = lineOf a ∧
        (∀ i < 64, l.mask.getLsbD i = decide (a % 64 ≤ i ∧ i < a % 64 + size)) ∧
        (l.data.drop (a % 64)).take size = leBytes size v.toNat) ∧
        SameMem s t ∧ t.regs = s.regs ∧ CoresBut s t d c) ∧
  (∀ (d c a size : Nat) (v : BitVec 64) (r p : Bool) (l : List BufStore) (s : State),
      coreRuns s d c = true →
      normalKind (paKind s a) = true →
      (getCore s d c).queue = [] →
      (getCore s d c).stnt.find? (fun x => x.line == lineOf a) = none →
      (getCore s d c).stores = l ++ [⟨a, leBytes size v.toNat, r, p⟩] →
      size = 1 ∨ size = 2 ∨ size = 4 ∨ size = 8 →
      a % size = 0 →
      v.toNat < 2 ^ (8 * size) →
      exec (.load d c a size) s = .next (putCore s d c { getCore s d c with result := .value v })) ∧
  (∀ (d c a size : Nat) (x : CacheLine) (s : State),
      coreRuns s d c = true →
      paKind s a = .ddr →
      (getCore s d c).queue = [] →
      (getCore s d c).stnt.find? (fun x => x.line == lineOf a) = none →
      (getCore s d c).stores.any (fun b => lineOf b.addr == lineOf a) = false →
      l2Find s d c (lineOf a) = some x →
      x.data.length = 64 →
      lineWaits (getCore s d c) (lineOf a) = false →
      size = 1 ∨ size = 2 ∨ size = 4 ∨ size = 8 →
      a % size = 0 →
      ∃ t, exec (.load d c a size) s = .next t ∧
        getCore t d c = { getCore s d c with l1d := (getCore t d c).l1d, result := .value (BitVec.ofNat 64 (leNat ((x.data.drop (a % 64)).take size))) } ∧
        SameMem s t ∧ CoresBut s t d c ∧ t.regs = s.regs) ∧
  (∀ (d c : Nat) (a n : Nat) (s : State),
      coreRuns s d c = false →
      exec (.load d c a n) s = .next (s)) ∧
  (∀ (d c a n : Nat) (s : State),
      coreRuns s d c = true →
      (getCore s d c).queue = [] →
      isDevice s a = false →
      exec (.load d c a n) s = .next (normalLoad s d c a n)) ∧
  (∀ (d c a n : Nat) (v : BitVec 64) (s : State),
      coreRuns s d c = true →
      (getCore s d c).queue = [] →
      isDevice s a = false →
      exec (.store d c a n v) s = .next (normalStore s d c a n v)) ∧
  (∀ (d c a n : Nat) (v : BitVec 64) (s : State),
      coreRuns s d c = true →
      (getCore s d c).queue = [] →
      isDevice s a = false →
      (normalStnt s d c a n v).1 = true →
      exec (.stnt d c a n v) s = .next ((normalStnt s d c a n v).2)) ∧
  (∀ (d c a n : Nat) (s : State),
      coreRuns s d c = true →
      (getCore s d c).queue = [] →
      isDevice s a = true →
      deviceWaits s (getCore s d c) = false →
      loadsOut (getCore s d c) = false →
      mayRetire s d c = true →
      exec (.load d c a n) s = .next (deviceLoad (retireStores s d c) d c a n)) ∧
  (∀ (d c a n : Nat) (v : BitVec 64) (s : State),
      coreRuns s d c = true →
      (getCore s d c).queue = [] →
      isDevice s a = true →
      deviceWaits s (getCore s d c) = false →
      loadsOut (getCore s d c) = false →
      mayRetire s d c = true →
      exec (.store d c a n v) s = .next (deviceStore (retireStores s d c) d c a n v)) ∧
  (∀ (d c a n : Nat) (v : BitVec 64) (s : State),
      coreRuns s d c = true →
      (getCore s d c).queue = [] →
      isDevice s a = true →
      deviceWaits s (getCore s d c) = false →
      loadsOut (getCore s d c) = false →
      mayRetire s d c = true →
      exec (.stnt d c a n v) s = .next (deviceStore (retireStores s d c) d c a n v)) ∧
  (∀ (d c a size : Nat) (s : State),
      coreRuns s d c = true →
      (getCore s d c).queue = [] →
      c < 100 →
      paKind s a = .hole →
      a < 2 ^ 48 →
      spanMask (a % 64) size &&& ~~~(ownBytes (getCore s d c) (lineOf a)).1 ≠ 0 →
      ∃ t, exec (.load d c a size) s = .next t ∧
        (getCore t d c).result = .error ∧ (getCore t d c).taken = .busErrorLoad ∧ fget t d c Fl.CORE_ERR_ADDR_ADDR = a ∧
        fget t d c Fl.CORE_ERR_INFO_KIND = 1 ∧ SameMem s t ∧ CoresBut s t d c ∧
        RegsBut s t [regKey d .coreErrAddr c, regKey d .coreErrInfo c]) ∧
  (∀ (d c a : Nat) (bs : List Byte) (r : Bool) (s : State),
      coreRuns s d c = true →
      (getCore s d c).queue = [] →
      c < 100 →
      paKind s a = .hole →
      a < 2 ^ 48 →
      (getCore s d c).stores = [⟨a, bs, r, false⟩] →
      (getCore s d c).stnt = [] →
      lineWaits (getCore s d c) (lineOf a) = false →
      ntOpen s d c = false →
      s.coh.returned = [] →
      ∃ t, exec (.ordS d c) s = .next t ∧
        (getCore t d c).stores = [] ∧ (getCore t d c).taken = .busErrorStore ∧ (getCore t d c).storeError = none ∧ (getCore t d c).queue = [] ∧
        fget t d c Fl.CORE_ERR_ADDR_ADDR = a ∧ fget t d c Fl.CORE_ERR_INFO_KIND = 2 ∧ SameMem s t ∧ CoresBut s t d c ∧
        RegsBut s t [regKey d .coreErrAddr c, regKey d .coreErrInfo c])

/-- Of a running core that holds no access back: ORD_S empties the combining buffer, and then either no store is buffered, no error response is left and the barrier is complete, or a store still waits, or a write of the combining buffer is still open at its home, and the barrier waits with it. With both buffers empty and no write of the combining buffer open at a home or answered, ORD_S takes a waiting error response as a bus error and changes nothing else; ORD_LS does so once no load is outstanding, and waits while one is. Under the same conditions but with one buffered store, to a DDR line that the core holds in a state other than S and that no load waits for, ORD_S leaves that store's bytes in the core's copy, which is then M. Where the drain leaves no store out, ORD_S and ORD_LS are the drain followed by the taking of an error response. ORD_L changes nothing when no load is outstanding, and waits otherwise. CORE_HALT while no load is outstanding leaves STATE 2, every store retired, the combining buffer and L2 as they were, and changes no memory, other core or other register. Of any core: FAR_TIMEOUT of a far store, where no load waits for far memory, drops it and leaves an error response of KIND 4 with its address; FAR_TIMEOUT of the oldest waiting load, from far memory, ends it in a bus error with KIND 4 and its address. EXCEPTION_ENTRY removes exactly the stores that have not retired, counts the exception and changes nothing else. STORE_ERROR_TIMEOUT turns a waiting error response into an asynchronous machine check and changes nothing else. DROOP_DETECT counts one stretch, up to the counter's last value, and changes no memory, core or other register. Completes, under hypotheses on the state and the operands alone: ORD_S, ORD_LS, FAR_TIMEOUT, EXCEPTION_ENTRY, CORE_HALT, STORE_ERROR_TIMEOUT, DROOP_DETECT, ORD_L. -/
def Obligations.BarriersDrainAndTakeErrors : Prop :=
  (∀ (d c : Nat) (s : State),
      coreRuns s d c = true →
      (getCore s d c).queue = [] →
      ∃ t, exec (.ordS d c) s = .next t ∧
        (getCore t d c).stnt = [] ∧
        ((getCore t d c).stores = [] ∧ (getCore t d c).storeError = none ∧ (getCore t d c).queue = [] ∨
          ((getCore t d c).stores ≠ [] ∨ ntOpen t d c = true) ∧ (getCore t d c).queue = [.ordS])) ∧
  (∀ (d c : Nat) (s : State),
      coreRuns s d c = true →
      (getCore s d c).queue = [] →
      (getCore s d c).stores = [] →
      (getCore s d c).stnt = [] →
      loadsOut (getCore s d c) = false →
      ntOpen s d c = false →
      s.coh.returned = [] →
      exec (.ordLs d c) s = .next (modCore s d c fun x => if x.storeError.isSome then { x with storeError := none, taken := .busErrorStore } else x)) ∧
  (∀ (d c : Nat) (s : State),
      coreRuns s d c = true →
      (getCore s d c).queue = [] →
      (getCore s d c).stores = [] →
      (getCore s d c).stnt = [] →
      s.coh.returned = [] →
      loadsOut (getCore s d c) = true →
      exec (.ordLs d c) s = .next (putCore s d c { getCore s d c with queue := [.ordLs] })) ∧
  (∀ (d c a : Nat) (s : State),
      coreRuns s d c = true →
      (getCore s d c).queue = [] →
      (getCore s d c).stores = [] →
      (getCore s d c).stnt = [] →
      (getCore s d c).storeError = some a →
      ntOpen s d c = false →
      s.coh.returned = [] →
      exec (.ordS d c) s = .next (putCore s d c { getCore s d c with storeError := none, taken := .busErrorStore })) ∧
  (∀ (d c a : Nat) (bs : List Byte) (r : Bool) (x : CacheLine) (s : State),
      coreRuns s d c = true →
      (getCore s d c).queue = [] →
      paKind s a = .ddr →
      (getCore s d c).stores = [⟨a, bs, r, false⟩] →
      (getCore s d c).stnt = [] →
      (getCore s d c).storeError = none →
      l2Find s d c (lineOf a) = some x →
      x.st ≠ .s →
      lineWaits (getCore s d c) (lineOf a) = false →
      ntOpen s d c = false →
      s.coh.returned = [] →
      ∃ t, exec (.ordS d c) s = .next t ∧
        (getCore t d c).stores = [] ∧ (getCore t d c).queue = [] ∧ l2Find t d c (lineOf a) = some ⟨lineOf a, .m, overwrite x.data (a % 64) bs⟩ ∧ SameMem s t ∧ CoresBut s t d c ∧ t.regs = s.regs) ∧
  (∀ (d c : Nat) (s : State),
      coreRuns s d c = true →
      (getCore s d c).queue = [] →
      loadsOut (getCore s d c) = false →
      exec (.ordL d c) s = .next (s)) ∧
  (∀ (d c : Nat) (s : State),
      coreRuns s d c = true →
      (getCore s d c).queue = [] →
      loadsOut (getCore s d c) = true →
      exec (.ordL d c) s = .next (putCore s d c { getCore s d c with queue := [.ordL] })) ∧
  (∀ (d c : Nat) (b : BufStore) (s : State),
      (getCore s d c).waiting.find? (fun w => paKind s w.addr == .far) = none →
      (getCore s d c).misses.find? (fun m => !m.isStore && paKind s m.addr == .far) = none →
      (getCore s d c).stores.find? (fun b => paKind s b.addr == .far) = some b →
      exec (.farTimeout d c) s = .next (storeErr (freeLine (modCore s d c fun x => { x with stores := x.stores.erase b, misses := x.misses.filter fun m => !(m.isStore && m.line == lineOf b.addr) }) (lineOf b.addr)) d c kFarTimeout b.addr)) ∧
  (∀ (d c : Nat) (s : State),
      coreRuns s d c = true →
      (getCore s d c).queue = [] →
      storesOut (drainAll s d c) d c = false →
      exec (.ordS d c) s = .next (takeStoreError (drainAll s d c) d c)) ∧
  (∀ (d c : Nat) (s : State),
      coreRuns s d c = true →
      (getCore s d c).queue = [] →
      storesOut (drainAll s d c) d c = false →
      loadsOut (getCore (drainAll s d c) d c) = false →
      exec (.ordLs d c) s = .next (takeStoreError (drainAll s d c) d c)) ∧
  (∀ (d c : Nat) (s : State),
      exec (.exceptionEntry d c) s = .next (putCore s d c { getCore s d c with
        stores := (getCore s d c).stores.filter (·.retired), exceptions := (getCore s d c).exceptions + 1 })) ∧
  (∀ (d c : Nat) (s : State),
      coreRuns s d c = true →
      (getCore s d c).queue = [] →
      loadsOut (getCore s d c) = false →
      ∃ t, exec (.coreHalt d c) s = .next t ∧
        fget t d c Fl.CORE_STATE_STATE = 2 ∧ SameMem s t ∧ CoresBut s t d c ∧ RegsBut s t [regKey d .coreState c] ∧
        (getCore t d c).stores = (getCore s d c).stores.map (fun b => { b with retired := true }) ∧
        (getCore t d c).stnt = (getCore s d c).stnt ∧ (getCore t d c).l2 = (getCore s d c).l2) ∧
  (∀ (d c a : Nat) (s : State),
      (getCore s d c).storeError = some a →
      exec (.storeErrorTimeout d c) s = .next (putCore s d c { getCore s d c with storeError := none, taken := .machineCheckAsync })) ∧
  (∀ (d c : Nat) (w : CoreWait) (r : List CoreWait) (s : State),
      c < 100 →
      w.addr < 2 ^ 48 →
      paKind s w.addr = .far →
      (getCore s d c).waiting = w :: r →
      ∃ t, exec (.farTimeout d c) s = .next t ∧
        (getCore t d c).waiting = r ∧ (getCore t d c).result = .error ∧ (getCore t d c).taken = .busErrorLoad ∧
        fget t d c Fl.CORE_ERR_ADDR_ADDR = w.addr ∧ fget t d c Fl.CORE_ERR_INFO_KIND = 4 ∧ SameMem s t ∧ CoresBut s t d c ∧
        RegsBut s t [regKey d .coreErrAddr c, regKey d .coreErrInfo c]) ∧
  (∀ (d c : Nat) (s : State),
      ∃ t, exec (.droopDetect d c) s = .next t ∧
        fget t d c Fl.CORE_CLK_STRETCHES = min (fget s d c Fl.CORE_CLK_STRETCHES + 1) (2 ^ 32 - 1) ∧
        SameMem s t ∧ t.cores = s.cores ∧ RegsBut s t [regKey d .coreClk c])

/-- While the CORE_CMD register of an accessible host die is not busy: OFFLINE of a core in STATE 2 leaves it in STATE 0 with its store buffer, combining buffer and L2 empty and the register BUSY with the operation; ONLINE of a good, unreserved core in STATE 0, with fewer than 96 online, leaves it in STATE 1 and ROLE 0 with a fresh record at CORE_START and changes no other core and no memory; RECALIBRATE of a core in STATE 0 makes the register BUSY and changes no other register, core or memory; OFFLINE of a core in STATE 1 sets REJECTED and RESULT 1 and changes no other register, core or memory. Completion clears BUSY with RESULT 0; that of a recalibration whose passing frequency, at least 2,500 MHz, is below FMAX less DERATE sets DERATE to FMAX less that frequency in whole units of 25 MHz. IRQ_MESSAGE of a vector on its way sets its PENDING, keeps the rest of its entry and takes the message. IRQ_ACK and IRQ_EOI of a running core that holds nothing back, waits for no load and whose stores may retire, retire the stores and act: IRQ_ACK of an offered vector returns bit 63 and the vector, clears its PENDING and puts it in service at the core; with none offered it returns 0 and changes no entry. IRQ_EOI of a vector in service at the core takes it out of service; of any other, it changes no entry and counts EOI_IGNORED. Completes, under hypotheses on the state and the operands alone: CORE_OFFLINE, CORE_ONLINE, CORE_RECALIBRATE, CORE_CMD_COMPLETE, IRQ_MESSAGE, IRQ_ACK, IRQ_EOI. -/
def Obligations.CoreCommands : Prop :=
  (∀ (d c : Nat) (s : State),
      windowDead s d = false →
      d = 16 ∨ d = 17 →
      c < 100 →
      fget s d 0 Fl.CORE_CMD_BUSY = 0 →
      fget s d c Fl.CORE_STATE_STATE = 2 →
      ∃ t, exec (.coreOffline d c) s = .next t ∧
        fget t d c Fl.CORE_STATE_STATE = 0 ∧ (getCore t d c).stores = [] ∧ (getCore t d c).stnt = [] ∧ (getCore t d c).l2 = [] ∧
        fget t d 0 Fl.CORE_CMD_BUSY = 1 ∧ fget t d 0 Fl.CORE_CMD_REJECTED = 0 ∧ fget t d 0 Fl.CORE_CMD_OP = 1 ∧ fget t d 0 Fl.CORE_CMD_CORE = c) ∧
  (∀ (d c : Nat) (s : State),
      windowDead s d = false →
      fget s d 0 Fl.CORE_CMD_BUSY = 0 →
      fget s d c Fl.CORE_STATE_STATE = 1 →
      ∃ t, exec (.coreOffline d c) s = .next t ∧
        fget t d 0 Fl.CORE_CMD_REJECTED = 1 ∧ fget t d 0 Fl.CORE_CMD_RESULT = 1 ∧ SameMem s t ∧ t.cores = s.cores ∧
        RegsBut s t [regKey d .coreCmd 0]) ∧
  (∀ (d c : Nat) (s : State),
      windowDead s d = false →
      d = 16 ∨ d = 17 →
      c < 100 →
      fget s d 0 Fl.CORE_CMD_BUSY = 0 →
      fget s d c Fl.CORE_STATE_STATE = 0 →
      fget s d c Fl.CORE_STATE_ROLE ≤ 1 →
      unitGood s d c = true →
      (onlineCores s d).length < 96 →
      ∃ t, exec (.coreOnline d c) s = .next t ∧
        fget t d c Fl.CORE_STATE_STATE = 1 ∧ fget t d c Fl.CORE_STATE_ROLE = 0 ∧ fget t d 0 Fl.CORE_CMD_BUSY = 1 ∧
        getCore t d c = { Core.fresh with pc := fget s d 0 Fl.CORE_START_PC * 4 } ∧ CoresBut s t d c ∧ SameMem s t) ∧
  (∀ (d c : Nat) (s : State),
      windowDead s d = false →
      c < 100 →
      fget s d 0 Fl.CORE_CMD_BUSY = 0 →
      fget s d c Fl.CORE_STATE_STATE = 0 →
      ∃ t, exec (.coreRecalibrate d c) s = .next t ∧
        fget t d 0 Fl.CORE_CMD_BUSY = 1 ∧ fget t d 0 Fl.CORE_CMD_REJECTED = 0 ∧ fget t d 0 Fl.CORE_CMD_OP = 3 ∧ fget t d 0 Fl.CORE_CMD_CORE = c ∧
        SameMem s t ∧ t.cores = s.cores ∧ RegsBut s t [regKey d .coreCmd 0]) ∧
  (∀ (d pass : Nat) (s : State),
      fget s d 0 Fl.CORE_CMD_BUSY = 1 →
      fget s d 0 Fl.CORE_CMD_OP ≠ 3 →
      ∃ t, exec (.coreCmdComplete d pass) s = .next t ∧
        fget t d 0 Fl.CORE_CMD_BUSY = 0 ∧ fget t d 0 Fl.CORE_CMD_RESULT = 0 ∧ SameMem s t ∧ t.cores = s.cores ∧
        RegsBut s t [regKey d .coreCmd 0]) ∧
  (∀ (d c pass : Nat) (s : State),
      d = 16 ∨ d = 17 →
      c < 100 →
      fget s d 0 Fl.CORE_CMD_BUSY = 1 →
      fget s d 0 Fl.CORE_CMD_OP = 3 →
      fget s d 0 Fl.CORE_CMD_CORE = c →
      pass < (fget s d c Fl.CORE_STATE_FMAX - fget s d c Fl.CORE_STATE_DERATE) * 25 →
      2500 ≤ pass →
      ∃ t, exec (.coreCmdComplete d pass) s = .next t ∧
        fget t d 0 Fl.CORE_CMD_BUSY = 0 ∧ fget t d 0 Fl.CORE_CMD_RESULT = 0 ∧
        fget t d c Fl.CORE_STATE_DERATE = fget s d c Fl.CORE_STATE_FMAX - pass / 25 ∧
        fget t d c Fl.CORE_STATE_ROLE = fget s d c Fl.CORE_STATE_ROLE ∧ SameMem s t) ∧
  (∀ (v : Nat) (s : State),
      v ∈ s.irqOut →
      ∃ t, exec (.irqMessage v) s = .next t ∧
        getVec t v = { getVec s v with pending := true } ∧ t.irqOut = s.irqOut.erase v ∧ SameMem s t ∧ t.cores = s.cores ∧
        RegsBut s t [regKey (vecDie v) .irqCount 0]) ∧
  (∀ (d c : Nat) (s : State),
      windowDead s d = false →
      coreRuns s d c = true →
      (getCore s d c).queue = [] →
      deviceWaits s (getCore s d c) = false →
      loadsOut (getCore s d c) = false →
      mayRetire s d c = true →
      exec (.irqAck d c) s = .next (doIrqAck d c (retireStores s d c))) ∧
  (∀ (d c v : Nat) (s : State),
      windowDead s d = false →
      coreRuns s d c = true →
      (getCore s d c).queue = [] →
      deviceWaits s (getCore s d c) = false →
      loadsOut (getCore s d c) = false →
      mayRetire s d c = true →
      exec (.irqEoi d c v) s = .next (doIrqEoi d c v (retireStores s d c))) ∧
  (∀ (d c v : Nat) (s : State),
      windowDead s d = false →
      coreRuns s d c = true →
      (getCore s d c).queue = [] →
      deviceWaits s (getCore s d c) = false →
      loadsOut (getCore s d c) = false →
      mayRetire s d c = true →
      ackVector s (coreUnit d c) = some v →
      v < 2 ^ 16 →
      ∃ t, exec (.irqAck d c) s = .next t ∧
        (getCore t d c).result = .value (BitVec.ofNat 64 (2 ^ 63 + v)) ∧
        getVec t v = { getVec s v with pending := false, inService := some (coreUnit d c) } ∧ SameMem s t ∧ CoresBut s t d c ∧
        RegsBut s t [regKey d .irqCount 0]) ∧
  (∀ (d c : Nat) (s : State),
      windowDead s d = false →
      coreRuns s d c = true →
      (getCore s d c).queue = [] →
      deviceWaits s (getCore s d c) = false →
      loadsOut (getCore s d c) = false →
      mayRetire s d c = true →
      ackVector s (coreUnit d c) = none →
      ∃ t, exec (.irqAck d c) s = .next t ∧
        (getCore t d c).result = .value 0 ∧ t.vecs = s.vecs ∧ SameMem s t ∧ CoresBut s t d c ∧ t.regs = s.regs) ∧
  (∀ (d c v : Nat) (s : State),
      windowDead s d = false →
      coreRuns s d c = true →
      (getCore s d c).queue = [] →
      deviceWaits s (getCore s d c) = false →
      loadsOut (getCore s d c) = false →
      mayRetire s d c = true →
      (getVec s v).inService = some (coreUnit d c) →
      ∃ t, exec (.irqEoi d c v) s = .next t ∧
        getVec t v = { getVec s v with inService := none } ∧ SameMem s t ∧ CoresBut s t d c ∧ t.regs = s.regs) ∧
  (∀ (d c v : Nat) (s : State),
      windowDead s d = false →
      coreRuns s d c = true →
      (getCore s d c).queue = [] →
      deviceWaits s (getCore s d c) = false →
      loadsOut (getCore s d c) = false →
      mayRetire s d c = true →
      (getVec s v).inService ≠ some (coreUnit d c) →
      ∃ t, exec (.irqEoi d c v) s = .next t ∧
        t.vecs = s.vecs ∧ fget t d 0 Fl.IRQ_COUNT_EOI_IGNORED = min (fget s d 0 Fl.IRQ_COUNT_EOI_IGNORED + 1) 0xFFFF ∧
        SameMem s t ∧ CoresBut s t d c ∧ RegsBut s t [regKey d .irqCount 0])

/-- IRQ_IPI of a vector of the die's controller leaves the routing entries exactly as IRQ_MESSAGE does when a message of that vector is on its way, and changes no other vector, no memory and no core. IRQ_IPI of a vector of the other controller sets REJECTED and has no other effect. Completes, under hypotheses on the state and the operands alone: IRQ_IPI. -/
def Obligations.IpiActsAsMessage : Prop :=
  (∀ (d v : Nat) (s : State), windowDead s d = false → vecDie v = d → ∃ t u, exec (.irqIpi d v) s = .next t ∧
    exec (.irqMessage v) { s with irqOut := v :: s.irqOut } = .next u ∧ t.vecs = u.vecs ∧ (getVec t v).pending = true ∧
    (∀ w, w ≠ v → getVec t w = getVec s w) ∧ SameMem s t ∧ t.cores = s.cores) ∧
  (∀ (d v : Nat) (s : State),
      windowDead s d = false →
      vecDie v ≠ d →
      exec (.irqIpi d v) s = .next (fput s d 0 Fl.IRQ_IPI_REJECTED 1))

/-- Where the next word of a running slot, or of a Finder stream with nothing issued or to reissue, is NOP, the agent passes it. LOOP opens a loop whose body is the next BODY words, with COUNT iterations, and the agent goes on at the body. CURSOR sets its cursor or adds to it, and the agent passes. None of the three changes an engine, a token unit, a register or memory. END finishes the slot, leaves its engine without phase and announced phase, and changes no other engine and no memory; END of such a stream finishes it and changes no engine, token unit, register or memory. Completes, under hypotheses on the state and the operands alone: NOP, LOOP, CURSOR, END. -/
def Obligations.ControlWordsAdvance : Prop :=
  (∀ (d e i : Nat) (l : Launch) (x : Slot) (s : State),
      slotOf s d e = some (l, i, x) →
      l.phase = .running →
      x.hold = .run →
      x.finished = false →
      x.ops[x.pos]? = some (.nop) →
      ∃ t, exec (.nop (.engine d e)) s = .next t ∧
        (slotOf t d e).map (fun p => p.2.2) = some x.advance ∧ t.engines = s.engines ∧ t.tok = s.tok ∧ t.regs = s.regs ∧ SameMem s t) ∧
  (∀ (h f c i : Nat) (l : Launch) (y : Stream) (s : State),
      streamOf s h f c = some (l, i, y) →
      l.phase = .running →
      y.hold = .run →
      y.finished = false →
      y.reissue = [] →
      y.window = [] →
      y.words[y.pos]? = some (.ctl (.nop)) →
      ∃ t, exec (.nop (.stream h f c)) s = .next t ∧
        (streamOf t h f c).map (fun p => p.2.2) = some y.advance ∧ t.engines = s.engines ∧ t.tok = s.tok ∧ t.regs = s.regs ∧ SameMem s t) ∧
  (∀ (d e i b n cu : Nat) (en : Bool) (st : Int) (l : Launch) (x : Slot) (s : State),
      slotOf s d e = some (l, i, x) →
      l.phase = .running →
      x.hold = .run →
      x.finished = false →
      x.ops[x.pos]? = some (.loop b n en cu st) →
      ∃ t, exec (.loop (.engine d e)) s = .next t ∧
        (slotOf t d e).map (fun p => p.2.2) = some { x with
          loops := ⟨x.pos + 1, x.pos + b, n, en, cu, st⟩ :: x.loops, pos := x.pos + 1 } ∧ t.engines = s.engines ∧ t.tok = s.tok ∧ t.regs = s.regs ∧ SameMem s t) ∧
  (∀ (h f c i b n cu : Nat) (en : Bool) (st : Int) (l : Launch) (y : Stream) (s : State),
      streamOf s h f c = some (l, i, y) →
      l.phase = .running →
      y.hold = .run →
      y.finished = false →
      y.reissue = [] →
      y.window = [] →
      y.words[y.pos]? = some (.ctl (.loop b n en cu st)) →
      ∃ t, exec (.loop (.stream h f c)) s = .next t ∧
        (streamOf t h f c).map (fun p => p.2.2) = some { y with
          loops := ⟨y.pos + 1, y.pos + b, n, en, cu, st⟩ :: y.loops, pos := y.pos + 1 } ∧ t.engines = s.engines ∧ t.tok = s.tok ∧ t.regs = s.regs ∧ SameMem s t) ∧
  (∀ (d e i cu : Nat) (add : Bool) (v : Int) (l : Launch) (x : Slot) (s : State),
      slotOf s d e = some (l, i, x) →
      l.phase = .running →
      x.hold = .run →
      x.finished = false →
      x.ops[x.pos]? = some (.cursor cu add v) →
      ∃ t, exec (.cursor (.engine d e)) s = .next t ∧
        (slotOf t d e).map (fun p => p.2.2) =
          some { x with cursors := x.cursors.set cu (if add then x.cursors.getD cu 0 + v else v) }.advance ∧ t.engines = s.engines ∧ t.tok = s.tok ∧ t.regs = s.regs ∧ SameMem s t) ∧
  (∀ (h f c i cu : Nat) (add : Bool) (v : Int) (l : Launch) (y : Stream) (s : State),
      streamOf s h f c = some (l, i, y) →
      l.phase = .running →
      y.hold = .run →
      y.finished = false →
      y.reissue = [] →
      y.window = [] →
      y.words[y.pos]? = some (.ctl (.cursor cu add v)) →
      ∃ t, exec (.cursor (.stream h f c)) s = .next t ∧
        (streamOf t h f c).map (fun p => p.2.2) =
          some { y with cursors := y.cursors.set cu (if add then y.cursors.getD cu 0 + v else v) }.advance ∧ t.engines = s.engines ∧ t.tok = s.tok ∧ t.regs = s.regs ∧ SameMem s t) ∧
  (∀ (d e i : Nat) (m : PhaseMeas) (l : Launch) (x : Slot) (s : State),
      slotOf s d e = some (l, i, x) →
      l.phase = .running →
      x.hold = .run →
      x.finished = false →
      x.ops[x.pos]? = some (.end_) →
      ∃ t, exec (.end_ (.engine d e) m) s = .next t ∧
        (slotOf t d e).map (fun p => p.2.2) = some { x with finished := true } ∧ (getEng t d e).phase = none ∧
        (getEng t d e).announced = none ∧ EnginesBut s t d e ∧ SameMem s t) ∧
  (∀ (h f c i : Nat) (m : PhaseMeas) (l : Launch) (y : Stream) (s : State),
      streamOf s h f c = some (l, i, y) →
      l.phase = .running →
      y.hold = .run →
      y.finished = false →
      y.reissue = [] →
      y.window = [] →
      y.words[y.pos]? = some (.ctl (.end_)) →
      ∃ t, exec (.end_ (.stream h f c) m) s = .next t ∧
        (streamOf t h f c).map (fun p => p.2.2) = some { y with finished := true } ∧ t.engines = s.engines ∧ t.tok = s.tok ∧ t.regs = s.regs ∧ SameMem s t)

/-- For a token whose counter is local: SIGNAL of a slot outside a rewind region adds its amount to the counter when the sum is below 2^32, and otherwise leaves every token unit as it was and ends the launch with 0x0121 and the token's detail. Inside a rewind region SIGNAL passes and is deferred, and changes no token unit, register or memory. WAIT of a slot passes where its counter is at least its value; where it is below and the unit has fewer than 1,024 pending, the wait joins them and the slot is held. The oldest held WAIT of a unit joins the pending ones once there is room. WAIT_TIMEOUT of a pending WAIT with a limit removes it, sets WAIT_TIMEOUT in the unit's error register and ends the launch with 0x0122 and the token's detail. PHASE_ANNOUNCE and PHASE_BEGIN of a slot pass; the first sets the engine's announced phase, the second its phase, and neither changes another engine, a token unit or memory. PHASE_ANNOUNCE_LAPSE removes the announced phase and changes nothing else of the engine. No memory changes in any of these. Completes, under hypotheses on the state and the operands alone: SIGNAL, WAIT, WAIT_HELD_ADMIT, WAIT_TIMEOUT, PHASE_ANNOUNCE, PHASE_ANNOUNCE_LAPSE, PHASE_BEGIN. -/
def Obligations.TokensCountAndRelease : Prop :=
  (∀ (d e i tok sc n md phys : Nat) (k : Counter) (tk : Token) (l : Launch) (x : Slot) (s : State),
      slotOf s d e = some (l, i, x) →
      l.phase = .running →
      x.hold = .run →
      x.finished = false →
      x.ops[x.pos]? = some (.signal tok sc n) →
      (getEng s d e).region = none →
      l.tokens[tok]? = some tk →
      tk.remote = none →
      tk.unit = some (md, phys) →
      smGet (getTok s md).counters phys = some k →
      k.value + n < 2 ^ 32 →
      ∃ t, exec (.signal (.engine d e)) s = .next t ∧
        smGet (getTok t md).counters phys = some { k with value := k.value + n } ∧ t.engines = s.engines ∧ SameMem s t) ∧
  (∀ (d e i tok sc n md phys : Nat) (k : Counter) (tk : Token) (l : Launch) (x : Slot) (s : State),
      slotOf s d e = some (l, i, x) →
      l.phase = .running →
      x.hold = .run →
      x.finished = false →
      x.ops[x.pos]? = some (.signal tok sc n) →
      (getEng s d e).region = none →
      l.tokens[tok]? = some tk →
      tk.remote = none →
      tk.unit = some (md, phys) →
      smGet (getTok s md).counters phys = some k →
      2 ^ 32 ≤ k.value + n →
      ∃ t, exec (.signal (.engine d e)) s = .next t ∧
        t.tok = s.tok ∧ (findLaunch t l.ctx l.seq).map (·.errs) = some (l.errs ++ [(0x0121, tokenDetail tok i false)]) ∧ SameMem s t) ∧
  (∀ (d e i tok sc n : Nat) (g : Region) (l : Launch) (x : Slot) (s : State),
      slotOf s d e = some (l, i, x) →
      l.phase = .running →
      x.hold = .run →
      x.finished = false →
      x.ops[x.pos]? = some (.signal tok sc n) →
      (getEng s d e).region = some g →
      ∃ t, exec (.signal (.engine d e)) s = .next t ∧
        (getEng t d e).region = some { g with deferred := g.deferred ++ [(tok, sc, n)] } ∧ (slotOf t d e).map (fun p => p.2.2) = some x.advance ∧
        t.tok = s.tok ∧ t.regs = s.regs ∧ SameMem s t ∧ EnginesBut s t d e) ∧
  (∀ (d e i tok sc v md phys : Nat) (k : Nat × Counter) (tk : Token) (l : Launch) (x : Slot) (s : State),
      slotOf s d e = some (l, i, x) →
      l.phase = .running →
      x.hold = .run →
      x.finished = false →
      x.ops[x.pos]? = some (.wait tok sc none v) →
      l.tokens[tok]? = some tk →
      tk.remote = none →
      tk.unit = some (md, phys) →
      (getTok s md).counters.find? (fun c => c.2.ctx == l.ctx && c.2.seq == l.seq && c.2.token == tok) = some k →
      v ≤ k.2.value →
      ∃ t, exec (.wait (.engine d e)) s = .next t ∧
        (slotOf t d e).map (fun p => p.2.2) = some x.advance ∧ t.tok = s.tok ∧ t.engines = s.engines ∧ SameMem s t) ∧
  (∀ (d e i tok sc v md phys : Nat) (k : Nat × Counter) (tk : Token) (l : Launch) (x : Slot) (s : State),
      slotOf s d e = some (l, i, x) →
      l.phase = .running →
      x.hold = .run →
      x.finished = false →
      x.ops[x.pos]? = some (.wait tok sc none v) →
      l.tokens[tok]? = some tk →
      tk.remote = none →
      tk.unit = some (md, phys) →
      (getTok s md).counters.find? (fun c => c.2.ctx == l.ctx && c.2.seq == l.seq && c.2.token == tok) = some k →
      k.2.value < v →
      (getTok s md).waits.length < 1024 →
      ∃ t, exec (.wait (.engine d e)) s = .next t ∧
        (slotOf t d e).map (fun p => p.2.2) = some { x with hold := .wait tok v } ∧ t.engines = s.engines ∧ SameMem s t ∧
        getTok t md = { getTok s md with waits := (getTok s md).waits ++
          [⟨l.ctx, l.seq, tok, v, .engine d e, fget s md 0 Fl.TOK_WAIT_LIMIT_LIMIT_MS⟩] }) ∧
  (∀ (md : Nat) (w : PendWait) (r : List PendWait) (s : State),
      (getTok s md).held = w :: r →
      (getTok s md).waits.length < 1024 →
      (∀ k ∈ (getTok s md).counters, k.2.value < w.value) →
      0 < w.value →
      ∃ t, exec (.waitHeldAdmit md) s = .next t ∧
        getTok t md = { getTok s md with held := r, waits := (getTok s md).waits ++
          [{ w with limit := fget s md 0 Fl.TOK_WAIT_LIMIT_LIMIT_MS }] } ∧ t.engines = s.engines ∧ SameMem s t) ∧
  (∀ (md i : Nat) (a : Agent) (w : PendWait) (st : Bool) (hd : Hold) (l : Launch) (s : State),
      (getTok s md).waits.find? (fun w => w.agent == a) = some w →
      w.limit ≠ 0 →
      agentAt s a = some (l, i, st, hd) →
      findLaunch s l.ctx l.seq = some l →
      ∃ t, exec (.waitTimeout md a) s = .next t ∧
        (getTok t md).waits = (getTok s md).waits.erase w ∧ fget t md 0 Fl.TOK_ERR_STATUS_WAIT_TIMEOUT = 1 ∧
        (findLaunch t l.ctx l.seq).map (·.errs) = some (l.errs ++ [(0x0122, tokenDetail w.token i st)]) ∧ SameMem s t) ∧
  (∀ (d e i p : Nat) (l : Launch) (x : Slot) (s : State),
      slotOf s d e = some (l, i, x) →
      l.phase = .running →
      x.hold = .run →
      x.finished = false →
      x.ops[x.pos]? = some (.phaseAnnounce p) →
      ∃ t, exec (.phaseAnnounce d e) s = .next t ∧
        (slotOf t d e).map (fun p => p.2.2) = some x.advance ∧ getEng t d e = { getEng s d e with announced := some p } ∧ EnginesBut s t d e ∧ t.tok = s.tok ∧ SameMem s t) ∧
  (∀ (d e p : Nat) (s : State),
      (getEng s d e).announced = some p →
      ∃ t, exec (.phaseAnnounceLapse d e) s = .next t ∧
        getEng t d e = { getEng s d e with announced := none } ∧ EnginesBut s t d e ∧ t.launches = s.launches ∧ SameMem s t) ∧
  (∀ (d e i p : Nat) (m : PhaseMeas) (l : Launch) (x : Slot) (s : State),
      slotOf s d e = some (l, i, x) →
      l.phase = .running →
      x.hold = .run →
      x.finished = false →
      x.ops[x.pos]? = some (.phaseBegin p) →
      ∃ t, exec (.phaseBegin d e m) s = .next t ∧
        (slotOf t d e).map (fun p => p.2.2) = some x.advance ∧ (getEng t d e).phase = some p ∧ (getEng t d e).announced ≠ some p ∧ EnginesBut s t d e ∧ t.tok = s.tok ∧ SameMem s t)

/-- WLOAD of a running slot whose operand reads without an invalid scale word makes it the engine's shadow operand and passes, and changes no other engine, register, token unit or memory. GEOMETRY sets the geometry, leaves both operand register sets empty and passes. WLOAD that meets an uncorrected error of the operand store leaves the shadow operand and memory as they were, sets ERR_STATUS.OS_UE, stops the slot and ends its launch with 0x0F32. Completes, under hypotheses on the state and the operands alone: WLOAD, GEOMETRY. -/
def Obligations.OperandLoads : Prop :=
  (∀ (d e i fm bl gr ro co : Nat) (sr sa : EAddr) (w : Tile) (l : Launch) (x : Slot) (s : State),
      slotOf s d e = some (l, i, x) →
      l.phase = .running →
      x.hold = .run →
      x.finished = false →
      x.ops[x.pos]? = some (.wload sr sa fm bl gr ro co) →
      readOperand s d e (eaddr x.cursors sr) (eaddr x.cursors sa) fm bl gr ro co (if (getEng s d e).ribbon then ro else co)
        (!(getEng s d e).ribbon) = some w →
      ∃ t, exec (.wload d e .none) s = .next t ∧
        (slotOf t d e).map (fun p => p.2.2) = some x.advance ∧ getEng t d e = { getEng s d e with shadow := some w } ∧ EnginesBut s t d e ∧ t.tok = s.tok ∧ t.regs = s.regs ∧ SameMem s t) ∧
  (∀ (d e i : Nat) (r : Bool) (l : Launch) (x : Slot) (s : State),
      slotOf s d e = some (l, i, x) →
      l.phase = .running →
      x.hold = .run →
      x.finished = false →
      x.ops[x.pos]? = some (.geometry r) →
      ∃ t, exec (.geometry d e) s = .next t ∧
        (slotOf t d e).map (fun p => p.2.2) = some x.advance ∧ getEng t d e = { getEng s d e with ribbon := r, shadow := none, active := none } ∧
        fget t d e Fl.ENG_STATUS_GEOMETRY = b2n r ∧ EnginesBut s t d e ∧ RegsBut s t [regKey d .engStatus e] ∧ SameMem s t) ∧
  (∀ (d e i fm bl gr ro co : Nat) (sr sa : EAddr) (l : Launch) (x : Slot) (s : State),
      slotOf s d e = some (l, i, x) →
      l.phase = .running →
      x.hold = .run →
      x.finished = false →
      x.ops[x.pos]? = some (.wload sr sa fm bl gr ro co) →
      ∃ t, exec (.wload d e .osUe) s = .next t ∧
        (slotOf t d e).map (fun p => p.2.2) = some { x with hold := .stopped } ∧ fget t d e Fl.ENG_ERR_STATUS_OS_UE = 1 ∧
        (findLaunch t l.ctx l.seq).map (·.errs) = some (l.errs ++ [(0x0F32, engDetail d e i)]) ∧
        (getEng t d e).shadow = (getEng s d e).shadow ∧ SameMem s t)

/-- MATMUL and RIBBON with a loaded shadow operand, for every format, with or without ADD, inside a rewind region or outside, where the operand read from the operand store has no invalid scale word: the slot passes, the shadow operand becomes active, and no operand-store byte outside the output range changes. An overwriting integer MATMUL outside a rewind region leaves, in the entry of activation row r and weight column c, the low 32 bits of the sum of the products of row r's codes with column c's codes. With no shadow operand, an overwriting integer MATMUL or RIBBON outside a rewind region passes, and every entry of its first row is 0. None of them changes memory, near store or another engine. Completes, under hypotheses on the state and the operands alone: MATMUL, RIBBON. -/
def Obligations.IntegerMatmulIsDotProduct : Prop :=
  (∀ (d e i fm bl gr m r c : Nat) (sr sa ac : EAddr) (w a : Tile) (ra wc : List Int) (l : Launch) (x : Slot) (s : State),
      slotOf s d e = some (l, i, x) →
      l.phase = .running →
      x.hold = .run →
      x.finished = false →
      x.ops[x.pos]? = some (.matmul false sr ac sa fm bl gr m) →
      (getEng s d e).shadow = some w →
      (getEng s d e).region = none →
      s.ostore.wf = true →
      Config.bankBytes ≤ eaddr x.cursors ac →
      w.cols ≤ width s d e →
      readOperand s d e (eaddr x.cursors sr) (eaddr x.cursors sa) fm bl gr m w.rows m false = some a →
      isIntFmt fm = true →
      (tileInts a)[r]? = some ra →
      (transposeCodes 0 w.cols (tileInts w))[c]? = some wc →
      ∃ t, exec (.matmul d e .none) s = .next t ∧
        (slotOf t d e).map (fun p => p.2.2) = some x.advance ∧ (getEng t d e).active = some w ∧ EnginesBut s t d e ∧ t.mem = s.mem ∧ t.near = s.near ∧
        elWord t d e (eaddr x.cursors ac + 4 * (r * width s d e + c)) = low32 (((List.zip ra wc).map fun p => p.1 * p.2).sum)) ∧
  (∀ (d e i fm bl gr m : Nat) (ad : Bool) (sr sa ac : EAddr) (w a : Tile) (l : Launch) (x : Slot) (s : State),
      slotOf s d e = some (l, i, x) →
      l.phase = .running →
      x.hold = .run →
      x.finished = false →
      x.ops[x.pos]? = some (.matmul ad sr ac sa fm bl gr m) →
      (getEng s d e).shadow = some w →
      s.ostore.wf = true →
      Config.bankBytes ≤ eaddr x.cursors ac →
      readOperand s d e (eaddr x.cursors sr) (eaddr x.cursors sa) fm bl gr m w.rows m false = some a →
      ∃ t, exec (.matmul d e .none) s = .next t ∧
        (slotOf t d e).map (fun p => p.2.2) = some x.advance ∧ (getEng t d e).active = some w ∧ EnginesBut s t d e ∧ t.mem = s.mem ∧ t.near = s.near ∧ t.tok = s.tok ∧
        ∀ k, k < osKey d e (eaddr x.cursors ac - Config.bankBytes) ∨
          osKey d e (eaddr x.cursors ac - Config.bankBytes) + 4 * (m * width s d e + w.cols) ≤ k → memRead t.ostore k = memRead s.ostore k) ∧
  (∀ (d e i fm bl gr n : Nat) (ad : Bool) (sr sa ac : EAddr) (a w : Tile) (l : Launch) (x : Slot) (s : State),
      slotOf s d e = some (l, i, x) →
      l.phase = .running →
      x.hold = .run →
      x.finished = false →
      x.ops[x.pos]? = some (.ribbon ad sr ac sa fm bl gr n) →
      (getEng s d e).shadow = some a →
      s.ostore.wf = true →
      Config.bankBytes ≤ eaddr x.cursors ac →
      readOperand s d e (eaddr x.cursors sr) (eaddr x.cursors sa) fm bl gr n a.cols n false = some w →
      ∃ t, exec (.ribbon d e .none) s = .next t ∧
        (slotOf t d e).map (fun p => p.2.2) = some x.advance ∧ (getEng t d e).active = some a ∧ EnginesBut s t d e ∧ t.mem = s.mem ∧ t.near = s.near ∧ t.tok = s.tok ∧
        ∀ k, k < osKey d e (eaddr x.cursors ac - Config.bankBytes) ∨
          osKey d e (eaddr x.cursors ac - Config.bankBytes) + 4 * (a.codes.length * n + n) ≤ k → memRead t.ostore k = memRead s.ostore k) ∧
  (∀ (d e i fm bl gr m c : Nat) (sr sa ac : EAddr) (l : Launch) (x : Slot) (s : State),
      slotOf s d e = some (l, i, x) →
      l.phase = .running →
      x.hold = .run →
      x.finished = false →
      x.ops[x.pos]? = some (.matmul false sr ac sa fm bl gr m) →
      (getEng s d e).shadow = none →
      (getEng s d e).region = none →
      s.ostore.wf = true →
      Config.bankBytes ≤ eaddr x.cursors ac →
      isIntFmt fm = true →
      0 < m →
      c < width s d e →
      ∃ t, exec (.matmul d e .none) s = .next t ∧
        (slotOf t d e).map (fun p => p.2.2) = some x.advance ∧ EnginesBut s t d e ∧ t.mem = s.mem ∧ t.near = s.near ∧ elWord t d e (eaddr x.cursors ac + 4 * c) = 0) ∧
  (∀ (d e i fm bl gr n c : Nat) (sr sa ac : EAddr) (l : Launch) (x : Slot) (s : State),
      slotOf s d e = some (l, i, x) →
      l.phase = .running →
      x.hold = .run →
      x.finished = false →
      x.ops[x.pos]? = some (.ribbon false sr ac sa fm bl gr n) →
      (getEng s d e).shadow = none →
      (getEng s d e).region = none →
      s.ostore.wf = true →
      Config.bankBytes ≤ eaddr x.cursors ac →
      isIntFmt fm = true →
      c < n →
      ∃ t, exec (.ribbon d e .none) s = .next t ∧
        (slotOf t d e).map (fun p => p.2.2) = some x.advance ∧ EnginesBut s t d e ∧ t.mem = s.mem ∧ t.near = s.near ∧ elWord t d e (eaddr x.cursors ac + 4 * c) = 0)

/-- VECTOR of any operation on any number of vectors passes, and changes no device memory, register, token unit or other engine, and, where its destination lies in one storage, no byte of near store or of the operand stores outside its destination. VECTOR with VOP 0 on one vector leaves there, lane by lane, the binary32 sums of its operands, rounded once. REDUCE of any function passes, and changes no memory, register, token unit, other engine or other reduction accumulator; without CLEAR, an accumulator that holds NaN holds NaN after it. REDUCE_READ with POST 0 and FMT64 leaves the accumulator's binary64 value at its destination, and changes no other byte of storage, no accumulator, device memory, register or token unit. REDUCE_READ of any form is runReduceRead followed by the slot's advance. Completes, under hypotheses on the state and the operands alone: VECTOR, REDUCE, REDUCE_READ. -/
def Obligations.VectorAndReduceOps : Prop :=
  (∀ (d e i idx : Nat) (ds a b : EAddr) (l : Launch) (x : Slot) (s : State),
      slotOf s d e = some (l, i, x) →
      l.phase = .running →
      x.hold = .run →
      x.finished = false →
      x.ops[x.pos]? = some (.vector ds a b idx 0 0 1) →
      l.fog = [] →
      s.near.wf = true →
      s.ostore.wf = true →
      ∃ t, exec (.vector d e .none) s = .next t ∧
        (slotOf t d e).map (fun p => p.2.2) = some x.advance ∧ t.mem = s.mem ∧ StoreBut s t d e (eaddr x.cursors ds) 256 ∧ EnginesBut s t d e ∧ t.tok = s.tok ∧ t.regs = s.regs ∧
        elRead t d e (eaddr x.cursors ds) 256 = packRow 32 ((List.range 64).map fun j =>
          f32.enc ((f32.decode ((readLanes s d e (eaddr x.cursors a) 4).getD j 0)).add
            (f32.decode ((readLanes s d e (eaddr x.cursors b) 4).getD j 0))))) ∧
  (∀ (d e i idx vop bm n : Nat) (ds a b : EAddr) (l : Launch) (x : Slot) (s : State),
      slotOf s d e = some (l, i, x) →
      l.phase = .running →
      x.hold = .run →
      x.finished = false →
      x.ops[x.pos]? = some (.vector ds a b idx vop bm n) →
      ∃ t, exec (.vector d e .none) s = .next t ∧
        (slotOf t d e).map (fun p => p.2.2) = some x.advance ∧ t.mem = s.mem ∧ t.regs = s.regs ∧ t.tok = s.tok ∧ EnginesBut s t d e) ∧
  (∀ (d e i idx vop bm n : Nat) (ds a b : EAddr) (l : Launch) (x : Slot) (s : State),
      slotOf s d e = some (l, i, x) →
      l.phase = .running →
      x.hold = .run →
      x.finished = false →
      x.ops[x.pos]? = some (.vector ds a b idx vop bm n) →
      s.near.wf = true →
      s.ostore.wf = true →
      eaddr x.cursors ds + (if vop = 11 ∨ vop = 12 then 128 * n else 256 * n) ≤ Config.bankBytes ∨ Config.bankBytes ≤ eaddr x.cursors ds →
      ∃ t, exec (.vector d e .none) s = .next t ∧
        (slotOf t d e).map (fun p => p.2.2) = some x.advance ∧ StoreBut s t d e (eaddr x.cursors ds) (if vop = 11 ∨ vop = 12 then 128 * n else 256 * n)) ∧
  (∀ (d e i ac fu n la : Nat) (cl : Bool) (sr : EAddr) (l : Launch) (x : Slot) (s : State),
      slotOf s d e = some (l, i, x) →
      l.phase = .running →
      x.hold = .run →
      x.finished = false →
      x.ops[x.pos]? = some (.reduce cl sr ac fu n la) →
      ∃ t, exec (.reduce d e .none) s = .next t ∧
        (slotOf t d e).map (fun p => p.2.2) = some x.advance ∧ SameMem s t ∧ t.regs = s.regs ∧ t.tok = s.tok ∧ EnginesBut s t d e ∧
        ∀ k < 8, k = ac ∨ (getEng t d e).redAcc.getD k 0 = (getEng s d e).redAcc.getD k 0) ∧
  (∀ (d e i ac fu n la : Nat) (sr : EAddr) (l : Launch) (x : Slot) (s : State),
      slotOf s d e = some (l, i, x) →
      l.phase = .running →
      x.hold = .run →
      x.finished = false →
      x.ops[x.pos]? = some (.reduce false sr ac fu n la) →
      (f64.decode ((getEng s d e).redAcc.getD ac 0).toNat).isNan = true →
      ac < (getEng s d e).redAcc.length →
      ∃ t, exec (.reduce d e .none) s = .next t ∧
        (slotOf t d e).map (fun p => p.2.2) = some x.advance ∧ (f64.decode ((getEng t d e).redAcc.getD ac 0).toNat).isNan = true ∧
        (∀ k < 8, k = ac ∨ (getEng t d e).redAcc.getD k 0 = (getEng s d e).redAcc.getD k 0) ∧ SameMem s t ∧ t.regs = s.regs ∧ EnginesBut s t d e) ∧
  (∀ (d e i a b n : Nat) (ds : EAddr) (l : Launch) (x : Slot) (s : State),
      slotOf s d e = some (l, i, x) →
      l.phase = .running →
      x.hold = .run →
      x.finished = false →
      x.ops[x.pos]? = some (.reduceRead ds a b 0 true n) →
      l.fog = [] →
      s.near.wf = true →
      s.ostore.wf = true →
      ∃ t, exec (.reduceRead d e) s = .next t ∧
        (slotOf t d e).map (fun p => p.2.2) = some x.advance ∧ (getEng t d e).redAcc = (getEng s d e).redAcc ∧ t.mem = s.mem ∧ StoreBut s t d e (eaddr x.cursors ds) 8 ∧ EnginesBut s t d e ∧ t.tok = s.tok ∧ t.regs = s.regs ∧
        elRead t d e (eaddr x.cursors ds) 8 = leBytes 8 (f64.encode (f64.decode ((getEng s d e).redAcc.getD a 0).toNat))) ∧
  (∀ (d e i a b post n : Nat) (fm : Bool) (ds : EAddr) (l : Launch) (x : Slot) (s : State),
      slotOf s d e = some (l, i, x) →
      l.phase = .running →
      x.hold = .run →
      x.finished = false →
      x.ops[x.pos]? = some (.reduceRead ds a b post fm n) →
      exec (.reduceRead d e) s = .next (advanceAgent (runReduceRead s d e (eaddr x.cursors ds) a b post fm n) (.engine d e)))

/-- A DRAIN that does not close a region passes in every mode and changes no device memory, token unit, context or other engine. Inside a region it changes no near-store or operand-store byte either. Outside a region, where its destination lies in one storage, it changes no byte there but the ones from DST on that its rows and scales take. In PLAIN mode, outside a region, in a launch none of whose near-store writes await an acquire, its packed rows stand at DST after it; inside a region they are appended to the commit buffer with their address. A closing PLAIN drain of a region in which no overflow condition is pending and no injection is armed holds the slot for its commit and changes no memory. REWIND_MARK passes and opens a region with attempt 0, an empty commit buffer and no deferred signal, whose restart is the next op. COMMIT sets COMMITTING and changes at most the storage places that the commit buffer names. COMMIT_COMPLETE leaves no region open, and changes at most those places; where the buffer is one run of bytes within one storage, in a launch none of whose near-store writes await an acquire, they stand there after it. REWIND empties the buffer and the deferred signals, counts the attempt, raises r_out by the largest demand of the causes, and changes no near-store or operand-store byte. REWIND_RESTART continues at the op after the mark. REWIND_REPORT counts one rewind of the launch; one beyond the budget ends the launch with 0x0402. Completes, under hypotheses on the state and the operands alone: DRAIN, REWIND_MARK, COMMIT, COMMIT_COMPLETE, REWIND, REWIND_RESTART, REWIND_REPORT. -/
def Obligations.DrainsAndTheCommitBuffer : Prop :=
  (∀ (d e i of bk sl ro co k : Nat) (cl rw dq pw ax : Bool) (ds ac : EAddr) (l : Launch) (x : Slot) (s : State),
      slotOf s d e = some (l, i, x) →
      l.phase = .running →
      x.hold = .run →
      x.finished = false →
      x.ops[x.pos]? = some (.drain cl rw dq pw ax 0 ds ac of bk sl ro co k) →
      cl = false →
      (getEng s d e).region = none →
      l.fog = [] →
      s.near.wf = true →
      s.ostore.wf = true →
      ∃ t, exec (.drain d e .none) s = .next t ∧
        (slotOf t d e).map (fun p => p.2.2) = some x.advance ∧ t.mem = s.mem ∧ t.tok = s.tok ∧ EnginesBut s t d e ∧ StoreBut s t d e (eaddr x.cursors ds) ((drainPlain of (readRange s d e dq k (eaddr x.cursors ac) (if pw then width s d e else co) ro co)).flatMap fun r => packRow (fmtBits of) r).length ∧
        elRead t d e (eaddr x.cursors ds) ((drainPlain of (readRange s d e dq k (eaddr x.cursors ac) (if pw then width s d e else co) ro co)).flatMap fun r => packRow (fmtBits of) r).length = (drainPlain of (readRange s d e dq k (eaddr x.cursors ac) (if pw then width s d e else co) ro co)).flatMap fun r => packRow (fmtBits of) r) ∧
  (∀ (d e i of bk sl ro co k : Nat) (cl rw dq pw ax : Bool) (ds ac : EAddr) (g : Region) (l : Launch) (x : Slot) (s : State),
      slotOf s d e = some (l, i, x) →
      l.phase = .running →
      x.hold = .run →
      x.finished = false →
      x.ops[x.pos]? = some (.drain cl rw dq pw ax 0 ds ac of bk sl ro co k) →
      cl = false →
      (getEng s d e).region = some g →
      ∃ t, exec (.drain d e .none) s = .next t ∧
        (slotOf t d e).map (fun p => p.2.2) = some x.advance ∧ SameMem s t ∧ t.tok = s.tok ∧ EnginesBut s t d e ∧
        (getEng t d e).region = some { g with buffer := g.buffer ++ [(eaddr x.cursors ds, (drainPlain of (readRange s d e dq k (eaddr x.cursors ac) (if pw then width s d e else co) ro co)).flatMap fun r => packRow (fmtBits of) r)] }) ∧
  (∀ (d e i of bk sl ro co k : Nat) (cl rw dq pw ax : Bool) (ds ac : EAddr) (g : Region) (l : Launch) (x : Slot) (s : State),
      slotOf s d e = some (l, i, x) →
      l.phase = .running →
      x.hold = .run →
      x.finished = false →
      x.ops[x.pos]? = some (.drain cl rw dq pw ax 0 ds ac of bk sl ro co k) →
      cl = true →
      (getEng s d e).region = some g →
      g.pending = false →
      fget s d e Fl.ENG_PHO_TEST_INJECT = 0 →
      ∃ t, exec (.drain d e .none) s = .next t ∧
        (slotOf t d e).map (fun p => p.2.2) = some { x with hold := .decide false } ∧ SameMem s t ∧ EnginesBut s t d e) ∧
  (∀ (d e i mo of bk sl ro co k : Nat) (rw dq pw ax : Bool) (ds ac : EAddr) (l : Launch) (x : Slot) (s : State),
      slotOf s d e = some (l, i, x) →
      l.phase = .running →
      x.hold = .run →
      x.finished = false →
      x.ops[x.pos]? = some (.drain false rw dq pw ax mo ds ac of bk sl ro co k) →
      ∃ t, exec (.drain d e .none) s = .next t ∧
        (slotOf t d e).map (fun p => p.2.2) = some x.advance ∧ t.mem = s.mem ∧ t.tok = s.tok ∧ t.ctxs = s.ctxs ∧ EnginesBut s t d e) ∧
  (∀ (d e i mo of bk sl ro co k : Nat) (rw dq pw ax : Bool) (ds ac : EAddr) (q : Drained) (l : Launch) (x : Slot) (s : State),
      slotOf s d e = some (l, i, x) →
      l.phase = .running →
      x.hold = .run →
      x.finished = false →
      x.ops[x.pos]? = some (.drain false rw dq pw ax mo ds ac of bk sl ro co k) →
      drained s d e l dq pw ax mo (eaddr x.cursors ac) of bk sl ro co k = some q →
      (getEng s d e).region = none →
      s.near.wf = true →
      s.ostore.wf = true →
      eaddr x.cursors ds + drainLen of q ≤ Config.bankBytes ∨ Config.bankBytes ≤ eaddr x.cursors ds →
      ∃ t, exec (.drain d e .none) s = .next t ∧
        (slotOf t d e).map (fun p => p.2.2) = some x.advance ∧ StoreBut s t d e (eaddr x.cursors ds) (drainLen of q)) ∧
  (∀ (d e i mo of bk sl ro co k : Nat) (rw dq pw ax : Bool) (ds ac : EAddr) (g : Region) (l : Launch) (x : Slot) (s : State),
      slotOf s d e = some (l, i, x) →
      l.phase = .running →
      x.hold = .run →
      x.finished = false →
      x.ops[x.pos]? = some (.drain false rw dq pw ax mo ds ac of bk sl ro co k) →
      (getEng s d e).region = some g →
      ∃ t, exec (.drain d e .none) s = .next t ∧
        (slotOf t d e).map (fun p => p.2.2) = some x.advance ∧ SameMem s t) ∧
  (∀ (d e i : Nat) (sm : BitVec 64) (l : Launch) (x : Slot) (s : State),
      slotOf s d e = some (l, i, x) →
      l.phase = .running →
      x.hold = .run →
      x.finished = false →
      x.ops[x.pos]? = some (.rewindMark sm) →
      ∃ t, exec (.rewindMark d e) s = .next t ∧
        (slotOf t d e).map (fun p => p.2.2) = some x.advance ∧ (getEng t d e).region.map (fun g => (g.restart, g.attempt, g.streams)) = some (x.pos + 1, 0, sm) ∧
        (getEng t d e).region.map (fun g => (g.buffer, g.deferred, g.rAcc)) = some ([], [], 0) ∧
        fget t d e Fl.ENG_PHO_STATUS_IN_REGION = 1 ∧ EnginesBut s t d e ∧ SameMem s t) ∧
  (∀ (d e i : Nat) (g : Region) (l : Launch) (x : Slot) (s : State),
      slotOf s d e = some (l, i, x) →
      (getEng s d e).region = some g →
      x.hold = .decide false →
      l.phase = .running →
      ∃ t, exec (.commit d e) s = .next t ∧
        (slotOf t d e).map (fun p => p.2.2) = some { x with hold := .committing } ∧ (∃ w, (getEng t d e).region = some { g with written := w, group := nextGroup s d e }) ∧
        fget t d e Fl.ENG_PHO_STATUS_COMMITTING = 1 ∧ EnginesBut s t d e ∧ t.mem = s.mem) ∧
  (∀ (d e i : Nat) (g : Region) (l : Launch) (x : Slot) (s : State),
      slotOf s d e = some (l, i, x) →
      (getEng s d e).region = some g →
      x.hold = .committing →
      ∃ t, exec (.commitComplete d e) s = .next t ∧
        (getEng t d e).region = none ∧ fget t d e Fl.ENG_PHO_STATUS_IN_REGION = 0 ∧ fget t d e Fl.ENG_PHO_STATUS_COMMITTING = 0 ∧ EnginesBut s t d e ∧ t.mem = s.mem) ∧
  (∀ (d e i : Nat) (g : Region) (l : Launch) (x : Slot) (s : State),
      slotOf s d e = some (l, i, x) →
      (getEng s d e).region = some g →
      x.hold = .decide false →
      l.phase = .running →
      s.near.wf = true →
      s.ostore.wf = true →
      ∃ t, exec (.commit d e) s = .next t ∧
        CellsBut s t d e ((commitCells g.buffer).map (·.1))) ∧
  (∀ (d e i : Nat) (g : Region) (l : Launch) (x : Slot) (s : State),
      slotOf s d e = some (l, i, x) →
      (getEng s d e).region = some g →
      x.hold = .committing →
      s.near.wf = true →
      s.ostore.wf = true →
      ∃ t, exec (.commitComplete d e) s = .next t ∧
        CellsBut s t d e ((commitCells g.buffer).map (·.1))) ∧
  (∀ (d e i a : Nat) (bs : List Byte) (g : Region) (l : Launch) (x : Slot) (s : State),
      slotOf s d e = some (l, i, x) →
      (getEng s d e).region = some g →
      x.hold = .committing →
      g.buffer = [(a, bs)] →
      g.written ≤ a →
      a + bs.length ≤ Config.bankBytes ∨ Config.bankBytes ≤ a →
      a + bs.length ≤ 2 ^ 27 →
      l.fog = [] →
      s.near.wf = true →
      s.ostore.wf = true →
      ∃ t, exec (.commitComplete d e) s = .next t ∧
        elRead t d e a bs.length = bs) ∧
  (∀ (d e i : Nat) (g : Region) (l : Launch) (x : Slot) (s : State),
      slotOf s d e = some (l, i, x) →
      (getEng s d e).region = some g →
      x.hold = .decide true →
      l.phase = .running →
      ∃ t, exec (.rewind d e) s = .next t ∧
        (slotOf t d e).map (fun p => p.2.2) = some { x with hold := .restarting } ∧ t.near = s.near ∧ t.ostore = s.ostore ∧ EnginesBut s t d e ∧
        (getEng t d e).region.map (fun h => (h.restart, h.attempt, h.rOut)) =
          some (g.restart, g.attempt + 1, g.rOut + max g.kCode (max g.kAcc g.kInt)) ∧
        (getEng t d e).region.map (fun h => (h.buffer, h.deferred)) = some ([], [])) ∧
  (∀ (d e i : Nat) (g : Region) (l : Launch) (x : Slot) (s : State),
      slotOf s d e = some (l, i, x) →
      (getEng s d e).region = some g →
      x.hold = .restarting →
      l.phase = .running →
      ∃ t, exec (.rewindRestart d e) s = .next t ∧
        (slotOf t d e).map (fun p => p.2.2) = some { x with pos := g.restart, hold := .run } ∧ t.engines = s.engines ∧ t.regs = s.regs ∧ SameMem s t) ∧
  (∀ (c q : Nat) (l : Launch) (s : State),
      findLaunch s c q = some l →
      l.rewindReports ≠ 0 →
      l.rewinds + 1 ≤ l.budget →
      ∃ t, exec (.rewindReport c q) s = .next t ∧
        findLaunch t c q = some { l with rewindReports := l.rewindReports - 1, rewinds := l.rewinds + 1 } ∧ t.engines = s.engines ∧
        t.regs = s.regs ∧ SameMem s t) ∧
  (∀ (c q : Nat) (l : Launch) (s : State),
      findLaunch s c q = some l →
      l.rewindReports ≠ 0 →
      l.budget < l.rewinds + 1 →
      ∃ t, exec (.rewindReport c q) s = .next t ∧
        (findLaunch t c q).map (·.errs) = some (l.errs ++ [(0x0402, BitVec.ofNat 64 (l.rewinds + 1))]) ∧ SameMem s t)

/-- RC_LOAD of one line from a binding at a line boundary, whose translation is at hand: where the cache holds the line and the engine is owed no other, its data stand at DST after it, no other byte of storage and no line of the cache changes, and the slot passes; where neither the cache nor a fill has the line, a fill is asked for and the slot waits. RC_LOAD of any number of lines whose translations are at hand and none of which stops the engine carries out its lines in turn, and then passes, or waits where the engine is owed one. RC_FILL of an outstanding fill of a line without a tag, whose waiting engine's launch has no near-store write that awaits an acquire: where no invalidation has overtaken it, the cache holds what the line's home answered; where one has, the cache is as before and the fill is counted as dropped. RC_INVALIDATE and RDC_INVALIDATE start an invalidation; while START is 1 the second has no effect; when the register's takes effect the cache is empty, its outstanding fills are stale, DONE is 1 and START 0. ENG_SELFTEST of an engine of ROLE 1 that runs no test holds it for the test with START 1 and DONE 0; while a test runs, it sets REJECTED and has no other effect. SELFTEST_DONE without a new failing column, with at most four bad, sets PASS and DONE, and leaves the column map and the role as they were. ENG_PHO_TEST while PLACED is 0 arms the injection; otherwise it sets REJECTED and has no other effect. Completes, under hypotheses on the state and the operands alone: RC_LOAD, RC_FILL, RC_INVALIDATE, RDC_INVALIDATE, READ_CACHE_INVALIDATION_DONE, ENG_SELFTEST, SELFTEST_DONE, ENG_PHO_TEST. -/
def Obligations.ReadCacheCommands : Prop :=
  (∀ (d e i b off tag : Nat) (ds : EAddr) (bd : Binding) (data : List Byte) (l : Launch) (x : Slot) (s u : State),
      slotOf s d e = some (l, i, x) →
      l.phase = .running →
      x.hold = .run →
      x.finished = false →
      x.ops[x.pos]? = some (.rcLoad ds b off 1 none) →
      l.bindings[b]? = some bd →
      bd.va % 64 = 0 →
      l.fog = [] →
      rcLines s (.agent (.engine d e) l.ctx l.seq) d l.ctx (ctxPart s l.ctx) [bd.va + 64 * off] = (.ok [tag], u) →
      slotOf u d e = some (l, i, x) →
      smGet (getRdc u d).lines tag = some data →
      owed u d e = false →
      data.length = 64 →
      u.near.wf = true →
      u.ostore.wf = true →
      ∃ t, exec (.rcLoad d e []) s = .next t ∧
        (slotOf t d e).map (fun p => p.2.2) = some x.advance ∧ t.mem = u.mem ∧ StoreBut u t d e (eaddr x.cursors ds) 64 ∧ elRead t d e (eaddr x.cursors ds) 64 = data ∧ (getRdc t d).lines = (getRdc u d).lines) ∧
  (∀ (d e i b off tag : Nat) (ds : EAddr) (bd : Binding) (l : Launch) (x : Slot) (s u : State),
      slotOf s d e = some (l, i, x) →
      l.phase = .running →
      x.hold = .run →
      x.finished = false →
      x.ops[x.pos]? = some (.rcLoad ds b off 1 none) →
      l.bindings[b]? = some bd →
      bd.va % 64 = 0 →
      rcLines s (.agent (.engine d e) l.ctx l.seq) d l.ctx (ctxPart s l.ctx) [bd.va + 64 * off] = (.ok [tag], u) →
      slotOf u d e = some (l, i, x) →
      tag < 2 ^ 60 →
      smGet (getRdc u d).lines tag = none →
      (getRdc u d).fills.any (fun f => f.line == tag) = false →
      ∃ t, exec (.rcLoad d e []) s = .next t ∧
        (slotOf t d e).map (fun p => p.2.2) = some { x with hold := .fill } ∧ SameMem u t ∧
        (getRdc t d).fills = (getRdc u d).fills ++ [⟨tag, false, [⟨e, eaddr x.cursors ds, 0, 64⟩], none⟩]) ∧
  (∀ (d line : Nat) (f : Fill) (bs : List Byte) (s u : State),
      (getRdc s d).fills.find? (fun f => f.line == line) = some f →
      line < 2 ^ 60 →
      f.tag = none →
      f.stale = false →
      ncFetch s line 64 = (some bs, u) →
      (f.wants.head?.bind fun w => slotOf u d w.eng).all (fun p => p.1.fog.isEmpty) = true →
      ∃ t, exec (.rcFill d line) s = .next t ∧
        smGet (getRdc t d).lines line = some bs ∧ (getRdc t d).fills = (getRdc s d).fills.erase f ∧ t.mem = u.mem) ∧
  (∀ (d line : Nat) (f : Fill) (bs : List Byte) (s u : State),
      (getRdc s d).fills.find? (fun f => f.line == line) = some f →
      line < 2 ^ 60 →
      f.tag = none →
      f.stale = true →
      ncFetch s line 64 = (some bs, u) →
      (f.wants.head?.bind fun w => slotOf u d w.eng).all (fun p => p.1.fog.isEmpty) = true →
      ∃ t, exec (.rcFill d line) s = .next t ∧
        (getRdc t d).lines = (getRdc s d).lines ∧ (getRdc t d).fills = (getRdc s d).fills.erase f ∧ t.mem = u.mem ∧
        fget t d 0 Fl.RDC_FILLS_DROPPED_COUNT = min (fget u d 0 Fl.RDC_FILLS_DROPPED_COUNT + 1) (2 ^ (Fl.RDC_FILLS_DROPPED_COUNT.hi - Fl.RDC_FILLS_DROPPED_COUNT.lo + 1) - 1)) ∧
  (∀ (d e i : Nat) (l : Launch) (x : Slot) (s : State),
      slotOf s d e = some (l, i, x) →
      l.phase = .running →
      x.hold = .run →
      x.finished = false →
      x.ops[x.pos]? = some (.rcInvalidate) →
      ∃ t, exec (.rcInvalidate d e) s = .next t ∧
        (slotOf t d e).map (fun p => p.2.2) = some { x with hold := .inval } ∧
        getRdc t d = { getRdc s d with invals := (getRdc s d).invals ++ [.op e] } ∧ t.engines = s.engines ∧ SameMem s t) ∧
  (∀ (d : Nat) (s : State),
      windowDead s d = false →
      fget s d 0 Fl.RDC_INVALIDATE_START = 0 →
      ∃ t, exec (.rdcInvalidate d) s = .next t ∧
        fget t d 0 Fl.RDC_INVALIDATE_START = 1 ∧ fget t d 0 Fl.RDC_INVALIDATE_DONE = 0 ∧
        getRdc t d = { getRdc s d with invals := (getRdc s d).invals ++ [.register] } ∧ SameMem s t ∧ RegsBut s t [regKey d .rdcInvalidate 0]) ∧
  (∀ (d : Nat) (s : State),
      windowDead s d = false →
      fget s d 0 Fl.RDC_INVALIDATE_START = 1 →
      exec (.rdcInvalidate d) s = .next (s)) ∧
  (∀ (d : Nat) (r : List InvalBy) (s : State),
      (getRdc s d).invals = .register :: r →
      ∃ t, exec (.readCacheInvalidationDone d) s = .next t ∧
        (getRdc t d).lines = [] ∧ (getRdc t d).invals = r ∧ (getRdc t d).fills = (getRdc s d).fills.map (fun f => { f with stale := true }) ∧
        fget t d 0 Fl.RDC_INVALIDATE_DONE = 1 ∧ fget t d 0 Fl.RDC_INVALIDATE_START = 0 ∧ SameMem s t) ∧
  (∀ (d e i b off n : Nat) (er : List (List Ecc)) (ds : EAddr) (bd : Binding) (l : Launch) (x : Slot) (tags : List Nat) (s u v : State),
      slotOf s d e = some (l, i, x) →
      l.phase = .running →
      x.hold = .run →
      x.finished = false →
      x.ops[x.pos]? = some (.rcLoad ds b off n none) →
      l.bindings[b]? = some bd →
      (rcLines s (.agent (.engine d e) l.ctx l.seq) d l.ctx (ctxPart s l.ctx) ((rcParts e (eaddr x.cursors ds) (bd.va + 64 * off) n).map (·.1))) = (.ok tags, u) →
      v = (List.zip tags ((rcParts e (eaddr x.cursors ds) (bd.va + 64 * off) n).map (·.2))).zipIdx.foldl (fun s t => rcLine s d t.1.1 t.1.2 (.agent (.engine d e) l.ctx l.seq) ((er[t.2]?).getD [])) (touchRange u l.ctx (pageChunks (bd.va + 64 * off) (64 * n))) →
      (agentAt v (.engine d e)).elim false (fun x => x.2.2.2 == .stopped) = false →
      exec (.rcLoad d e er) s = .next (if owed v d e then holdAgent v (.engine d e) .fill else advanceAgent v (.engine d e))) ∧
  (∀ (d e : Nat) (s : State),
      windowDead s d = false →
      (getEng s d e).testing = false →
      fget s d e Fl.ENG_STATUS_ROLE = 1 →
      ∃ t, exec (.engSelftest d e) s = .next t ∧
        getEng t d e = { getEng s d e with testing := true } ∧ fget t d e Fl.ENG_SELFTEST_START = 1 ∧ fget t d e Fl.ENG_SELFTEST_REJECTED = 0 ∧
        fget t d e Fl.ENG_SELFTEST_DONE = 0 ∧ EnginesBut s t d e ∧ SameMem s t) ∧
  (∀ (d e : Nat) (s : State),
      windowDead s d = false →
      (getEng s d e).testing = true →
      exec (.engSelftest d e) s = .next (fput s d e Fl.ENG_SELFTEST_REJECTED 1)) ∧
  (∀ (d e : Nat) (s : State),
      (getEng s d e).testing = true →
      popcount (colmap s d e) 128 ≤ 4 →
      ∃ t, exec (.selftestDone d e 0) s = .next t ∧
        getEng t d e = { getEng s d e with testing := false } ∧ fget t d e Fl.ENG_SELFTEST_START = 0 ∧ fget t d e Fl.ENG_SELFTEST_DONE = 1 ∧
        fget t d e Fl.ENG_SELFTEST_PASS = 1 ∧ fget t d e Fl.ENG_SELFTEST_NEW_BAD = 0 ∧ colmap t d e = colmap s d e ∧
        fget t d e Fl.ENG_STATUS_ROLE = fget s d e Fl.ENG_STATUS_ROLE ∧ EnginesBut s t d e ∧ SameMem s t) ∧
  (∀ (d e : Nat) (s : State),
      windowDead s d = false →
      fget s d e Fl.ENG_STATUS_PLACED = 0 →
      ∃ t, exec (.engPhoTest d e) s = .next t ∧
        fget t d e Fl.ENG_PHO_TEST_INJECT = 1 ∧ fget t d e Fl.ENG_PHO_TEST_REJECTED = 0 ∧ t.engines = s.engines ∧
        RegsBut s t [regKey d .engPhoTest e] ∧ SameMem s t) ∧
  (∀ (d e : Nat) (s : State),
      windowDead s d = false →
      fget s d e Fl.ENG_STATUS_PLACED ≠ 0 →
      exec (.engPhoTest d e) s = .next (fput s d e Fl.ENG_PHO_TEST_REJECTED 1))

/-- LAUNCH of a fetched launch without an AMAX binding, in a context whose FAULT_MODE is 0 or whose pages are all pinned, goes on to the check of its tiers. Where FAULT_MODE is 0 and the launch has no bindings, scale slots, streams, tokens or errors, no launch reserves engines, its near-store need is within its quota and the placement rule chooses engines for every slot, the launch is prepared, each chosen engine holds its slot and has no active operand, and no device memory is written. PLACEMENT_RETRY of a partition in which one launch waits tries that launch: it does the same where the placement rule chooses; it changes nothing where the rule finds no engines that are free and would find some among all; and where the streams too are assigned, it takes the places and charges the launch. TOKEN_ALLOC_RETRY of a launch without scale slots that waits for tokens prepares it once there is room, and writes no device memory. RESERVATION_TIMEOUT makes a launch that is being placed reserve, and has no effect while RESERVE_US is 0. Completes, under hypotheses on the state and the operands alone: LAUNCH, PLACEMENT_RETRY, TOKEN_ALLOC_RETRY, RESERVATION_TIMEOUT. -/
def Obligations.LaunchPlacement : Prop :=
  (∀ (c q : Nat) (k : Cmd) (a : List (Nat × Cand)) (l : Launch) (s : State),
      runCmd s c q 1 = some k →
      k.denied = none →
      findLaunch s c q = some l →
      l.phase = .fetching →
      l.amaxBinding = none →
      fldOf Fl.QFE_CTX_ROOT_FAULT_MODE (getCtx s c).root = 0 →
      l.bindings = [] →
      l.scales = [] →
      l.streams = [] →
      l.tokens = [] →
      l.errs = [] →
      (∀ o ∈ s.launches, o.reserving = false) →
      (getCtx s l.ctx).used.getD 4 0 + l.totalGranules ≤ (getCtx s l.ctx).quota.getD 4 0 →
      (a.map fun p => engKey p.2.1 p.2.2.1).Nodup →
      placeSlots (partDies s (ctxPart s c)) (candidates s l (ctxPart s c) false) l.slots = .ok a →
      ∃ t, exec (.launch c q) s = .next t ∧
        (findLaunch t l.ctx l.seq).map (·.phase) = some .preparing ∧ t.mem = s.mem ∧
        ∀ p ∈ a, (getEng t p.2.1 p.2.2.1).placed = some (l.ctx, l.seq, p.1) ∧ (getEng t p.2.1 p.2.2.1).active = none) ∧
  (∀ (part : Nat) (a : List (Nat × Cand)) (l : Launch) (s : State),
      waitingLaunches s part = [l] →
      findLaunch s l.ctx l.seq = some l →
      ctxPart s l.ctx = part →
      l.scales = [] →
      l.streams = [] →
      l.tokens = [] →
      l.errs = [] →
      (∀ o ∈ s.launches, o.reserving = false) →
      (getCtx s l.ctx).used.getD 4 0 + l.totalGranules ≤ (getCtx s l.ctx).quota.getD 4 0 →
      (a.map fun p => engKey p.2.1 p.2.2.1).Nodup →
      placeSlots (partDies s part) (candidates s l part false) l.slots = .ok a →
      ∃ t, exec (.placementRetry part) s = .next t ∧
        (findLaunch t l.ctx l.seq).map (·.phase) = some .preparing ∧ t.mem = s.mem ∧
        ∀ p ∈ a, (getEng t p.2.1 p.2.2.1).placed = some (l.ctx, l.seq, p.1) ∧ (getEng t p.2.1 p.2.2.1).active = none) ∧
  (∀ (part i : Nat) (a : List (Nat × Cand)) (l : Launch) (s : State),
      waitingLaunches s part = [l] →
      findLaunch s l.ctx l.seq = some l →
      ctxPart s l.ctx = part →
      placeSlots (partDies s part) (candidates s l part false) l.slots = .error i →
      placeSlots (partDies s part) (candidates s l part true) l.slots = .ok a →
      exec (.placementRetry part) s = .next (s)) ∧
  (∀ (c q : Nat) (l : Launch) (s u : State),
      findLaunch s c q = some l →
      l.phase = .tokens →
      allocTokens s l = some u →
      l.scales = [] →
      ∃ t, exec (.tokenAllocRetry c q) s = .next t ∧
        (findLaunch t c q).map (·.phase) = some .preparing ∧ t.mem = s.mem) ∧
  (∀ (c q : Nat) (l : Launch) (s : State),
      findLaunch s c q = some l →
      l.phase = .placing →
      fget s (ctxHub c) 0 Fl.QFE_ARB_RESERVE_US ≠ 0 →
      exec (.reservationTimeout c q) s = .next (modLaunch s c q fun y => { y with reserving := true })) ∧
  (∀ (c q : Nat) (s : State),
      fget s (ctxHub c) 0 Fl.QFE_ARB_RESERVE_US = 0 →
      exec (.reservationTimeout c q) s = .next (s)) ∧
  (∀ (c q : Nat) (k : Cmd) (l : Launch) (s : State),
      runCmd s c q 1 = some k →
      k.denied = none →
      findLaunch s c q = some l →
      l.phase = .fetching →
      l.amaxBinding = none →
      fldOf Fl.QFE_CTX_ROOT_FAULT_MODE (getCtx s l.ctx).root = 0 ∨ firstUnpinned s l = none →
      exec (.launch c q) s = .next (checkTiers s l)) ∧
  (∀ (part : Nat) (l : Launch) (s : State),
      waitingLaunches s part = [l] →
      findLaunch s l.ctx l.seq = some l →
      exec (.placementRetry part) s = .next (tryPlace s l)) ∧
  (∀ (part : Nat) (a : List (Nat × Cand)) (xs : List (Nat × Nat × Nat)) (l y : Launch) (s : State),
      waitingLaunches s part = [l] →
      findLaunch s l.ctx l.seq = some l →
      ctxPart s l.ctx = part →
      placeSlots (partDies s part) (candidates s l part false) l.slots = .ok a →
      assignStreams s l (partHubs s part) l.streams.length (busyStreams s) = some xs →
      findLaunch (takePlaces s l a xs) l.ctx l.seq = some y →
      exec (.placementRetry part) s = .next (chargeLaunch (takePlaces s l a xs) y))

/-- LAUNCH_START of a prepared launch that declares no placement report, and whose command has not been denied, makes it run with its context's root and changes no context, engine, near-store or operand-store byte; where it declares one that can be written, it is written and then the launch starts; a launch in any other phase is left as it is. LAUNCH_ERROR of a running launch ends it with the first error reported, its status and detail, and stops every slot; of a launch that has ended it changes nothing. LAUNCH_END of a launch that may end runs its records' steps; of a launch without scale slots it removes the launch and its command, advances the count of completion records by one and releases its engines; of one whose records are all written it finishes the launch; of one that may not end and writes no records it changes nothing. Completes, under hypotheses on the state and the operands alone: LAUNCH_START, LAUNCH_ERROR, LAUNCH_END. -/
def Obligations.LaunchStartsErrsAndEnds : Prop :=
  (∀ (c q : Nat) (l : Launch) (s : State),
      findLaunch s c q = some l →
      l.phase = .preparing →
      l.reportBinding = none →
      (getCmd s c q).bind (·.denied) = none →
      ∃ t, exec (.launchStart c q) s = .next t ∧
        findLaunch t c q = some { l with phase := .running, root := (getCtx s c).root } ∧ t.engines = s.engines ∧ t.near = s.near ∧ t.ostore = s.ostore ∧ t.ctxs = s.ctxs) ∧
  (∀ (c q : Nat) (l : Launch) (s : State),
      findLaunch s c q = some l →
      l.phase ≠ .preparing →
      exec (.launchStart c q) s = .next (s)) ∧
  (∀ (c q st : Nat) (d : BitVec 64) (r : List (Nat × BitVec 64)) (l : Launch) (s : State),
      findLaunch s c q = some l →
      l.phase = .running →
      l.errs = (st, d) :: r →
      ∃ t, exec (.launchError c q) s = .next t ∧
        (findLaunch t c q).map (fun y => (y.phase, y.status, y.detail)) = some (.ended, st, d) ∧
        (findLaunch t c q).map (·.slots) = some (l.slots.map stopSlot) ∧ t.ctxs = s.ctxs) ∧
  (∀ (c q : Nat) (l : Launch) (s : State),
      findLaunch s c q = some l →
      l.phase = .ended →
      exec (.launchError c q) s = .next (s)) ∧
  (∀ (c q : Nat) (k : Cmd) (l : Launch) (s : State),
      findLaunch s c q = some l →
      getCmd s c q = some k →
      mayEnd s l = true →
      l.scales = [] →
      ∃ t, exec (.launchEnd c q) s = .next t ∧
        findLaunch t c q = none ∧ getCmd t c q = none ∧ (getCtx t c).cplTail = ((getCtx s c).cplTail + 1) % 2 ^ 32 ∧
        ∀ x ∈ l.slots, ∀ p ∈ x.at_, (getEng t p.1 p.2).placed = none) ∧
  (∀ (c q : Nat) (l : Launch) (s : State),
      findLaunch s c q = some l →
      mayEnd s l = false →
      l.phase ≠ .recording →
      exec (.launchEnd c q) s = .next (s)) ∧
  (∀ (c q b : Nat) (l : Launch) (s : State),
      findLaunch s c q = some l →
      l.phase = .preparing →
      (getCmd s c q).bind (·.denied) = none →
      l.reportBinding = some b →
      (writeVa s (.cmd c q) c (bindAt l b).va (reportBytes s l)).1 = .ok () →
      exec (.launchStart c q) s = .next (startLaunch (writeVa s (.cmd c q) c (bindAt l b).va (reportBytes s l)).2 l)) ∧
  (∀ (c q : Nat) (l : Launch) (s : State),
      findLaunch s c q = some l →
      l.phase ≠ .recording →
      mayEnd s l = true →
      exec (.launchEnd c q) s = .next (recordSteps c q (l.scales.length + 1) (beginRecords s l))) ∧
  (∀ (c q : Nat) (l : Launch) (s : State),
      findLaunch s c q = some l →
      l.phase = .recording →
      l.scales.length ≤ l.recDone →
      exec (.launchEnd c q) s = .next (finishLaunch s l))

/-- MOVE of a running stream with nothing to reissue, whose next word is a MOVE that its window and staging allow and that lends nothing: the move joins the window with its offsets resolved, the stream passes the word, FND_MOVES counts one, and no memory, token unit or engine changes. MOVE_DONE of the oldest move, from near store to near store of one slot without a transform, with elements of 8 bits and unpaired, in a launch none of whose near-store writes await an acquire: the destination holds what the source held, the move leaves the window, and no device memory, operand-store byte, token unit or engine changes. MOVE_DONE of any oldest move that may lend its pages and whose job runs to its end counts the bytes and the move, drops it from the window and signals its token where it names one. LEND_RETRY of an oldest move whose pages can be lent lends them; of a next move that lends one page whose LEND_COUNT is below 255, with an empty window, raises that count by 1, issues the move and changes no memory. MARK_ARRIVAL adds the mark to the stream's and takes it off the moves it has issued and those to reissue, and changes no register or memory. CANCELLATION takes the moves issued after the mark out of the window, puts them before the moves to reissue in their order, leaves every other move in the window, and changes no token unit or engine. Completes, under hypotheses on the state and the operands alone: MOVE, MOVE_DONE, LEND_RETRY, MARK_ARRIVAL, CANCELLATION. -/
def Obligations.MovesIssueAndComplete : Prop :=
  (∀ (h f c i : Nat) (w : MoveWord) (l : Launch) (y : Stream) (s : State),
      streamOf s h f c = some (l, i, y) →
      l.phase = .running →
      y.hold = .run →
      y.finished = false →
      y.reissue = [] →
      y.blocked = false →
      y.words[y.pos]? = some (.move w) →
      mayIssue y (newMove l y w) = true →
      lending l w = false →
      ∃ t, exec (.move h f c) s = .next t ∧
        (streamOf t h f c).map (fun p => p.2.2) = some { y.advance with window := y.window ++
          [{ newMove l y w with lent := w.transform != 3 }] } ∧ SameMem s t ∧ t.tok = s.tok ∧ t.engines = s.engines ∧
        fget t h 0 Fl.FND_MOVES_ISSUED = min (fget s h 0 Fl.FND_MOVES_ISSUED + 1) (2 ^ (Fl.FND_MOVES_ISSUED.hi - Fl.FND_MOVES_ISSUED.lo + 1) - 1)) ∧
  (∀ (h f c i d e : Nat) (m : Move) (ms : List Move) (bs : List Byte) (l : Launch) (y : Stream) (s : State),
      streamOf s h f c = some (l, i, y) →
      l.phase = .running →
      y.hold ≠ .stopped →
      y.window = m :: ms →
      m.stalled = false →
      m.ended = false →
      l.fog = [] →
      m.word.srcNs = true →
      m.word.dstNs = true →
      m.word.srcIndex = m.word.dstIndex →
      (l.slots[m.word.srcIndex]?).bind (·.at_) = some (d, e) →
      m.word.transform = 0 →
      m.word.paired = false →
      m.word.done = none →
      fmtBits m.word.fmt = 8 →
      0 < m.word.rows * m.word.cols →
      m.srcOff + m.word.rows * m.word.cols ≤ Config.bankBytes →
      m.dstOff + (m.word.rows * m.word.cols + 63) / 64 * 64 ≤ Config.bankBytes →
      m.dstOff % 64 = 0 →
      s.near.wf = true →
      memReadN s.near (bankKey d (boundBank s d e) m.srcOff) (m.word.rows * m.word.cols) = bs →
      ∃ t, exec (.moveDone h f c .none) s = .next t ∧
        memReadN t.near (bankKey d (boundBank s d e) m.dstOff) (m.word.rows * m.word.cols) = bs ∧ (streamOf t h f c).map (fun p => p.2.2.window) = some ms ∧
        t.mem = s.mem ∧ t.ostore = s.ostore ∧ t.tok = s.tok ∧ t.engines = s.engines) ∧
  (∀ (h f c i n k : Nat) (e : MoveErr) (m : Move) (ms : List Move) (l : Launch) (y : Stream) (v : State × Bool) (z : State × Option Nat × List (Loc × Nat)) (s u : State),
      streamOf s h f c = some (l, i, y) →
      l.phase = .running →
      y.hold ≠ .stopped →
      y.window = m :: ms →
      m.stalled = false →
      m.ended = false →
      lendMove s (streamReq h f c l) l m = some v →
      moveErr (if v.2 then noteLent v.1 l i else v.1) h (moveJob l m) e = z →
      runJob z.1 (streamReq h f c l) l.ctx (moveJob l m) z.2.1 z.2.2 = (.done n k, u) →
      exec (.moveDone h f c e) s = .next (showFinders (m.word.done.elim (modStream (finishWrites (fsat (countBytes u h n k) h 0 Fl.FND_MOVES_DONE 1) l (.stream h f c) m) l.ctx l.seq i fun y => { y with window := y.window.drop 1 }) fun p => signalToken (modStream (finishWrites (fsat (countBytes u h n k) h 0 Fl.FND_MOVES_DONE 1) l (.stream h f c) m) l.ctx l.seq i fun y => { y with window := y.window.drop 1 }) l p.1 p.2 1 i true (.stream h f c)) h)) ∧
  (∀ (h f c i : Nat) (m : Move) (ms : List Move) (l : Launch) (y : Stream) (s u : State),
      streamOf s h f c = some (l, i, y) →
      y.window = m :: ms →
      l.phase = .running →
      lending l m.word = true →
      m.lent = false →
      m.stalled = false →
      lendMove s (streamReq h f c l) l m = some (u, true) →
      exec (.lendRetry h f c) s = .next (noteLent u l i)) ∧
  (∀ (h f c i k : Nat) (r : List (Nat × Bool)) (l : Launch) (y : Stream) (s : State),
      streamOf s h f c = some (l, i, y) →
      takeMsg false [] y.inbox = some (k, r) →
      ∃ t, exec (.markArrival h f c) s = .next t ∧
        (streamOf t h f c).map (fun p => p.2.2) = some { y with
          inbox := r, marks := insertNat y.marks k
          window := y.window.map (fun m => { m with marks := m.marks.filter (· != k) })
          reissue := y.reissue.map (fun m => { m with marks := m.marks.filter (· != k) }) } ∧ t.regs = s.regs ∧ SameMem s t) ∧
  (∀ (h f c i k : Nat) (r : List (Nat × Bool)) (l : Launch) (y : Stream) (s : State),
      streamOf s h f c = some (l, i, y) →
      takeMsg true [] y.inbox = some (k, r) →
      l.phase = .running →
      ∃ t, exec (.cancellation h f c) s = .next t ∧
        (streamOf t h f c).map (fun p => p.2.2) = some { y with
          inbox := r
          window := y.window.filter (fun m => !m.marks.contains k)
          reissue := (y.window.filter (fun m => m.marks.contains k)).map (fun m => { m with stalled := false, replay := false }) ++ y.reissue } ∧
        t.tok = s.tok ∧ t.engines = s.engines) ∧
  (∀ (h f c i p j : Nat) (m : Move) (r : TRegion) (w : BitVec 64) (l : Launch) (y : Stream) (s : State),
      streamOf s h f c = some (l, i, y) →
      l.phase = .running →
      y.hold = .run →
      y.window = [] →
      nextMove l y = some m →
      lending l m.word = true →
      m.lent = false →
      m.word.transform ≠ 3 →
      lendPages s l.ctx (srcRows s (streamReq h f c l) l m) = [p] →
      tierPage s l.ctx p = some (r, j, w) →
      peLend w < 255 →
      ∃ t, exec (.lendRetry h f c) s = .next t ∧
        (streamOf t h f c).map (fun p => p.2.2.window) = some [{ m with lent := true }] ∧
        (tierPage t l.ctx p).map (fun a => peLend a.2.2) = some (peLend w + 1) ∧ SameMem s t)

/-- CONTEXT_ENABLE of a disabled context whose three rings are valid makes it RUNNING and enabled with PARK_STATUS 0; with an invalid command ring it stays disabled and gets PARK_STATUS 0x0107; while enabled, it takes the write's priority and exposure threshold and changes nothing else. CONTEXT_DISABLE of an enabled context makes it DISABLED when it has nothing in flight and DRAINING otherwise. UNPARK of a PARKED context makes it RUNNING with PARK_STATUS 0, and of any other changes nothing. None of them changes the fetched commands, another context, a register of the device or memory. CMD_TAIL of a running or parked context takes a value that does not move the tail back and stays within the ring, and leaves the tail as it was for a value beyond the ring. CPL_HEAD and EVT_HEAD take a value up to the producer's count and change nothing else. A CPL_HEAD beyond it, and a CMD_TAIL of a disabled context, change no context or memory and are counted (log 68). Completes, under hypotheses on the state and the operands alone: CONTEXT_ENABLE, CONTEXT_DISABLE, UNPARK, CMD_TAIL, CPL_HEAD, EVT_HEAD. -/
def Obligations.ContextsEnableAndDisable : Prop :=
  (∀ (c : Nat) (a : BitVec 64) (s : State),
      windowDead s (ctxHub c) = false →
      validCtx s c = true →
      fldOf Fl.QFE_CTX_ATTR_ENABLE (getCtx s c).attr = 0 →
      ringOk s c (getCtx s c).cmdRing = true →
      ringOk s c (getCtx s c).cplRing = true →
      ringOk s c (getCtx s c).evtRing = true →
      ∃ t, exec (.contextEnable c a) s = .next t ∧
        ctxState (getCtx t c) = 1 ∧ fldOf Fl.QFE_CTX_STATE_PARK_STATUS (getCtx t c).state = 0 ∧
        (getCtx t c).attr = fldSet Fl.QFE_CTX_ATTR_ENABLE (attrFields (getCtx s c).attr a) 1 ∧ (getCtx t c).cmds = (getCtx s c).cmds ∧
        t.regs = s.regs ∧ CtxsBut s t c ∧ SameMem s t) ∧
  (∀ (c : Nat) (a : BitVec 64) (s : State),
      windowDead s (ctxHub c) = false →
      validCtx s c = true →
      fldOf Fl.QFE_CTX_ATTR_ENABLE (getCtx s c).attr = 0 →
      ringOk s c (getCtx s c).cmdRing = false →
      ∃ t, exec (.contextEnable c a) s = .next t ∧
        (getCtx t c).state = fldSet Fl.QFE_CTX_STATE_PARK_STATUS (getCtx s c).state 0x0107 ∧ fldOf Fl.QFE_CTX_ATTR_ENABLE (getCtx t c).attr = 0 ∧
        (getCtx t c).cmds = (getCtx s c).cmds ∧ t.regs = s.regs ∧ CtxsBut s t c ∧ SameMem s t) ∧
  (∀ (c : Nat) (a : BitVec 64) (s : State),
      windowDead s (ctxHub c) = false →
      validCtx s c = true →
      fldOf Fl.QFE_CTX_ATTR_ENABLE (getCtx s c).attr = 1 →
      exec (.contextEnable c a) s = .next (putCtx s c { (getCtx s c) with attr := fldSet Fl.QFE_CTX_ATTR_EXPOSURE_THRESHOLD (fldSet Fl.QFE_CTX_ATTR_PRIORITY (getCtx s c).attr (fldOf Fl.QFE_CTX_ATTR_PRIORITY a)) (fldOf Fl.QFE_CTX_ATTR_EXPOSURE_THRESHOLD a) })) ∧
  (∀ (c : Nat) (a : BitVec 64) (s : State),
      windowDead s (ctxHub c) = false →
      validCtx s c = true →
      fldOf Fl.QFE_CTX_ATTR_ENABLE (getCtx s c).attr = 1 →
      inflight (getCtx s c) = 0 →
      ∃ t, exec (.contextDisable c a) s = .next t ∧
        ctxState (getCtx t c) = 0 ∧ fldOf Fl.QFE_CTX_ATTR_ENABLE (getCtx t c).attr = 0 ∧ (getCtx t c).cmds = (getCtx s c).cmds ∧ t.regs = s.regs ∧ CtxsBut s t c ∧ SameMem s t) ∧
  (∀ (c : Nat) (a : BitVec 64) (s : State),
      windowDead s (ctxHub c) = false →
      validCtx s c = true →
      fldOf Fl.QFE_CTX_ATTR_ENABLE (getCtx s c).attr = 1 →
      inflight (getCtx s c) ≠ 0 →
      ∃ t, exec (.contextDisable c a) s = .next t ∧
        ctxState (getCtx t c) = 3 ∧ fldOf Fl.QFE_CTX_ATTR_ENABLE (getCtx t c).attr = 0 ∧ (getCtx t c).cmds = (getCtx s c).cmds ∧ t.regs = s.regs ∧ CtxsBut s t c ∧ SameMem s t) ∧
  (∀ (c : Nat) (s : State),
      windowDead s (ctxHub c) = false →
      validCtx s c = true →
      ctxState (getCtx s c) = 2 →
      ∃ t, exec (.unpark c) s = .next t ∧
        ctxState (getCtx t c) = 1 ∧ fldOf Fl.QFE_CTX_STATE_PARK_STATUS (getCtx t c).state = 0 ∧ (getCtx t c).cmds = (getCtx s c).cmds ∧ t.regs = s.regs ∧ CtxsBut s t c ∧ SameMem s t) ∧
  (∀ (c : Nat) (s : State),
      windowDead s (ctxHub c) = false →
      ctxState (getCtx s c) ≠ 2 →
      exec (.unpark c) s = .next (s)) ∧
  (∀ (c : Nat) (v : BitVec 64) (s : State),
      validCtx s c = true →
      ctxState (getCtx s c) = 1 ∨ ctxState (getCtx s c) = 2 →
      ((getCtx s c).tail + 2 ^ 48 - oldestSeq (getCtx s c)) % 2 ^ 48 ≤ (v.toNat % 2 ^ 48 + 2 ^ 48 - oldestSeq (getCtx s c)) % 2 ^ 48 →
      (v.toNat % 2 ^ 48 + 2 ^ 48 - oldestSeq (getCtx s c)) % 2 ^ 48 ≤ ringSize (getCtx s c).cmdRing →
      exec (.cmdTail c v) s = .next (putCtx s c { (getCtx s c) with tail := v.toNat % 2 ^ 48 })) ∧
  (∀ (c : Nat) (v : BitVec 64) (s : State),
      validCtx s c = true →
      ctxState (getCtx s c) = 1 ∨ ctxState (getCtx s c) = 2 →
      ringSize (getCtx s c).cmdRing < (v.toNat % 2 ^ 48 + 2 ^ 48 - oldestSeq (getCtx s c)) % 2 ^ 48 →
      ∃ t, exec (.cmdTail c v) s = .next t ∧
        (getCtx t c).tail = (getCtx s c).tail ∧ (getCtx t c).cmds = (getCtx s c).cmds ∧ CtxsBut s t c ∧ t.launches = s.launches) ∧
  (∀ (c : Nat) (v : BitVec 64) (s : State),
      validCtx s c = true →
      ctxState (getCtx s c) = 1 ∨ ctxState (getCtx s c) = 2 →
      mayConsume (getCtx s c).cplHead (getCtx s c).cplTail (v.toNat % 2 ^ 32) = true →
      exec (.cplHead c v) s = .next (putCtx s c { (getCtx s c) with cplHead := v.toNat % 2 ^ 32 })) ∧
  (∀ (c : Nat) (v : BitVec 64) (s : State),
      validCtx s c = true →
      ctxState (getCtx s c) = 1 ∨ ctxState (getCtx s c) = 2 →
      mayConsume (getCtx s c).cplHead (getCtx s c).cplTail (v.toNat % 2 ^ 32) = false →
      ∃ t, exec (.cplHead c v) s = .next t ∧
        fget t (ctxHub c) 0 Fl.QFE_COUNT_DOORBELLS_IGNORED = min (fget s (ctxHub c) 0 Fl.QFE_COUNT_DOORBELLS_IGNORED + 1) (2 ^ (Fl.QFE_COUNT_DOORBELLS_IGNORED.hi - Fl.QFE_COUNT_DOORBELLS_IGNORED.lo + 1) - 1) ∧
        t.ctxs = s.ctxs ∧ SameMem s t ∧ RegsBut s t [regKey (ctxHub c) .qfeCount 0]) ∧
  (∀ (c : Nat) (v : BitVec 64) (s : State),
      validCtx s c = true →
      ctxState (getCtx s c) = 1 ∨ ctxState (getCtx s c) = 2 →
      mayConsume (getCtx s c).evtHead (getCtx s c).evtTail (v.toNat % 2 ^ 32) = true →
      exec (.evtHead c v) s = .next (putCtx s c { (getCtx s c) with evtHead := v.toNat % 2 ^ 32 })) ∧
  (∀ (c : Nat) (v : BitVec 64) (s : State),
      validCtx s c = true →
      ctxState (getCtx s c) = 0 →
      ∃ t, exec (.cmdTail c v) s = .next t ∧
        fget t (ctxHub c) 0 Fl.QFE_COUNT_DOORBELLS_IGNORED = min (fget s (ctxHub c) 0 Fl.QFE_COUNT_DOORBELLS_IGNORED + 1) (2 ^ (Fl.QFE_COUNT_DOORBELLS_IGNORED.hi - Fl.QFE_COUNT_DOORBELLS_IGNORED.lo + 1) - 1) ∧
        t.ctxs = s.ctxs ∧ SameMem s t ∧ RegsBut s t [regKey (ctxHub c) .qfeCount 0])

/-- DESCRIPTOR_FETCH of the context whose turn it is, from a ring in memory that its partition may access: where the slot's stamp is the sequence's low 16 bits, the command is appended and the next sequence is to be fetched; where it is not, the sequence stays to be fetched again. STALE_REFETCH of a running, unfenced context that awaits a stamp: where it matches, likewise; at the fourth mismatch the context is parked with PARK_STATUS 0x0104. A fetch of either kind from a ring elsewhere parks the context with the refusal's status. COMMAND_DISPATCH of the command that the ordering rules allow: one that passes every check is dispatched, and memory and registers stay as they are; one that fails a check, of a running context, is gone, and the count of completion records has advanced by one. None of these changes another context or a launch. Completes, under hypotheses on the state and the operands alone: DESCRIPTOR_FETCH, STALE_REFETCH, COMMAND_DISPATCH. -/
def Obligations.DescriptorsFetchAndDispatch : Prop :=
  (∀ (h c : Nat) (bs : List Byte) (s : State),
      pickCtx s h = some c →
      ringRefusal { s with rrNext := smPut s.rrNext (h * 8 + fldOf Fl.QFE_CTX_ATTR_PRIORITY (getCtx s c).attr) (c + 1) } c (ringBase (getCtx s c).cmdRing) = none →
      stampOk (readSlotOf { s with rrNext := smPut s.rrNext (h * 8 + fldOf Fl.QFE_CTX_ATTR_PRIORITY (getCtx s c).attr) (c + 1) } c (getCtx s c)).1 (getCtx s c).fetched = some bs →
      ∃ t, exec (.descriptorFetch h) s = .next t ∧
        (getCtx t c).cmds = (getCtx s c).cmds ++ [newCmd (getCtx s c).fetched (readDesc bs)] ∧ (getCtx t c).fetched = ((getCtx s c).fetched + 1) % 2 ^ 48 ∧
        (getCtx t c).stale = none ∧ CtxsBut s t c ∧ t.launches = s.launches) ∧
  (∀ (h c : Nat) (s : State),
      pickCtx s h = some c →
      ringRefusal { s with rrNext := smPut s.rrNext (h * 8 + fldOf Fl.QFE_CTX_ATTR_PRIORITY (getCtx s c).attr) (c + 1) } c (ringBase (getCtx s c).cmdRing) = none →
      stampOk (readSlotOf { s with rrNext := smPut s.rrNext (h * 8 + fldOf Fl.QFE_CTX_ATTR_PRIORITY (getCtx s c).attr) (c + 1) } c (getCtx s c)).1 (getCtx s c).fetched = none →
      ∃ t, exec (.descriptorFetch h) s = .next t ∧
        (getCtx t c).cmds = (getCtx s c).cmds ∧ (getCtx t c).fetched = (getCtx s c).fetched ∧ (getCtx t c).stale = some 0 ∧ CtxsBut s t c ∧ t.launches = s.launches) ∧
  (∀ (h c st : Nat) (s : State),
      pickCtx s h = some c →
      ringRefusal { s with rrNext := smPut s.rrNext (h * 8 + fldOf Fl.QFE_CTX_ATTR_PRIORITY (getCtx s c).attr) (c + 1) } c (ringBase (getCtx s c).cmdRing) = some st →
      ∃ t, exec (.descriptorFetch h) s = .next t ∧
        ctxState (getCtx t c) = 2 ∧ fldOf Fl.QFE_CTX_STATE_PARK_STATUS (getCtx t c).state = st ∧
        (getCtx t c).stale = none ∧ (getCtx t c).cmds = (getCtx s c).cmds ∧ CtxsBut s t c ∧ t.launches = s.launches) ∧
  (∀ (c st n : Nat) (s : State),
      (getCtx s c).stale = some n →
      ctxState (getCtx s c) = 1 →
      fencedCtx s c = false →
      ringRefusal (fsat s (ctxHub c) 0 Fl.QFE_COUNT_STALE_REFETCHES 1) c (ringBase (getCtx s c).cmdRing) = some st →
      ∃ t, exec (.staleRefetch c) s = .next t ∧
        ctxState (getCtx t c) = 2 ∧ fldOf Fl.QFE_CTX_STATE_PARK_STATUS (getCtx t c).state = st ∧
        (getCtx t c).stale = none ∧ (getCtx t c).cmds = (getCtx s c).cmds ∧ CtxsBut s t c ∧ t.launches = s.launches) ∧
  (∀ (c : Nat) (n : Nat) (bs : List Byte) (s : State),
      (getCtx s c).stale = some n →
      ctxState (getCtx s c) = 1 →
      fencedCtx s c = false →
      ringRefusal (fsat s (ctxHub c) 0 Fl.QFE_COUNT_STALE_REFETCHES 1) c (ringBase (getCtx s c).cmdRing) = none →
      stampOk (readSlotOf (fsat s (ctxHub c) 0 Fl.QFE_COUNT_STALE_REFETCHES 1) c (getCtx s c)).1 (getCtx s c).fetched = some bs →
      ∃ t, exec (.staleRefetch c) s = .next t ∧
        (getCtx t c).cmds = (getCtx s c).cmds ++ [newCmd (getCtx s c).fetched (readDesc bs)] ∧ (getCtx t c).fetched = ((getCtx s c).fetched + 1) % 2 ^ 48 ∧
        (getCtx t c).stale = none ∧ CtxsBut s t c ∧ t.launches = s.launches) ∧
  (∀ (c : Nat) (s : State),
      (getCtx s c).stale = some 3 →
      ctxState (getCtx s c) = 1 →
      fencedCtx s c = false →
      ringRefusal (fsat s (ctxHub c) 0 Fl.QFE_COUNT_STALE_REFETCHES 1) c (ringBase (getCtx s c).cmdRing) = none →
      stampOk (readSlotOf (fsat s (ctxHub c) 0 Fl.QFE_COUNT_STALE_REFETCHES 1) c (getCtx s c)).1 (getCtx s c).fetched = none →
      ∃ t, exec (.staleRefetch c) s = .next t ∧
        ctxState (getCtx t c) = 2 ∧ fldOf Fl.QFE_CTX_STATE_PARK_STATUS (getCtx t c).state = 0x0104 ∧
        (getCtx t c).stale = none ∧ (getCtx t c).cmds = (getCtx s c).cmds ∧ CtxsBut s t c ∧ t.launches = s.launches) ∧
  (∀ (c : Nat) (k : Cmd) (s : State),
      ctxState (getCtx s c) = 1 ∨ ctxState (getCtx s c) = 2 →
      fencedCtx s c = false →
      mayDispatch (getCtx s c) = some k →
      descStatus (getCtx s c) k.desc = none →
      getCmd s c k.seq = some k →
      ∃ t, exec (.commandDispatch c) s = .next t ∧
        getCmd t c k.seq = some { k with dispatched := true, blocking := holdsLater k.desc } ∧ CtxsBut s t c ∧ SameMem s t ∧
        t.regs = s.regs ∧ t.launches = s.launches) ∧
  (∀ (c st : Nat) (k : Cmd) (s : State),
      ctxState (getCtx s c) = 1 →
      fencedCtx s c = false →
      mayDispatch (getCtx s c) = some k →
      descStatus (getCtx s c) k.desc = some st →
      getCmd s c k.seq = some k →
      ∃ t, exec (.commandDispatch c) s = .next t ∧
        getCmd t c k.seq = none ∧ (getCtx t c).cplTail = ((getCtx s c).cplTail + 1) % 2 ^ 32 ∧ CtxsBut s t c ∧ t.launches = s.launches)

/-- MOVE_CMD of a command that holds no Finder takes the lowest-numbered free one of its hub, and changes no memory or other context. MOVE_ENTRY whose entry is read and valid and whose job runs to its end counts the entry and leaves memory and launches as the job leaves them; the last entry ends the command with status 0. SET_QUOTAS for a context of the same partition sets the quotas whose mask bits are set, keeps the others and ends the command; for a context of another partition it changes no quota of that context and ends the command. SYNC that names no context of another partition begins to wait. SYNC_COMPLETE of a command that may complete and writes no value ends it: the count of completion records advances by one, and no other context or launch changes. Completes, under hypotheses on the state and the operands alone: MOVE_CMD, MOVE_ENTRY, SET_QUOTAS, SYNC, SYNC_COMPLETE. -/
def Obligations.ContextCommandsRun : Prop :=
  (∀ (c q f : Nat) (k : Cmd) (s : State),
      runCmd s c q 2 = some k →
      k.finder = none →
      freeFinder s (ctxHub c) = some f →
      ∃ t, exec (.moveCmd c q) s = .next t ∧
        getCmd t c q = some { k with finder := some f } ∧ fget t (ctxHub c) f Fl.FND_ENGINE_STATUS_CMD_BUSY = 1 ∧ CtxsBut s t c ∧ SameMem s t) ∧
  (∀ (c q f rd wr : Nat) (b : List Byte) (k : Cmd) (s : State),
      runCmd s c q 2 = some k →
      k.finder = some f →
      k.denied = none →
      (readVa s (.cmd c q) c (k.desc.argA.toNat + 64 * k.done) 64).1 = .ok b →
      entryStatus b = none →
      (runJob (readVa s (.cmd c q) c (k.desc.argA.toNat + 64 * k.done) 64).2 (.cmd c q) c (entryJob b) none []).1 = .done rd wr →
      getCmd (runJob (readVa s (.cmd c q) c (k.desc.argA.toNat + 64 * k.done) 64).2 (.cmd c q) c (entryJob b) none []).2 c q = some k →
      k.done + 1 < k.desc.count →
      ∃ t, exec (.moveEntry c q .none) s = .next t ∧
        getCmd t c q = some { k with done := k.done + 1 } ∧ SameMem (runJob (readVa s (.cmd c q) c (k.desc.argA.toNat + 64 * k.done) 64).2 (.cmd c q) c (entryJob b) none []).2 t ∧ t.launches = (runJob (readVa s (.cmd c q) c (k.desc.argA.toNat + 64 * k.done) 64).2 (.cmd c q) c (entryJob b) none []).2.launches) ∧
  (∀ (c q i : Nat) (k : Cmd) (s : State),
      runCmd s c q 4 = some k →
      ctxPart s (imgNum k.desc.raw 4 2) = ctxPart s c →
      i < 5 →
      ∃ t, exec (.setQuotas c q) s = .next t ∧
        (getCtx t (imgNum k.desc.raw 4 2)).quota.getD i 0 = (if (imgNum k.desc.raw 6 1).testBit i then imgNum k.desc.raw (8 + 4 * i) 4
          else (getCtx s (imgNum k.desc.raw 4 2)).quota.getD i 0) ∧ getCmd t c q = none ∧ t.launches = s.launches) ∧
  (∀ (c q : Nat) (k : Cmd) (s : State),
      runCmd s c q 4 = some k →
      ctxPart s (imgNum k.desc.raw 4 2) ≠ ctxPart s c →
      ∃ t, exec (.setQuotas c q) s = .next t ∧
        (getCtx t (imgNum k.desc.raw 4 2)).quota = (getCtx s (imgNum k.desc.raw 4 2)).quota ∧ getCmd t c q = none ∧ t.launches = s.launches) ∧
  (∀ (c q : Nat) (k : Cmd) (s : State),
      runCmd s c q 6 = some k →
      ctxPart s (k.desc.argA.toNat / 2 ^ 48) = ctxPart s c ∨ k.desc.flags.getLsbD 3 = false →
      exec (.sync c q) s = .next (modCmd s c q fun x => { x with accepted := true })) ∧
  (∀ (c q : Nat) (k : Cmd) (s : State),
      runCmd s c q 6 = some k →
      k.accepted = true →
      syncReady s c q k = true →
      k.denied = none →
      k.desc.flags.getLsbD 4 = false →
      ∃ t, exec (.syncComplete c q) s = .next t ∧
        getCmd t c q = none ∧ (getCtx t c).cplTail = ((getCtx s c).cplTail + 1) % 2 ^ 32 ∧ CtxsBut s t c ∧ t.launches = s.launches) ∧
  (∀ (c q f rd wr : Nat) (e : Ecc) (b : List Byte) (k : Cmd) (s : State),
      runCmd s c q 2 = some k →
      k.finder = some f →
      k.denied = none →
      e ≠ .ue →
      (readVa s (.cmd c q) c (k.desc.argA.toNat + 64 * k.done) 64).1 = .ok b →
      entryStatus b = none →
      (runJob (finderCe (readVa s (.cmd c q) c (k.desc.argA.toNat + 64 * k.done) 64).2 (ctxHub c) e) (.cmd c q) c (entryJob b) none []).1 = .done rd wr →
      k.desc.count ≤ k.done + 1 →
      exec (.moveEntry c q e) s = .next (endMove (modCmd (countBytes (runJob (finderCe (readVa s (.cmd c q) c (k.desc.argA.toNat + 64 * k.done) 64).2 (ctxHub c) e) (.cmd c q) c (entryJob b) none []).2 (ctxHub c) rd wr) c q fun x => { x with done := k.done + 1 }) c q { k with done := k.done + 1 } 0))

/-- Where the front end's records are not stashed, the ring lies in memory that the context's partition may access, the line of the slot is on a working channel, nobody holds it, no transaction is open on it and no coherence message is on its way, a SYNC that completes with status 0 leaves in its ring slot exactly the 32 bytes of its completion record: the handle, status 0, the flags, the device time and detail 0; and its interrupt is sent if and only if the command asked for one. Completes, under hypotheses on the state and the operands alone: SYNC_COMPLETE. -/
def Obligations.CompletionRecordIsWritten : Prop :=
  ∀ (c q : Nat) (k : Cmd) (s : State),
      runCmd s c q 6 = some k →
      k.accepted = true →
      syncReady s c q k = true →
      k.denied = none →
      k.desc.flags.getLsbD 4 = false →
      fget s (ctxHub c) 0 Fl.COH_STASH_RECORDS_TARGET = 0 →
      c < 65536 →
      ringRefusal s c (ringBase (getCtx s c).cplRing) = none →
      deadLine s (lineOf (ringBase (getCtx s c).cplRing + (getCtx s c).cplTail % ringSize (getCtx s c).cplRing * 32)) = false →
      lineBusy (getHome s (homeOf s (lineOf (ringBase (getCtx s c).cplRing + (getCtx s c).cplTail % ringSize (getCtx s c).cplRing * 32)))) (lineOf (ringBase (getCtx s c).cplRing + (getCtx s c).cplTail % ringSize (getCtx s c).cplRing * 32)) = false →
      dirFind (getHome s (homeOf s (lineOf (ringBase (getCtx s c).cplRing + (getCtx s c).cplTail % ringSize (getCtx s c).cplRing * 32)))) (lineOf (ringBase (getCtx s c).cplRing + (getCtx s c).cplTail % ringSize (getCtx s c).cplRing * 32)) = none →
      s.coh.probes = [] →
      s.coh.resps = [] →
      s.coh.data = [] →
      s.mem.wf = true →
      ∃ t, exec (.syncComplete c q) s = .next t ∧
        memReadN t.mem (ringBase (getCtx s c).cplRing + (getCtx s c).cplTail % ringSize (getCtx s c).cplRing * 32) 32 =
          completionBytes (handleOf c q) 0 (b2n (k.desc.flags.getLsbD 0) + 4 * b2n k.events) s.time.toNat 0 ∧
        t.irqOut = s.irqOut ++ (if k.desc.flags.getLsbD 0 then [fldOf Fl.QFE_CTX_ATTR_IRQ_VECTOR (getCtx s c).attr] else [])

/-- TIER_REGION_DECLARE while the hub's register is not busy, of an index up to 1,023 of a context that the hub serves, whose list lies in memory that the partition may access and can be read, whose range ends within the address space and meets no other region of the context, whose entries all name valid homes, and which fits the quotas and the catalog, adds exactly that region, with STATUS 0, and changes no near store or launch; for a context that the hub does not serve it changes no region, context or memory and shows 0x0307. TIER_REGION_RELEASE of a region none of whose pages is moving, lent or bound by a launch removes it, with STATUS 0, and changes no other context, launch or memory; with a page that is moving it keeps every region and context and shows 0x0306. TIER_TIMEOUT of an access to another device ends the access that waits for it with status 0x0310, or 0x0311 at an error response. TIER_TIMEOUT of a page copy with far memory on one side ends the command: the page keeps its home and is no longer moving. TIER_TIMEOUT of a running launch's oldest move that touches far memory stops its stream, adds the error 0x0310 or 0x0311 to the launch and changes no context. ACCESS_DECAY with hints disabled halves ACCESS of every page of the hub's contexts, and changes no page of another hub, register, context or memory. Completes, under hypotheses on the state and the operands alone: TIER_REGION_DECLARE, TIER_REGION_RELEASE, TIER_TIMEOUT, ACCESS_DECAY. -/
def Obligations.RegionsAreDeclaredAndReleased : Prop :=
  (∀ (h i c pages : Nat) (ro : Bool) (l : List (BitVec 64)) (u s : State),
      windowDead s h = false →
      fget s h 0 Fl.TIER_REGION_CMD_BUSY ≠ 1 →
      c < 65536 →
      ctxHub c = h →
      i ≤ 1023 →
      (fget s h 0 Fl.TIER_REGION_VA_VA * Config.page2M) + l.length * Config.page2M ≤ 2 ^ 57 →
      (linesOf (fget s h 0 Fl.TIER_REGION_LIST_PA * 8) (8 * declarePages pages)).findSome? (accelRefusal (declareCmd h 0 ro pages i c s) (ctxPart (declareCmd h 0 ro pages i c s) c)) = none →
      (declareList (declareCmd h 0 ro pages i c s) h (fget s h 0 Fl.TIER_REGION_LIST_PA * 8) (declarePages pages)).1 = some l →
      s.regions.any (fun r => r.ctx == c && (r.index == i || meets r.va (r.pages.length * Config.page2M) (fget s h 0 Fl.TIER_REGION_VA_VA * Config.page2M) (l.length * Config.page2M))) = false →
      badHome (declareList (declareCmd h 0 ro pages i c s) h (fget s h 0 Fl.TIER_REGION_LIST_PA * 8) (declarePages pages)).2 c l = none →
      chargeAll (declareList (declareCmd h 0 ro pages i c s) h (fget s h 0 Fl.TIER_REGION_LIST_PA * 8) (declarePages pages)).2 c 0 l = .ok u →
      catalogUsed s h + l.length ≤ catalogRoom s h →
      ∃ t, exec (.tierRegionDeclare h ro pages i c) s = .next t ∧
        t.regions = s.regions ++ [⟨c, i, (fget s h 0 Fl.TIER_REGION_VA_VA * Config.page2M), ro, l.map peNew⟩] ∧ fget t h 0 Fl.TIER_REGION_RESULT_STATUS = 0 ∧ t.near = s.near ∧ t.launches = s.launches) ∧
  (∀ (h i c pages : Nat) (ro : Bool) (s : State),
      windowDead s h = false →
      fget s h 0 Fl.TIER_REGION_CMD_BUSY ≠ 1 →
      ctxHub c ≠ h →
      ∃ t, exec (.tierRegionDeclare h ro pages i c) s = .next t ∧
        t.regions = s.regions ∧ t.ctxs = s.ctxs ∧ fget t h 0 Fl.TIER_REGION_RESULT_STATUS = 0x0307 ∧ SameMem s t) ∧
  (∀ (h i c : Nat) (r : TRegion) (s : State),
      windowDead s h = false →
      fget s h 0 Fl.TIER_REGION_CMD_BUSY ≠ 1 →
      s.regions.find? (fun r => r.ctx == c && r.index == i && ctxHub c == h) = some r →
      r.pages.all (fun w => !peMoving w && peLend w == 0) = true →
      bindingHolds s c r.va (r.pages.length * Config.page2M) (fun _ => true) = false →
      ∃ t, exec (.tierRegionRelease h i c) s = .next t ∧
        t.regions = s.regions.erase r ∧ fget t h 0 Fl.TIER_REGION_RESULT_STATUS = 0 ∧ CtxsBut s t c ∧ SameMem s t ∧ t.launches = s.launches) ∧
  (∀ (h i c : Nat) (r : TRegion) (s : State),
      windowDead s h = false →
      fget s h 0 Fl.TIER_REGION_CMD_BUSY ≠ 1 →
      s.regions.find? (fun r => r.ctx == c && r.index == i && ctxHub c == h) = some r →
      r.pages.any peMoving = true →
      ∃ t, exec (.tierRegionRelease h i c) s = .next t ∧
        t.regions = s.regions ∧ t.ctxs = s.ctxs ∧ fget t h 0 Fl.TIER_REGION_RESULT_STATUS = 0x0306 ∧ SameMem s t) ∧
  (∀ (c q : Nat) (e : Bool) (r : RemoteReq) (s : State),
      s.net.remotes.find? (fun r => !r.done && Machine.reqOf s c q r.req && (r.kind == kReadReq || r.kind == kWrite)) = some r →
      getCmd s c q = none →
      exec (.tierTimeout c q ⟨true, e⟩) s = .next (settleStalls (failAccess { s with net := { s.net with remotes := s.net.remotes.erase r } } r (if e then 0x0311 else 0x0310)))) ∧
  (∀ (c q : Nat) (e : Bool) (r : RemoteReq) (k : Cmd) (s : State),
      s.net.remotes.find? (fun r => !r.done && Machine.reqOf s c q r.req && (r.kind == kReadReq || r.kind == kWrite)) = some r →
      getCmd s c q = some k →
      r.req = .cmd c q →
      k.page = .check →
      exec (.tierTimeout c q ⟨true, e⟩) s = .next (settleStalls (failReq { s with net := { s.net with remotes := s.net.remotes.erase r } } r.req (if e then 0x0311 else 0x0310) 0))) ∧
  (∀ (c q h f x i : Nat) (e : Bool) (m : Move) (l : Launch) (s : State),
      findLaunch s c q = some l →
      l.phase = .running →
      farMove s l = some (h, f, x, i, m) →
      exec (.tierTimeout c q ⟨false, e⟩) s = .next (settleStalls (moveFail (farJob s (streamReq h f x l) l.ctx (moveJob l m) e).2 h f x l i (if e then 0x0311 else 0x0310) 0
        (farJob s (streamReq h f x l) l.ctx (moveJob l m) e).1))) ∧
  (∀ (c q va i : Nat) (e : Bool) (dst w : BitVec 64) (r : TRegion) (k : Cmd) (s : State),
      findLaunch s c q = none →
      getCmd s c q = some k →
      k.page = .copying va dst →
      tierPage s c va = some (r, i, w) →
      peTier w = 2 ∨ peTier dst = 2 →
      ∃ t, exec (.tierTimeout c q ⟨false, e⟩) s = .next t ∧
        (tierPage t c va).map (fun a => (peHome a.2.2, peMoving a.2.2)) = some (peHome w, false) ∧ getCmd t c q = none ∧ t.near = s.near ∧ t.launches = s.launches) ∧
  (∀ (c q h f x i : Nat) (e : Bool) (m : Move) (l : Launch) (s : State),
      findLaunch s c q = some l →
      l.phase = .running →
      farMove s l = some (h, f, x, i, m) →
      streamOf s h f x = some (l, i, (l.streams.getD i ⟨[], 0, 0, none, 0, [], [], .run, false, [], [], [], []⟩)) →
      ∃ t, exec (.tierTimeout c q ⟨false, e⟩) s = .next t ∧
        (findLaunch t c q).map (·.errs) = some (l.errs ++ [(if e then 0x0311 else 0x0310, 0)]) ∧ (streamOf t h f x).map (fun p => p.2.2.hold) = some .stopped ∧ t.ctxs = s.ctxs) ∧
  (∀ (h : Nat) (s : State),
      fget s h 0 Fl.TIER_HINT_CTL_THRESHOLD = 0 →
      ∃ t, exec (.accessDecay h) s = .next t ∧
        t.regions = (s.regions.map fun r => if ctxHub r.ctx = h then { r with pages := r.pages.map fun w => setBits w 51 44 (peAccess w / 2) } else r) ∧
        t.regs = s.regs ∧ t.ctxs = s.ctxs ∧ SameMem s t)

/-- MOVE_PAGES whose entry is read, names a page of a region and a valid home that is not the page's own makes the command ready for the copy. MOVE_PAGES_COPY of a page that is not moving, lent or held by a binding, behind no other ready copy of it, with a Finder free and a quota that has room, sets MOVING, keeps the home, takes the Finder, and changes no memory. MOVE_PAGES_SWITCH of a copy between homes of this device that its partition may access, while no line is poisoned or decayed, no channel has failed and no coherence message is on its way, gives the page its new home and clears MOVING. MOVE_PAGES_RETURN of a switched page that nobody still reads at its old home takes the granule off the old tier's count and goes on to the next entry, changing no region or memory; at the last entry it ends the command with status 0. Completes, under hypotheses on the state and the operands alone: MOVE_PAGES, MOVE_PAGES_COPY, MOVE_PAGES_SWITCH, MOVE_PAGES_RETURN. -/
def Obligations.PagesMoveInSteps : Prop :=
  (∀ (c q va i : Nat) (bs : List Byte) (dst w : BitVec 64) (r : TRegion) (k : Cmd) (s : State),
      runCmd s c q 3 = some k →
      k.denied = none →
      k.page = .check →
      (readVa s (.cmd c q) c (k.desc.argA.toNat + 16 * k.done) 16).1 = .ok bs →
      imgNum bs 0 8 = va →
      BitVec.ofNat 64 (imgNum bs 8 8) = dst →
      tierPage (readVa s (.cmd c q) c (k.desc.argA.toNat + 16 * k.done) 16).2 c va = some (r, i, w) →
      homeStatus (readVa s (.cmd c q) c (k.desc.argA.toNat + 16 * k.done) 16).2 c dst = none →
      peHome dst ≠ peHome w →
      getCmd (readVa s (.cmd c q) c (k.desc.argA.toNat + 16 * k.done) 16).2 c q = some k →
      ∃ t, exec (.movePages c q) s = .next t ∧
        getCmd t c q = some { k with page := .ready va dst (readyNext (readVa s (.cmd c q) c (k.desc.argA.toNat + 16 * k.done) 16).2) } ∧ t.regions = (readVa s (.cmd c q) c (k.desc.argA.toNat + 16 * k.done) 16).2.regions ∧
        t.launches = (readVa s (.cmd c q) c (k.desc.argA.toNat + 16 * k.done) 16).2.launches ∧ SameMem (readVa s (.cmd c q) c (k.desc.argA.toNat + 16 * k.done) 16).2 t) ∧
  (∀ (c q va n i f : Nat) (dst w : BitVec 64) (r : TRegion) (k : Cmd) (u s : State),
      runCmd s c q 3 = some k →
      k.page = .ready va dst n →
      tierPage s c va = some (r, i, w) →
      peMoving w = false →
      peLend w = 0 →
      bindingHolds s c (r.va + i * Config.page2M) Config.page2M (fun b => b.frozen || b.tier != 0) = false →
      readyBefore s c va n = false →
      peHome dst ≠ peHome w →
      freeFinder s (ctxHub c) = some f →
      charge s c (peTier dst) 1 = some u →
      ∃ t, exec (.movePagesCopy c q) s = .next t ∧
        (tierPage t c va).map (fun a => (peHome a.2.2, peMoving a.2.2)) = some (peHome w, true) ∧ getCmd t c q = some { k with page := .copying va dst, blocking := decide (k.done + 1 < k.desc.count), finder := some f } ∧
        (getCtx t c).used = (getCtx u c).used ∧ SameMem s t) ∧
  (∀ (c q va i : Nat) (dst w : BitVec 64) (r : TRegion) (k : Cmd) (s : State),
      runCmd s c q 3 = some k →
      k.page = .copying va dst →
      tierPage s c va = some (r, i, w) →
      k.denied = none →
      peTier w ≠ 3 →
      peTier dst ≠ 3 →
      homeRefusal s c w = none →
      homeRefusal s c dst = none →
      s.poison = [] →
      s.flaws = [] →
      s.coh.probes = [] →
      s.coh.resps = [] →
      s.coh.data = [] →
      s.failedPcs = [] →
      fget s 16 0 Fl.DDR_POPULATION_FAILED = 0 →
      fget s 17 0 Fl.DDR_POPULATION_FAILED = 0 →
      ∃ t, exec (.movePagesSwitch c q) s = .next t ∧
        (tierPage t c va).map (fun a => (peHome a.2.2, peMoving a.2.2)) = some (peHome dst, false) ∧ (getCmd t c q).map (·.page) = some (.switched w) ∧ t.near = s.near ∧ t.launches = s.launches) ∧
  (∀ (c q : Nat) (old : BitVec 64) (k : Cmd) (s : State),
      runCmd s c q 3 = some k →
      k.page = .switched old →
      oldHomeRead s old = false →
      k.done + 1 < k.desc.count →
      ∃ t, exec (.movePagesReturn c q) s = .next t ∧
        getCmd t c q = some { k with done := k.done + 1, page := .check, finder := none } ∧
        (getCtx t c).used = (getCtx s c).used.set (peTier old) ((getCtx s c).used.getD (peTier old) 0 - 1) ∧ t.regions = s.regions ∧ SameMem s t) ∧
  (∀ (c q : Nat) (old : BitVec 64) (k : Cmd) (s : State),
      runCmd s c q 3 = some k →
      k.page = .switched old →
      oldHomeRead s old = false →
      k.desc.count ≤ k.done + 1 →
      exec (.movePagesReturn c q) s = .next (endPages (refund s c (peTier old) 1) c q { k with done := k.done + 1, page := .check, finder := none } 0))

/-- A walk that finds a leaf which serves every requester puts the translation first in the array of the hub that serves the context, and opens no fault. A walk of a command that finds a table error, where the ring is enabled and has room and no record of the page is open, opens a record with cause 3 and the next number, on which the command waits. Any walk that is complete and not discarded reads its tables and gives every requester what it found; a discarded one lets every requester go on and try again. FAULT_OPEN_RETRY of a fault that waited for room opens its record once there is room, on which its requester waits, and joins the record of its page where one is open. Completes, under hypotheses on the state and the operands alone: WALK_COMPLETE, FAULT_OPEN_RETRY. -/
def Obligations.WalksFillOrFault : Prop :=
  (∀ (die frame size : Nat) (wr : Bool) (w : Walk) (u : State), (∀ x ∈ w.reqs, x.2 = false ∨ wr = true) →
      (hubTlb (finishWalk u die w (.leaf frame size wr)) (ctxHub w.ctx)).head? = some ⟨w.ctx, w.page / size * size, size, frame, wr⟩ ∧
        (finishWalk u die w (.leaf frame size wr)).xlat.faults = u.xlat.faults) ∧
  (∀ (die ctx page lv c q : Nat) (held : BitVec 8) (wr : Bool) (k : Cmd) (w : Walk) (u s : State),
      findWalk s die ctx page = some w →
      w.discard = false →
      w.reqs = [(.cmd c q, wr)] →
      getCmd s c q = some k →
      walkTables (fsat (dropWalk s w) die 0 Fl.WLK_WALKS_WALKS 1) die w held = (.tableError lv, u) →
      u.xlat.faults.find? (fun f => f.ctx == w.ctx && f.page == w.page) = none →
      getCmd u c q = some k →
      fget u 16 0 Fl.WLK_FAULT_RING_ENABLE = 1 →
      canOpen u = true →
      busyStreams s = [] →
      ∃ t, exec (.walkComplete die ctx page held) s = .next t ∧
        (t.xlat.faults.getLast?).map (fun f => (f.number, f.ctx, f.page, f.cause, f.waiters)) =
          some (fget u 16 0 Fl.WLK_FAULT_PROD_PROD, w.ctx, w.page, 3, [.cmd c q]) ∧
        t.xlat.faults.length = u.xlat.faults.length + 1 ∧ (getCmd t c q).map (·.stalled) = some (some w.page) ∧
        fget t 16 0 Fl.WLK_FAULT_PROD_PROD = (fget u 16 0 Fl.WLK_FAULT_PROD_PROD + 1) % 2 ^ 32) ∧
  (∀ (ctx page c q : Nat) (k : Cmd) (w : FaultWait) (s : State),
      s.xlat.waiting.find? (fun w => w.ctx == ctx && w.page == page) = some w →
      w.req = .cmd c q →
      getCmd s c q = some k →
      s.xlat.faults.find? (fun f => f.ctx == ctx && f.page == page) = none →
      fget s 16 0 Fl.WLK_FAULT_RING_ENABLE = 1 →
      canOpen s = true →
      busyStreams s = [] →
      ∃ t, exec (.faultOpenRetry ctx page) s = .next t ∧
        (t.xlat.faults.getLast?).map (fun f => (f.number, f.ctx, f.page, f.cause, f.waiters)) =
          some (fget s 16 0 Fl.WLK_FAULT_PROD_PROD, ctx, page, w.cause, [w.req]) ∧
        t.xlat.waiting = s.xlat.waiting.erase w ∧ t.xlat.faults.length = s.xlat.faults.length + 1) ∧
  (∀ (die ctx page : Nat) (held : BitVec 8) (w : Walk) (s : State),
      findWalk s die ctx page = some w →
      w.discard = false →
      exec (.walkComplete die ctx page held) s = .next (settleMoves (settleStalls (finishWalk (walkTables (fsat (dropWalk s w) die 0 Fl.WLK_WALKS_WALKS 1) die w held).2 die w (walkTables (fsat (dropWalk s w) die 0 Fl.WLK_WALKS_WALKS 1) die w held).1)))) ∧
  (∀ (die ctx page : Nat) (held : BitVec 8) (w : Walk) (s : State),
      findWalk s die ctx page = some w →
      w.discard = true →
      exec (.walkComplete die ctx page held) s = .next (settleMoves (settleStalls (w.reqs.foldl (fun s x => unstall s x.1) (fsat (dropWalk s w) die 0 Fl.WLK_WALKS_WALKS 1))))) ∧
  (∀ (ctx page : Nat) (w : FaultWait) (s : State),
      s.xlat.waiting.find? (fun w => w.ctx == ctx && w.page == page) = some w →
      s.xlat.faults.find? (fun f => f.ctx == ctx && f.page == page) = none →
      fget s 16 0 Fl.WLK_FAULT_RING_ENABLE ≠ 0 →
      canOpen s = true →
      exec (.faultOpenRetry ctx page) s = .next (settleStalls (openFault { s with xlat := { s.xlat with waiting := s.xlat.waiting.erase w } } ctx page w.cause w.level w.req w.write))) ∧
  (∀ (ctx page : Nat) (w : FaultWait) (f : FaultRec) (s : State),
      s.xlat.waiting.find? (fun w => w.ctx == ctx && w.page == page) = some w →
      s.xlat.faults.find? (fun f => f.ctx == ctx && f.page == page) = some f →
      exec (.faultOpenRetry ctx page) s = .next (settleStalls (joinFault { s with xlat := { s.xlat with waiting := s.xlat.waiting.erase w } } f w.req w.write)))

/-- FAULT_RESUME of an open record closes it, drops the translations of its page at the hub and lets every waiter try again. FAULT_DENY of an open record closes it and gives every waiter status 0x0201 with the record's number. FAULT_DENY of a record that is not open changes no translation state, context or memory and is counted. TRC_INVALIDATE_PAGE, RANGE and CONTEXT of a context that the hub serves, and ALL, start an invalidation of exactly those addresses while none runs: BUSY is 1, REJECTED and DONE are 0, and no entry of an array or byte of memory changes yet; ALL while BUSY is 1 sets REJECTED and has no other effect. TRC_INVALIDATION_DONE, once no walk is to be discarded, leaves no entry at the hub that the invalidation names, DONE 1 and BUSY 0, ends that invalidation and no other, and changes no memory. Completes, under hypotheses on the state and the operands alone: FAULT_RESUME, FAULT_DENY, TRC_INVALIDATE_PAGE, TRC_INVALIDATE_RANGE, TRC_INVALIDATE_CONTEXT, TRC_INVALIDATE_ALL, TRC_INVALIDATION_DONE. -/
def Obligations.FaultsAreAnswered : Prop :=
  (∀ (n c q : Nat) (k : Cmd) (f : FaultRec) (s : State),
      windowDead s 16 = false →
      s.xlat.faults.find? (fun f => f.number == n) = some f →
      f.waiters = [.cmd c q] →
      getCmd s c q = some k →
      ∃ t, exec (.faultResume n) s = .next t ∧
        t.xlat.faults = s.xlat.faults.erase f ∧ (getCmd t c q).map (·.stalled) = some none ∧ SameMem s t ∧
        (hubTlb t (ctxHub f.ctx)).any (fun x => x.ctx == f.ctx && decide (x.va ≤ f.page) && decide (f.page < x.va + x.size)) = false) ∧
  (∀ (n c q : Nat) (k : Cmd) (f : FaultRec) (s : State),
      windowDead s 16 = false →
      s.xlat.faults.find? (fun f => f.number == n) = some f →
      f.waiters = [.cmd c q] →
      getCmd s c q = some k →
      busyStreams s = [] →
      ∃ t, exec (.faultDeny n) s = .next t ∧
        t.xlat.faults = s.xlat.faults.erase f ∧ getCmd t c q = some { k with denied := some (0x0201, n), stalled := none } ∧ SameMem s t) ∧
  (∀ (n : Nat) (s : State),
      windowDead s 16 = false →
      s.xlat.faults.find? (fun f => f.number == n) = none →
      ∃ t, exec (.faultDeny n) s = .next t ∧
        t.xlat = s.xlat ∧ fget t 16 0 Fl.WLK_FAULT_EXCEPT_IGNORED = min (fget s 16 0 Fl.WLK_FAULT_EXCEPT_IGNORED + 1)
          (2 ^ (Fl.WLK_FAULT_EXCEPT_IGNORED.hi - Fl.WLK_FAULT_EXCEPT_IGNORED.lo + 1) - 1) ∧ SameMem s t ∧ t.ctxs = s.ctxs) ∧
  (∀ (n : Nat) (f : FaultRec) (s : State),
      windowDead s 16 = false →
      s.xlat.faults.find? (fun f => f.number == n) = some f →
      exec (.faultResume n) s = .next (f.waiters.foldl unstall (tlbDrop (closeFault s f) (ctxHub f.ctx) (entriesOf f.ctx f.page)))) ∧
  (∀ (n : Nat) (f : FaultRec) (s : State),
      windowDead s 16 = false →
      s.xlat.faults.find? (fun f => f.number == n) = some f →
      exec (.faultDeny n) s = .next (settleStalls (f.waiters.foldl (fun s r => failReq s r 0x0201 n) (closeFault s f)))) ∧
  (∀ (h c va : Nat) (tb : Bool) (s : State),
      windowDead s h = false →
      fget s h 0 Fl.TRC_INV_CTL_BUSY = 0 →
      serves h c = true →
      ∃ t, exec (.trcInvalidatePage h c va tb) s = .next t ∧
        t.xlat.invals = s.xlat.invals ++ [(h, some c, va / 4096 * 4096, va / 4096 * 4096 + 4095, tb)] ∧ fget t h 0 Fl.TRC_INV_CTL_BUSY = 1 ∧ fget t h 0 Fl.TRC_INV_CTL_REJECTED = 0 ∧
        fget t h 0 Fl.TRC_INV_CTL_DONE = 0 ∧ t.xlat.hub = s.xlat.hub ∧ SameMem s t) ∧
  (∀ (h c va n : Nat) (tb : Bool) (s : State),
      windowDead s h = false →
      fget s h 0 Fl.TRC_INV_CTL_BUSY = 0 →
      serves h c = true →
      ∃ t, exec (.trcInvalidateRange h c va n tb) s = .next t ∧
        t.xlat.invals = s.xlat.invals ++ [(h, some c, va / 4096 * 4096, va / 4096 * 4096 + (if n = 0 then 2 ^ 24 else n) * 4096 - 1, tb)] ∧ fget t h 0 Fl.TRC_INV_CTL_BUSY = 1 ∧ fget t h 0 Fl.TRC_INV_CTL_REJECTED = 0 ∧
        fget t h 0 Fl.TRC_INV_CTL_DONE = 0 ∧ t.xlat.hub = s.xlat.hub ∧ SameMem s t) ∧
  (∀ (h c : Nat) (tb : Bool) (s : State),
      windowDead s h = false →
      fget s h 0 Fl.TRC_INV_CTL_BUSY = 0 →
      serves h c = true →
      ∃ t, exec (.trcInvalidateContext h c tb) s = .next t ∧
        t.xlat.invals = s.xlat.invals ++ [(h, some c, 0, 2 ^ 57, tb)] ∧ fget t h 0 Fl.TRC_INV_CTL_BUSY = 1 ∧ fget t h 0 Fl.TRC_INV_CTL_REJECTED = 0 ∧
        fget t h 0 Fl.TRC_INV_CTL_DONE = 0 ∧ t.xlat.hub = s.xlat.hub ∧ SameMem s t) ∧
  (∀ (h : Nat) (tb : Bool) (s : State),
      windowDead s h = false →
      fget s h 0 Fl.TRC_INV_CTL_BUSY = 0 →
      ∃ t, exec (.trcInvalidateAll h tb) s = .next t ∧
        t.xlat.invals = s.xlat.invals ++ [(h, none, 0, 2 ^ 57, tb)] ∧ fget t h 0 Fl.TRC_INV_CTL_BUSY = 1 ∧ fget t h 0 Fl.TRC_INV_CTL_REJECTED = 0 ∧
        fget t h 0 Fl.TRC_INV_CTL_DONE = 0 ∧ t.xlat.hub = s.xlat.hub ∧ SameMem s t) ∧
  (∀ (h : Nat) (tb : Bool) (s : State),
      windowDead s h = false →
      fget s h 0 Fl.TRC_INV_CTL_BUSY = 1 →
      exec (.trcInvalidateAll h tb) s = .next (fput s h 0 Fl.TRC_INV_CTL_REJECTED 1)) ∧
  (∀ (h first last : Nat) (c : Option Nat) (tb : Bool) (s : State),
      s.xlat.invals.find? (fun x => x.1 == h) = some (h, c, first, last, tb) →
      s.xlat.walks.all (fun w => !w.discard) = true →
      ∃ t, exec (.trcInvalidationDone h) s = .next t ∧
        (hubTlb t h).any (fun x => ctxHub x.ctx == h && c.elim true (fun k => x.ctx == k) && decide (x.va ≤ last) && decide (first < x.va + x.size)) = false ∧
        fget t h 0 Fl.TRC_INV_CTL_BUSY = 0 ∧ fget t h 0 Fl.TRC_INV_CTL_DONE = 1 ∧ t.xlat.invals = s.xlat.invals.erase (h, c, first, last, tb) ∧ SameMem s t)

/-- At the home of an idle line in memory that accepts accesses: RD_SHARED or RD_OWN of a readable line that nobody holds, in a set with room, sends the line to the requester in E and records it alone; RD_NC of a readable line that nobody holds returns the line and records nobody; RD_OWN of a line that others share sends an invalidating probe to each of them, opens a transaction that waits for them and sends the requester nothing; UPGRADE by the only sharer sends it E without data. A request of any of the eight kinds that has room for the entry it needs: where it must probe, it sends its probes, opens a transaction that waits for their answers and sends the requester nothing; where not, it is carried out at once. On a busy line a request of any kind joins the queue and changes nothing else of the home's transactions. The reads and the upgrade of the first sentence, and any request that waits, change no byte of memory and no core. Completes, under hypotheses on the state and the operands alone: RD_SHARED, RD_OWN, UPGRADE, RD_NC, WR_FULL, WR_PART, WR_STASH, RMW_HOME. -/
def Obligations.HomesGrantLines : Prop :=
  (∀ (h line hd u : Nat) (s : State),
      homeOf s line = h →
      normalKind (paKind s line) = true →
      paKind s line ≠ .hole →
      accepts s line = true →
      lineBusy (getHome s h) line = false →
      dirFind (getHome s h) line = none →
      (dirWays (getHome s h) h line).length < 16 →
      poisoned s line = false →
      farDown s line = false →
      smGet s.flaws line = none →
      hd < 6 →
      ∃ t, exec (.rdShared h line hd u .none) s = .next t ∧
        t.coh.data = s.coh.data ++ [⟨hd, u, line, .e, false, memReadN s.mem line 64⟩] ∧ dirFind (getHome t h) line = some ⟨line, true, bitOf hd⟩ ∧
        t.coh.probes = s.coh.probes ∧ SameMem s t ∧ t.cores = s.cores) ∧
  (∀ (h line hd u : Nat) (s : State),
      homeOf s line = h →
      normalKind (paKind s line) = true →
      paKind s line ≠ .hole →
      accepts s line = true →
      lineBusy (getHome s h) line = false →
      dirFind (getHome s h) line = none →
      (dirWays (getHome s h) h line).length < 16 →
      poisoned s line = false →
      farDown s line = false →
      smGet s.flaws line = none →
      hd < 6 →
      ∃ t, exec (.rdOwn h line hd u .none) s = .next t ∧
        t.coh.data = s.coh.data ++ [⟨hd, u, line, .e, false, memReadN s.mem line 64⟩] ∧ dirFind (getHome t h) line = some ⟨line, true, bitOf hd⟩ ∧
        t.coh.probes = s.coh.probes ∧ SameMem s t ∧ t.cores = s.cores) ∧
  (∀ (h line hd u : Nat) (v : BitVec 6) (s : State),
      homeOf s line = h →
      normalKind (paKind s line) = true →
      paKind s line ≠ .hole →
      accepts s line = true →
      lineBusy (getHome s h) line = false →
      dirFind (getHome s h) line = some ⟨line, false, v⟩ →
      (holdersOf v).filter (· != hd) ≠ [] →
      ∃ t, exec (.rdOwn h line hd u .none) s = .next t ∧
        t.coh.data = s.coh.data ∧ t.coh.probes = s.coh.probes ++ ((holdersOf v).filter (· != hd)).map (fun k => ⟨h, k, line, true, false⟩) ∧
        (getHome t h).txns = (getHome s h).txns ++ [⟨line, bareReq cRdOwn line hd u .none, (holdersOf v).filter (· != hd), [], false⟩] ∧
        SameMem s t ∧ t.cores = s.cores) ∧
  (∀ (h line hd u : Nat) (s : State),
      homeOf s line = h →
      normalKind (paKind s line) = true →
      paKind s line ≠ .hole →
      accepts s line = true →
      lineBusy (getHome s h) line = false →
      dirFind (getHome s h) line = some ⟨line, false, bitOf hd⟩ →
      hd < 6 →
      holdsS s u line = true →
      ∃ t, exec (.upgrade h line hd u) s = .next t ∧
        t.coh.data = s.coh.data ++ [⟨hd, u, line, .e, false, []⟩] ∧ dirFind (getHome t h) line = some ⟨line, true, bitOf hd⟩ ∧
        t.coh.probes = s.coh.probes ∧ SameMem s t ∧ t.cores = s.cores) ∧
  (∀ (h line u : Nat) (s : State),
      homeOf s line = h →
      normalKind (paKind s line) = true →
      paKind s line ≠ .hole →
      accepts s line = true →
      lineBusy (getHome s h) line = false →
      dirFind (getHome s h) line = none →
      poisoned s line = false →
      farDown s line = false →
      smGet s.flaws line = none →
      ∃ t, exec (.rdNc h line u .none) s = .next t ∧
        t.coh.returned = (u, line, false, memReadN s.mem line 64) :: s.coh.returned ∧ t.coh.data = s.coh.data ∧ dirFind (getHome t h) line = none ∧ SameMem s t ∧ t.cores = s.cores) ∧
  (∀ (h line hd u tg : Nat) (e : Ecc) (mask : BitVec 64) (data clr : List Byte) (q : Instr × CohReq) (s : State),
      q ∈ [(Instr.rdShared h line hd u e, bareReq cRdShared line hd u e), (.rdOwn h line hd u e, bareReq cRdOwn line hd u e),
        (.upgrade h line hd u, bareReq cUpgrade line hd u .none), (.rdNc h line u e, bareReq cRdNc line 6 u e),
        (.wrFull h line u data, { bareReq cWrFull line 6 u .none with data := data }),
        (.wrPart h line u mask data, { bareReq cWrPart line 6 u .none with mask := mask, data := data }),
        (.wrStash h line u tg data, { bareReq cWrStash line 6 u .none with target := tg, data := data }),
        (.rmwHome h line u clr data, { bareReq cRmwHome line 6 u .none with clear := clr, data := data })] →
      homeOf s line = h →
      normalKind (paKind s line) = true →
      paKind s line ≠ .hole →
      accepts s line = true →
      lineBusy (getHome s h) line = false →
      needsEntry s (asServed s q.2) = true → hasRoom (getHome s h) h line = true →
      (probesFor (dirFind (getHome s h) line) (asServed s q.2)).1 ≠ [] →
      ∃ t, exec (q.1) s = .next t ∧
        t.coh.probes = s.coh.probes ++ (probesFor (dirFind (getHome s h) line) (asServed s q.2)).1.map (fun k => ⟨h, k, line, (probesFor (dirFind (getHome s h) line) (asServed s q.2)).2, false⟩) ∧
        (getHome t h).txns = (getHome s h).txns ++ [⟨line, asServed s q.2, (probesFor (dirFind (getHome s h) line) (asServed s q.2)).1, [], false⟩] ∧ t.coh.data = s.coh.data ∧ SameMem s t ∧ t.cores = s.cores) ∧
  (∀ (h line hd u tg : Nat) (e : Ecc) (mask : BitVec 64) (data clr : List Byte) (q : Instr × CohReq) (s : State),
      q ∈ [(Instr.rdShared h line hd u e, bareReq cRdShared line hd u e), (.rdOwn h line hd u e, bareReq cRdOwn line hd u e),
        (.upgrade h line hd u, bareReq cUpgrade line hd u .none), (.rdNc h line u e, bareReq cRdNc line 6 u e),
        (.wrFull h line u data, { bareReq cWrFull line 6 u .none with data := data }),
        (.wrPart h line u mask data, { bareReq cWrPart line 6 u .none with mask := mask, data := data }),
        (.wrStash h line u tg data, { bareReq cWrStash line 6 u .none with target := tg, data := data }),
        (.rmwHome h line u clr data, { bareReq cRmwHome line 6 u .none with clear := clr, data := data })] →
      homeOf s line = h →
      normalKind (paKind s line) = true →
      paKind s line ≠ .hole →
      accepts s line = true →
      lineBusy (getHome s h) line = false →
      needsEntry s (asServed s q.2) = true → hasRoom (getHome s h) h line = true →
      (probesFor (dirFind (getHome s h) line) (asServed s q.2)).1 = [] →
      exec (q.1) s = .next (showHome (closeReq (openTxn s h (asServed s q.2)).1 h (openTxn s h (asServed s q.2)).2) h)) ∧
  (∀ (h line hd u tg : Nat) (e : Ecc) (mask : BitVec 64) (data clr : List Byte) (q : Instr × CohReq) (s : State),
      q ∈ [(Instr.rdShared h line hd u e, bareReq cRdShared line hd u e), (.rdOwn h line hd u e, bareReq cRdOwn line hd u e),
        (.upgrade h line hd u, bareReq cUpgrade line hd u .none), (.rdNc h line u e, bareReq cRdNc line 6 u e),
        (.wrFull h line u data, { bareReq cWrFull line 6 u .none with data := data }),
        (.wrPart h line u mask data, { bareReq cWrPart line 6 u .none with mask := mask, data := data }),
        (.wrStash h line u tg data, { bareReq cWrStash line 6 u .none with target := tg, data := data }),
        (.rmwHome h line u clr data, { bareReq cRmwHome line 6 u .none with clear := clr, data := data })] →
      homeOf s line = h →
      normalKind (paKind s line) = true →
      paKind s line ≠ .hole →
      accepts s line = true →
      lineBusy (getHome s h) line = true →
      ∃ t, exec (q.1) s = .next t ∧
        (getHome t h).queue = (getHome s h).queue ++ [q.2] ∧ (getHome t h).txns = (getHome s h).txns ∧ t.coh.probes = s.coh.probes ∧ t.coh.data = s.coh.data ∧ SameMem s t ∧ t.cores = s.cores)

/-- At the home of an idle line that nobody holds, on a working channel: WR_FULL leaves exactly its 64 bytes and no poison on the line; of a line without poison, WR_PART leaves its bytes where its mask says and the old ones elsewhere, and RMW_HOME leaves the old bytes cleared and set as it asks; WR_STASH, in a set with room, leaves its 64 bytes, and the line is recorded in E with its target's holder, which has it, or, where the target names no unit that can take it, with nobody, and is counted as dropped. WR_FULL, WR_PART and RMW_HOME change no byte outside the line and no core. Completes, under hypotheses on the state and the operands alone: WR_FULL, WR_PART, RMW_HOME, WR_STASH. -/
def Obligations.HomesWriteLines : Prop :=
  (∀ (h line u : Nat) (data : List Byte) (s : State),
      homeOf s line = h →
      normalKind (paKind s line) = true →
      paKind s line ≠ .hole →
      accepts s line = true →
      lineBusy (getHome s h) line = false →
      dirFind (getHome s h) line = none →
      deadLine s line = false →
      line % 64 = 0 →
      s.mem.wf = true →
      data.length = 64 →
      ∃ t, exec (.wrFull h line u data) s = .next t ∧
        memReadN t.mem line 64 = data ∧ t.poison.contains line = false ∧ (∀ a, (a < line ∨ line + 64 ≤ a) → memRead t.mem a = memRead s.mem a) ∧
        t.coh.returned = (u, line, false, []) :: s.coh.returned ∧ t.cores = s.cores) ∧
  (∀ (h line u : Nat) (mask : BitVec 64) (data : List Byte) (s : State),
      homeOf s line = h →
      normalKind (paKind s line) = true →
      paKind s line ≠ .hole →
      accepts s line = true →
      lineBusy (getHome s h) line = false →
      dirFind (getHome s h) line = none →
      deadLine s line = false →
      line % 64 = 0 →
      s.mem.wf = true →
      poisoned s line = false →
      farDown s line = false →
      smGet s.flaws line = none →
      data.length = 64 →
      ∃ t, exec (.wrPart h line u mask data) s = .next t ∧
        memReadN t.mem line 64 = mergeMask (memReadN s.mem line 64) data mask ∧ (∀ a, (a < line ∨ line + 64 ≤ a) → memRead t.mem a = memRead s.mem a) ∧ t.cores = s.cores) ∧
  (∀ (h line u : Nat) (clr st : List Byte) (s : State),
      homeOf s line = h →
      normalKind (paKind s line) = true →
      paKind s line ≠ .hole →
      accepts s line = true →
      lineBusy (getHome s h) line = false →
      dirFind (getHome s h) line = none →
      deadLine s line = false →
      line % 64 = 0 →
      s.mem.wf = true →
      poisoned s line = false →
      farDown s line = false →
      smGet s.flaws line = none →
      clr.length = 64 →
      st.length = 64 →
      ∃ t, exec (.rmwHome h line u clr st) s = .next t ∧
        memReadN t.mem line 64 = rmwBytes (memReadN s.mem line 64) clr st ∧ (∀ a, (a < line ∨ line + 64 ≤ a) → memRead t.mem a = memRead s.mem a) ∧ t.cores = s.cores) ∧
  (∀ (h line u tg : Nat) (data : List Byte) (s : State),
      homeOf s line = h →
      normalKind (paKind s line) = true →
      paKind s line ≠ .hole →
      accepts s line = true →
      lineBusy (getHome s h) line = false →
      dirFind (getHome s h) line = none →
      (dirWays (getHome s h) h line).length < 16 →
      deadLine s line = false →
      line % 64 = 0 →
      s.mem.wf = true →
      data.length = 64 →
      stashUnit s tg = true →
      ∃ t, exec (.wrStash h line u tg data) s = .next t ∧
        memReadN t.mem line 64 = data ∧ dirFind (getHome t h) line = some ⟨line, true, bitOf (holderOf (bits tg 13 9))⟩ ∧
        holderCopies t (holderOf (bits tg 13 9)) line ≠ []) ∧
  (∀ (h line u tg : Nat) (data : List Byte) (s : State),
      homeOf s line = h →
      normalKind (paKind s line) = true →
      paKind s line ≠ .hole →
      accepts s line = true →
      lineBusy (getHome s h) line = false →
      dirFind (getHome s h) line = none →
      (dirWays (getHome s h) h line).length < 16 →
      deadLine s line = false →
      line % 64 = 0 →
      s.mem.wf = true →
      data.length = 64 →
      stashUnit s tg = false →
      ∃ t, exec (.wrStash h line u tg data) s = .next t ∧
        memReadN t.mem line 64 = data ∧ dirFind (getHome t h) line = none ∧ t.cores = s.cores ∧ t.coh.l3 = s.coh.l3 ∧ t.coh.link = s.coh.link ∧
        fget t h 0 Fl.COH_STASH_DROPPED = min (fget s h 0 Fl.COH_STASH_DROPPED + 1) (2 ^ (Fl.COH_STASH_DROPPED.hi - Fl.COH_STASH_DROPPED.lo + 1) - 1))

/-- A probe whose holder has no copy of the line still on its way: it leaves the probes, one answer goes to its home, no copy is left but in S, none at all where the probe invalidates, and no memory or register changes; where an invalidating probe meets a modified copy at a holder of an accessible die, the answer carries its bytes. A WB of a holder whose modified copy the directory expects, for a line on a working channel with no transaction open, leaves its 64 bytes in memory, frees the entry and leaves no modified copy there; a WB or a PROBE_RESPONSE that is the next of its kind is taken. NOT_PRESENT takes one holder out of a transaction that still waits for others; one that no transaction awaits is discarded and recorded; neither changes memory or a core. The last answer, a clean one, of an RD_OWN that is its home's only transaction sends the readable line to the requester in E and closes the transaction. DATA_RESPONSE of a line for which a load of a core waits, with none of its bytes buffered, gives the load its bytes and ends the miss; of one for which nothing waits, installs the line in the core's L2; at a hub, installs it in the link cache. DIRECTORY_RETRY of a home whose only waiting request is an RD_SHARED of a readable line that nobody holds, whose set has a way, sends the line in E; of any home, where none is held at its requester, serves the first request whose set has a way. HOME_TIMEOUT of a transaction that is no eviction, with nothing queued behind it, leaves the line poisoned and zero, answers its requester with poison, records the timeout, raises event 0x0501, and changes no other byte. Completes, under hypotheses on the state and the operands alone: PROBE, WB, PROBE_RESPONSE, DATA_RESPONSE, NOT_PRESENT, DIRECTORY_RETRY, HOME_TIMEOUT. -/
def Obligations.ProbesAndAnswers : Prop :=
  (∀ (hd line : Nat) (p : ProbeMsg) (x : CacheLine) (s : State),
      s.coh.probes.find? (fun p => p.holder == hd && p.line == line) = some p →
      p.inval = true →
      2 ≤ hd → windowDead s (holderDie hd) = false →
      s.coh.data.any (fun m => m.holder == hd && m.line == line && !m.poison) = false →
      (holderCopies s hd line).find? (fun x => x.st == .m) = some x →
      ∃ t, exec (.probe hd line) s = .next t ∧
        holderCopies t hd line = [] ∧ t.coh.resps = s.coh.resps ++ [⟨p.home, hd, line, .recalled x.data false, p.late⟩] ∧
        t.coh.probes = s.coh.probes.erase p ∧ SameMem s t ∧ t.regs = s.regs) ∧
  (∀ (hd line : Nat) (p : ProbeMsg) (s : State),
      s.coh.probes.find? (fun p => p.holder == hd && p.line == line) = some p →
      2 ≤ hd → windowDead s (holderDie hd) = false →
      s.coh.data.any (fun m => m.holder == hd && m.line == line && !m.poison) = false →
      ∃ t, exec (.probe hd line) s = .next t ∧
        t.coh.probes = s.coh.probes.erase p ∧ (p.inval = true → holderCopies t hd line = []) ∧ (holderCopies t hd line).all (fun x => x.st == .s) = true ∧
        (∃ k, t.coh.resps = s.coh.resps ++ [⟨p.home, hd, line, k, p.late⟩]) ∧ SameMem s t ∧ t.regs = s.regs) ∧
  (∀ (h hd line : Nat) (m : RespMsg) (s : State),
      nextResp s h line hd isWb = some m →
      exec (.wb h line hd) s = .next (showHome (takeResp s m) h)) ∧
  (∀ (h hd line : Nat) (m : RespMsg) (s : State),
      nextResp s h line hd isClean = some m →
      exec (.probeResponse h line hd) s = .next (showHome (takeResp s m) h)) ∧
  (∀ (d c line : Nat) (m : DataMsg) (k : CoreMiss) (s : State),
      d < 18 →
      dataFor s d c line = some m →
      m.poison = false →
      m.data.length = 64 →
      (getCore s d c).queue = [] →
      (getCore s d c).misses.filter (fun x => x.line == line) = [k] →
      k.isStore = false →
      k.mask = 0 →
      k.bytes.length = 64 →
      lineOf k.addr = line →
      (getCore s d c).stores.any (fun b => lineOf b.addr == line) = false →
      ∃ t, exec (.dataResponse d c line) s = .next t ∧
        (getCore t d c).result = .value (BitVec.ofNat 64 (leNat ((m.data.drop (k.addr % 64)).take k.size))) ∧
        (getCore t d c).misses = (getCore s d c).misses.filter (fun x => x.line != line) ∧ t.coh.data = s.coh.data.erase m ∧ SameMem s t ∧ t.regs = s.regs) ∧
  (∀ (h hd line : Nat) (x : CacheLine) (s : State),
      nextResp s h line hd isWb = none →
      homeOf s line = h →
      (holderCopies s hd line).find? (fun x => x.st == .m) = some x →
      (dirFind (getHome s h) line).any (fun e => e.em && e.holders.getLsbD hd) = true →
      (getHome s h).txns.any (fun y => y.line == line) = false →
      poisoned s line = false →
      x.data.length = 64 →
      deadLine s line = false →
      line % 64 = 0 →
      s.mem.wf = true →
      ∃ t, exec (.wb h line hd) s = .next t ∧
        memReadN t.mem line 64 = x.data ∧ dirFind (getHome t h) line = none ∧ t.coh.resps = s.coh.resps ∧
        (holderCopies t hd line).any (fun y => y.st == .m) = false) ∧
  (∀ (h hd line : Nat) (m : RespMsg) (x : Txn) (s : State),
      nextResp s h line hd (fun k => k == .notPresent) = some m →
      m.kind = .notPresent →
      m.late = false →
      waitsFor (getHome s h) line hd = some x →
      x.waiting.erase hd ≠ [] →
      ∃ t, exec (.notPresent h line hd) s = .next t ∧
        (getHome t h).txns = (getHome s h).txns.map (fun y => if y.line = line then { x with waiting := x.waiting.erase hd } else y) ∧
        t.coh.resps = s.coh.resps.erase m ∧ SameMem s t ∧ t.cores = s.cores) ∧
  (∀ (h hd line : Nat) (m : RespMsg) (s : State),
      nextResp s h line hd (fun k => k == .notPresent) = some m →
      m.kind = .notPresent →
      waitsFor (getHome s h) line hd = none →
      ∃ t, exec (.notPresent h line hd) s = .next t ∧
        t.coh.resps = s.coh.resps.erase m ∧ fget t h 0 Fl.COH_ERR_STATUS_LATE_DISCARD = 1 ∧ t.coh.homes = s.coh.homes ∧ SameMem s t ∧ t.cores = s.cores) ∧
  (∀ (h hd line r u : Nat) (m : RespMsg) (e : DirEntry) (s : State),
      nextResp s h line hd isClean = some m →
      m.kind = .clean false →
      m.late = false →
      (getHome s h).txns = [⟨line, bareReq cRdOwn line r u .none, [hd], [], false⟩] →
      (getHome s h).queue = [] →
      dirFind (getHome s h) line = some e →
      r < 6 →
      poisoned s line = false →
      farDown s line = false →
      smGet s.flaws line = none →
      ∃ t, exec (.probeResponse h line hd) s = .next t ∧
        t.coh.data = s.coh.data ++ [⟨r, u, line, .e, false, memReadN s.mem line 64⟩] ∧ (getHome t h).txns = [] ∧
        dirFind (getHome t h) line = some ⟨line, true, bitOf r⟩ ∧ SameMem s t ∧ t.cores = s.cores) ∧
  (∀ (d c line : Nat) (m : DataMsg) (s : State),
      d < 18 →
      dataFor s d c line = some m →
      m.poison = false →
      m.data ≠ [] →
      (getCore s d c).misses.any (fun x => x.line == line) = false →
      (getCore s d c).stores.any (fun b => lineOf b.addr == line) = false →
      ∃ t, exec (.dataResponse d c line) s = .next t ∧
        l2Find t d c line = some ⟨line, m.st, m.data⟩ ∧ t.coh.data = s.coh.data.erase m ∧ SameMem s t ∧ t.regs = s.regs) ∧
  (∀ (d c line : Nat) (m : DataMsg) (s : State),
      18 ≤ d →
      s.coh.data.find? (fun m => m.holder == holderOf d && m.line == line) = some m →
      m.poison = false →
      ∃ t, exec (.dataResponse d c line) s = .next t ∧
        (smGetD t.coh.link [] d).find? (fun x => x.line == line) = some ⟨line, m.st, m.data⟩ ∧ t.coh.data = s.coh.data.erase m ∧ SameMem s t ∧ t.cores = s.cores) ∧
  (∀ (h line hd u : Nat) (s : State),
      (getHome s h).retry = [bareReq cRdShared line hd u .none] →
      (getHome s h).held = [] →
      (getHome s h).queue = [] →
      dirFind (getHome s h) line = none →
      (dirWays (getHome s h) h line).length < 16 →
      poisoned s line = false →
      farDown s line = false →
      smGet s.flaws line = none →
      hd < 6 →
      ∃ t, exec (.directoryRetry h) s = .next t ∧
        t.coh.data = s.coh.data ++ [⟨hd, u, line, .e, false, memReadN s.mem line 64⟩] ∧ (getHome t h).retry = [] ∧ SameMem s t ∧ t.cores = s.cores) ∧
  (∀ (h : Nat) (r : CohReq) (s : State),
      (getHome s h).retry.find? (fun r => hasRoom (getHome s h) h r.line || (dirWays (getHome s h) h r.line).any fun e => !openOn (getHome s h) e.line) = some r →
      (getHome s h).held = [] →
      exec (.directoryRetry h) s = .next (serveNext (serveReq (putHome s h { getHome s h with retry := (getHome s h).retry.erase r }) h r) h r.line)) ∧
  (∀ (h line : Nat) (x : Txn) (s : State),
      (getHome s h).txns.find? (fun x => x.line == line) = some x →
      x.evict = false →
      (getHome s h).queue.filter (fun y => y.line == line) = [] →
      line < 2 ^ 60 →
      line % 64 = 0 →
      s.mem.wf = true →
      ∃ t, exec (.homeTimeout h line) s = .next t ∧
        t.poison.contains line = true ∧ memReadN t.mem line 64 = List.replicate 64 0 ∧ (getHome t h).txns.any (fun y => y.line == line) = false ∧
        (x.req.code ≤ cUpgrade → t.coh.data = s.coh.data ++ [⟨x.req.holder, x.req.unit, x.req.line, .s, true, []⟩]) ∧
        (cUpgrade < x.req.code → t.coh.returned = (x.req.unit, x.req.line, true, []) :: s.coh.returned) ∧
        fget t h 0 Fl.COH_ERR_STATUS_TIMEOUT = 1 ∧ t.evt.arriving.map (·.code) = s.evt.arriving.map (·.code) ++ [0x0501] ∧ (∀ a, (a < line ∨ line + 64 ≤ a) → memRead t.mem a = memRead s.mem a))

/-- HBM_STACK_FAILED of a stack that serves, with neither a system reset nor a reset of its partition in progress and commits left for its persistent register, excludes the stack and resets the partition. HBM_PC_FAILED of a good pseudo-channel of a stack that keeps at least 24 adds it to the failed ones, raises event 0x0F51 and changes no stored byte, reset or context. DDR_CHANNEL_FAILED of a working channel sets its FAILED bit, raises 0x0F53, and changes no other register and no memory. REFRESH changes nothing. RECALIBRATION of a unit that is due, in a quiet window where it needs one, records the time and changes nothing else; forced once it has been due for 100 ms, it is counted too; of one that is not due it changes nothing. PATROL_SCRUB that meets an uncorrected error in a line that is not poisoned leaves the line poisoned and zero, raises 0x0F52 and changes no other byte; of a sound line it changes nothing; of any line of a controller it does what the error does, and at the end of a pass records it. Completes, under hypotheses on the state and the operands alone: HBM_STACK_FAILED, HBM_PC_FAILED, DDR_CHANNEL_FAILED, RECALIBRATION, PATROL_SCRUB, REFRESH. -/
def Obligations.MemoryControllersFailAndScrub : Prop :=
  (∀ (st p : Nat) (s : State),
      stackServes s st = true →
      diePart s (18 + st / 4) = some p →
      s.rst.kind.rank < 2 →
      s.rst.parts.contains p = false →
      (getPersist s 1).commits < wearEnd →
      ∃ t, exec (.hbmStackFailed st) s = .next t ∧
        t.rst.parts.contains p = true ∧ (hbmExclude t (18 + st / 4)).testBit (st % 4) = true ∧ t.fuses = s.fuses) ∧
  (∀ (pc : Nat) (s : State),
      stackServes s (pc / 32) = true →
      (goodPcs s (pc / 32)).testBit (pc % 32) = true →
      s.failedPcs.contains pc = false →
      lostPcs { s with failedPcs := insertNat s.failedPcs pc } (pc / 32) ≤ 8 →
      ∃ t, exec (.hbmPcFailed pc) s = .next t ∧
        t.failedPcs = insertNat s.failedPcs pc ∧ t.evt.arriving.map (·.code) = s.evt.arriving.map (·.code) ++ [0x0F51] ∧
        SameMem s t ∧ t.rst = s.rst ∧ t.ctxs = s.ctxs) ∧
  (∀ (d ch : Nat) (s : State),
      (fget s d 0 Fl.DDR_POPULATION_POPULATED).testBit ch = true →
      (fget s d 0 Fl.DDR_POPULATION_FAILED).testBit ch = false →
      ch < 8 →
      ∃ t, exec (.ddrChannelFailed d ch) s = .next t ∧
        fget t d 0 Fl.DDR_POPULATION_FAILED = fget s d 0 Fl.DDR_POPULATION_FAILED ||| 2 ^ ch ∧
        t.evt.arriving.map (·.code) = s.evt.arriving.map (·.code) ++ [0x0F53] ∧ SameMem s t ∧ RegsBut s t [regKey d .ddrPopulation 0]) ∧
  (∀ (u : Nat) (s : State),
      exec (.refresh u) s = .next (s)) ∧
  (∀ (u : Nat) (c : Nat × Bool × Nat) (s : State),
      recalUnit s u = some c →
      recalDue s u c + 100000000 ≤ s.time.toNat →
      exec (.recalibration u true) s = .next (fsat { s with recals := smPut s.recals u s.time.toNat } c.1 0 (if c.2.1 then Fl.HBM_STATS_RECAL_FORCED else Fl.DDR_STATS_RECAL_FORCED) 1)) ∧
  (∀ (u : Nat) (c : Nat × Bool × Nat) (s : State),
      recalUnit s u = some c →
      recalDue s u c ≤ s.time.toNat →
      c.2.1 = true → quietHub s c.1 = true →
      exec (.recalibration u false) s = .next ({ s with recals := smPut s.recals u s.time.toNat })) ∧
  (∀ (u : Nat) (c : Nat × Bool × Nat) (b : Bool) (s : State),
      recalUnit s u = some c →
      s.time.toNat < recalDue s u c →
      exec (.recalibration u b) s = .next (s)) ∧
  (∀ (line : Nat) (c : Nat × Bool × Nat) (s : State),
      controllerOf s line = some c →
      poisoned s line = false →
      s.mem.wf = true →
      ∃ t, exec (.patrolScrub line .ue false) s = .next t ∧
        t.poison.contains line = true ∧ memReadN t.mem line 64 = List.replicate 64 0 ∧ (∀ a, (a < line ∨ line + 64 ≤ a) → memRead t.mem a = memRead s.mem a) ∧
        t.evt.arriving.map (·.code) = s.evt.arriving.map (·.code) ++ [0x0F52]) ∧
  (∀ (line : Nat) (x : Ecc) (b : Bool) (c : Nat × Bool × Nat) (s : State),
      controllerOf s line = some c →
      exec (.patrolScrub line x b) s = .next (if b then scrubEnd (memEcc s line x) c else memEcc s line x)) ∧
  (∀ (line : Nat) (s : State),
      poisoned s line = false →
      smGet s.flaws line = none →
      exec (.patrolScrub line .none false) s = .next (s))

/-- On a Sahic link that is up: a data or control flit whose CRC is right, that carries no NAK and is next in order is delivered on its channel, its SEQ is the last one accepted, and no memory, register or core changes. Of a flit whose CRC is wrong, or of one out of order, nothing is delivered, the last SEQ accepted stays, and a flit of kind 2 with NAK and that SEQ goes out; the wrong CRC is counted, and no other register changes. An acknowledgement without NAK of flits that the replay buffer holds takes them out of it and gives its credits. A link that is not up, and a bond, take no flit. Completes, under hypotheses on the state and the operands alone: FLIT_RECEIVE. -/
def Obligations.FlitsArriveInOrder : Prop :=
  (∀ (d p : Nat) (f : List Byte) (s : State),
      lnkState s d p = 2 →
      isBond d p = false →
      flitKind f < 2 →
      flitCrcOk f = true →
      flitNak f = false →
      flitSeq f = ((getLnk s d p).lastSeq + 1) % 4096 →
      ∃ t, exec (.flitReceive d p f) s = .next t ∧
        (getLnk t d p).lastSeq = flitSeq f ∧ (getLnk t d p).nakPending = false ∧
        (getLnk t d p).delivered = (getLnk s d p).delivered ++ [(flitChan f, (f.drop 8).take 240)] ∧ SameMem s t ∧ t.regs = s.regs ∧ t.cores = s.cores) ∧
  (∀ (d p : Nat) (f : List Byte) (s : State),
      lnkState s d p = 2 →
      isBond d p = false →
      flitCrcOk f = false →
      p < 16 →
      (getLnk s d p).lastSeq < 4096 →
      ∃ t, exec (.flitReceive d p f) s = .next t ∧
        (getLnk t d p).out.dropLast = (getLnk s d p).out ∧
        (getLnk t d p).out.getLast?.map (fun g => (flitKind g, flitNak g, flitAck g)) = some (2, true, (getLnk s d p).lastSeq) ∧
        (getLnk t d p).delivered = (getLnk s d p).delivered ∧ (getLnk t d p).lastSeq = (getLnk s d p).lastSeq ∧ SameMem s t ∧ t.cores = s.cores ∧ RegsBut s t [regKey d .lnkPortErr p] ∧
        fget t d p Fl.LNK_PORT_ERR_CRC = min (fget s d p Fl.LNK_PORT_ERR_CRC + 1) (2 ^ (Fl.LNK_PORT_ERR_CRC.hi - Fl.LNK_PORT_ERR_CRC.lo + 1) - 1)) ∧
  (∀ (d p : Nat) (f : List Byte) (s : State),
      lnkState s d p = 2 →
      isBond d p = false →
      flitKind f < 2 →
      flitCrcOk f = true →
      flitNak f = false →
      flitSeq f ≠ ((getLnk s d p).lastSeq + 1) % 4096 →
      (getLnk s d p).lastSeq < 4096 →
      ∃ t, exec (.flitReceive d p f) s = .next t ∧
        (getLnk t d p).out.dropLast = (getLnk s d p).out ∧
        (getLnk t d p).out.getLast?.map (fun g => (flitKind g, flitNak g, flitAck g)) = some (2, true, (getLnk s d p).lastSeq) ∧
        (getLnk t d p).delivered = (getLnk s d p).delivered ∧ (getLnk t d p).lastSeq = (getLnk s d p).lastSeq ∧ SameMem s t ∧ t.cores = s.cores ∧ t.regs = s.regs) ∧
  (∀ (d p : Nat) (f : List Byte) (g : SentFlit) (r : List SentFlit) (s : State),
      lnkState s d p = 2 →
      isBond d p = false →
      flitKind f = 2 →
      flitCrcOk f = true →
      flitNak f = false →
      (getLnk s d p).sent = g :: r →
      0 < (flitAck f + 1 + 4096 - flitSeq g.flit) % 4096 →
      (flitAck f + 1 + 4096 - flitSeq g.flit) % 4096 ≤ r.length + 1 →
      exec (.flitReceive d p f) s = .next (takeCredits (putLnk s d p { (getLnk s d p) with sent := (getLnk s d p).sent.drop ((flitAck f + 1 + 4096 - flitSeq g.flit) % 4096) }) d p f)) ∧
  (∀ (d p : Nat) (f : List Byte) (s : State),
      lnkState s d p ≠ 2 ∨ isBond d p = true →
      exec (.flitReceive d p f) s = .next (s))

/-- RETRAIN of an existing link that is up or retraining, other than the stack bond, runs its training attempts. Where no map is recorded at either end and the first attempt finds maps of the link's width, or where both ends record the same two maps, the link that was up comes up at the width of what is good in both, and no memory, core or reset changes. TRAINING_FRAME of a link that trains, with maps that agree with this side's: where the other side has computed the same good set, the link comes up at its width; where the other side has computed none, this side keeps the maps and the set. One that disagrees starts from scratch. LANE_RECAL of a link with a free spare changes nothing; of a quiet link that is up, without one, it leaves it retraining. LNK_PORT_CTL_RETRAIN of a link that is up leaves it retraining, and of the stack bond sets REJECTED and has no other effect. LINK_DOWN of a link that is up: one of a port die or the system die is then down, raises event 0x0511 and starts no reset of the device; one between host dies and hubs starts a system reset; one of a matrix or near-store die starts a reset of its partition and changes no fuse or persistent register. Completes, under hypotheses on the state and the operands alone: RETRAIN, TRAINING_FRAME, LANE_RECAL, LNK_PORT_CTL_RETRAIN, LINK_DOWN. -/
def Obligations.LinksTrainAndFall : Prop :=
  (∀ (d p : Nat) (l : List (List Bool × List Bool)) (s : State),
      lnkExists d p = true →
      isBond d p = false →
      lnkState s d p = 2 ∨ lnkState s d p = 3 →
      exec (.retrain d p l) s = .next (endTraining d p (attempts (startRetrain s d p) d p l))) ∧
  (∀ (d p : Nat) (a b : List Bool) (r : List (List Bool × List Bool)) (w : Nat × Nat) (s : State),
      lnkExists d p = true →
      isBond d p = false →
      lnkState s d p = 2 →
      a.length = laneCount d p →
      b.length = laneCount d p →
      (getLnk s d p).ownMap = none →
      (getLnk s d p).record = none →
      (getLnk s (lnkPeer d p).1 (lnkPeer d p).2).ownMap = none →
      (getLnk s (lnkPeer d p).1 (lnkPeer d p).2).record = none →
      lnkWidth d p (List.zipWith (fun x y => x && y) a b) = some w →
      ∃ t, exec (.retrain d p ((a, b) :: r)) s = .next t ∧
        lnkState t d p = 2 ∧ fget t d p Fl.LNK_PORT_STATE_WIDTH = w.1 ∧ SameMem s t ∧ t.cores = s.cores ∧ t.rst = s.rst) ∧
  (∀ (d p : Nat) (a b : List Bool) (q : List Bool × List Bool) (r : List (List Bool × List Bool)) (w : Nat × Nat) (s : State),
      lnkExists d p = true →
      isBond d p = false →
      lnkState s d p = 2 →
      (getLnk s d p).ownMap = some a →
      (getLnk s d p).record = some b →
      (getLnk s (lnkPeer d p).1 (lnkPeer d p).2).ownMap = some b →
      (getLnk s (lnkPeer d p).1 (lnkPeer d p).2).record = some a →
      lnkWidth d p (List.zipWith (fun x y => x && y) a b) = some w →
      List.zipWith (fun x y => x && y) b a = List.zipWith (fun x y => x && y) a b →
      ∃ t, exec (.retrain d p (q :: r)) s = .next t ∧
        lnkState t d p = 2 ∧ fget t d p Fl.LNK_PORT_STATE_WIDTH = w.1 ∧ SameMem s t ∧ t.cores = s.cores ∧ t.rst = s.rst) ∧
  (∀ (d p : Nat) (f : TrainFrame) (g : List Bool) (w : Nat × Nat) (s : State),
      lnkExists d p = true →
      lnkState s d p = 3 →
      goodSet (getLnk s d p) f = some g →
      (getLnk s (lnkPeer d p).1 (lnkPeer d p).2).good = some g →
      lnkWidth d p g = some w →
      ∃ t, exec (.trainingFrame d p f) s = .next t ∧
        lnkState t d p = 2 ∧ fget t d p Fl.LNK_PORT_STATE_WIDTH = w.1 ∧ SameMem s t ∧ t.cores = s.cores ∧ t.rst = s.rst) ∧
  (∀ (d p : Nat) (f : TrainFrame) (g : List Bool) (s : State),
      lnkExists d p = true →
      lnkState s d p = 3 →
      goodSet (getLnk s d p) f = some g →
      (getLnk s (lnkPeer d p).1 (lnkPeer d p).2).good = none →
      exec (.trainingFrame d p f) s = .next (putLnk s d p { (getLnk s d p) with ownMap := some (sentMap (getLnk s d p)), record := some f.ownMap, good := some g })) ∧
  (∀ (d p : Nat) (f : TrainFrame) (s : State),
      lnkExists d p = true →
      lnkState s d p = 3 →
      goodSet (getLnk s d p) f = none →
      exec (.trainingFrame d p f) s = .next (fromScratch (putLnk s d p { (getLnk s d p) with good := none }) d p)) ∧
  (∀ (d p : Nat) (q : Bool) (s : State),
      hasSpare s d p = true →
      exec (.laneRecal d p q) s = .next (s)) ∧
  (∀ (d p : Nat) (s : State),
      lnkExists d p = true →
      isBond d p = false →
      lnkState s d p = 2 →
      hasSpare s d p = false →
      ∃ t, exec (.laneRecal d p true) s = .next t ∧
        lnkState t d p = 3 ∧ SameMem s t ∧ t.rst = s.rst) ∧
  (∀ (d p : Nat) (s : State),
      windowDead s d = false →
      lnkExists d p = true →
      isBond d p = false →
      lnkState s d p = 2 →
      ∃ t, exec (.lnkPortCtlRetrain d p) s = .next t ∧
        lnkState t d p = 3 ∧ fget t d p Fl.LNK_PORT_CTL_REJECTED = 0 ∧ SameMem s t ∧ t.rst = s.rst) ∧
  (∀ (d p : Nat) (s : State),
      windowDead s d = false →
      lnkExists d p = true →
      isBond d p = true →
      exec (.lnkPortCtlRetrain d p) s = .next (fput s d p Fl.LNK_PORT_CTL_REJECTED 1)) ∧
  (∀ (d p c : Nat) (s : State),
      lnkExists d p = true →
      lnkState s d p = 2 →
      lossClass d p = 2 →
      ∃ t, exec (.linkDown d p c) s = .next t ∧
        lnkState t d p = 0 ∧ 0x0511 ∈ t.evt.arriving.map (·.code) ∧ t.rst.kind = s.rst.kind) ∧
  (∀ (d p c : Nat) (s : State),
      lnkExists d p = true →
      lnkState s d p = 2 →
      lossClass d p = 0 →
      s.rst.kind.rank < 2 →
      ∃ t, exec (.linkDown d p c) s = .next t ∧
        t.rst.kind = .system ∧ t.mem = [] ∧ t.pins.sysRstDriven = true) ∧
  (∀ (d p c k : Nat) (s : State),
      lnkExists d p = true →
      lnkState s d p = 2 →
      lossClass d p = 1 →
      s.rst.kind.rank < 2 →
      diePart s (lnkMatrix d p) = some k →
      s.rst.parts.contains k = false →
      ∃ t, exec (.linkDown d p c) s = .next t ∧
        t.rst.parts.contains k = true ∧ t.fuses = s.fuses ∧ t.persist = s.persist)

/-- Dividing watts among partitions by their weights never gives out more than there is. HELIOSTAT_EVALUATION hands the clamp back, keeps what it measured of each domain and of the host's demand, shows the input in PWR_INPUT, and changes no memory, launch or context. FAST_LOOP: input power above 4,300 W and above the ceiling sets the clamp to 600 mV, shows it, begins an excursion or goes on with one, and changes no memory or launch; power within the ceiling with no excursion begun is kept and shown; power within the ceiling ends an excursion, shows that, and changes no memory and no register but PWR_STATUS and PWR_INPUT. Completes, under hypotheses on the state and the operands alone: HELIOSTAT_EVALUATION, FAST_LOOP. -/
def Obligations.TheHeliostatDividesPower : Prop :=
  (∀ (s : State) (n : Nat) (ps : List Nat) (r : Nat), ((divide s n ps r).map (·.2)).sum ≤ r) ∧
  (∀ (p : PowerSample) (s : State),
      p.inputMv < 2 ^ 16 →
      p.inputDeciAmps < 2 ^ 16 →
      p.inputW < 2 ^ 16 →
      ∃ t, exec (.heliostatEvaluation p) s = .next t ∧
        t.power.clampMv = 0 ∧ t.power.domW = p.domainW.foldl (fun m x => smPut m x.1 x.2) [] ∧ t.power.lastHost = p.hostDemandW ∧
        fget t 24 0 Fl.PWR_INPUT_MILLIVOLTS = p.inputMv ∧ fget t 24 0 Fl.PWR_INPUT_DECIAMPS = p.inputDeciAmps ∧
        fget t 24 0 Fl.PWR_INPUT_WATTS = p.inputW ∧ SameMem s t ∧ t.launches = s.launches ∧ t.ctxs = s.ctxs) ∧
  (∀ (p : PowerSample) (s : State),
      4300 < p.inputW →
      sustainedW s < p.inputW →
      ∃ t, exec (.fastLoop p) s = .next t ∧
        t.power.clampMv = 600 ∧ fget t 24 0 Fl.PWR_STATUS_CLAMP = 1 ∧ t.power.overSince = some (s.power.overSince.getD s.time.toNat) ∧
        SameMem s t ∧ t.launches = s.launches) ∧
  (∀ (p : PowerSample) (s : State),
      p.inputW ≤ sustainedW s →
      s.power.overSince = none →
      exec (.fastLoop p) s = .next (takeSample s p)) ∧
  (∀ (p : PowerSample) (a : Nat) (s : State),
      p.inputW ≤ sustainedW s →
      s.power.overSince = some a →
      ∃ t, exec (.fastLoop p) s = .next t ∧
        t.power.overSince = none ∧ t.power.excursionEnd = some s.time.toNat ∧ fget t 24 0 Fl.PWR_STATUS_EXCURSION = 0 ∧
        SameMem s t ∧ RegsBut s t [regKey 24 .pwrStatus 0, regKey 24 .pwrInput 0])

/-- DIP_START of a bus from 9.0 V to below 11.4 V begins a ride-through, in which every pair's voltage is limited to 600 mV while the bus is below 9.6 V; RIDE_THROUGH_REDUCED sets or lifts that limit; neither changes memory. DIP_END within 2 ms ends the ride-through and its limit, raises event 0x0F61 and changes no memory. A bus below 9.0 V, and a dip of more than 2 ms, are a brownout. POWER_CEILING_UNMET once the ceiling has not been met for 10 ms shows UNMET, and raises 0x0F60 where none was raised in the last second; where no unmet ceiling is noted it changes nothing. CAP_REQ_ASSERT from step 5 of the start-up on begins the cap request and shows it; CAP_REQ_RELEASE ends it; neither changes memory or another register. PAIR_IDLE_OFF of a pair that is on, with idling enabled and engines neither placed nor tested, switches it off: PWD_PAIR reads 0, its operand stores read as zero, its engines are to be cleared, memory and near store keep their contents, and no register changes but the pair's and its engines' handshake and energy counters. PWR_DOMAIN_OFF_REQ of a port domain whose units are all disabled switches it off, with a unit in use sets REJECTED and changes no power state, and a request to switch a domain on is taken. PWR_LEARN_FLUSH empties the learning table. The last three change no other register and no memory. Completes, under hypotheses on the state and the operands alone: DIP_START, RIDE_THROUGH_REDUCED, DIP_END, POWER_CEILING_UNMET, CAP_REQ_ASSERT, CAP_REQ_RELEASE, PAIR_IDLE_OFF, PWR_DOMAIN_OFF_REQ, PWR_LEARN_FLUSH. -/
def Obligations.TheBusDipsAndRecovers : Prop :=
  (∀ (mv : Nat) (s : State),
      s.power.dip = false →
      9000 ≤ mv →
      mv < 11400 →
      ∃ t, exec (.dipStart mv) s = .next t ∧
        t.power.dip = true ∧ t.power.busMv = (if mv < 9600 then 600 else 0) ∧ fget t 24 0 Fl.PWR_STATUS_RIDE_THROUGH = 1 ∧ SameMem s t) ∧
  (∀ (mv : Nat) (s : State),
      s.power.dip = true →
      9000 ≤ mv →
      ∃ t, exec (.rideThroughReduced mv) s = .next t ∧
        t.power.dip = true ∧ t.power.busMv = (if mv < 9600 then 600 else 0) ∧ SameMem s t) ∧
  (∀ (lo us : Nat) (s : State),
      s.power.dip = true →
      us ≤ 2000 →
      ∃ t, exec (.dipEnd lo us) s = .next t ∧
        t.power.dip = false ∧ t.power.busMv = 0 ∧ fget t 24 0 Fl.PWR_STATUS_RIDE_THROUGH = 0 ∧ SameMem s t ∧
        t.evt.arriving.map (·.code) = s.evt.arriving.map (·.code) ++ [0x0F61]) ∧
  (∀ (mv : Nat) (i : Instr) (s : State),
      i ∈ [Instr.dipStart mv, .rideThroughReduced mv] →
      mv < 9000 →
      exec (i) s = .next (doBrownout s)) ∧
  (∀ (lo us : Nat) (s : State),
      s.power.dip = true →
      2000 < us →
      exec (.dipEnd lo us) s = .next (doBrownout s)) ∧
  (∀ (b : Nat) (s : State),
      s.power.unmetSince = some b →
      b + 10000000 ≤ s.time.toNat →
      s.power.unmetRaised.all (fun a => decide (a + 1000000000 ≤ s.time.toNat)) = true →
      ∃ t, exec (.powerCeilingUnmet) s = .next t ∧
        fget t 24 0 Fl.PWR_STATUS_UNMET = 1 ∧ t.power.unmetRaised = some s.time.toNat ∧ t.evt.arriving.map (·.code) = s.evt.arriving.map (·.code) ++ [0x0F60] ∧
        SameMem s t ∧ RegsBut s t [regKey 24 .pwrStatus 0]) ∧
  (∀ (a b : Nat) (s : State),
      s.power.unmetSince = some b →
      b + 10000000 ≤ s.time.toNat →
      s.power.unmetRaised = some a →
      s.time.toNat < a + 1000000000 →
      exec (.powerCeilingUnmet) s = .next (fput s 24 0 Fl.PWR_STATUS_UNMET 1)) ∧
  (∀ (s : State),
      s.power.unmetSince = none →
      exec (.powerCeilingUnmet) s = .next (s)) ∧
  (∀ (s : State),
      5 ≤ fget s 24 0 Fl.BOOT_STATUS_STAGE →
      ∃ t, exec (.capReqAssert) s = .next t ∧
        t.power.capReq = true ∧ t.pins.capReqN = false ∧ fget t 24 0 Fl.PWR_STATUS_CAP_REQ = 1 ∧ SameMem s t ∧ RegsBut s t [regKey 24 .pwrStatus 0]) ∧
  (∀ (s : State),
      ∃ t, exec (.capReqRelease) s = .next t ∧
        t.power.capReq = false ∧ t.pins.capReqN = true ∧ fget t 24 0 Fl.PWR_STATUS_CAP_REQ = 0 ∧ SameMem s t ∧ RegsBut s t [regKey 24 .pwrStatus 0]) ∧
  (∀ (d p : Nat) (s : State),
      d < 8 →
      p < 17 →
      fget s d 0 Fl.PWD_IDLE_IDLE_US ≠ 0 →
      fget s d (2 * p) Fl.ENG_STATUS_PLACED = 0 →
      fget s d (2 * p + 1) Fl.ENG_STATUS_PLACED = 0 →
      (getEng s d (2 * p)).testing = false →
      (getEng s d (2 * p + 1)).testing = false →
      fget s d p Fl.PWD_PAIR_STATE ≠ 0 →
      s.ostore.wf = true →
      ∃ t, exec (.pairIdleOff d p) s = .next t ∧
        rget t d .pwdPair p = 0 ∧ (∀ a, osKey d (2 * p) 0 ≤ a → a < osKey d (2 * p + 2) 0 → memRead t.ostore a = 0) ∧
        (getEng t d (2 * p)).dirty = true ∧ (getEng t d (2 * p + 1)).dirty = true ∧ t.mem = s.mem ∧ t.near = s.near ∧
        RegsBut s t [regKey d .pwdPair p, regKey d .pwdEnergy p, regKey d .engHsTotal (2 * p), regKey d .engHsActive (2 * p), regKey d .engHsStallFeed (2 * p), regKey d .engHsStallDrain (2 * p), regKey d .engHsTotal (2 * p + 1), regKey d .engHsActive (2 * p + 1), regKey d .engHsStallFeed (2 * p + 1), regKey d .engHsStallDrain (2 * p + 1)]) ∧
  (∀ (pd k : Nat) (s : State),
      windowDead s 24 = false →
      pd = 22 ∨ pd = 23 →
      k ≤ 4 →
      domIdle s pd k = true →
      ∃ t, exec (.pwrDomainOffReq (unitId pd 7 k) true) s = .next t ∧
        t.power.domOff = insertNat s.power.domOff (unitId pd 7 k) ∧ fget t 24 0 Fl.PWR_DOMAIN_REJECTED = 0 ∧
        RegsBut s t [regKey 24 .pwrDomain 0] ∧ SameMem s t) ∧
  (∀ (pd k : Nat) (s : State),
      windowDead s 24 = false →
      pd = 22 ∨ pd = 23 →
      k ≤ 4 →
      domIdle s pd k = false →
      ∃ t, exec (.pwrDomainOffReq (unitId pd 7 k) true) s = .next t ∧
        t.power = s.power ∧ fget t 24 0 Fl.PWR_DOMAIN_REJECTED = 1 ∧ RegsBut s t [regKey 24 .pwrDomain 0] ∧ SameMem s t) ∧
  (∀ (pd k : Nat) (s : State),
      windowDead s 24 = false →
      pd = 22 ∨ pd = 23 →
      k ≤ 4 →
      ∃ t, exec (.pwrDomainOffReq (unitId pd 7 k) false) s = .next t ∧
        t.power = { s.power with domOff := s.power.domOff.filter (· != unitId pd 7 k) } ∧ RegsBut s t [regKey 24 .pwrDomain 0] ∧ SameMem s t) ∧
  (∀ (s : State),
      windowDead s 24 = false →
      ∃ t, exec (.pwrLearnFlush) s = .next t ∧
        t.power = { s.power with learn := [] } ∧ fget t 24 0 Fl.PWR_LEARN_ENTRIES = 0 ∧ RegsBut s t [regKey 24 .pwrLearn 0] ∧ SameMem s t)

/-- THERMAL_SAMPLE of a die at or above its limit, for which no event was raised in the current second, raises event 0x0F63, drives THERM_ALERT_N and shows it, keeps the temperature and changes no memory. A near-store sample below 256 °C that must set a limit shows the temperature in whole degrees, gives the die the limit of its band and changes no memory. THERMAL_GATE_STEP of a matrix die at its limit whose thermal voltage is at 600 mV raises its gate by an eighth, to 7 at most, and of one at least 1 °C below its limit lowers it by an eighth; neither changes memory. Completes, under hypotheses on the state and the operands alone: THERMAL_SAMPLE, NS_THERMAL_SAMPLE, THERMAL_GATE_STEP. -/
def Obligations.ThermalControl : Prop :=
  (∀ (d a : Nat) (s : State),
      d < 25 →
      tMax d ≤ a →
      smGet s.power.thermalRaised d ≠ some (s.time.toNat / 1000000000) →
      ∃ t, exec (.thermalSample d a) s = .next t ∧
        t.evt.arriving.map (·.code) = s.evt.arriving.map (·.code) ++ [0x0F63] ∧ t.pins.thermAlertDriven = true ∧
        fget t 24 0 Fl.PWR_THERM_ALERT = 1 ∧ smGet t.power.lastTemp d = some a ∧ SameMem s t) ∧
  (∀ (d a : Nat) (s : State),
      8 ≤ d →
      d < 16 →
      a < 2560 →
      mustSet s d a = true →
      ∃ t, exec (.nsThermalSample d a) s = .next t ∧
        fget t (d - 8) 0 Fl.LNK_STACK_THERMAL_VLIMIT_MV = nearLimit a ∧ fget t (d - 8) 0 Fl.LNK_STACK_THERMAL_NS_TEMP_C = a / 10 ∧
        smGet t.power.nearMv (d - 8) = some (nearLimit a) ∧ SameMem s t) ∧
  (∀ (d a : Nat) (s : State),
      d < 8 →
      smGetD s.power.thermalMv 900 d = 600 →
      tMax d ≤ a →
      ∃ t, exec (.thermalGateStep d a) s = .next t ∧
        smGet t.power.thermalGate d = some (min 7 (smGetD s.power.thermalGate 0 d + 1)) ∧ SameMem s t) ∧
  (∀ (d a : Nat) (s : State),
      d < 8 →
      a + 10 ≤ tMax d →
      ∃ t, exec (.thermalGateStep d a) s = .next t ∧
        smGet t.power.thermalGate d = some (smGetD s.power.thermalGate 0 d - 1) ∧ SameMem s t)

/-- SLACK_REPORT of the coordinator enters slack, watts and its own grant in its table with the time, and changes no memory and nothing of the network; of a device outside a job it changes nothing. GRANT_DISTRIBUTION of the coordinator, once every known member's report is there and two different members' slacks lie at least 50 µs apart, changes the grants of the member of the highest and of the lowest slack so that their sum stays and the latter's does not fall, discards the reports and changes no memory. JOB_COORDINATOR_LOST of a member makes its grant its own BUDGET_W, raises event 0x0F62, and changes no memory and no register but PWR_JOB_STATUS. Completes, under hypotheses on the state and the operands alone: SLACK_REPORT, GRANT_DISTRIBUTION, JOB_COORDINATOR_LOST. -/
def Obligations.JobsShareGrants : Prop :=
  (∀ (sl w : Nat) (s : State),
      coordinator s = true →
      ∃ t, exec (.slackReport sl w) s = .next t ∧
        smGet t.power.reports (deviceId s) = some (sl, w, grantW s) ∧ smGet t.power.reportAt (deviceId s) = some s.time.toNat ∧ SameMem s t ∧ t.net = s.net) ∧
  (∀ (sl w : Nat) (s : State),
      jobOn s = false →
      exec (.slackReport sl w) s = .next (s)) ∧
  (∀ (h c : Nat × Nat) (s : State),
      coordinator s = true →
      s.power.budgets.any (fun b => (smGet s.power.reports b.1).isNone) = false →
      extremes s.power.reports = some (h, c) →
      c.2 + 50000 ≤ h.2 →
      h.1 ≠ c.1 →
      ∃ t, exec (.grantDistribution) s = .next t ∧
        smGetD t.power.grants 0 h.1 + smGetD t.power.grants 0 c.1 = smGetD s.power.grants 0 h.1 + smGetD s.power.grants 0 c.1 ∧
        smGetD s.power.grants 0 c.1 ≤ smGetD t.power.grants 0 c.1 ∧ t.power.reports = [] ∧ SameMem s t) ∧
  (∀ (s : State),
      jobOn s = true →
      coordinator s = false →
      ∃ t, exec (.jobCoordinatorLost) s = .next t ∧
        grantW t = fget s 24 0 Fl.PWR_JOB_CTL_BUDGET_W ∧ t.evt.arriving.map (·.code) = s.evt.arriving.map (·.code) ++ [0x0F62] ∧
        SameMem s t ∧ RegsBut s t [regKey 24 .pwrJobStatus 0])

/-- On an accessible port die: NET_QP_ENABLE of a queue pair that is off, whose record in DDR is read and passes the checks, makes it what the record says; one whose record is not in DDR leaves it in state 2 with status 0x0102, or 0x0210 where the address is neither far memory nor HBM, and changes no memory and no register; of one that is not off it changes nothing. NET_QP_DISABLE of a pair that is not draining, and has no stalled request or none posted, makes it off. NET_QP_DOORBELL of a running pair with a tail that does not move back and stays within the ring sets the tail; a tail outside changes nothing; of a pair in state 2 whose completion ring has room it completes every posted request, keeping the pair's status and changing no launch or context. Completes, under hypotheses on the state and the operands alone: NET_QP_ENABLE, NET_QP_DISABLE, NET_QP_DOORBELL. -/
def Obligations.QueuePairsStartStopAndPost : Prop :=
  (∀ (pd n : Nat) (r : BitVec 64) (bs : List Byte) (u s : State),
      windowDead s pd = false →
      qpState s pd n = 0 →
      paKind s (bits r.toNat 47 8 * 256) = .ddr →
      ncFetch s (bits r.toNat 47 8 * 256) 256 = (some bs, u) →
      qpOk u pd bs (parseQp bs (bits r.toNat 47 8 * 256)) = true →
      exec (.netQpEnable pd n r) s = .next (putQp u pd n (parseQp bs (bits r.toNat 47 8 * 256)))) ∧
  (∀ (pd n : Nat) (r : BitVec 64) (s : State),
      windowDead s pd = false →
      qpState s pd n = 0 →
      paKind s (bits r.toNat 47 8 * 256) ≠ .ddr →
      ∃ t, exec (.netQpEnable pd n r) s = .next t ∧
        qpState t pd n = 2 ∧ SameMem s t ∧ t.regs = s.regs ∧
        (getQp t pd n).map (·.errStatus) = some (match paKind s (bits r.toNat 47 8 * 256) with
          | .far => 0x0102
          | .hbm _ => 0x0102
          | _ => 0x0210)) ∧
  (∀ (pd n : Nat) (r : BitVec 64) (s : State),
      windowDead s pd = false →
      qpState s pd n ≠ 0 →
      exec (.netQpEnable pd n r) s = .next (s)) ∧
  (∀ (pd n : Nat) (q : Qp) (s : State),
      windowDead s pd = false →
      getQp s pd n = some q →
      q.state ≠ 3 →
      q.stalled = none ∨ q.head = q.tail →
      exec (.netQpDisable pd n) s = .next (putQp s pd n { q with state := 0 })) ∧
  (∀ (pd n : Nat) (v : Nat) (q : Qp) (s : State),
      windowDead s pd = false →
      getQp s pd n = some q →
      q.state = 1 →
      q.tail ≤ v →
      v ≤ q.head + 2 ^ q.sqLog2 →
      exec (.netQpDoorbell pd n v) s = .next (putQp s pd n { q with tail := v })) ∧
  (∀ (pd n : Nat) (v : Nat) (q : Qp) (s : State),
      windowDead s pd = false →
      getQp s pd n = some q →
      v < q.tail ∨ q.head + 2 ^ q.sqLog2 < v →
      exec (.netQpDoorbell pd n v) s = .next (s)) ∧
  (∀ (pd n : Nat) (v : Nat) (q : Qp) (s : State),
      windowDead s pd = false →
      getQp s pd n = some q →
      q.state = 2 →
      q.head ≤ q.tail →
      q.tail ≤ v →
      v ≤ q.head + 2 ^ q.sqLog2 →
      q.cqTail + (v - q.head) ≤ 2 ^ q.cqLog2 →
      q.cqLog2 < 32 →
      ringRefusal s q.context q.cqPa = none →
      ∃ t, exec (.netQpDoorbell pd n v) s = .next t ∧
        (getQp t pd n).map (fun x => (x.state, x.head, x.cqTail)) = some (2, v, (q.cqTail + (v - q.head)) % 2 ^ 32) ∧ (getQp t pd n).map (·.errStatus) = some q.errStatus ∧ t.launches = s.launches ∧ t.ctxs = s.ctxs)

/-- The request at the head of the send ring of a running queue pair, not stalled, not ended and not paused, whose port is up for Ethernet and whose completion ring has room and may be written, with its stamp right, the opcode of the command on a transport that has it, a LENGTH of 1 to 2^31 bytes, and its local bytes read (for RDMA_READ: written): the pair goes on running, the head and the completion tail move on by one and no launch changes. So does a SEND of LENGTH 0. With no request posted, SEND changes nothing. In general, once the pair has settled and takes a request, SEND, SEND_IMM, RDMA_WRITE, RDMA_WRITE_IMM and RDMA_READ send their message and end the request with status 0; one of LENGTH 0 ends with 0x0101. Completes, under hypotheses on the state and the operands alone: SEND, SEND_IMM, RDMA_WRITE, RDMA_WRITE_IMM, RDMA_READ. -/
def Obligations.RequestsOfQueuePairsComplete : Prop :=
  (∀ (pd n : Nat) (q : Qp) (w d : List Byte) (s : State),
      getQp s pd n = some q →
      q.state = 1 →
      q.stalled = none →
      q.ended = none →
      q.head ≠ q.tail →
      ethUp s q.port = true →
      pfcPaused s q = false →
      q.cqTail < 2 ^ q.cqLog2 →
      (readVa s (.qp pd n) q.context (q.sqVa + q.head % 2 ^ q.sqLog2 * 64) 64).1 = .ok w →
      recField w 2 2 = q.head % 65536 →
      recField w 0 1 = 1 →
      1 ≤ recField w 4 4 →
      recField w 4 4 ≤ 2 ^ 31 →
      (readVa (modQp (readVa s (.qp pd n) q.context (q.sqVa + q.head % 2 ^ q.sqLog2 * 64) 64).2 pd n fun x => { x with stale := 0, flags := recField w 1 1 % 2 }) (.qp pd n) q.context (recField w 8 8) (recField w 4 4)).1 = .ok d →
      ringRefusal (readVa (modQp (readVa s (.qp pd n) q.context (q.sqVa + q.head % 2 ^ q.sqLog2 * 64) 64).2 pd n fun x => { x with stale := 0, flags := recField w 1 1 % 2 }) (.qp pd n) q.context (recField w 8 8) (recField w 4 4)).2 q.context q.cqPa = none →
      ∃ t, exec (.send pd n) s = .next t ∧
        (getQp t pd n).map (fun x => (x.state, x.head, x.cqTail)) = some (1, q.head + 1, (q.cqTail + 1) % 2 ^ 32) ∧ t.launches = s.launches) ∧
  (∀ (pd n : Nat) (q : Qp) (w d : List Byte) (s : State),
      getQp s pd n = some q →
      q.state = 1 →
      q.stalled = none →
      q.ended = none →
      q.head ≠ q.tail →
      ethUp s q.port = true →
      pfcPaused s q = false →
      q.cqTail < 2 ^ q.cqLog2 →
      (readVa s (.qp pd n) q.context (q.sqVa + q.head % 2 ^ q.sqLog2 * 64) 64).1 = .ok w →
      recField w 2 2 = q.head % 65536 →
      recField w 0 1 = 2 →
      1 ≤ recField w 4 4 →
      recField w 4 4 ≤ 2 ^ 31 →
      (readVa (modQp (readVa s (.qp pd n) q.context (q.sqVa + q.head % 2 ^ q.sqLog2 * 64) 64).2 pd n fun x => { x with stale := 0, flags := recField w 1 1 % 2 }) (.qp pd n) q.context (recField w 8 8) (recField w 4 4)).1 = .ok d →
      ringRefusal (readVa (modQp (readVa s (.qp pd n) q.context (q.sqVa + q.head % 2 ^ q.sqLog2 * 64) 64).2 pd n fun x => { x with stale := 0, flags := recField w 1 1 % 2 }) (.qp pd n) q.context (recField w 8 8) (recField w 4 4)).2 q.context q.cqPa = none →
      ∃ t, exec (.sendImm pd n) s = .next t ∧
        (getQp t pd n).map (fun x => (x.state, x.head, x.cqTail)) = some (1, q.head + 1, (q.cqTail + 1) % 2 ^ 32) ∧ t.launches = s.launches) ∧
  (∀ (pd n : Nat) (q : Qp) (w d : List Byte) (s : State),
      getQp s pd n = some q →
      q.state = 1 →
      q.stalled = none →
      q.ended = none →
      q.head ≠ q.tail →
      ethUp s q.port = true →
      pfcPaused s q = false →
      q.cqTail < 2 ^ q.cqLog2 →
      (readVa s (.qp pd n) q.context (q.sqVa + q.head % 2 ^ q.sqLog2 * 64) 64).1 = .ok w →
      recField w 2 2 = q.head % 65536 →
      recField w 0 1 = 3 →
      q.ud = false →
      1 ≤ recField w 4 4 →
      recField w 4 4 ≤ 2 ^ 31 →
      (readVa (modQp (readVa s (.qp pd n) q.context (q.sqVa + q.head % 2 ^ q.sqLog2 * 64) 64).2 pd n fun x => { x with stale := 0, flags := recField w 1 1 % 2 }) (.qp pd n) q.context (recField w 8 8) (recField w 4 4)).1 = .ok d →
      ringRefusal (readVa (modQp (readVa s (.qp pd n) q.context (q.sqVa + q.head % 2 ^ q.sqLog2 * 64) 64).2 pd n fun x => { x with stale := 0, flags := recField w 1 1 % 2 }) (.qp pd n) q.context (recField w 8 8) (recField w 4 4)).2 q.context q.cqPa = none →
      ∃ t, exec (.rdmaWrite pd n) s = .next t ∧
        (getQp t pd n).map (fun x => (x.state, x.head, x.cqTail)) = some (1, q.head + 1, (q.cqTail + 1) % 2 ^ 32) ∧ t.launches = s.launches) ∧
  (∀ (pd n : Nat) (q : Qp) (w d : List Byte) (s : State),
      getQp s pd n = some q →
      q.state = 1 →
      q.stalled = none →
      q.ended = none →
      q.head ≠ q.tail →
      ethUp s q.port = true →
      pfcPaused s q = false →
      q.cqTail < 2 ^ q.cqLog2 →
      (readVa s (.qp pd n) q.context (q.sqVa + q.head % 2 ^ q.sqLog2 * 64) 64).1 = .ok w →
      recField w 2 2 = q.head % 65536 →
      recField w 0 1 = 4 →
      q.ud = false →
      1 ≤ recField w 4 4 →
      recField w 4 4 ≤ 2 ^ 31 →
      (readVa (modQp (readVa s (.qp pd n) q.context (q.sqVa + q.head % 2 ^ q.sqLog2 * 64) 64).2 pd n fun x => { x with stale := 0, flags := recField w 1 1 % 2 }) (.qp pd n) q.context (recField w 8 8) (recField w 4 4)).1 = .ok d →
      ringRefusal (readVa (modQp (readVa s (.qp pd n) q.context (q.sqVa + q.head % 2 ^ q.sqLog2 * 64) 64).2 pd n fun x => { x with stale := 0, flags := recField w 1 1 % 2 }) (.qp pd n) q.context (recField w 8 8) (recField w 4 4)).2 q.context q.cqPa = none →
      ∃ t, exec (.rdmaWriteImm pd n) s = .next t ∧
        (getQp t pd n).map (fun x => (x.state, x.head, x.cqTail)) = some (1, q.head + 1, (q.cqTail + 1) % 2 ^ 32) ∧ t.launches = s.launches) ∧
  (∀ (pd n : Nat) (q : Qp) (w d : List Byte) (s : State),
      getQp s pd n = some q →
      q.state = 1 →
      q.stalled = none →
      q.ended = none →
      q.head ≠ q.tail →
      ethUp s q.port = true →
      pfcPaused s q = false →
      q.cqTail < 2 ^ q.cqLog2 →
      (readVa s (.qp pd n) q.context (q.sqVa + q.head % 2 ^ q.sqLog2 * 64) 64).1 = .ok w →
      recField w 2 2 = q.head % 65536 →
      recField w 0 1 = 5 →
      q.ud = false →
      1 ≤ recField w 4 4 →
      recField w 4 4 ≤ 2 ^ 31 →
      d.length = recField w 4 4 →
      (writeVa (modQp (readVa s (.qp pd n) q.context (q.sqVa + q.head % 2 ^ q.sqLog2 * 64) 64).2 pd n fun x => { x with stale := 0, flags := recField w 1 1 % 2 }) (.qp pd n) q.context (recField w 8 8) d).1 = .ok () →
      ringRefusal (writeVa (modQp (readVa s (.qp pd n) q.context (q.sqVa + q.head % 2 ^ q.sqLog2 * 64) 64).2 pd n fun x => { x with stale := 0, flags := recField w 1 1 % 2 }) (.qp pd n) q.context (recField w 8 8) d).2 q.context q.cqPa = none →
      ∃ t, exec (.rdmaRead pd n d) s = .next t ∧
        (getQp t pd n).map (fun x => (x.state, x.head, x.cqTail)) = some (1, q.head + 1, (q.cqTail + 1) % 2 ^ 32) ∧ t.launches = s.launches) ∧
  (∀ (pd n : Nat) (q : Qp) (w : List Byte) (s : State),
      getQp s pd n = some q →
      q.state = 1 →
      q.stalled = none →
      q.ended = none →
      q.head ≠ q.tail →
      ethUp s q.port = true →
      pfcPaused s q = false →
      q.cqTail < 2 ^ q.cqLog2 →
      (readVa s (.qp pd n) q.context (q.sqVa + q.head % 2 ^ q.sqLog2 * 64) 64).1 = .ok w →
      recField w 2 2 = q.head % 65536 →
      recField w 0 1 = 1 →
      recField w 4 4 = 0 →
      ringRefusal (readVa s (.qp pd n) q.context (q.sqVa + q.head % 2 ^ q.sqLog2 * 64) 64).2 q.context q.cqPa = none →
      ∃ t, exec (.send pd n) s = .next t ∧
        (getQp t pd n).map (fun x => (x.state, x.head, x.cqTail)) = some (1, q.head + 1, (q.cqTail + 1) % 2 ^ 32) ∧ t.launches = s.launches) ∧
  (∀ (pd n : Nat) (q : Qp) (s : State),
      getQp s pd n = some q →
      q.state = 1 →
      q.ended = none →
      q.head = q.tail →
      exec (.send pd n) s = .next (s)) ∧
  (∀ (pd n : Nat) (i : Nat × Instr) (q : Qp) (w b : List Byte) (s : State),
      i ∈ [(1, Instr.send pd n), (2, .sendImm pd n), (3, .rdmaWrite pd n), (4, .rdmaWriteImm pd n)] →
      getQp (settleQp s pd n) pd n = some q →
      (takesRequest (settleQp s pd n) q).1 = true →
      (readVa (takesRequest (settleQp s pd n) q).2 (.qp pd n) q.context (q.sqVa + q.head % 2 ^ q.sqLog2 * 64) 64).1 = .ok w →
      recField w 2 2 = q.head % 65536 →
      recField w 0 1 = i.1 →
      q.ud = false ∨ i.1 ≤ 2 →
      1 ≤ recField w 4 4 →
      recField w 4 4 ≤ 2 ^ 31 →
      (readVa (modQp (readVa (takesRequest (settleQp s pd n) q).2 (.qp pd n) q.context (q.sqVa + q.head % 2 ^ q.sqLog2 * 64) 64).2 pd n fun x => { x with stale := 0, flags := recField w 1 1 % 2 }) (.qp pd n) q.context (recField w 8 8) (recField w 4 4)).1 = .ok b →
      exec (i.2) s = .next (endRequest (sendRoce (readVa (modQp (readVa (takesRequest (settleQp s pd n) q).2 (.qp pd n) q.context (q.sqVa + q.head % 2 ^ q.sqLog2 * 64) 64).2 pd n fun x => { x with stale := 0, flags := recField w 1 1 % 2 }) (.qp pd n) q.context (recField w 8 8) (recField w 4 4)).2 (roceMsg q w b)) pd n 0 (recField w 1 1 % 2))) ∧
  (∀ (pd n : Nat) (q : Qp) (w d : List Byte) (s : State),
      getQp (settleQp s pd n) pd n = some q →
      (takesRequest (settleQp s pd n) q).1 = true →
      (readVa (takesRequest (settleQp s pd n) q).2 (.qp pd n) q.context (q.sqVa + q.head % 2 ^ q.sqLog2 * 64) 64).1 = .ok w →
      recField w 2 2 = q.head % 65536 →
      recField w 0 1 = 5 →
      q.ud = false →
      1 ≤ recField w 4 4 →
      recField w 4 4 ≤ 2 ^ 31 →
      d.length = recField w 4 4 →
      (writeVa (modQp (readVa (takesRequest (settleQp s pd n) q).2 (.qp pd n) q.context (q.sqVa + q.head % 2 ^ q.sqLog2 * 64) 64).2 pd n fun x => { x with stale := 0, flags := recField w 1 1 % 2 }) (.qp pd n) q.context (recField w 8 8) d).1 = .ok () →
      exec (.rdmaRead pd n d) s = .next (endRequest (sendRoce (writeVa (modQp (readVa (takesRequest (settleQp s pd n) q).2 (.qp pd n) q.context (q.sqVa + q.head % 2 ^ q.sqLog2 * 64) 64).2 pd n fun x => { x with stale := 0, flags := recField w 1 1 % 2 }) (.qp pd n) q.context (recField w 8 8) d).2 (roceMsg q w [])) pd n 0 (recField w 1 1 % 2))) ∧
  (∀ (pd n : Nat) (i : Nat × Instr) (q : Qp) (w : List Byte) (s : State),
      i ∈ [(1, Instr.send pd n), (2, .sendImm pd n), (3, .rdmaWrite pd n), (4, .rdmaWriteImm pd n), (5, .rdmaRead pd n [])] →
      getQp (settleQp s pd n) pd n = some q →
      (takesRequest (settleQp s pd n) q).1 = true →
      (readVa (takesRequest (settleQp s pd n) q).2 (.qp pd n) q.context (q.sqVa + q.head % 2 ^ q.sqLog2 * 64) 64).1 = .ok w →
      recField w 2 2 = q.head % 65536 →
      recField w 0 1 = i.1 →
      q.ud = false ∨ i.1 ≤ 2 →
      recField w 4 4 = 0 →
      exec (i.2) s = .next (endRequest (modQp (readVa (takesRequest (settleQp s pd n) q).2 (.qp pd n) q.context (q.sqVa + q.head % 2 ^ q.sqLog2 * 64) 64).2 pd n fun x => { x with stale := 0, flags := recField w 1 1 % 2 }) pd n 0x0101 (recField w 1 1 % 2)))

/-- At a running queue pair whose port is up for Ethernet: an inbound SEND, RDMA write or RDMA read, while the pair is not stalled, holds no earlier frame, has ring space and has no reason to refuse the frame, whose access succeeds, is done as inboundDone says; one that has a reason is answered with that NAK; while the pair is stalled on a fault, or its ring is full, it receives RNR. In each case an ECN mark has counted a CNP first. An inbound atomic is answered with an invalid-request NAK and has no other effect. A CNP lowers a rate that is not 0, and changes no memory or register. REMOTE_NAK of a busy pair, and RETRY_EXCEEDED of one that is not UD after 7 retransmissions, are qpError with 0x0701 and 0x0702: where the completion ring has room for all requests posted and may be written, the pair is in state 2 with that status, all of them have completed, and no launch or context changes. ROCE_RETRANSMIT before that is counted and changes nothing else. REMOTE_NAK with no request posted changes nothing, nor does RETRY_EXCEEDED before 7 retransmissions. Completes, under hypotheses on the state and the operands alone: INBOUND_SEND, SEND, INBOUND_RDMA, INBOUND_ATOMIC, CNP, REMOTE_NAK, RETRY_EXCEEDED, ROCE_RETRANSMIT. -/
def Obligations.InboundTrafficIsServedOrRefused : Prop :=
  (∀ (pd n : Nat) (q r : Qp) (x : Instr × Inbound × Nat) (va len k : Nat) (d : Payload) (imm : BitVec 32) (im : Option (BitVec 32)) (s : State),
      getQp s pd n = some q →
      q.state = 1 →
      ethUp s q.port = true →
      x ∈ [(Instr.inboundSend pd n d imm, Inbound.send d.bytes imm, 0), (.inboundRdma pd n k va len (.write im) d, .write va (d.bytes.take len) im, k),
        (.inboundRdma pd n k va len .read d, .read va len, k)] →
      getQp (if d.ecn then modQp s pd n fun y => { y with cnps := y.cnps + 1 } else s) pd n = some r →
      r.stalled = none →
      r.held = [] →
      (ringFull (if d.ecn then modQp s pd n fun y => { y with cnps := y.cnps + 1 } else s) r).1 = false →
      inboundNak r x.2.2 x.2.1 = none →
      (inboundAccess (ringFull (if d.ecn then modQp s pd n fun y => { y with cnps := y.cnps + 1 } else s) r).2 pd n r x.2.1).1 = .ok () →
      exec (x.1) s = .next (modQp (inboundDone (dropRemotes (inboundAccess (ringFull (if d.ecn then modQp s pd n fun y => { y with cnps := y.cnps + 1 } else s) r).2 pd n r x.2.1).2 (.qp pd n)) pd n x.2.1) pd n fun y => { y with rnr := false })) ∧
  (∀ (pd n : Nat) (q r : Qp) (x : Instr × Inbound × Nat) (y : Nak) (va len k : Nat) (d : Payload) (imm : BitVec 32) (im : Option (BitVec 32)) (s : State),
      getQp s pd n = some q →
      q.state = 1 →
      ethUp s q.port = true →
      x ∈ [(Instr.inboundSend pd n d imm, Inbound.send d.bytes imm, 0), (.inboundRdma pd n k va len (.write im) d, .write va (d.bytes.take len) im, k),
        (.inboundRdma pd n k va len .read d, .read va len, k)] →
      getQp (if d.ecn then modQp s pd n fun y => { y with cnps := y.cnps + 1 } else s) pd n = some r →
      r.stalled = none →
      r.held = [] →
      (ringFull (if d.ecn then modQp s pd n fun y => { y with cnps := y.cnps + 1 } else s) r).1 = false →
      inboundNak r x.2.2 x.2.1 = some y →
      exec (x.1) s = .next (nakPeer (ringFull (if d.ecn then modQp s pd n fun y => { y with cnps := y.cnps + 1 } else s) r).2 pd n y)) ∧
  (∀ (pd n : Nat) (q r : Qp) (x : Instr × Inbound × Nat) (va len k : Nat) (d : Payload) (imm : BitVec 32) (im : Option (BitVec 32)) (s : State),
      getQp s pd n = some q →
      q.state = 1 →
      ethUp s q.port = true →
      x ∈ [(Instr.inboundSend pd n d imm, Inbound.send d.bytes imm, 0), (.inboundRdma pd n k va len (.write im) d, .write va (d.bytes.take len) im, k),
        (.inboundRdma pd n k va len .read d, .read va len, k)] →
      getQp (if d.ecn then modQp s pd n fun y => { y with cnps := y.cnps + 1 } else s) pd n = some r →
      r.held = [] →
      r.stalled.isSome = true ∨ (ringFull (if d.ecn then modQp s pd n fun y => { y with cnps := y.cnps + 1 } else s) r).1 = true →
      exec (x.1) s = .next (rnrPeer (ringFull (if d.ecn then modQp s pd n fun y => { y with cnps := y.cnps + 1 } else s) r).2 pd n)) ∧
  (∀ (pd n : Nat) (q : Qp) (s : State),
      getQp s pd n = some q →
      q.state = 1 →
      ethUp s q.port = true →
      exec (.inboundAtomic pd n) s = .next (putQp s pd n { q with naks := q.naks ++ [.invalidRequest] })) ∧
  (∀ (pd n : Nat) (q : Qp) (s : State),
      getQp s pd n = some q →
      q.state = 1 →
      ethUp s q.port = true →
      0 < q.rate →
      ∃ t, exec (.cnp pd n) s = .next t ∧
        (∃ r, r < q.rate ∧ getQp t pd n = some { q with rate := r }) ∧ SameMem s t ∧ t.regs = s.regs) ∧
  (∀ (pd n : Nat) (q : Qp) (s : State),
      getQp s pd n = some q →
      qpBusy q = true →
      exec (.remoteNak pd n) s = .next (qpError s pd n 0x0701)) ∧
  (∀ (pd n : Nat) (q : Qp) (s : State),
      getQp s pd n = some q →
      qpBusy q = true →
      q.ud = false →
      q.retransmits = 7 →
      exec (.retryExceeded pd n) s = .next (qpError s pd n 0x0702)) ∧
  (∀ (pd n : Nat) (q : Qp) (s : State),
      getQp s pd n = some q →
      q.state = 1 →
      q.head < q.tail →
      q.cqTail + (q.tail - q.head) ≤ 2 ^ q.cqLog2 →
      q.cqLog2 < 32 →
      ringRefusal s q.context q.cqPa = none →
      ∃ t, exec (.remoteNak pd n) s = .next t ∧
        (getQp t pd n).map (fun x => (x.state, x.head, x.cqTail)) = some (2, q.tail, (q.cqTail + (q.tail - q.head)) % 2 ^ 32) ∧ (getQp t pd n).map (·.errStatus) = some 0x0701 ∧ t.launches = s.launches ∧ t.ctxs = s.ctxs) ∧
  (∀ (pd n : Nat) (q : Qp) (s : State),
      getQp s pd n = some q →
      q.state = 1 →
      q.head < q.tail →
      q.cqTail + (q.tail - q.head) ≤ 2 ^ q.cqLog2 →
      q.cqLog2 < 32 →
      ringRefusal s q.context q.cqPa = none →
      q.ud = false →
      q.retransmits = 7 →
      ∃ t, exec (.retryExceeded pd n) s = .next t ∧
        (getQp t pd n).map (fun x => (x.state, x.head, x.cqTail)) = some (2, q.tail, (q.cqTail + (q.tail - q.head)) % 2 ^ 32) ∧ (getQp t pd n).map (·.errStatus) = some 0x0702 ∧ t.launches = s.launches ∧ t.ctxs = s.ctxs) ∧
  (∀ (pd n : Nat) (q : Qp) (s : State),
      getQp s pd n = some q →
      q.state = 1 →
      q.head < q.tail →
      q.cqTail + (q.tail - q.head) ≤ 2 ^ q.cqLog2 →
      q.cqLog2 < 32 →
      ringRefusal s q.context q.cqPa = none →
      q.ud = false →
      q.retransmits < 7 →
      exec (.roceRetransmit pd n) s = .next (putQp s pd n { q with retransmits := q.retransmits + 1 })) ∧
  (∀ (pd n : Nat) (q : Qp) (s : State),
      getQp s pd n = some q →
      q.head = q.tail →
      exec (.remoteNak pd n) s = .next (s)) ∧
  (∀ (pd n : Nat) (q : Qp) (s : State),
      getQp s pd n = some q →
      q.retransmits < 7 →
      exec (.retryExceeded pd n) s = .next (s))

/-- ACK takes the frames before the acknowledged sequence number out of a hop's list. HOP_RETRANSMIT keeps every frame of the list, counts one try for each, and changes no memory, launch or register but the port's NET_PORT_STATE; where the first has been tried 16 times the port is down with an empty list and event 0x0703 is among the new ones. FRAME_FORWARD of the frame that is next in order, for another device, with TTL above 1 and a route whose port is up, is acknowledged and sent by that port with TTL one lower; with TTL 1 or 0 it is acknowledged, dropped and counted in TTL_DROPS; one out of order changes nothing. Sending on a hop with nothing queued either queues the frame or gives it the next sequence number and appends it to the list. NET_PORT_LINK_UP of an enabled port without link, whose die has its clock, leaves STATE 2, a fresh hop, its PEER in Agaelen mode, and changes no memory or other register; in Agaelen mode with device ID 0, and without the clock, it changes nothing. NET_PORT_LINK_DOWN of a port whose STATE is 2 is portDown with event severity 1; where nothing is under way on another device and no stream is busy, it leaves STATE 1 and an empty hop, and changes no memory or other register. Completes, under hypotheses on the state and the operands alone: ACK, HOP_RETRANSMIT, FRAME_FORWARD, NET_PORT_LINK_UP, NET_PORT_LINK_DOWN. -/
def Obligations.HopsDeliverInOrder : Prop :=
  (∀ (p n : Nat) (x : TxFrame) (r : List TxFrame) (s : State),
      fabricUp s p = true →
      (getFab s p).tx = x :: r →
      (n + 2 ^ 32 - x.frame.seq) % 2 ^ 32 ≤ r.length + 1 →
      exec (.ack p n) s = .next (putFab s p { getFab s p with tx := (x :: r).drop ((n + 2 ^ 32 - x.frame.seq) % 2 ^ 32) })) ∧
  (∀ (p : Nat) (x : TxFrame) (r : List TxFrame) (s : State),
      p < 8 →
      fabricUp s p = true →
      (getFab s p).tx = x :: r →
      x.tries < 16 →
      ∃ t, exec (.hopRetransmit p) s = .next t ∧
        (getFab t p).tx = (x :: r).map (fun y => { y with tries := y.tries + 1 }) ∧ SameMem s t ∧ t.launches = s.launches ∧
        RegsBut s t [regKey (22 + p / 4) .netPortState (p % 4)]) ∧
  (∀ (p : Nat) (x : TxFrame) (r : List TxFrame) (s : State),
      p < 8 →
      fabricUp s p = true →
      (getFab s p).tx = x :: r →
      16 ≤ x.tries →
      ∃ t, exec (.hopRetransmit p) s = .next t ∧
        fget t (22 + p / 4) (p % 4) Fl.NET_PORT_STATE_STATE = 1 ∧ (getFab t p).tx = [] ∧ 0x0703 ∈ t.evt.arriving.map (·.code)) ∧
  (∀ (p e k : Nat) (f : Frame) (s : State),
      fabricUp s p = true →
      f.payload.length ≤ 8192 →
      f.seq = (getFab s p).rxSeq →
      f.dst ≠ deviceId s →
      1 < f.ttl →
      egress (hopAck (ackTo (putFab s p { getFab s p with rxSeq := ((getFab s p).rxSeq + 1) % 2 ^ 32 }) p f.ack) p) f.dst = some e →
      fabricUp (hopAck (ackTo (putFab s p { getFab s p with rxSeq := ((getFab s p).rxSeq + 1) % 2 ^ 32 }) p f.ack) p) e = true →
      exec (.frameForward p k f) s = .next (hopSend (hopAck (ackTo (putFab s p { getFab s p with rxSeq := ((getFab s p).rxSeq + 1) % 2 ^ 32 }) p f.ack) p) e k { f with ttl := f.ttl - 1 })) ∧
  (∀ (s : State) (p k : Nat) (f : Frame), (getFab s p).queue = [] →
      ((getFab (hopSend s p k f) p).queue = [(k, f)] ∧ (getFab (hopSend s p k f) p).tx = (getFab s p).tx) ∨
      ((getFab (hopSend s p k f) p).queue = [] ∧ (getFab (hopSend s p k f) p).tx =
        (getFab s p).tx ++ [⟨k, { f with seq := (getFab s p).txSeq, ack := (getFab s p).rxSeq }, 0⟩])) ∧
  (∀ (p k : Nat) (f : Frame) (s : State),
      p < 8 →
      fabricUp s p = true →
      f.payload.length ≤ 8192 →
      f.seq = (getFab s p).rxSeq →
      f.dst ≠ deviceId s →
      f.ttl ≤ 1 →
      exec (.frameForward p k f) s = .next (fsat (hopAck (ackTo (putFab s p { getFab s p with rxSeq := ((getFab s p).rxSeq + 1) % 2 ^ 32 }) p f.ack) p) (22 + p / 4) (p % 4) Fl.NET_PORT_STATE_TTL_DROPS 1)) ∧
  (∀ (p k : Nat) (f : Frame) (s : State),
      f.seq ≠ (getFab s p).rxSeq →
      exec (.frameForward p k f) s = .next (s)) ∧
  (∀ (p q : Nat) (s : State),
      p < 8 →
      q < 4096 →
      fget s (22 + p / 4) (p % 4) Fl.NET_PORT_CFG_ENABLE = 1 →
      fget s (22 + p / 4) (p % 4) Fl.NET_PORT_STATE_STATE = 1 →
      deviceId s ≠ 0 ∨ fget s (22 + p / 4) (p % 4) Fl.NET_PORT_CFG_MODE = 0 →
      s.pins.clocks.getLsbD (2 + p / 4) = true →
      ∃ t, exec (.netPortLinkUp p q) s = .next t ∧
        fget t (22 + p / 4) (p % 4) Fl.NET_PORT_STATE_STATE = 2 ∧ getFab t p = FabricPort.fresh ∧ SameMem s t ∧
        fget t (22 + p / 4) (p % 4) Fl.NET_PORT_STATE_PEER = (if fget s (22 + p / 4) (p % 4) Fl.NET_PORT_CFG_MODE = 1 then q else 0) ∧
        RegsBut s t [regKey (22 + p / 4) .netPortState (p % 4)]) ∧
  (∀ (p q : Nat) (s : State),
      s.pins.clocks.getLsbD (2 + p / 4) = false →
      exec (.netPortLinkUp p q) s = .next (s)) ∧
  (∀ (p q : Nat) (s : State),
      deviceId s = 0 →
      fget s (22 + p / 4) (p % 4) Fl.NET_PORT_CFG_MODE = 1 →
      exec (.netPortLinkUp p q) s = .next (s)) ∧
  (∀ (p : Nat) (s : State),
      p < 8 →
      fget s (22 + p / 4) (p % 4) Fl.NET_PORT_STATE_STATE = 2 →
      s.net.remotes = [] →
      busyStreams s = [] →
      ∃ t, exec (.netPortLinkDown p) s = .next t ∧
        fget t (22 + p / 4) (p % 4) Fl.NET_PORT_STATE_STATE = 1 ∧ getFab t p = { FabricPort.fresh with out := (getFab s p).out } ∧ SameMem s t ∧
        RegsBut s t [regKey (22 + p / 4) .netPortState (p % 4)]) ∧
  (∀ (p : Nat) (s : State),
      fget s (22 + p / 4) (p % 4) Fl.NET_PORT_STATE_STATE = 2 →
      exec (.netPortLinkDown p) s = .next (portDown s p 1))

/-- A frame for this device, whose ID is not 0, that is next in order on a port that is up, of at most 8,192 bytes, is acknowledged, and then: READ_REQ of an exported line that is not poisoned once read is answered with READ_RESP, its address and the line's 64 bytes as RD_NC gives them; FABRIC_WRITE inside the export window is a write at the homes, answered with WRITE_ACK, or with ERROR_RESP where the write fails; either outside the window is answered with ERROR_RESP and has no other effect. An answer has the request's tag, goes to its source by this device's own route, and is sent on its port. READ_RESP of 64 bytes marks the READ_REQ that awaits it as done with those bytes, WRITE_ACK the WRITE. ERROR_RESP fails the request that awaited it, unless it refuses a SIGNAL with 0x0121; with no busy stream, that of a command's read or write leaves the command denied with 0x0311, takes the request off, and changes no memory or register. Completes, under hypotheses on the state and the operands alone: READ_REQ, FABRIC_WRITE, READ_RESP, WRITE_ACK, ERROR_RESP. -/
def Obligations.RemoteReadsAndWritesAreServed : Prop :=
  (∀ (p : Nat) (f : Frame) (s : State),
      fabricUp s p = true →
      f.payload.length ≤ 8192 →
      f.seq = (getFab s p).rxSeq →
      f.dst = deviceId s →
      deviceId s ≠ 0 →
      exported (hopAck (ackTo (putFab s p { getFab s p with rxSeq := ((getFab s p).rxSeq + 1) % 2 ^ 32 }) p f.ack) p) p (lineOf f.arg.toNat) 64 = true →
      poisoned (ncRead (hopAck (ackTo (putFab s p { getFab s p with rxSeq := ((getFab s p).rxSeq + 1) % 2 ^ 32 }) p f.ack) p) (lineOf f.arg.toNat) 64).2 (lineOf f.arg.toNat) = false →
      exec (.readReq p f) s = .next (reply (ncRead (hopAck (ackTo (putFab s p { getFab s p with rxSeq := ((getFab s p).rxSeq + 1) % 2 ^ 32 }) p f.ack) p) (lineOf f.arg.toNat) 64).2 f kReadResp f.arg (ncRead (hopAck (ackTo (putFab s p { getFab s p with rxSeq := ((getFab s p).rxSeq + 1) % 2 ^ 32 }) p f.ack) p) (lineOf f.arg.toNat) 64).1)) ∧
  (∀ (p : Nat) (f : Frame) (s : State),
      fabricUp s p = true →
      f.payload.length ≤ 8192 →
      f.seq = (getFab s p).rxSeq →
      f.dst = deviceId s →
      deviceId s ≠ 0 →
      exported (hopAck (ackTo (putFab s p { getFab s p with rxSeq := ((getFab s p).rxSeq + 1) % 2 ^ 32 }) p f.ack) p) p (lineOf f.arg.toNat) 64 = false →
      exec (.readReq p f) s = .next (reply (hopAck (ackTo (putFab s p { getFab s p with rxSeq := ((getFab s p).rxSeq + 1) % 2 ^ 32 }) p f.ack) p) f kErrorResp f.arg [])) ∧
  (∀ (p : Nat) (f : Frame) (s : State),
      fabricUp s p = true →
      f.payload.length ≤ 8192 →
      f.seq = (getFab s p).rxSeq →
      f.dst = deviceId s →
      deviceId s ≠ 0 →
      exported (hopAck (ackTo (putFab s p { getFab s p with rxSeq := ((getFab s p).rxSeq + 1) % 2 ^ 32 }) p f.ack) p) p f.arg.toNat f.payload.length = true →
      exec (.fabricWrite p f) s = .next (reply (ncWrite (hopAck (ackTo (putFab s p { getFab s p with rxSeq := ((getFab s p).rxSeq + 1) % 2 ^ 32 }) p f.ack) p) f.arg.toNat f.payload).2 f (if (ncWrite (hopAck (ackTo (putFab s p { getFab s p with rxSeq := ((getFab s p).rxSeq + 1) % 2 ^ 32 }) p f.ack) p) f.arg.toNat f.payload).1 then kErrorResp else kWriteAck) f.arg [])) ∧
  (∀ (p : Nat) (f : Frame) (s : State),
      fabricUp s p = true →
      f.payload.length ≤ 8192 →
      f.seq = (getFab s p).rxSeq →
      f.dst = deviceId s →
      deviceId s ≠ 0 →
      exported (hopAck (ackTo (putFab s p { getFab s p with rxSeq := ((getFab s p).rxSeq + 1) % 2 ^ 32 }) p f.ack) p) p f.arg.toNat f.payload.length = false →
      exec (.fabricWrite p f) s = .next (reply (hopAck (ackTo (putFab s p { getFab s p with rxSeq := ((getFab s p).rxSeq + 1) % 2 ^ 32 }) p f.ack) p) f kErrorResp f.arg [])) ∧
  (∀ (k e : Nat) (a w : BitVec 64) (pl : List Byte) (f : Frame) (s : State), localRoute s f.src = some w → fldOf Fl.NET_ROUTE_PORT w = e →
      fabricUp s e = true → reply s f k a pl = hopSend s e k ⟨deviceId s, f.src, fldOf Fl.NET_ROUTE_HOPS w, 0, 0, f.tag, a, pl⟩) ∧
  (∀ (p : Nat) (f : Frame) (r : RemoteReq) (s : State),
      fabricUp s p = true →
      f.payload.length ≤ 8192 →
      f.seq = (getFab s p).rxSeq →
      f.dst = deviceId s →
      deviceId s ≠ 0 →
      awaited (hopAck (ackTo (putFab s p { getFab s p with rxSeq := ((getFab s p).rxSeq + 1) % 2 ^ 32 }) p f.ack) p) f (fun r => r.kind == kReadReq && f.payload.length == 64) = some r →
      exec (.readResp p f) s = .next (markDone (hopAck (ackTo (putFab s p { getFab s p with rxSeq := ((getFab s p).rxSeq + 1) % 2 ^ 32 }) p f.ack) p) r f.payload)) ∧
  (∀ (p : Nat) (f : Frame) (r : RemoteReq) (s : State),
      fabricUp s p = true →
      f.payload.length ≤ 8192 →
      f.seq = (getFab s p).rxSeq →
      f.dst = deviceId s →
      deviceId s ≠ 0 →
      awaited (hopAck (ackTo (putFab s p { getFab s p with rxSeq := ((getFab s p).rxSeq + 1) % 2 ^ 32 }) p f.ack) p) f (fun r => r.kind == kWrite) = some r →
      exec (.writeAck p f) s = .next (markDone (hopAck (ackTo (putFab s p { getFab s p with rxSeq := ((getFab s p).rxSeq + 1) % 2 ^ 32 }) p f.ack) p) r [])) ∧
  (∀ (p c q : Nat) (f : Frame) (r : RemoteReq) (k : Cmd) (s : State),
      fabricUp s p = true →
      f.payload.length ≤ 8192 →
      f.seq = (getFab s p).rxSeq →
      f.dst = deviceId s →
      deviceId s ≠ 0 →
      awaited (hopAck (ackTo (putFab s p { getFab s p with rxSeq := ((getFab s p).rxSeq + 1) % 2 ^ 32 }) p f.ack) p) f (fun _ => true) = some r →
      r.kind = kReadReq ∨ r.kind = kWrite →
      r.req = .cmd c q →
      getCmd s c q = some k →
      busyStreams s = [] →
      ∃ t, exec (.errorResp p f) s = .next t ∧
        getCmd t c q = some { k with denied := some (0x0311, 0), stalled := none } ∧ t.net.remotes = s.net.remotes.erase r ∧
        SameMem s t ∧ t.regs = s.regs) ∧
  (∀ (p : Nat) (f : Frame) (r : RemoteReq) (s : State),
      fabricUp s p = true →
      f.payload.length ≤ 8192 →
      f.seq = (getFab s p).rxSeq →
      f.dst = deviceId s →
      deviceId s ≠ 0 →
      awaited (hopAck (ackTo (putFab s p { getFab s p with rxSeq := ((getFab s p).rxSeq + 1) % 2 ^ 32 }) p f.ack) p) f (fun _ => true) = some r →
      r.kind ≠ kSignal ∨ f.arg ≠ 0x0121 →
      exec (.errorResp p f) s = .next (settleStalls (failRemote (hopAck (ackTo (putFab s p { getFab s p with rxSeq := ((getFab s p).rxSeq + 1) % 2 ^ 32 }) p f.ack) p) r)))

/-- Of a frame for this device, whose ID is not 0, that is next in order on a port that is up and names one of the 4,096 counters: FABRIC_SIGNAL of a counter on which nothing waits adds its amount where the sum is below 2^32, and changes no memory, register or launch; in general it adds as fabricAdd does, and where that refuses it is answered with ERROR_RESP 0x0121 and has no other effect. FABRIC_WAIT is registered at the counter, and the waits that its value meets are answered; where the value is below it and below every other wait's, it stays there, and no memory, register or launch changes. RELEASE of the WAIT that an agent, an engine or a Finder stream, is held on takes the request off, makes the agent acquire, and lets it go on. NET_FCTR_VAL of an accessible port die sets the counter's value, and changes no memory or register. Completes, under hypotheses on the state and the operands alone: FABRIC_SIGNAL, FABRIC_WAIT, RELEASE, NET_FCTR_VAL. -/
def Obligations.FabricCountersSignalAndRelease : Prop :=
  (∀ (p : Nat) (f : Frame) (s : State),
      fabricUp s p = true →
      f.payload.length ≤ 8192 →
      f.seq = (getFab s p).rxSeq →
      f.dst = deviceId s →
      deviceId s ≠ 0 →
      (argCounter f) < 4096 →
      (getFctr s (argCounter f)).value + argAmount f < 2 ^ 32 →
      (getFctr s (argCounter f)).waits = [] →
      ∃ t, exec (.fabricSignal p f) s = .next t ∧
        getFctr t (argCounter f) = ⟨(getFctr s (argCounter f)).value + argAmount f, []⟩ ∧ SameMem s t ∧ t.regs = s.regs ∧ t.launches = s.launches) ∧
  (∀ (p : Nat) (f : Frame) (s : State),
      fabricUp s p = true →
      f.payload.length ≤ 8192 →
      f.seq = (getFab s p).rxSeq →
      f.dst = deviceId s →
      deviceId s ≠ 0 →
      (argCounter f) < 4096 →
      fabricAdd (hopAck (ackTo (putFab s p { getFab s p with rxSeq := ((getFab s p).rxSeq + 1) % 2 ^ 32 }) p f.ack) p) (argCounter f) (argAmount f) = none →
      exec (.fabricSignal p f) s = .next (reply (hopAck (ackTo (putFab s p { getFab s p with rxSeq := ((getFab s p).rxSeq + 1) % 2 ^ 32 }) p f.ack) p) f kErrorResp 0x0121 [])) ∧
  (∀ (p : Nat) (f : Frame) (u s : State),
      fabricUp s p = true →
      f.payload.length ≤ 8192 →
      f.seq = (getFab s p).rxSeq →
      f.dst = deviceId s →
      deviceId s ≠ 0 →
      (argCounter f) < 4096 →
      fabricAdd (hopAck (ackTo (putFab s p { getFab s p with rxSeq := ((getFab s p).rxSeq + 1) % 2 ^ 32 }) p f.ack) p) (argCounter f) (argAmount f) = some u →
      exec (.fabricSignal p f) s = .next (u)) ∧
  (∀ (p : Nat) (f : Frame) (s : State),
      fabricUp s p = true →
      f.payload.length ≤ 8192 →
      f.seq = (getFab s p).rxSeq →
      f.dst = deviceId s →
      deviceId s ≠ 0 →
      (argCounter f) < 4096 →
      (getFctr s (argCounter f)).value < argAmount f →
      (getFctr s (argCounter f)).waits.all (fun x => decide ((getFctr s (argCounter f)).value < x.2.2)) = true →
      ∃ t, exec (.fabricWait p f) s = .next t ∧
        getFctr t (argCounter f) = ⟨(getFctr s (argCounter f)).value, (getFctr s (argCounter f)).waits ++ [(f.src, f.tag, argAmount f)]⟩ ∧ SameMem s t ∧ t.regs = s.regs ∧
        t.launches = s.launches) ∧
  (∀ (p : Nat) (f : Frame) (s : State),
      fabricUp s p = true →
      f.payload.length ≤ 8192 →
      f.seq = (getFab s p).rxSeq →
      f.dst = deviceId s →
      deviceId s ≠ 0 →
      (argCounter f) < 4096 →
      exec (.fabricWait p f) s = .next (wakeFabric (putFctr (hopAck (ackTo (putFab s p { getFab s p with rxSeq := ((getFab s p).rxSeq + 1) % 2 ^ 32 }) p f.ack) p) (argCounter f) { getFctr (hopAck (ackTo (putFab s p { getFab s p with rxSeq := ((getFab s p).rxSeq + 1) % 2 ^ 32 }) p f.ack) p) (argCounter f) with waits := (getFctr (hopAck (ackTo (putFab s p { getFab s p with rxSeq := ((getFab s p).rxSeq + 1) % 2 ^ 32 }) p f.ack) p) (argCounter f)).waits ++ [(f.src, f.tag, argAmount f)] }) (argCounter f))) ∧
  (∀ (p d e c q i n tag : Nat) (x : Slot) (l : Launch) (f : Frame) (r : RemoteReq) (s : State),
      fabricUp s p = true →
      f.payload.length ≤ 8192 →
      f.seq = (getFab s p).rxSeq →
      f.dst = deviceId s →
      deviceId s ≠ 0 →
      awaited (hopAck (ackTo (putFab s p { getFab s p with rxSeq := ((getFab s p).rxSeq + 1) % 2 ^ 32 }) p f.ack) p) f (fun r => r.kind == kWait) = some r →
      r.req = .agent (.engine d e) c q →
      slotOf s d e = some (l, i, x) →
      x.hold = .remote n tag →
      exec (.release p f) s = .next (advanceAgent (acquireRemote { (hopAck (ackTo (putFab s p { getFab s p with rxSeq := ((getFab s p).rxSeq + 1) % 2 ^ 32 }) p f.ack) p) with net := { (hopAck (ackTo (putFab s p { getFab s p with rxSeq := ((getFab s p).rxSeq + 1) % 2 ^ 32 }) p f.ack) p).net with remotes := (hopAck (ackTo (putFab s p { getFab s p with rxSeq := ((getFab s p).rxSeq + 1) % 2 ^ 32 }) p f.ack) p).net.remotes.erase r } } (.engine d e)) (.engine d e))) ∧
  (∀ (d i : Nat) (v : BitVec 32) (s : State),
      windowDead s d = false →
      d = 22 ∨ d = 23 →
      i < 2048 →
      ∃ t, exec (.netFctrVal d i v) s = .next t ∧
        (getFctr t ((d - 22) * 2048 + i)).value = v.toNat ∧ SameMem s t ∧ t.regs = s.regs) ∧
  (∀ (p c q i n tag : Nat) (a : Agent) (f : Frame) (l : Launch) (fi : Bool) (r : RemoteReq) (s : State),
      fabricUp s p = true →
      f.payload.length ≤ 8192 →
      f.seq = (getFab s p).rxSeq →
      f.dst = deviceId s →
      deviceId s ≠ 0 →
      awaited (hopAck (ackTo (putFab s p { getFab s p with rxSeq := ((getFab s p).rxSeq + 1) % 2 ^ 32 }) p f.ack) p) f (fun r => r.kind == kWait) = some r →
      r.req = .agent a c q →
      agentAt { (hopAck (ackTo (putFab s p { getFab s p with rxSeq := ((getFab s p).rxSeq + 1) % 2 ^ 32 }) p f.ack) p) with net := { (hopAck (ackTo (putFab s p { getFab s p with rxSeq := ((getFab s p).rxSeq + 1) % 2 ^ 32 }) p f.ack) p).net with remotes := (hopAck (ackTo (putFab s p { getFab s p with rxSeq := ((getFab s p).rxSeq + 1) % 2 ^ 32 }) p f.ack) p).net.remotes.erase r } } a = some (l, i, fi, .remote n tag) →
      exec (.release p f) s = .next (advanceAgent (acquireRemote { (hopAck (ackTo (putFab s p { getFab s p with rxSeq := ((getFab s p).rxSeq + 1) % 2 ^ 32 }) p f.ack) p) with net := { (hopAck (ackTo (putFab s p { getFab s p with rxSeq := ((getFab s p).rxSeq + 1) % 2 ^ 32 }) p f.ack) p).net with remotes := (hopAck (ackTo (putFab s p { getFab s p with rxSeq := ((getFab s p).rxSeq + 1) % 2 ^ 32 }) p f.ack) p).net.remotes.erase r } } a) a))

/-- Of a frame for this device, whose ID is not 0, that is next in order on a port that is up: PROBE_FRAME is answered with PROBE_RESP and its argument. PROBE_RESP of a probe on its way makes the route's LATENCY_NS half of the time since it left, at most 2^32 − 1, and changes no memory, register or launch. SLACK of the coordinator's own job enters the sender's slack, watts and grant in its table with the time, GRANT of a member's own job is its grant; neither changes memory, the first no register and the second none but PWR_JOB_STATUS. Of another job, both have no effect but the hop's acknowledgement. ROUTE_PROBE leaves a probe of every valid route whose port is up on its way, stamped with the time, and changes no route, memory or register. Completes, under hypotheses on the state and the operands alone: PROBE_FRAME, ROUTE_PROBE, PROBE_RESP, SLACK, GRANT. -/
def Obligations.ProbesAndJobFramesAreTaken : Prop :=
  (∀ (p : Nat) (f : Frame) (s : State),
      fabricUp s p = true →
      f.payload.length ≤ 8192 →
      f.seq = (getFab s p).rxSeq →
      f.dst = deviceId s →
      deviceId s ≠ 0 →
      exec (.probeFrame p f) s = .next (reply (hopAck (ackTo (putFab s p { getFab s p with rxSeq := ((getFab s p).rxSeq + 1) % 2 ^ 32 }) p f.ack) p) f kProbeResp f.arg [])) ∧
  (∀ (k : Nat) (w : BitVec 64) (s : State),
      (k, w) ∈ s.net.routes →
      fldOf Fl.NET_ROUTE_VALID w = 1 →
      fabricUp s (fldOf Fl.NET_ROUTE_PORT w) = true →
      ∃ t, exec (.routeProbe) s = .next t ∧
        (∃ tag, (tag, k, s.time.toNat) ∈ t.net.probes) ∧ t.net.routes = s.net.routes ∧ SameMem s t ∧ t.regs = s.regs) ∧
  (∀ (p tag k a : Nat) (f : Frame) (s : State),
      fabricUp s p = true →
      f.payload.length ≤ 8192 →
      f.seq = (getFab s p).rxSeq →
      f.dst = deviceId s →
      deviceId s ≠ 0 →
      s.net.probes.find? (fun x => x.1 == f.tag && x.2.1 % 4096 == f.src) = some (tag, k, a) →
      ∃ t, exec (.probeResp p f) s = .next t ∧
        smGet t.net.routes k = some (fldSet Fl.NET_ROUTE_LATENCY_NS (smGetD s.net.routes 0 k) (min ((s.time.toNat - a) / 2) (2 ^ 32 - 1))) ∧
        SameMem s t ∧ t.regs = s.regs ∧ t.launches = s.launches) ∧
  (∀ (p : Nat) (f : Frame) (s : State),
      fabricUp s p = true →
      f.payload.length ≤ 8192 →
      f.seq = (getFab s p).rxSeq →
      f.dst = deviceId s →
      deviceId s ≠ 0 →
      fget s 24 0 Fl.PWR_JOB_CTL_ENABLE = 1 →
      f.arg.toNat = fget s 24 0 Fl.PWR_JOB_CTL_JOB_ID →
      fget s 24 0 Fl.PWR_JOB_CTL_COORDINATOR = 1 →
      ∃ t, exec (.slack p f) s = .next t ∧
        smGet t.power.reports (payloadField f 0 2) = some (payloadField f 4 4, payloadField f 8 2, payloadField f 10 2) ∧
        smGet t.power.reportAt (payloadField f 0 2) = some s.time.toNat ∧ SameMem s t ∧ t.regs = s.regs) ∧
  (∀ (p : Nat) (f : Frame) (s : State),
      fabricUp s p = true →
      f.payload.length ≤ 8192 →
      f.seq = (getFab s p).rxSeq →
      f.dst = deviceId s →
      deviceId s ≠ 0 →
      f.arg.toNat ≠ fget s 24 0 Fl.PWR_JOB_CTL_JOB_ID →
      exec (.slack p f) s = .next ((hopAck (ackTo (putFab s p { getFab s p with rxSeq := ((getFab s p).rxSeq + 1) % 2 ^ 32 }) p f.ack) p))) ∧
  (∀ (p : Nat) (f : Frame) (s : State),
      fabricUp s p = true →
      f.payload.length ≤ 8192 →
      f.seq = (getFab s p).rxSeq →
      f.dst = deviceId s →
      deviceId s ≠ 0 →
      fget s 24 0 Fl.PWR_JOB_CTL_ENABLE = 1 →
      f.arg.toNat = fget s 24 0 Fl.PWR_JOB_CTL_JOB_ID →
      ∃ t, exec (.grant p f) s = .next t ∧
        grantW t = payloadField f 0 2 % 4096 ∧ SameMem s t ∧ RegsBut s t [regKey 24 .pwrJobStatus 0]) ∧
  (∀ (p : Nat) (f : Frame) (s : State),
      fabricUp s p = true →
      f.payload.length ≤ 8192 →
      f.seq = (getFab s p).rxSeq →
      f.dst = deviceId s →
      deviceId s ≠ 0 →
      f.arg.toNat ≠ fget s 24 0 Fl.PWR_JOB_CTL_JOB_ID →
      exec (.grant p f) s = .next ((hopAck (ackTo (putFab s p { getFab s p with rxSeq := ((getFab s p).rxSeq + 1) % 2 ^ 32 }) p f.ack) p)))

/-- At a root port that is up: PCIE_INBOUND_REQUEST of a write that the port serves, outside the MSI page, is a write at the homes; of a read that it serves, not poisoned once read, is answered with the bytes read. A request for a translation or a page, and a read, or a write outside the MSI page, that it does not serve, is answered with Unsupported Request, counted up to the counter's last value, and changes no memory or other register. MSI_WRITE, and a write into the MSI page, send the vector in the low 16 bits, and have no other effect. PCI_COMPLETION_TIMEOUT of a core whose oldest waiting load is in a slice of MMIO ends it in an error response with event 0x0720, and changes no memory or other core; of a core without a waiting load it changes nothing. PCI_LINK_DOWN leaves the port down with event 0x0721, and changes no memory and nothing of the network. PCI_LINK_UP of a port that is not up and has lanes and its die's clock, at most at its width, brings it up with that width and rate, in CXL mode on an even port where asked, and changes no other register and no memory; of one without lanes, or without the clock, it changes nothing. PCI_RP_CXL_ENABLE of an even port of an accessible port die, with ENABLE 1 while it is disabled: a window that windowRefused refuses sets REJECTED and changes nothing else; any other is taken, and no other register or memory changes. While it is enabled, ENABLE 1 changes nothing; ENABLE 0 clears ENABLE and changes no other register and no memory. Completes, under hypotheses on the state and the operands alone: PCIE_INBOUND_REQUEST, MSI_WRITE, PCI_LINK_DOWN, PCI_LINK_UP, PCI_RP_CXL_ENABLE, PCI_COMPLETION_TIMEOUT. -/
def Obligations.RootPortsServeAndFall : Prop :=
  (∀ (g a n : Nat) (d : List Byte) (s : State),
      g < 16 →
      rpUp s g = true →
      dmaServed s g a n = true →
      a < msiPage g ∨ msiPage g + 4096 ≤ a →
      exec (.pcieInboundRequest g a n .write d) s = .next ((ncWrite s a (d.take n)).2)) ∧
  (∀ (g a n : Nat) (d : List Byte) (s : State),
      g < 16 →
      rpUp s g = true →
      dmaServed s g a n = true →
      rangePoison (ncRead s a n).2 a n = false →
      ∃ t, exec (.pcieInboundRequest g a n .read d) s = .next t ∧
        t.net.pcie = s.net.pcie ++ [(g, false, (ncRead s a n).1)] ∧ SameMem (ncRead s a n).2 t ∧ t.irqOut = s.irqOut) ∧
  (∀ (g a n : Nat) (b : PcieKind) (d : List Byte) (s : State),
      g < 16 →
      rpUp s g = true →
      b ∉ [.ats, .pri] → dmaServed s g a n = false →
      b ≠ .write ∨ a < msiPage g ∨ msiPage g + 4096 ≤ a →
      ∃ t, exec (.pcieInboundRequest g a n b d) s = .next t ∧
        t.net.pcie = s.net.pcie ++ [(g, true, [])] ∧ SameMem s t ∧ RegsBut s t [regKey (22 + g / 8) .pciRpState (g % 8)] ∧
        fget t (22 + g / 8) (g % 8) Fl.PCI_RP_STATE_UR_COUNT = min (fget s (22 + g / 8) (g % 8) Fl.PCI_RP_STATE_UR_COUNT + 1) 65535) ∧
  (∀ (g : Nat) (d : BitVec 32) (s : State),
      rpUp s g = true →
      exec (.msiWrite g d) s = .next ({ s with irqOut := s.irqOut ++ [d.toNat % 65536] })) ∧
  (∀ (g a n : Nat) (d : List Byte) (s : State),
      rpUp s g = true →
      msiPage g ≤ a →
      a < msiPage g + 4096 →
      exec (.pcieInboundRequest g a n .write d) s = .next ({ s with irqOut := s.irqOut ++ [leNat (d.take 2) % 2 ^ 32 % 65536] })) ∧
  (∀ (d c g : Nat) (w : CoreWait) (r : List CoreWait) (s : State),
      (getCore s d c).waiting = w :: r →
      sliceOf s w.addr = some g →
      ∃ t, exec (.pciCompletionTimeout d c) s = .next t ∧
        (getCore t d c).waiting = r ∧ (getCore t d c).result = .error ∧ 0x0720 ∈ t.evt.arriving.map (·.code) ∧ CoresBut s t d c ∧ SameMem s t) ∧
  (∀ (d c : Nat) (s : State),
      (getCore s d c).waiting = [] →
      exec (.pciCompletionTimeout d c) s = .next (s)) ∧
  (∀ (g : Nat) (s : State),
      g < 16 →
      rpUp s g = true →
      ∃ t, exec (.pciLinkDown g) s = .next t ∧
        rpState t g = 1 ∧ 0x0721 ∈ t.evt.arriving.map (·.code) ∧ SameMem s t ∧ t.net = s.net) ∧
  (∀ (g w r : Nat) (b : Bool) (s : State),
      g < 16 →
      rpUp s g = false →
      w ≤ rpLanes s g →
      rpLanes s g ≠ 0 →
      w < 256 →
      r < 256 →
      s.pins.clocks.getLsbD (g / 8) = true →
      ∃ t, exec (.pciLinkUp g w r b) s = .next t ∧
        rpState t g = (if b && g % 2 == 0 then 3 else 2) ∧ fget t (22 + g / 8) (g % 8) Fl.PCI_RP_STATE_WIDTH = w ∧
        fget t (22 + g / 8) (g % 8) Fl.PCI_RP_STATE_GTS = r ∧ RegsBut s t [regKey (22 + g / 8) .pciRpState (g % 8)] ∧ SameMem s t) ∧
  (∀ (g w r : Nat) (b : Bool) (s : State),
      s.pins.clocks.getLsbD (g / 8) = false →
      exec (.pciLinkUp g w r b) s = .next (s)) ∧
  (∀ (g w r : Nat) (b : Bool) (s : State),
      rpLanes s g = 0 →
      exec (.pciLinkUp g w r b) s = .next (s)) ∧
  (∀ (d r : Nat) (v : BitVec 64) (s : State),
      windowDead s d = false →
      d = 22 ∨ d = 23 →
      r < 8 →
      r % 2 = 0 →
      fget s d r Fl.PCI_RP_CXL_ENABLE = 0 →
      fldOf Fl.PCI_RP_CXL_ENABLE v = 1 →
      windowRefused s ((d - 22) * 8 + r) (fldOf Fl.PCI_RP_CXL_BASE_GIB v) (fldOf Fl.PCI_RP_CXL_SIZE_GIB v) = true →
      exec (.pciRpCxlEnable d r v) s = .next (fput s d r Fl.PCI_RP_CXL_REJECTED 1)) ∧
  (∀ (d r : Nat) (v : BitVec 64) (s : State),
      windowDead s d = false →
      d = 22 ∨ d = 23 →
      r < 8 →
      r % 2 = 0 →
      fget s d r Fl.PCI_RP_CXL_ENABLE = 0 →
      fldOf Fl.PCI_RP_CXL_ENABLE v = 1 →
      windowRefused s ((d - 22) * 8 + r) (fldOf Fl.PCI_RP_CXL_BASE_GIB v) (fldOf Fl.PCI_RP_CXL_SIZE_GIB v) = false →
      ∃ t, exec (.pciRpCxlEnable d r v) s = .next t ∧
        fget t d r Fl.PCI_RP_CXL_ENABLE = 1 ∧ fget t d r Fl.PCI_RP_CXL_BASE_GIB = fldOf Fl.PCI_RP_CXL_BASE_GIB v ∧
        fget t d r Fl.PCI_RP_CXL_SIZE_GIB = fldOf Fl.PCI_RP_CXL_SIZE_GIB v ∧ fget t d r Fl.PCI_RP_CXL_REJECTED = 0 ∧
        RegsBut s t [regKey d .pciRpCxl r] ∧ SameMem s t) ∧
  (∀ (d r : Nat) (v : BitVec 64) (s : State),
      windowDead s d = false →
      fget s d r Fl.PCI_RP_CXL_ENABLE = 1 →
      fldOf Fl.PCI_RP_CXL_ENABLE v = 1 →
      exec (.pciRpCxlEnable d r v) s = .next (s)) ∧
  (∀ (d r : Nat) (v : BitVec 64) (s : State),
      windowDead s d = false →
      d = 22 ∨ d = 23 →
      r < 8 →
      r % 2 = 0 →
      fldOf Fl.PCI_RP_CXL_ENABLE v = 0 →
      ∃ t, exec (.pciRpCxlEnable d r v) s = .next t ∧
        fget t d r Fl.PCI_RP_CXL_ENABLE = 0 ∧ RegsBut s t [regKey d .pciRpCxl r] ∧ SameMem s t)

/-- MEDIA of a command with a Finder, no denial, no pipeline, a COUNT that is a multiple of 128 and no entry waiting, whose entry is read: one that obeys the rules goes to the first enabled idle pipeline of its kind in the order of pipesOf, where there is one, with STATE 1 and the context shown; one that breaks them ends the command and moves the completion tail on by one. A COUNT that is no multiple of 128 ends it so too. None of these changes a launch. PIPELINE_ASSIGN gives the oldest waiting entry that wants a pipeline of the kind the first idle one, and changes no other register and no memory; with none waiting it changes nothing. MED_PIPE_ENABLE of an accessible port die sets ENABLE, keeps STATE, and changes no other register, no memory and no context. Completes, under hypotheses on the state and the operands alone: MEDIA, PIPELINE_ASSIGN, MED_PIPE_ENABLE. -/
def Obligations.MediaEntriesAreAssigned : Prop :=
  (∀ (c q f : Nat) (k : Cmd) (b : List Byte) (p : Nat × Nat) (s : State),
      runCmd s c q 5 = some k →
      k.pipe = none →
      s.mediaQ = [] →
      k.desc.count % 128 = 0 →
      k.finder = some f →
      k.denied = none →
      (readVa s (.cmd c q) c (k.desc.argA.toNat + 128 * k.done) 112).1 = .ok b →
      entryBad b = false →
      entryPast b = false →
      (pipesOf (eEncode b)).find? (fun p => pipeOn (readVa s (.cmd c q) c (k.desc.argA.toNat + 128 * k.done) 112).2 p && pipeIdle (readVa s (.cmd c q) c (k.desc.argA.toNat + 128 * k.done) 112).2 p) = some p →
      getCmd (readVa s (.cmd c q) c (k.desc.argA.toNat + 128 * k.done) 112).2 c q = some k →
      (readVa s (.cmd c q) c (k.desc.argA.toNat + 128 * k.done) 112).2.mediaQ = [] →
      c < 65536 →
      p.1 < 25 →
      p.2 < 12 →
      ∃ t, exec (.media c ⟨q, .none⟩) s = .next t ∧
        getCmd t c q = some { k with entry := b, frames := 0, outBytes := 0, pipe := some p } ∧ fget t p.1 p.2 Fl.MED_PIPE_STATE = 1 ∧
        fget t p.1 p.2 Fl.MED_PIPE_CONTEXT = c ∧ t.mediaQ = [] ∧ t.launches = s.launches) ∧
  (∀ (c q f : Nat) (k : Cmd) (b : List Byte) (s : State),
      runCmd s c q 5 = some k →
      k.pipe = none →
      s.mediaQ = [] →
      k.desc.count % 128 = 0 →
      k.finder = some f →
      k.denied = none →
      (readVa s (.cmd c q) c (k.desc.argA.toNat + 128 * k.done) 112).1 = .ok b →
      entryBad b = true →
      getCmd (readVa s (.cmd c q) c (k.desc.argA.toNat + 128 * k.done) 112).2 c q = some k →
      (getCtx (readVa s (.cmd c q) c (k.desc.argA.toNat + 128 * k.done) 112).2 c).cplTail = (getCtx s c).cplTail →
      ∃ t, exec (.media c ⟨q, .none⟩) s = .next t ∧
        getCmd t c q = none ∧ (getCtx t c).cplTail = ((getCtx s c).cplTail + 1) % 2 ^ 32 ∧ t.launches = s.launches) ∧
  (∀ (c q : Nat) (k : Cmd) (s : State),
      runCmd s c q 5 = some k →
      k.pipe = none →
      s.mediaQ = [] →
      k.desc.count % 128 ≠ 0 →
      ∃ t, exec (.media c ⟨q, .none⟩) s = .next t ∧
        getCmd t c q = none ∧ (getCtx t c).cplTail = ((getCtx s c).cplTail + 1) % 2 ^ 32 ∧ t.launches = s.launches) ∧
  (∀ (b : Bool) (c q : Nat) (k : Cmd) (p : Nat × Nat) (s : State),
      s.mediaQ.find? (wantsPipe s b) = some (c, q) →
      getCmd s c q = some k →
      (pipesOf b).find? (fun p => pipeOn s p && pipeIdle s p) = some p →
      c < 65536 →
      ∃ t, exec (.pipelineAssign b) s = .next t ∧
        getCmd t c q = some { k with pipe := some p } ∧ fget t p.1 p.2 Fl.MED_PIPE_STATE = 1 ∧ fget t p.1 p.2 Fl.MED_PIPE_CONTEXT = c ∧
        t.mediaQ = s.mediaQ.filter (· != (c, q)) ∧ RegsBut s t [regKey p.1 .medPipe p.2] ∧ SameMem s t) ∧
  (∀ (b : Bool) (s : State),
      s.mediaQ = [] →
      exec (.pipelineAssign b) s = .next (s)) ∧
  (∀ (d i : Nat) (on : Bool) (s : State),
      windowDead s d = false →
      d = 22 ∨ d = 23 →
      i < 12 →
      ∃ t, exec (.medPipeEnable d i on) s = .next t ∧
        fget t d i Fl.MED_PIPE_ENABLE = b2n on ∧ fget t d i Fl.MED_PIPE_STATE = fget s d i Fl.MED_PIPE_STATE ∧
        RegsBut s t [regKey d .medPipe i] ∧ SameMem s t ∧ t.ctxs = s.ctxs)

/-- DECODE_ENTRY and ENCODE_ENTRY at a pipeline that has an entry which is not stalled, paused or finished, without a pipeline error, where the entry has no denial and its input is read: a decode whose bitstream is malformed ends with 0x0602, and one whose profile, depth or chroma is not listed with 0x0601; one of the entry's dimensions, whose scratch buffer is large enough and can be used, ends with the status that its frames end with. An encode whose frames fit their buffer's IN_BYTES ends with 0x0603 where the bitstream does not fit OUT_BYTES; where it fits and the scratch buffer can be used and the bitstream written at OUT_VA, it ends with status 0. What a codec computes is opaque. An uncorrected error of the pipeline's buffer ends either with 0x0605; where the RESULT can be written, the command is then gone, the pipeline idle and event 0x0605 among the new ones, and no launch changes. Completes, under hypotheses on the state and the operands alone: DECODE_ENTRY, ENCODE_ENTRY. -/
def Obligations.MediaEntriesAreCarriedOut : Prop :=
  (∀ (d i c : Nat) (k : Cmd) (x : List Byte) (s : State),
      pipeCmd s (d, i) = some (c, k) →
      k.stalled = none →
      smGetD s.power.mediaPaused false (12 * d + i) = false →
      k.result = none →
      k.denied = none →
      (readVa s (.cmd c k.seq) c (imgNum k.entry 8 8) (imgNum k.entry 16 8)).1 = .ok x →
      ∃ t, exec (.decodeEntry d i .none) s = .next t ∧
        t = decodeInput (readVa s (.cmd c k.seq) c (imgNum k.entry 8 8) (imgNum k.entry 16 8)).2 (d, i) c k k.entry x ∧
        ((Config.streamInfo (eCodec k.entry) x).1 = false → t = finishEntry (readVa s (.cmd c k.seq) c (imgNum k.entry 8 8) (imgNum k.entry 16 8)).2 (d, i) c k.seq 0x0602) ∧
        ((Config.streamInfo (eCodec k.entry) x).1 = true → supported (eCodec k.entry) (Config.streamInfo (eCodec k.entry) x).2.1 (Config.streamInfo (eCodec k.entry) x).2.2.2.2.1 (Config.streamInfo (eCodec k.entry) x).2.2.2.2.2 = false →
          t = finishEntry (readVa s (.cmd c k.seq) c (imgNum k.entry 8 8) (imgNum k.entry 16 8)).2 (d, i) c k.seq 0x0601) ∧
        (∀ u, (Config.streamInfo (eCodec k.entry) x).1 = true → supported (eCodec k.entry) (Config.streamInfo (eCodec k.entry) x).2.1 (Config.streamInfo (eCodec k.entry) x).2.2.2.2.1 (Config.streamInfo (eCodec k.entry) x).2.2.2.2.2 = true → scratchNeed k.entry (Config.streamInfo (eCodec k.entry) x).2.2.2.2.2 ≤ imgNum k.entry 48 8 →
          (Config.streamInfo (eCodec k.entry) x).2.2.1 = eWidth k.entry → (Config.streamInfo (eCodec k.entry) x).2.2.2.1 = eHeight k.entry →
          useScratch (readVa s (.cmd c k.seq) c (imgNum k.entry 8 8) (imgNum k.entry 16 8)).2 c k.seq k.entry (Config.streamInfo (eCodec k.entry) x).2.2.2.2.2 = (.ok (), u) → ∀ st v,
          decodeFrames u (d, i) c k.seq k.entry x (Config.streamInfo (eCodec k.entry) x).2.2.2.2.2 (Config.streamInfo (eCodec k.entry) x).2.2.2.2.1 (eFrames k.entry - k.frames) k.frames = (some st, v) →
          t = finishEntry v (d, i) c k.seq st)) ∧
  (∀ (d i c : Nat) (k : Cmd) (s : State),
      pipeCmd s (d, i) = some (c, k) →
      k.stalled = none →
      smGetD s.power.mediaPaused false (12 * d + i) = false →
      k.result = none →
      exec (.decodeEntry d i .ue) s = .next (finishEntry s (d, i) c k.seq 0x0605)) ∧
  (∀ (d i c : Nat) (k : Cmd) (s : State),
      d = 22 ∨ d = 23 →
      i < 4 →
      pipeCmd s (d, i) = some (c, k) →
      k.stalled = none →
      smGetD s.power.mediaPaused false (12 * d + i) = false →
      k.result = none →
      getCmd s c k.seq = some k →
      (writeVa (modCmd s c k.seq fun x => { x with result := some 0x0605, denied := none }) (.cmd c k.seq) c (k.desc.argA.toNat + 128 * k.done + 112) (leBytes 8 k.outBytes ++ leBytes 4 k.frames ++ leBytes 4 0x0605)).1 = .ok () →
      (getCmd (writeVa (modCmd s c k.seq fun x => { x with result := some 0x0605, denied := none }) (.cmd c k.seq) c (k.desc.argA.toNat + 128 * k.done + 112) (leBytes 8 k.outBytes ++ leBytes 4 k.frames ++ leBytes 4 0x0605)).2 c k.seq).isSome = true →
      ∃ t, exec (.decodeEntry d i .ue) s = .next t ∧
        getCmd t c k.seq = none ∧ fget t d (i) Fl.MED_PIPE_STATE = 0 ∧ 0x0605 ∈ t.evt.arriving.map (·.code) ∧ t.launches = s.launches) ∧
  (∀ (d i c : Nat) (k : Cmd) (x : List Byte) (s : State),
      pipeCmd s (d, 8 + i) = some (c, k) →
      k.stalled = none →
      smGetD s.power.mediaPaused false (12 * d + 8 + i) = false →
      k.result = none →
      encodeBytes k.entry ≤ imgNum k.entry 16 8 →
      k.denied = none →
      (readVa s (.cmd c k.seq) c (imgNum k.entry 8 8) (encodeBytes k.entry)).1 = .ok x →
      ∃ t, exec (.encodeEntry d i .none) s = .next t ∧
        t = encodeInput (readVa s (.cmd c k.seq) c (imgNum k.entry 8 8) (encodeBytes k.entry)).2 (d, 8 + i) c k k.entry x ∧
        ∀ out, out = Config.encodeBits (eCodec k.entry) (eFlags k.entry + 256 * (eWidth k.entry + 65536 * eHeight k.entry))
            (if (eFlags k.entry).testBit 2 then imgNum k.entry 88 4 else imgNum k.entry 62 1)
            ((List.range (eFrames k.entry)).map (rawFrame (eWidth k.entry) (eHeight k.entry) x)) →
          (imgNum k.entry 32 8 < out.length → t = finishEntry (readVa s (.cmd c k.seq) c (imgNum k.entry 8 8) (encodeBytes k.entry)).2 (d, 8 + i) c k.seq 0x0603) ∧
          (∀ u v, out.length ≤ imgNum k.entry 32 8 → useScratch (readVa s (.cmd c k.seq) c (imgNum k.entry 8 8) (encodeBytes k.entry)).2 c k.seq k.entry 1 = (.ok (), u) →
            writeVa u (.cmd c k.seq) c (imgNum k.entry 24 8) out = (.ok (), v) →
            t = finishEntry (frameDone v (d, 8 + i) c k.seq (eFrames k.entry) out.length) (d, 8 + i) c k.seq 0)) ∧
  (∀ (d i c : Nat) (k : Cmd) (s : State),
      pipeCmd s (d, 8 + i) = some (c, k) →
      k.stalled = none →
      smGetD s.power.mediaPaused false (12 * d + 8 + i) = false →
      k.result = none →
      exec (.encodeEntry d i .ue) s = .next (finishEntry s (d, 8 + i) c k.seq 0x0605)) ∧
  (∀ (d i c : Nat) (k : Cmd) (s : State),
      d = 22 ∨ d = 23 →
      i < 4 →
      pipeCmd s (d, 8 + i) = some (c, k) →
      k.stalled = none →
      smGetD s.power.mediaPaused false (12 * d + 8 + i) = false →
      k.result = none →
      getCmd s c k.seq = some k →
      (writeVa (modCmd s c k.seq fun x => { x with result := some 0x0605, denied := none }) (.cmd c k.seq) c (k.desc.argA.toNat + 128 * k.done + 112) (leBytes 8 k.outBytes ++ leBytes 4 k.frames ++ leBytes 4 0x0605)).1 = .ok () →
      (getCmd (writeVa (modCmd s c k.seq fun x => { x with result := some 0x0605, denied := none }) (.cmd c k.seq) c (k.desc.argA.toNat + 128 * k.done + 112) (leBytes 8 k.outBytes ++ leBytes 4 k.frames ++ leBytes 4 0x0605)).2 c k.seq).isSome = true →
      ∃ t, exec (.encodeEntry d i .ue) s = .next t ∧
        getCmd t c k.seq = none ∧ fget t d (8 + i) Fl.MED_PIPE_STATE = 0 ∧ 0x0605 ∈ t.evt.arriving.map (·.code) ∧ t.launches = s.launches)

/-- On an accessible system die: SEC_KEY_PROGRAM of owner slot 2 or 3, not programmed, gives it the digest in SEC_MR_DATA and makes it programmed, in SEC_STATUS after a reset too, and keeps the measurement registers and memory; of slot 0 or 1, or a programmed one, it sets REJECTED and has no other effect. SEC_KEY_REVOKE of a slot of four other than the plate's revokes it, in SEC_STATUS after a reset too, and keeps memory and the unit's other state; of the plate's slot it sets REJECTED and has no other effect. SEC_MR_EXTEND of register 8 to 15, with no extension running, either sets it at once to the digest of its old value and SEC_MR_DATA or leaves that extension running; no other measurement register, other register or memory changes. Of register 0 to 7, or while an extension runs, it sets REJECTED, and no measurement register, other register or memory changes. SEC_ROLLBACK with a value that R498's condition accepts, on a counter with commits left, sets that counter, which rises, and changes no other counter, no memory and no other register; with any other value it sets REJECTED and has no other effect. Completes, under hypotheses on the state and the operands alone: SEC_KEY_PROGRAM, SEC_KEY_REVOKE, SEC_MR_EXTEND, SEC_ROLLBACK. -/
def Obligations.KeysMeasurementsAndCounters : Prop :=
  (∀ (k : Nat) (s : State),
      windowDead s 24 = false →
      2 ≤ k →
      k < 4 →
      slotProgrammed s k = false →
      ∃ t, exec (.secKeyProgram k) s = .next t ∧
        slotDigest t k = mrData s ∧ slotProgrammed t k = true ∧ fget t 24 0 Fl.SEC_KEY_CTL_REJECTED = 0 ∧
        (fldOf Fl.SEC_STATUS_PROGRAMMED (resetWord t 24 .secStatus 0)).testBit k = true ∧ t.sec.mrs = s.sec.mrs ∧ SameMem s t) ∧
  (∀ (k : Nat) (s : State),
      windowDead s 24 = false →
      k < 2 ∨ slotProgrammed s k = true →
      exec (.secKeyProgram k) s = .next (fput s 24 0 Fl.SEC_KEY_CTL_REJECTED 1)) ∧
  (∀ (k : Nat) (s : State),
      windowDead s 24 = false →
      k < 4 →
      k ≠ fget s 24 0 Fl.SEC_STATUS_PLATE_SLOT →
      ∃ t, exec (.secKeyRevoke k) s = .next t ∧
        slotRevoked t k = true ∧ fget t 24 0 Fl.SEC_KEY_CTL_REJECTED = 0 ∧
        (fldOf Fl.SEC_STATUS_REVOKED (resetWord t 24 .secStatus 0)).testBit k = true ∧ t.sec = s.sec ∧ SameMem s t) ∧
  (∀ (s : State),
      windowDead s 24 = false →
      exec (.secKeyRevoke (fget s 24 0 Fl.SEC_STATUS_PLATE_SLOT)) s = .next (fput s 24 0 Fl.SEC_KEY_CTL_REJECTED 1)) ∧
  (∀ (i : Nat) (s : State),
      windowDead s 24 = false →
      8 ≤ i →
      i < 16 →
      s.sec.extending = none →
      ∃ t, exec (.secMrExtend i) s = .next t ∧
        (t.sec.extending = none ∧ mrGet t i = Config.sha384 (beBytes 48 (mrGet s i).toNat ++ beBytes 48 (mrData s).toNat) ∨
          t.sec.extending = some (i, mrData s) ∧ mrGet t i = mrGet s i) ∧ (∀ j, j ≠ i → mrGet t j = mrGet s j) ∧
        fget t 24 0 Fl.SEC_MR_EXTEND_REJECTED = 0 ∧ RegsBut s t [regKey 24 .secMrExtend 0] ∧ SameMem s t) ∧
  (∀ (i : Nat) (e : Nat × BitVec 384) (s : State),
      windowDead s 24 = false →
      s.sec.extending = some e →
      ∃ t, exec (.secMrExtend i) s = .next t ∧
        t.sec = s.sec ∧ fget t 24 0 Fl.SEC_MR_EXTEND_REJECTED = 1 ∧ RegsBut s t [regKey 24 .secMrExtend 0] ∧ SameMem s t) ∧
  (∀ (i : Nat) (s : State),
      windowDead s 24 = false →
      i < 8 →
      ∃ t, exec (.secMrExtend i) s = .next t ∧
        t.sec = s.sec ∧ fget t 24 0 Fl.SEC_MR_EXTEND_REJECTED = 1 ∧ RegsBut s t [regKey 24 .secMrExtend 0] ∧ SameMem s t) ∧
  (∀ (i : Nat) (v : BitVec 32) (s : State),
      windowDead s 24 = false →
      rollbackOk s i v.toNat = true →
      (getPersist s (28 + i)).commits < wearEnd →
      ∃ t, exec (.secRollback i v) s = .next t ∧
        rollback t i = v.toNat ∧ rollback s i < v.toNat ∧ fget t 24 0 Fl.SEC_ROLLBACK_REJECTED = 0 ∧
        (∀ j, j ≠ i → rollback t j = rollback s j) ∧ SameMem s t ∧ RegsBut s t [regKey 24 .secRollback 0]) ∧
  (∀ (i : Nat) (v : BitVec 32) (s : State),
      windowDead s 24 = false →
      rollbackOk s i v.toNat = false →
      exec (.secRollback i v) s = .next (fput s 24 0 Fl.SEC_ROLLBACK_REJECTED 1))

/-- On an accessible system die: SEC_UPDATE of controller 1 to 4, with no update running, whose image is read: where a check fails RESULT is its number, the unit's state is as before and event 0x0F83 is raised; where none fails the controller's inactive slot holds the image's digest and version, and either the update has ended, with RESULT 0, the controller's other slot active, its measurement register extended with the image's digest and event 0x0F82 among the new ones, or it still runs, with the slots, measurements and events as before (how many units have switched is a free choice, log 166). No memory changes but what the reading does. While an update runs, SEC_UPDATE sets REJECTED and has no other effect. A length below 256 bytes fails with RESULT 1. A controller outside 1 to 4 sets REJECTED, and nothing else of the unit, the events, the other registers or memory changes. SEC_DBG_NEW leaves a challenge, and changes no measurement register, no failure count, no memory and no register but the challenge. SEC_DBG_SUBMIT on a locked unit has RESULT 4 and no other effect but on SEC_DBG_CTL; without a challenge it has RESULT 1, counts a failure, raises 0x0F81, locks the unit from the third failure on, and changes no memory; with one it consumes the challenge, changes no memory, and either a check fails, with its number as RESULT, a failure counted, 0x0F81 raised and the level kept, or none does, and the level is the one asked for, 0x0F80 is raised and MR7 is extended. Completes, under hypotheses on the state and the operands alone: SEC_UPDATE, SEC_DBG_NEW, SEC_DBG_SUBMIT. -/
def Obligations.UpdatesAndUnlocksAreChecked : Prop :=
  (∀ (c : Nat) (m : Bool) (b : List Byte) (s : State),
      windowDead s 24 = false →
      1 ≤ c →
      c ≤ 4 →
      s.sec.updating = none →
      (updateImage (fput (fput (fput s 24 0 Fl.SEC_UPDATE_CONTROLLER c) 24 0 Fl.SEC_UPDATE_COMMIT (b2n m)) 24 0 Fl.SEC_UPDATE_REJECTED 0)).1 = some b →
      ∃ t, exec (.secUpdate c m) s = .next t ∧
        (∀ k, updateCheck (updateImage (fput (fput (fput s 24 0 Fl.SEC_UPDATE_CONTROLLER c) 24 0 Fl.SEC_UPDATE_COMMIT (b2n m)) 24 0 Fl.SEC_UPDATE_REJECTED 0)).2 b c = k + 1 → fget t 24 0 Fl.SEC_UPDATE_RESULT = k + 1 ∧ t.sec = s.sec ∧ t.evt.arriving.map (·.code) = s.evt.arriving.map (·.code) ++ [0x0F83]) ∧
        (updateCheck (updateImage (fput (fput (fput s 24 0 Fl.SEC_UPDATE_CONTROLLER c) 24 0 Fl.SEC_UPDATE_COMMIT (b2n m)) 24 0 Fl.SEC_UPDATE_REJECTED 0)).2 b c = 0 → smGet t.sec.slots (spareSlot s c) = some (imageDigest b, imageSvn b) ∧
          (fget t 24 0 Fl.SEC_UPDATE_RESULT = 0 ∧ t.sec.updating = none ∧ t.sec.firmwareB = s.sec.firmwareB ^^^ BitVec.ofNat 4 (2 ^ (c - 1)) ∧
            mrGet t c = Config.sha384 (beBytes 48 (mrGet s c).toNat ++ beBytes 48 (imageDigest b).toNat) ∧ 0x0F82 ∈ t.evt.arriving.map (·.code) ∨
          t.sec.updating.map (·.controller) = some c ∧ t.sec.firmwareB = s.sec.firmwareB ∧ t.sec.mrs = s.sec.mrs ∧ t.evt = (updateImage (fput (fput (fput s 24 0 Fl.SEC_UPDATE_CONTROLLER c) 24 0 Fl.SEC_UPDATE_COMMIT (b2n m)) 24 0 Fl.SEC_UPDATE_REJECTED 0)).2.evt)) ∧
        SameMem (updateImage (fput (fput (fput s 24 0 Fl.SEC_UPDATE_CONTROLLER c) 24 0 Fl.SEC_UPDATE_COMMIT (b2n m)) 24 0 Fl.SEC_UPDATE_REJECTED 0)).2 t) ∧
  (∀ (c : Nat) (m : Bool) (s : State),
      windowDead s 24 = false →
      1 ≤ c →
      c ≤ 4 →
      s.sec.updating = none →
      fget s 24 0 Fl.SEC_UPDATE_LEN_VALUE < 256 →
      ∃ t, exec (.secUpdate c m) s = .next t ∧
        fget t 24 0 Fl.SEC_UPDATE_RESULT = 1 ∧ t.sec = s.sec ∧ t.evt.arriving.map (·.code) = s.evt.arriving.map (·.code) ++ [0x0F83] ∧ SameMem s t) ∧
  (∀ (c : Nat) (m : Bool) (s : State),
      windowDead s 24 = false →
      c = 0 ∨ 4 < c →
      s.sec.updating = none →
      ∃ t, exec (.secUpdate c m) s = .next t ∧
        t.sec = s.sec ∧ fget t 24 0 Fl.SEC_UPDATE_REJECTED = 1 ∧ t.evt = s.evt ∧ RegsBut s t [regKey 24 .secUpdate 0] ∧ SameMem s t) ∧
  (∀ (c : Nat) (m : Bool) (u : Update) (s : State),
      windowDead s 24 = false →
      s.sec.updating = some u →
      exec (.secUpdate c m) s = .next (fput s 24 0 Fl.SEC_UPDATE_REJECTED 1)) ∧
  (∀ (s : State),
      windowDead s 24 = false →
      ∃ t, exec (.secDbgNew) s = .next t ∧
        t.sec.challenge.isSome = true ∧ t.sec.mrs = s.sec.mrs ∧ fget t 24 0 Fl.SEC_DBG_CTL_FAILURES = fget s 24 0 Fl.SEC_DBG_CTL_FAILURES ∧
        SameMem s t ∧ RegsBut s t ((List.range 6).map fun k => regKey 24 .secDbgChallenge k)) ∧
  (∀ (v : Nat) (s : State),
      windowDead s 24 = false →
      fget s 24 0 Fl.SEC_STATUS_LOCKOUT = 1 →
      ∃ t, exec (.secDbgSubmit v) s = .next t ∧
        fget t 24 0 Fl.SEC_DBG_CTL_RESULT = 4 ∧ t.sec = s.sec ∧ t.evt = s.evt ∧ RegsBut s t [regKey 24 .secDbgCtl 0] ∧ SameMem s t) ∧
  (∀ (v : Nat) (s : State),
      windowDead s 24 = false →
      fget s 24 0 Fl.SEC_STATUS_LOCKOUT = 0 →
      s.sec.challenge = none →
      ∃ t, exec (.secDbgSubmit v) s = .next t ∧
        fget t 24 0 Fl.SEC_DBG_CTL_RESULT = 1 ∧ fget t 24 0 Fl.SEC_DBG_CTL_FAILURES = min 3 (fget s 24 0 Fl.SEC_DBG_CTL_FAILURES + 1) ∧ t.sec = s.sec ∧ t.evt.arriving.map (·.code) = s.evt.arriving.map (·.code) ++ [0x0F81] ∧
        fget t 24 0 Fl.SEC_STATUS_LOCKOUT = b2n (decide (2 ≤ fget s 24 0 Fl.SEC_DBG_CTL_FAILURES)) ∧ SameMem s t) ∧
  (∀ (v : Nat) (ch : BitVec 384) (s : State),
      windowDead s 24 = false →
      fget s 24 0 Fl.SEC_STATUS_LOCKOUT = 0 →
      s.sec.challenge = some ch →
      v < 4 →
      ∃ t, exec (.secDbgSubmit v) s = .next t ∧
        t.sec.challenge = none ∧ SameMem s t ∧
        (∀ k, dbgCheck s ch v = k + 1 → fget t 24 0 Fl.SEC_DBG_CTL_RESULT = k + 1 ∧ fget t 24 0 Fl.SEC_DBG_CTL_FAILURES = min 3 (fget s 24 0 Fl.SEC_DBG_CTL_FAILURES + 1) ∧ t.sec.mrs = s.sec.mrs ∧
          fget t 24 0 Fl.SEC_STATUS_DEBUG_LEVEL = fget s 24 0 Fl.SEC_STATUS_DEBUG_LEVEL ∧ t.evt.arriving.map (·.code) = s.evt.arriving.map (·.code) ++ [0x0F81]) ∧
        (dbgCheck s ch v = 0 → fget t 24 0 Fl.SEC_DBG_CTL_RESULT = 0 ∧ fget t 24 0 Fl.SEC_STATUS_DEBUG_LEVEL = v ∧ t.evt.arriving.map (·.code) = s.evt.arriving.map (·.code) ++ [0x0F80] ∧
          mrGet t 7 = mrGet (mrDebug s v) 7))

/-- ATTEST of a command not yet accepted, with COUNT 72, whose request is read and obeys the layout: with no other in the unit it is accepted with its report as of now; behind another it is accepted with its request and joins the queue; neither changes a launch or, beyond the reading, memory. One of another COUNT, or whose request is bad, ends at once, moving the completion tail on by one, and changes no launch and nothing of the security unit. ATTEST_SIGNED of the first in the queue, with its report at hand and written, ends the command, takes it off the queue, moves the completion tail on by one and changes no launch. A report has 352 bytes and 48 more for each register that its request's mask selects. Completes, under hypotheses on the state and the operands alone: ATTEST, ATTEST_SIGNED. -/
def Obligations.ReportsAreSigned : Prop :=
  (∀ (c q : Nat) (k : Cmd) (b : List Byte) (s : State),
      runCmd s c q 7 = some k →
      k.accepted = false →
      k.desc.count = 72 →
      k.denied = none →
      (readVa s (.cmd c q) c k.desc.argA.toNat 72).1 = .ok b →
      requestBad b = none →
      getCmd (readVa s (.cmd c q) c k.desc.argA.toNat 72).2 c q = some k →
      s.sec.attests = [] →
      ∃ t, exec (.attest c q) s = .next t ∧
        getCmd t c q = some { k with accepted := true, entry := attestReport (readVa s (.cmd c q) c k.desc.argA.toNat 72).2 c q b, frames := leNat (slice b 56 8) } ∧ t.sec.attests = [(c, q)] ∧
        SameMem (readVa s (.cmd c q) c k.desc.argA.toNat 72).2 t ∧ t.launches = s.launches) ∧
  (∀ (c q : Nat) (k : Cmd) (b : List Byte) (p : Nat × Nat) (s : State),
      runCmd s c q 7 = some k →
      k.accepted = false →
      k.desc.count = 72 →
      k.denied = none →
      (readVa s (.cmd c q) c k.desc.argA.toNat 72).1 = .ok b →
      requestBad b = none →
      getCmd (readVa s (.cmd c q) c k.desc.argA.toNat 72).2 c q = some k →
      s.sec.attests.head? = some p →
      p ≠ (c, q) →
      ∃ t, exec (.attest c q) s = .next t ∧
        getCmd t c q = some { k with accepted := true, entry := b } ∧ t.sec.attests = s.sec.attests ++ [(c, q)] ∧
        SameMem (readVa s (.cmd c q) c k.desc.argA.toNat 72).2 t ∧ t.launches = s.launches) ∧
  (∀ (c q : Nat) (k : Cmd) (s : State),
      runCmd s c q 7 = some k →
      k.accepted = false →
      k.desc.count ≠ 72 →
      ∃ t, exec (.attest c q) s = .next t ∧
        getCmd t c q = none ∧ (getCtx t c).cplTail = ((getCtx s c).cplTail + 1) % 2 ^ 32 ∧ t.launches = s.launches ∧ t.sec = s.sec) ∧
  (∀ (c q st : Nat) (k : Cmd) (b : List Byte) (s : State),
      runCmd s c q 7 = some k →
      k.accepted = false →
      k.desc.count = 72 →
      k.denied = none →
      (readVa s (.cmd c q) c k.desc.argA.toNat 72).1 = .ok b →
      requestBad b = some st →
      ∃ t, exec (.attest c q) s = .next t ∧
        getCmd t c q = none ∧ (getCtx t c).cplTail = ((getCtx (readVa s (.cmd c q) c k.desc.argA.toNat 72).2 c).cplTail + 1) % 2 ^ 32 ∧ t.launches = s.launches ∧ t.sec = s.sec) ∧
  (∀ (c q : Nat) (k : Cmd) (s : State),
      runCmd s c q 7 = some k →
      k.accepted = true →
      k.entry.length ≠ 72 →
      s.sec.attests.head? = some (c, q) →
      k.denied = none →
      (writeVa s (.cmd c q) c k.frames k.entry).1 = .ok () →
      exec (.attestSigned c q) s = .next (endSigning (writeVa s (.cmd c q) c k.frames k.entry).2 c q 0 (BitVec.ofNat 64 k.entry.length))) ∧
  (∀ (c q : Nat) (k : Cmd) (s : State),
      runCmd s c q 7 = some k →
      k.accepted = true →
      k.entry.length ≠ 72 →
      s.sec.attests.head? = some (c, q) →
      k.denied = none →
      (writeVa s (.cmd c q) c k.frames k.entry).1 = .ok () →
      ∃ t, exec (.attestSigned c q) s = .next t ∧
        getCmd t c q = none ∧ (getCtx t c).cplTail = ((getCtx (writeVa s (.cmd c q) c k.frames k.entry).2 c).cplTail + 1) % 2 ^ 32 ∧ t.launches = s.launches ∧ t.sec.attests = s.sec.attests.filter (· != (c, q))) ∧
  (∀ (s : State) (c q : Nat) (b : List Byte), b.length = 72 → (attestReport s c q b).length = 352 + 48 * (maskRegs (leNat (slice b 2 2))).length)

/-- PERSIST_WRITE of register 64 to 255 of an accessible system die that has commits left: with its window open the value is committed and counted and the window closed; with it closed the value becomes the pending one; either way it is what a read returns. An exhausted register counts the write as rejected, and nothing else changes; of a register below 64 nothing changes. PERSIST_COMMIT of a register with a pending value and commits left commits and counts it, and of one with none and its window closed opens the window. None of the first two and the commit changes another persistent register, a device register or memory. Completes, under hypotheses on the state and the operands alone: PERSIST_WRITE, PERSIST_COMMIT. -/
def Obligations.PersistentRegistersCoalesceWrites : Prop :=
  (∀ (n : Nat) (v : BitVec 64) (s : State),
      windowDead s 24 = false →
      64 ≤ n →
      n < 256 →
      (getPersist s n).windowOpen = true →
      (getPersist s n).commits < wearEnd →
      ∃ t, exec (.persistWrite n v) s = .next t ∧
        getPersist t n = ⟨v, none, (getPersist s n).commits + 1, false⟩ ∧ persistRead t n = v ∧ (∀ m, m ≠ n → getPersist t m = getPersist s m) ∧
        t.regs = s.regs ∧ SameMem s t) ∧
  (∀ (n : Nat) (v : BitVec 64) (s : State),
      windowDead s 24 = false →
      64 ≤ n →
      n < 256 →
      (getPersist s n).windowOpen = false →
      (getPersist s n).commits < wearEnd →
      ∃ t, exec (.persistWrite n v) s = .next t ∧
        getPersist t n = { (getPersist s n) with pendingV := some v } ∧ persistRead t n = v ∧ (∀ m, m ≠ n → getPersist t m = getPersist s m) ∧
        t.regs = s.regs ∧ t.evt = s.evt ∧ SameMem s t) ∧
  (∀ (n : Nat) (v : BitVec 64) (s : State),
      windowDead s 24 = false →
      64 ≤ n →
      n < 256 →
      wearEnd ≤ (getPersist s n).commits →
      exec (.persistWrite n v) s = .next (fsat s 24 0 Fl.PRS_STATUS_REJECTED_WRITES 1)) ∧
  (∀ (n : Nat) (v : BitVec 64) (s : State),
      windowDead s 24 = false →
      n < 64 →
      exec (.persistWrite n v) s = .next (s)) ∧
  (∀ (n : Nat) (v : BitVec 64) (s : State),
      (getPersist s n).pendingV = some v →
      (getPersist s n).commits < wearEnd →
      ∃ t, exec (.persistCommit n) s = .next t ∧
        getPersist t n = ⟨v, none, (getPersist s n).commits + 1, false⟩ ∧ persistRead t n = v ∧ (∀ m, m ≠ n → getPersist t m = getPersist s m) ∧
        t.regs = s.regs ∧ SameMem s t) ∧
  (∀ (n : Nat) (s : State),
      n < 256 →
      (getPersist s n).pendingV = none →
      (getPersist s n).windowOpen = false →
      exec (.persistCommit n) s = .next (putPersist s n { (getPersist s n) with windowOpen := true }))

/-- SYS_RST_N_ASSERT with PWR_GOOD while the device does not drive the pin, DOME_WATCHDOG where the start-up has not stopped, COHERENCE_FATAL and RST_CTL_SYSTEM with its KEY, while no system or power-on reset is in progress: a system reset is then in progress and SYS_RST_N driven, everything that Emptied names is empty, the registers that a system reset clears are at their reset values and every other register but RST_CAUSE, RST_CTL, the history and CORE_STATE is as before, every CORE_STATE.STATE is 0, the measurement registers are clear, the persistent array, the fuses and the keys are as before, and RST_CAUSE and the first entry of the history are the source's. SYS_RST_N_ASSERT without PWR_GOOD changes nothing. COHERENCE_FATAL during a system or power-on reset that has not stopped only enters the history. RST_CTL_SYSTEM with another KEY sets REJECTED and has no other effect. An entry of the history moves the fifteen before it on by one. Completes, under hypotheses on the state and the operands alone: SYS_RST_N_ASSERT, DOME_WATCHDOG, COHERENCE_FATAL, RST_CTL_SYSTEM. -/
def Obligations.SystemResetsClear : Prop :=
  (∀ (s : State),
      s.rst.kind.rank < 2 →
      s.pins.pwrGood = true →
      s.pins.sysRstDriven = false →
      ∃ t, exec (.sysRstNAssert) s = .next t ∧
        t.rst.kind = .system ∧ Emptied t ∧ t.pins.sysRstDriven = true ∧ t.persist = s.persist ∧ t.fuses = s.fuses ∧ t.sec.keys = s.sec.keys ∧
        t.sec.mrs = [] ∧ RegsCleared s t bySystem (regKey 24 .rstCause 0 :: regKey 24 .rstCtl 0 :: ((List.range 16).map (fun i => regKey 24 .rstHist i) ++ everyCore.map fun x => regKey x.1 .coreState x.2)) ∧
        (∀ x ∈ everyCore, fget t x.1 x.2 Fl.CORE_STATE_STATE = 0) ∧ rget t 24 .rstCause 0 = causeWord 0x06 2 0 ∧ rget t 24 .rstHist 0 = causeWord 0x06 2 0 ||| (1 <<< 63)) ∧
  (∀ (s : State),
      s.pins.pwrGood = false →
      exec (.sysRstNAssert) s = .next (s)) ∧
  (∀ (s : State),
      s.rst.kind.rank < 2 →
      s.rst.stopped = false →
      ∃ t, exec (.domeWatchdog) s = .next t ∧
        t.rst.kind = .system ∧ Emptied t ∧ t.pins.sysRstDriven = true ∧ t.persist = s.persist ∧ t.fuses = s.fuses ∧ t.sec.keys = s.sec.keys ∧
        t.sec.mrs = [] ∧ RegsCleared s t bySystem (regKey 24 .rstCause 0 :: regKey 24 .rstCtl 0 :: ((List.range 16).map (fun i => regKey 24 .rstHist i) ++ everyCore.map fun x => regKey x.1 .coreState x.2)) ∧
        (∀ x ∈ everyCore, fget t x.1 x.2 Fl.CORE_STATE_STATE = 0) ∧ rget t 24 .rstCause 0 = causeWord 0x07 2 (unitId 24 0 0) ∧ rget t 24 .rstHist 0 = causeWord 0x07 2 (unitId 24 0 0) ||| (1 <<< 63)) ∧
  (∀ (u : Nat) (s : State),
      s.rst.kind.rank < 2 →
      ∃ t, exec (.coherenceFatal u) s = .next t ∧
        t.rst.kind = .system ∧ Emptied t ∧ t.pins.sysRstDriven = true ∧ t.persist = s.persist ∧ t.fuses = s.fuses ∧ t.sec.keys = s.sec.keys ∧
        t.sec.mrs = [] ∧ RegsCleared s t bySystem (regKey 24 .rstCause 0 :: regKey 24 .rstCtl 0 :: ((List.range 16).map (fun i => regKey 24 .rstHist i) ++ everyCore.map fun x => regKey x.1 .coreState x.2)) ∧
        (∀ x ∈ everyCore, fget t x.1 x.2 Fl.CORE_STATE_STATE = 0) ∧ rget t 24 .rstCause 0 = causeWord 0x09 2 u ∧ rget t 24 .rstHist 0 = causeWord 0x09 2 u ||| (1 <<< 63)) ∧
  (∀ (u : Nat) (s : State),
      2 ≤ s.rst.kind.rank →
      s.rst.stopped = false →
      exec (.coherenceFatal u) s = .next (histPush s (causeWord 0x09 2 u))) ∧
  (∀ (s : State),
      windowDead s 24 = false →
      s.rst.kind.rank < 2 →
      ∃ t, exec (.rstCtlSystem 0xA5) s = .next t ∧
        t.rst.kind = .system ∧ Emptied t ∧ t.pins.sysRstDriven = true ∧ t.persist = s.persist ∧ t.fuses = s.fuses ∧ t.sec.keys = s.sec.keys ∧
        t.sec.mrs = [] ∧ RegsCleared s t bySystem (regKey 24 .rstCause 0 :: regKey 24 .rstCtl 0 :: ((List.range 16).map (fun i => regKey 24 .rstHist i) ++ everyCore.map fun x => regKey x.1 .coreState x.2)) ∧
        (∀ x ∈ everyCore, fget t x.1 x.2 Fl.CORE_STATE_STATE = 0) ∧ rget t 24 .rstCause 0 = causeWord 0x08 2 0 ∧ rget t 24 .rstHist 0 = causeWord 0x08 2 0 ||| (1 <<< 63)) ∧
  (∀ (k : Nat) (s : State),
      windowDead s 24 = false →
      k ≠ 0xA5 →
      exec (.rstCtlSystem k) s = .next (fput s 24 0 Fl.RST_CTL_REJECTED 1)) ∧
  (∀ (s : State) (w : BitVec 64), rget (histPush s w) 24 .rstHist 0 = w ||| (1 <<< 63) ∧
      ∀ i, i < 15 → rget (histPush s w) 24 .rstHist (i + 1) = rget s 24 .rstHist i)

/-- BROWNOUT, THERMAL_TRIP and RESET_CONFIGURATION_UE while no power-on reset is in progress, and PWR_GOOD_FALL while PWR_GOOD is high, with register 0 far enough from exhaustion: a power-on reset is then in progress, everything that Emptied names is empty, no register is left that a power-on reset clears, the measurement registers are clear, the fuses and the keys are as before, and register 0 holds the record of the source with nothing pending. A pending value of another register with commits left is committed, at a brownout and a fall of PWR_GOOD either committed or lost, the register then keeping its value. PWR_GOOD_FALL leaves PWR_GOOD low; while it is low already it changes nothing. PWR_GOOD_RISE during a power-on reset leaves PWR_GOOD high, SYS_RST_N driven, device time 0 and STAGE 1, and changes nothing else. Completes, under hypotheses on the state and the operands alone: BROWNOUT, THERMAL_TRIP, RESET_CONFIGURATION_UE, PWR_GOOD_FALL, PWR_GOOD_RISE. -/
def Obligations.PowerOnResetsClear : Prop :=
  (∀ (s : State),
      s.rst.kind ≠ .powerOn →
      (getPersist s 0).commits + 2 * s.persist.length < wearEnd →
      ∃ t, exec (.brownout) s = .next t ∧
        t.rst.kind = .powerOn ∧ Emptied t ∧ t.fuses = s.fuses ∧ t.sec.keys = s.sec.keys ∧ t.sec.mrs = [] ∧ (∀ x ∈ t.regs, clearedBy byPowerOn x.1 = false) ∧
        (getPersist t 0).value = causeRecord 0x03 0 ∧ (getPersist t 0).pendingV = none ∧
        (∀ n x v, n ≠ 0 → getPersist s n = x → s.persist.filter (·.1 == n) = [(n, x)] → x.pendingV = some v → x.commits < wearEnd → (getPersist t n).value = v ∨ (getPersist t n).value = x.value)) ∧
  (∀ (d : Nat) (s : State),
      s.rst.kind ≠ .powerOn →
      (getPersist s 0).commits + 2 * s.persist.length < wearEnd →
      ∃ t, exec (.thermalTrip d) s = .next t ∧
        t.rst.kind = .powerOn ∧ Emptied t ∧ t.fuses = s.fuses ∧ t.sec.keys = s.sec.keys ∧ t.sec.mrs = [] ∧ (∀ x ∈ t.regs, clearedBy byPowerOn x.1 = false) ∧
        (getPersist t 0).value = causeRecord 0x04 (unitId d 0 0) ∧ (getPersist t 0).pendingV = none ∧
        (∀ n x v, n ≠ 0 → getPersist s n = x → s.persist.filter (·.1 == n) = [(n, x)] → x.pendingV = some v → x.commits < wearEnd → (getPersist t n).value = v)) ∧
  (∀ (u : Nat) (s : State),
      s.rst.kind ≠ .powerOn →
      (getPersist s 0).commits + 2 * s.persist.length < wearEnd →
      ∃ t, exec (.resetConfigurationUe u) s = .next t ∧
        t.rst.kind = .powerOn ∧ Emptied t ∧ t.fuses = s.fuses ∧ t.sec.keys = s.sec.keys ∧ t.sec.mrs = [] ∧ (∀ x ∈ t.regs, clearedBy byPowerOn x.1 = false) ∧
        (getPersist t 0).value = causeRecord 0x05 u ∧ (getPersist t 0).pendingV = none ∧
        (∀ n x v, n ≠ 0 → getPersist s n = x → s.persist.filter (·.1 == n) = [(n, x)] → x.pendingV = some v → x.commits < wearEnd → (getPersist t n).value = v)) ∧
  (∀ (s : State),
      s.pins.pwrGood = true →
      (getPersist s 0).commits + 2 * s.persist.length < wearEnd →
      ∃ t, exec (.pwrGoodFall) s = .next t ∧
        t.rst.kind = .powerOn ∧ Emptied t ∧ t.fuses = s.fuses ∧ t.sec.keys = s.sec.keys ∧ t.sec.mrs = [] ∧ (∀ x ∈ t.regs, clearedBy byPowerOn x.1 = false) ∧
        (getPersist t 0).value = causeRecord 0x02 0 ∧ (getPersist t 0).pendingV = none ∧
        (∀ n x v, n ≠ 0 → getPersist s n = x → s.persist.filter (·.1 == n) = [(n, x)] → x.pendingV = some v → x.commits < wearEnd → (getPersist t n).value = v ∨ (getPersist t n).value = x.value) ∧ t.pins.pwrGood = false) ∧
  (∀ (s : State),
      s.pins.pwrGood = false →
      exec (.pwrGoodFall) s = .next (s)) ∧
  (∀ (s : State),
      s.pins.pwrGood = false →
      s.rst.kind = .powerOn →
      exec (.pwrGoodRise) s = .next (fput { s with pins := { s.pins with pwrGood := true, sysRstDriven := true }, time := 0 } 24 0 Fl.BOOT_STATUS_STAGE 1))

/-- RST_CTL_CORE with its KEY on an accessible system die, with no reset in progress and every core's store and combining buffers empty: no reset is then in progress, L3 is empty, MR8 to MR15 are 0, RST_CAUSE and the first entry of the history are those of the request, every core that was online runs as a fresh record at the boot address, every other core is as after reset, and contexts, launches, engines, near store, the persistent array and the network are as before. During another reset it only enters the history, with REJECTED 0; with another KEY it sets REJECTED and has no other effect. CORE_RESET_DRAIN_TIMEOUT of a host die during a core reset, one of whose cores still buffers a line, leaves every core's buffers empty with event 0x0F41 among the new ones, and contexts and launches as before; with no core reset in progress it changes nothing. Completes, under hypotheses on the state and the operands alone: RST_CTL_CORE, CORE_RESET_DRAIN_TIMEOUT. -/
def Obligations.CoreResetsRestartTheCores : Prop :=
  (∀ (s : State),
      windowDead s 24 = false →
      s.rst.kind = .none →
      s.cores.all (fun x => x.2.stores.isEmpty && x.2.stnt.isEmpty) = true →
      ∃ t, exec (.rstCtlCore 0xA5) s = .next t ∧
        t.rst.kind = .none ∧ t.coh.l3 = [] ∧ (∀ i, 8 ≤ i → mrGet t i = 0) ∧ rget t 24 .rstCause 0 = causeWord 0x08 1 0 ∧ rget t 24 .rstHist 0 = causeWord 0x08 1 0 ||| (1 <<< 63) ∧
        (∀ x ∈ upCores s, fget t x.1 x.2 Fl.CORE_STATE_STATE = 1 ∧ getCore t x.1 x.2 = { Core.fresh with pc := bootAddr s }) ∧
        (∀ d c, d = 16 ∨ d = 17 → c < 100 → (d, c) ∉ upCores s → getCore t d c = Core.fresh) ∧
        t.ctxs = s.ctxs ∧ t.launches = s.launches ∧ t.engines = s.engines ∧ t.near = s.near ∧ t.persist = s.persist ∧ t.net = s.net) ∧
  (∀ (s : State),
      windowDead s 24 = false →
      s.rst.kind ≠ .none →
      exec (.rstCtlCore 0xA5) s = .next (histPush (fput s 24 0 Fl.RST_CTL_REJECTED 0) (causeWord 0x08 1 0))) ∧
  (∀ (k : Nat) (s : State),
      windowDead s 24 = false →
      k ≠ 0xA5 →
      exec (.rstCtlCore k) s = .next (fput s 24 0 Fl.RST_CTL_REJECTED 1)) ∧
  (∀ (d c : Nat) (s : State),
      s.rst.kind = .core →
      d = 16 ∨ d = 17 →
      c < 100 →
      bufferedLines (getCore s d c) ≠ 0 →
      ∃ t, exec (.coreResetDrainTimeout d) s = .next t ∧
        0x0F41 ∈ t.evt.arriving.map (·.code) ∧ (∀ x, x < 100 → buffersEmpty t d x = true) ∧ t.ctxs = s.ctxs ∧ t.launches = s.launches) ∧
  (∀ (d : Nat) (s : State),
      s.rst.kind ≠ .core →
      exec (.coreResetDrainTimeout d) s = .next (s))

/-- PARTITION_FULL_RESET from unit 1 of a die numbered 18 or more, and RST_CTL_PARTITION with its KEY, of a partition of the mode that is not in its reset, during no system or power-on reset and with no fault record open: the partition is then in its reset, event 0x0F10 is among the new ones, RST_CAUSE names the source, exactly the partition's contexts and launches are gone, every byte of its HBM range is 0, and the persistent array and the fuses are as before. From unit 0 of the system die, of a partition in its reset, PARTITION_FULL_RESET only enters the history. RST_CTL_PARTITION with another KEY, or of a partition that the mode does not have, sets REJECTED and has no other effect. PARTITION_RESET_COMPLETE with every link good takes the partition out of its reset, and fences none, and keeps contexts, launches and cores; of a partition not in its reset it changes nothing. Completes, under hypotheses on the state and the operands alone: PARTITION_FULL_RESET, RST_CTL_PARTITION, PARTITION_RESET_COMPLETE. -/
def Obligations.PartitionResetsClearTheirPartition : Prop :=
  (∀ (p u : Nat) (s : State),
      p < partCount (modeOf s) →
      s.rst.kind.rank < 2 →
      s.rst.parts.contains p = false →
      s.xlat.faults = [] →
      18 ≤ u / 2048 →
      u % 2048 = 1 →
      ∃ t, exec (.partitionFullReset p u) s = .next t ∧
        t.rst.parts.contains p = true ∧ 0x0F10 ∈ t.evt.arriving.map (·.code) ∧ rget t 24 .rstCause 0 = causeWord 0x0A 3 p ∧
        t.ctxs = s.ctxs.filter (fun x => ctxPart s x.1 != p) ∧ t.launches = s.launches.filter (fun l => ctxPart s l.ctx != p) ∧
        (∀ a, (partRange s p).1 ≤ a → a < (partRange s p).2 → memRead t.mem a = 0) ∧ t.persist = s.persist ∧ t.fuses = s.fuses) ∧
  (∀ (p u : Nat) (s : State),
      p < partCount (modeOf s) →
      s.rst.kind.rank < 2 →
      s.rst.parts.contains p = true →
      u / 2048 = 24 →
      u % 2048 = 0 →
      exec (.partitionFullReset p u) s = .next (histPush s (causeWord 0x0B 3 p))) ∧
  (∀ (p : Nat) (s : State),
      windowDead s 24 = false →
      p < partCount (modeOf s) →
      s.rst.kind.rank < 2 →
      s.rst.parts.contains p = false →
      s.xlat.faults = [] →
      ∃ t, exec (.rstCtlPartition 0xA5 p) s = .next t ∧
        t.rst.parts.contains p = true ∧ 0x0F10 ∈ t.evt.arriving.map (·.code) ∧ rget t 24 .rstCause 0 = causeWord 0x08 3 p ∧
        t.ctxs = s.ctxs.filter (fun x => ctxPart s x.1 != p) ∧ t.launches = s.launches.filter (fun l => ctxPart s l.ctx != p) ∧
        (∀ a, (partRange s p).1 ≤ a → a < (partRange s p).2 → memRead t.mem a = 0) ∧ t.persist = s.persist ∧ t.fuses = s.fuses) ∧
  (∀ (k p : Nat) (s : State),
      windowDead s 24 = false →
      k ≠ 0xA5 ∨ partCount (modeOf s) ≤ p →
      exec (.rstCtlPartition k p) s = .next (fput s 24 0 Fl.RST_CTL_REJECTED 1)) ∧
  (∀ (p : Nat) (f : Findings) (s : State),
      s.rst.parts.contains p = true →
      s.rst.kind.rank < 2 →
      f.badLinks = [] →
      ∃ t, exec (.partitionResetComplete p f) s = .next t ∧
        t.rst.parts = s.rst.parts.filter (· != p) ∧ t.rst.fenced = s.rst.fenced ∧ t.rst.kind = s.rst.kind ∧
        t.ctxs = s.ctxs ∧ t.launches = s.launches ∧ t.cores = s.cores) ∧
  (∀ (p : Nat) (f : Findings) (s : State),
      s.rst.parts.contains p = false →
      exec (.partitionResetComplete p f) s = .next (s))

/-- START_UP during a system reset that has not stopped, with PWR_GOOD, the clocks present, SYS_RST_N not held by the board, every link and pad good, acceptable steppings, a valid DDR population and a plate found: STAGE is then 11, no reset is in progress, that plate is in force, SYS_RST_N is not driven and event 0x0F73 is among the new ones. With both flash banks empty, BOOT_NEXT not valid and the strap naming flash: STAGE 15 and CODE 1, the start has stopped, the dies 0 to 23 are dead, and pins and memory are as before. Without SYSREF25 only STAGE is written, with 1. With no system or power-on reset in progress, without PWR_GOOD or once stopped, it changes nothing. Completes, under hypotheses on the state and the operands alone: START_UP. -/
def Obligations.StartUpRunsOrFails : Prop :=
  (∀ (b : BootInput) (n : Nat) (x : PlateImage) (fb : Bool) (s : State),
      s.rst.kind = .system →
      s.pins.pwrGood = true →
      s.rst.stopped = false →
      b.sysref = true →
      b.linkClock = true →
      s.pins.sysRstBoard = false ∨ b.boardHolds = false →
      b.findings.badLinks = [] →
      b.findings.lanes = [] →
      b.findings.bondPads = [] →
      steppingOk b.epochs = true →
      ddrValid b.ddr = true →
      choosePlate (plateSource s false).2 b (plateSource s false).1 = .ok (n, x, fb) →
      ∃ t, exec (.startUp b) s = .next t ∧
        fget t 24 0 Fl.BOOT_STATUS_STAGE = 11 ∧ t.rst.kind = .none ∧ t.rst.plate = some x.plate ∧ t.rst.stopped = false ∧
        t.pins.sysRstDriven = false ∧ 0x0F73 ∈ t.evt.arriving.map (·.code)) ∧
  (∀ (b : BootInput) (s : State),
      s.rst.kind = .system →
      s.pins.pwrGood = true →
      s.rst.stopped = false →
      s.pins.sysRstBoard = false ∨ b.boardHolds = false →
      b.sysref = true →
      b.flashA = none →
      b.flashB = none →
      fget s 24 0 Fl.BOOT_NEXT_VALID = 0 →
      fget s 24 0 Fl.STRAP_STATUS_BOOT_SOURCE ≤ 1 →
      ∃ t, exec (.startUp b) s = .next t ∧
        fget t 24 0 Fl.BOOT_STATUS_STAGE = 15 ∧ fget t 24 0 Fl.BOOT_STATUS_CODE = 1 ∧ t.rst.stopped = true ∧ t.rst.deadDies = List.range 24 ∧
        t.pins = s.pins ∧ SameMem s t) ∧
  (∀ (b : BootInput) (s : State),
      2 ≤ s.rst.kind.rank →
      s.pins.pwrGood = true →
      s.rst.stopped = false →
      s.rst.kind ≠ .system ∨ s.pins.sysRstBoard = false ∨ b.boardHolds = false →
      b.sysref = false →
      exec (.startUp b) s = .next (fput s 24 0 Fl.BOOT_STATUS_STAGE 1)) ∧
  (∀ (b : BootInput) (s : State),
      s.rst.kind.rank < 2 ∨ s.pins.pwrGood = false ∨ s.rst.stopped = true →
      exec (.startUp b) s = .next (s))

/-- Of a running core that holds no access back, with no Device access or held store before it, at an aligned offset of an assigned block of an accessible die at which no register is defined: LOAD of 8 bytes binds 0, and STORE, STNT and REGISTER_WRITE of 8 bytes have no effect. Beside that, the core's buffered stores have retired, and nothing changes. Completes, under hypotheses on the state and the operands alone: LOAD, STORE, STNT, REGISTER_WRITE. -/
def Obligations.UndefinedOffsetsReadZero : Prop :=
  (∀ (h c d slot off : Nat) (s : State),
      d < 25 →
      slot < 64 →
      (blkAt (dieType d) slot).isSome = true →
      off < 0x10_0000 →
      off % 8 = 0 →
      regAt d slot off = none →
      windowDead s d = false →
      coreRuns s h c = true →
      (getCore s h c).queue = [] →
      deviceWaits s (getCore s h c) = false →
      mayRetire s h c = true →
      exec (.load h c (regBase + d * 0x400_0000 + slot * 0x10_0000 + off) 8) s = .next (modCore (retireStores s h c) h c fun x => { x with result := .value 0 })) ∧
  (∀ (h c d slot off : Nat) (v : BitVec 64) (s : State),
      d < 25 →
      slot < 64 →
      (blkAt (dieType d) slot).isSome = true →
      off < 0x10_0000 →
      off % 8 = 0 →
      regAt d slot off = none →
      windowDead s d = false →
      coreRuns s h c = true →
      (getCore s h c).queue = [] →
      deviceWaits s (getCore s h c) = false →
      mayRetire s h c = true →
      exec (.store h c (regBase + d * 0x400_0000 + slot * 0x10_0000 + off) 8 v) s = .next (retireStores s h c)) ∧
  (∀ (h c d slot off : Nat) (v : BitVec 64) (s : State),
      d < 25 →
      slot < 64 →
      (blkAt (dieType d) slot).isSome = true →
      off < 0x10_0000 →
      off % 8 = 0 →
      regAt d slot off = none →
      windowDead s d = false →
      coreRuns s h c = true →
      (getCore s h c).queue = [] →
      deviceWaits s (getCore s h c) = false →
      mayRetire s h c = true →
      exec (.stnt h c (regBase + d * 0x400_0000 + slot * 0x10_0000 + off) 8 v) s = .next (retireStores s h c)) ∧
  (∀ (h c d slot off : Nat) (v : BitVec 64) (s : State),
      d < 25 →
      slot < 64 →
      (blkAt (dieType d) slot).isSome = true →
      off < 0x10_0000 →
      off % 8 = 0 →
      regAt d slot off = none →
      windowDead s d = false →
      coreRuns s h c = true →
      (getCore s h c).queue = [] →
      deviceWaits s (getCore s h c) = false →
      mayRetire s h c = true →
      exec (.registerWrite h c (regBase + d * 0x400_0000 + slot * 0x10_0000 + off) 8 v) s = .next (retireStores s h c))

/-- Of a running core that holds no access back, with no Device access or held store before it: REGISTER_WRITE of 8 aligned bytes to a register's address, once the core's stores have retired, is regWrite of the register; to EVT_IRQ, on an accessible system die, it sets ENABLE, MIN_SEVERITY and VECTOR to the fields written, and to EVT_PROD leaves COUNT as it was; neither changes memory, another core state or, the first, another register. Of another size, or not aligned, it is an error response of a store and has no other effect. Behind an outstanding Device access, or a store that a load holds, it waits in the core. For every register, writing leaves its read-only fields as they were, gives its read-write fields the value written, and clears the bits of its write-1-to-clear fields that are written as 1; reading clears its read-clear fields and no other, and shows 0 for its write-only fields and no other. Completes, under hypotheses on the state and the operands alone: REGISTER_WRITE. -/
def Obligations.RegistersTakeWrites : Prop :=
  (∀ (h c a d i : Nat) (r : Reg) (v : BitVec 64) (s : State),
      coreRuns s h c = true →
      (getCore s h c).queue = [] →
      deviceWaits s (getCore s h c) = false →
      mayRetire s h c = true →
      paKind s a = .reg →
      regTarget s a 8 = some (d, some (r, i)) →
      exec (.registerWrite h c a 8 v) s = .next (regWrite (retireStores s h c) d r i v)) ∧
  (∀ (h c : Nat) (v : BitVec 64) (s : State),
      coreRuns s h c = true →
      (getCore s h c).queue = [] →
      deviceWaits s (getCore s h c) = false →
      mayRetire s h c = true →
      windowDead s 24 = false →
      ∃ t, exec (.registerWrite h c 0x3F00_6060_0018 8 v) s = .next t ∧
        fget t 24 0 Fl.EVT_IRQ_ENABLE = fldOf Fl.EVT_IRQ_ENABLE v ∧ fget t 24 0 Fl.EVT_IRQ_MIN_SEVERITY = fldOf Fl.EVT_IRQ_MIN_SEVERITY v ∧
        fget t 24 0 Fl.EVT_IRQ_VECTOR = fldOf Fl.EVT_IRQ_VECTOR v ∧ RegsBut s t [regKey 24 .evtIrq 0] ∧ SameMem s t ∧ t.cores = (retireStores s h c).cores) ∧
  (∀ (h c : Nat) (v : BitVec 64) (s : State),
      coreRuns s h c = true →
      (getCore s h c).queue = [] →
      deviceWaits s (getCore s h c) = false →
      mayRetire s h c = true →
      windowDead s 24 = false →
      ∃ t, exec (.registerWrite h c 0x3F00_6060_0008 8 v) s = .next t ∧
        fget t 24 0 Fl.EVT_PROD_COUNT = fget s 24 0 Fl.EVT_PROD_COUNT ∧ SameMem s t ∧ t.cores = (retireStores s h c).cores) ∧
  (∀ (h c a n : Nat) (v : BitVec 64) (s : State),
      coreRuns s h c = true →
      (getCore s h c).queue = [] →
      deviceWaits s (getCore s h c) = false →
      mayRetire s h c = true →
      paKind s a = .reg →
      n ≠ 8 ∨ a % 8 ≠ 0 →
      exec (.registerWrite h c a n v) s = .next (storeErr (retireStores s h c) h c kBusStore a)) ∧
  (∀ (h c a n : Nat) (v : BitVec 64) (s : State),
      coreRuns s h c = true →
      (getCore s h c).queue = [] →
      paKind s a = .reg →
      deviceWaits s (getCore s h c) = true ∨ mayRetire s h c = false →
      exec (.registerWrite h c a n v) s = .next (modCore s h c fun x => { x with queue := x.queue ++ [.store a n v] })) ∧
  (∀ (r : Reg) (f : Fld) (old w : BitVec 64), f ∈ r.fields →
      (f.acc = .ro → fldOf f (written r old w) = fldOf f old) ∧
      (f.acc = .rw → fldOf f (written r old w) = fldOf f w) ∧
      (f.acc = .w1c → fldOf f (written r old w) = fldOf f (old &&& ~~~w)) ∧
      (f.acc = .rc → fldOf f (afterRead r old) = 0) ∧
      (f.acc ≠ .rc → fldOf f (afterRead r old) = fldOf f old) ∧
      (f.acc = .wo → fldOf f (visible r old) = 0) ∧
      (f.acc ≠ .wo → fldOf f (visible r old) = fldOf f old))

/-- On an accessible system die, with no operation running: RETIRE_ENGINE of an active engine of a die with a spare marks it as retiring with BUSY 1 and REJECTED 0, and changes no other engine, no other register and no memory; of a unit that is no engine, of an engine that is not active and of one whose die has no spare it sets REJECTED with RESULT 2, and while an operation runs with RESULT 1; either changes no engine, memory or other register. ENGINE_RETIRE_SWAP of the retiring engine that the running operation names, with nothing placed and a spare, makes it retired, the spare active at its near-store bank, which names the spare, and ends the operation with event 0x0F30 among the new ones and near store as before; with no operation running it changes nothing. SET_PARTITION_MODE of mode 0 to 2, with every context disabled, no reset in progress and every link good, makes that the mode, with event 0x0F90 among the new ones, no partition in reset or fenced and the fuses as before; with a context not disabled it sets REJECTED with RESULT 2, and changes no mode, context, memory or other register. RETRAIN_DDR under its condition, with no reset in progress, a valid population found and memory in canonical form, leaves every byte of DDR 0 and every other byte of memory as before, the population as found, DDR mapped unless an earlier training has left it unmapped, event 0x0F91 among the new ones, and near store, contexts and launches as before; without its condition it sets REJECTED with RESULT 2, and changes no memory, population or other register. Completes, under hypotheses on the state and the operands alone: RETIRE_ENGINE, ENGINE_RETIRE_SWAP, SET_PARTITION_MODE, RETRAIN_DDR. -/
def Obligations.ServiceOperationsRun : Prop :=
  (∀ (u d e k : Nat) (s : State),
      windowDead s 24 = false →
      fget s 24 0 Fl.DBG_SERVICE_BUSY = 0 →
      engineOfUnit u = some (d, e) →
      engRole s d e = 0 →
      spareOf s d = some k →
      ∃ t, exec (.retireEngine u) s = .next t ∧
        (getEng t d e).retiring = true ∧ fget t 24 0 Fl.DBG_SERVICE_BUSY = 1 ∧ fget t 24 0 Fl.DBG_SERVICE_REJECTED = 0 ∧
        EnginesBut s t d e ∧ RegsBut s t [regKey 24 .dbgService 0] ∧ SameMem s t) ∧
  (∀ (u : Nat) (s : State),
      windowDead s 24 = false →
      fget s 24 0 Fl.DBG_SERVICE_BUSY = 0 →
      engineOfUnit u = none →
      ∃ t, exec (.retireEngine u) s = .next t ∧
        fget t 24 0 Fl.DBG_SERVICE_REJECTED = 1 ∧ fget t 24 0 Fl.DBG_SERVICE_RESULT = 2 ∧ t.engines = s.engines ∧ RegsBut s t [regKey 24 .dbgService 0] ∧ SameMem s t) ∧
  (∀ (u d e : Nat) (s : State),
      windowDead s 24 = false →
      fget s 24 0 Fl.DBG_SERVICE_BUSY = 0 →
      engineOfUnit u = some (d, e) →
      engRole s d e ≠ 0 ∨ spareOf s d = none →
      ∃ t, exec (.retireEngine u) s = .next t ∧
        fget t 24 0 Fl.DBG_SERVICE_REJECTED = 1 ∧ fget t 24 0 Fl.DBG_SERVICE_RESULT = 2 ∧ t.engines = s.engines ∧ RegsBut s t [regKey 24 .dbgService 0] ∧ SameMem s t) ∧
  (∀ (u : Nat) (s : State),
      windowDead s 24 = false →
      fget s 24 0 Fl.DBG_SERVICE_BUSY = 1 →
      ∃ t, exec (.retireEngine u) s = .next t ∧
        fget t 24 0 Fl.DBG_SERVICE_REJECTED = 1 ∧ fget t 24 0 Fl.DBG_SERVICE_RESULT = 1 ∧ t.engines = s.engines ∧ RegsBut s t [regKey 24 .dbgService 0] ∧ SameMem s t) ∧
  (∀ (d e k : Nat) (s : State),
      fget s 24 0 Fl.DBG_SERVICE_BUSY = 1 →
      fget s 24 0 Fl.DBG_SERVICE_OP = 1 →
      fget s 24 0 Fl.DBG_SERVICE_ARG = unitId d 1 e →
      d < 8 →
      e < 34 →
      k < 34 →
      fget s d e Fl.ENG_STATUS_PLACED = 0 →
      (getEng s d e).retiring = true →
      engRole s d e = 0 →
      spareOf s d = some k →
      boundBank s d e < 32 →
      ∃ t, exec (.engineRetireSwap d e) s = .next t ∧
        engRole t d e = 2 ∧ engRole t d k = 0 ∧ boundBank t d k = boundBank s d e ∧ fget t (d + 8) (boundBank s d e) Fl.NST_BANK_ENGINE = k ∧
        fget t 24 0 Fl.DBG_SERVICE_BUSY = 0 ∧ (getEng t d e).retiring = false ∧ t.near = s.near ∧ 0x0F30 ∈ t.evt.arriving.map (·.code)) ∧
  (∀ (d e : Nat) (s : State),
      fget s 24 0 Fl.DBG_SERVICE_BUSY = 0 →
      exec (.engineRetireSwap d e) s = .next (s)) ∧
  (∀ (m : Nat) (f : Findings) (s : State),
      windowDead s 24 = false →
      fget s 24 0 Fl.DBG_SERVICE_BUSY = 0 →
      m < 3 →
      s.ctxs.all (fun c => ctxState c.2 == 0) = true →
      s.rst.parts = [] →
      s.rst.kind = .none →
      f.badLinks = [] →
      ∃ t, exec (.setPartitionMode m f) s = .next t ∧
        modeOf t = m ∧ 0x0F90 ∈ t.evt.arriving.map (·.code) ∧ fget t 24 0 Fl.DBG_SERVICE_REJECTED = 0 ∧ t.rst.parts = [] ∧ t.rst.fenced = [] ∧
        t.fuses = s.fuses ∧ t.rst.kind = .none) ∧
  (∀ (m : Nat) (f : Findings) (s : State),
      windowDead s 24 = false →
      fget s 24 0 Fl.DBG_SERVICE_BUSY = 0 →
      s.ctxs.all (fun c => ctxState c.2 == 0) = false →
      ∃ t, exec (.setPartitionMode m f) s = .next t ∧
        fget t 24 0 Fl.DBG_SERVICE_REJECTED = 1 ∧ fget t 24 0 Fl.DBG_SERVICE_RESULT = 2 ∧ modeOf t = modeOf s ∧ t.ctxs = s.ctxs ∧ SameMem s t ∧
        RegsBut s t [regKey 24 .dbgService 0]) ∧
  (∀ (f : DdrFound) (s : State),
      windowDead s 24 = false →
      fget s 24 0 Fl.DBG_SERVICE_BUSY = 0 →
      retrainOk s = true →
      s.rst.kind = .none →
      ddrValid f = true →
      s.mem.wf = true →
      ∃ t, exec (.retrainDdr f) s = .next t ∧
        (∀ a, a < 0x0400_0000_0000 → memRead t.mem a = 0) ∧ (∀ a, 0x0400_0000_0000 ≤ a → memRead t.mem a = memRead s.mem a) ∧
        t.ddr = f ∧ t.rst.ddrUnmapped = s.rst.ddrUnmapped ∧ 0x0F91 ∈ t.evt.arriving.map (·.code) ∧ t.near = s.near ∧ t.ctxs = s.ctxs ∧ t.launches = s.launches) ∧
  (∀ (f : DdrFound) (s : State),
      windowDead s 24 = false →
      fget s 24 0 Fl.DBG_SERVICE_BUSY = 0 →
      retrainOk s = false →
      ∃ t, exec (.retrainDdr f) s = .next t ∧
        fget t 24 0 Fl.DBG_SERVICE_REJECTED = 1 ∧ fget t 24 0 Fl.DBG_SERVICE_RESULT = 2 ∧ SameMem s t ∧ t.ddr = s.ddr ∧ RegsBut s t [regKey 24 .dbgService 0])

/-- EVENT_RECORD without tracing, of the event that arrived first: with the log on, not full, its slot a sound line of memory that answers and that nobody holds, and no coherence message on its way, the slot of its number holds the event's bytes, PROD is one further, the event is taken, the vector is sent exactly where IRQ.ENABLE is 1 and the severity reaches the threshold, and contexts and launches are as before; with the log off it waits where fewer than 64 do, and is otherwise dropped and counted. With no event arriving it changes nothing. EVT_LOG_ENABLE of an accessible system die with the log off leaves no record waiting, ENABLE 1, BASE as written and PROD further by the number that waited, and keeps the arriving events and the contexts; with the log on it changes nothing. Completes, under hypotheses on the state and the operands alone: EVENT_RECORD, EVT_LOG_ENABLE. -/
def Obligations.EventsAreLogged : Prop :=
  (∀ (e : Event) (r : List Event) (s : State),
      fget s 24 0 Fl.DBG_CTL_TRACE_EN = 0 →
      s.evt.arriving = e :: r →
      fget s 24 0 Fl.EVT_LOG_ENABLE = 1 →
      (fget s 24 0 Fl.EVT_PROD_COUNT + 2 ^ 32 - fget s 24 0 Fl.EVT_CONS_COUNT) % 2 ^ 32 ≠ 4096 →
      deadLine s (lineOf (fget s 24 0 Fl.EVT_LOG_BASE * 2 ^ 17 + fget s 24 0 Fl.EVT_PROD_COUNT % 4096 * 32)) = false →
      smGet s.flaws (lineOf (fget s 24 0 Fl.EVT_LOG_BASE * 2 ^ 17 + fget s 24 0 Fl.EVT_PROD_COUNT % 4096 * 32)) = none →
      lineBusy (getHome s (homeOf s (lineOf (fget s 24 0 Fl.EVT_LOG_BASE * 2 ^ 17 + fget s 24 0 Fl.EVT_PROD_COUNT % 4096 * 32)))) (lineOf (fget s 24 0 Fl.EVT_LOG_BASE * 2 ^ 17 + fget s 24 0 Fl.EVT_PROD_COUNT % 4096 * 32)) = false →
      dirFind (getHome s (homeOf s (lineOf (fget s 24 0 Fl.EVT_LOG_BASE * 2 ^ 17 + fget s 24 0 Fl.EVT_PROD_COUNT % 4096 * 32)))) (lineOf (fget s 24 0 Fl.EVT_LOG_BASE * 2 ^ 17 + fget s 24 0 Fl.EVT_PROD_COUNT % 4096 * 32)) = none →
      s.coh.probes = [] →
      s.coh.resps = [] →
      s.coh.data = [] →
      s.mem.wf = true →
      ∃ t, exec (.eventRecord) s = .next t ∧
        memReadN t.mem (fget s 24 0 Fl.EVT_LOG_BASE * 2 ^ 17 + fget s 24 0 Fl.EVT_PROD_COUNT % 4096 * 32) 32 = eventBytes e ∧ fget t 24 0 Fl.EVT_PROD_COUNT = (fget s 24 0 Fl.EVT_PROD_COUNT + 1) % 2 ^ 32 ∧ t.evt.arriving = r ∧
        t.irqOut = s.irqOut ++ (if fget s 24 0 Fl.EVT_IRQ_ENABLE = 1 ∧ fget s 24 0 Fl.EVT_IRQ_MIN_SEVERITY ≤ e.severity then [fget s 24 0 Fl.EVT_IRQ_VECTOR] else []) ∧
        t.ctxs = s.ctxs ∧ t.launches = s.launches) ∧
  (∀ (e : Event) (r : List Event) (s : State),
      fget s 24 0 Fl.DBG_CTL_TRACE_EN = 0 →
      s.evt.arriving = e :: r →
      fget s 24 0 Fl.EVT_LOG_ENABLE = 0 →
      s.evt.waiting.length < 64 →
      exec (.eventRecord) s = .next ({ s with evt := { s.evt with arriving := r, waiting := s.evt.waiting ++ [e] } })) ∧
  (∀ (e : Event) (r : List Event) (s : State),
      fget s 24 0 Fl.DBG_CTL_TRACE_EN = 0 →
      s.evt.arriving = e :: r →
      fget s 24 0 Fl.EVT_LOG_ENABLE = 0 →
      64 ≤ s.evt.waiting.length →
      exec (.eventRecord) s = .next (fsat { s with evt := { s.evt with arriving := r } } 24 0 Fl.EVT_LOST_DROPPED 1)) ∧
  (∀ (s : State),
      s.evt.arriving = [] →
      exec (.eventRecord) s = .next (s)) ∧
  (∀ (w : BitVec 64) (s : State),
      windowDead s 24 = false →
      fget s 24 0 Fl.EVT_LOG_ENABLE = 0 →
      ∃ t, exec (.evtLogEnable w) s = .next t ∧
        t.evt.waiting = [] ∧ t.evt.arriving = s.evt.arriving ∧ fget t 24 0 Fl.EVT_LOG_ENABLE = 1 ∧
        fget t 24 0 Fl.EVT_LOG_BASE = fldOf Fl.EVT_LOG_BASE w ∧ fget t 24 0 Fl.EVT_PROD_COUNT = (fget s 24 0 Fl.EVT_PROD_COUNT + s.evt.waiting.length) % 2 ^ 32 ∧ t.ctxs = s.ctxs) ∧
  (∀ (w : BitVec 64) (s : State),
      windowDead s 24 = false →
      fget s 24 0 Fl.EVT_LOG_ENABLE = 1 →
      exec (.evtLogEnable w) s = .next (s))

/-- With EYEPIECE_EN 1: BYPASS selects a register of 0, IDCODE one with the word of DBG_IDCODE, SAMPLE_PRELOAD loads the boundary cells; EXTEST, CLAMP and HIGHZ are selected while the device drives SYS_RST_N, HIGHZ putting the outputs in high impedance and CLAMP not, and otherwise select BYPASS. TDO is driven by the first four and by BYPASS in place of CLAMP and HIGHZ. With EYEPIECE_EN not 1 HIGHZ leaves IDCODE selected and TDO not driven. None of these changes memory or a register. DEBUG of an aligned register of the system die that the debug level permits reads it as regRead, or writes it as regWrite; one that it does not permit shows 0 and changes no register, memory or context. At level 2 DEBUG of an aligned address of memory writes or reads it at the homes, and a halt of a running core retires its stores and leaves STATE 2. Below level 2 a write and a read of address 0x2000 and a halt of core 3 of die 16 show 0, and change no memory, register or core. Completes, under hypotheses on the state and the operands alone: BYPASS, IDCODE, SAMPLE_PRELOAD, EXTEST, CLAMP, HIGHZ, DEBUG. -/
def Obligations.TheEyepieceLoadsInstructions : Prop :=
  (∀ (s : State),
      fget s 24 0 Fl.DBG_CTL_EYEPIECE_EN = 1 →
      exec (.bypass) s = .next ({ s with jtag := ⟨irBypass, 0⟩, pins := { s.pins with tdoDriven := true, highZ := false } })) ∧
  (∀ (s : State),
      fget s 24 0 Fl.DBG_CTL_EYEPIECE_EN = 1 →
      ∃ t, exec (.idcode) s = .next t ∧
        t.jtag = ⟨irIdcode, rget s 24 .dbgIdcode 0⟩ ∧ t.pins.tdoDriven = true ∧ SameMem s t ∧ t.regs = s.regs) ∧
  (∀ (v : BitVec 64) (s : State),
      fget s 24 0 Fl.DBG_CTL_EYEPIECE_EN = 1 →
      ∃ t, exec (.samplePreload v) s = .next t ∧
        t.jtag.ir = irSample ∧ t.pins.cells = v ∧ t.pins.tdoDriven = true ∧ SameMem s t ∧ t.regs = s.regs) ∧
  (∀ (s : State),
      fget s 24 0 Fl.DBG_CTL_EYEPIECE_EN = 1 →
      s.pins.sysRstDriven = true →
      ∃ t, exec (.extest) s = .next t ∧
        t.jtag.ir = irExtest ∧ t.pins.tdoDriven = true ∧ SameMem s t ∧ t.regs = s.regs) ∧
  (∀ (s : State),
      fget s 24 0 Fl.DBG_CTL_EYEPIECE_EN = 1 →
      s.pins.sysRstDriven = true →
      ∃ t, exec (.clamp) s = .next t ∧
        t.jtag = ⟨irClamp, 0⟩ ∧ t.pins.highZ = false ∧ SameMem s t ∧ t.regs = s.regs) ∧
  (∀ (s : State),
      fget s 24 0 Fl.DBG_CTL_EYEPIECE_EN = 1 →
      s.pins.sysRstDriven = true →
      ∃ t, exec (.highz) s = .next t ∧
        t.jtag = ⟨irHighz, 0⟩ ∧ t.pins.highZ = true ∧ SameMem s t ∧ t.regs = s.regs) ∧
  (∀ (s : State),
      fget s 24 0 Fl.DBG_CTL_EYEPIECE_EN = 1 →
      s.pins.sysRstDriven = false →
      ∃ t, exec (.extest) s = .next t ∧
        t.jtag = ⟨irBypass, 0⟩ ∧ SameMem s t ∧ t.regs = s.regs) ∧
  (∀ (s : State),
      fget s 24 0 Fl.DBG_CTL_EYEPIECE_EN = 1 →
      s.pins.sysRstDriven = false →
      exec (.clamp) s = .next ({ s with jtag := ⟨irBypass, 0⟩, pins := { s.pins with tdoDriven := true, highZ := false } })) ∧
  (∀ (s : State),
      fget s 24 0 Fl.DBG_CTL_EYEPIECE_EN = 1 →
      s.pins.sysRstDriven = false →
      exec (.highz) s = .next ({ s with jtag := ⟨irBypass, 0⟩, pins := { s.pins with tdoDriven := true, highZ := false } })) ∧
  (∀ (s : State),
      fget s 24 0 Fl.DBG_CTL_EYEPIECE_EN ≠ 1 →
      ∃ t, exec (.highz) s = .next t ∧
        t.jtag.ir = irIdcode ∧ t.pins.tdoDriven = false ∧ t.pins.highZ = s.pins.highZ ∧ SameMem s t ∧ t.regs = s.regs) ∧
  (∀ (a i : Nat) (r : Reg) (v : BitVec 64) (s : State),
      fget s 24 0 Fl.DBG_CTL_EYEPIECE_EN = 1 →
      a % 8 = 0 →
      a < 0x400_0000 →
      regAt 24 (a / 0x10_0000 % 64) (a % 0x10_0000) = some (r, i) →
      dbgAllowed s (some (r, i)) false = true →
      ∃ t, exec (.debug (.reg a) false v) s = .next t ∧
        t.jtag = ⟨irDebug, (regRead s 24 r i).1⟩ ∧ t.regs = (regRead s 24 r i).2.regs ∧ SameMem (regRead s 24 r i).2 t) ∧
  (∀ (a i : Nat) (r : Reg) (v : BitVec 64) (s : State),
      fget s 24 0 Fl.DBG_CTL_EYEPIECE_EN = 1 →
      a % 8 = 0 →
      a < 0x400_0000 →
      regAt 24 (a / 0x10_0000 % 64) (a % 0x10_0000) = some (r, i) →
      dbgAllowed s (some (r, i)) true = true →
      ∃ t, exec (.debug (.reg a) true v) s = .next t ∧
        t.regs = (regWrite s 24 r i v).regs ∧ SameMem (regWrite s 24 r i v) t ∧ t.ctxs = (regWrite s 24 r i v).ctxs) ∧
  (∀ (a : Nat) (b : Bool) (v : BitVec 64) (s : State),
      fget s 24 0 Fl.DBG_CTL_EYEPIECE_EN = 1 →
      dbgAllowed s (regAt 24 (a / 0x10_0000 % 64) (a % 0x10_0000)) b = false →
      ∃ t, exec (.debug (.reg a) b v) s = .next t ∧
        t.jtag = ⟨irDebug, 0⟩ ∧ SameMem s t ∧ t.regs = s.regs ∧ t.ctxs = s.ctxs) ∧
  (∀ (a : Nat) (v : BitVec 64) (s : State),
      fget s 24 0 Fl.DBG_CTL_EYEPIECE_EN = 1 →
      a % 8 = 0 →
      2 ≤ dbgLevel s →
      isDevice s a = false →
      paKind s a ≠ .hole →
      exec (.debug (.mem a) true v) s = .next (tap (ncWrite s a (leBytes 8 v.toNat)).2 irDebug v false)) ∧
  (∀ (a : Nat) (v : BitVec 64) (s : State),
      fget s 24 0 Fl.DBG_CTL_EYEPIECE_EN = 1 →
      a % 8 = 0 →
      2 ≤ dbgLevel s →
      isDevice s a = false →
      paKind s a ≠ .hole →
      exec (.debug (.mem a) false v) s = .next (tap (ncRead s a 8).2 irDebug (BitVec.ofNat 64 (leNat (ncRead s a 8).1)) false)) ∧
  (∀ (d c : Nat) (b : Bool) (v : BitVec 64) (s : State),
      fget s 24 0 Fl.DBG_CTL_EYEPIECE_EN = 1 →
      2 ≤ dbgLevel s →
      coreRuns s d c = true →
      exec (.debug (.core d c) b v) s = .next (tap (fput (retireStores s d c) d c Fl.CORE_STATE_STATE 2) irDebug 1 false)) ∧
  (∀ (o : DebugTarget) (b : Bool) (v : BitVec 64) (s : State),
      fget s 24 0 Fl.DBG_CTL_EYEPIECE_EN = 1 →
      dbgLevel s < 2 →
      o ∈ [.mem 0x2000, .core 16 3] →
      ∃ t, exec (.debug o b v) s = .next t ∧
        t.jtag = ⟨irDebug, 0⟩ ∧ SameMem s t ∧ t.regs = s.regs ∧ t.cores = s.cores)

/-- From every state whose memory, near store and operand stores are in canonical form (addresses rising, no cell that an unlisted address reads as), a step that answers a next state leaves all three in canonical form. The form is the model's own (log 9 says what an unlisted address reads as); with it, equal memories are equal data. -/
def Obligations.MemoryStaysCanonical : Prop :=
  ∀ s t : State, MemWf s → step s = .next t → MemWf t

/-- A step that answers a next state leaves exactly the rest of the queue behind its front command, in its order, and an empty queue empty. The queue is the model's own (log 7). -/
def Obligations.QueueIsServedInOrder : Prop :=
  ∀ (s t : State), step s = .next t → t.pending = s.pending.tail

/-- After power-on reset no command waits, the memories are in canonical form, everything that Emptied names is empty, a power-on reset is in progress, PWR_GOOD is low, and every register field whose reset entry is a literal reads that literal on every die and instance. -/
def Obligations.ResetIsEmptyAndCanonical : Prop :=
  (State.reset.pending = [] ∧ MemWf State.reset ∧ Emptied State.reset ∧ State.reset.rst.kind = .powerOn ∧ State.reset.pins.pwrGood = false) ∧
  (∀ (d i : Nat) (r : Reg) (f : Fld) (n : Nat), d < 25 → i < 256 → f ∈ r.fields → f.rst = .lit n → fget State.reset d i f = n)
end

