-- ==== Sys2Proof/Laws/Maps.lean ====
section
/-! SUPPORT. Sparse maps and memories: reading after writing, and that every memory operation keeps the canonical form. -/

namespace Sys2Proof.Laws

open Sys2Proof.Machine

variable {α : Type}

/-- A key that was set is found. -/
theorem smGet_smPut_same (m : SMap α) (a : Nat) (v : α) : smGet (smPut m a v) a = some v := by
  induction m with
  | nil => simp [smPut, smGet]
  | cons p r ih =>
    obtain ⟨k, w⟩ := p
    simp only [smPut]
    split
    · simp [smGet]
    · split
      · simp [smGet]
      · rename_i h1 h2; simp [smGet, h1, h2, ih]

/-- Setting a key leaves every other key alone. -/
theorem smGet_smPut_ne (m : SMap α) (a b : Nat) (v : α) (h : b ≠ a) : smGet (smPut m a v) b = smGet m b := by
  induction m with
  | nil => simp [smPut, smGet, Ne.symm h]
  | cons p r ih =>
    obtain ⟨k, w⟩ := p
    simp only [smPut]
    split
    · rename_i h1; subst h1; simp [smGet, Ne.symm h]
    · split
      · rename_i h1 h2
        simp only [smGet, Ne.symm h, if_false]
        split
        · rename_i h3; rw [if_neg (by omega), if_pos (by omega)]
        · rfl
      · simp only [smGet]; split
        · rfl
        · split
          · rfl
          · exact ih

/-- Reading after writing a sparse map. -/
@[simp] theorem smGet_smPut (m : SMap α) (a b : Nat) (v : α) :
    smGet (smPut m a v) b = if b = a then some v else smGet m b := by
  split
  · rename_i h; subst h; exact smGet_smPut_same m b v
  · rename_i h; exact smGet_smPut_ne m a b v h

@[simp] theorem smGetD_smPut (m : SMap α) (d : α) (a b : Nat) (v : α) :
    smGetD (smPut m a v) d b = if b = a then v else smGetD m d b := by
  simp only [smGetD, smGet_smPut]; split <;> rfl

/-- The smallest key of a rising map bounds every other. -/
theorem smSorted_cons (a : Nat) (v : α) (r : SMap α) :
    smSorted ((a, v) :: r) = true ↔ (∀ p ∈ r, a < p.1) ∧ smSorted r = true := by
  induction r generalizing a v with
  | nil => simp [smSorted]
  | cons p r ih =>
    obtain ⟨b, w⟩ := p
    simp only [smSorted, Bool.and_eq_true, decide_eq_true_eq]
    rw [ih]
    constructor
    · rintro ⟨h, h1, h2⟩
      refine ⟨fun p hp => ?_, h1, h2⟩
      rcases List.mem_cons.1 hp with rfl | hp
      · exact h
      · exact lt_trans h (h1 p hp)
    · rintro ⟨h, h1, h2⟩
      exact ⟨h (b, w) (by simp), h1, h2⟩

theorem smGet_none_of_lt (m : SMap α) (a : Nat) (h : ∀ p ∈ m, a < p.1) : smGet m a = none := by
  cases m with
  | nil => rfl
  | cons p r =>
    obtain ⟨k, w⟩ := p
    have := h (k, w) (by simp)
    simp only [smGet]; rw [if_neg (by simp at this; omega), if_pos (by simpa using this)]

/-- The entries of a map after setting a key. -/
theorem mem_smPut {m : SMap α} {a : Nat} {v : α} {p : Nat × α} (h : p ∈ smPut m a v) : p = (a, v) ∨ p ∈ m := by
  induction m with
  | nil => simpa [smPut] using h
  | cons q r ih =>
    obtain ⟨k, w⟩ := q
    simp only [smPut] at h
    split at h
    · rcases List.mem_cons.1 h with h | h
      · exact .inl h
      · exact .inr (by simp [h])
    · split at h
      · rcases List.mem_cons.1 h with h | h
        · exact .inl h
        · exact .inr h
      · rcases List.mem_cons.1 h with h | h
        · exact .inr (by simp [h])
        · rcases ih h with h | h
          · exact .inl h
          · exact .inr (by simp [h])

theorem mem_smDel {m : SMap α} {a : Nat} {p : Nat × α} (h : p ∈ smDel m a) : p ∈ m := by
  induction m with
  | nil => simp [smDel] at h
  | cons q r ih =>
    obtain ⟨k, w⟩ := q
    simp only [smDel] at h
    split at h
    · simp [h]
    · split at h
      · exact h
      · rcases List.mem_cons.1 h with h | h
        · simp [h]
        · simp [ih h]

/-- Setting a key keeps the keys rising. -/
theorem smSorted_smPut (m : SMap α) (a : Nat) (v : α) (h : smSorted m = true) : smSorted (smPut m a v) = true := by
  induction m with
  | nil => rfl
  | cons p r ih =>
    obtain ⟨k, w⟩ := p
    have h' := (smSorted_cons k w r).1 h
    simp only [smPut]
    split
    · rename_i e; subst e; exact (smSorted_cons k v r).2 h'
    · split
      · rename_i h1 h2
        refine (smSorted_cons a v _).2 ⟨fun p hp => ?_, h⟩
        rcases List.mem_cons.1 hp with rfl | hp
        · exact h2
        · exact lt_trans h2 (h'.1 p hp)
      · rename_i h1 h2
        refine (smSorted_cons k w _).2 ⟨fun p hp => ?_, ih h'.2⟩
        rcases mem_smPut hp with rfl | hp
        · show k < a; omega
        · exact h'.1 p hp

/-- Removing a key keeps the keys rising. -/
theorem smSorted_smDel (m : SMap α) (a : Nat) (h : smSorted m = true) : smSorted (smDel m a) = true := by
  induction m with
  | nil => rfl
  | cons p r ih =>
    obtain ⟨k, w⟩ := p
    have h' := (smSorted_cons k w r).1 h
    simp only [smDel]
    split
    · exact h'.2
    · split
      · exact h
      · exact (smSorted_cons k w _).2 ⟨fun p hp => h'.1 p (mem_smDel hp), ih h'.2⟩

/-- Dropping entries keeps the keys rising. -/
theorem smSorted_filter (m : SMap α) (f : Nat × α → Bool) (h : smSorted m = true) : smSorted (m.filter f) = true := by
  induction m with
  | nil => rfl
  | cons p r ih =>
    obtain ⟨k, w⟩ := p
    have h' := (smSorted_cons k w r).1 h
    simp only [List.filter]
    split
    · exact (smSorted_cons k w _).2 ⟨fun p hp => h'.1 p (List.mem_of_mem_filter hp), ih h'.2⟩
    · exact ih h'.2

/-- A removed key of a rising map is not found, and every other key is as before. -/
theorem smGet_smDel (m : SMap α) (a b : Nat) (h : smSorted m = true) :
    smGet (smDel m a) b = if b = a then none else smGet m b := by
  induction m with
  | nil => simp [smDel, smGet]
  | cons p r ih =>
    obtain ⟨k, w⟩ := p
    have h' := (smSorted_cons k w r).1 h
    simp only [smDel]
    split
    · rename_i e; subst e
      split
      · rename_i e; subst e; exact smGet_none_of_lt r b h'.1
      · rename_i e
        simp only [smGet, Ne.symm e, if_false]
        split
        · rename_i lt; exact smGet_none_of_lt r b fun p hp => lt_trans lt (h'.1 p hp)
        · rfl
    · split
      · rename_i h1 h2
        split
        · rename_i e; subst e; simp only [smGet]; rw [if_neg h1, if_pos h2]
        · rfl
      · rename_i h1 h2
        simp only [smGet, ih h'.2]
        split
        · rename_i e; subst e; rw [if_neg h1]
        · split
          · split <;> rfl
          · rfl

/-! ### Memories -/

/-- The canonical form in two parts. -/
theorem wf_iff (m : Memory) : Memory.wf m = true ↔ smSorted m = true ∧ ∀ c ∈ m, c.2 ≠ 0 := by
  simp [Memory.wf]

@[simp] theorem wf_nil : Memory.wf [] = true := rfl

/-- Writing a byte keeps the canonical form. -/
theorem wf_memWrite (m : Memory) (a : Nat) (b : Byte) (h : Memory.wf m = true) : Memory.wf (memWrite m a b) = true := by
  obtain ⟨h1, h2⟩ := (wf_iff m).1 h
  unfold memWrite
  split
  · exact (wf_iff _).2 ⟨smSorted_smDel m a h1, fun c hc => h2 c (mem_smDel hc)⟩
  · rename_i hb
    refine (wf_iff _).2 ⟨smSorted_smPut m a b h1, fun c hc => ?_⟩
    rcases mem_smPut hc with rfl | hc
    · exact hb
    · exact h2 c hc

/-- Writing bytes keeps the canonical form. -/
theorem wf_memWriteN (bs : List Byte) (m : Memory) (a : Nat) (h : Memory.wf m = true) :
    Memory.wf (memWriteN m a bs) = true := by
  induction bs generalizing m a with
  | nil => exact h
  | cons b r ih => exact ih _ _ (wf_memWrite m a b h)

/-- Dropping cells keeps the canonical form. -/
theorem wf_filter (m : Memory) (f : Host.Cell → Bool) (h : Memory.wf m = true) : Memory.wf (m.filter f) = true := by
  obtain ⟨h1, h2⟩ := (wf_iff m).1 h
  exact (wf_iff _).2 ⟨smSorted_filter m f h1, fun c hc => h2 c (List.mem_of_mem_filter hc)⟩

/-- Clearing a range keeps the canonical form. -/
theorem wf_memClear (m : Memory) (lo hi : Nat) (h : Memory.wf m = true) : Memory.wf (memClear m lo hi) = true :=
  wf_filter m _ h

/-- Reading after writing a byte. -/
theorem memRead_memWrite (m : Memory) (a x : Nat) (b : Byte) (h : Memory.wf m = true) :
    memRead (memWrite m a b) x = if x = a then b else memRead m x := by
  have h1 := ((wf_iff m).1 h).1
  unfold memRead memWrite smGetD
  split
  · rename_i hb; subst hb; rw [smGet_smDel m a x h1]; split <;> rfl
  · rw [smGet_smPut]; split <;> rfl

/-- Reading after writing bytes: an address outside them reads as before. -/
theorem memRead_memWriteN_out (bs : List Byte) (m : Memory) (a x : Nat) (h : Memory.wf m = true)
    (hx : x < a ∨ a + bs.length ≤ x) : memRead (memWriteN m a bs) x = memRead m x := by
  induction bs generalizing m a with
  | nil => rfl
  | cons b r ih =>
    simp only [List.length_cons] at hx
    rw [memWriteN, ih _ _ (wf_memWrite m a b h) (by omega), memRead_memWrite m a x b h, if_neg (by omega)]

/-- Reading after writing bytes: an address among them reads its byte. -/
theorem memRead_memWriteN_in (bs : List Byte) (m : Memory) (a i : Nat) (h : Memory.wf m = true) (hi : i < bs.length) :
    memRead (memWriteN m a bs) (a + i) = bs[i] := by
  induction bs generalizing m a i with
  | nil => simp at hi
  | cons b r ih =>
    cases i with
    | zero =>
      rw [memWriteN, memRead_memWriteN_out _ _ _ _ (wf_memWrite m a b h) (by omega), memRead_memWrite m a _ b h]
      simp
    | succ i =>
      rw [memWriteN, show a + (i + 1) = a + 1 + i by omega, ih _ _ _ (wf_memWrite m a b h) (by simpa using hi)]
      simp

@[simp] theorem length_memReadN (m : Memory) (a n : Nat) : (memReadN m a n).length = n := by simp [memReadN]

@[simp] theorem length_leBytes (n v : Nat) : (leBytes n v).length = n := by
  induction n generalizing v with
  | zero => rfl
  | succ n ih => simp [leBytes, ih]

/-- The bytes of a number, read back. -/
theorem leNat_leBytes (n v : Nat) : leNat (leBytes n v) = v % 256 ^ n := by
  induction n generalizing v with
  | zero => simp [leBytes, leNat, Nat.mod_one]
  | succ n ih =>
    simp only [leBytes, leNat, ih, BitVec.toNat_ofNat]
    rw [pow_succ' 256 n, Nat.mod_mul]

end Sys2Proof.Laws
end

