-- ==== Sys2Proof/Laws/Registers.lean ====
section
/-! SUPPORT. Registers and their fields: reading after writing. -/

namespace Sys2Proof.Laws

open Sys2Proof.Machine

/-- A register reads what was last put into it; a register at another place is unchanged. -/
theorem rget_rput (s : State) (d e i j : Nat) (r q : Reg) (w : BitVec 64) :
    rget (rput s d r i w) e q j = if regKey e q j = regKey d r i then w else rget s e q j := by
  by_cases h : regKey e q j = regKey d r i <;> simp [rget, rput, resetWord, h]

@[simp] theorem rget_rput_same (s : State) (d i : Nat) (r : Reg) (w : BitVec 64) : rget (rput s d r i w) d r i = w := by
  simp [rget_rput]

/-- The bits of a field. -/
theorem testBit_bits (v hi lo i : Nat) : (bits v hi lo).testBit i = (decide (i < hi - lo + 1) && v.testBit (lo + i)) := by
  simp [bits, Nat.testBit_mod_two_pow, Nat.testBit_shiftRight]

theorem bits_lt (v hi lo : Nat) : bits v hi lo < 2 ^ (hi - lo + 1) := Nat.mod_lt _ (by positivity)

theorem fldOf_lt (f : Fld) (w : BitVec 64) : fldOf f w < 2 ^ (f.hi - f.lo + 1) := bits_lt _ _ _

/-- The bits of a word with one field replaced. -/
theorem getLsbD_fldSet (f : Fld) (w : BitVec 64) (v i : Nat) (hf : f.lo ≤ f.hi) (hi : i < 64) :
    (fldSet f w v).getLsbD i = if f.lo ≤ i ∧ i ≤ f.hi then v.testBit (i - f.lo) else w.getLsbD i := by
  simp only [fldSet, BitVec.getLsbD_or, BitVec.getLsbD_and, BitVec.getLsbD_not, BitVec.getLsbD_ofNat, hi, decide_true,
    Bool.true_and, Nat.testBit_mul_two_pow, Nat.testBit_two_pow_sub_one, Nat.testBit_mod_two_pow]
  by_cases h1 : f.lo ≤ i <;> by_cases h2 : i ≤ f.hi
  · have h3 : i - f.lo < f.hi - f.lo + 1 := by omega
    simp [h1, h2, h3]
  · have h3 : ¬ i - f.lo < f.hi - f.lo + 1 := by omega
    simp [h1, h2, h3]
  · simp [h1]
  · simp [h1]

/-- A field that was set reads what was set. -/
theorem fldOf_fldSet (f : Fld) (w : BitVec 64) (v : Nat) (hf : f.lo ≤ f.hi) (h64 : f.hi < 64) :
    fldOf f (fldSet f w v) = v % 2 ^ (f.hi - f.lo + 1) := by
  apply Nat.eq_of_testBit_eq
  intro i
  rw [fldOf, testBit_bits, Nat.testBit_mod_two_pow]
  by_cases h : i < f.hi - f.lo + 1
  · have := getLsbD_fldSet f w v (f.lo + i) hf (by omega)
    rw [if_pos (by omega)] at this
    simp only [h, decide_true, Bool.true_and, BitVec.testBit_toNat]
    rw [this]; congr 1; omega
  · simp [h]

/-- A field apart from the one that was set reads as before. -/
theorem fldOf_fldSet_apart (f g : Fld) (w : BitVec 64) (v : Nat) (hf : f.lo ≤ f.hi) (hg : g.lo ≤ g.hi) (h64 : g.hi < 64)
    (h : g.hi < f.lo ∨ f.hi < g.lo) : fldOf g (fldSet f w v) = fldOf g w := by
  apply Nat.eq_of_testBit_eq
  intro i
  simp only [fldOf, testBit_bits]
  by_cases hi : i < g.hi - g.lo + 1
  · have := getLsbD_fldSet f w v (g.lo + i) hf (by omega)
    rw [if_neg (by omega)] at this
    simp only [hi, decide_true, Bool.true_and, BitVec.testBit_toNat]
    exact this
  · simp [hi]

/-- A register field that was set reads what was set. -/
theorem fget_fput (s : State) (d i : Nat) (f : Fld) (v : Nat) (hf : f.lo ≤ f.hi) (h64 : f.hi < 64) :
    fget (fput s d i f v) d i f = v % 2 ^ (f.hi - f.lo + 1) := by
  simp [fget, fput, fldOf_fldSet f _ v hf h64]

/-- A field of the same register, apart from the one that was set, reads as before. -/
theorem fget_fput_apart (s : State) (d i : Nat) (f g : Fld) (v : Nat) (hr : g.reg = f.reg) (hf : f.lo ≤ f.hi)
    (hg : g.lo ≤ g.hi) (h64 : g.hi < 64) (h : g.hi < f.lo ∨ f.hi < g.lo) :
    fget (fput s d i f v) d i g = fget s d i g := by
  simp [fget, fput, hr, fldOf_fldSet_apart f g _ v hf hg h64 h]

/-- A field of a register at another place reads as before. -/
theorem fget_fput_ne (s : State) (d e i j : Nat) (f g : Fld) (v : Nat) (h : regKey e g.reg j ≠ regKey d f.reg i) :
    fget (fput s d i f v) e j g = fget s e j g := by
  simp [fget, fput, rget_rput, h]

/-- Every field of the register map has its bounds in order and within the word. -/
theorem fields_ok (r : Reg) : ∀ f ∈ r.fields, f.lo ≤ f.hi ∧ f.hi < 64 := by
  cases r <;> decide

/-- No two fields of a register overlap. -/
theorem fields_apart (r : Reg) : r.fields.Pairwise fun f g => g.hi < f.lo ∨ f.hi < g.lo := by
  cases r <;> decide

/-! ### The tables of records -/

@[simp] theorem getCore_putCore (s : State) (d c : Nat) (x : Core) : getCore (putCore s d c x) d c = x := by
  simp [getCore, putCore]

@[simp] theorem getCtx_putCtx (s : State) (c : Nat) (x : Ctx) : getCtx (putCtx s c x) c = x := by
  simp [getCtx, putCtx]

theorem getCtx_putCtx_ne (s : State) (c e : Nat) (x : Ctx) (h : e ≠ c) : getCtx (putCtx s c x) e = getCtx s e := by
  simp [getCtx, putCtx, h]

@[simp] theorem getEng_putEng (s : State) (d e : Nat) (x : Engine) : getEng (putEng s d e x) d e = x := by
  simp [getEng, putEng]

@[simp] theorem getHome_putHome (s : State) (h : Nat) (x : Home) : getHome (putHome s h x) h = x := by
  simp [getHome, putHome]

/-- Cores of a die have keys of their own. -/
theorem coreKey_inj (d e c b : Nat) (hc : c < 128) (hb : b < 128) : coreKey d c = coreKey e b ↔ d = e ∧ c = b := by
  unfold coreKey; omega

/-- Engines of a die have keys of their own. -/
theorem engKey_inj (d e c b : Nat) (hc : c < 34) (hb : b < 34) : engKey d c = engKey e b ↔ d = e ∧ c = b := by
  unfold engKey; omega

end Sys2Proof.Laws
end

