-- ==== Sys2Proof/Laws/State.lean ====
section
/-! SUPPORT. One lemma for each field of State and each update that leaves it alone, so that no later proof unfolds a
record update. -/

namespace Sys2Proof.Laws

open Sys2Proof.Machine

section
variable (s : State) (d i : Nat) (r : Reg) (w : BitVec 64)
@[simp] theorem rput_pending : (rput s d r i w).pending = s.pending := rfl
@[simp] theorem rput_time : (rput s d r i w).time = s.time := rfl
@[simp] theorem rput_fresh : (rput s d r i w).fresh = s.fresh := rfl
@[simp] theorem rput_fuses : (rput s d r i w).fuses = s.fuses := rfl
@[simp] theorem rput_rowFuses : (rput s d r i w).rowFuses = s.rowFuses := rfl
@[simp] theorem rput_rowMap : (rput s d r i w).rowMap = s.rowMap := rfl
@[simp] theorem rput_mem : (rput s d r i w).mem = s.mem := rfl
@[simp] theorem rput_near : (rput s d r i w).near = s.near := rfl
@[simp] theorem rput_ostore : (rput s d r i w).ostore = s.ostore := rfl
@[simp] theorem rput_poison : (rput s d r i w).poison = s.poison := rfl
@[simp] theorem rput_flaws : (rput s d r i w).flaws = s.flaws := rfl
@[simp] theorem rput_failedPcs : (rput s d r i w).failedPcs = s.failedPcs := rfl
@[simp] theorem rput_ceLog : (rput s d r i w).ceLog = s.ceLog := rfl
@[simp] theorem rput_scrubFrom : (rput s d r i w).scrubFrom = s.scrubFrom := rfl
@[simp] theorem rput_recals : (rput s d r i w).recals = s.recals := rfl
@[simp] theorem rput_cores : (rput s d r i w).cores = s.cores := rfl
@[simp] theorem rput_vecs : (rput s d r i w).vecs = s.vecs := rfl
@[simp] theorem rput_irqOut : (rput s d r i w).irqOut = s.irqOut := rfl
@[simp] theorem rput_engines : (rput s d r i w).engines = s.engines := rfl
@[simp] theorem rput_rdc : (rput s d r i w).rdc = s.rdc := rfl
@[simp] theorem rput_tok : (rput s d r i w).tok = s.tok := rfl
@[simp] theorem rput_launches : (rput s d r i w).launches = s.launches := rfl
@[simp] theorem rput_ctxs : (rput s d r i w).ctxs = s.ctxs := rfl
@[simp] theorem rput_rrNext : (rput s d r i w).rrNext = s.rrNext := rfl
@[simp] theorem rput_mediaQ : (rput s d r i w).mediaQ = s.mediaQ := rfl
@[simp] theorem rput_regions : (rput s d r i w).regions = s.regions := rfl
@[simp] theorem rput_xlat : (rput s d r i w).xlat = s.xlat := rfl
@[simp] theorem rput_coh : (rput s d r i w).coh = s.coh := rfl
@[simp] theorem rput_links : (rput s d r i w).links = s.links := rfl
@[simp] theorem rput_parcels : (rput s d r i w).parcels = s.parcels := rfl
@[simp] theorem rput_net : (rput s d r i w).net = s.net := rfl
@[simp] theorem rput_power : (rput s d r i w).power = s.power := rfl
@[simp] theorem rput_persist : (rput s d r i w).persist = s.persist := rfl
@[simp] theorem rput_rst : (rput s d r i w).rst = s.rst := rfl
@[simp] theorem rput_pins : (rput s d r i w).pins = s.pins := rfl
@[simp] theorem rput_uart0 : (rput s d r i w).uart0 = s.uart0 := rfl
@[simp] theorem rput_sec : (rput s d r i w).sec = s.sec := rfl
@[simp] theorem rput_evt : (rput s d r i w).evt = s.evt := rfl
@[simp] theorem rput_jtag : (rput s d r i w).jtag = s.jtag := rfl
@[simp] theorem rput_ddr : (rput s d r i w).ddr = s.ddr := rfl
end

section
variable (s : State) (d i : Nat) (f : Fld) (v : Nat)
@[simp] theorem fput_pending : (fput s d i f v).pending = s.pending := rfl
@[simp] theorem fput_time : (fput s d i f v).time = s.time := rfl
@[simp] theorem fput_fresh : (fput s d i f v).fresh = s.fresh := rfl
@[simp] theorem fput_fuses : (fput s d i f v).fuses = s.fuses := rfl
@[simp] theorem fput_rowFuses : (fput s d i f v).rowFuses = s.rowFuses := rfl
@[simp] theorem fput_rowMap : (fput s d i f v).rowMap = s.rowMap := rfl
@[simp] theorem fput_mem : (fput s d i f v).mem = s.mem := rfl
@[simp] theorem fput_near : (fput s d i f v).near = s.near := rfl
@[simp] theorem fput_ostore : (fput s d i f v).ostore = s.ostore := rfl
@[simp] theorem fput_poison : (fput s d i f v).poison = s.poison := rfl
@[simp] theorem fput_flaws : (fput s d i f v).flaws = s.flaws := rfl
@[simp] theorem fput_failedPcs : (fput s d i f v).failedPcs = s.failedPcs := rfl
@[simp] theorem fput_ceLog : (fput s d i f v).ceLog = s.ceLog := rfl
@[simp] theorem fput_scrubFrom : (fput s d i f v).scrubFrom = s.scrubFrom := rfl
@[simp] theorem fput_recals : (fput s d i f v).recals = s.recals := rfl
@[simp] theorem fput_cores : (fput s d i f v).cores = s.cores := rfl
@[simp] theorem fput_vecs : (fput s d i f v).vecs = s.vecs := rfl
@[simp] theorem fput_irqOut : (fput s d i f v).irqOut = s.irqOut := rfl
@[simp] theorem fput_engines : (fput s d i f v).engines = s.engines := rfl
@[simp] theorem fput_rdc : (fput s d i f v).rdc = s.rdc := rfl
@[simp] theorem fput_tok : (fput s d i f v).tok = s.tok := rfl
@[simp] theorem fput_launches : (fput s d i f v).launches = s.launches := rfl
@[simp] theorem fput_ctxs : (fput s d i f v).ctxs = s.ctxs := rfl
@[simp] theorem fput_rrNext : (fput s d i f v).rrNext = s.rrNext := rfl
@[simp] theorem fput_mediaQ : (fput s d i f v).mediaQ = s.mediaQ := rfl
@[simp] theorem fput_regions : (fput s d i f v).regions = s.regions := rfl
@[simp] theorem fput_xlat : (fput s d i f v).xlat = s.xlat := rfl
@[simp] theorem fput_coh : (fput s d i f v).coh = s.coh := rfl
@[simp] theorem fput_links : (fput s d i f v).links = s.links := rfl
@[simp] theorem fput_parcels : (fput s d i f v).parcels = s.parcels := rfl
@[simp] theorem fput_net : (fput s d i f v).net = s.net := rfl
@[simp] theorem fput_power : (fput s d i f v).power = s.power := rfl
@[simp] theorem fput_persist : (fput s d i f v).persist = s.persist := rfl
@[simp] theorem fput_rst : (fput s d i f v).rst = s.rst := rfl
@[simp] theorem fput_pins : (fput s d i f v).pins = s.pins := rfl
@[simp] theorem fput_uart0 : (fput s d i f v).uart0 = s.uart0 := rfl
@[simp] theorem fput_sec : (fput s d i f v).sec = s.sec := rfl
@[simp] theorem fput_evt : (fput s d i f v).evt = s.evt := rfl
@[simp] theorem fput_jtag : (fput s d i f v).jtag = s.jtag := rfl
@[simp] theorem fput_ddr : (fput s d i f v).ddr = s.ddr := rfl
end

section
variable (s : State) (d i : Nat) (f : Fld) (v : Nat)
@[simp] theorem fsat_pending : (fsat s d i f v).pending = s.pending := rfl
@[simp] theorem fsat_time : (fsat s d i f v).time = s.time := rfl
@[simp] theorem fsat_fresh : (fsat s d i f v).fresh = s.fresh := rfl
@[simp] theorem fsat_fuses : (fsat s d i f v).fuses = s.fuses := rfl
@[simp] theorem fsat_rowFuses : (fsat s d i f v).rowFuses = s.rowFuses := rfl
@[simp] theorem fsat_rowMap : (fsat s d i f v).rowMap = s.rowMap := rfl
@[simp] theorem fsat_mem : (fsat s d i f v).mem = s.mem := rfl
@[simp] theorem fsat_near : (fsat s d i f v).near = s.near := rfl
@[simp] theorem fsat_ostore : (fsat s d i f v).ostore = s.ostore := rfl
@[simp] theorem fsat_poison : (fsat s d i f v).poison = s.poison := rfl
@[simp] theorem fsat_flaws : (fsat s d i f v).flaws = s.flaws := rfl
@[simp] theorem fsat_failedPcs : (fsat s d i f v).failedPcs = s.failedPcs := rfl
@[simp] theorem fsat_ceLog : (fsat s d i f v).ceLog = s.ceLog := rfl
@[simp] theorem fsat_scrubFrom : (fsat s d i f v).scrubFrom = s.scrubFrom := rfl
@[simp] theorem fsat_recals : (fsat s d i f v).recals = s.recals := rfl
@[simp] theorem fsat_cores : (fsat s d i f v).cores = s.cores := rfl
@[simp] theorem fsat_vecs : (fsat s d i f v).vecs = s.vecs := rfl
@[simp] theorem fsat_irqOut : (fsat s d i f v).irqOut = s.irqOut := rfl
@[simp] theorem fsat_engines : (fsat s d i f v).engines = s.engines := rfl
@[simp] theorem fsat_rdc : (fsat s d i f v).rdc = s.rdc := rfl
@[simp] theorem fsat_tok : (fsat s d i f v).tok = s.tok := rfl
@[simp] theorem fsat_launches : (fsat s d i f v).launches = s.launches := rfl
@[simp] theorem fsat_ctxs : (fsat s d i f v).ctxs = s.ctxs := rfl
@[simp] theorem fsat_rrNext : (fsat s d i f v).rrNext = s.rrNext := rfl
@[simp] theorem fsat_mediaQ : (fsat s d i f v).mediaQ = s.mediaQ := rfl
@[simp] theorem fsat_regions : (fsat s d i f v).regions = s.regions := rfl
@[simp] theorem fsat_xlat : (fsat s d i f v).xlat = s.xlat := rfl
@[simp] theorem fsat_coh : (fsat s d i f v).coh = s.coh := rfl
@[simp] theorem fsat_links : (fsat s d i f v).links = s.links := rfl
@[simp] theorem fsat_parcels : (fsat s d i f v).parcels = s.parcels := rfl
@[simp] theorem fsat_net : (fsat s d i f v).net = s.net := rfl
@[simp] theorem fsat_power : (fsat s d i f v).power = s.power := rfl
@[simp] theorem fsat_persist : (fsat s d i f v).persist = s.persist := rfl
@[simp] theorem fsat_rst : (fsat s d i f v).rst = s.rst := rfl
@[simp] theorem fsat_pins : (fsat s d i f v).pins = s.pins := rfl
@[simp] theorem fsat_uart0 : (fsat s d i f v).uart0 = s.uart0 := rfl
@[simp] theorem fsat_sec : (fsat s d i f v).sec = s.sec := rfl
@[simp] theorem fsat_evt : (fsat s d i f v).evt = s.evt := rfl
@[simp] theorem fsat_jtag : (fsat s d i f v).jtag = s.jtag := rfl
@[simp] theorem fsat_ddr : (fsat s d i f v).ddr = s.ddr := rfl
end

section
variable (s : State) (d i : Nat) (f : Fld) (v : Nat)
@[simp] theorem fwrap_pending : (fwrap s d i f v).pending = s.pending := rfl
@[simp] theorem fwrap_time : (fwrap s d i f v).time = s.time := rfl
@[simp] theorem fwrap_fresh : (fwrap s d i f v).fresh = s.fresh := rfl
@[simp] theorem fwrap_fuses : (fwrap s d i f v).fuses = s.fuses := rfl
@[simp] theorem fwrap_rowFuses : (fwrap s d i f v).rowFuses = s.rowFuses := rfl
@[simp] theorem fwrap_rowMap : (fwrap s d i f v).rowMap = s.rowMap := rfl
@[simp] theorem fwrap_mem : (fwrap s d i f v).mem = s.mem := rfl
@[simp] theorem fwrap_near : (fwrap s d i f v).near = s.near := rfl
@[simp] theorem fwrap_ostore : (fwrap s d i f v).ostore = s.ostore := rfl
@[simp] theorem fwrap_poison : (fwrap s d i f v).poison = s.poison := rfl
@[simp] theorem fwrap_flaws : (fwrap s d i f v).flaws = s.flaws := rfl
@[simp] theorem fwrap_failedPcs : (fwrap s d i f v).failedPcs = s.failedPcs := rfl
@[simp] theorem fwrap_ceLog : (fwrap s d i f v).ceLog = s.ceLog := rfl
@[simp] theorem fwrap_scrubFrom : (fwrap s d i f v).scrubFrom = s.scrubFrom := rfl
@[simp] theorem fwrap_recals : (fwrap s d i f v).recals = s.recals := rfl
@[simp] theorem fwrap_cores : (fwrap s d i f v).cores = s.cores := rfl
@[simp] theorem fwrap_vecs : (fwrap s d i f v).vecs = s.vecs := rfl
@[simp] theorem fwrap_irqOut : (fwrap s d i f v).irqOut = s.irqOut := rfl
@[simp] theorem fwrap_engines : (fwrap s d i f v).engines = s.engines := rfl
@[simp] theorem fwrap_rdc : (fwrap s d i f v).rdc = s.rdc := rfl
@[simp] theorem fwrap_tok : (fwrap s d i f v).tok = s.tok := rfl
@[simp] theorem fwrap_launches : (fwrap s d i f v).launches = s.launches := rfl
@[simp] theorem fwrap_ctxs : (fwrap s d i f v).ctxs = s.ctxs := rfl
@[simp] theorem fwrap_rrNext : (fwrap s d i f v).rrNext = s.rrNext := rfl
@[simp] theorem fwrap_mediaQ : (fwrap s d i f v).mediaQ = s.mediaQ := rfl
@[simp] theorem fwrap_regions : (fwrap s d i f v).regions = s.regions := rfl
@[simp] theorem fwrap_xlat : (fwrap s d i f v).xlat = s.xlat := rfl
@[simp] theorem fwrap_coh : (fwrap s d i f v).coh = s.coh := rfl
@[simp] theorem fwrap_links : (fwrap s d i f v).links = s.links := rfl
@[simp] theorem fwrap_parcels : (fwrap s d i f v).parcels = s.parcels := rfl
@[simp] theorem fwrap_net : (fwrap s d i f v).net = s.net := rfl
@[simp] theorem fwrap_power : (fwrap s d i f v).power = s.power := rfl
@[simp] theorem fwrap_persist : (fwrap s d i f v).persist = s.persist := rfl
@[simp] theorem fwrap_rst : (fwrap s d i f v).rst = s.rst := rfl
@[simp] theorem fwrap_pins : (fwrap s d i f v).pins = s.pins := rfl
@[simp] theorem fwrap_uart0 : (fwrap s d i f v).uart0 = s.uart0 := rfl
@[simp] theorem fwrap_sec : (fwrap s d i f v).sec = s.sec := rfl
@[simp] theorem fwrap_evt : (fwrap s d i f v).evt = s.evt := rfl
@[simp] theorem fwrap_jtag : (fwrap s d i f v).jtag = s.jtag := rfl
@[simp] theorem fwrap_ddr : (fwrap s d i f v).ddr = s.ddr := rfl
end

section
variable (s : State) (d i : Nat) (f : Fld) (v : Nat)
@[simp] theorem fhigh_pending : (fhigh s d i f v).pending = s.pending := rfl
@[simp] theorem fhigh_time : (fhigh s d i f v).time = s.time := rfl
@[simp] theorem fhigh_fresh : (fhigh s d i f v).fresh = s.fresh := rfl
@[simp] theorem fhigh_fuses : (fhigh s d i f v).fuses = s.fuses := rfl
@[simp] theorem fhigh_rowFuses : (fhigh s d i f v).rowFuses = s.rowFuses := rfl
@[simp] theorem fhigh_rowMap : (fhigh s d i f v).rowMap = s.rowMap := rfl
@[simp] theorem fhigh_mem : (fhigh s d i f v).mem = s.mem := rfl
@[simp] theorem fhigh_near : (fhigh s d i f v).near = s.near := rfl
@[simp] theorem fhigh_ostore : (fhigh s d i f v).ostore = s.ostore := rfl
@[simp] theorem fhigh_poison : (fhigh s d i f v).poison = s.poison := rfl
@[simp] theorem fhigh_flaws : (fhigh s d i f v).flaws = s.flaws := rfl
@[simp] theorem fhigh_failedPcs : (fhigh s d i f v).failedPcs = s.failedPcs := rfl
@[simp] theorem fhigh_ceLog : (fhigh s d i f v).ceLog = s.ceLog := rfl
@[simp] theorem fhigh_scrubFrom : (fhigh s d i f v).scrubFrom = s.scrubFrom := rfl
@[simp] theorem fhigh_recals : (fhigh s d i f v).recals = s.recals := rfl
@[simp] theorem fhigh_cores : (fhigh s d i f v).cores = s.cores := rfl
@[simp] theorem fhigh_vecs : (fhigh s d i f v).vecs = s.vecs := rfl
@[simp] theorem fhigh_irqOut : (fhigh s d i f v).irqOut = s.irqOut := rfl
@[simp] theorem fhigh_engines : (fhigh s d i f v).engines = s.engines := rfl
@[simp] theorem fhigh_rdc : (fhigh s d i f v).rdc = s.rdc := rfl
@[simp] theorem fhigh_tok : (fhigh s d i f v).tok = s.tok := rfl
@[simp] theorem fhigh_launches : (fhigh s d i f v).launches = s.launches := rfl
@[simp] theorem fhigh_ctxs : (fhigh s d i f v).ctxs = s.ctxs := rfl
@[simp] theorem fhigh_rrNext : (fhigh s d i f v).rrNext = s.rrNext := rfl
@[simp] theorem fhigh_mediaQ : (fhigh s d i f v).mediaQ = s.mediaQ := rfl
@[simp] theorem fhigh_regions : (fhigh s d i f v).regions = s.regions := rfl
@[simp] theorem fhigh_xlat : (fhigh s d i f v).xlat = s.xlat := rfl
@[simp] theorem fhigh_coh : (fhigh s d i f v).coh = s.coh := rfl
@[simp] theorem fhigh_links : (fhigh s d i f v).links = s.links := rfl
@[simp] theorem fhigh_parcels : (fhigh s d i f v).parcels = s.parcels := rfl
@[simp] theorem fhigh_net : (fhigh s d i f v).net = s.net := rfl
@[simp] theorem fhigh_power : (fhigh s d i f v).power = s.power := rfl
@[simp] theorem fhigh_persist : (fhigh s d i f v).persist = s.persist := rfl
@[simp] theorem fhigh_rst : (fhigh s d i f v).rst = s.rst := rfl
@[simp] theorem fhigh_pins : (fhigh s d i f v).pins = s.pins := rfl
@[simp] theorem fhigh_uart0 : (fhigh s d i f v).uart0 = s.uart0 := rfl
@[simp] theorem fhigh_sec : (fhigh s d i f v).sec = s.sec := rfl
@[simp] theorem fhigh_evt : (fhigh s d i f v).evt = s.evt := rfl
@[simp] theorem fhigh_jtag : (fhigh s d i f v).jtag = s.jtag := rfl
@[simp] theorem fhigh_ddr : (fhigh s d i f v).ddr = s.ddr := rfl
end

section
variable (s : State) 
@[simp] theorem draw_pending : ((draw s).2).pending = s.pending := rfl
@[simp] theorem draw_time : ((draw s).2).time = s.time := rfl
@[simp] theorem draw_regs : ((draw s).2).regs = s.regs := rfl
@[simp] theorem draw_fuses : ((draw s).2).fuses = s.fuses := rfl
@[simp] theorem draw_rowFuses : ((draw s).2).rowFuses = s.rowFuses := rfl
@[simp] theorem draw_rowMap : ((draw s).2).rowMap = s.rowMap := rfl
@[simp] theorem draw_mem : ((draw s).2).mem = s.mem := rfl
@[simp] theorem draw_near : ((draw s).2).near = s.near := rfl
@[simp] theorem draw_ostore : ((draw s).2).ostore = s.ostore := rfl
@[simp] theorem draw_poison : ((draw s).2).poison = s.poison := rfl
@[simp] theorem draw_flaws : ((draw s).2).flaws = s.flaws := rfl
@[simp] theorem draw_failedPcs : ((draw s).2).failedPcs = s.failedPcs := rfl
@[simp] theorem draw_ceLog : ((draw s).2).ceLog = s.ceLog := rfl
@[simp] theorem draw_scrubFrom : ((draw s).2).scrubFrom = s.scrubFrom := rfl
@[simp] theorem draw_recals : ((draw s).2).recals = s.recals := rfl
@[simp] theorem draw_cores : ((draw s).2).cores = s.cores := rfl
@[simp] theorem draw_vecs : ((draw s).2).vecs = s.vecs := rfl
@[simp] theorem draw_irqOut : ((draw s).2).irqOut = s.irqOut := rfl
@[simp] theorem draw_engines : ((draw s).2).engines = s.engines := rfl
@[simp] theorem draw_rdc : ((draw s).2).rdc = s.rdc := rfl
@[simp] theorem draw_tok : ((draw s).2).tok = s.tok := rfl
@[simp] theorem draw_launches : ((draw s).2).launches = s.launches := rfl
@[simp] theorem draw_ctxs : ((draw s).2).ctxs = s.ctxs := rfl
@[simp] theorem draw_rrNext : ((draw s).2).rrNext = s.rrNext := rfl
@[simp] theorem draw_mediaQ : ((draw s).2).mediaQ = s.mediaQ := rfl
@[simp] theorem draw_regions : ((draw s).2).regions = s.regions := rfl
@[simp] theorem draw_xlat : ((draw s).2).xlat = s.xlat := rfl
@[simp] theorem draw_coh : ((draw s).2).coh = s.coh := rfl
@[simp] theorem draw_links : ((draw s).2).links = s.links := rfl
@[simp] theorem draw_parcels : ((draw s).2).parcels = s.parcels := rfl
@[simp] theorem draw_net : ((draw s).2).net = s.net := rfl
@[simp] theorem draw_power : ((draw s).2).power = s.power := rfl
@[simp] theorem draw_persist : ((draw s).2).persist = s.persist := rfl
@[simp] theorem draw_rst : ((draw s).2).rst = s.rst := rfl
@[simp] theorem draw_pins : ((draw s).2).pins = s.pins := rfl
@[simp] theorem draw_uart0 : ((draw s).2).uart0 = s.uart0 := rfl
@[simp] theorem draw_sec : ((draw s).2).sec = s.sec := rfl
@[simp] theorem draw_evt : ((draw s).2).evt = s.evt := rfl
@[simp] theorem draw_jtag : ((draw s).2).jtag = s.jtag := rfl
@[simp] theorem draw_ddr : ((draw s).2).ddr = s.ddr := rfl
end

section
variable (s : State) (n : Nat)
@[simp] theorem drawBelow_pending : ((drawBelow s n).2).pending = s.pending := rfl
@[simp] theorem drawBelow_time : ((drawBelow s n).2).time = s.time := rfl
@[simp] theorem drawBelow_regs : ((drawBelow s n).2).regs = s.regs := rfl
@[simp] theorem drawBelow_fuses : ((drawBelow s n).2).fuses = s.fuses := rfl
@[simp] theorem drawBelow_rowFuses : ((drawBelow s n).2).rowFuses = s.rowFuses := rfl
@[simp] theorem drawBelow_rowMap : ((drawBelow s n).2).rowMap = s.rowMap := rfl
@[simp] theorem drawBelow_mem : ((drawBelow s n).2).mem = s.mem := rfl
@[simp] theorem drawBelow_near : ((drawBelow s n).2).near = s.near := rfl
@[simp] theorem drawBelow_ostore : ((drawBelow s n).2).ostore = s.ostore := rfl
@[simp] theorem drawBelow_poison : ((drawBelow s n).2).poison = s.poison := rfl
@[simp] theorem drawBelow_flaws : ((drawBelow s n).2).flaws = s.flaws := rfl
@[simp] theorem drawBelow_failedPcs : ((drawBelow s n).2).failedPcs = s.failedPcs := rfl
@[simp] theorem drawBelow_ceLog : ((drawBelow s n).2).ceLog = s.ceLog := rfl
@[simp] theorem drawBelow_scrubFrom : ((drawBelow s n).2).scrubFrom = s.scrubFrom := rfl
@[simp] theorem drawBelow_recals : ((drawBelow s n).2).recals = s.recals := rfl
@[simp] theorem drawBelow_cores : ((drawBelow s n).2).cores = s.cores := rfl
@[simp] theorem drawBelow_vecs : ((drawBelow s n).2).vecs = s.vecs := rfl
@[simp] theorem drawBelow_irqOut : ((drawBelow s n).2).irqOut = s.irqOut := rfl
@[simp] theorem drawBelow_engines : ((drawBelow s n).2).engines = s.engines := rfl
@[simp] theorem drawBelow_rdc : ((drawBelow s n).2).rdc = s.rdc := rfl
@[simp] theorem drawBelow_tok : ((drawBelow s n).2).tok = s.tok := rfl
@[simp] theorem drawBelow_launches : ((drawBelow s n).2).launches = s.launches := rfl
@[simp] theorem drawBelow_ctxs : ((drawBelow s n).2).ctxs = s.ctxs := rfl
@[simp] theorem drawBelow_rrNext : ((drawBelow s n).2).rrNext = s.rrNext := rfl
@[simp] theorem drawBelow_mediaQ : ((drawBelow s n).2).mediaQ = s.mediaQ := rfl
@[simp] theorem drawBelow_regions : ((drawBelow s n).2).regions = s.regions := rfl
@[simp] theorem drawBelow_xlat : ((drawBelow s n).2).xlat = s.xlat := rfl
@[simp] theorem drawBelow_coh : ((drawBelow s n).2).coh = s.coh := rfl
@[simp] theorem drawBelow_links : ((drawBelow s n).2).links = s.links := rfl
@[simp] theorem drawBelow_parcels : ((drawBelow s n).2).parcels = s.parcels := rfl
@[simp] theorem drawBelow_net : ((drawBelow s n).2).net = s.net := rfl
@[simp] theorem drawBelow_power : ((drawBelow s n).2).power = s.power := rfl
@[simp] theorem drawBelow_persist : ((drawBelow s n).2).persist = s.persist := rfl
@[simp] theorem drawBelow_rst : ((drawBelow s n).2).rst = s.rst := rfl
@[simp] theorem drawBelow_pins : ((drawBelow s n).2).pins = s.pins := rfl
@[simp] theorem drawBelow_uart0 : ((drawBelow s n).2).uart0 = s.uart0 := rfl
@[simp] theorem drawBelow_sec : ((drawBelow s n).2).sec = s.sec := rfl
@[simp] theorem drawBelow_evt : ((drawBelow s n).2).evt = s.evt := rfl
@[simp] theorem drawBelow_jtag : ((drawBelow s n).2).jtag = s.jtag := rfl
@[simp] theorem drawBelow_ddr : ((drawBelow s n).2).ddr = s.ddr := rfl
end

section
variable (s : State) (f : List CacheLine → List CacheLine)
@[simp] theorem mapL2_pending : (mapL2 s f).pending = s.pending := rfl
@[simp] theorem mapL2_time : (mapL2 s f).time = s.time := rfl
@[simp] theorem mapL2_fresh : (mapL2 s f).fresh = s.fresh := rfl
@[simp] theorem mapL2_regs : (mapL2 s f).regs = s.regs := rfl
@[simp] theorem mapL2_fuses : (mapL2 s f).fuses = s.fuses := rfl
@[simp] theorem mapL2_rowFuses : (mapL2 s f).rowFuses = s.rowFuses := rfl
@[simp] theorem mapL2_rowMap : (mapL2 s f).rowMap = s.rowMap := rfl
@[simp] theorem mapL2_mem : (mapL2 s f).mem = s.mem := rfl
@[simp] theorem mapL2_near : (mapL2 s f).near = s.near := rfl
@[simp] theorem mapL2_ostore : (mapL2 s f).ostore = s.ostore := rfl
@[simp] theorem mapL2_poison : (mapL2 s f).poison = s.poison := rfl
@[simp] theorem mapL2_flaws : (mapL2 s f).flaws = s.flaws := rfl
@[simp] theorem mapL2_failedPcs : (mapL2 s f).failedPcs = s.failedPcs := rfl
@[simp] theorem mapL2_ceLog : (mapL2 s f).ceLog = s.ceLog := rfl
@[simp] theorem mapL2_scrubFrom : (mapL2 s f).scrubFrom = s.scrubFrom := rfl
@[simp] theorem mapL2_recals : (mapL2 s f).recals = s.recals := rfl
@[simp] theorem mapL2_vecs : (mapL2 s f).vecs = s.vecs := rfl
@[simp] theorem mapL2_irqOut : (mapL2 s f).irqOut = s.irqOut := rfl
@[simp] theorem mapL2_engines : (mapL2 s f).engines = s.engines := rfl
@[simp] theorem mapL2_rdc : (mapL2 s f).rdc = s.rdc := rfl
@[simp] theorem mapL2_tok : (mapL2 s f).tok = s.tok := rfl
@[simp] theorem mapL2_launches : (mapL2 s f).launches = s.launches := rfl
@[simp] theorem mapL2_ctxs : (mapL2 s f).ctxs = s.ctxs := rfl
@[simp] theorem mapL2_rrNext : (mapL2 s f).rrNext = s.rrNext := rfl
@[simp] theorem mapL2_mediaQ : (mapL2 s f).mediaQ = s.mediaQ := rfl
@[simp] theorem mapL2_regions : (mapL2 s f).regions = s.regions := rfl
@[simp] theorem mapL2_xlat : (mapL2 s f).xlat = s.xlat := rfl
@[simp] theorem mapL2_coh : (mapL2 s f).coh = s.coh := rfl
@[simp] theorem mapL2_links : (mapL2 s f).links = s.links := rfl
@[simp] theorem mapL2_parcels : (mapL2 s f).parcels = s.parcels := rfl
@[simp] theorem mapL2_net : (mapL2 s f).net = s.net := rfl
@[simp] theorem mapL2_power : (mapL2 s f).power = s.power := rfl
@[simp] theorem mapL2_persist : (mapL2 s f).persist = s.persist := rfl
@[simp] theorem mapL2_rst : (mapL2 s f).rst = s.rst := rfl
@[simp] theorem mapL2_pins : (mapL2 s f).pins = s.pins := rfl
@[simp] theorem mapL2_uart0 : (mapL2 s f).uart0 = s.uart0 := rfl
@[simp] theorem mapL2_sec : (mapL2 s f).sec = s.sec := rfl
@[simp] theorem mapL2_evt : (mapL2 s f).evt = s.evt := rfl
@[simp] theorem mapL2_jtag : (mapL2 s f).jtag = s.jtag := rfl
@[simp] theorem mapL2_ddr : (mapL2 s f).ddr = s.ddr := rfl
end

section
variable (s : State) (h : Nat) (x : Home)
@[simp] theorem putHome_pending : (putHome s h x).pending = s.pending := rfl
@[simp] theorem putHome_time : (putHome s h x).time = s.time := rfl
@[simp] theorem putHome_fresh : (putHome s h x).fresh = s.fresh := rfl
@[simp] theorem putHome_regs : (putHome s h x).regs = s.regs := rfl
@[simp] theorem putHome_fuses : (putHome s h x).fuses = s.fuses := rfl
@[simp] theorem putHome_rowFuses : (putHome s h x).rowFuses = s.rowFuses := rfl
@[simp] theorem putHome_rowMap : (putHome s h x).rowMap = s.rowMap := rfl
@[simp] theorem putHome_mem : (putHome s h x).mem = s.mem := rfl
@[simp] theorem putHome_near : (putHome s h x).near = s.near := rfl
@[simp] theorem putHome_ostore : (putHome s h x).ostore = s.ostore := rfl
@[simp] theorem putHome_poison : (putHome s h x).poison = s.poison := rfl
@[simp] theorem putHome_flaws : (putHome s h x).flaws = s.flaws := rfl
@[simp] theorem putHome_failedPcs : (putHome s h x).failedPcs = s.failedPcs := rfl
@[simp] theorem putHome_ceLog : (putHome s h x).ceLog = s.ceLog := rfl
@[simp] theorem putHome_scrubFrom : (putHome s h x).scrubFrom = s.scrubFrom := rfl
@[simp] theorem putHome_recals : (putHome s h x).recals = s.recals := rfl
@[simp] theorem putHome_cores : (putHome s h x).cores = s.cores := rfl
@[simp] theorem putHome_vecs : (putHome s h x).vecs = s.vecs := rfl
@[simp] theorem putHome_irqOut : (putHome s h x).irqOut = s.irqOut := rfl
@[simp] theorem putHome_engines : (putHome s h x).engines = s.engines := rfl
@[simp] theorem putHome_rdc : (putHome s h x).rdc = s.rdc := rfl
@[simp] theorem putHome_tok : (putHome s h x).tok = s.tok := rfl
@[simp] theorem putHome_launches : (putHome s h x).launches = s.launches := rfl
@[simp] theorem putHome_ctxs : (putHome s h x).ctxs = s.ctxs := rfl
@[simp] theorem putHome_rrNext : (putHome s h x).rrNext = s.rrNext := rfl
@[simp] theorem putHome_mediaQ : (putHome s h x).mediaQ = s.mediaQ := rfl
@[simp] theorem putHome_regions : (putHome s h x).regions = s.regions := rfl
@[simp] theorem putHome_xlat : (putHome s h x).xlat = s.xlat := rfl
@[simp] theorem putHome_links : (putHome s h x).links = s.links := rfl
@[simp] theorem putHome_parcels : (putHome s h x).parcels = s.parcels := rfl
@[simp] theorem putHome_net : (putHome s h x).net = s.net := rfl
@[simp] theorem putHome_power : (putHome s h x).power = s.power := rfl
@[simp] theorem putHome_persist : (putHome s h x).persist = s.persist := rfl
@[simp] theorem putHome_rst : (putHome s h x).rst = s.rst := rfl
@[simp] theorem putHome_pins : (putHome s h x).pins = s.pins := rfl
@[simp] theorem putHome_uart0 : (putHome s h x).uart0 = s.uart0 := rfl
@[simp] theorem putHome_sec : (putHome s h x).sec = s.sec := rfl
@[simp] theorem putHome_evt : (putHome s h x).evt = s.evt := rfl
@[simp] theorem putHome_jtag : (putHome s h x).jtag = s.jtag := rfl
@[simp] theorem putHome_ddr : (putHome s h x).ddr = s.ddr := rfl
end

section
variable (s : State) (h : Nat) (f : Home → Home)
@[simp] theorem modHome_pending : (modHome s h f).pending = s.pending := rfl
@[simp] theorem modHome_time : (modHome s h f).time = s.time := rfl
@[simp] theorem modHome_fresh : (modHome s h f).fresh = s.fresh := rfl
@[simp] theorem modHome_regs : (modHome s h f).regs = s.regs := rfl
@[simp] theorem modHome_fuses : (modHome s h f).fuses = s.fuses := rfl
@[simp] theorem modHome_rowFuses : (modHome s h f).rowFuses = s.rowFuses := rfl
@[simp] theorem modHome_rowMap : (modHome s h f).rowMap = s.rowMap := rfl
@[simp] theorem modHome_mem : (modHome s h f).mem = s.mem := rfl
@[simp] theorem modHome_near : (modHome s h f).near = s.near := rfl
@[simp] theorem modHome_ostore : (modHome s h f).ostore = s.ostore := rfl
@[simp] theorem modHome_poison : (modHome s h f).poison = s.poison := rfl
@[simp] theorem modHome_flaws : (modHome s h f).flaws = s.flaws := rfl
@[simp] theorem modHome_failedPcs : (modHome s h f).failedPcs = s.failedPcs := rfl
@[simp] theorem modHome_ceLog : (modHome s h f).ceLog = s.ceLog := rfl
@[simp] theorem modHome_scrubFrom : (modHome s h f).scrubFrom = s.scrubFrom := rfl
@[simp] theorem modHome_recals : (modHome s h f).recals = s.recals := rfl
@[simp] theorem modHome_cores : (modHome s h f).cores = s.cores := rfl
@[simp] theorem modHome_vecs : (modHome s h f).vecs = s.vecs := rfl
@[simp] theorem modHome_irqOut : (modHome s h f).irqOut = s.irqOut := rfl
@[simp] theorem modHome_engines : (modHome s h f).engines = s.engines := rfl
@[simp] theorem modHome_rdc : (modHome s h f).rdc = s.rdc := rfl
@[simp] theorem modHome_tok : (modHome s h f).tok = s.tok := rfl
@[simp] theorem modHome_launches : (modHome s h f).launches = s.launches := rfl
@[simp] theorem modHome_ctxs : (modHome s h f).ctxs = s.ctxs := rfl
@[simp] theorem modHome_rrNext : (modHome s h f).rrNext = s.rrNext := rfl
@[simp] theorem modHome_mediaQ : (modHome s h f).mediaQ = s.mediaQ := rfl
@[simp] theorem modHome_regions : (modHome s h f).regions = s.regions := rfl
@[simp] theorem modHome_xlat : (modHome s h f).xlat = s.xlat := rfl
@[simp] theorem modHome_links : (modHome s h f).links = s.links := rfl
@[simp] theorem modHome_parcels : (modHome s h f).parcels = s.parcels := rfl
@[simp] theorem modHome_net : (modHome s h f).net = s.net := rfl
@[simp] theorem modHome_power : (modHome s h f).power = s.power := rfl
@[simp] theorem modHome_persist : (modHome s h f).persist = s.persist := rfl
@[simp] theorem modHome_rst : (modHome s h f).rst = s.rst := rfl
@[simp] theorem modHome_pins : (modHome s h f).pins = s.pins := rfl
@[simp] theorem modHome_uart0 : (modHome s h f).uart0 = s.uart0 := rfl
@[simp] theorem modHome_sec : (modHome s h f).sec = s.sec := rfl
@[simp] theorem modHome_evt : (modHome s h f).evt = s.evt := rfl
@[simp] theorem modHome_jtag : (modHome s h f).jtag = s.jtag := rfl
@[simp] theorem modHome_ddr : (modHome s h f).ddr = s.ddr := rfl
end

section
variable (s : State) (d c : Nat) (x : Core)
@[simp] theorem putCore_pending : (putCore s d c x).pending = s.pending := rfl
@[simp] theorem putCore_time : (putCore s d c x).time = s.time := rfl
@[simp] theorem putCore_fresh : (putCore s d c x).fresh = s.fresh := rfl
@[simp] theorem putCore_regs : (putCore s d c x).regs = s.regs := rfl
@[simp] theorem putCore_fuses : (putCore s d c x).fuses = s.fuses := rfl
@[simp] theorem putCore_rowFuses : (putCore s d c x).rowFuses = s.rowFuses := rfl
@[simp] theorem putCore_rowMap : (putCore s d c x).rowMap = s.rowMap := rfl
@[simp] theorem putCore_mem : (putCore s d c x).mem = s.mem := rfl
@[simp] theorem putCore_near : (putCore s d c x).near = s.near := rfl
@[simp] theorem putCore_ostore : (putCore s d c x).ostore = s.ostore := rfl
@[simp] theorem putCore_poison : (putCore s d c x).poison = s.poison := rfl
@[simp] theorem putCore_flaws : (putCore s d c x).flaws = s.flaws := rfl
@[simp] theorem putCore_failedPcs : (putCore s d c x).failedPcs = s.failedPcs := rfl
@[simp] theorem putCore_ceLog : (putCore s d c x).ceLog = s.ceLog := rfl
@[simp] theorem putCore_scrubFrom : (putCore s d c x).scrubFrom = s.scrubFrom := rfl
@[simp] theorem putCore_recals : (putCore s d c x).recals = s.recals := rfl
@[simp] theorem putCore_vecs : (putCore s d c x).vecs = s.vecs := rfl
@[simp] theorem putCore_irqOut : (putCore s d c x).irqOut = s.irqOut := rfl
@[simp] theorem putCore_engines : (putCore s d c x).engines = s.engines := rfl
@[simp] theorem putCore_rdc : (putCore s d c x).rdc = s.rdc := rfl
@[simp] theorem putCore_tok : (putCore s d c x).tok = s.tok := rfl
@[simp] theorem putCore_launches : (putCore s d c x).launches = s.launches := rfl
@[simp] theorem putCore_ctxs : (putCore s d c x).ctxs = s.ctxs := rfl
@[simp] theorem putCore_rrNext : (putCore s d c x).rrNext = s.rrNext := rfl
@[simp] theorem putCore_mediaQ : (putCore s d c x).mediaQ = s.mediaQ := rfl
@[simp] theorem putCore_regions : (putCore s d c x).regions = s.regions := rfl
@[simp] theorem putCore_xlat : (putCore s d c x).xlat = s.xlat := rfl
@[simp] theorem putCore_coh : (putCore s d c x).coh = s.coh := rfl
@[simp] theorem putCore_links : (putCore s d c x).links = s.links := rfl
@[simp] theorem putCore_parcels : (putCore s d c x).parcels = s.parcels := rfl
@[simp] theorem putCore_net : (putCore s d c x).net = s.net := rfl
@[simp] theorem putCore_power : (putCore s d c x).power = s.power := rfl
@[simp] theorem putCore_persist : (putCore s d c x).persist = s.persist := rfl
@[simp] theorem putCore_rst : (putCore s d c x).rst = s.rst := rfl
@[simp] theorem putCore_pins : (putCore s d c x).pins = s.pins := rfl
@[simp] theorem putCore_uart0 : (putCore s d c x).uart0 = s.uart0 := rfl
@[simp] theorem putCore_sec : (putCore s d c x).sec = s.sec := rfl
@[simp] theorem putCore_evt : (putCore s d c x).evt = s.evt := rfl
@[simp] theorem putCore_jtag : (putCore s d c x).jtag = s.jtag := rfl
@[simp] theorem putCore_ddr : (putCore s d c x).ddr = s.ddr := rfl
end

section
variable (s : State) (d c : Nat) (f : Core → Core)
@[simp] theorem modCore_pending : (modCore s d c f).pending = s.pending := rfl
@[simp] theorem modCore_time : (modCore s d c f).time = s.time := rfl
@[simp] theorem modCore_fresh : (modCore s d c f).fresh = s.fresh := rfl
@[simp] theorem modCore_regs : (modCore s d c f).regs = s.regs := rfl
@[simp] theorem modCore_fuses : (modCore s d c f).fuses = s.fuses := rfl
@[simp] theorem modCore_rowFuses : (modCore s d c f).rowFuses = s.rowFuses := rfl
@[simp] theorem modCore_rowMap : (modCore s d c f).rowMap = s.rowMap := rfl
@[simp] theorem modCore_mem : (modCore s d c f).mem = s.mem := rfl
@[simp] theorem modCore_near : (modCore s d c f).near = s.near := rfl
@[simp] theorem modCore_ostore : (modCore s d c f).ostore = s.ostore := rfl
@[simp] theorem modCore_poison : (modCore s d c f).poison = s.poison := rfl
@[simp] theorem modCore_flaws : (modCore s d c f).flaws = s.flaws := rfl
@[simp] theorem modCore_failedPcs : (modCore s d c f).failedPcs = s.failedPcs := rfl
@[simp] theorem modCore_ceLog : (modCore s d c f).ceLog = s.ceLog := rfl
@[simp] theorem modCore_scrubFrom : (modCore s d c f).scrubFrom = s.scrubFrom := rfl
@[simp] theorem modCore_recals : (modCore s d c f).recals = s.recals := rfl
@[simp] theorem modCore_vecs : (modCore s d c f).vecs = s.vecs := rfl
@[simp] theorem modCore_irqOut : (modCore s d c f).irqOut = s.irqOut := rfl
@[simp] theorem modCore_engines : (modCore s d c f).engines = s.engines := rfl
@[simp] theorem modCore_rdc : (modCore s d c f).rdc = s.rdc := rfl
@[simp] theorem modCore_tok : (modCore s d c f).tok = s.tok := rfl
@[simp] theorem modCore_launches : (modCore s d c f).launches = s.launches := rfl
@[simp] theorem modCore_ctxs : (modCore s d c f).ctxs = s.ctxs := rfl
@[simp] theorem modCore_rrNext : (modCore s d c f).rrNext = s.rrNext := rfl
@[simp] theorem modCore_mediaQ : (modCore s d c f).mediaQ = s.mediaQ := rfl
@[simp] theorem modCore_regions : (modCore s d c f).regions = s.regions := rfl
@[simp] theorem modCore_xlat : (modCore s d c f).xlat = s.xlat := rfl
@[simp] theorem modCore_coh : (modCore s d c f).coh = s.coh := rfl
@[simp] theorem modCore_links : (modCore s d c f).links = s.links := rfl
@[simp] theorem modCore_parcels : (modCore s d c f).parcels = s.parcels := rfl
@[simp] theorem modCore_net : (modCore s d c f).net = s.net := rfl
@[simp] theorem modCore_power : (modCore s d c f).power = s.power := rfl
@[simp] theorem modCore_persist : (modCore s d c f).persist = s.persist := rfl
@[simp] theorem modCore_rst : (modCore s d c f).rst = s.rst := rfl
@[simp] theorem modCore_pins : (modCore s d c f).pins = s.pins := rfl
@[simp] theorem modCore_uart0 : (modCore s d c f).uart0 = s.uart0 := rfl
@[simp] theorem modCore_sec : (modCore s d c f).sec = s.sec := rfl
@[simp] theorem modCore_evt : (modCore s d c f).evt = s.evt := rfl
@[simp] theorem modCore_jtag : (modCore s d c f).jtag = s.jtag := rfl
@[simp] theorem modCore_ddr : (modCore s d c f).ddr = s.ddr := rfl
end

section
variable (s : State) (v : Nat)
@[simp] theorem sendIrq_pending : (sendIrq s v).pending = s.pending := rfl
@[simp] theorem sendIrq_time : (sendIrq s v).time = s.time := rfl
@[simp] theorem sendIrq_fresh : (sendIrq s v).fresh = s.fresh := rfl
@[simp] theorem sendIrq_regs : (sendIrq s v).regs = s.regs := rfl
@[simp] theorem sendIrq_fuses : (sendIrq s v).fuses = s.fuses := rfl
@[simp] theorem sendIrq_rowFuses : (sendIrq s v).rowFuses = s.rowFuses := rfl
@[simp] theorem sendIrq_rowMap : (sendIrq s v).rowMap = s.rowMap := rfl
@[simp] theorem sendIrq_mem : (sendIrq s v).mem = s.mem := rfl
@[simp] theorem sendIrq_near : (sendIrq s v).near = s.near := rfl
@[simp] theorem sendIrq_ostore : (sendIrq s v).ostore = s.ostore := rfl
@[simp] theorem sendIrq_poison : (sendIrq s v).poison = s.poison := rfl
@[simp] theorem sendIrq_flaws : (sendIrq s v).flaws = s.flaws := rfl
@[simp] theorem sendIrq_failedPcs : (sendIrq s v).failedPcs = s.failedPcs := rfl
@[simp] theorem sendIrq_ceLog : (sendIrq s v).ceLog = s.ceLog := rfl
@[simp] theorem sendIrq_scrubFrom : (sendIrq s v).scrubFrom = s.scrubFrom := rfl
@[simp] theorem sendIrq_recals : (sendIrq s v).recals = s.recals := rfl
@[simp] theorem sendIrq_cores : (sendIrq s v).cores = s.cores := rfl
@[simp] theorem sendIrq_vecs : (sendIrq s v).vecs = s.vecs := rfl
@[simp] theorem sendIrq_engines : (sendIrq s v).engines = s.engines := rfl
@[simp] theorem sendIrq_rdc : (sendIrq s v).rdc = s.rdc := rfl
@[simp] theorem sendIrq_tok : (sendIrq s v).tok = s.tok := rfl
@[simp] theorem sendIrq_launches : (sendIrq s v).launches = s.launches := rfl
@[simp] theorem sendIrq_ctxs : (sendIrq s v).ctxs = s.ctxs := rfl
@[simp] theorem sendIrq_rrNext : (sendIrq s v).rrNext = s.rrNext := rfl
@[simp] theorem sendIrq_mediaQ : (sendIrq s v).mediaQ = s.mediaQ := rfl
@[simp] theorem sendIrq_regions : (sendIrq s v).regions = s.regions := rfl
@[simp] theorem sendIrq_xlat : (sendIrq s v).xlat = s.xlat := rfl
@[simp] theorem sendIrq_coh : (sendIrq s v).coh = s.coh := rfl
@[simp] theorem sendIrq_links : (sendIrq s v).links = s.links := rfl
@[simp] theorem sendIrq_parcels : (sendIrq s v).parcels = s.parcels := rfl
@[simp] theorem sendIrq_net : (sendIrq s v).net = s.net := rfl
@[simp] theorem sendIrq_power : (sendIrq s v).power = s.power := rfl
@[simp] theorem sendIrq_persist : (sendIrq s v).persist = s.persist := rfl
@[simp] theorem sendIrq_rst : (sendIrq s v).rst = s.rst := rfl
@[simp] theorem sendIrq_pins : (sendIrq s v).pins = s.pins := rfl
@[simp] theorem sendIrq_uart0 : (sendIrq s v).uart0 = s.uart0 := rfl
@[simp] theorem sendIrq_sec : (sendIrq s v).sec = s.sec := rfl
@[simp] theorem sendIrq_evt : (sendIrq s v).evt = s.evt := rfl
@[simp] theorem sendIrq_jtag : (sendIrq s v).jtag = s.jtag := rfl
@[simp] theorem sendIrq_ddr : (sendIrq s v).ddr = s.ddr := rfl
end

section
variable (s : State) (code sev src ctx : Nat) (x : BitVec 128)
@[simp] theorem raise_pending : (raise s code sev src ctx x).pending = s.pending := rfl
@[simp] theorem raise_time : (raise s code sev src ctx x).time = s.time := rfl
@[simp] theorem raise_fresh : (raise s code sev src ctx x).fresh = s.fresh := rfl
@[simp] theorem raise_regs : (raise s code sev src ctx x).regs = s.regs := rfl
@[simp] theorem raise_fuses : (raise s code sev src ctx x).fuses = s.fuses := rfl
@[simp] theorem raise_rowFuses : (raise s code sev src ctx x).rowFuses = s.rowFuses := rfl
@[simp] theorem raise_rowMap : (raise s code sev src ctx x).rowMap = s.rowMap := rfl
@[simp] theorem raise_mem : (raise s code sev src ctx x).mem = s.mem := rfl
@[simp] theorem raise_near : (raise s code sev src ctx x).near = s.near := rfl
@[simp] theorem raise_ostore : (raise s code sev src ctx x).ostore = s.ostore := rfl
@[simp] theorem raise_poison : (raise s code sev src ctx x).poison = s.poison := rfl
@[simp] theorem raise_flaws : (raise s code sev src ctx x).flaws = s.flaws := rfl
@[simp] theorem raise_failedPcs : (raise s code sev src ctx x).failedPcs = s.failedPcs := rfl
@[simp] theorem raise_ceLog : (raise s code sev src ctx x).ceLog = s.ceLog := rfl
@[simp] theorem raise_scrubFrom : (raise s code sev src ctx x).scrubFrom = s.scrubFrom := rfl
@[simp] theorem raise_recals : (raise s code sev src ctx x).recals = s.recals := rfl
@[simp] theorem raise_cores : (raise s code sev src ctx x).cores = s.cores := rfl
@[simp] theorem raise_vecs : (raise s code sev src ctx x).vecs = s.vecs := rfl
@[simp] theorem raise_irqOut : (raise s code sev src ctx x).irqOut = s.irqOut := rfl
@[simp] theorem raise_engines : (raise s code sev src ctx x).engines = s.engines := rfl
@[simp] theorem raise_rdc : (raise s code sev src ctx x).rdc = s.rdc := rfl
@[simp] theorem raise_tok : (raise s code sev src ctx x).tok = s.tok := rfl
@[simp] theorem raise_launches : (raise s code sev src ctx x).launches = s.launches := rfl
@[simp] theorem raise_ctxs : (raise s code sev src ctx x).ctxs = s.ctxs := rfl
@[simp] theorem raise_rrNext : (raise s code sev src ctx x).rrNext = s.rrNext := rfl
@[simp] theorem raise_mediaQ : (raise s code sev src ctx x).mediaQ = s.mediaQ := rfl
@[simp] theorem raise_regions : (raise s code sev src ctx x).regions = s.regions := rfl
@[simp] theorem raise_xlat : (raise s code sev src ctx x).xlat = s.xlat := rfl
@[simp] theorem raise_coh : (raise s code sev src ctx x).coh = s.coh := rfl
@[simp] theorem raise_links : (raise s code sev src ctx x).links = s.links := rfl
@[simp] theorem raise_parcels : (raise s code sev src ctx x).parcels = s.parcels := rfl
@[simp] theorem raise_net : (raise s code sev src ctx x).net = s.net := rfl
@[simp] theorem raise_power : (raise s code sev src ctx x).power = s.power := rfl
@[simp] theorem raise_persist : (raise s code sev src ctx x).persist = s.persist := rfl
@[simp] theorem raise_rst : (raise s code sev src ctx x).rst = s.rst := rfl
@[simp] theorem raise_pins : (raise s code sev src ctx x).pins = s.pins := rfl
@[simp] theorem raise_uart0 : (raise s code sev src ctx x).uart0 = s.uart0 := rfl
@[simp] theorem raise_sec : (raise s code sev src ctx x).sec = s.sec := rfl
@[simp] theorem raise_jtag : (raise s code sev src ctx x).jtag = s.jtag := rfl
@[simp] theorem raise_ddr : (raise s code sev src ctx x).ddr = s.ddr := rfl
end

section
variable (s : State) (c : Nat) (x : Ctx)
@[simp] theorem putCtx_pending : (putCtx s c x).pending = s.pending := rfl
@[simp] theorem putCtx_time : (putCtx s c x).time = s.time := rfl
@[simp] theorem putCtx_fresh : (putCtx s c x).fresh = s.fresh := rfl
@[simp] theorem putCtx_regs : (putCtx s c x).regs = s.regs := rfl
@[simp] theorem putCtx_fuses : (putCtx s c x).fuses = s.fuses := rfl
@[simp] theorem putCtx_rowFuses : (putCtx s c x).rowFuses = s.rowFuses := rfl
@[simp] theorem putCtx_rowMap : (putCtx s c x).rowMap = s.rowMap := rfl
@[simp] theorem putCtx_mem : (putCtx s c x).mem = s.mem := rfl
@[simp] theorem putCtx_near : (putCtx s c x).near = s.near := rfl
@[simp] theorem putCtx_ostore : (putCtx s c x).ostore = s.ostore := rfl
@[simp] theorem putCtx_poison : (putCtx s c x).poison = s.poison := rfl
@[simp] theorem putCtx_flaws : (putCtx s c x).flaws = s.flaws := rfl
@[simp] theorem putCtx_failedPcs : (putCtx s c x).failedPcs = s.failedPcs := rfl
@[simp] theorem putCtx_ceLog : (putCtx s c x).ceLog = s.ceLog := rfl
@[simp] theorem putCtx_scrubFrom : (putCtx s c x).scrubFrom = s.scrubFrom := rfl
@[simp] theorem putCtx_recals : (putCtx s c x).recals = s.recals := rfl
@[simp] theorem putCtx_cores : (putCtx s c x).cores = s.cores := rfl
@[simp] theorem putCtx_vecs : (putCtx s c x).vecs = s.vecs := rfl
@[simp] theorem putCtx_irqOut : (putCtx s c x).irqOut = s.irqOut := rfl
@[simp] theorem putCtx_engines : (putCtx s c x).engines = s.engines := rfl
@[simp] theorem putCtx_rdc : (putCtx s c x).rdc = s.rdc := rfl
@[simp] theorem putCtx_tok : (putCtx s c x).tok = s.tok := rfl
@[simp] theorem putCtx_launches : (putCtx s c x).launches = s.launches := rfl
@[simp] theorem putCtx_rrNext : (putCtx s c x).rrNext = s.rrNext := rfl
@[simp] theorem putCtx_mediaQ : (putCtx s c x).mediaQ = s.mediaQ := rfl
@[simp] theorem putCtx_regions : (putCtx s c x).regions = s.regions := rfl
@[simp] theorem putCtx_xlat : (putCtx s c x).xlat = s.xlat := rfl
@[simp] theorem putCtx_coh : (putCtx s c x).coh = s.coh := rfl
@[simp] theorem putCtx_links : (putCtx s c x).links = s.links := rfl
@[simp] theorem putCtx_parcels : (putCtx s c x).parcels = s.parcels := rfl
@[simp] theorem putCtx_net : (putCtx s c x).net = s.net := rfl
@[simp] theorem putCtx_power : (putCtx s c x).power = s.power := rfl
@[simp] theorem putCtx_persist : (putCtx s c x).persist = s.persist := rfl
@[simp] theorem putCtx_rst : (putCtx s c x).rst = s.rst := rfl
@[simp] theorem putCtx_pins : (putCtx s c x).pins = s.pins := rfl
@[simp] theorem putCtx_uart0 : (putCtx s c x).uart0 = s.uart0 := rfl
@[simp] theorem putCtx_sec : (putCtx s c x).sec = s.sec := rfl
@[simp] theorem putCtx_evt : (putCtx s c x).evt = s.evt := rfl
@[simp] theorem putCtx_jtag : (putCtx s c x).jtag = s.jtag := rfl
@[simp] theorem putCtx_ddr : (putCtx s c x).ddr = s.ddr := rfl
end

section
variable (s : State) (c : Nat) (f : Ctx → Ctx)
@[simp] theorem modCtx_pending : (modCtx s c f).pending = s.pending := rfl
@[simp] theorem modCtx_time : (modCtx s c f).time = s.time := rfl
@[simp] theorem modCtx_fresh : (modCtx s c f).fresh = s.fresh := rfl
@[simp] theorem modCtx_regs : (modCtx s c f).regs = s.regs := rfl
@[simp] theorem modCtx_fuses : (modCtx s c f).fuses = s.fuses := rfl
@[simp] theorem modCtx_rowFuses : (modCtx s c f).rowFuses = s.rowFuses := rfl
@[simp] theorem modCtx_rowMap : (modCtx s c f).rowMap = s.rowMap := rfl
@[simp] theorem modCtx_mem : (modCtx s c f).mem = s.mem := rfl
@[simp] theorem modCtx_near : (modCtx s c f).near = s.near := rfl
@[simp] theorem modCtx_ostore : (modCtx s c f).ostore = s.ostore := rfl
@[simp] theorem modCtx_poison : (modCtx s c f).poison = s.poison := rfl
@[simp] theorem modCtx_flaws : (modCtx s c f).flaws = s.flaws := rfl
@[simp] theorem modCtx_failedPcs : (modCtx s c f).failedPcs = s.failedPcs := rfl
@[simp] theorem modCtx_ceLog : (modCtx s c f).ceLog = s.ceLog := rfl
@[simp] theorem modCtx_scrubFrom : (modCtx s c f).scrubFrom = s.scrubFrom := rfl
@[simp] theorem modCtx_recals : (modCtx s c f).recals = s.recals := rfl
@[simp] theorem modCtx_cores : (modCtx s c f).cores = s.cores := rfl
@[simp] theorem modCtx_vecs : (modCtx s c f).vecs = s.vecs := rfl
@[simp] theorem modCtx_irqOut : (modCtx s c f).irqOut = s.irqOut := rfl
@[simp] theorem modCtx_engines : (modCtx s c f).engines = s.engines := rfl
@[simp] theorem modCtx_rdc : (modCtx s c f).rdc = s.rdc := rfl
@[simp] theorem modCtx_tok : (modCtx s c f).tok = s.tok := rfl
@[simp] theorem modCtx_launches : (modCtx s c f).launches = s.launches := rfl
@[simp] theorem modCtx_rrNext : (modCtx s c f).rrNext = s.rrNext := rfl
@[simp] theorem modCtx_mediaQ : (modCtx s c f).mediaQ = s.mediaQ := rfl
@[simp] theorem modCtx_regions : (modCtx s c f).regions = s.regions := rfl
@[simp] theorem modCtx_xlat : (modCtx s c f).xlat = s.xlat := rfl
@[simp] theorem modCtx_coh : (modCtx s c f).coh = s.coh := rfl
@[simp] theorem modCtx_links : (modCtx s c f).links = s.links := rfl
@[simp] theorem modCtx_parcels : (modCtx s c f).parcels = s.parcels := rfl
@[simp] theorem modCtx_net : (modCtx s c f).net = s.net := rfl
@[simp] theorem modCtx_power : (modCtx s c f).power = s.power := rfl
@[simp] theorem modCtx_persist : (modCtx s c f).persist = s.persist := rfl
@[simp] theorem modCtx_rst : (modCtx s c f).rst = s.rst := rfl
@[simp] theorem modCtx_pins : (modCtx s c f).pins = s.pins := rfl
@[simp] theorem modCtx_uart0 : (modCtx s c f).uart0 = s.uart0 := rfl
@[simp] theorem modCtx_sec : (modCtx s c f).sec = s.sec := rfl
@[simp] theorem modCtx_evt : (modCtx s c f).evt = s.evt := rfl
@[simp] theorem modCtx_jtag : (modCtx s c f).jtag = s.jtag := rfl
@[simp] theorem modCtx_ddr : (modCtx s c f).ddr = s.ddr := rfl
end

section
variable (s : State) (c q : Nat) (f : Cmd → Cmd)
@[simp] theorem modCmd_pending : (modCmd s c q f).pending = s.pending := rfl
@[simp] theorem modCmd_time : (modCmd s c q f).time = s.time := rfl
@[simp] theorem modCmd_fresh : (modCmd s c q f).fresh = s.fresh := rfl
@[simp] theorem modCmd_regs : (modCmd s c q f).regs = s.regs := rfl
@[simp] theorem modCmd_fuses : (modCmd s c q f).fuses = s.fuses := rfl
@[simp] theorem modCmd_rowFuses : (modCmd s c q f).rowFuses = s.rowFuses := rfl
@[simp] theorem modCmd_rowMap : (modCmd s c q f).rowMap = s.rowMap := rfl
@[simp] theorem modCmd_mem : (modCmd s c q f).mem = s.mem := rfl
@[simp] theorem modCmd_near : (modCmd s c q f).near = s.near := rfl
@[simp] theorem modCmd_ostore : (modCmd s c q f).ostore = s.ostore := rfl
@[simp] theorem modCmd_poison : (modCmd s c q f).poison = s.poison := rfl
@[simp] theorem modCmd_flaws : (modCmd s c q f).flaws = s.flaws := rfl
@[simp] theorem modCmd_failedPcs : (modCmd s c q f).failedPcs = s.failedPcs := rfl
@[simp] theorem modCmd_ceLog : (modCmd s c q f).ceLog = s.ceLog := rfl
@[simp] theorem modCmd_scrubFrom : (modCmd s c q f).scrubFrom = s.scrubFrom := rfl
@[simp] theorem modCmd_recals : (modCmd s c q f).recals = s.recals := rfl
@[simp] theorem modCmd_cores : (modCmd s c q f).cores = s.cores := rfl
@[simp] theorem modCmd_vecs : (modCmd s c q f).vecs = s.vecs := rfl
@[simp] theorem modCmd_irqOut : (modCmd s c q f).irqOut = s.irqOut := rfl
@[simp] theorem modCmd_engines : (modCmd s c q f).engines = s.engines := rfl
@[simp] theorem modCmd_rdc : (modCmd s c q f).rdc = s.rdc := rfl
@[simp] theorem modCmd_tok : (modCmd s c q f).tok = s.tok := rfl
@[simp] theorem modCmd_launches : (modCmd s c q f).launches = s.launches := rfl
@[simp] theorem modCmd_rrNext : (modCmd s c q f).rrNext = s.rrNext := rfl
@[simp] theorem modCmd_mediaQ : (modCmd s c q f).mediaQ = s.mediaQ := rfl
@[simp] theorem modCmd_regions : (modCmd s c q f).regions = s.regions := rfl
@[simp] theorem modCmd_xlat : (modCmd s c q f).xlat = s.xlat := rfl
@[simp] theorem modCmd_coh : (modCmd s c q f).coh = s.coh := rfl
@[simp] theorem modCmd_links : (modCmd s c q f).links = s.links := rfl
@[simp] theorem modCmd_parcels : (modCmd s c q f).parcels = s.parcels := rfl
@[simp] theorem modCmd_net : (modCmd s c q f).net = s.net := rfl
@[simp] theorem modCmd_power : (modCmd s c q f).power = s.power := rfl
@[simp] theorem modCmd_persist : (modCmd s c q f).persist = s.persist := rfl
@[simp] theorem modCmd_rst : (modCmd s c q f).rst = s.rst := rfl
@[simp] theorem modCmd_pins : (modCmd s c q f).pins = s.pins := rfl
@[simp] theorem modCmd_uart0 : (modCmd s c q f).uart0 = s.uart0 := rfl
@[simp] theorem modCmd_sec : (modCmd s c q f).sec = s.sec := rfl
@[simp] theorem modCmd_evt : (modCmd s c q f).evt = s.evt := rfl
@[simp] theorem modCmd_jtag : (modCmd s c q f).jtag = s.jtag := rfl
@[simp] theorem modCmd_ddr : (modCmd s c q f).ddr = s.ddr := rfl
end

section
variable (s : State) (d e : Nat) (x : Engine)
@[simp] theorem putEng_pending : (putEng s d e x).pending = s.pending := rfl
@[simp] theorem putEng_time : (putEng s d e x).time = s.time := rfl
@[simp] theorem putEng_fresh : (putEng s d e x).fresh = s.fresh := rfl
@[simp] theorem putEng_regs : (putEng s d e x).regs = s.regs := rfl
@[simp] theorem putEng_fuses : (putEng s d e x).fuses = s.fuses := rfl
@[simp] theorem putEng_rowFuses : (putEng s d e x).rowFuses = s.rowFuses := rfl
@[simp] theorem putEng_rowMap : (putEng s d e x).rowMap = s.rowMap := rfl
@[simp] theorem putEng_mem : (putEng s d e x).mem = s.mem := rfl
@[simp] theorem putEng_near : (putEng s d e x).near = s.near := rfl
@[simp] theorem putEng_ostore : (putEng s d e x).ostore = s.ostore := rfl
@[simp] theorem putEng_poison : (putEng s d e x).poison = s.poison := rfl
@[simp] theorem putEng_flaws : (putEng s d e x).flaws = s.flaws := rfl
@[simp] theorem putEng_failedPcs : (putEng s d e x).failedPcs = s.failedPcs := rfl
@[simp] theorem putEng_ceLog : (putEng s d e x).ceLog = s.ceLog := rfl
@[simp] theorem putEng_scrubFrom : (putEng s d e x).scrubFrom = s.scrubFrom := rfl
@[simp] theorem putEng_recals : (putEng s d e x).recals = s.recals := rfl
@[simp] theorem putEng_cores : (putEng s d e x).cores = s.cores := rfl
@[simp] theorem putEng_vecs : (putEng s d e x).vecs = s.vecs := rfl
@[simp] theorem putEng_irqOut : (putEng s d e x).irqOut = s.irqOut := rfl
@[simp] theorem putEng_rdc : (putEng s d e x).rdc = s.rdc := rfl
@[simp] theorem putEng_tok : (putEng s d e x).tok = s.tok := rfl
@[simp] theorem putEng_launches : (putEng s d e x).launches = s.launches := rfl
@[simp] theorem putEng_ctxs : (putEng s d e x).ctxs = s.ctxs := rfl
@[simp] theorem putEng_rrNext : (putEng s d e x).rrNext = s.rrNext := rfl
@[simp] theorem putEng_mediaQ : (putEng s d e x).mediaQ = s.mediaQ := rfl
@[simp] theorem putEng_regions : (putEng s d e x).regions = s.regions := rfl
@[simp] theorem putEng_xlat : (putEng s d e x).xlat = s.xlat := rfl
@[simp] theorem putEng_coh : (putEng s d e x).coh = s.coh := rfl
@[simp] theorem putEng_links : (putEng s d e x).links = s.links := rfl
@[simp] theorem putEng_parcels : (putEng s d e x).parcels = s.parcels := rfl
@[simp] theorem putEng_net : (putEng s d e x).net = s.net := rfl
@[simp] theorem putEng_power : (putEng s d e x).power = s.power := rfl
@[simp] theorem putEng_persist : (putEng s d e x).persist = s.persist := rfl
@[simp] theorem putEng_rst : (putEng s d e x).rst = s.rst := rfl
@[simp] theorem putEng_pins : (putEng s d e x).pins = s.pins := rfl
@[simp] theorem putEng_uart0 : (putEng s d e x).uart0 = s.uart0 := rfl
@[simp] theorem putEng_sec : (putEng s d e x).sec = s.sec := rfl
@[simp] theorem putEng_evt : (putEng s d e x).evt = s.evt := rfl
@[simp] theorem putEng_jtag : (putEng s d e x).jtag = s.jtag := rfl
@[simp] theorem putEng_ddr : (putEng s d e x).ddr = s.ddr := rfl
end

section
variable (s : State) (d e : Nat) (f : Engine → Engine)
@[simp] theorem modEng_pending : (modEng s d e f).pending = s.pending := rfl
@[simp] theorem modEng_time : (modEng s d e f).time = s.time := rfl
@[simp] theorem modEng_fresh : (modEng s d e f).fresh = s.fresh := rfl
@[simp] theorem modEng_regs : (modEng s d e f).regs = s.regs := rfl
@[simp] theorem modEng_fuses : (modEng s d e f).fuses = s.fuses := rfl
@[simp] theorem modEng_rowFuses : (modEng s d e f).rowFuses = s.rowFuses := rfl
@[simp] theorem modEng_rowMap : (modEng s d e f).rowMap = s.rowMap := rfl
@[simp] theorem modEng_mem : (modEng s d e f).mem = s.mem := rfl
@[simp] theorem modEng_near : (modEng s d e f).near = s.near := rfl
@[simp] theorem modEng_ostore : (modEng s d e f).ostore = s.ostore := rfl
@[simp] theorem modEng_poison : (modEng s d e f).poison = s.poison := rfl
@[simp] theorem modEng_flaws : (modEng s d e f).flaws = s.flaws := rfl
@[simp] theorem modEng_failedPcs : (modEng s d e f).failedPcs = s.failedPcs := rfl
@[simp] theorem modEng_ceLog : (modEng s d e f).ceLog = s.ceLog := rfl
@[simp] theorem modEng_scrubFrom : (modEng s d e f).scrubFrom = s.scrubFrom := rfl
@[simp] theorem modEng_recals : (modEng s d e f).recals = s.recals := rfl
@[simp] theorem modEng_cores : (modEng s d e f).cores = s.cores := rfl
@[simp] theorem modEng_vecs : (modEng s d e f).vecs = s.vecs := rfl
@[simp] theorem modEng_irqOut : (modEng s d e f).irqOut = s.irqOut := rfl
@[simp] theorem modEng_rdc : (modEng s d e f).rdc = s.rdc := rfl
@[simp] theorem modEng_tok : (modEng s d e f).tok = s.tok := rfl
@[simp] theorem modEng_launches : (modEng s d e f).launches = s.launches := rfl
@[simp] theorem modEng_ctxs : (modEng s d e f).ctxs = s.ctxs := rfl
@[simp] theorem modEng_rrNext : (modEng s d e f).rrNext = s.rrNext := rfl
@[simp] theorem modEng_mediaQ : (modEng s d e f).mediaQ = s.mediaQ := rfl
@[simp] theorem modEng_regions : (modEng s d e f).regions = s.regions := rfl
@[simp] theorem modEng_xlat : (modEng s d e f).xlat = s.xlat := rfl
@[simp] theorem modEng_coh : (modEng s d e f).coh = s.coh := rfl
@[simp] theorem modEng_links : (modEng s d e f).links = s.links := rfl
@[simp] theorem modEng_parcels : (modEng s d e f).parcels = s.parcels := rfl
@[simp] theorem modEng_net : (modEng s d e f).net = s.net := rfl
@[simp] theorem modEng_power : (modEng s d e f).power = s.power := rfl
@[simp] theorem modEng_persist : (modEng s d e f).persist = s.persist := rfl
@[simp] theorem modEng_rst : (modEng s d e f).rst = s.rst := rfl
@[simp] theorem modEng_pins : (modEng s d e f).pins = s.pins := rfl
@[simp] theorem modEng_uart0 : (modEng s d e f).uart0 = s.uart0 := rfl
@[simp] theorem modEng_sec : (modEng s d e f).sec = s.sec := rfl
@[simp] theorem modEng_evt : (modEng s d e f).evt = s.evt := rfl
@[simp] theorem modEng_jtag : (modEng s d e f).jtag = s.jtag := rfl
@[simp] theorem modEng_ddr : (modEng s d e f).ddr = s.ddr := rfl
end

section
variable (s : State) (c q : Nat) (f : Launch → Launch)
@[simp] theorem modLaunch_pending : (modLaunch s c q f).pending = s.pending := rfl
@[simp] theorem modLaunch_time : (modLaunch s c q f).time = s.time := rfl
@[simp] theorem modLaunch_fresh : (modLaunch s c q f).fresh = s.fresh := rfl
@[simp] theorem modLaunch_regs : (modLaunch s c q f).regs = s.regs := rfl
@[simp] theorem modLaunch_fuses : (modLaunch s c q f).fuses = s.fuses := rfl
@[simp] theorem modLaunch_rowFuses : (modLaunch s c q f).rowFuses = s.rowFuses := rfl
@[simp] theorem modLaunch_rowMap : (modLaunch s c q f).rowMap = s.rowMap := rfl
@[simp] theorem modLaunch_mem : (modLaunch s c q f).mem = s.mem := rfl
@[simp] theorem modLaunch_near : (modLaunch s c q f).near = s.near := rfl
@[simp] theorem modLaunch_ostore : (modLaunch s c q f).ostore = s.ostore := rfl
@[simp] theorem modLaunch_poison : (modLaunch s c q f).poison = s.poison := rfl
@[simp] theorem modLaunch_flaws : (modLaunch s c q f).flaws = s.flaws := rfl
@[simp] theorem modLaunch_failedPcs : (modLaunch s c q f).failedPcs = s.failedPcs := rfl
@[simp] theorem modLaunch_ceLog : (modLaunch s c q f).ceLog = s.ceLog := rfl
@[simp] theorem modLaunch_scrubFrom : (modLaunch s c q f).scrubFrom = s.scrubFrom := rfl
@[simp] theorem modLaunch_recals : (modLaunch s c q f).recals = s.recals := rfl
@[simp] theorem modLaunch_cores : (modLaunch s c q f).cores = s.cores := rfl
@[simp] theorem modLaunch_vecs : (modLaunch s c q f).vecs = s.vecs := rfl
@[simp] theorem modLaunch_irqOut : (modLaunch s c q f).irqOut = s.irqOut := rfl
@[simp] theorem modLaunch_engines : (modLaunch s c q f).engines = s.engines := rfl
@[simp] theorem modLaunch_rdc : (modLaunch s c q f).rdc = s.rdc := rfl
@[simp] theorem modLaunch_tok : (modLaunch s c q f).tok = s.tok := rfl
@[simp] theorem modLaunch_ctxs : (modLaunch s c q f).ctxs = s.ctxs := rfl
@[simp] theorem modLaunch_rrNext : (modLaunch s c q f).rrNext = s.rrNext := rfl
@[simp] theorem modLaunch_mediaQ : (modLaunch s c q f).mediaQ = s.mediaQ := rfl
@[simp] theorem modLaunch_regions : (modLaunch s c q f).regions = s.regions := rfl
@[simp] theorem modLaunch_xlat : (modLaunch s c q f).xlat = s.xlat := rfl
@[simp] theorem modLaunch_coh : (modLaunch s c q f).coh = s.coh := rfl
@[simp] theorem modLaunch_links : (modLaunch s c q f).links = s.links := rfl
@[simp] theorem modLaunch_parcels : (modLaunch s c q f).parcels = s.parcels := rfl
@[simp] theorem modLaunch_net : (modLaunch s c q f).net = s.net := rfl
@[simp] theorem modLaunch_power : (modLaunch s c q f).power = s.power := rfl
@[simp] theorem modLaunch_persist : (modLaunch s c q f).persist = s.persist := rfl
@[simp] theorem modLaunch_rst : (modLaunch s c q f).rst = s.rst := rfl
@[simp] theorem modLaunch_pins : (modLaunch s c q f).pins = s.pins := rfl
@[simp] theorem modLaunch_uart0 : (modLaunch s c q f).uart0 = s.uart0 := rfl
@[simp] theorem modLaunch_sec : (modLaunch s c q f).sec = s.sec := rfl
@[simp] theorem modLaunch_evt : (modLaunch s c q f).evt = s.evt := rfl
@[simp] theorem modLaunch_jtag : (modLaunch s c q f).jtag = s.jtag := rfl
@[simp] theorem modLaunch_ddr : (modLaunch s c q f).ddr = s.ddr := rfl
end

section
variable (s : State) (c q st : Nat) (x : BitVec 64)
@[simp] theorem launchErr_pending : (launchErr s c q st x).pending = s.pending := rfl
@[simp] theorem launchErr_time : (launchErr s c q st x).time = s.time := rfl
@[simp] theorem launchErr_fresh : (launchErr s c q st x).fresh = s.fresh := rfl
@[simp] theorem launchErr_regs : (launchErr s c q st x).regs = s.regs := rfl
@[simp] theorem launchErr_fuses : (launchErr s c q st x).fuses = s.fuses := rfl
@[simp] theorem launchErr_rowFuses : (launchErr s c q st x).rowFuses = s.rowFuses := rfl
@[simp] theorem launchErr_rowMap : (launchErr s c q st x).rowMap = s.rowMap := rfl
@[simp] theorem launchErr_mem : (launchErr s c q st x).mem = s.mem := rfl
@[simp] theorem launchErr_near : (launchErr s c q st x).near = s.near := rfl
@[simp] theorem launchErr_ostore : (launchErr s c q st x).ostore = s.ostore := rfl
@[simp] theorem launchErr_poison : (launchErr s c q st x).poison = s.poison := rfl
@[simp] theorem launchErr_flaws : (launchErr s c q st x).flaws = s.flaws := rfl
@[simp] theorem launchErr_failedPcs : (launchErr s c q st x).failedPcs = s.failedPcs := rfl
@[simp] theorem launchErr_ceLog : (launchErr s c q st x).ceLog = s.ceLog := rfl
@[simp] theorem launchErr_scrubFrom : (launchErr s c q st x).scrubFrom = s.scrubFrom := rfl
@[simp] theorem launchErr_recals : (launchErr s c q st x).recals = s.recals := rfl
@[simp] theorem launchErr_cores : (launchErr s c q st x).cores = s.cores := rfl
@[simp] theorem launchErr_vecs : (launchErr s c q st x).vecs = s.vecs := rfl
@[simp] theorem launchErr_irqOut : (launchErr s c q st x).irqOut = s.irqOut := rfl
@[simp] theorem launchErr_engines : (launchErr s c q st x).engines = s.engines := rfl
@[simp] theorem launchErr_rdc : (launchErr s c q st x).rdc = s.rdc := rfl
@[simp] theorem launchErr_tok : (launchErr s c q st x).tok = s.tok := rfl
@[simp] theorem launchErr_ctxs : (launchErr s c q st x).ctxs = s.ctxs := rfl
@[simp] theorem launchErr_rrNext : (launchErr s c q st x).rrNext = s.rrNext := rfl
@[simp] theorem launchErr_mediaQ : (launchErr s c q st x).mediaQ = s.mediaQ := rfl
@[simp] theorem launchErr_regions : (launchErr s c q st x).regions = s.regions := rfl
@[simp] theorem launchErr_xlat : (launchErr s c q st x).xlat = s.xlat := rfl
@[simp] theorem launchErr_coh : (launchErr s c q st x).coh = s.coh := rfl
@[simp] theorem launchErr_links : (launchErr s c q st x).links = s.links := rfl
@[simp] theorem launchErr_parcels : (launchErr s c q st x).parcels = s.parcels := rfl
@[simp] theorem launchErr_net : (launchErr s c q st x).net = s.net := rfl
@[simp] theorem launchErr_power : (launchErr s c q st x).power = s.power := rfl
@[simp] theorem launchErr_persist : (launchErr s c q st x).persist = s.persist := rfl
@[simp] theorem launchErr_rst : (launchErr s c q st x).rst = s.rst := rfl
@[simp] theorem launchErr_pins : (launchErr s c q st x).pins = s.pins := rfl
@[simp] theorem launchErr_uart0 : (launchErr s c q st x).uart0 = s.uart0 := rfl
@[simp] theorem launchErr_sec : (launchErr s c q st x).sec = s.sec := rfl
@[simp] theorem launchErr_evt : (launchErr s c q st x).evt = s.evt := rfl
@[simp] theorem launchErr_jtag : (launchErr s c q st x).jtag = s.jtag := rfl
@[simp] theorem launchErr_ddr : (launchErr s c q st x).ddr = s.ddr := rfl
end

section
variable (s : State) (c q i : Nat) (f : Slot → Slot)
@[simp] theorem modSlot_pending : (modSlot s c q i f).pending = s.pending := rfl
@[simp] theorem modSlot_time : (modSlot s c q i f).time = s.time := rfl
@[simp] theorem modSlot_fresh : (modSlot s c q i f).fresh = s.fresh := rfl
@[simp] theorem modSlot_regs : (modSlot s c q i f).regs = s.regs := rfl
@[simp] theorem modSlot_fuses : (modSlot s c q i f).fuses = s.fuses := rfl
@[simp] theorem modSlot_rowFuses : (modSlot s c q i f).rowFuses = s.rowFuses := rfl
@[simp] theorem modSlot_rowMap : (modSlot s c q i f).rowMap = s.rowMap := rfl
@[simp] theorem modSlot_mem : (modSlot s c q i f).mem = s.mem := rfl
@[simp] theorem modSlot_near : (modSlot s c q i f).near = s.near := rfl
@[simp] theorem modSlot_ostore : (modSlot s c q i f).ostore = s.ostore := rfl
@[simp] theorem modSlot_poison : (modSlot s c q i f).poison = s.poison := rfl
@[simp] theorem modSlot_flaws : (modSlot s c q i f).flaws = s.flaws := rfl
@[simp] theorem modSlot_failedPcs : (modSlot s c q i f).failedPcs = s.failedPcs := rfl
@[simp] theorem modSlot_ceLog : (modSlot s c q i f).ceLog = s.ceLog := rfl
@[simp] theorem modSlot_scrubFrom : (modSlot s c q i f).scrubFrom = s.scrubFrom := rfl
@[simp] theorem modSlot_recals : (modSlot s c q i f).recals = s.recals := rfl
@[simp] theorem modSlot_cores : (modSlot s c q i f).cores = s.cores := rfl
@[simp] theorem modSlot_vecs : (modSlot s c q i f).vecs = s.vecs := rfl
@[simp] theorem modSlot_irqOut : (modSlot s c q i f).irqOut = s.irqOut := rfl
@[simp] theorem modSlot_engines : (modSlot s c q i f).engines = s.engines := rfl
@[simp] theorem modSlot_rdc : (modSlot s c q i f).rdc = s.rdc := rfl
@[simp] theorem modSlot_tok : (modSlot s c q i f).tok = s.tok := rfl
@[simp] theorem modSlot_ctxs : (modSlot s c q i f).ctxs = s.ctxs := rfl
@[simp] theorem modSlot_rrNext : (modSlot s c q i f).rrNext = s.rrNext := rfl
@[simp] theorem modSlot_mediaQ : (modSlot s c q i f).mediaQ = s.mediaQ := rfl
@[simp] theorem modSlot_regions : (modSlot s c q i f).regions = s.regions := rfl
@[simp] theorem modSlot_xlat : (modSlot s c q i f).xlat = s.xlat := rfl
@[simp] theorem modSlot_coh : (modSlot s c q i f).coh = s.coh := rfl
@[simp] theorem modSlot_links : (modSlot s c q i f).links = s.links := rfl
@[simp] theorem modSlot_parcels : (modSlot s c q i f).parcels = s.parcels := rfl
@[simp] theorem modSlot_net : (modSlot s c q i f).net = s.net := rfl
@[simp] theorem modSlot_power : (modSlot s c q i f).power = s.power := rfl
@[simp] theorem modSlot_persist : (modSlot s c q i f).persist = s.persist := rfl
@[simp] theorem modSlot_rst : (modSlot s c q i f).rst = s.rst := rfl
@[simp] theorem modSlot_pins : (modSlot s c q i f).pins = s.pins := rfl
@[simp] theorem modSlot_uart0 : (modSlot s c q i f).uart0 = s.uart0 := rfl
@[simp] theorem modSlot_sec : (modSlot s c q i f).sec = s.sec := rfl
@[simp] theorem modSlot_evt : (modSlot s c q i f).evt = s.evt := rfl
@[simp] theorem modSlot_jtag : (modSlot s c q i f).jtag = s.jtag := rfl
@[simp] theorem modSlot_ddr : (modSlot s c q i f).ddr = s.ddr := rfl
end

section
variable (s : State) (c q i : Nat) (f : Stream → Stream)
@[simp] theorem modStream_pending : (modStream s c q i f).pending = s.pending := rfl
@[simp] theorem modStream_time : (modStream s c q i f).time = s.time := rfl
@[simp] theorem modStream_fresh : (modStream s c q i f).fresh = s.fresh := rfl
@[simp] theorem modStream_regs : (modStream s c q i f).regs = s.regs := rfl
@[simp] theorem modStream_fuses : (modStream s c q i f).fuses = s.fuses := rfl
@[simp] theorem modStream_rowFuses : (modStream s c q i f).rowFuses = s.rowFuses := rfl
@[simp] theorem modStream_rowMap : (modStream s c q i f).rowMap = s.rowMap := rfl
@[simp] theorem modStream_mem : (modStream s c q i f).mem = s.mem := rfl
@[simp] theorem modStream_near : (modStream s c q i f).near = s.near := rfl
@[simp] theorem modStream_ostore : (modStream s c q i f).ostore = s.ostore := rfl
@[simp] theorem modStream_poison : (modStream s c q i f).poison = s.poison := rfl
@[simp] theorem modStream_flaws : (modStream s c q i f).flaws = s.flaws := rfl
@[simp] theorem modStream_failedPcs : (modStream s c q i f).failedPcs = s.failedPcs := rfl
@[simp] theorem modStream_ceLog : (modStream s c q i f).ceLog = s.ceLog := rfl
@[simp] theorem modStream_scrubFrom : (modStream s c q i f).scrubFrom = s.scrubFrom := rfl
@[simp] theorem modStream_recals : (modStream s c q i f).recals = s.recals := rfl
@[simp] theorem modStream_cores : (modStream s c q i f).cores = s.cores := rfl
@[simp] theorem modStream_vecs : (modStream s c q i f).vecs = s.vecs := rfl
@[simp] theorem modStream_irqOut : (modStream s c q i f).irqOut = s.irqOut := rfl
@[simp] theorem modStream_engines : (modStream s c q i f).engines = s.engines := rfl
@[simp] theorem modStream_rdc : (modStream s c q i f).rdc = s.rdc := rfl
@[simp] theorem modStream_tok : (modStream s c q i f).tok = s.tok := rfl
@[simp] theorem modStream_ctxs : (modStream s c q i f).ctxs = s.ctxs := rfl
@[simp] theorem modStream_rrNext : (modStream s c q i f).rrNext = s.rrNext := rfl
@[simp] theorem modStream_mediaQ : (modStream s c q i f).mediaQ = s.mediaQ := rfl
@[simp] theorem modStream_regions : (modStream s c q i f).regions = s.regions := rfl
@[simp] theorem modStream_xlat : (modStream s c q i f).xlat = s.xlat := rfl
@[simp] theorem modStream_coh : (modStream s c q i f).coh = s.coh := rfl
@[simp] theorem modStream_links : (modStream s c q i f).links = s.links := rfl
@[simp] theorem modStream_parcels : (modStream s c q i f).parcels = s.parcels := rfl
@[simp] theorem modStream_net : (modStream s c q i f).net = s.net := rfl
@[simp] theorem modStream_power : (modStream s c q i f).power = s.power := rfl
@[simp] theorem modStream_persist : (modStream s c q i f).persist = s.persist := rfl
@[simp] theorem modStream_rst : (modStream s c q i f).rst = s.rst := rfl
@[simp] theorem modStream_pins : (modStream s c q i f).pins = s.pins := rfl
@[simp] theorem modStream_uart0 : (modStream s c q i f).uart0 = s.uart0 := rfl
@[simp] theorem modStream_sec : (modStream s c q i f).sec = s.sec := rfl
@[simp] theorem modStream_evt : (modStream s c q i f).evt = s.evt := rfl
@[simp] theorem modStream_jtag : (modStream s c q i f).jtag = s.jtag := rfl
@[simp] theorem modStream_ddr : (modStream s c q i f).ddr = s.ddr := rfl
end

end Sys2Proof.Laws
end

