-- ==== Sys2Proof/Tests/Slice0.lean ====
section
/-! SUPPORT. Tests: the WellFormed smoke (an ill-formed term for each check, which it refuses), small states that meet the
hypotheses of every statement, and the spec's own worked examples. -/

set_option maxRecDepth 20000
set_option linter.unusedVariables false

open Sys2Proof
open Sys2Proof.Machine
open Sys2Proof.Safety

namespace Sys2Proof.Tests

/-- A device that runs: no reset is in progress. -/
def up : State := { State.reset with rst := { State.reset.rst with kind := .none } }

/-- A device with 32 GiB in DDR channel 0 of HD0, whose core 3 runs. -/
def cpu3 : State :=
  fput (fput (fput up 16 0 Fl.DDR_POPULATION_POPULATED 1) 16 0 Fl.DDR_POPULATION_CHANNEL_GIB 32) 16 3 Fl.CORE_STATE_STATE 1

/-- A device whose root port 0 has a CXL window at the start of far memory, up. -/
def farUpSt : State :=
  fput (fput (fput cpu3 22 0 Fl.PCI_RP_CXL_ENABLE 1) 22 0 Fl.PCI_RP_CXL_SIZE_GIB 64) 22 0 Fl.PCI_RP_STATE_STATE 3

/-! ### A launch of context 5, sequence 1, with one slot on engine 0 of MD0 and one stream on context 0 of Finder 0 of MH0 -/

def slotIn (ops : List Op) : Slot := ⟨ops, 1, 1, 128, false, 0, some (0, 0), 0, List.replicate 16 0, [], .run, false⟩
def streamIn (ops : List Op) : Stream :=
  ⟨ops.map .ctl, 0, 0, some (18, 0, 0), 0, List.replicate 16 0, [], .run, false, [], [], [], []⟩
def tok0 : Token := ⟨0, 0, none, some (0, 9)⟩
def launchOf (ops : List Op) : Launch :=
  { ctx := 5, seq := 1, phase := .running, ephId := 77, budget := 10, amaxBinding := none, reportBinding := none,
    totalGranules := 1, maxLatency := 0, slots := [slotIn ops], streams := [streamIn ops], bindings := [], tokens := [tok0],
    phases := [], scales := [], pool := [], rewinds := 0, rewindReports := 0, sats := 0, errs := [], status := 0, detail := 0,
    unpinned := [], pinned := [], hist := [], ready := true, arrival := 0, reserving := false, reservedEngines := [],
    nsCharged := false, root := 0, recDone := 0, lends := [], fog := [], fogNext := 0, releases := [] }
def engSt (ops : List Op) : State :=
  { fput (fput up 0 0 Fl.ENG_BINDING_BANK 0) 0 0 Fl.ENG_WIDTH_PRESENTED_WIDTH 128 with launches := [launchOf ops], engines := [(0, { Engine.fresh with placed := some (5, 1, 0) })] }
def tokSt (v : Nat) (ws hs : List PendWait) (s : State) : State := { s with tok := [(0, ⟨[(9, ⟨5, 1, 0, v⟩)], ws, hs⟩)] }
def region0 : Region := ⟨1, 0, 0, 0, 0, [], [], false, none, none, none, [], [], 0, 0, 0⟩
def regionSt (s : State) : State := modEng s 0 0 fun y => { y with region := some region0 }
def wlOp : Op := .wload (.lit 0) (.lit 0) 6 0 0 2 2
def wl0 : Tile := (readOperand (engSt [wlOp]) 0 0 0 0 6 0 0 2 2 2 true).getD ⟨0, 0, 0, 0, 0, [], [], []⟩
def mmOp : Op := .matmul false (.lit 0) (.lit 0x10_0000) (.lit 16) 8 0 0 1
def rbOp : Op := .ribbon false (.lit 0) (.lit 0x10_0000) (.lit 16) 8 0 0 2
def wTile : Tile := ⟨8, 0, 0, 2, 2, [[4, 5], [5, 4]], [], []⟩
def mmSt : State :=
  { modEng (engSt [mmOp]) 0 0 fun y => { y with shadow := some wTile } with
    near := [(0, 3), (1, 0xFE), (1024, 0xC0), (1026, 0x80), (1027, 0x3F)] }
def aTile : Tile := ⟨8, 0, 0, 1, 2, [[3, 0xFE]], [], [(0x3F80_00C0, 0)]⟩
def rbSt : State :=
  { modEng (engSt [rbOp]) 0 0 fun y => { y with shadow := some aTile } with
    near := [(0, 3), (1, 0xFE), (1024, 0xC0), (1026, 0x80), (1027, 0x3F)] }
def rwTile : Tile := (readOperand rbSt 0 0 0 1024 8 0 0 2 2 2 false).getD wTile
def rcOp : Op := .rcLoad (.lit 2) 0 3 1 none
def bind0 : Binding := ⟨0x0800_0000_0000, 0x1000, 0, 1, false, false, 0, 0, 0, 0⟩
def rcLaunch : Launch := { launchOf [rcOp] with bindings := [bind0] }
/-- The launch's line is in the read cache of MD0, and its page in the die's translation cache. -/
def rcSt : State :=
  { fput (engSt [rcOp]) 18 0 Fl.HBM_STACK_PC_GOOD 0xFFFF_FFFF with
    launches := [rcLaunch]
    rdc := [(0, ⟨[(0x0800_0000_00C0, List.replicate 64 7)], [], []⟩)]
    xlat := { up.xlat with die := [(0, [⟨5, 0x0800_0000_0000, 4096, 0x0800_0000_0000, false⟩])] } }

/-! ### Launches and streams -/

def cmdOf (op : Nat) : Cmd :=
  { seq := 1, desc := ⟨op, 0, 0, 0, 0, 0, 0, []⟩, dispatched := true, done := 0, page := .check, moved := 0, pipe := none, entry := [],
    frames := 0, outBytes := 0, blocking := false, stalled := none, denied := none, events := false, finder := none,
    result := none, accepted := false }
def ctxSt (op : Nat) (s : State) : State :=
  { s with ctxs := [(5, { Ctx.fresh with state := 1, cmds := [cmdOf op], cmdRing := 0x2006, cplRing := 0x4006 })] }
/-- The launch of context 5 in a phase, with its slot not placed. -/
def phaseLaunch (p : Phase) : Launch :=
  { launchOf [.end_] with phase := p, slots := [{ slotIn [.end_] with at_ := none }], streams := [], tokens := [], totalGranules := 0 }
def phaseSt (p : Phase) : State := { ctxSt 1 (fput up 24 0 Fl.DIE_PARTITION_MODE 2) with launches := [phaseLaunch p] }
def mvWord : MoveWord := ⟨true, 0, 0, true, 0, 256, 2, 8, 8, 0, 0, none, none, none, 0, 0, false⟩
def mv0 : Move := ⟨0, mvWord, 0, 256, 4096, [], false, true, false, false, false, 0⟩
def mvStream (ms : List Move) : Stream := { streamIn [] with words := [.move mvWord, .ctl .end_], staging := 4, window := ms }
def mvLaunch (ms : List Move) : Launch := { launchOf [.end_] with streams := [mvStream ms] }
def mvSt (ms : List Move) : State := { engSt [.end_] with launches := [mvLaunch ms], near := [(1, 5), (9, 6)] }
def allHeld (s : State) : State :=
  { s with engines := (List.range 68).map fun i => (i, { Engine.fresh with retiring := true }) }
def errLaunch : Launch := { launchOf [.end_] with errs := [(0x0402, 11), (0x0301, 0)] }
def doneLaunch : Launch :=
  { launchOf [.end_] with slots := [{ slotIn [.end_] with finished := true }], streams := [{ streamIn [.end_] with finished := true }] }
def cnStream : Stream := { mvStream [{ mv0 with marks := [0] }] with marks := [0], inbox := [(0, true)] }
def cnLaunch : Launch := { mvLaunch [] with streams := [cnStream] }
/-- A move into near store from a writable binding in a tiered region of context 5. -/
def ldWord : MoveWord := ⟨false, 0, 0, true, 0, 0, 2, 8, 8, 0, 0, none, none, none, 0, 0, false⟩
def ldEntry : BitVec 64 := 0x9000_0000_0000_0004
def ldRegion : TRegion := ⟨5, 0, 0x20_0000, false, [ldEntry]⟩
def ldStream : Stream := { streamIn [] with words := [.move ldWord, .ctl .end_], staging := 4 }
def ldLaunch : Launch := { launchOf [.end_] with streams := [ldStream], bindings := [⟨0x20_0000, 4096, 8, 0, true, false, 8, 255, 0, 0⟩] }
def ldSt : State := { engSt [.end_] with launches := [ldLaunch], regions := [ldRegion] }

/-! ### Contexts and commands -/

/-- Context 5 with three valid rings of 64 slots in DDR, DISABLED. -/
def ringSt : State :=
  { cpu3 with ctxs := [(5, { Ctx.fresh with cmdRing := 0x2006, cplRing := 0x4006, evtRing := 0x6006 })] }
def runCtx (s : State) : State :=
  modCtx s 5 fun x => setCtxState { x with attr := fldSet Fl.QFE_CTX_ATTR_ENABLE x.attr 1 } 1
/-- A SYNC with stamp 0 waits in the ring of context 5. -/
def fetchSt : State := modCtx { runCtx ringSt with mem := [(0x2000, 6)] } 5 fun x => { x with tail := 1 }
def readBack : List Byte := 6 :: List.replicate 31 0
/-- A SET_QUOTAS of 9 for tier 1 of context 5. -/
def quotaDesc : List Byte := [4, 0, 0, 0, 5, 0, 2, 0, 0, 0, 0, 0, 9] ++ List.replicate 19 0
/-- A list entry that moves 8 bytes from 0x10100 to 0x10200. -/
def entryMem : Memory :=
  [(0x10001, 1), (0x10002, 1), (0x10009, 2), (0x1000A, 1), (0x10010, 8), (0x10014, 8), (0x10018, 1), (0x1001A, 8), (0x1001C, 8),
    (0x10100, 7)]
def entryBytes : List Byte := memReadN entryMem 0x10000 64
def entrySt : State :=
  { cpu3 with
    mem := entryMem
    xlat := { cpu3.xlat with hub := [(18, [⟨5, 0x10000, 0x10000, 0x10000, true⟩])] }
    ctxs := [(5, { Ctx.fresh with cmds := [{ cmdOf 2 with finder := some 0, desc := ⟨2, 0, 0, 2, 0x10000, 0, 0, []⟩ }] })] }
/-- A MOVE_PAGES entry at 0x10000: page 0x20_0000 of context 5 to DDR frame 2. -/
def mpDst : BitVec 64 := 0x9000_0000_0000_0002
def mpMem : Memory := [(0x10002, 0x20), (0x10008, 2), (0x1000F, 0x90)]
def mpEntry : List Byte := memReadN mpMem 0x10000 16
def mpCmd (p : PageStep) : Cmd := { cmdOf 3 with desc := ⟨3, 0, 0, 2, 0x10000, 0, 0, []⟩, page := p }
def mpSt (p : PageStep) : State :=
  { cpu3 with
    mem := mpMem
    xlat := { cpu3.xlat with hub := [(18, [⟨5, 0x10000, 0x10000, 0x10000, true⟩])] }
    regions := [ldRegion]
    ctxs := [(5, { Ctx.fresh with cmds := [mpCmd p], quota := [4, 4, 4, 4, 4], used := [1, 1, 1, 1, 1], cplRing := 0x4006 })] }
/-- A move from a far page of context 5. -/
def farMv : Move := ⟨0, ldWord, 0, 0, 4096, [], false, true, false, false, false, 0⟩
def farLaunch : Launch :=
  { ldLaunch with streams := [{ streamIn [] with words := [.move ldWord, .ctl .end_], staging := 4, window := [farMv] }] }
def farSt : State := { engSt [.end_] with launches := [farLaunch], regions := [{ ldRegion with pages := [0xA000_0000_0000_4000] }] }
def okSt (x : Except Nat State) : State := match x with
  | .ok s => s
  | .error _ => up
/-- A hub that can declare a region of one page for context 5. -/
def dcSt : State :=
  fput (fput (fput { mpSt .check with regions := [] } 18 0 Fl.TIER_REGION_LIST_PA 0x2001) 18 0 Fl.TIER_REGION_VA_VA 1)
    18 0 Fl.TIER_CATALOG_SIZE 1

/-! ### Walks and faults -/

def wk0 : Walk := ⟨5, 0, 0x1000, [(.cmd 5 1, false)], false⟩
def wkSt : State := { ctxSt 2 cpu3 with xlat := { cpu3.xlat with walks := [wk0] } }
def ringOn (s : State) : State := fput s 16 0 Fl.WLK_FAULT_RING_ENABLE 1
/-- A walk of context 5 whose root table lies in no memory. -/
def wkE : Walk := ⟨5, 0x000F_FFFF_FFFF_F000, 0x1000, [(.cmd 5 1, false)], false⟩
def wkErr : State := ringOn { ctxSt 2 cpu3 with xlat := { cpu3.xlat with walks := [wkE] } }
def fr0 : FaultRec := ⟨7, 5, 0x1000, 1, 1, [.cmd 5 1], 0, 0, 2, 0, true⟩
def frSt : State :=
  { cpu3 with
    xlat := { cpu3.xlat with faults := [fr0], hub := [(18, [⟨5, 0x1000, 4096, 0x9000, true⟩, ⟨5, 0x3000, 4096, 0xA000, true⟩])] }
    ctxs := [(5, { Ctx.fresh with cmds := [{ cmdOf 2 with stalled := some 0x1000 }] })] }

/-! ### Homes and memory controllers -/

def homeSt (dir : List DirEntry) : State := putHome cpu3 16 { Home.fresh with dir := dir }
def mLine : CacheLine := ⟨0x2040, .m, List.replicate 64 6⟩
/-- Core 3 holds line 0x2040 modified, and an invalidating probe of it is on its way. -/
def probeSt : State :=
  let s := putCore (homeSt [⟨0x2040, true, 1⟩]) 16 3 { Core.fresh with l2 := [mLine] }
  { s with coh := { s.coh with probes := [⟨16, 0, 0x2040, true, false⟩] } }
def npTxn : Txn := ⟨0x2040, bareReq cRdOwn 0x2040 2 0x9001 .none, [0, 1], [], false⟩
def npSt : State :=
  let s := putHome cpu3 16 { Home.fresh with dir := [⟨0x2040, false, 3⟩], txns := [npTxn] }
  { s with coh := { s.coh with resps := [⟨16, 0, 0x2040, .notPresent, false⟩] } }
def prSt : State :=
  let s := putHome cpu3 16 { Home.fresh with dir := [⟨0x2040, false, 2⟩], txns := [⟨0x2040, bareReq cRdOwn 0x2040 0 0x8103 .none, [1], [], false⟩] }
  { s with coh := { s.coh with resps := [⟨16, 1, 0x2040, .clean false, false⟩] } }
/-- A device whose HBM stack 0 to 3 work. -/
def hbmUp : State := (List.range 4).foldl (fun s k => fput s 18 k Fl.HBM_STACK_PC_GOOD 0xFFFF_FFFF) up

/-! ### Links and power -/

/-- Ports 2 and 0 of hub 18 are up. -/
def lnkUp : State := fput up 18 2 Fl.LNK_PORT_STATE_STATE 2
def lnkUp0 : State := fput up 18 0 Fl.LNK_PORT_STATE_STATE 2
/-- The bytes before the CRC of an idle flit that acknowledges SEQ 0. -/
def ackBody : List Byte := [0, 0x20] ++ List.replicate 246 0
def ackFlit : List Byte := ackBody ++ leBytes 8 (crc64 ackBody).toNat
def badFlit : List Byte := List.replicate 248 0 ++ [1, 0, 0, 0, 0, 0, 0, 0]

theorem crc64_zeros (n : Nat) : crc64 (List.replicate n 0) = 0 := by
  have h : ∀ l : List Bool, (∀ b ∈ l, b = false) → l.foldl (fun (c : BitVec 64) b =>
      if c.getLsbD 63 != b then (c <<< 1) ^^^ 0x42F0_E1EB_A9EA_3693#64 else c <<< 1) 0 = 0 := by
    intro l
    induction l with
    | nil => simp
    | cons a r ih =>
      intro hl
      have ha := hl a (by simp)
      subst ha
      have := ih fun b hb => hl b (by simp [hb])
      simpa using this
  unfold crc64
  apply h
  intro b hb
  simp only [List.mem_flatMap, List.mem_replicate] at hb
  obtain ⟨x, ⟨-, rfl⟩, hb⟩ := hb
  revert b
  decide

theorem zero_flit_crc : flitCrcOk (List.replicate 256 0) = true := by
  have h : (List.replicate 256 (0 : Byte)).take 248 = List.replicate 248 0 := by decide
  have g : imgNum (List.replicate 256 0) 248 8 = 0 := by decide
  unfold flitCrcOk
  rw [h, g, crc64_zeros]
  rfl

theorem bad_flit_crc : flitCrcOk badFlit = false := by
  have h : badFlit.take 248 = List.replicate 248 0 := by decide
  have g : imgNum badFlit 248 8 = 1 := by decide
  unfold flitCrcOk
  rw [h, g, crc64_zeros]
  rfl

theorem leNat_leBytes (n v : Nat) : leNat (leBytes n v) = v % 256 ^ n := by
  induction n generalizing v with
  | zero => simp [leBytes, leNat, Nat.mod_one]
  | succ n ih =>
    have := Nat.mod_mul (x := v) (a := 256) (b := 256 ^ n)
    simp only [leBytes, leNat, ih, BitVec.toNat_ofNat]
    have e : 256 ^ (n + 1) = 256 * 256 ^ n := Nat.pow_succ'
    rw [e, this]

theorem leBytes_length (n v : Nat) : (leBytes n v).length = n := by
  induction n generalizing v with
  | zero => rfl
  | succ n ih => simp [leBytes, ih]

theorem ack_flit_crc : flitCrcOk ackFlit = true := by
  have hb : ackBody.length = 248 := by decide
  have h : ackFlit.take 248 = ackBody := by
    rw [ackFlit, ← hb, List.take_left]
  have g : imgNum ackFlit 248 8 = (crc64 ackBody).toNat := by
    rw [imgNum, ackFlit, ← hb, List.drop_left, List.take_of_length_le (by simp), leNat_leBytes]
    exact Nat.mod_eq_of_lt (crc64 ackBody).isLt
  unfold flitCrcOk
  rw [h, g]
  simp

def sent0 : SentFlit := ⟨List.replicate 256 0, 1, none⟩
/-- Both ends of port 0 of hub 18 have recorded the same maps. -/
def bothRec : State :=
  let x : LinkPort := { LinkPort.fresh with ownMap := some (List.replicate 60 true), record := some (List.replicate 60 true) }
  putLnk (putLnk lnkUp0 18 0 x) (lnkPeer 18 0).1 (lnkPeer 18 0).2 x
def frame0 : TrainFrame := ⟨List.replicate 60 true, none, 2⟩
/-- Port 0 of hub 18 retrains; it has sent its frame, and the other end has computed its good set. -/
def trainSt (g : Option (List Bool)) : State :=
  putLnk (putLnk (fput lnkUp0 18 0 Fl.LNK_PORT_STATE_STATE 3) 18 0 { LinkPort.fresh with frame := some frame0 })
    (lnkPeer 18 0).1 (lnkPeer 18 0).2 { LinkPort.fresh with good := g }

/-! ### Networks -/

/-- A queue pair of context 5 on port 0 with `n` requests posted from the start of its ring. -/
def qpOf (n : Nat) : Qp :=
  { parseQp (List.replicate 256 0) 0x2_0000 with
    context := 5, sqVa := 0x10000, sqLog2 := 6, rqLog2 := 6, cqLog2 := 6, rKey := 9, rqVa := 0x14000, cqPa := 0x4_0000,
    winVa := 0x18000, winLen := 64, tail := n }
/-- Port 0 of PD0 is up for Ethernet, and a 64 KiB page of context 5 is translated. -/
def ethSt (mem : Memory) (q : Qp) : State :=
  let s := { cpu3 with mem := mem, xlat := { cpu3.xlat with hub := [(18, [⟨5, 0x10000, 0x10000, 0x10000, true⟩])] } }
  putQp (fput s 22 0 Fl.NET_PORT_STATE_STATE 2) 22 3 q
/-- The request at the head of the ring: opcode `op`, 8 bytes at 0x10100. -/
def wqMem (op : Byte) : Memory := [(0x10000, op), (0x10004, 8), (0x10009, 1), (0x1000A, 1), (0x10100, 7)]
def wqBytes (op : Byte) : List Byte := memReadN (wqMem op) 0x10000 64
/-- A queue pair's record at 0x2_0000 in DDR. -/
def qpMem : Memory := [(0x2_0000, 5), (0x2_0038, 6), (0x2_0039, 6), (0x2_003A, 6), (0x2_004A, 4)]
/-- Device 7 of job 3, with a route to device 9 by port 1, which is up in Agaelen mode; it exports DDR from 0 GiB on. -/
def fabSt : State :=
  let s := fput (fput (fput cpu3 22 0 Fl.NET_DEVICE_DEVICE_ID 7) 22 1 Fl.NET_PORT_STATE_STATE 2) 22 1 Fl.NET_PORT_CFG_MODE 1
  let s := fput (fput s 22 0 Fl.NET_EXPORT_ENABLE 1) 22 0 Fl.NET_EXPORT_LAST_GIB 31
  let s := fput (fput s 24 0 Fl.PWR_JOB_CTL_ENABLE 1) 24 0 Fl.PWR_JOB_CTL_JOB_ID 3
  { s with net := { s.net with routes := [(22 * 4096 + 9, 0x8100_0300_0000_0000)] } }
/-- A frame from device 9 to device 7, first on its hop. -/
def fr (arg : BitVec 64) (payload : List Byte) : Frame := ⟨9, 7, 2, 0, 0, 4, arg, payload⟩
def txOf (k tries : Nat) : TxFrame := ⟨k, fr 0 [], tries⟩
def reqOf (kind : Nat) (r : Requester) : RemoteReq := ⟨4, kind, 9, r, 0, false, [], 0⟩
def awaitSt (kind : Nat) (r : Requester) (s : State) : State := { s with net := { s.net with remotes := [reqOf kind r] } }
def fabWait : State :=
  let s := awaitSt kWait (.agent (.engine 0 0) 5 1) fabSt
  { s with
    launches := [{ launchOf [.end_, .end_] with slots := [{ slotIn [.end_, .end_] with hold := .remote 0 4 }] }]
    engines := [(0, { Engine.fresh with placed := some (5, 1, 0) })] }
/-- Root port 0 is up and serves the first 32 GiB. -/
def rpSt : State := fput (fput (fput cpu3 22 0 Fl.PCI_RP_STATE_STATE 2) 22 0 Fl.PCI_RP_DMA_LAST_GIB 31) 22 0 Fl.PCI_BIFURCATION_HALF0 1

/-! ### Media -/

/-- A media entry: 16 by 16 pixels, one frame, input at 0x11000, output at 0x12000, scratch enough. -/
def mEntry (op inBytes : Nat) : List Byte :=
  leBytes 1 op ++ List.replicate 3 0 ++ leBytes 4 1 ++ leBytes 8 0x11000 ++ leBytes 8 inBytes ++ leBytes 8 0x12000 ++
    leBytes 8 0x1000 ++ leBytes 8 0x14000 ++ leBytes 8 0x4000 ++ leBytes 2 16 ++ leBytes 2 16 ++ List.replicate 68 0
/-- The same entry as memory at 0x10000. -/
def mEntryMem (op : Nat) : Memory :=
  [(0x10000, BitVec.ofNat 8 op), (0x10004, 1), (0x10009, 0x10), (0x1000A, 1), (0x10010, 8), (0x10019, 0x20), (0x1001A, 1),
    (0x10021, 0x10), (0x10029, 0x40), (0x1002A, 1), (0x10031, 0x40), (0x10038, 16), (0x1003A, 16)]
def mCmd : Cmd := { cmdOf 5 with finder := some 0, desc := ⟨5, 0, 0, 128, 0x10000, 0, 0, []⟩ }
def medSt (mem : Memory) (k : Cmd) : State :=
  { cpu3 with
    mem := mem
    xlat := { cpu3.xlat with hub := [(18, [⟨5, 0x10000, 0x10000, 0x10000, true⟩])] }
    ctxs := [(5, { Ctx.fresh with cmds := [k] })] }
/-- Pipeline `i` of PD0 works on the command's entry. -/
def pipeSt (i : Nat) (e : List Byte) : State :=
  fput (medSt [] { mCmd with pipe := some (22, i), entry := e }) 22 i Fl.MED_PIPE_STATE 1

/-! ### Security and the persistent array -/

/-- A request for a report of MR0, of capacity 1,024 at 0x12000. -/
def attReq : List Byte := leBytes 2 1 ++ leBytes 2 1 ++ List.replicate 52 0 ++ leBytes 8 0x12000 ++ leBytes 8 1024
def attMem : Memory := [(0x10000, 1), (0x10002, 1), (0x10039, 0x20), (0x1003A, 1), (0x10041, 4)]
def attCmd : Cmd := { cmdOf 7 with desc := ⟨7, 0, 0, 72, 0x10000, 0, 0, []⟩ }
def attSt (k : Cmd) (l : List (Nat × Nat)) : State := { medSt attMem k with sec := { up.sec with attests := l } }
def updSt : State := fput cpu3 24 0 Fl.SEC_UPDATE_LEN_VALUE 256

/-! ### Resets -/

/-- A device that runs with power: contexts, memory and registers hold something. -/
def runSt : State :=
  { ringSt with
    mem := [(5, 1), (0x0800_0000_0000, 2)]
    pins := { up.pins with pwrGood := true, sysRstDriven := false }
    persist := [(100, ⟨3, some 7, 1, false⟩)] }
/-- A system reset is in progress and waits for its start. -/
def sysSt : State :=
  { up with
    rst := { up.rst with kind := .system }
    pins := { up.pins with pwrGood := true, sysRstDriven := true } }
def plate0 : Plate := ⟨none, none, none, none, none, none, none, none, none, none, [], [(16, 0)], 0x1000, none⟩
/-- An image of 64 bytes of body and a trailer of key slot 0, counter 0 and SVN 5, which a plate's length field agrees with. -/
def bytes0 : List Byte :=
  leBytes 4 64 ++ List.replicate 60 0 ++ leBytes 4 0x4B4D5347 ++ leBytes 4 5 ++ List.replicate 4 0 ++ leBytes 4 64 ++ List.replicate 240 0
def image0 : PlateImage := ⟨plate0, bytes0, true⟩
def find0 : Findings := ⟨[], [], [], [], [], [], [], [], []⟩
def ddr0 : DdrFound := ⟨0xFF, 0xFF, 32, 6400, 1, 1, true, true⟩
def boot0 : BootInput :=
  ⟨List.replicate 16 1800, true, true, 0xF, some image0, none, none, List.replicate 25 1, find0, ddr0, [], false, [1, 2, 3, 4]⟩
/-- A system reset of a unit whose key slot 0 holds the digest of the image's key. -/
def bootSt : State :=
  { sysSt with
    fuses := [(regKey 24 .secStatus 0, 0x0300)]
    sec := { sysSt.sec with keys := [(0, Config.sha384 (imageKey bytes0))] } }

theorem image0_good : plateCheck bootSt image0 = 0 := by
  have f : imageFormat bytes0 = true := by decide
  have l : (leNat (slice bytes0 0 4) + 256 == bytes0.length) = true := by decide
  have n : imageSlot bytes0 = 0 := by decide
  have c : imageCounter bytes0 = 0 := by decide
  have p : slotProgrammed bootSt 0 = true := by decide
  have r : slotRevoked bootSt 0 = false := by decide
  have d : slotDigest bootSt 0 = Config.sha384 (imageKey bytes0) := rfl
  have v : ¬ imageSvn bytes0 < rollback bootSt 0 := by decide
  simp [plateCheck, imageCheck, image0, f, l, n, c, p, r, d, v]

theorem plate0_chosen : choosePlate (plateSource bootSt false).2 boot0 (plateSource bootSt false).1 = .ok (0, image0, false) := by
  have s : plateSource bootSt false = (0, bootSt) := rfl
  have g : goodPlate bootSt (some image0) = some image0 := by simp [goodPlate, Option.filter, image0_good]
  rw [s]
  simp [choosePlate, boot0, g]

/-- Core 3 of HD0 has a store in its buffer while a core reset is in progress. -/
def coreRst : State :=
  { putCore cpu3 16 3 { Core.fresh with stores := [⟨0x40, [1], true, false⟩] } with rst := { up.rst with kind := .core, bootCores := [(16, 3)] } }

/-! ### Registers, service and events -/

/-- The retirement of engine 5 of MD0 has been accepted. -/
def retSt : State :=
  modEng (fput (fput (fput runSt 24 0 Fl.DBG_SERVICE_OP 1) 24 0 Fl.DBG_SERVICE_ARG (unitId 0 1 5)) 24 0 Fl.DBG_SERVICE_BUSY 1)
    0 5 fun x => { x with retiring := true }
def ev0 : Event := ⟨7, 0x0F30, 1, 5, 0, 9⟩
/-- The log is on with its base at 0, and an interrupt for every severity. -/
def logSt : State :=
  let s := fput (fput (fput cpu3 24 0 Fl.EVT_LOG_ENABLE 1) 24 0 Fl.EVT_IRQ_ENABLE 1) 24 0 Fl.EVT_IRQ_VECTOR 77
  { s with evt := ⟨[ev0], [], 0⟩ }
def tapSt : State := fput up 24 0 Fl.DBG_CTL_EYEPIECE_EN 1
def tapRst : State := { tapSt with pins := { tapSt.pins with sysRstDriven := true } }

/-! ### More states -/

/-- A prepared launch whose placement report goes to a translated page. -/
def reportSt : State :=
  { ctxSt 1 (fput cpu3 24 0 Fl.DIE_PARTITION_MODE 2) with
    launches := [{ phaseLaunch .preparing with reportBinding := some 0, bindings := [⟨0x10000, 4096, 8, 0, true, false, 8, 255, 0, 0⟩] }]
    xlat := { up.xlat with hub := [(18, [⟨5, 0x10000, 0x10000, 0x10000, true⟩])] } }
/-- A move at the front of the window whose pages are still to be lent. -/
def ldMove : Move := ⟨0, ldWord, 0, 0, 4096, [], false, false, false, false, false, 0⟩
def lendStream : Stream := { ldStream with window := [ldMove] }
def lendLaunch : Launch := { ldLaunch with streams := [lendStream] }
def lendSt : State := { ldSt with launches := [lendLaunch] }
/-- The state of `rcSt` after its line has been read from the cache. -/
def rcAfter : State :=
  let p := rcParts 0 (eaddr (slotIn [rcOp]).cursors (.lit 2)) (bind0.va + 64 * 3) 1
  let u := rcLines rcSt (.agent (.engine 0 0) 5 1) 0 5 (ctxPart rcSt 5) (p.map (·.1))
  (List.zip [0x0800_0000_00C0] (p.map (·.2))).zipIdx.foldl
    (fun s t => rcLine s 0 t.1.1 t.1.2 (.agent (.engine 0 0) 5 1) (([[Ecc.ce]][t.2]?).getD []))
    (touchRange u.2 5 (pageChunks (bind0.va + 64 * 3) 64))


/-! The hypotheses of every statement are met together by the state and operands named here. -/

theorem witness_StepRunsFrontCommand_1 :
    ∃ (c : Instr) (r : List Instr) (s : State), s.pending = c :: r := ⟨.bypass, [], { up with pending := [.bypass] }, rfl⟩

theorem witness_StepRunsFrontCommand_2 :
    ∃ s : State, s.pending = [] ∧ busyCores s = [] ∧ (∀ d c, coreRuns s d c = false) ∧ s.sec.attests = [] ∧ ∀ q ∈ s.net.qps, q.2.held = [] := ⟨State.reset, by decide, by decide, fun d c => by simp [coreRuns, State.reset], by decide, by decide⟩

theorem witness_CoreSeesItsBuffers_1 :
    ∃ (d c a size : Nat) (v : BitVec 64) (s : State),
    (coreRuns s d c = true) ∧
    (normalKind (paKind s a) = true) ∧
    ((getCore s d c).queue = []) ∧
    (loadsOut (getCore s d c) = false) ∧
    ((getCore s d c).stnt.find? (fun x => x.line == lineOf a) = none) ∧
    (size = 1 ∨ size = 2 ∨ size = 4 ∨ size = 8) ∧
    (a % size = 0) :=
  ⟨16, 3, 0x1000, 8, 0x1122, cpu3, by decide⟩

theorem witness_CoreSeesItsBuffers_2 :
    ∃ (d c a size : Nat) (v : BitVec 64) (s : State),
    (coreRuns s d c = true) ∧
    (normalKind (paKind s a) = true) ∧
    ((getCore s d c).queue = []) ∧
    (loadsOut (getCore s d c) = false) ∧
    ((getCore s d c).misses.any (fun m => m.line == lineOf a) = false) ∧
    ((getCore s d c).stores.any (fun b => lineOf b.addr == lineOf a) = false) ∧
    ((getCore s d c).stnt.find? (fun x => x.line == lineOf a) = none) ∧
    ((getCore s d c).stnt.length < 16) ∧
    (size = 1 ∨ size = 2 ∨ size = 4 ∨ size = 8) ∧
    (a % size = 0) :=
  ⟨16, 3, 0x1008, 8, 0x1122, cpu3, by decide⟩

theorem witness_CoreSeesItsBuffers_3 :
    ∃ (d c a size : Nat) (v : BitVec 64) (r p : Bool) (l : List BufStore) (s : State),
    (coreRuns s d c = true) ∧
    (normalKind (paKind s a) = true) ∧
    ((getCore s d c).queue = []) ∧
    ((getCore s d c).stnt.find? (fun x => x.line == lineOf a) = none) ∧
    ((getCore s d c).stores = l ++ [⟨a, leBytes size v.toNat, r, p⟩]) ∧
    (size = 1 ∨ size = 2 ∨ size = 4 ∨ size = 8) ∧
    (a % size = 0) ∧
    (v.toNat < 2 ^ (8 * size)) :=
  ⟨16, 3, 0x1008, 8, 0x1122, true, false, [], putCore cpu3 16 3 { Core.fresh with stores := [⟨0x1008, leBytes 8 0x1122, true, false⟩] }, by decide⟩

theorem witness_CoreSeesItsBuffers_4 :
    ∃ (d c a size : Nat) (x : CacheLine) (s : State),
    (coreRuns s d c = true) ∧
    (paKind s a = .ddr) ∧
    ((getCore s d c).queue = []) ∧
    ((getCore s d c).stnt.find? (fun x => x.line == lineOf a) = none) ∧
    ((getCore s d c).stores.any (fun b => lineOf b.addr == lineOf a) = false) ∧
    (l2Find s d c (lineOf a) = some x) ∧
    (x.data.length = 64) ∧
    (lineWaits (getCore s d c) (lineOf a) = false) ∧
    (size = 1 ∨ size = 2 ∨ size = 4 ∨ size = 8) ∧
    (a % size = 0) :=
  ⟨16, 3, 0x2048, 8, mLine, putCore cpu3 16 3 { Core.fresh with l2 := [mLine] }, by decide⟩

theorem witness_CoreSeesItsBuffers_5 :
    ∃ (d c : Nat) (a n : Nat) (s : State),
    (coreRuns s d c = false) :=
  ⟨16, 4, 0, 8, cpu3, by decide⟩

theorem witness_CoreSeesItsBuffers_6 :
    ∃ (d c a n : Nat) (s : State),
    (coreRuns s d c = true) ∧
    ((getCore s d c).queue = []) ∧
    (isDevice s a = false) :=
  ⟨16, 3, 0x1008, 8, cpu3, by decide⟩

theorem witness_CoreSeesItsBuffers_7 :
    ∃ (d c a n : Nat) (v : BitVec 64) (s : State),
    (coreRuns s d c = true) ∧
    ((getCore s d c).queue = []) ∧
    (isDevice s a = false) :=
  ⟨16, 3, 0x1008, 8, 7, cpu3, by decide⟩

theorem witness_CoreSeesItsBuffers_8 :
    ∃ (d c a n : Nat) (v : BitVec 64) (s : State),
    (coreRuns s d c = true) ∧
    ((getCore s d c).queue = []) ∧
    (isDevice s a = false) ∧
    ((normalStnt s d c a n v).1 = true) :=
  ⟨16, 3, 0x1008, 8, 7, cpu3, by decide⟩

theorem witness_CoreSeesItsBuffers_9 :
    ∃ (d c a n : Nat) (s : State),
    (coreRuns s d c = true) ∧
    ((getCore s d c).queue = []) ∧
    (isDevice s a = true) ∧
    (deviceWaits s (getCore s d c) = false) ∧
    (loadsOut (getCore s d c) = false) ∧
    (mayRetire s d c = true) :=
  ⟨16, 3, 0x3F80_0000_0040, 8, putCore rpSt 16 3 { Core.fresh with stores := [⟨0x2000, [1], false, false⟩] }, by decide⟩

theorem witness_CoreSeesItsBuffers_10 :
    ∃ (d c a n : Nat) (v : BitVec 64) (s : State),
    (coreRuns s d c = true) ∧
    ((getCore s d c).queue = []) ∧
    (isDevice s a = true) ∧
    (deviceWaits s (getCore s d c) = false) ∧
    (loadsOut (getCore s d c) = false) ∧
    (mayRetire s d c = true) :=
  ⟨16, 3, 0x3F80_0000_0040, 8, 7, putCore rpSt 16 3 { Core.fresh with stores := [⟨0x2000, [1], false, false⟩] }, by decide⟩

theorem witness_CoreSeesItsBuffers_11 :
    ∃ (d c a n : Nat) (v : BitVec 64) (s : State),
    (coreRuns s d c = true) ∧
    ((getCore s d c).queue = []) ∧
    (isDevice s a = true) ∧
    (deviceWaits s (getCore s d c) = false) ∧
    (loadsOut (getCore s d c) = false) ∧
    (mayRetire s d c = true) :=
  ⟨16, 3, 0x3F80_0000_0040, 8, 7, putCore rpSt 16 3 { Core.fresh with stores := [⟨0x2000, [1], false, false⟩] }, by decide⟩

theorem witness_CoreSeesItsBuffers_12 :
    ∃ (d c a size : Nat) (s : State),
    (coreRuns s d c = true) ∧
    ((getCore s d c).queue = []) ∧
    (c < 100) ∧
    (paKind s a = .hole) ∧
    (a < 2 ^ 48) ∧
    (spanMask (a % 64) size &&& ~~~(ownBytes (getCore s d c) (lineOf a)).1 ≠ 0) :=
  ⟨16, 3, 0x0500_0000_0000, 8, cpu3, by decide⟩

theorem witness_CoreSeesItsBuffers_13 :
    ∃ (d c a : Nat) (bs : List Byte) (r : Bool) (s : State),
    (coreRuns s d c = true) ∧
    ((getCore s d c).queue = []) ∧
    (c < 100) ∧
    (paKind s a = .hole) ∧
    (a < 2 ^ 48) ∧
    ((getCore s d c).stores = [⟨a, bs, r, false⟩]) ∧
    ((getCore s d c).stnt = []) ∧
    (lineWaits (getCore s d c) (lineOf a) = false) ∧
    (ntOpen s d c = false) ∧
    (s.coh.returned = []) :=
  ⟨16, 3, 0x0500_0000_0000, [1], true, putCore cpu3 16 3 { Core.fresh with stores := [⟨0x0500_0000_0000, [1], true, false⟩] }, by decide⟩

theorem witness_BarriersDrainAndTakeErrors_1 :
    ∃ (d c : Nat) (s : State),
    (coreRuns s d c = true) ∧
    ((getCore s d c).queue = []) :=
  ⟨16, 3, cpu3, by decide⟩

theorem witness_BarriersDrainAndTakeErrors_2 :
    ∃ (d c : Nat) (s : State),
    (coreRuns s d c = true) ∧
    ((getCore s d c).queue = []) ∧
    ((getCore s d c).stores = []) ∧
    ((getCore s d c).stnt = []) ∧
    (loadsOut (getCore s d c) = false) ∧
    (ntOpen s d c = false) ∧
    (s.coh.returned = []) :=
  ⟨16, 3, cpu3, by decide⟩

theorem witness_BarriersDrainAndTakeErrors_3 :
    ∃ (d c : Nat) (s : State),
    (coreRuns s d c = true) ∧
    ((getCore s d c).queue = []) ∧
    ((getCore s d c).stores = []) ∧
    ((getCore s d c).stnt = []) ∧
    (s.coh.returned = []) ∧
    (loadsOut (getCore s d c) = true) :=
  ⟨16, 3, putCore cpu3 16 3 { Core.fresh with waiting := [⟨0x1000, 8, 0, []⟩] }, by decide⟩

theorem witness_BarriersDrainAndTakeErrors_4 :
    ∃ (d c a : Nat) (s : State),
    (coreRuns s d c = true) ∧
    ((getCore s d c).queue = []) ∧
    ((getCore s d c).stores = []) ∧
    ((getCore s d c).stnt = []) ∧
    ((getCore s d c).storeError = some a) ∧
    (ntOpen s d c = false) ∧
    (s.coh.returned = []) :=
  ⟨16, 3, 7, putCore cpu3 16 3 { Core.fresh with storeError := some 7 }, by decide⟩

theorem witness_BarriersDrainAndTakeErrors_5 :
    ∃ (d c a : Nat) (bs : List Byte) (r : Bool) (x : CacheLine) (s : State),
    (coreRuns s d c = true) ∧
    ((getCore s d c).queue = []) ∧
    (paKind s a = .ddr) ∧
    ((getCore s d c).stores = [⟨a, bs, r, false⟩]) ∧
    ((getCore s d c).stnt = []) ∧
    ((getCore s d c).storeError = none) ∧
    (l2Find s d c (lineOf a) = some x) ∧
    (x.st ≠ .s) ∧
    (lineWaits (getCore s d c) (lineOf a) = false) ∧
    (ntOpen s d c = false) ∧
    (s.coh.returned = []) :=
  ⟨16, 3, 0x2048, [1], true, mLine, putCore cpu3 16 3 { Core.fresh with l2 := [mLine], stores := [⟨0x2048, [1], true, false⟩] }, by decide⟩

theorem witness_BarriersDrainAndTakeErrors_6 :
    ∃ (d c : Nat) (s : State),
    (coreRuns s d c = true) ∧
    ((getCore s d c).queue = []) ∧
    (loadsOut (getCore s d c) = false) :=
  ⟨16, 3, cpu3, by decide⟩

theorem witness_BarriersDrainAndTakeErrors_7 :
    ∃ (d c : Nat) (s : State),
    (coreRuns s d c = true) ∧
    ((getCore s d c).queue = []) ∧
    (loadsOut (getCore s d c) = true) :=
  ⟨16, 3, putCore cpu3 16 3 { Core.fresh with waiting := [⟨0x1000, 8, 0, []⟩] }, by decide⟩

theorem witness_BarriersDrainAndTakeErrors_8 :
    ∃ (d c : Nat) (b : BufStore) (s : State),
    ((getCore s d c).waiting.find? (fun w => paKind s w.addr == .far) = none) ∧
    ((getCore s d c).misses.find? (fun m => !m.isStore && paKind s m.addr == .far) = none) ∧
    ((getCore s d c).stores.find? (fun b => paKind s b.addr == .far) = some b) :=
  ⟨16, 3, ⟨0x1000_0000_0040, [1], true, false⟩, putCore farUpSt 16 3 { Core.fresh with stores := [⟨0x1000_0000_0040, [1], true, false⟩] }, by decide⟩

theorem witness_BarriersDrainAndTakeErrors_9 :
    ∃ (d c : Nat) (s : State),
    (coreRuns s d c = true) ∧
    ((getCore s d c).queue = []) ∧
    (storesOut (drainAll s d c) d c = false) :=
  ⟨16, 3, putCore cpu3 16 3 { Core.fresh with l2 := [mLine], stores := [⟨0x2048, [1], true, false⟩], waiting := [⟨0x1000, 8, 0, []⟩] }, by decide⟩

theorem witness_BarriersDrainAndTakeErrors_10 :
    ∃ (d c : Nat) (s : State),
    (coreRuns s d c = true) ∧
    ((getCore s d c).queue = []) ∧
    (storesOut (drainAll s d c) d c = false) ∧
    (loadsOut (getCore (drainAll s d c) d c) = false) :=
  ⟨16, 3, putCore cpu3 16 3 { Core.fresh with l2 := [mLine], stores := [⟨0x2048, [1], true, false⟩] }, by decide⟩

theorem witness_BarriersDrainAndTakeErrors_12 :
    ∃ (d c : Nat) (s : State),
    (coreRuns s d c = true) ∧
    ((getCore s d c).queue = []) ∧
    (loadsOut (getCore s d c) = false) :=
  ⟨16, 3, cpu3, by decide⟩

theorem witness_BarriersDrainAndTakeErrors_13 :
    ∃ (d c a : Nat) (s : State),
    ((getCore s d c).storeError = some a) :=
  ⟨16, 3, 7, putCore cpu3 16 3 { Core.fresh with storeError := some 7 }, by decide⟩

theorem witness_BarriersDrainAndTakeErrors_14 :
    ∃ (d c : Nat) (w : CoreWait) (r : List CoreWait) (s : State),
    (c < 100) ∧
    (w.addr < 2 ^ 48) ∧
    (paKind s w.addr = .far) ∧
    ((getCore s d c).waiting = w :: r) :=
  ⟨16, 3, ⟨0x1000_0000_0040, 8, 0, []⟩, [], putCore farUpSt 16 3 { Core.fresh with waiting := [⟨0x1000_0000_0040, 8, 0, []⟩] }, by decide⟩

theorem witness_CoreCommands_1 :
    ∃ (d c : Nat) (s : State),
    (windowDead s d = false) ∧
    (d = 16 ∨ d = 17) ∧
    (c < 100) ∧
    (fget s d 0 Fl.CORE_CMD_BUSY = 0) ∧
    (fget s d c Fl.CORE_STATE_STATE = 2) :=
  ⟨16, 3, fput cpu3 16 3 Fl.CORE_STATE_STATE 2, by decide⟩

theorem witness_CoreCommands_2 :
    ∃ (d c : Nat) (s : State),
    (windowDead s d = false) ∧
    (fget s d 0 Fl.CORE_CMD_BUSY = 0) ∧
    (fget s d c Fl.CORE_STATE_STATE = 1) :=
  ⟨16, 3, cpu3, by decide⟩

theorem witness_CoreCommands_3 :
    ∃ (d c : Nat) (s : State),
    (windowDead s d = false) ∧
    (d = 16 ∨ d = 17) ∧
    (c < 100) ∧
    (fget s d 0 Fl.CORE_CMD_BUSY = 0) ∧
    (fget s d c Fl.CORE_STATE_STATE = 0) ∧
    (fget s d c Fl.CORE_STATE_ROLE ≤ 1) ∧
    (unitGood s d c = true) ∧
    ((onlineCores s d).length < 96) :=
  ⟨16, 97, up, by decide⟩

theorem witness_CoreCommands_4 :
    ∃ (d c : Nat) (s : State),
    (windowDead s d = false) ∧
    (c < 100) ∧
    (fget s d 0 Fl.CORE_CMD_BUSY = 0) ∧
    (fget s d c Fl.CORE_STATE_STATE = 0) :=
  ⟨16, 3, up, by decide⟩

theorem witness_CoreCommands_5 :
    ∃ (d pass : Nat) (s : State),
    (fget s d 0 Fl.CORE_CMD_BUSY = 1) ∧
    (fget s d 0 Fl.CORE_CMD_OP ≠ 3) :=
  ⟨16, 4000, fput up 16 0 Fl.CORE_CMD_BUSY 1, by decide⟩

theorem witness_CoreCommands_6 :
    ∃ (d c pass : Nat) (s : State),
    (d = 16 ∨ d = 17) ∧
    (c < 100) ∧
    (fget s d 0 Fl.CORE_CMD_BUSY = 1) ∧
    (fget s d 0 Fl.CORE_CMD_OP = 3) ∧
    (fget s d 0 Fl.CORE_CMD_CORE = c) ∧
    (pass < (fget s d c Fl.CORE_STATE_FMAX - fget s d c Fl.CORE_STATE_DERATE) * 25) ∧
    (2500 ≤ pass) :=
  ⟨16, 3, 3990, fput (fput (fput up 16 0 Fl.CORE_CMD_BUSY 1) 16 0 Fl.CORE_CMD_OP 3) 16 0 Fl.CORE_CMD_CORE 3, by decide⟩

theorem witness_CoreCommands_7 :
    ∃ (v : Nat) (s : State),
    (v ∈ s.irqOut) :=
  ⟨5, { up with irqOut := [9, 5] }, by decide⟩

theorem witness_CoreCommands_8 :
    ∃ (d c : Nat) (s : State),
    (windowDead s d = false) ∧
    (coreRuns s d c = true) ∧
    ((getCore s d c).queue = []) ∧
    (deviceWaits s (getCore s d c) = false) ∧
    (loadsOut (getCore s d c) = false) ∧
    (mayRetire s d c = true) :=
  ⟨16, 3, cpu3, by decide⟩

theorem witness_CoreCommands_9 :
    ∃ (d c v : Nat) (s : State),
    (windowDead s d = false) ∧
    (coreRuns s d c = true) ∧
    ((getCore s d c).queue = []) ∧
    (deviceWaits s (getCore s d c) = false) ∧
    (loadsOut (getCore s d c) = false) ∧
    (mayRetire s d c = true) :=
  ⟨16, 3, 5, cpu3, by decide⟩

theorem witness_CoreCommands_10 :
    ∃ (d c v : Nat) (s : State),
    (windowDead s d = false) ∧
    (coreRuns s d c = true) ∧
    ((getCore s d c).queue = []) ∧
    (deviceWaits s (getCore s d c) = false) ∧
    (loadsOut (getCore s d c) = false) ∧
    (mayRetire s d c = true) ∧
    (ackVector s (coreUnit d c) = some v) ∧
    (v < 2 ^ 16) :=
  ⟨16, 3, 5, { cpu3 with vecs := [(4, ⟨true, 2, 0x8103, true, none⟩), (5, ⟨true, 3, 0x8103, true, none⟩)] }, by decide⟩

theorem witness_CoreCommands_11 :
    ∃ (d c : Nat) (s : State),
    (windowDead s d = false) ∧
    (coreRuns s d c = true) ∧
    ((getCore s d c).queue = []) ∧
    (deviceWaits s (getCore s d c) = false) ∧
    (loadsOut (getCore s d c) = false) ∧
    (mayRetire s d c = true) ∧
    (ackVector s (coreUnit d c) = none) :=
  ⟨16, 3, cpu3, by decide⟩

theorem witness_CoreCommands_12 :
    ∃ (d c v : Nat) (s : State),
    (windowDead s d = false) ∧
    (coreRuns s d c = true) ∧
    ((getCore s d c).queue = []) ∧
    (deviceWaits s (getCore s d c) = false) ∧
    (loadsOut (getCore s d c) = false) ∧
    (mayRetire s d c = true) ∧
    ((getVec s v).inService = some (coreUnit d c)) :=
  ⟨16, 3, 5, { cpu3 with vecs := [(5, ⟨true, 3, 0x8103, false, some 0x8103⟩)] }, by decide⟩

theorem witness_CoreCommands_13 :
    ∃ (d c v : Nat) (s : State),
    (windowDead s d = false) ∧
    (coreRuns s d c = true) ∧
    ((getCore s d c).queue = []) ∧
    (deviceWaits s (getCore s d c) = false) ∧
    (loadsOut (getCore s d c) = false) ∧
    (mayRetire s d c = true) ∧
    ((getVec s v).inService ≠ some (coreUnit d c)) :=
  ⟨16, 3, 5, cpu3, by decide⟩

theorem witness_IpiActsAsMessage_m :
    ∃ (d v : Nat) (s : State), windowDead s d = false ∧ vecDie v = d := ⟨17, 0x8005, up, by decide⟩

theorem witness_IpiActsAsMessage_1 :
    ∃ (d v : Nat) (s : State),
    (windowDead s d = false) ∧
    (vecDie v ≠ d) :=
  ⟨16, 0x8005, up, by decide⟩

theorem witness_ControlWordsAdvance_1 :
    ∃ (d e i : Nat) (l : Launch) (x : Slot) (s : State),
    (slotOf s d e = some (l, i, x)) ∧
    (l.phase = .running) ∧
    (x.hold = .run) ∧
    (x.finished = false) ∧
    (x.ops[x.pos]? = some (.nop)) :=
  ⟨0, 0, 0, launchOf ([.nop, .end_]), slotIn ([.nop, .end_]), engSt ([.nop, .end_]), by decide⟩

theorem witness_ControlWordsAdvance_2 :
    ∃ (h f c i : Nat) (l : Launch) (y : Stream) (s : State),
    (streamOf s h f c = some (l, i, y)) ∧
    (l.phase = .running) ∧
    (y.hold = .run) ∧
    (y.finished = false) ∧
    (y.reissue = []) ∧
    (y.window = []) ∧
    (y.words[y.pos]? = some (.ctl (.nop))) :=
  ⟨18, 0, 0, 0, launchOf ([.nop, .end_]), streamIn ([.nop, .end_]), engSt ([.nop, .end_]), by decide⟩

theorem witness_ControlWordsAdvance_3 :
    ∃ (d e i b n cu : Nat) (en : Bool) (st : Int) (l : Launch) (x : Slot) (s : State),
    (slotOf s d e = some (l, i, x)) ∧
    (l.phase = .running) ∧
    (x.hold = .run) ∧
    (x.finished = false) ∧
    (x.ops[x.pos]? = some (.loop b n en cu st)) :=
  ⟨0, 0, 0, 1, 3, 0, false, 0, launchOf [.loop 1 3 false 0 0, .nop, .end_], slotIn [.loop 1 3 false 0 0, .nop, .end_], engSt [.loop 1 3 false 0 0, .nop, .end_], by decide⟩

theorem witness_ControlWordsAdvance_4 :
    ∃ (h f c i b n cu : Nat) (en : Bool) (st : Int) (l : Launch) (y : Stream) (s : State),
    (streamOf s h f c = some (l, i, y)) ∧
    (l.phase = .running) ∧
    (y.hold = .run) ∧
    (y.finished = false) ∧
    (y.reissue = []) ∧
    (y.window = []) ∧
    (y.words[y.pos]? = some (.ctl (.loop b n en cu st))) :=
  ⟨18, 0, 0, 0, 1, 3, 0, false, 0, launchOf [.loop 1 3 false 0 0, .nop, .end_], streamIn [.loop 1 3 false 0 0, .nop, .end_], engSt [.loop 1 3 false 0 0, .nop, .end_], by decide⟩

theorem witness_ControlWordsAdvance_5 :
    ∃ (d e i cu : Nat) (add : Bool) (v : Int) (l : Launch) (x : Slot) (s : State),
    (slotOf s d e = some (l, i, x)) ∧
    (l.phase = .running) ∧
    (x.hold = .run) ∧
    (x.finished = false) ∧
    (x.ops[x.pos]? = some (.cursor cu add v)) :=
  ⟨0, 0, 0, 2, true, -5, launchOf [.cursor 2 true (-5), .end_], slotIn [.cursor 2 true (-5), .end_], engSt [.cursor 2 true (-5), .end_], by decide⟩

theorem witness_ControlWordsAdvance_6 :
    ∃ (h f c i cu : Nat) (add : Bool) (v : Int) (l : Launch) (y : Stream) (s : State),
    (streamOf s h f c = some (l, i, y)) ∧
    (l.phase = .running) ∧
    (y.hold = .run) ∧
    (y.finished = false) ∧
    (y.reissue = []) ∧
    (y.window = []) ∧
    (y.words[y.pos]? = some (.ctl (.cursor cu add v))) :=
  ⟨18, 0, 0, 0, 2, true, -5, launchOf [.cursor 2 true (-5), .end_], streamIn [.cursor 2 true (-5), .end_], engSt [.cursor 2 true (-5), .end_], by decide⟩

theorem witness_ControlWordsAdvance_7 :
    ∃ (d e i : Nat) (m : PhaseMeas) (l : Launch) (x : Slot) (s : State),
    (slotOf s d e = some (l, i, x)) ∧
    (l.phase = .running) ∧
    (x.hold = .run) ∧
    (x.finished = false) ∧
    (x.ops[x.pos]? = some (.end_)) :=
  ⟨0, 0, 0, ⟨0, 0, 0⟩, launchOf [.end_], slotIn [.end_], engSt [.end_], by decide⟩

theorem witness_ControlWordsAdvance_8 :
    ∃ (h f c i : Nat) (m : PhaseMeas) (l : Launch) (y : Stream) (s : State),
    (streamOf s h f c = some (l, i, y)) ∧
    (l.phase = .running) ∧
    (y.hold = .run) ∧
    (y.finished = false) ∧
    (y.reissue = []) ∧
    (y.window = []) ∧
    (y.words[y.pos]? = some (.ctl (.end_))) :=
  ⟨18, 0, 0, 0, ⟨0, 0, 0⟩, launchOf [.end_], streamIn [.end_], engSt [.end_], by decide⟩

theorem witness_TokensCountAndRelease_1 :
    ∃ (d e i tok sc n md phys : Nat) (k : Counter) (tk : Token) (l : Launch) (x : Slot) (s : State),
    (slotOf s d e = some (l, i, x)) ∧
    (l.phase = .running) ∧
    (x.hold = .run) ∧
    (x.finished = false) ∧
    (x.ops[x.pos]? = some (.signal tok sc n)) ∧
    ((getEng s d e).region = none) ∧
    (l.tokens[tok]? = some tk) ∧
    (tk.remote = none) ∧
    (tk.unit = some (md, phys)) ∧
    (smGet (getTok s md).counters phys = some k) ∧
    (k.value + n < 2 ^ 32) :=
  ⟨0, 0, 0, 0, 0, 4, 0, 9, ⟨5, 1, 0, 2⟩, tok0, launchOf [.signal 0 0 4], slotIn [.signal 0 0 4], tokSt 2 [] [] (engSt [.signal 0 0 4]), by decide⟩

theorem witness_TokensCountAndRelease_2 :
    ∃ (d e i tok sc n md phys : Nat) (k : Counter) (tk : Token) (l : Launch) (x : Slot) (s : State),
    (slotOf s d e = some (l, i, x)) ∧
    (l.phase = .running) ∧
    (x.hold = .run) ∧
    (x.finished = false) ∧
    (x.ops[x.pos]? = some (.signal tok sc n)) ∧
    ((getEng s d e).region = none) ∧
    (l.tokens[tok]? = some tk) ∧
    (tk.remote = none) ∧
    (tk.unit = some (md, phys)) ∧
    (smGet (getTok s md).counters phys = some k) ∧
    (2 ^ 32 ≤ k.value + n) :=
  ⟨0, 0, 0, 0, 0, 4, 0, 9, ⟨5, 1, 0, 0xFFFF_FFFF⟩, tok0, launchOf [.signal 0 0 4], slotIn [.signal 0 0 4], tokSt 0xFFFF_FFFF [] [] (engSt [.signal 0 0 4]), by decide⟩

theorem witness_TokensCountAndRelease_3 :
    ∃ (d e i tok sc n : Nat) (g : Region) (l : Launch) (x : Slot) (s : State),
    (slotOf s d e = some (l, i, x)) ∧
    (l.phase = .running) ∧
    (x.hold = .run) ∧
    (x.finished = false) ∧
    (x.ops[x.pos]? = some (.signal tok sc n)) ∧
    ((getEng s d e).region = some g) :=
  ⟨0, 0, 0, 0, 0, 4, region0, launchOf [.signal 0 0 4], slotIn [.signal 0 0 4], regionSt (engSt [.signal 0 0 4]), by decide⟩

theorem witness_TokensCountAndRelease_4 :
    ∃ (d e i tok sc v md phys : Nat) (k : Nat × Counter) (tk : Token) (l : Launch) (x : Slot) (s : State),
    (slotOf s d e = some (l, i, x)) ∧
    (l.phase = .running) ∧
    (x.hold = .run) ∧
    (x.finished = false) ∧
    (x.ops[x.pos]? = some (.wait tok sc none v)) ∧
    (l.tokens[tok]? = some tk) ∧
    (tk.remote = none) ∧
    (tk.unit = some (md, phys)) ∧
    ((getTok s md).counters.find? (fun c => c.2.ctx == l.ctx && c.2.seq == l.seq && c.2.token == tok) = some k) ∧
    (v ≤ k.2.value) :=
  ⟨0, 0, 0, 0, 0, 2, 0, 9, (9, ⟨5, 1, 0, 2⟩), tok0, launchOf [.wait 0 0 none 2], slotIn [.wait 0 0 none 2], tokSt 2 [] [] (engSt [.wait 0 0 none 2]), by decide⟩

theorem witness_TokensCountAndRelease_5 :
    ∃ (d e i tok sc v md phys : Nat) (k : Nat × Counter) (tk : Token) (l : Launch) (x : Slot) (s : State),
    (slotOf s d e = some (l, i, x)) ∧
    (l.phase = .running) ∧
    (x.hold = .run) ∧
    (x.finished = false) ∧
    (x.ops[x.pos]? = some (.wait tok sc none v)) ∧
    (l.tokens[tok]? = some tk) ∧
    (tk.remote = none) ∧
    (tk.unit = some (md, phys)) ∧
    ((getTok s md).counters.find? (fun c => c.2.ctx == l.ctx && c.2.seq == l.seq && c.2.token == tok) = some k) ∧
    (k.2.value < v) ∧
    ((getTok s md).waits.length < 1024) :=
  ⟨0, 0, 0, 0, 0, 3, 0, 9, (9, ⟨5, 1, 0, 2⟩), tok0, launchOf [.wait 0 0 none 3], slotIn [.wait 0 0 none 3], tokSt 2 [] [] (engSt [.wait 0 0 none 3]), by decide⟩

theorem witness_TokensCountAndRelease_6 :
    ∃ (md : Nat) (w : PendWait) (r : List PendWait) (s : State),
    ((getTok s md).held = w :: r) ∧
    ((getTok s md).waits.length < 1024) ∧
    ((∀ k ∈ (getTok s md).counters, k.2.value < w.value)) ∧
    (0 < w.value) :=
  ⟨0, ⟨5, 1, 0, 3, .engine 0 0, 0⟩, [], tokSt 2 [] [⟨5, 1, 0, 3, .engine 0 0, 0⟩] (engSt [.wait 0 0 none 3]), by decide⟩

theorem witness_TokensCountAndRelease_7 :
    ∃ (md i : Nat) (a : Agent) (w : PendWait) (st : Bool) (hd : Hold) (l : Launch) (s : State),
    ((getTok s md).waits.find? (fun w => w.agent == a) = some w) ∧
    (w.limit ≠ 0) ∧
    (agentAt s a = some (l, i, st, hd)) ∧
    (findLaunch s l.ctx l.seq = some l) :=
  ⟨0, 0, .engine 0 0, ⟨5, 1, 0, 3, .engine 0 0, 100⟩, false, .run, launchOf [.end_], tokSt 2 [⟨5, 1, 0, 3, .engine 0 0, 100⟩] [] (engSt [.end_]), by decide⟩

theorem witness_TokensCountAndRelease_8 :
    ∃ (d e i p : Nat) (l : Launch) (x : Slot) (s : State),
    (slotOf s d e = some (l, i, x)) ∧
    (l.phase = .running) ∧
    (x.hold = .run) ∧
    (x.finished = false) ∧
    (x.ops[x.pos]? = some (.phaseAnnounce p)) :=
  ⟨0, 0, 0, 3, launchOf [.phaseAnnounce 3], slotIn [.phaseAnnounce 3], engSt [.phaseAnnounce 3], by decide⟩

theorem witness_TokensCountAndRelease_9 :
    ∃ (d e p : Nat) (s : State),
    ((getEng s d e).announced = some p) :=
  ⟨0, 0, 3, modEng (engSt [.end_]) 0 0 fun y => { y with announced := some 3 }, by decide⟩

theorem witness_TokensCountAndRelease_10 :
    ∃ (d e i p : Nat) (m : PhaseMeas) (l : Launch) (x : Slot) (s : State),
    (slotOf s d e = some (l, i, x)) ∧
    (l.phase = .running) ∧
    (x.hold = .run) ∧
    (x.finished = false) ∧
    (x.ops[x.pos]? = some (.phaseBegin p)) :=
  ⟨0, 0, 0, 3, ⟨1000, 10, 750⟩, launchOf [.phaseBegin 3], slotIn [.phaseBegin 3], engSt [.phaseBegin 3], by decide⟩

theorem witness_OperandLoads_1 :
    ∃ (d e i fm bl gr ro co : Nat) (sr sa : EAddr) (w : Tile) (l : Launch) (x : Slot) (s : State),
    (slotOf s d e = some (l, i, x)) ∧
    (l.phase = .running) ∧
    (x.hold = .run) ∧
    (x.finished = false) ∧
    (x.ops[x.pos]? = some (.wload sr sa fm bl gr ro co)) ∧
    (readOperand s d e (eaddr x.cursors sr) (eaddr x.cursors sa) fm bl gr ro co (if (getEng s d e).ribbon then ro else co)
        (!(getEng s d e).ribbon) = some w) :=
  ⟨0, 0, 0, 6, 0, 0, 2, 2, .lit 0, .lit 0, wl0, launchOf [wlOp], slotIn [wlOp], engSt [wlOp], by decide⟩

theorem witness_OperandLoads_2 :
    ∃ (d e i : Nat) (r : Bool) (l : Launch) (x : Slot) (s : State),
    (slotOf s d e = some (l, i, x)) ∧
    (l.phase = .running) ∧
    (x.hold = .run) ∧
    (x.finished = false) ∧
    (x.ops[x.pos]? = some (.geometry r)) :=
  ⟨0, 0, 0, true, launchOf [.geometry true], slotIn [.geometry true], engSt [.geometry true], by decide⟩

theorem witness_OperandLoads_3 :
    ∃ (d e i fm bl gr ro co : Nat) (sr sa : EAddr) (l : Launch) (x : Slot) (s : State),
    (slotOf s d e = some (l, i, x)) ∧
    (l.phase = .running) ∧
    (x.hold = .run) ∧
    (x.finished = false) ∧
    (x.ops[x.pos]? = some (.wload sr sa fm bl gr ro co)) :=
  ⟨0, 0, 0, 6, 0, 0, 2, 2, .lit 0, .lit 0, launchOf [wlOp], slotIn [wlOp], engSt [wlOp], by decide⟩

theorem witness_IntegerMatmulIsDotProduct_1 :
    ∃ (d e i fm bl gr m r c : Nat) (sr sa ac : EAddr) (w a : Tile) (ra wc : List Int) (l : Launch) (x : Slot) (s : State),
    (slotOf s d e = some (l, i, x)) ∧
    (l.phase = .running) ∧
    (x.hold = .run) ∧
    (x.finished = false) ∧
    (x.ops[x.pos]? = some (.matmul false sr ac sa fm bl gr m)) ∧
    ((getEng s d e).shadow = some w) ∧
    ((getEng s d e).region = none) ∧
    (s.ostore.wf = true) ∧
    (Config.bankBytes ≤ eaddr x.cursors ac) ∧
    (w.cols ≤ width s d e) ∧
    (readOperand s d e (eaddr x.cursors sr) (eaddr x.cursors sa) fm bl gr m w.rows m false = some a) ∧
    (isIntFmt fm = true) ∧
    ((tileInts a)[r]? = some ra) ∧
    ((transposeCodes 0 w.cols (tileInts w))[c]? = some wc) :=
  ⟨0, 0, 0, 8, 0, 0, 1, 0, 0, .lit 0, .lit 16, .lit 0x10_0000, wTile, aTile, [3, -2], [4, 5], launchOf [mmOp], slotIn [mmOp], mmSt, by decide⟩

theorem witness_IntegerMatmulIsDotProduct_2 :
    ∃ (d e i fm bl gr m : Nat) (ad : Bool) (sr sa ac : EAddr) (w a : Tile) (l : Launch) (x : Slot) (s : State),
    (slotOf s d e = some (l, i, x)) ∧
    (l.phase = .running) ∧
    (x.hold = .run) ∧
    (x.finished = false) ∧
    (x.ops[x.pos]? = some (.matmul ad sr ac sa fm bl gr m)) ∧
    ((getEng s d e).shadow = some w) ∧
    (s.ostore.wf = true) ∧
    (Config.bankBytes ≤ eaddr x.cursors ac) ∧
    (readOperand s d e (eaddr x.cursors sr) (eaddr x.cursors sa) fm bl gr m w.rows m false = some a) :=
  ⟨0, 0, 0, 8, 0, 0, 1, false, .lit 0, .lit 16, .lit 0x10_0000, wTile, aTile, launchOf [mmOp], slotIn [mmOp], mmSt, by decide⟩

theorem witness_IntegerMatmulIsDotProduct_3 :
    ∃ (d e i fm bl gr n : Nat) (ad : Bool) (sr sa ac : EAddr) (a w : Tile) (l : Launch) (x : Slot) (s : State),
    (slotOf s d e = some (l, i, x)) ∧
    (l.phase = .running) ∧
    (x.hold = .run) ∧
    (x.finished = false) ∧
    (x.ops[x.pos]? = some (.ribbon ad sr ac sa fm bl gr n)) ∧
    ((getEng s d e).shadow = some a) ∧
    (s.ostore.wf = true) ∧
    (Config.bankBytes ≤ eaddr x.cursors ac) ∧
    (readOperand s d e (eaddr x.cursors sr) (eaddr x.cursors sa) fm bl gr n a.cols n false = some w) :=
  ⟨0, 0, 0, 8, 0, 0, 2, false, .lit 0, .lit 16, .lit 0x10_0000, aTile, rwTile, launchOf [rbOp], slotIn [rbOp], rbSt, by decide⟩

theorem witness_IntegerMatmulIsDotProduct_4 :
    ∃ (d e i fm bl gr m c : Nat) (sr sa ac : EAddr) (l : Launch) (x : Slot) (s : State),
    (slotOf s d e = some (l, i, x)) ∧
    (l.phase = .running) ∧
    (x.hold = .run) ∧
    (x.finished = false) ∧
    (x.ops[x.pos]? = some (.matmul false sr ac sa fm bl gr m)) ∧
    ((getEng s d e).shadow = none) ∧
    ((getEng s d e).region = none) ∧
    (s.ostore.wf = true) ∧
    (Config.bankBytes ≤ eaddr x.cursors ac) ∧
    (isIntFmt fm = true) ∧
    (0 < m) ∧
    (c < width s d e) :=
  ⟨0, 0, 0, 8, 0, 0, 1, 1, .lit 0, .lit 16, .lit 0x10_0000, launchOf [mmOp], slotIn [mmOp], fput (engSt [mmOp]) 0 0 Fl.ENG_WIDTH_PRESENTED_WIDTH 3, by decide⟩

theorem witness_IntegerMatmulIsDotProduct_5 :
    ∃ (d e i fm bl gr n c : Nat) (sr sa ac : EAddr) (l : Launch) (x : Slot) (s : State),
    (slotOf s d e = some (l, i, x)) ∧
    (l.phase = .running) ∧
    (x.hold = .run) ∧
    (x.finished = false) ∧
    (x.ops[x.pos]? = some (.ribbon false sr ac sa fm bl gr n)) ∧
    ((getEng s d e).shadow = none) ∧
    ((getEng s d e).region = none) ∧
    (s.ostore.wf = true) ∧
    (Config.bankBytes ≤ eaddr x.cursors ac) ∧
    (isIntFmt fm = true) ∧
    (c < n) :=
  ⟨0, 0, 0, 8, 0, 0, 2, 1, .lit 0, .lit 16, .lit 0x10_0000, launchOf [rbOp], slotIn [rbOp], engSt [rbOp], by decide⟩

theorem witness_VectorAndReduceOps_1 :
    ∃ (d e i idx : Nat) (ds a b : EAddr) (l : Launch) (x : Slot) (s : State),
    (slotOf s d e = some (l, i, x)) ∧
    (l.phase = .running) ∧
    (x.hold = .run) ∧
    (x.finished = false) ∧
    (x.ops[x.pos]? = some (.vector ds a b idx 0 0 1)) ∧
    (l.fog = []) ∧
    (s.near.wf = true) ∧
    (s.ostore.wf = true) :=
  ⟨0, 0, 0, 0, .lit 8, .lit 0, .lit 4, launchOf [.vector (.lit 8) (.lit 0) (.lit 4) 0 0 0 1], slotIn [.vector (.lit 8) (.lit 0) (.lit 4) 0 0 0 1], { engSt [.vector (.lit 8) (.lit 0) (.lit 4) 0 0 0 1] with near := [(1, 0x3F), (257, 0x40)] }, by decide⟩

theorem witness_VectorAndReduceOps_2 :
    ∃ (d e i idx vop bm n : Nat) (ds a b : EAddr) (l : Launch) (x : Slot) (s : State),
    (slotOf s d e = some (l, i, x)) ∧
    (l.phase = .running) ∧
    (x.hold = .run) ∧
    (x.finished = false) ∧
    (x.ops[x.pos]? = some (.vector ds a b idx vop bm n)) :=
  ⟨0, 0, 0, 0, 4, 0, 2, .lit 16, .lit 0, .lit 8, launchOf [.vector (.lit 16) (.lit 0) (.lit 8) 0 4 0 2], slotIn [.vector (.lit 16) (.lit 0) (.lit 8) 0 4 0 2], engSt [.vector (.lit 16) (.lit 0) (.lit 8) 0 4 0 2], by decide⟩

theorem witness_VectorAndReduceOps_3 :
    ∃ (d e i idx vop bm n : Nat) (ds a b : EAddr) (l : Launch) (x : Slot) (s : State),
    (slotOf s d e = some (l, i, x)) ∧
    (l.phase = .running) ∧
    (x.hold = .run) ∧
    (x.finished = false) ∧
    (x.ops[x.pos]? = some (.vector ds a b idx vop bm n)) ∧
    (s.near.wf = true) ∧
    (s.ostore.wf = true) ∧
    (eaddr x.cursors ds + (if vop = 11 ∨ vop = 12 then 128 * n else 256 * n) ≤ Config.bankBytes ∨ Config.bankBytes ≤ eaddr x.cursors ds) :=
  ⟨0, 0, 0, 0, 4, 0, 2, .lit 16, .lit 0, .lit 8, launchOf [.vector (.lit 16) (.lit 0) (.lit 8) 0 4 0 2], slotIn [.vector (.lit 16) (.lit 0) (.lit 8) 0 4 0 2], engSt [.vector (.lit 16) (.lit 0) (.lit 8) 0 4 0 2], by decide⟩

theorem witness_VectorAndReduceOps_4 :
    ∃ (d e i ac fu n la : Nat) (cl : Bool) (sr : EAddr) (l : Launch) (x : Slot) (s : State),
    (slotOf s d e = some (l, i, x)) ∧
    (l.phase = .running) ∧
    (x.hold = .run) ∧
    (x.finished = false) ∧
    (x.ops[x.pos]? = some (.reduce cl sr ac fu n la)) :=
  ⟨0, 0, 0, 2, 1, 1, 64, true, .lit 0, launchOf [.reduce true (.lit 0) 2 1 1 64], slotIn [.reduce true (.lit 0) 2 1 1 64], engSt [.reduce true (.lit 0) 2 1 1 64], by decide⟩

theorem witness_VectorAndReduceOps_5 :
    ∃ (d e i ac fu n la : Nat) (sr : EAddr) (l : Launch) (x : Slot) (s : State),
    (slotOf s d e = some (l, i, x)) ∧
    (l.phase = .running) ∧
    (x.hold = .run) ∧
    (x.finished = false) ∧
    (x.ops[x.pos]? = some (.reduce false sr ac fu n la)) ∧
    ((f64.decode ((getEng s d e).redAcc.getD ac 0).toNat).isNan = true) ∧
    (ac < (getEng s d e).redAcc.length) :=
  ⟨0, 0, 0, 2, 0, 1, 64, .lit 0, launchOf [.reduce false (.lit 0) 2 0 1 64], slotIn [.reduce false (.lit 0) 2 0 1 64], modEng (engSt [.reduce false (.lit 0) 2 0 1 64]) 0 0 fun y => { y with redAcc := y.redAcc.set 2 0x7FF8_0000_0000_0000 }, by decide⟩

theorem witness_VectorAndReduceOps_6 :
    ∃ (d e i a b n : Nat) (ds : EAddr) (l : Launch) (x : Slot) (s : State),
    (slotOf s d e = some (l, i, x)) ∧
    (l.phase = .running) ∧
    (x.hold = .run) ∧
    (x.finished = false) ∧
    (x.ops[x.pos]? = some (.reduceRead ds a b 0 true n)) ∧
    (l.fog = []) ∧
    (s.near.wf = true) ∧
    (s.ostore.wf = true) :=
  ⟨0, 0, 0, 2, 0, 1, .lit 0, launchOf [.reduceRead (.lit 0) 2 0 0 true 1], slotIn [.reduceRead (.lit 0) 2 0 0 true 1], engSt [.reduceRead (.lit 0) 2 0 0 true 1], by decide⟩

theorem witness_VectorAndReduceOps_7 :
    ∃ (d e i a b post n : Nat) (fm : Bool) (ds : EAddr) (l : Launch) (x : Slot) (s : State),
    (slotOf s d e = some (l, i, x)) ∧
    (l.phase = .running) ∧
    (x.hold = .run) ∧
    (x.finished = false) ∧
    (x.ops[x.pos]? = some (.reduceRead ds a b post fm n)) :=
  ⟨0, 0, 0, 2, 1, 1, 1, false, .lit 0, launchOf [.reduceRead (.lit 0) 2 1 1 false 1], slotIn [.reduceRead (.lit 0) 2 1 1 false 1], engSt [.reduceRead (.lit 0) 2 1 1 false 1], by decide⟩

theorem witness_DrainsAndTheCommitBuffer_1 :
    ∃ (d e i of bk sl ro co k : Nat) (cl rw dq pw ax : Bool) (ds ac : EAddr) (l : Launch) (x : Slot) (s : State),
    (slotOf s d e = some (l, i, x)) ∧
    (l.phase = .running) ∧
    (x.hold = .run) ∧
    (x.finished = false) ∧
    (x.ops[x.pos]? = some (.drain cl rw dq pw ax 0 ds ac of bk sl ro co k)) ∧
    (cl = false) ∧
    ((getEng s d e).region = none) ∧
    (l.fog = []) ∧
    (s.near.wf = true) ∧
    (s.ostore.wf = true) :=
  ⟨0, 0, 0, 14, 0, 0, 1, 2, 0, false, false, false, false, false, .lit 0, .lit 0x10_0000, launchOf [.drain false false false false false 0 (.lit 0) (.lit 0x10_0000) 14 0 0 1 2 0], slotIn [.drain false false false false false 0 (.lit 0) (.lit 0x10_0000) 14 0 0 1 2 0], { engSt [.drain false false false false false 0 (.lit 0) (.lit 0x10_0000) 14 0 0 1 2 0] with ostore := [(1, 0x80), (2, 0x3F)] }, by decide⟩

theorem witness_DrainsAndTheCommitBuffer_2 :
    ∃ (d e i of bk sl ro co k : Nat) (cl rw dq pw ax : Bool) (ds ac : EAddr) (g : Region) (l : Launch) (x : Slot) (s : State),
    (slotOf s d e = some (l, i, x)) ∧
    (l.phase = .running) ∧
    (x.hold = .run) ∧
    (x.finished = false) ∧
    (x.ops[x.pos]? = some (.drain cl rw dq pw ax 0 ds ac of bk sl ro co k)) ∧
    (cl = false) ∧
    ((getEng s d e).region = some g) :=
  ⟨0, 0, 0, 14, 0, 0, 1, 2, 0, false, false, false, false, false, .lit 0, .lit 0x10_0000, region0, launchOf [.drain false false false false false 0 (.lit 0) (.lit 0x10_0000) 14 0 0 1 2 0], slotIn [.drain false false false false false 0 (.lit 0) (.lit 0x10_0000) 14 0 0 1 2 0], regionSt (engSt [.drain false false false false false 0 (.lit 0) (.lit 0x10_0000) 14 0 0 1 2 0]), by decide⟩

theorem witness_DrainsAndTheCommitBuffer_3 :
    ∃ (d e i of bk sl ro co k : Nat) (cl rw dq pw ax : Bool) (ds ac : EAddr) (g : Region) (l : Launch) (x : Slot) (s : State),
    (slotOf s d e = some (l, i, x)) ∧
    (l.phase = .running) ∧
    (x.hold = .run) ∧
    (x.finished = false) ∧
    (x.ops[x.pos]? = some (.drain cl rw dq pw ax 0 ds ac of bk sl ro co k)) ∧
    (cl = true) ∧
    ((getEng s d e).region = some g) ∧
    (g.pending = false) ∧
    (fget s d e Fl.ENG_PHO_TEST_INJECT = 0) :=
  ⟨0, 0, 0, 14, 0, 0, 1, 2, 0, true, false, false, false, false, .lit 0, .lit 0x10_0000, region0, launchOf [.drain true false false false false 0 (.lit 0) (.lit 0x10_0000) 14 0 0 1 2 0], slotIn [.drain true false false false false 0 (.lit 0) (.lit 0x10_0000) 14 0 0 1 2 0], regionSt (engSt [.drain true false false false false 0 (.lit 0) (.lit 0x10_0000) 14 0 0 1 2 0]), by decide⟩

theorem witness_DrainsAndTheCommitBuffer_4 :
    ∃ (d e i mo of bk sl ro co k : Nat) (rw dq pw ax : Bool) (ds ac : EAddr) (l : Launch) (x : Slot) (s : State),
    (slotOf s d e = some (l, i, x)) ∧
    (l.phase = .running) ∧
    (x.hold = .run) ∧
    (x.finished = false) ∧
    (x.ops[x.pos]? = some (.drain false rw dq pw ax mo ds ac of bk sl ro co k)) :=
  ⟨0, 0, 0, 1, 5, 0, 0, 1, 32, 0, false, false, false, false, .lit 0, .lit 0x10_0000, launchOf [.drain false false false false false 1 (.lit 0) (.lit 0x10_0000) 5 0 0 1 32 0], slotIn [.drain false false false false false 1 (.lit 0) (.lit 0x10_0000) 5 0 0 1 32 0], engSt [.drain false false false false false 1 (.lit 0) (.lit 0x10_0000) 5 0 0 1 32 0], by decide⟩

theorem witness_DrainsAndTheCommitBuffer_5 :
    ∃ (d e i mo of bk sl ro co k : Nat) (rw dq pw ax : Bool) (ds ac : EAddr) (q : Drained) (l : Launch) (x : Slot) (s : State),
    (slotOf s d e = some (l, i, x)) ∧
    (l.phase = .running) ∧
    (x.hold = .run) ∧
    (x.finished = false) ∧
    (x.ops[x.pos]? = some (.drain false rw dq pw ax mo ds ac of bk sl ro co k)) ∧
    (drained s d e l dq pw ax mo (eaddr x.cursors ac) of bk sl ro co k = some q) ∧
    ((getEng s d e).region = none) ∧
    (s.near.wf = true) ∧
    (s.ostore.wf = true) ∧
    (eaddr x.cursors ds + drainLen of q ≤ Config.bankBytes ∨ Config.bankBytes ≤ eaddr x.cursors ds) :=
  ⟨0, 0, 0, 1, 5, 0, 0, 1, 32, 0, false, false, false, false, .lit 0, .lit 0x10_0000, ((drained (engSt [.drain false false false false false 1 (.lit 0) (.lit 0x10_0000) 5 0 0 1 32 0]) 0 0 (launchOf [.drain false false false false false 1 (.lit 0) (.lit 0x10_0000) 5 0 0 1 32 0]) false false false 1 (eaddr (slotIn [.end_]).cursors (.lit 0x10_0000)) 5 0 0 1 32 0).getD ⟨[], [], [], none⟩), launchOf [.drain false false false false false 1 (.lit 0) (.lit 0x10_0000) 5 0 0 1 32 0], slotIn [.drain false false false false false 1 (.lit 0) (.lit 0x10_0000) 5 0 0 1 32 0], engSt [.drain false false false false false 1 (.lit 0) (.lit 0x10_0000) 5 0 0 1 32 0], by decide, by decide, by decide, by decide, by decide, by rfl, by decide⟩

theorem witness_DrainsAndTheCommitBuffer_6 :
    ∃ (d e i mo of bk sl ro co k : Nat) (rw dq pw ax : Bool) (ds ac : EAddr) (g : Region) (l : Launch) (x : Slot) (s : State),
    (slotOf s d e = some (l, i, x)) ∧
    (l.phase = .running) ∧
    (x.hold = .run) ∧
    (x.finished = false) ∧
    (x.ops[x.pos]? = some (.drain false rw dq pw ax mo ds ac of bk sl ro co k)) ∧
    ((getEng s d e).region = some g) :=
  ⟨0, 0, 0, 1, 5, 0, 0, 1, 32, 0, false, false, false, false, .lit 0, .lit 0x10_0000, region0, launchOf [.drain false false false false false 1 (.lit 0) (.lit 0x10_0000) 5 0 0 1 32 0], slotIn [.drain false false false false false 1 (.lit 0) (.lit 0x10_0000) 5 0 0 1 32 0], regionSt (engSt [.drain false false false false false 1 (.lit 0) (.lit 0x10_0000) 5 0 0 1 32 0]), by decide⟩

theorem witness_DrainsAndTheCommitBuffer_7 :
    ∃ (d e i : Nat) (sm : BitVec 64) (l : Launch) (x : Slot) (s : State),
    (slotOf s d e = some (l, i, x)) ∧
    (l.phase = .running) ∧
    (x.hold = .run) ∧
    (x.finished = false) ∧
    (x.ops[x.pos]? = some (.rewindMark sm)) :=
  ⟨0, 0, 0, 1, launchOf [.rewindMark 1, .end_], slotIn [.rewindMark 1, .end_], engSt [.rewindMark 1, .end_], by decide⟩

theorem witness_DrainsAndTheCommitBuffer_8 :
    ∃ (d e i : Nat) (g : Region) (l : Launch) (x : Slot) (s : State),
    (slotOf s d e = some (l, i, x)) ∧
    ((getEng s d e).region = some g) ∧
    (x.hold = .decide false) ∧
    (l.phase = .running) :=
  ⟨0, 0, 0, region0, { launchOf [.end_] with slots := [{ slotIn [.end_] with hold := .decide false }] }, { slotIn [.end_] with hold := .decide false }, modSlot (modEng (engSt [.end_]) 0 0 fun y => { y with region := some region0 }) 5 1 0 fun z => { z with hold := .decide false }, by decide⟩

theorem witness_DrainsAndTheCommitBuffer_9 :
    ∃ (d e i : Nat) (g : Region) (l : Launch) (x : Slot) (s : State),
    (slotOf s d e = some (l, i, x)) ∧
    ((getEng s d e).region = some g) ∧
    (x.hold = .committing) :=
  ⟨0, 0, 0, region0, { launchOf [.end_] with slots := [{ slotIn [.end_] with hold := .committing }] }, { slotIn [.end_] with hold := .committing }, modSlot (modEng (engSt [.end_]) 0 0 fun y => { y with region := some region0 }) 5 1 0 fun z => { z with hold := .committing }, by decide⟩

theorem witness_DrainsAndTheCommitBuffer_10 :
    ∃ (d e i : Nat) (g : Region) (l : Launch) (x : Slot) (s : State),
    (slotOf s d e = some (l, i, x)) ∧
    ((getEng s d e).region = some g) ∧
    (x.hold = .decide false) ∧
    (l.phase = .running) ∧
    (s.near.wf = true) ∧
    (s.ostore.wf = true) :=
  ⟨0, 0, 0, region0, { launchOf [.end_] with slots := [{ slotIn [.end_] with hold := .decide false }] }, { slotIn [.end_] with hold := .decide false }, modSlot (modEng (engSt [.end_]) 0 0 fun y => { y with region := some region0 }) 5 1 0 fun z => { z with hold := .decide false }, by decide⟩

theorem witness_DrainsAndTheCommitBuffer_11 :
    ∃ (d e i : Nat) (g : Region) (l : Launch) (x : Slot) (s : State),
    (slotOf s d e = some (l, i, x)) ∧
    ((getEng s d e).region = some g) ∧
    (x.hold = .committing) ∧
    (s.near.wf = true) ∧
    (s.ostore.wf = true) :=
  ⟨0, 0, 0, region0, { launchOf [.end_] with slots := [{ slotIn [.end_] with hold := .committing }] }, { slotIn [.end_] with hold := .committing }, modSlot (modEng (engSt [.end_]) 0 0 fun y => { y with region := some region0 }) 5 1 0 fun z => { z with hold := .committing }, by decide⟩

theorem witness_DrainsAndTheCommitBuffer_12 :
    ∃ (d e i a : Nat) (bs : List Byte) (g : Region) (l : Launch) (x : Slot) (s : State),
    (slotOf s d e = some (l, i, x)) ∧
    ((getEng s d e).region = some g) ∧
    (x.hold = .committing) ∧
    (g.buffer = [(a, bs)]) ∧
    (g.written ≤ a) ∧
    (a + bs.length ≤ Config.bankBytes ∨ Config.bankBytes ≤ a) ∧
    (a + bs.length ≤ 2 ^ 27) ∧
    (l.fog = []) ∧
    (s.near.wf = true) ∧
    (s.ostore.wf = true) :=
  ⟨0, 0, 0, 64, [1, 0, 3], { region0 with buffer := [(64, [1, 0, 3])] }, { launchOf [.end_] with slots := [{ slotIn [.end_] with hold := .committing }] }, { slotIn [.end_] with hold := .committing }, modSlot (modEng (engSt [.end_]) 0 0 fun y => { y with region := some { region0 with buffer := [(64, [1, 0, 3])] } }) 5 1 0 fun z => { z with hold := .committing }, by decide⟩

theorem witness_DrainsAndTheCommitBuffer_13 :
    ∃ (d e i : Nat) (g : Region) (l : Launch) (x : Slot) (s : State),
    (slotOf s d e = some (l, i, x)) ∧
    ((getEng s d e).region = some g) ∧
    (x.hold = .decide true) ∧
    (l.phase = .running) :=
  ⟨0, 0, 0, region0, { launchOf [.end_] with slots := [{ slotIn [.end_] with hold := .decide true }] }, { slotIn [.end_] with hold := .decide true }, modSlot (modEng (engSt [.end_]) 0 0 fun y => { y with region := some region0 }) 5 1 0 fun z => { z with hold := .decide true }, by decide⟩

theorem witness_DrainsAndTheCommitBuffer_14 :
    ∃ (d e i : Nat) (g : Region) (l : Launch) (x : Slot) (s : State),
    (slotOf s d e = some (l, i, x)) ∧
    ((getEng s d e).region = some g) ∧
    (x.hold = .restarting) ∧
    (l.phase = .running) :=
  ⟨0, 0, 0, region0, { launchOf [.end_] with slots := [{ slotIn [.end_] with hold := .restarting }] }, { slotIn [.end_] with hold := .restarting }, modSlot (modEng (engSt [.end_]) 0 0 fun y => { y with region := some region0 }) 5 1 0 fun z => { z with hold := .restarting }, by decide⟩

theorem witness_DrainsAndTheCommitBuffer_15 :
    ∃ (c q : Nat) (l : Launch) (s : State),
    (findLaunch s c q = some l) ∧
    (l.rewindReports ≠ 0) ∧
    (l.rewinds + 1 ≤ l.budget) :=
  ⟨5, 1, { launchOf [.end_] with rewindReports := 1 }, { up with launches := [{ launchOf [.end_] with rewindReports := 1 }] }, by decide⟩

theorem witness_DrainsAndTheCommitBuffer_16 :
    ∃ (c q : Nat) (l : Launch) (s : State),
    (findLaunch s c q = some l) ∧
    (l.rewindReports ≠ 0) ∧
    (l.budget < l.rewinds + 1) :=
  ⟨5, 1, { launchOf [.end_] with rewindReports := 1, budget := 0 }, { up with launches := [{ launchOf [.end_] with rewindReports := 1, budget := 0 }] }, by decide⟩

theorem witness_ReadCacheCommands_1 :
    ∃ (d e i b off tag : Nat) (ds : EAddr) (bd : Binding) (data : List Byte) (l : Launch) (x : Slot) (s u : State),
    (slotOf s d e = some (l, i, x)) ∧
    (l.phase = .running) ∧
    (x.hold = .run) ∧
    (x.finished = false) ∧
    (x.ops[x.pos]? = some (.rcLoad ds b off 1 none)) ∧
    (l.bindings[b]? = some bd) ∧
    (bd.va % 64 = 0) ∧
    (l.fog = []) ∧
    (rcLines s (.agent (.engine d e) l.ctx l.seq) d l.ctx (ctxPart s l.ctx) [bd.va + 64 * off] = (.ok [tag], u)) ∧
    (slotOf u d e = some (l, i, x)) ∧
    (smGet (getRdc u d).lines tag = some data) ∧
    (owed u d e = false) ∧
    (data.length = 64) ∧
    (u.near.wf = true) ∧
    (u.ostore.wf = true) :=
  ⟨0, 0, 0, 0, 3, 0x0800_0000_00C0, .lit 2, bind0, List.replicate 64 7, rcLaunch, slotIn [rcOp], rcSt, rcSt, by decide⟩

theorem witness_ReadCacheCommands_2 :
    ∃ (d e i b off tag : Nat) (ds : EAddr) (bd : Binding) (l : Launch) (x : Slot) (s u : State),
    (slotOf s d e = some (l, i, x)) ∧
    (l.phase = .running) ∧
    (x.hold = .run) ∧
    (x.finished = false) ∧
    (x.ops[x.pos]? = some (.rcLoad ds b off 1 none)) ∧
    (l.bindings[b]? = some bd) ∧
    (bd.va % 64 = 0) ∧
    (rcLines s (.agent (.engine d e) l.ctx l.seq) d l.ctx (ctxPart s l.ctx) [bd.va + 64 * off] = (.ok [tag], u)) ∧
    (slotOf u d e = some (l, i, x)) ∧
    (tag < 2 ^ 60) ∧
    (smGet (getRdc u d).lines tag = none) ∧
    ((getRdc u d).fills.any (fun f => f.line == tag) = false) :=
  ⟨0, 0, 0, 0, 3, 0x0800_0000_00C0, .lit 2, bind0, rcLaunch, slotIn [rcOp], { rcSt with rdc := [] }, { rcSt with rdc := [] }, by decide⟩

theorem witness_ReadCacheCommands_3 :
    ∃ (d line : Nat) (f : Fill) (bs : List Byte) (s u : State),
    ((getRdc s d).fills.find? (fun f => f.line == line) = some f) ∧
    (line < 2 ^ 60) ∧
    (f.tag = none) ∧
    (f.stale = false) ∧
    (ncFetch s line 64 = (some bs, u)) ∧
    ((f.wants.head?.bind fun w => slotOf u d w.eng).all (fun p => p.1.fog.isEmpty) = true) :=
  ⟨0, 0x40, ⟨0x40, false, [], none⟩, List.replicate 64 0, { cpu3 with rdc := [(0, ⟨[], [⟨0x40, false, [], none⟩], []⟩)] }, (ncFetch ({ cpu3 with rdc := [(0, ⟨[], [⟨0x40, false, [], none⟩], []⟩)] }) 0x40 64).2, by decide⟩

theorem witness_ReadCacheCommands_4 :
    ∃ (d line : Nat) (f : Fill) (bs : List Byte) (s u : State),
    ((getRdc s d).fills.find? (fun f => f.line == line) = some f) ∧
    (line < 2 ^ 60) ∧
    (f.tag = none) ∧
    (f.stale = true) ∧
    (ncFetch s line 64 = (some bs, u)) ∧
    ((f.wants.head?.bind fun w => slotOf u d w.eng).all (fun p => p.1.fog.isEmpty) = true) :=
  ⟨0, 0x40, ⟨0x40, true, [], none⟩, List.replicate 64 0, { cpu3 with rdc := [(0, ⟨[], [⟨0x40, true, [], none⟩], []⟩)] }, (ncFetch ({ cpu3 with rdc := [(0, ⟨[], [⟨0x40, true, [], none⟩], []⟩)] }) 0x40 64).2, by decide⟩

theorem witness_ReadCacheCommands_5 :
    ∃ (d e i : Nat) (l : Launch) (x : Slot) (s : State),
    (slotOf s d e = some (l, i, x)) ∧
    (l.phase = .running) ∧
    (x.hold = .run) ∧
    (x.finished = false) ∧
    (x.ops[x.pos]? = some (.rcInvalidate)) :=
  ⟨0, 0, 0, launchOf ([.rcInvalidate]), slotIn ([.rcInvalidate]), engSt ([.rcInvalidate]), by decide⟩

theorem witness_ReadCacheCommands_6 :
    ∃ (d : Nat) (s : State),
    (windowDead s d = false) ∧
    (fget s d 0 Fl.RDC_INVALIDATE_START = 0) :=
  ⟨3, up, by decide⟩

theorem witness_ReadCacheCommands_7 :
    ∃ (d : Nat) (s : State),
    (windowDead s d = false) ∧
    (fget s d 0 Fl.RDC_INVALIDATE_START = 1) :=
  ⟨3, fput up 3 0 Fl.RDC_INVALIDATE_START 1, by decide⟩

theorem witness_ReadCacheCommands_8 :
    ∃ (d : Nat) (r : List InvalBy) (s : State),
    ((getRdc s d).invals = .register :: r) :=
  ⟨3, [], { up with rdc := [(3, ⟨[(0x40, [1])], [⟨0x80, false, [], none⟩], [.register]⟩)] }, by decide⟩

theorem witness_ReadCacheCommands_9 :
    ∃ (d e i b off n : Nat) (er : List (List Ecc)) (ds : EAddr) (bd : Binding) (l : Launch) (x : Slot) (tags : List Nat) (s u v : State),
    (slotOf s d e = some (l, i, x)) ∧
    (l.phase = .running) ∧
    (x.hold = .run) ∧
    (x.finished = false) ∧
    (x.ops[x.pos]? = some (.rcLoad ds b off n none)) ∧
    (l.bindings[b]? = some bd) ∧
    ((rcLines s (.agent (.engine d e) l.ctx l.seq) d l.ctx (ctxPart s l.ctx) ((rcParts e (eaddr x.cursors ds) (bd.va + 64 * off) n).map (·.1))) = (.ok tags, u)) ∧
    (v = (List.zip tags ((rcParts e (eaddr x.cursors ds) (bd.va + 64 * off) n).map (·.2))).zipIdx.foldl (fun s t => rcLine s d t.1.1 t.1.2 (.agent (.engine d e) l.ctx l.seq) ((er[t.2]?).getD [])) (touchRange u l.ctx (pageChunks (bd.va + 64 * off) (64 * n)))) ∧
    ((agentAt v (.engine d e)).elim false (fun x => x.2.2.2 == .stopped) = false) :=
  ⟨0, 0, 0, 0, 3, 1, [[.ce]], .lit 2, bind0, rcLaunch, slotIn [rcOp], [0x0800_0000_00C0], rcSt, (rcLines rcSt (.agent (.engine 0 0) 5 1) 0 5 (ctxPart rcSt 5) ((rcParts 0 (eaddr [0,0,0,0,0,0,0,0] (.lit 2)) (bind0.va + 64 * 3) 1).map (·.1))).2, rcAfter, by decide⟩

theorem witness_ReadCacheCommands_10 :
    ∃ (d e : Nat) (s : State),
    (windowDead s d = false) ∧
    ((getEng s d e).testing = false) ∧
    (fget s d e Fl.ENG_STATUS_ROLE = 1) :=
  ⟨0, 33, up, by decide⟩

theorem witness_ReadCacheCommands_11 :
    ∃ (d e : Nat) (s : State),
    (windowDead s d = false) ∧
    ((getEng s d e).testing = true) :=
  ⟨0, 33, modEng up 0 33 fun y => { y with testing := true }, by decide⟩

theorem witness_ReadCacheCommands_12 :
    ∃ (d e : Nat) (s : State),
    ((getEng s d e).testing = true) ∧
    (popcount (colmap s d e) 128 ≤ 4) :=
  ⟨0, 33, modEng up 0 33 fun y => { y with testing := true }, by decide⟩

theorem witness_ReadCacheCommands_13 :
    ∃ (d e : Nat) (s : State),
    (windowDead s d = false) ∧
    (fget s d e Fl.ENG_STATUS_PLACED = 0) :=
  ⟨0, 3, up, by decide⟩

theorem witness_ReadCacheCommands_14 :
    ∃ (d e : Nat) (s : State),
    (windowDead s d = false) ∧
    (fget s d e Fl.ENG_STATUS_PLACED ≠ 0) :=
  ⟨0, 3, fput up 0 3 Fl.ENG_STATUS_PLACED 1, by decide⟩

theorem witness_LaunchPlacement_1 :
    ∃ (c q : Nat) (k : Cmd) (a : List (Nat × Cand)) (l : Launch) (s : State),
    (runCmd s c q 1 = some k) ∧
    (k.denied = none) ∧
    (findLaunch s c q = some l) ∧
    (l.phase = .fetching) ∧
    (l.amaxBinding = none) ∧
    (fldOf Fl.QFE_CTX_ROOT_FAULT_MODE (getCtx s c).root = 0) ∧
    (l.bindings = []) ∧
    (l.scales = []) ∧
    (l.streams = []) ∧
    (l.tokens = []) ∧
    (l.errs = []) ∧
    ((∀ o ∈ s.launches, o.reserving = false)) ∧
    ((getCtx s l.ctx).used.getD 4 0 + l.totalGranules ≤ (getCtx s l.ctx).quota.getD 4 0) ∧
    ((a.map fun p => engKey p.2.1 p.2.2.1).Nodup) ∧
    (placeSlots (partDies s (ctxPart s c)) (candidates s l (ctxPart s c) false) l.slots = .ok a) :=
  ⟨5, 1, cmdOf 1, [(0, 0, 0, 128)], phaseLaunch .fetching, phaseSt .fetching, by decide⟩

theorem witness_LaunchPlacement_2 :
    ∃ (part : Nat) (a : List (Nat × Cand)) (l : Launch) (s : State),
    (waitingLaunches s part = [l]) ∧
    (findLaunch s l.ctx l.seq = some l) ∧
    (ctxPart s l.ctx = part) ∧
    (l.scales = []) ∧
    (l.streams = []) ∧
    (l.tokens = []) ∧
    (l.errs = []) ∧
    ((∀ o ∈ s.launches, o.reserving = false)) ∧
    ((getCtx s l.ctx).used.getD 4 0 + l.totalGranules ≤ (getCtx s l.ctx).quota.getD 4 0) ∧
    ((a.map fun p => engKey p.2.1 p.2.2.1).Nodup) ∧
    (placeSlots (partDies s part) (candidates s l part false) l.slots = .ok a) :=
  ⟨0, [(0, 0, 0, 128)], phaseLaunch .placing, phaseSt .placing, by decide⟩

theorem witness_LaunchPlacement_3 :
    ∃ (part i : Nat) (a : List (Nat × Cand)) (l : Launch) (s : State),
    (waitingLaunches s part = [l]) ∧
    (findLaunch s l.ctx l.seq = some l) ∧
    (ctxPart s l.ctx = part) ∧
    (placeSlots (partDies s part) (candidates s l part false) l.slots = .error i) ∧
    (placeSlots (partDies s part) (candidates s l part true) l.slots = .ok a) :=
  ⟨0, 0, [(0, 0, 0, 128)], phaseLaunch .placing, allHeld (phaseSt .placing), by decide⟩

theorem witness_LaunchPlacement_4 :
    ∃ (c q : Nat) (l : Launch) (s u : State),
    (findLaunch s c q = some l) ∧
    (l.phase = .tokens) ∧
    (allocTokens s l = some u) ∧
    (l.scales = []) :=
  ⟨5, 1, phaseLaunch .tokens, phaseSt .tokens, phaseSt .tokens, by decide⟩

theorem witness_LaunchPlacement_5 :
    ∃ (c q : Nat) (l : Launch) (s : State),
    (findLaunch s c q = some l) ∧
    (l.phase = .placing) ∧
    (fget s (ctxHub c) 0 Fl.QFE_ARB_RESERVE_US ≠ 0) :=
  ⟨5, 1, phaseLaunch .placing, phaseSt .placing, by decide⟩

theorem witness_LaunchPlacement_6 :
    ∃ (c q : Nat) (s : State),
    (fget s (ctxHub c) 0 Fl.QFE_ARB_RESERVE_US = 0) :=
  ⟨5, 1, fput (phaseSt .placing) 18 0 Fl.QFE_ARB_RESERVE_US 0, by decide⟩

theorem witness_LaunchPlacement_7 :
    ∃ (c q : Nat) (k : Cmd) (l : Launch) (s : State),
    (runCmd s c q 1 = some k) ∧
    (k.denied = none) ∧
    (findLaunch s c q = some l) ∧
    (l.phase = .fetching) ∧
    (l.amaxBinding = none) ∧
    (fldOf Fl.QFE_CTX_ROOT_FAULT_MODE (getCtx s l.ctx).root = 0 ∨ firstUnpinned s l = none) :=
  ⟨5, 1, cmdOf 1, phaseLaunch .fetching, phaseSt .fetching, by decide⟩

theorem witness_LaunchPlacement_8 :
    ∃ (part : Nat) (l : Launch) (s : State),
    (waitingLaunches s part = [l]) ∧
    (findLaunch s l.ctx l.seq = some l) :=
  ⟨0, phaseLaunch .placing, phaseSt .placing, by decide⟩

theorem witness_LaunchPlacement_9 :
    ∃ (part : Nat) (a : List (Nat × Cand)) (xs : List (Nat × Nat × Nat)) (l y : Launch) (s : State),
    (waitingLaunches s part = [l]) ∧
    (findLaunch s l.ctx l.seq = some l) ∧
    (ctxPart s l.ctx = part) ∧
    (placeSlots (partDies s part) (candidates s l part false) l.slots = .ok a) ∧
    (assignStreams s l (partHubs s part) l.streams.length (busyStreams s) = some xs) ∧
    (findLaunch (takePlaces s l a xs) l.ctx l.seq = some y) :=
  ⟨0, [(0, 0, 0, 128)], [], phaseLaunch .placing, (findLaunch (takePlaces (phaseSt .placing) (phaseLaunch .placing) [(0, 0, 0, 128)] []) 5 1).getD (phaseLaunch .tokens), phaseSt .placing, by decide⟩

theorem witness_LaunchStartsErrsAndEnds_1 :
    ∃ (c q : Nat) (l : Launch) (s : State),
    (findLaunch s c q = some l) ∧
    (l.phase = .preparing) ∧
    (l.reportBinding = none) ∧
    ((getCmd s c q).bind (·.denied) = none) :=
  ⟨5, 1, phaseLaunch .preparing, phaseSt .preparing, by decide⟩

theorem witness_LaunchStartsErrsAndEnds_2 :
    ∃ (c q : Nat) (l : Launch) (s : State),
    (findLaunch s c q = some l) ∧
    (l.phase ≠ .preparing) :=
  ⟨5, 1, phaseLaunch .running, phaseSt .running, by decide⟩

theorem witness_LaunchStartsErrsAndEnds_3 :
    ∃ (c q st : Nat) (d : BitVec 64) (r : List (Nat × BitVec 64)) (l : Launch) (s : State),
    (findLaunch s c q = some l) ∧
    (l.phase = .running) ∧
    (l.errs = (st, d) :: r) :=
  ⟨5, 1, 0x0402, 11, [(0x0301, 0)], errLaunch, { engSt [.end_] with launches := [errLaunch] }, by decide⟩

theorem witness_LaunchStartsErrsAndEnds_4 :
    ∃ (c q : Nat) (l : Launch) (s : State),
    (findLaunch s c q = some l) ∧
    (l.phase = .ended) :=
  ⟨5, 1, phaseLaunch .ended, phaseSt .ended, by decide⟩

theorem witness_LaunchStartsErrsAndEnds_5 :
    ∃ (c q : Nat) (k : Cmd) (l : Launch) (s : State),
    (findLaunch s c q = some l) ∧
    (getCmd s c q = some k) ∧
    (mayEnd s l = true) ∧
    (l.scales = []) :=
  ⟨5, 1, cmdOf 1, doneLaunch, ctxSt 1 { engSt [.end_] with launches := [doneLaunch] }, by decide⟩

theorem witness_LaunchStartsErrsAndEnds_6 :
    ∃ (c q : Nat) (l : Launch) (s : State),
    (findLaunch s c q = some l) ∧
    (mayEnd s l = false) ∧
    (l.phase ≠ .recording) :=
  ⟨5, 1, launchOf [.end_], engSt [.end_], by decide⟩

theorem witness_LaunchStartsErrsAndEnds_7 :
    ∃ (c q b : Nat) (l : Launch) (s : State),
    (findLaunch s c q = some l) ∧
    (l.phase = .preparing) ∧
    ((getCmd s c q).bind (·.denied) = none) ∧
    (l.reportBinding = some b) ∧
    ((writeVa s (.cmd c q) c (bindAt l b).va (reportBytes s l)).1 = .ok ()) :=
  ⟨5, 1, 0, { phaseLaunch .preparing with reportBinding := some 0, bindings := [⟨0x10000, 4096, 8, 0, true, false, 8, 255, 0, 0⟩] }, reportSt, by decide⟩

theorem witness_LaunchStartsErrsAndEnds_8 :
    ∃ (c q : Nat) (l : Launch) (s : State),
    (findLaunch s c q = some l) ∧
    (l.phase ≠ .recording) ∧
    (mayEnd s l = true) :=
  ⟨5, 1, doneLaunch, ctxSt 1 { engSt [.end_] with launches := [doneLaunch] }, by decide⟩

theorem witness_LaunchStartsErrsAndEnds_9 :
    ∃ (c q : Nat) (l : Launch) (s : State),
    (findLaunch s c q = some l) ∧
    (l.phase = .recording) ∧
    (l.scales.length ≤ l.recDone) :=
  ⟨5, 1, { doneLaunch with phase := .recording }, ctxSt 1 { engSt [.end_] with launches := [{ doneLaunch with phase := .recording }] }, by decide⟩

theorem witness_MovesIssueAndComplete_1 :
    ∃ (h f c i : Nat) (w : MoveWord) (l : Launch) (y : Stream) (s : State),
    (streamOf s h f c = some (l, i, y)) ∧
    (l.phase = .running) ∧
    (y.hold = .run) ∧
    (y.finished = false) ∧
    (y.reissue = []) ∧
    (y.blocked = false) ∧
    (y.words[y.pos]? = some (.move w)) ∧
    (mayIssue y (newMove l y w) = true) ∧
    (lending l w = false) :=
  ⟨18, 0, 0, 0, mvWord, mvLaunch [], mvStream [], mvSt [], by decide⟩

theorem witness_MovesIssueAndComplete_2 :
    ∃ (h f c i d e : Nat) (m : Move) (ms : List Move) (bs : List Byte) (l : Launch) (y : Stream) (s : State),
    (streamOf s h f c = some (l, i, y)) ∧
    (l.phase = .running) ∧
    (y.hold ≠ .stopped) ∧
    (y.window = m :: ms) ∧
    (m.stalled = false) ∧
    (m.ended = false) ∧
    (l.fog = []) ∧
    (m.word.srcNs = true) ∧
    (m.word.dstNs = true) ∧
    (m.word.srcIndex = m.word.dstIndex) ∧
    ((l.slots[m.word.srcIndex]?).bind (·.at_) = some (d, e)) ∧
    (m.word.transform = 0) ∧
    (m.word.paired = false) ∧
    (m.word.done = none) ∧
    (fmtBits m.word.fmt = 8) ∧
    (0 < m.word.rows * m.word.cols) ∧
    (m.srcOff + m.word.rows * m.word.cols ≤ Config.bankBytes) ∧
    (m.dstOff + (m.word.rows * m.word.cols + 63) / 64 * 64 ≤ Config.bankBytes) ∧
    (m.dstOff % 64 = 0) ∧
    (s.near.wf = true) ∧
    (memReadN s.near (bankKey d (boundBank s d e) m.srcOff) (m.word.rows * m.word.cols) = bs) :=
  ⟨18, 0, 0, 0, 0, 0, mv0, [], elRead (mvSt [mv0]) 0 0 0 16, mvLaunch [mv0], mvStream [mv0], mvSt [mv0], by decide⟩

theorem witness_MovesIssueAndComplete_3 :
    ∃ (h f c i n k : Nat) (e : MoveErr) (m : Move) (ms : List Move) (l : Launch) (y : Stream) (v : State × Bool) (z : State × Option Nat × List (Loc × Nat)) (s u : State),
    (streamOf s h f c = some (l, i, y)) ∧
    (l.phase = .running) ∧
    (y.hold ≠ .stopped) ∧
    (y.window = m :: ms) ∧
    (m.stalled = false) ∧
    (m.ended = false) ∧
    (lendMove s (streamReq h f c l) l m = some v) ∧
    (moveErr (if v.2 then noteLent v.1 l i else v.1) h (moveJob l m) e = z) ∧
    (runJob z.1 (streamReq h f c l) l.ctx (moveJob l m) z.2.1 z.2.2 = (.done n k, u)) :=
  ⟨18, 0, 0, 0, 16, 64, .none, mv0, [], mvLaunch [mv0], mvStream [mv0], (mvSt [mv0], true), moveErr (noteLent (mvSt [mv0]) (mvLaunch [mv0]) 0) 18 (moveJob (mvLaunch [mv0]) mv0) .none, mvSt [mv0], (runJob (moveErr (noteLent (mvSt [mv0]) (mvLaunch [mv0]) 0) 18 (moveJob (mvLaunch [mv0]) mv0) .none).1 (streamReq 18 0 0 (mvLaunch [mv0])) 5 (moveJob (mvLaunch [mv0]) mv0) none []).2, by decide⟩

theorem witness_MovesIssueAndComplete_4 :
    ∃ (h f c i : Nat) (m : Move) (ms : List Move) (l : Launch) (y : Stream) (s u : State),
    (streamOf s h f c = some (l, i, y)) ∧
    (y.window = m :: ms) ∧
    (l.phase = .running) ∧
    (lending l m.word = true) ∧
    (m.lent = false) ∧
    (m.stalled = false) ∧
    (lendMove s (streamReq h f c l) l m = some (u, true)) :=
  ⟨18, 0, 0, 0, ldMove, [], lendLaunch, lendStream, lendSt, ((lendMove lendSt (streamReq 18 0 0 lendLaunch) lendLaunch ldMove).getD (lendSt, true)).1, by decide⟩

theorem witness_MovesIssueAndComplete_5 :
    ∃ (h f c i k : Nat) (r : List (Nat × Bool)) (l : Launch) (y : Stream) (s : State),
    (streamOf s h f c = some (l, i, y)) ∧
    (takeMsg false [] y.inbox = some (k, r)) :=
  ⟨18, 0, 0, 0, 2, [], { mvLaunch [mv0] with streams := [{ mvStream [mv0] with inbox := [(2, false)] }] }, { mvStream [mv0] with inbox := [(2, false)] }, { mvSt [mv0] with launches := [{ mvLaunch [mv0] with streams := [{ mvStream [mv0] with inbox := [(2, false)] }] }] }, by decide⟩

theorem witness_MovesIssueAndComplete_6 :
    ∃ (h f c i k : Nat) (r : List (Nat × Bool)) (l : Launch) (y : Stream) (s : State),
    (streamOf s h f c = some (l, i, y)) ∧
    (takeMsg true [] y.inbox = some (k, r)) ∧
    (l.phase = .running) :=
  ⟨18, 0, 0, 0, 0, [], cnLaunch, cnStream, { mvSt [mv0] with launches := [cnLaunch] }, by decide⟩

theorem witness_MovesIssueAndComplete_7 :
    ∃ (h f c i p j : Nat) (m : Move) (r : TRegion) (w : BitVec 64) (l : Launch) (y : Stream) (s : State),
    (streamOf s h f c = some (l, i, y)) ∧
    (l.phase = .running) ∧
    (y.hold = .run) ∧
    (y.window = []) ∧
    (nextMove l y = some m) ∧
    (lending l m.word = true) ∧
    (m.lent = false) ∧
    (m.word.transform ≠ 3) ∧
    (lendPages s l.ctx (srcRows s (streamReq h f c l) l m) = [p]) ∧
    (tierPage s l.ctx p = some (r, j, w)) ∧
    (peLend w < 255) :=
  ⟨18, 0, 0, 0, 0x20_0000, 0, ⟨0, ldWord, 0, 0, 4096, [], false, false, false, false, false, 0⟩, ldRegion, ldEntry, ldLaunch, ldStream, ldSt, by decide⟩

theorem witness_ContextsEnableAndDisable_1 :
    ∃ (c : Nat) (a : BitVec 64) (s : State),
    (windowDead s (ctxHub c) = false) ∧
    (validCtx s c = true) ∧
    (fldOf Fl.QFE_CTX_ATTR_ENABLE (getCtx s c).attr = 0) ∧
    (ringOk s c (getCtx s c).cmdRing = true) ∧
    (ringOk s c (getCtx s c).cplRing = true) ∧
    (ringOk s c (getCtx s c).evtRing = true) :=
  ⟨5, 0x0000_0003_0000_0001, ringSt, by decide⟩

theorem witness_ContextsEnableAndDisable_2 :
    ∃ (c : Nat) (a : BitVec 64) (s : State),
    (windowDead s (ctxHub c) = false) ∧
    (validCtx s c = true) ∧
    (fldOf Fl.QFE_CTX_ATTR_ENABLE (getCtx s c).attr = 0) ∧
    (ringOk s c (getCtx s c).cmdRing = false) :=
  ⟨5, 1, up, by decide⟩

theorem witness_ContextsEnableAndDisable_3 :
    ∃ (c : Nat) (a : BitVec 64) (s : State),
    (windowDead s (ctxHub c) = false) ∧
    (validCtx s c = true) ∧
    (fldOf Fl.QFE_CTX_ATTR_ENABLE (getCtx s c).attr = 1) :=
  ⟨5, 0x0000_0003_0000_0001, runCtx ringSt, by decide⟩

theorem witness_ContextsEnableAndDisable_4 :
    ∃ (c : Nat) (a : BitVec 64) (s : State),
    (windowDead s (ctxHub c) = false) ∧
    (validCtx s c = true) ∧
    (fldOf Fl.QFE_CTX_ATTR_ENABLE (getCtx s c).attr = 1) ∧
    (inflight (getCtx s c) = 0) :=
  ⟨5, 0, runCtx ringSt, by decide⟩

theorem witness_ContextsEnableAndDisable_5 :
    ∃ (c : Nat) (a : BitVec 64) (s : State),
    (windowDead s (ctxHub c) = false) ∧
    (validCtx s c = true) ∧
    (fldOf Fl.QFE_CTX_ATTR_ENABLE (getCtx s c).attr = 1) ∧
    (inflight (getCtx s c) ≠ 0) :=
  ⟨5, 0, modCtx (runCtx ringSt) 5 fun x => { x with cmds := [cmdOf 6] }, by decide⟩

theorem witness_ContextsEnableAndDisable_6 :
    ∃ (c : Nat) (s : State),
    (windowDead s (ctxHub c) = false) ∧
    (validCtx s c = true) ∧
    (ctxState (getCtx s c) = 2) :=
  ⟨5, modCtx ringSt 5 fun x => setCtxState x 2, by decide⟩

theorem witness_ContextsEnableAndDisable_7 :
    ∃ (c : Nat) (s : State),
    (windowDead s (ctxHub c) = false) ∧
    (ctxState (getCtx s c) ≠ 2) :=
  ⟨5, ringSt, by decide⟩

theorem witness_ContextsEnableAndDisable_8 :
    ∃ (c : Nat) (v : BitVec 64) (s : State),
    (validCtx s c = true) ∧
    (ctxState (getCtx s c) = 1 ∨ ctxState (getCtx s c) = 2) ∧
    (((getCtx s c).tail + 2 ^ 48 - oldestSeq (getCtx s c)) % 2 ^ 48 ≤ (v.toNat % 2 ^ 48 + 2 ^ 48 - oldestSeq (getCtx s c)) % 2 ^ 48) ∧
    ((v.toNat % 2 ^ 48 + 2 ^ 48 - oldestSeq (getCtx s c)) % 2 ^ 48 ≤ ringSize (getCtx s c).cmdRing) :=
  ⟨5, 3, runCtx ringSt, by decide⟩

theorem witness_ContextsEnableAndDisable_9 :
    ∃ (c : Nat) (v : BitVec 64) (s : State),
    (validCtx s c = true) ∧
    (ctxState (getCtx s c) = 1 ∨ ctxState (getCtx s c) = 2) ∧
    (ringSize (getCtx s c).cmdRing < (v.toNat % 2 ^ 48 + 2 ^ 48 - oldestSeq (getCtx s c)) % 2 ^ 48) :=
  ⟨5, 65, runCtx ringSt, by decide⟩

theorem witness_ContextsEnableAndDisable_10 :
    ∃ (c : Nat) (v : BitVec 64) (s : State),
    (validCtx s c = true) ∧
    (ctxState (getCtx s c) = 1 ∨ ctxState (getCtx s c) = 2) ∧
    (mayConsume (getCtx s c).cplHead (getCtx s c).cplTail (v.toNat % 2 ^ 32) = true) :=
  ⟨5, 1, modCtx (runCtx ringSt) 5 fun x => { x with cplTail := 2 }, by decide⟩

theorem witness_ContextsEnableAndDisable_11 :
    ∃ (c : Nat) (v : BitVec 64) (s : State),
    (validCtx s c = true) ∧
    (ctxState (getCtx s c) = 1 ∨ ctxState (getCtx s c) = 2) ∧
    (mayConsume (getCtx s c).cplHead (getCtx s c).cplTail (v.toNat % 2 ^ 32) = false) :=
  ⟨5, 3, modCtx (runCtx ringSt) 5 fun x => { x with cplTail := 2 }, by decide⟩

theorem witness_ContextsEnableAndDisable_12 :
    ∃ (c : Nat) (v : BitVec 64) (s : State),
    (validCtx s c = true) ∧
    (ctxState (getCtx s c) = 1 ∨ ctxState (getCtx s c) = 2) ∧
    (mayConsume (getCtx s c).evtHead (getCtx s c).evtTail (v.toNat % 2 ^ 32) = true) :=
  ⟨5, 1, modCtx (runCtx ringSt) 5 fun x => { x with evtTail := 1 }, by decide⟩

theorem witness_ContextsEnableAndDisable_13 :
    ∃ (c : Nat) (v : BitVec 64) (s : State),
    (validCtx s c = true) ∧
    (ctxState (getCtx s c) = 0) :=
  ⟨5, 3, up, by decide⟩

theorem witness_DescriptorsFetchAndDispatch_1 :
    ∃ (h c : Nat) (bs : List Byte) (s : State),
    (pickCtx s h = some c) ∧
    (ringRefusal { s with rrNext := smPut s.rrNext (h * 8 + fldOf Fl.QFE_CTX_ATTR_PRIORITY (getCtx s c).attr) (c + 1) } c (ringBase (getCtx s c).cmdRing) = none) ∧
    (stampOk (readSlotOf { s with rrNext := smPut s.rrNext (h * 8 + fldOf Fl.QFE_CTX_ATTR_PRIORITY (getCtx s c).attr) (c + 1) } c (getCtx s c)).1 (getCtx s c).fetched = some bs) :=
  ⟨18, 5, readBack, fetchSt, by decide⟩

theorem witness_DescriptorsFetchAndDispatch_2 :
    ∃ (h c : Nat) (s : State),
    (pickCtx s h = some c) ∧
    (ringRefusal { s with rrNext := smPut s.rrNext (h * 8 + fldOf Fl.QFE_CTX_ATTR_PRIORITY (getCtx s c).attr) (c + 1) } c (ringBase (getCtx s c).cmdRing) = none) ∧
    (stampOk (readSlotOf { s with rrNext := smPut s.rrNext (h * 8 + fldOf Fl.QFE_CTX_ATTR_PRIORITY (getCtx s c).attr) (c + 1) } c (getCtx s c)).1 (getCtx s c).fetched = none) :=
  ⟨18, 5, { fetchSt with mem := [(0x2002, 1)] }, by decide⟩

theorem witness_DescriptorsFetchAndDispatch_3 :
    ∃ (h c st : Nat) (s : State),
    (pickCtx s h = some c) ∧
    (ringRefusal { s with rrNext := smPut s.rrNext (h * 8 + fldOf Fl.QFE_CTX_ATTR_PRIORITY (getCtx s c).attr) (c + 1) } c (ringBase (getCtx s c).cmdRing) = some st) :=
  ⟨18, 5, 0x0210, modCtx fetchSt 5 fun x => { x with cmdRing := fldSet Fl.QFE_CTX_CMD_RING_BASE 0 (0x0300_0000_0000 / 4096) }, by decide⟩

theorem witness_DescriptorsFetchAndDispatch_4 :
    ∃ (c st n : Nat) (s : State),
    ((getCtx s c).stale = some n) ∧
    (ctxState (getCtx s c) = 1) ∧
    (fencedCtx s c = false) ∧
    (ringRefusal (fsat s (ctxHub c) 0 Fl.QFE_COUNT_STALE_REFETCHES 1) c (ringBase (getCtx s c).cmdRing) = some st) :=
  ⟨5, 0x0210, 2, modCtx (modCtx fetchSt 5 fun x => { x with cmdRing := fldSet Fl.QFE_CTX_CMD_RING_BASE 0 (0x0300_0000_0000 / 4096) }) 5 fun x => { x with stale := some 2 }, by decide⟩

theorem witness_DescriptorsFetchAndDispatch_5 :
    ∃ (c : Nat) (n : Nat) (bs : List Byte) (s : State),
    ((getCtx s c).stale = some n) ∧
    (ctxState (getCtx s c) = 1) ∧
    (fencedCtx s c = false) ∧
    (ringRefusal (fsat s (ctxHub c) 0 Fl.QFE_COUNT_STALE_REFETCHES 1) c (ringBase (getCtx s c).cmdRing) = none) ∧
    (stampOk (readSlotOf (fsat s (ctxHub c) 0 Fl.QFE_COUNT_STALE_REFETCHES 1) c (getCtx s c)).1 (getCtx s c).fetched = some bs) :=
  ⟨5, 2, readBack, modCtx fetchSt 5 fun x => { x with stale := some 2 }, by decide⟩

theorem witness_DescriptorsFetchAndDispatch_6 :
    ∃ (c : Nat) (s : State),
    ((getCtx s c).stale = some 3) ∧
    (ctxState (getCtx s c) = 1) ∧
    (fencedCtx s c = false) ∧
    (ringRefusal (fsat s (ctxHub c) 0 Fl.QFE_COUNT_STALE_REFETCHES 1) c (ringBase (getCtx s c).cmdRing) = none) ∧
    (stampOk (readSlotOf (fsat s (ctxHub c) 0 Fl.QFE_COUNT_STALE_REFETCHES 1) c (getCtx s c)).1 (getCtx s c).fetched = none) :=
  ⟨5, modCtx { fetchSt with mem := [(0x2002, 1)] } 5 fun x => { x with stale := some 3 }, by decide⟩

theorem witness_DescriptorsFetchAndDispatch_7 :
    ∃ (c : Nat) (k : Cmd) (s : State),
    (ctxState (getCtx s c) = 1 ∨ ctxState (getCtx s c) = 2) ∧
    (fencedCtx s c = false) ∧
    (mayDispatch (getCtx s c) = some k) ∧
    (descStatus (getCtx s c) k.desc = none) ∧
    (getCmd s c k.seq = some k) :=
  ⟨5, newCmd 0 (readDesc readBack), modCtx fetchSt 5 fun x => { x with cmds := [newCmd 0 (readDesc readBack)] }, by decide⟩

theorem witness_DescriptorsFetchAndDispatch_8 :
    ∃ (c st : Nat) (k : Cmd) (s : State),
    (ctxState (getCtx s c) = 1) ∧
    (fencedCtx s c = false) ∧
    (mayDispatch (getCtx s c) = some k) ∧
    (descStatus (getCtx s c) k.desc = some st) ∧
    (getCmd s c k.seq = some k) :=
  ⟨5, 0x0105, newCmd 0 (readDesc quotaDesc), modCtx fetchSt 5 fun x => { x with cmds := [newCmd 0 (readDesc quotaDesc)] }, by decide⟩

theorem witness_ContextCommandsRun_1 :
    ∃ (c q f : Nat) (k : Cmd) (s : State),
    (runCmd s c q 2 = some k) ∧
    (k.finder = none) ∧
    (freeFinder s (ctxHub c) = some f) :=
  ⟨5, 1, 0, cmdOf 2, ctxSt 2 up, by decide⟩

theorem witness_ContextCommandsRun_2 :
    ∃ (c q f rd wr : Nat) (b : List Byte) (k : Cmd) (s : State),
    (runCmd s c q 2 = some k) ∧
    (k.finder = some f) ∧
    (k.denied = none) ∧
    ((readVa s (.cmd c q) c (k.desc.argA.toNat + 64 * k.done) 64).1 = .ok b) ∧
    (entryStatus b = none) ∧
    ((runJob (readVa s (.cmd c q) c (k.desc.argA.toNat + 64 * k.done) 64).2 (.cmd c q) c (entryJob b) none []).1 = .done rd wr) ∧
    (getCmd (runJob (readVa s (.cmd c q) c (k.desc.argA.toNat + 64 * k.done) 64).2 (.cmd c q) c (entryJob b) none []).2 c q = some k) ∧
    (k.done + 1 < k.desc.count) :=
  ⟨5, 1, 0, 8, 8, entryBytes, { cmdOf 2 with finder := some 0, desc := ⟨2, 0, 0, 2, 0x10000, 0, 0, []⟩ }, entrySt, by decide⟩

theorem witness_ContextCommandsRun_3 :
    ∃ (c q i : Nat) (k : Cmd) (s : State),
    (runCmd s c q 4 = some k) ∧
    (ctxPart s (imgNum k.desc.raw 4 2) = ctxPart s c) ∧
    (i < 5) :=
  ⟨5, 1, 1, { cmdOf 4 with desc := readDesc quotaDesc }, modCtx (ctxSt 4 up) 5 fun x => { x with cmds := [{ cmdOf 4 with desc := readDesc quotaDesc }] }, by decide⟩

theorem witness_ContextCommandsRun_4 :
    ∃ (c q : Nat) (k : Cmd) (s : State),
    (runCmd s c q 4 = some k) ∧
    (ctxPart s (imgNum k.desc.raw 4 2) ≠ ctxPart s c) :=
  ⟨20000, 1, { cmdOf 4 with desc := readDesc quotaDesc }, { fput up 24 0 Fl.DIE_PARTITION_MODE 2 with ctxs := [(20000, { Ctx.fresh with cmds := [{ cmdOf 4 with desc := readDesc quotaDesc }] })] }, by decide⟩

theorem witness_ContextCommandsRun_5 :
    ∃ (c q : Nat) (k : Cmd) (s : State),
    (runCmd s c q 6 = some k) ∧
    (ctxPart s (k.desc.argA.toNat / 2 ^ 48) = ctxPart s c ∨ k.desc.flags.getLsbD 3 = false) :=
  ⟨5, 1, cmdOf 6, ctxSt 6 up, by decide⟩

theorem witness_ContextCommandsRun_6 :
    ∃ (c q : Nat) (k : Cmd) (s : State),
    (runCmd s c q 6 = some k) ∧
    (k.accepted = true) ∧
    (syncReady s c q k = true) ∧
    (k.denied = none) ∧
    (k.desc.flags.getLsbD 4 = false) :=
  ⟨5, 1, { cmdOf 6 with accepted := true }, modCtx (ctxSt 6 up) 5 fun x => { x with cmds := [{ cmdOf 6 with accepted := true }] }, by decide⟩

theorem witness_ContextCommandsRun_7 :
    ∃ (c q f rd wr : Nat) (e : Ecc) (b : List Byte) (k : Cmd) (s : State),
    (runCmd s c q 2 = some k) ∧
    (k.finder = some f) ∧
    (k.denied = none) ∧
    (e ≠ .ue) ∧
    ((readVa s (.cmd c q) c (k.desc.argA.toNat + 64 * k.done) 64).1 = .ok b) ∧
    (entryStatus b = none) ∧
    ((runJob (finderCe (readVa s (.cmd c q) c (k.desc.argA.toNat + 64 * k.done) 64).2 (ctxHub c) e) (.cmd c q) c (entryJob b) none []).1 = .done rd wr) ∧
    (k.desc.count ≤ k.done + 1) :=
  ⟨5, 1, 0, 8, 8, .ce, entryBytes, { cmdOf 2 with finder := some 0, desc := ⟨2, 0, 0, 1, 0x10000, 0, 0, []⟩ }, modCmd entrySt 5 1 fun x => { x with desc := ⟨2, 0, 0, 1, 0x10000, 0, 0, []⟩ }, by decide⟩

theorem witness_CompletionRecordIsWritten_1 :
    ∃ (c q : Nat) (k : Cmd) (s : State),
    (runCmd s c q 6 = some k) ∧
    (k.accepted = true) ∧
    (syncReady s c q k = true) ∧
    (k.denied = none) ∧
    (k.desc.flags.getLsbD 4 = false) ∧
    (fget s (ctxHub c) 0 Fl.COH_STASH_RECORDS_TARGET = 0) ∧
    (c < 65536) ∧
    (ringRefusal s c (ringBase (getCtx s c).cplRing) = none) ∧
    (deadLine s (lineOf (ringBase (getCtx s c).cplRing + (getCtx s c).cplTail % ringSize (getCtx s c).cplRing * 32)) = false) ∧
    (lineBusy (getHome s (homeOf s (lineOf (ringBase (getCtx s c).cplRing + (getCtx s c).cplTail % ringSize (getCtx s c).cplRing * 32)))) (lineOf (ringBase (getCtx s c).cplRing + (getCtx s c).cplTail % ringSize (getCtx s c).cplRing * 32)) = false) ∧
    (dirFind (getHome s (homeOf s (lineOf (ringBase (getCtx s c).cplRing + (getCtx s c).cplTail % ringSize (getCtx s c).cplRing * 32)))) (lineOf (ringBase (getCtx s c).cplRing + (getCtx s c).cplTail % ringSize (getCtx s c).cplRing * 32)) = none) ∧
    (s.coh.probes = []) ∧
    (s.coh.resps = []) ∧
    (s.coh.data = []) ∧
    (s.mem.wf = true) :=
  ⟨5, 1, { cmdOf 6 with accepted := true, desc := ⟨6, 1, 0, 0, 0, 0, 0, []⟩ }, modCtx (ctxSt 6 cpu3) 5 fun x => { x with cmds := [{ cmdOf 6 with accepted := true, desc := ⟨6, 1, 0, 0, 0, 0, 0, []⟩ }] }, by decide⟩

theorem witness_RegionsAreDeclaredAndReleased_1 :
    ∃ (h i c pages : Nat) (ro : Bool) (l : List (BitVec 64)) (u s : State),
    (windowDead s h = false) ∧
    (fget s h 0 Fl.TIER_REGION_CMD_BUSY ≠ 1) ∧
    (c < 65536) ∧
    (ctxHub c = h) ∧
    (i ≤ 1023) ∧
    ((fget s h 0 Fl.TIER_REGION_VA_VA * Config.page2M) + l.length * Config.page2M ≤ 2 ^ 57) ∧
    ((linesOf (fget s h 0 Fl.TIER_REGION_LIST_PA * 8) (8 * declarePages pages)).findSome? (accelRefusal (declareCmd h 0 ro pages i c s) (ctxPart (declareCmd h 0 ro pages i c s) c)) = none) ∧
    ((declareList (declareCmd h 0 ro pages i c s) h (fget s h 0 Fl.TIER_REGION_LIST_PA * 8) (declarePages pages)).1 = some l) ∧
    (s.regions.any (fun r => r.ctx == c && (r.index == i || meets r.va (r.pages.length * Config.page2M) (fget s h 0 Fl.TIER_REGION_VA_VA * Config.page2M) (l.length * Config.page2M))) = false) ∧
    (badHome (declareList (declareCmd h 0 ro pages i c s) h (fget s h 0 Fl.TIER_REGION_LIST_PA * 8) (declarePages pages)).2 c l = none) ∧
    (chargeAll (declareList (declareCmd h 0 ro pages i c s) h (fget s h 0 Fl.TIER_REGION_LIST_PA * 8) (declarePages pages)).2 c 0 l = .ok u) ∧
    (catalogUsed s h + l.length ≤ catalogRoom s h) :=
  ⟨18, 0, 5, 1, false, [mpDst], okSt (chargeAll (declareList (declareCmd 18 0 false 1 0 5 dcSt) 18 0x10008 1).2 5 0 [mpDst]), dcSt, by decide⟩

theorem witness_RegionsAreDeclaredAndReleased_2 :
    ∃ (h i c pages : Nat) (ro : Bool) (s : State),
    (windowDead s h = false) ∧
    (fget s h 0 Fl.TIER_REGION_CMD_BUSY ≠ 1) ∧
    (ctxHub c ≠ h) :=
  ⟨19, 0, 5, 1, false, up, by decide⟩

theorem witness_RegionsAreDeclaredAndReleased_3 :
    ∃ (h i c : Nat) (r : TRegion) (s : State),
    (windowDead s h = false) ∧
    (fget s h 0 Fl.TIER_REGION_CMD_BUSY ≠ 1) ∧
    (s.regions.find? (fun r => r.ctx == c && r.index == i && ctxHub c == h) = some r) ∧
    (r.pages.all (fun w => !peMoving w && peLend w == 0) = true) ∧
    (bindingHolds s c r.va (r.pages.length * Config.page2M) (fun _ => true) = false) :=
  ⟨18, 0, 5, ldRegion, { up with regions := [ldRegion] }, by decide⟩

theorem witness_RegionsAreDeclaredAndReleased_4 :
    ∃ (h i c : Nat) (r : TRegion) (s : State),
    (windowDead s h = false) ∧
    (fget s h 0 Fl.TIER_REGION_CMD_BUSY ≠ 1) ∧
    (s.regions.find? (fun r => r.ctx == c && r.index == i && ctxHub c == h) = some r) ∧
    (r.pages.any peMoving = true) :=
  ⟨18, 0, 5, { ldRegion with pages := [0xD000_0000_0000_0004] }, { up with regions := [{ ldRegion with pages := [0xD000_0000_0000_0004] }] }, by decide⟩

theorem witness_RegionsAreDeclaredAndReleased_5 :
    ∃ (c q : Nat) (e : Bool) (r : RemoteReq) (s : State),
    (s.net.remotes.find? (fun r => !r.done && Machine.reqOf s c q r.req && (r.kind == kReadReq || r.kind == kWrite)) = some r) ∧
    (getCmd s c q = none) :=
  ⟨5, 1, true, reqOf kReadReq (.agent (.engine 0 0) 5 1), awaitSt kReadReq (.agent (.engine 0 0) 5 1) fabSt, by decide⟩

theorem witness_RegionsAreDeclaredAndReleased_6 :
    ∃ (c q : Nat) (e : Bool) (r : RemoteReq) (k : Cmd) (s : State),
    (s.net.remotes.find? (fun r => !r.done && Machine.reqOf s c q r.req && (r.kind == kReadReq || r.kind == kWrite)) = some r) ∧
    (getCmd s c q = some k) ∧
    (r.req = .cmd c q) ∧
    (k.page = .check) :=
  ⟨5, 1, false, reqOf kReadReq (.cmd 5 1), cmdOf 2, { awaitSt kReadReq (.cmd 5 1) fabSt with ctxs := [(5, { Ctx.fresh with cmds := [cmdOf 2] })] }, by decide⟩

theorem witness_RegionsAreDeclaredAndReleased_7 :
    ∃ (c q h f x i : Nat) (e : Bool) (m : Move) (l : Launch) (s : State),
    (findLaunch s c q = some l) ∧
    (l.phase = .running) ∧
    (farMove s l = some (h, f, x, i, m)) :=
  ⟨5, 1, 18, 0, 0, 0, true, farMv, farLaunch, farSt, by decide⟩

theorem witness_RegionsAreDeclaredAndReleased_8 :
    ∃ (c q va i : Nat) (e : Bool) (dst w : BitVec 64) (r : TRegion) (k : Cmd) (s : State),
    (findLaunch s c q = none) ∧
    (getCmd s c q = some k) ∧
    (k.page = .copying va dst) ∧
    (tierPage s c va = some (r, i, w)) ∧
    (peTier w = 2 ∨ peTier dst = 2) :=
  ⟨5, 1, 0x20_0000, 0, true, mpDst, 0xE000_0000_0000_4000, { ldRegion with pages := [0xE000_0000_0000_4000] }, mpCmd (.copying 0x20_0000 mpDst), { mpSt (.copying 0x20_0000 mpDst) with regions := [{ ldRegion with pages := [0xE000_0000_0000_4000] }] }, by decide⟩

theorem witness_RegionsAreDeclaredAndReleased_9 :
    ∃ (c q h f x i : Nat) (e : Bool) (m : Move) (l : Launch) (s : State),
    (findLaunch s c q = some l) ∧
    (l.phase = .running) ∧
    (farMove s l = some (h, f, x, i, m)) ∧
    (streamOf s h f x = some (l, i, (l.streams.getD i ⟨[], 0, 0, none, 0, [], [], .run, false, [], [], [], []⟩))) :=
  ⟨5, 1, 18, 0, 0, 0, false, farMv, farLaunch, farSt, by decide⟩

theorem witness_RegionsAreDeclaredAndReleased_10 :
    ∃ (h : Nat) (s : State),
    (fget s h 0 Fl.TIER_HINT_CTL_THRESHOLD = 0) :=
  ⟨18, { up with regions := [{ ldRegion with pages := [0x9006_0000_0000_0004] }] }, by decide⟩

theorem witness_PagesMoveInSteps_1 :
    ∃ (c q va i : Nat) (bs : List Byte) (dst w : BitVec 64) (r : TRegion) (k : Cmd) (s : State),
    (runCmd s c q 3 = some k) ∧
    (k.denied = none) ∧
    (k.page = .check) ∧
    ((readVa s (.cmd c q) c (k.desc.argA.toNat + 16 * k.done) 16).1 = .ok bs) ∧
    (imgNum bs 0 8 = va) ∧
    (BitVec.ofNat 64 (imgNum bs 8 8) = dst) ∧
    (tierPage (readVa s (.cmd c q) c (k.desc.argA.toNat + 16 * k.done) 16).2 c va = some (r, i, w)) ∧
    (homeStatus (readVa s (.cmd c q) c (k.desc.argA.toNat + 16 * k.done) 16).2 c dst = none) ∧
    (peHome dst ≠ peHome w) ∧
    (getCmd (readVa s (.cmd c q) c (k.desc.argA.toNat + 16 * k.done) 16).2 c q = some k) :=
  ⟨5, 1, 0x20_0000, 0, mpEntry, mpDst, ldEntry, ldRegion, mpCmd .check, mpSt .check, by decide⟩

theorem witness_PagesMoveInSteps_2 :
    ∃ (c q va n i f : Nat) (dst w : BitVec 64) (r : TRegion) (k : Cmd) (u s : State),
    (runCmd s c q 3 = some k) ∧
    (k.page = .ready va dst n) ∧
    (tierPage s c va = some (r, i, w)) ∧
    (peMoving w = false) ∧
    (peLend w = 0) ∧
    (bindingHolds s c (r.va + i * Config.page2M) Config.page2M (fun b => b.frozen || b.tier != 0) = false) ∧
    (readyBefore s c va n = false) ∧
    (peHome dst ≠ peHome w) ∧
    (freeFinder s (ctxHub c) = some f) ∧
    (charge s c (peTier dst) 1 = some u) :=
  ⟨5, 1, 0x20_0000, 0, 0, 0, mpDst, ldEntry, ldRegion, mpCmd (.ready 0x20_0000 mpDst 0), (charge (mpSt (.ready 0x20_0000 mpDst 0)) 5 1 1).getD up, mpSt (.ready 0x20_0000 mpDst 0), by decide⟩

theorem witness_PagesMoveInSteps_3 :
    ∃ (c q va i : Nat) (dst w : BitVec 64) (r : TRegion) (k : Cmd) (s : State),
    (runCmd s c q 3 = some k) ∧
    (k.page = .copying va dst) ∧
    (tierPage s c va = some (r, i, w)) ∧
    (k.denied = none) ∧
    (peTier w ≠ 3) ∧
    (peTier dst ≠ 3) ∧
    (homeRefusal s c w = none) ∧
    (homeRefusal s c dst = none) ∧
    (s.poison = []) ∧
    (s.flaws = []) ∧
    (s.coh.probes = []) ∧
    (s.coh.resps = []) ∧
    (s.coh.data = []) ∧
    (s.failedPcs = []) ∧
    (fget s 16 0 Fl.DDR_POPULATION_FAILED = 0) ∧
    (fget s 17 0 Fl.DDR_POPULATION_FAILED = 0) :=
  ⟨5, 1, 0x20_0000, 0, mpDst, 0xD000_0000_0000_0004, { ldRegion with pages := [0xD000_0000_0000_0004] }, mpCmd (.copying 0x20_0000 mpDst), { mpSt (.copying 0x20_0000 mpDst) with regions := [{ ldRegion with pages := [0xD000_0000_0000_0004] }] }, by decide⟩

theorem witness_PagesMoveInSteps_4 :
    ∃ (c q : Nat) (old : BitVec 64) (k : Cmd) (s : State),
    (runCmd s c q 3 = some k) ∧
    (k.page = .switched old) ∧
    (oldHomeRead s old = false) ∧
    (k.done + 1 < k.desc.count) :=
  ⟨5, 1, ldEntry, mpCmd (.switched ldEntry), mpSt (.switched ldEntry), by decide⟩

theorem witness_PagesMoveInSteps_5 :
    ∃ (c q : Nat) (old : BitVec 64) (k : Cmd) (s : State),
    (runCmd s c q 3 = some k) ∧
    (k.page = .switched old) ∧
    (oldHomeRead s old = false) ∧
    (k.desc.count ≤ k.done + 1) :=
  ⟨5, 1, ldEntry, { mpCmd (.switched ldEntry) with done := 1 }, modCmd (mpSt (.switched ldEntry)) 5 1 fun x => { x with done := 1 }, by decide⟩

theorem witness_WalksFillOrFault_leaf :
    ∃ (w : Walk) (wr : Bool), ∀ x ∈ w.reqs, x.2 = false ∨ wr = true := ⟨wk0, true, by decide⟩

theorem witness_WalksFillOrFault_1 :
    ∃ (die ctx page lv c q : Nat) (held : BitVec 8) (wr : Bool) (k : Cmd) (w : Walk) (u s : State),
    (findWalk s die ctx page = some w) ∧
    (w.discard = false) ∧
    (w.reqs = [(.cmd c q, wr)]) ∧
    (getCmd s c q = some k) ∧
    (walkTables (fsat (dropWalk s w) die 0 Fl.WLK_WALKS_WALKS 1) die w held = (.tableError lv, u)) ∧
    (u.xlat.faults.find? (fun f => f.ctx == w.ctx && f.page == w.page) = none) ∧
    (getCmd u c q = some k) ∧
    (fget u 16 0 Fl.WLK_FAULT_RING_ENABLE = 1) ∧
    (canOpen u = true) ∧
    (busyStreams s = []) :=
  ⟨16, 5, 0x1000, 5, 5, 1, 0, false, cmdOf 2, wkE, (walkTables (fsat (dropWalk wkErr wkE) 16 0 Fl.WLK_WALKS_WALKS 1) 16 wkE 0).2, wkErr, by decide⟩

theorem witness_WalksFillOrFault_2 :
    ∃ (ctx page c q : Nat) (k : Cmd) (w : FaultWait) (s : State),
    (s.xlat.waiting.find? (fun w => w.ctx == ctx && w.page == page) = some w) ∧
    (w.req = .cmd c q) ∧
    (getCmd s c q = some k) ∧
    (s.xlat.faults.find? (fun f => f.ctx == ctx && f.page == page) = none) ∧
    (fget s 16 0 Fl.WLK_FAULT_RING_ENABLE = 1) ∧
    (canOpen s = true) ∧
    (busyStreams s = []) :=
  ⟨5, 0x1000, 5, 1, cmdOf 2, ⟨5, 0x1000, 1, 2, .cmd 5 1, false⟩, ringOn { ctxSt 2 cpu3 with xlat := { cpu3.xlat with waiting := [⟨5, 0x1000, 1, 2, .cmd 5 1, false⟩] } }, by decide⟩

theorem witness_WalksFillOrFault_3 :
    ∃ (die ctx page : Nat) (held : BitVec 8) (w : Walk) (s : State),
    (findWalk s die ctx page = some w) ∧
    (w.discard = false) :=
  ⟨16, 5, 0x1000, 0, wk0, wkSt, by decide⟩

theorem witness_WalksFillOrFault_4 :
    ∃ (die ctx page : Nat) (held : BitVec 8) (w : Walk) (s : State),
    (findWalk s die ctx page = some w) ∧
    (w.discard = true) :=
  ⟨16, 5, 0x1000, 0, { wk0 with discard := true }, { wkSt with xlat := { wkSt.xlat with walks := [{ wk0 with discard := true }] } }, by decide⟩

theorem witness_WalksFillOrFault_5 :
    ∃ (ctx page : Nat) (w : FaultWait) (s : State),
    (s.xlat.waiting.find? (fun w => w.ctx == ctx && w.page == page) = some w) ∧
    (s.xlat.faults.find? (fun f => f.ctx == ctx && f.page == page) = none) ∧
    (fget s 16 0 Fl.WLK_FAULT_RING_ENABLE ≠ 0) ∧
    (canOpen s = true) :=
  ⟨5, 0x1000, ⟨5, 0x1000, 1, 2, .qp 22 3, true⟩, ringOn { ctxSt 2 cpu3 with xlat := { cpu3.xlat with waiting := [⟨5, 0x1000, 1, 2, .qp 22 3, true⟩] } }, by decide⟩

theorem witness_WalksFillOrFault_6 :
    ∃ (ctx page : Nat) (w : FaultWait) (f : FaultRec) (s : State),
    (s.xlat.waiting.find? (fun w => w.ctx == ctx && w.page == page) = some w) ∧
    (s.xlat.faults.find? (fun f => f.ctx == ctx && f.page == page) = some f) :=
  ⟨5, 0x1000, ⟨5, 0x1000, 1, 2, .qp 22 3, true⟩, fr0, { frSt with xlat := { frSt.xlat with waiting := [⟨5, 0x1000, 1, 2, .qp 22 3, true⟩] } }, by decide⟩

theorem witness_FaultsAreAnswered_1 :
    ∃ (n c q : Nat) (k : Cmd) (f : FaultRec) (s : State),
    (windowDead s 16 = false) ∧
    (s.xlat.faults.find? (fun f => f.number == n) = some f) ∧
    (f.waiters = [.cmd c q]) ∧
    (getCmd s c q = some k) :=
  ⟨7, 5, 1, { cmdOf 2 with stalled := some 0x1000 }, fr0, frSt, by decide⟩

theorem witness_FaultsAreAnswered_2 :
    ∃ (n c q : Nat) (k : Cmd) (f : FaultRec) (s : State),
    (windowDead s 16 = false) ∧
    (s.xlat.faults.find? (fun f => f.number == n) = some f) ∧
    (f.waiters = [.cmd c q]) ∧
    (getCmd s c q = some k) ∧
    (busyStreams s = []) :=
  ⟨7, 5, 1, { cmdOf 2 with stalled := some 0x1000 }, fr0, frSt, by decide⟩

theorem witness_FaultsAreAnswered_3 :
    ∃ (n : Nat) (s : State),
    (windowDead s 16 = false) ∧
    (s.xlat.faults.find? (fun f => f.number == n) = none) :=
  ⟨8, frSt, by decide⟩

theorem witness_FaultsAreAnswered_4 :
    ∃ (n : Nat) (f : FaultRec) (s : State),
    (windowDead s 16 = false) ∧
    (s.xlat.faults.find? (fun f => f.number == n) = some f) :=
  ⟨7, { fr0 with waiters := [.cmd 5 1, .qp 22 3] }, { frSt with xlat := { frSt.xlat with faults := [{ fr0 with waiters := [.cmd 5 1, .qp 22 3] }] } }, by decide⟩

theorem witness_FaultsAreAnswered_5 :
    ∃ (n : Nat) (f : FaultRec) (s : State),
    (windowDead s 16 = false) ∧
    (s.xlat.faults.find? (fun f => f.number == n) = some f) :=
  ⟨7, { fr0 with waiters := [.cmd 5 1, .qp 22 3] }, { frSt with xlat := { frSt.xlat with faults := [{ fr0 with waiters := [.cmd 5 1, .qp 22 3] }] } }, by decide⟩

theorem witness_FaultsAreAnswered_6 :
    ∃ (h c va : Nat) (tb : Bool) (s : State),
    (windowDead s h = false) ∧
    (fget s h 0 Fl.TRC_INV_CTL_BUSY = 0) ∧
    (serves h c = true) :=
  ⟨18, 5, 0x1234, false, frSt, by decide⟩

theorem witness_FaultsAreAnswered_7 :
    ∃ (h c va n : Nat) (tb : Bool) (s : State),
    (windowDead s h = false) ∧
    (fget s h 0 Fl.TRC_INV_CTL_BUSY = 0) ∧
    (serves h c = true) :=
  ⟨18, 5, 0x1234, 3, false, frSt, by decide⟩

theorem witness_FaultsAreAnswered_8 :
    ∃ (h c : Nat) (tb : Bool) (s : State),
    (windowDead s h = false) ∧
    (fget s h 0 Fl.TRC_INV_CTL_BUSY = 0) ∧
    (serves h c = true) :=
  ⟨18, 5, true, frSt, by decide⟩

theorem witness_FaultsAreAnswered_9 :
    ∃ (h : Nat) (tb : Bool) (s : State),
    (windowDead s h = false) ∧
    (fget s h 0 Fl.TRC_INV_CTL_BUSY = 0) :=
  ⟨18, true, frSt, by decide⟩

theorem witness_FaultsAreAnswered_10 :
    ∃ (h : Nat) (tb : Bool) (s : State),
    (windowDead s h = false) ∧
    (fget s h 0 Fl.TRC_INV_CTL_BUSY = 1) :=
  ⟨18, true, fput frSt 18 0 Fl.TRC_INV_CTL_BUSY 1, by decide⟩

theorem witness_FaultsAreAnswered_11 :
    ∃ (h first last : Nat) (c : Option Nat) (tb : Bool) (s : State),
    (s.xlat.invals.find? (fun x => x.1 == h) = some (h, c, first, last, tb)) ∧
    (s.xlat.walks.all (fun w => !w.discard) = true) :=
  ⟨18, 0x1000, 0x1FFF, some 5, false, { frSt with xlat := { frSt.xlat with invals := [(18, some 5, 0x1000, 0x1FFF, false)] } }, by decide⟩

theorem witness_HomesGrantLines_1 :
    ∃ (h line hd u : Nat) (s : State),
    (homeOf s line = h) ∧
    (normalKind (paKind s line) = true) ∧
    (paKind s line ≠ .hole) ∧
    (accepts s line = true) ∧
    (lineBusy (getHome s h) line = false) ∧
    (dirFind (getHome s h) line = none) ∧
    ((dirWays (getHome s h) h line).length < 16) ∧
    (poisoned s line = false) ∧
    (farDown s line = false) ∧
    (smGet s.flaws line = none) ∧
    (hd < 6) :=
  ⟨16, 0x2040, 0, 0x8103, cpu3, by decide⟩

theorem witness_HomesGrantLines_2 :
    ∃ (h line hd u : Nat) (s : State),
    (homeOf s line = h) ∧
    (normalKind (paKind s line) = true) ∧
    (paKind s line ≠ .hole) ∧
    (accepts s line = true) ∧
    (lineBusy (getHome s h) line = false) ∧
    (dirFind (getHome s h) line = none) ∧
    ((dirWays (getHome s h) h line).length < 16) ∧
    (poisoned s line = false) ∧
    (farDown s line = false) ∧
    (smGet s.flaws line = none) ∧
    (hd < 6) :=
  ⟨16, 0x2040, 0, 0x8103, cpu3, by decide⟩

theorem witness_HomesGrantLines_3 :
    ∃ (h line hd u : Nat) (v : BitVec 6) (s : State),
    (homeOf s line = h) ∧
    (normalKind (paKind s line) = true) ∧
    (paKind s line ≠ .hole) ∧
    (accepts s line = true) ∧
    (lineBusy (getHome s h) line = false) ∧
    (dirFind (getHome s h) line = some ⟨line, false, v⟩) ∧
    ((holdersOf v).filter (· != hd) ≠ []) :=
  ⟨16, 0x2040, 0, 0x8103, 3, homeSt [⟨0x2040, false, 3⟩], by decide⟩

theorem witness_HomesGrantLines_4 :
    ∃ (h line hd u : Nat) (s : State),
    (homeOf s line = h) ∧
    (normalKind (paKind s line) = true) ∧
    (paKind s line ≠ .hole) ∧
    (accepts s line = true) ∧
    (lineBusy (getHome s h) line = false) ∧
    (dirFind (getHome s h) line = some ⟨line, false, bitOf hd⟩) ∧
    (hd < 6) ∧
    (holdsS s u line = true) :=
  ⟨16, 0x2040, 0, 0x8103, putCore (homeSt [⟨0x2040, false, 1⟩]) 16 3 { Core.fresh with l2 := [⟨0x2040, .s, List.replicate 64 1⟩] }, by decide⟩

theorem witness_HomesGrantLines_5 :
    ∃ (h line u : Nat) (s : State),
    (homeOf s line = h) ∧
    (normalKind (paKind s line) = true) ∧
    (paKind s line ≠ .hole) ∧
    (accepts s line = true) ∧
    (lineBusy (getHome s h) line = false) ∧
    (dirFind (getHome s h) line = none) ∧
    (poisoned s line = false) ∧
    (farDown s line = false) ∧
    (smGet s.flaws line = none) :=
  ⟨16, 0x2040, 0x9001, cpu3, by decide⟩

theorem witness_HomesGrantLines_6 :
    ∃ (h line hd u tg : Nat) (e : Ecc) (mask : BitVec 64) (data clr : List Byte) (q : Instr × CohReq) (s : State),
    (q ∈ [(Instr.rdShared h line hd u e, bareReq cRdShared line hd u e), (.rdOwn h line hd u e, bareReq cRdOwn line hd u e),
        (.upgrade h line hd u, bareReq cUpgrade line hd u .none), (.rdNc h line u e, bareReq cRdNc line 6 u e),
        (.wrFull h line u data, { bareReq cWrFull line 6 u .none with data := data }),
        (.wrPart h line u mask data, { bareReq cWrPart line 6 u .none with mask := mask, data := data }),
        (.wrStash h line u tg data, { bareReq cWrStash line 6 u .none with target := tg, data := data }),
        (.rmwHome h line u clr data, { bareReq cRmwHome line 6 u .none with clear := clr, data := data })]) ∧
    (homeOf s line = h) ∧
    (normalKind (paKind s line) = true) ∧
    (paKind s line ≠ .hole) ∧
    (accepts s line = true) ∧
    (lineBusy (getHome s h) line = false) ∧
    (needsEntry s (asServed s q.2) = true → hasRoom (getHome s h) h line = true) ∧
    ((probesFor (dirFind (getHome s h) line) (asServed s q.2)).1 ≠ []) :=
  ⟨16, 0x2040, 0, 0x8103, 0, .none, 0xFF, List.replicate 64 9, [], (.wrPart 16 0x2040 0x8103 0xFF (List.replicate 64 9), { bareReq cWrPart 0x2040 6 0x8103 .none with mask := 0xFF, data := List.replicate 64 9 }), homeSt [⟨0x2040, true, 2⟩], by decide⟩

theorem witness_HomesGrantLines_7 :
    ∃ (h line hd u tg : Nat) (e : Ecc) (mask : BitVec 64) (data clr : List Byte) (q : Instr × CohReq) (s : State),
    (q ∈ [(Instr.rdShared h line hd u e, bareReq cRdShared line hd u e), (.rdOwn h line hd u e, bareReq cRdOwn line hd u e),
        (.upgrade h line hd u, bareReq cUpgrade line hd u .none), (.rdNc h line u e, bareReq cRdNc line 6 u e),
        (.wrFull h line u data, { bareReq cWrFull line 6 u .none with data := data }),
        (.wrPart h line u mask data, { bareReq cWrPart line 6 u .none with mask := mask, data := data }),
        (.wrStash h line u tg data, { bareReq cWrStash line 6 u .none with target := tg, data := data }),
        (.rmwHome h line u clr data, { bareReq cRmwHome line 6 u .none with clear := clr, data := data })]) ∧
    (homeOf s line = h) ∧
    (normalKind (paKind s line) = true) ∧
    (paKind s line ≠ .hole) ∧
    (accepts s line = true) ∧
    (lineBusy (getHome s h) line = false) ∧
    (needsEntry s (asServed s q.2) = true → hasRoom (getHome s h) h line = true) ∧
    ((probesFor (dirFind (getHome s h) line) (asServed s q.2)).1 = []) :=
  ⟨16, 0x2040, 0, 0x8103, 0, .none, 0xFF, List.replicate 64 9, [], (.rdNc 16 0x2040 0x8103 .none, bareReq cRdNc 0x2040 6 0x8103 .none), homeSt [⟨0x2040, false, 2⟩], by decide⟩

theorem witness_HomesGrantLines_8 :
    ∃ (h line hd u tg : Nat) (e : Ecc) (mask : BitVec 64) (data clr : List Byte) (q : Instr × CohReq) (s : State),
    (q ∈ [(Instr.rdShared h line hd u e, bareReq cRdShared line hd u e), (.rdOwn h line hd u e, bareReq cRdOwn line hd u e),
        (.upgrade h line hd u, bareReq cUpgrade line hd u .none), (.rdNc h line u e, bareReq cRdNc line 6 u e),
        (.wrFull h line u data, { bareReq cWrFull line 6 u .none with data := data }),
        (.wrPart h line u mask data, { bareReq cWrPart line 6 u .none with mask := mask, data := data }),
        (.wrStash h line u tg data, { bareReq cWrStash line 6 u .none with target := tg, data := data }),
        (.rmwHome h line u clr data, { bareReq cRmwHome line 6 u .none with clear := clr, data := data })]) ∧
    (homeOf s line = h) ∧
    (normalKind (paKind s line) = true) ∧
    (paKind s line ≠ .hole) ∧
    (accepts s line = true) ∧
    (lineBusy (getHome s h) line = true) :=
  ⟨16, 0x2040, 0, 0x8103, 0, .none, 0xFF, List.replicate 64 9, [], (.rdOwn 16 0x2040 0 0x8103 .none, bareReq cRdOwn 0x2040 0 0x8103 .none), putHome cpu3 16 { Home.fresh with txns := [npTxn] }, by decide⟩

theorem witness_HomesWriteLines_1 :
    ∃ (h line u : Nat) (data : List Byte) (s : State),
    (homeOf s line = h) ∧
    (normalKind (paKind s line) = true) ∧
    (paKind s line ≠ .hole) ∧
    (accepts s line = true) ∧
    (lineBusy (getHome s h) line = false) ∧
    (dirFind (getHome s h) line = none) ∧
    (deadLine s line = false) ∧
    (line % 64 = 0) ∧
    (s.mem.wf = true) ∧
    (data.length = 64) :=
  ⟨16, 0x2040, 0x9001, List.replicate 64 9, { cpu3 with poison := [0x2040] }, by decide⟩

theorem witness_HomesWriteLines_2 :
    ∃ (h line u : Nat) (mask : BitVec 64) (data : List Byte) (s : State),
    (homeOf s line = h) ∧
    (normalKind (paKind s line) = true) ∧
    (paKind s line ≠ .hole) ∧
    (accepts s line = true) ∧
    (lineBusy (getHome s h) line = false) ∧
    (dirFind (getHome s h) line = none) ∧
    (deadLine s line = false) ∧
    (line % 64 = 0) ∧
    (s.mem.wf = true) ∧
    (poisoned s line = false) ∧
    (farDown s line = false) ∧
    (smGet s.flaws line = none) ∧
    (data.length = 64) :=
  ⟨16, 0x2040, 0x9001, 0xFF, List.replicate 64 9, cpu3, by decide⟩

theorem witness_HomesWriteLines_3 :
    ∃ (h line u : Nat) (clr st : List Byte) (s : State),
    (homeOf s line = h) ∧
    (normalKind (paKind s line) = true) ∧
    (paKind s line ≠ .hole) ∧
    (accepts s line = true) ∧
    (lineBusy (getHome s h) line = false) ∧
    (dirFind (getHome s h) line = none) ∧
    (deadLine s line = false) ∧
    (line % 64 = 0) ∧
    (s.mem.wf = true) ∧
    (poisoned s line = false) ∧
    (farDown s line = false) ∧
    (smGet s.flaws line = none) ∧
    (clr.length = 64) ∧
    (st.length = 64) :=
  ⟨16, 0x2040, 0x9001, List.replicate 64 1, List.replicate 64 2, { cpu3 with mem := [(0x2040, 1)] }, by decide⟩

theorem witness_HomesWriteLines_4 :
    ∃ (h line u tg : Nat) (data : List Byte) (s : State),
    (homeOf s line = h) ∧
    (normalKind (paKind s line) = true) ∧
    (paKind s line ≠ .hole) ∧
    (accepts s line = true) ∧
    (lineBusy (getHome s h) line = false) ∧
    (dirFind (getHome s h) line = none) ∧
    ((dirWays (getHome s h) h line).length < 16) ∧
    (deadLine s line = false) ∧
    (line % 64 = 0) ∧
    (s.mem.wf = true) ∧
    (data.length = 64) ∧
    (stashUnit s tg = true) :=
  ⟨16, 0x2040, 0x9001, 0x6003, List.replicate 64 9, cpu3, by decide⟩

theorem witness_HomesWriteLines_5 :
    ∃ (h line u tg : Nat) (data : List Byte) (s : State),
    (homeOf s line = h) ∧
    (normalKind (paKind s line) = true) ∧
    (paKind s line ≠ .hole) ∧
    (accepts s line = true) ∧
    (lineBusy (getHome s h) line = false) ∧
    (dirFind (getHome s h) line = none) ∧
    ((dirWays (getHome s h) h line).length < 16) ∧
    (deadLine s line = false) ∧
    (line % 64 = 0) ∧
    (s.mem.wf = true) ∧
    (data.length = 64) ∧
    (stashUnit s tg = false) :=
  ⟨16, 0x2040, 0x9001, 0x6004, List.replicate 64 9, cpu3, by decide⟩

theorem witness_ProbesAndAnswers_1 :
    ∃ (hd line : Nat) (p : ProbeMsg) (x : CacheLine) (s : State),
    (s.coh.probes.find? (fun p => p.holder == hd && p.line == line) = some p) ∧
    (p.inval = true) ∧
    (2 ≤ hd → windowDead s (holderDie hd) = false) ∧
    (s.coh.data.any (fun m => m.holder == hd && m.line == line && !m.poison) = false) ∧
    ((holderCopies s hd line).find? (fun x => x.st == .m) = some x) :=
  ⟨0, 0x2040, ⟨16, 0, 0x2040, true, false⟩, mLine, probeSt, by decide⟩

theorem witness_ProbesAndAnswers_2 :
    ∃ (hd line : Nat) (p : ProbeMsg) (s : State),
    (s.coh.probes.find? (fun p => p.holder == hd && p.line == line) = some p) ∧
    (2 ≤ hd → windowDead s (holderDie hd) = false) ∧
    (s.coh.data.any (fun m => m.holder == hd && m.line == line && !m.poison) = false) :=
  ⟨0, 0x2040, ⟨16, 0, 0x2040, false, false⟩, { probeSt with coh := { probeSt.coh with probes := [⟨16, 0, 0x2040, false, false⟩] } }, by decide⟩

theorem witness_ProbesAndAnswers_3 :
    ∃ (h hd line : Nat) (m : RespMsg) (s : State),
    (nextResp s h line hd isWb = some m) :=
  ⟨16, 0, 0x2040, ⟨16, 0, 0x2040, .evicted (List.replicate 64 1), false⟩, { cpu3 with coh := { cpu3.coh with resps := [⟨16, 0, 0x2040, .evicted (List.replicate 64 1), false⟩] } }, by decide⟩

theorem witness_ProbesAndAnswers_4 :
    ∃ (h hd line : Nat) (m : RespMsg) (s : State),
    (nextResp s h line hd isClean = some m) :=
  ⟨16, 1, 0x2040, ⟨16, 1, 0x2040, .clean false, false⟩, prSt, by decide⟩

theorem witness_ProbesAndAnswers_5 :
    ∃ (d c line : Nat) (m : DataMsg) (k : CoreMiss) (s : State),
    (d < 18) ∧
    (dataFor s d c line = some m) ∧
    (m.poison = false) ∧
    (m.data.length = 64) ∧
    ((getCore s d c).queue = []) ∧
    ((getCore s d c).misses.filter (fun x => x.line == line) = [k]) ∧
    (k.isStore = false) ∧
    (k.mask = 0) ∧
    (k.bytes.length = 64) ∧
    (lineOf k.addr = line) ∧
    ((getCore s d c).stores.any (fun b => lineOf b.addr == line) = false) :=
  ⟨16, 3, 0x2040, ⟨0, 0x8103, 0x2040, .s, false, List.replicate 64 4⟩, ⟨0x2040, 0x2042, 2, false, 0, List.replicate 64 0⟩, putCore { cpu3 with coh := { cpu3.coh with data := [⟨0, 0x8103, 0x2040, .s, false, List.replicate 64 4⟩] } } 16 3 { Core.fresh with misses := [⟨0x2040, 0x2042, 2, false, 0, List.replicate 64 0⟩] }, by decide⟩

theorem witness_ProbesAndAnswers_6 :
    ∃ (h hd line : Nat) (x : CacheLine) (s : State),
    (nextResp s h line hd isWb = none) ∧
    (homeOf s line = h) ∧
    ((holderCopies s hd line).find? (fun x => x.st == .m) = some x) ∧
    ((dirFind (getHome s h) line).any (fun e => e.em && e.holders.getLsbD hd) = true) ∧
    ((getHome s h).txns.any (fun y => y.line == line) = false) ∧
    (poisoned s line = false) ∧
    (x.data.length = 64) ∧
    (deadLine s line = false) ∧
    (line % 64 = 0) ∧
    (s.mem.wf = true) :=
  ⟨16, 0, 0x2040, mLine, { probeSt with coh := { probeSt.coh with probes := [] } }, by decide⟩

theorem witness_ProbesAndAnswers_7 :
    ∃ (h hd line : Nat) (m : RespMsg) (x : Txn) (s : State),
    (nextResp s h line hd (fun k => k == .notPresent) = some m) ∧
    (m.kind = .notPresent) ∧
    (m.late = false) ∧
    (waitsFor (getHome s h) line hd = some x) ∧
    (x.waiting.erase hd ≠ []) :=
  ⟨16, 0, 0x2040, ⟨16, 0, 0x2040, .notPresent, false⟩, npTxn, npSt, by decide⟩

theorem witness_ProbesAndAnswers_8 :
    ∃ (h hd line : Nat) (m : RespMsg) (s : State),
    (nextResp s h line hd (fun k => k == .notPresent) = some m) ∧
    (m.kind = .notPresent) ∧
    (waitsFor (getHome s h) line hd = none) :=
  ⟨16, 0, 0x2040, ⟨16, 0, 0x2040, .notPresent, false⟩, { cpu3 with coh := { cpu3.coh with resps := [⟨16, 0, 0x2040, .notPresent, false⟩] } }, by decide⟩

theorem witness_ProbesAndAnswers_9 :
    ∃ (h hd line r u : Nat) (m : RespMsg) (e : DirEntry) (s : State),
    (nextResp s h line hd isClean = some m) ∧
    (m.kind = .clean false) ∧
    (m.late = false) ∧
    ((getHome s h).txns = [⟨line, bareReq cRdOwn line r u .none, [hd], [], false⟩]) ∧
    ((getHome s h).queue = []) ∧
    (dirFind (getHome s h) line = some e) ∧
    (r < 6) ∧
    (poisoned s line = false) ∧
    (farDown s line = false) ∧
    (smGet s.flaws line = none) :=
  ⟨16, 1, 0x2040, 0, 0x8103, ⟨16, 1, 0x2040, .clean false, false⟩, ⟨0x2040, false, 2⟩, prSt, by decide⟩

theorem witness_ProbesAndAnswers_10 :
    ∃ (d c line : Nat) (m : DataMsg) (s : State),
    (d < 18) ∧
    (dataFor s d c line = some m) ∧
    (m.poison = false) ∧
    (m.data ≠ []) ∧
    ((getCore s d c).misses.any (fun x => x.line == line) = false) ∧
    ((getCore s d c).stores.any (fun b => lineOf b.addr == line) = false) :=
  ⟨16, 3, 0x2040, ⟨0, 0x8103, 0x2040, .s, false, List.replicate 64 4⟩, { cpu3 with coh := { cpu3.coh with data := [⟨0, 0x8103, 0x2040, .s, false, List.replicate 64 4⟩] } }, by decide⟩

theorem witness_ProbesAndAnswers_11 :
    ∃ (d c line : Nat) (m : DataMsg) (s : State),
    (18 ≤ d) ∧
    (s.coh.data.find? (fun m => m.holder == holderOf d && m.line == line) = some m) ∧
    (m.poison = false) :=
  ⟨18, 0, 0x2040, ⟨2, 0x9001, 0x2040, .s, false, List.replicate 64 4⟩, { cpu3 with coh := { cpu3.coh with data := [⟨2, 0x9001, 0x2040, .s, false, List.replicate 64 4⟩] } }, by decide⟩

theorem witness_ProbesAndAnswers_12 :
    ∃ (h line hd u : Nat) (s : State),
    ((getHome s h).retry = [bareReq cRdShared line hd u .none]) ∧
    ((getHome s h).held = []) ∧
    ((getHome s h).queue = []) ∧
    (dirFind (getHome s h) line = none) ∧
    ((dirWays (getHome s h) h line).length < 16) ∧
    (poisoned s line = false) ∧
    (farDown s line = false) ∧
    (smGet s.flaws line = none) ∧
    (hd < 6) :=
  ⟨16, 0x2040, 0, 0x8103, putHome cpu3 16 { Home.fresh with retry := [bareReq cRdShared 0x2040 0 0x8103 .none] }, by decide⟩

theorem witness_ProbesAndAnswers_13 :
    ∃ (h : Nat) (r : CohReq) (s : State),
    ((getHome s h).retry.find? (fun r => hasRoom (getHome s h) h r.line || (dirWays (getHome s h) h r.line).any fun e => !openOn (getHome s h) e.line) = some r) ∧
    ((getHome s h).held = []) :=
  ⟨16, bareReq cRdOwn 0x2040 0 0x8103 .none, putHome cpu3 16 { Home.fresh with retry := [bareReq cRdOwn 0x2040 0 0x8103 .none], dir := [⟨0x2040, false, 3⟩] }, by decide⟩

theorem witness_ProbesAndAnswers_14 :
    ∃ (h line : Nat) (x : Txn) (s : State),
    ((getHome s h).txns.find? (fun x => x.line == line) = some x) ∧
    (x.evict = false) ∧
    ((getHome s h).queue.filter (fun y => y.line == line) = []) ∧
    (line < 2 ^ 60) ∧
    (line % 64 = 0) ∧
    (s.mem.wf = true) :=
  ⟨16, 0x2040, npTxn, putHome { cpu3 with mem := [(0x2040, 7)] } 16 { Home.fresh with txns := [npTxn] }, by decide⟩

theorem witness_MemoryControllersFailAndScrub_1 :
    ∃ (st p : Nat) (s : State),
    (stackServes s st = true) ∧
    (diePart s (18 + st / 4) = some p) ∧
    (s.rst.kind.rank < 2) ∧
    (s.rst.parts.contains p = false) ∧
    ((getPersist s 1).commits < wearEnd) :=
  ⟨2, 0, hbmUp, by decide⟩

theorem witness_MemoryControllersFailAndScrub_2 :
    ∃ (pc : Nat) (s : State),
    (stackServes s (pc / 32) = true) ∧
    ((goodPcs s (pc / 32)).testBit (pc % 32) = true) ∧
    (s.failedPcs.contains pc = false) ∧
    (lostPcs { s with failedPcs := insertNat s.failedPcs pc } (pc / 32) ≤ 8) :=
  ⟨5, hbmUp, by decide⟩

theorem witness_MemoryControllersFailAndScrub_3 :
    ∃ (d ch : Nat) (s : State),
    ((fget s d 0 Fl.DDR_POPULATION_POPULATED).testBit ch = true) ∧
    ((fget s d 0 Fl.DDR_POPULATION_FAILED).testBit ch = false) ∧
    (ch < 8) :=
  ⟨16, 0, cpu3, by decide⟩

theorem witness_MemoryControllersFailAndScrub_5 :
    ∃ (u : Nat) (c : Nat × Bool × Nat) (s : State),
    (recalUnit s u = some c) ∧
    (recalDue s u c + 100000000 ≤ s.time.toNat) :=
  ⟨unitId 16 2 0, (16, false, 0), { cpu3 with time := 200000000 }, by decide⟩

theorem witness_MemoryControllersFailAndScrub_6 :
    ∃ (u : Nat) (c : Nat × Bool × Nat) (s : State),
    (recalUnit s u = some c) ∧
    (recalDue s u c ≤ s.time.toNat) ∧
    (c.2.1 = true → quietHub s c.1 = true) :=
  ⟨unitId 18 3 0, (18, true, 0), { hbmUp with time := 200000000 }, by decide⟩

theorem witness_MemoryControllersFailAndScrub_7 :
    ∃ (u : Nat) (c : Nat × Bool × Nat) (b : Bool) (s : State),
    (recalUnit s u = some c) ∧
    (s.time.toNat < recalDue s u c) :=
  ⟨unitId 16 2 0, (16, false, 0), false, fput cpu3 16 0 Fl.DDR_BG_RECAL_PERIOD_MS 1, by decide⟩

theorem witness_MemoryControllersFailAndScrub_8 :
    ∃ (line : Nat) (c : Nat × Bool × Nat) (s : State),
    (controllerOf s line = some c) ∧
    (poisoned s line = false) ∧
    (s.mem.wf = true) :=
  ⟨0x2040, (16, false, 0), { cpu3 with mem := [(0x2040, 7)] }, by decide⟩

theorem witness_MemoryControllersFailAndScrub_9 :
    ∃ (line : Nat) (x : Ecc) (b : Bool) (c : Nat × Bool × Nat) (s : State),
    (controllerOf s line = some c) :=
  ⟨0x2040, .ce, true, (16, false, 0), cpu3, by decide⟩

theorem witness_MemoryControllersFailAndScrub_10 :
    ∃ (line : Nat) (s : State),
    (poisoned s line = false) ∧
    (smGet s.flaws line = none) :=
  ⟨0x2040, cpu3, by decide⟩

theorem witness_FlitsArriveInOrder_1 :
    ∃ (d p : Nat) (f : List Byte) (s : State),
    (lnkState s d p = 2) ∧
    (isBond d p = false) ∧
    (flitKind f < 2) ∧
    (flitCrcOk f = true) ∧
    (flitNak f = false) ∧
    (flitSeq f = ((getLnk s d p).lastSeq + 1) % 4096) :=
  ⟨18, 2, List.replicate 256 0, lnkUp, by decide, by decide, by decide, zero_flit_crc, by decide⟩

theorem witness_FlitsArriveInOrder_2 :
    ∃ (d p : Nat) (f : List Byte) (s : State),
    (lnkState s d p = 2) ∧
    (isBond d p = false) ∧
    (flitCrcOk f = false) ∧
    (p < 16) ∧
    ((getLnk s d p).lastSeq < 4096) :=
  ⟨18, 2, badFlit, lnkUp, by decide, by decide, bad_flit_crc, by decide⟩

theorem witness_FlitsArriveInOrder_3 :
    ∃ (d p : Nat) (f : List Byte) (s : State),
    (lnkState s d p = 2) ∧
    (isBond d p = false) ∧
    (flitKind f < 2) ∧
    (flitCrcOk f = true) ∧
    (flitNak f = false) ∧
    (flitSeq f ≠ ((getLnk s d p).lastSeq + 1) % 4096) ∧
    ((getLnk s d p).lastSeq < 4096) :=
  ⟨18, 2, List.replicate 256 0, putLnk lnkUp 18 2 { LinkPort.fresh with lastSeq := 7 }, by decide, by decide, by decide, zero_flit_crc, by decide⟩

theorem witness_FlitsArriveInOrder_4 :
    ∃ (d p : Nat) (f : List Byte) (g : SentFlit) (r : List SentFlit) (s : State),
    (lnkState s d p = 2) ∧
    (isBond d p = false) ∧
    (flitKind f = 2) ∧
    (flitCrcOk f = true) ∧
    (flitNak f = false) ∧
    ((getLnk s d p).sent = g :: r) ∧
    (0 < (flitAck f + 1 + 4096 - flitSeq g.flit) % 4096) ∧
    ((flitAck f + 1 + 4096 - flitSeq g.flit) % 4096 ≤ r.length + 1) :=
  ⟨18, 2, ackFlit, sent0, [sent0], putLnk lnkUp 18 2 { LinkPort.fresh with sent := [sent0, sent0] }, by decide, by decide, by decide, ack_flit_crc, by decide⟩

theorem witness_FlitsArriveInOrder_5 :
    ∃ (d p : Nat) (f : List Byte) (s : State),
    (lnkState s d p ≠ 2 ∨ isBond d p = true) :=
  ⟨18, 2, [], up, by decide⟩

theorem witness_LinksTrainAndFall_1 :
    ∃ (d p : Nat) (l : List (List Bool × List Bool)) (s : State),
    (lnkExists d p = true) ∧
    (isBond d p = false) ∧
    (lnkState s d p = 2 ∨ lnkState s d p = 3) :=
  ⟨18, 0, [(List.replicate 60 true, List.replicate 60 true)], lnkUp0, by decide⟩

theorem witness_LinksTrainAndFall_2 :
    ∃ (d p : Nat) (a b : List Bool) (r : List (List Bool × List Bool)) (w : Nat × Nat) (s : State),
    (lnkExists d p = true) ∧
    (isBond d p = false) ∧
    (lnkState s d p = 2) ∧
    (a.length = laneCount d p) ∧
    (b.length = laneCount d p) ∧
    ((getLnk s d p).ownMap = none) ∧
    ((getLnk s d p).record = none) ∧
    ((getLnk s (lnkPeer d p).1 (lnkPeer d p).2).ownMap = none) ∧
    ((getLnk s (lnkPeer d p).1 (lnkPeer d p).2).record = none) ∧
    (lnkWidth d p (List.zipWith (fun x y => x && y) a b) = some w) :=
  ⟨18, 0, List.replicate 60 true, List.replicate 60 true, [], (56, 4), lnkUp0, by decide⟩

theorem witness_LinksTrainAndFall_3 :
    ∃ (d p : Nat) (a b : List Bool) (q : List Bool × List Bool) (r : List (List Bool × List Bool)) (w : Nat × Nat) (s : State),
    (lnkExists d p = true) ∧
    (isBond d p = false) ∧
    (lnkState s d p = 2) ∧
    ((getLnk s d p).ownMap = some a) ∧
    ((getLnk s d p).record = some b) ∧
    ((getLnk s (lnkPeer d p).1 (lnkPeer d p).2).ownMap = some b) ∧
    ((getLnk s (lnkPeer d p).1 (lnkPeer d p).2).record = some a) ∧
    (lnkWidth d p (List.zipWith (fun x y => x && y) a b) = some w) ∧
    (List.zipWith (fun x y => x && y) b a = List.zipWith (fun x y => x && y) a b) :=
  ⟨18, 0, List.replicate 60 true, List.replicate 60 true, ([], []), [], (56, 4), bothRec, by decide⟩

theorem witness_LinksTrainAndFall_4 :
    ∃ (d p : Nat) (f : TrainFrame) (g : List Bool) (w : Nat × Nat) (s : State),
    (lnkExists d p = true) ∧
    (lnkState s d p = 3) ∧
    (goodSet (getLnk s d p) f = some g) ∧
    ((getLnk s (lnkPeer d p).1 (lnkPeer d p).2).good = some g) ∧
    (lnkWidth d p g = some w) :=
  ⟨18, 0, frame0, List.replicate 60 true, (56, 4), trainSt (some (List.replicate 60 true)), by decide⟩

theorem witness_LinksTrainAndFall_5 :
    ∃ (d p : Nat) (f : TrainFrame) (g : List Bool) (s : State),
    (lnkExists d p = true) ∧
    (lnkState s d p = 3) ∧
    (goodSet (getLnk s d p) f = some g) ∧
    ((getLnk s (lnkPeer d p).1 (lnkPeer d p).2).good = none) :=
  ⟨18, 0, frame0, List.replicate 60 true, trainSt none, by decide⟩

theorem witness_LinksTrainAndFall_6 :
    ∃ (d p : Nat) (f : TrainFrame) (s : State),
    (lnkExists d p = true) ∧
    (lnkState s d p = 3) ∧
    (goodSet (getLnk s d p) f = none) :=
  ⟨18, 0, { frame0 with peerRecord := some [] }, trainSt none, by decide⟩

theorem witness_LinksTrainAndFall_7 :
    ∃ (d p : Nat) (q : Bool) (s : State),
    (hasSpare s d p = true) :=
  ⟨18, 0, true, fput lnkUp0 18 0 Fl.LNK_PORT_STATE_SPARES_LEFT 1, by decide⟩

theorem witness_LinksTrainAndFall_8 :
    ∃ (d p : Nat) (s : State),
    (lnkExists d p = true) ∧
    (isBond d p = false) ∧
    (lnkState s d p = 2) ∧
    (hasSpare s d p = false) :=
  ⟨18, 0, lnkUp0, by decide⟩

theorem witness_LinksTrainAndFall_9 :
    ∃ (d p : Nat) (s : State),
    (windowDead s d = false) ∧
    (lnkExists d p = true) ∧
    (isBond d p = false) ∧
    (lnkState s d p = 2) :=
  ⟨18, 0, lnkUp0, by decide⟩

theorem witness_LinksTrainAndFall_10 :
    ∃ (d p : Nat) (s : State),
    (windowDead s d = false) ∧
    (lnkExists d p = true) ∧
    (isBond d p = true) :=
  ⟨8, 0, up, by decide⟩

theorem witness_LinksTrainAndFall_11 :
    ∃ (d p c : Nat) (s : State),
    (lnkExists d p = true) ∧
    (lnkState s d p = 2) ∧
    (lossClass d p = 2) :=
  ⟨22, 2, 1, fput up 22 2 Fl.LNK_PORT_STATE_STATE 2, by decide⟩

theorem witness_LinksTrainAndFall_12 :
    ∃ (d p c : Nat) (s : State),
    (lnkExists d p = true) ∧
    (lnkState s d p = 2) ∧
    (lossClass d p = 0) ∧
    (s.rst.kind.rank < 2) :=
  ⟨18, 0, 1, lnkUp0, by decide⟩

theorem witness_LinksTrainAndFall_13 :
    ∃ (d p c k : Nat) (s : State),
    (lnkExists d p = true) ∧
    (lnkState s d p = 2) ∧
    (lossClass d p = 1) ∧
    (s.rst.kind.rank < 2) ∧
    (diePart s (lnkMatrix d p) = some k) ∧
    (s.rst.parts.contains k = false) :=
  ⟨18, 2, 1, 0, lnkUp, by decide⟩

theorem witness_TheHeliostatDividesPower_1 :
    ∃ (p : PowerSample) (s : State),
    (p.inputMv < 2 ^ 16) ∧
    (p.inputDeciAmps < 2 ^ 16) ∧
    (p.inputW < 2 ^ 16) :=
  ⟨⟨[(unitId 16 7 0, 300)], 0, 48000, 500, 2400⟩, up, by decide⟩

theorem witness_TheHeliostatDividesPower_2 :
    ∃ (p : PowerSample) (s : State),
    (4300 < p.inputW) ∧
    (sustainedW s < p.inputW) :=
  ⟨⟨[(unitId 16 7 0, 300)], 0, 48000, 500, 4400⟩, up, by decide⟩

theorem witness_TheHeliostatDividesPower_3 :
    ∃ (p : PowerSample) (s : State),
    (p.inputW ≤ sustainedW s) ∧
    (s.power.overSince = none) :=
  ⟨⟨[(unitId 16 7 0, 300)], 0, 48000, 500, 1000⟩, up, by decide⟩

theorem witness_TheHeliostatDividesPower_4 :
    ∃ (p : PowerSample) (a : Nat) (s : State),
    (p.inputW ≤ sustainedW s) ∧
    (s.power.overSince = some a) :=
  ⟨⟨[(unitId 16 7 0, 300)], 0, 48000, 500, 1000⟩, 5, { up with power := { up.power with overSince := some 5 } }, by decide⟩

theorem witness_TheBusDipsAndRecovers_1 :
    ∃ (mv : Nat) (s : State),
    (s.power.dip = false) ∧
    (9000 ≤ mv) ∧
    (mv < 11400) :=
  ⟨9000, up, by decide⟩

theorem witness_TheBusDipsAndRecovers_2 :
    ∃ (mv : Nat) (s : State),
    (s.power.dip = true) ∧
    (9000 ≤ mv) :=
  ⟨9000, { up with power := { up.power with dip := true } }, by decide⟩

theorem witness_TheBusDipsAndRecovers_3 :
    ∃ (lo us : Nat) (s : State),
    (s.power.dip = true) ∧
    (us ≤ 2000) :=
  ⟨9000, 100, { up with power := { up.power with dip := true } }, by decide⟩

theorem witness_TheBusDipsAndRecovers_4 :
    ∃ (mv : Nat) (i : Instr) (s : State),
    (i ∈ [Instr.dipStart mv, .rideThroughReduced mv]) ∧
    (mv < 9000) :=
  ⟨8999, .dipStart 8999, up, by decide⟩

theorem witness_TheBusDipsAndRecovers_5 :
    ∃ (lo us : Nat) (s : State),
    (s.power.dip = true) ∧
    (2000 < us) :=
  ⟨9000, 2001, { up with power := { up.power with dip := true } }, by decide⟩

theorem witness_TheBusDipsAndRecovers_6 :
    ∃ (b : Nat) (s : State),
    (s.power.unmetSince = some b) ∧
    (b + 10000000 ≤ s.time.toNat) ∧
    (s.power.unmetRaised.all (fun a => decide (a + 1000000000 ≤ s.time.toNat)) = true) :=
  ⟨5, { up with time := 10000005, power := { up.power with unmetSince := some 5 } }, by decide⟩

theorem witness_TheBusDipsAndRecovers_7 :
    ∃ (a b : Nat) (s : State),
    (s.power.unmetSince = some b) ∧
    (b + 10000000 ≤ s.time.toNat) ∧
    (s.power.unmetRaised = some a) ∧
    (s.time.toNat < a + 1000000000) :=
  ⟨5, 5, { up with time := 10000005, power := { up.power with unmetSince := some 5, unmetRaised := some 5 } }, by decide⟩

theorem witness_TheBusDipsAndRecovers_8 :
    ∃ (s : State),
    (s.power.unmetSince = none) :=
  ⟨up, by decide⟩

theorem witness_TheBusDipsAndRecovers_9 :
    ∃ (s : State),
    (5 ≤ fget s 24 0 Fl.BOOT_STATUS_STAGE) :=
  ⟨fput up 24 0 Fl.BOOT_STATUS_STAGE 11, by decide⟩

theorem witness_TheBusDipsAndRecovers_11 :
    ∃ (d p : Nat) (s : State),
    (d < 8) ∧
    (p < 17) ∧
    (fget s d 0 Fl.PWD_IDLE_IDLE_US ≠ 0) ∧
    (fget s d (2 * p) Fl.ENG_STATUS_PLACED = 0) ∧
    (fget s d (2 * p + 1) Fl.ENG_STATUS_PLACED = 0) ∧
    ((getEng s d (2 * p)).testing = false) ∧
    ((getEng s d (2 * p + 1)).testing = false) ∧
    (fget s d p Fl.PWD_PAIR_STATE ≠ 0) ∧
    (s.ostore.wf = true) :=
  ⟨2, 3, { fput (fput up 2 3 Fl.PWD_PAIR_STATE 2) 2 0 Fl.PWD_IDLE_IDLE_US 5 with ostore := [(osKey 2 6 5, 1)] }, by decide⟩

theorem witness_TheBusDipsAndRecovers_12 :
    ∃ (pd k : Nat) (s : State),
    (windowDead s 24 = false) ∧
    (pd = 22 ∨ pd = 23) ∧
    (k ≤ 4) ∧
    (domIdle s pd k = true) :=
  ⟨22, 2, up, by decide⟩

theorem witness_TheBusDipsAndRecovers_13 :
    ∃ (pd k : Nat) (s : State),
    (windowDead s 24 = false) ∧
    (pd = 22 ∨ pd = 23) ∧
    (k ≤ 4) ∧
    (domIdle s pd k = false) :=
  ⟨22, 3, fput up 22 1 Fl.MED_PIPE_ENABLE 1, by decide⟩

theorem witness_TheBusDipsAndRecovers_14 :
    ∃ (pd k : Nat) (s : State),
    (windowDead s 24 = false) ∧
    (pd = 22 ∨ pd = 23) ∧
    (k ≤ 4) :=
  ⟨22, 3, up, by decide⟩

theorem witness_TheBusDipsAndRecovers_15 :
    ∃ (s : State),
    (windowDead s 24 = false) :=
  ⟨up, by decide⟩

theorem witness_ThermalControl_1 :
    ∃ (d a : Nat) (s : State),
    (d < 25) ∧
    (tMax d ≤ a) ∧
    (smGet s.power.thermalRaised d ≠ some (s.time.toNat / 1000000000)) :=
  ⟨3, 1060, up, by decide⟩

theorem witness_ThermalControl_2 :
    ∃ (d a : Nat) (s : State),
    (8 ≤ d) ∧
    (d < 16) ∧
    (a < 2560) ∧
    (mustSet s d a = true) :=
  ⟨10, 925, up, by decide⟩

theorem witness_ThermalControl_3 :
    ∃ (d a : Nat) (s : State),
    (d < 8) ∧
    (smGetD s.power.thermalMv 900 d = 600) ∧
    (tMax d ≤ a) :=
  ⟨3, 1060, { up with power := { up.power with thermalMv := [(3, 600)] } }, by decide⟩

theorem witness_ThermalControl_4 :
    ∃ (d a : Nat) (s : State),
    (d < 8) ∧
    (a + 10 ≤ tMax d) :=
  ⟨3, 900, { up with power := { up.power with thermalGate := [(3, 4)] } }, by decide⟩

theorem witness_JobsShareGrants_1 :
    ∃ (sl w : Nat) (s : State),
    (coordinator s = true) :=
  ⟨1000, 300, { fput (fput up 24 0 Fl.PWR_JOB_CTL_ENABLE 1) 24 0 Fl.PWR_JOB_CTL_COORDINATOR 1 with power := { up.power with reports := [(0, 0, 100, 900), (7, 90000, 100, 900)], grants := [(0, 900), (7, 900)], budgets := [(0, 900), (7, 900)], reportAt := [(0, 0), (7, 0)] } }, by decide⟩

theorem witness_JobsShareGrants_2 :
    ∃ (sl w : Nat) (s : State),
    (jobOn s = false) :=
  ⟨1000, 300, up, by decide⟩

theorem witness_JobsShareGrants_3 :
    ∃ (h c : Nat × Nat) (s : State),
    (coordinator s = true) ∧
    (s.power.budgets.any (fun b => (smGet s.power.reports b.1).isNone) = false) ∧
    (extremes s.power.reports = some (h, c)) ∧
    (c.2 + 50000 ≤ h.2) ∧
    (h.1 ≠ c.1) :=
  ⟨(7, 90000), (0, 0), { fput (fput up 24 0 Fl.PWR_JOB_CTL_ENABLE 1) 24 0 Fl.PWR_JOB_CTL_COORDINATOR 1 with power := { up.power with reports := [(0, 0, 100, 900), (7, 90000, 100, 900)], grants := [(0, 900), (7, 900)], budgets := [(0, 900), (7, 900)], reportAt := [(0, 0), (7, 0)] } }, by decide⟩

theorem witness_JobsShareGrants_4 :
    ∃ (s : State),
    (jobOn s = true) ∧
    (coordinator s = false) :=
  ⟨fput (fput up 24 0 Fl.PWR_JOB_CTL_ENABLE 1) 24 0 Fl.PWR_JOB_CTL_BUDGET_W 1500, by decide⟩

theorem witness_QueuePairsStartStopAndPost_1 :
    ∃ (pd n : Nat) (r : BitVec 64) (bs : List Byte) (u s : State),
    (windowDead s pd = false) ∧
    (qpState s pd n = 0) ∧
    (paKind s (bits r.toNat 47 8 * 256) = .ddr) ∧
    (ncFetch s (bits r.toNat 47 8 * 256) 256 = (some bs, u)) ∧
    (qpOk u pd bs (parseQp bs (bits r.toNat 47 8 * 256)) = true) :=
  ⟨22, 3, 0x2_0000, memReadN qpMem 0x2_0000 256, (ncFetch { cpu3 with mem := qpMem } 0x2_0000 256).2, { cpu3 with mem := qpMem }, by decide⟩

theorem witness_QueuePairsStartStopAndPost_2 :
    ∃ (pd n : Nat) (r : BitVec 64) (s : State),
    (windowDead s pd = false) ∧
    (qpState s pd n = 0) ∧
    (paKind s (bits r.toNat 47 8 * 256) ≠ .ddr) :=
  ⟨22, 3, 0x2_0000, up, by decide⟩

theorem witness_QueuePairsStartStopAndPost_3 :
    ∃ (pd n : Nat) (r : BitVec 64) (s : State),
    (windowDead s pd = false) ∧
    (qpState s pd n ≠ 0) :=
  ⟨22, 3, 0, ethSt [] (qpOf 0), by decide⟩

theorem witness_QueuePairsStartStopAndPost_4 :
    ∃ (pd n : Nat) (q : Qp) (s : State),
    (windowDead s pd = false) ∧
    (getQp s pd n = some q) ∧
    (q.state ≠ 3) ∧
    (q.stalled = none ∨ q.head = q.tail) :=
  ⟨22, 3, qpOf 0, ethSt [] (qpOf 0), by decide⟩

theorem witness_QueuePairsStartStopAndPost_5 :
    ∃ (pd n : Nat) (v : Nat) (q : Qp) (s : State),
    (windowDead s pd = false) ∧
    (getQp s pd n = some q) ∧
    (q.state = 1) ∧
    (q.tail ≤ v) ∧
    (v ≤ q.head + 2 ^ q.sqLog2) :=
  ⟨22, 3, 64, qpOf 1, ethSt [] (qpOf 1), by decide⟩

theorem witness_QueuePairsStartStopAndPost_6 :
    ∃ (pd n : Nat) (v : Nat) (q : Qp) (s : State),
    (windowDead s pd = false) ∧
    (getQp s pd n = some q) ∧
    (v < q.tail ∨ q.head + 2 ^ q.sqLog2 < v) :=
  ⟨22, 3, 65, qpOf 1, ethSt [] (qpOf 1), by decide⟩

theorem witness_QueuePairsStartStopAndPost_7 :
    ∃ (pd n : Nat) (v : Nat) (q : Qp) (s : State),
    (windowDead s pd = false) ∧
    (getQp s pd n = some q) ∧
    (q.state = 2) ∧
    (q.head ≤ q.tail) ∧
    (q.tail ≤ v) ∧
    (v ≤ q.head + 2 ^ q.sqLog2) ∧
    (q.cqTail + (v - q.head) ≤ 2 ^ q.cqLog2) ∧
    (q.cqLog2 < 32) ∧
    (ringRefusal s q.context q.cqPa = none) :=
  ⟨22, 3, 2, { qpOf 0 with state := 2, errStatus := 0x0701 }, ethSt [] { qpOf 0 with state := 2, errStatus := 0x0701 }, by decide⟩

theorem witness_RequestsOfQueuePairsComplete_1 :
    ∃ (pd n : Nat) (q : Qp) (w d : List Byte) (s : State),
    (getQp s pd n = some q) ∧
    (q.state = 1) ∧
    (q.stalled = none) ∧
    (q.ended = none) ∧
    (q.head ≠ q.tail) ∧
    (ethUp s q.port = true) ∧
    (pfcPaused s q = false) ∧
    (q.cqTail < 2 ^ q.cqLog2) ∧
    ((readVa s (.qp pd n) q.context (q.sqVa + q.head % 2 ^ q.sqLog2 * 64) 64).1 = .ok w) ∧
    (recField w 2 2 = q.head % 65536) ∧
    (recField w 0 1 = 1) ∧
    (1 ≤ recField w 4 4) ∧
    (recField w 4 4 ≤ 2 ^ 31) ∧
    ((readVa (modQp (readVa s (.qp pd n) q.context (q.sqVa + q.head % 2 ^ q.sqLog2 * 64) 64).2 pd n fun x => { x with stale := 0, flags := recField w 1 1 % 2 }) (.qp pd n) q.context (recField w 8 8) (recField w 4 4)).1 = .ok d) ∧
    (ringRefusal (readVa (modQp (readVa s (.qp pd n) q.context (q.sqVa + q.head % 2 ^ q.sqLog2 * 64) 64).2 pd n fun x => { x with stale := 0, flags := recField w 1 1 % 2 }) (.qp pd n) q.context (recField w 8 8) (recField w 4 4)).2 q.context q.cqPa = none) :=
  ⟨22, 3, qpOf 1, wqBytes 1, 7 :: List.replicate 7 0, ethSt (wqMem 1) (qpOf 1), by decide⟩

theorem witness_RequestsOfQueuePairsComplete_2 :
    ∃ (pd n : Nat) (q : Qp) (w d : List Byte) (s : State),
    (getQp s pd n = some q) ∧
    (q.state = 1) ∧
    (q.stalled = none) ∧
    (q.ended = none) ∧
    (q.head ≠ q.tail) ∧
    (ethUp s q.port = true) ∧
    (pfcPaused s q = false) ∧
    (q.cqTail < 2 ^ q.cqLog2) ∧
    ((readVa s (.qp pd n) q.context (q.sqVa + q.head % 2 ^ q.sqLog2 * 64) 64).1 = .ok w) ∧
    (recField w 2 2 = q.head % 65536) ∧
    (recField w 0 1 = 2) ∧
    (1 ≤ recField w 4 4) ∧
    (recField w 4 4 ≤ 2 ^ 31) ∧
    ((readVa (modQp (readVa s (.qp pd n) q.context (q.sqVa + q.head % 2 ^ q.sqLog2 * 64) 64).2 pd n fun x => { x with stale := 0, flags := recField w 1 1 % 2 }) (.qp pd n) q.context (recField w 8 8) (recField w 4 4)).1 = .ok d) ∧
    (ringRefusal (readVa (modQp (readVa s (.qp pd n) q.context (q.sqVa + q.head % 2 ^ q.sqLog2 * 64) 64).2 pd n fun x => { x with stale := 0, flags := recField w 1 1 % 2 }) (.qp pd n) q.context (recField w 8 8) (recField w 4 4)).2 q.context q.cqPa = none) :=
  ⟨22, 3, qpOf 1, wqBytes 2, 7 :: List.replicate 7 0, ethSt (wqMem 2) (qpOf 1), by decide⟩

theorem witness_RequestsOfQueuePairsComplete_3 :
    ∃ (pd n : Nat) (q : Qp) (w d : List Byte) (s : State),
    (getQp s pd n = some q) ∧
    (q.state = 1) ∧
    (q.stalled = none) ∧
    (q.ended = none) ∧
    (q.head ≠ q.tail) ∧
    (ethUp s q.port = true) ∧
    (pfcPaused s q = false) ∧
    (q.cqTail < 2 ^ q.cqLog2) ∧
    ((readVa s (.qp pd n) q.context (q.sqVa + q.head % 2 ^ q.sqLog2 * 64) 64).1 = .ok w) ∧
    (recField w 2 2 = q.head % 65536) ∧
    (recField w 0 1 = 3) ∧
    (q.ud = false) ∧
    (1 ≤ recField w 4 4) ∧
    (recField w 4 4 ≤ 2 ^ 31) ∧
    ((readVa (modQp (readVa s (.qp pd n) q.context (q.sqVa + q.head % 2 ^ q.sqLog2 * 64) 64).2 pd n fun x => { x with stale := 0, flags := recField w 1 1 % 2 }) (.qp pd n) q.context (recField w 8 8) (recField w 4 4)).1 = .ok d) ∧
    (ringRefusal (readVa (modQp (readVa s (.qp pd n) q.context (q.sqVa + q.head % 2 ^ q.sqLog2 * 64) 64).2 pd n fun x => { x with stale := 0, flags := recField w 1 1 % 2 }) (.qp pd n) q.context (recField w 8 8) (recField w 4 4)).2 q.context q.cqPa = none) :=
  ⟨22, 3, qpOf 1, wqBytes 3, 7 :: List.replicate 7 0, ethSt (wqMem 3) (qpOf 1), by decide⟩

theorem witness_RequestsOfQueuePairsComplete_4 :
    ∃ (pd n : Nat) (q : Qp) (w d : List Byte) (s : State),
    (getQp s pd n = some q) ∧
    (q.state = 1) ∧
    (q.stalled = none) ∧
    (q.ended = none) ∧
    (q.head ≠ q.tail) ∧
    (ethUp s q.port = true) ∧
    (pfcPaused s q = false) ∧
    (q.cqTail < 2 ^ q.cqLog2) ∧
    ((readVa s (.qp pd n) q.context (q.sqVa + q.head % 2 ^ q.sqLog2 * 64) 64).1 = .ok w) ∧
    (recField w 2 2 = q.head % 65536) ∧
    (recField w 0 1 = 4) ∧
    (q.ud = false) ∧
    (1 ≤ recField w 4 4) ∧
    (recField w 4 4 ≤ 2 ^ 31) ∧
    ((readVa (modQp (readVa s (.qp pd n) q.context (q.sqVa + q.head % 2 ^ q.sqLog2 * 64) 64).2 pd n fun x => { x with stale := 0, flags := recField w 1 1 % 2 }) (.qp pd n) q.context (recField w 8 8) (recField w 4 4)).1 = .ok d) ∧
    (ringRefusal (readVa (modQp (readVa s (.qp pd n) q.context (q.sqVa + q.head % 2 ^ q.sqLog2 * 64) 64).2 pd n fun x => { x with stale := 0, flags := recField w 1 1 % 2 }) (.qp pd n) q.context (recField w 8 8) (recField w 4 4)).2 q.context q.cqPa = none) :=
  ⟨22, 3, qpOf 1, wqBytes 4, 7 :: List.replicate 7 0, ethSt (wqMem 4) (qpOf 1), by decide⟩

theorem witness_RequestsOfQueuePairsComplete_5 :
    ∃ (pd n : Nat) (q : Qp) (w d : List Byte) (s : State),
    (getQp s pd n = some q) ∧
    (q.state = 1) ∧
    (q.stalled = none) ∧
    (q.ended = none) ∧
    (q.head ≠ q.tail) ∧
    (ethUp s q.port = true) ∧
    (pfcPaused s q = false) ∧
    (q.cqTail < 2 ^ q.cqLog2) ∧
    ((readVa s (.qp pd n) q.context (q.sqVa + q.head % 2 ^ q.sqLog2 * 64) 64).1 = .ok w) ∧
    (recField w 2 2 = q.head % 65536) ∧
    (recField w 0 1 = 5) ∧
    (q.ud = false) ∧
    (1 ≤ recField w 4 4) ∧
    (recField w 4 4 ≤ 2 ^ 31) ∧
    (d.length = recField w 4 4) ∧
    ((writeVa (modQp (readVa s (.qp pd n) q.context (q.sqVa + q.head % 2 ^ q.sqLog2 * 64) 64).2 pd n fun x => { x with stale := 0, flags := recField w 1 1 % 2 }) (.qp pd n) q.context (recField w 8 8) d).1 = .ok ()) ∧
    (ringRefusal (writeVa (modQp (readVa s (.qp pd n) q.context (q.sqVa + q.head % 2 ^ q.sqLog2 * 64) 64).2 pd n fun x => { x with stale := 0, flags := recField w 1 1 % 2 }) (.qp pd n) q.context (recField w 8 8) d).2 q.context q.cqPa = none) :=
  ⟨22, 3, qpOf 1, wqBytes 5, List.replicate 8 3, ethSt (wqMem 5) (qpOf 1), by decide⟩

theorem witness_RequestsOfQueuePairsComplete_6 :
    ∃ (pd n : Nat) (q : Qp) (w : List Byte) (s : State),
    (getQp s pd n = some q) ∧
    (q.state = 1) ∧
    (q.stalled = none) ∧
    (q.ended = none) ∧
    (q.head ≠ q.tail) ∧
    (ethUp s q.port = true) ∧
    (pfcPaused s q = false) ∧
    (q.cqTail < 2 ^ q.cqLog2) ∧
    ((readVa s (.qp pd n) q.context (q.sqVa + q.head % 2 ^ q.sqLog2 * 64) 64).1 = .ok w) ∧
    (recField w 2 2 = q.head % 65536) ∧
    (recField w 0 1 = 1) ∧
    (recField w 4 4 = 0) ∧
    (ringRefusal (readVa s (.qp pd n) q.context (q.sqVa + q.head % 2 ^ q.sqLog2 * 64) 64).2 q.context q.cqPa = none) :=
  ⟨22, 3, qpOf 1, 1 :: List.replicate 63 0, ethSt [(0x10000, 1)] (qpOf 1), by decide⟩

theorem witness_RequestsOfQueuePairsComplete_7 :
    ∃ (pd n : Nat) (q : Qp) (s : State),
    (getQp s pd n = some q) ∧
    (q.state = 1) ∧
    (q.ended = none) ∧
    (q.head = q.tail) :=
  ⟨22, 3, qpOf 0, ethSt [] (qpOf 0), by decide⟩

theorem witness_RequestsOfQueuePairsComplete_8 :
    ∃ (pd n : Nat) (i : Nat × Instr) (q : Qp) (w b : List Byte) (s : State),
    (i ∈ [(1, Instr.send pd n), (2, .sendImm pd n), (3, .rdmaWrite pd n), (4, .rdmaWriteImm pd n)]) ∧
    (getQp (settleQp s pd n) pd n = some q) ∧
    ((takesRequest (settleQp s pd n) q).1 = true) ∧
    ((readVa (takesRequest (settleQp s pd n) q).2 (.qp pd n) q.context (q.sqVa + q.head % 2 ^ q.sqLog2 * 64) 64).1 = .ok w) ∧
    (recField w 2 2 = q.head % 65536) ∧
    (recField w 0 1 = i.1) ∧
    (q.ud = false ∨ i.1 ≤ 2) ∧
    (1 ≤ recField w 4 4) ∧
    (recField w 4 4 ≤ 2 ^ 31) ∧
    ((readVa (modQp (readVa (takesRequest (settleQp s pd n) q).2 (.qp pd n) q.context (q.sqVa + q.head % 2 ^ q.sqLog2 * 64) 64).2 pd n fun x => { x with stale := 0, flags := recField w 1 1 % 2 }) (.qp pd n) q.context (recField w 8 8) (recField w 4 4)).1 = .ok b) :=
  ⟨22, 3, (3, .rdmaWrite 22 3), { qpOf 1 with state := 3 }, wqBytes 3, 7 :: List.replicate 7 0, ethSt (wqMem 3) { qpOf 1 with state := 3 }, by decide⟩

theorem witness_RequestsOfQueuePairsComplete_9 :
    ∃ (pd n : Nat) (q : Qp) (w d : List Byte) (s : State),
    (getQp (settleQp s pd n) pd n = some q) ∧
    ((takesRequest (settleQp s pd n) q).1 = true) ∧
    ((readVa (takesRequest (settleQp s pd n) q).2 (.qp pd n) q.context (q.sqVa + q.head % 2 ^ q.sqLog2 * 64) 64).1 = .ok w) ∧
    (recField w 2 2 = q.head % 65536) ∧
    (recField w 0 1 = 5) ∧
    (q.ud = false) ∧
    (1 ≤ recField w 4 4) ∧
    (recField w 4 4 ≤ 2 ^ 31) ∧
    (d.length = recField w 4 4) ∧
    ((writeVa (modQp (readVa (takesRequest (settleQp s pd n) q).2 (.qp pd n) q.context (q.sqVa + q.head % 2 ^ q.sqLog2 * 64) 64).2 pd n fun x => { x with stale := 0, flags := recField w 1 1 % 2 }) (.qp pd n) q.context (recField w 8 8) d).1 = .ok ()) :=
  ⟨22, 3, { qpOf 1 with state := 3 }, wqBytes 5, List.replicate 8 3, ethSt (wqMem 5) { qpOf 1 with state := 3 }, by decide⟩

theorem witness_RequestsOfQueuePairsComplete_10 :
    ∃ (pd n : Nat) (i : Nat × Instr) (q : Qp) (w : List Byte) (s : State),
    (i ∈ [(1, Instr.send pd n), (2, .sendImm pd n), (3, .rdmaWrite pd n), (4, .rdmaWriteImm pd n), (5, .rdmaRead pd n [])]) ∧
    (getQp (settleQp s pd n) pd n = some q) ∧
    ((takesRequest (settleQp s pd n) q).1 = true) ∧
    ((readVa (takesRequest (settleQp s pd n) q).2 (.qp pd n) q.context (q.sqVa + q.head % 2 ^ q.sqLog2 * 64) 64).1 = .ok w) ∧
    (recField w 2 2 = q.head % 65536) ∧
    (recField w 0 1 = i.1) ∧
    (q.ud = false ∨ i.1 ≤ 2) ∧
    (recField w 4 4 = 0) :=
  ⟨22, 3, (5, .rdmaRead 22 3 []), { qpOf 1 with state := 3 }, 5 :: List.replicate 63 0, ethSt [(0x10000, 5)] { qpOf 1 with state := 3 }, by decide⟩

theorem witness_InboundTrafficIsServedOrRefused_1 :
    ∃ (pd n : Nat) (q r : Qp) (x : Instr × Inbound × Nat) (va len k : Nat) (d : Payload) (imm : BitVec 32) (im : Option (BitVec 32)) (s : State),
    (getQp s pd n = some q) ∧
    (q.state = 1) ∧
    (ethUp s q.port = true) ∧
    (x ∈ [(Instr.inboundSend pd n d imm, Inbound.send d.bytes imm, 0), (.inboundRdma pd n k va len (.write im) d, .write va (d.bytes.take len) im, k),
        (.inboundRdma pd n k va len .read d, .read va len, k)]) ∧
    (getQp (if d.ecn then modQp s pd n fun y => { y with cnps := y.cnps + 1 } else s) pd n = some r) ∧
    (r.stalled = none) ∧
    (r.held = []) ∧
    ((ringFull (if d.ecn then modQp s pd n fun y => { y with cnps := y.cnps + 1 } else s) r).1 = false) ∧
    (inboundNak r x.2.2 x.2.1 = none) ∧
    ((inboundAccess (ringFull (if d.ecn then modQp s pd n fun y => { y with cnps := y.cnps + 1 } else s) r).2 pd n r x.2.1).1 = .ok ()) :=
  ⟨22, 3, qpOf 0, qpOf 0, (Instr.inboundSend 22 3 ⟨[1, 2, 3], false⟩ 5, .send [1, 2, 3] 5, 0), 0, 0, 0, ⟨[1, 2, 3], false⟩, 5, none, ethSt [] (qpOf 0), by decide⟩

theorem witness_InboundTrafficIsServedOrRefused_2 :
    ∃ (pd n : Nat) (q r : Qp) (x : Instr × Inbound × Nat) (y : Nak) (va len k : Nat) (d : Payload) (imm : BitVec 32) (im : Option (BitVec 32)) (s : State),
    (getQp s pd n = some q) ∧
    (q.state = 1) ∧
    (ethUp s q.port = true) ∧
    (x ∈ [(Instr.inboundSend pd n d imm, Inbound.send d.bytes imm, 0), (.inboundRdma pd n k va len (.write im) d, .write va (d.bytes.take len) im, k),
        (.inboundRdma pd n k va len .read d, .read va len, k)]) ∧
    (getQp (if d.ecn then modQp s pd n fun y => { y with cnps := y.cnps + 1 } else s) pd n = some r) ∧
    (r.stalled = none) ∧
    (r.held = []) ∧
    ((ringFull (if d.ecn then modQp s pd n fun y => { y with cnps := y.cnps + 1 } else s) r).1 = false) ∧
    (inboundNak r x.2.2 x.2.1 = some y) :=
  ⟨22, 3, qpOf 0, qpOf 0, (Instr.inboundRdma 22 3 8 0x18000 3 (.write none) ⟨[1, 2, 3], false⟩, .write 0x18000 [1, 2, 3] none, 8), .remoteAccess, 0x18000, 3, 8, ⟨[1, 2, 3], false⟩, 5, none, ethSt [] (qpOf 0), by decide⟩

theorem witness_InboundTrafficIsServedOrRefused_3 :
    ∃ (pd n : Nat) (q r : Qp) (x : Instr × Inbound × Nat) (va len k : Nat) (d : Payload) (imm : BitVec 32) (im : Option (BitVec 32)) (s : State),
    (getQp s pd n = some q) ∧
    (q.state = 1) ∧
    (ethUp s q.port = true) ∧
    (x ∈ [(Instr.inboundSend pd n d imm, Inbound.send d.bytes imm, 0), (.inboundRdma pd n k va len (.write im) d, .write va (d.bytes.take len) im, k),
        (.inboundRdma pd n k va len .read d, .read va len, k)]) ∧
    (getQp (if d.ecn then modQp s pd n fun y => { y with cnps := y.cnps + 1 } else s) pd n = some r) ∧
    (r.held = []) ∧
    (r.stalled.isSome = true ∨ (ringFull (if d.ecn then modQp s pd n fun y => { y with cnps := y.cnps + 1 } else s) r).1 = true) :=
  ⟨22, 3, { qpOf 0 with stalled := some 0 }, { qpOf 0 with stalled := some 0 }, (Instr.inboundSend 22 3 ⟨[], false⟩ 5, .send [] 5, 0), 0, 0, 0, ⟨[], false⟩, 5, none, ethSt [] { qpOf 0 with stalled := some 0 }, by decide⟩

theorem witness_InboundTrafficIsServedOrRefused_4 :
    ∃ (pd n : Nat) (q : Qp) (s : State),
    (getQp s pd n = some q) ∧
    (q.state = 1) ∧
    (ethUp s q.port = true) :=
  ⟨22, 3, qpOf 0, ethSt [] (qpOf 0), by decide⟩

theorem witness_InboundTrafficIsServedOrRefused_5 :
    ∃ (pd n : Nat) (q : Qp) (s : State),
    (getQp s pd n = some q) ∧
    (q.state = 1) ∧
    (ethUp s q.port = true) ∧
    (0 < q.rate) :=
  ⟨22, 3, qpOf 0, ethSt [] (qpOf 0), by decide⟩

theorem witness_InboundTrafficIsServedOrRefused_6 :
    ∃ (pd n : Nat) (q : Qp) (s : State),
    (getQp s pd n = some q) ∧
    (qpBusy q = true) :=
  ⟨22, 3, qpOf 2, ethSt [] (qpOf 2), by decide⟩

theorem witness_InboundTrafficIsServedOrRefused_7 :
    ∃ (pd n : Nat) (q : Qp) (s : State),
    (getQp s pd n = some q) ∧
    (qpBusy q = true) ∧
    (q.ud = false) ∧
    (q.retransmits = 7) :=
  ⟨22, 3, { qpOf 2 with retransmits := 7 }, ethSt [] { qpOf 2 with retransmits := 7 }, by decide⟩

theorem witness_InboundTrafficIsServedOrRefused_8 :
    ∃ (pd n : Nat) (q : Qp) (s : State),
    (getQp s pd n = some q) ∧
    (q.state = 1) ∧
    (q.head < q.tail) ∧
    (q.cqTail + (q.tail - q.head) ≤ 2 ^ q.cqLog2) ∧
    (q.cqLog2 < 32) ∧
    (ringRefusal s q.context q.cqPa = none) :=
  ⟨22, 3, qpOf 2, ethSt [] (qpOf 2), by decide⟩

theorem witness_InboundTrafficIsServedOrRefused_9 :
    ∃ (pd n : Nat) (q : Qp) (s : State),
    (getQp s pd n = some q) ∧
    (q.state = 1) ∧
    (q.head < q.tail) ∧
    (q.cqTail + (q.tail - q.head) ≤ 2 ^ q.cqLog2) ∧
    (q.cqLog2 < 32) ∧
    (ringRefusal s q.context q.cqPa = none) ∧
    (q.ud = false) ∧
    (q.retransmits = 7) :=
  ⟨22, 3, { qpOf 2 with retransmits := 7 }, ethSt [] { qpOf 2 with retransmits := 7 }, by decide⟩

theorem witness_InboundTrafficIsServedOrRefused_10 :
    ∃ (pd n : Nat) (q : Qp) (s : State),
    (getQp s pd n = some q) ∧
    (q.state = 1) ∧
    (q.head < q.tail) ∧
    (q.cqTail + (q.tail - q.head) ≤ 2 ^ q.cqLog2) ∧
    (q.cqLog2 < 32) ∧
    (ringRefusal s q.context q.cqPa = none) ∧
    (q.ud = false) ∧
    (q.retransmits < 7) :=
  ⟨22, 3, { qpOf 2 with retransmits := 6 }, ethSt [] { qpOf 2 with retransmits := 6 }, by decide⟩

theorem witness_InboundTrafficIsServedOrRefused_11 :
    ∃ (pd n : Nat) (q : Qp) (s : State),
    (getQp s pd n = some q) ∧
    (q.head = q.tail) :=
  ⟨22, 3, qpOf 0, ethSt [] (qpOf 0), by decide⟩

theorem witness_InboundTrafficIsServedOrRefused_12 :
    ∃ (pd n : Nat) (q : Qp) (s : State),
    (getQp s pd n = some q) ∧
    (q.retransmits < 7) :=
  ⟨22, 3, qpOf 2, ethSt [] (qpOf 2), by decide⟩

theorem witness_HopsDeliverInOrder_1 :
    ∃ (p n : Nat) (x : TxFrame) (r : List TxFrame) (s : State),
    (fabricUp s p = true) ∧
    ((getFab s p).tx = x :: r) ∧
    ((n + 2 ^ 32 - x.frame.seq) % 2 ^ 32 ≤ r.length + 1) :=
  ⟨1, 1, txOf 1 0, [], putFab fabSt 1 { FabricPort.fresh with tx := [txOf 1 0] }, by decide⟩

theorem witness_HopsDeliverInOrder_2 :
    ∃ (p : Nat) (x : TxFrame) (r : List TxFrame) (s : State),
    (p < 8) ∧
    (fabricUp s p = true) ∧
    ((getFab s p).tx = x :: r) ∧
    (x.tries < 16) :=
  ⟨1, txOf 1 15, [], putFab fabSt 1 { FabricPort.fresh with tx := [txOf 1 15] }, by decide⟩

theorem witness_HopsDeliverInOrder_3 :
    ∃ (p : Nat) (x : TxFrame) (r : List TxFrame) (s : State),
    (p < 8) ∧
    (fabricUp s p = true) ∧
    ((getFab s p).tx = x :: r) ∧
    (16 ≤ x.tries) :=
  ⟨1, txOf 1 16, [], putFab fabSt 1 { FabricPort.fresh with tx := [txOf 1 16] }, by decide⟩

theorem witness_HopsDeliverInOrder_4 :
    ∃ (p e k : Nat) (f : Frame) (s : State),
    (fabricUp s p = true) ∧
    (f.payload.length ≤ 8192) ∧
    (f.seq = (getFab s p).rxSeq) ∧
    (f.dst ≠ deviceId s) ∧
    (1 < f.ttl) ∧
    (egress (hopAck (ackTo (putFab s p { getFab s p with rxSeq := ((getFab s p).rxSeq + 1) % 2 ^ 32 }) p f.ack) p) f.dst = some e) ∧
    (fabricUp (hopAck (ackTo (putFab s p { getFab s p with rxSeq := ((getFab s p).rxSeq + 1) % 2 ^ 32 }) p f.ack) p) e = true) :=
  ⟨1, 1, 1, { fr 0 [] with dst := 9 }, fabSt, by decide⟩

theorem witness_HopsDeliverInOrder_send :
    ∃ (s : State) (p : Nat), (getFab s p).queue = [] := ⟨fabSt, 1, by decide⟩

theorem witness_HopsDeliverInOrder_5 :
    ∃ (p k : Nat) (f : Frame) (s : State),
    (p < 8) ∧
    (fabricUp s p = true) ∧
    (f.payload.length ≤ 8192) ∧
    (f.seq = (getFab s p).rxSeq) ∧
    (f.dst ≠ deviceId s) ∧
    (f.ttl ≤ 1) :=
  ⟨1, 1, { fr 0 [] with dst := 9, ttl := 1 }, fabSt, by decide⟩

theorem witness_HopsDeliverInOrder_6 :
    ∃ (p k : Nat) (f : Frame) (s : State),
    (f.seq ≠ (getFab s p).rxSeq) :=
  ⟨1, 1, { fr 0 [] with seq := 5 }, fabSt, by decide⟩

theorem witness_HopsDeliverInOrder_7 :
    ∃ (p q : Nat) (s : State),
    (p < 8) ∧
    (q < 4096) ∧
    (fget s (22 + p / 4) (p % 4) Fl.NET_PORT_CFG_ENABLE = 1) ∧
    (fget s (22 + p / 4) (p % 4) Fl.NET_PORT_STATE_STATE = 1) ∧
    (deviceId s ≠ 0 ∨ fget s (22 + p / 4) (p % 4) Fl.NET_PORT_CFG_MODE = 0) ∧
    (s.pins.clocks.getLsbD (2 + p / 4) = true) :=
  ⟨1, 9, fput (fput fabSt 22 1 Fl.NET_PORT_CFG_ENABLE 1) 22 1 Fl.NET_PORT_STATE_STATE 1, by decide⟩

theorem witness_HopsDeliverInOrder_8 :
    ∃ (p q : Nat) (s : State),
    (s.pins.clocks.getLsbD (2 + p / 4) = false) :=
  ⟨1, 9, { fabSt with pins := { fabSt.pins with clocks := 3 } }, by decide⟩

theorem witness_HopsDeliverInOrder_9 :
    ∃ (p q : Nat) (s : State),
    (deviceId s = 0) ∧
    (fget s (22 + p / 4) (p % 4) Fl.NET_PORT_CFG_MODE = 1) :=
  ⟨1, 9, fput fabSt 22 0 Fl.NET_DEVICE_DEVICE_ID 0, by decide⟩

theorem witness_HopsDeliverInOrder_10 :
    ∃ (p : Nat) (s : State),
    (p < 8) ∧
    (fget s (22 + p / 4) (p % 4) Fl.NET_PORT_STATE_STATE = 2) ∧
    (s.net.remotes = []) ∧
    (busyStreams s = []) :=
  ⟨1, fabSt, by decide⟩

theorem witness_HopsDeliverInOrder_11 :
    ∃ (p : Nat) (s : State),
    (fget s (22 + p / 4) (p % 4) Fl.NET_PORT_STATE_STATE = 2) :=
  ⟨1, awaitSt kReadReq (.cmd 5 1) fabSt, by decide⟩

theorem witness_RemoteReadsAndWritesAreServed_1 :
    ∃ (p : Nat) (f : Frame) (s : State),
    (fabricUp s p = true) ∧
    (f.payload.length ≤ 8192) ∧
    (f.seq = (getFab s p).rxSeq) ∧
    (f.dst = deviceId s) ∧
    (deviceId s ≠ 0) ∧
    (exported (hopAck (ackTo (putFab s p { getFab s p with rxSeq := ((getFab s p).rxSeq + 1) % 2 ^ 32 }) p f.ack) p) p (lineOf f.arg.toNat) 64 = true) ∧
    (poisoned (ncRead (hopAck (ackTo (putFab s p { getFab s p with rxSeq := ((getFab s p).rxSeq + 1) % 2 ^ 32 }) p f.ack) p) (lineOf f.arg.toNat) 64).2 (lineOf f.arg.toNat) = false) :=
  ⟨1, fr 0x40 [], fabSt, by decide⟩

theorem witness_RemoteReadsAndWritesAreServed_2 :
    ∃ (p : Nat) (f : Frame) (s : State),
    (fabricUp s p = true) ∧
    (f.payload.length ≤ 8192) ∧
    (f.seq = (getFab s p).rxSeq) ∧
    (f.dst = deviceId s) ∧
    (deviceId s ≠ 0) ∧
    (exported (hopAck (ackTo (putFab s p { getFab s p with rxSeq := ((getFab s p).rxSeq + 1) % 2 ^ 32 }) p f.ack) p) p (lineOf f.arg.toNat) 64 = false) :=
  ⟨1, fr 0x8_0000_0000 [], fabSt, by decide⟩

theorem witness_RemoteReadsAndWritesAreServed_3 :
    ∃ (p : Nat) (f : Frame) (s : State),
    (fabricUp s p = true) ∧
    (f.payload.length ≤ 8192) ∧
    (f.seq = (getFab s p).rxSeq) ∧
    (f.dst = deviceId s) ∧
    (deviceId s ≠ 0) ∧
    (exported (hopAck (ackTo (putFab s p { getFab s p with rxSeq := ((getFab s p).rxSeq + 1) % 2 ^ 32 }) p f.ack) p) p f.arg.toNat f.payload.length = true) :=
  ⟨1, fr 0x44 [1, 2], fabSt, by decide⟩

theorem witness_RemoteReadsAndWritesAreServed_4 :
    ∃ (p : Nat) (f : Frame) (s : State),
    (fabricUp s p = true) ∧
    (f.payload.length ≤ 8192) ∧
    (f.seq = (getFab s p).rxSeq) ∧
    (f.dst = deviceId s) ∧
    (deviceId s ≠ 0) ∧
    (exported (hopAck (ackTo (putFab s p { getFab s p with rxSeq := ((getFab s p).rxSeq + 1) % 2 ^ 32 }) p f.ack) p) p f.arg.toNat f.payload.length = false) :=
  ⟨1, fr 0x8_0000_0000 [1, 2], fabSt, by decide⟩

theorem witness_RemoteReadsAndWritesAreServed_reply :
    ∃ (e : Nat) (w : BitVec 64) (f : Frame) (s : State), localRoute s f.src = some w ∧ fldOf Fl.NET_ROUTE_PORT w = e ∧ fabricUp s e = true := ⟨1, 0x8100_0300_0000_0000, fr 0 [], fabSt, by decide⟩

theorem witness_RemoteReadsAndWritesAreServed_5 :
    ∃ (p : Nat) (f : Frame) (r : RemoteReq) (s : State),
    (fabricUp s p = true) ∧
    (f.payload.length ≤ 8192) ∧
    (f.seq = (getFab s p).rxSeq) ∧
    (f.dst = deviceId s) ∧
    (deviceId s ≠ 0) ∧
    (awaited (hopAck (ackTo (putFab s p { getFab s p with rxSeq := ((getFab s p).rxSeq + 1) % 2 ^ 32 }) p f.ack) p) f (fun r => r.kind == kReadReq && f.payload.length == 64) = some r) :=
  ⟨1, fr 0 (List.replicate 64 3), reqOf kReadReq (.cmd 5 1), awaitSt kReadReq (.cmd 5 1) fabSt, by decide⟩

theorem witness_RemoteReadsAndWritesAreServed_6 :
    ∃ (p : Nat) (f : Frame) (r : RemoteReq) (s : State),
    (fabricUp s p = true) ∧
    (f.payload.length ≤ 8192) ∧
    (f.seq = (getFab s p).rxSeq) ∧
    (f.dst = deviceId s) ∧
    (deviceId s ≠ 0) ∧
    (awaited (hopAck (ackTo (putFab s p { getFab s p with rxSeq := ((getFab s p).rxSeq + 1) % 2 ^ 32 }) p f.ack) p) f (fun r => r.kind == kWrite) = some r) :=
  ⟨1, fr 0 [], reqOf kWrite (.cmd 5 1), awaitSt kWrite (.cmd 5 1) fabSt, by decide⟩

theorem witness_RemoteReadsAndWritesAreServed_7 :
    ∃ (p c q : Nat) (f : Frame) (r : RemoteReq) (k : Cmd) (s : State),
    (fabricUp s p = true) ∧
    (f.payload.length ≤ 8192) ∧
    (f.seq = (getFab s p).rxSeq) ∧
    (f.dst = deviceId s) ∧
    (deviceId s ≠ 0) ∧
    (awaited (hopAck (ackTo (putFab s p { getFab s p with rxSeq := ((getFab s p).rxSeq + 1) % 2 ^ 32 }) p f.ack) p) f (fun _ => true) = some r) ∧
    (r.kind = kReadReq ∨ r.kind = kWrite) ∧
    (r.req = .cmd c q) ∧
    (getCmd s c q = some k) ∧
    (busyStreams s = []) :=
  ⟨1, 5, 1, fr 0 [], reqOf kReadReq (.cmd 5 1), cmdOf 2, { awaitSt kReadReq (.cmd 5 1) fabSt with ctxs := [(5, { Ctx.fresh with cmds := [cmdOf 2] })] }, by decide⟩

theorem witness_RemoteReadsAndWritesAreServed_8 :
    ∃ (p : Nat) (f : Frame) (r : RemoteReq) (s : State),
    (fabricUp s p = true) ∧
    (f.payload.length ≤ 8192) ∧
    (f.seq = (getFab s p).rxSeq) ∧
    (f.dst = deviceId s) ∧
    (deviceId s ≠ 0) ∧
    (awaited (hopAck (ackTo (putFab s p { getFab s p with rxSeq := ((getFab s p).rxSeq + 1) % 2 ^ 32 }) p f.ack) p) f (fun _ => true) = some r) ∧
    (r.kind ≠ kSignal ∨ f.arg ≠ 0x0121) :=
  ⟨1, fr 0 [], reqOf kWait (.agent (.engine 0 0) 5 1), fabWait, by decide⟩

theorem witness_FabricCountersSignalAndRelease_1 :
    ∃ (p : Nat) (f : Frame) (s : State),
    (fabricUp s p = true) ∧
    (f.payload.length ≤ 8192) ∧
    (f.seq = (getFab s p).rxSeq) ∧
    (f.dst = deviceId s) ∧
    (deviceId s ≠ 0) ∧
    ((argCounter f) < 4096) ∧
    ((getFctr s (argCounter f)).value + argAmount f < 2 ^ 32) ∧
    ((getFctr s (argCounter f)).waits = []) :=
  ⟨1, fr 0x5_0000_0003 [], fabSt, by decide⟩

theorem witness_FabricCountersSignalAndRelease_2 :
    ∃ (p : Nat) (f : Frame) (s : State),
    (fabricUp s p = true) ∧
    (f.payload.length ≤ 8192) ∧
    (f.seq = (getFab s p).rxSeq) ∧
    (f.dst = deviceId s) ∧
    (deviceId s ≠ 0) ∧
    ((argCounter f) < 4096) ∧
    (fabricAdd (hopAck (ackTo (putFab s p { getFab s p with rxSeq := ((getFab s p).rxSeq + 1) % 2 ^ 32 }) p f.ack) p) (argCounter f) (argAmount f) = none) :=
  ⟨1, fr 0x5_0000_0003 [], putFctr fabSt 3 ⟨2 ^ 32 - 1, []⟩, by decide⟩

theorem witness_FabricCountersSignalAndRelease_3 :
    ∃ (p : Nat) (f : Frame) (u s : State),
    (fabricUp s p = true) ∧
    (f.payload.length ≤ 8192) ∧
    (f.seq = (getFab s p).rxSeq) ∧
    (f.dst = deviceId s) ∧
    (deviceId s ≠ 0) ∧
    ((argCounter f) < 4096) ∧
    (fabricAdd (hopAck (ackTo (putFab s p { getFab s p with rxSeq := ((getFab s p).rxSeq + 1) % 2 ^ 32 }) p f.ack) p) (argCounter f) (argAmount f) = some u) :=
  ⟨1, fr 0x5_0000_0003 [], (fabricAdd (hopAck (ackTo (putFab fabSt 1 { getFab fabSt 1 with rxSeq := ((getFab fabSt 1).rxSeq + 1) % 2 ^ 32 }) 1 0) 1) 3 5).getD fabSt, fabSt, by decide, by decide, by decide, by decide, by decide, by decide, rfl⟩

theorem witness_FabricCountersSignalAndRelease_4 :
    ∃ (p : Nat) (f : Frame) (s : State),
    (fabricUp s p = true) ∧
    (f.payload.length ≤ 8192) ∧
    (f.seq = (getFab s p).rxSeq) ∧
    (f.dst = deviceId s) ∧
    (deviceId s ≠ 0) ∧
    ((argCounter f) < 4096) ∧
    ((getFctr s (argCounter f)).value < argAmount f) ∧
    ((getFctr s (argCounter f)).waits.all (fun x => decide ((getFctr s (argCounter f)).value < x.2.2)) = true) :=
  ⟨1, fr 0x5_0000_0003 [], fabSt, by decide⟩

theorem witness_FabricCountersSignalAndRelease_5 :
    ∃ (p : Nat) (f : Frame) (s : State),
    (fabricUp s p = true) ∧
    (f.payload.length ≤ 8192) ∧
    (f.seq = (getFab s p).rxSeq) ∧
    (f.dst = deviceId s) ∧
    (deviceId s ≠ 0) ∧
    ((argCounter f) < 4096) :=
  ⟨1, fr 0x5_0000_0003 [], putFctr fabSt 3 ⟨5, []⟩, by decide⟩

theorem witness_FabricCountersSignalAndRelease_6 :
    ∃ (p d e c q i n tag : Nat) (x : Slot) (l : Launch) (f : Frame) (r : RemoteReq) (s : State),
    (fabricUp s p = true) ∧
    (f.payload.length ≤ 8192) ∧
    (f.seq = (getFab s p).rxSeq) ∧
    (f.dst = deviceId s) ∧
    (deviceId s ≠ 0) ∧
    (awaited (hopAck (ackTo (putFab s p { getFab s p with rxSeq := ((getFab s p).rxSeq + 1) % 2 ^ 32 }) p f.ack) p) f (fun r => r.kind == kWait) = some r) ∧
    (r.req = .agent (.engine d e) c q) ∧
    (slotOf s d e = some (l, i, x)) ∧
    (x.hold = .remote n tag) :=
  ⟨1, 0, 0, 5, 1, 0, 0, 4, { slotIn [.end_, .end_] with hold := .remote 0 4 }, { launchOf [.end_, .end_] with slots := [{ slotIn [.end_, .end_] with hold := .remote 0 4 }] }, fr 0 [], reqOf kWait (.agent (.engine 0 0) 5 1), fabWait, by decide⟩

theorem witness_FabricCountersSignalAndRelease_7 :
    ∃ (d i : Nat) (v : BitVec 32) (s : State),
    (windowDead s d = false) ∧
    (d = 22 ∨ d = 23) ∧
    (i < 2048) :=
  ⟨22, 3, 9, fabSt, by decide⟩

theorem witness_FabricCountersSignalAndRelease_8 :
    ∃ (p c q i n tag : Nat) (a : Agent) (f : Frame) (l : Launch) (fi : Bool) (r : RemoteReq) (s : State),
    (fabricUp s p = true) ∧
    (f.payload.length ≤ 8192) ∧
    (f.seq = (getFab s p).rxSeq) ∧
    (f.dst = deviceId s) ∧
    (deviceId s ≠ 0) ∧
    (awaited (hopAck (ackTo (putFab s p { getFab s p with rxSeq := ((getFab s p).rxSeq + 1) % 2 ^ 32 }) p f.ack) p) f (fun r => r.kind == kWait) = some r) ∧
    (r.req = .agent a c q) ∧
    (agentAt { (hopAck (ackTo (putFab s p { getFab s p with rxSeq := ((getFab s p).rxSeq + 1) % 2 ^ 32 }) p f.ack) p) with net := { (hopAck (ackTo (putFab s p { getFab s p with rxSeq := ((getFab s p).rxSeq + 1) % 2 ^ 32 }) p f.ack) p).net with remotes := (hopAck (ackTo (putFab s p { getFab s p with rxSeq := ((getFab s p).rxSeq + 1) % 2 ^ 32 }) p f.ack) p).net.remotes.erase r } } a = some (l, i, fi, .remote n tag)) :=
  ⟨1, 5, 1, 0, 0, 4, .engine 0 0, fr 0 [], { launchOf [.end_, .end_] with slots := [{ slotIn [.end_, .end_] with hold := .remote 0 4 }] }, false, reqOf kWait (.agent (.engine 0 0) 5 1), fabWait, by decide⟩

theorem witness_ProbesAndJobFramesAreTaken_1 :
    ∃ (p : Nat) (f : Frame) (s : State),
    (fabricUp s p = true) ∧
    (f.payload.length ≤ 8192) ∧
    (f.seq = (getFab s p).rxSeq) ∧
    (f.dst = deviceId s) ∧
    (deviceId s ≠ 0) :=
  ⟨1, fr 0 [], fabSt, by decide⟩

theorem witness_ProbesAndJobFramesAreTaken_2 :
    ∃ (k : Nat) (w : BitVec 64) (s : State),
    ((k, w) ∈ s.net.routes) ∧
    (fldOf Fl.NET_ROUTE_VALID w = 1) ∧
    (fabricUp s (fldOf Fl.NET_ROUTE_PORT w) = true) :=
  ⟨22 * 4096 + 9, 0x8100_0300_0000_0000, fabSt, by decide⟩

theorem witness_ProbesAndJobFramesAreTaken_3 :
    ∃ (p tag k a : Nat) (f : Frame) (s : State),
    (fabricUp s p = true) ∧
    (f.payload.length ≤ 8192) ∧
    (f.seq = (getFab s p).rxSeq) ∧
    (f.dst = deviceId s) ∧
    (deviceId s ≠ 0) ∧
    (s.net.probes.find? (fun x => x.1 == f.tag && x.2.1 % 4096 == f.src) = some (tag, k, a)) :=
  ⟨1, 4, 22 * 4096 + 9, 0, fr 0 [], { fabSt with time := 2400, net := { fabSt.net with probes := [(4, 22 * 4096 + 9, 0)] } }, by decide⟩

theorem witness_ProbesAndJobFramesAreTaken_4 :
    ∃ (p : Nat) (f : Frame) (s : State),
    (fabricUp s p = true) ∧
    (f.payload.length ≤ 8192) ∧
    (f.seq = (getFab s p).rxSeq) ∧
    (f.dst = deviceId s) ∧
    (deviceId s ≠ 0) ∧
    (fget s 24 0 Fl.PWR_JOB_CTL_ENABLE = 1) ∧
    (f.arg.toNat = fget s 24 0 Fl.PWR_JOB_CTL_JOB_ID) ∧
    (fget s 24 0 Fl.PWR_JOB_CTL_COORDINATOR = 1) :=
  ⟨1, fr 3 [9, 0, 0, 0, 1, 0, 0, 0, 2, 0, 3, 0], fput fabSt 24 0 Fl.PWR_JOB_CTL_COORDINATOR 1, by decide⟩

theorem witness_ProbesAndJobFramesAreTaken_5 :
    ∃ (p : Nat) (f : Frame) (s : State),
    (fabricUp s p = true) ∧
    (f.payload.length ≤ 8192) ∧
    (f.seq = (getFab s p).rxSeq) ∧
    (f.dst = deviceId s) ∧
    (deviceId s ≠ 0) ∧
    (f.arg.toNat ≠ fget s 24 0 Fl.PWR_JOB_CTL_JOB_ID) :=
  ⟨1, fr 4 [], fabSt, by decide⟩

theorem witness_ProbesAndJobFramesAreTaken_6 :
    ∃ (p : Nat) (f : Frame) (s : State),
    (fabricUp s p = true) ∧
    (f.payload.length ≤ 8192) ∧
    (f.seq = (getFab s p).rxSeq) ∧
    (f.dst = deviceId s) ∧
    (deviceId s ≠ 0) ∧
    (fget s 24 0 Fl.PWR_JOB_CTL_ENABLE = 1) ∧
    (f.arg.toNat = fget s 24 0 Fl.PWR_JOB_CTL_JOB_ID) :=
  ⟨1, fr 3 [44, 1], fabSt, by decide⟩

theorem witness_ProbesAndJobFramesAreTaken_7 :
    ∃ (p : Nat) (f : Frame) (s : State),
    (fabricUp s p = true) ∧
    (f.payload.length ≤ 8192) ∧
    (f.seq = (getFab s p).rxSeq) ∧
    (f.dst = deviceId s) ∧
    (deviceId s ≠ 0) ∧
    (f.arg.toNat ≠ fget s 24 0 Fl.PWR_JOB_CTL_JOB_ID) :=
  ⟨1, fr 4 [44, 1], fabSt, by decide⟩

theorem witness_RootPortsServeAndFall_1 :
    ∃ (g a n : Nat) (d : List Byte) (s : State),
    (g < 16) ∧
    (rpUp s g = true) ∧
    (dmaServed s g a n = true) ∧
    (a < msiPage g ∨ msiPage g + 4096 ≤ a) :=
  ⟨0, 0x40, 2, [1, 2], rpSt, by decide⟩

theorem witness_RootPortsServeAndFall_2 :
    ∃ (g a n : Nat) (d : List Byte) (s : State),
    (g < 16) ∧
    (rpUp s g = true) ∧
    (dmaServed s g a n = true) ∧
    (rangePoison (ncRead s a n).2 a n = false) :=
  ⟨0, 0x40, 2, [], rpSt, by decide⟩

theorem witness_RootPortsServeAndFall_3 :
    ∃ (g a n : Nat) (b : PcieKind) (d : List Byte) (s : State),
    (g < 16) ∧
    (rpUp s g = true) ∧
    (b ∉ [.ats, .pri] → dmaServed s g a n = false) ∧
    (b ≠ .write ∨ a < msiPage g ∨ msiPage g + 4096 ≤ a) :=
  ⟨0, 0x9_0000_0000, 2, .write, [], rpSt, by decide⟩

theorem witness_RootPortsServeAndFall_4 :
    ∃ (g : Nat) (d : BitVec 32) (s : State),
    (rpUp s g = true) :=
  ⟨0, 0x1_0044, rpSt, by decide⟩

theorem witness_RootPortsServeAndFall_5 :
    ∃ (g a n : Nat) (d : List Byte) (s : State),
    (rpUp s g = true) ∧
    (msiPage g ≤ a) ∧
    (a < msiPage g + 4096) :=
  ⟨0, 0x3F40_1000_0000, 4, [0x44, 0, 1, 0], rpSt, by decide⟩

theorem witness_RootPortsServeAndFall_6 :
    ∃ (d c g : Nat) (w : CoreWait) (r : List CoreWait) (s : State),
    ((getCore s d c).waiting = w :: r) ∧
    (sliceOf s w.addr = some g) :=
  ⟨16, 3, 0, ⟨0x3F80_0000_0040, 8, 0, []⟩, [], putCore rpSt 16 3 { Core.fresh with waiting := [⟨0x3F80_0000_0040, 8, 0, []⟩] }, by decide⟩

theorem witness_RootPortsServeAndFall_7 :
    ∃ (d c : Nat) (s : State),
    ((getCore s d c).waiting = []) :=
  ⟨16, 3, rpSt, by decide⟩

theorem witness_RootPortsServeAndFall_8 :
    ∃ (g : Nat) (s : State),
    (g < 16) ∧
    (rpUp s g = true) :=
  ⟨0, rpSt, by decide⟩

theorem witness_RootPortsServeAndFall_9 :
    ∃ (g w r : Nat) (b : Bool) (s : State),
    (g < 16) ∧
    (rpUp s g = false) ∧
    (w ≤ rpLanes s g) ∧
    (rpLanes s g ≠ 0) ∧
    (w < 256) ∧
    (r < 256) ∧
    (s.pins.clocks.getLsbD (g / 8) = true) :=
  ⟨2, 8, 64, true, rpSt, by decide⟩

theorem witness_RootPortsServeAndFall_10 :
    ∃ (g w r : Nat) (b : Bool) (s : State),
    (s.pins.clocks.getLsbD (g / 8) = false) :=
  ⟨2, 8, 64, true, { rpSt with pins := { rpSt.pins with clocks := 0xC } }, by decide⟩

theorem witness_RootPortsServeAndFall_11 :
    ∃ (g w r : Nat) (b : Bool) (s : State),
    (rpLanes s g = 0) :=
  ⟨1, 8, 64, true, rpSt, by decide⟩

theorem witness_RootPortsServeAndFall_12 :
    ∃ (d r : Nat) (v : BitVec 64) (s : State),
    (windowDead s d = false) ∧
    (d = 22 ∨ d = 23) ∧
    (r < 8) ∧
    (r % 2 = 0) ∧
    (fget s d r Fl.PCI_RP_CXL_ENABLE = 0) ∧
    (fldOf Fl.PCI_RP_CXL_ENABLE v = 1) ∧
    (windowRefused s ((d - 22) * 8 + r) (fldOf Fl.PCI_RP_CXL_BASE_GIB v) (fldOf Fl.PCI_RP_CXL_SIZE_GIB v) = true) :=
  ⟨22, 2, 0x8000_0010_0000_0020, farUpSt, by decide⟩

theorem witness_RootPortsServeAndFall_13 :
    ∃ (d r : Nat) (v : BitVec 64) (s : State),
    (windowDead s d = false) ∧
    (d = 22 ∨ d = 23) ∧
    (r < 8) ∧
    (r % 2 = 0) ∧
    (fget s d r Fl.PCI_RP_CXL_ENABLE = 0) ∧
    (fldOf Fl.PCI_RP_CXL_ENABLE v = 1) ∧
    (windowRefused s ((d - 22) * 8 + r) (fldOf Fl.PCI_RP_CXL_BASE_GIB v) (fldOf Fl.PCI_RP_CXL_SIZE_GIB v) = false) :=
  ⟨22, 2, 0x8000_0010_0000_0040, farUpSt, by decide⟩

theorem witness_RootPortsServeAndFall_14 :
    ∃ (d r : Nat) (v : BitVec 64) (s : State),
    (windowDead s d = false) ∧
    (fget s d r Fl.PCI_RP_CXL_ENABLE = 1) ∧
    (fldOf Fl.PCI_RP_CXL_ENABLE v = 1) :=
  ⟨22, 0, 0x8000_0010_0000_0040, farUpSt, by decide⟩

theorem witness_RootPortsServeAndFall_15 :
    ∃ (d r : Nat) (v : BitVec 64) (s : State),
    (windowDead s d = false) ∧
    (d = 22 ∨ d = 23) ∧
    (r < 8) ∧
    (r % 2 = 0) ∧
    (fldOf Fl.PCI_RP_CXL_ENABLE v = 0) :=
  ⟨22, 0, 0, farUpSt, by decide⟩

theorem witness_MediaEntriesAreAssigned_1 :
    ∃ (c q f : Nat) (k : Cmd) (b : List Byte) (p : Nat × Nat) (s : State),
    (runCmd s c q 5 = some k) ∧
    (k.pipe = none) ∧
    (s.mediaQ = []) ∧
    (k.desc.count % 128 = 0) ∧
    (k.finder = some f) ∧
    (k.denied = none) ∧
    ((readVa s (.cmd c q) c (k.desc.argA.toNat + 128 * k.done) 112).1 = .ok b) ∧
    (entryBad b = false) ∧
    (entryPast b = false) ∧
    ((pipesOf (eEncode b)).find? (fun p => pipeOn (readVa s (.cmd c q) c (k.desc.argA.toNat + 128 * k.done) 112).2 p && pipeIdle (readVa s (.cmd c q) c (k.desc.argA.toNat + 128 * k.done) 112).2 p) = some p) ∧
    (getCmd (readVa s (.cmd c q) c (k.desc.argA.toNat + 128 * k.done) 112).2 c q = some k) ∧
    ((readVa s (.cmd c q) c (k.desc.argA.toNat + 128 * k.done) 112).2.mediaQ = []) ∧
    (c < 65536) ∧
    (p.1 < 25) ∧
    (p.2 < 12) :=
  ⟨5, 1, 0, mCmd, memReadN (mEntryMem 1) 0x10000 112, (22, 0), medSt (mEntryMem 1) mCmd, by decide⟩

theorem witness_MediaEntriesAreAssigned_2 :
    ∃ (c q f : Nat) (k : Cmd) (b : List Byte) (s : State),
    (runCmd s c q 5 = some k) ∧
    (k.pipe = none) ∧
    (s.mediaQ = []) ∧
    (k.desc.count % 128 = 0) ∧
    (k.finder = some f) ∧
    (k.denied = none) ∧
    ((readVa s (.cmd c q) c (k.desc.argA.toNat + 128 * k.done) 112).1 = .ok b) ∧
    (entryBad b = true) ∧
    (getCmd (readVa s (.cmd c q) c (k.desc.argA.toNat + 128 * k.done) 112).2 c q = some k) ∧
    ((getCtx (readVa s (.cmd c q) c (k.desc.argA.toNat + 128 * k.done) 112).2 c).cplTail = (getCtx s c).cplTail) :=
  ⟨5, 1, 0, mCmd, List.replicate 112 0, medSt [] mCmd, by decide⟩

theorem witness_MediaEntriesAreAssigned_3 :
    ∃ (c q : Nat) (k : Cmd) (s : State),
    (runCmd s c q 5 = some k) ∧
    (k.pipe = none) ∧
    (s.mediaQ = []) ∧
    (k.desc.count % 128 ≠ 0) :=
  ⟨5, 1, { mCmd with desc := ⟨5, 0, 0, 100, 0x10000, 0, 0, []⟩ }, medSt [] { mCmd with desc := ⟨5, 0, 0, 100, 0x10000, 0, 0, []⟩ }, by decide⟩

theorem witness_MediaEntriesAreAssigned_4 :
    ∃ (b : Bool) (c q : Nat) (k : Cmd) (p : Nat × Nat) (s : State),
    (s.mediaQ.find? (wantsPipe s b) = some (c, q)) ∧
    (getCmd s c q = some k) ∧
    ((pipesOf b).find? (fun p => pipeOn s p && pipeIdle s p) = some p) ∧
    (c < 65536) :=
  ⟨false, 5, 1, { mCmd with entry := mEntry 1 8 }, (22, 0), { medSt [] { mCmd with entry := mEntry 1 8 } with mediaQ := [(5, 1)] }, by decide⟩

theorem witness_MediaEntriesAreAssigned_5 :
    ∃ (b : Bool) (s : State),
    (s.mediaQ = []) :=
  ⟨true, medSt [] mCmd, by decide⟩

theorem witness_MediaEntriesAreAssigned_6 :
    ∃ (d i : Nat) (on : Bool) (s : State),
    (windowDead s d = false) ∧
    (d = 22 ∨ d = 23) ∧
    (i < 12) :=
  ⟨22, 3, false, medSt [] mCmd, by decide⟩

theorem witness_MediaEntriesAreCarriedOut_1 :
    ∃ (d i c : Nat) (k : Cmd) (x : List Byte) (s : State),
    (pipeCmd s (d, i) = some (c, k)) ∧
    (k.stalled = none) ∧
    (smGetD s.power.mediaPaused false (12 * d + i) = false) ∧
    (k.result = none) ∧
    (k.denied = none) ∧
    ((readVa s (.cmd c k.seq) c (imgNum k.entry 8 8) (imgNum k.entry 16 8)).1 = .ok x) :=
  ⟨22, 0, 5, { mCmd with pipe := some (22, 0), entry := mEntry 1 8 }, List.replicate 8 0, pipeSt 0 (mEntry 1 8), by decide⟩

theorem witness_MediaEntriesAreCarriedOut_2 :
    ∃ (d i c : Nat) (k : Cmd) (s : State),
    (pipeCmd s (d, i) = some (c, k)) ∧
    (k.stalled = none) ∧
    (smGetD s.power.mediaPaused false (12 * d + i) = false) ∧
    (k.result = none) :=
  ⟨22, 2, 5, { mCmd with pipe := some (22, 2), entry := mEntry 1 8 }, pipeSt 2 (mEntry 1 8), by decide⟩

theorem witness_MediaEntriesAreCarriedOut_3 :
    ∃ (d i c : Nat) (k : Cmd) (s : State),
    (d = 22 ∨ d = 23) ∧
    (i < 4) ∧
    (pipeCmd s (d, i) = some (c, k)) ∧
    (k.stalled = none) ∧
    (smGetD s.power.mediaPaused false (12 * d + i) = false) ∧
    (k.result = none) ∧
    (getCmd s c k.seq = some k) ∧
    ((writeVa (modCmd s c k.seq fun x => { x with result := some 0x0605, denied := none }) (.cmd c k.seq) c (k.desc.argA.toNat + 128 * k.done + 112) (leBytes 8 k.outBytes ++ leBytes 4 k.frames ++ leBytes 4 0x0605)).1 = .ok ()) ∧
    ((getCmd (writeVa (modCmd s c k.seq fun x => { x with result := some 0x0605, denied := none }) (.cmd c k.seq) c (k.desc.argA.toNat + 128 * k.done + 112) (leBytes 8 k.outBytes ++ leBytes 4 k.frames ++ leBytes 4 0x0605)).2 c k.seq).isSome = true) :=
  ⟨22, 2, 5, { mCmd with pipe := some (22, 2), entry := mEntry 1 8 }, pipeSt 2 (mEntry 1 8), by decide⟩

theorem witness_MediaEntriesAreCarriedOut_4 :
    ∃ (d i c : Nat) (k : Cmd) (x : List Byte) (s : State),
    (pipeCmd s (d, 8 + i) = some (c, k)) ∧
    (k.stalled = none) ∧
    (smGetD s.power.mediaPaused false (12 * d + 8 + i) = false) ∧
    (k.result = none) ∧
    (encodeBytes k.entry ≤ imgNum k.entry 16 8) ∧
    (k.denied = none) ∧
    ((readVa s (.cmd c k.seq) c (imgNum k.entry 8 8) (encodeBytes k.entry)).1 = .ok x) :=
  ⟨22, 0, 5, { mCmd with pipe := some (22, 8), entry := mEntry 2 2048 }, List.replicate 2048 0, pipeSt 8 (mEntry 2 2048), by decide⟩

theorem witness_MediaEntriesAreCarriedOut_5 :
    ∃ (d i c : Nat) (k : Cmd) (s : State),
    (pipeCmd s (d, 8 + i) = some (c, k)) ∧
    (k.stalled = none) ∧
    (smGetD s.power.mediaPaused false (12 * d + 8 + i) = false) ∧
    (k.result = none) :=
  ⟨22, 2, 5, { mCmd with pipe := some (22, 10), entry := mEntry 2 2048 }, pipeSt 10 (mEntry 2 2048), by decide⟩

theorem witness_MediaEntriesAreCarriedOut_6 :
    ∃ (d i c : Nat) (k : Cmd) (s : State),
    (d = 22 ∨ d = 23) ∧
    (i < 4) ∧
    (pipeCmd s (d, 8 + i) = some (c, k)) ∧
    (k.stalled = none) ∧
    (smGetD s.power.mediaPaused false (12 * d + 8 + i) = false) ∧
    (k.result = none) ∧
    (getCmd s c k.seq = some k) ∧
    ((writeVa (modCmd s c k.seq fun x => { x with result := some 0x0605, denied := none }) (.cmd c k.seq) c (k.desc.argA.toNat + 128 * k.done + 112) (leBytes 8 k.outBytes ++ leBytes 4 k.frames ++ leBytes 4 0x0605)).1 = .ok ()) ∧
    ((getCmd (writeVa (modCmd s c k.seq fun x => { x with result := some 0x0605, denied := none }) (.cmd c k.seq) c (k.desc.argA.toNat + 128 * k.done + 112) (leBytes 8 k.outBytes ++ leBytes 4 k.frames ++ leBytes 4 0x0605)).2 c k.seq).isSome = true) :=
  ⟨22, 2, 5, { mCmd with pipe := some (22, 10), entry := mEntry 2 2048 }, pipeSt 10 (mEntry 2 2048), by decide⟩

theorem witness_KeysMeasurementsAndCounters_1 :
    ∃ (k : Nat) (s : State),
    (windowDead s 24 = false) ∧
    (2 ≤ k) ∧
    (k < 4) ∧
    (slotProgrammed s k = false) :=
  ⟨2, up, by decide⟩

theorem witness_KeysMeasurementsAndCounters_2 :
    ∃ (k : Nat) (s : State),
    (windowDead s 24 = false) ∧
    (k < 2 ∨ slotProgrammed s k = true) :=
  ⟨1, up, by decide⟩

theorem witness_KeysMeasurementsAndCounters_3 :
    ∃ (k : Nat) (s : State),
    (windowDead s 24 = false) ∧
    (k < 4) ∧
    (k ≠ fget s 24 0 Fl.SEC_STATUS_PLATE_SLOT) :=
  ⟨2, up, by decide⟩

theorem witness_KeysMeasurementsAndCounters_4 :
    ∃ (s : State),
    (windowDead s 24 = false) :=
  ⟨up, by decide⟩

theorem witness_KeysMeasurementsAndCounters_5 :
    ∃ (i : Nat) (s : State),
    (windowDead s 24 = false) ∧
    (8 ≤ i) ∧
    (i < 16) ∧
    (s.sec.extending = none) :=
  ⟨9, up, by decide⟩

theorem witness_KeysMeasurementsAndCounters_6 :
    ∃ (i : Nat) (e : Nat × BitVec 384) (s : State),
    (windowDead s 24 = false) ∧
    (s.sec.extending = some e) :=
  ⟨9, (9, 1), { up with sec := { up.sec with extending := some (9, 1) } }, by decide⟩

theorem witness_KeysMeasurementsAndCounters_7 :
    ∃ (i : Nat) (s : State),
    (windowDead s 24 = false) ∧
    (i < 8) :=
  ⟨7, up, by decide⟩

theorem witness_KeysMeasurementsAndCounters_8 :
    ∃ (i : Nat) (v : BitVec 32) (s : State),
    (windowDead s 24 = false) ∧
    (rollbackOk s i v.toNat = true) ∧
    ((getPersist s (28 + i)).commits < wearEnd) :=
  ⟨9, 4, up, by decide⟩

theorem witness_KeysMeasurementsAndCounters_9 :
    ∃ (i : Nat) (v : BitVec 32) (s : State),
    (windowDead s 24 = false) ∧
    (rollbackOk s i v.toNat = false) :=
  ⟨9, 0, up, by decide⟩

theorem witness_UpdatesAndUnlocksAreChecked_1 :
    ∃ (c : Nat) (m : Bool) (b : List Byte) (s : State),
    (windowDead s 24 = false) ∧
    (1 ≤ c) ∧
    (c ≤ 4) ∧
    (s.sec.updating = none) ∧
    ((updateImage (fput (fput (fput s 24 0 Fl.SEC_UPDATE_CONTROLLER c) 24 0 Fl.SEC_UPDATE_COMMIT (b2n m)) 24 0 Fl.SEC_UPDATE_REJECTED 0)).1 = some b) :=
  ⟨3, true, List.replicate 256 0, updSt, by decide⟩

theorem witness_UpdatesAndUnlocksAreChecked_2 :
    ∃ (c : Nat) (m : Bool) (s : State),
    (windowDead s 24 = false) ∧
    (1 ≤ c) ∧
    (c ≤ 4) ∧
    (s.sec.updating = none) ∧
    (fget s 24 0 Fl.SEC_UPDATE_LEN_VALUE < 256) :=
  ⟨3, false, up, by decide⟩

theorem witness_UpdatesAndUnlocksAreChecked_3 :
    ∃ (c : Nat) (m : Bool) (s : State),
    (windowDead s 24 = false) ∧
    (c = 0 ∨ 4 < c) ∧
    (s.sec.updating = none) :=
  ⟨5, false, up, by decide⟩

theorem witness_UpdatesAndUnlocksAreChecked_4 :
    ∃ (c : Nat) (m : Bool) (u : Update) (s : State),
    (windowDead s 24 = false) ∧
    (s.sec.updating = some u) :=
  ⟨3, false, ⟨3, false, 5, 1, [18]⟩, { up with sec := { up.sec with updating := some ⟨3, false, 5, 1, [18]⟩ } }, by decide⟩

theorem witness_UpdatesAndUnlocksAreChecked_5 :
    ∃ (s : State),
    (windowDead s 24 = false) :=
  ⟨up, by decide⟩

theorem witness_UpdatesAndUnlocksAreChecked_6 :
    ∃ (v : Nat) (s : State),
    (windowDead s 24 = false) ∧
    (fget s 24 0 Fl.SEC_STATUS_LOCKOUT = 1) :=
  ⟨1, fput up 24 0 Fl.SEC_STATUS_LOCKOUT 1, by decide⟩

theorem witness_UpdatesAndUnlocksAreChecked_7 :
    ∃ (v : Nat) (s : State),
    (windowDead s 24 = false) ∧
    (fget s 24 0 Fl.SEC_STATUS_LOCKOUT = 0) ∧
    (s.sec.challenge = none) :=
  ⟨1, fput up 24 0 Fl.SEC_DBG_CTL_FAILURES 2, by decide⟩

theorem witness_UpdatesAndUnlocksAreChecked_8 :
    ∃ (v : Nat) (ch : BitVec 384) (s : State),
    (windowDead s 24 = false) ∧
    (fget s 24 0 Fl.SEC_STATUS_LOCKOUT = 0) ∧
    (s.sec.challenge = some ch) ∧
    (v < 4) :=
  ⟨1, 5, { up with sec := { up.sec with challenge := some 5 } }, by decide⟩

theorem witness_ReportsAreSigned_1 :
    ∃ (c q : Nat) (k : Cmd) (b : List Byte) (s : State),
    (runCmd s c q 7 = some k) ∧
    (k.accepted = false) ∧
    (k.desc.count = 72) ∧
    (k.denied = none) ∧
    ((readVa s (.cmd c q) c k.desc.argA.toNat 72).1 = .ok b) ∧
    (requestBad b = none) ∧
    (getCmd (readVa s (.cmd c q) c k.desc.argA.toNat 72).2 c q = some k) ∧
    (s.sec.attests = []) :=
  ⟨5, 1, attCmd, attReq, attSt attCmd [], by decide⟩

theorem witness_ReportsAreSigned_2 :
    ∃ (c q : Nat) (k : Cmd) (b : List Byte) (p : Nat × Nat) (s : State),
    (runCmd s c q 7 = some k) ∧
    (k.accepted = false) ∧
    (k.desc.count = 72) ∧
    (k.denied = none) ∧
    ((readVa s (.cmd c q) c k.desc.argA.toNat 72).1 = .ok b) ∧
    (requestBad b = none) ∧
    (getCmd (readVa s (.cmd c q) c k.desc.argA.toNat 72).2 c q = some k) ∧
    (s.sec.attests.head? = some p) ∧
    (p ≠ (c, q)) :=
  ⟨5, 1, attCmd, attReq, (6, 1), attSt attCmd [(6, 1)], by decide⟩

theorem witness_ReportsAreSigned_3 :
    ∃ (c q : Nat) (k : Cmd) (s : State),
    (runCmd s c q 7 = some k) ∧
    (k.accepted = false) ∧
    (k.desc.count ≠ 72) :=
  ⟨5, 1, { attCmd with desc := ⟨7, 0, 0, 71, 0x10000, 0, 0, []⟩ }, attSt { attCmd with desc := ⟨7, 0, 0, 71, 0x10000, 0, 0, []⟩ } [], by decide⟩

theorem witness_ReportsAreSigned_4 :
    ∃ (c q st : Nat) (k : Cmd) (b : List Byte) (s : State),
    (runCmd s c q 7 = some k) ∧
    (k.accepted = false) ∧
    (k.desc.count = 72) ∧
    (k.denied = none) ∧
    ((readVa s (.cmd c q) c k.desc.argA.toNat 72).1 = .ok b) ∧
    (requestBad b = some st) :=
  ⟨5, 1, 0x0140, attCmd, List.replicate 72 0, medSt [] attCmd, by decide⟩

theorem witness_ReportsAreSigned_5 :
    ∃ (c q : Nat) (k : Cmd) (s : State),
    (runCmd s c q 7 = some k) ∧
    (k.accepted = true) ∧
    (k.entry.length ≠ 72) ∧
    (s.sec.attests.head? = some (c, q)) ∧
    (k.denied = none) ∧
    ((writeVa s (.cmd c q) c k.frames k.entry).1 = .ok ()) :=
  ⟨5, 1, { attCmd with accepted := true, entry := List.replicate 352 1, frames := 0x12000 }, attSt { attCmd with accepted := true, entry := List.replicate 352 1, frames := 0x12000 } [(5, 1)], by decide⟩

theorem witness_ReportsAreSigned_6 :
    ∃ (c q : Nat) (k : Cmd) (s : State),
    (runCmd s c q 7 = some k) ∧
    (k.accepted = true) ∧
    (k.entry.length ≠ 72) ∧
    (s.sec.attests.head? = some (c, q)) ∧
    (k.denied = none) ∧
    ((writeVa s (.cmd c q) c k.frames k.entry).1 = .ok ()) :=
  ⟨5, 1, { attCmd with accepted := true, entry := List.replicate 352 1, frames := 0x12000 }, attSt { attCmd with accepted := true, entry := List.replicate 352 1, frames := 0x12000 } [(5, 1)], by decide⟩

theorem witness_ReportsAreSigned_length :
    ∃ b : List Byte, b.length = 72 := ⟨attReq, by decide⟩

theorem witness_PersistentRegistersCoalesceWrites_1 :
    ∃ (n : Nat) (v : BitVec 64) (s : State),
    (windowDead s 24 = false) ∧
    (64 ≤ n) ∧
    (n < 256) ∧
    ((getPersist s n).windowOpen = true) ∧
    ((getPersist s n).commits < wearEnd) :=
  ⟨100, 7, up, by decide⟩

theorem witness_PersistentRegistersCoalesceWrites_2 :
    ∃ (n : Nat) (v : BitVec 64) (s : State),
    (windowDead s 24 = false) ∧
    (64 ≤ n) ∧
    (n < 256) ∧
    ((getPersist s n).windowOpen = false) ∧
    ((getPersist s n).commits < wearEnd) :=
  ⟨100, 7, putPersist up 100 ⟨3, none, 1, false⟩, by decide⟩

theorem witness_PersistentRegistersCoalesceWrites_3 :
    ∃ (n : Nat) (v : BitVec 64) (s : State),
    (windowDead s 24 = false) ∧
    (64 ≤ n) ∧
    (n < 256) ∧
    (wearEnd ≤ (getPersist s n).commits) :=
  ⟨100, 7, putPersist up 100 ⟨3, none, 10000000, false⟩, by decide⟩

theorem witness_PersistentRegistersCoalesceWrites_4 :
    ∃ (n : Nat) (v : BitVec 64) (s : State),
    (windowDead s 24 = false) ∧
    (n < 64) :=
  ⟨63, 7, up, by decide⟩

theorem witness_PersistentRegistersCoalesceWrites_5 :
    ∃ (n : Nat) (v : BitVec 64) (s : State),
    ((getPersist s n).pendingV = some v) ∧
    ((getPersist s n).commits < wearEnd) :=
  ⟨100, 7, putPersist up 100 ⟨3, some 7, 1, false⟩, by decide⟩

theorem witness_PersistentRegistersCoalesceWrites_6 :
    ∃ (n : Nat) (s : State),
    (n < 256) ∧
    ((getPersist s n).pendingV = none) ∧
    ((getPersist s n).windowOpen = false) :=
  ⟨100, putPersist up 100 ⟨3, none, 1, false⟩, by decide⟩

theorem witness_SystemResetsClear_1 :
    ∃ (s : State),
    (s.rst.kind.rank < 2) ∧
    (s.pins.pwrGood = true) ∧
    (s.pins.sysRstDriven = false) :=
  ⟨runSt, by decide⟩

theorem witness_SystemResetsClear_2 :
    ∃ (s : State),
    (s.pins.pwrGood = false) :=
  ⟨up, by decide⟩

theorem witness_SystemResetsClear_3 :
    ∃ (s : State),
    (s.rst.kind.rank < 2) ∧
    (s.rst.stopped = false) :=
  ⟨runSt, by decide⟩

theorem witness_SystemResetsClear_4 :
    ∃ (u : Nat) (s : State),
    (s.rst.kind.rank < 2) :=
  ⟨5, runSt, by decide⟩

theorem witness_SystemResetsClear_5 :
    ∃ (u : Nat) (s : State),
    (2 ≤ s.rst.kind.rank) ∧
    (s.rst.stopped = false) :=
  ⟨5, sysSt, by decide⟩

theorem witness_SystemResetsClear_6 :
    ∃ (s : State),
    (windowDead s 24 = false) ∧
    (s.rst.kind.rank < 2) :=
  ⟨runSt, by decide⟩

theorem witness_SystemResetsClear_7 :
    ∃ (k : Nat) (s : State),
    (windowDead s 24 = false) ∧
    (k ≠ 0xA5) :=
  ⟨0x5A, runSt, by decide⟩

theorem witness_PowerOnResetsClear_1 :
    ∃ (s : State),
    (s.rst.kind ≠ .powerOn) ∧
    ((getPersist s 0).commits + 2 * s.persist.length < wearEnd) :=
  ⟨runSt, by decide⟩

theorem witness_PowerOnResetsClear_2 :
    ∃ (d : Nat) (s : State),
    (s.rst.kind ≠ .powerOn) ∧
    ((getPersist s 0).commits + 2 * s.persist.length < wearEnd) :=
  ⟨3, runSt, by decide⟩

theorem witness_PowerOnResetsClear_3 :
    ∃ (u : Nat) (s : State),
    (s.rst.kind ≠ .powerOn) ∧
    ((getPersist s 0).commits + 2 * s.persist.length < wearEnd) :=
  ⟨3, runSt, by decide⟩

theorem witness_PowerOnResetsClear_4 :
    ∃ (s : State),
    (s.pins.pwrGood = true) ∧
    ((getPersist s 0).commits + 2 * s.persist.length < wearEnd) :=
  ⟨runSt, by decide⟩

theorem witness_PowerOnResetsClear_5 :
    ∃ (s : State),
    (s.pins.pwrGood = false) :=
  ⟨up, by decide⟩

theorem witness_PowerOnResetsClear_6 :
    ∃ (s : State),
    (s.pins.pwrGood = false) ∧
    (s.rst.kind = .powerOn) :=
  ⟨State.reset, by decide⟩

theorem witness_CoreResetsRestartTheCores_1 :
    ∃ (s : State),
    (windowDead s 24 = false) ∧
    (s.rst.kind = .none) ∧
    (s.cores.all (fun x => x.2.stores.isEmpty && x.2.stnt.isEmpty) = true) :=
  ⟨cpu3, by decide⟩

theorem witness_CoreResetsRestartTheCores_2 :
    ∃ (s : State),
    (windowDead s 24 = false) ∧
    (s.rst.kind ≠ .none) :=
  ⟨sysSt, by decide⟩

theorem witness_CoreResetsRestartTheCores_3 :
    ∃ (k : Nat) (s : State),
    (windowDead s 24 = false) ∧
    (k ≠ 0xA5) :=
  ⟨0x5A, runSt, by decide⟩

theorem witness_CoreResetsRestartTheCores_4 :
    ∃ (d c : Nat) (s : State),
    (s.rst.kind = .core) ∧
    (d = 16 ∨ d = 17) ∧
    (c < 100) ∧
    (bufferedLines (getCore s d c) ≠ 0) :=
  ⟨16, 3, coreRst, by decide⟩

theorem witness_CoreResetsRestartTheCores_5 :
    ∃ (d : Nat) (s : State),
    (s.rst.kind ≠ .core) :=
  ⟨16, runSt, by decide⟩

theorem witness_PartitionResetsClearTheirPartition_1 :
    ∃ (p u : Nat) (s : State),
    (p < partCount (modeOf s)) ∧
    (s.rst.kind.rank < 2) ∧
    (s.rst.parts.contains p = false) ∧
    (s.xlat.faults = []) ∧
    (18 ≤ u / 2048) ∧
    (u % 2048 = 1) :=
  ⟨0, unitId 18 0 1, runSt, by decide⟩

theorem witness_PartitionResetsClearTheirPartition_2 :
    ∃ (p u : Nat) (s : State),
    (p < partCount (modeOf s)) ∧
    (s.rst.kind.rank < 2) ∧
    (s.rst.parts.contains p = true) ∧
    (u / 2048 = 24) ∧
    (u % 2048 = 0) :=
  ⟨0, unitId 24 0 0, { runSt with rst := { runSt.rst with parts := [0] } }, by decide⟩

theorem witness_PartitionResetsClearTheirPartition_3 :
    ∃ (p : Nat) (s : State),
    (windowDead s 24 = false) ∧
    (p < partCount (modeOf s)) ∧
    (s.rst.kind.rank < 2) ∧
    (s.rst.parts.contains p = false) ∧
    (s.xlat.faults = []) :=
  ⟨0, runSt, by decide⟩

theorem witness_PartitionResetsClearTheirPartition_4 :
    ∃ (k p : Nat) (s : State),
    (windowDead s 24 = false) ∧
    (k ≠ 0xA5 ∨ partCount (modeOf s) ≤ p) :=
  ⟨0xA5, 1, runSt, by decide⟩

theorem witness_PartitionResetsClearTheirPartition_5 :
    ∃ (p : Nat) (f : Findings) (s : State),
    (s.rst.parts.contains p = true) ∧
    (s.rst.kind.rank < 2) ∧
    (f.badLinks = []) :=
  ⟨0, find0, { runSt with rst := { runSt.rst with parts := [0] } }, by decide⟩

theorem witness_PartitionResetsClearTheirPartition_6 :
    ∃ (p : Nat) (f : Findings) (s : State),
    (s.rst.parts.contains p = false) :=
  ⟨0, find0, runSt, by decide⟩

theorem witness_StartUpRunsOrFails_1 :
    ∃ (b : BootInput) (n : Nat) (x : PlateImage) (fb : Bool) (s : State),
    (s.rst.kind = .system) ∧
    (s.pins.pwrGood = true) ∧
    (s.rst.stopped = false) ∧
    (b.sysref = true) ∧
    (b.linkClock = true) ∧
    (s.pins.sysRstBoard = false ∨ b.boardHolds = false) ∧
    (b.findings.badLinks = []) ∧
    (b.findings.lanes = []) ∧
    (b.findings.bondPads = []) ∧
    (steppingOk b.epochs = true) ∧
    (ddrValid b.ddr = true) ∧
    (choosePlate (plateSource s false).2 b (plateSource s false).1 = .ok (n, x, fb)) :=
  ⟨boot0, 0, image0, false, bootSt, by decide, by decide, by decide, by decide, by decide, by decide, by decide, by decide, by decide, by decide, by decide, plate0_chosen⟩

theorem witness_StartUpRunsOrFails_2 :
    ∃ (b : BootInput) (s : State),
    (s.rst.kind = .system) ∧
    (s.pins.pwrGood = true) ∧
    (s.rst.stopped = false) ∧
    (s.pins.sysRstBoard = false ∨ b.boardHolds = false) ∧
    (b.sysref = true) ∧
    (b.flashA = none) ∧
    (b.flashB = none) ∧
    (fget s 24 0 Fl.BOOT_NEXT_VALID = 0) ∧
    (fget s 24 0 Fl.STRAP_STATUS_BOOT_SOURCE ≤ 1) :=
  ⟨{ boot0 with flashA := none }, sysSt, by decide⟩

theorem witness_StartUpRunsOrFails_3 :
    ∃ (b : BootInput) (s : State),
    (2 ≤ s.rst.kind.rank) ∧
    (s.pins.pwrGood = true) ∧
    (s.rst.stopped = false) ∧
    (s.rst.kind ≠ .system ∨ s.pins.sysRstBoard = false ∨ b.boardHolds = false) ∧
    (b.sysref = false) :=
  ⟨{ boot0 with sysref := false }, sysSt, by decide⟩

theorem witness_StartUpRunsOrFails_4 :
    ∃ (b : BootInput) (s : State),
    (s.rst.kind.rank < 2 ∨ s.pins.pwrGood = false ∨ s.rst.stopped = true) :=
  ⟨boot0, runSt, by decide⟩

theorem witness_UndefinedOffsetsReadZero_1 :
    ∃ (h c d slot off : Nat) (s : State),
    (d < 25) ∧
    (slot < 64) ∧
    ((blkAt (dieType d) slot).isSome = true) ∧
    (off < 0x10_0000) ∧
    (off % 8 = 0) ∧
    (regAt d slot off = none) ∧
    (windowDead s d = false) ∧
    (coreRuns s h c = true) ∧
    ((getCore s h c).queue = []) ∧
    (deviceWaits s (getCore s h c) = false) ∧
    (mayRetire s h c = true) :=
  ⟨16, 3, 24, 6, 0x80, cpu3, by decide⟩

theorem witness_UndefinedOffsetsReadZero_2 :
    ∃ (h c d slot off : Nat) (v : BitVec 64) (s : State),
    (d < 25) ∧
    (slot < 64) ∧
    ((blkAt (dieType d) slot).isSome = true) ∧
    (off < 0x10_0000) ∧
    (off % 8 = 0) ∧
    (regAt d slot off = none) ∧
    (windowDead s d = false) ∧
    (coreRuns s h c = true) ∧
    ((getCore s h c).queue = []) ∧
    (deviceWaits s (getCore s h c) = false) ∧
    (mayRetire s h c = true) :=
  ⟨16, 3, 24, 6, 0x80, 5, cpu3, by decide⟩

theorem witness_UndefinedOffsetsReadZero_3 :
    ∃ (h c d slot off : Nat) (v : BitVec 64) (s : State),
    (d < 25) ∧
    (slot < 64) ∧
    ((blkAt (dieType d) slot).isSome = true) ∧
    (off < 0x10_0000) ∧
    (off % 8 = 0) ∧
    (regAt d slot off = none) ∧
    (windowDead s d = false) ∧
    (coreRuns s h c = true) ∧
    ((getCore s h c).queue = []) ∧
    (deviceWaits s (getCore s h c) = false) ∧
    (mayRetire s h c = true) :=
  ⟨16, 3, 24, 6, 0x80, 5, cpu3, by decide⟩

theorem witness_UndefinedOffsetsReadZero_4 :
    ∃ (h c d slot off : Nat) (v : BitVec 64) (s : State),
    (d < 25) ∧
    (slot < 64) ∧
    ((blkAt (dieType d) slot).isSome = true) ∧
    (off < 0x10_0000) ∧
    (off % 8 = 0) ∧
    (regAt d slot off = none) ∧
    (windowDead s d = false) ∧
    (coreRuns s h c = true) ∧
    ((getCore s h c).queue = []) ∧
    (deviceWaits s (getCore s h c) = false) ∧
    (mayRetire s h c = true) :=
  ⟨16, 3, 24, 6, 0x80, 5, cpu3, by decide⟩

theorem witness_RegistersTakeWrites_1 :
    ∃ (h c a d i : Nat) (r : Reg) (v : BitVec 64) (s : State),
    (coreRuns s h c = true) ∧
    ((getCore s h c).queue = []) ∧
    (deviceWaits s (getCore s h c) = false) ∧
    (mayRetire s h c = true) ∧
    (paKind s a = .reg) ∧
    (regTarget s a 8 = some (d, some (r, i))) :=
  ⟨16, 3, 0x3F00_6060_0018, 24, 0, .evtIrq, 0x8000_0000_0001_0044, cpu3, by decide⟩

theorem witness_RegistersTakeWrites_2 :
    ∃ (h c : Nat) (v : BitVec 64) (s : State),
    (coreRuns s h c = true) ∧
    ((getCore s h c).queue = []) ∧
    (deviceWaits s (getCore s h c) = false) ∧
    (mayRetire s h c = true) ∧
    (windowDead s 24 = false) :=
  ⟨16, 3, 0xFFFF_FFFF_FFFF_0044, cpu3, by decide⟩

theorem witness_RegistersTakeWrites_3 :
    ∃ (h c : Nat) (v : BitVec 64) (s : State),
    (coreRuns s h c = true) ∧
    ((getCore s h c).queue = []) ∧
    (deviceWaits s (getCore s h c) = false) ∧
    (mayRetire s h c = true) ∧
    (windowDead s 24 = false) :=
  ⟨16, 3, 5, cpu3, by decide⟩

theorem witness_RegistersTakeWrites_4 :
    ∃ (h c a n : Nat) (v : BitVec 64) (s : State),
    (coreRuns s h c = true) ∧
    ((getCore s h c).queue = []) ∧
    (deviceWaits s (getCore s h c) = false) ∧
    (mayRetire s h c = true) ∧
    (paKind s a = .reg) ∧
    (n ≠ 8 ∨ a % 8 ≠ 0) :=
  ⟨16, 3, 0x3F00_6060_0018, 4, 5, cpu3, by decide⟩

theorem witness_RegistersTakeWrites_5 :
    ∃ (h c a n : Nat) (v : BitVec 64) (s : State),
    (coreRuns s h c = true) ∧
    ((getCore s h c).queue = []) ∧
    (paKind s a = .reg) ∧
    (deviceWaits s (getCore s h c) = true ∨ mayRetire s h c = false) :=
  ⟨16, 3, 0x3F00_6060_0018, 8, 5, putCore cpu3 16 3 { Core.fresh with waiting := [⟨0x3F80_0000_0040, 8, 0, []⟩] }, by decide⟩

theorem witness_RegistersTakeWrites_ro :
    ∃ (r : Reg) (f : Fld), f ∈ r.fields ∧ f.acc = .ro := ⟨.evtProd, Fl.EVT_PROD_COUNT, by decide, by decide⟩

theorem witness_RegistersTakeWrites_rw :
    ∃ (r : Reg) (f : Fld), f ∈ r.fields ∧ f.acc = .rw := ⟨.evtIrq, Fl.EVT_IRQ_VECTOR, by decide, by decide⟩

theorem witness_RegistersTakeWrites_w1c :
    ∃ (r : Reg) (f : Fld), f ∈ r.fields ∧ f.acc = .w1c := ⟨.fndErrStatus, Fl.FND_ERR_STATUS_POISON, by decide, by decide⟩

theorem witness_RegistersTakeWrites_rc :
    ∃ (r : Reg) (f : Fld), f ∈ r.fields ∧ f.acc = .rc := ⟨.rstPart, Fl.RST_PART_COUNT, by decide, by decide⟩

theorem witness_RegistersTakeWrites_wo :
    ∃ (r : Reg) (f : Fld), f ∈ r.fields ∧ f.acc = .wo := ⟨.rstCtl, Fl.RST_CTL_KEY, by decide, by decide⟩

theorem witness_ServiceOperationsRun_1 :
    ∃ (u d e k : Nat) (s : State),
    (windowDead s 24 = false) ∧
    (fget s 24 0 Fl.DBG_SERVICE_BUSY = 0) ∧
    (engineOfUnit u = some (d, e)) ∧
    (engRole s d e = 0) ∧
    (spareOf s d = some k) :=
  ⟨unitId 0 1 5, 0, 5, 32, runSt, by decide⟩

theorem witness_ServiceOperationsRun_2 :
    ∃ (u : Nat) (s : State),
    (windowDead s 24 = false) ∧
    (fget s 24 0 Fl.DBG_SERVICE_BUSY = 0) ∧
    (engineOfUnit u = none) :=
  ⟨unitId 0 2 5, runSt, by decide⟩

theorem witness_ServiceOperationsRun_3 :
    ∃ (u d e : Nat) (s : State),
    (windowDead s 24 = false) ∧
    (fget s 24 0 Fl.DBG_SERVICE_BUSY = 0) ∧
    (engineOfUnit u = some (d, e)) ∧
    (engRole s d e ≠ 0 ∨ spareOf s d = none) :=
  ⟨unitId 0 1 32, 0, 32, runSt, by decide⟩

theorem witness_ServiceOperationsRun_4 :
    ∃ (u : Nat) (s : State),
    (windowDead s 24 = false) ∧
    (fget s 24 0 Fl.DBG_SERVICE_BUSY = 1) :=
  ⟨unitId 0 1 5, retSt, by decide⟩

theorem witness_ServiceOperationsRun_5 :
    ∃ (d e k : Nat) (s : State),
    (fget s 24 0 Fl.DBG_SERVICE_BUSY = 1) ∧
    (fget s 24 0 Fl.DBG_SERVICE_OP = 1) ∧
    (fget s 24 0 Fl.DBG_SERVICE_ARG = unitId d 1 e) ∧
    (d < 8) ∧
    (e < 34) ∧
    (k < 34) ∧
    (fget s d e Fl.ENG_STATUS_PLACED = 0) ∧
    ((getEng s d e).retiring = true) ∧
    (engRole s d e = 0) ∧
    (spareOf s d = some k) ∧
    (boundBank s d e < 32) :=
  ⟨0, 5, 32, fput retSt 0 5 Fl.ENG_BINDING_BANK 7, by decide⟩

theorem witness_ServiceOperationsRun_6 :
    ∃ (d e : Nat) (s : State),
    (fget s 24 0 Fl.DBG_SERVICE_BUSY = 0) :=
  ⟨0, 5, runSt, by decide⟩

theorem witness_ServiceOperationsRun_7 :
    ∃ (m : Nat) (f : Findings) (s : State),
    (windowDead s 24 = false) ∧
    (fget s 24 0 Fl.DBG_SERVICE_BUSY = 0) ∧
    (m < 3) ∧
    (s.ctxs.all (fun c => ctxState c.2 == 0) = true) ∧
    (s.rst.parts = []) ∧
    (s.rst.kind = .none) ∧
    (f.badLinks = []) :=
  ⟨2, find0, runSt, by decide⟩

theorem witness_ServiceOperationsRun_8 :
    ∃ (m : Nat) (f : Findings) (s : State),
    (windowDead s 24 = false) ∧
    (fget s 24 0 Fl.DBG_SERVICE_BUSY = 0) ∧
    (s.ctxs.all (fun c => ctxState c.2 == 0) = false) :=
  ⟨2, find0, runCtx runSt, by decide⟩

theorem witness_ServiceOperationsRun_9 :
    ∃ (f : DdrFound) (s : State),
    (windowDead s 24 = false) ∧
    (fget s 24 0 Fl.DBG_SERVICE_BUSY = 0) ∧
    (retrainOk s = true) ∧
    (s.rst.kind = .none) ∧
    (ddrValid f = true) ∧
    (s.mem.wf = true) :=
  ⟨ddr0, runSt, by decide⟩

theorem witness_ServiceOperationsRun_10 :
    ∃ (f : DdrFound) (s : State),
    (windowDead s 24 = false) ∧
    (fget s 24 0 Fl.DBG_SERVICE_BUSY = 0) ∧
    (retrainOk s = false) :=
  ⟨ddr0, runCtx ringSt, by decide⟩

theorem witness_EventsAreLogged_1 :
    ∃ (e : Event) (r : List Event) (s : State),
    (fget s 24 0 Fl.DBG_CTL_TRACE_EN = 0) ∧
    (s.evt.arriving = e :: r) ∧
    (fget s 24 0 Fl.EVT_LOG_ENABLE = 1) ∧
    ((fget s 24 0 Fl.EVT_PROD_COUNT + 2 ^ 32 - fget s 24 0 Fl.EVT_CONS_COUNT) % 2 ^ 32 ≠ 4096) ∧
    (deadLine s (lineOf (fget s 24 0 Fl.EVT_LOG_BASE * 2 ^ 17 + fget s 24 0 Fl.EVT_PROD_COUNT % 4096 * 32)) = false) ∧
    (smGet s.flaws (lineOf (fget s 24 0 Fl.EVT_LOG_BASE * 2 ^ 17 + fget s 24 0 Fl.EVT_PROD_COUNT % 4096 * 32)) = none) ∧
    (lineBusy (getHome s (homeOf s (lineOf (fget s 24 0 Fl.EVT_LOG_BASE * 2 ^ 17 + fget s 24 0 Fl.EVT_PROD_COUNT % 4096 * 32)))) (lineOf (fget s 24 0 Fl.EVT_LOG_BASE * 2 ^ 17 + fget s 24 0 Fl.EVT_PROD_COUNT % 4096 * 32)) = false) ∧
    (dirFind (getHome s (homeOf s (lineOf (fget s 24 0 Fl.EVT_LOG_BASE * 2 ^ 17 + fget s 24 0 Fl.EVT_PROD_COUNT % 4096 * 32)))) (lineOf (fget s 24 0 Fl.EVT_LOG_BASE * 2 ^ 17 + fget s 24 0 Fl.EVT_PROD_COUNT % 4096 * 32)) = none) ∧
    (s.coh.probes = []) ∧
    (s.coh.resps = []) ∧
    (s.coh.data = []) ∧
    (s.mem.wf = true) :=
  ⟨ev0, [], logSt, by decide⟩

theorem witness_EventsAreLogged_2 :
    ∃ (e : Event) (r : List Event) (s : State),
    (fget s 24 0 Fl.DBG_CTL_TRACE_EN = 0) ∧
    (s.evt.arriving = e :: r) ∧
    (fget s 24 0 Fl.EVT_LOG_ENABLE = 0) ∧
    (s.evt.waiting.length < 64) :=
  ⟨ev0, [], { up with evt := ⟨[ev0], [], 0⟩ }, by decide⟩

theorem witness_EventsAreLogged_3 :
    ∃ (e : Event) (r : List Event) (s : State),
    (fget s 24 0 Fl.DBG_CTL_TRACE_EN = 0) ∧
    (s.evt.arriving = e :: r) ∧
    (fget s 24 0 Fl.EVT_LOG_ENABLE = 0) ∧
    (64 ≤ s.evt.waiting.length) :=
  ⟨ev0, [], { up with evt := ⟨[ev0], List.replicate 64 ev0, 0⟩ }, by decide⟩

theorem witness_EventsAreLogged_4 :
    ∃ (s : State),
    (s.evt.arriving = []) :=
  ⟨up, by decide⟩

theorem witness_EventsAreLogged_5 :
    ∃ (w : BitVec 64) (s : State),
    (windowDead s 24 = false) ∧
    (fget s 24 0 Fl.EVT_LOG_ENABLE = 0) :=
  ⟨0x8000_0000_0002_0000, { up with evt := ⟨[], [ev0], 0⟩ }, by decide⟩

theorem witness_EventsAreLogged_6 :
    ∃ (w : BitVec 64) (s : State),
    (windowDead s 24 = false) ∧
    (fget s 24 0 Fl.EVT_LOG_ENABLE = 1) :=
  ⟨0, logSt, by decide⟩

theorem witness_TheEyepieceLoadsInstructions_1 :
    ∃ (s : State),
    (fget s 24 0 Fl.DBG_CTL_EYEPIECE_EN = 1) :=
  ⟨tapSt, by decide⟩

theorem witness_TheEyepieceLoadsInstructions_2 :
    ∃ (s : State),
    (fget s 24 0 Fl.DBG_CTL_EYEPIECE_EN = 1) :=
  ⟨tapSt, by decide⟩

theorem witness_TheEyepieceLoadsInstructions_3 :
    ∃ (v : BitVec 64) (s : State),
    (fget s 24 0 Fl.DBG_CTL_EYEPIECE_EN = 1) :=
  ⟨5, tapSt, by decide⟩

theorem witness_TheEyepieceLoadsInstructions_4 :
    ∃ (s : State),
    (fget s 24 0 Fl.DBG_CTL_EYEPIECE_EN = 1) ∧
    (s.pins.sysRstDriven = true) :=
  ⟨tapRst, by decide⟩

theorem witness_TheEyepieceLoadsInstructions_5 :
    ∃ (s : State),
    (fget s 24 0 Fl.DBG_CTL_EYEPIECE_EN = 1) ∧
    (s.pins.sysRstDriven = true) :=
  ⟨tapRst, by decide⟩

theorem witness_TheEyepieceLoadsInstructions_6 :
    ∃ (s : State),
    (fget s 24 0 Fl.DBG_CTL_EYEPIECE_EN = 1) ∧
    (s.pins.sysRstDriven = true) :=
  ⟨tapRst, by decide⟩

theorem witness_TheEyepieceLoadsInstructions_7 :
    ∃ (s : State),
    (fget s 24 0 Fl.DBG_CTL_EYEPIECE_EN = 1) ∧
    (s.pins.sysRstDriven = false) :=
  ⟨tapSt, by decide⟩

theorem witness_TheEyepieceLoadsInstructions_8 :
    ∃ (s : State),
    (fget s 24 0 Fl.DBG_CTL_EYEPIECE_EN = 1) ∧
    (s.pins.sysRstDriven = false) :=
  ⟨tapSt, by decide⟩

theorem witness_TheEyepieceLoadsInstructions_9 :
    ∃ (s : State),
    (fget s 24 0 Fl.DBG_CTL_EYEPIECE_EN = 1) ∧
    (s.pins.sysRstDriven = false) :=
  ⟨tapSt, by decide⟩

theorem witness_TheEyepieceLoadsInstructions_10 :
    ∃ (s : State),
    (fget s 24 0 Fl.DBG_CTL_EYEPIECE_EN ≠ 1) :=
  ⟨up, by decide⟩

theorem witness_TheEyepieceLoadsInstructions_11 :
    ∃ (a i : Nat) (r : Reg) (v : BitVec 64) (s : State),
    (fget s 24 0 Fl.DBG_CTL_EYEPIECE_EN = 1) ∧
    (a % 8 = 0) ∧
    (a < 0x400_0000) ∧
    (regAt 24 (a / 0x10_0000 % 64) (a % 0x10_0000) = some (r, i)) ∧
    (dbgAllowed s (some (r, i)) false = true) :=
  ⟨0x60_0018, 0, .evtIrq, 0, fput tapSt 24 0 Fl.SEC_STATUS_DEBUG_LEVEL 1, by decide⟩

theorem witness_TheEyepieceLoadsInstructions_12 :
    ∃ (a i : Nat) (r : Reg) (v : BitVec 64) (s : State),
    (fget s 24 0 Fl.DBG_CTL_EYEPIECE_EN = 1) ∧
    (a % 8 = 0) ∧
    (a < 0x400_0000) ∧
    (regAt 24 (a / 0x10_0000 % 64) (a % 0x10_0000) = some (r, i)) ∧
    (dbgAllowed s (some (r, i)) true = true) :=
  ⟨0x60_0018, 0, .evtIrq, 0x44, fput tapSt 24 0 Fl.SEC_STATUS_DEBUG_LEVEL 2, by decide⟩

theorem witness_TheEyepieceLoadsInstructions_13 :
    ∃ (a : Nat) (b : Bool) (v : BitVec 64) (s : State),
    (fget s 24 0 Fl.DBG_CTL_EYEPIECE_EN = 1) ∧
    (dbgAllowed s (regAt 24 (a / 0x10_0000 % 64) (a % 0x10_0000)) b = false) :=
  ⟨0x60_0018, false, 0, tapSt, by decide⟩

theorem witness_TheEyepieceLoadsInstructions_14 :
    ∃ (a : Nat) (v : BitVec 64) (s : State),
    (fget s 24 0 Fl.DBG_CTL_EYEPIECE_EN = 1) ∧
    (a % 8 = 0) ∧
    (2 ≤ dbgLevel s) ∧
    (isDevice s a = false) ∧
    (paKind s a ≠ .hole) :=
  ⟨0x2000, 7, fput (fput cpu3 24 0 Fl.DBG_CTL_EYEPIECE_EN 1) 24 0 Fl.SEC_STATUS_DEBUG_LEVEL 2, by decide⟩

theorem witness_TheEyepieceLoadsInstructions_15 :
    ∃ (a : Nat) (v : BitVec 64) (s : State),
    (fget s 24 0 Fl.DBG_CTL_EYEPIECE_EN = 1) ∧
    (a % 8 = 0) ∧
    (2 ≤ dbgLevel s) ∧
    (isDevice s a = false) ∧
    (paKind s a ≠ .hole) :=
  ⟨0x2000, 0, fput (fput cpu3 24 0 Fl.DBG_CTL_EYEPIECE_EN 1) 24 0 Fl.SEC_STATUS_DEBUG_LEVEL 2, by decide⟩

theorem witness_TheEyepieceLoadsInstructions_16 :
    ∃ (d c : Nat) (b : Bool) (v : BitVec 64) (s : State),
    (fget s 24 0 Fl.DBG_CTL_EYEPIECE_EN = 1) ∧
    (2 ≤ dbgLevel s) ∧
    (coreRuns s d c = true) :=
  ⟨16, 3, true, 0, fput (fput cpu3 24 0 Fl.DBG_CTL_EYEPIECE_EN 1) 24 0 Fl.SEC_STATUS_DEBUG_LEVEL 2, by decide⟩

theorem witness_TheEyepieceLoadsInstructions_17 :
    ∃ (o : DebugTarget) (b : Bool) (v : BitVec 64) (s : State),
    (fget s 24 0 Fl.DBG_CTL_EYEPIECE_EN = 1) ∧
    (dbgLevel s < 2) ∧
    (o ∈ [.mem 0x2000, .core 16 3]) :=
  ⟨.core 16 3, true, 0, tapSt, by decide⟩

theorem witness_MemoryStaysCanonical_reset :
    MemWf State.reset := ⟨rfl, rfl, rfl⟩

theorem witness_QueueIsServedInOrder_idle :
    ∃ t, step State.reset = .next t := ⟨_, rfl⟩

theorem witness_ResetIsEmptyAndCanonical_lit :
    ∃ (r : Reg) (f : Fld) (n : Nat), f ∈ r.fields ∧ f.rst = .lit n := ⟨.medPipe, Fl.MED_PIPE_ENABLE, 1, by decide, rfl⟩

theorem test_wf_refuses_0 :
    ([.load 1 0 0 8, .load 16 0xFFFF_FFFF_FFFF 0 8, .load 16 0 1 8, .load 16 0 0 0xFFFF_FFFF_FFFF, .store 1 0 0 8 0, .store 16 0xFFFF_FFFF_FFFF 0 8 0, .store 16 0 1 8 0, .store 16 0 0 0xFFFF_FFFF_FFFF 0, .stnt 1 0 0 8 0, .stnt 16 0xFFFF_FFFF_FFFF 0 8 0, .stnt 16 0 1 8 0, .stnt 16 0 0 0xFFFF_FFFF_FFFF 0, .ordL 1 0, .ordL 16 0xFFFF_FFFF_FFFF, .ordS 1 0, .ordS 16 0xFFFF_FFFF_FFFF, .ordLs 1 0, .ordLs 16 0xFFFF_FFFF_FFFF, .exceptionEntry 1 0, .exceptionEntry 16 0xFFFF_FFFF_FFFF, .storeErrorTimeout 1 0, .storeErrorTimeout 16 0xFFFF_FFFF_FFFF, .farTimeout 1 0, .farTimeout 16 0xFFFF_FFFF_FFFF, .droopDetect 1 0] : List Instr).all (fun i => !i.wf) = true := by decide

theorem test_wf_refuses_1 :
    ([.droopDetect 16 0xFFFF_FFFF_FFFF, .registerWrite 1 0 0 8 0, .registerWrite 16 0xFFFF_FFFF_FFFF 0 8 0, .registerWrite 16 0 1 8 0, .registerWrite 16 0 0 0xFFFF_FFFF_FFFF 0, .end_ (.engine 8 0) ⟨0, 0, 0⟩, .nop (.engine 8 0), .loop (.engine 8 0), .cursor (.engine 8 0), .wload 0xFFFF_FFFF_FFFF 0 .none, .wload 0 0xFFFF_FFFF_FFFF .none, .wload 0 0 (.bankCe 32768 0), .matmul 0xFFFF_FFFF_FFFF 0 .none, .matmul 0 0xFFFF_FFFF_FFFF .none, .matmul 0 0 (.bankCe 32768 0), .ribbon 0xFFFF_FFFF_FFFF 0 .none, .ribbon 0 0xFFFF_FFFF_FFFF .none, .ribbon 0 0 (.bankCe 32768 0), .drain 0xFFFF_FFFF_FFFF 0 .none, .drain 0 0xFFFF_FFFF_FFFF .none, .drain 0 0 (.bankCe 32768 0), .vector 0xFFFF_FFFF_FFFF 0 .none, .vector 0 0xFFFF_FFFF_FFFF .none, .vector 0 0 (.bankCe 32768 0), .reduce 0xFFFF_FFFF_FFFF 0 .none] : List Instr).all (fun i => !i.wf) = true := by decide

theorem test_wf_refuses_2 :
    ([.reduce 0 0xFFFF_FFFF_FFFF .none, .reduce 0 0 (.bankCe 32768 0), .reduceRead 0xFFFF_FFFF_FFFF 0, .reduceRead 0 0xFFFF_FFFF_FFFF, .signal (.engine 8 0), .wait (.engine 8 0), .waitHeldAdmit 0xFFFF_FFFF_FFFF, .waitTimeout 0xFFFF_FFFF_FFFF (.engine 0 0), .waitTimeout 0 (.engine 8 0), .phaseAnnounce 0xFFFF_FFFF_FFFF 0, .phaseAnnounce 0 0xFFFF_FFFF_FFFF, .phaseAnnounceLapse 0xFFFF_FFFF_FFFF 0, .phaseAnnounceLapse 0 0xFFFF_FFFF_FFFF, .phaseBegin 0xFFFF_FFFF_FFFF 0 ⟨0, 0, 0⟩, .phaseBegin 0 0xFFFF_FFFF_FFFF ⟨0, 0, 0⟩, .rewindMark 0xFFFF_FFFF_FFFF 0, .rewindMark 0 0xFFFF_FFFF_FFFF, .geometry 0xFFFF_FFFF_FFFF 0, .geometry 0 0xFFFF_FFFF_FFFF, .rcLoad 0xFFFF_FFFF_FFFF 0 [], .rcLoad 0 0xFFFF_FFFF_FFFF [], .rcInvalidate 0xFFFF_FFFF_FFFF 0, .rcInvalidate 0 0xFFFF_FFFF_FFFF, .rcFill 0xFFFF_FFFF_FFFF 64, .rcFill 0 1] : List Instr).all (fun i => !i.wf) = true := by decide

theorem test_wf_refuses_3 :
    ([.rdcInvalidate 0xFFFF_FFFF_FFFF, .readCacheInvalidationDone 0xFFFF_FFFF_FFFF, .commit 0xFFFF_FFFF_FFFF 0, .commit 0 0xFFFF_FFFF_FFFF, .commitComplete 0xFFFF_FFFF_FFFF 0, .commitComplete 0 0xFFFF_FFFF_FFFF, .rewind 0xFFFF_FFFF_FFFF 0, .rewind 0 0xFFFF_FFFF_FFFF, .rewindRestart 0xFFFF_FFFF_FFFF 0, .rewindRestart 0 0xFFFF_FFFF_FFFF, .rewindReport 0xFFFF_FFFF_FFFF 0, .rewindReport 0 (2 ^ 60), .engSelftest 0xFFFF_FFFF_FFFF 0, .engSelftest 0 0xFFFF_FFFF_FFFF, .selftestDone 0xFFFF_FFFF_FFFF 0 0, .selftestDone 0 0xFFFF_FFFF_FFFF 0, .engPhoTest 0xFFFF_FFFF_FFFF 0, .engPhoTest 0 0xFFFF_FFFF_FFFF, .launch 0xFFFF_FFFF_FFFF 0, .launch 0 (2 ^ 60), .placementRetry 0xFFFF_FFFF_FFFF, .tokenAllocRetry 0xFFFF_FFFF_FFFF 0, .tokenAllocRetry 0 (2 ^ 60), .reservationTimeout 0xFFFF_FFFF_FFFF 0, .reservationTimeout 0 (2 ^ 60)] : List Instr).all (fun i => !i.wf) = true := by decide

theorem test_wf_refuses_4 :
    ([.launchStart 0xFFFF_FFFF_FFFF 0, .launchStart 0 (2 ^ 60), .launchError 0xFFFF_FFFF_FFFF 0, .launchError 0 (2 ^ 60), .launchEnd 0xFFFF_FFFF_FFFF 0, .launchEnd 0 (2 ^ 60), .move 1 0 0, .move 18 0xFFFF_FFFF_FFFF 0, .move 18 0 0xFFFF_FFFF_FFFF, .moveDone 1 0 0 .none, .moveDone 18 0 0 (.bankCe 16384 0), .moveDone 18 0 0 (.bankUe 0 512), .moveDone 18 0xFFFF_FFFF_FFFF 0 .none, .moveDone 18 0 0xFFFF_FFFF_FFFF .none, .markArrival 1 0 0, .markArrival 18 0xFFFF_FFFF_FFFF 0, .markArrival 18 0 0xFFFF_FFFF_FFFF, .cancellation 1 0 0, .cancellation 18 0xFFFF_FFFF_FFFF 0, .cancellation 18 0 0xFFFF_FFFF_FFFF, .tierRegionDeclare 1 false 0 0 0, .tierRegionDeclare 18 false 0 0 0xFFFF_FFFF_FFFF, .tierRegionRelease 1 0 0, .tierRegionRelease 18 0 0xFFFF_FFFF_FFFF, .movePages 0xFFFF_FFFF_FFFF 0, .movePages 0 (2 ^ 60), .movePagesCopy 0xFFFF_FFFF_FFFF 0] : List Instr).all (fun i => !i.wf) = true := by decide

theorem test_wf_refuses_5 :
    ([.movePagesCopy 0 (2 ^ 60), .movePagesSwitch 0xFFFF_FFFF_FFFF 0, .movePagesSwitch 0 (2 ^ 60), .movePagesReturn 0xFFFF_FFFF_FFFF 0, .movePagesReturn 0 (2 ^ 60), .lendRetry 1 0 0, .lendRetry 18 0xFFFF_FFFF_FFFF 0, .lendRetry 18 0 0xFFFF_FFFF_FFFF, .tierTimeout 0xFFFF_FFFF_FFFF 0 ⟨false, false⟩, .tierTimeout 0 (2 ^ 60) ⟨false, false⟩, .accessDecay 1, .contextEnable 0xFFFF_FFFF_FFFF 0, .contextDisable 0xFFFF_FFFF_FFFF 0, .unpark 0xFFFF_FFFF_FFFF, .cmdTail 0xFFFF_FFFF_FFFF 0, .cplHead 0xFFFF_FFFF_FFFF 0, .evtHead 0xFFFF_FFFF_FFFF 0, .descriptorFetch 1, .staleRefetch 0xFFFF_FFFF_FFFF, .commandDispatch 0xFFFF_FFFF_FFFF, .moveCmd 0xFFFF_FFFF_FFFF 0, .moveCmd 0 (2 ^ 60), .moveEntry 0xFFFF_FFFF_FFFF 0 .none, .moveEntry 0 (2 ^ 60) .none, .setQuotas 0xFFFF_FFFF_FFFF 0] : List Instr).all (fun i => !i.wf) = true := by decide

theorem test_wf_refuses_6 :
    ([.setQuotas 0 (2 ^ 60), .media 0xFFFF_FFFF_FFFF ⟨0, .none⟩, .media 0 ⟨(2 ^ 60), .none⟩, .sync 0xFFFF_FFFF_FFFF 0, .sync 0 (2 ^ 60), .syncComplete 0xFFFF_FFFF_FFFF 0, .syncComplete 0 (2 ^ 60), .attest 0xFFFF_FFFF_FFFF 0, .attest 0 (2 ^ 60), .attestSigned 0xFFFF_FFFF_FFFF 0, .attestSigned 0 (2 ^ 60), .partitionFullReset 0xFFFF_FFFF_FFFF 0, .partitionFullReset 0 0xFFFF_FFFF_FFFF, .partitionResetComplete 0xFFFF_FFFF_FFFF find0, .partitionResetComplete 0 { find0 with badColumns := [(8, 0, 1)] }, .partitionResetComplete 0 { find0 with badRows := [(8, 32, [1])] }, .partitionResetComplete 0 { find0 with badPcs := [512] }, .partitionResetComplete 0 { find0 with caLanes := [(256, 1)] }, .partitionResetComplete 0 { find0 with dataLanes := [(512, 1)] }, .partitionResetComplete 0 { find0 with bondPads := [(8, [1])] }, .partitionResetComplete 0 { find0 with badStacks := [16] }, .partitionResetComplete 0 { find0 with badLinks := [(25, 0)] }, .partitionResetComplete 0 { find0 with lanes := [(25, 0, [])] }, .walkComplete 0xFFFF_FFFF_FFFF 0 0 0, .walkComplete 16 0xFFFF_FFFF_FFFF 0 0, .walkComplete 16 0 1 0, .walkComplete 16 0 (2 ^ 57) 0, .faultOpenRetry 0xFFFF_FFFF_FFFF 0, .faultOpenRetry 0 1, .trcInvalidatePage 1 0 0 false] : List Instr).all (fun i => !i.wf) = true := by decide

theorem test_wf_refuses_7 :
    ([.trcInvalidatePage 18 0xFFFF_FFFF_FFFF 0 false, .trcInvalidateRange 1 0 0 0 false, .trcInvalidateRange 18 0xFFFF_FFFF_FFFF 0 0 false, .trcInvalidateContext 1 0 false, .trcInvalidateContext 18 0xFFFF_FFFF_FFFF false, .trcInvalidateAll 1 false, .trcInvalidationDone 1, .coreOffline 1 0, .coreOffline 16 0xFFFF_FFFF_FFFF, .coreOnline 1 0, .coreOnline 16 0xFFFF_FFFF_FFFF, .coreRecalibrate 1 0, .coreRecalibrate 16 0xFFFF_FFFF_FFFF, .coreCmdComplete 1 0, .irqMessage 0xFFFF_FFFF_FFFF, .irqAck 1 0, .irqAck 16 0xFFFF_FFFF_FFFF, .irqEoi 1 0 0, .irqEoi 16 0xFFFF_FFFF_FFFF 0, .irqEoi 16 0 0xFFFF_FFFF_FFFF, .irqIpi 1 0, .irqIpi 16 0xFFFF_FFFF_FFFF, .rdShared 1 64 0 0 .none, .rdShared 16 1 0 0 .none, .rdShared 16 64 0xFFFF_FFFF_FFFF 0 .none] : List Instr).all (fun i => !i.wf) = true := by decide

theorem test_wf_refuses_8 :
    ([.rdShared 16 64 0 0xFFFF_FFFF_FFFF .none, .rdOwn 1 64 0 0 .none, .rdOwn 16 1 0 0 .none, .rdOwn 16 64 0xFFFF_FFFF_FFFF 0 .none, .rdOwn 16 64 0 0xFFFF_FFFF_FFFF .none, .upgrade 1 64 0 0, .upgrade 16 1 0 0, .upgrade 16 64 0xFFFF_FFFF_FFFF 0, .upgrade 16 64 0 0xFFFF_FFFF_FFFF, .rdNc 1 64 0 .none, .rdNc 16 1 0 .none, .rdNc 16 64 0xFFFF_FFFF_FFFF .none, .wrFull 1 64 0 (List.replicate 64 0), .wrFull 16 1 0 (List.replicate 64 0), .wrFull 16 64 0xFFFF_FFFF_FFFF (List.replicate 64 0), .wrFull 16 64 0 [], .wrPart 1 64 0 0 (List.replicate 64 0), .wrPart 16 1 0 0 (List.replicate 64 0), .wrPart 16 64 0xFFFF_FFFF_FFFF 0 (List.replicate 64 0), .wrPart 16 64 0 0 [], .wrStash 1 64 0 0 (List.replicate 64 0), .wrStash 16 1 0 0 (List.replicate 64 0), .wrStash 16 64 0xFFFF_FFFF_FFFF 0 (List.replicate 64 0), .wrStash 16 64 0 0 [], .rmwHome 1 64 0 (List.replicate 64 0) (List.replicate 64 0)] : List Instr).all (fun i => !i.wf) = true := by decide

theorem test_wf_refuses_9 :
    ([.rmwHome 16 1 0 (List.replicate 64 0) (List.replicate 64 0), .rmwHome 16 64 0xFFFF_FFFF_FFFF (List.replicate 64 0) (List.replicate 64 0), .rmwHome 16 64 0 [] (List.replicate 64 0), .rmwHome 16 64 0 (List.replicate 64 0) [], .wb 1 64 0, .wb 16 1 0, .wb 16 64 0xFFFF_FFFF_FFFF, .directoryRetry 1, .probe 0xFFFF_FFFF_FFFF 64, .probe 0 1, .notPresent 1 64 0, .notPresent 16 1 0, .notPresent 16 64 0xFFFF_FFFF_FFFF, .homeTimeout 1 64, .homeTimeout 16 1, .coherenceFatal 0xFFFF_FFFF_FFFF, .hbmStackFailed 0xFFFF_FFFF_FFFF, .hbmPcFailed 0xFFFF_FFFF_FFFF, .ddrChannelFailed 1 0, .ddrChannelFailed 16 0xFFFF_FFFF_FFFF, .refresh 0xFFFF_FFFF_FFFF, .recalibration 0xFFFF_FFFF_FFFF false, .patrolScrub 1 .none false, .flitReceive 0xFFFF_FFFF_FFFF 0 (List.replicate 256 0), .flitReceive 18 0xFFFF_FFFF_FFFF (List.replicate 256 0)] : List Instr).all (fun i => !i.wf) = true := by decide

theorem test_wf_refuses_10 :
    ([.flitReceive 18 0 [], .retrain 0xFFFF_FFFF_FFFF 0 [], .retrain 18 0xFFFF_FFFF_FFFF [], .trainingFrame 0xFFFF_FFFF_FFFF 0 frame0, .trainingFrame 18 0xFFFF_FFFF_FFFF frame0, .linkDown 0xFFFF_FFFF_FFFF 0 0, .linkDown 18 0xFFFF_FFFF_FFFF 0, .linkDown 18 0 0xFFFF_FFFF_FFFF, .laneRecal 0xFFFF_FFFF_FFFF 0 false, .laneRecal 18 0xFFFF_FFFF_FFFF false, .lnkPortCtlRetrain 0xFFFF_FFFF_FFFF 0, .lnkPortCtlRetrain 18 0xFFFF_FFFF_FFFF, .nsThermalSample 1 0, .thermalSample 0xFFFF_FFFF_FFFF 0, .thermalGateStep 0xFFFF_FFFF_FFFF 0, .thermalTrip 0xFFFF_FFFF_FFFF, .pairIdleOff 0xFFFF_FFFF_FFFF 0, .pairIdleOff 0 0xFFFF_FFFF_FFFF, .pwrDomainOffReq 0xFFFF_FFFF_FFFF false, .netQpEnable 1 0 0, .netQpEnable 22 0xFFFF_FFFF_FFFF 0, .netQpDisable 1 0, .netQpDisable 22 0xFFFF_FFFF_FFFF, .netQpDoorbell 1 0 0, .netQpDoorbell 22 0xFFFF_FFFF_FFFF 0] : List Instr).all (fun i => !i.wf) = true := by decide

theorem test_wf_refuses_11 :
    ([.send 1 0, .send 22 0xFFFF_FFFF_FFFF, .sendImm 1 0, .sendImm 22 0xFFFF_FFFF_FFFF, .rdmaWrite 1 0, .rdmaWrite 22 0xFFFF_FFFF_FFFF, .rdmaWriteImm 1 0, .rdmaWriteImm 22 0xFFFF_FFFF_FFFF, .rdmaRead 1 0 (List.replicate 64 0), .rdmaRead 22 0xFFFF_FFFF_FFFF (List.replicate 64 0), .inboundSend 1 0 ⟨[], false⟩ 0, .inboundSend 22 0xFFFF_FFFF_FFFF ⟨[], false⟩ 0, .inboundRdma 1 0 0 0 0 .read ⟨[], false⟩, .inboundRdma 22 0xFFFF_FFFF_FFFF 0 0 0 .read ⟨[], false⟩, .inboundAtomic 1 0, .inboundAtomic 22 0xFFFF_FFFF_FFFF, .remoteNak 1 0, .remoteNak 22 0xFFFF_FFFF_FFFF, .retryExceeded 1 0, .retryExceeded 22 0xFFFF_FFFF_FFFF, .cnp 1 0, .cnp 22 0xFFFF_FFFF_FFFF, .readReq 0xFFFF_FFFF_FFFF ⟨1, 2, 1, 0, 0, 0, 0, []⟩, .readReq 0 ⟨65536, 2, 1, 0, 0, 0, 0, []⟩, .readReq 0 ⟨1, 65536, 1, 0, 0, 0, 0, []⟩] : List Instr).all (fun i => !i.wf) = true := by decide

theorem test_wf_refuses_12 :
    ([.readReq 0 ⟨1, 2, 256, 0, 0, 0, 0, []⟩, .readReq 0 ⟨1, 2, 1, 2 ^ 32, 0, 0, 0, []⟩, .readReq 0 ⟨1, 2, 1, 0, 2 ^ 32, 0, 0, []⟩, .readReq 0 ⟨1, 2, 1, 0, 0, 2 ^ 32, 0, []⟩, .readResp 0xFFFF_FFFF_FFFF ⟨1, 2, 1, 0, 0, 0, 0, []⟩, .readResp 0 ⟨65536, 2, 1, 0, 0, 0, 0, []⟩, .fabricWrite 0xFFFF_FFFF_FFFF ⟨1, 2, 1, 0, 0, 0, 0, []⟩, .fabricWrite 0 ⟨65536, 2, 1, 0, 0, 0, 0, []⟩, .writeAck 0xFFFF_FFFF_FFFF ⟨1, 2, 1, 0, 0, 0, 0, []⟩, .writeAck 0 ⟨65536, 2, 1, 0, 0, 0, 0, []⟩, .errorResp 0xFFFF_FFFF_FFFF ⟨1, 2, 1, 0, 0, 0, 0, []⟩, .errorResp 0 ⟨65536, 2, 1, 0, 0, 0, 0, []⟩, .fabricSignal 0xFFFF_FFFF_FFFF ⟨1, 2, 1, 0, 0, 0, 0, []⟩, .fabricSignal 0 ⟨65536, 2, 1, 0, 0, 0, 0, []⟩, .fabricWait 0xFFFF_FFFF_FFFF ⟨1, 2, 1, 0, 0, 0, 0, []⟩, .fabricWait 0 ⟨65536, 2, 1, 0, 0, 0, 0, []⟩, .release 0xFFFF_FFFF_FFFF ⟨1, 2, 1, 0, 0, 0, 0, []⟩, .release 0 ⟨65536, 2, 1, 0, 0, 0, 0, []⟩, .slack 0xFFFF_FFFF_FFFF ⟨1, 2, 1, 0, 0, 0, 0, []⟩, .slack 0 ⟨65536, 2, 1, 0, 0, 0, 0, []⟩, .grant 0xFFFF_FFFF_FFFF ⟨1, 2, 1, 0, 0, 0, 0, []⟩, .grant 0 ⟨65536, 2, 1, 0, 0, 0, 0, []⟩, .probeResp 0xFFFF_FFFF_FFFF ⟨1, 2, 1, 0, 0, 0, 0, []⟩, .probeResp 0 ⟨65536, 2, 1, 0, 0, 0, 0, []⟩, .probeFrame 0xFFFF_FFFF_FFFF ⟨1, 2, 1, 0, 0, 0, 0, []⟩] : List Instr).all (fun i => !i.wf) = true := by decide

theorem test_wf_refuses_13 :
    ([.probeFrame 0 ⟨65536, 2, 1, 0, 0, 0, 0, []⟩, .ack 0xFFFF_FFFF_FFFF 0, .frameForward 0xFFFF_FFFF_FFFF 0 ⟨1, 2, 1, 0, 0, 0, 0, []⟩, .frameForward 0 0xFFFF_FFFF_FFFF ⟨1, 2, 1, 0, 0, 0, 0, []⟩, .frameForward 0 0 ⟨65536, 2, 1, 0, 0, 0, 0, []⟩, .hopRetransmit 0xFFFF_FFFF_FFFF, .netFctrVal 1 0 0, .netFctrVal 22 0xFFFF_FFFF_FFFF 0, .pcieInboundRequest 0xFFFF_FFFF_FFFF 0 0 .read (List.replicate 64 0), .msiWrite 0xFFFF_FFFF_FFFF 0, .pciCompletionTimeout 1 0, .pciCompletionTimeout 16 0xFFFF_FFFF_FFFF, .pciLinkDown 0xFFFF_FFFF_FFFF, .pciRpCxlEnable 1 0 0, .pciRpCxlEnable 22 0xFFFF_FFFF_FFFF 0, .decodeEntry 1 0 .none, .decodeEntry 22 0xFFFF_FFFF_FFFF .none, .encodeEntry 1 0 .none, .encodeEntry 22 0xFFFF_FFFF_FFFF .none, .medPipeEnable 1 0 false, .medPipeEnable 22 0xFFFF_FFFF_FFFF false, .rstCtlPartition 0 0xFFFF_FFFF_FFFF, .coreResetDrainTimeout 1, .startUp { boot0 with strapMv := [] }, .startUp { boot0 with epochs := [1] }] : List Instr).all (fun i => !i.wf) = true := by decide

theorem test_wf_refuses_14 :
    ([.startUp { boot0 with epochs := List.replicate 25 3 }, .startUp { boot0 with firmware := [] }, .startUp { boot0 with badPersist := [256] }, .startUp { boot0 with findings := { find0 with badPcs := [512] } }, .startUp { boot0 with ddr := { ddr0 with mts := 8800 } }, .persistWrite 0xFFFF_FFFF_FFFF 0, .persistCommit 0xFFFF_FFFF_FFFF, .secKeyProgram 0xFFFF_FFFF_FFFF, .secKeyRevoke 0xFFFF_FFFF_FFFF, .secMrExtend 0xFFFF_FFFF_FFFF, .secRollback 0xFFFF_FFFF_FFFF 0, .secUpdate 0xFFFF_FFFF_FFFF false, .secDbgSubmit 0xFFFF_FFFF_FFFF, .retireEngine 0xFFFF_FFFF_FFFF, .engineRetireSwap 0xFFFF_FFFF_FFFF 0, .engineRetireSwap 0 0xFFFF_FFFF_FFFF, .setPartitionMode 0xFFFF_FFFF_FFFF find0, .setPartitionMode 0 { find0 with badColumns := [(8, 0, 1)] }, .retrainDdr { ddr0 with mts := 8800 }, .retrainDdr { ddr0 with channelGib := 16 }, .retrainDdr { ddr0 with channelGib := 256 }, .debug (.reg 1) false 0, .debug (.reg 0x400_0000) false 0, .debug (.mem 1) false 0, .debug (.mem (2 ^ 46)) false 0, .debug (.core 1 0) false 0, .debug (.core 16 100) false 0, .resetConfigurationUe 0xFFFF_FFFF_FFFF, .pciLinkUp 0xFFFF_FFFF_FFFF 0 0 false, .netPortLinkUp 0xFFFF_FFFF_FFFF 0] : List Instr).all (fun i => !i.wf) = true := by decide

theorem test_wf_refuses_15 :
    ([.netPortLinkDown 0xFFFF_FFFF_FFFF, .probeResponse 1 64 0, .probeResponse 16 1 0, .probeResponse 16 64 0xFFFF_FFFF_FFFF, .dataResponse 1 0 64, .dataResponse 18 0 1, .coreHalt 1 0, .coreHalt 16 0xFFFF_FFFF_FFFF, .roceRetransmit 1 0, .roceRetransmit 22 0xFFFF_FFFF_FFFF] : List Instr).all (fun i => !i.wf) = true := by decide

theorem test_wf_accepts_0 :
    ([.load 16 0 0 8, .store 16 0 0 8 0, .stnt 16 0 0 8 0, .ordL 16 0, .ordS 16 0, .ordLs 16 0, .exceptionEntry 16 0, .storeErrorTimeout 16 0, .farTimeout 16 0, .droopDetect 16 0, .registerWrite 16 0 0 8 0, .end_ (.engine 0 0) ⟨0, 0, 0⟩, .nop (.engine 0 0), .loop (.engine 0 0), .cursor (.engine 0 0), .wload 0 0 .none, .matmul 0 0 .none, .ribbon 0 0 .none, .drain 0 0 .none, .vector 0 0 .none, .reduce 0 0 .none, .reduceRead 0 0, .signal (.engine 0 0), .wait (.engine 0 0), .waitHeldAdmit 0, .waitTimeout 0 (.engine 0 0), .phaseAnnounce 0 0, .phaseAnnounceLapse 0 0, .phaseBegin 0 0 ⟨0, 0, 0⟩, .rewindMark 0 0, .geometry 0 0, .rcLoad 0 0 [], .rcInvalidate 0 0, .rcFill 0 64, .rdcInvalidate 0, .readCacheInvalidationDone 0, .commit 0 0, .commitComplete 0 0, .rewind 0 0, .rewindRestart 0 0] : List Instr).all Instr.wf = true := by decide

theorem test_wf_accepts_1 :
    ([.rewindReport 0 0, .engSelftest 0 0, .selftestDone 0 0 0, .engPhoTest 0 0, .launch 0 0, .placementRetry 0, .tokenAllocRetry 0 0, .reservationTimeout 0 0, .launchStart 0 0, .launchError 0 0, .launchEnd 0 0, .move 18 0 0, .moveDone 18 0 0 .none, .markArrival 18 0 0, .cancellation 18 0 0, .tierRegionDeclare 18 false 0 0 0, .tierRegionRelease 18 0 0, .movePages 0 0, .movePagesCopy 0 0, .movePagesSwitch 0 0, .movePagesReturn 0 0, .lendRetry 18 0 0, .tierTimeout 0 0 ⟨false, false⟩, .accessDecay 18, .contextEnable 0 0, .contextDisable 0 0, .unpark 0, .cmdTail 0 0, .cplHead 0 0, .evtHead 0 0, .descriptorFetch 18, .staleRefetch 0, .commandDispatch 0, .moveCmd 0 0, .moveEntry 0 0 .none, .setQuotas 0 0, .media 0 ⟨0, .none⟩, .sync 0 0, .syncComplete 0 0, .attest 0 0] : List Instr).all Instr.wf = true := by decide

theorem test_wf_accepts_2 :
    ([.attestSigned 0 0, .partitionFullReset 0 0, .partitionResetComplete 0 find0, .walkComplete 16 0 0 0, .faultOpenRetry 0 0, .trcInvalidatePage 18 0 0 false, .trcInvalidateRange 18 0 0 0 false, .trcInvalidateContext 18 0 false, .trcInvalidateAll 18 false, .trcInvalidationDone 18, .coreOffline 16 0, .coreOnline 16 0, .coreRecalibrate 16 0, .coreCmdComplete 16 0, .irqMessage 0, .irqAck 16 0, .irqEoi 16 0 0, .irqIpi 16 0, .rdShared 16 64 0 0 .none, .rdOwn 16 64 0 0 .none, .upgrade 16 64 0 0, .rdNc 16 64 0 .none, .wrFull 16 64 0 (List.replicate 64 0), .wrPart 16 64 0 0 (List.replicate 64 0), .wrStash 16 64 0 0 (List.replicate 64 0), .rmwHome 16 64 0 (List.replicate 64 0) (List.replicate 64 0), .wb 16 64 0, .directoryRetry 16, .probe 0 64, .notPresent 16 64 0, .homeTimeout 16 64, .coherenceFatal 0, .hbmStackFailed 0, .hbmPcFailed 0, .ddrChannelFailed 16 0, .refresh 0, .recalibration 0 false, .patrolScrub 64 .none false, .flitReceive 18 0 (List.replicate 256 0), .retrain 18 0 []] : List Instr).all Instr.wf = true := by decide

theorem test_wf_accepts_3 :
    ([.trainingFrame 18 0 frame0, .linkDown 18 0 0, .laneRecal 18 0 false, .lnkPortCtlRetrain 18 0, .nsThermalSample 8 0, .thermalSample 16 0, .thermalGateStep 16 0, .thermalTrip 16, .pairIdleOff 0 0, .pwrDomainOffReq 0 false, .netQpEnable 22 0 0, .netQpDisable 22 0, .netQpDoorbell 22 0 0, .send 22 0, .sendImm 22 0, .rdmaWrite 22 0, .rdmaWriteImm 22 0, .rdmaRead 22 0 (List.replicate 64 0), .inboundSend 22 0 ⟨[], false⟩ 0, .inboundRdma 22 0 0 0 0 .read ⟨[], false⟩, .inboundAtomic 22 0, .remoteNak 22 0, .retryExceeded 22 0, .cnp 22 0, .readReq 0 ⟨1, 2, 1, 0, 0, 0, 0, []⟩, .readResp 0 ⟨1, 2, 1, 0, 0, 0, 0, []⟩, .fabricWrite 0 ⟨1, 2, 1, 0, 0, 0, 0, []⟩, .writeAck 0 ⟨1, 2, 1, 0, 0, 0, 0, []⟩, .errorResp 0 ⟨1, 2, 1, 0, 0, 0, 0, []⟩, .fabricSignal 0 ⟨1, 2, 1, 0, 0, 0, 0, []⟩, .fabricWait 0 ⟨1, 2, 1, 0, 0, 0, 0, []⟩, .release 0 ⟨1, 2, 1, 0, 0, 0, 0, []⟩, .slack 0 ⟨1, 2, 1, 0, 0, 0, 0, []⟩, .grant 0 ⟨1, 2, 1, 0, 0, 0, 0, []⟩, .probeResp 0 ⟨1, 2, 1, 0, 0, 0, 0, []⟩, .probeFrame 0 ⟨1, 2, 1, 0, 0, 0, 0, []⟩, .ack 0 0, .frameForward 0 0 ⟨1, 2, 1, 0, 0, 0, 0, []⟩, .hopRetransmit 0, .netFctrVal 22 0 0] : List Instr).all Instr.wf = true := by decide

theorem test_wf_accepts_4 :
    ([.pcieInboundRequest 0 0 0 .read (List.replicate 64 0), .msiWrite 0 0, .pciCompletionTimeout 16 0, .pciLinkDown 0, .pciRpCxlEnable 22 0 0, .decodeEntry 22 0 .none, .encodeEntry 22 0 .none, .medPipeEnable 22 0 false, .rstCtlPartition 0 0, .coreResetDrainTimeout 16, .startUp boot0, .persistWrite 0 0, .persistCommit 0, .secKeyProgram 0, .secKeyRevoke 0, .secMrExtend 0, .secRollback 0 0, .secUpdate 1 false, .secDbgSubmit 0, .retireEngine 0, .engineRetireSwap 0 0, .setPartitionMode 0 find0, .retrainDdr ddr0, .debug (.reg 0) false 0, .debug (.mem 0) true 7, .debug (.core 16 0) false 0, .resetConfigurationUe 0, .pciLinkUp 0 0 0 false, .netPortLinkUp 0 0, .netPortLinkDown 0, .probeResponse 16 64 0, .dataResponse 18 0 64, .coreHalt 16 0, .roceRetransmit 22 0] : List Instr).all Instr.wf = true := by decide


/-! The spec's own worked examples, with the numbers the spec prints. -/

/-- Four partitions, 32 good pseudo-channels in every stack of hub 18 but one: pseudo-channel 5 of stack 2. -/
def hbmHoled : State := fput (fput hbmUp 24 0 Fl.DIE_PARTITION_MODE 2) 18 2 Fl.HBM_STACK_PC_GOOD 0xFFFF_FFDF

/-- R371's example: slot 93 is pseudo-channel 30 of stack 2, offset 0x24B60; its end of range is unmapped. -/
theorem test_hbm_decode : hbmDecode hbmHoled 0x0800_0123_4560 = some (94, 0x24B60) ∧
    (hbmDecode hbmHoled 0x083F_7FFF_FFFF).isSome = true ∧ hbmDecode hbmHoled 0x083F_8000_0000 = none := by decide

/-- R18's three unit IDs. -/
theorem test_unit_ids : unitId 20 1 7 = 0xA107 ∧ unitId 7 1 33 = 0x3921 ∧ unitId 0 0 40 = 0x0028 := by decide

/-- R27's two block bases. -/
theorem test_block_bases : regBase + regKey 3 .engStatus 5 = 0x3F00_0C60_0000 ∧
    (regBase + regKey 24 .rstCause 0) / 0x10000 = 0x3F00_6010_0000 / 0x10000 := by decide

/-- The example of R503: MR0, MR1 and MR8 give a report of 496 bytes. -/
theorem test_report_length : reportLen 0x0103 = 496 := by decide

/-- R473: 1.6875 V and above, an open pin among them, is band 15. -/
theorem test_strap_bands : strapBand 1687 = 14 ∧ strapBand 1688 = 15 ∧ strapBand 1800 = 15 := by decide

/-- The example of R133: five slots on MD2, slot 4 on its engine 14. -/
theorem test_place_five_slots :
    placeSlots [2, 3]
      ([(3, 128), (6, 124), (9, 127), (12, 128), (14, 124), (20, 127), (25, 128), (27, 128), (30, 127), (31, 128)].map
          (fun p => ((2, p) : Nat × Nat × Nat)) ++ (List.range 32).map fun e => ((3, e, 128) : Nat × Nat × Nat))
      ([(128, 0), (128, 0), (126, 0), (124, 0), (124, 255)].map fun p =>
        { slotIn [] with minWidth := p.1, group := p.2 }) =
    .ok [(0, 2, 3, 128), (1, 2, 12, 128), (2, 2, 9, 127), (3, 2, 6, 124), (4, 2, 14, 124)] := by rfl

/-- The example of R103: 53,952 with its corrections is 16, and the result is 0.25. -/
theorem test_dequant_uint8 :
    f32.encode (dequantInt 53952 412 524 4 128 100 (f32.decode 0x3F00_0000) (f32.decode 0x3D00_0000) 0) = 0x3E80_0000 := by
  decide

/-- The example of R91 to R93: tenths of the 32 values, the scale 0x81 and the 32 codes. -/
theorem test_mxfp4_block :
    blockEncode 6 0 ([15250, -3000, 600, 1900, -7000, 0, 2500, -900, 5000, -10000, 1000, 300, 3300, -5500, 8000, -12000,
      500, -500, 1200, -2200, 4400, 6100, -1000, 0, 9000, -9000, 13000, 2000, -6000, 3900, 7500, -14000].map
        fun (i : Int) => f32.round (Num.divNat 1000 (ofInt i 0))) =
    (0x81, [0x6, 0xA, 0x0, 0x1, 0xC, 0x0, 0x1, 0x8, 0x2, 0xC, 0x0, 0x0, 0x2, 0xB, 0x4, 0xD,
      0x0, 0x8, 0x1, 0x9, 0x2, 0x3, 0x8, 0x0, 0x4, 0xC, 0x5, 0x1, 0xB, 0x2, 0x4, 0xE], false) := by decide

/-- The example of R466: limited-range 10-bit luma 502 is 0.5 and written as 0, and 940 is 1.0. -/
theorem test_pixel_lands :
    (lumaNorm 0 10 502 = f32.decode 0x3F00_0000) ∧
    plainCode 12 (normalise (f32.decode 0x3F00_0000) (f32.decode 0x4000_0000) (lumaNorm 0 10 502)) = 0 ∧
    plainCode 12 (normalise (f32.decode 0x3F00_0000) (f32.decode 0x4000_0000) (lumaNorm 0 10 940)) = 0x3F80 := by decide

/-- The rates of R420's example. -/
theorem test_rates : typicalRate 750 = 1900 ∧ typicalRate 800 = 2050 ∧ typicalRate 805 = 2063 := by decide

end Sys2Proof.Tests
end

section
/-! Places of registers: a die's 1 MiB slots and the offsets in them (R27). -/

namespace Sys2Proof.Proofs

open Sys2Proof.Machine

/-- The first slot of a block on a die, 0 where the die has none. -/
def dieSlot (d : Nat) (b : Blk) : Nat := (blkSlot (dieType d) b).getD 0

theorem dieSlot_lt (d : Nat) (b : Blk) : dieSlot d b < 64 := by
  cases b <;> simp only [dieSlot, blkSlot] <;> grind

/-- A register array stays inside its block's slot. -/
theorem info_off_stride_lt (r : Reg) : r.info.off + r.info.stride * 1023 < 0x100000 := by
  cases r <;> decide

/-- The offset of a register in its slot. -/
def slotOff (r : Reg) (i : Nat) : Nat := r.info.off + r.info.stride * i

theorem slotOff_lt (r : Reg) (i : Nat) (hi : i < 1024) : slotOff r i < 0x100000 := by
  have h := info_off_stride_lt r
  have hm : r.info.stride * i ≤ r.info.stride * 1023 := Nat.mul_le_mul_left _ (by omega)
  unfold slotOff
  omega

/-- Where a register outside the ENG blocks lies. -/
theorem regKey_eq_slot (d i : Nat) (r : Reg) (hr : r.info.blk ≠ .engB) :
    regKey d r i = (d * 64 + dieSlot d r.info.blk) * 0x100000 + slotOff r i := by
  unfold regKey
  dsimp only
  split
  · exact absurd ‹_› hr
  · exact Nat.add_assoc _ _ _

/-- Registers at one place have one die, one slot and one offset. -/
theorem regKey_inj {d e i j : Nat} {r q : Reg} (hr : r.info.blk ≠ .engB) (hq : q.info.blk ≠ .engB) (hi : i < 1024)
    (hj : j < 1024) (h : regKey d r i = regKey e q j) : d = e ∧ dieSlot d r.info.blk = dieSlot e q.info.blk ∧ slotOff r i = slotOff q j := by
  rw [regKey_eq_slot d i r hr, regKey_eq_slot e j q hq] at h
  have h1 := dieSlot_lt d r.info.blk
  have h2 := dieSlot_lt e q.info.blk
  have h3 := slotOff_lt r i hi
  have h4 := slotOff_lt q j hj
  omega

end Sys2Proof.Proofs
end

section
/-! What an idle tick leaves alone while nothing goes on by itself (log 1). -/

namespace Sys2Proof.Proofs

open Sys2Proof.Machine Sys2Proof.Safety Sys2Proof.Laws

/-! ### What a tick keeps -/

/-- A state without what an idle tick may change: free values, registers, decayed lines, links and their messages, ports, power,
the persistent array, events, and the security unit but for the reports that wait. -/
def tickErased (s : State) : State :=
  { s with
    fresh := 0, regs := [], flaws := [], links := [], parcels := [], persist := []
    net := { s.net with ports := [] }
    power := State.reset.power
    sec := { State.reset.sec with attests := s.sec.attests }
    evt := State.reset.evt }

/-- What a part of a tick keeps: all that `tickErased` shows, and whether each host core runs. -/
def Kept (s t : State) : Prop :=
  tickErased t = tickErased s ∧ ∀ d c, d = 16 ∨ d = 17 → c < 128 → rget t d .coreState c = rget s d .coreState c

namespace Kept

theorem refl (s : State) : Kept s s := ⟨rfl, fun _ _ _ _ => rfl⟩

theorem trans {s t u : State} (h : Kept s t) (h' : Kept t u) : Kept s u :=
  ⟨h'.1.trans h.1, fun d c hd hc => (h'.2 d c hd hc).trans (h.2 d c hd hc)⟩

/-- What `tickErased` shows is kept. -/
theorem get {α : Type} {s t : State} (h : Kept s t) (f : State → α) : f (tickErased t) = f (tickErased s) := congrArg f h.1

/-- A part that writes no register. -/
theorem of_regs {s t : State} (he : tickErased t = tickErased s) (hr : t.regs = s.regs) : Kept s t := by
  have hf : (tickErased t).fuses = (tickErased s).fuses := congrArg State.fuses he
  exact ⟨he, fun d c _ _ => by simp only [rget, resetWord, hr, show t.fuses = s.fuses from hf]⟩

/-- A register outside the first slot of its die is no core's state. -/
theorem fput {s t : State} (h : Kept s t) {d i : Nat} {f : Fld} (v : Nat) (hf : f.reg.info.blk ≠ .engB) (hi : i < 1024)
    (hs : dieSlot d f.reg.info.blk ≠ 1) : Kept s (fput t d i f v) := by
  refine h.trans ⟨rfl, fun e c he hc => ?_⟩
  have hne : regKey e .coreState c ≠ regKey d f.reg i := fun hk => by
    obtain ⟨rfl, hslot, -⟩ := regKey_inj (by decide) hf (by omega) hi hk
    exact hs (hslot.symm.trans (by rcases he with rfl | rfl <;> decide))
  rw [Machine.fput, rget_rput, if_neg hne]

theorem coreRuns {s t : State} (h : Kept s t) {d c : Nat} (hd : d = 16 ∨ d = 17) (hc : c < 128) :
    coreRuns t d c = coreRuns s d c := by
  have hr : t.rst = s.rst := h.get State.rst
  have hw : rget t d Fl.CORE_STATE_STATE.reg c = rget s d Fl.CORE_STATE_STATE.reg c := h.2 d c hd hc
  simp only [Machine.coreRuns, fget, hr, hw]

end Kept

/-! ### The parts of a tick -/

theorem decay_kept (s : State) : Kept s (decay s) := by
  unfold decay
  dsimp only
  split
  · exact .of_regs rfl rfl
  · split <;> exact .of_regs rfl rfl

/-- A route names ports that the link table has. -/
theorem routeLinks_port_lt (d : Nat) (r : List Nat) : ∀ l ∈ routeLinks d r, l.2 < 16 := by
  induction r generalizing d with
  | nil => simp [routeLinks]
  | cons e r ih =>
    intro l hl
    simp only [routeLinks, List.mem_append] at hl
    rcases hl with hl | hl
    · cases hp : portTo d e with
      | none => simp [hp] at hl
      | some p =>
        have hlt : p < linkPorts d := List.mem_range.1 (List.mem_of_find?_eq_some hp)
        have hmax : linkPorts d ≤ 16 := by unfold linkPorts; split <;> omega
        simp only [hp, List.mem_singleton] at hl
        subst hl
        exact Nat.lt_of_lt_of_le hlt hmax
    · exact ih e l hl

theorem sendFlit_kept (s : State) (d p : Nat) (x : Parcel) (hp : p < 16) : Kept s (sendFlit s d p x) := by
  refine Kept.fput (.of_regs rfl rfl) _ (by decide) (by omega) ?_
  show (48 : Nat) ≠ 1
  decide

theorem sendAlong_kept (s : State) (x : Parcel) : Kept s (sendAlong s x) := by
  refine List.foldlRecOn (motive := Kept s) _ _ (.refl s) fun t ht l hl => ?_
  split
  · exact ht
  · exact ht.trans (sendFlit_kept t l.1 l.2 x (routeLinks_port_lt _ _ l hl))

theorem newParcel_kept (s : State) : Kept s (newParcel s) := by
  unfold newParcel
  dsimp only
  split <;> exact .of_regs rfl rfl

theorem traffic_kept (s : State) : Kept s (traffic s) := by
  have hd : Kept s (drawBelow s (s.parcels.length + 2)).2 := .of_regs rfl rfl
  unfold traffic
  dsimp only
  split
  · exact hd
  · split
    · exact hd.trans (newParcel_kept _)
    · split
      · split
        · exact .trans (.of_regs rfl rfl) (sendAlong_kept _ _)
        · exact hd
      · exact hd

theorem hopLeave_kept (s : State) (p : Nat) : Kept s (hopLeave s p) := by
  unfold hopLeave
  dsimp only
  split <;> exact .of_regs rfl rfl

theorem portTick_kept (s : State) : Kept s (portTick s) := by
  have hd : Kept s (drawBelow s 16).2 := .of_regs rfl rfl
  unfold portTick
  dsimp only
  split
  · exact hd
  · split
    · exact hd.trans (hopLeave_kept _ _)
    · exact .of_regs rfl rfl

/-- No queue pair goes on that holds no frame. -/
theorem heldTick_of_held_nil (s : State) (h : ∀ q ∈ s.net.qps, q.2.held = []) : heldTick s = s := by
  have hn : (s.net.qps.filter fun x => !x.2.held.isEmpty) = [] := by
    simpa [List.filter_eq_nil_iff] using fun a b hab => h (a, b) hab
  rw [heldTick, hn, List.foldl_nil]

theorem setPair_kept (s : State) (d p : Nat) (hd : d < 8) (hp : p < 17) : Kept s (setPair s d p) := by
  have hs : dieSlot d .pwdB ≠ 1 := by simp [dieSlot, dieType, hd, blkSlot]
  have hi : p < 1024 := by omega
  unfold setPair
  dsimp only
  split
  · exact .refl s
  · exact ((((Kept.refl s).fput _ (by decide) hi hs).fput _ (by decide) hi hs).fput _ (by decide) hi hs).fput _ (by decide) hi hs

theorem setDiePairs_kept (s : State) (d : Nat) (hd : d < 8) : Kept s (setDiePairs s d) :=
  List.foldlRecOn (motive := Kept s) _ _ (.refl s) fun t ht p hp => ht.trans (setPair_kept t d p hd (List.mem_range.1 hp))

theorem setAllPairs_kept (s : State) : Kept s (setAllPairs s) :=
  List.foldlRecOn (motive := Kept s) _ _ (.refl s) fun t ht d hd => ht.trans (setDiePairs_kept t d (List.mem_range.1 hd))

theorem rampTick_kept (s : State) : Kept s (rampTick s) := by
  have hp (p : Power) : Kept s { s with power := p } := .of_regs rfl rfl
  unfold rampTick
  dsimp only
  split
  · exact hp _
  · refine Kept.fput (Kept.trans (hp _) (setAllPairs_kept _)) _ (by decide) (by omega) (by decide)

/-- Registers of the system die's security unit. -/
theorem fput_sec_kept {s t : State} (h : Kept s t) {f : Fld} (v : Nat) (hf : f.reg.info.blk = .secB) : Kept s (fput t 24 0 f v) :=
  h.fput v (by rw [hf]; decide) (by omega) (by rw [hf]; decide)

theorem mrExtend_kept (s : State) (n : Nat) (d : BitVec 384) : Kept s (mrExtend s n d) := .of_regs rfl rfl

theorem raise_kept (s : State) (code sev src : Nat) : Kept s (raise s code sev src) := .of_regs rfl rfl

theorem endExtend_kept (s : State) : Kept s (endExtend s) := by
  unfold endExtend
  split
  · exact .refl s
  · refine Kept.trans (fput_sec_kept (fput_sec_kept ?_ _ rfl) _ rfl) (mrExtend_kept _ _ _)
    exact .of_regs rfl rfl

theorem persistPut_kept (s : State) (n : Nat) (v : BitVec 64) : Kept s (persistPut s n v) := by
  unfold persistPut persistCommitNow
  dsimp only
  split
  · exact .fput (.refl s) _ (by decide) (by omega) (by decide)
  · split
    · split
      · exact .of_regs rfl rfl
      · split <;> exact .of_regs rfl rfl
    · exact .of_regs rfl rfl

theorem endUpdate_kept (s : State) (u : Update) : Kept s (endUpdate s u) := by
  unfold endUpdate
  extract_lets act src t t' t'' r
  have h : Kept s r := by
    have ht : Kept s t := .of_regs rfl rfl
    have ht'' : Kept s t'' := fput_sec_kept (fput_sec_kept (fput_sec_kept (fput_sec_kept ht _ rfl) _ rfl) _ rfl) _ rfl
    exact (ht''.trans (mrExtend_kept _ _ _)).trans (raise_kept _ _ _ _)
  split
  · exact h.trans (persistPut_kept _ _ _)
  · exact h

theorem switchNext_kept (s : State) : Kept s (switchNext s) := by
  unfold switchNext
  split
  · exact .refl s
  · dsimp only
    split
    · exact endUpdate_kept s _
    · exact .of_regs rfl rfl

/-- While no report waits for its signature, the security unit signs none. -/
theorem startSigning_of_attests_nil (s : State) (h : s.sec.attests = []) : startSigning s = s := by
  simp [startSigning, h]

theorem secTick_kept (s : State) (h : s.sec.attests = []) : Kept s (secTick s) := by
  have hk : Kept s (switchNext (endExtend s)) := (endExtend_kept s).trans (switchNext_kept _)
  have ha : (switchNext (endExtend s)).sec.attests = [] := (hk.get fun t => t.sec.attests).trans h
  rw [secTick, startSigning_of_attests_nil _ ha]
  exact hk

/-- While no core runs, none fetches. -/
theorem fetchCode_of_stopped (s : State) (h : ∀ d c, d = 16 ∨ d = 17 → c < 128 → coreRuns s d c = false) :
    fetchCode s = (drawBelow s 256).2 := by
  have hn : (drawBelow s 256).1 < 256 := Nat.mod_lt _ (by omega)
  have hr : coreRuns (drawBelow s 256).2 (16 + (drawBelow s 256).1 / 128) ((drawBelow s 256).1 % 128) = false :=
    h _ _ (by omega) (Nat.mod_lt _ (by omega))
  simp [fetchCode, hr]

/-- An idle tick, while nothing goes on by itself, keeps all that `tickErased` shows but the time. -/
theorem idle_kept (s : State) (hb : busyCores s = []) (hc : ∀ d c, coreRuns s d c = false) (ha : s.sec.attests = [])
    (hq : ∀ q ∈ s.net.qps, q.2.held = []) : Kept { s with time := s.time + 10 } (idle s) := by
  set u := portTick (traffic (decay { s with time := s.time + 10 })) with hu
  have hp : Kept { s with time := s.time + 10 } u := ((decay_kept _).trans (traffic_kept _)).trans (portTick_kept _)
  have hheld : heldTick u = u := heldTick_of_held_nil u fun q hm => hq q (hp.get (fun t => t.net.qps) ▸ hm)
  have hr := hp.trans (rampTick_kept u)
  have hs := hr.trans (secTick_kept _ ((hr.get fun t => t.sec.attests).trans ha))
  have hf := fetchCode_of_stopped _ fun d c hd hc' => (hs.coreRuns hd hc').trans (hc d c)
  have hd : Kept { s with time := s.time + 10 } (drawBelow (secTick (rampTick u)) 256).2 := hs.trans (.of_regs rfl rfl)
  have hbusy : busyCores (drawBelow (secTick (rampTick u)) 256).2 = [] := (hd.get busyCores).trans hb
  unfold idle
  rw [← hu, hheld, hf]
  simpa only [hbusy, List.isEmpty_nil, if_true] using hd

/-- Settles O1: the first clause is what `step` says, and on an empty queue every part of an idle tick keeps what the second names. -/
theorem stepRunsFrontCommand : Obligations.StepRunsFrontCommand := by
  unfold Obligations.StepRunsFrontCommand
  refine ⟨fun c r s h => by simp only [step, h], fun s hp hb hc ha hq => ⟨idle s, by simp only [step, hp], ?_⟩⟩
  have hk := idle_kept s hb hc ha hq
  exact ⟨hk.get State.time, (hk.get State.pending).trans hp, ⟨hk.get State.mem, hk.get State.near, hk.get State.ostore⟩,
    hk.get State.cores, hk.get State.launches, hk.get State.ctxs, hk.get State.engines⟩

end Sys2Proof.Proofs
end

section
/-! The address map (R22, R23, R342, R369 to R371, R384), and that what a home or a controller reports is no part of it. -/

namespace Sys2Proof.Proofs

open Sys2Proof.Machine Sys2Proof.Laws

/-! ### The registers that the map reads, and those that report accesses -/

/-- A register of the address map: partition mode, DDR population, HBM mode and stacks, CXL windows and their ports. -/
def mapReg (r : Reg) (i : Nat) : Prop :=
  r = .diePartition ∧ i = 0 ∨ r = .ddrPopulation ∧ i = 0 ∨ r = .hbmMode ∧ i = 0 ∨ r = .hbmStack ∧ i < 4 ∨
    r = .pciRpCxl ∧ i < 8 ∨ r = .pciRpState ∧ i < 8

/-- A register in which a home or a memory controller reports: the COH block of a host die or a hub, the statistics and the last
error of a hub's HBM or of a host die's DDR. -/
def reportReg (d : Nat) (r : Reg) : Prop :=
  (16 ≤ d ∧ d < 22) ∧ r.info.blk = .cohB ∨ (18 ≤ d ∧ d < 22) ∧ (r = .hbmStats ∨ r = .hbmLastError) ∨
    (16 ≤ d ∧ d < 18) ∧ (r = .ddrStats ∨ r = .ddrLastError)

theorem mapReg.blk_ne_eng {r : Reg} {i : Nat} (h : mapReg r i) : r.info.blk ≠ .engB := by
  rcases h with ⟨rfl, -⟩ | ⟨rfl, -⟩ | ⟨rfl, -⟩ | ⟨rfl, -⟩ | ⟨rfl, -⟩ | ⟨rfl, -⟩ <;> decide

theorem reportReg.blk_ne_eng {d : Nat} {r : Reg} (h : reportReg d r) : r.info.blk ≠ .engB := by
  rcases h with ⟨-, h⟩ | ⟨-, rfl | rfl⟩ | ⟨-, rfl | rfl⟩
  · rw [h]; decide
  all_goals decide

/-- A COH block has a slot of its own on every die that has one. -/
theorem dieSlot_coh_ne_map {d i : Nat} {q : Reg} (hd : 16 ≤ d ∧ d < 22) (hq : mapReg q i) : dieSlot d .cohB ≠ dieSlot d q.info.blk := by
  obtain ⟨h1, h2⟩ := hd
  rcases hq with ⟨rfl, -⟩ | ⟨rfl, -⟩ | ⟨rfl, -⟩ | ⟨rfl, -⟩ | ⟨rfl, -⟩ | ⟨rfl, -⟩ <;> interval_cases d <;> decide

/-- An HBM block's reports lie apart from every register of the map, by slot or by offset. -/
theorem hbm_report_apart {d i : Nat} {r q : Reg} (hd : 18 ≤ d ∧ d < 22) (hr : r = .hbmStats ∨ r = .hbmLastError) (hq : mapReg q i) :
    dieSlot d q.info.blk ≠ dieSlot d r.info.blk ∨ slotOff q i ≠ slotOff r 0 := by
  obtain ⟨h1, h2⟩ := hd
  rcases hq with ⟨rfl, hi⟩ | ⟨rfl, hi⟩ | ⟨rfl, hi⟩ | ⟨rfl, hi⟩ | ⟨rfl, hi⟩ | ⟨rfl, hi⟩ <;> rcases hr with rfl | rfl <;>
    interval_cases d <;> simp [dieSlot, blkSlot, dieType, slotOff, Reg.info] <;> omega

/-- A DDR block's reports lie apart from every register of the map, by slot or by offset. -/
theorem ddr_report_apart {d i : Nat} {r q : Reg} (hd : 16 ≤ d ∧ d < 18) (hr : r = .ddrStats ∨ r = .ddrLastError) (hq : mapReg q i) :
    dieSlot d q.info.blk ≠ dieSlot d r.info.blk ∨ slotOff q i ≠ slotOff r 0 := by
  obtain ⟨h1, h2⟩ := hd
  rcases hq with ⟨rfl, hi⟩ | ⟨rfl, hi⟩ | ⟨rfl, hi⟩ | ⟨rfl, hi⟩ | ⟨rfl, hi⟩ | ⟨rfl, hi⟩ <;> rcases hr with rfl | rfl <;>
    interval_cases d <;> simp [dieSlot, blkSlot, dieType, slotOff, Reg.info]

/-- No register that reports is one of the map. -/
theorem regKey_map_ne_report {d e i : Nat} {r q : Reg} (hr : reportReg d r) (hq : mapReg q i) : regKey e q i ≠ regKey d r 0 := by
  intro hk
  have hi : i < 1024 := by rcases hq with h | h | h | h | h | h <;> omega
  obtain ⟨rfl, hslot, hoff⟩ := regKey_inj hq.blk_ne_eng hr.blk_ne_eng hi (by omega) hk
  rcases hr with ⟨hd, hb⟩ | ⟨hd, hr⟩ | ⟨hd, hr⟩
  · rw [hb] at hslot
    exact dieSlot_coh_ne_map hd hq hslot.symm
  · exact (hbm_report_apart hd hr hq).elim (· hslot) (· hoff)
  · exact (ddr_report_apart hd hr hq).elim (· hslot) (· hoff)

/-! ### States with one address map -/

/-- Two states agree on everything that the address map reads. -/
structure SameMap (s t : State) : Prop where
  rst : t.rst = s.rst
  failedPcs : t.failedPcs = s.failedPcs
  reg : ∀ d r i, mapReg r i → rget t d r i = rget s d r i

namespace SameMap

theorem refl (s : State) : SameMap s s := ⟨rfl, rfl, fun _ _ _ _ => rfl⟩

theorem trans {s t u : State} (h : SameMap s t) (h' : SameMap t u) : SameMap s u :=
  ⟨h'.rst.trans h.rst, h'.failedPcs.trans h.failedPcs, fun d r i hr => (h'.reg d r i hr).trans (h.reg d r i hr)⟩

theorem of_regs {s t : State} (hr : t.regs = s.regs) (hf : t.fuses = s.fuses) (hs : t.rst = s.rst)
    (hp : t.failedPcs = s.failedPcs) : SameMap s t :=
  ⟨hs, hp, fun d r i _ => by simp only [rget, resetWord, hr, hf]⟩

theorem fput (s : State) {d : Nat} {f : Fld} (v : Nat) (hf : reportReg d f.reg) : SameMap s (fput s d 0 f v) :=
  ⟨rfl, rfl, fun e q i hq => by rw [Machine.fput, rget_rput, if_neg (regKey_map_ne_report hf hq)]⟩

section
variable {s t : State} (h : SameMap s t)
include h

theorem fget {d i : Nat} {f : Fld} (hf : mapReg f.reg i) : fget t d i f = fget s d i f := by
  rw [Machine.fget, h.reg d _ i hf, Machine.fget]

theorem modeOf : modeOf t = modeOf s := h.fget (.inl ⟨rfl, rfl⟩)

theorem goodPcs : goodPcs t = goodPcs s :=
  funext fun _ => h.fget (.inr (.inr (.inr (.inl ⟨rfl, Nat.mod_lt _ (by omega)⟩))))

theorem hbmPart : hbmPart t = hbmPart s := funext fun _ => by simp only [Machine.hbmPart, h.modeOf]

theorem linear : linear t = linear s := funext fun p => by
  simp only [Machine.linear, h.modeOf, h.fget (f := Fl.HBM_MODE_MODE) (i := 0) (.inr (.inr (.inl ⟨rfl, rfl⟩)))]

theorem partPcs : partPcs t = partPcs s := funext fun p => by
  simp only [Machine.partPcs, partHubs, h.modeOf, h.goodPcs]

theorem hbmDecode : hbmDecode t = hbmDecode s := funext fun pa => by
  unfold Machine.hbmDecode partBase
  rw [h.hbmPart, h.linear, h.partPcs, h.modeOf, h.goodPcs]

theorem ddrPopulation {d : Nat} {f : Fld} (hf : f.reg = .ddrPopulation) : Machine.fget t d 0 f = Machine.fget s d 0 f :=
  h.fget (.inr (.inl ⟨hf, rfl⟩))

theorem ddrDecode : ddrDecode t = ddrDecode s := funext fun pa => by
  simp only [Machine.ddrDecode, ddrChans, h.ddrPopulation (f := Fl.DDR_POPULATION_POPULATED) rfl]

theorem farPort : farPort t = farPort s := funext fun pa => by
  have hw (g : Nat) : rget t (22 + g / 8) .pciRpCxl (g % 8) = rget s (22 + g / 8) .pciRpCxl (g % 8) :=
    h.reg _ _ _ (.inr (.inr (.inr (.inr (.inl ⟨rfl, Nat.mod_lt _ (by omega)⟩)))))
  simp only [Machine.farPort, hw]

theorem farUp : farUp t = farUp s := funext fun pa => by
  have hw (g : Nat) : Machine.fget t (22 + g / 8) (g % 8) Fl.PCI_RP_STATE_STATE =
      Machine.fget s (22 + g / 8) (g % 8) Fl.PCI_RP_STATE_STATE :=
    h.fget (.inr (.inr (.inr (.inr (.inr ⟨rfl, Nat.mod_lt _ (by omega)⟩)))))
  simp only [Machine.farUp, h.farPort, hw]

theorem paKind : paKind t = paKind s := funext fun pa => by
  have hb : ddrBytes t = ddrBytes s := by
    simp only [ddrBytes, h.rst, h.ddrPopulation (f := Fl.DDR_POPULATION_POPULATED) rfl,
      h.ddrPopulation (f := Fl.DDR_POPULATION_CHANNEL_GIB) rfl]
  simp only [Machine.paKind, hb, h.hbmDecode, h.farPort]

/-- Which lines take a write. -/
theorem deadLine : deadLine t = deadLine s := funext fun l => by
  simp only [Machine.deadLine, accepts, heldInReset, h.rst, h.paKind, h.hbmPart, h.hbmDecode, h.failedPcs, h.ddrDecode, h.farUp,
    h.ddrPopulation (f := Fl.DDR_POPULATION_FAILED) rfl]

end

end SameMap

/-! ### The dies of homes and controllers -/

/-- What the interleaving answers is in its list. -/
theorem pcMap_mem {list : List Nat} {base a : Nat} {lin : Bool} {x : Nat × Nat} (h : pcMap list base a lin = some x) : x.1 ∈ list := by
  unfold pcMap at h
  dsimp only at h
  split at h
  · cases h
  · obtain ⟨pc, hpc, rfl⟩ := Option.map_eq_some_iff.1 h
    exact List.mem_of_getElem? hpc

/-- A DDR channel is one of the 16 of the two host dies. -/
theorem ddrDecode_lt {s : State} {a c : Nat} (h : ddrDecode s a = some c) : c < 16 := by
  obtain ⟨x, hx, rfl⟩ := Option.map_eq_some_iff.1 h
  have hm := pcMap_mem hx
  simp only [ddrChans, List.mem_append, List.mem_filter, List.mem_range, List.mem_map] at hm
  rcases hm with ⟨h8, -⟩ | ⟨y, ⟨h8, -⟩, hy⟩ <;> omega

/-- An HBM address is below the end of stack 15. -/
theorem paKind_hbm_range {s : State} {a st : Nat} (h : paKind s a = .hbm st) : hbmBase ≤ a ∧ a < 0x0900_0000_0000 := by
  unfold paKind at h
  grind

/-- A stack that an address of the HBM range decodes to is one of the 16. -/
theorem hbmDecode_lt {s : State} {a : Nat} {x : Nat × Nat} (ha : hbmBase ≤ a ∧ a < 0x0900_0000_0000) (h : hbmDecode s a = some x) :
    x.1 < 512 := by
  have hst : (a - hbmBase) / stackBytes < 16 := by unfold hbmBase stackBytes at *; omega
  unfold hbmDecode at h
  dsimp only at h
  split at h
  · split at h
    · have hm := pcMap_mem h
      simp only [List.mem_map, List.mem_filter, List.mem_range] at hm
      obtain ⟨i, ⟨hi, -⟩, hx⟩ := hm
      omega
    · cases h
  · split at h
    · have hm := pcMap_mem h
      simp only [partPcs, partHubs, List.mem_flatMap, List.mem_map, List.mem_filter, List.mem_range] at hm
      obtain ⟨h', ⟨j, hj, rfl⟩, k, hk, i, ⟨hi, -⟩, hx⟩ := hm
      have hpart : hbmPart s a = (a - hbmBase) / stackBytes / (hubsPer (modeOf s) * 4) := by
        rw [hbmPart, Nat.mul_comm, Nat.div_div_eq_div_mul]
      have hub : hubsPer (modeOf s) = 4 ∨ hubsPer (modeOf s) = 2 ∨ hubsPer (modeOf s) = 1 := by unfold hubsPer; grind
      rw [hpart] at hx
      rcases hub with hub | hub | hub <;> rw [hub] at hj hx <;> omega
    · cases h

/-- The HBM kind of an address names the stack of its pseudo-channel. -/
theorem paKind_hbm_lt {s : State} {a st : Nat} (h : paKind s a = .hbm st) : st < 16 := by
  have hr := paKind_hbm_range h
  have hd : ∃ x, hbmDecode s a = some x ∧ st = x.1 / 32 := by
    unfold paKind at h
    grind
  obtain ⟨x, hx, rfl⟩ := hd
  have := hbmDecode_lt hr hx
  omega

/-- A home is on a host die or a hub (R345). -/
theorem homeOf_range (s : State) (l : Nat) : 16 ≤ homeOf s l ∧ homeOf s l < 22 := by
  unfold homeOf
  split
  · cases hc : ddrDecode s l with
    | none => simp
    | some c =>
      have := ddrDecode_lt hc
      simp only [Option.getD_some]
      omega
  · have := paKind_hbm_lt ‹_›
    omega
  · split <;> omega

/-- A controller of an HBM is on a hub, one of DDR on a host die. -/
def ctlDie (c : Nat × Bool × Nat) : Prop := if c.2.1 then 18 ≤ c.1 ∧ c.1 < 22 else 16 ≤ c.1 ∧ c.1 < 18

theorem controllerOf_die {s : State} {l : Nat} {c : Nat × Bool × Nat} (h : controllerOf s l = some c) : ctlDie c := by
  unfold controllerOf at h
  unfold ctlDie
  split at h
  · obtain ⟨x, hx, rfl⟩ := Option.map_eq_some_iff.1 h
    have := hbmDecode_lt (paKind_hbm_range ‹_›) hx
    simp only [if_true]
    omega
  · obtain ⟨x, hx, rfl⟩ := Option.map_eq_some_iff.1 h
    have := ddrDecode_lt hx
    simp only [Bool.false_eq_true, if_false]
    omega
  · cases h

end Sys2Proof.Proofs
end

section
/-! A write of a record into a line that nobody holds and nothing is in progress on, from its arrival at the home to the bytes in
memory (R346, R355, R357, R545). -/

namespace Sys2Proof.Proofs

open Sys2Proof.Machine Sys2Proof.Laws

/-! ### What serving a request keeps -/

/-- What the steps of a write keep up to the write of memory itself: the address map, the interrupts and messages on their way, and
the canonical form of memory. -/
structure Served (s t : State) : Prop where
  map : SameMap s t
  irqOut : t.irqOut = s.irqOut
  probes : t.coh.probes = s.coh.probes
  resps : t.coh.resps = s.coh.resps
  data : t.coh.data = s.coh.data
  wf : s.mem.wf = true → t.mem.wf = true

namespace Served

theorem refl (s : State) : Served s s := ⟨.refl s, rfl, rfl, rfl, rfl, id⟩

theorem trans {s t u : State} (h : Served s t) (h' : Served t u) : Served s u :=
  ⟨h.map.trans h'.map, h'.irqOut.trans h.irqOut, h'.probes.trans h.probes, h'.resps.trans h.resps, h'.data.trans h.data,
    h'.wf ∘ h.wf⟩

/-- A report. -/
theorem fput {s t : State} (h : Served s t) {d : Nat} {f : Fld} (v : Nat) (hf : reportReg d f.reg) : Served s (fput t d 0 f v) :=
  h.trans ⟨.fput t v hf, rfl, rfl, rfl, rfl, id⟩

end Served

/-- A report of a home. -/
theorem served_coh {s t : State} (h : Served s t) {d : Nat} (hd : 16 ≤ d ∧ d < 22) {f : Fld} (v : Nat)
    (hf : f.reg.info.blk = .cohB) : Served s (fput t d 0 f v) := h.fput v (.inl ⟨hd, hf⟩)

theorem modHome_served (s : State) (h : Nat) (f : Home → Home) : Served s (modHome s h f) :=
  ⟨.of_regs rfl rfl rfl rfl, rfl, rfl, rfl, rfl, id⟩

theorem raise_served (s : State) (code sev src ctx : Nat) (x : BitVec 128) : Served s (raise s code sev src ctx x) :=
  ⟨.of_regs rfl rfl rfl rfl, rfl, rfl, rfl, rfl, id⟩

theorem showHome_served (s : State) {h : Nat} (hh : 16 ≤ h ∧ h < 22) : Served s (showHome s h) :=
  served_coh (served_coh (served_coh (.refl s) hh _ rfl) hh _ rfl) hh _ rfl

/-! ### Reading a line at its home -/

/-- A report of the controller of a line: of an HBM or a DDR block. -/
theorem served_ctl {s t : State} (h : Served s t) {c : Nat × Bool × Nat} (hc : ctlDie c)
    {f g : Fld} (v : Nat) (hf : f.reg = .hbmStats ∨ f.reg = .hbmLastError) (hg : g.reg = .ddrStats ∨ g.reg = .ddrLastError) :
    Served s (fput t c.1 0 (if c.2.1 then f else g) v) := by
  unfold ctlDie at hc
  by_cases hb : c.2.1 = true
  · simp only [hb, if_true] at hc ⊢
    exact h.fput v (.inr (.inl ⟨hc, hf⟩))
  · simp only [hb, Bool.false_eq_true, if_false] at hc ⊢
    exact h.fput v (.inr (.inr ⟨hc, hg⟩))

theorem lastError_served {s t : State} (h : Served s t) {c : Nat × Bool × Nat}
    (hc : ctlDie c) (kind line : Nat) : Served s (lastError t c kind line) := by
  unfold ctlDie at hc
  unfold lastError
  split
  · rw [if_pos ‹_›] at hc
    have hr : reportReg c.1 .hbmLastError := .inr (.inl ⟨hc, .inr rfl⟩)
    exact ((h.fput _ hr).fput _ hr).fput _ hr
  · rw [if_neg ‹_›] at hc
    have hr : reportReg c.1 .ddrLastError := .inr (.inr ⟨hc, .inr rfl⟩)
    exact ((h.fput _ hr).fput _ hr).fput _ hr

theorem ceRate_served (s : State) (c : Nat × Bool × Nat) : Served s (ceRate s c) := by
  have hlog (l) : Served s { s with ceLog := l } := ⟨.of_regs rfl rfl rfl rfl, rfl, rfl, rfl, rfl, id⟩
  unfold ceRate
  extract_lets now old times limit told
  split
  · exact (hlog _).trans (raise_served _ _ _ _ _ _)
  · exact hlog _

theorem memCe_served (s : State) (line : Nat) : Served s (memCe s line) := by
  unfold memCe
  split
  · exact .refl s
  · have hc := controllerOf_die ‹_›
    exact (lastError_served (served_ctl (.refl s) hc _ (.inl rfl) (.inl rfl)) hc _ _).trans (ceRate_served _ _)

theorem poisonLine_served (s : State) (line : Nat) : Served s (poisonLine s line) :=
  ⟨.of_regs rfl rfl rfl rfl, rfl, rfl, rfl, rfl, wf_memClear _ _ _⟩

theorem memUe_served (s : State) (line : Nat) : Served s (memUe s line) := by
  unfold memUe
  split
  · exact poisonLine_served s line
  · have hc := controllerOf_die ‹_›
    exact ((lastError_served (served_ctl (.refl s) hc _ (.inl rfl) (.inl rfl)) hc _ _).trans (poisonLine_served _ _)).trans
      (raise_served _ _ _ _ _ _)

theorem notePoison_served (s : State) (line : Nat) : Served s (notePoison s line) := by
  have hbm {pc : Nat} (h : pc < 512) : reportReg (18 + pc / 128) .hbmLastError := .inr (.inl ⟨by omega, .inr rfl⟩)
  have ddr {c : Nat} (h : c < 16) : reportReg (16 + c / 8) .ddrLastError := .inr (.inr ⟨by omega, .inr rfl⟩)
  unfold notePoison
  split
  · exact .refl s
  · split
    · split
      · have hr := hbm (hbmDecode_lt (paKind_hbm_range ‹_›) ‹_›)
        exact (((Served.refl s).fput _ hr).fput _ hr).fput _ hr
      · exact .refl s
    · split
      · have hr := ddr (ddrDecode_lt ‹_›)
        exact (((Served.refl s).fput _ hr).fput _ hr).fput _ hr
      · exact .refl s
    · exact .refl s

theorem memEcc_served (s : State) (line : Nat) (e : Ecc) : Served s (memEcc s line e) := by
  have hf : Served s { s with flaws := smDel s.flaws line } := ⟨.of_regs rfl rfl rfl rfl, rfl, rfl, rfl, rfl, id⟩
  unfold memEcc
  dsimp only
  split
  · exact notePoison_served s line
  · split
    · exact hf
    · exact hf.trans (memCe_served _ line)
    · exact hf.trans (memUe_served _ line)

/-- Reading a line keeps what a write keeps; what it answers as data is a line, or comes with poison. -/
theorem memFetch_served (s : State) (line : Nat) (e : Ecc) :
    Served s (memFetch s line e).2.2 ∧ ((memFetch s line e).2.1 = false → (memFetch s line e).1.length = 64) := by
  unfold memFetch
  split
  · exact ⟨.refl s, by simp⟩
  · exact ⟨memEcc_served s line e, by simp⟩

/-! ### A request of an agent that holds no lines, on a quiet line -/

/-- No coherence message is on its way. -/
def NoMessages (s : State) : Prop := s.coh.probes = [] ∧ s.coh.resps = [] ∧ s.coh.data = []

theorem Served.noMessages {s t : State} (h : Served s t) (hs : NoMessages s) : NoMessages t :=
  ⟨h.probes.trans hs.1, h.resps.trans hs.2.1, h.data.trans hs.2.2⟩

/-- Nothing is to be delivered. -/
theorem settleLine_of_noMessages (n line : Nat) {s : State} (h : NoMessages s) : settleLine n s line = s := by
  obtain ⟨hp, hr, hd⟩ := h
  cases n <;> simp [settleLine, hp, hr, hd, blockingWb]

/-- A line that takes writes is memory that accepts accesses. -/
theorem arriveReq_of_quiet {s : State} {h : Nat} {r : CohReq} (hd : deadLine s r.line = false) (hh : homeOf s r.line = h)
    (hb : lineBusy (getHome s h) r.line = false) : arriveReq s h r = showHome (serveReq s h r) h := by
  unfold deadLine at hd
  unfold arriveReq
  rw [hh, hb]
  cases hk : paKind s r.line <;> simp_all

/-- A whole-line write of a line without an entry opens a transaction that waits for nobody. -/
theorem openTxn_wrFull {s : State} {h : Nat} {r : CohReq} (hc : r.code = cWrFull) (he : dirFind (getHome s h) r.line = none)
    (hh : 16 ≤ h ∧ h < 22) : (openTxn s h r).2 = ⟨r.line, r, [], [], false⟩ ∧ Served s (openTxn s h r).1 := by
  have hcount : countServed s h r.code = fsat s h 0 Fl.COH_WRITES_DEVICE 1 := by
    simp [countServed, hc, cWrFull, cRdOwn, cUpgrade, cRdShared, cRdNc]
  simp only [openTxn, he, probesFor, hcount]
  refine ⟨trivial, ?_⟩
  refine served_coh (.trans ?_ (modHome_served _ _ _)) hh _ rfl
  exact served_coh (served_coh (.refl s) hh _ rfl) hh _ rfl

/-- Such a write is closed at once. -/
theorem serveReq_wrFull {s : State} {h : Nat} {r : CohReq} (hc : r.code = cWrFull) (he : dirFind (getHome s h) r.line = none)
    (hh : 16 ≤ h ∧ h < 22) : serveReq s h r = closeReq (openTxn s h r).1 h ⟨r.line, r, [], [], false⟩ := by
  have has : asServed s r = r := by simp [asServed, hc, cWrFull, cUpgrade]
  have hn : needsEntry s r = false := by simp [needsEntry, hc, cWrFull, cWrStash, cUpgrade]
  simp [serveReq, has, hn, (openTxn_wrFull hc he hh).1]

/-- What a whole-line write under a mask finds in the line, and the state after it has looked: nothing is read where it writes every
byte, and zeros stand for data that cannot be had (R357, R545). -/
def oldLine (s : State) (r : CohReq) : List Byte × State :=
  if r.mask = BitVec.allOnes 64 then (r.data, s)
  else
    let m := memFetch s r.line .none
    (if m.2.1 then List.replicate 64 0 else m.1, m.2.2)

theorem oldLine_served (s : State) {r : CohReq} (hr : r.data.length = 64) :
    Served s (oldLine s r).2 ∧ (oldLine s r).1.length = 64 := by
  unfold oldLine
  split
  · exact ⟨.refl s, hr⟩
  · obtain ⟨hs, hlen⟩ := memFetch_served s r.line .none
    refine ⟨hs, ?_⟩
    dsimp only
    split
    · simp
    · exact hlen (by simp_all)

/-- A whole-line write ends any entry of its line, puts the bytes of its mask over the line, and answers. -/
theorem finishReq_wrFull {s : State} {h : Nat} {t : Txn} (hc : t.req.code = cWrFull) :
    finishReq s h t =
      let r := t.req
      let v := setEntry s h r.line false 0
      sendReturn (linePut (oldLine v r).2 r.line (mergeMask (oldLine v r).1 r.data r.mask)) r (farDown v r.line) [] := by
  unfold finishReq
  dsimp only
  rw [if_neg (by rw [hc]; decide), if_neg (by rw [hc]; decide), if_neg (by rw [hc]; decide), if_neg (by rw [hc]; decide),
    if_pos (.inl hc), if_pos hc, oldLine]
  split <;> rfl

/-- Closing it so writes over what the line held. -/
theorem closeReq_wrFull {s : State} {h : Nat} {r : CohReq} (hc : r.code = cWrFull) (hr : r.data.length = 64) :
    ∃ u old p, Served s u ∧ old.length = 64 ∧
      closeReq s h ⟨r.line, r, [], [], false⟩ = sendReturn (linePut u r.line (mergeMask old r.data r.mask)) r p [] := by
  set v := setEntry (modHome s h fun x => { x with txns := x.txns.filter fun y => y.line != r.line }) h r.line false 0 with hv
  have hsv : Served s v := (modHome_served _ _ _).trans (modHome_served _ _ _)
  obtain ⟨hso, hlen⟩ := oldLine_served v hr
  exact ⟨(oldLine v r).2, (oldLine v r).1, farDown v r.line, hsv.trans hso, hlen, finishReq_wrFull hc⟩

/-- The bytes of a line reach memory that takes them. -/
theorem linePut_mem {s : State} {line : Nat} (bs : List Byte) (hd : deadLine s line = false) (hl : line % 64 = 0) :
    (linePut s line bs).mem = memWriteN s.mem line (bs.take 64) := by
  have hline : lineOf line = line := by unfold lineOf; omega
  have hd' : deadLine { s with poison := s.poison.filter (· != line), flaws := smDel s.flaws line } line = false := hd
  simp [linePut, memPut, hline, hd']

end Sys2Proof.Proofs
end

section
/-! The completion record of a command in its ring slot (R13, R281, R283, R289). -/

namespace Sys2Proof.Proofs

open Sys2Proof.Machine Sys2Proof.Laws

/-! ### Bytes under a mask -/

theorem getLsbD_spanMask {off n i : Nat} (h : off + n ≤ 64) (hi : i < n) : (spanMask off n).getLsbD (off + i) = true := by
  have hlt : off + i < 64 := by omega
  simp [spanMask, BitVec.getLsbD_ofNat, Nat.testBit_mul_two_pow, Nat.testBit_two_pow_sub_one, hlt, hi]

theorem length_overwrite {old new : List Byte} {off : Nat} (h : off + new.length ≤ old.length) :
    (overwrite old off new).length = old.length := by
  simp only [overwrite, List.length_append, List.length_take, List.length_drop]
  omega

theorem getElem_overwrite {old new : List Byte} {off i : Nat} (h : off + new.length ≤ old.length) (hi : i < new.length) :
    (overwrite old off new)[off + i]'(by rw [length_overwrite h]; omega) = new[i] := by
  simp only [overwrite, List.append_assoc]
  rw [List.getElem_append_right (by simp), List.getElem_append_left (by simp; omega)]
  congr 1
  simp only [List.length_take]
  omega

theorem length_mergeMask (old new : List Byte) (mask : BitVec 64) :
    (mergeMask old new mask).length = min old.length new.length := by
  simp [mergeMask]

theorem getElem_mergeMask {old new : List Byte} {mask : BitVec 64} {i : Nat} (h : i < (mergeMask old new mask).length)
    (hn : i < new.length) (hm : mask.getLsbD i = true) : (mergeMask old new mask)[i] = new[i] := by
  simp [mergeMask, hm]

theorem length_lineBytes {a : Nat} {bs : List Byte} (hfit : a % 64 + bs.length ≤ 64) : (lineBytes a bs).2.length = 64 := by
  rw [lineBytes, length_overwrite (by rwa [List.length_replicate]), List.length_replicate]

/-- Bytes that lie in one line read back after they were written under their mask, whatever the line held. -/
theorem memReadN_lineBytes {m : Memory} {a : Nat} {bs old : List Byte} (hw : m.wf = true) (hfit : a % 64 + bs.length ≤ 64)
    (hold : old.length = 64) :
    memReadN (memWriteN m (lineOf a) ((mergeMask old (lineBytes a bs).2 (lineBytes a bs).1).take 64)) a bs.length = bs := by
  have hlen := length_lineBytes hfit
  have hmerge : (mergeMask old (lineBytes a bs).2 (lineBytes a bs).1).length = 64 := by rw [length_mergeMask, hold, hlen]; rfl
  rw [List.take_of_length_le hmerge.le]
  refine List.ext_getElem (by simp) fun i _ hi => ?_
  have ha : a + i = lineOf a + (a % 64 + i) := by unfold lineOf; omega
  have hin : a % 64 + i < 64 := by omega
  have hmask : (lineBytes a bs).1.getLsbD (a % 64 + i) = true := getLsbD_spanMask hfit hi
  simp only [memReadN, List.getElem_map, List.getElem_range]
  rw [ha, memRead_memWriteN_in _ _ _ _ hw (by omega), getElem_mergeMask _ (by omega) hmask]
  exact getElem_overwrite (by rwa [List.length_replicate]) hi

/-! ### The record reaches memory -/

theorem linePut_served (s : State) (line : Nat) (bs : List Byte) : Served s (linePut s line bs) := by
  unfold linePut memPut
  split
  · exact ⟨.of_regs rfl rfl rfl rfl, rfl, rfl, rfl, rfl, id⟩
  · exact ⟨.of_regs rfl rfl rfl rfl, rfl, rfl, rfl, rfl, wf_memWriteN _ _ _⟩

theorem sendReturn_served (s : State) (r : CohReq) (p : Bool) (data : List Byte) : Served s (sendReturn s r p data) :=
  ⟨.of_regs rfl rfl rfl rfl, rfl, rfl, rfl, rfl, id⟩

@[simp] theorem showHome_mem (s : State) (h : Nat) : (showHome s h).mem = s.mem := rfl

@[simp] theorem sendReturn_mem (s : State) (r : CohReq) (p : Bool) (data : List Byte) : (sendReturn s r p data).mem = s.mem := rfl

/-- What a request answers to its agent touches neither memory nor interrupts. -/
theorem ncReq_mem_irqOut (s : State) (r : CohReq) :
    let u := settleLine 256 s r.line
    let t := settleLine 256 (arriveReq u (homeOf u r.line) r) r.line
    (ncReq s r).2.mem = t.mem ∧ (ncReq s r).2.irqOut = t.irqOut := by
  unfold ncReq
  dsimp only
  split
  · split <;> exact ⟨rfl, rfl⟩
  · exact ⟨rfl, rfl⟩

/-- A line that takes writes, that nobody holds and that no transaction, request or message is about. -/
structure QuietLine (s : State) (line : Nat) : Prop where
  aligned : line % 64 = 0
  takes : deadLine s line = false
  idle : lineBusy (getHome s (homeOf s line)) line = false
  unheld : dirFind (getHome s (homeOf s line)) line = none
  noMessages : NoMessages s

/-- A whole-line write under a mask to a quiet line puts the bytes of its mask there. -/
theorem ncReq_wrFull {s : State} {r : CohReq} (hq : QuietLine s r.line) (hc : r.code = cWrFull) (hr : r.data.length = 64)
    (hw : s.mem.wf = true) : ∃ (old : List Byte) (m : Memory), old.length = 64 ∧ m.wf = true ∧
      (ncReq s r).2.mem = memWriteN m r.line ((mergeMask old r.data r.mask).take 64) ∧ (ncReq s r).2.irqOut = s.irqOut := by
  have hh := homeOf_range s r.line
  obtain ⟨hmem, hirq⟩ := ncReq_mem_irqOut s r
  obtain ⟨-, hopen⟩ := openTxn_wrFull hc hq.unheld hh
  obtain ⟨u, old, p, hu, hold, hclose⟩ := closeReq_wrFull (s := (openTxn s (homeOf s r.line) r).1) (h := homeOf s r.line) hc hr
  have hsu := hopen.trans hu
  have harrive : arriveReq s (homeOf s r.line) r =
      showHome (sendReturn (linePut u r.line (mergeMask old r.data r.mask)) r p []) (homeOf s r.line) := by
    rw [arriveReq_of_quiet hq.takes rfl hq.idle, serveReq_wrFull hc hq.unheld hh, hclose]
  have ht : Served s (arriveReq s (homeOf s r.line) r) := by
    rw [harrive]
    exact ((hsu.trans (linePut_served _ _ _)).trans (sendReturn_served _ _ _ _)).trans (showHome_served _ hh)
  rw [settleLine_of_noMessages _ _ hq.noMessages, settleLine_of_noMessages _ _ (ht.noMessages hq.noMessages)] at hmem hirq
  refine ⟨old, u.mem, hold, hsu.wf hw, hmem.trans ?_, hirq.trans ht.irqOut⟩
  have hdead : deadLine u r.line = false := (congrFun hsu.map.deadLine r.line).trans hq.takes
  rw [harrive, showHome_mem, sendReturn_mem]
  exact linePut_mem _ hdead hq.aligned

/-- A record that is not stashed, and that lies in one quiet line, is in memory. -/
theorem recStash_memReadN {s : State} {die a : Nat} {bs : List Byte} (ht : fget s die 0 Fl.COH_STASH_RECORDS_TARGET = 0)
    (hq : QuietLine s (lineOf a)) (hfit : a % 64 + bs.length ≤ 64) (hw : s.mem.wf = true) :
    memReadN (recStash s die a bs).mem a bs.length = bs ∧ (recStash s die a bs).irqOut = s.irqOut := by
  obtain ⟨old, m, hold, hm, hmem, hirq⟩ := ncReq_wrFull (s := s)
    (r := { bareReq cWrFull (lineOf a) 6 0 .none with target := 0, mask := (lineBytes a bs).1, data := (lineBytes a bs).2 })
    hq rfl (length_lineBytes hfit) hw
  have hrec : recStash s die a bs = (ncReq s
      { bareReq cWrFull (lineOf a) 6 0 .none with target := 0, mask := (lineBytes a bs).1, data := (lineBytes a bs).2 }).2 := by
    simp [recStash, recPut, ht]
  rw [hrec, hmem]
  exact ⟨memReadN_lineBytes hm hfit hold, hirq⟩

/-! ### SYNC_COMPLETE -/

@[simp] theorem length_completionBytes (handle status flags time : Nat) (detail : BitVec 64) :
    (completionBytes handle status flags time detail).length = 32 := by
  simp [completionBytes]

/-- Completing a command writes its record to its slot, unless the ring is no memory of the context, and sends its interrupt if it
asked for one. -/
theorem complete_mem_irqOut {s : State} {c q : Nat} {k : Cmd} (hk : getCmd s c q = some k) (status : Nat) (detail : BitVec 64)
    (hr : ringRefusal s c (ringBase (getCtx s c).cplRing) = none) :
    let t := recStash s (ctxHub c) (ringBase (getCtx s c).cplRing + (getCtx s c).cplTail % ringSize (getCtx s c).cplRing * 32)
      (completionBytes (handleOf c q) status (b2n (k.desc.flags.getLsbD 0) + 4 * b2n k.events) s.time.toNat detail)
    (complete s c q status detail).mem = t.mem ∧ (complete s c q status detail).irqOut =
      t.irqOut ++ if k.desc.flags.getLsbD 0 then [fldOf Fl.QFE_CTX_ATTR_IRQ_VECTOR (getCtx s c).attr] else [] := by
  simp only [complete, hk, cplRecord, hr]
  split <;> simp [sendIrq]

/-- A command that runs is a command of its context. -/
theorem getCmd_of_runCmd {s : State} {c q op : Nat} {k : Cmd} (h : runCmd s c q op = some k) : getCmd s c q = some k := by
  obtain ⟨k', hk, hif⟩ := Option.bind_eq_some_iff.1 h
  split at hif
  · rwa [← Option.some.inj hif]
  · cases hif

/-- A SYNC that waits for nothing any more, is not denied and writes no value completes with status 0. -/
theorem syncComplete_of_ready {s : State} {c q : Nat} {k : Cmd} (hk : runCmd s c q 6 = some k) (ha : k.accepted = true)
    (hr : syncReady s c q k = true) (hd : k.denied = none) (hv : k.desc.flags.getLsbD 4 = false) :
    exec (.syncComplete c q) s = .next (complete s c q 0 0) := by
  show Host.Outcome.next (doSyncComplete c q s) = _
  simp only [doSyncComplete, hk, ha, hr, hd, hv, Bool.not_true, Bool.not_false, Bool.false_eq_true, or_self, if_false, if_true]

/-- A slot of a ring lies in one line. -/
theorem ring_slot_fits (w : BitVec 64) (n : Nat) : (ringBase w + n * 32) % 64 + 32 ≤ 64 := by
  unfold ringBase
  omega

/-- Settles O19: the record is a whole-line write under the mask of its 32 bytes, to a line at whose home nothing else is going on. -/
theorem completionRecordIsWritten : Obligations.CompletionRecordIsWritten := by
  unfold Obligations.CompletionRecordIsWritten
  intro c q k s hk ha hready hden hv ht _ hring hdead hbusy hdir hprobes hresps hdata hw
  refine ⟨_, syncComplete_of_ready hk ha hready hden hv, ?_⟩
  have hline : QuietLine s (lineOf _) := ⟨Nat.mul_mod_left _ _, hdead, hbusy, hdir, hprobes, hresps, hdata⟩
  obtain ⟨hmem, hirq⟩ := complete_mem_irqOut (getCmd_of_runCmd hk) 0 0 hring
  have hrec := recStash_memReadN (bs := completionBytes (handleOf c q) 0 (b2n (k.desc.flags.getLsbD 0) + 4 * b2n k.events)
    s.time.toNat 0) ht hline (by simpa using ring_slot_fits _ _) hw
  rw [length_completionBytes] at hrec
  exact ⟨by rw [hmem]; exact hrec.1, by rw [hirq, hrec.2]⟩

end Sys2Proof.Proofs
end

section
/-! A store to Device memory of a core that has a load outstanding (R319, R327). -/

namespace Sys2Proof.Proofs

open Sys2Proof.Machine Sys2Proof.Safety Sys2Proof.Laws

/-- A core that holds nothing back goes on with nothing. -/
theorem runCore_of_queue_nil (s : State) (d c : Nat) (h : (getCore s d c).queue = []) : runCore s d c = s := by
  simp [runCore, h, runQueue]

/-- An access of a running core that holds nothing back starts, or stays in the core. -/
theorem issue_of_queue_nil (s : State) (d c : Nat) (x : CoreOp) (hr : coreRuns s d c = true) (hq : (getCore s d c).queue = []) :
    issue d c x s = if (startOp s d c x).1 then (startOp s d c x).2
      else modCore (startOp s d c x).2 d c fun k => { k with queue := k.queue ++ [x] } := by
  simp [issue, hr, hq, runCore_of_queue_nil]

/-- A Device access that nothing else holds up, while a load is outstanding: whether it depends on the load, and so waits, is a
free choice (R327, log 160). -/
theorem deviceStart_of_loadsOut (s : State) (d c : Nat) (f : State → State) (hw : deviceWaits s (getCore s d c) = false)
    (hm : mayRetire s d c = true) (hl : loadsOut (getCore s d c) = true) :
    deviceStart s d c f =
      if (drawBelow s 2).1 == 1 then (false, (drawBelow s 2).2) else (true, f (retireStores (drawBelow s 2).2 d c)) := by
  simp [deviceStart, dependsOn, hw, hm, hl]

/-- REGISTER_WRITE while a load is outstanding and nothing else holds it up: it waits in the core, or is performed, and either way
a free value has been drawn. -/
theorem registerWrite_of_loadsOut (s : State) (d c a n : Nat) (v : BitVec 64) (hr : coreRuns s d c = true)
    (hq : (getCore s d c).queue = []) (hw : deviceWaits s (getCore s d c) = false) (hm : mayRetire s d c = true)
    (hl : loadsOut (getCore s d c) = true) (hk : paKind s a = .reg) :
    exec (.registerWrite d c a n v) s = .next (
      if (drawBelow s 2).1 == 1 then modCore (drawBelow s 2).2 d c fun k => { k with queue := k.queue ++ [.store a n v] }
      else deviceStore (retireStores (drawBelow s 2).2 d c) d c a n v) := by
  have hd : isDevice s a = true := by simp [isDevice, hk]
  show Host.Outcome.next (doRegisterWrite d c a n v s) = _
  simp only [doRegisterWrite, hk, issue_of_queue_nil s d c _ hr hq, startOp, hd, deviceStart_of_loadsOut s d c _ hw hm hl]
  by_cases hdep : (drawBelow s 2).1 = 1 <;> simp [hdep]

/-- Core 3 of HD0 runs, and its load of line 0x1000 waits for the line's home. -/
def loadOutstanding : State :=
  putCore (fput { State.reset with rst := { State.reset.rst with kind := .none } } 16 3 Fl.CORE_STATE_STATE 1) 16 3
    { Core.fresh with misses := [⟨0x1000, 0x1000, 8, false, 0, []⟩] }

/-- Refutes O54: its first clause has no hypothesis that no load of the core is outstanding. Core 3 waits for a line that it loads from
Normal memory, and writes EVT_IRQ. Whether the write depends on the load is a free choice (R327, log 160): it waits in the core, or
it is performed with that choice drawn. In both cases a free value has been used up, which in `regWrite` of the retired state has
not. -/
theorem not_registersTakeWrites : ¬ Obligations.RegistersTakeWrites := by
  unfold Obligations.RegistersTakeWrites
  rintro ⟨hwrite, -⟩
  have h := hwrite 16 3 0x3F00_6060_0018 24 0 .evtIrq 0 loadOutstanding (by decide) (by decide) (by decide) (by decide) (by decide)
    (by decide)
  rw [registerWrite_of_loadsOut _ _ _ _ _ _ (by decide) (by decide) (by decide) (by decide) (by decide) (by decide)] at h
  have hfresh := congrArg State.fresh (Host.Outcome.next.inj h)
  split at hfresh
  · exact absurd hfresh (by decide)
  · exact absurd hfresh (by decide)

end Sys2Proof.Proofs
end

section
/-! An offset with no register, accessed by a core that has a load outstanding (R30, R319, R327). -/

namespace Sys2Proof.Proofs

open Sys2Proof.Machine Sys2Proof.Safety Sys2Proof.Laws

/-- Refutes O53: its clauses have no hypothesis that no load of the core is outstanding. Core 3 waits for a line that it loads from
Normal memory, and writes the undefined offset 0x80 of an assigned block of HD24. Whether the write depends on the load is a free
choice (R327, log 160): it waits in the core, or it is performed with that choice drawn. In both cases a free value has been used up,
which in the state that has only retired its stores has not. -/
theorem not_undefinedOffsetsReadZero : ¬ Obligations.UndefinedOffsetsReadZero := by
  unfold Obligations.UndefinedOffsetsReadZero
  rintro ⟨-, -, -, hwrite⟩
  have h := hwrite 16 3 24 6 0x80 0 loadOutstanding (by decide) (by decide) (by decide) (by decide) (by decide) (by decide)
    (by decide) (by decide) (by decide) (by decide) (by decide)
  rw [registerWrite_of_loadsOut _ _ _ _ _ _ (by decide) (by decide) (by decide) (by decide) (by decide) (by decide)] at h
  have hfresh := congrArg State.fresh (Host.Outcome.next.inj h)
  split at hfresh
  · exact absurd hfresh (by decide)
  · exact absurd hfresh (by decide)

end Sys2Proof.Proofs
end

section
/-! What every operation keeps: the queue, and the canonical form of the memories. -/

namespace Sys2Proof.Proofs

open Sys2Proof.Machine Sys2Proof.Safety Sys2Proof.Laws

/-- From one state to another the queue stays as it was and the memories stay in canonical form. -/
structure Stays (s t : State) : Prop where
  pending : t.pending = s.pending
  memWf : MemWf s → MemWf t

namespace Stays

theorem refl (s : State) : Stays s s := ⟨rfl, id⟩

/-- An update of fields other than the queue and the memories. -/
theorem update {s t : State} (h : Stays s t) {time fresh regs fuses rowFuses rowMap poison flaws failedPcs ceLog scrubFrom recals
    cores vecs irqOut engines rdc tok launches ctxs rrNext mediaQ regions xlat coh links parcels net power persist rst pins uart0
    sec evt jtag ddr} :
    Stays s ⟨t.pending, time, fresh, regs, fuses, rowFuses, rowMap, t.mem, t.near, t.ostore, poison, flaws, failedPcs, ceLog,
      scrubFrom, recals, cores, vecs, irqOut, engines, rdc, tok, launches, ctxs, rrNext, mediaQ, regions, xlat, coh, links, parcels,
      net, power, persist, rst, pins, uart0, sec, evt, jtag, ddr⟩ := ⟨h.pending, h.memWf⟩

theorem ite {s a b : State} {c : Prop} {_ : Decidable c} (ha : Stays s a) (hb : Stays s b) : Stays s (if c then a else b) := by
  split
  · exact ha
  · exact hb

/-- A fold of operations that each keep it. -/
theorem foldl {α : Type} {s t : State} {f : State → α → State} {l : List α} (h : Stays s t)
    (hf : ∀ u a, Stays s u → Stays s (f u a)) : Stays s (l.foldl f t) :=
  List.foldlRecOn (motive := Stays s) l f h fun u hu a _ => hf u a hu

/-- A fold that gathers an answer beside the state. -/
theorem foldlSnd {α β : Type} {s t : State} {b : β} {f : β × State → α → β × State} {l : List α} (h : Stays s t)
    (hf : ∀ p a, Stays s p.2 → Stays s (f p a).2) : Stays s (l.foldl f (b, t)).2 :=
  List.foldlRecOn (motive := fun p => Stays s p.2) l f h fun p hp a _ => hf p a hp

theorem getD {s t : State} {o : Option State} (h : Stays s t) (ho : ∀ u, o = some u → Stays s u) : Stays s (o.getD t) := by
  cases o with
  | none => exact h
  | some u => exact ho u rfl

theorem of_getD {s t u : State} {o : Option State} (h : Stays s (o.getD t)) (ho : o = some u) : Stays s u := by
  rw [ho] at h
  exact h

theorem elim {α : Type} {s t : State} {f : α → State} {o : Option α} (h : Stays s t) (hf : ∀ a, Stays s (f a)) :
    Stays s (o.elim t f) := by
  cases o with
  | none => exact h
  | some a => exact hf a

/-- The state of an answer that was taken apart. -/
theorem snd {α : Type} {s t : State} {p : α × State} {a : α} (h : Stays s p.2) (e : p = (a, t)) : Stays s t := by
  rw [e] at h
  exact h

/-- The state of an answer of two parts that was taken apart. -/
theorem snd2 {α β : Type} {s t : State} {p : α × β × State} {a : α} {b : β} (h : Stays s p.2.2) (e : p = (a, b, t)) : Stays s t := by
  rw [e] at h
  exact h

/-- A write of main memory that keeps its form. -/
theorem mem {s t : State} (h : Stays s t) {m time fresh regs fuses rowFuses rowMap poison flaws failedPcs ceLog scrubFrom recals
    cores vecs irqOut engines rdc tok launches ctxs rrNext mediaQ regions xlat coh links parcels net power persist rst pins uart0
    sec evt jtag ddr} (hm : t.mem.wf = true → Memory.wf m = true) :
    Stays s ⟨t.pending, time, fresh, regs, fuses, rowFuses, rowMap, m, t.near, t.ostore, poison, flaws, failedPcs, ceLog,
      scrubFrom, recals, cores, vecs, irqOut, engines, rdc, tok, launches, ctxs, rrNext, mediaQ, regions, xlat, coh, links, parcels,
      net, power, persist, rst, pins, uart0, sec, evt, jtag, ddr⟩ :=
  ⟨h.pending, fun hs => let ⟨h1, h2, h3⟩ := h.memWf hs; ⟨hm h1, h2, h3⟩⟩

theorem near {s t : State} (h : Stays s t) {m : Memory} (hm : t.near.wf = true → m.wf = true) : Stays s { t with near := m } :=
  ⟨h.pending, fun hs => let ⟨h1, h2, h3⟩ := h.memWf hs; ⟨h1, hm h2, h3⟩⟩

theorem ostore {s t : State} (h : Stays s t) {m : Memory} (hm : t.ostore.wf = true → m.wf = true) : Stays s { t with ostore := m } :=
  ⟨h.pending, fun hs => let ⟨h1, h2, h3⟩ := h.memWf hs; ⟨h1, h2, hm h3⟩⟩

theorem iteSnd {α : Type} {s : State} {p q : α × State} {c : Prop} {_ : Decidable c} (hp : Stays s p.2) (hq : Stays s q.2) :
    Stays s (if c then p else q).2 := by
  split
  · exact hp
  · exact hq

end Stays

end Sys2Proof.Proofs
end

section
/-! Registers, memories and the state of engines: every operation keeps the queue and the form of the memories. -/

namespace Sys2Proof.Proofs.Stays

open Sys2Proof.Machine Sys2Proof.Safety Sys2Proof.Laws

variable {s t : State} (hs : Stays s t)
include hs

/-! ### Machine/Ops.lean -/

theorem rput {d : Nat} {r : Reg} {i : Nat} {w : BitVec 64} : Stays s (Machine.rput t d r i w) := ⟨hs.pending, hs.memWf⟩

theorem fput {d i : Nat} {f : Fld} {v : Nat} : Stays s (Machine.fput t d i f v) := ⟨hs.pending, hs.memWf⟩

theorem fsat {d i : Nat} {f : Fld} {n : Nat} : Stays s (Machine.fsat t d i f n) := ⟨hs.pending, hs.memWf⟩

theorem fwrap {d i : Nat} {f : Fld} {n : Nat} : Stays s (Machine.fwrap t d i f n) := ⟨hs.pending, hs.memWf⟩

theorem fhigh {d i : Nat} {f : Fld} {n : Nat} : Stays s (Machine.fhigh t d i f n) := ⟨hs.pending, hs.memWf⟩

theorem draw : Stays s (Machine.draw t).2 := ⟨hs.pending, hs.memWf⟩

theorem drawBelow {n : Nat} : Stays s (Machine.drawBelow t n).2 := ⟨hs.pending, hs.memWf⟩

theorem onDie {d : Nat} {f : State → State} (hf : ∀ u, Stays s u → Stays s (f u)) : Stays s (Machine.onDie t d f) :=
  hs.ite (hf _ hs)

theorem gauge {d i : Nat} {f : Fld} : Stays s (Machine.gauge t d i f) := ⟨hs.pending, hs.memWf⟩

theorem advance {d i : Nat} {f : Fld} : Stays s (Machine.advance t d i f) := ⟨hs.pending, hs.memWf⟩

theorem accrue {d i : Nat} {f : Fld} : Stays s (Machine.accrue t d i f) := ⟨hs.pending, hs.memWf⟩

theorem countHandshakes {d e : Nat} : Stays s (Machine.countHandshakes t d e) := hs.foldl fun _ _ hu => hu.advance

theorem memPut {a : Nat} {bs : List Byte} : Stays s (Machine.memPut t a bs) := hs.ite (hs.mem (wf_memWriteN _ _ _))

theorem linePut {line : Nat} {bs : List Byte} : Stays s (Machine.linePut t line bs) := hs.update.memPut

theorem mapL2 {f : List CacheLine → List CacheLine} : Stays s (Machine.mapL2 t f) := ⟨hs.pending, hs.memWf⟩

theorem putHome {h : Nat} {x : Home} : Stays s (Machine.putHome t h x) := ⟨hs.pending, hs.memWf⟩

theorem modHome {h : Nat} {f : Home → Home} : Stays s (Machine.modHome t h f) := ⟨hs.pending, hs.memWf⟩

theorem notePoison {line : Nat} : Stays s (Machine.notePoison t line) := by
  unfold Machine.notePoison
  split
  · exact hs
  · split
    · split
      · exact hs.fput.fput.fput
      · exact hs
    · split
      · exact hs.fput.fput.fput
      · exact hs
    · exact hs

theorem putCore {d c : Nat} {x : Core} : Stays s (Machine.putCore t d c x) := ⟨hs.pending, hs.memWf⟩

theorem modCore {d c : Nat} {f : Core → Core} : Stays s (Machine.modCore t d c f) := ⟨hs.pending, hs.memWf⟩

theorem sendIrq {v : Nat} : Stays s (Machine.sendIrq t v) := ⟨hs.pending, hs.memWf⟩

theorem raise {code sev src ctx : Nat} {detail : BitVec 128} : Stays s (Machine.raise t code sev src ctx detail) :=
  ⟨hs.pending, hs.memWf⟩

theorem putCtx {c : Nat} {x : Ctx} : Stays s (Machine.putCtx t c x) := ⟨hs.pending, hs.memWf⟩

theorem modCtx {c : Nat} {f : Ctx → Ctx} : Stays s (Machine.modCtx t c f) := ⟨hs.pending, hs.memWf⟩

theorem modCmd {c seq : Nat} {f : Cmd → Cmd} : Stays s (Machine.modCmd t c seq f) := ⟨hs.pending, hs.memWf⟩

theorem modEng {d e : Nat} {f : Engine → Engine} : Stays s (Machine.modEng t d e f) := ⟨hs.pending, hs.memWf⟩

theorem modLaunch {c seq : Nat} {f : Launch → Launch} : Stays s (Machine.modLaunch t c seq f) := ⟨hs.pending, hs.memWf⟩

theorem launchErr {c seq status : Nat} {detail : BitVec 64} : Stays s (Machine.launchErr t c seq status detail) :=
  ⟨hs.pending, hs.memWf⟩

theorem modSlot {c seq i : Nat} {f : Slot → Slot} : Stays s (Machine.modSlot t c seq i f) := ⟨hs.pending, hs.memWf⟩

theorem modStream {c seq i : Nat} {f : Machine.Stream → Machine.Stream} : Stays s (Machine.modStream t c seq i f) :=
  ⟨hs.pending, hs.memWf⟩

theorem elWrite {d e a : Nat} {bs : List Byte} : Stays s (Machine.elWrite t d e a bs) :=
  .ite (hs.near (wf_memWriteN _ _ _)) (hs.ostore (wf_memWriteN _ _ _))

theorem bankError {md bank row word : Nat} {ue : Bool} : Stays s (Machine.bankError t md bank row word ue) :=
  hs.fput.fsat.fput.fput.fput.fput

/-! ### Machine/Visible.lean -/

theorem noteNear {c q : Nat} {w : Agent} {d e a n : Nat} {group : Option Nat} {done rising : Bool} :
    Stays s (Machine.noteNear t c q w d e a n group done rising) :=
  ⟨hs.pending, hs.memWf⟩

theorem observe {a : Agent} {c q : Nat} {may : Fog → Bool} : Stays s (Machine.observe t a c q may) := by
  unfold Machine.observe
  split
  · exact hs
  · exact hs.ite hs.update.modLaunch

theorem noteRelease {c q : Nat} {a : Agent} {tok scope value : Nat} : Stays s (Machine.noteRelease t c q a tok scope value) :=
  ⟨hs.pending, hs.memWf⟩

theorem acquireWait {a : Agent} {value : Nat} : Stays s (Machine.acquireWait t a value) := by
  unfold Machine.acquireWait
  split
  · exact hs.modLaunch
  · exact hs

theorem acquireRemote {a : Agent} : Stays s (Machine.acquireRemote t a) := by
  unfold Machine.acquireRemote
  split
  · exact hs.drawBelow.modLaunch
  · exact hs

/-! ### Machine/Matrix.lean -/

theorem raiseAcc {d e : Nat} {y : OvfTag} : Stays s (Machine.raiseAcc t d e y) := by
  unfold Machine.raiseAcc
  dsimp only
  split
  · split
    · exact hs.fsat
    · exact hs.fsat.fput.modEng
  · split
    · exact hs.fsat
    · exact hs.fsat.fput.modEng
  · exact hs

theorem putEntry {d e a v : Nat} {tag : Option OvfTag} : Stays s (Machine.putEntry t d e a v tag) := by
  unfold Machine.putEntry
  exact hs.elWrite.modEng

theorem accFloat {d e a : Nat} {add : Bool} {r : Machine.Num × Option OvfTag} : Stays s (Machine.accFloat t d e a add r) := by
  unfold Machine.accFloat
  dsimp only
  split
  · split
    · exact hs.raiseAcc.putEntry
    · exact hs.putEntry
  · split
    · split
      · exact hs.raiseAcc.raiseAcc.putEntry
      · exact hs.raiseAcc.putEntry
    · split
      · exact hs.raiseAcc.putEntry
      · exact hs.putEntry

theorem accInt {d e a : Nat} {add : Bool} {v : Int} : Stays s (Machine.accInt t d e a add v) :=
  hs.putEntry.ite (hs.raiseAcc.putEntry.ite hs.putEntry)

theorem putRowSums {d e acc : Nat} {add : Bool} {sums : List Int} : Stays s (Machine.putRowSums t d e acc add sums) :=
  ⟨hs.pending, hs.memWf⟩

theorem putWriter {d e : Nat} {w : Machine.Writer} : Stays s (Machine.putWriter t d e w) := ⟨hs.pending, hs.memWf⟩

theorem runFloat {d e acc stride : Nat} {add : Bool} {av wv : List (List El)} :
    Stays s (Machine.runFloat t d e acc stride add av wv) :=
  hs.foldl fun _ _ hu => hu.foldl fun _ _ hv => hv.accFloat

theorem runInt {d e acc stride : Nat} {add : Bool} {av wv : List (List Int)} :
    Stays s (Machine.runInt t d e acc stride add av wv) :=
  hs.foldl fun _ _ hu => hu.foldl fun _ _ hv => hv.accInt

theorem runZero {d e acc stride rows cols : Nat} {add integer : Bool} :
    Stays s (Machine.runZero t d e acc stride rows cols add integer) :=
  (hs.foldl fun _ _ hu => hu.accInt.ite hu.accFloat).putRowSums.ite
    (hs.foldl fun _ _ hu => hu.accInt.ite hu.accFloat).putRowSums.putWriter

theorem runPass {d e acc stride : Nat} {add : Bool} {a w : Tile} {aEls wEls : List (List El)} {aInts wInts : List (List Int)} :
    Stays s (Machine.runPass t d e acc stride add a w aEls wEls aInts wInts) :=
  (hs.runInt.ite hs.runFloat).putRowSums.putWriter

theorem runSquare {d e acc : Nat} {add : Bool} {w a : Tile} : Stays s (Machine.runSquare t d e acc add w a) := hs.runPass

theorem runRibbon {d e acc n : Nat} {add : Bool} {a w : Tile} : Stays s (Machine.runRibbon t d e acc n add a w) := hs.runPass

/-! ### Machine/Drain.lean -/

theorem elPut {d e a : Nat} {bs : List Byte} : Stays s (Machine.elPut t d e a bs) := hs.elWrite.ite hs.elWrite.modEng

theorem elNote {d e a n : Nat} {group : Option Nat} : Stays s (Machine.elNote t d e a n group) := by
  unfold Machine.elNote
  split
  · exact hs.noteNear.ite hs
  · exact hs

theorem elStore {d e a : Nat} {bs : List Byte} {group : Option Nat} : Stays s (Machine.elStore t d e a bs group) := hs.elNote.elPut

theorem modScale {c seq i : Nat} {f : ScaleSlot → ScaleSlot} : Stays s (Machine.modScale t c seq i f) := ⟨hs.pending, hs.memWf⟩

theorem addSats {d e c seq : Nat} {n : List (Nat × Nat)} : Stays s (Machine.addSats t d e c seq n) :=
  hs.foldl fun _ _ hu => hu.fsat.modLaunch.modScale

theorem addWrote {c seq : Nat} {w : List (Nat × Int)} : Stays s (Machine.addWrote t c seq w) := hs.foldl fun _ _ hu => hu.modScale

theorem emit {d e a : Nat} {bs : List Byte} {group : Nat} : Stays s (Machine.emit t d e a bs group) := by
  unfold Machine.emit
  split
  · exact hs.elStore
  · exact hs.modEng.fput.fhigh

theorem drainCounts {d e c seq : Nat} {sats : List (Nat × Nat)} {wrote : List (Nat × Int)} :
    Stays s (Machine.drainCounts t d e c seq sats wrote) := by
  unfold Machine.drainCounts
  split
  · exact hs.addSats.addWrote
  · exact hs.modEng

theorem noteDelayed {d e : Nat} {x : Delayed} : Stays s (Machine.noteDelayed t d e x) := by
  unfold Machine.noteDelayed
  split
  · exact (hs.fput.ite hs).modEng
  · split
    · exact hs.fput
    · exact hs

theorem drainBytes {d e dst ofmt : Nat} {q : Drained} : Stays s (Machine.drainBytes t d e dst ofmt q) := hs.emit.ite hs.emit.emit

theorem runDrain {d e : Nat} {l : Launch} {dequant pitchW axisCol : Bool} {mode dst acc ofmt blk slot rows cols k : Nat} :
    Stays s (Machine.runDrain t d e l dequant pitchW axisCol mode dst acc ofmt blk slot rows cols k) := by
  unfold Machine.runDrain
  split
  · exact hs
  · split
    · exact hs.drainBytes.ite hs.drainBytes.drainCounts
    · exact hs.drainBytes.noteDelayed.modScale.drainCounts

theorem runInject {d e : Nat} : Stays s (Machine.runInject t d e) := hs.ite hs.fput.noteDelayed

theorem writeLine {d e group line : Nat} {cells : SMap Byte} : Stays s (Machine.writeLine t d e group line cells) :=
  hs.elNote.foldl fun _ _ hu => hu.elPut

theorem writeCells {d e group lo hi : Nat} {cells : SMap Byte} : Stays s (Machine.writeCells t d e group lo hi cells) :=
  hs.foldl fun _ _ hu => hu.writeLine

theorem dropRegion {d e : Nat} : Stays s (Machine.dropRegion t d e) := hs.modEng.fput.fput.fput.fput.fput.fput.fput.fput

/-! ### Machine/Heliostat.lean -/

theorem setPair {d p : Nat} : Stays s (Machine.setPair t d p) := hs.ite hs.fput.fput.fput.fput

theorem setDiePairs {d : Nat} : Stays s (Machine.setDiePairs t d) := hs.foldl fun _ _ hu => hu.setPair

theorem setAllPairs : Stays s (Machine.setAllPairs t) := hs.foldl fun _ _ hu => hu.setDiePairs

theorem rechoose {k : Nat} : Stays s (Machine.rechoose t k) := by
  unfold Machine.rechoose
  split
  · exact hs
  · exact hs.update.foldl fun _ _ hu => hu.setDiePairs

theorem rampTick : Stays s (Machine.rampTick t) := hs.update.ite hs.update.setAllPairs.fput

theorem pairOn {d p : Nat} : Stays s (Machine.pairOn t d p) := hs.fput.fsat.setPair.ite hs

theorem learnPhase {eph : BitVec 64} {phase : Nat} {m : PhaseMeas} : Stays s (Machine.learnPhase t eph phase m) :=
  hs.ite hs.update.fput

theorem endPhase {d e : Nat} {m : PhaseMeas} : Stays s (Machine.endPhase t d e m) := by
  unfold Machine.endPhase
  split
  · exact hs.learnPhase
  · exact hs

/-! ### Machine/Fabric.lean -/

theorem putFab {p : Nat} {x : FabricPort} : Stays s (Machine.putFab t p x) := ⟨hs.pending, hs.memWf⟩

theorem hopLeave {p : Nat} : Stays s (Machine.hopLeave t p) := by
  unfold Machine.hopLeave
  dsimp only
  split
  · exact hs
  · exact hs.putFab

theorem hopSend {p kind : Nat} {f : Frame} : Stays s (Machine.hopSend t p kind f) :=
  hs.putFab.ite (hs.putFab.drawBelow.ite hs.putFab.drawBelow.hopLeave)

theorem hopAck {p : Nat} : Stays s (Machine.hopAck t p) := ⟨hs.pending, hs.memWf⟩

theorem fabricSend {u : State} {kind dev tag : Nat} {arg : BitVec 64} {payload : List Byte}
    (hu : Machine.fabricSend t kind dev tag arg payload = some u) : Stays s u := by
  obtain ⟨w, -, hw⟩ := Option.bind_eq_some_iff.1 hu
  dsimp only at hw
  split at hw
  · rw [← Option.some.inj hw]
    exact hs.hopSend
  · cases hw

theorem fabricRequest {u : State} {kind dev addr : Nat} {arg : BitVec 64} {req : Requester} {payload : List Byte}
    {detail : BitVec 64} (hu : Machine.fabricRequest t kind dev addr arg req payload detail = some u) : Stays s u := by
  obtain ⟨v, hv, rfl⟩ := Option.map_eq_some_iff.1 hu
  exact (hs.fabricSend hv).update

theorem dropGrants {req : Requester} : Stays s (Machine.dropGrants t req) := ⟨hs.pending, hs.memWf⟩

theorem dropRemotes {req : Requester} : Stays s (Machine.dropRemotes t req) := ⟨hs.pending, hs.memWf⟩

theorem putFctr {i : Nat} {x : FabCtr} : Stays s (Machine.putFctr t i x) := ⟨hs.pending, hs.memWf⟩

end Sys2Proof.Proofs.Stays
end

section
/-! Memory controllers, homes, host cores, tokens and translation: every operation keeps the queue and the form of the memories. -/

namespace Sys2Proof.Proofs.Stays

open Sys2Proof.Machine Sys2Proof.Safety Sys2Proof.Laws

variable {s t : State} (hs : Stays s t)
include hs

/-! ### Machine/Memctl.lean -/

theorem lastError {c : Nat × Bool × Nat} {kind line : Nat} : Stays s (Machine.lastError t c kind line) :=
  hs.fput.fput.fput.ite hs.fput.fput.fput

theorem ceRate {c : Nat × Bool × Nat} : Stays s (Machine.ceRate t c) := hs.update.raise.ite hs.update

theorem memCe {line : Nat} : Stays s (Machine.memCe t line) := by
  unfold Machine.memCe
  split
  · exact hs
  · exact hs.fsat.lastError.ceRate

theorem poisonLine {line : Nat} : Stays s (Machine.poisonLine t line) := hs.mem (wf_memClear _ _ _)

theorem memUe {line : Nat} : Stays s (Machine.memUe t line) := by
  unfold Machine.memUe
  split
  · exact hs.poisonLine
  · exact hs.fsat.lastError.poisonLine.raise

theorem memEcc {line : Nat} {e : Ecc} : Stays s (Machine.memEcc t line e) := by
  unfold Machine.memEcc
  split
  · exact hs.notePoison
  · split
    · exact hs.update
    · exact hs.update.memCe
    · exact hs.update.memUe

theorem memFetch {line : Nat} {e : Ecc} : Stays s (Machine.memFetch t line e).2.2 := by
  unfold Machine.memFetch
  split
  · exact hs
  · exact hs.memEcc

theorem doDdrChannelFailed {die ch : Nat} : Stays s (Machine.doDdrChannelFailed die ch t) := hs.ite hs.fput.raise

theorem doRecalibration {unit : Nat} {forced : Bool} : Stays s (Machine.doRecalibration unit forced t) := by
  unfold Machine.doRecalibration
  split
  · exact hs
  · exact hs.ite ((hs.ite hs.update.fsat).ite (hs.ite hs.update))

theorem scrubEnd {c : Nat × Bool × Nat} : Stays s (Machine.scrubEnd t c) := (hs.update.fsat.ite hs.update).fput

theorem doPatrolScrub {line : Nat} {e : Ecc} {passEnd : Bool} : Stays s (Machine.doPatrolScrub line e passEnd t) := by
  unfold Machine.doPatrolScrub
  split
  · exact hs
  · exact hs.memEcc.scrubEnd.ite hs.memEcc

/-! ### Machine/Coherence.lean -/

theorem showHome {h : Nat} : Stays s (Machine.showHome t h) := ⟨hs.pending, hs.memWf⟩

theorem countServed {h code : Nat} : Stays s (Machine.countServed t h code) := hs.fsat.ite (hs.fsat.ite hs.fsat)

theorem mapHolder {holder line : Nat} {f : CacheLine → Option CacheLine} : Stays s (Machine.mapHolder t holder line f) :=
  hs.update.update.ite hs.update

theorem cacheVictim {k : CacheKind} {l : List Nat} {line : Nat} : Stays s (Machine.cacheVictim t k l line).2 := by
  unfold Machine.cacheVictim
  dsimp only
  split
  · exact hs
  · exact hs.draw

theorem fillL1 {d c line : Nat} {code : Bool} : Stays s (Machine.fillL1 t d c line code) := hs.ite hs.cacheVictim.modCore

theorem putL3 {d : Nat} {c : CacheLine} : Stays s (Machine.putL3 t d c) := hs.cacheVictim.update

theorem putLink {d : Nat} {c : CacheLine} : Stays s (Machine.putLink t d c) := hs.cacheVictim.update

theorem sendProbe {home line : Nat} {inval : Bool} {holder : Nat} : Stays s (Machine.sendProbe t home line inval holder) :=
  ⟨hs.pending, hs.memWf⟩

theorem sendResp {m : RespMsg} : Stays s (Machine.sendResp t m) := ⟨hs.pending, hs.memWf⟩

theorem sendData {r : CohReq} {st : Mesi} {poison : Bool} {data : List Byte} : Stays s (Machine.sendData t r st poison data) :=
  ⟨hs.pending, hs.memWf⟩

theorem sendReturn {r : CohReq} {poison : Bool} {data : List Byte} : Stays s (Machine.sendReturn t r poison data) :=
  ⟨hs.pending, hs.memWf⟩

theorem leaveL2 {d : Nat} {x : CacheLine} : Stays s (Machine.leaveL2 t d x) := hs.sendResp.ite (hs.drawBelow.ite hs.drawBelow.putL3)

theorem putL2 {d c : Nat} {x : CacheLine} : Stays s (Machine.putL2 t d c x) := by
  unfold Machine.putL2
  dsimp only
  split
  · exact hs.cacheVictim.modCore
  · exact hs.cacheVictim.modCore.leaveL2

theorem stashPut {target line : Nat} : Stays s (Machine.stashPut t target line) := by
  unfold Machine.stashPut
  split
  · exact hs.putL2
  · exact hs.putL3
  · exact hs.putLink

theorem answerPoison {r : CohReq} : Stays s (Machine.answerPoison t r) := hs.sendData.ite hs.sendReturn

theorem openTxn {h : Nat} {r : CohReq} : Stays s (Machine.openTxn t h r).1 :=
  hs.countServed.fsat.modHome.fhigh.foldl fun _ _ hu => hu.sendProbe

theorem openEvict {h : Nat} {v : DirEntry} {r : CohReq} : Stays s (Machine.openEvict t h v r) :=
  (hs.fsat.fsat.ite hs.fsat).modHome.fhigh.foldl fun _ _ hu => hu.sendProbe

theorem toRetry {h : Nat} {r : CohReq} : Stays s (Machine.toRetry t h r) := hs.fsat.modHome.ite hs.modHome

theorem setEntry {h line : Nat} {em : Bool} {v : BitVec 6} : Stays s (Machine.setEntry t h line em v) := ⟨hs.pending, hs.memWf⟩

theorem finishReq {h : Nat} {y : Txn} : Stays s (Machine.finishReq t h y) := by
  unfold Machine.finishReq
  refine .ite ?_ (.ite ?_ (.ite hs.setEntry.sendData (.ite hs.memFetch.setEntry.sendReturn (.ite ?_ ?_))))
  · exact hs.memFetch.setEntry.sendData.ite (hs.memFetch.setEntry.sendData.ite hs.memFetch.setEntry.sendData)
  · exact hs.memFetch.setEntry.sendData.ite hs.memFetch.setEntry.sendData
  · by_cases hm : y.req.mask = BitVec.allOnes 64
    · simp only [hm, if_true]
      exact hs.setEntry.linePut.sendReturn.ite
        (hs.setEntry.linePut.sendReturn.stashPut.setEntry.fsat.ite hs.setEntry.linePut.sendReturn.fsat)
    · simp only [hm, if_false]
      exact hs.setEntry.memFetch.linePut.sendReturn.ite
        (hs.setEntry.memFetch.linePut.sendReturn.stashPut.setEntry.fsat.ite hs.setEntry.memFetch.linePut.sendReturn.fsat)
  · exact hs.setEntry.memFetch.sendReturn.ite hs.setEntry.memFetch.memPut.sendReturn

theorem closeReq {h : Nat} {y : Txn} : Stays s (Machine.closeReq t h y) := hs.modHome.finishReq

theorem serveReq {h : Nat} {r : CohReq} : Stays s (Machine.serveReq t h r) := by
  unfold Machine.serveReq
  dsimp only
  split
  · split
    · exact hs.openEvict
    · exact hs.toRetry
  · exact hs.openTxn.closeReq.ite hs.openTxn

theorem arriveReq {h : Nat} {r : CohReq} : Stays s (Machine.arriveReq t h r) :=
  hs.ite (hs.modHome.showHome.ite hs.serveReq.showHome)

omit hs in
theorem serveQueue {s t : State} (hs : Stays s t) {n m k : Nat} : Stays s (Machine.serveQueue n t m k) := by
  unfold Machine.serveQueue
  dsimp only
  split
  · exact hs
  · split
    · exact hs
    · split
      · exact hs
      · exact hs.putHome.serveReq.serveQueue

theorem serveNext {h line : Nat} : Stays s (Machine.serveNext t h line) := hs.serveQueue.showHome

theorem closeTxn {h : Nat} {y : Txn} : Stays s (Machine.closeTxn t h y) :=
  hs.modHome.setEntry.serveReq.serveNext.serveNext.ite hs.closeReq.serveNext

theorem doProbe {holder line : Nat} : Stays s (Machine.doProbe holder line t) := by
  unfold Machine.doProbe
  split
  · exact hs
  · exact hs.update.sendResp.ite (hs.ite hs.update.mapHolder.sendResp)

theorem discardLate {h : Nat} : Stays s (Machine.discardLate t h) := ⟨hs.pending, hs.memWf⟩

theorem answered {h : Nat} {y : Txn} {holder : Nat} {kept : Bool} : Stays s (Machine.answered t h y holder kept) :=
  hs.closeTxn.ite hs.modHome

theorem wbPut {h line : Nat} {d : List Byte} : Stays s (Machine.wbPut t h line d) := hs.fsat.ite hs.fsat.linePut

theorem recallPut {h : Nat} {y : Txn} {line : Nat} {d : List Byte} : Stays s (Machine.recallPut t h y line d) := hs.ite hs.wbPut

theorem takeResp {m : RespMsg} : Stays s (Machine.takeResp t m) := by
  unfold Machine.takeResp
  dsimp only
  split
  · exact hs.update.discardLate
  · split
    · exact hs.update.wbPut
    · exact (hs.update.wbPut.ite hs.update.wbPut.setEntry).ite hs.update.discardLate
    · exact hs.update.recallPut.answered
    · exact hs.update.discardLate
    · exact hs.update.fsat.answered
    · exact hs.update.discardLate
    · exact hs.update.answered
    · exact hs.update.discardLate

theorem doWb {home line holder : Nat} : Stays s (Machine.doWb home line holder t) := by
  unfold Machine.doWb
  split
  · exact hs.takeResp.showHome
  · split
    · exact hs
    · split
      · exact hs
      · exact hs.mapHolder.sendResp.takeResp.showHome

theorem doNotPresent {home line holder : Nat} : Stays s (Machine.doNotPresent home line holder t) := by
  unfold Machine.doNotPresent
  split
  · exact hs
  · exact hs.takeResp.showHome

theorem doProbeResponse {home line holder : Nat} : Stays s (Machine.doProbeResponse home line holder t) := by
  unfold Machine.doProbeResponse
  split
  · exact hs
  · exact hs.takeResp.showHome

theorem doDirectoryRetry {home : Nat} : Stays s (Machine.doDirectoryRetry home t) := by
  unfold Machine.doDirectoryRetry
  dsimp only
  split
  · exact hs
  · exact (hs.putHome.ite hs.putHome.fsat).serveReq.serveNext

theorem doHomeTimeout {home line : Nat} : Stays s (Machine.doHomeTimeout home line t) := by
  unfold Machine.doHomeTimeout
  split
  · exact hs
  · exact ((hs.poisonLine.setEntry.modHome.update.ite hs.poisonLine.setEntry.modHome.update.answerPoison).foldl fun _ _ hu =>
      hu.answerPoison).fput.fsat.fput.fput.fput.raise.serveReq.serveNext.ite
      ((hs.poisonLine.setEntry.modHome.update.ite hs.poisonLine.setEntry.modHome.update.answerPoison).foldl fun _ _ hu =>
      hu.answerPoison).fput.fsat.fput.fput.fput.raise.showHome

omit hs in
theorem settleReq {s t : State} (hs : Stays s t) {n m k : Nat} : Stays s (Machine.settleReq n t m k) := by
  unfold Machine.settleReq
  dsimp only
  split
  · exact hs
  · split
    · exact hs.doProbe.settleReq
    · split
      · exact hs.takeResp.showHome.settleReq
      · exact hs

/-! ### Machine/CoreMem.lean -/

theorem coreErr {d c kind addr : Nat} : Stays s (Machine.coreErr t d c kind addr) := ⟨hs.pending, hs.memWf⟩

theorem loadError {d c kind addr : Nat} : Stays s (Machine.loadError t d c kind addr) := ⟨hs.pending, hs.memWf⟩

theorem storeErr {d c kind addr : Nat} : Stays s (Machine.storeErr t d c kind addr) := hs.coreErr.modCore.ite hs.coreErr.modCore

theorem installLine {d c : Nat} {m : DataMsg} : Stays s (Machine.installLine t d c m) := (hs.mapHolder.ite hs).putL2

theorem takeData {d c : Nat} {m : DataMsg} : Stays s (Machine.takeData t d c m).2 := by
  unfold Machine.takeData
  split
  · exact hs.update
  · exact hs.update.installLine

theorem l3Fill {u : State} {d c line : Nat} {own : Bool} (hu : Machine.l3Fill t d c line own = some u) : Stays s u := by
  unfold Machine.l3Fill at hu
  split at hu
  · cases hu
  · split at hu
    · cases hu
    · rw [← Option.some.inj hu]
      exact hs.update.putL2

theorem acquire {d c line : Nat} {own : Bool} : Stays s (Machine.acquire t d c line own).2 := by
  unfold Machine.acquire
  dsimp only
  split
  · exact hs
  · split
    · exact hs.l3Fill ‹_›
    · split
      · exact hs
      · split
        · exact hs.arriveReq.settleReq.takeData
        · exact hs.arriveReq.settleReq

theorem writeL2 {d c a : Nat} {bs : List Byte} : Stays s (Machine.writeL2 t d c a bs) := by
  unfold Machine.writeL2
  split
  · exact hs
  · exact hs.putL2.fillL1

theorem missStore {d c : Nat} {b : BufStore} : Stays s (Machine.missStore t d c b) := ⟨hs.pending, hs.memWf⟩

theorem performStore {d c : Nat} {b : BufStore} : Stays s (Machine.performStore t d c b).2 := by
  unfold Machine.performStore
  split
  · exact hs.storeErr
  · split
    · exact (hs.acquire.snd ‹_›).writeL2
    · exact (hs.acquire.snd ‹_›).storeErr
    · exact (hs.acquire.snd ‹_›).missStore

omit hs in
theorem drainList {s t : State} (hs : Stays s t) {p : BufStore → Bool} {l : List BufStore} {n m : Nat} :
    Stays s (Machine.drainList p l t n m).2 := by
  unfold Machine.drainList
  dsimp only
  split
  · exact hs
  · split
    · exact hs.drainList
    · split <;> exact hs.performStore.drainList

theorem drainStores {d c : Nat} {p : BufStore → Bool} : Stays s (Machine.drainStores t d c p) := by
  unfold Machine.drainStores
  exact hs.drainList.modCore

theorem retireStores {d c : Nat} : Stays s (Machine.retireStores t d c) := ⟨hs.pending, hs.memWf⟩

theorem bindLoad {d c a n : Nat} {line : List Byte} : Stays s (Machine.bindLoad t d c a n line) := ⟨hs.pending, hs.memWf⟩

theorem bindLine {d c a n : Nat} {own : BitVec 64 × List Byte} : Stays s (Machine.bindLine t d c a n own) := by
  unfold Machine.bindLine
  split
  · exact hs.fillL1.bindLoad
  · exact hs

theorem lineLoad {d c a n : Nat} {own : BitVec 64 × List Byte} : Stays s (Machine.lineLoad t d c a n own) := by
  unfold Machine.lineLoad
  split
  · exact (hs.acquire.snd ‹_›).bindLine
  · exact (hs.acquire.snd ‹_›).loadError
  · exact (hs.acquire.snd ‹_›).modCore

theorem normalLoad {d c a n : Nat} : Stays s (Machine.normalLoad t d c a n) := by
  unfold Machine.normalLoad
  dsimp only
  split
  · exact hs.bindLoad
  · split
    · exact hs.loadError
    · split
      · exact hs.drawBelow.modCore.ite hs.drawBelow.lineLoad
      · exact hs.modCore.ite hs.lineLoad

theorem retireFor {d c line : Nat} : Stays s (Machine.retireFor t d c line) := ⟨hs.pending, hs.memWf⟩

theorem deliver {d c line : Nat} : Stays s (Machine.deliver t d c line) := by
  unfold Machine.deliver
  split
  · split
    · exact hs
    · exact ((hs.takeData.modCore.foldl fun _ _ hu => hu.ite (hu.loadError.ite hu.bindLine)).ite
        (hs.takeData.modCore.foldl fun _ _ hu => hu.ite (hu.loadError.ite hu.bindLine)).modCore.storeErr).ite
        ((hs.takeData.modCore.foldl fun _ _ hu => hu.ite (hu.loadError.ite hu.bindLine)).ite
        (hs.takeData.modCore.foldl fun _ _ hu => hu.ite (hu.loadError.ite hu.bindLine)).retireFor.drainStores)
  · split
    · exact hs
    · exact hs.update.ite hs.update.putLink

omit hs in
theorem settleLine {s t : State} (hs : Stays s t) {n m : Nat} : Stays s (Machine.settleLine n t m) := by
  unfold Machine.settleLine
  dsimp only
  split
  · exact hs
  · split
    · exact hs.doProbe.settleLine
    · split
      · exact hs.takeResp.showHome.settleLine
      · split
        · exact (hs.deliver.ite hs.deliver).settleLine
        · split
          · exact hs.takeResp.showHome.settleLine
          · exact hs

theorem ncReq {r : CohReq} : Stays s (Machine.ncReq t r).2 := by
  unfold Machine.ncReq
  dsimp only
  split
  · split
    · exact hs.settleLine.arriveReq.settleLine.update
    · exact hs.settleLine.arriveReq.settleLine
  · exact hs.settleLine.arriveReq.settleLine

theorem ncReadLine {hub line : Nat} : Stays s (Machine.ncReadLine hub t line) := hs.ite hs.ncReq

theorem ncRead {a n hub : Nat} : Stays s (Machine.ncRead t a n hub).2 := hs.foldl fun _ _ hu => hu.ncReadLine

theorem ncFetch {a n hub : Nat} : Stays s (Machine.ncFetch t a n hub).2 := hs.ncRead

theorem ncWrite1 {a : Nat} {bs : List Byte} : Stays s (Machine.ncWrite1 t a bs).2 := hs.ncReq

theorem ncWrite {a : Nat} {bs : List Byte} : Stays s (Machine.ncWrite t a bs).2 := hs.foldlSnd fun _ _ hu => hu.ncWrite1

theorem ncRmw {line : Nat} {f : List Byte → List Byte} : Stays s (Machine.ncRmw t line f).2 := by
  unfold Machine.ncRmw
  dsimp only
  split
  · exact hs.ncReq
  · exact hs.ncReq.memPut

theorem recPut {a : Nat} {bs : List Byte} {target : Nat} : Stays s (Machine.recPut t a bs target).2 := hs.ncReq

theorem leaveNt {d c : Nat} {l : NtLine} : Stays s (Machine.leaveNt t d c l) := by
  unfold Machine.leaveNt
  dsimp only
  split
  · exact hs.modCore.storeErr
  · exact hs.modCore.ncReq.storeErr.ite hs.modCore.ncReq

theorem takeNt {d c : Nat} : Stays s (Machine.takeNt t d c) := hs.update.foldl fun _ _ hu => hu.storeErr.ite hu

theorem drainNt {d c : Nat} : Stays s (Machine.drainNt t d c) := hs.foldl fun _ _ hu => hu.leaveNt

theorem leaveLine {d c line : Nat} : Stays s (Machine.leaveLine t d c line) := by
  unfold Machine.leaveLine
  split
  · exact hs.leaveNt
  · exact hs

theorem dependsOn {d c : Nat} : Stays s (Machine.dependsOn t d c).2 := by
  unfold Machine.dependsOn
  split
  · exact hs.draw
  · exact hs

theorem normalStore {d c a n : Nat} {v : BitVec 64} : Stays s (Machine.normalStore t d c a n v) := by
  unfold Machine.normalStore
  exact hs.leaveLine.dependsOn.drawBelow.modCore

theorem normalStnt {d c a n : Nat} {v : BitVec 64} : Stays s (Machine.normalStnt t d c a n v).2 := by
  unfold Machine.normalStnt
  dsimp only
  split
  · split
    · exact hs.retireStores.drainStores.dependsOn
    · split
      · exact (hs.retireStores.drainStores.dependsOn.leaveNt.ite hs.retireStores.drainStores.dependsOn).putCore.leaveNt.ite
          (hs.retireStores.drainStores.dependsOn.leaveNt.ite hs.retireStores.drainStores.dependsOn).putCore
      · exact hs.retireStores.drainStores.dependsOn.putCore.leaveNt.ite hs.retireStores.drainStores.dependsOn.putCore
  · split
    · exact hs.dependsOn
    · split
      · exact (hs.dependsOn.leaveNt.ite hs.dependsOn).putCore.leaveNt.ite (hs.dependsOn.leaveNt.ite hs.dependsOn).putCore
      · exact hs.dependsOn.putCore.leaveNt.ite hs.dependsOn.putCore

theorem takeStoreError {d c : Nat} : Stays s (Machine.takeStoreError t d c) := ⟨hs.pending, hs.memWf⟩

theorem drainAll {d c : Nat} : Stays s (Machine.drainAll t d c) := hs.retireStores.drainStores.drainNt.takeNt

theorem doExceptionEntry {d c : Nat} : Stays s (Machine.doExceptionEntry d c t) := ⟨hs.pending, hs.memWf⟩

theorem doStoreErrorTimeout {d c : Nat} : Stays s (Machine.doStoreErrorTimeout d c t) := ⟨hs.pending, hs.memWf⟩

theorem freeBytes : Stays s (Machine.freeBytes t).2 := hs.foldlSnd fun _ _ hu => hu.draw

theorem freeLine {line : Nat} : Stays s (Machine.freeLine t line) := hs.freeBytes.ncWrite1

theorem doCoreFarTimeout {d c : Nat} : Stays s (Machine.doCoreFarTimeout d c t) := by
  unfold Machine.doCoreFarTimeout
  dsimp only
  split
  · exact hs.modCore.loadError
  · exact hs.modCore.loadError
  · split
    · exact hs
    · exact hs.modCore.freeLine.storeErr

theorem flushCore {d c : Nat} : Stays s (Machine.flushCore t d c) := by
  unfold Machine.flushCore
  exact (hs.foldl fun _ _ hu => hu.wbPut.modHome.ite hu).modCore

theorem forceDrain {d c : Nat} : Stays s (Machine.forceDrain t d c) := by
  unfold Machine.forceDrain
  refine (hs.drainAll.foldl fun _ _ hu => ?_).modCore
  split
  · exact hu.storeErr
  · exact hu.ncWrite1.storeErr.ite hu.ncWrite1

/-! ### Machine/Records.lean -/

theorem recWrite {a : Nat} {bs : List Byte} : Stays s (Machine.recWrite t a bs) := hs.recPut

theorem recStash {die a : Nat} {bs : List Byte} : Stays s (Machine.recStash t die a bs) := hs.recPut

theorem traceRec {e : Event} : Stays s (Machine.traceRec t e) := hs.ite (hs.recWrite.update.fput.ite hs.recWrite.update)

theorem traceLaunch {ctx seq src : Nat} : Stays s (Machine.traceLaunch t ctx seq src) := hs.traceRec

theorem ctxEvent {c code sev : Nat} {detail : BitVec 128} : Stays s (Machine.ctxEvent t c code sev detail) :=
  hs.putCtx.ite (hs.recStash.putCtx.sendIrq.ite hs.recStash.putCtx)

theorem cplRecord {c : Nat} {x : Ctx} {b : List Byte} : Stays s (Machine.cplRecord t c x b) := by
  unfold Machine.cplRecord
  split
  · exact hs.ctxEvent
  · exact hs.recStash

theorem complete {c seq status : Nat} {detail : BitVec 64} : Stays s (Machine.complete t c seq status detail) := by
  unfold Machine.complete
  split
  · exact hs
  · exact hs.cplRecord.modCtx.sendIrq.ite hs.cplRecord.modCtx

/-! ### Machine/Tokens.lean -/

theorem modAgent {a : Agent} {f : Slot → Slot} {g : Machine.Stream → Machine.Stream} : Stays s (Machine.modAgent t a f g) := by
  unfold Machine.modAgent
  split
  · split
    · exact hs.modSlot
    · exact hs
  · split
    · exact hs.modStream
    · exact hs

theorem advanceAgent {a : Agent} : Stays s (Machine.advanceAgent t a) := hs.modAgent

theorem passWait {a : Agent} {value : Nat} : Stays s (Machine.passWait t a value) := hs.acquireWait.advanceAgent

theorem holdAgent {a : Agent} {h : Hold} : Stays s (Machine.holdAgent t a h) := hs.modAgent

theorem putTok {md : Nat} {x : TokUnit} : Stays s (Machine.putTok t md x) := ⟨hs.pending, hs.memWf⟩

theorem tokError {md ctx tok src : Nat} {finder timeout : Bool} : Stays s (Machine.tokError t md ctx tok src finder timeout) :=
  hs.fput.fsat.fput.fput.fput.fput.fput

theorem wakeWaits {md ctx seq tok value : Nat} : Stays s (Machine.wakeWaits t md ctx seq tok value) :=
  hs.putTok.foldl fun _ _ hu => hu.passWait

theorem wakeFabric {i : Nat} : Stays s (Machine.wakeFabric t i) := by
  unfold Machine.wakeFabric
  refine hs.putFctr.foldl fun _ _ hu => .ite ?_ (hu.getD fun _ hv => hu.fabricSend hv)
  split
  · exact hu.update.passWait
  · exact hu

theorem fabricAdd {u : State} {i amount : Nat} (hu : Machine.fabricAdd t i amount = some u) : Stays s u := by
  unfold Machine.fabricAdd at hu
  dsimp only at hu
  split at hu
  · cases hu
  · rw [← Option.some.inj hu]
    exact hs.putFctr.wakeFabric

theorem signalToken {l : Launch} {tok scope amount src : Nat} {finder : Bool} {a : Agent} :
    Stays s (Machine.signalToken t l tok scope amount src finder a) := by
  unfold Machine.signalToken
  split
  · exact hs
  · split
    · split
      · split
        · exact hs.noteRelease.fabricAdd ‹_›
        · exact hs.launchErr
      · split
        · exact hs.noteRelease.fabricRequest ‹_›
        · exact hs.launchErr
    · split
      · exact hs
      · exact hs.tokError.launchErr.ite hs.noteRelease.putTok.fsat.wakeWaits
    · exact hs

theorem arriveWait {md : Nat} {w : PendWait} : Stays s (Machine.arriveWait t md w) :=
  hs.passWait.ite (hs.putTok.fhigh.holdAgent.ite hs.putTok.fsat.holdAgent)

theorem waitToken {l : Launch} {tok value : Nat} {a : Agent} : Stays s (Machine.waitToken t l tok value a) := by
  unfold Machine.waitToken
  split
  · exact hs
  · split
    · split
      · exact hs.passWait.ite hs.putFctr.update.holdAgent
      · split
        · exact (hs.fabricRequest ‹_›).holdAgent
        · exact hs.launchErr
    · exact hs.fsat.arriveWait
    · exact hs

/-! ### Machine/Xlate.lean -/

theorem putQp {pd n : Nat} {q : Qp} : Stays s (Machine.putQp t pd n q) := ⟨hs.pending, hs.memWf⟩

theorem modQp {pd n : Nat} {f : Qp → Qp} : Stays s (Machine.modQp t pd n f) := by
  unfold Machine.modQp
  split
  · exact hs.putQp
  · exact hs

theorem qpRecord {pd n status flags seq : Nat} {detail : BitVec 64} :
    Stays s (Machine.qpRecord t pd n status flags seq detail) := by
  unfold Machine.qpRecord
  split
  · exact hs
  · exact hs.putQp
  · exact hs.recWrite.putQp.sendIrq.ite hs.recWrite.putQp

theorem ringFull {q : Qp} : Stays s (Machine.ringFull t q).2 := by
  unfold Machine.ringFull
  split
  · exact hs
  · exact hs.draw

omit hs in
theorem endPosted {s t : State} (hs : Stays s t) {n m k : Nat} : Stays s (Machine.endPosted n t m k) := by
  unfold Machine.endPosted
  dsimp only
  split
  · exact hs
  · split
    · exact hs
    · split
      · exact hs
      · exact hs.ite (hs.ringFull.ite hs.ringFull.qpRecord.modQp.endPosted)

theorem settleQp {pd n : Nat} : Stays s (Machine.settleQp t pd n) := by
  unfold Machine.settleQp
  split
  · exact hs
  · exact hs.endPosted

theorem qpError {pd n status : Nat} : Stays s (Machine.qpError t pd n status) := hs.modQp.settleQp

theorem nakPeer {pd n : Nat} {k : Nak} : Stays s (Machine.nakPeer t pd n k) := hs.modQp

theorem qpFail {pd n status : Nat} : Stays s (Machine.qpFail t pd n status) := hs.qpError.nakPeer.ite hs.modQp.settleQp

theorem unstall {r : Requester} : Stays s (Machine.unstall t r) := by
  unfold Machine.unstall
  split
  · split
    · split
      · exact hs.modSlot
      · exact hs
    · exact hs
  · split
    · exact (hs.fsat.ite hs).modStream
    · exact hs
  · exact hs.modCmd
  · exact hs.modCmd
  · exact hs.modQp

theorem stallReq {r : Requester} {page : Nat} : Stays s (Machine.stallReq t r page) := by
  unfold Machine.stallReq
  split
  · exact hs.holdAgent
  · exact hs.modAgent
  · exact hs.modCmd
  · exact hs.modCmd
  · exact hs.modQp

theorem finderError {h f c stream ctx status : Nat} {command : Bool} :
    Stays s (Machine.finderError t h f c stream ctx status command) := by
  unfold Machine.finderError
  dsimp only
  split
  · split
    · exact hs.fput.fsat.fput.fput.fput.fput.fput.fput.fsat.raise
    · exact hs.fput.fsat.fput.fput.fput.fput.fput.fput.fsat.raise
    · split
      · exact hs.fput.fsat.fput.fput.fput.fput.fput.fput.raise
      · exact hs.fsat.fput.fput.fput.fput.fput.fput.raise
  · split
    · exact hs.fput.fsat.fput.fput.fput.fput.fput.fput.fsat
    · exact hs.fput.fsat.fput.fput.fput.fput.fput.fput.fsat
    · split
      · exact hs.fput.fsat.fput.fput.fput.fput.fput.fput
      · exact hs.fsat.fput.fput.fput.fput.fput.fput

theorem failReq {r : Requester} {status record : Nat} : Stays s (Machine.failReq t r status record) := by
  unfold Machine.failReq
  split
  · exact hs.holdAgent.launchErr
  · exact hs.finderError.modAgent.launchErr
  · exact hs.modCmd
  · exact hs.modCmd
  · exact hs.qpFail

theorem charge {u : State} {c tier n : Nat} (hu : Machine.charge t c tier n = some u) : Stays s u := by
  unfold Machine.charge at hu
  dsimp only at hu
  split at hu
  · rw [← Option.some.inj hu]
    exact hs.putCtx
  · cases hu

theorem refund {c tier n : Nat} : Stays s (Machine.refund t c tier n) := ⟨hs.pending, hs.memWf⟩

theorem quotaRefused {c : Nat} : Stays s (Machine.quotaRefused t c) := ⟨hs.pending, hs.memWf⟩

theorem modPage {c va : Nat} {f : BitVec 64 → BitVec 64} : Stays s (Machine.modPage t c va f) := ⟨hs.pending, hs.memWf⟩

theorem writeHint {h c page : Nat} {w : BitVec 64} : Stays s (Machine.writeHint t h c page w) :=
  hs.fsat.ite (hs.recWrite.fput.sendIrq.ite hs.recWrite.fput)

theorem touchPage {c va lines : Nat} : Stays s (Machine.touchPage t c va lines) := by
  unfold Machine.touchPage
  split
  · exact hs
  · exact hs.drawBelow.modPage.writeHint.ite hs.drawBelow.modPage

theorem tlbFill {l : List Tlb} {y : Tlb} {ways : Nat} {rival : Tlb → Bool} : Stays s (Machine.tlbFill t l y ways rival).2 := by
  unfold Machine.tlbFill
  dsimp only
  split
  · exact hs
  · exact hs.draw

theorem putHubTlb {h : Nat} {l : List Tlb} : Stays s (Machine.putHubTlb t h l) := ⟨hs.pending, hs.memWf⟩

theorem putDieTlb {d : Nat} {l : List Tlb} : Stays s (Machine.putDieTlb t d l) := ⟨hs.pending, hs.memWf⟩

theorem hubInstall {h : Nat} {y : Tlb} : Stays s (Machine.hubInstall t h y) := hs.tlbFill.putHubTlb

theorem dieInstall {h d : Nat} {y : Tlb} : Stays s (Machine.dieInstall t h d y) := hs.tlbFill.putDieTlb.fsat

theorem tlbDrop {h : Nat} {p : Tlb → Bool} : Stays s (Machine.tlbDrop t h p) := by
  unfold Machine.tlbDrop
  dsimp only
  split
  · exact hs.putHubTlb
  · exact hs.putHubTlb.foldl fun _ _ hu => hu.putDieTlb

theorem writeFault {r : FaultRec} : Stays s (Machine.writeFault t r) := hs.recStash

theorem putFaults {l : List FaultRec} : Stays s (Machine.putFaults t l) := ⟨hs.pending, hs.memWf⟩

theorem openFault {c page cause level : Nat} {r : Requester} {write : Bool} :
    Stays s (Machine.openFault t c page cause level r write) :=
  (hs.tlbDrop.ite hs).writeFault.putFaults.fhigh.fsat.fput.stallReq.sendIrq.ite
    (hs.tlbDrop.ite hs).writeFault.putFaults.fhigh.fsat.fput.stallReq

theorem joinFault {f : FaultRec} {r : Requester} {write : Bool} : Stays s (Machine.joinFault t f r write) :=
  hs.writeFault.putFaults.fsat.stallReq

theorem raiseFault {c page cause level : Nat} {r : Requester} {write : Bool} :
    Stays s (Machine.raiseFault t c page cause level r write) := by
  unfold Machine.raiseFault
  split
  · exact hs.failReq
  · split
    · exact hs.joinFault
    · exact hs.fsat.failReq.ite (hs.openFault.ite hs.fsat.update.stallReq)

theorem withdraw {p : Requester → Bool} : Stays s (Machine.withdraw t p) := hs.update.putFaults.foldl fun _ _ hu => hu.writeFault

theorem askWalk {c va : Nat} {r : Requester} {write : Bool} : Stays s (Machine.askWalk t c va r write) :=
  hs.update.ite hs.update.fhigh

theorem waitWalk {r : Requester} {page : Nat} : Stays s (Machine.waitWalk t r page) := by
  unfold Machine.waitWalk
  split
  · exact hs
  · exact hs.stallReq

theorem countHits {h size : Nat} : Stays s (Machine.countHits t h size) := hs.drawBelow.fsat.fsat.ite hs.drawBelow.fsat

theorem countMiss {h c page : Nat} {r : Requester} {write : Bool} : Stays s (Machine.countMiss t h c page r write) := hs.ite hs.fsat

theorem lookTiered {c : Nat} {y : Tlb} {die : Option Nat} : Stays s (Machine.lookTiered t c y die) := by
  unfold Machine.lookTiered
  split
  · exact hs.countHits.ite hs.hubInstall.fsat
  · exact hs.ite (hs.countHits.ite hs.hubInstall.fsat).dieInstall

theorem countHeld {h : Nat} {r : Requester} {page : Nat} : Stays s (Machine.countHeld t h r page) := hs.ite hs.update.fsat

theorem endHeld {r : Requester} {page : Nat} : Stays s (Machine.endHeld t r page) := hs.update.ite hs

theorem xlate {r : Requester} {c va : Nat} {write : Bool} {die : Option Nat} : Stays s (Machine.xlate t r c va write die).2 := by
  unfold Machine.xlate
  dsimp only
  split
  · split
    · exact hs.fsat
    · split
      · exact hs.countHeld
      · split <;> exact hs.endHeld.lookTiered
  · split
    · exact hs
    · split
      · split
        · exact hs.countHits.raiseFault
        · exact hs.countHits.elim fun _ => hs.countHits.dieInstall
      · exact hs
      · exact hs.countMiss.askWalk.waitWalk

/-! ### Machine/Dma.lean -/

omit hs in
theorem xlateChunks {s t : State} (hs : Stays s t) {r : Requester} {c : Nat} {write : Bool} {l : List (Nat × Nat)} :
    Stays s (Machine.xlateChunks t r c write l).2 := by
  unfold Machine.xlateChunks
  split
  · exact hs
  · split
    · exact hs.xlate.snd ‹_›
    · exact hs.xlate.snd ‹_›
    · split
      · exact hs.xlate.snd ‹_›
      · split
        · exact (hs.xlate.snd ‹_›).xlateChunks.snd ‹_›
        · exact (hs.xlate.snd ‹_›).xlateChunks
    · split
      · exact (hs.xlate.snd ‹_›).xlateChunks.snd ‹_›
      · exact (hs.xlate.snd ‹_›).xlateChunks

theorem xlateRange {r : Requester} {c va n : Nat} {write : Bool} : Stays s (Machine.xlateRange t r c va n write).2 := hs.xlateChunks

omit hs in
theorem remoteLines {s t : State} (hs : Stays s t) {r : Requester} {dev : Nat} {l : List Nat} :
    Stays s (Machine.remoteLines t r dev l).2 := by
  unfold Machine.remoteLines
  split
  · exact hs
  · split
    · split
      · exact hs.remoteLines.snd ‹_›
      · exact hs.remoteLines
    · split
      · exact hs
      · split
        · exact (hs.fabricRequest ‹_›).remoteLines.snd ‹_›
        · exact (hs.fabricRequest ‹_›).remoteLines

theorem remoteRead {r : Requester} {dev a n : Nat} : Stays s (Machine.remoteRead t r dev a n).2 := by
  unfold Machine.remoteRead
  split
  · exact hs.remoteLines.snd ‹_›
  · exact hs.remoteLines

theorem remoteWrite {r : Requester} {dev a : Nat} {bs : List Byte} : Stays s (Machine.remoteWrite t r dev a bs).2 := by
  unfold Machine.remoteWrite
  split
  · exact hs
  · split
    · exact hs.fabricRequest ‹_›
    · exact hs

omit hs in
theorem readPieces {s t : State} (hs : Stays s t) {r : Requester} {l : List (Tr × Nat)} : Stays s (Machine.readPieces t r l).2 := by
  unfold Machine.readPieces
  split
  · exact hs
  · split
    · exact hs.ncFetch.snd ‹_›
    · split
      · exact (hs.ncFetch.snd ‹_›).readPieces.snd ‹_›
      · exact (hs.ncFetch.snd ‹_›).readPieces
  · split
    · exact (hs.remoteRead.snd ‹_›).readPieces
    · exact hs.remoteRead.snd ‹_›
    · split
      · exact (hs.remoteRead.snd ‹_›).readPieces.snd ‹_›
      · exact (hs.remoteRead.snd ‹_›).readPieces
  · exact hs
  · exact hs

theorem touchRange {c : Nat} {l : List (Nat × Nat)} : Stays s (Machine.touchRange t c l) := hs.foldl fun _ _ hu => hu.touchPage

theorem readVa {r : Requester} {c va n : Nat} : Stays s (Machine.readVa t r c va n).2 := by
  unfold Machine.readVa
  split
  · exact hs.xlateRange.snd ‹_›
  · split
    · exact ((hs.xlateRange.snd ‹_›).readPieces.snd ‹_›).touchRange
    · exact (hs.xlateRange.snd ‹_›).readPieces

omit hs in
theorem writePieces {s t : State} (hs : Stays s t) {r : Requester} {l : List (Tr × Nat)} {ls : List Byte} :
    Stays s (Machine.writePieces t r l ls).2 := by
  unfold Machine.writePieces
  dsimp only
  split
  · exact hs
  · split
    · exact hs.ncWrite
    · exact hs.ncWrite.writePieces
  · split
    · exact (hs.remoteWrite.snd ‹_›).writePieces
    · exact hs.remoteWrite.snd ‹_›
    · exact (hs.remoteWrite.snd ‹_›).writePieces
  · exact hs
  · exact hs

theorem writeVa {r : Requester} {c va : Nat} {bs : List Byte} : Stays s (Machine.writeVa t r c va bs).2 := by
  unfold Machine.writeVa
  split
  · exact hs.xlateRange.snd ‹_›
  · split
    · exact ((hs.xlateRange.snd ‹_›).writePieces.snd ‹_›).touchRange
    · exact (hs.xlateRange.snd ‹_›).writePieces

/-! ### Machine/ReadCache.lean -/

theorem putRdc {md : Nat} {x : RdCache} : Stays s (Machine.putRdc t md x) := ⟨hs.pending, hs.memWf⟩

omit hs in
theorem rcLines {s t : State} (hs : Stays s t) {r : Requester} {md ctx part : Nat} {l : List Nat} :
    Stays s (Machine.rcLines t r md ctx part l).2 := by
  unfold Machine.rcLines
  split
  · exact hs
  · split
    · split
      · exact hs.xlate.snd ‹_›
      · split
        · exact (hs.xlate.snd ‹_›).rcLines.snd ‹_›
        · exact (hs.xlate.snd ‹_›).rcLines
    · split
      · exact (hs.xlate.snd ‹_›).rcLines.snd ‹_›
      · exact (hs.xlate.snd ‹_›).rcLines
    · exact hs.xlate.snd ‹_›

theorem failFill {md : Nat} {f : Fill} {status : Nat} : Stays s (Machine.failFill t md f status) := by
  unfold Machine.failFill
  refine hs.putRdc.foldl fun _ _ hu => ?_
  split
  · exact hu.failReq
  · exact hu

theorem endFill {md tag status : Nat} : Stays s (Machine.endFill t md tag status) := by
  unfold Machine.endFill
  split
  · exact hs
  · exact hs.failFill

theorem failAccess {r : RemoteReq} {status : Nat} : Stays s (Machine.failAccess t r status) := by
  unfold Machine.failAccess
  split
  · exact hs.endFill.ite hs.failReq
  · exact hs.failReq
  · exact hs.failReq
  · exact hs.failReq
  · exact hs.failReq

theorem dropWants {d e : Nat} : Stays s (Machine.dropWants t d e) := hs.putRdc.ite hs

theorem rcMiss {md tag : Nat} {w : Want} {r : Requester} : Stays s (Machine.rcMiss t md tag w r) := by
  unfold Machine.rcMiss
  dsimp only
  split
  · exact hs.fsat.putRdc
  · split
    · exact hs.fsat.putRdc
    · split
      · exact (hs.fsat.fabricRequest ‹_›).putRdc
      · exact hs.fsat.failReq

theorem giveLine {md : Nat} {w : Want} {d : List Byte} : Stays s (Machine.giveLine t md w d) := hs.elStore

theorem rcErrors {md : Nat} {w : List Ecc} : Stays s (Machine.rcErrors t md w) :=
  (hs.ite hs.fput.fsat).ite (hs.ite hs.fput.fsat).fput.fsat

theorem rcLine {md tag : Nat} {w : Want} {r : Requester} {e : List Ecc} : Stays s (Machine.rcLine t md tag w r e) := by
  unfold Machine.rcLine
  dsimp only
  split
  · exact hs.rcMiss
  · exact hs.rcErrors.fsat.giveLine.ite hs.putRdc.rcErrors.rcMiss

theorem runRcLoad {l : Launch} {md eng : Nat} {e : List (List Ecc)} {dst va lines : Nat} :
    Stays s (Machine.runRcLoad t l md eng e dst va lines) := by
  unfold Machine.runRcLoad
  dsimp only
  split
  · exact ((hs.rcLines.snd ‹_›).touchRange.foldl fun _ _ hu => hu.rcLine).ite
      (((hs.rcLines.snd ‹_›).touchRange.foldl fun _ _ hu => hu.rcLine).dropGrants.holdAgent.ite
      ((hs.rcLines.snd ‹_›).touchRange.foldl fun _ _ hu => hu.rcLine).dropGrants.advanceAgent)
  · exact (hs.rcLines.snd ‹_›).failReq
  · exact hs.rcLines.snd ‹_›

theorem rcDeliver {md : Nat} {wants : List Want} {d : List Byte} : Stays s (Machine.rcDeliver t md wants d) := by
  unfold Machine.rcDeliver
  refine (hs.foldl fun _ _ hu => hu.giveLine).foldl fun _ _ hu => ?_
  split
  · exact hu.ite hu.advanceAgent
  · exact hu

theorem rcPoison {md : Nat} {f : Fill} : Stays s (Machine.rcPoison t md f) := hs.fput.fsat.failFill

theorem installFill {md line : Nat} {d : List Byte} : Stays s (Machine.installFill t md line d) := hs.putRdc.ite hs.drawBelow.putRdc

theorem endOfFill {md : Nat} {f : Fill} {d : List Byte} : Stays s (Machine.endOfFill t md f d) :=
  (hs.putRdc.fsat.ite hs.putRdc.installFill).rcDeliver

theorem fillView {md line : Nat} {bs : List Byte} : Stays s (Machine.fillView t md line bs).2 := by
  unfold Machine.fillView
  dsimp only
  split
  · exact hs
  · split <;> exact hs.observe

theorem runFill {md line : Nat} : Stays s (Machine.runFill t md line) := by
  unfold Machine.runFill
  split
  · exact hs
  · split
    · exact hs.update.endOfFill
    · split
      · exact hs.failFill
      · split
        · exact (hs.ncFetch.snd ‹_›).rcPoison
        · exact (hs.ncFetch.snd ‹_›).fillView.endOfFill

theorem rdcClear {md : Nat} : Stays s (Machine.rdcClear t md) := ⟨hs.pending, hs.memWf⟩

theorem runInvalDone {md : Nat} : Stays s (Machine.runInvalDone t md) := by
  unfold Machine.runInvalDone
  dsimp only
  split
  · exact hs
  · split
    · exact hs.putRdc.rdcClear.fput.fsat.fput
    · split
      · exact hs.putRdc.rdcClear.fsat.advanceAgent
      · exact hs.putRdc.rdcClear.fsat

end Sys2Proof.Proofs.Stays
end

section
/-! Engines, moves and launches: every operation keeps the queue and the form of the memories. -/

namespace Sys2Proof.Proofs.Stays

open Sys2Proof.Machine Sys2Proof.Safety Sys2Proof.Laws

variable {s t : State} (hs : Stays s t)
include hs

/-! ### Machine/VectorUnit.lean -/

theorem vectorStep {d e vop dst src srcB bmode one i : Nat} : Stays s (Machine.vectorStep t d e vop dst src srcB bmode one i) :=
  hs.elStore

theorem runVector {d e vop dst src srcB bmode pool count : Nat} :
    Stays s (Machine.runVector t d e vop dst src srcB bmode pool count) :=
  hs.foldl fun _ _ hu => hu.vectorStep

theorem reduceStep {d e src acc func lanes i : Nat} : Stays s (Machine.reduceStep t d e src acc func lanes i) :=
  ⟨hs.pending, hs.memWf⟩

theorem runReduce {d e : Nat} {clear : Bool} {src acc func count last : Nat} :
    Stays s (Machine.runReduce t d e clear src acc func count last) :=
  (hs.modEng.ite hs).foldl fun _ _ hu => hu.reduceStep

theorem runReduceRead {d e dst a b post : Nat} {fmt64 : Bool} {l : Nat} :
    Stays s (Machine.runReduceRead t d e dst a b post fmt64 l) :=
  hs.elStore

/-! ### Machine/Engine.lean -/

theorem ctlWord {a : Agent} {f : Launch → Nat → Op → List Int → Option State} (hf : ∀ l i o cs, Stays s ((f l i o cs).getD t)) :
    Stays s (Machine.ctlWord t a f) := by
  unfold Machine.ctlWord
  split
  · exact hf _ _ _ _
  · exact hs

theorem doEnd {a : Agent} {m : PhaseMeas} : Stays s (Machine.doEnd a m t) := by
  unfold Machine.doEnd
  refine hs.ctlWord fun _ _ _ _ => ?_
  split
  · split
    · simp only [Option.getD_some]
      exact hs.endPhase.modEng.modAgent
    · split
      · split
        · rw [Option.getD_some]
          exact hs.modAgent
        · exact hs
      · exact hs
  · exact hs

theorem doNop {a : Agent} : Stays s (Machine.doNop a t) := by
  unfold Machine.doNop
  refine hs.ctlWord fun _ _ _ _ => ?_
  split
  · exact hs.advanceAgent
  · exact hs

theorem doLoop {a : Agent} : Stays s (Machine.doLoop a t) := by
  unfold Machine.doLoop
  refine hs.ctlWord fun _ _ _ _ => ?_
  split
  · exact hs.modAgent
  · exact hs

theorem doCursor {a : Agent} : Stays s (Machine.doCursor a t) := by
  unfold Machine.doCursor
  refine hs.ctlWord fun _ _ _ _ => ?_
  split
  · exact hs.modAgent.advanceAgent
  · exact hs

theorem engErrBits {d e : Nat} {x : EngErr} : Stays s (Machine.engErrBits t d e x) := by
  unfold Machine.engErrBits
  split
  · exact hs
  · exact hs.fput.fsat
  · exact hs.fput.fsat
  · exact hs.fput.fsat
  · exact hs.fput.fsat
  · exact hs.bankError
  · exact hs.bankError.fput.fsat

theorem engineOp {d e : Nat} {x : EngErr} {f : State → Launch → Nat → Op → List Int → Option State}
    (hf : ∀ v l i o cs, Stays s v → Stays s ((f v l i o cs).getD v)) : Stays s (Machine.engineOp t d e x f) := by
  unfold Machine.engineOp
  split
  · exact hs
  · dsimp only
    split
    · exact hs
    · exact hs.observe.engErrBits.modEng.holdAgent.launchErr.ite ((hf _ _ _ _ _ hs.observe.engErrBits).of_getD ‹_›)

theorem badWord {d e : Nat} {l : Launch} {i : Nat} : Stays s (Machine.badWord t d e l i) := hs.holdAgent.launchErr

theorem doWload {d e : Nat} {x : EngErr} : Stays s (Machine.doWload d e x t) := by
  unfold Machine.doWload
  refine hs.engineOp fun _ _ _ _ _ hu => ?_
  split
  · dsimp only
    split
    · exact hu.modEng.advanceAgent
    · exact hu.badWord
  · exact hu

theorem doMatmul {d e : Nat} {x : EngErr} : Stays s (Machine.doMatmul d e x t) := by
  unfold Machine.doMatmul
  refine hs.engineOp fun _ _ _ _ _ hu => ?_
  split
  · split
    · exact hu.runZero.advanceAgent
    · dsimp only
      split
      · exact hu.modEng.runSquare.advanceAgent
      · exact hu.modEng.badWord
  · exact hu

theorem doRibbon {d e : Nat} {x : EngErr} : Stays s (Machine.doRibbon d e x t) := by
  unfold Machine.doRibbon
  refine hs.engineOp fun _ _ _ _ _ hu => ?_
  split
  · split
    · exact hu.runZero.advanceAgent
    · dsimp only
      split
      · exact hu.modEng.runRibbon.advanceAgent
      · exact hu.modEng.badWord
  · exact hu

theorem closeDrain {d e : Nat} {l : Launch} {rewind : Bool} {slot : Nat} : Stays s (Machine.closeDrain t d e l rewind slot) := by
  unfold Machine.closeDrain
  dsimp only
  split
  · exact hs.runInject.advanceAgent
  · exact hs.runInject.holdAgent

theorem doDrain {d e : Nat} {x : EngErr} : Stays s (Machine.doDrain d e x t) := by
  unfold Machine.doDrain
  refine hs.engineOp fun _ _ _ _ _ hu => ?_
  split
  · exact hu.runDrain.closeDrain.ite hu.runDrain.advanceAgent
  · exact hu

theorem doVector {d e : Nat} {x : EngErr} : Stays s (Machine.doVector d e x t) := by
  unfold Machine.doVector
  refine hs.engineOp fun _ _ _ _ _ hu => ?_
  split
  · exact hu.runVector.advanceAgent
  · exact hu

theorem doReduce {d e : Nat} {x : EngErr} : Stays s (Machine.doReduce d e x t) := by
  unfold Machine.doReduce
  refine hs.engineOp fun _ _ _ _ _ hu => ?_
  split
  · exact hu.runReduce.advanceAgent
  · exact hu

theorem doReduceRead {d e : Nat} : Stays s (Machine.doReduceRead d e t) := by
  unfold Machine.doReduceRead
  refine hs.engineOp fun _ _ _ _ _ hu => ?_
  split
  · exact hu.runReduceRead.advanceAgent
  · exact hu

theorem doSignal {a : Agent} : Stays s (Machine.doSignal a t) := by
  unfold Machine.doSignal
  refine hs.ctlWord fun _ _ _ _ => ?_
  split
  · split
    · split
      · exact hs.modEng.advanceAgent
      · exact hs.advanceAgent.signalToken
    · split
      · split
        · exact hs.advanceAgent.signalToken
        · exact hs
      · exact hs
  · exact hs

theorem doWait {a : Agent} : Stays s (Machine.doWait a t) := by
  unfold Machine.doWait
  refine hs.ctlWord fun _ _ _ _ => ?_
  split
  · exact hs.waitToken
  · exact hs

theorem doWaitHeldAdmit {md : Nat} : Stays s (Machine.doWaitHeldAdmit md t) := by
  unfold Machine.doWaitHeldAdmit
  dsimp only
  split
  · exact hs
  · exact hs.putTok.arriveWait.ite hs

theorem doWaitTimeout {md : Nat} {a : Agent} : Stays s (Machine.doWaitTimeout md a t) := by
  unfold Machine.doWaitTimeout
  split
  · split
    · exact hs
    · split
      · exact hs.putTok.tokError.holdAgent.launchErr
      · exact hs
  · split
    · exact hs.ite hs.tokError.holdAgent.launchErr
    · exact hs

theorem rechooseFor {d : Nat} : Stays s (Machine.rechooseFor t d) := by
  unfold Machine.rechooseFor
  split
  · exact hs.rechoose
  · exact hs

theorem doPhaseAnnounce {d e : Nat} : Stays s (Machine.doPhaseAnnounce d e t) := by
  unfold Machine.doPhaseAnnounce
  refine hs.ctlWord fun _ _ _ _ => ?_
  split
  · exact hs.modEng.rechooseFor.advanceAgent
  · exact hs

theorem doPhaseAnnounceLapse {d e : Nat} : Stays s (Machine.doPhaseAnnounceLapse d e t) := by
  unfold Machine.doPhaseAnnounceLapse
  split
  · exact hs.modEng.rechooseFor
  · exact hs

theorem doPhaseBegin {d e : Nat} {m : PhaseMeas} : Stays s (Machine.doPhaseBegin d e m t) := by
  unfold Machine.doPhaseBegin
  refine hs.ctlWord fun _ _ _ _ => ?_
  split
  · exact (hs.endPhase.fsat.ite hs.endPhase).modEng.rechooseFor.advanceAgent
  · exact hs

theorem showRegion {d e rOut rAcc slot attempt : Nat} : Stays s (Machine.showRegion t d e rOut rAcc slot attempt) :=
  ⟨hs.pending, hs.memWf⟩

theorem sendMark {l : Launch} {i : Nat} {streams : BitVec 64} : Stays s (Machine.sendMark t l i streams) :=
  hs.foldl fun _ _ hu => hu.modStream.ite hu

theorem doRewindMark {d e : Nat} : Stays s (Machine.doRewindMark d e t) := by
  unfold Machine.doRewindMark
  refine hs.ctlWord fun _ _ _ _ => ?_
  split
  · split
    · exact hs.modEng.showRegion.sendMark.advanceAgent
    · exact hs
  · exact hs

theorem doGeometry {d e : Nat} : Stays s (Machine.doGeometry d e t) := by
  unfold Machine.doGeometry
  refine hs.ctlWord fun _ _ _ _ => ?_
  split
  · exact hs.fput.modEng.advanceAgent
  · exact hs

theorem doRcLoad {d e : Nat} {x : List (List Ecc)} : Stays s (Machine.doRcLoad d e x t) := by
  unfold Machine.doRcLoad
  split
  · exact hs
  · refine hs.ctlWord fun _ _ _ _ => ?_
    split
    · split
      · split
        · exact hs.runRcLoad
        · exact hs
      · split
        · exact hs.runRcLoad
        · exact hs
    · exact hs

theorem doRcInvalidate {d e : Nat} : Stays s (Machine.doRcInvalidate d e t) := by
  unfold Machine.doRcInvalidate
  refine hs.ctlWord fun _ _ _ _ => ?_
  split
  · exact hs.putRdc.holdAgent
  · exact hs

theorem doRdcInvalidate {d : Nat} : Stays s (Machine.doRdcInvalidate d t) := hs.ite hs.fput.fput.putRdc

theorem observeRho {d e : Nat} {g : Region} : Stays s (Machine.observeRho t d e g) := by
  unfold Machine.observeRho
  split
  · exact hs.fput
  · exact hs

theorem doCommit {d e : Nat} : Stays s (Machine.doCommit d e t) := by
  unfold Machine.doCommit
  split
  · exact (hs.observeRho.ite hs).holdAgent.fput.draw.modEng.writeCells.ite hs
  · exact hs

theorem doCommitComplete {d e : Nat} : Stays s (Machine.doCommitComplete d e t) := by
  unfold Machine.doCommitComplete
  split
  · exact (hs.writeCells.addSats.addWrote.dropRegion.advanceAgent.foldl fun _ _ hu => hu.signalToken).ite hs
  · exact hs

theorem sendCancel {l : Launch} {i : Nat} {streams : BitVec 64} : Stays s (Machine.sendCancel t l i streams) :=
  hs.foldl fun _ _ hu => hu.modStream.ite hu

theorem showRewind {d e : Nat} {l : Launch} {i : Nat} {g : Region} {k : Nat} : Stays s (Machine.showRewind t d e l i g k) :=
  hs.fsat.fput.fput.fput.fput.fput.fput.fput.fput

theorem doRewind {d e : Nat} : Stays s (Machine.doRewind d e t) := by
  unfold Machine.doRewind
  split
  · exact hs.observeRho.showRewind.modEng.fput.fput.showRegion.sendCancel.traceLaunch.modLaunch.holdAgent.ite hs
  · exact hs

theorem doRewindRestart {d e : Nat} : Stays s (Machine.doRewindRestart d e t) := by
  unfold Machine.doRewindRestart
  split
  · exact hs.modSlot.ite hs
  · exact hs

theorem doRewindReport {c seq : Nat} : Stays s (Machine.doRewindReport c seq t) := by
  unfold Machine.doRewindReport
  split
  · exact hs
  · exact hs.ite (hs.modLaunch.launchErr.ite hs.modLaunch)

theorem doEngSelftest {d e : Nat} : Stays s (Machine.doEngSelftest d e t) := hs.modEng.fput.fput.fput.pairOn.ite hs.fput

theorem bindBank {d e bank : Nat} : Stays s (Machine.bindBank t d e bank) := hs.fput.fput.ite hs.fput

theorem retireEngine {d e : Nat} : Stays s (Machine.retireEngine t d e) := by
  unfold Machine.retireEngine
  dsimp only
  split
  · exact hs.fput.raise.bindBank.modEng
  · split
    · exact hs.fput.raise.bindBank.modEng.fput.bindBank
    · exact (hs.fput.raise.bindBank.modEng.fput.ite hs.fput.raise.bindBank.modEng).raise

theorem setColmap {d e m : Nat} : Stays s (Machine.setColmap t d e m) := ⟨hs.pending, hs.memWf⟩

theorem doSelftestDone {d e : Nat} {failed : BitVec 128} : Stays s (Machine.doSelftestDone d e failed t) :=
  hs.ite ((hs.setColmap.modEng.fput.fput.fput.fput.ite hs.setColmap.modEng.fput.fput.fput.fput.fput).retireEngine.ite
    (hs.setColmap.modEng.fput.fput.fput.fput.ite hs.setColmap.modEng.fput.fput.fput.fput.fput))

theorem doEngPhoTest {d e : Nat} : Stays s (Machine.doEngPhoTest d e t) := hs.fput.fput.ite hs.fput

/-! ### Machine/Events.lean -/

theorem writeEvent {e : Event} : Stays s (Machine.writeEvent t e) :=
  (hs.fput.fsat.ite hs).recWrite.fput.sendIrq.ite (hs.fput.fsat.ite hs).recWrite.fput

theorem logEvent {e : Event} : Stays s (Machine.logEvent t e) :=
  hs.traceRec.writeEvent.ite (hs.traceRec.update.ite hs.traceRec.fsat)

theorem doEventRecord : Stays s (Machine.doEventRecord t) := by
  unfold Machine.doEventRecord
  split
  · exact hs
  · exact hs.update.logEvent

theorem doEvtLogEnable {w : BitVec 64} : Stays s (Machine.doEvtLogEnable w t) :=
  hs.ite (hs.fput.fput.update.foldl fun _ _ hu => hu.writeEvent)

/-! ### Machine/MoveData.lean -/

theorem observeReq {r : Requester} : Stays s (Machine.observeReq t r) := by
  unfold Machine.observeReq
  split
  · exact hs.observe
  · exact hs
  · exact hs
  · exact hs

theorem getPa {r : Requester} {a n : Nat} : Stays s (Machine.getPa t r a n).2 := hs.ncRead

omit hs in
theorem getPieces {s t : State} (hs : Stays s t) {r : Requester} {l : List (Tr × Nat)} : Stays s (Machine.getPieces t r l).2 := by
  unfold Machine.getPieces
  dsimp only
  split
  · exact hs
  · split
    · exact hs.getPa.getPieces.snd ‹_›
    · exact hs.getPa.getPieces
  · split
    · exact (hs.remoteRead.snd ‹_›).getPieces
    · split
      · exact (hs.remoteRead.snd ‹_›).getPieces.snd ‹_›
      · exact (hs.remoteRead.snd ‹_›).getPieces
    · split
      · exact (hs.remoteRead.snd ‹_›).getPieces.snd ‹_›
      · exact (hs.remoteRead.snd ‹_›).getPieces
  · exact hs
  · split
    · exact hs.getPieces.snd ‹_›
    · exact hs.getPieces

theorem getLoc {r : Requester} {c : Nat} {l : Loc} {n : Nat} : Stays s (Machine.getLoc t r c l n).2 := by
  unfold Machine.getLoc
  split
  · exact hs
  · exact hs.getPa
  · exact hs.getPieces
  · split
    · exact hs.xlateRange.snd ‹_›
    · exact hs.xlateRange.snd ‹_›
    · split
      · exact ((hs.xlateRange.snd ‹_›).getPieces.snd ‹_›).touchRange
      · exact (hs.xlateRange.snd ‹_›).getPieces

theorem jobReader {r : Requester} {c : Nat} {bad : List (Loc × Nat)} {l : Loc} {n : Nat} :
    Stays s (Machine.jobReader r c bad t l n).2 := by
  unfold Machine.jobReader
  split
  · exact hs.getLoc.snd ‹_›
  · exact hs.getLoc

theorem getRows {rd : Reader} (hr : ∀ u l n, Stays s u → Stays s (rd u l n).2) {r : List (Loc × Nat)} :
    Stays s (Machine.getRows rd t r).2 := by
  induction r generalizing t with
  | nil => exact hs
  | cons x rest ih =>
    unfold Machine.getRows
    split
    · exact (hr _ _ _ hs).snd ‹_›
    · have h := ih ((hr _ _ _ hs).snd ‹_›)
      split
      · exact h.snd ‹_›
      · exact h

theorem jobScales {rd : Reader} (hr : ∀ u l n, Stays s u → Stays s (rd u l n).2) {j : Job} {rows : List Nat} :
    Stays s (Machine.jobScales t rd j rows).2 := by
  unfold Machine.jobScales
  split
  · exact hs
  · dsimp only
    split
    · exact (hs.getRows hr).snd ‹_›
    · exact (hs.getRows hr).snd ‹_›

theorem fetchJob {rd : Reader} (hr : ∀ u l n, Stays s u → Stays s (rd u l n).2) {j : Job} :
    Stays s (Machine.fetchJob t rd j).2 := by
  unfold Machine.fetchJob
  have h : Stays s (match j.index with
      | none => (some [], t)
      | some l => Machine.getRows rd t [(l, 4 * j.srcShape.rows)]).2 := by
    split
    · exact hs
    · exact hs.getRows hr
  dsimp only
  split
  · exact h.snd ‹_›
  · have h' := h.snd ‹_›
    split
    · exact h'
    · split
      · exact h'
      · split
        · exact (h'.getRows hr).snd ‹_›
        · have hg := (h'.getRows hr).snd ‹_›
          split
          · exact (hg.jobScales hr).snd ‹_›
          · exact (hg.jobScales hr).snd ‹_›

omit hs in
theorem placeOut {s t : State} (hs : Stays s t) {r : Requester} {c : Nat} {l : List (Loc × List Flagged)} :
    Stays s (Machine.placeOut t r c l).2 := by
  unfold Machine.placeOut
  split
  · exact hs
  · split
    · exact hs.xlateRange.snd ‹_›
    · split
      · exact (hs.xlateRange.snd ‹_›).touchRange.placeOut.snd ‹_›
      · exact (hs.xlateRange.snd ‹_›).touchRange.placeOut
  · split
    · exact hs.placeOut.snd ‹_›
    · exact hs.placeOut

theorem noteWrite {r : Requester} {tag : Nat} {l : Loc} {n : Nat} : Stays s (Machine.noteWrite t r tag l n) := by
  unfold Machine.noteWrite
  split
  · exact hs.noteNear
  · exact hs.modLaunch
  · exact hs

theorem putLine {r : Requester} {tag : Nat} {x : Loc × List Flagged} : Stays s (Machine.putLine t r tag x).2 := by
  unfold Machine.putLine
  split
  · exact hs.noteWrite.elWrite
  · exact hs.noteWrite.ncWrite
  · exact hs.remoteWrite
  · exact hs

omit hs in
theorem putLines {s t : State} (hs : Stays s t) {r : Requester} {tag : Nat} {l : List (Loc × List Flagged)} :
    Stays s (Machine.putLines t r tag l).2 := by
  unfold Machine.putLines
  split
  · exact hs
  · split
    · exact hs.putLine.snd ‹_›
    · split <;> exact (hs.putLine.snd ‹_›).putLines.snd ‹_›
    · exact (hs.putLine.snd ‹_›).putLines

theorem putSome {r : Requester} {tag : Nat} {ls : List (Loc × List Flagged)} : Stays s (Machine.putSome t r tag ls).2 := by
  unfold Machine.putSome
  refine hs.foldlSnd fun _ _ hu => ?_
  dsimp only
  split
  · exact hu.draw.putLine
  · exact hu.draw

theorem dropData {r : Requester} : Stays s (Machine.dropData t r) := ⟨hs.pending, hs.memWf⟩

theorem failJob {r : Requester} {c : Nat} {j : Job} {status : Nat} {out : List (Loc × List Flagged)} :
    Stays s (Machine.failJob t r c j status out).2 :=
  hs.putSome.dropData

theorem runJob {r : Requester} {c : Nat} {j : Job} {fatal : Option Nat} {bad : List (Loc × Nat)} :
    Stays s (Machine.runJob t r c j fatal bad).2 := by
  unfold Machine.runJob
  split
  · exact (hs.observeReq.fetchJob fun _ _ _ hu => hu.jobReader).snd ‹_›
  · exact (hs.observeReq.fetchJob fun _ _ _ hu => hu.jobReader).snd ‹_›
  · next hf =>
    have hd := (hs.observeReq.fetchJob fun _ _ _ hu => hu.jobReader).snd hf
    split
    · exact hd.placeOut.snd ‹_›
    · exact (hd.placeOut.snd ‹_›).failJob
    · next hp =>
      have ho := hd.placeOut.snd hp
      split
      · exact ho.failJob
      · split
        · exact ho.putLines.snd ‹_›
        · exact (ho.putLines.snd ‹_›).dropData
        · exact (ho.putLines.snd ‹_›).dropData

theorem cancelJob {r : Requester} {c : Nat} {j : Job} {blk : List (Loc × Nat)} : Stays s (Machine.cancelJob t r c j blk).2 := by
  unfold Machine.cancelJob
  dsimp only
  split
  · exact hs.observeReq.putSome.dropData
  · exact hs.observeReq.dropData

/-! ### Machine/Placement.lean -/

theorem showFinders {h : Nat} : Stays s (Machine.showFinders t h) := hs.fput.fhigh.foldl fun _ _ hu => hu.fput.fput.fput.fput

theorem showPartFinders {part : Nat} : Stays s (Machine.showPartFinders t part) := hs.foldl fun _ _ hu => hu.showFinders

theorem showTok {md : Nat} : Stays s (Machine.showTok t md) := ⟨hs.pending, hs.memWf⟩

theorem takeEngine {c q i : Nat} {x : Cand} : Stays s (Machine.takeEngine t c q i x) := hs.modSlot.modEng.fput.fput.fput.pairOn

theorem allocTokens {u : State} {l : Launch} (hu : Machine.allocTokens t l = some u) : Stays s u := by
  unfold Machine.allocTokens at hu
  dsimp only at hu
  split at hu
  · cases hu
  · rw [← Option.some.inj hu]
    refine (hs.foldl fun _ _ hv => ?_).foldl fun _ _ hv => hv.showTok
    split
    · split
      · exact hv
      · exact hv.putTok.modLaunch
    · exact hv

theorem freeTokens {l : Launch} : Stays s (Machine.freeTokens t l) := hs.foldl fun _ _ hu => hu.putTok.showTok

theorem reserveUnits {part : Nat} {engs : List Cand} {strs : List (Nat × Nat × Nat)} :
    Stays s (Machine.reserveUnits t part engs strs) :=
  ⟨hs.pending, hs.memWf⟩

theorem freeEngine {d e : Nat} : Stays s (Machine.freeEngine t d e) := hs.modEng.fput.fput.fput.fput.dropWants

theorem returnLends {l : Launch} : Stays s (Machine.returnLends t l) := hs.foldl fun _ _ hu => hu.modPage

theorem releaseUnits {l : Launch} : Stays s (Machine.releaseUnits t l) :=
  ((hs.foldl fun _ _ hu => hu.freeEngine).returnLends.freeTokens.refund.ite
    (hs.foldl fun _ _ hu => hu.freeEngine).returnLends.freeTokens).modLaunch.update.withdraw.reserveUnits.showPartFinders

theorem forgetLaunch {c q : Nat} : Stays s (Machine.forgetLaunch t c q) := ⟨hs.pending, hs.memWf⟩

theorem releaseLaunch {l : Launch} : Stays s (Machine.releaseLaunch t l) := hs.releaseUnits.forgetLaunch

/-! ### Machine/Finder.lean -/

theorem lend {u : State} {l : Launch} {pages : List Nat} (hu : Machine.lend t l pages = some u) : Stays s u := by
  unfold Machine.lend at hu
  dsimp only at hu
  split at hu
  · cases hu
  · rw [← Option.some.inj hu]
    exact (hs.foldl fun _ _ hv => hv.modPage).modLaunch

theorem lendMove {r : Requester} {l : Launch} {m : Move} {p : State × Bool} (hp : Machine.lendMove t r l m = some p) :
    Stays s p.1 := by
  unfold Machine.lendMove at hp
  dsimp only at hp
  split at hp
  · rw [← Option.some.inj hp]
    exact hs
  · split at hp
    · rw [← Option.some.inj hp]
      exact hs
    · obtain ⟨u, hu, rfl⟩ := Option.map_eq_some_iff.1 hp
      exact hs.lend hu

theorem noteIssued {l : Launch} {a : Nat × Nat × Nat} {m : Move} : Stays s (Machine.noteIssued t l a m) := by
  unfold Machine.noteIssued
  refine hs.foldl fun _ _ hu => ?_
  split
  · exact hu.modLaunch
  · exact hu.modLaunch
  · exact hu
  · exact hu

theorem noteWindows : Stays s (Machine.noteWindows t) := by
  unfold Machine.noteWindows
  refine hs.foldl fun _ _ hu => hu.foldl fun _ _ hv => ?_
  split
  · exact hv.foldl fun _ _ hw => hw.noteIssued
  · exact hv

theorem finishWrites {l : Launch} {a : Agent} {m : Move} : Stays s (Machine.finishWrites t l a m) := ⟨hs.pending, hs.memWf⟩

theorem issueMove {h f c : Nat} {l : Launch} {i : Nat} {x : Machine.Stream} {m : Move} :
    Stays s (Machine.issueMove t h f c l i x m) := by
  unfold Machine.issueMove
  exact hs.fsat.modLaunch.noteIssued.modStream.showFinders

theorem tryIssue {h f c : Nat} {want : Launch → Move → Bool} : Stays s (Machine.tryIssue t h f c want) := by
  unfold Machine.tryIssue
  split
  · exact hs
  · refine .ite ?_ hs
    split
    · exact hs
    · refine hs.ite (hs.issueMove.ite ?_)
      split
      · exact (hs.lendMove ‹_›).issueMove
      · exact hs

omit hs in
theorem breakMoves {s t : State} (hs : Stays s t) {r : Requester} {l : Launch} {p : Move → Bool} {ls : List Move}
    {rs : List (Loc × Nat)} : Stays s (Machine.breakMoves r l p ls rs t) := by
  unfold Machine.breakMoves
  split
  · exact hs
  · exact hs.cancelJob.breakMoves.ite hs.breakMoves

theorem cancelMoves {h f c : Nat} {l : Launch} {i : Nat} {x : Machine.Stream} {p : Move → Bool} {blk : List (Loc × Nat)} :
    Stays s (Machine.cancelMoves t h f c l i x p blk) := by
  unfold Machine.cancelMoves
  exact (hs.breakMoves.withdraw.ite hs.breakMoves).fsat.modStream.showFinders

theorem doCancellation {h f c : Nat} : Stays s (Machine.doCancellation h f c t) := by
  unfold Machine.doCancellation
  split
  · exact hs
  · split
    · exact hs
    · exact hs.cancelMoves.modStream

theorem doMarkArrival {h f c : Nat} : Stays s (Machine.doMarkArrival h f c t) := by
  unfold Machine.doMarkArrival
  split
  · exact hs
  · split
    · exact hs
    · exact hs.modStream

theorem beginStall {h f c : Nat} {l : Launch} {i : Nat} {m : Move} : Stays s (Machine.beginStall t h f c l i m) :=
  hs.ite hs.cancelJob.modStream

theorem endHeadMove {h f c : Nat} {left : List (Loc × Nat)} : Stays s (Machine.endHeadMove t h f c left) := by
  unfold Machine.endHeadMove
  split
  · exact hs
  · exact hs.modStream.cancelMoves

theorem settleStream {a : Nat × Nat × Nat} : Stays s (Machine.settleStream t a) := by
  unfold Machine.settleStream
  split
  · exact hs
  · split
    · exact hs.showFinders
    · split
      · split
        · exact hs.endHeadMove
        · exact hs.cancelJob.endHeadMove
      · exact (hs.beginStall.showFinders.ite hs.beginStall.cancelMoves).ite hs.showFinders

theorem settleStalls : Stays s (Machine.settleStalls t) := hs.foldl fun _ _ hu => hu.settleStream

theorem moveFail {h f c : Nat} {l : Launch} {i status : Nat} {detail : BitVec 64} {left : List (Loc × Nat)} :
    Stays s (Machine.moveFail t h f c l i status detail left) :=
  hs.endHeadMove.finderError.launchErr

theorem countBytes {h rd wr : Nat} : Stays s (Machine.countBytes t h rd wr) := ⟨hs.pending, hs.memWf⟩

theorem finderCe {h : Nat} {e : Ecc} : Stays s (Machine.finderCe t h e) := hs.fput.fsat.ite hs

theorem moveErr {h : Nat} {j : Job} {e : MoveErr} : Stays s (Machine.moveErr t h j e).1 := by
  unfold Machine.moveErr
  split
  · exact hs
  · dsimp only
    exact hs.finderCe
  · exact hs
  · split
    · dsimp only
      exact hs.bankError
    · exact hs
  · split
    · dsimp only
      exact hs.bankError
    · exact hs

theorem noteLent {l : Launch} {i : Nat} : Stays s (Machine.noteLent t l i) := ⟨hs.pending, hs.memWf⟩

theorem doMoveDone {h f c : Nat} {e : MoveErr} : Stays s (Machine.doMoveDone h f c e t) := by
  unfold Machine.doMoveDone
  split
  · exact hs
  · split
    · exact hs
    · refine hs.ite ?_
      dsimp only
      split
      · exact hs
      · next p hl =>
        have hp := hs.lendMove hl
        split
        · exact ((hp.noteLent.ite hp).moveErr.runJob.snd ‹_›).settleStream
        · exact ((hp.noteLent.ite hp).moveErr.runJob.snd ‹_›).moveFail
        · exact ((hp.noteLent.ite hp).moveErr.runJob.snd ‹_›).moveFail
        · next t' hj =>
          have hd := (hp.noteLent.ite hp).moveErr.runJob.snd hj
          split
          · exact hd.countBytes.fsat.finishWrites.modStream.signalToken.showFinders
          · exact hd.countBytes.fsat.finishWrites.modStream.showFinders

theorem doLendRetry {h f c : Nat} : Stays s (Machine.doLendRetry h f c t) := by
  unfold Machine.doLendRetry
  split
  · exact hs
  · split
    · refine .ite ?_ hs.tryIssue
      split
      · exact (hs.lendMove ‹_›).noteLent.ite hs
      · exact hs
    · exact hs.tryIssue

/-! ### Machine/Persist.lean -/

theorem putPersist {n : Nat} {x : Persist} : Stays s (Machine.putPersist t n x) := ⟨hs.pending, hs.memWf⟩

theorem persistCommitNow {n : Nat} {v : BitVec 64} : Stays s (Machine.persistCommitNow t n v) :=
  hs.putPersist.raise.ite (hs.putPersist.raise.ite hs.putPersist)

theorem persistPut {n : Nat} {v : BitVec 64} : Stays s (Machine.persistPut t n v) :=
  hs.fsat.ite (hs.persistCommitNow.ite hs.putPersist)

theorem doPersistWrite {n : Nat} {v : BitVec 64} : Stays s (Machine.doPersistWrite n v t) := hs.persistPut.ite hs

theorem doPersistCommit {n : Nat} : Stays s (Machine.doPersistCommit n t) := by
  unfold Machine.doPersistCommit
  dsimp only
  split
  · exact hs.putPersist.ite hs
  · exact hs.putPersist.ite hs.persistCommitNow

theorem commitFirst {n : Nat} : Stays s (Machine.commitFirst t n) := by
  unfold Machine.commitFirst
  refine hs.foldl fun _ _ hu => ?_
  split
  · exact hu.ite hu.persistCommitNow
  · exact hu

theorem commitAll : Stays s (Machine.commitAll t) := hs.commitFirst

theorem persistField {n hi lo v : Nat} : Stays s (Machine.persistField t n hi lo v) := hs.persistPut

/-! ### Machine/CoreCmd.lean -/

theorem setEffective {d c : Nat} : Stays s (Machine.setEffective t d c) := ⟨hs.pending, hs.memWf⟩

theorem setCap {d c : Nat} : Stays s (Machine.setCap t d c) := ⟨hs.pending, hs.memWf⟩

theorem refuseCoreCmd {d result : Nat} : Stays s (Machine.refuseCoreCmd t d result) := ⟨hs.pending, hs.memWf⟩

theorem acceptCoreCmd {d op c : Nat} : Stays s (Machine.acceptCoreCmd t d op c) := ⟨hs.pending, hs.memWf⟩

theorem doCoreOffline {d c : Nat} : Stays s (Machine.doCoreOffline d c t) :=
  hs.refuseCoreCmd.ite (hs.refuseCoreCmd.ite (hs.refuseCoreCmd.ite hs.acceptCoreCmd.forceDrain.flushCore.fput))

theorem startCore {d c pc : Nat} : Stays s (Machine.startCore t d c pc) := ⟨hs.pending, hs.memWf⟩

theorem doCoreOnline {d c : Nat} : Stays s (Machine.doCoreOnline d c t) :=
  hs.refuseCoreCmd.ite (hs.refuseCoreCmd.ite (hs.refuseCoreCmd.ite (hs.refuseCoreCmd.ite hs.acceptCoreCmd.fput.startCore)))

theorem doCoreRecalibrate {d c : Nat} : Stays s (Machine.doCoreRecalibrate d c t) :=
  hs.refuseCoreCmd.ite (hs.refuseCoreCmd.ite hs.acceptCoreCmd)

theorem retireCore {d c : Nat} : Stays s (Machine.retireCore t d c) := ⟨hs.pending, hs.memWf⟩

theorem recalibrated {d c passMhz : Nat} : Stays s (Machine.recalibrated t d c passMhz).2 := by
  unfold Machine.recalibrated
  dsimp only
  split
  · exact hs
  · split
    · exact hs.fput.persistField.setEffective.retireCore
    · exact hs.fput.persistField.setEffective

theorem doCoreCmdComplete {d passMhz : Nat} : Stays s (Machine.doCoreCmdComplete d passMhz t) := by
  unfold Machine.doCoreCmdComplete
  split
  · exact hs
  · split
    · exact hs.recalibrated.fput.fput
    · exact hs.fput.fput

theorem doDroopDetect {d c : Nat} : Stays s (Machine.doDroopDetect d c t) := ⟨hs.pending, hs.memWf⟩

/-! ### Machine/Launch.lean -/

theorem rejectLaunch {c q status : Nat} {detail : BitVec 64} : Stays s (Machine.rejectLaunch t c q status detail) := by
  unfold Machine.rejectLaunch
  split
  · exact hs.releaseLaunch.complete
  · exact hs.withdraw.dropRemotes.complete

omit hs in
theorem readHist {s t : State} (hs : Stays s t) {c q va : Nat} {l : List Nat} : Stays s (Machine.readHist t c q va l).2 := by
  unfold Machine.readHist
  dsimp only
  split
  · exact hs
  · split
    · exact hs.xlateRange.snd ‹_›
    · exact hs.xlateRange.snd ‹_›
    · split
      · exact (hs.xlateRange.snd ‹_›).touchPage.ncFetch.snd ‹_›
      · split
        · exact ((hs.xlateRange.snd ‹_›).touchPage.ncFetch.snd ‹_›).readHist.snd ‹_›
        · exact ((hs.xlateRange.snd ‹_›).touchPage.ncFetch.snd ‹_›).readHist
    · split
      · exact (hs.xlateRange.snd ‹_›).remoteRead.snd ‹_›
      · exact (hs.xlateRange.snd ‹_›).remoteRead.snd ‹_›
      · split
        · exact ((hs.xlateRange.snd ‹_›).remoteRead.snd ‹_›).touchPage.readHist.snd ‹_›
        · exact ((hs.xlateRange.snd ‹_›).remoteRead.snd ‹_›).touchPage.readHist
    · exact hs.xlateRange.snd ‹_›

theorem fetchConsts {c q : Nat} {k : Cmd} {m : Image} : Stays s (Machine.fetchConsts t c q k m) := by
  unfold Machine.fetchConsts
  dsimp only
  split
  · exact hs.readVa.snd ‹_›
  · exact (hs.readVa.snd ‹_›).rejectLaunch
  · split
    · exact (hs.readVa.snd ‹_›).rejectLaunch
    · exact (hs.readVa.snd ‹_›).modCmd.update

theorem fetchBytes {c q va n : Nat} {got : List Byte} : Stays s (Machine.fetchBytes t c q va n got).2 := by
  unfold Machine.fetchBytes
  split
  · exact hs
  · split
    · exact (hs.readVa.snd ‹_›).modCmd
    · exact hs.readVa.snd ‹_›

theorem fetchImage {c q : Nat} {k : Cmd} : Stays s (Machine.fetchImage t c q k) := by
  unfold Machine.fetchImage
  dsimp only
  split
  · split
    · exact hs.fetchBytes.snd ‹_›
    · exact (hs.fetchBytes.snd ‹_›).rejectLaunch
  · split
    · exact (hs.fetchBytes.snd ‹_›).rejectLaunch
    · split
      · exact (hs.fetchBytes.snd ‹_›).rejectLaunch
      · split
        · split
          · exact (hs.fetchBytes.snd ‹_›).fetchBytes.snd ‹_›
          · exact ((hs.fetchBytes.snd ‹_›).fetchBytes.snd ‹_›).rejectLaunch
        · split
          · exact ((hs.fetchBytes.snd ‹_›).fetchBytes.snd ‹_›).rejectLaunch
          · exact ((hs.fetchBytes.snd ‹_›).fetchBytes.snd ‹_›).fetchConsts

theorem computeScales {l : Launch} : Stays s (Machine.computeScales t l) := hs.foldl fun _ _ hu => hu.touchPage.modScale

theorem prepareEngine {x : Slot} : Stays s (Machine.prepareEngine t x) := by
  unfold Machine.prepareEngine
  split
  · exact hs
  · exact ((hs.modEng.ostore (wf_memClear _ _ _)).near (wf_memClear _ _ _)).fput.dropRegion

theorem prepareLaunch {l : Launch} : Stays s (Machine.prepareLaunch t l) :=
  ((hs.foldl fun _ _ hu => hu.prepareEngine).foldl fun _ _ hu => hu.rdcClear.fsat).modLaunch

theorem allocLaunch {l : Launch} : Stays s (Machine.allocLaunch t l) := by
  unfold Machine.allocLaunch
  dsimp only
  split
  · exact hs
  · split
    · exact (hs.allocTokens ‹_›).computeScales.prepareLaunch
    · exact (hs.allocTokens ‹_›).computeScales

theorem chargeLaunch {l : Launch} : Stays s (Machine.chargeLaunch t l) := by
  unfold Machine.chargeLaunch
  split
  · exact hs.rejectLaunch
  · split
    · exact hs.quotaRefused.rejectLaunch
    · exact (hs.charge ‹_›).modLaunch.allocLaunch

theorem takePlaces {l : Launch} {a : List (Nat × Cand)} {strs : List (Nat × Nat × Nat)} : Stays s (Machine.takePlaces t l a strs) :=
  (hs.foldl fun _ _ hu => hu.takeEngine).modLaunch.modCmd.showPartFinders

theorem tryPlace {l : Launch} : Stays s (Machine.tryPlace t l) := by
  unfold Machine.tryPlace
  dsimp only
  split
  · split
    · exact hs.takePlaces.chargeLaunch
    · exact hs.takePlaces
  · split
    · exact hs.rejectLaunch
    · exact hs

theorem arriveLaunch {l : Launch} : Stays s (Machine.arriveLaunch t l) := by
  unfold Machine.arriveLaunch
  dsimp only
  split
  · exact hs.modLaunch.modCmd.tryPlace
  · exact hs.modLaunch.modCmd

theorem checkTiers {l : Launch} : Stays s (Machine.checkTiers t l) := by
  unfold Machine.checkTiers
  split
  · exact hs.rejectLaunch
  · split
    · exact hs.rejectLaunch
    · exact hs.arriveLaunch

theorem checkPins {l : Launch} : Stays s (Machine.checkPins t l) := by
  unfold Machine.checkPins
  split
  · exact hs.checkTiers
  · split
    · exact hs.checkTiers
    · exact hs.rejectLaunch
    · exact hs.fsat.askWalk.stallReq

theorem checkHists {l : Launch} : Stays s (Machine.checkHists t l) := by
  unfold Machine.checkHists
  split
  · exact hs.checkPins
  · split
    · exact hs.readHist.snd ‹_›
    · exact (hs.readHist.snd ‹_›).rejectLaunch
    · split
      · exact (hs.readHist.snd ‹_›).rejectLaunch
      · exact (hs.readHist.snd ‹_›).modLaunch.checkPins

theorem doLaunch {c q : Nat} : Stays s (Machine.doLaunch c q t) := by
  unfold Machine.doLaunch
  dsimp only
  split
  · exact hs
  · split
    · exact hs.rejectLaunch
    · split
      · exact hs.checkHists.ite hs
      · split
        · exact hs.fetchImage.checkHists
        · exact hs.fetchImage

theorem doPlacementRetry {part : Nat} : Stays s (Machine.doPlacementRetry part t) := by
  unfold Machine.doPlacementRetry
  refine hs.foldl fun _ _ hu => ?_
  split
  · exact hu.tryPlace
  · exact hu

theorem doTokenAllocRetry {c q : Nat} : Stays s (Machine.doTokenAllocRetry c q t) := by
  unfold Machine.doTokenAllocRetry
  split
  · exact hs.allocLaunch.ite hs
  · exact hs

theorem doReservationTimeout {c q : Nat} : Stays s (Machine.doReservationTimeout c q t) := by
  unfold Machine.doReservationTimeout
  split
  · exact hs.modLaunch.ite hs
  · exact hs

theorem startLaunch {l : Launch} : Stays s (Machine.startLaunch t l) := hs.modLaunch.traceLaunch

theorem doLaunchStart {c q : Nat} : Stays s (Machine.doLaunchStart c q t) := by
  unfold Machine.doLaunchStart
  split
  · exact hs
  · split
    · exact hs
    · split
      · exact hs.startLaunch.launchErr
      · split
        · exact hs.startLaunch
        · split
          · exact (hs.writeVa.snd ‹_›).startLaunch
          · exact hs.writeVa.snd ‹_›
          · exact (hs.writeVa.snd ‹_›).startLaunch.launchErr

theorem dropRegions {l : Launch} : Stays s (Machine.dropRegions t l) := by
  unfold Machine.dropRegions
  refine hs.foldl fun _ _ hu => ?_
  split
  · exact hu
  · exact hu.dropRegion
  · exact hu

theorem cancelLaunch {c q : Nat} : Stays s (Machine.cancelLaunch t c q) := by
  unfold Machine.cancelLaunch
  split
  · exact hs
  · refine hs.foldl fun _ _ hu => ?_
    split
    · exact hu.cancelMoves
    · exact hu

theorem dropWaits {l : Launch} : Stays s (Machine.dropWaits t l) := hs.foldl fun _ _ hu => hu.putTok

theorem doLaunchError {c q : Nat} : Stays s (Machine.doLaunchError c q t) := by
  unfold Machine.doLaunchError
  split
  · exact hs
  · split
    · exact hs.modLaunch.cancelLaunch.withdraw.dropWaits.dropRegions
    · exact hs

theorem driftEvent {l : Launch} {i old new : Nat} : Stays s (Machine.driftEvent t l i old new) := hs.modCmd.ctxEvent.ite hs

theorem recordHome {l : Launch} {i a : Nat} : Stays s (Machine.recordHome t l i a).2 := by
  unfold Machine.recordHome
  dsimp only
  split
  · exact hs.xlate.touchPage
  · split <;> exact hs

theorem updateRecord {l : Launch} {i : Nat} {x : ScaleSlot} : Stays s (Machine.updateRecord t l i x).2 := by
  unfold Machine.updateRecord
  dsimp only
  split
  · exact hs
  · exact hs.dropRemotes.modCmd
  · split
    · exact hs.recordHome.snd ‹_›
    · exact hs.recordHome.snd ‹_›
    · split
      · exact (hs.recordHome.snd ‹_›).ncRmw.snd ‹_›
      · exact ((hs.recordHome.snd ‹_›).ncRmw.snd ‹_›).driftEvent
    · split
      · exact hs.recordHome.snd ‹_›
      · split
        · exact (hs.recordHome.snd ‹_›).remoteRead.snd ‹_›
        · exact ((hs.recordHome.snd ‹_›).remoteRead.snd ‹_›).dropRemotes
        · split
          · exact ((hs.recordHome.snd ‹_›).remoteRead.snd ‹_›).remoteWrite.snd ‹_›
          · exact (((hs.recordHome.snd ‹_›).remoteRead.snd ‹_›).remoteWrite.snd ‹_›).dropRemotes
          · exact (((hs.recordHome.snd ‹_›).remoteRead.snd ‹_›).remoteWrite.snd ‹_›).dropRemotes.driftEvent

theorem finishLaunch {l : Launch} : Stays s (Machine.finishLaunch t l) := hs.forgetLaunch.complete.traceLaunch

omit hs in
theorem recordSteps {s t : State} (hs : Stays s t) {c q n : Nat} : Stays s (Machine.recordSteps c q n t) := by
  unfold Machine.recordSteps
  split
  · exact hs
  · split
    · exact hs
    · split
      · exact hs.finishLaunch
      · split
        · exact hs.updateRecord.snd ‹_›
        · exact (hs.updateRecord.snd ‹_›).modLaunch.recordSteps

theorem beginRecords {l : Launch} : Stays s (Machine.beginRecords t l) := hs.releaseUnits.modCmd.modLaunch

theorem doLaunchEnd {c q : Nat} : Stays s (Machine.doLaunchEnd c q t) := by
  unfold Machine.doLaunchEnd
  split
  · exact hs
  · exact hs.recordSteps.ite (hs.beginRecords.recordSteps.ite hs)

end Sys2Proof.Proofs.Stays
end

section
/-! Tiers, contexts, resets and power: every operation keeps the queue and the form of the memories. -/

namespace Sys2Proof.Proofs.Stays

open Sys2Proof.Machine Sys2Proof.Safety Sys2Proof.Laws

variable {s t : State} (hs : Stays s t)
include hs

/-! ### Machine/Tier.lean -/

theorem regionResult {h status entry : Nat} : Stays s (Machine.regionResult t h status entry) := ⟨hs.pending, hs.memWf⟩

theorem regionCmd {h c region : Nat} : Stays s (Machine.regionCmd t h c region) := ⟨hs.pending, hs.memWf⟩

theorem chargeAll {u : State} {c i : Nat} {l : List (BitVec 64)} (hu : Machine.chargeAll t c i l = .ok u) : Stays s u := by
  induction l generalizing t i with
  | nil => exact Except.ok.inj hu ▸ hs
  | cons w r ih =>
    unfold Machine.chargeAll at hu
    split at hu
    · exact ih (hs.charge ‹_›) hu
    · cases hu

theorem declareRegion {h c i va : Nat} {ro : Bool} {l : List (BitVec 64)} : Stays s (Machine.declareRegion t h c i va ro l) := by
  unfold Machine.declareRegion
  refine hs.regionResult.ite ?_
  split
  · exact hs.regionResult
  · split
    · exact hs.quotaRefused.regionResult
    · exact hs.regionResult.ite (hs.chargeAll ‹_›).update.regionResult

theorem declareCmd {h op : Nat} {ro : Bool} {pages i c : Nat} : Stays s (Machine.declareCmd h op ro pages i c t) :=
  hs.regionCmd.fput.fput.fput

theorem declareList {h pa n : Nat} : Stays s (Machine.declareList t h pa n).2 := hs.ncFetch

theorem regionBusy {h : Nat} {f : State → State} (hf : ∀ u, Stays s u → Stays s (f u)) : Stays s (Machine.regionBusy t h f) :=
  hs.fput.ite (hf _ hs)

theorem doTierRegionDeclare {h : Nat} {ro : Bool} {pages i c : Nat} : Stays s (Machine.doTierRegionDeclare h ro pages i c t) := by
  unfold Machine.doTierRegionDeclare
  refine hs.regionBusy fun _ hu => hu.declareCmd.regionResult.ite ?_
  split
  · exact hu.declareCmd.regionResult
  · split
    · exact (hu.declareCmd.declareList.snd ‹_›).regionResult
    · exact (hu.declareCmd.declareList.snd ‹_›).declareRegion

theorem doTierRegionRelease {h : Nat} {ro : Bool} {pages i c : Nat} : Stays s (Machine.doTierRegionRelease h ro pages i c t) := by
  unfold Machine.doTierRegionRelease
  refine hs.regionBusy fun _ hu => ?_
  dsimp only
  split
  · exact hu.declareCmd.regionResult
  · exact hu.declareCmd.regionResult.ite (hu.declareCmd.foldl fun _ _ hv => hv.refund).tlbDrop.update.regionResult

theorem endList {c q : Nat} {k : Cmd} {status done : Nat} : Stays s (Machine.endList t c q k status done) :=
  hs.dropData.modCmd.ite hs.dropData.dropRemotes.complete.showFinders

theorem endPages {c q : Nat} {k : Cmd} {status : Nat} : Stays s (Machine.endPages t c q k status) := hs.endList

theorem nextPage {c q : Nat} {k : Cmd} : Stays s (Machine.nextPage t c q k) := hs.endPages.ite hs.modCmd.showFinders

theorem spoil {l : Loc} {n : Nat} : Stays s (Machine.spoil t l n) := by
  unfold Machine.spoil
  split
  · exact hs.foldl fun _ _ hu => hu.update.ncWrite
  · exact hs

theorem failPage {c q : Nat} {k : Cmd} {va : Nat} {dst : BitVec 64} {status : Nat} :
    Stays s (Machine.failPage t c q k va dst status) := by
  unfold Machine.failPage
  split
  · exact hs.modPage.refund.fsat.spoil.endPages
  · exact hs.modPage.refund.fsat.spoil.endPages
  · exact hs.modPage.refund.spoil.endPages

theorem doMovePages {c q : Nat} : Stays s (Machine.doMovePages c q t) := by
  unfold Machine.doMovePages
  dsimp only
  split
  · exact hs
  · split
    · exact hs.failPage
    · exact hs
    · exact hs.endPages
    · split
      · exact hs.readVa.snd ‹_›
      · exact (hs.readVa.snd ‹_›).endPages
      · split
        · exact (hs.readVa.snd ‹_›).endPages
        · split
          · exact (hs.readVa.snd ‹_›).endPages
          · exact (hs.readVa.snd ‹_›).nextPage.ite (hs.readVa.snd ‹_›).modCmd
    · exact hs

theorem doMovePagesCopy {c q : Nat} : Stays s (Machine.doMovePagesCopy c q t) := by
  unfold Machine.doMovePagesCopy
  split
  · exact hs
  · split
    · split
      · exact hs.endPages
      · split
        · exact hs.ite hs.nextPage
        · split
          · exact hs.ite hs
          · split
            · exact hs.ite hs.quotaRefused.endPages
            · exact hs.ite (hs.charge ‹_›).modPage.modCmd.showFinders
    · exact hs

theorem switchPage {c q va : Nat} {old dst : BitVec 64} : Stays s (Machine.switchPage t c q va old dst) :=
  hs.modPage.tlbDrop.modPage.fsat.modCmd

theorem doMovePagesSwitch {c q : Nat} : Stays s (Machine.doMovePagesSwitch c q t) := by
  unfold Machine.doMovePagesSwitch
  split
  · exact hs
  · split
    · split
      · exact hs
      · dsimp only
        split
        · exact hs.failPage
        · exact hs.failPage
        · split
          · exact hs.getLoc.snd ‹_›
          · have hg := hs.getLoc.snd ‹_›
            split
            · exact hg.failPage
            · split
              · exact hg.putLines.snd ‹_›
              · exact (hg.putLines.snd ‹_›).failPage
              · exact (hg.putLines.snd ‹_›).dropData.countBytes.touchPage.switchPage
    · exact hs

theorem doMovePagesReturn {c q : Nat} : Stays s (Machine.doMovePagesReturn c q t) := by
  unfold Machine.doMovePagesReturn
  split
  · exact hs
  · split
    · exact hs.ite hs.refund.nextPage
    · exact hs

theorem hintPage {h c page : Nat} : Stays s (Machine.hintPage t h c page) := by
  unfold Machine.hintPage
  split
  · exact hs
  · exact hs.modPage.writeHint.ite hs

theorem doAccessDecay {h : Nat} : Stays s (Machine.doAccessDecay h t) :=
  hs.update.foldl fun _ _ hu => hu.foldl fun _ _ hv => hv.hintPage

/-! ### Machine/Queue.lean -/

theorem doContextEnable {c : Nat} {attr : BitVec 64} : Stays s (Machine.doContextEnable c attr t) :=
  hs.ite (hs.putCtx.ite (hs.putCtx.ite hs.putCtx))

theorem doContextDisable {c : Nat} {attr : BitVec 64} : Stays s (Machine.doContextDisable c attr t) :=
  hs.ite (hs.putCtx.ite hs.putCtx)

theorem doUnpark {c : Nat} : Stays s (Machine.doUnpark c t) := hs.putCtx.ite hs

theorem doorbell {c : Nat} {f : Ctx → State} (hf : ∀ x, Stays s (f x)) : Stays s (Machine.doorbell t c f) :=
  hs.ite ((hf _).ite hs.fsat)

theorem ignoreBell {c : Nat} : Stays s (Machine.ignoreBell t c) := ⟨hs.pending, hs.memWf⟩

theorem doCmdTail {c : Nat} {value : BitVec 64} : Stays s (Machine.doCmdTail c value t) :=
  hs.doorbell fun _ => hs.putCtx.ite hs.ignoreBell.ctxEvent

theorem doCplHead {c : Nat} {value : BitVec 64} : Stays s (Machine.doCplHead c value t) :=
  hs.doorbell fun _ => hs.putCtx.ite hs.ignoreBell

theorem doEvtHead {c : Nat} {value : BitVec 64} : Stays s (Machine.doEvtHead c value t) :=
  hs.doorbell fun _ => hs.putCtx.ite hs.ignoreBell

theorem readSlotOf {c : Nat} {x : Ctx} : Stays s (Machine.readSlotOf t c x).2 := hs.ncFetch

theorem parkCtx {c seq status : Nat} : Stays s (Machine.parkCtx t c seq status) := hs.modCtx.ctxEvent

theorem takeDesc {c : Nat} {bs : List Byte} : Stays s (Machine.takeDesc t c bs) := ⟨hs.pending, hs.memWf⟩

theorem doDescriptorFetch {h : Nat} : Stays s (Machine.doDescriptorFetch h t) := by
  unfold Machine.doDescriptorFetch
  dsimp only
  split
  · exact hs
  · split
    · exact hs.update.parkCtx
    · split
      · exact hs.update.readSlotOf.takeDesc
      · exact hs.update.readSlotOf.modCtx

theorem doStaleRefetch {c : Nat} : Stays s (Machine.doStaleRefetch c t) := by
  unfold Machine.doStaleRefetch
  dsimp only
  split
  · exact hs
  · split
    · exact hs
    · split
      · exact hs.fsat.parkCtx
      · split
        · exact hs.fsat.readSlotOf.takeDesc
        · exact hs.fsat.readSlotOf.modCtx.ite hs.fsat.readSlotOf.parkCtx

theorem doCommandDispatch {c : Nat} : Stays s (Machine.doCommandDispatch c t) := by
  unfold Machine.doCommandDispatch
  dsimp only
  split
  · split
    · exact hs
    · split
      · exact hs.complete
      · exact hs.modCmd
  · exact hs

theorem doMoveCmd {c q : Nat} : Stays s (Machine.doMoveCmd c q t) := by
  unfold Machine.doMoveCmd
  split
  · exact hs
  · split
    · exact hs.modCmd.showFinders
    · exact hs

theorem endMove {c q : Nat} {k : Cmd} {status : Nat} : Stays s (Machine.endMove t c q k status) :=
  (hs.dropData.ite hs.dropData.finderError).endList

theorem breakEntry {c q : Nat} {k : Cmd} : Stays s (Machine.breakEntry t c q k) := by
  unfold Machine.breakEntry
  split
  · exact (hs.readVa.snd ‹_›).cancelJob.modCmd
  · exact hs

theorem settleMove {c q : Nat} : Stays s (Machine.settleMove t c q) := by
  unfold Machine.settleMove
  split
  · exact hs.breakEntry.ite hs
  · exact hs

theorem settleMoves : Stays s (Machine.settleMoves t) := hs.foldl fun _ _ hu => hu.foldl fun _ _ hv => hv.settleMove

theorem doMoveEntry {c q : Nat} {e : Ecc} : Stays s (Machine.doMoveEntry c q e t) := by
  unfold Machine.doMoveEntry
  dsimp only
  split
  · exact hs
  · split
    · exact hs
    · split
      · exact (hs.ite hs.breakEntry).endMove
      · split
        · exact hs.modCmd.readVa.snd ‹_›
        · exact (hs.modCmd.readVa.snd ‹_›).endMove
        · split
          · exact (hs.modCmd.readVa.snd ‹_›).endMove
          · split
            · exact ((hs.modCmd.readVa.snd ‹_›).finderCe.runJob.snd ‹_›).settleMove
            · exact ((hs.modCmd.readVa.snd ‹_›).finderCe.runJob.snd ‹_›).endMove
            · exact ((hs.modCmd.readVa.snd ‹_›).finderCe.runJob.snd ‹_›).endMove
            · exact ((hs.modCmd.readVa.snd ‹_›).finderCe.runJob.snd ‹_›).countBytes.modCmd.endMove.ite
                ((hs.modCmd.readVa.snd ‹_›).finderCe.runJob.snd ‹_›).countBytes.modCmd

theorem doSetQuotas {c q : Nat} : Stays s (Machine.doSetQuotas c q t) := by
  unfold Machine.doSetQuotas
  split
  · exact hs
  · exact hs.complete.ite hs.modCtx.complete

theorem doSync {c q : Nat} : Stays s (Machine.doSync c q t) := by
  unfold Machine.doSync
  split
  · exact hs
  · exact hs.complete.ite hs.modCmd

theorem doSyncComplete {c q : Nat} : Stays s (Machine.doSyncComplete c q t) := by
  unfold Machine.doSyncComplete
  split
  · exact hs
  · split
    · exact hs
    · split
      · exact hs.complete
      · split
        · exact hs.complete
        · split
          · exact (hs.writeVa.snd ‹_›).complete
          · exact hs.writeVa.snd ‹_›
          · exact (hs.writeVa.snd ‹_›).complete

/-! ### Machine/RegSpace.lean -/

theorem clearRegs {p : Nat → Dom → Bool} : Stays s (Machine.clearRegs t p) := ⟨hs.pending, hs.memWf⟩

/-! ### Machine/ResetOps.lean -/

theorem histPush {w : BitVec 64} : Stays s (Machine.histPush t w) := (hs.foldl fun _ _ hu => hu.rput).rput

theorem recordCause {source level unit : Nat} : Stays s (Machine.recordCause t source level unit) := hs.rput.histPush

theorem clearSystem : Stays s (Machine.clearSystem t) := ⟨hs.pending, fun _ => ⟨rfl, rfl, rfl⟩⟩

theorem clearPowerOn : Stays s (Machine.clearPowerOn t) := ⟨hs.pending, fun _ => ⟨rfl, rfl, rfl⟩⟩

theorem stayStopped {u : State} : Stays s (Machine.stayStopped u t) := hs.update.ite hs

theorem systemReset {source unit : Nat} : Stays s (Machine.systemReset t source unit) :=
  hs.histPush.ite (hs.clearSystem.recordCause.ite hs.clearSystem.recordCause.stayStopped)

theorem keepRecord {source unit : Nat} : Stays s (Machine.keepRecord t source unit) := hs.ite hs.persistCommitNow

theorem powerOnReset {source unit : Nat} : Stays s (Machine.powerOnReset t source unit) :=
  hs.histPush.ite hs.commitAll.keepRecord.clearPowerOn.stayStopped

theorem orderlyStop : Stays s (Machine.orderlyStop t) := by
  unfold Machine.orderlyStop
  dsimp only
  split
  · exact (hs.update.draw.foldl fun _ _ hu => hu.forceDrain).commitFirst
  · exact (hs.update.draw.draw.foldl fun _ _ hu => hu.forceDrain).commitFirst

theorem doBrownout : Stays s (Machine.doBrownout t) := hs.histPush.ite hs.orderlyStop.keepRecord.clearPowerOn.stayStopped

theorem doPwrGoodFall : Stays s (Machine.doPwrGoodFall t) := hs.ite hs.orderlyStop.keepRecord.clearPowerOn.update

theorem doPwrGoodRise : Stays s (Machine.doPwrGoodRise t) := hs.ite hs.update.fput

theorem doSysRstN : Stays s (Machine.doSysRstN t) := hs.ite (hs.update.ite hs.update.systemReset)

theorem finishCoreReset : Stays s (Machine.finishCoreReset t) :=
  ((hs.foldl fun _ _ hu => hu.flushCore).update.foldl fun _ _ hu => hu.startCore).update

theorem dropCommits : Stays s (Machine.dropCommits t) := by
  unfold Machine.dropCommits
  refine hs.foldl fun _ _ hu => ?_
  dsimp only
  split
  · exact hu
  · exact hu.modEng.fput
  · exact hu

theorem coreReset : Stays s (Machine.coreReset t) :=
  hs.histPush.ite ((hs.recordCause.dropCommits.update.foldl fun _ _ hu => hu.drainAll).finishCoreReset.ite
    (hs.recordCause.dropCommits.update.foldl fun _ _ hu => hu.drainAll))

theorem loseStores {d c : Nat} : Stays s (Machine.loseStores t d c) := hs.ite hs.modCore.fsat.raise

theorem doCoreResetDrainTimeout {d : Nat} : Stays s (Machine.doCoreResetDrainTimeout d t) :=
  hs.ite ((hs.foldl fun _ _ hu => hu.loseStores).finishCoreReset.ite (hs.foldl fun _ _ hu => hu.loseStores))

theorem setPartState {p v : Nat} : Stays s (Machine.setPartState t p v) := ⟨hs.pending, hs.memWf⟩

theorem resetRecord {c : Nat} : Stays s (Machine.resetRecord t c) := hs.ite hs.recWrite

theorem dropMisses {r : Nat × Nat} {d c : Nat} : Stays s (Machine.dropMisses t r d c) := hs.modCore.foldl fun _ _ hu => hu.loadError

theorem dropRange {r : Nat × Nat} : Stays s (Machine.dropRange t r) := hs.mapL2.update.foldl fun _ _ hu => hu.dropMisses

theorem wipeHbm {p : Nat} : Stays s (Machine.wipeHbm t p) := hs.mem (wf_memClear _ _ _)

theorem clearHbm {p : Nat} : Stays s (Machine.clearHbm t p) := hs.dropRange.wipeHbm.update

theorem clearAccel {p : Nat} : Stays s (Machine.clearAccel t p) := by
  unfold Machine.clearAccel
  refine (((hs.withdraw.foldl fun _ _ hu => ?_).near (wf_filter _ _)).ostore (wf_filter _ _)).update
  exact hu.fput.fput.fput.ite hu

theorem clearPipes {p : Nat} : Stays s (Machine.clearPipes t p) := hs.foldl fun _ _ hu => hu.fput.fput.ite hu

theorem resetPart {p : Nat} : Stays s (Machine.resetPart t p) :=
  (hs.update.setPartState.fsat.foldl fun _ _ hu => hu.resetRecord).raise.clearHbm.clearPipes.clearAccel.clearRegs

theorem partReset {p source : Nat} : Stays s (Machine.partReset t p source) := hs.ite (hs.histPush.ite hs.recordCause.resetPart)

theorem doPartitionFullReset {p unit : Nat} : Stays s (Machine.doPartitionFullReset p unit t) := hs.partReset

theorem rstCtl {key level p : Nat} : Stays s (Machine.rstCtl t key level p) :=
  hs.fput.ite (hs.fput.coreReset.ite (hs.fput.systemReset.ite hs.fput.partReset))

/-! ### Machine/PowerCtl.lean -/

theorem takeSample {p : PowerSample} : Stays s (Machine.takeSample t p) := ⟨hs.pending, hs.memWf⟩

theorem applyShare {p w : Nat} : Stays s (Machine.applyShare t p w) := hs.update.foldl fun _ _ hu => hu.setDiePairs

omit hs in
theorem lowerCaps {s t : State} (hs : Stays s t) {n : Nat} : Stays s (Machine.lowerCaps n t) := by
  unfold Machine.lowerCaps
  split
  · exact hs
  · split
    · exact hs
    · exact hs.update.setCap.lowerCaps

theorem setCaps : Stays s (Machine.setCaps t) := hs.foldl fun _ _ hu => hu.foldl fun _ _ hv => hv.setCap

theorem hostCaps {short : Bool} : Stays s (Machine.hostCaps t short) := hs.drawBelow.lowerCaps.ite (hs.ite hs.update.setCaps)

theorem showPower : Stays s (Machine.showPower t) := ⟨hs.pending, hs.memWf⟩

theorem budget : Stays s (Machine.budget t) := (hs.hostCaps.foldl fun _ _ hu => hu.applyShare).showPower

theorem countGated : Stays s (Machine.countGated t) := hs.foldl fun _ _ hu => hu.fsat

theorem noteUnmet {watts : Nat} : Stays s (Machine.noteUnmet t watts) := hs.update.ite hs.update.fput

theorem doHeliostatEvaluation {p : PowerSample} : Stays s (Machine.doHeliostatEvaluation p t) :=
  hs.countGated.takeSample.update.budget.noteUnmet

theorem doDipStart {mv : Nat} : Stays s (Machine.doDipStart mv t) := hs.doBrownout.ite (hs.ite hs.fput.fsat.fput.update.budget)

theorem doRideThroughReduced {mv : Nat} : Stays s (Machine.doRideThroughReduced mv t) :=
  hs.doBrownout.ite (hs.ite hs.fput.update.budget)

theorem doDipEnd {lowestMv durationUs : Nat} : Stays s (Machine.doDipEnd lowestMv durationUs t) :=
  hs.ite (hs.doBrownout.ite hs.fput.raise.update.budget)

theorem doFastLoop {p : PowerSample} : Stays s (Machine.doFastLoop p t) :=
  (hs.takeSample.ite hs.takeSample.update.fput).ite ((hs.takeSample.ite
    hs.takeSample.fput.fsat).update.update.setAllPairs.showPower.ite (hs.takeSample.ite hs.takeSample.fput.fsat).update)

theorem doPowerCeilingUnmet : Stays s (Machine.doPowerCeilingUnmet t) := hs.ite (hs.fput.ite hs.fput.update.raise)

theorem doCapReqAssert : Stays s (Machine.doCapReqAssert t) := hs.update.ite hs.update.update.fput

theorem doCapReqRelease : Stays s (Machine.doCapReqRelease t) := ⟨hs.pending, hs.memWf⟩

theorem setLimits {d n : Nat} : Stays s (Machine.setLimits t d n) := by
  unfold Machine.setLimits
  split
  · exact hs.update.setDiePairs
  · exact hs.update.setCaps
  · exact hs.update
  · exact hs.update
  · exact hs

theorem noteSet {d n : Nat} : Stays s (Machine.noteSet t d n) := ⟨hs.pending, hs.memWf⟩

theorem showTherm : Stays s (Machine.showTherm t) := by
  unfold Machine.showTherm
  dsimp only
  split
  · exact hs.update.fput
  · exact hs.update.fput.fput.fput

theorem limitEvent {d n : Nat} : Stays s (Machine.limitEvent t d n) := hs.ite hs.update.fsat.raise

theorem doThermalSample {d n : Nat} : Stays s (Machine.doThermalSample d n t) :=
  hs.ite (hs.update.limitEvent.noteSet.setLimits.ite hs.update.limitEvent).showTherm.showPower

theorem doNsThermalSample {die n : Nat} : Stays s (Machine.doNsThermalSample die n t) :=
  hs.ite (hs.fput.ite (hs.fput.noteSet.fput.fsat.ite hs.fput.noteSet.fput).update.setDiePairs)

theorem doThermalGateStep {d n : Nat} : Stays s (Machine.doThermalGateStep d n t) := by
  unfold Machine.doThermalGateStep
  split
  · exact hs
  · exact hs.update.setDiePairs.showPower

theorem doPairIdleOff {d p : Nat} : Stays s (Machine.doPairIdleOff d p t) :=
  hs.ite ((hs.countHandshakes.countHandshakes.advance.rput.ostore (wf_memClear _ _ _)).modEng.ostore (wf_memClear _ _ _)).modEng

theorem doPwrDomainOffReq {unit : Nat} {off : Bool} : Stays s (Machine.doPwrDomainOffReq unit off t) :=
  hs.fput.fput.ite (hs.fput.fput.fput.ite hs.fput.fput.update.fput)

theorem doPwrLearnFlush : Stays s (Machine.doPwrLearnFlush t) := ⟨hs.pending, hs.memWf⟩

theorem takeReport {dev slack watts grant : Nat} : Stays s (Machine.takeReport t dev slack watts grant) := ⟨hs.pending, hs.memWf⟩

theorem doSlackReport {slackNs watts : Nat} : Stays s (Machine.doSlackReport slackNs watts t) :=
  hs.ite (hs.fput.takeReport.ite (hs.fput.drawBelow.getD fun _ hu => hs.fput.drawBelow.fabricSend hu))

theorem setGrant {w : Nat} : Stays s (Machine.setGrant t w) := ⟨hs.pending, hs.memWf⟩

theorem sendGrant {dev w : Nat} : Stays s (Machine.sendGrant t dev w) := hs.setGrant.ite (hs.getD fun _ hu => hs.fabricSend hu)

theorem doGrantDistribution : Stays s (Machine.doGrantDistribution t) := by
  unfold Machine.doGrantDistribution
  dsimp only
  split
  · exact hs
  · split
    · exact hs
    · exact hs.update.fsat.foldl fun _ _ hu => hu.sendGrant

theorem doJobCoordinatorLost : Stays s (Machine.doJobCoordinatorLost t) := hs.ite hs.setGrant.fsat.raise

end Sys2Proof.Proofs.Stays
end

section
/-! The network, links and PCIe: every operation keeps the queue and the form of the memories. -/

namespace Sys2Proof.Proofs.Stays

open Sys2Proof.Machine Sys2Proof.Safety Sys2Proof.Laws

variable {s t : State} (hs : Stays s t)
include hs

/-! ### Machine/Network.lean -/

theorem forgetRemote {r : RemoteReq} : Stays s (Machine.forgetRemote t r) := ⟨hs.pending, hs.memWf⟩

theorem failRemote {r : RemoteReq} : Stays s (Machine.failRemote t r) := by
  unfold Machine.failRemote
  split
  · exact hs.forgetRemote
  · split
    · split
      · exact hs.forgetRemote.holdAgent.launchErr
      · exact hs.forgetRemote
      · exact hs.forgetRemote
      · exact hs.forgetRemote
    · exact hs.forgetRemote.failAccess

theorem portDown {p state : Nat} : Stays s (Machine.portDown t p state) :=
  (hs.fput.putFab.foldl fun _ _ hu => hu.failRemote).settleStalls

theorem ackTo {p n : Nat} : Stays s (Machine.ackTo t p n) := by
  unfold Machine.ackTo
  dsimp only
  split
  · exact hs
  · exact hs.putFab.ite hs

theorem takeFrame {u : State} {p : Nat} {f : Frame} (hu : Machine.takeFrame t p f = some u) : Stays s u := by
  unfold Machine.takeFrame at hu
  dsimp only at hu
  split at hu
  · rw [← Option.some.inj hu]
    exact hs.putFab.ackTo.hopAck
  · cases hu

theorem receiveFrame {p : Nat} {f : Frame} {k : State → State} (hk : ∀ u, Stays s u → Stays s (k u)) :
    Stays s (Machine.receiveFrame t p f k) := by
  unfold Machine.receiveFrame
  refine hs.ite ?_
  split
  · exact hs
  · exact hk _ (hs.takeFrame ‹_›)

theorem reply {f : Frame} {kind : Nat} {arg : BitVec 64} {payload : List Byte} : Stays s (Machine.reply t f kind arg payload) :=
  hs.getD fun _ hu => hs.fabricSend hu

theorem doHopRetransmit {p : Nat} : Stays s (Machine.doHopRetransmit p t) := by
  unfold Machine.doHopRetransmit
  dsimp only
  split
  · exact hs
  · exact hs.ite (hs.putFab.fsat.ite hs.portDown.raise)

theorem doFrameForward {p kind : Nat} {f : Frame} : Stays s (Machine.doFrameForward p kind f t) := by
  unfold Machine.doFrameForward
  split
  · exact hs
  · split
    · exact hs
    · split
      · exact (hs.takeFrame ‹_›).fsat
      · split
        · exact (hs.takeFrame ‹_›).hopSend.ite (hs.takeFrame ‹_›)
        · exact hs.takeFrame ‹_›

theorem doReadReq {p : Nat} {f : Frame} : Stays s (Machine.doReadReq p f t) :=
  hs.receiveFrame fun _ hu => hu.reply.ite (hu.ncRead.reply.ite hu.ncRead.reply)

theorem doFabricWrite {p : Nat} {f : Frame} : Stays s (Machine.doFabricWrite p f t) :=
  hs.receiveFrame fun _ hu => hu.reply.ite hu.ncWrite.reply

theorem markDone {r : RemoteReq} {data : List Byte} : Stays s (Machine.markDone t r data) := ⟨hs.pending, hs.memWf⟩

theorem doReadResp {p : Nat} {f : Frame} : Stays s (Machine.doReadResp p f t) := by
  unfold Machine.doReadResp
  refine hs.receiveFrame fun _ hu => ?_
  split
  · exact hu.markDone
  · exact hu

theorem doWriteAck {p : Nat} {f : Frame} : Stays s (Machine.doWriteAck p f t) := by
  unfold Machine.doWriteAck
  refine hs.receiveFrame fun _ hu => ?_
  split
  · exact hu.forgetRemote.ite hu.markDone
  · exact hu

theorem doErrorResp {p : Nat} {f : Frame} : Stays s (Machine.doErrorResp p f t) := by
  unfold Machine.doErrorResp
  refine hs.receiveFrame fun _ hu => ?_
  split
  · exact hu
  · refine .ite ?_ hu.failRemote.settleStalls
    dsimp only
    split
    · exact hu.update.launchErr
    · exact hu.update
    · exact hu.update
    · exact hu.update

theorem doFabricSignal {p : Nat} {f : Frame} : Stays s (Machine.doFabricSignal p f t) := by
  unfold Machine.doFabricSignal
  refine hs.receiveFrame fun _ hu => hu.reply.ite ?_
  split
  · exact hu.fabricAdd ‹_›
  · exact hu.reply

theorem doFabricWait {p : Nat} {f : Frame} : Stays s (Machine.doFabricWait p f t) :=
  hs.receiveFrame fun _ hu => hu.reply.ite hu.putFctr.wakeFabric

theorem doRelease {p : Nat} {f : Frame} : Stays s (Machine.doRelease p f t) := by
  unfold Machine.doRelease
  refine hs.receiveFrame fun _ hu => ?_
  dsimp only
  split
  · exact hu
  · split
    · split
      · exact hu.update.acquireRemote.advanceAgent
      · exact hu.update
    · exact hu.update
    · exact hu.update
    · exact hu.update

theorem doNetFctrVal {pd counter : Nat} {value : BitVec 32} : Stays s (Machine.doNetFctrVal pd counter value t) :=
  hs.putFctr.wakeFabric

theorem doSlack {p : Nat} {f : Frame} : Stays s (Machine.doSlack p f t) := hs.receiveFrame fun _ hu => hu.takeReport.ite hu

theorem doGrant {p : Nat} {f : Frame} : Stays s (Machine.doGrant p f t) := hs.receiveFrame fun _ hu => hu.setGrant.ite hu

theorem probeRoute {key : Nat} {w : BitVec 64} : Stays s (Machine.probeRoute t key w) := hs.ite hs.hopSend.update

theorem doRouteProbe : Stays s (Machine.doRouteProbe t) := hs.foldl fun _ _ hu => hu.probeRoute

theorem doProbeResp {p : Nat} {f : Frame} : Stays s (Machine.doProbeResp p f t) := by
  unfold Machine.doProbeResp
  refine hs.receiveFrame fun _ hu => ?_
  split
  · exact hu
  · exact hu.update

theorem portTick : Stays s (Machine.portTick t) := hs.drawBelow.ite (hs.drawBelow.hopLeave.ite hs.drawBelow.drawBelow.putFab)

theorem doNetPortLinkUp {p peer : Nat} : Stays s (Machine.doNetPortLinkUp p peer t) := hs.ite hs.fput.fput.putFab

theorem doNetPortLinkDown {p : Nat} : Stays s (Machine.doNetPortLinkDown p t) := hs.portDown.ite hs

/-! ### Machine/Rdma.lean -/

theorem doNetQpEnable {pd n : Nat} {record : BitVec 64} : Stays s (Machine.doNetQpEnable pd n record t) := by
  unfold Machine.doNetQpEnable
  dsimp only
  split
  · exact hs
  · split
    · split <;> exact (hs.ncFetch.snd ‹_›).putQp
    · exact hs.putQp
    · exact hs.putQp
    · exact hs.putQp

theorem doNetQpDisable {pd n : Nat} : Stays s (Machine.doNetQpDisable pd n t) := hs.modQp

theorem doNetQpDoorbell {pd n tail : Nat} : Stays s (Machine.doNetQpDoorbell pd n tail t) := by
  unfold Machine.doNetQpDoorbell
  split
  · exact hs
  · exact hs.ite (hs.putQp.ite (hs.putQp.settleQp.ite hs))

theorem endRequest {pd n status flags : Nat} : Stays s (Machine.endRequest t pd n status flags) := by
  unfold Machine.endRequest
  split
  · exact hs
  · exact hs.dropRemotes.qpRecord.modQp

theorem endRefused {pd n status flags : Nat} : Stays s (Machine.endRefused t pd n status flags) := hs.ite hs.endRequest

theorem qpStale {pd n : Nat} {q : Qp} : Stays s (Machine.qpStale t pd n q) := hs.modQp.ite hs.ctxEvent.qpError

theorem takesRequest {q : Qp} : Stays s (Machine.takesRequest t q).2 := by
  unfold Machine.takesRequest
  split
  · exact hs
  · exact hs.ringFull

theorem sendRoce {m : RoceMsg} : Stays s (Machine.sendRoce t m) := ⟨hs.pending, hs.memWf⟩

theorem performRequest {pd n : Nat} {q : Qp} {w data : List Byte} : Stays s (Machine.performRequest t pd n q w data) := by
  unfold Machine.performRequest
  dsimp only
  split
  · split
    · exact hs
    · split
      · exact hs.writeVa.snd ‹_›
      · exact (hs.writeVa.snd ‹_›).endRefused
      · exact (hs.writeVa.snd ‹_›).sendRoce.endRequest
  · split
    · exact hs.readVa.snd ‹_›
    · exact (hs.readVa.snd ‹_›).endRefused
    · exact (hs.readVa.snd ‹_›).sendRoce.endRequest

theorem runRequest {pd n op : Nat} {data : List Byte} : Stays s (Machine.runRequest t pd n op data) := by
  unfold Machine.runRequest
  dsimp only
  split
  · exact hs.settleQp
  · split
    · exact hs.settleQp.takesRequest
    · split
      · exact hs.settleQp.takesRequest.readVa.snd ‹_›
      · exact (hs.settleQp.takesRequest.readVa.snd ‹_›).ite (hs.settleQp.takesRequest.readVa.snd ‹_›).qpFail
      · exact (hs.settleQp.takesRequest.readVa.snd ‹_›).qpStale.ite
          ((hs.settleQp.takesRequest.readVa.snd ‹_›).modQp.endRequest.ite ((hs.settleQp.takesRequest.readVa.snd ‹_›).modQp.ite
          ((hs.settleQp.takesRequest.readVa.snd ‹_›).modQp.endRequest.ite
          ((hs.settleQp.takesRequest.readVa.snd ‹_›).modQp.endRequest.ite
          (hs.settleQp.takesRequest.readVa.snd ‹_›).modQp.performRequest))))

theorem rnrPeer {pd n : Nat} : Stays s (Machine.rnrPeer t pd n) := hs.modQp

theorem received {pd n len : Nat} {imm : BitVec 32} : Stays s (Machine.received t pd n len imm) := by
  unfold Machine.received
  split
  · exact hs
  · exact hs.qpRecord.modQp

theorem inboundAccess {pd n : Nat} {q : Qp} {y : Inbound} : Stays s (Machine.inboundAccess t pd n q y).2 := by
  unfold Machine.inboundAccess
  split
  · exact hs.writeVa
  · exact hs.writeVa
  · exact hs.readVa

theorem inboundDone {pd n : Nat} {y : Inbound} : Stays s (Machine.inboundDone t pd n y) := by
  unfold Machine.inboundDone
  split
  · exact hs.received
  · exact hs.received
  · exact hs
  · exact hs

theorem serveInbound {pd n : Nat} {q : Qp} {x : Inbound} : Stays s (Machine.serveInbound t pd n q x).2 := by
  unfold Machine.serveInbound
  split
  · exact hs.inboundAccess.snd ‹_›
  · exact (hs.inboundAccess.snd ‹_›).dropRemotes.nakPeer
  · exact (hs.inboundAccess.snd ‹_›).dropRemotes.inboundDone.modQp

omit hs in
theorem runHeld {s t : State} (hs : Stays s t) {n m k : Nat} : Stays s (Machine.runHeld n t m k) := by
  unfold Machine.runHeld
  split
  · exact hs
  · split
    · exact hs
    · split
      · exact hs
      · exact hs.ite (hs.serveInbound.modQp.runHeld.ite hs.serveInbound)

theorem heldTick : Stays s (Machine.heldTick t) := hs.foldl fun _ _ hu => hu.runHeld

theorem inbound {pd n rkey : Nat} {ecn : Bool} {x : Inbound} : Stays s (Machine.inbound pd n rkey ecn x t) := by
  unfold Machine.inbound
  dsimp only
  split
  · exact hs
  · split
    · exact hs.nakPeer
    · split
      · exact hs
      · split
        · split
          · exact hs.modQp.runHeld.ringFull.rnrPeer
          · split
            · exact hs.modQp.runHeld.ringFull.nakPeer
            · exact hs.modQp.runHeld.ringFull.modQp.ite (hs.modQp.runHeld.ringFull.serveInbound.ite
                (hs.modQp.runHeld.ringFull.serveInbound.rnrPeer.ite hs.modQp.runHeld.ringFull.serveInbound.modQp))
        · split
          · exact hs.runHeld.ringFull.rnrPeer
          · split
            · exact hs.runHeld.ringFull.nakPeer
            · exact hs.runHeld.ringFull.modQp.ite (hs.runHeld.ringFull.serveInbound.ite
                (hs.runHeld.ringFull.serveInbound.rnrPeer.ite hs.runHeld.ringFull.serveInbound.modQp))

theorem doInboundAtomic {pd n : Nat} : Stays s (Machine.doInboundAtomic pd n t) := by
  unfold Machine.doInboundAtomic
  split
  · exact hs
  · exact hs.nakPeer.ite hs

theorem doRemoteNak {pd n : Nat} : Stays s (Machine.doRemoteNak pd n t) := by
  unfold Machine.doRemoteNak
  split
  · exact hs
  · exact hs.qpError.ite hs

theorem doRetryExceeded {pd n : Nat} : Stays s (Machine.doRetryExceeded pd n t) := by
  unfold Machine.doRetryExceeded
  split
  · exact hs
  · exact hs.qpError.ite hs

theorem doRoceRetransmit {pd n : Nat} : Stays s (Machine.doRoceRetransmit pd n t) := hs.modQp -- ok 768 fail 37

theorem doCnp {pd n : Nat} : Stays s (Machine.doCnp pd n t) := by
  unfold Machine.doCnp
  split
  · exact hs
  · exact hs.ite hs.drawBelow.modQp

theorem qpsPortDown {p : Nat} : Stays s (Machine.qpsPortDown t p) := hs.foldl fun _ _ hu => hu.qpError

/-! ### Machine/Links.lean -/

theorem putLnk {d p : Nat} {x : LinkPort} : Stays s (Machine.putLnk t d p x) := ⟨hs.pending, hs.memWf⟩

theorem bothEnds {d p : Nat} {f : State → Nat → Nat → State} (hf : ∀ u d p, Stays s u → Stays s (f u d p)) :
    Stays s (Machine.bothEnds t d p f) :=
  hf _ _ _ (hf _ _ _ hs)

theorem sendFlit {d p : Nat} {m : Parcel} : Stays s (Machine.sendFlit t d p m) := ⟨hs.pending, hs.memWf⟩

theorem sendIdle {d p : Nat} : Stays s (Machine.sendIdle t d p) := ⟨hs.pending, hs.memWf⟩

theorem sendNak {d p : Nat} : Stays s (Machine.sendNak t d p) := ⟨hs.pending, hs.memWf⟩

theorem takeCredits {d p : Nat} {f : List Byte} : Stays s (Machine.takeCredits t d p f) := ⟨hs.pending, hs.memWf⟩

theorem acknowledge {d p : Nat} : Stays s (Machine.acknowledge t d p) := hs.sendIdle.ite (hs.drawBelow.ite hs.drawBelow.sendIdle)

theorem lnkAck {d p n : Nat} : Stays s (Machine.lnkAck t d p n) := by
  unfold Machine.lnkAck
  dsimp only
  split
  · exact hs
  · exact hs.putLnk.ite hs

theorem sendFrame {d p : Nat} {test : List Bool} : Stays s (Machine.sendFrame t d p test) := ⟨hs.pending, hs.memWf⟩

theorem startRetrain {d p : Nat} : Stays s (Machine.startRetrain t d p) :=
  hs.ite (hs.bothEnds fun _ _ _ hu => hu.fput.fsat.sendFrame)

theorem replay {d p : Nat} : Stays s (Machine.replay t d p) := hs.ite (hs.startRetrain.ite hs.putLnk.fwrap)

theorem takeReverse {d p : Nat} {f : List Byte} : Stays s (Machine.takeReverse t d p f) :=
  hs.lnkAck.takeCredits.replay.ite hs.lnkAck.takeCredits

theorem doFlitReceive {d p : Nat} {f : List Byte} : Stays s (Machine.doFlitReceive d p f t) :=
  hs.ite (hs.sendNak.fsat.ite (hs.takeReverse.ite (hs.takeReverse.putLnk.acknowledge.ite hs.sendNak)))

theorem lnkComeUp {d p attempts : Nat} {w : Nat × Nat} : Stays s (Machine.lnkComeUp t d p attempts w) :=
  (hs.bothEnds fun _ _ _ hu => hu.fput.fput.fput.fput.fput.fput.putLnk.fwrap).raise.ite
    (hs.bothEnds fun _ _ _ hu => hu.fput.fput.fput.fput.fput.fput.putLnk.fwrap)

theorem lnkGoDown {d p : Nat} : Stays s (Machine.lnkGoDown t d p) := hs.bothEnds fun _ _ _ hu => hu.fput.fput.fput.fput

theorem disablePort {p : Nat} : Stays s (Machine.disablePort t p) := hs.fput.portDown

theorem detach {d : Nat} : Stays s (Machine.detach t d) :=
  hs.ite ((hs.foldl fun _ _ hu => hu.disablePort.qpsPortDown).ite (hs.update.ite hs))

theorem fenceReset {p : Nat} : Stays s (Machine.fenceReset t p) := hs.update.setPartState.partReset

theorem sendElsewhere {d p : Nat} : Stays s (Machine.sendElsewhere t d p) := ⟨hs.pending, hs.memWf⟩

theorem linkLoss {d p cause : Nat} : Stays s (Machine.linkLoss t d p cause) := by
  unfold Machine.linkLoss
  split
  · exact (hs.lnkGoDown.bothEnds fun _ _ _ hu => hu.sendElsewhere).raise.systemReset
  · exact (hs.lnkGoDown.bothEnds fun _ _ _ hu => hu.sendElsewhere).raise.fenceReset
  · exact ((hs.lnkGoDown.bothEnds fun _ _ _ hu => hu.sendElsewhere).raise.detach.ite
      (hs.lnkGoDown.bothEnds fun _ _ _ hu => hu.sendElsewhere).raise).detach.ite
      ((hs.lnkGoDown.bothEnds fun _ _ _ hu => hu.sendElsewhere).raise.detach.ite
      (hs.lnkGoDown.bothEnds fun _ _ _ hu => hu.sendElsewhere).raise)

theorem doLinkDown {d p cause : Nat} : Stays s (Machine.doLinkDown d p cause t) := hs.ite hs.linkLoss

theorem takeTraining {d p : Nat} {f : TrainFrame} : Stays s (Machine.takeTraining t d p f) := by
  unfold Machine.takeTraining
  dsimp only
  split <;> exact hs.putLnk

theorem disagree {d p : Nat} : Stays s (Machine.disagree t d p) := ⟨hs.pending, hs.memWf⟩

theorem setWidth {d p : Nat} {g : List Bool} : Stays s (Machine.setWidth t d p g).2 := by
  unfold Machine.setWidth
  split
  · exact hs.lnkComeUp
  · exact hs

omit hs in
theorem attempts {s t : State} (hs : Stays s t) {d p : Nat} {l : List (List Bool × List Bool)} :
    Stays s (Machine.attempts t d p l).2 := by
  unfold Machine.attempts
  dsimp only
  split
  · exact hs
  · split
    · exact (hs.sendFrame.sendFrame.elim fun _ => (hs.sendFrame.sendFrame.elim fun _ =>
        hs.sendFrame.sendFrame.takeTraining).takeTraining).setWidth
    · split
      · exact (hs.sendFrame.sendFrame.elim fun _ => (hs.sendFrame.sendFrame.elim fun _ =>
          hs.sendFrame.sendFrame.takeTraining).takeTraining).disagree
      · exact (hs.sendFrame.sendFrame.elim fun _ => (hs.sendFrame.sendFrame.elim fun _ =>
          hs.sendFrame.sendFrame.takeTraining).takeTraining).disagree.attempts

theorem showAttempts {d p cause : Nat} : Stays s (Machine.showAttempts t d p cause) := ⟨hs.pending, hs.memWf⟩

omit hs in
theorem endTraining {s : State} {d p : Nat} {r : Option Nat × State} (hr : Stays s r.2) : Stays s (Machine.endTraining d p r) := by
  unfold Machine.endTraining
  split
  · exact hr
  · exact hr.showAttempts.linkLoss

theorem doRetrain {d p : Nat} {tests : List (List Bool × List Bool)} : Stays s (Machine.doRetrain d p tests t) :=
  hs.ite (hs.startRetrain.attempts.endTraining.ite hs.startRetrain)

theorem freeTest {d p : Nat} : Stays s (Machine.freeTest t d p).2 := ⟨hs.pending, hs.memWf⟩

theorem fromScratch {d p : Nat} : Stays s (Machine.fromScratch t d p) :=
  .ite (.endTraining (r := (some 2, _)) hs.disagree) (hs.disagree.bothEnds fun _ _ _ hu => hu.freeTest.sendFrame)

theorem doTrainingFrame {d p : Nat} {f : TrainFrame} : Stays s (Machine.doTrainingFrame d p f t) := by
  unfold Machine.doTrainingFrame
  refine hs.ite ?_
  dsimp only
  split
  · exact hs.takeTraining.fromScratch
  · exact hs.takeTraining
  · exact hs.takeTraining.setWidth.endTraining.ite hs.takeTraining.fromScratch

theorem doLaneRecal {d p : Nat} {quiet : Bool} : Stays s (Machine.doLaneRecal d p quiet t) := hs.ite hs.startRetrain

theorem doLnkPortCtlRetrain {d p : Nat} : Stays s (Machine.doLnkPortCtlRetrain d p t) :=
  hs.ite (hs.fput.ite hs.fput.fput.startRetrain)

theorem startEnd {fresh : Nat → Bool} {d p : Nat} : Stays s (Machine.startEnd fresh t d p) := ⟨hs.pending, hs.memWf⟩

theorem trainLink {f : Findings} {fresh : Nat → Bool} {d p : Nat} : Stays s (Machine.trainLink f fresh t d p).2 := by
  unfold Machine.trainLink
  split
  · dsimp only
    exact hs.bothEnds fun _ _ _ hu => hu.fput
  · split
    · split
      · exact hs
      · dsimp only
        exact hs.lnkComeUp
    · exact (hs.bothEnds fun _ _ _ hu => hu.startEnd).attempts

theorem trainLinks {f : Findings} {fresh : Nat → Bool} {sel : Nat → Nat → Bool} : Stays s (Machine.trainLinks t f fresh sel).2 := by
  unfold Machine.trainLinks
  refine hs.foldlSnd fun _ _ hu => ?_
  split
  · exact hu.trainLink.snd ‹_›
  · exact (hu.trainLink.snd ‹_›).showAttempts.lnkGoDown

/-! ### Machine/Pci.lean -/

theorem pcieAnswer {g : Nat} {ur : Bool} {data : List Byte} : Stays s (Machine.pcieAnswer t g ur data) := ⟨hs.pending, hs.memWf⟩

theorem unsupported {g : Nat} : Stays s (Machine.unsupported t g) := ⟨hs.pending, hs.memWf⟩

theorem doMsiWrite {g : Nat} {data : BitVec 32} : Stays s (Machine.doMsiWrite g data t) := hs.sendIrq.ite hs

theorem doPcieInbound {g a n : Nat} {kind : PcieKind} {data : List Byte} : Stays s (Machine.doPcieInbound g a n kind data t) := by
  unfold Machine.doPcieInbound
  split
  · exact hs
  · split
    · exact hs.unsupported
    · exact hs.unsupported
    · exact hs.doMsiWrite.ite (hs.ncWrite.ite hs.unsupported)
    · exact hs.unsupported.ite hs.ncRead.pcieAnswer

theorem doPciCompletionTimeout {d c : Nat} : Stays s (Machine.doPciCompletionTimeout d c t) := by
  unfold Machine.doPciCompletionTimeout
  split
  · exact hs
  · exact hs.modCore.loadError.raise

theorem failWaiting {g d c : Nat} : Stays s (Machine.failWaiting t g d c) := hs.ite (hs.putCore.foldl fun _ _ hu => hu.loadError)

theorem doPciLinkDown {g : Nat} : Stays s (Machine.doPciLinkDown g t) :=
  hs.ite (hs.fput.fput.fput.foldl fun _ _ hu => hu.failWaiting).raise

theorem doPciLinkUp {g width gts : Nat} {cxl : Bool} : Stays s (Machine.doPciLinkUp g width gts cxl t) := hs.ite hs.fput.fput.fput

theorem doPciRpCxl {pd r : Nat} {v : BitVec 64} : Stays s (Machine.doPciRpCxl pd r v t) :=
  hs.ite (hs.fput.ite (hs.fput.fput.fput.fput.ite hs.fput.fput.fput))

end Sys2Proof.Proofs.Stays
end

section
/-! Start-up, interrupts, media, security and register access: every operation keeps the queue and the form of the memories. -/

namespace Sys2Proof.Proofs.Stays

open Sys2Proof.Machine Sys2Proof.Safety Sys2Proof.Laws

variable {s t : State} (hs : Stays s t)
include hs

/-! ### Machine/Boot.lean -/

theorem setStack {h k state good : Nat} : Stays s (Machine.setStack t h k state good) := ⟨hs.pending, hs.memWf⟩

theorem excludeStack {h k : Nat} : Stays s (Machine.excludeStack t h k) := hs.raise.persistField

theorem trainStack {f : Findings} {h k : Nat} : Stays s (Machine.trainStack f h t k) :=
  hs.update.setStack.ite (hs.update.excludeStack.setStack.ite ((hs.update.foldl fun _ _ hu => hu.raise).excludeStack.setStack.ite
    (hs.update.foldl fun _ _ hu => hu.raise).fput.setStack))

theorem startControllers {d : Nat} : Stays s (Machine.startControllers t d) := ⟨hs.pending, hs.memWf⟩

theorem trainHbm {f : Findings} {p : Nat} : Stays s (Machine.trainHbm f t p) :=
  (hs.foldl fun _ _ hu => hu.foldl fun _ _ hv => hv.trainStack).wipeHbm.foldl fun _ _ hu => hu.startControllers.fput.fput.fput.fput

theorem failStack {st : Nat} : Stays s (Machine.failStack t st) := hs.excludeStack.fput.partReset

theorem doHbmStackFailed {st : Nat} : Stays s (Machine.doHbmStackFailed st t) := hs.failStack.ite hs

theorem doHbmPcFailed {pc : Nat} : Stays s (Machine.doHbmPcFailed pc t) := hs.ite (hs.update.failStack.ite hs.update.fput.raise)

theorem repairBank {f : Findings} {d bank : Nat} : Stays s (Machine.repairBank f d t bank) :=
  hs.update.fput.fput.fput.ite (hs.update.fput.fput.fput.raise.ite hs.update.fput.fput.fput)

theorem repairNear {f : Findings} {md : Nat} : Stays s (Machine.repairNear f t md) :=
  (hs.foldl fun _ _ hu => hu.repairBank).near (wf_memClear _ _ _)

theorem testEngine {f : Findings} {d e : Nat} : Stays s (Machine.testEngine f d t e) :=
  (hs.pairOn.countHandshakes.setColmap.ite hs.pairOn.countHandshakes.setColmap.fput).ite hs.setColmap

theorem placeRole {quals banks : List Nat} {d e : Nat} : Stays s (Machine.placeRole quals banks d t e) := by
  unfold Machine.placeRole
  split
  · split
    · exact hs.fput.fput.bindBank
    · exact hs.fput.fput
  · exact hs.fput.fput

theorem testEngines {f : Findings} {d : Nat} : Stays s (Machine.testEngines f t d) :=
  ((hs.foldl fun _ _ hu => hu.testEngine).foldl fun _ _ hu => hu.placeRole).raise.ite
    ((hs.foldl fun _ _ hu => hu.testEngine).foldl fun _ _ hu => hu.placeRole)

theorem testDies {f : Findings} {l : List Nat} : Stays s (Machine.testDies f t l) :=
  hs.foldl fun _ _ hu => hu.repairNear.testEngines

theorem resetLinkFail {x : Nat × Nat × Nat} : Stays s (Machine.resetLinkFail t x) := hs.linkLoss.ite hs.raise

theorem finishPart {f : Findings} {p : Nat} : Stays s (Machine.finishPart f t p) :=
  (hs.trainLinks.foldl fun _ _ hu => hu.resetLinkFail).trainHbm.testDies.update.update.setPartState.ite
    (hs.trainLinks.foldl fun _ _ hu => hu.resetLinkFail).trainHbm.testDies.update.setPartState

theorem doPartitionResetComplete {p : Nat} {f : Findings} : Stays s (Machine.doPartitionResetComplete p f t) := hs.finishPart.ite hs

theorem setDdr {d : DdrFound} : Stays s (Machine.setDdr t d) :=
  hs.fput.fput.fput.fput.fput.fput.fput.fput.fput.fput.fput.fput.startControllers.startControllers.update

theorem mrExtend {n : Nat} {d : BitVec 384} : Stays s (Machine.mrExtend t n d) := ⟨hs.pending, hs.memWf⟩

theorem mrDebug {level : Nat} : Stays s (Machine.mrDebug t level) := ⟨hs.pending, hs.memWf⟩

theorem enterPlate {b : BootInput} {source : Nat} {x : PlateImage} : Stays s (Machine.enterPlate t b source x) :=
  (hs.fput.fput.fput.mrExtend.foldl fun _ _ hu => hu.mrExtend).update.ite
    (hs.fput.fput.fput.mrExtend.foldl fun _ _ hu => hu.mrExtend).update.mrDebug

theorem setMode {mode : Nat} : Stays s (Machine.setMode t mode) := hs.foldl fun _ _ hu => hu.fput.fput

theorem setRootPorts : Stays s (Machine.setRootPorts t) := hs.foldl fun _ _ hu => hu.fput

theorem applyPlate {pl : Plate} {powerOn : Bool} : Stays s (Machine.applyPlate t pl powerOn) :=
  (((hs.setMode.ite hs).foldl fun _ _ hu => hu.fput.fput).fput.fput.foldl fun _ _ hu =>
    hu.fput.fput.fput).update.update.fput.setRootPorts

theorem failStart {code : Nat} : Stays s (Machine.failStart t code) := ⟨hs.pending, hs.memWf⟩

theorem senseStrap {mv : List Nat} : Stays s (Machine.senseStrap t mv) := hs.fput.fput.fput.fput.fput.fput.fput

theorem loadBad {n : Nat} : Stays s (Machine.loadBad t n) := ⟨hs.pending, hs.memWf⟩

theorem loadPersist {bad : List Nat} {powerOn : Bool} : Stays s (Machine.loadPersist t bad powerOn) := by
  unfold Machine.loadPersist
  split
  · exact hs
  · split
    · exact (hs.foldl fun _ _ hu => hu.loadBad).recordCause.persistPut.ite (hs.foldl fun _ _ hu => hu.loadBad).recordCause
    · exact (hs.foldl fun _ _ hu => hu.loadBad).fput.fput.recordCause.persistPut.ite
        (hs.foldl fun _ _ hu => hu.loadBad).fput.fput.recordCause

theorem plateSource {powerOn : Bool} : Stays s (Machine.plateSource t powerOn).2 := by
  unfold Machine.plateSource
  split
  · exact hs.fput
  · exact hs

theorem fuseEpochs {l : List Nat} : Stays s (Machine.fuseEpochs t l) := ⟨hs.pending, hs.memWf⟩

theorem setEpochs : Stays s (Machine.setEpochs t) := hs.foldl fun _ _ hu => hu.fput.fput.fput

theorem bootLinkFails {bad : List (Nat × Nat × Nat)} : Stays s (Machine.bootLinkFails t bad) :=
  hs.foldl fun _ _ hu => hu.linkLoss.ite hu

theorem loadDerate : Stays s (Machine.loadDerate t) := hs.foldl fun _ _ hu => hu.ite (hu.fput.retireCore.ite hu.fput)

theorem releaseCores {pl : Plate} : Stays s (Machine.releaseCores t pl) := hs.foldl fun _ _ hu => hu.startCore.ite hu

theorem openStart {pl : Plate} {fallback unstable : Bool} : Stays s (Machine.openStart t pl fallback unstable) := by
  unfold Machine.openStart
  split
  · exact (((hs.doEvtLogEnable.ite hs.fput).raise.ite (hs.doEvtLogEnable.ite hs.fput)).raise.ite
      ((hs.doEvtLogEnable.ite hs.fput).raise.ite (hs.doEvtLogEnable.ite hs.fput))).raise.loadDerate.releaseCores.fput
  · exact ((hs.raise.ite hs).raise.ite (hs.raise.ite hs)).raise.loadDerate.releaseCores.fput

theorem startRest {b : BootInput} {pl : Plate} {powerOn fallback : Bool} : Stays s (Machine.startRest t b pl powerOn fallback) :=
  hs.setEpochs.raise.failStart.ite ((hs.setEpochs.foldl fun _ _ hu => hu.trainHbm).setDdr.failStart.ite
    (hs.setEpochs.foldl fun _ _ hu => hu.trainHbm).setDdr.testDies.openStart)

theorem startFrom5 {b : BootInput} {pl : Plate} {powerOn fallback : Bool} :
    Stays s (Machine.startFrom5 t b pl powerOn fallback) := by
  unfold Machine.startFrom5
  dsimp only
  split
  · split
    · exact hs.applyPlate.update.fuseEpochs.trainLinks.raise.failStart
    · exact hs.applyPlate.update.fuseEpochs.raise.failStart
  · split
    · split
      · exact hs.applyPlate.update.fuseEpochs.trainLinks.failStart
      · exact hs.applyPlate.update.fuseEpochs.failStart
    · split
      · exact hs.applyPlate.update.fuseEpochs.trainLinks.update.bootLinkFails.startRest.ite
          hs.applyPlate.update.fuseEpochs.trainLinks.update.bootLinkFails
      · exact hs.applyPlate.update.fuseEpochs.update.bootLinkFails.startRest.ite
          hs.applyPlate.update.fuseEpochs.update.bootLinkFails

theorem doStartUp {b : BootInput} : Stays s (Machine.doStartUp b t) := by
  unfold Machine.doStartUp
  dsimp only
  split
  · exact hs
  · split
    · exact hs
    · split
      · exact hs.fput
      · split
        · exact (hs.senseStrap.ite hs).loadPersist.plateSource.failStart
        · exact (hs.senseStrap.ite hs).loadPersist.plateSource.enterPlate.startFrom5

theorem refuseService {result : Nat} : Stays s (Machine.refuseService t result) := ⟨hs.pending, hs.memWf⟩

theorem acceptService {op arg : Nat} : Stays s (Machine.acceptService t op arg) := ⟨hs.pending, hs.memWf⟩

theorem clearPart {p : Nat} : Stays s (Machine.clearPart t p) := hs.clearHbm.clearPipes.clearAccel.clearRegs

theorem doSetPartitionMode {mode : Nat} {f : Findings} : Stays s (Machine.doSetPartitionMode mode f t) :=
  hs.refuseService.ite (hs.refuseService.ite (((hs.acceptService.foldl fun _ _ hu => hu.clearPart).setMode.foldl fun _ _ hu =>
    hu.setPartState).update.foldl fun _ _ hu => hu.finishPart).raise)

theorem settleDdr : Stays s (Machine.settleDdr t) := hs.foldl fun _ _ hu => hu.settleLine

theorem writeBackDdr : Stays s (Machine.writeBackDdr t) := hs.foldl fun _ _ hu => hu.wbPut

theorem doRetrainDdr {d : DdrFound} : Stays s (Machine.doRetrainDdr d t) := by
  unfold Machine.doRetrainDdr
  refine hs.refuseService.ite (hs.refuseService.ite ?_)
  refine Stays.raise (.ite ?_ (.fput ?_)) <;>
    exact (hs.acceptService.settleDdr.writeBackDdr.mapL2.mem (wf_memClear _ _ _)).setDdr

/-! ### Machine/Irq.lean -/

theorem putVec {v : Nat} {x : Vec} : Stays s (Machine.putVec t v x) := ⟨hs.pending, hs.memWf⟩

theorem vecMessage {v : Nat} : Stays s (Machine.vecMessage t v) := hs.putVec.ite hs.putVec.fsat

theorem doIrqMessage {v : Nat} : Stays s (Machine.doIrqMessage v t) := hs.update.vecMessage.ite hs

theorem readAck {d c : Nat} : Stays s (Machine.readAck t d c).2 := by
  unfold Machine.readAck
  split
  · exact hs
  · exact hs.putVec.fsat

theorem doIrqAck {d c : Nat} : Stays s (Machine.doIrqAck d c t) := hs.onDie fun _ hu => hu.readAck.modCore

theorem doIrqEoi {d c v : Nat} : Stays s (Machine.doIrqEoi d c v t) := hs.onDie fun _ hu => hu.putVec.ite hu.fsat

theorem doIrqIpi {d v : Nat} : Stays s (Machine.doIrqIpi d v t) := hs.fput.vecMessage.ite hs.fput

/-! ### Machine/Media.lean -/

theorem planarOut {w h chroma depth : Nat} {samples : List Nat} : Stays s (Machine.planarOut t w h chroma depth samples).2 :=
  ⟨hs.pending, hs.memWf⟩

theorem givePipe {c q : Nat} {p : Nat × Nat} : Stays s (Machine.givePipe t c q p) := ⟨hs.pending, hs.memWf⟩

theorem doPipelineAssign {encode : Bool} : Stays s (Machine.doPipelineAssign encode t) := by
  unfold Machine.doPipelineAssign
  split
  · exact hs.givePipe
  · exact hs

theorem endMedia {c q : Nat} {k : Cmd} {status : Nat} : Stays s (Machine.endMedia t c q k status) := hs.update.endList

theorem startEntry {c q : Nat} {k : Cmd} {b : List Byte} : Stays s (Machine.startEntry t c q k b) :=
  hs.endMedia.ite (hs.endMedia.ite (hs.endMedia.ite hs.update.modCmd.doPipelineAssign))

theorem doMedia {c q : Nat} {e : Ecc} : Stays s (Machine.doMedia c q e t) := by
  unfold Machine.doMedia
  dsimp only
  split
  · exact hs
  · split
    · exact hs
    · split
      · exact hs.complete
      · split
        · exact hs
        · split
          · exact (hs.modCmd.showFinders.ite hs).endMedia
          · exact (hs.modCmd.showFinders.ite hs).readVa.snd ‹_›
          · exact ((hs.modCmd.showFinders.ite hs).readVa.snd ‹_›).endMedia
          · exact ((hs.modCmd.showFinders.ite hs).readVa.snd ‹_›).finderError.endMedia.ite
              ((hs.modCmd.showFinders.ite hs).readVa.snd ‹_›).finderCe.startEntry

theorem doMedPipeEnable {pd pipe : Nat} {on : Bool} : Stays s (Machine.doMedPipeEnable pd pipe on t) := ⟨hs.pending, hs.memWf⟩

theorem freePipe {p : Nat × Nat} : Stays s (Machine.freePipe t p) := ⟨hs.pending, hs.memWf⟩

theorem pipeError {p : Nat × Nat} {status : Nat} : Stays s (Machine.pipeError t p status) := by
  unfold Machine.pipeError
  split
  · exact hs
  · exact hs.fsat
  · exact hs.fsat.raise
  · exact hs.fsat

theorem endEntry {p : Nat × Nat} {c : Nat} {k : Cmd} {status : Nat} : Stays s (Machine.endEntry t p c k status) :=
  hs.freePipe.pipeError.endMedia.ite (hs.freePipe.pipeError.dropRemotes.modCmd.endMedia.ite
    hs.freePipe.pipeError.dropRemotes.modCmd)

theorem finishEntry {p : Nat × Nat} {c q status : Nat} : Stays s (Machine.finishEntry t p c q status) := by
  unfold Machine.finishEntry
  dsimp only
  split
  · exact hs
  · split
    · exact (hs.modCmd.ite hs).endEntry
    · split
      · exact (hs.modCmd.ite hs).writeVa.snd ‹_›
      · exact ((hs.modCmd.ite hs).writeVa.snd ‹_›).endEntry
      · exact ((hs.modCmd.ite hs).writeVa.snd ‹_›).endEntry

theorem frameDone {p : Nat × Nat} {c q frames bytes : Nat} : Stays s (Machine.frameDone t p c q frames bytes) :=
  ⟨hs.pending, hs.memWf⟩

theorem decodeFrames {p : Nat × Nat} {c q : Nat} {b bitsIn : List Byte} {chroma depth n m : Nat} :
    Stays s (Machine.decodeFrames t p c q b bitsIn chroma depth n m).2 := by
  induction n generalizing t m with
  | zero => exact hs
  | succ fuel ih =>
    unfold Machine.decodeFrames
    split
    · exact hs
    · dsimp only
      split
      · exact hs
      · split
        · exact hs
        · split
          · exact (hs.planarOut.iteSnd hs).writeVa.snd ‹_›
          · exact (hs.planarOut.iteSnd hs).writeVa.snd ‹_›
          · exact ih ((hs.planarOut.iteSnd hs).writeVa.snd ‹_›).frameDone

theorem useScratch {c q : Nat} {b : List Byte} {chroma : Nat} : Stays s (Machine.useScratch t c q b chroma).2 := hs.update.writeVa

theorem decodeInput {p : Nat × Nat} {c : Nat} {k : Cmd} {b bitsIn : List Byte} :
    Stays s (Machine.decodeInput t p c k b bitsIn) := by
  unfold Machine.decodeInput
  dsimp only
  split
  · exact hs.finishEntry
  · split
    · exact hs.finishEntry
    · split
      · exact hs.endEntry
      · split
        · exact hs.finishEntry
        · split
          · exact hs.useScratch.snd ‹_›
          · exact (hs.useScratch.snd ‹_›).finishEntry
          · split
            · exact (hs.useScratch.snd ‹_›).decodeFrames.snd ‹_›
            · exact ((hs.useScratch.snd ‹_›).decodeFrames.snd ‹_›).finishEntry

theorem encodeInput {p : Nat × Nat} {c : Nat} {k : Cmd} {b raw : List Byte} : Stays s (Machine.encodeInput t p c k b raw) := by
  unfold Machine.encodeInput
  dsimp only
  split
  · split
    · exact hs.finishEntry
    · split
      · exact hs.useScratch.snd ‹_›
      · exact (hs.useScratch.snd ‹_›).finishEntry
      · split
        · exact (hs.useScratch.snd ‹_›).writeVa.snd ‹_›
        · exact ((hs.useScratch.snd ‹_›).writeVa.snd ‹_›).finishEntry
        · exact ((hs.useScratch.snd ‹_›).writeVa.snd ‹_›).frameDone.finishEntry
  · split
    · exact hs.finishEntry
    · split
      · exact hs.useScratch.snd ‹_›
      · exact (hs.useScratch.snd ‹_›).finishEntry
      · split
        · exact (hs.useScratch.snd ‹_›).writeVa.snd ‹_›
        · exact ((hs.useScratch.snd ‹_›).writeVa.snd ‹_›).finishEntry
        · exact ((hs.useScratch.snd ‹_›).writeVa.snd ‹_›).frameDone.finishEntry

theorem runPipe {p : Nat × Nat} {e : Ecc} {wrong : List Byte → Option Nat} {len : List Byte → Nat}
    {work : State → Nat → Cmd → List Byte → List Byte → State} (hw : ∀ u c k b d, Stays s u → Stays s (work u c k b d)) :
    Stays s (Machine.runPipe t p e wrong len work) := by
  unfold Machine.runPipe
  split
  · exact hs
  · refine hs.ite ?_
    split
    · exact hs.finishEntry
    · refine hs.finishEntry.ite ?_
      dsimp only
      split
      · exact (hs.fsat.ite hs).finishEntry
      · split
        · exact (hs.fsat.ite hs).readVa.snd ‹_›
        · exact ((hs.fsat.ite hs).readVa.snd ‹_›).finishEntry
        · exact hw _ _ _ _ _ ((hs.fsat.ite hs).readVa.snd ‹_›)

theorem doDecodeEntry {pd pipe : Nat} {e : Ecc} : Stays s (Machine.doDecodeEntry pd pipe e t) :=
  hs.runPipe fun _ _ _ _ _ hu => hu.decodeInput

theorem doEncodeEntry {pd pipe : Nat} {e : Ecc} : Stays s (Machine.doEncodeEntry pd pipe e t) := by
  unfold Machine.doEncodeEntry
  exact hs.runPipe fun _ _ _ _ _ hu => hu.encodeInput

/-! ### Machine/Security.lean -/

theorem blowSec {f : Fld} {slot : Nat} : Stays s (Machine.blowSec t f slot) := ⟨hs.pending, hs.memWf⟩

theorem secKeyRejected {b : Bool} : Stays s (Machine.secKeyRejected t b) := ⟨hs.pending, hs.memWf⟩

theorem doSecKeyProgram {slot : Nat} : Stays s (Machine.doSecKeyProgram slot t) :=
  hs.secKeyRejected.ite hs.update.blowSec.secKeyRejected

theorem doSecKeyRevoke {slot : Nat} : Stays s (Machine.doSecKeyRevoke slot t) := hs.secKeyRejected.ite hs.blowSec.secKeyRejected

theorem endExtend : Stays s (Machine.endExtend t) := by
  unfold Machine.endExtend
  split
  · exact hs
  · exact hs.update.fput.fput.mrExtend

theorem doSecMrExtend {i : Nat} : Stays s (Machine.doSecMrExtend i t) :=
  hs.fput.fput.ite (hs.fput.fput.fput.fput.update.drawBelow.ite hs.fput.fput.fput.fput.update.drawBelow.endExtend)

theorem doSecRollback {i : Nat} {v : BitVec 32} : Stays s (Machine.doSecRollback i v t) := hs.fput.persistPut.ite hs.fput

theorem updateImage : Stays s (Machine.updateImage t).2 := by
  unfold Machine.updateImage
  dsimp only
  split
  · exact hs
  · exact hs.ncFetch

theorem secUpdateFail {check : Nat} : Stays s (Machine.secUpdateFail t check) := ⟨hs.pending, hs.memWf⟩

theorem endUpdate {y : Update} : Stays s (Machine.endUpdate t y) :=
  hs.update.fput.fput.fput.fput.mrExtend.raise.persistPut.ite hs.update.fput.fput.fput.fput.mrExtend.raise

theorem switchNext : Stays s (Machine.switchNext t) := by
  unfold Machine.switchNext
  split
  · exact hs
  · exact hs.endUpdate.ite hs.update

theorem switchSome : Stays s (Machine.switchSome t) := hs.drawBelow.foldl fun _ _ hu => hu.switchNext

theorem startUpdate {c : Nat} {commit : Bool} {b : List Byte} : Stays s (Machine.startUpdate t c commit b) :=
  hs.fput.fput.update.switchSome

theorem doSecUpdate {c : Nat} {commit : Bool} : Stays s (Machine.doSecUpdate c commit t) := by
  unfold Machine.doSecUpdate
  dsimp only
  split
  · exact hs.fput
  · split
    · exact hs.fput.fput.fput
    · split
      · exact (hs.fput.fput.fput.updateImage.snd ‹_›).secUpdateFail
      · exact (hs.fput.fput.fput.updateImage.snd ‹_›).startUpdate.ite (hs.fput.fput.fput.updateImage.snd ‹_›).secUpdateFail

omit hs in
theorem drawNonce {s t : State} (hs : Stays s t) {n : Nat} : Stays s (Machine.drawNonce n t).2 := by
  unfold Machine.drawNonce
  split
  · exact hs
  · exact hs.draw.drawNonce

theorem doSecDbgNew : Stays s (Machine.doSecDbgNew t) := (hs.drawNonce.foldl fun _ _ hu => hu.rput).update

theorem dbgFail {result : Nat} : Stays s (Machine.dbgFail t result) := (hs.fput.fput.fput.ite hs.fput.fput).raise

theorem doSecDbgSubmit {level : Nat} : Stays s (Machine.doSecDbgSubmit level t) := by
  unfold Machine.doSecDbgSubmit
  dsimp only
  split
  · exact hs.fput.fput
  · split
    · exact hs.fput.dbgFail
    · exact hs.fput.update.dbgFail.ite hs.fput.update.fput.fput.mrDebug.raise

theorem startSigning : Stays s (Machine.startSigning t) := by
  unfold Machine.startSigning
  split
  · exact hs
  · exact hs.modCmd.ite hs

theorem secTick : Stays s (Machine.secTick t) := hs.endExtend.switchNext.startSigning

theorem endSigning {c q status : Nat} {detail : BitVec 64} : Stays s (Machine.endSigning t c q status detail) :=
  hs.update.dropRemotes.complete.startSigning

theorem doAttest {c q : Nat} : Stays s (Machine.doAttest c q t) := by
  unfold Machine.doAttest
  split
  · exact hs
  · split
    · exact hs
    · split
      · exact hs.complete
      · split
        · exact hs.complete
        · split
          · exact hs.readVa.snd ‹_›
          · exact (hs.readVa.snd ‹_›).dropRemotes.complete
          · split
            · exact (hs.readVa.snd ‹_›).dropRemotes.complete
            · exact (hs.readVa.snd ‹_›).dropRemotes.update.modCmd.startSigning

theorem doAttestSigned {c q : Nat} : Stays s (Machine.doAttestSigned c q t) := by
  unfold Machine.doAttestSigned
  split
  · exact hs
  · split
    · exact hs
    · split
      · exact hs.startSigning
      · split
        · exact hs.endSigning
        · split
          · exact hs.writeVa.snd ‹_›
          · exact (hs.writeVa.snd ‹_›).endSigning
          · exact (hs.writeVa.snd ‹_›).endSigning

/-! ### Machine/Service.lean -/

theorem doRetireEngine {n : Nat} : Stays s (Machine.doRetireEngine n t) := by
  unfold Machine.doRetireEngine
  split
  · exact hs.refuseService
  · split
    · exact hs.refuseService
    · exact hs.refuseService.ite hs.acceptService.fput.modEng

theorem doEngineRetireSwap {d e : Nat} : Stays s (Machine.doEngineRetireSwap d e t) := hs.ite (hs.retireEngine.ite hs).fput.fput

theorem tap {ir : Nat} {dr : BitVec 64} {highZ : Bool} : Stays s (Machine.tap t ir dr highZ) := hs.update.ite hs.update

theorem doSamplePreload {cells : BitVec 64} : Stays s (Machine.doSamplePreload cells t) := hs.draw.tap.update.ite hs.tap

theorem tapInReset {ir : Nat} {dr : BitVec 64} {highZ : Bool} : Stays s (Machine.tapInReset t ir dr highZ) := hs.tap.ite hs.tap

/-! ### Machine/Translate.lean -/

theorem dropWalk {w : Walk} : Stays s (Machine.dropWalk t w) := ⟨hs.pending, hs.memWf⟩

theorem hubFill {ctx page frame size : Nat} {write : Bool} {n : Nat} : Stays s (Machine.hubFill t ctx page frame size write n) :=
  hs.hubInstall.fsat.ite hs.hubInstall

theorem unpin {c q page : Nat} {write : Bool} : Stays s (Machine.unpin t c q page write) := ⟨hs.pending, hs.memWf⟩

theorem walkFault {w : Walk} {cause level : Nat} {x : Requester × Bool} : Stays s (Machine.walkFault t w cause level x) := by
  unfold Machine.walkFault
  split
  · exact hs.unpin
  · exact hs.raiseFault

theorem walkGrant {y : Tlb} {x : Requester} : Stays s (Machine.walkGrant t y x) := hs.update.unstall

theorem walkLeaf {w : Walk} {y : Tlb} {x : Requester × Bool} : Stays s (Machine.walkLeaf t w y x) := by
  unfold Machine.walkLeaf
  split
  · exact hs.unpin
  · exact hs.modLaunch.unstall
  · exact hs.raiseFault
  · exact hs.walkGrant

theorem tableHit {die ctx level va : Nat} {held : BitVec 8} : Stays s (Machine.tableHit t die ctx level va held).2 := by
  unfold Machine.tableHit
  split
  · exact hs
  · split
    · exact hs
    · exact hs.update

omit hs in
theorem walkFrom {s t : State} (hs : Stays s t) {die ctx va : Nat} {held : BitVec 8} {n m : Nat} {l : List Used} :
    Stays s (Machine.walkFrom die ctx va held n m l t).2.2 := by
  unfold Machine.walkFrom
  dsimp only
  split
  · exact hs
  · split
    · exact (hs.tableHit.snd ‹_›).walkFrom
    · split
      · exact hs.tableHit.snd ‹_›
      · split
        · exact (hs.tableHit.snd ‹_›).ncFetch.snd ‹_›
        · split
          · exact (hs.tableHit.snd ‹_›).ncFetch.snd ‹_›
          · split
            · exact (hs.tableHit.snd ‹_›).ncFetch.snd ‹_›
            · exact ((hs.tableHit.snd ‹_›).ncFetch.snd ‹_›).update.walkFrom
          · split <;> exact (hs.tableHit.snd ‹_›).ncFetch.snd ‹_›
          · exact (hs.tableHit.snd ‹_›).ncFetch.snd ‹_›

theorem markUsed {us : List Used} {write : Bool} : Stays s (Machine.markUsed t us write) := hs.foldl fun _ _ hu => hu.ite hu.ncRmw

theorem walkTables {die : Nat} {w : Walk} {held : BitVec 8} : Stays s (Machine.walkTables t die w held).2 := by
  unfold Machine.walkTables
  split
  · exact (hs.walkFrom.snd2 ‹_›).ite (hs.walkFrom.snd2 ‹_›).markUsed
  · exact hs.walkFrom.snd2 ‹_›

theorem finishWalk {die : Nat} {w : Walk} {y : WalkFound} : Stays s (Machine.finishWalk t die w y) := by
  unfold Machine.finishWalk
  split
  · exact hs.hubFill.foldl fun _ _ hu => hu.walkLeaf
  · exact hs.foldl fun _ _ hu => hu.walkFault
  · exact hs.fsat.foldl fun _ _ hu => hu.walkFault
  · exact hs.foldl fun _ _ hu => hu.failReq

theorem doWalkComplete {die ctx page : Nat} {held : BitVec 8} : Stays s (Machine.doWalkComplete die ctx page held t) := by
  unfold Machine.doWalkComplete
  split
  · exact hs
  · exact (hs.dropWalk.fsat.foldl fun _ _ hu => hu.unstall).ite hs.dropWalk.fsat.walkTables.finishWalk

theorem doFaultOpenRetry {ctx page : Nat} : Stays s (Machine.doFaultOpenRetry ctx page t) := by
  unfold Machine.doFaultOpenRetry
  dsimp only
  split
  · exact hs
  · split
    · exact hs.update.joinFault
    · exact hs.update.fsat.failReq.ite (hs.update.openFault.ite hs)

theorem ignoreResponse : Stays s (Machine.ignoreResponse t) := ⟨hs.pending, hs.memWf⟩

theorem closeFault {f : FaultRec} : Stays s (Machine.closeFault t f) := hs.putFaults.update.foldl fun _ _ hu => hu.unstall

theorem dropHeld {p : Tlb → Bool} : Stays s (Machine.dropHeld t p) := ⟨hs.pending, hs.memWf⟩

theorem doFaultResume {record : Nat} : Stays s (Machine.doFaultResume record t) := by
  unfold Machine.doFaultResume
  split
  · exact hs.ignoreResponse
  · exact hs.closeFault.tlbDrop.dropHeld.foldl fun _ _ hu => hu.unstall

theorem doFaultDeny {record : Nat} : Stays s (Machine.doFaultDeny record t) := by
  unfold Machine.doFaultDeny
  split
  · exact hs.ignoreResponse
  · exact (hs.closeFault.foldl fun _ _ hu => hu.failReq).settleStalls

theorem startInval {h scope : Nat} {ctx : Option Nat} {first last : Nat} {tables : Bool} :
    Stays s (Machine.startInval t h scope ctx first last tables) := by
  unfold Machine.startInval
  split
  · exact hs.fput
  · split
    · exact hs.fput.fput.fput.fput.fput.fput.fput.dropHeld.update
    · exact hs.fput.fput.fput.fput.fput.fput.dropHeld.update

theorem setInvVa {h va : Nat} : Stays s (Machine.setInvVa t h va) := ⟨hs.pending, hs.memWf⟩

theorem doTrcInvalidatePage {h ctx va : Nat} {tables : Bool} : Stays s (Machine.doTrcInvalidatePage h ctx va tables t) :=
  hs.setInvVa.startInval

theorem doTrcInvalidateRange {h ctx va count : Nat} {tables : Bool} :
    Stays s (Machine.doTrcInvalidateRange h ctx va count tables t) :=
  hs.setInvVa.fput.startInval

theorem doTrcInvalidateContext {h ctx : Nat} {tables : Bool} : Stays s (Machine.doTrcInvalidateContext h ctx tables t) :=
  hs.startInval

theorem doTrcInvalidateAll {h : Nat} {tables : Bool} : Stays s (Machine.doTrcInvalidateAll h tables t) := hs.startInval

theorem dropTables {p : Nat → Bool} : Stays s (Machine.dropTables t p) := ⟨hs.pending, hs.memWf⟩

theorem doTrcInvalidationDone {h : Nat} : Stays s (Machine.doTrcInvalidationDone h t) := by
  unfold Machine.doTrcInvalidationDone
  split
  · exact hs
  · exact hs.ite (hs.tlbDrop.dropTables.ite hs.tlbDrop).fput.fput.fput.fsat.update

/-! ### Machine/RegAccess.lean -/

theorem busyFlag {d i : Nat} {f : Fld} {on : Bool} : Stays s (Machine.busyFlag t d i f on) := hs.gauge.ite (hs.ite hs.fput)

theorem measure {d : Nat} {r : Reg} {i : Nat} : Stays s (Machine.measure t d r i) := by
  unfold Machine.measure
  split
  · exact hs.advance.ite hs
  · exact hs.advance.ite hs
  · exact hs.advance.ite hs
  · exact hs.advance.ite hs
  · exact hs.busyFlag.busyFlag
  · exact hs.busyFlag
  · exact hs.ite hs.advance
  · exact hs.gauge.ite hs
  · exact hs.accrue
  · exact hs.advance.ite hs
  · exact hs.accrue
  · exact hs.ite hs.gauge
  · exact hs

theorem regRead {d : Nat} {r : Reg} {i : Nat} : Stays s (Machine.regRead t d r i).2 := by
  unfold Machine.regRead
  dsimp only
  split
  · exact hs.measure.readAck
  · dsimp only
    split
    · exact hs.measure.modCtx
    · exact hs.measure
  · split
    · exact hs.measure.rput
    · exact hs.measure

theorem putPlain {d : Nat} {r : Reg} {i : Nat} {w : BitVec 64} : Stays s (Machine.putPlain t d r i w) := ⟨hs.pending, hs.memWf⟩

theorem ctxWrite {d : Nat} {f : Ctx → Ctx} : Stays s (Machine.ctxWrite t d f) := by
  unfold Machine.ctxWrite
  split
  · exact hs
  · exact hs.ite hs.modCtx

theorem attrWrite {d : Nat} {w : BitVec 64} : Stays s (Machine.attrWrite t d w) := by
  unfold Machine.attrWrite
  split
  · exact hs
  · exact hs.doContextEnable.ite hs.doContextDisable

theorem regionWrite {h : Nat} {w : BitVec 64} : Stays s (Machine.regionWrite t h w) :=
  hs.doTierRegionRelease.ite hs.doTierRegionDeclare

theorem invWrite {h : Nat} {w : BitVec 64} : Stays s (Machine.invWrite t h w) := by
  unfold Machine.invWrite
  split
  · exact hs.putPlain
  · split
    · exact hs.doTrcInvalidatePage.putPlain
    · exact hs.doTrcInvalidateRange.putPlain
    · exact hs.doTrcInvalidateContext.putPlain
    · exact hs.doTrcInvalidateAll.putPlain

theorem respondWrite {d : Nat} {w : BitVec 64} : Stays s (Machine.respondWrite t d w) := by
  unfold Machine.respondWrite
  split
  · exact hs
  · split
    · exact hs.doFaultResume
    · exact hs.doFaultDeny
    · exact hs.ignoreResponse

theorem coreCmdWrite {d : Nat} {w : BitVec 64} : Stays s (Machine.coreCmdWrite t d w) := by
  unfold Machine.coreCmdWrite
  split
  · exact hs.doCoreOffline
  · exact hs.doCoreOnline
  · exact hs.doCoreRecalibrate
  · exact hs.refuseCoreCmd.ite hs.putPlain

theorem vecWrite {d : Nat} {w : BitVec 64} : Stays s (Machine.vecWrite t d w) := ⟨hs.pending, hs.memWf⟩

theorem newJob : Stays s (Machine.newJob t) := ⟨hs.pending, hs.memWf⟩

theorem jobWrite {w : BitVec 64} : Stays s (Machine.jobWrite t w) :=
  (hs.ite hs.newJob).putPlain.ite ((hs.ite hs.newJob).putPlain.setGrant.ite (hs.ite hs.newJob).putPlain)

theorem portWrite {pd i : Nat} {w : BitVec 64} : Stays s (Machine.portWrite t pd i w) :=
  hs.ite (hs.putPlain.disablePort.ite (hs.putPlain.fput.ite hs.putPlain))

theorem keyWrite {w : BitVec 64} : Stays s (Machine.keyWrite t w) := by
  unfold Machine.keyWrite
  split
  · exact hs.doSecKeyProgram
  · exact hs.doSecKeyRevoke
  · exact hs.secKeyRejected

theorem dbgCtlWrite {w : BitVec 64} : Stays s (Machine.dbgCtlWrite t w) :=
  (hs.fput.doSecDbgNew.ite hs.fput).doSecDbgSubmit.ite (hs.fput.doSecDbgNew.ite hs.fput)

theorem logWrite {w : BitVec 64} : Stays s (Machine.logWrite t w) := hs.doEvtLogEnable.ite (hs.fput.ite hs.putPlain)

theorem dbgWrite {w : BitVec 64} : Stays s (Machine.dbgWrite t w) := hs.putPlain.ite hs.putPlain.update

theorem traceWrite {w : BitVec 64} : Stays s (Machine.traceWrite t w) := hs.putPlain.update.ite hs.putPlain

theorem serviceWrite {w : BitVec 64} : Stays s (Machine.serviceWrite t w) := by
  unfold Machine.serviceWrite
  split
  · exact hs.putPlain
  · exact hs.doRetireEngine
  · exact hs.doSetPartitionMode.ite hs.doSetPartitionMode.fput
  · exact hs.doRetrainDdr.ite hs.doRetrainDdr.fput

theorem regWrite {d : Nat} {r : Reg} {i : Nat} {w : BitVec 64} : Stays s (Machine.regWrite t d r i w) := by
  unfold Machine.regWrite
  split
  · exact hs.doEngSelftest.ite hs
  · exact hs.doEngPhoTest.ite hs
  · exact hs.doRdcInvalidate.ite hs
  · exact hs.putPlain
  · exact hs.putPlain
  · exact hs.ite hs.putPlain
  · exact hs.regionWrite
  · exact hs.ctxWrite
  · exact hs.ctxWrite
  · exact hs.ctxWrite
  · exact hs.ctxWrite
  · exact hs.ctxWrite
  · exact hs.attrWrite
  · split
    · exact hs.doUnpark.ite hs
    · exact hs
  · exact hs.invWrite
  · exact hs.putPlain
  · exact hs.putPlain.ite hs
  · exact hs.respondWrite
  · exact hs.coreCmdWrite
  · exact hs.putPlain
  · exact hs.putPlain.setEffective
  · exact hs.vecWrite
  · exact hs.doIrqIpi
  · exact hs.doIrqEoi
  · exact hs.ite hs.putPlain
  · exact hs.persistField
  · exact hs.putPlain
  · exact hs.putPlain
  · exact hs.putPlain
  · exact hs.doLnkPortCtlRetrain.ite hs
  · exact hs.doPwrLearnFlush.ite hs
  · exact hs.jobWrite
  · exact hs.doPwrDomainOffReq
  · exact hs.putPlain.ite hs
  · exact hs.update
  · exact hs.doNetFctrVal
  · exact hs.fput.doNetQpEnable.ite hs.fput.doNetQpDisable
  · exact hs.doNetQpDoorbell
  · exact hs.portWrite
  · exact hs.doPciRpCxl
  · exact hs.doMedPipeEnable
  · exact hs.rstCtl
  · exact hs.doPersistWrite
  · exact hs.keyWrite
  · exact hs.doSecMrExtend.ite hs.putPlain
  · exact hs.doSecRollback
  · exact hs.doSecUpdate.ite hs.putPlain
  · exact hs.rput
  · exact hs.rput
  · exact hs.dbgCtlWrite
  · exact hs.logWrite
  · exact hs.putPlain.ite hs
  · exact hs.dbgWrite
  · exact hs.traceWrite
  · exact hs.serviceWrite
  · exact hs.putPlain

theorem spaceRead {u : State} {pa size : Nat} {v : BitVec 64} (hu : Machine.spaceRead t pa size = some (v, u)) : Stays s u := by
  obtain ⟨r, -, hr⟩ := Option.map_eq_some_iff.1 hu
  split at hr
  · exact hs.regRead.snd hr
  · exact hs.snd (p := ((0 : BitVec 64), t)) hr

theorem spaceWrite {u : State} {pa size : Nat} {w : BitVec 64} (hu : Machine.spaceWrite t pa size w = some u) : Stays s u := by
  obtain ⟨r, -, rfl⟩ := Option.map_eq_some_iff.1 hu
  split
  · exact hs.regWrite
  · exact hs

theorem bellWrite {u : State} {pa size : Nat} {w : BitVec 64} (hu : Machine.bellWrite t pa size w = some u) : Stays s u := by
  unfold Machine.bellWrite at hu
  dsimp only at hu
  split at hu
  · cases hu
  · rw [← Option.some.inj hu]
    split
    · exact hs.doCmdTail
    · exact hs.doCplHead
    · exact hs.doEvtHead
    · exact hs

end Sys2Proof.Proofs.Stays
end

section
/-! The accesses of host cores, timeouts and idle time: every operation keeps the queue and the form of the memories. -/

namespace Sys2Proof.Proofs.Stays

open Sys2Proof.Machine Sys2Proof.Safety Sys2Proof.Laws

variable {s t : State} (hs : Stays s t)
include hs

/-! ### Machine/HostCore.lean -/

theorem bindDevice {d c : Nat} {v : BitVec 64} : Stays s (Machine.bindDevice t d c v) := ⟨hs.pending, hs.memWf⟩

theorem mmioAnswer {d c size : Nat} : Stays s (Machine.mmioAnswer t d c size) := ⟨hs.pending, hs.memWf⟩

theorem mmioLoad {d c a size g : Nat} : Stays s (Machine.mmioLoad t d c a size g) :=
  hs.loadError.ite (hs.drawBelow.modCore.ite hs.drawBelow.mmioAnswer)

theorem deviceLoad {d c a size : Nat} : Stays s (Machine.deviceLoad t d c a size) := by
  unfold Machine.deviceLoad
  split
  · split
    · exact (hs.spaceRead ‹_›).bindDevice
    · exact hs.loadError
  · split
    · exact hs.bindDevice
    · exact hs.loadError
  · exact hs.mmioLoad
  · exact hs

theorem deviceStore {d c a size : Nat} {v : BitVec 64} : Stays s (Machine.deviceStore t d c a size v) := by
  unfold Machine.deviceStore
  split
  · exact hs.storeErr.getD fun _ hu => hs.spaceWrite hu
  · exact hs.storeErr.getD fun _ hu => hs.bellWrite hu
  · exact hs

theorem deviceStart {d c : Nat} {f : State → State} (hf : ∀ u, Stays s u → Stays s (f u)) :
    Stays s (Machine.deviceStart t d c f).2 := by
  unfold Machine.deviceStart
  dsimp only
  split
  · exact hs
  · split
    · exact hs.dependsOn
    · exact hf _ hs.dependsOn.retireStores

theorem startOp {d c : Nat} {x : CoreOp} : Stays s (Machine.startOp t d c x).2 := by
  unfold Machine.startOp
  dsimp only
  split
  · split
    · exact hs.deviceStart fun _ hu => hu.deviceLoad
    · exact hs.normalLoad
  · split
    · exact hs.deviceStart fun _ hu => hu.deviceStore
    · exact hs.normalStore
  · split
    · exact hs.deviceStart fun _ hu => hu.deviceStore
    · exact hs.normalStnt
  · exact hs
  · split
    · exact hs.drainAll
    · exact hs.drainAll.takeStoreError
  · split
    · exact hs.drainAll
    · exact hs.drainAll.takeStoreError
  · split
    · exact hs
    · exact hs.retireStores.fput
  · exact hs.deviceStart fun _ hu => hu.doIrqAck
  · exact hs.deviceStart fun _ hu => hu.doIrqEoi

omit hs in
theorem runQueue {s t : State} (hs : Stays s t) {n m k : Nat} : Stays s (Machine.runQueue n t m k) := by
  unfold Machine.runQueue
  split
  · exact hs
  · split
    · exact hs
    · exact hs.ite (hs.startOp.modCore.runQueue.ite hs.startOp)

theorem runCore {d c : Nat} : Stays s (Machine.runCore t d c) := hs.runQueue

theorem issue {d c : Nat} {x : CoreOp} : Stays s (Machine.issue d c x t) := by
  unfold Machine.issue
  dsimp only
  split
  · exact hs
  · split
    · exact hs.runCore.ite hs.runCore.modCore
    · exact hs.runCore.startOp.ite hs.runCore.startOp.modCore

theorem doRegisterWrite {d c a size : Nat} {v : BitVec 64} : Stays s (Machine.doRegisterWrite d c a size v t) := hs.ite hs.issue

theorem doDataResponse {d c line : Nat} : Stays s (Machine.doDataResponse d c line t) := hs.deliver.runCore

theorem answerWait {d c : Nat} : Stays s (Machine.answerWait t d c) := by
  unfold Machine.answerWait
  split
  · exact hs
  · exact hs.modCore.mmioAnswer.ite hs.modCore.lineLoad

theorem dbgReg {a : Nat} {isWrite : Bool} {v : BitVec 64} : Stays s (Machine.dbgReg a isWrite v t) := by
  unfold Machine.dbgReg
  dsimp only
  split
  · exact hs.tap
  · split
    · exact hs.tap
    · exact hs.regWrite.tap.ite hs.regRead.tap

theorem dbgMem {a : Nat} {isWrite : Bool} {v : BitVec 64} : Stays s (Machine.dbgMem a isWrite v t) :=
  hs.tap.ite (hs.ncWrite.tap.ite hs.ncRead.tap)

theorem dbgHalt {d c : Nat} : Stays s (Machine.dbgHalt d c t) := hs.tap.ite hs.retireStores.fput.tap

theorem doDebug {target : DebugTarget} {isWrite : Bool} {v : BitVec 64} : Stays s (Machine.doDebug target isWrite v t) := by
  unfold Machine.doDebug
  split
  · exact hs.tap
  · split
    · exact hs.dbgReg
    · exact hs.dbgMem
    · exact hs.dbgHalt

/-! ### Machine/Timeouts.lean -/

theorem pickLine {l : List (Nat × Nat)} : Stays s (Machine.pickLine t l).2 := by
  unfold Machine.pickLine
  dsimp only
  split
  · exact hs
  · exact hs.draw.draw

theorem farJob {r : Requester} {c : Nat} {j : Job} {error : Bool} : Stays s (Machine.farJob t r c j error).2 := by
  unfold Machine.farJob
  dsimp only
  split
  · exact (hs.pickLine.snd ‹_›).cancelJob
  · split
    · exact (hs.pickLine.snd ‹_›).cancelJob
    · exact (hs.pickLine.snd ‹_›).cancelJob.ite (hs.pickLine.snd ‹_›).cancelJob.spoil

theorem farAccess {r : Requester} {c : Nat} {x : List (Nat × Nat) × List (Nat × Nat)} {error : Bool} :
    Stays s (Machine.farAccess t r c x error) := by
  unfold Machine.farAccess
  dsimp only
  split
  · exact hs.pickLine.snd ‹_›
  · exact ((hs.pickLine.snd ‹_›).ite (hs.pickLine.snd ‹_›).spoil).failReq

theorem farCommand {c q : Nat} {k : Cmd} {error : Bool} : Stays s (Machine.farCommand t c q k error) := by
  unfold Machine.farCommand
  split
  · split
    · split
      · exact hs.failPage.ite hs
      · exact hs
    · exact hs
    · exact hs
    · split
      · exact hs.farAccess.ite hs.farJob.modCmd.failReq
      · exact hs.farAccess
  · split
    · split
      · exact hs.failPage.ite hs
      · exact hs
    · exact hs
    · exact hs
    · split
      · exact hs.farAccess.ite hs.farJob.modCmd.failReq
      · exact hs.farAccess

theorem farQp {c : Nat} {error : Bool} : Stays s (Machine.farQp t c error) := by
  unfold Machine.farQp
  dsimp only
  split
  · exact hs.farAccess
  · exact hs

theorem farTimeout {c q : Nat} {error : Bool} : Stays s (Machine.farTimeout t c q error) := by
  unfold Machine.farTimeout
  split
  · split
    · exact hs.farJob.moveFail
    · split
      · exact hs.failFill
      · exact hs.farCommand
      · exact hs.farQp
  · split
    · exact hs.farJob.moveFail
    · split
      · exact hs.failFill
      · exact hs.farCommand
      · exact hs.farQp

theorem remoteTimeout {c q : Nat} {error : Bool} : Stays s (Machine.remoteTimeout t c q error) := by
  unfold Machine.remoteTimeout
  dsimp only
  split
  · exact hs
  · split
    · split
      · exact hs.update.failPage
      · exact hs.update.failReq
    · exact hs.update.failAccess

theorem doTierTimeout {c q : Nat} {remote error : Bool} : Stays s (Machine.doTierTimeout c q remote error t) :=
  hs.remoteTimeout.ite hs.farTimeout

/-! ### Machine/Route.lean -/

theorem sendAlong {x : Parcel} : Stays s (Machine.sendAlong t x) := hs.foldl fun _ _ hu => hu.ite hu.sendFlit

theorem newParcel : Stays s (Machine.newParcel t) := hs.draw.draw.ite hs.draw.draw.update

theorem traffic : Stays s (Machine.traffic t) := by
  unfold Machine.traffic
  dsimp only
  split
  · exact hs.drawBelow
  · split
    · exact hs.drawBelow.newParcel
    · split
      · exact hs.drawBelow.update.sendAlong.ite hs.drawBelow
      · exact hs.drawBelow

/-! ### Machine/Idle.lean -/

theorem idleCore {d c : Nat} : Stays s (Machine.idleCore t d c) := by
  unfold Machine.idleCore
  dsimp only
  split
  · exact hs.drawBelow.answerWait.runCore
  · exact hs.drawBelow.retireStores.drainStores.runCore

theorem decay : Stays s (Machine.decay t) := hs.drawBelow.draw.update.ite (hs.drawBelow.draw.update.ite hs.drawBelow)

theorem fetchCode : Stays s (Machine.fetchCode t) := by
  unfold Machine.fetchCode
  dsimp only
  split
  · exact hs.drawBelow
  · split
    · exact hs.drawBelow.draw
    · split
      · exact (hs.drawBelow.draw.acquire.snd ‹_›).fillL1
      · exact (hs.drawBelow.draw.acquire.snd ‹_›).coreErr.modCore
      · exact hs.drawBelow.draw.acquire.snd ‹_›

theorem idle : Stays s (Machine.idle t) := by
  unfold Machine.idle
  dsimp only
  split
  · exact hs.update.decay.traffic.portTick.heldTick.rampTick.secTick.fetchCode
  · split
    · exact hs.update.decay.traffic.portTick.heldTick.rampTick.secTick.fetchCode.drawBelow
    · exact hs.update.decay.traffic.portTick.heldTick.rampTick.secTick.fetchCode.drawBelow.idleCore

end Sys2Proof.Proofs.Stays
end

section
/-! The queue of waiting commands (R32, log 7). -/

namespace Sys2Proof.Proofs

open Sys2Proof.Machine Sys2Proof.Safety Sys2Proof.Laws

/-- Every command answers a next state, with the queue as it was. -/
theorem exec_stays (i : Instr) (s : State) : ∃ t, exec i s = .next t ∧ Stays s t :=
  have h := Stays.refl s
  match i with
  | .load .. => ⟨_, rfl, h.issue⟩
  | .store .. => ⟨_, rfl, h.issue⟩
  | .stnt .. => ⟨_, rfl, h.issue⟩
  | .ordL .. => ⟨_, rfl, h.issue⟩
  | .ordS .. => ⟨_, rfl, h.issue⟩
  | .ordLs .. => ⟨_, rfl, h.issue⟩
  | .exceptionEntry .. => ⟨_, rfl, h.doExceptionEntry⟩
  | .storeErrorTimeout .. => ⟨_, rfl, h.doStoreErrorTimeout⟩
  | .farTimeout .. => ⟨_, rfl, h.doCoreFarTimeout⟩
  | .droopDetect .. => ⟨_, rfl, h.doDroopDetect⟩
  | .registerWrite .. => ⟨_, rfl, h.doRegisterWrite⟩
  | .end_ .. => ⟨_, rfl, h.doEnd⟩
  | .nop .. => ⟨_, rfl, h.doNop⟩
  | .loop .. => ⟨_, rfl, h.doLoop⟩
  | .cursor .. => ⟨_, rfl, h.doCursor⟩
  | .wload .. => ⟨_, rfl, h.doWload⟩
  | .matmul .. => ⟨_, rfl, h.doMatmul⟩
  | .ribbon .. => ⟨_, rfl, h.doRibbon⟩
  | .drain .. => ⟨_, rfl, h.doDrain⟩
  | .vector .. => ⟨_, rfl, h.doVector⟩
  | .reduce .. => ⟨_, rfl, h.doReduce⟩
  | .reduceRead .. => ⟨_, rfl, h.doReduceRead⟩
  | .signal .. => ⟨_, rfl, h.doSignal⟩
  | .wait .. => ⟨_, rfl, h.doWait⟩
  | .waitHeldAdmit .. => ⟨_, rfl, h.doWaitHeldAdmit⟩
  | .waitTimeout .. => ⟨_, rfl, h.doWaitTimeout⟩
  | .phaseAnnounce .. => ⟨_, rfl, h.doPhaseAnnounce⟩
  | .phaseAnnounceLapse .. => ⟨_, rfl, h.doPhaseAnnounceLapse⟩
  | .phaseBegin .. => ⟨_, rfl, h.doPhaseBegin⟩
  | .rewindMark .. => ⟨_, rfl, h.doRewindMark⟩
  | .geometry .. => ⟨_, rfl, h.doGeometry⟩
  | .rcLoad .. => ⟨_, rfl, h.doRcLoad⟩
  | .rcInvalidate .. => ⟨_, rfl, h.doRcInvalidate⟩
  | .rcFill .. => ⟨_, rfl, h.noteWindows.runFill⟩
  | .rdcInvalidate .. => ⟨_, rfl, h.onDie fun _ hu => hu.doRdcInvalidate⟩
  | .readCacheInvalidationDone .. => ⟨_, rfl, h.runInvalDone⟩
  | .commit .. => ⟨_, rfl, h.doCommit⟩
  | .commitComplete .. => ⟨_, rfl, h.doCommitComplete⟩
  | .rewind .. => ⟨_, rfl, h.doRewind⟩
  | .rewindRestart .. => ⟨_, rfl, h.doRewindRestart⟩
  | .rewindReport .. => ⟨_, rfl, h.doRewindReport⟩
  | .engSelftest .. => ⟨_, rfl, h.onDie fun _ hu => hu.doEngSelftest⟩
  | .selftestDone .. => ⟨_, rfl, h.doSelftestDone⟩
  | .engPhoTest .. => ⟨_, rfl, h.onDie fun _ hu => hu.doEngPhoTest⟩
  | .launch .. => ⟨_, rfl, h.doLaunch⟩
  | .placementRetry .. => ⟨_, rfl, h.doPlacementRetry⟩
  | .tokenAllocRetry .. => ⟨_, rfl, h.doTokenAllocRetry⟩
  | .reservationTimeout .. => ⟨_, rfl, h.doReservationTimeout⟩
  | .launchStart .. => ⟨_, rfl, h.doLaunchStart⟩
  | .launchError .. => ⟨_, rfl, h.doLaunchError⟩
  | .launchEnd .. => ⟨_, rfl, h.doLaunchEnd⟩
  | .move .. => ⟨_, rfl, h.tryIssue⟩
  | .moveDone .. => ⟨_, rfl, h.doMoveDone⟩
  | .markArrival .. => ⟨_, rfl, h.doMarkArrival⟩
  | .cancellation .. => ⟨_, rfl, h.doCancellation⟩
  | .tierRegionDeclare .. => ⟨_, rfl, h.onDie fun _ hu => hu.doTierRegionDeclare⟩
  | .tierRegionRelease .. => ⟨_, rfl, h.onDie fun _ hu => hu.doTierRegionRelease⟩
  | .movePages .. => ⟨_, rfl, h.doMovePages⟩
  | .movePagesCopy .. => ⟨_, rfl, h.doMovePagesCopy⟩
  | .movePagesSwitch .. => ⟨_, rfl, h.doMovePagesSwitch⟩
  | .movePagesReturn .. => ⟨_, rfl, h.doMovePagesReturn⟩
  | .lendRetry .. => ⟨_, rfl, h.doLendRetry⟩
  | .tierTimeout .. => ⟨_, rfl, h.doTierTimeout.settleStalls⟩
  | .accessDecay .. => ⟨_, rfl, h.doAccessDecay⟩
  | .contextEnable .. => ⟨_, rfl, h.onDie fun _ hu => hu.doContextEnable⟩
  | .contextDisable .. => ⟨_, rfl, h.onDie fun _ hu => hu.doContextDisable⟩
  | .unpark .. => ⟨_, rfl, h.onDie fun _ hu => hu.doUnpark⟩
  | .cmdTail .. => ⟨_, rfl, h.doCmdTail⟩
  | .cplHead .. => ⟨_, rfl, h.doCplHead⟩
  | .evtHead .. => ⟨_, rfl, h.doEvtHead⟩
  | .descriptorFetch .. => ⟨_, rfl, h.doDescriptorFetch⟩
  | .staleRefetch .. => ⟨_, rfl, h.doStaleRefetch⟩
  | .commandDispatch .. => ⟨_, rfl, h.doCommandDispatch⟩
  | .moveCmd .. => ⟨_, rfl, h.doMoveCmd⟩
  | .moveEntry .. => ⟨_, rfl, h.doMoveEntry⟩
  | .setQuotas .. => ⟨_, rfl, h.doSetQuotas⟩
  | .media .. => ⟨_, rfl, h.doMedia⟩
  | .sync .. => ⟨_, rfl, h.doSync⟩
  | .syncComplete .. => ⟨_, rfl, h.doSyncComplete⟩
  | .attest .. => ⟨_, rfl, h.doAttest⟩
  | .attestSigned .. => ⟨_, rfl, h.doAttestSigned⟩
  | .partitionFullReset .. => ⟨_, rfl, h.doPartitionFullReset⟩
  | .partitionResetComplete .. => ⟨_, rfl, h.doPartitionResetComplete⟩
  | .walkComplete .. => ⟨_, rfl, h.doWalkComplete.settleStalls.settleMoves⟩
  | .faultOpenRetry .. => ⟨_, rfl, h.doFaultOpenRetry.settleStalls.settleMoves⟩
  | .faultResume .. => ⟨_, rfl, h.onDie fun _ hu => hu.doFaultResume⟩
  | .faultDeny .. => ⟨_, rfl, h.onDie fun _ hu => hu.doFaultDeny⟩
  | .trcInvalidatePage .. => ⟨_, rfl, h.onDie fun _ hu => hu.doTrcInvalidatePage⟩
  | .trcInvalidateRange .. => ⟨_, rfl, h.onDie fun _ hu => hu.doTrcInvalidateRange⟩
  | .trcInvalidateContext .. => ⟨_, rfl, h.onDie fun _ hu => hu.doTrcInvalidateContext⟩
  | .trcInvalidateAll .. => ⟨_, rfl, h.onDie fun _ hu => hu.doTrcInvalidateAll⟩
  | .trcInvalidationDone .. => ⟨_, rfl, h.doTrcInvalidationDone⟩
  | .coreOffline .. => ⟨_, rfl, h.onDie fun _ hu => hu.doCoreOffline⟩
  | .coreOnline .. => ⟨_, rfl, h.onDie fun _ hu => hu.doCoreOnline⟩
  | .coreRecalibrate .. => ⟨_, rfl, h.onDie fun _ hu => hu.doCoreRecalibrate⟩
  | .coreCmdComplete .. => ⟨_, rfl, h.doCoreCmdComplete⟩
  | .irqMessage .. => ⟨_, rfl, h.doIrqMessage⟩
  | .irqAck .. => ⟨_, rfl, h.issue⟩
  | .irqEoi .. => ⟨_, rfl, h.issue⟩
  | .irqIpi .. => ⟨_, rfl, h.onDie fun _ hu => hu.doIrqIpi⟩
  | .rdShared .. => ⟨_, rfl, h.arriveReq⟩
  | .rdOwn .. => ⟨_, rfl, h.arriveReq⟩
  | .upgrade .. => ⟨_, rfl, h.arriveReq⟩
  | .rdNc .. => ⟨_, rfl, h.arriveReq⟩
  | .wrFull .. => ⟨_, rfl, h.arriveReq⟩
  | .wrPart .. => ⟨_, rfl, h.arriveReq⟩
  | .wrStash .. => ⟨_, rfl, h.arriveReq⟩
  | .rmwHome .. => ⟨_, rfl, h.arriveReq⟩
  | .wb .. => ⟨_, rfl, h.doWb⟩
  | .directoryRetry .. => ⟨_, rfl, h.doDirectoryRetry⟩
  | .probe .. => ⟨_, rfl, h.doProbe⟩
  | .notPresent .. => ⟨_, rfl, h.doNotPresent⟩
  | .homeTimeout .. => ⟨_, rfl, h.doHomeTimeout⟩
  | .coherenceFatal .. => ⟨_, rfl, h.systemReset⟩
  | .hbmStackFailed .. => ⟨_, rfl, h.doHbmStackFailed⟩
  | .hbmPcFailed .. => ⟨_, rfl, h.doHbmPcFailed⟩
  | .ddrChannelFailed .. => ⟨_, rfl, h.doDdrChannelFailed⟩
  | .refresh .. => ⟨_, rfl, h⟩
  | .recalibration .. => ⟨_, rfl, h.doRecalibration⟩
  | .patrolScrub .. => ⟨_, rfl, h.doPatrolScrub⟩
  | .flitReceive .. => ⟨_, rfl, h.doFlitReceive⟩
  | .retrain .. => ⟨_, rfl, h.doRetrain⟩
  | .trainingFrame .. => ⟨_, rfl, h.doTrainingFrame⟩
  | .linkDown .. => ⟨_, rfl, h.doLinkDown⟩
  | .laneRecal .. => ⟨_, rfl, h.doLaneRecal⟩
  | .lnkPortCtlRetrain .. => ⟨_, rfl, h.onDie fun _ hu => hu.doLnkPortCtlRetrain⟩
  | .nsThermalSample .. => ⟨_, rfl, h.doNsThermalSample⟩
  | .dipStart .. => ⟨_, rfl, h.doDipStart⟩
  | .dipEnd .. => ⟨_, rfl, h.doDipEnd⟩
  | .brownout => ⟨_, rfl, h.doBrownout⟩
  | .heliostatEvaluation .. => ⟨_, rfl, h.doHeliostatEvaluation⟩
  | .fastLoop .. => ⟨_, rfl, h.doFastLoop⟩
  | .powerCeilingUnmet => ⟨_, rfl, h.doPowerCeilingUnmet⟩
  | .thermalSample .. => ⟨_, rfl, h.doThermalSample⟩
  | .thermalGateStep .. => ⟨_, rfl, h.doThermalGateStep⟩
  | .thermalTrip .. => ⟨_, rfl, h.powerOnReset⟩
  | .capReqAssert => ⟨_, rfl, h.doCapReqAssert⟩
  | .capReqRelease => ⟨_, rfl, h.doCapReqRelease⟩
  | .pairIdleOff .. => ⟨_, rfl, h.doPairIdleOff⟩
  | .pwrDomainOffReq .. => ⟨_, rfl, h.onDie fun _ hu => hu.doPwrDomainOffReq⟩
  | .pwrLearnFlush => ⟨_, rfl, h.onDie fun _ hu => hu.doPwrLearnFlush⟩
  | .slackReport .. => ⟨_, rfl, h.doSlackReport⟩
  | .grantDistribution => ⟨_, rfl, h.doGrantDistribution⟩
  | .jobCoordinatorLost => ⟨_, rfl, h.doJobCoordinatorLost⟩
  | .netQpEnable .. => ⟨_, rfl, h.onDie fun _ hu => hu.doNetQpEnable⟩
  | .netQpDisable .. => ⟨_, rfl, h.onDie fun _ hu => hu.doNetQpDisable⟩
  | .netQpDoorbell .. => ⟨_, rfl, h.onDie fun _ hu => hu.doNetQpDoorbell⟩
  | .send .. => ⟨_, rfl, h.runRequest⟩
  | .sendImm .. => ⟨_, rfl, h.runRequest⟩
  | .rdmaWrite .. => ⟨_, rfl, h.runRequest⟩
  | .rdmaWriteImm .. => ⟨_, rfl, h.runRequest⟩
  | .rdmaRead .. => ⟨_, rfl, h.runRequest⟩
  | .inboundSend .. => ⟨_, rfl, h.inbound⟩
  | .inboundRdma .. => ⟨_, rfl, h.inbound⟩
  | .inboundAtomic .. => ⟨_, rfl, h.doInboundAtomic⟩
  | .remoteNak .. => ⟨_, rfl, h.doRemoteNak⟩
  | .retryExceeded .. => ⟨_, rfl, h.doRetryExceeded⟩
  | .cnp .. => ⟨_, rfl, h.doCnp⟩
  | .readReq .. => ⟨_, rfl, h.doReadReq⟩
  | .readResp .. => ⟨_, rfl, h.doReadResp⟩
  | .fabricWrite .. => ⟨_, rfl, h.doFabricWrite⟩
  | .writeAck .. => ⟨_, rfl, h.doWriteAck⟩
  | .errorResp .. => ⟨_, rfl, h.doErrorResp⟩
  | .fabricSignal .. => ⟨_, rfl, h.doFabricSignal⟩
  | .fabricWait .. => ⟨_, rfl, h.doFabricWait⟩
  | .release .. => ⟨_, rfl, h.doRelease⟩
  | .slack .. => ⟨_, rfl, h.doSlack⟩
  | .grant .. => ⟨_, rfl, h.doGrant⟩
  | .probeResp .. => ⟨_, rfl, h.doProbeResp⟩
  | .probeFrame .. => ⟨_, rfl, h.receiveFrame fun _ hu => hu.reply⟩
  | .routeProbe => ⟨_, rfl, h.doRouteProbe⟩
  | .ack .. => ⟨_, rfl, h.ackTo.ite h⟩
  | .frameForward .. => ⟨_, rfl, h.doFrameForward⟩
  | .hopRetransmit .. => ⟨_, rfl, h.doHopRetransmit⟩
  | .netFctrVal .. => ⟨_, rfl, h.onDie fun _ hu => hu.doNetFctrVal⟩
  | .pcieInboundRequest .. => ⟨_, rfl, h.doPcieInbound⟩
  | .msiWrite .. => ⟨_, rfl, h.doMsiWrite⟩
  | .pciCompletionTimeout .. => ⟨_, rfl, h.doPciCompletionTimeout⟩
  | .pciLinkDown .. => ⟨_, rfl, h.doPciLinkDown⟩
  | .pciRpCxlEnable .. => ⟨_, rfl, h.onDie fun _ hu => hu.doPciRpCxl⟩
  | .pipelineAssign .. => ⟨_, rfl, h.doPipelineAssign⟩
  | .decodeEntry .. => ⟨_, rfl, h.doDecodeEntry⟩
  | .encodeEntry .. => ⟨_, rfl, h.doEncodeEntry⟩
  | .medPipeEnable .. => ⟨_, rfl, h.onDie fun _ hu => hu.doMedPipeEnable⟩
  | .pwrGoodRise => ⟨_, rfl, h.doPwrGoodRise⟩
  | .pwrGoodFall => ⟨_, rfl, h.doPwrGoodFall⟩
  | .sysRstNAssert => ⟨_, rfl, h.doSysRstN⟩
  | .domeWatchdog => ⟨_, rfl, h.ite h.systemReset⟩
  | .rstCtlCore .. => ⟨_, rfl, h.onDie fun _ hu => hu.rstCtl⟩
  | .rstCtlSystem .. => ⟨_, rfl, h.onDie fun _ hu => hu.rstCtl⟩
  | .rstCtlPartition .. => ⟨_, rfl, h.onDie fun _ hu => hu.rstCtl⟩
  | .coreResetDrainTimeout .. => ⟨_, rfl, h.doCoreResetDrainTimeout⟩
  | .startUp .. => ⟨_, rfl, h.doStartUp⟩
  | .persistWrite .. => ⟨_, rfl, h.onDie fun _ hu => hu.doPersistWrite⟩
  | .persistCommit .. => ⟨_, rfl, h.doPersistCommit⟩
  | .secKeyProgram .. => ⟨_, rfl, h.onDie fun _ hu => hu.doSecKeyProgram⟩
  | .secKeyRevoke .. => ⟨_, rfl, h.onDie fun _ hu => hu.doSecKeyRevoke⟩
  | .secMrExtend .. => ⟨_, rfl, h.onDie fun _ hu => hu.doSecMrExtend⟩
  | .secRollback .. => ⟨_, rfl, h.onDie fun _ hu => hu.doSecRollback⟩
  | .secUpdate .. => ⟨_, rfl, h.onDie fun _ hu => hu.doSecUpdate⟩
  | .secDbgNew => ⟨_, rfl, h.onDie fun _ hu => hu.doSecDbgNew⟩
  | .secDbgSubmit .. => ⟨_, rfl, h.onDie fun _ hu => hu.doSecDbgSubmit⟩
  | .retireEngine .. => ⟨_, rfl, h.onDie fun _ hu => hu.doRetireEngine⟩
  | .engineRetireSwap .. => ⟨_, rfl, h.doEngineRetireSwap⟩
  | .setPartitionMode .. => ⟨_, rfl, h.onDie fun _ hu => hu.doSetPartitionMode⟩
  | .retrainDdr .. => ⟨_, rfl, h.onDie fun _ hu => hu.doRetrainDdr⟩
  | .eventRecord => ⟨_, rfl, h.doEventRecord⟩
  | .evtLogEnable .. => ⟨_, rfl, h.onDie fun _ hu => hu.doEvtLogEnable⟩
  | .bypass => ⟨_, rfl, h.tap⟩
  | .idcode => ⟨_, rfl, h.tap⟩
  | .samplePreload .. => ⟨_, rfl, h.doSamplePreload⟩
  | .extest => ⟨_, rfl, h.draw.tapInReset⟩
  | .clamp => ⟨_, rfl, h.tapInReset⟩
  | .highz => ⟨_, rfl, h.tapInReset⟩
  | .debug .. => ⟨_, rfl, h.doDebug⟩
  | .resetConfigurationUe .. => ⟨_, rfl, h.powerOnReset⟩
  | .rideThroughReduced .. => ⟨_, rfl, h.doRideThroughReduced⟩
  | .pciLinkUp .. => ⟨_, rfl, h.doPciLinkUp⟩
  | .netPortLinkUp .. => ⟨_, rfl, h.doNetPortLinkUp⟩
  | .netPortLinkDown .. => ⟨_, rfl, h.doNetPortLinkDown⟩
  | .probeResponse .. => ⟨_, rfl, h.doProbeResponse⟩
  | .dataResponse .. => ⟨_, rfl, h.doDataResponse⟩
  | .coreHalt .. => ⟨_, rfl, h.issue⟩
  | .roceRetransmit .. => ⟨_, rfl, h.doRoceRetransmit⟩

/-- A step works on the state without its front command. -/
theorem step_stays {s t : State} (h : step s = .next t) : Stays { s with pending := s.pending.tail } t := by
  cases hp : s.pending with
  | nil =>
    simp only [step, hp] at h
    obtain rfl : idle s = t := Host.Outcome.next.inj h
    have hi := (Stays.refl s).idle
    exact ⟨hi.pending.trans hp, hi.memWf⟩
  | cons c r =>
    simp only [step, hp] at h
    obtain ⟨u, hu, hs⟩ := exec_stays c { s with pending := r }
    obtain rfl : u = t := Host.Outcome.next.inj (hu.symm.trans h)
    exact hs

/-- Settles O59: what runs the front command, or lets time pass, leaves the queue alone. -/
theorem queueIsServedInOrder : Obligations.QueueIsServedInOrder := by
  unfold Obligations.QueueIsServedInOrder
  exact fun _ _ h => (step_stays h).pending

end Sys2Proof.Proofs
end

section
/-! One core, its error registers and its buffers (R326, R331 to R334): what the operations that O2 speaks of leave alone. -/

namespace Sys2Proof.Proofs

open Sys2Proof.Machine Sys2Proof.Safety Sys2Proof.Laws

/-! ### A map without one of its keys -/

theorem filter_smPut {α : Type} (m : SMap α) (a : Nat) (v : α) (q : Nat → Bool) (h : q a = false) :
    (smPut m a v).filter (fun p => q p.1) = m.filter fun p => q p.1 := by
  induction m with
  | nil => simp [smPut, h]
  | cons p r ih =>
    obtain ⟨k, w⟩ := p
    simp only [smPut]
    split
    · next hk => simp [hk, h]
    · split
      · simp [h]
      · simp [List.filter_cons, ih]

theorem CoresBut.modCore {s t : State} {d c : Nat} (h : CoresBut s t d c) (f : Core → Core) : CoresBut s (modCore t d c f) d c :=
  (filter_smPut t.cores _ _ (fun k => k != coreKey d c) (by simp)).trans h

theorem RegsBut.fput {s t : State} {l : List Nat} (h : RegsBut s t l) {d i : Nat} {f : Fld} (v : Nat) (hf : regKey d f.reg i ∈ l) :
    RegsBut s (fput t d i f v) l :=
  ⟨h.1, (filter_smPut t.regs _ _ (fun k => !l.contains k) (by simpa using hf)).trans h.2⟩

@[simp] theorem getCore_modCore (s : State) (d c : Nat) (f : Core → Core) : getCore (modCore s d c f) d c = f (getCore s d c) := by
  simp [modCore]

/-! ### The error registers of a core -/

/-- Beside one core and its error registers, memory, cores and registers are as before. -/
structure CoreOnly (s t : State) (d c : Nat) : Prop where
  mem : SameMem s t
  cores : CoresBut s t d c
  regs : RegsBut s t [regKey d .coreErrAddr c, regKey d .coreErrInfo c]

theorem CoreOnly.refl (s : State) (d c : Nat) : CoreOnly s s d c := ⟨⟨rfl, rfl, rfl⟩, rfl, rfl, rfl⟩

theorem CoreOnly.modCore {s t : State} {d c : Nat} (h : CoreOnly s t d c) (f : Core → Core) : CoreOnly s (modCore t d c f) d c :=
  ⟨h.mem, CoresBut.modCore h.cores f, h.regs⟩

theorem CoreOnly.fput {s t : State} {d c : Nat} (h : CoreOnly s t d c) {f : Fld} (v : Nat)
    (hf : f.reg = .coreErrAddr ∨ f.reg = .coreErrInfo) : CoreOnly s (fput t d c f v) d c :=
  ⟨h.mem, h.cores, RegsBut.fput h.regs v (by rcases hf with hf | hf <;> simp [hf])⟩

theorem CoreOnly.coreErr {s t : State} {d c : Nat} (h : CoreOnly s t d c) (kind addr : Nat) :
    CoreOnly s (coreErr t d c kind addr) d c :=
  ((h.fput _ (.inl rfl)).fput _ (.inr rfl)).fput _ (.inr rfl)

theorem fget_coreErr_addr (s : State) (d c kind addr : Nat) (ha : addr < 2 ^ 48) :
    fget (coreErr s d c kind addr) d c Fl.CORE_ERR_ADDR_ADDR = addr := by
  have hne : regKey d .coreErrAddr c ≠ regKey d .coreErrInfo c := by
    simp only [regKey, Reg.info]
    omega
  rw [coreErr, fsat, fget_fput_ne _ _ _ _ _ _ _ _ hne, fget_fput_ne _ _ _ _ _ _ _ _ hne, fget_fput _ _ _ _ _ (by decide) (by decide)]
  exact Nat.mod_eq_of_lt ha

theorem fget_coreErr_kind (s : State) (d c kind addr : Nat) (hk : kind < 16) :
    fget (coreErr s d c kind addr) d c Fl.CORE_ERR_INFO_KIND = kind := by
  rw [coreErr, fsat, fget_fput_apart _ _ _ Fl.CORE_ERR_INFO_COUNT Fl.CORE_ERR_INFO_KIND _ rfl (by decide) (by decide) (by decide)
    (by decide), fget_fput _ _ _ _ _ (by decide) (by decide)]
  exact Nat.mod_eq_of_lt hk

theorem fget_modCore (s : State) (d c e i : Nat) (f : Core → Core) (g : Fld) : fget (modCore s d c f) e i g = fget s e i g := rfl

/-! ### Bytes under a mask -/

theorem getLsbD_spanMask_eq (off n i : Nat) (hi : i < 64) : (spanMask off n).getLsbD i = decide (off ≤ i ∧ i < off + n) := by
  simp only [spanMask, BitVec.getLsbD_ofNat, Nat.testBit_mul_two_pow, Nat.testBit_two_pow_sub_one, hi, decide_true, Bool.true_and,
    ← Bool.decide_and, decide_eq_decide]
  omega

/-- An access of at most 8 bytes marks a byte, and not all of a line. -/
theorem spanMask_ne {off n : Nat} (hn : 0 < n) (h8 : n ≤ 8) (hfit : off + n ≤ 64) :
    spanMask off n ≠ 0 ∧ spanMask off n ≠ BitVec.allOnes 64 := by
  refine ⟨fun h => ?_, fun h => ?_⟩
  · simpa [h, hn] using getLsbD_spanMask_eq off n off (by omega)
  · have h0 := getLsbD_spanMask_eq off n 0 (by omega)
    have h63 := getLsbD_spanMask_eq off n 63 (by omega)
    simp only [h, BitVec.getLsbD_allOnes] at h0 h63
    simp at h0 h63
    omega

theorem le_length_overwrite (old new : List Byte) (off : Nat) : old.length ≤ (overwrite old off new).length := by
  simp only [overwrite, List.length_append, List.length_take, List.length_drop]
  omega

theorem take_drop_overwrite {old new : List Byte} {off : Nat} (h : off ≤ old.length) :
    ((overwrite old off new).drop off).take new.length = new := by
  rw [overwrite, List.append_assoc, List.drop_append_of_le_length (by simp [h]), List.drop_eq_nil_of_le (by simp)]
  simp

theorem mergeMask_zero {old new : List Byte} (h : old.length ≤ new.length) : mergeMask old new 0 = old := by
  have hlen : (mergeMask old new 0).length = old.length := by rw [length_mergeMask]; omega
  exact List.ext_getElem hlen fun i _ _ => by simp [mergeMask]

theorem and_not_or_self (x m : BitVec 64) : x &&& ~~~(m ||| x) = 0 := by
  ext i hi
  by_cases hx : x[i] <;> simp [hx]

theorem clip_leBytes {a n v : Nat} (hfit : a % 64 + n ≤ 64) : clip a (leBytes n v) = leBytes n v :=
  List.take_of_length_le (by rw [length_leBytes]; omega)

theorem fits_of_aligned {a n : Nat} (hs : n = 1 ∨ n = 2 ∨ n = 4 ∨ n = 8) (ha : a % n = 0) :
    0 < n ∧ n ≤ 8 ∧ a % 64 + n ≤ 64 := by
  obtain rfl | rfl | rfl | rfl := hs <;> omega

/-! ### A core without an outstanding load -/

theorem lineWaits_of_loadsOut {x : Core} (h : loadsOut x = false) (line : Nat) : lineWaits x line = false := by
  simp only [loadsOut, Bool.or_eq_false_iff, Bool.not_eq_false', List.isEmpty_iff] at h
  simp [lineWaits, h.2]

theorem storeHeld_of_loadsOut {x : Core} (h : loadsOut x = false) (b : BufStore) : storeHeld x b = false := by
  simp [storeHeld, h, lineWaits_of_loadsOut h]

theorem mayRetire_of_loadsOut {s : State} {d c : Nat} (h : loadsOut (getCore s d c) = false) : mayRetire s d c = true := by
  simp [mayRetire, storeHeld_of_loadsOut h]

theorem dependsOn_of_loadsOut {s : State} {d c : Nat} (h : loadsOut (getCore s d c) = false) : dependsOn s d c = (false, s) := by
  simp [dependsOn, h]

theorem leaveLine_of_find_none {s : State} {d c line : Nat} (h : (getCore s d c).stnt.find? (fun x => x.line == line) = none) :
    leaveLine s d c line = s := by
  simp [leaveLine, h]

/-! ### Stores that nobody selects stay in the buffer -/

theorem drainList_of_none {p : BufStore → Bool} {l : List BufStore} (h : ∀ b ∈ l, p b = false) (s : State) (d c : Nat) :
    drainList p l s d c = (l, s) := by
  induction l generalizing p with
  | nil => rfl
  | cons b r ih =>
    have hr : drainList (fun x => p x && lineOf x.addr != lineOf b.addr) r s d c = (r, s) :=
      ih fun x hx => by rw [h x (List.mem_cons_of_mem b hx), Bool.false_and]
    simp [drainList, h b List.mem_cons_self, hr]

theorem drainStores_of_none {s : State} {d c : Nat} {p : BufStore → Bool} (h : ∀ b ∈ (getCore s d c).stores, p b = false) :
    drainStores s d c p = modCore s d c id := by
  simp only [drainStores]
  rw [drainList_of_none fun b hb => by simp [h b hb]]
  rfl

/-! ### The bytes that a core's buffers hold -/

/-- What the buffers hold with one more store. -/
theorem ownBytes_append {x : Core} {l : List BufStore} {b : BufStore} (h : x.stores = l ++ [b]) :
    ownBytes x (lineOf b.addr) =
      ((ownBytes { x with stores := l } (lineOf b.addr)).1 ||| spanMask (b.addr % 64) b.bytes.length,
        overwrite (ownBytes { x with stores := l } (lineOf b.addr)).2 (b.addr % 64) b.bytes) := by
  simp [ownBytes, h]

theorem le_length_ownBytes {x : Core} {line : Nat} (h : x.stnt.find? (fun y => y.line == line) = none) :
    64 ≤ (ownBytes x line).2.length := by
  simp only [ownBytes, h]
  refine List.foldlRecOn (motive := fun o : BitVec 64 × List Byte => 64 ≤ o.2.length) _ _ (by simp) fun o ho b _ => ?_
  split
  · exact ho.trans (le_length_overwrite _ _ _)
  · exact ho

theorem ownBytes_of_none {x : Core} {line : Nat} (h : x.stnt.find? (fun y => y.line == line) = none)
    (hs : x.stores.any (fun b => lineOf b.addr == line) = false) : ownBytes x line = (0, List.replicate 64 0) := by
  simp only [ownBytes, h]
  refine List.foldlRecOn (motive := fun o => o = (0, List.replicate 64 0)) _ _ rfl fun o ho b hb => ?_
  rw [if_neg (by simpa using List.any_eq_false.1 hs b hb), ho]

end Sys2Proof.Proofs
end

section
/-! STORE, STNT and LOAD of a core, and unmapped addresses (R24, R324, R326, R331, R332, R334). -/

namespace Sys2Proof.Proofs

open Sys2Proof.Machine Sys2Proof.Safety Sys2Proof.Laws

/-! ### An access that nothing holds back -/

theorem isDevice_of_normalKind {s : State} {a : Nat} (h : normalKind (paKind s a) = true) : isDevice s a = false := by
  unfold isDevice
  split <;> simp_all [normalKind]

section
variable {s : State} {d c : Nat} (hr : coreRuns s d c = true) (hq : (getCore s d c).queue = [])
include hr hq

theorem issue_load_normal {a n : Nat} (hd : isDevice s a = false) : issue d c (.load a n) s = normalLoad s d c a n := by
  simp [issue_of_queue_nil s d c _ hr hq, startOp, hd]

theorem issue_store_normal {a n : Nat} {v : BitVec 64} (hd : isDevice s a = false) :
    issue d c (.store a n v) s = normalStore s d c a n v := by
  simp [issue_of_queue_nil s d c _ hr hq, startOp, hd]

theorem issue_stnt_normal {a n : Nat} {v : BitVec 64} (hd : isDevice s a = false) (ht : (normalStnt s d c a n v).1 = true) :
    issue d c (.stnt a n v) s = (normalStnt s d c a n v).2 := by
  simp [issue_of_queue_nil s d c _ hr hq, startOp, hd, ht]

/-- A Device access that nothing holds up retires the stores and is performed. -/
theorem issue_device {x : CoreOp} {f : State → State} (hx : startOp s d c x = deviceStart s d c f)
    (hw : deviceWaits s (getCore s d c) = false) (hl : loadsOut (getCore s d c) = false) (hm : mayRetire s d c = true) :
    issue d c x s = f (retireStores s d c) := by
  simp [issue_of_queue_nil s d c _ hr hq, hx, deviceStart, hw, hm, dependsOn_of_loadsOut hl]

end

section
variable {s : State} {d c a n : Nat} {v : BitVec 64} (hd : isDevice s a = true)
include hd

theorem startOp_load_device : startOp s d c (.load a n) = deviceStart s d c fun s => deviceLoad s d c a n := by
  simp [startOp, hd]

theorem startOp_store_device : startOp s d c (.store a n v) = deviceStart s d c fun s => deviceStore s d c a n v := by
  simp [startOp, hd]

theorem startOp_stnt_device : startOp s d c (.stnt a n v) = deviceStart s d c fun s => deviceStore s d c a n v := by
  simp [startOp, hd]

end

/-! ### STORE -/

theorem normalStore_eq {s : State} {d c a n : Nat} {v : BitVec 64} (hl : loadsOut (getCore s d c) = false)
    (hnt : (getCore s d c).stnt.find? (fun x => x.line == lineOf a) = none) (hfit : a % 64 + n ≤ 64) :
    normalStore s d c a n v = { s with
      fresh := s.fresh + 1
      cores := smPut s.cores (coreKey d c) { getCore s d c with
        stores := ((getCore s d c).stores.map fun b => { b with retired := b.retired || decide ((drawBelow s 2).1 = 1) }) ++
          [⟨a, leBytes n v.toNat, decide ((drawBelow s 2).1 = 1), false⟩] } } := by
  have hcore : getCore (drawBelow s 2).2 d c = getCore s d c := rfl
  have hheld : (getCore s d c).stores.any (storeHeld (getCore s d c)) = false := by simp [storeHeld_of_loadsOut hl]
  simp only [normalStore, leaveLine_of_find_none hnt, dependsOn_of_loadsOut hl, hcore, hheld, clip_leBytes hfit, Bool.not_false,
    Bool.and_true]
  rfl

/-! ### STNT -/

/-- An STNT to a line that nothing else of the core is about enters the combining buffer, which has room. -/
theorem normalStnt_enters {s : State} {d c a n : Nat} {v : BitVec 64} (hl : loadsOut (getCore s d c) = false)
    (hmiss : (getCore s d c).misses.any (fun m => m.line == lineOf a) = false)
    (hst : (getCore s d c).stores.any (fun b => lineOf b.addr == lineOf a) = false)
    (hnt : (getCore s d c).stnt.find? (fun x => x.line == lineOf a) = none) (hroom : (getCore s d c).stnt.length < 16)
    (hpos : 0 < n) (h8 : n ≤ 8) (hfit : a % 64 + n ≤ 64) :
    normalStnt s d c a n v = (true, modCore (modCore (retireStores s d c) d c id) d c fun x => { x with
      stnt := x.stnt ++ [ntAdd ⟨lineOf a, 0, List.replicate 64 0⟩ (a % 64) (leBytes n v.toNat)] }) := by
  set u := modCore (retireStores s d c) d c id with hu
  set y := getCore s d c with hy
  have hcore : getCore u d c = { y with stores := y.stores.map fun b => { b with retired := b.retired || !storeHeld y b } } := by
    simp [hu, hy, retireStores]
  have hdrain : drainStores (retireStores s d c) d c (fun b => lineOf b.addr == lineOf a) = u :=
    drainStores_of_none fun b hb => by
      simp only [retireStores, getCore_modCore, List.mem_map] at hb
      obtain ⟨b', hb', rfl⟩ := hb
      simpa using List.any_eq_false.1 hst b' hb'
  have hl' : loadsOut (getCore u d c) = false := by rw [hcore]; exact hl
  have hst' : (getCore u d c).stores.any (fun b => lineOf b.addr == lineOf a) = false := by
    rw [hcore, List.any_map]
    exact hst
  have hmiss' : (getCore u d c).misses.any (fun m => m.line == lineOf a) = false := by rw [hcore]; exact hmiss
  have hnt' : (getCore u d c).stnt.find? (fun x => x.line == lineOf a) = none := by rw [hcore]; exact hnt
  have hroom' : (getCore u d c).stnt.length < 16 := by rw [hcore]; exact hroom
  have hany : (getCore u d c).stnt.any (fun x => x.line == lineOf a) = false := by
    simpa [List.any_eq_false] using List.find?_eq_none.1 hnt'
  have hmask : (ntAdd ⟨lineOf a, 0, List.replicate 64 0⟩ (a % 64) (leBytes n v.toNat)).mask ≠ BitVec.allOnes 64 := by
    simpa [ntAdd] using (spanMask_ne hpos h8 hfit).2
  simp only [normalStnt, mayRetire_of_loadsOut hl, if_true, hdrain, dependsOn_of_loadsOut hl', mayRetire_of_loadsOut hl', hst',
    hmiss', lineWaits_of_loadsOut hl', clip_leBytes hfit, hnt', Bool.not_true, Bool.false_eq_true, or_self, if_false]
  cases hold : (getCore u d c).stnt with
  | nil =>
    simp only [hnt', Option.getD_none, hmask, if_false]
    simp only [modCore, hold, List.any_nil, List.nil_append, Bool.false_eq_true, if_false]
  | cons x r =>
    rw [hold] at hroom' hany
    simp only [if_neg (Nat.not_le.2 hroom'), hnt', Option.getD_none, hmask, if_false]
    simp only [modCore, hold, hany, Bool.false_eq_true, if_false]

/-! ### LOAD -/

theorem normalLoad_newest {s : State} {d c a n : Nat} {v : BitVec 64} {r p : Bool} {l : List BufStore}
    (hnt : (getCore s d c).stnt.find? (fun x => x.line == lineOf a) = none)
    (hst : (getCore s d c).stores = l ++ [⟨a, leBytes n v.toNat, r, p⟩]) (hv : v.toNat < 2 ^ (8 * n)) :
    normalLoad s d c a n = putCore s d c { getCore s d c with result := .value v } := by
  have hown := ownBytes_append hst
  have hlen := le_length_ownBytes (x := { getCore s d c with stores := l }) (line := lineOf a) hnt
  have hbytes := take_drop_overwrite (old := (ownBytes { getCore s d c with stores := l } (lineOf a)).2) (off := a % 64)
    (new := leBytes n v.toNat) (by omega)
  have hval : BitVec.ofNat 64 (leNat (leBytes n v.toNat)) = v := by
    rw [leNat_leBytes, Nat.mod_eq_of_lt (by rwa [show 256 = 2 ^ 8 from rfl, ← pow_mul]), BitVec.ofNat_toNat, BitVec.setWidth_eq]
  simp only [length_leBytes] at hown hbytes
  simp only [normalLoad, hown, and_not_or_self, if_true, bindLoad, hbytes, hval]
  rfl

/-- The choice of a line that makes way uses up at most a free value. -/
theorem cacheVictim_eq (s : State) (k : CacheKind) (l : List Nat) (line : Nat) :
    ∃ v n, cacheVictim s k l line = (v, { s with fresh := n }) := by
  unfold cacheVictim
  dsimp only
  split
  · exact ⟨_, _, rfl⟩
  · exact ⟨_, _, rfl⟩

/-- A line that comes into a core's L1D changes nothing else but a free value. -/
theorem fillL1_eq (s : State) (d c line : Nat) :
    fillL1 s d c line false = s ∨
      ∃ n l, fillL1 s d c line false = modCore { s with fresh := n } d c fun x => { x with l1d := l } := by
  simp only [fillL1, Bool.false_eq_true, if_false]
  split
  · exact .inl rfl
  · obtain ⟨v, n, hv⟩ := cacheVictim_eq s .l1d (getCore s d c).l1d line
    rw [hv]
    exact .inr ⟨_, _, rfl⟩

theorem fillL1_keeps (s : State) (d c line : Nat) :
    getCore (fillL1 s d c line false) d c = { getCore s d c with l1d := (getCore (fillL1 s d c line false) d c).l1d } ∧
      SameMem s (fillL1 s d c line false) ∧ CoresBut s (fillL1 s d c line false) d c ∧
      (fillL1 s d c line false).regs = s.regs := by
  obtain h | ⟨n, l, h⟩ := fillL1_eq s d c line
  · rw [h]
    exact ⟨rfl, ⟨rfl, rfl, rfl⟩, rfl, rfl⟩
  · rw [h, getCore_modCore]
    exact ⟨rfl, ⟨rfl, rfl, rfl⟩, CoresBut.modCore rfl _, rfl⟩

theorem normalRefusal_hole {s : State} {a : Nat} (h : paKind s a = .hole) (b : Bool) :
    normalRefusal s b a = some (if b then kBusLoad else kBusStore) := by
  simp [normalRefusal, h]

/-- A load of a line that the core's L2 holds and its buffers do not is bound from the L2's copy. -/
theorem normalLoad_l2 {s : State} {d c a n : Nat} {x : CacheLine} (hk : paKind s a = .ddr)
    (hnt : (getCore s d c).stnt.find? (fun y => y.line == lineOf a) = none)
    (hst : (getCore s d c).stores.any (fun b => lineOf b.addr == lineOf a) = false) (hx : l2Find s d c (lineOf a) = some x)
    (hlen : x.data.length = 64) (hw : lineWaits (getCore s d c) (lineOf a) = false) (hpos : 0 < n) (h8 : n ≤ 8)
    (hfit : a % 64 + n ≤ 64) : normalLoad s d c a n = bindLoad (fillL1 s d c (lineOf a) false) d c a n x.data := by
  have hown := ownBytes_of_none hnt hst
  have hmask : spanMask (a % 64) n &&& ~~~(0 : BitVec 64) ≠ 0 := by
    rw [show ~~~(0 : BitVec 64) = BitVec.allOnes 64 by decide, BitVec.and_allOnes]
    exact (spanMask_ne hpos h8 hfit).1
  have hhave : acquire s d c (lineOf a) false = (.held, s) := by simp [acquire, hx]
  have hmerge : mergeMask x.data (List.replicate 64 0) 0 = x.data := mergeMask_zero (by simp [hlen])
  simp only [normalLoad, hown, hmask, if_false, normalRefusal, hk, hw, reduceCtorEq, false_and, lineLoad, hhave, bindLine, hx, hmerge]
  simp

/-! ### Unmapped addresses -/

theorem isDevice_of_hole {s : State} {a : Nat} (h : paKind s a = .hole) : isDevice s a = false := by
  simp [isDevice, h]

theorem loadError_bus (s : State) (d c a : Nat) :
    loadError s d c kBusLoad a =
      modCore (coreErr s d c kBusLoad a) d c fun x => { x with result := .error, taken := .busErrorLoad } := by
  simp [loadError, kBusLoad, kPoison]

theorem normalLoad_hole {s : State} {d c a n : Nat} (hk : paKind s a = .hole)
    (hm : spanMask (a % 64) n &&& ~~~(ownBytes (getCore s d c) (lineOf a)).1 ≠ 0) :
    normalLoad s d c a n = modCore (coreErr s d c kBusLoad a) d c fun x => { x with result := .error, taken := .busErrorLoad } := by
  simp only [normalLoad, hm, if_false, normalRefusal_hole hk, if_true, loadError_bus]

theorem takeNt_of_returned_nil {s : State} (h : s.coh.returned = []) (d c : Nat) : takeNt s d c = s := by
  have hcoh : { s.coh with returned := [] } = s.coh := by rw [← h]
  simp only [takeNt, h, List.filter_nil, List.foldl_nil, hcoh]

theorem drainNt_of_stnt_nil {s : State} {d c : Nat} (h : (getCore s d c).stnt = []) : drainNt s d c = s := by
  simp [drainNt, h]

@[simp] theorem getCore_coreErr (s : State) (d c kind addr : Nat) : getCore (coreErr s d c kind addr) d c = getCore s d c := rfl

theorem storeErr_bus (s : State) (d c a : Nat) :
    storeErr s d c kBusStore a = modCore (coreErr s d c kBusStore a) d c fun x => { x with storeError := some a } :=
  if_neg (by decide)

/-- One buffered store, to an unmapped address, leaves the buffer with an error response. -/
theorem drainStores_hole {s : State} {d c a : Nat} {bs : List Byte} {r : Bool} (hk : paKind s a = .hole)
    (hst : (getCore s d c).stores = [⟨a, bs, r, false⟩]) (hw : lineWaits (getCore s d c) (lineOf a) = false) :
    drainStores s d c (fun _ => true) = modCore (storeErr s d c kBusStore a) d c fun x => { x with stores := [] } := by
  simp [drainStores, hst, drainList, storeHeld, hw, performStore, normalRefusal_hole hk]

/-- What a drain leaves of a core whose only store is to an unmapped address. -/
def drainedHole (s : State) (d c a : Nat) : State :=
  modCore (storeErr (retireStores s d c) d c kBusStore a) d c fun x => { x with stores := [] }

theorem getCore_drainedHole (s : State) (d c a : Nat) :
    getCore (drainedHole s d c a) d c = { getCore s d c with stores := [], storeError := some a } := by
  simp [drainedHole, storeErr_bus, retireStores]

theorem drainedHole_only (s : State) (d c a : Nat) : CoreOnly s (drainedHole s d c a) d c := by
  rw [drainedHole, storeErr_bus]
  exact ((((CoreOnly.refl s d c).modCore _).coreErr _ _).modCore _).modCore _

theorem fget_drainedHole (s : State) (d c a : Nat) (f : Fld) :
    fget (drainedHole s d c a) d c f = fget (coreErr (retireStores s d c) d c kBusStore a) d c f := by
  rw [drainedHole, storeErr_bus, fget_modCore, fget_modCore]

theorem drainedHole_coh (s : State) (d c a : Nat) : (drainedHole s d c a).coh = s.coh := by
  rw [drainedHole, storeErr_bus]
  rfl

section
variable {s : State} {d c a : Nat} {bs : List Byte} {r : Bool} (hk : paKind s a = .hole)
  (hst : (getCore s d c).stores = [⟨a, bs, r, false⟩]) (hnt : (getCore s d c).stnt = [])
  (hw : lineWaits (getCore s d c) (lineOf a) = false) (hret : s.coh.returned = [])
include hk hst hnt hw hret

theorem drainAll_hole : drainAll s d c = drainedHole s d c a := by
  have hcore : getCore (retireStores s d c) d c = { getCore s d c with stores := [⟨a, bs, true, false⟩] } := by
    simp [retireStores, hst, storeHeld, hw]
  have hdrain : drainStores (retireStores s d c) d c (fun _ => true) = drainedHole s d c a :=
    drainStores_hole (s := retireStores s d c) hk (congrArg Core.stores hcore) (by rw [hcore]; exact hw)
  rw [drainAll, hdrain, drainNt_of_stnt_nil (by rw [getCore_drainedHole]; exact hnt),
    takeNt_of_returned_nil (by rw [drainedHole_coh]; exact hret)]

/-- ORD_S over one buffered store, to an unmapped address, takes its error response. -/
theorem startOp_ordS_hole (hopen : ntOpen s d c = false) :
    startOp s d c .ordS =
      (true, modCore (drainedHole s d c a) d c fun x => { x with storeError := none, taken := .busErrorStore }) := by
  have hopen' : ntOpen (drainedHole s d c a) d c = false := by
    rw [ntOpen, drainedHole_coh]
    exact hopen
  have hout : storesOut (drainedHole s d c a) d c = false := by simp [storesOut, getCore_drainedHole, hnt, hopen']
  simp [startOp, drainAll_hole hk hst hnt hw hret, hout, takeStoreError, modCore, getCore_drainedHole]

end

/-- Settles O2, an access at a time: what `startOp` does of it when the core holds nothing back. -/
theorem coreSeesItsBuffers : Obligations.CoreSeesItsBuffers := by
  unfold Obligations.CoreSeesItsBuffers
  refine ⟨?store, ?stnt, ?newest, ?l2, ?stopped, ?load, ?normalStore, ?normalStnt, ?devLoad, ?devStore, ?devStnt,
    ?holeLoad, ?holeOrd⟩
  case store =>
    intro d c a size v s hr hk hq hl hnt hsize ha
    obtain ⟨-, -, hfit⟩ := fits_of_aligned hsize ha
    exact congrArg Host.Outcome.next ((issue_store_normal hr hq (isDevice_of_normalKind hk)).trans (normalStore_eq hl hnt hfit))
  case stnt =>
    intro d c a size v s hr hk hq hl hmiss hst hnt hroom hsize ha
    obtain ⟨hpos, h8, hfit⟩ := fits_of_aligned hsize ha
    have henter := normalStnt_enters (v := v) hl hmiss hst hnt hroom hpos h8 hfit
    have hissue := issue_stnt_normal hr hq (isDevice_of_normalKind hk) (congrArg Prod.fst henter)
    refine ⟨_, congrArg Host.Outcome.next (hissue.trans (congrArg Prod.snd henter)),
      ⟨ntAdd ⟨lineOf a, 0, List.replicate 64 0⟩ (a % 64) (leBytes size v.toNat), ?_, rfl, fun i hi => ?_, ?_⟩, ⟨rfl, rfl, rfl⟩,
      rfl, CoresBut.modCore (CoresBut.modCore (CoresBut.modCore rfl _) _) _⟩
    · rw [retireStores, getCore_modCore, getCore_modCore, getCore_modCore]
      rfl
    · simp [ntAdd, getLsbD_spanMask_eq _ _ _ hi]
    · simpa [ntAdd] using take_drop_overwrite (old := List.replicate 64 0) (off := a % 64) (new := leBytes size v.toNat)
        (by simp; omega)
  case newest =>
    intro d c a size v r p l s hr hk hq hnt hst _ _ hv
    exact congrArg Host.Outcome.next ((issue_load_normal hr hq (isDevice_of_normalKind hk)).trans (normalLoad_newest hnt hst hv))
  case l2 =>
    intro d c a size x s hr hk hq hnt hst hx hlen hw hsize ha
    obtain ⟨hpos, h8, hfit⟩ := fits_of_aligned hsize ha
    have hd : isDevice s a = false := isDevice_of_normalKind (by rw [hk]; rfl)
    obtain ⟨hcore, hmem, hcores, hregs⟩ := fillL1_keeps s d c (lineOf a)
    refine ⟨_, congrArg Host.Outcome.next ((issue_load_normal hr hq hd).trans (normalLoad_l2 hk hnt hst hx hlen hw hpos h8 hfit)),
      ?_, hmem, CoresBut.modCore hcores _, hregs⟩
    rw [bindLoad, getCore_modCore, hcore]
  case stopped =>
    intro d c a n s hr
    exact congrArg Host.Outcome.next (by simp [issue, hr])
  case load =>
    intro d c a n s hr hq hd
    exact congrArg Host.Outcome.next (issue_load_normal hr hq hd)
  case normalStore =>
    intro d c a n v s hr hq hd
    exact congrArg Host.Outcome.next (issue_store_normal hr hq hd)
  case normalStnt =>
    intro d c a n v s hr hq hd ht
    exact congrArg Host.Outcome.next (issue_stnt_normal hr hq hd ht)
  case devLoad =>
    intro d c a n s hr hq hd hw hl hm
    exact congrArg Host.Outcome.next (issue_device hr hq (startOp_load_device hd) hw hl hm)
  case devStore =>
    intro d c a n v s hr hq hd hw hl hm
    exact congrArg Host.Outcome.next (issue_device hr hq (startOp_store_device hd) hw hl hm)
  case devStnt =>
    intro d c a n v s hr hq hd hw hl hm
    exact congrArg Host.Outcome.next (issue_device hr hq (startOp_stnt_device hd) hw hl hm)
  case holeLoad =>
    intro d c a size s hr hq _ hk ha hm
    refine ⟨_, congrArg Host.Outcome.next ((issue_load_normal hr hq (isDevice_of_hole hk)).trans (normalLoad_hole hk hm)), ?_⟩
    rw [getCore_modCore, fget_modCore, fget_modCore, fget_coreErr_addr _ _ _ _ _ ha, fget_coreErr_kind _ _ _ _ _ (by decide)]
    have honly := ((CoreOnly.refl s d c).coreErr kBusLoad a).modCore fun x => { x with result := .error, taken := .busErrorLoad }
    exact ⟨rfl, rfl, rfl, rfl, honly.mem, honly.cores, honly.regs⟩
  case holeOrd =>
    intro d c a bs r s hr hq _ hk ha hst hnt hw hopen hret
    have hissue := issue_of_queue_nil s d c .ordS hr hq
    rw [startOp_ordS_hole hk hst hnt hw hret hopen] at hissue
    refine ⟨_, congrArg Host.Outcome.next hissue, ?_⟩
    have honly := (drainedHole_only s d c a).modCore fun x => { x with storeError := none, taken := .busErrorStore }
    rw [if_pos rfl, getCore_modCore, getCore_drainedHole, fget_modCore, fget_modCore, fget_drainedHole, fget_drainedHole,
      fget_coreErr_addr _ _ _ _ _ ha, fget_coreErr_kind _ _ _ _ _ (by decide)]
    exact ⟨rfl, rfl, rfl, hq, rfl, rfl, honly.mem, honly.cores, honly.regs⟩

end Sys2Proof.Proofs
end

section
/-! The slot that runs on an engine, and the state in which an op of an engine reads its storage (R53, R98, R253, R263). -/

namespace Sys2Proof.Proofs

open Sys2Proof.Machine Sys2Proof.Safety Sys2Proof.Laws

/-! ### The launch and the slot of an engine -/

theorem findLaunch_modLaunch (s : State) (c q c' q' : Nat) {f : Launch → Launch}
    (hf : ∀ l, (f l).ctx = l.ctx ∧ (f l).seq = l.seq) :
    findLaunch (modLaunch s c q f) c' q' = (findLaunch s c' q').map fun l => if l.ctx = c ∧ l.seq = q then f l else l := by
  have hkey (l : Launch) : (if l.ctx = c ∧ l.seq = q then f l else l).ctx = l.ctx ∧
      (if l.ctx = c ∧ l.seq = q then f l else l).seq = l.seq := by
    split
    · exact hf l
    · exact ⟨rfl, rfl⟩
  simp only [findLaunch, modLaunch, List.find?_map, Function.comp_def, hkey]

theorem slotOf_eq_some_iff {s : State} {d e i : Nat} {l : Launch} {x : Slot} :
    slotOf s d e = some (l, i, x) ↔
      ∃ c q, (getEng s d e).placed = some (c, q, i) ∧ findLaunch s c q = some l ∧ l.slots[i]? = some x := by
  simp only [slotOf, Option.bind_eq_some_iff, Option.map_eq_some_iff, Prod.mk.injEq]
  constructor
  · rintro ⟨⟨c, q, j⟩, hp, m, hm, y, hy, rfl, rfl, rfl⟩
    exact ⟨c, q, hp, hm, hy⟩
  · rintro ⟨c, q, hp, hl, hx⟩
    exact ⟨_, hp, l, hl, x, hx, rfl, rfl, rfl⟩

/-- A change of launches that keeps their names, as the slot of an engine shows it. -/
theorem slotOf_modLaunch {s : State} {d e i : Nat} {l : Launch} {x y : Slot} (h : slotOf s d e = some (l, i, x)) (c q : Nat)
    {f : Launch → Launch} (hf : ∀ l, (f l).ctx = l.ctx ∧ (f l).seq = l.seq)
    (hy : (if l.ctx = c ∧ l.seq = q then f l else l).slots[i]? = some y) :
    slotOf (modLaunch s c q f) d e = some (if l.ctx = c ∧ l.seq = q then f l else l, i, y) := by
  obtain ⟨c', q', hp, hl, -⟩ := slotOf_eq_some_iff.1 h
  exact slotOf_eq_some_iff.2 ⟨c', q', hp, by rw [findLaunch_modLaunch _ _ _ _ _ hf, hl, Option.map_some], hy⟩

theorem slotOf_holdAgent {s : State} {d e i : Nat} {l : Launch} {x : Slot} (h : slotOf s d e = some (l, i, x)) (k : Hold) :
    ∃ m, slotOf (holdAgent s (.engine d e) k) d e = some (m, i, { x with hold := k }) := by
  obtain ⟨-, -, -, -, hx⟩ := slotOf_eq_some_iff.1 h
  simp only [holdAgent, modAgent, h]
  exact ⟨_, slotOf_modLaunch h _ _ (fun _ => ⟨rfl, rfl⟩) (by simp [hx])⟩

theorem slotOf_launchErr {s : State} {d e i : Nat} {l : Launch} {x : Slot} (h : slotOf s d e = some (l, i, x)) (c q st : Nat)
    (v : BitVec 64) : ∃ m, slotOf (launchErr s c q st v) d e = some (m, i, x) := by
  obtain ⟨-, -, -, -, hx⟩ := slotOf_eq_some_iff.1 h
  refine ⟨_, slotOf_modLaunch h _ _ (fun _ => ⟨rfl, rfl⟩) ?_⟩
  split <;> exact hx

/-- An invalid scale word stops the slot that meets it (R98). -/
theorem slotOf_badWord {s : State} {d e i j : Nat} {l m : Launch} {x : Slot} (h : slotOf s d e = some (l, i, x)) :
    ∃ m', slotOf (badWord s d e m j) d e = some (m', i, { x with hold := .stopped }) := by
  obtain ⟨_, hheld⟩ := slotOf_holdAgent h .stopped
  exact slotOf_launchErr hheld _ _ _ _

/-! ### An op that is ready -/

theorem readyOp_engine {s : State} {d e i : Nat} {l : Launch} {x : Slot} {o : Op} (hs : slotOf s d e = some (l, i, x))
    (hp : l.phase = .running) (hh : x.hold = .run) (hf : x.finished = false) (ho : x.ops[x.pos]? = some o) :
    readyOp s (.engine d e) = some (l, i, o, x.cursors) := by
  simp [readyOp, hs, hp, hh, hf, ho]

/-- The state in which an op of an engine reads: which writes of its launch to its bank the engine sees is settled first (R253). -/
def settled (s : State) (d e : Nat) (l : Launch) : State := observe s (.engine d e) l.ctx l.seq fun g => g.engine == some (d, e)

theorem slotOf_settled {s : State} {d e i : Nat} {l : Launch} {x : Slot} (h : slotOf s d e = some (l, i, x)) :
    ∃ m, slotOf (settled s d e l) d e = some (m, i, x) := by
  obtain ⟨-, -, -, -, hx⟩ := slotOf_eq_some_iff.1 h
  unfold settled observe
  split
  · exact ⟨_, h⟩
  · dsimp only
    split
    · exact ⟨_, h⟩
    · exact ⟨_, slotOf_modLaunch (s := { s with fresh := s.fresh + 1 }) h _ _ (fun _ => ⟨rfl, rfl⟩) (by split <;> exact hx)⟩

theorem getEng_settled (s : State) (d e : Nat) (l : Launch) (d' e' : Nat) : getEng (settled s d e l) d' e' = getEng s d' e' := by
  unfold settled observe
  split
  · rfl
  · dsimp only
    split <;> rfl

/-- An op that meets no error does what it does in the settled state. -/
theorem engineOp_none {s u : State} {d e i : Nat} {l : Launch} {o : Op} {cs : List Int}
    {f : State → Launch → Nat → Op → List Int → Option State} (hr : readyOp s (.engine d e) = some (l, i, o, cs))
    (hf : f (settled s d e l) l i o cs = some u) : engineOp s d e .none f = u := by
  rw [settled] at hf
  simp [engineOp, hr, engErrBits, engFatal, hf]

/-! ### Settling what an agent sees -/

/-- A write that the agent has neither acquired nor read as new, of those that it is about to read. -/
def unsettled (may : Fog → Bool) (a : Agent) (g : Fog) : Bool := may g && !g.old.isEmpty && !knows g a

/-- Where a write is not settled, settling draws a free value. -/
theorem observe_fresh {s : State} {a : Agent} {c q : Nat} {may : Fog → Bool} {l : Launch} (hl : findLaunch s c q = some l)
    (hopen : l.fog.any (unsettled may a) = true) : (observe s a c q may).fresh = s.fresh + 1 := by
  change (l.fog.any fun g => may g && !g.old.isEmpty && !knows g a) = true at hopen
  simp [observe, hl, hopen]

/-- A later write of the same commit or DRAIN has been read as new, so that this one must be visible (R263). -/
def mustShow (l : Launch) (a : Agent) (g : Fog) : Bool :=
  g.rising && l.fog.any fun h => h.rising && h.group == g.group && decide (g.id ≤ h.id) && h.read.contains a

/-- Where every write that is not settled must be visible, settling leaves no choice: each is read as new. -/
theorem observe_of_mustShow {s : State} {a : Agent} {may : Fog → Bool} {l : Launch} (hs : s.launches = [l])
    (hopen : l.fog.any (unsettled may a) = true) (hmust : ∀ g ∈ l.fog, unsettled may a g = true → mustShow l a g = true) :
    observe s a l.ctx l.seq may = { s with
      fresh := s.fresh + 1
      launches := [{ l with fog := l.fog.map fun g => if unsettled may a g then { g with read := a :: g.read } else g }] } := by
  have hl : findLaunch s l.ctx l.seq = some l := by simp [findLaunch, hs]
  have hfog : (l.fog.map fun g => if unsettled may a g && (Config.sees s.fresh g.id || mustShow l a g) then
      { g with read := a :: g.read } else g) = l.fog.map fun g => if unsettled may a g then { g with read := a :: g.read } else g := by
    refine List.map_congr_left fun g hg => ?_
    by_cases ho : unsettled may a g = true
    · rw [hmust g hg ho, Bool.or_true, Bool.and_true]
    · simp [ho]
  rw [← hfog]
  change (l.fog.any fun g => may g && !g.old.isEmpty && !knows g a) = true at hopen
  simp [observe, hl, hopen, modLaunch, hs, unsettled, mustShow]

end Sys2Proof.Proofs
end

section
/-! A stationary operand and activations whose scale word has been overwritten in the engine's bank (R98, R253, R263): what an op reads
once the write is visible to its engine. -/

namespace Sys2Proof.Proofs

open Sys2Proof.Machine Sys2Proof.Safety Sys2Proof.Laws

/-! ### Operands with an invalid scale word -/

section
variable {s : State} {d e src scale fmt blk gran n real groups : Nat} {across : Bool} (hf : takesWords fmt = true)
include hf

theorem readOperand_of_readWords {ws : List (BitVec 32 × Int)} (hw : readWords s d e scale fmt gran groups = some ws) :
    ∃ t, readOperand s d e src scale fmt blk gran n real groups across = some t := by
  simp [readOperand, hf, hw]

theorem readOperand_eq_none (hw : readWords s d e scale fmt gran groups = none) :
    readOperand s d e src scale fmt blk gran n real groups across = none := by
  simp [readOperand, hf, hw]

end

theorem wload_badWord {s : State} {d e i fm bl gr ro co : Nat} {sr sa : EAddr} {l : Launch} {cs : List Int}
    (hr : readyOp s (.engine d e) = some (l, i, .wload sr sa fm bl gr ro co, cs))
    (hb : readOperand (settled s d e l) d e (eaddr cs sr) (eaddr cs sa) fm bl gr ro co
      (if (getEng (settled s d e l) d e).ribbon then ro else co) (!(getEng (settled s d e l) d e).ribbon) = none) :
    exec (.wload d e .none) s = .next (badWord (settled s d e l) d e l i) :=
  congrArg Host.Outcome.next (engineOp_none hr (by simp only [hb]))

theorem matmul_badWord {s : State} {d e i fm bl gr m : Nat} {ad : Bool} {sr sa ac : EAddr} {w : Tile} {l : Launch} {cs : List Int}
    (hr : readyOp s (.engine d e) = some (l, i, .matmul ad sr ac sa fm bl gr m, cs))
    (hw : (getEng (settled s d e l) d e).shadow = some w)
    (hb : readOperand (modEng (settled s d e l) d e fun y => { y with active := some w }) d e (eaddr cs sr) (eaddr cs sa) fm bl gr m
      w.rows m false = none) :
    exec (.matmul d e .none) s =
      .next (badWord (modEng (settled s d e l) d e fun y => { y with active := some w }) d e l i) :=
  congrArg Host.Outcome.next (engineOp_none hr (by simp only [hw, hb]))

section
variable (s : State) (d e : Nat) (w : Tile)

/-- An operand that becomes active leaves the slot of the engine as it was. -/
theorem slotOf_active : slotOf (modEng s d e fun y => { y with active := some w }) d e = slotOf s d e := by
  simp [slotOf, modEng]
  rfl

/-- What stands in an engine's storage does not depend on its active operand. -/
theorem readWords_active (addr fmt gran n : Nat) :
    readWords (modEng s d e fun y => { y with active := some w }) d e addr fmt gran n = readWords s d e addr fmt gran n := by
  have hread (a n : Nat) : elRead (modEng s d e fun y => { y with active := some w }) d e a n = elRead s d e a n := by
    simp only [elRead, slotOf_active]
    rfl
  have hword (a : Nat) : elWord (modEng s d e fun y => { y with active := some w }) d e a = elWord s d e a := by
    rw [elWord, hread, elWord]
  simp only [readWords, hword]

end

/-! ### The state -/

def placedSlot (ops : List Op) : Slot := ⟨ops, 1, 1, 128, false, 0, some (0, 0), 0, List.replicate 16 0, [], .run, false⟩

/-- Launch 1 of context 5, with one slot and the given writes that not all of its agents have acquired. -/
def placedLaunch (ops : List Op) (fog : List Fog) : Launch :=
  { ctx := 5, seq := 1, phase := .running, ephId := 77, budget := 10, amaxBinding := none, reportBinding := none,
    totalGranules := 1, maxLatency := 0, slots := [placedSlot ops], streams := [], bindings := [], tokens := [], phases := [],
    scales := [], pool := [], rewinds := 0, rewindReports := 0, sats := 0, errs := [], status := 0, detail := 0, unpinned := [],
    pinned := [], hist := [], ready := true, arrival := 0, reserving := false, reservedEngines := [], nsCharged := false, root := 0,
    recDone := 0, lends := [], fog := fog, fogNext := fog.length, releases := [] }

/-- A stationary operand of one row and one column. -/
def unitTile : Tile := ⟨8, 0, 0, 1, 1, [[0]], [], []⟩

/-- A launch whose slot runs on engine 0 of MD0, which is bound to bank 0 and holds a shadow operand of one row and one column. -/
def placedState (l : Launch) : State :=
  { fput State.reset 0 0 Fl.ENG_BINDING_BANK 0 with
    launches := [l]
    engines := [(0, { Engine.fresh with placed := some (5, 1, 0), shadow := some unitTile })] }

/-- A line of a commit into the bank, which wrote 0 over it. -/
def committedLine (id lo : Nat) (old : List Byte) (read : List Agent) : Fog :=
  ⟨id, .engine 0 1, some (0, 0), lo, lo + 64, old, true, 0, true, [.engine 0 1], read⟩

/-- The commit wrote the line at 0x400, in which the scale word 0x3F80_00C0 stood, and then the line at 0x800. Engine 0 has read the
second as new and has not read the first since. -/
def staleScale (op : Op) : Launch :=
  placedLaunch [op] [committedLine 0 0x400 (leBytes 64 0x3F80_00C0) [], committedLine 1 0x800 (List.replicate 64 0) [.engine 0 0]]

theorem slotOf_staleScale (op : Op) : slotOf (placedState (staleScale op)) 0 0 = some (staleScale op, 0, placedSlot [op]) := rfl

theorem readyOp_staleScale (op : Op) :
    readyOp (placedState (staleScale op)) (.engine 0 0) = some (staleScale op, 0, op, List.replicate 16 0) :=
  readyOp_engine (slotOf_staleScale op) rfl rfl rfl rfl

/-- A WLOAD of one MXINT8 code at address 0, whose scale word stands at 0x400. -/
def staleWload : Op := .wload (.lit 0) (.lit 16) 8 0 0 1 1

/-- A MATMUL of one row of one such code, with the same scale word, into the first entry of the accumulator. -/
def staleMatmul : Op := .matmul false (.lit 0) (.lit 0x10_0000) (.lit 16) 8 0 0 1

theorem readWords_staleScale : ∀ op ∈ [staleWload, staleMatmul],
    readWords (placedState (staleScale op)) 0 0 0x400 8 0 1 = some [(0x3F80_00C0, 0)] := by
  decide

/-- Once engine 0 reads, the first line must be visible to it, and with it a scale word that is 0. -/
theorem readWords_settled_staleScale : ∀ op ∈ [staleWload, staleMatmul],
    readWords (settled (placedState (staleScale op)) 0 0 (staleScale op)) 0 0 0x400 8 0 1 = none := by
  have hsettled (op : Op) : settled (placedState (staleScale op)) 0 0 (staleScale op) = { placedState (staleScale op) with
      fresh := 1
      launches := [placedLaunch [op] [committedLine 0 0x400 (leBytes 64 0x3F80_00C0) [.engine 0 0],
        committedLine 1 0x800 (List.replicate 64 0) [.engine 0 0]]] } := by
    rw [settled, observe_of_mustShow rfl rfl (by simp [staleScale, placedLaunch, committedLine, mustShow, unsettled, knows])]
    rfl
  simp only [hsettled]
  decide

/-! ### The two obligations -/

/-- Refutes O8. The statement speaks of the operand as the storage shows it before the op. The op first settles which writes of the
launch its engine sees (R253): of one commit the engine has read a later line as new, so that an earlier line, which it has not
acquired, must be visible to it now (R263). Before, the scale word reads as it was; for the op it is 0, which is invalid, and the op
stops its slot (R98). -/
theorem not_operandLoads : ¬ Obligations.OperandLoads := by
  unfold Obligations.OperandLoads
  rintro ⟨hload, -⟩
  have hop : staleWload ∈ [staleWload, staleMatmul] := by simp
  obtain ⟨w, hw⟩ := readOperand_of_readWords (src := 0) (blk := 0) (n := 1) (real := 1) (across := true) rfl
    (readWords_staleScale _ hop)
  obtain ⟨t, ht, hpasses, -⟩ := hload 0 0 0 8 0 0 1 1 _ _ w _ _ _ (slotOf_staleScale staleWload) rfl rfl rfl rfl hw
  have hrun : exec (.wload 0 0 .none) (placedState (staleScale staleWload)) =
      .next (badWord (settled (placedState (staleScale staleWload)) 0 0 (staleScale staleWload)) 0 0 (staleScale staleWload) 0) :=
    wload_badWord (readyOp_staleScale staleWload) (readOperand_eq_none rfl (readWords_settled_staleScale _ hop))
  obtain rfl := Host.Outcome.next.inj (hrun.symm.trans ht)
  obtain ⟨_, hsettled⟩ := slotOf_settled (slotOf_staleScale staleWload)
  obtain ⟨_, hstops⟩ := slotOf_badWord (m := staleScale staleWload) (j := 0) hsettled
  rw [hstops] at hpasses
  cases hpasses

/-- Refutes O9, as O8: the activations' scale word reads as it was before the op, and for the op, which must see a commit's write over
it (R263), it is 0; the op stops its slot (R98). -/
theorem not_integerMatmulIsDotProduct : ¬ Obligations.IntegerMatmulIsDotProduct := by
  unfold Obligations.IntegerMatmulIsDotProduct
  rintro ⟨-, hmatmul, -⟩
  have hop : staleMatmul ∈ [staleWload, staleMatmul] := by simp
  obtain ⟨a, ha⟩ := readOperand_of_readWords (src := 0) (blk := 0) (n := 1) (real := 1) (across := false) rfl
    (readWords_staleScale _ hop)
  obtain ⟨t, ht, hpasses, -⟩ := hmatmul 0 0 0 8 0 0 1 false _ _ _ _ a _ _ _ (slotOf_staleScale staleMatmul) rfl rfl rfl rfl rfl rfl
    (by decide) ha
  have hword : readWords (modEng (settled (placedState (staleScale staleMatmul)) 0 0 (staleScale staleMatmul)) 0 0
      fun y => { y with active := some unitTile }) 0 0 0x400 8 0 1 = none :=
    (readWords_active _ _ _ _ _ _ _ _).trans (readWords_settled_staleScale _ hop)
  have hshadow : (getEng (settled (placedState (staleScale staleMatmul)) 0 0 (staleScale staleMatmul)) 0 0).shadow = some unitTile := by
    rw [getEng_settled]
    rfl
  have hrun := matmul_badWord (readyOp_staleScale staleMatmul) hshadow (readOperand_eq_none rfl hword)
  obtain rfl := Host.Outcome.next.inj (hrun.symm.trans ht)
  obtain ⟨_, hsettled⟩ := slotOf_settled (slotOf_staleScale staleMatmul)
  obtain ⟨_, hstops⟩ := slotOf_badWord (m := staleScale staleMatmul) (j := 0)
    ((slotOf_active _ 0 0 unitTile).trans hsettled)
  rw [hstops] at hpasses
  cases hpasses

end Sys2Proof.Proofs
end

section
/-! A REDUCE_READ of an engine for which a write to its bank is not yet settled (R64, R253). -/

namespace Sys2Proof.Proofs

open Sys2Proof.Machine Sys2Proof.Safety Sys2Proof.Laws

theorem reduceRead_ready {s : State} {d e i a b post n : Nat} {fm : Bool} {ds : EAddr} {l : Launch} {cs : List Int}
    (hr : readyOp s (.engine d e) = some (l, i, .reduceRead ds a b post fm n, cs)) :
    exec (.reduceRead d e) s =
      .next (advanceAgent (runReduceRead (settled s d e l) d e (eaddr cs ds) a b post fm n) (.engine d e)) :=
  congrArg Host.Outcome.next (engineOp_none hr rfl)

/-! ### Free values that an op's result uses up -/

theorem modAgent_fresh (s : State) (a : Agent) (f : Slot → Slot) (g : Stream → Stream) : (modAgent s a f g).fresh = s.fresh := by
  unfold modAgent
  split <;> split <;> rfl

theorem elStore_fresh (s : State) (d e a : Nat) (bs : List Byte) (group : Option Nat) : (elStore s d e a bs group).fresh = s.fresh := by
  have hnote : (elNote s d e a bs.length group).fresh = s.fresh := by
    unfold elNote
    split
    · split <;> rfl
    · rfl
  have hput (t : State) : (elPut t d e a bs).fresh = t.fresh := by
    unfold elPut elWrite
    dsimp only
    split <;> split <;> rfl
  exact (hput _).trans hnote

/-- Writing an accumulator out and passing on draw no free value. -/
theorem advanceAgent_runReduceRead_fresh (s : State) (d e ds a b post n : Nat) (fm : Bool) :
    (advanceAgent (runReduceRead s d e ds a b post fm n) (.engine d e)).fresh = s.fresh :=
  (modAgent_fresh _ _ _ _).trans (elStore_fresh _ _ _ _ _ _)

/-- A REDUCE_READ of accumulator 0 to address 0, in a launch whose Finder stream has written the line at 0 of engine 0's bank. -/
def reduceBehindMove : Launch :=
  placedLaunch [.reduceRead (.lit 0) 0 0 0 true 1]
    [⟨0, .stream 18 0 0, some (0, 0), 0, 64, List.replicate 64 0, false, 0, false, [], []⟩]

/-- Refutes O10: its last clause takes the op's result from the state before the op, and has no hypothesis that every write to the
engine's bank is settled. A stream's write to the bank awaits an acquire, so the op first draws a free value that decides whether the
engine sees it (R253); `runReduceRead` of the state before the op has not. -/
theorem not_vectorAndReduceOps : ¬ Obligations.VectorAndReduceOps := by
  unfold Obligations.VectorAndReduceOps
  rintro ⟨-, -, -, -, -, -, hform⟩
  have hslot : slotOf (placedState reduceBehindMove) 0 0 = some (reduceBehindMove, 0, placedSlot _) := rfl
  have h := hform 0 0 0 0 0 0 1 true (.lit 0) _ _ _ hslot rfl rfl rfl rfl
  rw [reduceRead_ready (readyOp_engine hslot rfl rfl rfl rfl)] at h
  have hfresh := congrArg State.fresh (Host.Outcome.next.inj h)
  have hsettled : (settled (placedState reduceBehindMove) 0 0 reduceBehindMove).fresh = (placedState reduceBehindMove).fresh + 1 :=
    observe_fresh rfl rfl
  rw [advanceAgent_runReduceRead_fresh, advanceAgent_runReduceRead_fresh, hsettled] at hfresh
  exact absurd hfresh (by decide)

end Sys2Proof.Proofs
end

section
/-! An RC_LOAD whose translation a walk has found for it (R189, R302). -/

namespace Sys2Proof.Proofs

open Sys2Proof.Machine Sys2Proof.Safety Sys2Proof.Laws

theorem modAgent_xlat (s : State) (a : Agent) (f : Slot → Slot) (g : Stream → Stream) : (modAgent s a f g).xlat = s.xlat := by
  unfold modAgent
  split <;> split <;> rfl

/-- An RC_LOAD whose lines are translated, and which none of them stops, keeps no translation: its access has ended (R302). -/
theorem rcLoad_grants {s u v : State} {d e i b off n : Nat} {er : List (List Ecc)} {ds : EAddr} {bd : Binding} {l : Launch} {x : Slot}
    {tags : List Nat} (hs : slotOf s d e = some (l, i, x)) (hp : l.phase = .running) (hh : x.hold = .run) (hf : x.finished = false)
    (ho : x.ops[x.pos]? = some (.rcLoad ds b off n none)) (hb : l.bindings[b]? = some bd)
    (hu : rcLines s (.agent (.engine d e) l.ctx l.seq) d l.ctx (ctxPart s l.ctx)
      ((rcParts e (eaddr x.cursors ds) (bd.va + 64 * off) n).map (·.1)) = (.ok tags, u))
    (hv : v = (List.zip tags ((rcParts e (eaddr x.cursors ds) (bd.va + 64 * off) n).map (·.2))).zipIdx.foldl
      (fun s t => rcLine s d t.1.1 t.1.2 (.agent (.engine d e) l.ctx l.seq) ((er[t.2]?).getD []))
      (touchRange u l.ctx (pageChunks (bd.va + 64 * off) (64 * n))))
    (hstop : (agentAt v (.engine d e)).elim false (fun x => x.2.2.2 == .stopped) = false) :
    ∃ t, exec (.rcLoad d e er) s = .next t ∧ t.xlat.grants = v.xlat.grants.filter fun g => g.1 != .agent (.engine d e) l.ctx l.seq := by
  have hva : (bd.va + (64 * ((off : Int) + 0)).toNat) = bd.va + 64 * off := by omega
  have hrun : doRcLoad d e er s = runRcLoad s l d e er (eaddr x.cursors ds) (bd.va + 64 * off) n := by
    simp only [doRcLoad, hs, ctlWord, readyOp_engine hs hp hh hf ho, hb, Option.getD_some, hva]
  refine ⟨_, congrArg Host.Outcome.next hrun, ?_⟩
  simp only [runRcLoad, hu, ← hv, hstop, Bool.false_eq_true, if_false]
  split <;> exact congrArg Xlat.grants (modAgent_xlat _ _ _ _)

/-- An RC_LOAD of one line to address 0, from a binding at 0x1_0000. -/
def grantedLoad : Launch :=
  { placedLaunch [.rcLoad (.lit 0) 0 0 1 none] [] with bindings := [⟨0x1_0000, 4096, 0, 0, false, false, 0, 0, 0, 0⟩] }

/-- A walk has found the page of the binding for this RC_LOAD: it lies at 0x2_0000 of DDR. -/
def grantedState : State :=
  { fput (fput (placedState grantedLoad) 16 0 Fl.DDR_POPULATION_POPULATED 1) 16 0 Fl.DDR_POPULATION_CHANNEL_GIB 32 with
    xlat := { State.reset.xlat with grants := [(.agent (.engine 0 0) 5 1, ⟨5, 0x1_0000, 4096, 0x2_0000, false⟩)] } }

/-- Refutes O12: its clause on the RC_LOAD of any number of lines names the whole state after it, in which the translations that walks
found for the RC_LOAD still stand. Its access has ended, so they are its no more (R302). Here the one line's translation is such a one. -/
theorem not_readCacheCommands : ¬ Obligations.ReadCacheCommands := by
  unfold Obligations.ReadCacheCommands
  rintro ⟨-, -, -, -, -, -, -, -, hlines, -⟩
  have hslot : slotOf grantedState 0 0 = some (grantedLoad, 0, placedSlot _) := rfl
  have hu : rcLines grantedState (.agent (.engine 0 0) 5 1) 0 5 (ctxPart grantedState 5) [0x1_0000] = (.ok [0x2_0000], grantedState) := by
    decide
  have h := hlines 0 0 0 0 0 1 [] (.lit 0) _ _ _ _ _ _ _ hslot rfl rfl rfl rfl rfl hu rfl (by decide)
  obtain ⟨t, ht, hgrants⟩ := rcLoad_grants (er := []) hslot rfl rfl rfl rfl rfl hu rfl (by decide)
  obtain rfl := Host.Outcome.next.inj (ht.symm.trans h)
  rw [apply_ite State.xlat, holdAgent, advanceAgent, modAgent_xlat, modAgent_xlat, ite_self] at hgrants
  exact absurd hgrants (by decide)

end Sys2Proof.Proofs
end

section
/-! A write-back of a far-memory line on its way while the DDR channels are trained again (R347, R514). -/

namespace Sys2Proof.Proofs

open Sys2Proof.Machine Sys2Proof.Safety Sys2Proof.Laws

/-- HD1 has sent the modified data of the first line of far memory, and then answered a probe of DDR line 0x40, whose transaction has
timed out since, that it does not hold the line. Neither message has arrived at its home, which is HD0's; nothing else is on its way. -/
def farWriteBack : State :=
  { fput (fput (fput (fput (fput { State.reset with rst := { State.reset.rst with kind := .none } }
        16 0 Fl.DDR_POPULATION_POPULATED 1) 16 0 Fl.DDR_POPULATION_CHANNEL_GIB 32)
        22 0 Fl.PCI_RP_CXL_ENABLE 1) 22 0 Fl.PCI_RP_CXL_SIZE_GIB 64) 22 0 Fl.PCI_RP_STATE_STATE 3 with
    coh := { State.reset.coh with
      homes := [(16, { Home.fresh with dir := [⟨farBase, true, 2⟩] })]
      resps := [⟨16, 1, farBase, .evicted (List.replicate 64 7), false⟩, ⟨16, 1, 0x40, .notPresent, true⟩] } }

/-- Eight channels, all of them good. -/
def goodDdr : DdrFound := ⟨0xFF, 0xFF, 32, 6400, 1, 1, true, true⟩

/-- Refutes O55: its clause on RETRAIN_DDR keeps every byte outside DDR. What is open on a DDR line ends first, so the late answer of
HD1 is delivered, and its home takes a holder's messages in their order (R347): the write-back ahead of it reaches far memory. -/
theorem not_serviceOperationsRun : ¬ Obligations.ServiceOperationsRun := by
  unfold Obligations.ServiceOperationsRun
  rintro ⟨-, -, -, -, -, -, -, -, hretrain, -⟩
  obtain ⟨t, ht, -, hfar, -⟩ := hretrain goodDdr farWriteBack (by decide) (by decide) (by decide) rfl (by decide) (by decide)
  have hdie : windowDead farWriteBack 24 = false := by decide
  have hrun : exec (.retrainDdr goodDdr) farWriteBack = .next (doRetrainDdr goodDdr farWriteBack) :=
    congrArg Host.Outcome.next (if_neg (by simp [hdie]))
  obtain rfl := Host.Outcome.next.inj (hrun.symm.trans ht)
  have hwritten : memRead (doRetrainDdr goodDdr farWriteBack).mem farBase = 7 := by decide
  rw [hfar farBase (by decide)] at hwritten
  exact absurd hwritten (by decide)

end Sys2Proof.Proofs
end

section
/-! What the operations on one agent, one token unit, one engine or the Heliostat leave alone, and what they show. -/

namespace Sys2Proof.Proofs

open Sys2Proof.Machine Sys2Proof.Safety Sys2Proof.Laws

theorem sameMem_trans {s t u : State} (h : SameMem s t) (h' : SameMem t u) : SameMem s u :=
  ⟨h'.1.trans h.1, h'.2.1.trans h.2.1, h'.2.2.trans h.2.2⟩

/-! ### Changes of launches only -/

/-- From one state to another at most the launches differ. -/
def LaunchesOnly (s t : State) : Prop := ∃ ls, t = { s with launches := ls }

namespace LaunchesOnly

theorem refl (s : State) : LaunchesOnly s s := ⟨s.launches, rfl⟩

theorem trans {s t u : State} (h : LaunchesOnly s t) (h' : LaunchesOnly t u) : LaunchesOnly s u := by
  obtain ⟨_, rfl⟩ := h
  obtain ⟨ls, rfl⟩ := h'
  exact ⟨ls, rfl⟩

/-- What does not look at launches is as before. -/
theorem get {α : Type} {s t : State} (h : LaunchesOnly s t) {f : State → α} (hf : ∀ ls, f { s with launches := ls } = f s) :
    f t = f s := by
  obtain ⟨ls, rfl⟩ := h
  exact hf ls

theorem engines {s t : State} (h : LaunchesOnly s t) : t.engines = s.engines := h.get fun _ => rfl

theorem tok {s t : State} (h : LaunchesOnly s t) : t.tok = s.tok := h.get fun _ => rfl

theorem regs {s t : State} (h : LaunchesOnly s t) : t.regs = s.regs := h.get fun _ => rfl

theorem sameMem {s t : State} (h : LaunchesOnly s t) : SameMem s t := ⟨h.get fun _ => rfl, h.get fun _ => rfl, h.get fun _ => rfl⟩

theorem fget {s t : State} (h : LaunchesOnly s t) (d i : Nat) (f : Fld) : fget t d i f = fget s d i f := by
  obtain ⟨_, rfl⟩ := h
  rfl

end LaunchesOnly

theorem modLaunch_launchesOnly (s : State) (c q : Nat) (f : Launch → Launch) : LaunchesOnly s (modLaunch s c q f) := ⟨_, rfl⟩

theorem launchErr_launchesOnly (s : State) (c q st : Nat) (v : BitVec 64) : LaunchesOnly s (launchErr s c q st v) :=
  modLaunch_launchesOnly ..

theorem modAgent_launchesOnly (s : State) (a : Agent) (f : Slot → Slot) (g : Stream → Stream) : LaunchesOnly s (modAgent s a f g) := by
  unfold modAgent
  split <;> split
  · exact modLaunch_launchesOnly ..
  · exact .refl s
  · exact modLaunch_launchesOnly ..
  · exact .refl s

theorem advanceAgent_launchesOnly (s : State) (a : Agent) : LaunchesOnly s (advanceAgent s a) := modAgent_launchesOnly ..

theorem holdAgent_launchesOnly (s : State) (a : Agent) (k : Hold) : LaunchesOnly s (holdAgent s a k) := modAgent_launchesOnly ..

theorem acquireWait_launchesOnly (s : State) (a : Agent) (v : Nat) : LaunchesOnly s (acquireWait s a v) := by
  unfold acquireWait
  split
  · exact modLaunch_launchesOnly ..
  · exact .refl s

theorem passWait_launchesOnly (s : State) (a : Agent) (v : Nat) : LaunchesOnly s (passWait s a v) :=
  (acquireWait_launchesOnly s a v).trans (modAgent_launchesOnly ..)

/-! ### Changes of registers and power only -/

/-- From one state to another at most registers and the Heliostat's own state differ. -/
def RegsPower (s t : State) : Prop := ∃ rs p, t = { s with regs := rs, power := p }

namespace RegsPower

theorem refl (s : State) : RegsPower s s := ⟨s.regs, s.power, rfl⟩

theorem trans {s t u : State} (h : RegsPower s t) (h' : RegsPower t u) : RegsPower s u := by
  obtain ⟨_, _, rfl⟩ := h
  obtain ⟨rs, p, rfl⟩ := h'
  exact ⟨rs, p, rfl⟩

theorem fput {s t : State} (h : RegsPower s t) (d i : Nat) (f : Fld) (v : Nat) : RegsPower s (fput t d i f v) :=
  h.trans ⟨_, t.power, rfl⟩

theorem get {α : Type} {s t : State} (h : RegsPower s t) {f : State → α} (hf : ∀ rs p, f { s with regs := rs, power := p } = f s) :
    f t = f s := by
  obtain ⟨rs, p, rfl⟩ := h
  exact hf rs p

theorem engines {s t : State} (h : RegsPower s t) : t.engines = s.engines := h.get fun _ _ => rfl

theorem launches {s t : State} (h : RegsPower s t) : t.launches = s.launches := h.get fun _ _ => rfl

theorem tok {s t : State} (h : RegsPower s t) : t.tok = s.tok := h.get fun _ _ => rfl

theorem sameMem {s t : State} (h : RegsPower s t) : SameMem s t :=
  ⟨h.get fun _ _ => rfl, h.get fun _ _ => rfl, h.get fun _ _ => rfl⟩


end RegsPower

/-! ### Launches by name -/

theorem findLaunch_congr {s t : State} (h : t.launches = s.launches) (c q : Nat) : findLaunch t c q = findLaunch s c q := by
  simp only [findLaunch, h]

theorem findLaunch_name {s : State} {c q : Nat} {l : Launch} (h : findLaunch s c q = some l) : l.ctx = c ∧ l.seq = q := by
  simpa using List.find?_some h

/-- A launch that runs on an engine is found under its name. -/
theorem findLaunch_of_slotOf {s : State} {d e i : Nat} {l : Launch} {x : Slot} (h : slotOf s d e = some (l, i, x)) :
    findLaunch s l.ctx l.seq = some l := by
  obtain ⟨c, q, -, hl, -⟩ := slotOf_eq_some_iff.1 h
  obtain ⟨rfl, rfl⟩ := findLaunch_name hl
  exact hl

/-- A change of an agent's slot or stream reports no error. -/
theorem findLaunch_errs_modAgent (s : State) (a : Agent) (f : Slot → Slot) (g : Stream → Stream) (c q : Nat) :
    (findLaunch (modAgent s a f g) c q).map (·.errs) = (findLaunch s c q).map (·.errs) := by
  have hmod (c' q' : Nat) (k : Launch → Launch) (hk : ∀ l, ((k l).ctx = l.ctx ∧ (k l).seq = l.seq) ∧ (k l).errs = l.errs) :
      (findLaunch (modLaunch s c' q' k) c q).map (·.errs) = (findLaunch s c q).map (·.errs) := by
    rw [findLaunch_modLaunch _ _ _ _ _ fun l => (hk l).1, Option.map_map]
    refine congrArg (Option.map · _) (funext fun l => ?_)
    simp only [Function.comp_apply]
    split
    · exact (hk l).2
    · rfl
  unfold modAgent
  split <;> split
  · exact hmod _ _ _ fun _ => ⟨⟨rfl, rfl⟩, rfl⟩
  · rfl
  · exact hmod _ _ _ fun _ => ⟨⟨rfl, rfl⟩, rfl⟩
  · rfl

theorem findLaunch_errs_launchErr (s : State) (c q st : Nat) (v : BitVec 64) :
    (findLaunch (launchErr s c q st v) c q).map (·.errs) = (findLaunch s c q).map fun l => l.errs ++ [(st, v)] := by
  rw [launchErr, findLaunch_modLaunch]
  · cases h : findLaunch s c q with
    | none => rfl
    | some l => simp [findLaunch_name h]
  · exact fun _ => ⟨rfl, rfl⟩

theorem findLaunch_errs_reported {s : State} {c q : Nat} {es : List (Nat × BitVec 64)}
    (h : (findLaunch s c q).map (·.errs) = some es) (st : Nat) (v : BitVec 64) :
    (findLaunch (launchErr s c q st v) c q).map (·.errs) = some (es ++ [(st, v)]) := by
  obtain ⟨l, hl, rfl⟩ := Option.map_eq_some_iff.1 h
  rw [findLaunch_errs_launchErr, hl, Option.map_some]

/-! ### The slot of an engine -/

theorem getEng_congr {s t : State} (h : t.engines = s.engines) (d e : Nat) : getEng t d e = getEng s d e := by
  simp only [getEng, h]

theorem slotOf_congr {s t : State} (he : t.engines = s.engines) (hl : t.launches = s.launches) (d e : Nat) :
    slotOf t d e = slotOf s d e := by
  simp only [slotOf, getEng, findLaunch, he, hl]

theorem RegsPower.slotOf {s t : State} (h : RegsPower s t) (d e : Nat) : slotOf t d e = slotOf s d e :=
  slotOf_congr h.engines h.launches d e

@[simp] theorem getEng_modEng (s : State) (d e : Nat) (f : Engine → Engine) : getEng (modEng s d e f) d e = f (getEng s d e) :=
  getEng_putEng s d e _

/-- An engine's state beside its placement is no part of its slot. -/
theorem slotOf_modEng {s : State} {d e : Nat} {f : Engine → Engine} (hf : (f (getEng s d e)).placed = (getEng s d e).placed) :
    slotOf (modEng s d e f) d e = slotOf s d e := by
  simp only [slotOf, getEng_modEng, hf]
  rfl

theorem slotOf_modAgent {s : State} {d e i : Nat} {l : Launch} {x : Slot} (h : slotOf s d e = some (l, i, x)) (f : Slot → Slot)
    (g : Stream → Stream) : ∃ m, slotOf (modAgent s (.engine d e) f g) d e = some (m, i, f x) := by
  obtain ⟨-, -, -, -, hx⟩ := slotOf_eq_some_iff.1 h
  simp only [modAgent, h]
  exact ⟨_, slotOf_modLaunch h _ _ (fun _ => ⟨rfl, rfl⟩) (by simp [hx])⟩

/-- What a slot shows of itself after a change of it. -/
theorem slot_modAgent {s : State} {d e i : Nat} {l : Launch} {x : Slot} (h : slotOf s d e = some (l, i, x)) (f : Slot → Slot)
    (g : Stream → Stream) : (slotOf (modAgent s (.engine d e) f g) d e).map (fun p => p.2.2) = some (f x) := by
  obtain ⟨m, hm⟩ := slotOf_modAgent h f g
  rw [hm]
  rfl

/-- What a launch acquires changes neither its name nor its slots. -/
theorem acquireFrom_frame (l : Launch) (a : Agent) (scope : Nat) (rs : List Release) :
    (acquireFrom l a scope rs).ctx = l.ctx ∧ (acquireFrom l a scope rs).seq = l.seq ∧ (acquireFrom l a scope rs).slots = l.slots :=
  List.foldlRecOn (motive := fun m : Launch => m.ctx = l.ctx ∧ m.seq = l.seq ∧ m.slots = l.slots) rs (acquireOne a scope)
    ⟨rfl, rfl, rfl⟩ fun _ hm _ _ => hm

theorem slotOf_acquireWait {s : State} {d e i : Nat} {l : Launch} {x : Slot} (h : slotOf s d e = some (l, i, x)) (a : Agent) (v : Nat) :
    ∃ m, slotOf (acquireWait s a v) d e = some (m, i, x) := by
  obtain ⟨-, -, -, -, hx⟩ := slotOf_eq_some_iff.1 h
  unfold acquireWait
  split
  · refine ⟨_, slotOf_modLaunch h _ _ (fun m => ?_) ?_⟩
    · exact ⟨(acquireFrom_frame m ..).1, (acquireFrom_frame m ..).2.1⟩
    · split
      · rw [(acquireFrom_frame l ..).2.2]
        exact hx
      · exact hx
  · exact ⟨_, h⟩

theorem slot_passWait {s : State} {d e i : Nat} {l : Launch} {x : Slot} (h : slotOf s d e = some (l, i, x)) (v : Nat) :
    (slotOf (passWait s (.engine d e) v) d e).map (fun p => p.2.2) = some x.advance := by
  obtain ⟨_, hm⟩ := slotOf_acquireWait h (.engine d e) v
  exact slot_modAgent hm Slot.advance Stream.advance

/-- Beside one engine, every engine is as before. -/
theorem EnginesBut.modEng {s t : State} {d e : Nat} (h : EnginesBut s t d e) (f : Engine → Engine) :
    EnginesBut s (modEng t d e f) d e :=
  (filter_smPut t.engines _ _ (fun k => k != engKey d e) (by simp)).trans h

theorem EnginesBut.of_engines {s t : State} (h : t.engines = s.engines) (d e : Nat) : EnginesBut s t d e :=
  congrArg (List.filter fun p : Nat × Engine => p.1 != engKey d e) h

/-! ### A control word that is ready -/

theorem ctlWord_ready {s : State} {a : Agent} {f : Launch → Nat → Op → List Int → Option State} {l : Launch} {i : Nat} {o : Op}
    {cs : List Int} (h : readyOp s a = some (l, i, o, cs)) : ctlWord s a f = (f l i o cs).getD s := by
  simp only [ctlWord, h]

/-! ### Token units -/

@[simp] theorem getTok_putTok (s : State) (md : Nat) (u : TokUnit) : getTok (putTok s md u) md = u := by
  simp only [getTok, putTok, fput_tok, smGetD_smPut, if_true]

theorem getTok_congr {s t : State} (h : t.tok = s.tok) (md : Nat) : getTok t md = getTok s md := by
  simp only [getTok, h]

theorem fsat_regsPower (s : State) (d i : Nat) (f : Fld) (n : Nat) : RegsPower s (fsat s d i f n) := (RegsPower.refl s).fput ..

theorem putTok_engines (s : State) (md : Nat) (u : TokUnit) : (putTok s md u).engines = s.engines := fput_engines ..

theorem putTok_launches (s : State) (md : Nat) (u : TokUnit) : (putTok s md u).launches = s.launches := fput_launches ..

theorem putTok_sameMem (s : State) (md : Nat) (u : TokUnit) : SameMem s (putTok s md u) := ⟨rfl, rfl, rfl⟩

/-- Two registers of a token unit at different offsets. -/
theorem regKey_tok_ne {r q : Reg} (md : Nat) (hr : r.info.blk = .tokB) (hq : q.info.blk = .tokB) (h : r.info.off ≠ q.info.off) :
    regKey md r 0 ≠ regKey md q 0 := by
  rw [regKey_eq_slot _ _ _ (by simp [hr]), regKey_eq_slot _ _ _ (by simp [hq]), hr, hq]
  simpa [slotOff] using h

/-- The limit of a WAIT is no register that a count of a token unit changes. -/
theorem waitLimit_fput (s : State) (md : Nat) {f : Fld} (v : Nat) (hb : f.reg.info.blk = .tokB) (ho : f.reg.info.off ≠ 0x10) :
    fget (fput s md 0 f v) md 0 Fl.TOK_WAIT_LIMIT_LIMIT_MS = fget s md 0 Fl.TOK_WAIT_LIMIT_LIMIT_MS :=
  fget_fput_ne _ _ _ _ _ _ _ _ (regKey_tok_ne md rfl hb (Ne.symm ho))

theorem waitLimit_putTok (s : State) (md : Nat) (u : TokUnit) :
    fget (putTok s md u) md 0 Fl.TOK_WAIT_LIMIT_LIMIT_MS = fget s md 0 Fl.TOK_WAIT_LIMIT_LIMIT_MS :=
  waitLimit_fput { s with tok := smPut s.tok md u } md _ rfl (by decide)

theorem tokError_regsPower (s : State) (md ctx tok src : Nat) (finder timeout : Bool) :
    RegsPower s (tokError s md ctx tok src finder timeout) :=
  (((((((RegsPower.refl s).fput ..).fput ..).fput ..).fput ..).fput ..).fput ..).fput ..

theorem fget_tokError_timeout (s : State) (md ctx tok src : Nat) (finder : Bool) :
    fget (tokError s md ctx tok src finder true) md 0 Fl.TOK_ERR_STATUS_WAIT_TIMEOUT = 1 := by
  have hne {t : State} {f : Fld} (v : Nat) (hb : f.reg.info.blk = .tokB) (ho : f.reg.info.off ≠ 0x30) :
      fget (fput t md 0 f v) md 0 Fl.TOK_ERR_STATUS_WAIT_TIMEOUT = fget t md 0 Fl.TOK_ERR_STATUS_WAIT_TIMEOUT :=
    fget_fput_ne _ _ _ _ _ _ _ _ (regKey_tok_ne md rfl hb (Ne.symm ho))
  simp only [tokError, if_true, fsat]
  rw [hne _ rfl (by decide), hne _ rfl (by decide), hne _ rfl (by decide), hne _ rfl (by decide), hne _ rfl (by decide),
    hne _ rfl (by decide), fget_fput _ _ _ _ _ (by decide) (by decide)]
  decide

/-- Releasing WAITs changes the pending ones of the unit, its count of them, and launches. -/
theorem wakeWaits_launchesOnly (s : State) (md ctx seq tok value : Nat) :
    ∃ ws, LaunchesOnly (putTok s md { getTok s md with waits := ws }) (wakeWaits s md ctx seq tok value) :=
  ⟨_, List.foldlRecOn (motive := LaunchesOnly _) _ _ (.refl _) fun _ ht _ _ => ht.trans (passWait_launchesOnly ..)⟩

end Sys2Proof.Proofs
end

section
/-! SIGNAL, WAIT and the phases of an engine (R114, R138 to R147). -/

namespace Sys2Proof.Proofs

open Sys2Proof.Machine Sys2Proof.Safety Sys2Proof.Laws

/-! ### SIGNAL of a token whose counter is local -/

section
variable {s : State} {l : Launch} {tok sc n src md phys : Nat} {fi : Bool} {a : Agent} {tk : Token} {k : Counter}
  (ht : l.tokens[tok]? = some tk) (hr : tk.remote = none) (hu : tk.unit = some (md, phys))
  (hk : smGet (getTok s md).counters phys = some k)
include ht hr hu hk

/-- A SIGNAL that would overflow its counter is an error of the unit and of the launch (R141). -/
theorem signalToken_overflow (ho : 2 ^ 32 ≤ k.value + n) :
    signalToken s l tok sc n src fi a =
      launchErr (tokError s md l.ctx tok src fi false) l.ctx l.seq 0x0121 (tokenDetail tok src fi) := by
  simp only [signalToken, ht, hr, hu, hk, if_pos ho]

/-- A SIGNAL adds its amount, and releases what waits for the sum (R138, R139). -/
theorem signalToken_adds (ho : k.value + n < 2 ^ 32) :
    smGet (getTok (signalToken s l tok sc n src fi a) md).counters phys = some { k with value := k.value + n } ∧
      (signalToken s l tok sc n src fi a).engines = s.engines ∧ SameMem s (signalToken s l tok sc n src fi a) := by
  simp only [signalToken, ht, hr, hu, hk, if_neg (Nat.not_le.2 ho)]
  set u := fsat (putTok (noteRelease s l.ctx l.seq a tok sc k.value) md
    { getTok s md with counters := smPut (getTok s md).counters phys { k with value := k.value + n } }) md 0 Fl.TOK_SIGNALS_COUNT 1
  have hu' : getTok u md = { getTok s md with counters := smPut (getTok s md).counters phys { k with value := k.value + n } } :=
    getTok_putTok _ _ _
  obtain ⟨ws, hw⟩ := wakeWaits_launchesOnly u md l.ctx l.seq tok (k.value + n)
  refine ⟨?_, hw.engines, hw.sameMem⟩
  rw [getTok_congr hw.tok, getTok_putTok, hu', smGet_smPut, if_pos rfl]

end

/-- Outside a region a SIGNAL of a slot passes and is applied at once (R114, R138). -/
theorem exec_signal {s : State} {d e i tok sc n : Nat} {l : Launch} {cs : List Int}
    (hready : readyOp s (.engine d e) = some (l, i, .signal tok sc n, cs)) (hg : (getEng s d e).region = none) :
    exec (.signal (.engine d e)) s =
      .next (signalToken (advanceAgent s (.engine d e)) l tok sc n i false (.engine d e)) := by
  refine congrArg Host.Outcome.next ?_
  rw [doSignal, ctlWord_ready hready]
  simp only [hg, Option.getD_some]

/-! ### WAIT -/

/-- What the counter of a WAIT's token stands at; 0 where it has none. -/
def countFor (u : TokUnit) (w : PendWait) : Nat :=
  ((u.counters.find? fun c => c.2.ctx == w.ctx && c.2.seq == w.seq && c.2.token == w.token).map (·.2.value)).getD 0

/-- A WAIT that joins the pending ones of a unit, under the limit that stands there. -/
def joinWaits (s : State) (md : Nat) (w : PendWait) : TokUnit :=
  { getTok s md with waits := (getTok s md).waits ++ [{ w with limit := fget s md 0 Fl.TOK_WAIT_LIMIT_LIMIT_MS }] }

theorem arriveWait_passes {s : State} {md : Nat} {w : PendWait} (h : w.value ≤ countFor (getTok s md) w) :
    arriveWait s md w = passWait s w.agent w.value := if_pos h

/-- A WAIT that is not satisfied joins the pending ones of a unit that has room, and holds its agent. -/
theorem arriveWait_pends {s : State} {md : Nat} {w : PendWait} (h : countFor (getTok s md) w < w.value)
    (hroom : (getTok s md).waits.length < 1024) :
    (∀ d e, w.agent = .engine d e → ∀ l i x, slotOf s d e = some (l, i, x) →
      (slotOf (arriveWait s md w) d e).map (fun p => p.2.2) = some { x with hold := .wait w.token w.value }) ∧
    getTok (arriveWait s md w) md = joinWaits s md w ∧ (arriveWait s md w).engines = s.engines ∧ SameMem s (arriveWait s md w) := by
  set u := fhigh (putTok s md (joinWaits s md w)) md 0 Fl.TOK_PENDING_HIGH_WATER ((getTok s md).waits.length + 1)
  have hu : RegsPower (putTok s md (joinWaits s md w)) u := (RegsPower.refl _).fput ..
  have hrun : arriveWait s md w = holdAgent u w.agent (.wait w.token w.value) := (if_neg (Nat.not_le.2 h)).trans (if_pos hroom)
  have hl := holdAgent_launchesOnly u w.agent (.wait w.token w.value)
  rw [hrun]
  refine ⟨fun d e ha l i x hs => ?_, ?_, hl.engines.trans (hu.engines.trans (putTok_engines ..)),
    sameMem_trans (putTok_sameMem ..) (sameMem_trans hu.sameMem hl.sameMem)⟩
  · rw [ha]
    exact slot_modAgent ((hu.slotOf d e).trans ((slotOf_congr (putTok_engines ..) (putTok_launches ..) d e).trans hs)) _ _
  · rw [getTok_congr (hl.tok.trans hu.tok), getTok_putTok]

/-- The limit under which a WAIT pends is that of its unit, whatever the unit counts meanwhile. -/
theorem joinWaits_fsat_waits (s : State) (md : Nat) (w : PendWait) :
    joinWaits (fsat s md 0 Fl.TOK_WAITS_COUNT 1) md w = joinWaits s md w := by
  simp only [joinWaits, fsat, waitLimit_fput s md _ (f := Fl.TOK_WAITS_COUNT) rfl (by decide)]
  rfl

theorem joinWaits_putTok (s : State) (md : Nat) (u : TokUnit) (w : PendWait) :
    joinWaits (putTok s md u) md w =
      { u with waits := u.waits ++ [{ w with limit := fget s md 0 Fl.TOK_WAIT_LIMIT_LIMIT_MS }] } := by
  simp only [joinWaits, getTok_putTok, waitLimit_putTok]

/-- A WAIT of a slot on a local counter arrives at its unit (R139). -/
theorem exec_wait {s : State} {d e i tok sc v md phys : Nat} {l : Launch} {cs : List Int} {tk : Token}
    (hready : readyOp s (.engine d e) = some (l, i, .wait tok sc none v, cs)) (ht : l.tokens[tok]? = some tk)
    (hr : tk.remote = none) (hu : tk.unit = some (md, phys)) :
    exec (.wait (.engine d e)) s =
      .next (arriveWait (fsat s md 0 Fl.TOK_WAITS_COUNT 1) md ⟨l.ctx, l.seq, tok, v, .engine d e, 0⟩) := by
  have hrun : doWait (.engine d e) s = waitToken s l tok v (.engine d e) := by
    rw [doWait, ctlWord_ready hready]
    simp
  refine congrArg Host.Outcome.next (hrun.trans ?_)
  simp only [waitToken, ht, hr, hu]

theorem countFor_of_find {u : TokUnit} {c q tok v n : Nat} {a : Agent} {k : Nat × Counter}
    (h : u.counters.find? (fun x => x.2.ctx == c && x.2.seq == q && x.2.token == tok) = some k) :
    countFor u ⟨c, q, tok, v, a, n⟩ = k.2.value := by
  simp only [countFor, h, Option.map_some, Option.getD_some]

/-- A unit whose counters are all below a WAIT's value does not satisfy it. -/
theorem countFor_lt {u : TokUnit} {w : PendWait} (h : ∀ k ∈ u.counters, k.2.value < w.value) (hw : 0 < w.value) :
    countFor u w < w.value := by
  unfold countFor
  cases hf : u.counters.find? fun c => c.2.ctx == w.ctx && c.2.seq == w.seq && c.2.token == w.token with
  | none => exact hw
  | some k => exact h k (List.mem_of_find?_eq_some hf)

/-! ### Choosing a partition's voltage again -/

theorem setPair_regsPower (s : State) (d p : Nat) : RegsPower s (setPair s d p) := by
  unfold setPair
  dsimp only
  split
  · exact .refl s
  · exact ((((RegsPower.refl s).fput ..).fput ..).fput ..).fput ..

theorem rechooseFor_regsPower (s : State) (d : Nat) : RegsPower s (rechooseFor s d) := by
  unfold rechooseFor
  split
  · unfold rechoose
    split
    · exact .refl s
    · refine List.foldlRecOn (motive := RegsPower s) _ _ ⟨_, _, rfl⟩ fun t ht k _ => ?_
      exact List.foldlRecOn (motive := RegsPower s) _ _ ht fun u hu p _ => hu.trans (setPair_regsPower u k p)
  · exact .refl s

theorem endPhase_regsPower (s : State) (d e : Nat) (m : PhaseMeas) : RegsPower s (endPhase s d e m) := by
  unfold endPhase
  split
  · unfold learnPhase
    split
    · exact .refl s
    · exact RegsPower.fput ⟨_, _, rfl⟩ _ _ _ _
  · exact .refl s

/-- An engine whose phase begins: its announcement of that phase is over (R146). -/
def beginPhase (p : Nat) (y : Engine) : Engine :=
  { y with phase := some p, announced := if y.announced = some p then none else y.announced }

theorem beginPhase_announced_ne (p : Nat) (y : Engine) : (beginPhase p y).announced ≠ some p := by
  simp only [beginPhase]
  split
  · simp
  · assumption

/-- PHASE_BEGIN measures the phase before it, begins its own, and chooses the partition's voltage again (R146, R147, R421). -/
theorem doPhaseBegin_eq {s : State} {d e i p : Nat} {m : PhaseMeas} {l : Launch} {cs : List Int}
    (h : readyOp s (.engine d e) = some (l, i, .phaseBegin p, cs)) :
    ∃ t, RegsPower s t ∧ doPhaseBegin d e m s = advanceAgent (rechooseFor (modEng t d e (beginPhase p)) d) (.engine d e) := by
  refine ⟨if (learnedE75 (endPhase s d e m) l.ephId p).isNone then fsat (endPhase s d e m) 24 0 Fl.PWR_LEARN_MISSES 1
    else endPhase s d e m, ?_, ?_⟩
  · split
    · exact (endPhase_regsPower s d e m).fput ..
    · exact endPhase_regsPower s d e m
  · rw [doPhaseBegin, ctlWord_ready h]
    rfl

/-- A change of an engine beside its placement, and of power, after which its slot passes. -/
theorem advance_after_modEng {s t u : State} {d e i : Nat} {f : Engine → Engine} {l : Launch} {x : Slot} (hst : RegsPower s t)
    (htu : RegsPower (modEng t d e f) u) (hs : slotOf s d e = some (l, i, x))
    (hf : (f (getEng s d e)).placed = (getEng s d e).placed) :
    (slotOf (advanceAgent u (.engine d e)) d e).map (fun p => p.2.2) = some x.advance ∧
      getEng (advanceAgent u (.engine d e)) d e = f (getEng s d e) ∧ EnginesBut s (advanceAgent u (.engine d e)) d e ∧
      (advanceAgent u (.engine d e)).tok = s.tok ∧ SameMem s (advanceAgent u (.engine d e)) := by
  have hl := advanceAgent_launchesOnly u (.engine d e)
  have hengines := hl.engines.trans htu.engines
  have heng : getEng t d e = getEng s d e := getEng_congr hst.engines d e
  have hslot : slotOf u d e = some (l, i, x) := by
    rw [htu.slotOf, slotOf_modEng (by rw [heng]; exact hf), hst.slotOf, hs]
  refine ⟨slot_modAgent hslot _ _, ?_, ?_, hl.tok.trans (htu.tok.trans hst.tok),
    sameMem_trans (sameMem_trans hst.sameMem htu.sameMem) hl.sameMem⟩
  · rw [getEng_congr hengines, getEng_modEng, heng]
  · exact (EnginesBut.of_engines hengines d e).trans (EnginesBut.modEng (EnginesBut.of_engines hst.engines d e) f)

/-- Settles O7, a command at a time, each through what its operation says of the one agent, unit or engine that it names. -/
theorem tokensCountAndRelease : Obligations.TokensCountAndRelease := by
  unfold Obligations.TokensCountAndRelease
  refine ⟨?signal, ?overflow, ?deferred, ?passes, ?pends, ?takenIn, ?timeout, ?announce, ?lapse, ?begins⟩
  case signal =>
    intro d e i tok sc n md phys k tk l x s hs hp hh hf ho hg ht hr hu hk hv
    have hl := advanceAgent_launchesOnly s (.engine d e)
    obtain ⟨hcount, heng, hmem⟩ := signalToken_adds (s := advanceAgent s (.engine d e)) (sc := sc) (src := i) (fi := false)
      (a := .engine d e) ht hr hu (by rw [getTok_congr hl.tok]; exact hk) hv
    exact ⟨_, exec_signal (readyOp_engine hs hp hh hf ho) hg, hcount, heng.trans hl.engines, sameMem_trans hl.sameMem hmem⟩
  case overflow =>
    intro d e i tok sc n md phys k tk l x s hs hp hh hf ho hg ht hr hu hk hv
    have hl := advanceAgent_launchesOnly s (.engine d e)
    have hover := signalToken_overflow (s := advanceAgent s (.engine d e)) (sc := sc) (src := i) (fi := false) (a := .engine d e)
      ht hr hu (by rw [getTok_congr hl.tok]; exact hk) hv
    have hr := tokError_regsPower (advanceAgent s (.engine d e)) md l.ctx tok i false false
    have he := launchErr_launchesOnly (tokError (advanceAgent s (.engine d e)) md l.ctx tok i false false) l.ctx l.seq 0x0121
      (tokenDetail tok i false)
    refine ⟨_, (exec_signal (readyOp_engine hs hp hh hf ho) hg).trans (congrArg Host.Outcome.next hover),
      he.tok.trans (hr.tok.trans hl.tok), findLaunch_errs_reported ?_ _ _,
      sameMem_trans hl.sameMem (sameMem_trans hr.sameMem he.sameMem)⟩
    rw [findLaunch_congr hr.launches, advanceAgent, findLaunch_errs_modAgent, findLaunch_of_slotOf hs, Option.map_some]
  case deferred =>
    intro d e i tok sc n g l x s hs hp hh hf ho hg
    obtain ⟨hslot, heng, hbut, htok, hmem⟩ := advance_after_modEng (.refl s) (.refl _) hs
      (f := fun y => { y with region := some { g with deferred := g.deferred ++ [(tok, sc, n)] } }) rfl
    have hrun : exec (.signal (.engine d e)) s = .next (advanceAgent (modEng s d e fun y =>
        { y with region := some { g with deferred := g.deferred ++ [(tok, sc, n)] } }) (.engine d e)) := by
      refine congrArg Host.Outcome.next ?_
      rw [doSignal, ctlWord_ready (readyOp_engine hs hp hh hf ho)]
      simp only [hg, Option.getD_some]
    exact ⟨_, hrun, congrArg Engine.region heng, hslot, htok, (advanceAgent_launchesOnly _ _).regs, hmem, hbut⟩
  case passes =>
    intro d e i tok sc v md phys k tk l x s hs hp hh hf ho ht hr hu hk hv
    have hc := fsat_regsPower s md 0 Fl.TOK_WAITS_COUNT 1
    have hpass := arriveWait_passes (s := fsat s md 0 Fl.TOK_WAITS_COUNT 1) (md := md) (w := ⟨l.ctx, l.seq, tok, v, .engine d e, 0⟩)
      (by rw [getTok_congr hc.tok, countFor_of_find hk]; exact hv)
    have hl := passWait_launchesOnly (fsat s md 0 Fl.TOK_WAITS_COUNT 1) (.engine d e) v
    exact ⟨_, (exec_wait (readyOp_engine hs hp hh hf ho) ht hr hu).trans (congrArg Host.Outcome.next hpass),
      slot_passWait ((hc.slotOf d e).trans hs) v, hl.tok.trans hc.tok, hl.engines.trans hc.engines,
      sameMem_trans hc.sameMem hl.sameMem⟩
  case pends =>
    intro d e i tok sc v md phys k tk l x s hs hp hh hf ho ht hr hu hk hv hroom
    have hc := fsat_regsPower s md 0 Fl.TOK_WAITS_COUNT 1
    obtain ⟨hslot, hwaits, heng, hmem⟩ := arriveWait_pends (s := fsat s md 0 Fl.TOK_WAITS_COUNT 1) (md := md)
      (w := ⟨l.ctx, l.seq, tok, v, .engine d e, 0⟩) (by rw [getTok_congr hc.tok, countFor_of_find hk]; exact hv)
      (by rw [getTok_congr hc.tok]; exact hroom)
    rw [joinWaits_fsat_waits] at hwaits
    exact ⟨_, exec_wait (readyOp_engine hs hp hh hf ho) ht hr hu, hslot _ _ rfl _ _ _ ((hc.slotOf d e).trans hs),
      heng.trans hc.engines, sameMem_trans hc.sameMem hmem, hwaits⟩
  case takenIn =>
    intro md w r s hheld hroom hall hpos
    have hrun : doWaitHeldAdmit md s = arriveWait (putTok s md { getTok s md with held := r }) md w := by
      simp only [doWaitHeldAdmit, hheld, if_pos hroom]
    obtain ⟨-, hwaits, heng, hmem⟩ := arriveWait_pends (s := putTok s md { getTok s md with held := r }) (md := md) (w := w)
      (by rw [getTok_putTok]; exact countFor_lt hall hpos) (by rw [getTok_putTok]; exact hroom)
    rw [joinWaits_putTok] at hwaits
    exact ⟨_, congrArg Host.Outcome.next hrun, hwaits, heng.trans (putTok_engines ..), sameMem_trans (putTok_sameMem ..) hmem⟩
  case timeout =>
    intro md i a w st hd l s hw hlim ha hl
    set u := putTok s md { getTok s md with waits := (getTok s md).waits.erase w }
    set v := tokError u md w.ctx w.token i st true
    have hrun : doWaitTimeout md a s =
        launchErr (holdAgent v a .stopped) l.ctx l.seq 0x0122 (tokenDetail w.token i st) := by
      simp only [doWaitTimeout, hw, if_neg hlim, ha]
      rfl
    have hv : RegsPower u v := tokError_regsPower u md w.ctx w.token i st true
    have hh := (holdAgent_launchesOnly v a .stopped).trans (launchErr_launchesOnly _ l.ctx l.seq 0x0122 (tokenDetail w.token i st))
    refine ⟨_, congrArg Host.Outcome.next hrun, ?_, ?_, ?_, sameMem_trans (putTok_sameMem s md _) (sameMem_trans hv.sameMem hh.sameMem)⟩
    · exact congrArg TokUnit.waits ((getTok_congr (hh.tok.trans hv.tok) md).trans (getTok_putTok s md _))
    · rw [hh.fget]
      exact fget_tokError_timeout u md w.ctx w.token i st
    · refine findLaunch_errs_reported ?_ _ _
      rw [holdAgent, findLaunch_errs_modAgent, findLaunch_congr hv.launches, findLaunch_congr (putTok_launches ..), hl, Option.map_some]
  case announce =>
    intro d e i p l x s hs hp hh hf ho
    have hrun : doPhaseAnnounce d e s =
        advanceAgent (rechooseFor (modEng s d e fun y => { y with announced := some p }) d) (.engine d e) := by
      rw [doPhaseAnnounce, ctlWord_ready (readyOp_engine hs hp hh hf ho), Option.getD_some]
    exact ⟨_, congrArg Host.Outcome.next hrun, advance_after_modEng (.refl s) (rechooseFor_regsPower _ d) hs rfl⟩
  case lapse =>
    intro d e p s hp
    have hrun : doPhaseAnnounceLapse d e s = rechooseFor (modEng s d e fun y => { y with announced := none }) d := by
      simp only [doPhaseAnnounceLapse, hp]
    have hr := rechooseFor_regsPower (modEng s d e fun y => { y with announced := none }) d
    refine ⟨_, congrArg Host.Outcome.next hrun, ?_, ?_, hr.launches, hr.sameMem⟩
    · rw [getEng_congr hr.engines, getEng_modEng]
    · exact (EnginesBut.of_engines hr.engines d e).trans (EnginesBut.modEng rfl _)
  case begins =>
    intro d e i p m l x s hs hp hh hf ho
    obtain ⟨t, ht, hrun⟩ := doPhaseBegin_eq (m := m) (readyOp_engine hs hp hh hf ho)
    obtain ⟨hslot, heng, hbut, htok, hmem⟩ := advance_after_modEng ht (rechooseFor_regsPower _ d) hs (f := beginPhase p) rfl
    refine ⟨_, congrArg Host.Outcome.next hrun, hslot, ?_, ?_, hbut, htok, hmem⟩
    · rw [heng]
      rfl
    · rw [heng]
      exact beginPhase_announced_ne p _

end Sys2Proof.Proofs
end

section
/-! A commit by an engine that a matrix die does not have (R27, R36, R115). -/

namespace Sys2Proof.Proofs

open Sys2Proof.Machine Sys2Proof.Safety Sys2Proof.Laws

/-- Launch 1 of context 5, whose slot is committing, and whose token 0 is counter 9 of MD0. -/
def committingLaunch : Launch :=
  { placedLaunch [.end_] [] with
    slots := [{ placedSlot [.end_] with hold := .committing }]
    tokens := [⟨0, 0, none, some (0, 9)⟩] }

/-- A region whose commit buffer holds the byte 7 for address 0, and which has deferred a SIGNAL of token 0. -/
def deferringRegion : Region := ⟨0, 0, 0, 0, 0, [(0, [7])], [(0, 0, 1)], false, none, none, none, [], [], 0, 0, 0⟩

/-- The slot runs on engine 39 of MD0. MD0 has counted 255 SIGNALs since that register was last read. -/
def committingState : State :=
  { fput State.reset 0 0 Fl.TOK_SIGNALS_COUNT 255 with
    launches := [committingLaunch]
    tok := [(0, ⟨[(9, ⟨5, 1, 0, 0⟩)], [], []⟩)]
    engines := [(engKey 0 39, { Engine.fresh with placed := some (5, 1, 0), region := some deferringRegion })] }

/-- The byte is written to bank 0, to which the engine is bound. The SIGNAL is the 256th, and where engine 39 would have ENG_BINDING lies
TOK_SIGNALS (R27): after it the engine reads bank 1. -/
theorem committingState_commits :
    boundBank committingState 0 39 = 0 ∧ boundBank (doCommitComplete 0 39 committingState) 0 39 = 1 ∧
      elRead (doCommitComplete 0 39 committingState) 0 39 0 1 = [0] := by
  decide

/-- Refutes O11: its clauses have no hypothesis that the engine exists, which only `Instr.wf` demands. COMMIT_COMPLETE of engine 39 of a
matrix die writes the commit buffer, and then applies a deferred SIGNAL; the count of the die's SIGNALs is at the place of that engine's
binding, so the engine is bound to another bank after it, in which the committed byte does not stand. -/
theorem not_drainsAndTheCommitBuffer : ¬ Obligations.DrainsAndTheCommitBuffer := by
  unfold Obligations.DrainsAndTheCommitBuffer
  rintro ⟨-, -, -, -, -, -, -, -, -, -, -, hcommitted, -⟩
  obtain ⟨t, ht, hread⟩ := hcommitted 0 39 0 0 [7] deferringRegion committingLaunch _ committingState rfl rfl rfl rfl (by decide)
    (by decide) (by decide) rfl rfl rfl
  obtain rfl := Host.Outcome.next.inj ht
  obtain ⟨-, -, hother⟩ := committingState_commits
  exact absurd (hread.symm.trans hother) (by decide)

end Sys2Proof.Proofs
end

section
/-! The stream that runs in a stream context, and the control words of slots and Finder streams (R154, R176, R179, R190). -/

namespace Sys2Proof.Proofs

open Sys2Proof.Machine Sys2Proof.Safety Sys2Proof.Laws

/-! ### The stream of a stream context -/

/-- The stream of a launch that runs in a stream context, as `streamOf` looks for it. -/
def streamInLaunch (a : Nat × Nat × Nat) (l : Launch) : Option (Launch × Nat × Machine.Stream) :=
  (List.range l.streams.length).findSome? fun i => (l.streams[i]?).bind fun y => if y.at_ = some a then some (l, i, y) else none

theorem streamOf_eq_findSome? (s : State) (h f c : Nat) : streamOf s h f c = s.launches.findSome? (streamInLaunch (h, f, c)) := rfl

theorem streamInLaunch_eq_some {a : Nat × Nat × Nat} {l m : Launch} {i : Nat} {y : Machine.Stream}
    (h : streamInLaunch a l = some (m, i, y)) : m = l := by
  obtain ⟨j, -, hj⟩ := List.exists_of_findSome?_eq_some h
  obtain ⟨z, -, hz⟩ := Option.bind_eq_some_iff.1 hj
  split at hz
  · exact (congrArg Prod.fst (Option.some.inj hz)).symm
  · cases hz

/-- A launch after a change of one of its streams. -/
def changeStream (i : Nat) (g : Machine.Stream → Machine.Stream) (l : Launch) : Launch :=
  { l with streams := l.streams.zipIdx.map fun p => if p.2 = i then g p.1 else p.1 }

theorem streamInLaunch_changeStream (a : Nat × Nat × Nat) (l : Launch) (i : Nat) {g : Machine.Stream → Machine.Stream}
    (hg : ∀ y, (g y).at_ = y.at_) :
    streamInLaunch a (changeStream i g l) =
      (streamInLaunch a l).map fun p => (changeStream i g l, p.2.1, if p.2.1 = i then g p.2.2 else p.2.2) := by
  have hlen : (changeStream i g l).streams.length = l.streams.length := by simp [changeStream]
  rw [streamInLaunch, hlen, streamInLaunch, List.map_findSome?]
  refine congrArg (List.findSome? · _) (funext fun j => ?_)
  have hj : (changeStream i g l).streams[j]? = (l.streams[j]?).map fun y => if j = i then g y else y := by
    simp [changeStream, List.getElem?_zipIdx, Option.map_map, Function.comp_def]
  cases hy : l.streams[j]? with
  | none => simp [hj, hy]
  | some y =>
    have hat : (if j = i then g y else y).at_ = y.at_ := by split <;> simp [hg]
    by_cases ha : y.at_ = some a <;> simp [hj, hy, hat, ha]

/-- A change of a stream that keeps its place, as the stream context that runs it shows it. -/
theorem streamOf_modStream {s : State} {h f c i : Nat} {l : Launch} {y : Machine.Stream} (hs : streamOf s h f c = some (l, i, y))
    {g : Machine.Stream → Machine.Stream} (hg : ∀ y, (g y).at_ = y.at_) :
    streamOf (modStream s l.ctx l.seq i g) h f c = some (changeStream i g l, i, g y) := by
  have hmod : (streamInLaunch (h, f, c) ∘ fun o => if o.ctx = l.ctx ∧ o.seq = l.seq then changeStream i g o else o) =
      Option.map (fun p => if p.1.ctx = l.ctx ∧ p.1.seq = l.seq
        then (changeStream i g p.1, p.2.1, if p.2.1 = i then g p.2.2 else p.2.2) else p) ∘ streamInLaunch (h, f, c) := by
    funext o
    by_cases ho : o.ctx = l.ctx ∧ o.seq = l.seq
    · simp only [Function.comp_apply, if_pos ho, streamInLaunch_changeStream _ _ _ hg]
      refine Option.map_congr fun p hp => ?_
      rw [streamInLaunch_eq_some hp, if_pos ho]
    · simp only [Function.comp_apply, if_neg ho]
      refine (congrFun Option.map_id _).symm.trans (Option.map_congr fun p hp => ?_)
      rw [streamInLaunch_eq_some hp, if_neg ho]
      rfl
  rw [streamOf_eq_findSome?] at hs ⊢
  change (s.launches.map _).findSome? _ = _
  rw [List.findSome?_map]
  change s.launches.findSome? (streamInLaunch (h, f, c) ∘
    fun o => if o.ctx = l.ctx ∧ o.seq = l.seq then changeStream i g o else o) = _
  rw [hmod, ← List.map_findSome?, hs]
  simp

theorem streamOf_modAgent {s : State} {h f c i : Nat} {l : Launch} {y : Machine.Stream} (hs : streamOf s h f c = some (l, i, y))
    (k : Slot → Slot) {g : Machine.Stream → Machine.Stream} (hg : ∀ y, (g y).at_ = y.at_) :
    streamOf (modAgent s (.stream h f c) k g) h f c = some (changeStream i g l, i, g y) := by
  simp only [modAgent, hs]
  exact streamOf_modStream hs hg

/-! ### A control word that is ready -/

/-- A stream with nothing issued or to reissue executes its control words (R215, R222). -/
theorem readyOp_stream {s : State} {h f c i : Nat} {l : Launch} {y : Machine.Stream} {o : Op}
    (hs : streamOf s h f c = some (l, i, y)) (hp : l.phase = .running) (hh : y.hold = .run) (hf : y.finished = false)
    (hr : y.reissue = []) (hw : y.window = []) (ho : y.words[y.pos]? = some (.ctl o)) :
    readyOp s (.stream h f c) = some (l, i, o, y.cursors) := by
  simp [readyOp, hs, hp, hh, hf, hr, hw, ho, Stream.blocked]

/-- NOP has no effect but to be passed (R176). -/
theorem doNop_ready {s : State} {a : Agent} {l : Launch} {i : Nat} {cs : List Int} (h : readyOp s a = some (l, i, .nop, cs)) :
    doNop a s = advanceAgent s a := by
  rw [doNop, ctlWord_ready h, Option.getD_some]

/-- A slot, and a stream, that enters a loop (R190). -/
def enterSlot (b n : Nat) (en : Bool) (cu : Nat) (st : Int) (x : Slot) : Slot :=
  { x with loops := ⟨x.pos + 1, x.pos + b, n, en, cu, st⟩ :: x.loops, pos := x.pos + 1 }

def enterStream (b n : Nat) (en : Bool) (cu : Nat) (st : Int) (y : Machine.Stream) : Machine.Stream :=
  { y with loops := ⟨y.pos + 1, y.pos + b, n, en, cu, st⟩ :: y.loops, pos := y.pos + 1 }

theorem doLoop_ready {s : State} {a : Agent} {l : Launch} {i b n cu : Nat} {en : Bool} {st : Int} {cs : List Int}
    (h : readyOp s a = some (l, i, .loop b n en cu st, cs)) :
    doLoop a s = modAgent s a (enterSlot b n en cu st) (enterStream b n en cu st) := by
  rw [doLoop, ctlWord_ready h, Option.getD_some]
  rfl

/-- The cursors after CURSOR (R179, R190). -/
def cursorsAfter (cs : List Int) (cu : Nat) (add : Bool) (v : Int) : List Int := cs.set cu (if add then cs.getD cu 0 + v else v)

def slotWithCursors (cs : List Int) (x : Slot) : Slot := { x with cursors := cs }

def streamWithCursors (cs : List Int) (y : Machine.Stream) : Machine.Stream := { y with cursors := cs }

theorem doCursor_ready {s : State} {a : Agent} {l : Launch} {i cu : Nat} {add : Bool} {v : Int} {cs : List Int}
    (h : readyOp s a = some (l, i, .cursor cu add v, cs)) :
    doCursor a s = advanceAgent
      (modAgent s a (slotWithCursors (cursorsAfter cs cu add v)) (streamWithCursors (cursorsAfter cs cu add v))) a := by
  rw [doCursor, ctlWord_ready h, Option.getD_some]
  rfl

/-- END of a slot: its phase is measured and over, and no announcement stands (R147, R154). -/
theorem doEnd_slot {s : State} {d e i : Nat} {m : PhaseMeas} {l : Launch} {cs : List Int}
    (h : readyOp s (.engine d e) = some (l, i, .end_, cs)) :
    doEnd (.engine d e) m s = modAgent (modEng (endPhase s d e m) d e fun y => { y with phase := none, announced := none })
      (.engine d e) (fun x => { x with finished := true }) id := by
  rw [doEnd, ctlWord_ready h, Option.getD_some]

/-- END of a stream whose moves are done (R154). -/
theorem doEnd_stream {s : State} {h f c i : Nat} {m : PhaseMeas} {l : Launch} {y : Machine.Stream} {cs : List Int}
    (hr : readyOp s (.stream h f c) = some (l, i, .end_, cs)) (hs : streamOf s h f c = some (l, i, y)) (hw : y.window = []) :
    doEnd (.stream h f c) m s = modAgent s (.stream h f c) id fun y => { y with finished := true } := by
  rw [doEnd, ctlWord_ready hr]
  simp [hs, hw]

/-! ### What an agent and the rest show after a control word -/

/-- What a change of launches leaves alone. -/
theorem LaunchesOnly.frame {s t : State} (h : LaunchesOnly s t) :
    t.engines = s.engines ∧ t.tok = s.tok ∧ t.regs = s.regs ∧ SameMem s t :=
  ⟨h.engines, h.tok, h.regs, h.sameMem⟩

theorem stream_modAgent {s : State} {h f c i : Nat} {l : Launch} {y : Machine.Stream} (hs : streamOf s h f c = some (l, i, y))
    (k : Slot → Slot) {g : Machine.Stream → Machine.Stream} (hg : ∀ y, (g y).at_ = y.at_) :
    (streamOf (modAgent s (.stream h f c) k g) h f c).map (fun p => p.2.2) = some (g y) := by
  rw [streamOf_modAgent hs k hg]
  rfl

/-- Settles O6: each word changes the one slot or stream that executes it, and END of a slot its engine as well. -/
theorem controlWordsAdvance : Obligations.ControlWordsAdvance := by
  unfold Obligations.ControlWordsAdvance
  refine ⟨?nopSlot, ?nopStream, ?loopSlot, ?loopStream, ?cursorSlot, ?cursorStream, ?endSlot, ?endStream⟩
  case nopSlot =>
    intro d e i l x s hs hp hh hf ho
    exact ⟨_, congrArg Host.Outcome.next (doNop_ready (readyOp_engine hs hp hh hf ho)), slot_modAgent hs _ _,
      (advanceAgent_launchesOnly s _).frame⟩
  case nopStream =>
    intro h f c i l y s hs hp hh hf hr hw ho
    exact ⟨_, congrArg Host.Outcome.next (doNop_ready (readyOp_stream hs hp hh hf hr hw ho)), stream_modAgent hs _ fun _ => rfl,
      (advanceAgent_launchesOnly s _).frame⟩
  case loopSlot =>
    intro d e i b n cu en st l x s hs hp hh hf ho
    exact ⟨_, congrArg Host.Outcome.next (doLoop_ready (readyOp_engine hs hp hh hf ho)), slot_modAgent hs _ _,
      (modAgent_launchesOnly ..).frame⟩
  case loopStream =>
    intro h f c i b n cu en st l y s hs hp hh hf hr hw ho
    exact ⟨_, congrArg Host.Outcome.next (doLoop_ready (readyOp_stream hs hp hh hf hr hw ho)), stream_modAgent hs _ fun _ => rfl,
      (modAgent_launchesOnly ..).frame⟩
  case cursorSlot =>
    intro d e i cu add v l x s hs hp hh hf ho
    obtain ⟨m, hm⟩ := slotOf_modAgent hs (slotWithCursors (cursorsAfter x.cursors cu add v))
      (streamWithCursors (cursorsAfter x.cursors cu add v))
    exact ⟨_, congrArg Host.Outcome.next (doCursor_ready (readyOp_engine hs hp hh hf ho)), slot_modAgent hm _ _,
      ((modAgent_launchesOnly ..).trans (advanceAgent_launchesOnly ..)).frame⟩
  case cursorStream =>
    intro h f c i cu add v l y s hs hp hh hf hr hw ho
    have hm := streamOf_modAgent hs (slotWithCursors (cursorsAfter y.cursors cu add v))
      (g := streamWithCursors (cursorsAfter y.cursors cu add v)) fun _ => rfl
    exact ⟨_, congrArg Host.Outcome.next (doCursor_ready (readyOp_stream hs hp hh hf hr hw ho)), stream_modAgent hm _ fun _ => rfl,
      ((modAgent_launchesOnly ..).trans (advanceAgent_launchesOnly ..)).frame⟩
  case endSlot =>
    intro d e i m l x s hs hp hh hf ho
    have hmeas := endPhase_regsPower s d e m
    have hslot : slotOf (modEng (endPhase s d e m) d e fun y => { y with phase := none, announced := none }) d e = some (l, i, x) := by
      rw [slotOf_modEng rfl, hmeas.slotOf, hs]
    have hl := modAgent_launchesOnly (modEng (endPhase s d e m) d e fun y => { y with phase := none, announced := none })
      (.engine d e) (fun x => { x with finished := true }) id
    refine ⟨_, congrArg Host.Outcome.next (doEnd_slot (readyOp_engine hs hp hh hf ho)), slot_modAgent hslot _ _, ?_, ?_, ?_,
      sameMem_trans hmeas.sameMem hl.sameMem⟩
    · rw [getEng_congr hl.engines, getEng_modEng]
    · rw [getEng_congr hl.engines, getEng_modEng]
    · exact (EnginesBut.of_engines hl.engines d e).trans (EnginesBut.modEng (EnginesBut.of_engines hmeas.engines d e) _)
  case endStream =>
    intro h f c i m l y s hs hp hh hf hr hw ho
    exact ⟨_, congrArg Host.Outcome.next (doEnd_stream (readyOp_stream hs hp hh hf hr hw ho) hs hw),
      stream_modAgent hs _ fun _ => rfl,
      (modAgent_launchesOnly ..).frame⟩

end Sys2Proof.Proofs
end

section
/-! The choice of engines for the slots of a launch: a slot that it places has one engine (R133). -/

namespace Sys2Proof.Proofs

open Sys2Proof.Machine

theorem insertBy_perm {α : Type} (before : α → α → Bool) (x : α) (l : List α) : (insertBy before x l).Perm (x :: l) := by
  induction l with
  | nil => exact .refl _
  | cons y r ih =>
    rw [insertBy]
    split
    · exact .refl _
    · exact (ih.cons y).trans (.swap x y r)

theorem sortBy_perm {α : Type} (before : α → α → Bool) (l : List α) : (sortBy before l).Perm l := by
  have h (acc : List α) : (l.foldl (fun acc x => insertBy before x acc) acc).Perm (l ++ acc) := by
    induction l generalizing acc with
    | nil => exact .refl _
    | cons x r ih => exact (ih _).trans (((insertBy_perm before x acc).append_left r).trans List.perm_middle)
  exact (h []).trans (.of_eq (List.append_nil l))

/-- A choice for a list of slots names each of them, in their order. -/
theorem pickEach_fst {cs rest : List Cand} {g : List (Nat × Nat)} {a : List (Nat × Cand)} (h : pickEach cs g = .ok (a, rest)) :
    a.map Prod.fst = g.map Prod.fst := by
  induction g generalizing cs a rest with
  | nil =>
    obtain ⟨rfl, -⟩ := Prod.mk.inj (Except.ok.inj h)
    rfl
  | cons w r ih =>
    obtain ⟨i, w⟩ := w
    simp only [pickEach] at h
    split at h
    · cases h
    · split at h
      · obtain ⟨rfl, -⟩ := Prod.mk.inj (Except.ok.inj h)
        exact congrArg (i :: ·) (ih ‹_›)
      · cases h

theorem placeGroups_fst {dies : List Nat} {cs rest : List Cand} {gs : List (List (Nat × Nat))} {a : List (Nat × Cand)}
    (h : placeGroups dies cs gs = .ok (a, rest)) : a.map Prod.fst = gs.flatten.map Prod.fst := by
  induction gs generalizing cs a rest with
  | nil =>
    obtain ⟨rfl, -⟩ := Prod.mk.inj (Except.ok.inj h)
    rfl
  | cons g r ih =>
    simp only [placeGroups] at h
    split at h
    · cases h
    · split at h
      · cases h
      · split at h
        · obtain ⟨rfl, -⟩ := Prod.mk.inj (Except.ok.inj h)
          rw [List.map_append, List.flatten_cons, List.map_append, pickEach_fst ‹_›, ih ‹_›]
        · cases h

/-- The slots of a launch in the order of placement: index, width and group. -/
def placeOrder (slots : List Slot) : List (Nat × Nat × Nat) :=
  sortBy (fun a b => decide (b.2.1 < a.2.1)) (slots.zipIdx.map fun p => (p.2, p.1.minWidth, p.1.group))

theorem placeOrder_fst (slots : List Slot) : ((placeOrder slots).map (·.1)).Perm (List.range slots.length) := by
  refine ((sortBy_perm _ _).map _).trans (.of_eq ?_)
  rw [List.map_map]
  exact List.zipIdx_map_snd 0 slots |>.trans List.range_eq_range'.symm

/-- The slots of a die group, as index and width. -/
def groupSlots (slots : List Slot) (g : Nat) : List (Nat × Nat) :=
  ((placeOrder slots).filter fun x => x.2.2 == g).map fun x => (x.1, x.2.1)

theorem groupSlots_fst (slots : List Slot) (g : Nat) :
    (groupSlots slots g).map Prod.fst = ((placeOrder slots).filter fun x => x.2.2 == g).map (·.1) := by
  simp [groupSlots, Function.comp_def]

theorem lt_of_mem_groupSlots {slots : List Slot} {g i : Nat} (h : i ∈ (groupSlots slots g).map Prod.fst) : i < slots.length := by
  rw [groupSlots_fst] at h
  exact List.mem_range.1 ((placeOrder_fst slots).subset ((List.filter_sublist.map _).subset h))

/-- No slot is in two groups. -/
theorem nodup_groupSlots (slots : List Slot) {gs : List Nat} (hg : gs.Nodup) :
    ((gs.flatMap (groupSlots slots)).map Prod.fst).Nodup := by
  have ho := (placeOrder_fst slots).nodup_iff.2 List.nodup_range
  rw [List.map_flatMap]
  refine List.nodup_flatMap.2 ⟨fun g _ => ?_, hg.imp fun {g k} hne i hi hj => ?_⟩
  · rw [groupSlots_fst]
    exact ho.sublist (List.filter_sublist.map _)
  · simp only [groupSlots_fst, List.mem_map, List.mem_filter, beq_iff_eq] at hi hj
    obtain ⟨x, ⟨hx, rfl⟩, rfl⟩ := hi
    obtain ⟨y, ⟨hy, rfl⟩, hxy⟩ := hj
    exact hne (by rw [List.inj_on_of_nodup_map ho hy hx hxy])

/-- A placement takes the die groups, largest first, and then the slots of no group. -/
theorem placeSlots_ok {dies : List Nat} {cs : List Cand} {slots : List Slot} {a : List (Nat × Cand)}
    (h : placeSlots dies cs slots = .ok a) : ∃ x rest b r,
      placeGroups dies cs (sortBy (fun a b => decide (b.length < a.length))
        (((List.range 128).map (groupSlots slots)).filter fun l => !l.isEmpty)) = .ok (x, rest) ∧
      pickEach rest (groupSlots slots 255) = .ok (b, r) ∧ a = x ++ b := by
  simp only [placeSlots] at h
  split at h
  · cases h
  · split at h
    · cases h
    · exact ⟨_, _, _, _, ‹_›, ‹_›, (Except.ok.inj h).symm⟩

/-- What is placed are slots of the launch, each at most once. -/
theorem placeSlots_indices {dies : List Nat} {cs : List Cand} {slots : List Slot} {a : List (Nat × Cand)}
    (h : placeSlots dies cs slots = .ok a) : (a.map Prod.fst).Nodup ∧ ∀ p ∈ a, p.1 < slots.length := by
  obtain ⟨x, rest, b, r, hx, hb, rfl⟩ := placeSlots_ok h
  have hsub : (((List.range 128).map (groupSlots slots)).filter fun l => !l.isEmpty).flatten ++ groupSlots slots 255 |>.Sublist
      ((List.range 128 ++ [255]).flatMap (groupSlots slots)) := by
    rw [List.flatMap_append, List.flatMap_singleton]
    exact (List.filter_sublist.flatten).append_right _
  have hfst : ((x ++ b).map Prod.fst).Subperm (((List.range 128 ++ [255]).flatMap (groupSlots slots)).map Prod.fst) := by
    rw [List.map_append, placeGroups_fst hx, pickEach_fst hb, ← List.map_append]
    exact ((((sortBy_perm _ _).flatten).append_right _).map _).subperm.trans (hsub.map _).subperm
  have hgs : (List.range 128 ++ [255]).Nodup := List.nodup_range.append (List.nodup_singleton 255) (by simp)
  obtain ⟨_, hperm, hpart⟩ := id hfst
  refine ⟨hperm.nodup_iff.1 ((nodup_groupSlots slots hgs).sublist hpart), fun p hp => ?_⟩
  obtain ⟨w, hw, hwp⟩ := List.mem_map.1 (hfst.subset (List.mem_map_of_mem hp))
  obtain ⟨g, -, hg⟩ := List.mem_flatMap.1 hw
  exact hwp ▸ lt_of_mem_groupSlots (List.mem_map_of_mem hg)

end Sys2Proof.Proofs
end

section
/-! Launches by name and engines by key after changes of several of them. -/

namespace Sys2Proof.Proofs

open Sys2Proof.Machine Sys2Proof.Safety Sys2Proof.Laws

/-- The launches bear the same names, and `v` shows the same of each. -/
def SameLaunches {α : Type} (v : Launch → α) (s t : State) : Prop :=
  t.launches.map (fun l => (l.ctx, l.seq, v l)) = s.launches.map fun l => (l.ctx, l.seq, v l)

namespace SameLaunches

variable {α : Type} {v : Launch → α} {s t u : State}

theorem of_launches (h : t.launches = s.launches) : SameLaunches v s t := by rw [SameLaunches, h]

theorem trans (h : SameLaunches v s t) (h' : SameLaunches v t u) : SameLaunches v s u := Eq.trans h' h

theorem modLaunch (h : SameLaunches v s t) (c q : Nat) {f : Launch → Launch}
    (hf : ∀ l, (f l).ctx = l.ctx ∧ (f l).seq = l.seq ∧ v (f l) = v l) : SameLaunches v s (modLaunch t c q f) := by
  refine Eq.trans ?_ h
  rw [Machine.modLaunch, List.map_map]
  refine List.map_congr_left fun l _ => ?_
  obtain ⟨hc, hq, hv⟩ := hf l
  simp only [Function.comp_apply]
  split
  · rw [hc, hq, hv]
  · rfl

/-- A launch is found under its name as before. -/
theorem findLaunch (h : SameLaunches v s t) (c q : Nat) : (findLaunch t c q).map v = (findLaunch s c q).map v := by
  have hv (u : State) : (Machine.findLaunch u c q).map v =
      ((u.launches.map fun l => (l.ctx, l.seq, v l)).find? fun k => k.1 == c && k.2.1 == q).map fun k => k.2.2 := by
    rw [List.find?_map, Option.map_map]
    rfl
  rw [hv, hv, h]

theorem of_findLaunch {c q : Nat} {l : Launch} (h : SameLaunches v s t) (hl : Machine.findLaunch s c q = some l) :
    ∃ y, Machine.findLaunch t c q = some y ∧ y.ctx = l.ctx ∧ y.seq = l.seq ∧ v y = v l := by
  have hy := h.findLaunch c q
  rw [hl, Option.map_some] at hy
  obtain ⟨y, hy, hv⟩ := Option.map_eq_some_iff.1 hy
  obtain ⟨rfl, rfl⟩ := findLaunch_name hl
  obtain ⟨hc, hq⟩ := findLaunch_name hy
  exact ⟨y, hy, hc, hq, hv⟩

end SameLaunches

/-- The named launch after a change of it. -/
theorem findLaunch_modLaunch_same {s : State} {l : Launch} {f : Launch → Launch} (hl : findLaunch s l.ctx l.seq = some l)
    (hf : ∀ l, (f l).ctx = l.ctx ∧ (f l).seq = l.seq) : findLaunch (modLaunch s l.ctx l.seq f) l.ctx l.seq = some (f l) := by
  rw [findLaunch_modLaunch _ _ _ _ _ hf, hl, Option.map_some, if_pos ⟨rfl, rfl⟩]

theorem getEng_modEng_eq (s : State) (d e d' e' : Nat) (f : Engine → Engine) :
    getEng (modEng s d e f) d' e' = if engKey d' e' = engKey d e then f (getEng s d e) else getEng s d' e' :=
  smGetD_smPut _ _ _ _ _

theorem getEng_of_engKey {s : State} {d e d' e' : Nat} (h : engKey d' e' = engKey d e) : getEng s d' e' = getEng s d e := by
  simp only [getEng, h]

end Sys2Proof.Proofs
end

section
/-! The places that a launch takes: its slots on engines, and the engines that hold them (R133, R413). -/

namespace Sys2Proof.Proofs

open Sys2Proof.Machine Sys2Proof.Safety Sys2Proof.Laws

/-! ### One engine -/

/-- A launch one of whose slots has been placed. -/
def placeSlot (p : Nat × Cand) (l : Launch) : Launch :=
  { l with slots := l.slots.zipIdx.map fun x => if x.2 = p.1 then { x.1 with at_ := some (p.2.1, p.2.2.1) } else x.1 }

theorem placeSlot_getElem? (p : Nat × Cand) (l : Launch) (i : Nat) :
    (placeSlot p l).slots[i]? =
      (l.slots[i]?).map fun x => if i = p.1 then { x with at_ := some (p.2.1, p.2.2.1) } else x := by
  simp [placeSlot, List.getElem?_zipIdx, Option.map_map, Function.comp_def]

theorem pairOn_regsPower (s : State) (d p : Nat) : RegsPower s (pairOn s d p) := by
  unfold pairOn
  split
  · exact ((RegsPower.refl s).fput ..).fput .. |>.trans (setPair_regsPower ..)
  · exact .refl s

/-- Beside registers and power, an engine is taken by its slot and the slot by its engine. -/
theorem takeEngine_regsPower (s : State) (c q : Nat) (p : Nat × Cand) :
    RegsPower (modEng (modLaunch s c q (placeSlot p)) p.2.1 p.2.2.1 fun y => { y with placed := some (c, q, p.1) })
      (takeEngine s c q p.1 p.2) :=
  (((RegsPower.refl _).fput ..).fput ..).fput .. |>.trans (pairOn_regsPower ..)

theorem findLaunch_takeEngine (s : State) (c q : Nat) (p : Nat × Cand) :
    findLaunch (takeEngine s c q p.1 p.2) c q = (findLaunch s c q).map (placeSlot p) := by
  rw [findLaunch_congr (takeEngine_regsPower s c q p).launches]
  refine (findLaunch_modLaunch s c q c q (f := placeSlot p) fun _ => ⟨rfl, rfl⟩).trans ?_
  exact Option.map_congr fun l hl => if_pos (findLaunch_name hl)

theorem getEng_takeEngine (s : State) (c q : Nat) (p : Nat × Cand) (d e : Nat) :
    (getEng (takeEngine s c q p.1 p.2) d e).placed =
      if engKey d e = engKey p.2.1 p.2.2.1 then some (c, q, p.1) else (getEng s d e).placed := by
  rw [getEng_congr (takeEngine_regsPower s c q p).engines, getEng_modEng_eq]
  split <;> rfl

/-! ### The engines of a placement -/

/-- Take each engine of a placement. -/
def takeEngines (s : State) (c q : Nat) (a : List (Nat × Cand)) : State := a.foldl (fun s p => takeEngine s c q p.1 p.2) s

/-- A launch whose slots have been placed. -/
def placeSlotsAt (a : List (Nat × Cand)) (l : Launch) : Launch := a.foldl (fun l p => placeSlot p l) l

theorem findLaunch_takeEngines (s : State) (c q : Nat) (a : List (Nat × Cand)) :
    findLaunch (takeEngines s c q a) c q = (findLaunch s c q).map (placeSlotsAt a) := by
  induction a generalizing s with
  | nil => exact (congrFun Option.map_id _).symm
  | cons p r ih =>
    refine (ih (takeEngine s c q p.1 p.2)).trans ?_
    rw [findLaunch_takeEngine, Option.map_map]
    rfl

/-- Placing slots changes nothing else of a launch. -/
theorem placeSlotsAt_eq (a : List (Nat × Cand)) (l : Launch) : ∃ xs, placeSlotsAt a l = { l with slots := xs } :=
  List.foldlRecOn (motive := fun m : Launch => ∃ xs, m = { l with slots := xs }) a (fun l p => placeSlot p l) ⟨l.slots, rfl⟩
    fun m hm p _ => by
      obtain ⟨xs, rfl⟩ := hm
      exact ⟨_, rfl⟩

/-- A slot is placed where the placement's last entry for it says; one of which it has none stays. -/
theorem placeSlotsAt_getElem?_of_notMem {a : List (Nat × Cand)} {l : Launch} {i : Nat} (h : i ∉ a.map Prod.fst) :
    (placeSlotsAt a l).slots[i]? = l.slots[i]? := by
  induction a generalizing l with
  | nil => rfl
  | cons p r ih =>
    obtain ⟨hp, hr⟩ := not_or.1 fun hm => h (List.mem_cons.2 hm)
    refine (ih (l := placeSlot p l) hr).trans ?_
    simp [placeSlot_getElem?, hp]

theorem placeSlotsAt_at {a : List (Nat × Cand)} {l : Launch} (hn : (a.map Prod.fst).Nodup) {p : Nat × Cand} (hp : p ∈ a)
    (hlt : p.1 < l.slots.length) : ∃ x ∈ (placeSlotsAt a l).slots, x.at_ = some (p.2.1, p.2.2.1) := by
  induction a generalizing l with
  | nil => cases hp
  | cons w r ih =>
    obtain ⟨hw, hr⟩ := List.nodup_cons.1 hn
    rcases List.mem_cons.1 hp with rfl | hp
    · refine ⟨{ l.slots[p.1] with at_ := some (p.2.1, p.2.2.1) }, List.mem_of_getElem? (i := p.1) ?_, rfl⟩
      refine (placeSlotsAt_getElem?_of_notMem (l := placeSlot p l) hw).trans ?_
      simp [placeSlot_getElem?, hlt]
    · exact ih (l := placeSlot w l) hr hp (by simpa [placeSlot] using hlt)

theorem takeEngines_placed_of_notMem {s : State} {c q : Nat} {a : List (Nat × Cand)} {d e : Nat}
    (h : engKey d e ∉ a.map fun p => engKey p.2.1 p.2.2.1) :
    (getEng (takeEngines s c q a) d e).placed = (getEng s d e).placed := by
  induction a generalizing s with
  | nil => rfl
  | cons p r ih =>
    obtain ⟨hp, hr⟩ := not_or.1 fun hm => h (List.mem_cons.2 hm)
    refine (ih (s := takeEngine s c q p.1 p.2) hr).trans ?_
    rw [getEng_takeEngine, if_neg hp]

theorem takeEngines_placed {s : State} {c q : Nat} {a : List (Nat × Cand)} (hn : (a.map fun p => engKey p.2.1 p.2.2.1).Nodup)
    {p : Nat × Cand} (hp : p ∈ a) : (getEng (takeEngines s c q a) p.2.1 p.2.2.1).placed = some (c, q, p.1) := by
  induction a generalizing s with
  | nil => cases hp
  | cons w r ih =>
    obtain ⟨hw, hr⟩ := List.nodup_cons.1 hn
    rcases List.mem_cons.1 hp with rfl | hp
    · refine (takeEngines_placed_of_notMem (s := takeEngine s c q p.1 p.2) hw).trans ?_
      rw [getEng_takeEngine, if_pos rfl]
    · exact ih (s := takeEngine s c q w.1 w.2) hr hp

theorem takeEngines_ctxs_mem (s : State) (c q : Nat) (a : List (Nat × Cand)) :
    (takeEngines s c q a).ctxs = s.ctxs ∧ (takeEngines s c q a).mem = s.mem :=
  List.foldlRecOn (motive := fun t => t.ctxs = s.ctxs ∧ t.mem = s.mem) a _ ⟨rfl, rfl⟩ fun t ht p _ =>
    have hp := takeEngine_regsPower t c q p
    ⟨(hp.get (f := State.ctxs) fun _ _ => rfl).trans ht.1, hp.sameMem.1.trans ht.2⟩

end Sys2Proof.Proofs
end

section
/-! From the places of a launch to its preparation, and the commands of placement (R129 to R137, R290, R291). -/

namespace Sys2Proof.Proofs

open Sys2Proof.Machine Sys2Proof.Safety Sys2Proof.Laws

/-! ### Preparing engines and read caches -/

/-- What the preparation of engines and read caches keeps: it places nothing, and an engine without an operand gets none. -/
structure Prepares (s t : State) : Prop where
  launches : t.launches = s.launches
  mem : t.mem = s.mem
  placed : ∀ d e, (getEng t d e).placed = (getEng s d e).placed
  idle : ∀ d e, (getEng s d e).active = none → (getEng t d e).active = none

namespace Prepares

theorem refl (s : State) : Prepares s s := ⟨rfl, rfl, fun _ _ => rfl, fun _ _ => id⟩

theorem trans {s t u : State} (h : Prepares s t) (h' : Prepares t u) : Prepares s u :=
  ⟨h'.launches.trans h.launches, h'.mem.trans h.mem, fun d e => (h'.placed d e).trans (h.placed d e),
    fun d e => h'.idle d e ∘ h.idle d e⟩

theorem foldl {α : Type} {f : State → α → State} (hf : ∀ s x, Prepares s (f s x)) (s : State) (l : List α) :
    Prepares s (l.foldl f s) :=
  List.foldlRecOn (motive := Prepares s) l f (.refl s) fun t ht x _ => ht.trans (hf t x)

end Prepares

/-- The engine of a slot after it has been prepared: everything cleared but its placement and what system software does with it
(R131). -/
def preparedEngine (x : Slot) (y : Engine) : Engine :=
  { Engine.fresh with placed := y.placed, ribbon := x.ribbon, testing := y.testing, retiring := y.retiring }

/-- Discarding a region changes its engine, beside registers. -/
theorem dropRegion_regsPower (s : State) (d e : Nat) :
    RegsPower (modEng s d e fun y => { y with region := none }) (dropRegion s d e) :=
  (((((((RegsPower.refl _).fput ..).fput ..).fput ..).fput ..).fput ..).fput ..).fput .. |>.fput ..

/-- An engine is prepared, its stores are cleared, and its region is discarded. -/
theorem prepareEngine_eq {x : Slot} {d e : Nat} (hx : x.at_ = some (d, e)) (s : State) : ∃ os ns v,
    prepareEngine s x = dropRegion (fput { modEng s d e (preparedEngine x) with ostore := os, near := ns } d e
      Fl.ENG_STATUS_GEOMETRY v) d e := by
  rw [prepareEngine, hx]
  exact ⟨_, _, _, rfl⟩

theorem getEng_prepareEngine {s : State} {x : Slot} {d e : Nat} (hx : x.at_ = some (d, e)) (d' e' : Nat) :
    getEng (prepareEngine s x) d' e' =
      if engKey d' e' = engKey d e then preparedEngine x (getEng s d e) else getEng s d' e' := by
  obtain ⟨os, ns, v, h⟩ := prepareEngine_eq hx s
  set u := fput { modEng s d e (preparedEngine x) with ostore := os, near := ns } d e Fl.ENG_STATUS_GEOMETRY v
  have hu (a b : Nat) : getEng u a b = getEng (modEng s d e (preparedEngine x)) a b := rfl
  rw [h, getEng_congr (dropRegion_regsPower u d e).engines, getEng_modEng_eq, hu, hu, getEng_modEng]
  split
  · rfl
  · rw [getEng_modEng_eq, if_neg ‹_›]

theorem prepareEngine_prepares (s : State) (x : Slot) : Prepares s (prepareEngine s x) := by
  cases hx : x.at_ with
  | none =>
    rw [prepareEngine, hx]
    exact .refl s
  | some p =>
    obtain ⟨_, _, _, h⟩ := prepareEngine_eq hx s
    refine ⟨?_, ?_, fun d e => ?_, fun d e hidle => ?_⟩
    · exact (congrArg State.launches h).trans (dropRegion_regsPower ..).launches
    · exact (congrArg State.mem h).trans (dropRegion_regsPower ..).sameMem.1
    · rw [getEng_prepareEngine hx]
      split
      next hk => exact (congrArg Engine.placed (getEng_of_engKey hk)).symm
      next => rfl
    · rw [getEng_prepareEngine hx]
      split
      · rfl
      · exact hidle

/-- Every engine of a slot has been prepared. -/
theorem prepareEngines_idle {s : State} {xs : List Slot} {x : Slot} {d e : Nat} (h : x ∈ xs) (hx : x.at_ = some (d, e)) :
    (getEng (xs.foldl prepareEngine s) d e).active = none := by
  induction xs generalizing s with
  | nil => cases h
  | cons y r ih =>
    rcases List.mem_cons.1 h with rfl | h
    · refine (Prepares.foldl prepareEngine_prepares (prepareEngine s x) r).idle d e ?_
      rw [getEng_prepareEngine hx, if_pos rfl]
      rfl
    · exact ih h

theorem clearReadCache_prepares (s : State) (d : Nat) : Prepares s (fsat (rdcClear s d) d 0 Fl.RDC_INVALIDATIONS_LAUNCH 1) :=
  ⟨rfl, rfl, fun _ _ => rfl, fun _ _ => id⟩

/-- Step 8 of a launch: its engines are empty, and nothing has been written to memory (R131). -/
theorem prepareLaunch_prepared {s : State} {l : Launch} (hl : findLaunch s l.ctx l.seq = some l) :
    (findLaunch (prepareLaunch s l) l.ctx l.seq).map (·.phase) = some .preparing ∧ (prepareLaunch s l).mem = s.mem ∧
      ∀ x ∈ l.slots, ∀ d e, x.at_ = some (d, e) → (getEng (prepareLaunch s l) d e).placed = (getEng s d e).placed ∧
        (getEng (prepareLaunch s l) d e).active = none := by
  have he := Prepares.foldl prepareEngine_prepares s l.slots
  have hr := Prepares.foldl clearReadCache_prepares (l.slots.foldl prepareEngine s)
    (partDies (l.slots.foldl prepareEngine s) (ctxPart (l.slots.foldl prepareEngine s) l.ctx))
  have h := he.trans hr
  refine ⟨?_, h.mem, fun x hx d e hat => ⟨h.placed d e, hr.idle d e (prepareEngines_idle hx hat)⟩⟩
  refine congrArg (Option.map (·.phase)) (findLaunch_modLaunch_same (f := fun y => { y with phase := .preparing, ready := true })
    ((findLaunch_congr h.launches _ _).trans hl) fun _ => ⟨rfl, rfl⟩)

/-! ### Counters, scales and the near-store charge -/

/-- A launch without scale slots is prepared as soon as it has its counters (R137). -/
theorem allocLaunch_of_counters {s u : State} {l y : Launch} (hu : allocTokens s l = some u) (hs : l.scales = [])
    (hy : findLaunch u l.ctx l.seq = some y) : allocLaunch s l = prepareLaunch u y := by
  simp [allocLaunch, hu, computeScales, hs, hy]

theorem allocTokens_of_none {s : State} {l : Launch} (ht : l.tokens = []) : allocTokens s l = some s := by
  simp [allocTokens, ht]

/-- Counters are no memory, and take no launch away. -/
theorem allocTokens_frame {s u : State} {l : Launch} (hu : allocTokens s l = some u) :
    SameLaunches (fun _ => ()) s u ∧ u.mem = s.mem := by
  unfold allocTokens at hu
  dsimp only at hu
  split at hu
  · cases hu
  · obtain rfl := Option.some.inj hu
    refine List.foldlRecOn (motive := fun t => SameLaunches (fun _ => ()) s t ∧ t.mem = s.mem) _ _ ?_ fun t ht d _ => ht
    refine List.foldlRecOn (motive := fun t => SameLaunches (fun _ => ()) s t ∧ t.mem = s.mem) _ _
      ⟨.of_launches rfl, rfl⟩ fun t ht p _ => ?_
    split
    · split
      · exact ht
      · exact ⟨.modLaunch ht.1 _ _ fun _ => ⟨rfl, rfl, rfl⟩, ht.2⟩
    · exact ht

/-- A context whose quota has room for a launch's granules. -/
def NearRoom (s : State) (l : Launch) : Prop :=
  (getCtx s l.ctx).used.getD 4 0 + l.totalGranules ≤ (getCtx s l.ctx).quota.getD 4 0

/-- A context's near-store use after a launch's charge, which the launch bears. -/
def charged (s : State) (l : Launch) : State :=
  modLaunch (putCtx s l.ctx { getCtx s l.ctx with
    used := (getCtx s l.ctx).used.set 4 ((getCtx s l.ctx).used.getD 4 0 + l.totalGranules) }) l.ctx l.seq
    fun y => { y with nsCharged := true }

/-- Steps 5 and 6 of a launch without errors, whose near store is within its quota. -/
theorem chargeLaunch_of_room {s : State} {l : Launch} (he : l.errs = []) (hq : NearRoom s l) :
    chargeLaunch s l = allocLaunch (charged s l) l := by
  have hcharge : charge s l.ctx 4 l.totalGranules = some (putCtx s l.ctx { getCtx s l.ctx with
    used := (getCtx s l.ctx).used.set 4 ((getCtx s l.ctx).used.getD 4 0 + l.totalGranules) }) := if_pos hq
  simp only [chargeLaunch, hcharge]
  rw [he]
  rfl

theorem findLaunch_charged {s : State} {l : Launch} (hl : findLaunch s l.ctx l.seq = some l) :
    findLaunch (charged s l) l.ctx l.seq = some { l with nsCharged := true } :=
  findLaunch_modLaunch_same (s := putCtx s l.ctx _) hl fun _ => ⟨rfl, rfl⟩

/-! ### Taking the places -/

theorem showFinders_regsPower (s : State) (h : Nat) : RegsPower s (showFinders s h) :=
  List.foldlRecOn (motive := RegsPower s) _ _ (((RegsPower.refl s).fput ..).fput ..) fun _ ht _ _ =>
    (((ht.fput ..).fput ..).fput ..).fput ..

theorem showPartFinders_regsPower (s : State) (part : Nat) : RegsPower s (showPartFinders s part) :=
  List.foldlRecOn (motive := RegsPower s) _ _ (.refl s) fun _ ht h _ => ht.trans (showFinders_regsPower _ h)

/-- A launch after step 4. -/
def withPlaces (strs : List (Nat × Nat × Nat)) (y : Launch) : Launch :=
  { y with
    phase := .tokens
    reserving := false
    reservedEngines := []
    streams := y.streams.zipIdx.map fun p => { p.1 with at_ := strs[p.2]? } }

/-- Beside registers and power, a launch takes its engines, leaves step 4 and blocks its context no more. -/
theorem takePlaces_regsPower (s : State) (l : Launch) (a : List (Nat × Cand)) (strs : List (Nat × Nat × Nat)) :
    RegsPower (modCmd (modLaunch (takeEngines s l.ctx l.seq a) l.ctx l.seq (withPlaces strs)) l.ctx l.seq
      fun k => { k with blocking := false }) (takePlaces s l a strs) :=
  showPartFinders_regsPower _ _

/-- Step 4 changes neither what a launch is called nor what it needs. -/
theorem withPlaces_frame (a : List (Nat × Cand)) (strs : List (Nat × Nat × Nat)) (l : Launch) :
    let y := withPlaces strs (placeSlotsAt a l)
    y.ctx = l.ctx ∧ y.seq = l.seq ∧ y.errs = l.errs ∧ y.tokens = l.tokens ∧ y.scales = l.scales ∧
      y.totalGranules = l.totalGranules := by
  obtain ⟨xs, hxs⟩ := placeSlotsAt_eq a l
  rw [hxs]
  exact ⟨rfl, rfl, rfl, rfl, rfl, rfl⟩

theorem findLaunch_takePlaces {s : State} {l : Launch} (hl : findLaunch s l.ctx l.seq = some l) (a : List (Nat × Cand))
    (strs : List (Nat × Nat × Nat)) :
    findLaunch (takePlaces s l a strs) l.ctx l.seq = some (withPlaces strs (placeSlotsAt a l)) := by
  obtain ⟨xs, hxs⟩ := placeSlotsAt_eq a l
  rw [findLaunch_congr (takePlaces_regsPower s l a strs).launches]
  refine (findLaunch_modLaunch _ l.ctx l.seq l.ctx l.seq (f := withPlaces strs) fun _ => ⟨rfl, rfl⟩).trans ?_
  rw [findLaunch_takeEngines, hl, Option.map_some, Option.map_some, hxs]
  simp

theorem getCtx_congr {s t : State} (h : t.ctxs = s.ctxs) (c : Nat) : getCtx t c = getCtx s c := by
  simp only [getCtx, h]

/-- What a context has used and may use does not change with the places of its launch. -/
theorem nearRoom_takePlaces {s : State} {l y : Launch} (a : List (Nat × Cand)) (strs : List (Nat × Nat × Nat))
    (hc : y.ctx = l.ctx) (hg : y.totalGranules = l.totalGranules) (hq : NearRoom s l) : NearRoom (takePlaces s l a strs) y := by
  have h : getCtx (takePlaces s l a strs) l.ctx = { getCtx s l.ctx with
      cmds := (getCtx s l.ctx).cmds.map fun k => if k.seq = l.seq then { k with blocking := false } else k } := by
    have htaken : getCtx (modLaunch (takeEngines s l.ctx l.seq a) l.ctx l.seq (withPlaces strs)) l.ctx = getCtx s l.ctx :=
      getCtx_congr (takeEngines_ctxs_mem s l.ctx l.seq a).1 l.ctx
    rw [getCtx_congr ((takePlaces_regsPower s l a strs).get (f := State.ctxs) fun _ _ => rfl), modCmd, modCtx, getCtx_putCtx, htaken]
  rw [NearRoom, hc, hg, h]
  exact hq

/-! ### Step 4 -/

/-- The launch is prepared, every engine chosen holds its slot and no operand, and memory is as before. -/
def PlacedAndPrepared (s t : State) (c q : Nat) (a : List (Nat × Cand)) : Prop :=
  (findLaunch t c q).map (·.phase) = some .preparing ∧ t.mem = s.mem ∧
    ∀ p ∈ a, (getEng t p.2.1 p.2.2.1).placed = some (c, q, p.1) ∧ (getEng t p.2.1 p.2.2.1).active = none

/-- Where the rule of R133 chooses, and every stream finds a context, a launch takes its places and is charged. -/
theorem tryPlace_of_places {s : State} {l y : Launch} {a : List (Nat × Cand)} {xs : List (Nat × Nat × Nat)}
    (ha : placeSlots (partDies s (ctxPart s l.ctx)) (candidates s l (ctxPart s l.ctx) false) l.slots = .ok a)
    (hx : assignStreams s l (partHubs s (ctxPart s l.ctx)) l.streams.length (busyStreams s) = some xs)
    (hy : findLaunch (takePlaces s l a xs) l.ctx l.seq = some y) : tryPlace s l = chargeLaunch (takePlaces s l a xs) y := by
  simp only [tryPlace, ha, hx, hy]

/-- A launch that the rule places only among all engines waits (R134). -/
theorem tryPlace_of_waits {s : State} {l : Launch} {a : List (Nat × Cand)} {i : Nat}
    (hi : placeSlots (partDies s (ctxPart s l.ctx)) (candidates s l (ctxPart s l.ctx) false) l.slots = .error i)
    (ha : placeSlots (partDies s (ctxPart s l.ctx)) (candidates s l (ctxPart s l.ctx) true) l.slots = .ok a) :
    tryPlace s l = s := by
  simp only [tryPlace, hi, ha]

/-- Steps 4 to 8 of a launch that the rule of R133 places and that needs nothing but engines and near store. -/
theorem tryPlace_prepares {s : State} {l : Launch} {a : List (Nat × Cand)} (hl : findLaunch s l.ctx l.seq = some l)
    (hsc : l.scales = []) (hst : l.streams = []) (ht : l.tokens = []) (he : l.errs = []) (hq : NearRoom s l)
    (hkeys : (a.map fun p => engKey p.2.1 p.2.2.1).Nodup)
    (ha : placeSlots (partDies s (ctxPart s l.ctx)) (candidates s l (ctxPart s l.ctx) false) l.slots = .ok a) :
    PlacedAndPrepared s (tryPlace s l) l.ctx l.seq a := by
  obtain ⟨hnodup, hlt⟩ := placeSlots_indices ha
  obtain ⟨hctx, hseq, herrs, htoks, hscales, hgran⟩ := withPlaces_frame a [] l
  have hy := findLaunch_takePlaces hl a []
  have hno : assignStreams s l (partHubs s (ctxPart s l.ctx)) l.streams.length (busyStreams s) = some [] := by rw [hst]; rfl
  rw [tryPlace_of_places ha hno hy]
  have hroom : NearRoom (takePlaces s l a []) (withPlaces [] (placeSlotsAt a l)) := nearRoom_takePlaces a [] hctx hgran hq
  have hr := takePlaces_regsPower s l a []
  have hslots := fun p hp => placeSlotsAt_at (l := l) hnodup hp (hlt p hp)
  rw [← hctx, ← hseq] at hy
  change ∀ p ∈ a, ∃ x ∈ (withPlaces [] (placeSlotsAt a l)).slots, _ at hslots
  generalize withPlaces [] (placeSlotsAt a l) = y at *
  have hz := findLaunch_charged hy
  have hrun : chargeLaunch (takePlaces s l a []) y =
      prepareLaunch (charged (takePlaces s l a []) y) { y with nsCharged := true } := by
    rw [chargeLaunch_of_room (herrs.trans he) hroom]
    exact allocLaunch_of_counters (allocTokens_of_none (htoks.trans ht)) (hscales.trans hsc) hz
  obtain ⟨hphase, hmem, hengs⟩ := prepareLaunch_prepared (l := { y with nsCharged := true }) hz
  rw [hrun, ← hctx, ← hseq]
  refine ⟨hphase, hmem.trans (hr.sameMem.1.trans (takeEngines_ctxs_mem ..).2), fun p hp => ?_⟩
  obtain ⟨x, hx, hat⟩ := hslots p hp
  obtain ⟨hplaced, hactive⟩ := hengs x hx _ _ hat
  refine ⟨hplaced.trans ?_, hactive⟩
  have hsame : getEng (charged (takePlaces s l a []) y) p.2.1 p.2.2.1 = getEng (takeEngines s l.ctx l.seq a) p.2.1 p.2.2.1 :=
    getEng_congr hr.engines _ _
  rw [hsame, takeEngines_placed hkeys hp, hctx, hseq]

/-! ### LAUNCH up to its placement -/

/-- No launch has engines reserved for it (R291). -/
def NoneReserves (s : State) : Prop := ∀ o ∈ s.launches, o.reserving = false

theorem reservedFor_of_noneReserves {s : State} (h : NoneReserves s) (l : Launch) (u : Nat × Nat) : reservedFor s l u = false := by
  refine List.any_eq_false.2 fun o ho => ?_
  simp [h o ho]

/-- While none reserves, the candidates of a launch are what the engines and registers say. -/
theorem candidates_congr {s t : State} (hs : NoneReserves s) (ht : NoneReserves t) (hregs : ∀ d i f, fget t d i f = fget s d i f)
    (heng : t.engines = s.engines) (l m : Launch) (part : Nat) : candidates t m part false = candidates s l part false := by
  simp only [candidates, partDies, modeOf, reservedFor_of_noneReserves hs, reservedFor_of_noneReserves ht, hregs, getEng_congr heng]

/-- A launch that arrives at step 4. -/
def arrivedAt (n : Nat) (y : Launch) : Launch := { y with phase := .placing, arrival := n }

/-- The state in which a launch that has arrived is placed: it blocks its context (R281, R290). -/
def arrivedState (s : State) (l : Launch) (n : Nat) : State :=
  modCmd (modLaunch s l.ctx l.seq (arrivedAt n)) l.ctx l.seq fun k => { k with blocking := true }

theorem findLaunch_arrivedState {s : State} {l : Launch} (hl : findLaunch s l.ctx l.seq = some l) (n : Nat) :
    findLaunch (arrivedState s l n) l.ctx l.seq = some (arrivedAt n l) :=
  findLaunch_modLaunch_same (f := arrivedAt n) hl fun _ => ⟨rfl, rfl⟩

theorem arriveLaunch_eq {s : State} {l : Launch} (hl : findLaunch s l.ctx l.seq = some l) :
    ∃ n, arriveLaunch s l = tryPlace (arrivedState s l n) (arrivedAt n l) := by
  refine ⟨(s.launches.map (·.arrival)).foldl max 0 + 1, ?_⟩
  have h := findLaunch_arrivedState hl ((s.launches.map (·.arrival)).foldl max 0 + 1)
  rw [arriveLaunch]
  split
  next y hy => rw [← Option.some.inj (h.symm.trans hy)]; rfl
  next hn => cases h.symm.trans hn

theorem noneReserves_arrivedState {s : State} (h : NoneReserves s) (l : Launch) (n : Nat) : NoneReserves (arrivedState s l n) := by
  intro o ho
  obtain ⟨y, hy, rfl⟩ := List.mem_map.1 (show o ∈ s.launches.map _ from ho)
  split <;> exact h y hy

theorem nearRoom_arrivedState {s : State} {l : Launch} (h : NearRoom s l) (n : Nat) :
    NearRoom (arrivedState s l n) (arrivedAt n l) := by
  have hctx : getCtx (arrivedState s l n) l.ctx = { getCtx s l.ctx with
      cmds := (getCtx s l.ctx).cmds.map fun k => if k.seq = l.seq then { k with blocking := true } else k } :=
    getCtx_putCtx ..
  change (getCtx (arrivedState s l n) l.ctx).used.getD 4 0 + _ ≤ (getCtx (arrivedState s l n) l.ctx).quota.getD 4 0
  rw [hctx]
  exact h

/-- A launch that needs nothing but engines and near store arrives at step 4 and is prepared. -/
theorem arriveLaunch_prepares {s : State} {l : Launch} {a : List (Nat × Cand)} (hl : findLaunch s l.ctx l.seq = some l)
    (hsc : l.scales = []) (hst : l.streams = []) (ht : l.tokens = []) (he : l.errs = []) (hno : NoneReserves s) (hq : NearRoom s l)
    (hkeys : (a.map fun p => engKey p.2.1 p.2.2.1).Nodup)
    (ha : placeSlots (partDies s (ctxPart s l.ctx)) (candidates s l (ctxPart s l.ctx) false) l.slots = .ok a) :
    PlacedAndPrepared s (arriveLaunch s l) l.ctx l.seq a := by
  obtain ⟨n, hn⟩ := arriveLaunch_eq hl
  rw [hn]
  refine tryPlace_prepares (l := arrivedAt n l) (findLaunch_arrivedState hl n) hsc hst ht he (nearRoom_arrivedState hq n) hkeys ?_
  rw [candidates_congr hno (noneReserves_arrivedState hno l n) (fun _ _ _ => rfl) rfl l]
  exact ha

/-- Step 3 asks nothing of a launch without bindings and tokens (R169, R448). -/
theorem checkTiers_of_none {s : State} {l : Launch} (hb : l.bindings = []) (ht : l.tokens = []) :
    checkTiers s l = arriveLaunch s l := by
  simp [checkTiers, tierMismatch, remoteDevices, hb, ht]

/-- A fetched launch without an AMAX binding goes on to its tiers where its pages need not be, or are, pinned (R128, R304). -/
theorem doLaunch_checksTiers {s : State} {c q : Nat} {k : Cmd} {l : Launch} (hk : runCmd s c q 1 = some k) (hd : k.denied = none)
    (hl : findLaunch s c q = some l) (hp : l.phase = .fetching) (ha : l.amaxBinding = none)
    (hpin : fldOf Fl.QFE_CTX_ROOT_FAULT_MODE (getCtx s l.ctx).root = 0 ∨ firstUnpinned s l = none) :
    doLaunch c q s = checkTiers s l := by
  simp only [doLaunch, hk, hd, hl, if_pos hp, checkHists, ha, checkPins]
  rcases hpin with h | h
  · rw [if_pos h]
  · rw [h, ite_self]

/-! ### PLACEMENT_RETRY -/

theorem doPlacementRetry_single {s : State} {part : Nat} {l : Launch} (hw : waitingLaunches s part = [l])
    (hl : findLaunch s l.ctx l.seq = some l) : doPlacementRetry part s = tryPlace s l := by
  simp only [doPlacementRetry, hw, List.foldl_cons, List.foldl_nil, hl]

/-- Settles O13: what a launch goes through from step 3 to step 8, each step by what it does where it has nothing to wait for. -/
theorem launchPlacement : Obligations.LaunchPlacement := by
  unfold Obligations.LaunchPlacement
  refine ⟨?launch, ?retry, ?waits, ?tokens, ?reserves, ?never, ?tiers, ?tries, ?charges⟩
  case launch =>
    intro c q k a l s hk hd hl hp ham hfm hb hsc hst ht he hno hq hkeys ha
    obtain ⟨rfl, rfl⟩ := findLaunch_name hl
    have hrun := (doLaunch_checksTiers hk hd hl hp ham (.inl hfm)).trans (checkTiers_of_none hb ht)
    exact ⟨_, congrArg Host.Outcome.next hrun, arriveLaunch_prepares hl hsc hst ht he hno hq hkeys ha⟩
  case retry =>
    rintro _ a l s hw hl rfl hsc hst ht he - hq hkeys ha
    exact ⟨_, congrArg Host.Outcome.next (doPlacementRetry_single hw hl), tryPlace_prepares hl hsc hst ht he hq hkeys ha⟩
  case waits =>
    rintro _ i a l s hw hl rfl hi ha
    exact congrArg Host.Outcome.next ((doPlacementRetry_single hw hl).trans (tryPlace_of_waits hi ha))
  case tokens =>
    intro c q l s u hl hp hu hsc
    obtain ⟨rfl, rfl⟩ := findLaunch_name hl
    obtain ⟨hnames, hmem⟩ := allocTokens_frame hu
    obtain ⟨y, hy, hc, hs, -⟩ := hnames.of_findLaunch hl
    have hrun : doTokenAllocRetry l.ctx l.seq s = prepareLaunch u y := by
      simp only [doTokenAllocRetry, hl, if_pos hp]
      exact allocLaunch_of_counters hu hsc hy
    rw [← hc, ← hs] at hy hrun ⊢
    obtain ⟨hphase, hmem', -⟩ := prepareLaunch_prepared hy
    exact ⟨_, congrArg Host.Outcome.next hrun, hphase, hmem'.trans hmem⟩
  case reserves =>
    intro c q l s hl hp hr
    refine congrArg Host.Outcome.next ?_
    simp only [doReservationTimeout, hl, hp, hr, ne_eq, not_false_eq_true, and_self, if_true]
  case never =>
    intro c q s hr
    refine congrArg Host.Outcome.next ?_
    unfold doReservationTimeout
    split
    · exact if_neg fun h => h.2 hr
    · rfl
  case tiers =>
    intro c q k l s hk hd hl hp ha hpin
    exact congrArg Host.Outcome.next (doLaunch_checksTiers hk hd hl hp ha hpin)
  case tries =>
    intro part l s hw hl
    exact congrArg Host.Outcome.next (doPlacementRetry_single hw hl)
  case charges =>
    rintro _ a xs l y s hw hl rfl ha hx hy
    exact congrArg Host.Outcome.next ((doPlacementRetry_single hw hl).trans (tryPlace_of_places ha hx hy))

end Sys2Proof.Proofs
end

section
/-! What the homes, the caches and the memory controllers leave alone while they carry out a request: everything but main memory,
caches and cores, messages, reports and events (R341 to R361). -/

namespace Sys2Proof.Proofs

open Sys2Proof.Machine Sys2Proof.Safety Sys2Proof.Laws

/-- From one state to another at most main memory with its flaws, the cores with their caches, the messages of coherence, registers,
events and the counter of free values differ. -/
def HomesOnly (s t : State) : Prop :=
  ∃ fresh regs mem poison flaws ceLog cores coh evt, t = { s with
    fresh := fresh, regs := regs, mem := mem, poison := poison, flaws := flaws, ceLog := ceLog, cores := cores, coh := coh, evt := evt }

namespace HomesOnly

theorem refl (s : State) : HomesOnly s s := ⟨_, _, _, _, _, _, _, _, _, rfl⟩

theorem update {s t : State} (h : HomesOnly s t) {fresh regs mem poison flaws ceLog cores coh evt} :
    HomesOnly s { t with
      fresh := fresh, regs := regs, mem := mem, poison := poison, flaws := flaws, ceLog := ceLog, cores := cores, coh := coh,
      evt := evt } := by
  obtain ⟨_, _, _, _, _, _, _, _, _, rfl⟩ := h
  exact ⟨_, _, _, _, _, _, _, _, _, rfl⟩

theorem trans {s t u : State} (h : HomesOnly s t) (h' : HomesOnly t u) : HomesOnly s u := by
  obtain ⟨_, _, _, _, _, _, _, _, _, rfl⟩ := h'
  exact h.update

/-- What looks at none of these is as before. -/
theorem get {α : Type} {s t : State} (h : HomesOnly s t) {f : State → α}
    (hf : ∀ fresh regs mem poison flaws ceLog cores coh evt, f { s with
      fresh := fresh, regs := regs, mem := mem, poison := poison, flaws := flaws, ceLog := ceLog, cores := cores, coh := coh,
      evt := evt } = f s := by intros; rfl) : f t = f s := by
  obtain ⟨_, _, _, _, _, _, _, _, _, rfl⟩ := h
  exact hf ..

theorem ite {s a b : State} {c : Prop} {_ : Decidable c} (ha : HomesOnly s a) (hb : HomesOnly s b) :
    HomesOnly s (if c then a else b) := by
  split
  · exact ha
  · exact hb

theorem foldl {α : Type} {s t : State} {f : State → α → State} {l : List α} (h : HomesOnly s t)
    (hf : ∀ u a, HomesOnly s u → HomesOnly s (f u a)) : HomesOnly s (l.foldl f t) :=
  List.foldlRecOn (motive := HomesOnly s) l f h fun u hu a _ => hf u a hu

/-- The state of an answer that was taken apart. -/
theorem snd {α : Type} {s t : State} {p : α × State} {a : α} (h : HomesOnly s p.2) (e : p = (a, t)) : HomesOnly s t := by
  rw [e] at h
  exact h

variable {s t : State} (hs : HomesOnly s t)
include hs

/-! ### Registers, memory controllers (Machine/Ops.lean, Machine/Memctl.lean) -/

theorem fput {d i : Nat} {f : Fld} {v : Nat} : HomesOnly s (Machine.fput t d i f v) := hs.update

theorem drawBelow {n : Nat} : HomesOnly s (Machine.drawBelow t n).2 := hs.update

theorem modCore {d c : Nat} {f : Core → Core} : HomesOnly s (Machine.modCore t d c f) := hs.update

theorem memPut {a : Nat} {bs : List Byte} : HomesOnly s (Machine.memPut t a bs) := hs.ite hs.update

theorem linePut {line : Nat} {bs : List Byte} : HomesOnly s (Machine.linePut t line bs) := hs.update.memPut

theorem notePoison {line : Nat} : HomesOnly s (Machine.notePoison t line) := by
  unfold Machine.notePoison
  split
  · exact hs
  · split
    · split
      · exact hs.update
      · exact hs
    · split
      · exact hs.update
      · exact hs
    · exact hs

theorem lastError {c : Nat × Bool × Nat} {kind line : Nat} : HomesOnly s (Machine.lastError t c kind line) :=
  hs.update.ite hs.update

theorem memCe {line : Nat} : HomesOnly s (Machine.memCe t line) := by
  have hrate {u : State} {c : Nat × Bool × Nat} (hu : HomesOnly s u) : HomesOnly s (Machine.ceRate u c) := hu.update.ite hu.update
  unfold Machine.memCe
  split
  · exact hs
  · exact hrate hs.fput.lastError

theorem memUe {line : Nat} : HomesOnly s (Machine.memUe t line) := by
  unfold Machine.memUe
  split
  · exact hs.update
  · exact hs.fput.lastError.update

theorem memFetch {line : Nat} {e : Ecc} : HomesOnly s (Machine.memFetch t line e).2.2 := by
  have hecc : HomesOnly s (Machine.memEcc t line e) := by
    unfold Machine.memEcc
    split
    · exact hs.notePoison
    · split
      · exact hs.update
      · exact hs.update.memCe
      · exact hs.update.memUe
  unfold Machine.memFetch
  split
  · exact hs
  · exact hecc

/-! ### Homes and holders (Machine/Coherence.lean) -/

theorem showHome {h : Nat} : HomesOnly s (Machine.showHome t h) := hs.update

theorem setEntry {h line : Nat} {em : Bool} {v : BitVec 6} : HomesOnly s (Machine.setEntry t h line em v) := hs.update

theorem mapHolder {holder line : Nat} {f : CacheLine → Option CacheLine} : HomesOnly s (Machine.mapHolder t holder line f) :=
  hs.update.ite hs.update

theorem cacheVictim {k : CacheKind} {l : List Nat} {line : Nat} : HomesOnly s (Machine.cacheVictim t k l line).2 := by
  unfold Machine.cacheVictim
  dsimp only
  split
  · exact hs
  · exact hs.update

theorem fillL1 {d c line : Nat} {code : Bool} : HomesOnly s (Machine.fillL1 t d c line code) := hs.ite hs.cacheVictim.modCore

theorem putL3 {d : Nat} {c : CacheLine} : HomesOnly s (Machine.putL3 t d c) := hs.cacheVictim.update

theorem putLink {d : Nat} {c : CacheLine} : HomesOnly s (Machine.putLink t d c) := hs.cacheVictim.update

theorem sendResp {m : RespMsg} : HomesOnly s (Machine.sendResp t m) := hs.update

theorem sendData {r : CohReq} {st : Mesi} {poison : Bool} {data : List Byte} : HomesOnly s (Machine.sendData t r st poison data) :=
  hs.update

theorem sendReturn {r : CohReq} {poison : Bool} {data : List Byte} : HomesOnly s (Machine.sendReturn t r poison data) := hs.update

theorem putL2 {d c : Nat} {x : CacheLine} : HomesOnly s (Machine.putL2 t d c x) := by
  unfold Machine.putL2
  dsimp only
  split
  · exact hs.cacheVictim.modCore
  · exact hs.cacheVictim.modCore.sendResp.ite (hs.cacheVictim.modCore.drawBelow.ite hs.cacheVictim.modCore.drawBelow.putL3)

theorem stashPut {target line : Nat} : HomesOnly s (Machine.stashPut t target line) := by
  unfold Machine.stashPut
  split
  · exact hs.putL2
  · exact hs.putL3
  · exact hs.putLink

theorem openTxn {h : Nat} {r : CohReq} : HomesOnly s (Machine.openTxn t h r).1 := by
  have hcount : HomesOnly s (Machine.countServed t h r.code) := hs.fput.ite (hs.fput.ite hs.fput)
  exact hcount.update.foldl fun _ _ hu => hu.update

theorem openEvict {h : Nat} {v : DirEntry} {r : CohReq} : HomesOnly s (Machine.openEvict t h v r) :=
  (hs.fput.fput.ite hs.fput).update.foldl fun _ _ hu => hu.update

theorem finishReq {h : Nat} {y : Txn} : HomesOnly s (Machine.finishReq t h y) := by
  unfold Machine.finishReq
  refine .ite ?_ (.ite ?_ (.ite hs.setEntry.sendData (.ite hs.memFetch.setEntry.sendReturn (.ite ?_ ?_))))
  · exact hs.memFetch.setEntry.sendData.ite (hs.memFetch.setEntry.sendData.ite hs.memFetch.setEntry.sendData)
  · exact hs.memFetch.setEntry.sendData.ite hs.memFetch.setEntry.sendData
  · have hwrite {u : State} {old : List Byte} {p : Bool} (hu : HomesOnly s u) : HomesOnly s (Machine.sendReturn (Machine.linePut u
        y.req.line (mergeMask old y.req.data y.req.mask)) y.req p []) := hu.linePut.sendReturn
    by_cases hm : y.req.mask = BitVec.allOnes 64
    · simp only [hm, if_true]
      rw [← hm]
      exact (hwrite hs.setEntry).ite ((hwrite hs.setEntry).stashPut.setEntry.fput.ite (hwrite hs.setEntry).fput)
    · simp only [hm, if_false]
      exact (hwrite hs.setEntry.memFetch).ite
        ((hwrite hs.setEntry.memFetch).stashPut.setEntry.fput.ite (hwrite hs.setEntry.memFetch).fput)
  · exact hs.setEntry.memFetch.sendReturn.ite hs.setEntry.memFetch.memPut.sendReturn

theorem closeReq {h : Nat} {y : Txn} : HomesOnly s (Machine.closeReq t h y) := hs.update.finishReq

theorem serveReq {h : Nat} {r : CohReq} : HomesOnly s (Machine.serveReq t h r) := by
  unfold Machine.serveReq
  dsimp only
  split
  · split
    · exact hs.openEvict
    · exact hs.update.ite hs.update
  · exact hs.openTxn.closeReq.ite hs.openTxn

theorem arriveReq {h : Nat} {r : CohReq} : HomesOnly s (Machine.arriveReq t h r) :=
  hs.ite (hs.update.ite hs.serveReq.showHome)

omit hs in
theorem serveQueue {s t : State} (hs : HomesOnly s t) {n m k : Nat} : HomesOnly s (Machine.serveQueue n t m k) := by
  unfold Machine.serveQueue
  dsimp only
  split
  · exact hs
  · split
    · exact hs
    · split
      · exact hs
      · exact hs.update.serveReq.serveQueue

theorem serveNext {h line : Nat} : HomesOnly s (Machine.serveNext t h line) := hs.serveQueue.showHome

theorem closeTxn {h : Nat} {y : Txn} : HomesOnly s (Machine.closeTxn t h y) :=
  hs.update.serveReq.serveNext.serveNext.ite hs.closeReq.serveNext

theorem doProbe {holder line : Nat} : HomesOnly s (Machine.doProbe holder line t) := by
  unfold Machine.doProbe
  split
  · exact hs
  · exact hs.update.ite (hs.ite hs.update.mapHolder.sendResp)

theorem answered {h : Nat} {y : Txn} {holder : Nat} {kept : Bool} : HomesOnly s (Machine.answered t h y holder kept) :=
  hs.closeTxn.ite hs.update

theorem wbPut {h line : Nat} {d : List Byte} : HomesOnly s (Machine.wbPut t h line d) := hs.fput.ite hs.fput.linePut

theorem recallPut {h : Nat} {y : Txn} {line : Nat} {d : List Byte} : HomesOnly s (Machine.recallPut t h y line d) := hs.ite hs.wbPut

theorem takeResp {m : RespMsg} : HomesOnly s (Machine.takeResp t m) := by
  unfold Machine.takeResp
  dsimp only
  split
  · exact hs.update
  · split
    · exact hs.update.wbPut
    · exact (hs.update.wbPut.ite hs.update.wbPut.setEntry).ite hs.update
    · exact hs.update.recallPut.answered
    · exact hs.update
    · exact hs.update.answered
    · exact hs.update
    · exact hs.update.answered
    · exact hs.update

omit hs in
theorem settleReq {s t : State} (hs : HomesOnly s t) {n m k : Nat} : HomesOnly s (Machine.settleReq n t m k) := by
  unfold Machine.settleReq
  dsimp only
  split
  · exact hs
  · split
    · exact hs.doProbe.settleReq
    · split
      · exact hs.takeResp.showHome.settleReq
      · exact hs

/-! ### Cores (Machine/CoreMem.lean) -/

theorem loadError {d c kind addr : Nat} : HomesOnly s (Machine.loadError t d c kind addr) := hs.update

theorem storeErr {d c kind addr : Nat} : HomesOnly s (Machine.storeErr t d c kind addr) := hs.update.ite hs.update

theorem takeData {d c : Nat} {m : DataMsg} : HomesOnly s (Machine.takeData t d c m).2 := by
  have hinstall {u : State} (hu : HomesOnly s u) : HomesOnly s (Machine.installLine u d c m) := (hu.mapHolder.ite hu).putL2
  unfold Machine.takeData
  split
  · exact hs.update
  · exact hinstall hs.update

theorem acquire {d c line : Nat} {own : Bool} : HomesOnly s (Machine.acquire t d c line own).2 := by
  have hfill {u : State} (hu : Machine.l3Fill t d c line own = some u) : HomesOnly s u := by
    unfold Machine.l3Fill at hu
    split at hu
    · cases hu
    · split at hu
      · cases hu
      · rw [← Option.some.inj hu]
        exact hs.update.putL2
  unfold Machine.acquire
  dsimp only
  split
  · exact hs
  · split
    · exact hfill ‹_›
    · split
      · exact hs
      · split
        · exact hs.arriveReq.settleReq.takeData
        · exact hs.arriveReq.settleReq

theorem writeL2 {d c a : Nat} {bs : List Byte} : HomesOnly s (Machine.writeL2 t d c a bs) := by
  unfold Machine.writeL2
  split
  · exact hs
  · exact hs.putL2.fillL1

theorem performStore {d c : Nat} {b : BufStore} : HomesOnly s (Machine.performStore t d c b).2 := by
  unfold Machine.performStore
  split
  · exact hs.storeErr
  · split
    · exact (hs.acquire.snd ‹_›).writeL2
    · exact (hs.acquire.snd ‹_›).storeErr
    · exact (hs.acquire.snd ‹_›).update

omit hs in
theorem drainList {s t : State} (hs : HomesOnly s t) {p : BufStore → Bool} {l : List BufStore} {n m : Nat} :
    HomesOnly s (Machine.drainList p l t n m).2 := by
  unfold Machine.drainList
  dsimp only
  split
  · exact hs
  · split
    · exact hs.drainList
    · split <;> exact hs.performStore.drainList

theorem drainStores {d c : Nat} {p : BufStore → Bool} : HomesOnly s (Machine.drainStores t d c p) := by
  unfold Machine.drainStores
  exact hs.drainList.modCore

theorem bindLine {d c a n : Nat} {own : BitVec 64 × List Byte} : HomesOnly s (Machine.bindLine t d c a n own) := by
  unfold Machine.bindLine
  split
  · exact hs.fillL1.update
  · exact hs

theorem deliver {d c line : Nat} : HomesOnly s (Machine.deliver t d c line) := by
  unfold Machine.deliver
  split
  · split
    · exact hs
    · refine .ite (.ite ?_ (storeErr (modCore ?_))) (.ite ?_ (drainStores (update ?_))) <;>
        exact hs.takeData.modCore.foldl fun _ _ hu => hu.ite (hu.loadError.ite hu.bindLine)
  · split
    · exact hs
    · exact hs.update.ite hs.update.putLink

omit hs in
theorem settleLine {s t : State} (hs : HomesOnly s t) {n m : Nat} : HomesOnly s (Machine.settleLine n t m) := by
  unfold Machine.settleLine
  dsimp only
  split
  · exact hs
  · split
    · exact hs.doProbe.settleLine
    · split
      · exact hs.takeResp.showHome.settleLine
      · split
        · exact (hs.deliver.ite hs.deliver).settleLine
        · split
          · exact hs.takeResp.showHome.settleLine
          · exact hs

/-! ### Requests of agents that hold no lines, and records -/

theorem ncReq {r : CohReq} : HomesOnly s (Machine.ncReq t r).2 := by
  unfold Machine.ncReq
  dsimp only
  split
  · split
    · exact hs.settleLine.arriveReq.settleLine.update
    · exact hs.settleLine.arriveReq.settleLine
  · exact hs.settleLine.arriveReq.settleLine

theorem ncWrite {a : Nat} {bs : List Byte} : HomesOnly s (Machine.ncWrite t a bs).2 :=
  List.foldlRecOn (motive := fun p : Bool × State => HomesOnly s p.2) _ _ hs fun _ hp _ _ => hp.ncReq

theorem recWrite {a : Nat} {bs : List Byte} : HomesOnly s (Machine.recWrite t a bs) := hs.ncReq

theorem recStash {die a : Nat} {bs : List Byte} : HomesOnly s (Machine.recStash t die a bs) := hs.ncReq

theorem traceLaunch {c q src : Nat} : HomesOnly s (Machine.traceLaunch t c q src) :=
  hs.ite (hs.recWrite.update.ite hs.recWrite.update)

end HomesOnly
end Sys2Proof.Proofs
end

section
/-! LAUNCH_START and LAUNCH_ERROR: how a launch starts, and how the first error ends it (R129, R136, R152). -/

namespace Sys2Proof.Proofs

open Sys2Proof.Machine Sys2Proof.Safety Sys2Proof.Laws

/-! ### What breaking off moves keeps -/

/-- How a launch stands: its phase, its status and detail, and its slots. -/
def standing (l : Launch) : Phase × Nat × BitVec 64 × List Slot := (l.phase, l.status, l.detail, l.slots)

/-- What breaking off the moves of a launch keeps: every context, and how every launch stands. -/
structure Cancels (s t : State) : Prop where
  ctxs : t.ctxs = s.ctxs
  launches : SameLaunches standing s t

namespace Cancels

theorem refl (s : State) : Cancels s s := ⟨rfl, rfl⟩

variable {s t : State} (hs : Cancels s t)

include hs in
/-- A change of anything but contexts and launches. -/
theorem update {pending time fresh regs fuses rowFuses rowMap mem near ostore poison flaws failedPcs ceLog scrubFrom recals cores vecs
    irqOut engines rdc tok rrNext mediaQ regions xlat coh links parcels net power persist rst pins uart0 sec evt jtag ddr} :
    Cancels s ⟨pending, time, fresh, regs, fuses, rowFuses, rowMap, mem, near, ostore, poison, flaws, failedPcs, ceLog, scrubFrom,
      recals, cores, vecs, irqOut, engines, rdc, tok, t.launches, t.ctxs, rrNext, mediaQ, regions, xlat, coh, links, parcels, net,
      power, persist, rst, pins, uart0, sec, evt, jtag, ddr⟩ :=
  ⟨hs.ctxs, hs.launches⟩

include hs in
theorem ite {u : State} {c : Prop} {_ : Decidable c} (hu : Cancels s u) : Cancels s (if c then t else u) := by
  split
  · exact hs
  · exact hu

theorem foldl {α : Type} {f : State → α → State} {l : List α} (h : Cancels s t) (hf : ∀ u a, Cancels s u → Cancels s (f u a)) :
    Cancels s (l.foldl f t) :=
  List.foldlRecOn (motive := Cancels s) l f h fun u hu a _ => hf u a hu

include hs

theorem homes {u : State} (h : HomesOnly t u) : Cancels s u := by
  obtain ⟨_, _, _, _, _, _, _, _, _, rfl⟩ := h
  exact hs.update

theorem regsPower {u : State} (h : RegsPower t u) : Cancels s u := by
  obtain ⟨_, _, rfl⟩ := h
  exact hs.update

theorem modLaunch {c q : Nat} {f : Launch → Launch} (hf : ∀ l, (f l).ctx = l.ctx ∧ (f l).seq = l.seq ∧ standing (f l) = standing l) :
    Cancels s (Machine.modLaunch t c q f) :=
  ⟨hs.ctxs, hs.launches.modLaunch c q hf⟩

theorem observeReq {r : Requester} : Cancels s (Machine.observeReq t r) := by
  have hobs {a : Agent} {c q : Nat} {may : Fog → Bool} : Cancels s (observe t a c q may) := by
    unfold observe
    split
    · exact hs
    · dsimp only
      split
      · exact hs
      · exact hs.update.modLaunch fun _ => ⟨rfl, rfl, rfl⟩
  unfold Machine.observeReq
  split
  · exact hobs
  · exact hs
  · exact hs
  · exact hs

/-- Noting a write changes only which writes of its launch are not settled. -/
theorem noteWrite {r : Requester} {tag : Nat} {l : Loc} {n : Nat} : Cancels s (Machine.noteWrite t r tag l n) := by
  unfold Machine.noteWrite
  split
  · refine hs.modLaunch fun l => ?_
    exact List.foldlRecOn (motive := fun m : Launch => m.ctx = l.ctx ∧ m.seq = l.seq ∧ standing m = standing l) _ _
      ⟨rfl, rfl, rfl⟩ fun _ hm _ _ => hm
  · exact hs.modLaunch fun _ => ⟨rfl, rfl, rfl⟩
  · exact hs

theorem fabricRequest {u : State} {kind dev addr : Nat} {arg : BitVec 64} {r : Requester} {bs : List Byte} {x : BitVec 64}
    (hu : Machine.fabricRequest t kind dev addr arg r bs x = some u) : Cancels s u := by
  have hleave {v : State} {p : Nat} (hv : Cancels s v) : Cancels s (hopLeave v p) := by
    unfold hopLeave
    dsimp only
    split
    · exact hv
    · exact hv.update
  have hsend {p : Nat} {f : Frame} : Cancels s (hopSend t p kind f) := hs.update.ite (hs.update.ite (hleave hs.update))
  obtain ⟨v, hv, rfl⟩ := Option.map_eq_some_iff.1 hu
  obtain ⟨w, -, hw⟩ := Option.bind_eq_some_iff.1 hv
  dsimp only at hw
  split at hw
  · rw [← Option.some.inj hw]
    exact hsend.update
  · cases hw

theorem putLine {r : Requester} {tag : Nat} {x : Loc × List Flagged} : Cancels s (Machine.putLine t r tag x).2 := by
  unfold Machine.putLine
  split
  · exact hs.noteWrite.update.ite hs.noteWrite.update
  · exact hs.noteWrite.homes (.ncWrite (.refl _))
  · unfold remoteWrite
    split
    · exact hs
    · split
      · exact hs.fabricRequest ‹_›
      · exact hs
  · exact hs

theorem cancelJob {r : Requester} {c : Nat} {j : Job} {blk : List (Loc × Nat)} : Cancels s (Machine.cancelJob t r c j blk).2 := by
  have hsome {u : State} {ls : List (Loc × List Flagged)} (hu : Cancels s u) : Cancels s (putSome u r j.tag ls).2 := by
    refine List.foldlRecOn (motive := fun p : List Loc × State => Cancels s p.2) _ _ hu fun p hp x _ => ?_
    dsimp only
    split
    · exact hp.update.putLine
    · exact hp.update
  unfold Machine.cancelJob
  dsimp only
  split
  · exact (hsome hs.observeReq).update
  · exact hs.observeReq.update

omit hs in
theorem breakMoves {r : Requester} {l : Launch} {p : Move → Bool} {ms : List Move} {blk : List (Loc × Nat)} {s t : State}
    (hs : Cancels s t) : Cancels s (Machine.breakMoves r l p ms blk t) := by
  induction ms generalizing t blk with
  | nil => exact hs
  | cons m rest ih =>
    unfold Machine.breakMoves
    dsimp only
    split
    · exact ih hs.cancelJob
    · exact ih hs

theorem withdraw {p : Requester → Bool} : Cancels s (Machine.withdraw t p) :=
  hs.update.foldl fun _ _ hu => hu.homes (.recStash (.refl _))

theorem cancelMoves {h f c : Nat} {l : Launch} {i : Nat} {x : Machine.Stream} {p : Move → Bool} {blk : List (Loc × Nat)} :
    Cancels s (Machine.cancelMoves t h f c l i x p blk) := by
  have hstream {u : State} {g : Machine.Stream → Machine.Stream} (hu : Cancels s u) : Cancels s (modStream u l.ctx l.seq i g) :=
    hu.modLaunch fun _ => ⟨rfl, rfl, rfl⟩
  have hbroken := hs.breakMoves (r := streamReq h f c l) (l := l) (p := p) (ms := x.window) (blk := blk)
  unfold Machine.cancelMoves
  dsimp only
  refine (hstream ?_).regsPower (showFinders_regsPower ..)
  exact (hbroken.withdraw.ite hbroken).update

theorem cancelLaunch {c q : Nat} : Cancels s (Machine.cancelLaunch t c q) := by
  unfold Machine.cancelLaunch
  split
  · exact hs
  · refine hs.foldl fun _ _ hu => ?_
    split
    · exact hu.cancelMoves
    · exact hu

theorem dropWaits {l : Launch} : Cancels s (Machine.dropWaits t l) := hs.foldl fun _ _ hu => hu.update

theorem dropRegions {l : Launch} : Cancels s (Machine.dropRegions t l) := by
  refine hs.foldl fun u _ hu => ?_
  split
  · exact hu
  · exact hu.update.regsPower (dropRegion_regsPower ..)
  · exact hu

end Cancels

/-! ### LAUNCH_ERROR -/

/-- A launch that its first error has ended (R152). -/
def endedBy (st : Nat) (d : BitVec 64) (y : Launch) : Launch :=
  { y with
    phase := .ended
    status := st
    detail := d
    slots := y.slots.map stopSlot
    streams := y.streams.map fun x => { x with hold := .stopped, inbox := [] } }

/-- After the launch has ended, its moves break off and nothing of it waits any more; neither concerns how the launch stands. -/
theorem doLaunchError_cancels {s : State} {c q st : Nat} {d : BitVec 64} {r : List (Nat × BitVec 64)} {l : Launch}
    (hl : findLaunch s c q = some l) (hp : l.phase = .running) (he : l.errs = (st, d) :: r) :
    Cancels (modLaunch s c q (endedBy st d)) (doLaunchError c q s) := by
  simp only [doLaunchError, hl, hp, he]
  exact (Cancels.refl _).cancelLaunch.withdraw.dropWaits.dropRegions

theorem doLaunchError_of_ended {s : State} {c q : Nat} {l : Launch} (hl : findLaunch s c q = some l) (hp : l.phase = .ended) :
    doLaunchError c q s = s := by
  simp only [doLaunchError, hl, hp]

/-! ### LAUNCH_START -/

/-- A launch that runs under a translation root (R126). -/
def runningUnder (root : BitVec 64) (y : Launch) : Launch := { y with phase := .running, root := root }

theorem startLaunch_homesOnly (s : State) (l : Launch) :
    HomesOnly (modLaunch s l.ctx l.seq (runningUnder (getCtx s l.ctx).root)) (startLaunch s l) :=
  (HomesOnly.refl _).traceLaunch

/-- A launch that is not being prepared does not start. -/
theorem doLaunchStart_of_phase {s : State} {c q : Nat} {l : Launch} (hl : findLaunch s c q = some l) (hp : l.phase ≠ .preparing) :
    doLaunchStart c q s = s := by
  simp only [doLaunchStart, hl, if_pos hp]

theorem doLaunchStart_of_none {s : State} {c q : Nat} {l : Launch} (hl : findLaunch s c q = some l) (hp : l.phase = .preparing)
    (hd : (getCmd s c q).bind (·.denied) = none) (hr : l.reportBinding = none) : doLaunchStart c q s = startLaunch s l := by
  simp only [doLaunchStart, hl, hp, hd, hr, ne_eq, not_true_eq_false, if_false]

/-- A placement report that can be written is written before the launch starts (R136). -/
theorem doLaunchStart_of_report {s : State} {c q b : Nat} {l : Launch} (hl : findLaunch s c q = some l) (hp : l.phase = .preparing)
    (hd : (getCmd s c q).bind (·.denied) = none) (hr : l.reportBinding = some b)
    (hw : (writeVa s (.cmd c q) c (bindAt l b).va (reportBytes s l)).1 = .ok ()) :
    doLaunchStart c q s = startLaunch (writeVa s (.cmd c q) c (bindAt l b).va (reportBytes s l)).2 l := by
  have hpair : writeVa s (.cmd c q) c (bindAt l b).va (reportBytes s l) =
      (.ok (), (writeVa s (.cmd c q) c (bindAt l b).va (reportBytes s l)).2) := Prod.ext hw rfl
  simp only [doLaunchStart, hl, hp, hd, hr, ne_eq, not_true_eq_false, if_false]
  rw [hpair]

end Sys2Proof.Proofs
end

section
/-! LAUNCH_END: what the end of a launch releases, and its completion (R111, R123, R155, R156). -/

namespace Sys2Proof.Proofs

open Sys2Proof.Machine Sys2Proof.Safety Sys2Proof.Laws

/-! ### What the end of a launch keeps -/

/-- What releasing a launch keeps: the commands of every context and how many completion records it has, the scale slots of every
launch, and that an engine holds no slot. -/
structure Releases (s t : State) : Prop where
  cmds : ∀ c, (getCtx t c).cmds = (getCtx s c).cmds
  cplTail : ∀ c, (getCtx t c).cplTail = (getCtx s c).cplTail
  launches : SameLaunches (·.scales) s t
  freed : ∀ d e, (getEng s d e).placed = none → (getEng t d e).placed = none

namespace Releases

theorem refl (s : State) : Releases s s := ⟨fun _ => rfl, fun _ => rfl, rfl, fun _ _ => id⟩

theorem trans {s t u : State} (h : Releases s t) (h' : Releases t u) : Releases s u :=
  ⟨fun c => (h'.cmds c).trans (h.cmds c), fun c => (h'.cplTail c).trans (h.cplTail c), h.launches.trans h'.launches,
    fun d e => h'.freed d e ∘ h.freed d e⟩

variable {s t : State} (hs : Releases s t)

theorem foldl {α : Type} {f : State → α → State} {l : List α} (h : Releases s t) (hf : ∀ u a, Releases s u → Releases s (f u a)) :
    Releases s (l.foldl f t) :=
  List.foldlRecOn (motive := Releases s) l f h fun u hu a _ => hf u a hu

include hs

/-- A change of anything but contexts, launches and engines. -/
theorem update {pending time fresh regs fuses rowFuses rowMap mem near ostore poison flaws failedPcs ceLog scrubFrom recals cores vecs
    irqOut rdc tok rrNext mediaQ regions xlat coh links parcels net power persist rst pins uart0 sec evt jtag ddr} :
    Releases s ⟨pending, time, fresh, regs, fuses, rowFuses, rowMap, mem, near, ostore, poison, flaws, failedPcs, ceLog, scrubFrom,
      recals, cores, vecs, irqOut, t.engines, rdc, tok, t.launches, t.ctxs, rrNext, mediaQ, regions, xlat, coh, links, parcels, net,
      power, persist, rst, pins, uart0, sec, evt, jtag, ddr⟩ :=
  ⟨hs.cmds, hs.cplTail, hs.launches, hs.freed⟩

theorem ite {u : State} {c : Prop} {_ : Decidable c} (hu : Releases s u) : Releases s (if c then t else u) := by
  split
  · exact hs
  · exact hu

theorem homes {u : State} (h : HomesOnly t u) : Releases s u := by
  obtain ⟨_, _, _, _, _, _, _, _, _, rfl⟩ := h
  exact hs.update

theorem regsPower {u : State} (h : RegsPower t u) : Releases s u := by
  obtain ⟨_, _, rfl⟩ := h
  exact hs.update

theorem modLaunch {c q : Nat} {f : Launch → Launch} (hf : ∀ l, (f l).ctx = l.ctx ∧ (f l).seq = l.seq ∧ (f l).scales = l.scales) :
    Releases s (Machine.modLaunch t c q f) :=
  ⟨hs.cmds, hs.cplTail, hs.launches.modLaunch c q hf, hs.freed⟩

/-- A change of a context beside its commands and its count of records. -/
theorem putCtx {c : Nat} {x : Ctx} (hc : x.cmds = (getCtx t c).cmds) (hn : x.cplTail = (getCtx t c).cplTail) :
    Releases s (Machine.putCtx t c x) := by
  refine ⟨fun e => ?_, fun e => ?_, hs.launches, hs.freed⟩
  · by_cases h : e = c
    · rw [h, getCtx_putCtx, hc, hs.cmds]
    · rw [getCtx_putCtx_ne _ _ _ _ h, hs.cmds]
  · by_cases h : e = c
    · rw [h, getCtx_putCtx, hn, hs.cplTail]
    · rw [getCtx_putCtx_ne _ _ _ _ h, hs.cplTail]

/-! ### Releasing units -/

theorem freeEngine {d e : Nat} : Releases s (Machine.freeEngine t d e) := by
  have hfreed (d' e' : Nat) (h : (getEng t d' e').placed = none) :
      (getEng (modEng t d e fun y => { y with placed := none, phase := none, announced := none, region := none, keptROut := [] })
        d' e').placed = none := by
    rw [getEng_modEng_eq]
    split
    · rfl
    · exact h
  have hmod : Releases s (modEng t d e fun y =>
      { y with placed := none, phase := none, announced := none, region := none, keptROut := [] }) :=
    hs.trans ⟨fun _ => rfl, fun _ => rfl, rfl, hfreed⟩
  unfold Machine.freeEngine dropWants
  exact hmod.update.update.ite hmod.update

theorem refund {c tier n : Nat} : Releases s (Machine.refund t c tier n) := hs.putCtx rfl rfl

theorem withdraw {p : Requester → Bool} : Releases s (Machine.withdraw t p) :=
  hs.update.foldl fun _ _ hu => hu.homes (.recStash (.refl _))

theorem reserveUnits {part : Nat} {engs : List Cand} {strs : List (Nat × Nat × Nat)} :
    Releases s (Machine.reserveUnits t part engs strs) := by
  refine ⟨hs.cmds, hs.cplTail, hs.launches.trans ?_, hs.freed⟩
  rw [SameLaunches, Machine.reserveUnits, List.map_map]
  refine List.map_congr_left fun l _ => ?_
  simp only [Function.comp_apply]
  split <;> rfl

end Releases

/-- The engines of a launch, as its end releases them. -/
def engineList (s : State) (l : Launch) : List Cand :=
  l.slots.filterMap fun x => x.at_.map fun a => (a.1, a.2, fget s a.1 a.2 Fl.ENG_WIDTH_PRESENTED_WIDTH)

/-- A released engine holds no slot. -/
theorem freeEngine_placed (s : State) (d e : Nat) : (getEng (freeEngine s d e) d e).placed = none := by
  have h := getEng_modEng s d e fun y => { y with placed := none, phase := none, announced := none, region := none, keptROut := [] }
  unfold freeEngine dropWants
  dsimp only
  split <;> exact congrArg Engine.placed h

theorem freeEngines_placed {s : State} {xs : List Cand} {d e w : Nat} (hx : (d, e, w) ∈ xs) :
    (getEng (xs.foldl (fun s x => freeEngine s x.1 x.2.1) s) d e).placed = none := by
  induction xs generalizing s with
  | nil => cases hx
  | cons y r ih =>
    rcases List.mem_cons.1 hx with rfl | hx
    · exact (Releases.foldl (.refl (freeEngine s d e)) fun _ _ hu => hu.freeEngine).freed d e (freeEngine_placed s d e)
    · exact ih hx

/-- Every engine that a launch releases holds no slot. -/
theorem engineList_freed {s : State} {l : Launch} {x : Slot} {p : Nat × Nat} (hx : x ∈ l.slots) (hp : x.at_ = some p) :
    (getEng ((engineList s l).foldl (fun s x => freeEngine s x.1 x.2.1) s) p.1 p.2).placed = none := by
  have hmem : (p.1, p.2, fget s p.1 p.2 Fl.ENG_WIDTH_PRESENTED_WIDTH) ∈ engineList s l :=
    List.mem_filterMap.2 ⟨x, hx, by rw [hp, Option.map_some]⟩
  exact freeEngines_placed hmem

/-- After its engines, a launch releases the rest (R129, R155). -/
theorem releaseUnits_releases (s : State) (l : Launch) :
    Releases ((engineList s l).foldl (fun s x => freeEngine s x.1 x.2.1) s) (releaseUnits s l) := by
  set w := (engineList s l).foldl (fun s x => freeEngine s x.1 x.2.1) s
  have hlends : Releases w (returnLends w l) := Releases.foldl (.refl w) fun _ _ hu => hu.update
  have htokens : Releases w (freeTokens (returnLends w l) l) := hlends.foldl fun _ _ hu => hu.update
  unfold releaseUnits
  refine .regsPower (.reserveUnits (.withdraw (.update (.modLaunch (.ite htokens.refund htokens) ?_)))) (showPartFinders_regsPower ..)
  exact fun _ => ⟨rfl, rfl, rfl⟩

/-! ### Commands and completion -/

theorem findCmd_congr {x y : Ctx} (h : x.cmds = y.cmds) (q : Nat) : findCmd x q = findCmd y q := by rw [findCmd, findCmd, h]

theorem Releases.getCmd {s t : State} (h : Releases s t) (c q : Nat) : getCmd t c q = getCmd s c q := findCmd_congr (h.cmds c) q

/-- A changed command is found under its number. -/
theorem getCmd_modCmd {s : State} {c q : Nat} {f : Cmd → Cmd} (hf : ∀ k, (f k).seq = k.seq) {k : Cmd} (hk : getCmd s c q = some k) :
    getCmd (modCmd s c q f) c q = some (f k) := by
  have hseq : k.seq = q := by simpa using List.find?_some hk
  have hkey (y : Cmd) : (if y.seq = q then f y else y).seq = y.seq := by split <;> simp [hf]
  rw [getCmd, modCmd, modCtx, getCtx_putCtx]
  simp only [findCmd, List.find?_map, Function.comp_def, hkey]
  rw [show (getCtx s c).cmds.find? (fun y => y.seq == q) = some k from hk, Option.map_some, if_pos hseq]

/-- An event changes of its context only the event ring and what it dropped. -/
theorem ctxEvent_releases (s : State) (c code sev : Nat) (x : BitVec 128) : Releases s (ctxEvent s c code sev x) := by
  have hrec (a : Nat) (b : List Byte) : HomesOnly s (recStash s (ctxHub c) a b) := .recStash (.refl s)
  have hctx (a : Nat) (b : List Byte) : getCtx (recStash s (ctxHub c) a b) c = getCtx s c := (hrec a b).get (f := (getCtx · c))
  have htail {a : Nat} {b : List Byte} {n : Nat} :
      Releases s (putCtx (recStash s (ctxHub c) a b) c { getCtx s c with evtTail := n }) :=
    ((Releases.refl s).homes (hrec a b)).putCtx (congrArg Ctx.cmds (hctx a b)).symm (congrArg Ctx.cplTail (hctx a b)).symm
  unfold ctxEvent
  dsimp only
  split
  · exact (Releases.refl s).putCtx rfl rfl
  · split
    · exact htail.update
    · exact htail

theorem cplRecord_releases (s : State) (c : Nat) (x : Ctx) (b : List Byte) : Releases s (cplRecord s c x b) := by
  unfold cplRecord
  split
  · exact ctxEvent_releases ..
  · exact (Releases.refl s).homes (.recStash (.refl s))

theorem settleCtx_frame (x : Ctx) : (settleCtx x).cmds = x.cmds ∧ (settleCtx x).cplTail = x.cplTail := by
  unfold settleCtx
  split <;> exact ⟨rfl, rfl⟩

/-- A context after one of its commands has completed. -/
def withoutCmd (q : Nat) (y : Ctx) : Ctx :=
  settleCtx { y with cplTail := (y.cplTail + 1) % 2 ^ 32, cmds := y.cmds.filter fun k => k.seq != q }

/-- Completing a command writes a record or reports that it cannot, and takes the command out of its context. -/
theorem complete_eq {s : State} {c q : Nat} {k : Cmd} (hk : getCmd s c q = some k) (status : Nat) (detail : BitVec 64) :
    ∃ u irqs, Releases s u ∧ complete s c q status detail = { modCtx u c (withoutCmd q) with irqOut := irqs } := by
  have hrec := cplRecord_releases s c (getCtx s c)
    (completionBytes (handleOf c q) status (b2n (k.desc.flags.getLsbD 0) + 4 * b2n k.events) s.time.toNat detail)
  simp only [complete, hk]
  split
  · exact ⟨_, _, hrec, rfl⟩
  · exact ⟨_, _, hrec, rfl⟩

/-! ### The end -/

/-- What has come of a launch that has ended: it and its command are gone, with one more completion record, and released engines
stay so. -/
structure Ended (s t : State) (c q : Nat) : Prop where
  launch : findLaunch t c q = none
  cmd : getCmd t c q = none
  cplTail : (getCtx t c).cplTail = ((getCtx s c).cplTail + 1) % 2 ^ 32
  freed : ∀ d e, (getEng s d e).placed = none → (getEng t d e).placed = none

theorem finishLaunch_ended {s : State} {l : Launch} {k : Cmd} (hk : getCmd s l.ctx l.seq = some k) :
    Ended s (finishLaunch s l) l.ctx l.seq := by
  obtain ⟨u, irqs, hu, hcomplete⟩ := complete_eq (s := forgetLaunch s l.ctx l.seq) hk l.status l.detail
  have hlast : HomesOnly (complete (forgetLaunch s l.ctx l.seq) l.ctx l.seq l.status l.detail) (finishLaunch s l) :=
    (HomesOnly.refl _).traceLaunch
  rw [hcomplete] at hlast
  have hctx : getCtx (finishLaunch s l) l.ctx = withoutCmd l.seq (getCtx u l.ctx) :=
    (hlast.get (f := (getCtx · l.ctx))).trans (getCtx_putCtx ..)
  obtain ⟨hcmds, htail⟩ := settleCtx_frame { getCtx u l.ctx with
    cplTail := ((getCtx u l.ctx).cplTail + 1) % 2 ^ 32, cmds := (getCtx u l.ctx).cmds.filter fun k => k.seq != l.seq }
  refine ⟨?_, ?_, ?_, fun d e h => ?_⟩
  · have hgone : findLaunch (forgetLaunch s l.ctx l.seq) l.ctx l.seq = none :=
      List.find?_eq_none.2 fun o ho => by simpa only [Bool.not_eq_true', Bool.not_eq_true] using (List.mem_filter.1 ho).2
    have hmap := hu.launches.findLaunch l.ctx l.seq
    rw [hgone, Option.map_none, Option.map_eq_none_iff] at hmap
    exact (hlast.get (f := (findLaunch · l.ctx l.seq))).trans hmap
  · rw [getCmd, hctx, findCmd, withoutCmd, hcmds]
    simp
  · rw [hctx, withoutCmd, htail]
    exact congrArg (fun n => (n + 1) % 2 ^ 32) (hu.cplTail l.ctx)
  · exact (congrArg Engine.placed (hlast.get (f := (getEng · d e)))).trans (hu.freed d e h)

/-- While the last record has been written, what is left is the completion. -/
theorem recordSteps_of_done {s : State} {c q n : Nat} {l : Launch} (hl : findLaunch s c q = some l)
    (hd : l.scales.length ≤ l.recDone) : recordSteps c q (n + 1) s = finishLaunch s l := by
  simp only [recordSteps, hl, List.getElem?_eq_none hd]

theorem mayEnd_not_recording {s : State} {l : Launch} (h : mayEnd s l = true) : l.phase ≠ .recording := by
  intro hp
  simp [mayEnd, hp] at h

theorem doLaunchEnd_of_mayEnd {s : State} {c q : Nat} {l : Launch} (hl : findLaunch s c q = some l) (hm : mayEnd s l = true) :
    doLaunchEnd c q s = recordSteps c q (l.scales.length + 1) (beginRecords s l) := by
  simp only [doLaunchEnd, hl, if_neg (mayEnd_not_recording hm), hm, if_true]

theorem doLaunchEnd_of_recording {s : State} {c q : Nat} {l : Launch} (hl : findLaunch s c q = some l) (hp : l.phase = .recording) :
    doLaunchEnd c q s = recordSteps c q (l.scales.length + 1) s := by
  simp only [doLaunchEnd, hl, if_pos hp]

theorem doLaunchEnd_of_not_mayEnd {s : State} {c q : Nat} {l : Launch} (hl : findLaunch s c q = some l) (hm : mayEnd s l = false)
    (hp : l.phase ≠ .recording) : doLaunchEnd c q s = s := by
  simp only [doLaunchEnd, hl, if_neg hp, hm, Bool.false_eq_true, if_false]

/-- A command that nothing holds back any more. -/
def unheld (k : Cmd) : Cmd := { k with denied := none, stalled := none }

theorem beginRecords_eq (s : State) (l : Launch) : ∃ r : Launch → Launch,
    beginRecords s l = modLaunch (modCmd (releaseUnits s l) l.ctx l.seq unheld) l.ctx l.seq r ∧
      ∀ y, (r y).ctx = y.ctx ∧ (r y).seq = y.seq ∧ (r y).scales = y.scales :=
  ⟨_, rfl, fun _ => ⟨rfl, rfl, rfl⟩⟩

/-- Before its records, a launch has released its units, and its command has nothing left to wait for. -/
theorem beginRecords_releases {s : State} {l : Launch} {k : Cmd} (hl : findLaunch s l.ctx l.seq = some l)
    (hk : getCmd s l.ctx l.seq = some k) :
    (∃ y, findLaunch (beginRecords s l) l.ctx l.seq = some y ∧ y.ctx = l.ctx ∧ y.seq = l.seq ∧ y.scales = l.scales) ∧
      getCmd (beginRecords s l) l.ctx l.seq = some (unheld k) ∧
      (getCtx (beginRecords s l) l.ctx).cplTail = (getCtx s l.ctx).cplTail ∧
      ∀ x ∈ l.slots, ∀ p ∈ x.at_, (getEng (beginRecords s l) p.1 p.2).placed = none := by
  have hfree : Releases s ((engineList s l).foldl (fun s x => freeEngine s x.1 x.2.1) s) :=
    Releases.foldl (.refl s) fun _ _ hu => hu.freeEngine
  have hrel := releaseUnits_releases s l
  obtain ⟨r, hbegin, hr⟩ := beginRecords_eq s l
  rw [hbegin]
  generalize releaseUnits s l = u at hrel ⊢
  have hall := hfree.trans hrel
  have hcmd : getCmd (modCmd u l.ctx l.seq unheld) l.ctx l.seq = some (unheld k) :=
    getCmd_modCmd (f := unheld) (fun _ => rfl) ((hall.getCmd ..).trans hk)
  have htail : (getCtx (modCmd u l.ctx l.seq unheld) l.ctx).cplTail = (getCtx s l.ctx).cplTail := by
    rw [modCmd, modCtx, getCtx_putCtx]
    exact hall.cplTail l.ctx
  have hlaunches : SameLaunches (·.scales) s (modCmd u l.ctx l.seq unheld) := hall.launches
  have hfreed (x : Slot) (hx : x ∈ l.slots) (p : Nat × Nat) (hp : p ∈ x.at_) :
      (getEng (modLaunch (modCmd u l.ctx l.seq unheld) l.ctx l.seq r) p.1 p.2).placed = none :=
    hrel.freed p.1 p.2 (engineList_freed hx hp)
  exact ⟨(hlaunches.modLaunch l.ctx l.seq hr).of_findLaunch hl, hcmd, htail, hfreed⟩

/-- Settles O14: how a launch starts, what its first error makes of it, and what its end releases. -/
theorem launchStartsErrsAndEnds : Obligations.LaunchStartsErrsAndEnds := by
  unfold Obligations.LaunchStartsErrsAndEnds
  refine ⟨?starts, ?stays, ?errs, ?hasEnded, ?ends, ?waits, ?reports, ?records, ?finishes⟩
  case starts =>
    intro c q l s hl hp hr hd
    obtain ⟨rfl, rfl⟩ := findLaunch_name hl
    have hh := startLaunch_homesOnly s l
    refine ⟨_, congrArg Host.Outcome.next (doLaunchStart_of_none hl hp hd hr), ?_, hh.get (f := State.engines),
      hh.get (f := State.near), hh.get (f := State.ostore), hh.get (f := State.ctxs)⟩
    exact (hh.get (f := (findLaunch · l.ctx l.seq))).trans (findLaunch_modLaunch_same hl fun _ => ⟨rfl, rfl⟩)
  case stays =>
    intro c q l s hl hp
    exact congrArg Host.Outcome.next (doLaunchStart_of_phase hl hp)
  case errs =>
    intro c q st d r l s hl hp he
    have hc := doLaunchError_cancels hl hp he
    obtain ⟨rfl, rfl⟩ := findLaunch_name hl
    obtain ⟨y, hy, -, -, hv⟩ := hc.launches.of_findLaunch (findLaunch_modLaunch_same (f := endedBy st d) hl fun _ => ⟨rfl, rfl⟩)
    simp only [standing, endedBy, Prod.mk.injEq] at hv
    obtain ⟨hphase, hstatus, hdetail, hslots⟩ := hv
    refine ⟨_, rfl, ?_, ?_, hc.ctxs⟩
    · rw [hy, Option.map_some, hphase, hstatus, hdetail]
    · rw [hy, Option.map_some, hslots]
  case hasEnded =>
    intro c q l s hl hp
    exact congrArg Host.Outcome.next (doLaunchError_of_ended hl hp)
  case ends =>
    intro c q k l s hl hk hm hs
    obtain ⟨rfl, rfl⟩ := findLaunch_name hl
    obtain ⟨⟨y, hy, hc, hq, hsc⟩, hk', htail, hfree⟩ := beginRecords_releases hl hk
    have hrun := (doLaunchEnd_of_mayEnd hl hm).trans (recordSteps_of_done hy (by simp [hsc, hs]))
    rw [← hc, ← hq] at hk'
    have hend := finishLaunch_ended hk'
    rw [hc, hq] at hend
    exact ⟨_, congrArg Host.Outcome.next hrun, hend.launch, hend.cmd, hend.cplTail.trans (by rw [htail]),
      fun x hx p hp => hend.freed _ _ (hfree x hx p hp)⟩
  case waits =>
    intro c q l s hl hm hp
    exact congrArg Host.Outcome.next (doLaunchEnd_of_not_mayEnd hl hm hp)
  case reports =>
    intro c q b l s hl hp hd hr hw
    exact congrArg Host.Outcome.next (doLaunchStart_of_report hl hp hd hr hw)
  case records =>
    intro c q l s hl _ hm
    exact congrArg Host.Outcome.next (doLaunchEnd_of_mayEnd hl hm)
  case finishes =>
    intro c q l s hl hp hd
    exact congrArg Host.Outcome.next ((doLaunchEnd_of_recording hl hp).trans (recordSteps_of_done hl hd))

end Sys2Proof.Proofs
end

section
/-! A rewind's cancellation of moves that have broken off at a stall (R219 to R222). -/

namespace Sys2Proof.Proofs

open Sys2Proof.Machine Sys2Proof.Laws

/-! ### What moves behind a mark become -/

theorem streamOf_congr {s t : State} (h : t.launches = s.launches) (hub f c : Nat) : streamOf t hub f c = streamOf s hub f c := by
  simp only [streamOf, h]

theorem withdraw_launches (s : State) (p : Requester → Bool) : (withdraw s p).launches = s.launches :=
  List.foldlRecOn (motive := fun t : State => t.launches = s.launches) _ _ rfl fun t ht _ _ =>
    ((HomesOnly.refl t).recStash.get (f := State.launches)).trans ht

/-- Moves that have broken off at their stall write no more when they are cancelled (R219, R222). -/
theorem breakMoves_of_broke {ms : List Move} (hb : ∀ m ∈ ms, m.broke = true) (r : Requester) (l : Launch) (p : Move → Bool)
    (blk : List (Loc × Nat)) (s : State) : breakMoves r l p ms blk s = s := by
  induction ms generalizing blk with
  | nil => rfl
  | cons m ms ih =>
    obtain ⟨hm, hms⟩ := List.forall_mem_cons.1 hb
    rw [breakMoves, if_neg (by simp [hm])]
    exact ih hms _

/-- A cancelled move as it is reissued (R220). -/
def reissued (m : Move) : Move := { m with stalled := false, replay := false, broke := false }

/-- A stream of which the moves that `p` names are cancelled; `ms` are its moves in flight. -/
def withCancelled (p : Move → Bool) (ms : List Move) (y : Machine.Stream) : Machine.Stream :=
  { y with window := y.window.filter fun m => !p m, reissue := (ms.filter p).map reissued ++ y.reissue }

section
variable {s : State} {h f c i : Nat} {l : Launch} {y : Machine.Stream} (hs : streamOf s h f c = some (l, i, y))
  (hp : l.phase = .running) (hh : y.hold ≠ .stopped) (hb : ∀ m ∈ y.window, m.broke = true)
include hs hp hh hb

/-- Cancelling in a window whose moves have all broken off. -/
theorem streamOf_cancelMoves_of_broke (p : Move → Bool) :
    streamOf (cancelMoves s h f c l i y p) h f c =
      some (changeStream i (withCancelled p y.window) l, i, withCancelled p y.window y) := by
  have hleft : (fsat (if (y.window.filter p).any (·.stalled) then withdraw s (· == streamReq h f c l) else s) h 0
      Fl.FND_CANCELS_CANCELLED (y.window.filter p).length).launches = s.launches := by
    rw [fsat_launches]
    split
    · exact withdraw_launches ..
    · rfl
  simp only [cancelMoves, breakMoves_of_broke hb, if_pos (And.intro hp hh)]
  rw [streamOf_congr (showFinders_regsPower ..).launches]
  exact streamOf_modStream (g := withCancelled p y.window) ((streamOf_congr hleft ..).trans hs) fun _ => rfl

/-- CANCELLATION in a window whose moves have all broken off: those behind the mark are to be reissued, and none of them has broken
off any more. -/
theorem stream_doCancellation_of_broke {k : Nat} {r : List (Nat × Bool)} (hk : takeMsg true [] y.inbox = some (k, r)) :
    (streamOf (doCancellation h f c s) h f c).map (fun p => p.2.2) =
      some { withCancelled (fun m => m.marks.contains k) y.window y with inbox := r } := by
  have hcancel := streamOf_cancelMoves_of_broke hs hp hh hb fun m => m.marks.contains k
  simp only [doCancellation, hs, hk]
  exact congrArg (Option.map fun p => p.2.2) (streamOf_modStream (g := fun z => { z with inbox := r }) hcancel fun _ => rfl)

end

/-! ### The state -/

/-- A move of one code from binding 0 into near store of slot 0, issued after the mark of slot 0. It stalls on the page of its source,
and has broken off there (R222). -/
def stalledMove : Move :=
  ⟨0, ⟨false, 0, 0, true, 0, 0, 1, 1, 8, 0, 0, none, none, none, 0, 0, false⟩, 0, 0, 4096, [0], true, true, true, false, true, 0⟩

/-- The stream that has issued the move; the cancellation of slot 0's rewind is on its way to it. -/
def rewoundStream : Machine.Stream :=
  ⟨[.move stalledMove.word, .ctl .end_], 0, 4, some (18, 0, 0), 1, List.replicate 16 0, [], .run, false, [stalledMove], [], [0],
    [(0, true)]⟩

def rewoundLaunch : Launch :=
  { placedLaunch [.end_] [] with streams := [rewoundStream], bindings := [⟨0x20_0000, 4096, 8, 0, false, false, 8, 255, 0, 0⟩] }

/-- The launch runs its stream in stream context 0 of Finder 0 of MH0. -/
def rewoundState : State := placedState rewoundLaunch

/-- After CANCELLATION the move is to be reissued as one that has not broken off. -/
theorem rewoundState_reissue :
    (streamOf (doCancellation 18 0 0 rewoundState) 18 0 0).map (fun p => p.2.2.reissue.map (·.broke)) = some [false] := by
  have hafter := stream_doCancellation_of_broke (s := rewoundState) (h := 18) (f := 0) (c := 0) (i := 0) (l := rewoundLaunch)
    (y := rewoundStream) rfl rfl (by decide) (by decide) (k := 0) (r := []) rfl
  have hreissue := congrArg (Option.map fun z : Machine.Stream => z.reissue.map (·.broke)) hafter
  rw [Option.map_map] at hreissue
  exact hreissue

/-- Refutes O15, in its clause on CANCELLATION. A move that is cancelled while it stalls has broken off before, and its reissue starts
anew (R220, R222): the model takes `broke` off it with `stalled` and `replay`. The clause takes the other two off and leaves `broke` as
it was. -/
theorem not_movesIssueAndComplete : ¬ Obligations.MovesIssueAndComplete := by
  unfold Obligations.MovesIssueAndComplete
  rintro ⟨-, -, -, -, -, hcancellation, -⟩
  obtain ⟨t, ht, hstream, -⟩ := hcancellation 18 0 0 0 0 [] rewoundLaunch rewoundStream rewoundState rfl rfl rfl
  obtain rfl := Host.Outcome.next.inj ht
  have hkept := congrArg (Option.map fun z : Machine.Stream => z.reissue.map (·.broke)) hstream
  rw [Option.map_map] at hkept
  exact absurd (rewoundState_reissue.symm.trans hkept) (by decide)

end Sys2Proof.Proofs
end

section
/-! A MOVE_PAGES that copies a page, and what a late tier makes of it while a write to another device is not acknowledged (R238, R245,
R265). -/

namespace Sys2Proof.Proofs

open Sys2Proof.Machine

/-! ### The state -/

/-- Command 1 of context 5, a MOVE_PAGES of one entry that copies the page at 0x20_0000 to a home. -/
def copyCmd (dst : BitVec 64) : Cmd :=
  { seq := 1, desc := ⟨3, 0, 0, 1, 0x10000, 0, 0, []⟩, dispatched := true, done := 0, page := .copying 0x20_0000 dst, moved := 0,
    pipe := none, entry := [], frames := 0, outBytes := 0, blocking := false, stalled := none, denied := none, events := false,
    finder := some 0, result := none, accepted := false }

/-- A region of context 5 with the one page at 0x20_0000. -/
def onePage (w : BitVec 64) : TRegion := ⟨5, 0, 0x20_0000, false, [w]⟩

/-- A device that runs, with 32 GiB in DDR channel 0 of HD0, on which the command copies a page whose entry is `w`. -/
def copyState (w dst : BitVec 64) : State :=
  { fput (fput State.reset 16 0 Fl.DDR_POPULATION_POPULATED 1) 16 0 Fl.DDR_POPULATION_CHANNEL_GIB 32 with
    rst := { State.reset.rst with kind := .none }
    regions := [onePage w]
    ctxs := [(5, { Ctx.fresh with cmds := [copyCmd dst], used := [1, 1, 1, 1, 1], cplRing := 0x4006 })] }

/-! ### A copy that has not landed -/

/-- An entry of a page in far memory that is moving, and the home in frame 0 of device 9. -/
def farEntry : BitVec 64 := 0xE000_0000_0000_4000
def device9Frame0 : BitVec 64 := 0xB000_0000_4800_0000

/-- A copy from far memory that has sent its first line to device 9, which has not acknowledged it. -/
def unackedCopy : State :=
  { copyState farEntry device9Frame0 with
    net := { State.reset.net with remotes := [⟨4, kWrite, 9, .cmd 5 1, 0, false, [], 0⟩] } }

/-- When its far memory is late, the command keeps the status 0x0310 and waits for that acknowledgement before its record (R265). -/
theorem unackedCopy_waits :
    (getCmd (settleStalls (doTierTimeout 5 1 false false unackedCopy)) 5 1).map (fun k => (k.denied, k.accepted)) =
      some (some (0x0310, 0), true) := by decide

/-- Refutes O20, in its clause on TIER_TIMEOUT of a page copy. The clause has the command gone after the step; but a copy from far
memory to another device may have sent lines that the device has not acknowledged, and then the command stays, with its status, until
they are (R265). -/
theorem not_regionsAreDeclaredAndReleased : ¬ Obligations.RegionsAreDeclaredAndReleased := by
  unfold Obligations.RegionsAreDeclaredAndReleased
  rintro ⟨-, -, -, -, -, -, -, hcopy, -⟩
  obtain ⟨t, ht, -, hgone, -⟩ := hcopy 5 1 0x20_0000 0 false device9Frame0 farEntry (onePage farEntry) (copyCmd device9Frame0)
    unackedCopy rfl rfl rfl rfl (.inl rfl)
  obtain rfl := Host.Outcome.next.inj ht
  have hstays := unackedCopy_waits
  rw [hgone] at hstays
  exact absurd hstays (by decide)

end Sys2Proof.Proofs
end

section
/-! A line that takes poison form while a range is read: it stays poison, and the range gives no data (R223, R346, R377). -/

namespace Sys2Proof.Proofs

open Sys2Proof.Machine Sys2Proof.Laws

/-! ### A line in poison form while lines are read -/

/-- A line is in poison form, no line has decayed, no message is on its way and no directory has an entry. -/
structure PoisonedQuiet (line : Nat) (s : State) : Prop where
  poison : line ∈ s.poison
  flaws : s.flaws = []
  messages : NoMessages s
  dir : ∀ h, (getHome s h).dir = []

namespace PoisonedQuiet

theorem ite {line : Nat} {a b : State} {c : Prop} {_ : Decidable c} (ha : PoisonedQuiet line a) (hb : PoisonedQuiet line b) :
    PoisonedQuiet line (if c then a else b) := by
  split
  · exact ha
  · exact hb

variable {line : Nat} {s : State} (hs : PoisonedQuiet line s)
include hs

theorem fput {d i : Nat} {f : Fld} {v : Nat} : PoisonedQuiet line (Machine.fput s d i f v) :=
  ⟨hs.poison, hs.flaws, hs.messages, hs.dir⟩

theorem showHome {h : Nat} : PoisonedQuiet line (Machine.showHome s h) := hs.fput.fput.fput

theorem returned (l : List (Nat × Nat × Bool × List Byte)) : PoisonedQuiet line { s with coh := { s.coh with returned := l } } :=
  ⟨hs.poison, hs.flaws, hs.messages, hs.dir⟩

/-- A change of a home that gives its directory no entry. -/
theorem modHome {h : Nat} {f : Home → Home} (hf : ∀ x, x.dir = [] → (f x).dir = []) : PoisonedQuiet line (Machine.modHome s h f) := by
  refine ⟨hs.poison, hs.flaws, hs.messages, fun k => ?_⟩
  by_cases hkh : k = h
  · subst hkh
    rw [Machine.modHome, getHome_putHome]
    exact hf _ (hs.dir k)
  · simpa [Machine.modHome, Machine.putHome, getHome, hkh] using hs.dir k

theorem setEntry {h a : Nat} : PoisonedQuiet line (Machine.setEntry s h a false 0) :=
  hs.modHome fun x hx => by simp [dirSet, hx]

theorem notePoison {a : Nat} : PoisonedQuiet line (Machine.notePoison s a) := by
  unfold Machine.notePoison
  split
  · exact hs
  · split
    · split
      · exact hs.fput.fput.fput
      · exact hs
    · split
      · exact hs.fput.fput.fput
      · exact hs
    · exact hs

/-- Reading a line for which the command names no error finds none. -/
theorem memFetch {a : Nat} : PoisonedQuiet line (Machine.memFetch s a .none).2.2 := by
  have hclean : findEcc s a .none = .none := by simp [findEcc, hs.flaws, smGet]
  have hflaws : smDel s.flaws a = [] := by simp [hs.flaws, smDel]
  unfold Machine.memFetch memEcc
  simp only [hclean, hflaws]
  split
  · exact hs
  · exact hs.notePoison.ite ⟨hs.poison, rfl, hs.messages, hs.dir⟩

theorem dirFind (h a : Nat) : Machine.dirFind (getHome s h) a = none := by rw [Machine.dirFind, hs.dir h, List.find?_nil]

/-- The read of a line without an entry waits for nobody. -/
theorem openTxn (h a : Nat) :
    (Machine.openTxn s h (bareReq cRdNc a 6 0 .none)).2 = ⟨a, bareReq cRdNc a 6 0 .none, [], [], false⟩ ∧
      PoisonedQuiet line (Machine.openTxn s h (bareReq cRdNc a 6 0 .none)).1 := by
  have hprobes : probesFor (Machine.dirFind (getHome s h) a) (bareReq cRdNc a 6 0 .none) = ([], true) := by
    rw [hs.dirFind]
    rfl
  have hcount : PoisonedQuiet line (countServed s h cRdNc) := hs.fput
  simp only [Machine.openTxn, show (bareReq cRdNc a 6 0 .none).line = a from rfl, hprobes, List.foldl_nil]
  refine ⟨trivial, fput (modHome (fput hcount) fun x hx => ?_)⟩
  rw [if_neg (by simp [needsEntry, bareReq, cRdNc, cUpgrade, cWrStash])]
  exact hx

/-- It is answered at once. -/
theorem closeReq (h a : Nat) : PoisonedQuiet line (Machine.closeReq s h ⟨a, bareReq cRdNc a 6 0 .none, [], [], false⟩) := by
  have hshut : PoisonedQuiet line (Machine.modHome s h fun x => { x with txns := x.txns.filter fun y => y.line != a }) :=
    hs.modHome fun _ hx => hx
  unfold Machine.closeReq
  generalize Machine.modHome s h _ = u at hshut ⊢
  have hanswer : finishReq u h ⟨a, bareReq cRdNc a 6 0 .none, [], [], false⟩ =
      sendReturn (Machine.setEntry (Machine.memFetch u a .none).2.2 h a false 0) (bareReq cRdNc a 6 0 .none)
        (Machine.memFetch u a .none).2.1 (Machine.memFetch u a .none).1 := by
    simp only [finishReq, show (bareReq cRdNc a 6 0 .none).line = a from rfl, hshut.dirFind]
    rfl
  rw [hanswer]
  exact hshut.memFetch.setEntry.returned _

theorem serveReq (h a : Nat) : PoisonedQuiet line (Machine.serveReq s h (bareReq cRdNc a 6 0 .none)) := by
  obtain ⟨htxn, hopen⟩ := hs.openTxn h a
  have has : asServed s (bareReq cRdNc a 6 0 .none) = bareReq cRdNc a 6 0 .none := rfl
  have hn : needsEntry s (bareReq cRdNc a 6 0 .none) = false := rfl
  simp only [Machine.serveReq, has, hn, Bool.false_eq_true, false_and, if_false, htxn, List.isEmpty_nil, if_true]
  exact hopen.closeReq h a

theorem ncReq (a : Nat) : PoisonedQuiet line (Machine.ncReq s (bareReq cRdNc a 6 0 .none)).2 := by
  have hqueued : PoisonedQuiet line
      (Machine.modHome s (homeOf s a) fun x => { x with queue := x.queue ++ [bareReq cRdNc a 6 0 .none] }) :=
    hs.modHome fun _ hx => hx
  have harrive : PoisonedQuiet line (arriveReq s (homeOf s a) (bareReq cRdNc a 6 0 .none)) :=
    hs.ite (hqueued.showHome.ite (hs.serveReq _ a).showHome)
  rw [Machine.ncReq, settleLine_of_noMessages _ _ hs.messages, show (bareReq cRdNc a 6 0 .none).line = a from rfl,
    settleLine_of_noMessages _ _ harrive.messages]
  dsimp only
  split
  · split
    · exact harrive.returned _
    · exact harrive
  · exact harrive

theorem ncReadLine (hub a : Nat) : PoisonedQuiet line (Machine.ncReadLine hub s a) := hs.ite (hs.ncReq a)

end PoisonedQuiet

/-! ### Reading a range whose first line takes poison form -/

theorem linesOf_cons {a n : Nat} (ha : a % 64 = 0) (hn : 0 < n) : ∃ l, linesOf a n = a :: l := by
  rw [linesOf, if_neg (by omega), List.range_succ_eq_map, List.map_cons]
  exact ⟨_, congrArg₂ _ (by omega) rfl⟩

/-- A range of whole lines cannot be read when its first line takes poison form at its own read and stays so. -/
theorem getPa_err_of_first_poisoned {s : State} {r : Requester} {a n : Nat} (ha : a % 64 = 0) (hn : 0 < n)
    (hs : PoisonedQuiet a (ncReadLine (reqHub r) s a)) : (getPa s r a n).1.err = some 0x0502 := by
  have hline : lineOf a = a := by unfold lineOf; omega
  have hread {m : Nat} (hm : 0 < m) : PoisonedQuiet a (ncRead s a m (reqHub r)).2 := by
    obtain ⟨l, hl⟩ := linesOf_cons ha hm
    rw [ncRead, hl, List.foldl_cons]
    exact List.foldlRecOn (motive := PoisonedQuiet a) l _ hs fun _ hu b _ => hu.ncReadLine _ b
  have hround : 0 < roundUp (a + n - a) 64 := by unfold roundUp cdiv; omega
  obtain ⟨l, hl⟩ := linesOf_cons ha hn
  have hpoison : rangePoison (ncRead s a (roundUp (a + n - a) 64) (reqHub r)).2 a n = true := by
    rw [rangePoison, hl, List.any_cons, poisoned, List.contains_iff_mem.2 (hread hround).poison]
    rfl
  simp only [getPa, hline, hpoison, if_true]

end Sys2Proof.Proofs
end

section
/-! MOVE_PAGES_SWITCH of a copy whose source meets an uncorrected error as it is read (R223, R235, R238). -/

namespace Sys2Proof.Proofs

open Sys2Proof.Machine

/-! ### A copy whose source cannot be read -/

/-- SWITCH of a copy whose source meets an error as it is read is the end of its entry (R238). -/
theorem doMovePagesSwitch_of_err {c q va i st : Nat} {dst w : BitVec 64} {r : TRegion} {k : Cmd} {g : Got} {s u : State}
    (hk : runCmd s c q 3 = some k) (hc : k.page = .copying va dst) (hp : tierPage s c va = some (r, i, w)) (hd : k.denied = none)
    (hold : homeRefusal s c w = none) (hnew : homeRefusal s c dst = none)
    (hg : getLoc s (.cmd c q) c (homeLoc w) Config.page2M = (some g, u)) (he : g.err = some st) :
    doMovePagesSwitch c q s = failPage u c q k va dst st := by
  simp only [doMovePagesSwitch, hk, hc, hp, hd, hold, hnew, hg, he, Option.or_none]

theorem getPa_regions (s : State) (r : Requester) (a n : Nat) : (getPa s r a n).2.regions = s.regions := by
  have hread : HomesOnly s (getPa s r a n).2 := (HomesOnly.refl s).foldl fun _ _ hu => hu.ite hu.ncReq
  exact hread.get (f := State.regions)

theorem spoil_homesOnly (s : State) (l : Loc) (n : Nat) : HomesOnly s (spoil s l n) := by
  unfold spoil
  split
  · exact (HomesOnly.refl s).foldl fun _ _ hu => hu.update.ncWrite
  · exact .refl s

theorem complete_regions (s : State) (c q status : Nat) (detail : BitVec 64) : (complete s c q status detail).regions = s.regions := by
  have hrec (a : Nat) (b : List Byte) : (recStash s (ctxHub c) a b).regions = s.regions :=
    ((HomesOnly.refl s).recStash).get (f := State.regions)
  have hevent (code sev : Nat) (x : BitVec 128) : (ctxEvent s c code sev x).regions = s.regions := by
    unfold ctxEvent
    dsimp only
    split
    · rfl
    · split <;> exact hrec ..
  have hcpl (x : Ctx) (b : List Byte) : (cplRecord s c x b).regions = s.regions := by
    unfold cplRecord
    split
    · exact hevent ..
    · exact hrec ..
  unfold complete
  dsimp only
  split
  · rfl
  · split <;> exact hcpl ..

/-- The end of a command that works through a list changes no page. -/
theorem endList_regions (s : State) (c q : Nat) (k : Cmd) (status done : Nat) : (endList s c q k status done).regions = s.regions := by
  unfold endList
  dsimp only
  split
  · rfl
  · rw [(showFinders_regsPower ..).get (f := State.regions) fun _ _ => rfl, complete_regions]
    rfl

/-- An entry that fails leaves its page as it was, but that it no longer moves. -/
theorem failPage_regions (s : State) (c q : Nat) (k : Cmd) (va : Nat) (dst : BitVec 64) (st : Nat) :
    (failPage s c q k va dst st).regions = (modPage s c va fun w => setBits w 62 62 0).regions := by
  unfold failPage
  dsimp only
  rw [endPages, endList_regions, (spoil_homesOnly ..).get (f := State.regions)]
  split <;> rfl

/-! ### The state -/

/-- An entry of DDR frame 4 that is moving, and the home in DDR frame 2. -/
def ddrEntry : BitVec 64 := 0xD000_0000_0000_0004
def ddrFrame2 : BitVec 64 := 0x9000_0000_0000_0002

/-- A read of the first line of frame 4 that will meet an uncorrected error. -/
def badRead : CohReq := bareReq cRdNc 0x80_0000 6 0 .ue

/-- A copy from frame 4 to frame 2 of DDR. At the home of frame 4's first line that read waits in the queue, and the link cache of MH0 is
entered as the line's holder. -/
def overtakenCopy : State :=
  { copyState ddrEntry ddrFrame2 with
    coh := { State.reset.coh with homes := [(16, ⟨[⟨0x80_0000, true, 4⟩], [], [badRead], [], []⟩)] } }

/-- The copy's read of the line recalls it from the link cache; after it the home serves the read that waited, and the line takes poison
form (R348, R377). -/
theorem overtakenCopy_poisoned : PoisonedQuiet 0x80_0000 (ncReadLine 18 overtakenCopy 0x80_0000) := by
  have hhomes : (ncReadLine 18 overtakenCopy 0x80_0000).coh.homes = [(16, Home.fresh)] := by decide
  refine ⟨by decide, by decide, ⟨by decide, by decide, by decide⟩, fun h => ?_⟩
  rw [getHome, hhomes, smGetD, smGet, smGet]
  split
  · rfl
  · split <;> rfl

/-- So the copy fails, and the page keeps its home. -/
theorem overtakenCopy_keeps_home :
    (tierPage (doMovePagesSwitch 5 1 overtakenCopy) 5 0x20_0000).map (fun a => peHome a.2.2) = some (peHome ddrEntry) := by
  have herr : (getPa overtakenCopy (.cmd 5 1) 0x80_0000 Config.page2M).1.err = some 0x0502 :=
    getPa_err_of_first_poisoned rfl (by decide) overtakenCopy_poisoned
  have hread := getPa_regions overtakenCopy (.cmd 5 1) 0x80_0000 Config.page2M
  have hfail : doMovePagesSwitch 5 1 overtakenCopy = failPage (getPa overtakenCopy (.cmd 5 1) 0x80_0000 Config.page2M).2 5 1
      (copyCmd ddrFrame2) 0x20_0000 ddrFrame2 0x0502 :=
    doMovePagesSwitch_of_err (r := onePage ddrEntry) (i := 0) (w := ddrEntry) rfl rfl rfl rfl (by decide) (by decide) rfl herr
  have hregions := failPage_regions (getPa overtakenCopy (.cmd 5 1) 0x80_0000 Config.page2M).2 5 1 (copyCmd ddrFrame2) 0x20_0000
    ddrFrame2 0x0502
  rw [hfail, tierPage, hregions, modPage, hread]
  decide

/-- Refutes O21, in its clause on MOVE_PAGES_SWITCH. The clause asks that no line is poisoned or decayed and that no message is on its
way, and says nothing of the requests that wait at the homes. One of them that meets an uncorrected error may be served between the
copy's own reads, and poisons a line of the source (R377): the entry fails and the page keeps its home (R238). -/
theorem not_pagesMoveInSteps : ¬ Obligations.PagesMoveInSteps := by
  unfold Obligations.PagesMoveInSteps
  rintro ⟨-, -, hswitch, -⟩
  obtain ⟨t, ht, hhome, -⟩ := hswitch 5 1 0x20_0000 0 ddrFrame2 ddrEntry (onePage ddrEntry) (copyCmd ddrFrame2) overtakenCopy
    rfl rfl rfl rfl (by decide) (by decide) (by decide) (by decide) rfl rfl rfl rfl rfl rfl (by decide) (by decide)
  obtain rfl := Host.Outcome.next.inj ht
  have hmoved := congrArg (Option.map Prod.fst) hhome
  rw [Option.map_map] at hmoved
  exact absurd (overtakenCopy_keeps_home.symm.trans hmoved) (by decide)

end Sys2Proof.Proofs
end

section
/-! The canonical form of the memories, along a step. -/

namespace Sys2Proof.Proofs

open Sys2Proof.Machine Sys2Proof.Safety

/-- Settles O58: every command, and the time that passes while none waits, keeps the form of the three memories (`exec_stays`,
`Stays.idle`). Taking the front command off the queue touches none of them, so the form that `s` has is the form that `step_stays`
carries to `t`. -/
theorem memoryStaysCanonical : Obligations.MemoryStaysCanonical := by
  unfold Obligations.MemoryStaysCanonical
  intro s t hwf hstep
  have hrest : MemWf { s with pending := s.pending.tail } := hwf
  exact (step_stays hstep).memWf hrest

end Sys2Proof.Proofs
end

section
/-! What the operations of a context's queue front end leave alone: every other context and every launch (R268 to R290). -/

namespace Sys2Proof.Proofs

open Sys2Proof.Machine Sys2Proof.Safety Sys2Proof.Laws

/-! ### Changes of one context -/

theorem CtxsBut.putCtx {s t : State} {c : Nat} (h : CtxsBut s t c) (x : Ctx) : CtxsBut s (putCtx t c x) c :=
  (filter_smPut t.ctxs _ _ (fun k => k != c) (by simp)).trans h

/-- From one state to another every launch and every context but `c` is as before. -/
structure OnlyCtx (c : Nat) (s t : State) : Prop where
  others : CtxsBut s t c
  launches : t.launches = s.launches

namespace OnlyCtx

theorem refl (c : Nat) (s : State) : OnlyCtx c s s := ⟨rfl, rfl⟩

theorem trans {c : Nat} {s t u : State} (h : OnlyCtx c s t) (h' : OnlyCtx c t u) : OnlyCtx c s u :=
  ⟨h'.others.trans h.others, h'.launches.trans h.launches⟩

variable {c : Nat} {s t : State} (h : OnlyCtx c s t)
include h

/-- A change of neither contexts nor launches. -/
theorem update {u : State} (hc : u.ctxs = t.ctxs) (hl : u.launches = t.launches) : OnlyCtx c s u :=
  ⟨(congrArg (List.filter fun p : Nat × Ctx => p.1 != c) hc).trans h.others, hl.trans h.launches⟩

theorem homes {u : State} (hu : HomesOnly t u) : OnlyCtx c s u := h.update (hu.get (f := State.ctxs)) (hu.get (f := State.launches))

theorem putCtx (x : Ctx) : OnlyCtx c s (putCtx t c x) := ⟨CtxsBut.putCtx h.others x, h.launches⟩

end OnlyCtx

@[simp] theorem getCtx_modCtx (s : State) (c : Nat) (f : Ctx → Ctx) : getCtx (modCtx s c f) c = f (getCtx s c) := getCtx_putCtx ..

/-- A changed context: its registers, the other contexts and memory stay. -/
theorem putCtx_frame (s : State) (c : Nat) (x : Ctx) :
    (putCtx s c x).regs = s.regs ∧ CtxsBut s (putCtx s c x) c ∧ SameMem s (putCtx s c x) :=
  ⟨rfl, CtxsBut.putCtx rfl x, rfl, rfl, rfl⟩

/-! ### The state word of a context -/

/-- PARK_STATUS of a context. -/
def parkStatus (x : Ctx) : Nat := fldOf Fl.QFE_CTX_STATE_PARK_STATUS x.state

@[simp] theorem ctxState_setCtxState (x : Ctx) (v : Nat) : ctxState (setCtxState x v) = v % 4 :=
  fldOf_fldSet _ _ _ (by decide) (by decide)

@[simp] theorem parkStatus_setCtxState (x : Ctx) (v : Nat) : parkStatus (setCtxState x v) = parkStatus x :=
  fldOf_fldSet_apart _ _ _ _ (by decide) (by decide) (by decide) (by decide)

/-- PARK_STATUS takes a status. -/
theorem parkStatus_fldSet (w : BitVec 64) {v : Nat} (hv : v < 2 ^ 16) :
    fldOf Fl.QFE_CTX_STATE_PARK_STATUS (fldSet Fl.QFE_CTX_STATE_PARK_STATUS w v) = v :=
  (fldOf_fldSet _ _ _ (by decide) (by decide)).trans (Nat.mod_eq_of_lt hv)

/-- A context that drains is disabled at once when it has nothing in flight, and goes on draining otherwise (R270). -/
theorem settleCtx_draining_idle {x : Ctx} (h : inflight x = 0) :
    settleCtx (setCtxState x stDraining) = setCtxState (setCtxState x stDraining) stDisabled :=
  if_pos ⟨ctxState_setCtxState x stDraining, h⟩

theorem settleCtx_draining_busy {x : Ctx} (h : inflight x ≠ 0) : settleCtx (setCtxState x stDraining) = setCtxState x stDraining :=
  if_neg fun hx => h hx.2

/-! ### Events and completion records of a context -/

/-- What an event of a context leaves: every other context, every launch, and of the context all but its event ring and its count
of dropped events. -/
structure Reports (c : Nat) (s t : State) : Prop where
  only : OnlyCtx c s t
  ctx : ∃ w n, getCtx t c = { getCtx s c with state := w, evtTail := n }
  state : ctxState (getCtx t c) = ctxState (getCtx s c)
  park : parkStatus (getCtx t c) = parkStatus (getCtx s c)

theorem Reports.cmds {c : Nat} {s t : State} (h : Reports c s t) : (getCtx t c).cmds = (getCtx s c).cmds := by
  obtain ⟨w, n, hctx⟩ := h.ctx
  rw [hctx]

theorem Reports.tail {c : Nat} {s t : State} (h : Reports c s t) : (getCtx t c).tail = (getCtx s c).tail := by
  obtain ⟨w, n, hctx⟩ := h.ctx
  rw [hctx]

theorem Reports.stale {c : Nat} {s t : State} (h : Reports c s t) : (getCtx t c).stale = (getCtx s c).stale := by
  obtain ⟨w, n, hctx⟩ := h.ctx
  rw [hctx]

/-- An event that is dropped is counted in the context's state word; one that is written advances its ring. -/
theorem ctxEvent_reports (s : State) (c code sev : Nat) (x : BitVec 128) : Reports c s (ctxEvent s c code sev x) := by
  have hdrop (n : Nat) : Reports c s (putCtx s c { getCtx s c with
      state := fldSet Fl.QFE_CTX_STATE_EVT_DROPPED (getCtx s c).state n }) := by
    refine ⟨(OnlyCtx.refl c s).putCtx _, ⟨_, (getCtx s c).evtTail, getCtx_putCtx ..⟩, ?_, ?_⟩ <;> rw [getCtx_putCtx]
    · exact fldOf_fldSet_apart _ _ _ _ (by decide) (by decide) (by decide) (by decide)
    · exact fldOf_fldSet_apart _ _ _ _ (by decide) (by decide) (by decide) (by decide)
  have hwrite (a : Nat) (b : List Byte) (n : Nat) (irqs : List Nat) :
      Reports c s { putCtx (recStash s (ctxHub c) a b) c { getCtx s c with evtTail := n } with irqOut := irqs } := by
    have hctx : getCtx { putCtx (recStash s (ctxHub c) a b) c { getCtx s c with evtTail := n } with irqOut := irqs } c =
        { getCtx s c with evtTail := n } := getCtx_putCtx ..
    refine ⟨(((OnlyCtx.refl c s).homes (.recStash (.refl s))).putCtx _).update rfl rfl, ⟨_, n, hctx⟩, ?_, ?_⟩ <;> rw [hctx]
    · rfl
    · rfl
  unfold ctxEvent
  dsimp only
  split
  · exact hdrop _
  · split
    · exact hwrite ..
    · exact hwrite ..

/-- Completing a command changes no other context and no launch. -/
theorem complete_onlyCtx (s : State) (c q status : Nat) (detail : BitVec 64) : OnlyCtx c s (complete s c q status detail) := by
  have hrec (x : Ctx) (b : List Byte) : OnlyCtx c s (cplRecord s c x b) := by
    unfold cplRecord
    split
    · exact (ctxEvent_reports ..).only
    · exact (OnlyCtx.refl c s).homes (.recStash (.refl s))
  unfold complete
  dsimp only
  split
  · exact .refl c s
  · split
    · exact ((hrec ..).putCtx _).update rfl rfl
    · exact (hrec ..).putCtx _

/-- A completed command is gone, and the count of its context's completion records has advanced by one (R281, R283). -/
theorem complete_ends {s : State} {c q : Nat} {k : Cmd} (hk : getCmd s c q = some k) (status : Nat) (detail : BitVec 64) :
    getCmd (complete s c q status detail) c q = none ∧
      (getCtx (complete s c q status detail) c).cplTail = ((getCtx s c).cplTail + 1) % 2 ^ 32 := by
  obtain ⟨u, irqs, hu, hcomplete⟩ := complete_eq hk status detail
  have hctx : getCtx (complete s c q status detail) c = withoutCmd q (getCtx u c) := by
    rw [hcomplete]
    exact getCtx_modCtx ..
  obtain ⟨hcmds, htail⟩ := settleCtx_frame { getCtx u c with
    cplTail := ((getCtx u c).cplTail + 1) % 2 ^ 32, cmds := (getCtx u c).cmds.filter fun k => k.seq != q }
  constructor
  · rw [getCmd, hctx, findCmd, withoutCmd, hcmds]
    simp
  · rw [hctx, withoutCmd, htail]
    exact congrArg (fun n => (n + 1) % 2 ^ 32) (hu.cplTail c)

end Sys2Proof.Proofs
end

section
/-! Enabling, disabling and unparking a context, and its doorbells (R269 to R271, R275, R276, R279, R293). -/

namespace Sys2Proof.Proofs

open Sys2Proof.Machine Sys2Proof.Safety Sys2Proof.Laws

/-- A register access reaches a die whose window answers. -/
theorem onDie_of_alive {s : State} {d : Nat} (h : windowDead s d = false) (f : State → State) : onDie s d f = f s := by
  simp only [onDie, h, Bool.false_eq_true, if_false]

/-! ### CONTEXT_ENABLE -/

section
variable {s : State} {c : Nat} (hv : validCtx s c = true)
include hv

theorem doContextEnable_of_enabled (a : BitVec 64) (he : fldOf Fl.QFE_CTX_ATTR_ENABLE (getCtx s c).attr = 1) :
    doContextEnable c a s = putCtx s c { getCtx s c with attr := attrFields (getCtx s c).attr a } := by
  simp only [doContextEnable, hv, he, Bool.not_true, Bool.false_eq_true, if_false, if_true]

/-- A disabled context whose rings are valid runs. -/
theorem doContextEnable_of_rings (a : BitVec 64) (he : fldOf Fl.QFE_CTX_ATTR_ENABLE (getCtx s c).attr = 0)
    (hcmd : ringOk s c (getCtx s c).cmdRing = true) (hcpl : ringOk s c (getCtx s c).cplRing = true)
    (hevt : ringOk s c (getCtx s c).evtRing = true) :
    doContextEnable c a s = putCtx s c (setCtxState { getCtx s c with
      attr := fldSet Fl.QFE_CTX_ATTR_ENABLE (attrFields (getCtx s c).attr a) 1
      stale := none
      state := fldSet Fl.QFE_CTX_STATE_PARK_STATUS (getCtx s c).state 0 } stRunning) := by
  simp only [doContextEnable, hv, he, hcmd, hcpl, hevt, Bool.not_true, Bool.false_eq_true, and_self, if_false, if_true, zero_ne_one]

theorem doContextEnable_of_bad_ring (a : BitVec 64) (he : fldOf Fl.QFE_CTX_ATTR_ENABLE (getCtx s c).attr = 0)
    (hcmd : ringOk s c (getCtx s c).cmdRing = false) :
    doContextEnable c a s = putCtx s c { getCtx s c with
      attr := attrFields (getCtx s c).attr a
      state := fldSet Fl.QFE_CTX_STATE_PARK_STATUS (getCtx s c).state 0x0107 } := by
  simp only [doContextEnable, hv, he, hcmd, Bool.not_true, Bool.false_eq_true, false_and, if_false, zero_ne_one]

/-- An enabled context after its disabling: it drains what it has in flight, if anything. -/
theorem doContextDisable_of_enabled (a : BitVec 64) (he : fldOf Fl.QFE_CTX_ATTR_ENABLE (getCtx s c).attr = 1) :
    doContextDisable c a s = putCtx s c (settleCtx (setCtxState { getCtx s c with
      attr := fldSet Fl.QFE_CTX_ATTR_ENABLE (attrFields (getCtx s c).attr a) 0
      stale := none } stDraining)) := by
  simp only [doContextDisable, hv, he, Bool.not_true, Bool.false_eq_true, if_false, one_ne_zero]

theorem doUnpark_of_parked (hp : ctxState (getCtx s c) = 2) :
    doUnpark c s = putCtx s c (setCtxState { getCtx s c with
      state := fldSet Fl.QFE_CTX_STATE_PARK_STATUS (getCtx s c).state 0
      stale := none } stRunning) :=
  if_pos ⟨hv, hp⟩

end

/-- A write of the other fields leaves ENABLE as it was (R269). -/
theorem attrFields_enable (old new : BitVec 64) :
    fldOf Fl.QFE_CTX_ATTR_ENABLE (attrFields old new) = fldOf Fl.QFE_CTX_ATTR_ENABLE old := by
  have hapart {f : Fld} (w : BitVec 64) (v : Nat) (hf : f.lo ≤ f.hi) (h : f.hi < 63) :
      fldOf Fl.QFE_CTX_ATTR_ENABLE (fldSet f w v) = fldOf Fl.QFE_CTX_ATTR_ENABLE w :=
    fldOf_fldSet_apart _ _ _ _ hf (by decide) (by decide) (.inr h)
  unfold attrFields
  dsimp only
  split
  · rw [hapart, hapart] <;> decide
  · rw [hapart, hapart, hapart, hapart, hapart] <;> decide

/-! ### Doorbells -/

/-- A doorbell of a running or parked context reaches it. -/
theorem doorbell_of_live {s : State} {c : Nat} (hv : validCtx s c = true) (hs : ctxState (getCtx s c) = 1 ∨ ctxState (getCtx s c) = 2)
    (f : Ctx → State) : doorbell s c f = f (getCtx s c) := by
  simp only [doorbell, hv, Bool.not_true, Bool.false_eq_true, if_false]
  exact if_pos hs

theorem doorbell_of_disabled {s : State} {c : Nat} (hv : validCtx s c = true) (hs : ctxState (getCtx s c) = 0) (f : Ctx → State) :
    doorbell s c f = ignoreBell s c := by
  simp only [doorbell, hv, hs, Bool.not_true, Bool.false_eq_true, if_false]
  rfl

/-- A saturating counter after it has counted. -/
theorem fget_fsat (s : State) (d i : Nat) (f : Fld) (n : Nat) (hf : f.lo ≤ f.hi) (h64 : f.hi < 64) :
    fget (fsat s d i f n) d i f = min (fget s d i f + n) (2 ^ (f.hi - f.lo + 1) - 1) := by
  have hpos : 0 < 2 ^ (f.hi - f.lo + 1) := Nat.two_pow_pos _
  rw [fsat, fget_fput _ _ _ _ _ hf h64, Nat.mod_eq_of_lt (by omega)]

/-- A doorbell that is ignored is counted, and that is all. -/
theorem ignoreBell_counts (s : State) (c : Nat) :
    fget (ignoreBell s c) (ctxHub c) 0 Fl.QFE_COUNT_DOORBELLS_IGNORED = min (fget s (ctxHub c) 0 Fl.QFE_COUNT_DOORBELLS_IGNORED + 1)
        (2 ^ (Fl.QFE_COUNT_DOORBELLS_IGNORED.hi - Fl.QFE_COUNT_DOORBELLS_IGNORED.lo + 1) - 1) ∧
      (ignoreBell s c).ctxs = s.ctxs ∧ SameMem s (ignoreBell s c) ∧ RegsBut s (ignoreBell s c) [regKey (ctxHub c) .qfeCount 0] :=
  ⟨fget_fsat _ _ _ _ _ (by decide) (by decide), rfl, ⟨rfl, rfl, rfl⟩,
    RegsBut.fput (s := s) ⟨rfl, rfl⟩ _ (List.mem_singleton.2 rfl)⟩

section
variable {s : State} {c : Nat} (hv : validCtx s c = true) (hs : ctxState (getCtx s c) = 1 ∨ ctxState (getCtx s c) = 2)
include hv hs

/-- A tail between the one that stands and the end of the ring is taken (R276). -/
theorem doCmdTail_of_room (v : BitVec 64)
    (hback : ((getCtx s c).tail + 2 ^ 48 - oldestSeq (getCtx s c)) % 2 ^ 48 ≤
      (v.toNat % 2 ^ 48 + 2 ^ 48 - oldestSeq (getCtx s c)) % 2 ^ 48)
    (hroom : (v.toNat % 2 ^ 48 + 2 ^ 48 - oldestSeq (getCtx s c)) % 2 ^ 48 ≤ ringSize (getCtx s c).cmdRing) :
    doCmdTail c v s = putCtx s c { getCtx s c with tail := v.toNat % 2 ^ 48 } :=
  (doorbell_of_live hv hs _).trans (if_pos ⟨hback, hroom⟩)

/-- A tail beyond the ring is ignored, and the context is told. -/
theorem doCmdTail_beyond (v : BitVec 64)
    (hroom : ringSize (getCtx s c).cmdRing < (v.toNat % 2 ^ 48 + 2 ^ 48 - oldestSeq (getCtx s c)) % 2 ^ 48) :
    doCmdTail c v s = ctxEvent (ignoreBell s c) c 0x0107 1 0 :=
  (doorbell_of_live hv hs _).trans (if_neg fun h => absurd h.2 (Nat.not_le.2 hroom))

theorem doCplHead_of_may (v : BitVec 64) (h : mayConsume (getCtx s c).cplHead (getCtx s c).cplTail (v.toNat % 2 ^ 32) = true) :
    doCplHead c v s = putCtx s c { getCtx s c with cplHead := v.toNat % 2 ^ 32 } :=
  (doorbell_of_live hv hs _).trans (if_pos h)

theorem doCplHead_of_not (v : BitVec 64) (h : mayConsume (getCtx s c).cplHead (getCtx s c).cplTail (v.toNat % 2 ^ 32) = false) :
    doCplHead c v s = ignoreBell s c :=
  (doorbell_of_live hv hs _).trans (if_neg fun hm => absurd (h.symm.trans hm) (by decide))

theorem doEvtHead_of_may (v : BitVec 64) (h : mayConsume (getCtx s c).evtHead (getCtx s c).evtTail (v.toNat % 2 ^ 32) = true) :
    doEvtHead c v s = putCtx s c { getCtx s c with evtHead := v.toNat % 2 ^ 32 } :=
  (doorbell_of_live hv hs _).trans (if_pos h)

end

/-- Settles O16: each of the six commands, as the state of its context and its operand select it, puts one new record of that context,
counts an ignored doorbell, or does nothing. -/
theorem contextsEnableAndDisable : Obligations.ContextsEnableAndDisable := by
  unfold Obligations.ContextsEnableAndDisable
  refine ⟨?enable, ?badRing, ?enabled, ?idle, ?drains, ?unparks, ?notParked, ?tail, ?tailBeyond, ?cplHead, ?cplBeyond, ?evtHead,
    ?ignored⟩
  case enable =>
    intro c a s hd hv he hcmd hcpl hevt
    refine ⟨_, congrArg Host.Outcome.next ((onDie_of_alive hd _).trans (doContextEnable_of_rings hv a he hcmd hcpl hevt)), ?_, ?_, ?_, ?_,
      putCtx_frame ..⟩ <;> rw [getCtx_putCtx]
    · exact ctxState_setCtxState ..
    · exact (parkStatus_setCtxState ..).trans (parkStatus_fldSet _ (by decide))
    · rfl
    · rfl
  case badRing =>
    intro c a s hd hv he hcmd
    refine ⟨_, congrArg Host.Outcome.next ((onDie_of_alive hd _).trans (doContextEnable_of_bad_ring hv a he hcmd)), ?_, ?_, ?_,
      putCtx_frame ..⟩ <;> rw [getCtx_putCtx]
    exact (attrFields_enable ..).trans he
  case enabled =>
    intro c a s hd hv he
    refine congrArg Host.Outcome.next ((onDie_of_alive hd _).trans ((doContextEnable_of_enabled hv a he).trans ?_))
    rw [attrFields, if_pos he]
  case idle =>
    intro c a s hd hv he hidle
    have hdone := (doContextDisable_of_enabled hv a he).trans (congrArg (putCtx s c) (settleCtx_draining_idle hidle))
    refine ⟨_, congrArg Host.Outcome.next ((onDie_of_alive hd _).trans hdone), ?_, ?_, ?_, putCtx_frame ..⟩ <;> rw [getCtx_putCtx]
    · exact ctxState_setCtxState ..
    · exact fldOf_fldSet _ _ _ (by decide) (by decide)
    · rfl
  case drains =>
    intro c a s hd hv he hbusy
    have hdone := (doContextDisable_of_enabled hv a he).trans (congrArg (putCtx s c) (settleCtx_draining_busy hbusy))
    refine ⟨_, congrArg Host.Outcome.next ((onDie_of_alive hd _).trans hdone), ?_, ?_, ?_, putCtx_frame ..⟩ <;> rw [getCtx_putCtx]
    · exact ctxState_setCtxState ..
    · exact fldOf_fldSet _ _ _ (by decide) (by decide)
    · rfl
  case unparks =>
    intro c s hd hv hp
    refine ⟨_, congrArg Host.Outcome.next ((onDie_of_alive hd _).trans (doUnpark_of_parked hv hp)), ?_, ?_, ?_, putCtx_frame ..⟩ <;>
      rw [getCtx_putCtx]
    · exact ctxState_setCtxState ..
    · exact (parkStatus_setCtxState ..).trans (parkStatus_fldSet _ (by decide))
    · rfl
  case notParked =>
    intro c s hd hp
    exact congrArg Host.Outcome.next ((onDie_of_alive hd _).trans (if_neg fun h => hp h.2))
  case tail =>
    intro c v s hv hs hback hroom
    exact congrArg Host.Outcome.next (doCmdTail_of_room hv hs v hback hroom)
  case tailBeyond =>
    intro c v s hv hs hroom
    have hr := ctxEvent_reports (ignoreBell s c) c 0x0107 1 0
    exact ⟨_, congrArg Host.Outcome.next (doCmdTail_beyond hv hs v hroom), hr.tail, hr.cmds, hr.only.others, hr.only.launches⟩
  case cplHead =>
    intro c v s hv hs h
    exact congrArg Host.Outcome.next (doCplHead_of_may hv hs v h)
  case cplBeyond =>
    intro c v s hv hs h
    exact ⟨_, congrArg Host.Outcome.next (doCplHead_of_not hv hs v h), ignoreBell_counts s c⟩
  case evtHead =>
    intro c v s hv hs h
    exact congrArg Host.Outcome.next (doEvtHead_of_may hv hs v h)
  case ignored =>
    intro c v s hv hs
    exact ⟨_, congrArg Host.Outcome.next (doorbell_of_disabled hv hs _), ignoreBell_counts s c⟩

end Sys2Proof.Proofs
end

section
/-! Fetching descriptors and dispatching commands (R273, R278, R280 to R282, R290). -/

namespace Sys2Proof.Proofs

open Sys2Proof.Machine Sys2Proof.Safety Sys2Proof.Laws

/-! ### Reading a slot -/

theorem readSlotOf_homesOnly {s u : State} (hu : HomesOnly s u) (c : Nat) (x : Ctx) : HomesOnly s (readSlotOf u c x).2 :=
  hu.foldl fun _ _ hv => hv.ite hv.ncReq

/-- A status that refuses a ring fits PARK_STATUS. -/
theorem ringRefusal_lt {s : State} {c a st : Nat} (h : ringRefusal s c a = some st) : st < 2 ^ 16 := by
  unfold ringRefusal accelRefusal at h
  split at h
  · cases h
  · split at h <;> cases h
    decide
  · split at h <;> cases h
    decide
  · split at h <;> cases h <;> decide

@[simp] theorem getCtx_fsat (s : State) (d i : Nat) (f : Fld) (n c : Nat) : getCtx (fsat s d i f n) c = getCtx s c := rfl

section
variable {s u : State} (hu : HomesOnly s u) (c : Nat)
include hu

theorem HomesOnly.getCtx : getCtx u c = getCtx s c := hu.get (f := (Machine.getCtx · c))

/-- Of a context whose descriptor is taken, the command is appended and the next sequence is to be fetched (R273). -/
theorem takeDesc_taken (bs : List Byte) :
    (getCtx (takeDesc u c bs) c).cmds = (getCtx s c).cmds ++ [newCmd (getCtx s c).fetched (readDesc bs)] ∧
      (getCtx (takeDesc u c bs) c).fetched = ((getCtx s c).fetched + 1) % 2 ^ 48 ∧
      (getCtx (takeDesc u c bs) c).stale = none ∧ CtxsBut s (takeDesc u c bs) c ∧ (takeDesc u c bs).launches = s.launches := by
  have honly : OnlyCtx c s (takeDesc u c bs) := (((OnlyCtx.refl c s).homes hu).putCtx _).update rfl rfl
  have hctx : getCtx (takeDesc u c bs) c = { getCtx u c with
      cmds := (getCtx u c).cmds ++ [newCmd (getCtx u c).fetched (readDesc bs)]
      fetched := ((getCtx u c).fetched + 1) % 2 ^ 48
      stale := none } := by simp only [takeDesc, getCtx_fsat, getCtx_modCtx]
  rw [hctx, hu.getCtx c]
  exact ⟨rfl, rfl, rfl, honly.others, honly.launches⟩

/-- A context whose stamp does not match waits for its refetch. -/
theorem setStale_waits (n : Option Nat) :
    let t := modCtx u c fun x => { x with stale := n }
    (getCtx t c).cmds = (getCtx s c).cmds ∧ (getCtx t c).fetched = (getCtx s c).fetched ∧
      (getCtx t c).stale = n ∧ CtxsBut s t c ∧ t.launches = s.launches := by
  have honly : OnlyCtx c s (modCtx u c fun x => { x with stale := n }) := ((OnlyCtx.refl c s).homes hu).putCtx _
  dsimp only
  rw [getCtx_modCtx, hu.getCtx c]
  exact ⟨rfl, rfl, rfl, honly.others, honly.launches⟩

/-- A context that is parked keeps its commands; the event that tells of it changes nothing else of the context (R278, R288). -/
theorem parkCtx_parked (seq : Nat) {st : Nat} (hst : st < 2 ^ 16) :
    ctxState (getCtx (parkCtx u c seq st) c) = 2 ∧
      fldOf Fl.QFE_CTX_STATE_PARK_STATUS (getCtx (parkCtx u c seq st) c).state = st ∧
      (getCtx (parkCtx u c seq st) c).stale = none ∧ (getCtx (parkCtx u c seq st) c).cmds = (getCtx s c).cmds ∧
      CtxsBut s (parkCtx u c seq st) c ∧ (parkCtx u c seq st).launches = s.launches := by
  have hr : Reports c (modCtx u c fun x => setCtxState { x with
      state := fldSet Fl.QFE_CTX_STATE_PARK_STATUS x.state st, stale := none } stParked) (parkCtx u c seq st) := ctxEvent_reports ..
  have honly := (((OnlyCtx.refl c s).homes hu).putCtx _).trans hr.only
  have hstate := hr.state
  have hpark := hr.park
  have hstale := hr.stale
  have hcmds := hr.cmds
  rw [getCtx_modCtx, hu.getCtx c] at hstate hpark hstale hcmds
  refine ⟨hstate.trans (ctxState_setCtxState ..), hpark.trans ?_, hstale, hcmds, honly.others, honly.launches⟩
  exact (parkStatus_setCtxState ..).trans (parkStatus_fldSet _ hst)

end

/-! ### DESCRIPTOR_FETCH -/

/-- After a context has had its turn, the one behind it in its class is next (R290). -/
abbrev tookTurn (s : State) (h c : Nat) : State :=
  { s with rrNext := smPut s.rrNext (h * 8 + fldOf Fl.QFE_CTX_ATTR_PRIORITY (getCtx s c).attr) (c + 1) }

section
variable {s : State} {h c : Nat} (hp : pickCtx s h = some c)
include hp

theorem doDescriptorFetch_of_refusal {st : Nat} (hr : ringRefusal (tookTurn s h c) c (ringBase (getCtx s c).cmdRing) = some st) :
    doDescriptorFetch h s = parkCtx (tookTurn s h c) c (getCtx s c).fetched st := by
  simp only [doDescriptorFetch, hp, hr]

variable (hr : ringRefusal (tookTurn s h c) c (ringBase (getCtx s c).cmdRing) = none)
include hr

theorem doDescriptorFetch_of_stamp {bs : List Byte}
    (hst : stampOk (readSlotOf (tookTurn s h c) c (getCtx s c)).1 (getCtx s c).fetched = some bs) :
    doDescriptorFetch h s = takeDesc (readSlotOf (tookTurn s h c) c (getCtx s c)).2 c bs := by
  simp only [doDescriptorFetch, hp, hr, hst]

theorem doDescriptorFetch_of_mismatch
    (hst : stampOk (readSlotOf (tookTurn s h c) c (getCtx s c)).1 (getCtx s c).fetched = none) :
    doDescriptorFetch h s = modCtx (readSlotOf (tookTurn s h c) c (getCtx s c)).2 c fun x => { x with stale := some 0 } := by
  simp only [doDescriptorFetch, hp, hr, hst]

end

/-! ### STALE_REFETCH -/

/-- A refetch is counted. -/
abbrev countedRefetch (s : State) (c : Nat) : State := fsat s (ctxHub c) 0 Fl.QFE_COUNT_STALE_REFETCHES 1

section
variable {s : State} {c n : Nat} (hn : (getCtx s c).stale = some n) (hs : ctxState (getCtx s c) = 1) (hf : fencedCtx s c = false)
include hn hs hf

theorem doStaleRefetch_of_refusal {st : Nat} (hr : ringRefusal (countedRefetch s c) c (ringBase (getCtx s c).cmdRing) = some st) :
    doStaleRefetch c s = parkCtx (countedRefetch s c) c (getCtx s c).fetched st := by
  simp only [doStaleRefetch, hn, hs, hf, hr, stRunning, ne_eq, not_true_eq_false, Bool.false_eq_true, or_self, if_false]

variable (hr : ringRefusal (countedRefetch s c) c (ringBase (getCtx s c).cmdRing) = none)
include hr

theorem doStaleRefetch_of_stamp {bs : List Byte}
    (hst : stampOk (readSlotOf (countedRefetch s c) c (getCtx s c)).1 (getCtx s c).fetched = some bs) :
    doStaleRefetch c s = takeDesc (readSlotOf (countedRefetch s c) c (getCtx s c)).2 c bs := by
  simp only [doStaleRefetch, hn, hs, hf, hr, hst, stRunning, ne_eq, not_true_eq_false, Bool.false_eq_true, or_self, if_false]

/-- The fourth mismatch parks the context (R278). -/
theorem doStaleRefetch_of_fourth (h4 : 4 ≤ n + 1)
    (hst : stampOk (readSlotOf (countedRefetch s c) c (getCtx s c)).1 (getCtx s c).fetched = none) :
    doStaleRefetch c s = parkCtx (readSlotOf (countedRefetch s c) c (getCtx s c)).2 c (getCtx s c).fetched := by
  simp only [doStaleRefetch, hn, hs, hf, hr, hst, Nat.not_lt.2 h4, stRunning, ne_eq, not_true_eq_false, Bool.false_eq_true, or_self,
    if_false]

end

/-! ### COMMAND_DISPATCH -/

section
variable {s : State} {c : Nat} {k : Cmd} (hs : ctxState (getCtx s c) = 1 ∨ ctxState (getCtx s c) = 2) (hf : fencedCtx s c = false)
  (hm : mayDispatch (getCtx s c) = some k)
include hs hf hm

theorem doCommandDispatch_of_passed (hd : descStatus (getCtx s c) k.desc = none) :
    doCommandDispatch c s = modCmd s c k.seq fun y => { y with dispatched := true, blocking := holdsLater y.desc } := by
  simp only [doCommandDispatch, stRunning, stParked, hs, hf, hm, hd, Bool.not_false, and_self, if_true]

theorem doCommandDispatch_of_failed {st : Nat} (hd : descStatus (getCtx s c) k.desc = some st) :
    doCommandDispatch c s = complete s c k.seq st (descDetail k.desc) := by
  simp only [doCommandDispatch, stRunning, stParked, hs, hf, hm, hd, Bool.not_false, and_self, if_true]

end

/-- Settles O17: what the ring's memory, the stamp and the checks of a descriptor select takes the descriptor, waits, parks the context,
or dispatches or ends the command; the reads and records on the way change no context and no launch (`HomesOnly`, `Reports`). -/
theorem descriptorsFetchAndDispatch : Obligations.DescriptorsFetchAndDispatch := by
  unfold Obligations.DescriptorsFetchAndDispatch
  have hcount (s : State) (c : Nat) : HomesOnly s (countedRefetch s c) := (HomesOnly.refl s).fput
  refine ⟨?fetches, ?waits, ?refused, ?refetchRefused, ?refetches, ?fourth, ?dispatches, ?fails⟩
  case fetches =>
    intro h c bs s hp hr hst
    exact ⟨_, congrArg Host.Outcome.next (doDescriptorFetch_of_stamp hp hr hst),
      takeDesc_taken (readSlotOf_homesOnly (.refl (tookTurn s h c)) c _) c bs⟩
  case waits =>
    intro h c s hp hr hst
    exact ⟨_, congrArg Host.Outcome.next (doDescriptorFetch_of_mismatch hp hr hst),
      setStale_waits (readSlotOf_homesOnly (.refl (tookTurn s h c)) c _) c (some 0)⟩
  case refused =>
    intro h c st s hp hr
    exact ⟨_, congrArg Host.Outcome.next (doDescriptorFetch_of_refusal hp hr),
      parkCtx_parked (.refl (tookTurn s h c)) c _ (ringRefusal_lt hr)⟩
  case refetchRefused =>
    intro c st n s hn hs hf hr
    exact ⟨_, congrArg Host.Outcome.next (doStaleRefetch_of_refusal hn hs hf hr), parkCtx_parked (hcount s c) c _ (ringRefusal_lt hr)⟩
  case refetches =>
    intro c n bs s hn hs hf hr hst
    exact ⟨_, congrArg Host.Outcome.next (doStaleRefetch_of_stamp hn hs hf hr hst),
      takeDesc_taken (readSlotOf_homesOnly (hcount s c) c _) c bs⟩
  case fourth =>
    intro c s hn hs hf hr hst
    exact ⟨_, congrArg Host.Outcome.next (doStaleRefetch_of_fourth hn hs hf hr (by decide) hst),
      parkCtx_parked (readSlotOf_homesOnly (hcount s c) c _) c _ (by decide)⟩
  case dispatches =>
    intro c k s hs hf hm hd hk
    exact ⟨_, congrArg Host.Outcome.next (doCommandDispatch_of_passed hs hf hm hd),
      getCmd_modCmd (f := fun y => { y with dispatched := true, blocking := holdsLater y.desc }) (fun _ => rfl) hk,
      CtxsBut.putCtx rfl _, ⟨rfl, rfl, rfl⟩, rfl, rfl⟩
  case fails =>
    intro c st k s hs hf hm hd hk
    obtain ⟨hgone, htail⟩ := complete_ends hk st (descDetail k.desc)
    have honly := complete_onlyCtx s c k.seq st (descDetail k.desc)
    exact ⟨_, congrArg Host.Outcome.next (doCommandDispatch_of_failed (.inl hs) hf hm hd), hgone, htail, honly.others, honly.launches⟩

end Sys2Proof.Proofs
end

section
/-! A MOVE that goes on after its entry has broken off once at a stall (R222, R285). -/

namespace Sys2Proof.Proofs

open Sys2Proof.Machine

/-- Command 1 of context 5, a MOVE of two entries from 0x10000 on. It holds Finder 0, and its first entry has broken off once while it
waited on a fault record, which is what the model's `accepted` says of a MOVE. -/
def brokenMove : Cmd :=
  { newCmd 1 ⟨2, 0, 0, 2, 0x10000, 0, 0, []⟩ with dispatched := true, finder := some 0, accepted := true }

/-- At 0x10000 an entry that moves one row of 8 bytes from 0x10100 to 0x10200. -/
def moveList : Memory :=
  [(0x10001, 1), (0x10002, 1), (0x10009, 2), (0x1000A, 1), (0x10010, 8), (0x10014, 8), (0x10018, 1), (0x1001A, 8), (0x1001C, 8),
    (0x10100, 7)]

def moveEntryBytes : List Byte := memReadN moveList 0x10000 64

/-- A device that runs, with 32 GiB in DDR channel 0 of HD0 and a translation of the page at 0x10000, while that MOVE waits for nothing
any more. -/
def brokenMoveState : State :=
  { fput (fput State.reset 16 0 Fl.DDR_POPULATION_POPULATED 1) 16 0 Fl.DDR_POPULATION_CHANNEL_GIB 32 with
    rst := { State.reset.rst with kind := .none }
    mem := moveList
    xlat := { State.reset.xlat with hub := [(18, [⟨5, 0x10000, 0x10000, 0x10000, true⟩])] }
    ctxs := [(5, { Ctx.fresh with cmds := [brokenMove] })] }

/-- The entry is counted, and the command's next entry has not broken off. -/
theorem brokenMove_counts :
    getCmd (doMoveEntry 5 1 .none brokenMoveState) 5 1 = some { brokenMove with done := 1, accepted := false } := by decide

/-- Refutes O18, in its second clause. A MOVE whose entry has broken off once at a stall (R222) carries that out again and counts the
entry; that it broke off concerns this entry only, and is forgotten. The clause says that the command changes in its count
alone. -/
theorem not_contextCommandsRun : ¬ Obligations.ContextCommandsRun := by
  unfold Obligations.ContextCommandsRun
  rintro ⟨-, hentry, -⟩
  obtain ⟨t, ht, hcmd, -⟩ := hentry 5 1 0 8 8 moveEntryBytes brokenMove brokenMoveState (by decide) rfl rfl (by decide) (by decide)
    (by decide) (by decide) (by decide)
  obtain rfl := Host.Outcome.next.inj ht
  exact absurd (brokenMove_counts.symm.trans hcmd) (by decide)

end Sys2Proof.Proofs
end

section
/-! A partition full reset that ends with a stack bond beyond repair (R293, R388, R402). -/

namespace Sys2Proof.Proofs

open Sys2Proof.Machine

/-! ### Training that fails -/

/-- A bond with more failed pads than spares fails its training. -/
theorem trainLink_of_bondBad {f : Findings} {s : State} {d p : Nat} (fresh : Nat → Bool) (hh : heldDown s d p = false)
    (hb : isBond d p = true) (hf : bondBad f d p = true) : trainLink f fresh s d p = (some 1, s) := by
  simp only [trainLink, hh, hb, hf, Bool.false_eq_true, if_false, if_true]

/-- Training one link of several: one that fails joins those that have. -/
def trainNext (f : Findings) (fresh : Nat → Bool) (q : List (Nat × Nat × Nat) × State) (x : Nat × Nat) :
    List (Nat × Nat × Nat) × State :=
  match trainLink f fresh q.2 x.1 x.2 with
  | (none, s) => (q.1, s)
  | (some c, s) => (q.1 ++ [(x.1, x.2, c)], lnkGoDown (showAttempts s x.1 x.2 c) x.1 x.2)

theorem trainLinks_eq (s : State) (f : Findings) (fresh : Nat → Bool) (sel : Nat → Nat → Bool) :
    trainLinks s f fresh sel = (allLinks.filter fun x => sel x.1 x.2).foldl (trainNext f fresh) ([], s) := rfl

/-- A link that has failed stays among those that have. -/
theorem subset_trainNext (f : Findings) (fresh : Nat → Bool) (q : List (Nat × Nat × Nat) × State) (x : Nat × Nat) :
    q.1 ⊆ (trainNext f fresh q x).1 := by
  unfold trainNext
  split
  · exact List.Subset.refl _
  · exact List.subset_append_left ..

theorem subset_foldl_trainNext (f : Findings) (fresh : Nat → Bool) (l : List (Nat × Nat)) (q : List (Nat × Nat × Nat) × State) :
    q.1 ⊆ (l.foldl (trainNext f fresh) q).1 :=
  List.foldlRecOn (motive := fun r => q.1 ⊆ r.1) l (trainNext f fresh) (List.Subset.refl _) fun r hr x _ =>
    List.Subset.trans hr (subset_trainNext f fresh r x)

/-- A link that fails whatever has been trained before it is among those that failed. -/
theorem mem_trainLinks {s : State} {f : Findings} {fresh : Nat → Bool} {sel : Nat → Nat → Bool} {d p c : Nat}
    (hl : (d, p) ∈ allLinks) (hs : sel d p = true) (hfail : ∀ u, trainLink f fresh u d p = (some c, u)) :
    (d, p, c) ∈ (trainLinks s f fresh sel).1 := by
  have hmem : (d, p) ∈ allLinks.filter fun x => sel x.1 x.2 := List.mem_filter.2 ⟨hl, hs⟩
  obtain ⟨before, after, hsplit⟩ := List.append_of_mem hmem
  rw [trainLinks_eq, hsplit, List.foldl_append, List.foldl_cons]
  refine subset_foldl_trainNext f fresh after _ ?_
  simp [trainNext, hfail]

theorem mem_insertNat (l : List Nat) (a : Nat) : a ∈ insertNat l a := by
  induction l with
  | nil => simp [insertNat]
  | cons x r ih =>
    unfold insertNat
    split
    · next hx => simp [hx]
    · split
      · simp
      · simp [ih]

/-- A partition stays fenced when a link fails that is neither a port nor a system link (R400). -/
theorem finishPart_fences {f : Findings} {s : State} {p : Nat} {x : Nat × Nat × Nat}
    (hx : x ∈ (trainLinks s f (partAllDies s p).contains (touches (partAllDies s p))).1) (hc : lossClass x.1 x.2.1 ≠ 2) :
    p ∈ (finishPart f s p).rst.fenced := by
  unfold finishPart
  dsimp only
  rw [if_pos (List.any_eq_true.2 ⟨x, hx, by simpa using hc⟩)]
  exact mem_insertNat _ _

/-! ### The state -/

/-- A device that runs but for partition 0, which is in its reset. -/
def partInReset : State := { State.reset with rst := { State.reset.rst with kind := .none, parts := [0] } }

/-- Training finds every link good but the bond of stack 0, two pads of whose first group have failed. -/
def badBondPads : Findings := ⟨[], [], [], [], [], [], [], [(0, [2])], []⟩

/-- The two ends of a stack bond lie in one partition: it is never held down. -/
theorem heldDown_bond_zero (s : State) : heldDown s 0 0 = false := by
  simp [heldDown, diePart, lnkPeer, linkEnd, dieType]

/-- Refutes O51, in its clause on PARTITION_RESET_COMPLETE with good links. The clause asks only that no link is among those that do not
answer; a stack bond fails all the same when more of its pads have failed than it has spares (R388), and then the partition stays
fenced. -/
theorem not_partitionResetsClearTheirPartition : ¬ Obligations.PartitionResetsClearTheirPartition := by
  unfold Obligations.PartitionResetsClearTheirPartition
  rintro ⟨-, -, -, -, hcomplete, -⟩
  obtain ⟨t, ht, -, hfenced, -⟩ := hcomplete 0 badBondPads partInReset rfl (by decide) rfl
  obtain rfl := Host.Outcome.next.inj ht
  have hbad : (0, 0, 1) ∈ (trainLinks partInReset badBondPads (partAllDies partInReset 0).contains
      (touches (partAllDies partInReset 0))).1 :=
    mem_trainLinks (by decide) (by decide) fun u => trainLink_of_bondBad _ (heldDown_bond_zero u) (by decide) (by decide)
  have hmem : 0 ∈ (doPartitionResetComplete 0 badBondPads partInReset).rst.fenced := by
    rw [doPartitionResetComplete, if_pos (by decide)]
    exact finishPart_fences hbad (by decide)
  rw [hfenced] at hmem
  exact absurd hmem (by decide)

end Sys2Proof.Proofs
end

section
/-! A MOVE command that opens the fault record of its destination page after it has waited for room (R222, R311). -/

namespace Sys2Proof.Proofs

open Sys2Proof.Machine

/-- The state in which a fault that has waited for room tries again: it waits no more. -/
def retried (s : State) (w : FaultWait) : State := { s with xlat := { s.xlat with waiting := s.xlat.waiting.erase w } }

/-- A fault that waited for room opens its record once there is room and none of its page is open. -/
theorem doFaultOpenRetry_of_canOpen {ctx page : Nat} {w : FaultWait} {s : State}
    (hw : s.xlat.waiting.find? (fun w => w.ctx == ctx && w.page == page) = some w)
    (hf : s.xlat.faults.find? (fun f => f.ctx == ctx && f.page == page) = none)
    (hring : fget s 16 0 Fl.WLK_FAULT_RING_ENABLE ≠ 0) (hroom : canOpen s = true) :
    doFaultOpenRetry ctx page s = openFault (retried s w) ctx page w.cause w.level w.req w.write := by
  have hring' : fget (retried s w) 16 0 Fl.WLK_FAULT_RING_ENABLE ≠ 0 := hring
  have hroom' : canOpen (retried s w) = true := hroom
  rw [retried] at hring' hroom' ⊢
  simp only [doFaultOpenRetry, hw, hf, if_neg hring', if_pos hroom']

/-- Command 1 of context 5, a MOVE of one entry at 0x10000. It holds Finder 0 and waits for its entry's destination page. -/
def roomlessMove : Cmd :=
  { newCmd 1 ⟨2, 0, 0, 1, 0x10000, 0, 0, []⟩ with dispatched := true, finder := some 0, stalled := some 0x20000 }

/-- At 0x10000 an entry that moves one row of 8 bytes from 0x10100 to 0x20200. -/
def unmappedMoveList : Memory :=
  [(0x10001, 1), (0x10002, 1), (0x10009, 2), (0x1000A, 2), (0x10010, 8), (0x10014, 8), (0x10018, 1), (0x1001A, 8), (0x1001C, 8),
    (0x10100, 7)]

/-- The fault of that MOVE's write to its destination page, whose entry at level 1 is not present. -/
def roomlessFault : FaultWait := ⟨5, 0x20000, 1, 1, .cmd 5 1, true⟩

/-- A device that runs, with 32 GiB in DDR channel 0 of HD0, a translation of the page at 0x10000 and none of the page at 0x20000. The
fault queue is on and has room again, and that MOVE's fault has yet to try. -/
def roomlessState : State :=
  { fput (fput (fput State.reset 16 0 Fl.DDR_POPULATION_POPULATED 1) 16 0 Fl.DDR_POPULATION_CHANNEL_GIB 32)
      16 0 Fl.WLK_FAULT_RING_ENABLE 1 with
    rst := { State.reset.rst with kind := .none }
    mem := unmappedMoveList
    xlat := { State.reset.xlat with hub := [(18, [⟨5, 0x10000, 4096, 0x10000, true⟩])], waiting := [roomlessFault] }
    ctxs := [(5, { Ctx.fresh with cmds := [roomlessMove] })] }

/-- The state once the MOVE's fault has opened its record. -/
def roomlessOpened : State :=
  openFault (retried roomlessState roomlessFault) 5 0x20000 1 1 (.cmd 5 1) true

/-- Opening the record leaves the MOVE as one that has not broken off. -/
theorem roomlessOpened_not_broken : (getCmd (settleStalls roomlessOpened) 5 1).map (·.accepted) = some false := by decide

/-- Once it waits on the open record, the MOVE breaks off. -/
theorem settleMoves_roomlessOpened :
    (getCmd (settleMoves (settleStalls roomlessOpened)) 5 1).map (·.accepted) = some true := by decide

/-- Refutes O22, in its clause on FAULT_OPEN_RETRY where there is room. The clause names the state in which the record has opened and
streams have settled. A MOVE command that comes to wait on the record breaks off as well: its entry writes a free choice of its
lines and will replay from its first (R222), which the command keeps. -/
theorem not_walksFillOrFault : ¬ Obligations.WalksFillOrFault := by
  unfold Obligations.WalksFillOrFault
  rintro ⟨-, -, -, -, -, hopens, -⟩
  have hw : roomlessState.xlat.waiting.find? (fun w => w.ctx == 5 && w.page == 0x20000) = some roomlessFault := by decide
  have hf : roomlessState.xlat.faults.find? (fun f => f.ctx == 5 && f.page == 0x20000) = none := by decide
  have hring : fget roomlessState 16 0 Fl.WLK_FAULT_RING_ENABLE ≠ 0 := by decide
  have hroom : canOpen roomlessState = true := by decide
  have hstep : settleMoves (settleStalls (doFaultOpenRetry 5 0x20000 roomlessState)) = settleStalls roomlessOpened :=
    Host.Outcome.next.inj (hopens 5 0x20000 roomlessFault roomlessState hw hf hring hroom)
  rw [show doFaultOpenRetry 5 0x20000 roomlessState = roomlessOpened from doFaultOpenRetry_of_canOpen hw hf hring hroom] at hstep
  have hbroken := settleMoves_roomlessOpened
  rw [hstep, roomlessOpened_not_broken] at hbroken
  exact absurd hbroken (by decide)

end Sys2Proof.Proofs
end

section
/-! An invalidation that waits for an access which uses a translation of before its start (R314). -/

namespace Sys2Proof.Proofs

open Sys2Proof.Machine

/-- An invalidation that an access still waits for goes on. -/
theorem doTrcInvalidationDone_of_usesOld {s : State} {h : Nat} {x : Nat × Option Nat × Nat × Nat × Bool}
    (hx : s.xlat.invals.find? (fun x => x.1 == h) = some x)
    (hold : usesOld s (fun c => ctxHub c == h && x.2.1.elim true fun k => c == k) = true) : doTrcInvalidationDone h s = s := by
  simp only [doTrcInvalidationDone, hx, hold, or_true, if_true]

/-- The invalidation of all of context 5 at MH0. -/
def runningInval : Nat × Option Nat × Nat × Nat × Bool := (18, some 5, 0, 2 ^ 57, false)

/-- That invalidation runs while command 1 of context 5 still waits for another device to acknowledge a write. -/
def unackedInvalState : State :=
  { State.reset with
    net := { State.reset.net with remotes := [⟨4, kWrite, 9, .cmd 5 1, 0, false, [], 0⟩] }
    xlat := { State.reset.xlat with invals := [runningInval] } }

/-- The write that is not acknowledged was translated before the invalidation started. -/
theorem usesOld_unackedInvalState : usesOld unackedInvalState (fun c => ctxHub c == 18 && c == 5) = true := by decide

/-- Refutes O23, in its clause on TRC_INVALIDATION_DONE. The clause asks only that no walk is to be discarded; but an invalidation takes
effect once every access that used a matching entry has completed as well (R314), and here a write to another device has not. -/
theorem not_faultsAreAnswered : ¬ Obligations.FaultsAreAnswered := by
  unfold Obligations.FaultsAreAnswered
  rintro ⟨-, -, -, -, -, -, -, -, -, -, hdone⟩
  obtain ⟨t, ht, -, -, -, hended, -⟩ := hdone 18 0 (2 ^ 57) (some 5) false unackedInvalState (by decide) (by decide)
  have hsame : doTrcInvalidationDone 18 unackedInvalState = unackedInvalState :=
    doTrcInvalidationDone_of_usesOld (x := runningInval) (by decide) usesOld_unackedInvalState
  obtain rfl := Host.Outcome.next.inj ht
  rw [hsame] at hended
  exact absurd hended (by decide)

end Sys2Proof.Proofs
end

section
/-! Interrupts: messages, IRQ_IPI, and the cores' reads of IRQ_ACK and writes of IRQ_EOI (R337 to R339). -/

namespace Sys2Proof.Proofs

open Sys2Proof.Machine Sys2Proof.Safety Sys2Proof.Laws

/-! ### Routing entries -/

theorem getVec_of_vecs {s t : State} (h : t.vecs = s.vecs) (v : Nat) : getVec t v = getVec s v := congrArg (smGetD · Vec.fresh v) h

theorem getVec_putVec (s : State) (v w : Nat) (x : Vec) : getVec (putVec s v x) w = if w = v then x else getVec s w :=
  smGetD_smPut _ _ _ _ _

/-- A message sets PENDING of its entry, whether or not it counts as unroutable. -/
theorem vecMessage_vecs (s : State) (v : Nat) :
    (vecMessage s v).vecs = smPut s.vecs v { getVec s v with pending := true } := by
  unfold vecMessage
  dsimp only
  split <;> rfl

/-- What a message makes of the routing entries depends on them alone. -/
theorem vecMessage_vecs_congr {s t : State} (h : t.vecs = s.vecs) (v : Nat) : (vecMessage t v).vecs = (vecMessage s v).vecs := by
  rw [vecMessage_vecs, vecMessage_vecs, getVec_of_vecs h, h]

theorem getVec_vecMessage (s : State) (v w : Nat) :
    getVec (vecMessage s v) w = if w = v then { getVec s v with pending := true } else getVec s w :=
  (getVec_of_vecs (s := putVec s v { getVec s v with pending := true }) (vecMessage_vecs s v) w).trans (getVec_putVec _ _ _ _)

/-- Beside its entry a message changes at most the controller's counters. -/
theorem vecMessage_frame (s : State) (v : Nat) :
    SameMem s (vecMessage s v) ∧ (vecMessage s v).cores = s.cores ∧ (vecMessage s v).irqOut = s.irqOut ∧
      RegsBut s (vecMessage s v) [regKey (vecDie v) .irqCount 0] := by
  unfold vecMessage
  dsimp only
  split
  · exact ⟨⟨rfl, rfl, rfl⟩, rfl, rfl, rfl, rfl⟩
  · exact ⟨⟨rfl, rfl, rfl⟩, rfl, rfl, RegsBut.fput ⟨rfl, rfl⟩ _ (List.mem_singleton_self _)⟩

/-- A message on its way arrives. -/
theorem doIrqMessage_of_mem {s : State} {v : Nat} (h : v ∈ s.irqOut) :
    doIrqMessage v s = vecMessage { s with irqOut := s.irqOut.erase v } v := by
  simp [doIrqMessage, h]

theorem doIrqIpi_own {d v : Nat} (h : vecDie v = d) (s : State) :
    doIrqIpi d v s = vecMessage (fput s d 0 Fl.IRQ_IPI_REJECTED 0) v := if_pos h

theorem doIrqIpi_other {d v : Nat} (h : vecDie v ≠ d) (s : State) : doIrqIpi d v s = fput s d 0 Fl.IRQ_IPI_REJECTED 1 := if_neg h

/-- Settles O5: IRQ_IPI of the die's own vector is a message, on a state that differs in REJECTED alone; of another it is REJECTED. -/
theorem ipiActsAsMessage : Obligations.IpiActsAsMessage := by
  unfold Obligations.IpiActsAsMessage
  constructor
  · intro d v s hd hv
    obtain ⟨hmem, hcores, -, -⟩ := vecMessage_frame (fput s d 0 Fl.IRQ_IPI_REJECTED 0) v
    have hipi : exec (.irqIpi d v) s = .next (vecMessage (fput s d 0 Fl.IRQ_IPI_REJECTED 0) v) :=
      congrArg Host.Outcome.next ((onDie_of_alive hd _).trans (doIrqIpi_own hv s))
    have hmsg : exec (.irqMessage v) { s with irqOut := v :: s.irqOut } =
        .next (vecMessage { s with irqOut := (v :: s.irqOut).erase v } v) :=
      congrArg Host.Outcome.next (doIrqMessage_of_mem (List.mem_cons_self ..))
    refine ⟨_, _, hipi, hmsg, vecMessage_vecs_congr (by rfl) v, ?_, fun w hw => ?_, hmem, hcores⟩
    · rw [getVec_vecMessage, if_pos rfl]
    · rw [getVec_vecMessage, if_neg hw]
      rfl
  · intro d v s hd hv
    exact congrArg Host.Outcome.next ((onDie_of_alive hd _).trans (doIrqIpi_other hv s))

/-! ### IRQ_ACK and IRQ_EOI -/

section
variable {s : State} {d c : Nat} (hd : windowDead s d = false)
include hd

theorem doIrqAck_offered {v : Nat} (hv : ackVector s (coreUnit d c) = some v) :
    doIrqAck d c s = modCore (fsat (putVec s v { getVec s v with pending := false, inService := some (coreUnit d c) }) d 0
      Fl.IRQ_COUNT_DELIVERED 1) d c fun x => { x with result := .value (BitVec.ofNat 64 (2 ^ 63 + v)) } := by
  simp only [doIrqAck, onDie_of_alive hd, readAck, hv]

theorem doIrqAck_none (hv : ackVector s (coreUnit d c) = none) :
    doIrqAck d c s = modCore s d c fun x => { x with result := .value 0 } := by
  simp only [doIrqAck, onDie_of_alive hd, readAck, hv]

theorem doIrqEoi_own {v : Nat} (hv : (getVec s v).inService = some (coreUnit d c)) :
    doIrqEoi d c v s = putVec s v { getVec s v with inService := none } := by
  simp only [doIrqEoi, onDie_of_alive hd, hv, if_true]

theorem doIrqEoi_other {v : Nat} (hv : (getVec s v).inService ≠ some (coreUnit d c)) :
    doIrqEoi d c v s = fsat s d 0 Fl.IRQ_COUNT_EOI_IGNORED 1 := by
  simp only [doIrqEoi, onDie_of_alive hd, hv, if_false]

end

section
variable {s : State} {d c : Nat} (hr : coreRuns s d c = true) (hq : (getCore s d c).queue = [])
  (hw : deviceWaits s (getCore s d c) = false) (hl : loadsOut (getCore s d c) = false) (hm : mayRetire s d c = true)
include hr hq hw hl hm

theorem exec_irqAck : exec (.irqAck d c) s = .next (doIrqAck d c (retireStores s d c)) :=
  congrArg Host.Outcome.next (issue_device hr hq rfl hw hl hm)

theorem exec_irqEoi (v : Nat) : exec (.irqEoi d c v) s = .next (doIrqEoi d c v (retireStores s d c)) :=
  congrArg Host.Outcome.next (issue_device hr hq rfl hw hl hm)

end

theorem RegsBut.modCore {s t : State} {l : List Nat} (h : RegsBut s t l) {d c : Nat} (f : Core → Core) :
    RegsBut s (modCore t d c f) l := h

/-- A count of the interrupt controller. -/
theorem irqCount_regsBut {s t : State} {d : Nat} (h : RegsBut s t [regKey d .irqCount 0]) {f : Fld} (hf : f.reg = .irqCount) (n : Nat) :
    RegsBut s (fsat t d 0 f n) [regKey d .irqCount 0] := RegsBut.fput h _ (by rw [hf]; exact List.mem_singleton_self _)

end Sys2Proof.Proofs
end

section
/-! What the draining of a core's buffers leaves alone, with all the coherence traffic that it sets off (R326, R331, R343 to R350):
the accesses that cores hold back, and the registers in which nothing reports. No combining buffer takes a line. -/

namespace Sys2Proof.Proofs

open Sys2Proof.Machine Sys2Proof.Laws

theorem smGet_map {α : Type} (m : SMap α) (f : Nat × α → Nat × α) (hf : ∀ p, (f p).1 = p.1) (k : Nat) :
    smGet (m.map f) k = (smGet m k).map fun v => (f (k, v)).2 := by
  induction m with
  | nil => rfl
  | cons p r ih =>
    obtain ⟨a, w⟩ := p
    have ha := hf (a, w)
    simp only [List.map_cons, smGet, ha, ih]
    split
    · next h => subst h; rfl
    · split <;> rfl

/-- A message that was looked for at a home is for that home. -/
theorem home_of_find? {l : List RespMsg} {h : Nat} {p q : RespMsg → Bool} {m : RespMsg}
    (hm : (l.find? fun m => m.home == h && p m && q m) = some m) : m.home = h := by
  have hp := List.find?_some hm
  simp only [Bool.and_eq_true, beq_iff_eq] at hp
  exact hp.1.1

theorem blockingWb_home {s : State} {h : Nat} {ls : List Nat} {m : RespMsg} (hm : blockingWb s h ls = some m) : m.home = h := by
  obtain ⟨y, -, hy⟩ := Option.bind_eq_some_iff.1 hm
  exact home_of_find? hy

/-- A core that may take an error while the buffers of core `c₀` of die `d₀` drain: that core, and every core of a die to which a line
can be delivered. -/
def errCore (d₀ c₀ d c : Nat) : Prop := d < 18 ∧ c < 256 ∨ d = d₀ ∧ c = c₀

/-- A place of register space in which such a drain may report: that of a home or of a memory controller, or a core's error register. -/
def drainPlace (d₀ c₀ k : Nat) : Prop :=
  (∃ d r, reportReg d r ∧ k = regKey d r 0) ∨
    ∃ d c r, errCore d₀ c₀ d c ∧ (r = .coreErrAddr ∨ r = .coreErrInfo) ∧ k = regKey d r c

/-- From one state to another no core holds back another access or has a further line in its combining buffer, and only registers in
which a drain of the core's buffers reports differ. -/
structure Drains (d₀ c₀ : Nat) (s t : State) : Prop where
  queue : ∀ d c, (getCore t d c).queue = (getCore s d c).queue
  stnt : ∀ d c, (getCore t d c).stnt ⊆ (getCore s d c).stnt
  regs : ∀ k, ¬ drainPlace d₀ c₀ k → smGet t.regs k = smGet s.regs k
  fuses : t.fuses = s.fuses

namespace Drains

variable {d₀ c₀ : Nat}

theorem refl (s : State) : Drains d₀ c₀ s s := ⟨fun _ _ => rfl, fun _ _ => List.Subset.refl _, fun _ _ => rfl, rfl⟩

theorem trans {s t u : State} (h : Drains d₀ c₀ s t) (h' : Drains d₀ c₀ t u) : Drains d₀ c₀ s u :=
  ⟨fun d c => (h'.queue d c).trans (h.queue d c), fun d c => List.Subset.trans (h'.stnt d c) (h.stnt d c),
    fun k hk => (h'.regs k hk).trans (h.regs k hk), h'.fuses.trans h.fuses⟩

/-- An update of neither cores nor registers. -/
theorem update {s t : State} (h : Drains d₀ c₀ s t) {fresh mem poison flaws ceLog coh evt} :
    Drains d₀ c₀ s { t with
      fresh := fresh, mem := mem, poison := poison, flaws := flaws, ceLog := ceLog, coh := coh, evt := evt } :=
  ⟨h.queue, h.stnt, h.regs, h.fuses⟩

theorem ite {s a b : State} {c : Prop} {_ : Decidable c} (ha : Drains d₀ c₀ s a) (hb : Drains d₀ c₀ s b) :
    Drains d₀ c₀ s (if c then a else b) := by
  split
  · exact ha
  · exact hb

theorem foldl {α : Type} {s t : State} {f : State → α → State} {l : List α} (h : Drains d₀ c₀ s t)
    (hf : ∀ u a, Drains d₀ c₀ s u → Drains d₀ c₀ s (f u a)) : Drains d₀ c₀ s (l.foldl f t) :=
  List.foldlRecOn (motive := Drains d₀ c₀ s) l f h fun u hu a _ => hf u a hu

/-- The state of an answer that was taken apart. -/
theorem snd {α : Type} {s t : State} {p : α × State} {a : α} (h : Drains d₀ c₀ s p.2) (e : p = (a, t)) : Drains d₀ c₀ s t := by
  rw [e] at h
  exact h

/-- Registers in which nothing reports read as before. -/
theorem rget {s t : State} (h : Drains d₀ c₀ s t) {d i : Nat} {r : Reg} (hk : ¬ drainPlace d₀ c₀ (regKey d r i)) :
    rget t d r i = rget s d r i := by
  simp only [Machine.rget, resetWord, h.regs _ hk, h.fuses]

variable {s t : State} (hs : Drains d₀ c₀ s t)
include hs

/-! ### Registers and cores (Machine/Ops.lean) -/

theorem fput {d i : Nat} {f : Fld} {v : Nat} (hf : drainPlace d₀ c₀ (regKey d f.reg i)) :
    Drains d₀ c₀ s (Machine.fput t d i f v) :=
  ⟨hs.queue, hs.stnt, fun k hk => (smGet_smPut_ne _ _ _ _ fun e : k = _ => hk (by rwa [e])).trans (hs.regs k hk), hs.fuses⟩

/-- A report of a home or of a memory controller. -/
theorem report {d : Nat} {f : Fld} {v : Nat} (hf : reportReg d f.reg) : Drains d₀ c₀ s (Machine.fput t d 0 f v) :=
  hs.fput (.inl ⟨_, _, hf, rfl⟩)

/-- A report of a home. -/
theorem cohReport {h : Nat} (hh : 16 ≤ h ∧ h < 22) {f : Fld} {v : Nat} (hf : f.reg.info.blk = .cohB) :
    Drains d₀ c₀ s (Machine.fput t h 0 f v) := hs.report (.inl ⟨hh, hf⟩)

/-- A change of one core that neither holds back another access nor puts a line into its combining buffer. -/
theorem modCore {d c : Nat} {f : Core → Core}
    (hf : ∀ x, (f x).queue = x.queue ∧ (f x).stnt ⊆ x.stnt := by exact fun _ => ⟨rfl, fun _ h => h⟩) :
    Drains d₀ c₀ s (Machine.modCore t d c f) := by
  have hcore (e b : Nat) : getCore (Machine.modCore t d c f) e b =
      if coreKey e b = coreKey d c then f (getCore t e b) else getCore t e b := by
    simp only [getCore, Machine.modCore, putCore, smGetD_smPut]
    split
    · next h => rw [h]
    · rfl
  refine hs.trans ⟨fun e b => ?_, fun e b => ?_, fun _ _ => rfl, rfl⟩ <;> rw [hcore] <;> split
  · exact (hf _).1
  · rfl
  · exact (hf _).2
  · exact List.Subset.refl _

theorem drawBelow {n : Nat} : Drains d₀ c₀ s (Machine.drawBelow t n).2 := hs.update

theorem memPut {a : Nat} {bs : List Byte} : Drains d₀ c₀ s (Machine.memPut t a bs) := hs.ite hs.update

theorem linePut {line : Nat} {bs : List Byte} : Drains d₀ c₀ s (Machine.linePut t line bs) := hs.update.memPut

theorem notePoison {line : Nat} : Drains d₀ c₀ s (Machine.notePoison t line) := by
  have hbm {pc : Nat} (h : pc < 512) : reportReg (18 + pc / 128) .hbmLastError := .inr (.inl ⟨by omega, .inr rfl⟩)
  have ddr {c : Nat} (h : c < 16) : reportReg (16 + c / 8) .ddrLastError := .inr (.inr ⟨by omega, .inr rfl⟩)
  unfold Machine.notePoison
  split
  · exact hs
  · split
    · split
      · have hr := hbm (hbmDecode_lt (paKind_hbm_range ‹_›) ‹_›)
        exact ((hs.report hr).report hr).report hr
      · exact hs
    · split
      · have hr := ddr (ddrDecode_lt ‹_›)
        exact ((hs.report hr).report hr).report hr
      · exact hs
    · exact hs

/-! ### Memory controllers (Machine/Memctl.lean) -/

/-- A report of the controller of a line. -/
theorem ctlReport {c : Nat × Bool × Nat} (hc : ctlDie c) {f g : Fld} {v : Nat} (hf : f.reg = .hbmStats ∨ f.reg = .hbmLastError)
    (hg : g.reg = .ddrStats ∨ g.reg = .ddrLastError) : Drains d₀ c₀ s (Machine.fput t c.1 0 (if c.2.1 then f else g) v) := by
  unfold ctlDie at hc
  by_cases hb : c.2.1 = true
  · simp only [hb, if_true] at hc ⊢
    exact hs.report (.inr (.inl ⟨hc, hf⟩))
  · simp only [hb, Bool.false_eq_true, if_false] at hc ⊢
    exact hs.report (.inr (.inr ⟨hc, hg⟩))

theorem lastError {c : Nat × Bool × Nat} (hc : ctlDie c) {kind line : Nat} : Drains d₀ c₀ s (Machine.lastError t c kind line) := by
  unfold ctlDie at hc
  unfold Machine.lastError
  split
  · rw [if_pos ‹_›] at hc
    have hr : reportReg c.1 .hbmLastError := .inr (.inl ⟨hc, .inr rfl⟩)
    exact ((hs.report hr).report hr).report hr
  · rw [if_neg ‹_›] at hc
    have hr : reportReg c.1 .ddrLastError := .inr (.inr ⟨hc, .inr rfl⟩)
    exact ((hs.report hr).report hr).report hr

theorem memCe {line : Nat} : Drains d₀ c₀ s (Machine.memCe t line) := by
  have hrate {u : State} {c : Nat × Bool × Nat} (hu : Drains d₀ c₀ s u) : Drains d₀ c₀ s (Machine.ceRate u c) :=
    hu.update.ite hu.update
  unfold Machine.memCe
  split
  · exact hs
  · have hc := controllerOf_die ‹_›
    exact hrate ((hs.ctlReport hc (.inl rfl) (.inl rfl)).lastError hc)

theorem memUe {line : Nat} : Drains d₀ c₀ s (Machine.memUe t line) := by
  unfold Machine.memUe
  split
  · exact hs.update
  · have hc := controllerOf_die ‹_›
    exact ((hs.ctlReport hc (.inl rfl) (.inl rfl)).lastError hc).update

theorem memFetch {line : Nat} {e : Ecc} : Drains d₀ c₀ s (Machine.memFetch t line e).2.2 := by
  have hecc : Drains d₀ c₀ s (Machine.memEcc t line e) := by
    unfold Machine.memEcc
    split
    · exact hs.notePoison
    · split
      · exact hs.update
      · exact hs.update.memCe
      · exact hs.update.memUe
  unfold Machine.memFetch
  split
  · exact hs
  · exact hecc

/-! ### Caches and messages (Machine/Coherence.lean) -/

/-- A change of every core that neither holds back another access nor puts a line into a combining buffer. -/
theorem mapCores {f : Nat × Core → Nat × Core} (hf : ∀ p, (f p).1 = p.1 ∧ (f p).2.queue = p.2.queue ∧ (f p).2.stnt = p.2.stnt) :
    Drains d₀ c₀ s { t with cores := t.cores.map f } := by
  have hcore (d c : Nat) : getCore { t with cores := t.cores.map f } d c = getCore t d c ∨
      getCore { t with cores := t.cores.map f } d c = (f (coreKey d c, getCore t d c)).2 := by
    simp only [getCore, smGetD, smGet_map _ _ fun p => (hf p).1]
    cases smGet t.cores (coreKey d c) with
    | none => exact .inl rfl
    | some x => exact .inr rfl
  refine hs.trans ⟨fun d c => ?_, fun d c => ?_, fun _ _ => rfl, rfl⟩ <;> rcases hcore d c with h | h <;> rw [h]
  · exact (hf _).2.1
  · exact List.Subset.refl _
  · rw [(hf _).2.2]
    exact List.Subset.refl _

/-- Lines leave the caches of a holder. -/
theorem mapHolder {holder line : Nat} {f : CacheLine → Option CacheLine} : Drains d₀ c₀ s (Machine.mapHolder t holder line f) := by
  unfold Machine.mapHolder
  split
  · exact (hs.mapCores fun p => by dsimp only; split <;> exact ⟨rfl, rfl, rfl⟩).update
  · exact hs.update

theorem cacheVictim {k : CacheKind} {l : List Nat} {line : Nat} : Drains d₀ c₀ s (Machine.cacheVictim t k l line).2 := by
  unfold Machine.cacheVictim
  dsimp only
  split
  · exact hs
  · exact hs.update

theorem fillL1 {d c line : Nat} {code : Bool} : Drains d₀ c₀ s (Machine.fillL1 t d c line code) :=
  hs.ite (hs.cacheVictim.modCore fun _ => by split <;> exact ⟨rfl, fun _ h => h⟩)

theorem putL3 {d : Nat} {c : CacheLine} : Drains d₀ c₀ s (Machine.putL3 t d c) := hs.cacheVictim.update

theorem putLink {d : Nat} {c : CacheLine} : Drains d₀ c₀ s (Machine.putLink t d c) := hs.cacheVictim.update

theorem sendResp {m : RespMsg} : Drains d₀ c₀ s (Machine.sendResp t m) := hs.update

theorem sendData {r : CohReq} {st : Mesi} {poison : Bool} {data : List Byte} :
    Drains d₀ c₀ s (Machine.sendData t r st poison data) := hs.update

theorem sendReturn {r : CohReq} {poison : Bool} {data : List Byte} : Drains d₀ c₀ s (Machine.sendReturn t r poison data) := hs.update

theorem leaveL2 {d : Nat} {x : CacheLine} : Drains d₀ c₀ s (Machine.leaveL2 t d x) :=
  hs.sendResp.ite (hs.drawBelow.ite hs.drawBelow.putL3)

theorem putL2 {d c : Nat} {x : CacheLine} : Drains d₀ c₀ s (Machine.putL2 t d c x) := by
  unfold Machine.putL2
  dsimp only
  split
  · exact hs.cacheVictim.modCore
  · exact hs.cacheVictim.modCore.leaveL2

theorem stashPut {target line : Nat} : Drains d₀ c₀ s (Machine.stashPut t target line) := by
  unfold Machine.stashPut
  split
  · exact hs.putL2
  · exact hs.putL3
  · exact hs.putLink

theorem modHome {h : Nat} {f : Home → Home} : Drains d₀ c₀ s (Machine.modHome t h f) := hs.update

theorem setEntry {h line : Nat} {em : Bool} {v : BitVec 6} : Drains d₀ c₀ s (Machine.setEntry t h line em v) := hs.update

theorem doProbe {holder line : Nat} : Drains d₀ c₀ s (Machine.doProbe holder line t) := by
  unfold Machine.doProbe
  split
  · exact hs
  · exact hs.update.ite (hs.ite hs.update.mapHolder.sendResp)

/-! ### Homes (Machine/Coherence.lean): a home is on a host die or a hub (R345) -/

section
variable {h : Nat} (hh : 16 ≤ h ∧ h < 22)
include hh

theorem showHome : Drains d₀ c₀ s (Machine.showHome t h) :=
  ((hs.cohReport hh rfl).cohReport hh rfl).cohReport hh rfl

theorem openTxn {r : CohReq} : Drains d₀ c₀ s (Machine.openTxn t h r).1 := by
  have hcount : Drains d₀ c₀ s (countServed t h r.code) := (hs.cohReport hh rfl).ite ((hs.cohReport hh rfl).ite (hs.cohReport hh rfl))
  exact ((hcount.cohReport hh rfl).modHome.cohReport hh rfl).foldl fun _ _ hu => hu.update

theorem openEvict {v : DirEntry} {r : CohReq} : Drains d₀ c₀ s (Machine.openEvict t h v r) := by
  have hcount {f : Fld} {v : Nat} (hf : f.reg.info.blk = .cohB) : Drains d₀ c₀ s (Machine.fput t h 0 f v) := hs.cohReport hh hf
  exact ((((hcount rfl).cohReport hh rfl).ite (hcount rfl)).modHome.cohReport hh rfl).foldl fun _ _ hu => hu.update

theorem toRetry {r : CohReq} : Drains d₀ c₀ s (Machine.toRetry t h r) := (hs.cohReport hh rfl).modHome.ite hs.modHome

theorem finishReq {y : Txn} : Drains d₀ c₀ s (Machine.finishReq t h y) := by
  unfold Machine.finishReq
  refine .ite ?_ (.ite ?_ (.ite hs.setEntry.sendData (.ite hs.memFetch.setEntry.sendReturn (.ite ?_ ?_))))
  · exact hs.memFetch.setEntry.sendData.ite (hs.memFetch.setEntry.sendData.ite hs.memFetch.setEntry.sendData)
  · exact hs.memFetch.setEntry.sendData.ite hs.memFetch.setEntry.sendData
  · have hwrite {u : State} {old : List Byte} {p : Bool} (hu : Drains d₀ c₀ s u) : Drains d₀ c₀ s (Machine.sendReturn
        (Machine.linePut u y.req.line (mergeMask old y.req.data y.req.mask)) y.req p []) := hu.linePut.sendReturn
    have hstash {u : State} (hu : Drains d₀ c₀ s u) : Drains d₀ c₀ s
        (if y.req.code = cWrFull then u
        else if stashUnit u y.req.target then
          Machine.fsat (Machine.setEntry (Machine.stashPut u y.req.target y.req.line) h y.req.line true
            (bitOf (holderOf (bits y.req.target 13 9)))) h 0 Fl.COH_STASH_INSTALLED 1
        else Machine.fsat u h 0 Fl.COH_STASH_DROPPED 1) :=
      hu.ite ((hu.stashPut.setEntry.cohReport hh rfl).ite (hu.cohReport hh rfl))
    by_cases hm : y.req.mask = BitVec.allOnes 64
    · simp only [hm, if_true]
      rw [← hm]
      exact hstash (hwrite hs.setEntry)
    · simp only [hm, if_false]
      exact hstash (hwrite hs.setEntry.memFetch)
  · exact hs.setEntry.memFetch.sendReturn.ite hs.setEntry.memFetch.memPut.sendReturn

theorem closeReq {y : Txn} : Drains d₀ c₀ s (Machine.closeReq t h y) := hs.modHome.finishReq hh

theorem serveReq {r : CohReq} : Drains d₀ c₀ s (Machine.serveReq t h r) := by
  unfold Machine.serveReq
  dsimp only
  split
  · split
    · exact hs.openEvict hh
    · exact hs.toRetry hh
  · exact ((hs.openTxn hh).closeReq hh).ite (hs.openTxn hh)

omit hs in
theorem serveQueue {s t : State} (hs : Drains d₀ c₀ s t) {n m : Nat} : Drains d₀ c₀ s (Machine.serveQueue n t h m) := by
  induction n generalizing t with
  | zero => exact hs
  | succ n ih =>
    unfold Machine.serveQueue
    dsimp only
    split
    · exact hs
    · split
      · exact hs
      · exact ih (hs.update.serveReq hh)

theorem serveNext {line : Nat} : Drains d₀ c₀ s (Machine.serveNext t h line) := (hs.serveQueue hh).showHome hh

theorem closeTxn {y : Txn} : Drains d₀ c₀ s (Machine.closeTxn t h y) :=
  (((hs.modHome.setEntry.serveReq hh).serveNext hh).serveNext hh).ite ((hs.closeReq hh).serveNext hh)

theorem answered {y : Txn} {holder : Nat} {kept : Bool} : Drains d₀ c₀ s (Machine.answered t h y holder kept) :=
  (hs.closeTxn hh).ite hs.modHome

theorem discardLate : Drains d₀ c₀ s (Machine.discardLate t h) := (hs.cohReport hh rfl).cohReport hh rfl

theorem wbPut {line : Nat} {d : List Byte} : Drains d₀ c₀ s (Machine.wbPut t h line d) :=
  (hs.cohReport hh rfl).ite (hs.cohReport hh rfl).linePut

theorem recallPut {y : Txn} {line : Nat} {d : List Byte} : Drains d₀ c₀ s (Machine.recallPut t h y line d) := hs.ite (hs.wbPut hh)

end

theorem takeResp {m : RespMsg} (hh : 16 ≤ m.home ∧ m.home < 22) : Drains d₀ c₀ s (Machine.takeResp t m) := by
  have hu : Drains d₀ c₀ s { t with coh := { t.coh with resps := t.coh.resps.erase m } } := hs.update
  unfold Machine.takeResp
  dsimp only
  split
  · exact hu.discardLate hh
  · split
    · exact hu.wbPut hh
    · exact ((hu.wbPut hh).ite (hu.wbPut hh).setEntry).ite (hu.discardLate hh)
    · exact (hu.recallPut hh).answered hh
    · exact hu.discardLate hh
    · exact (hu.cohReport hh rfl).answered hh
    · exact hu.discardLate hh
    · exact hu.answered hh
    · exact hu.discardLate hh

theorem arriveReq {h : Nat} {r : CohReq} : Drains d₀ c₀ s (Machine.arriveReq t h r) := by
  unfold Machine.arriveReq
  dsimp only
  by_cases hh : homeOf t r.line = h
  · have hr := hh ▸ homeOf_range t r.line
    exact hs.ite ((hs.modHome.showHome hr).ite ((hs.serveReq hr).showHome hr))
  · rw [if_pos (.inr (.inr hh))]
    exact hs

omit hs in
theorem settleReq {s t : State} (hs : Drains d₀ c₀ s t) {n h line : Nat} (hh : 16 ≤ h ∧ h < 22) :
    Drains d₀ c₀ s (Machine.settleReq n t h line) := by
  induction n generalizing t with
  | zero => exact hs
  | succ n ih =>
    unfold Machine.settleReq
    dsimp only
    split
    · exact ih hs.doProbe
    · split
      · next m hm =>
        have hhome : m.home = h := home_of_find? hm
        exact ih ((hs.takeResp (hhome ▸ hh)).showHome hh)
      · exact hs

/-! ### Lines and stores of a core (Machine/CoreMem.lean) -/

theorem installLine {d c : Nat} {m : DataMsg} : Drains d₀ c₀ s (Machine.installLine t d c m) := (hs.mapHolder.ite hs).putL2

theorem takeData {d c : Nat} {m : DataMsg} : Drains d₀ c₀ s (Machine.takeData t d c m).2 := by
  unfold Machine.takeData
  split
  · exact hs.update
  · exact hs.update.installLine

theorem l3Fill {u : State} {d c line : Nat} {own : Bool} (hu : Machine.l3Fill t d c line own = some u) : Drains d₀ c₀ s u := by
  unfold Machine.l3Fill at hu
  split at hu
  · cases hu
  · split at hu
    · cases hu
    · rw [← Option.some.inj hu]
      exact hs.update.putL2

theorem acquire {d c line : Nat} {own : Bool} : Drains d₀ c₀ s (Machine.acquire t d c line own).2 := by
  have hasked {code : Nat} {n : Nat} : Drains d₀ c₀ s (Machine.settleReq n (Machine.arriveReq t (homeOf t line)
      (bareReq code line (holderOf d) (coreUnit d c) .none)) (homeOf t line) line) := hs.arriveReq.settleReq (homeOf_range t line)
  unfold Machine.acquire
  dsimp only
  split
  · exact hs
  · split
    · exact hs.l3Fill ‹_›
    · split
      · exact hs
      · split
        · exact hasked.takeData
        · exact hasked

theorem writeL2 {d c a : Nat} {bs : List Byte} : Drains d₀ c₀ s (Machine.writeL2 t d c a bs) := by
  unfold Machine.writeL2
  split
  · exact hs
  · exact hs.putL2.fillL1

theorem missStore {d c : Nat} {b : BufStore} : Drains d₀ c₀ s (Machine.missStore t d c b) :=
  hs.modCore fun _ => by split <;> exact ⟨rfl, fun _ h => h⟩

theorem bindLine {d c a n : Nat} {own : BitVec 64 × List Byte} : Drains d₀ c₀ s (Machine.bindLine t d c a n own) := by
  unfold Machine.bindLine
  split
  · exact hs.fillL1.modCore
  · exact hs

theorem retireStores {d c : Nat} : Drains d₀ c₀ s (Machine.retireStores t d c) := hs.modCore

theorem retireFor {d c line : Nat} : Drains d₀ c₀ s (Machine.retireFor t d c line) := hs.modCore

section
variable {d c : Nat} (hc : errCore d₀ c₀ d c)
include hc

theorem coreErr {kind addr : Nat} : Drains d₀ c₀ s (Machine.coreErr t d c kind addr) := by
  have ha : drainPlace d₀ c₀ (regKey d .coreErrAddr c) := .inr ⟨d, c, _, hc, .inl rfl, rfl⟩
  have hi : drainPlace d₀ c₀ (regKey d .coreErrInfo c) := .inr ⟨d, c, _, hc, .inr rfl, rfl⟩
  exact ((hs.fput ha).fput hi).fput hi

theorem loadError {kind addr : Nat} : Drains d₀ c₀ s (Machine.loadError t d c kind addr) := (hs.coreErr hc).modCore

theorem storeErr {kind addr : Nat} : Drains d₀ c₀ s (Machine.storeErr t d c kind addr) :=
  (hs.coreErr hc).modCore.ite (hs.coreErr hc).modCore

theorem performStore {b : BufStore} : Drains d₀ c₀ s (Machine.performStore t d c b).2 := by
  unfold Machine.performStore
  split
  · exact hs.storeErr hc
  · split
    · exact (hs.acquire.snd ‹_›).writeL2
    · exact (hs.acquire.snd ‹_›).storeErr hc
    · exact (hs.acquire.snd ‹_›).missStore

omit hs in
theorem drainList {s t : State} (hs : Drains d₀ c₀ s t) {p : BufStore → Bool} {l : List BufStore} :
    Drains d₀ c₀ s (Machine.drainList p l t d c).2 := by
  induction l generalizing p t with
  | nil => exact hs
  | cons b r ih =>
    unfold Machine.drainList
    dsimp only
    split
    · exact ih hs
    · split <;> exact ih (hs.performStore hc)

theorem drainStores {p : BufStore → Bool} : Drains d₀ c₀ s (Machine.drainStores t d c p) := by
  unfold Machine.drainStores
  exact (hs.drainList hc).modCore

end

/-- A line reaches a core. -/
theorem deliver {d c line : Nat} (hc : c < 256) : Drains d₀ c₀ s (Machine.deliver t d c line) := by
  unfold Machine.deliver
  split
  · next hd =>
    have he : errCore d₀ c₀ d c := .inl ⟨hd, hc⟩
    split
    · exact hs
    · refine .ite (.ite ?_ (storeErr (modCore ?_) he)) (.ite ?_ (drainStores (retireFor ?_) he)) <;>
        exact hs.takeData.modCore.foldl fun _ _ hu => hu.ite ((hu.loadError he).ite hu.bindLine)
  · split
    · exact hs
    · exact hs.update.ite hs.update.putLink

omit hs in
theorem settleLine {s t : State} (hs : Drains d₀ c₀ s t) {n line : Nat} : Drains d₀ c₀ s (Machine.settleLine n t line) := by
  induction n generalizing t with
  | zero => exact hs
  | succ n ih =>
    have hh := homeOf_range t line
    unfold Machine.settleLine
    dsimp only
    split
    · exact ih hs.doProbe
    · split
      · next m hm =>
        have hhome : m.home = homeOf t line := home_of_find? hm
        exact ih ((hs.takeResp (hhome ▸ hh)).showHome hh)
      · split
        · exact ih ((hs.deliver (Nat.mod_lt _ (by omega))).ite (hs.deliver (by omega)))
        · split
          · next m hm =>
            have hhome : m.home = homeOf t line := blockingWb_home hm
            exact ih ((hs.takeResp (hhome ▸ hh)).showHome hh)
          · exact hs

/-! ### Requests of agents that hold no lines, and the combining buffer -/

theorem ncReq {r : CohReq} : Drains d₀ c₀ s (Machine.ncReq t r).2 := by
  unfold Machine.ncReq
  dsimp only
  split
  · split
    · exact hs.settleLine.arriveReq.settleLine.update
    · exact hs.settleLine.arriveReq.settleLine
  · exact hs.settleLine.arriveReq.settleLine

section
variable {d c : Nat} (hc : errCore d₀ c₀ d c)
include hc

omit hs in
/-- Once its line has left the combining buffer, its write is a request. -/
theorem leaveNt_left (t : State) (l : NtLine) : Drains d₀ c₀
    (Machine.modCore t d c fun x => { x with stnt := x.stnt.filter fun y => y.line != l.line }) (Machine.leaveNt t d c l) := by
  unfold Machine.leaveNt
  dsimp only
  split
  · exact (refl _).storeErr hc
  · exact ((refl _).ncReq.storeErr hc).ite (refl _).ncReq

theorem leaveNt {l : NtLine} : Drains d₀ c₀ s (Machine.leaveNt t d c l) := by
  refine trans ?_ (leaveNt_left hc t l)
  exact hs.modCore fun _ => ⟨rfl, List.filter_subset_self _⟩

theorem takeNt : Drains d₀ c₀ s (Machine.takeNt t d c) := hs.update.foldl fun _ _ hu => (hu.storeErr hc).ite hu

theorem drainNt : Drains d₀ c₀ s (Machine.drainNt t d c) := hs.foldl fun _ _ hu => hu.leaveNt hc

theorem drainAll : Drains d₀ c₀ s (Machine.drainAll t d c) := ((hs.retireStores.drainStores hc).drainNt hc).takeNt hc

omit hs in
/-- What the drain leaves in the store buffer is written at the homes. -/
theorem forceDrain_drained (t : State) : Drains d₀ c₀ (Machine.drainAll t d c) (Machine.forceDrain t d c) := by
  unfold Machine.forceDrain
  refine ((refl _).foldl fun _ _ hu => ?_).modCore
  split
  · exact hu.storeErr hc
  · exact (hu.ncReq.storeErr hc).ite hu.ncReq

theorem forceDrain : Drains d₀ c₀ s (Machine.forceDrain t d c) := (hs.drainAll hc).trans (forceDrain_drained hc t)

end

theorem flushCore {d c : Nat} : Drains d₀ c₀ s (Machine.flushCore t d c) := by
  unfold Machine.flushCore
  exact (hs.foldl fun _ _ hu => (hu.wbPut (homeOf_range _ _)).modHome.ite hu).modCore

end Drains

/-! ### The combining buffer is empty after a drain (R328) -/

/-- A line that leaves the combining buffer does not come back. -/
theorem leaveNt_stnt {s : State} {d c : Nat} {l x : NtLine} (hx : x ∈ (getCore (leaveNt s d c l) d c).stnt) :
    x ∈ (getCore s d c).stnt ∧ x.line ≠ l.line := by
  simpa using (Drains.leaveNt_left (d₀ := d) (c₀ := c) (.inr ⟨rfl, rfl⟩) s l).stnt d c hx

theorem foldl_leaveNt_stnt {s : State} {d c : Nat} {l : List NtLine} {x : NtLine}
    (hx : x ∈ (getCore (l.foldl (fun s y => leaveNt s d c y) s) d c).stnt) :
    x ∈ (getCore s d c).stnt ∧ ∀ y ∈ l, x.line ≠ y.line := by
  induction l generalizing s with
  | nil => exact ⟨hx, by simp⟩
  | cons y r ih =>
    obtain ⟨hleft, hr⟩ := ih hx
    obtain ⟨hin, hy⟩ := leaveNt_stnt hleft
    exact ⟨hin, List.forall_mem_cons.2 ⟨hy, hr⟩⟩

theorem drainNt_stnt (s : State) (d c : Nat) : (getCore (drainNt s d c) d c).stnt = [] :=
  List.eq_nil_iff_forall_not_mem.2 fun x hx =>
    have ⟨hin, hout⟩ := foldl_leaveNt_stnt hx
    hout x hin rfl

theorem drainAll_stnt (s : State) (d c : Nat) : (getCore (drainAll s d c) d c).stnt = [] :=
  List.eq_nil_of_subset_nil (drainNt_stnt (drainStores (retireStores s d c) d c fun _ => true) d c ▸
    ((Drains.refl _).takeNt (.inr ⟨rfl, rfl⟩)).stnt d c)

theorem drainAll_queue (s : State) (d c : Nat) : (getCore (drainAll s d c) d c).queue = (getCore s d c).queue :=
  ((Drains.refl s).drainAll (.inr ⟨rfl, rfl⟩)).queue d c

end Sys2Proof.Proofs
end

section
/-! CORE_CMD and its completion (R322, R323), and what O4 says of them and of interrupts. -/

namespace Sys2Proof.Proofs

open Sys2Proof.Machine Sys2Proof.Safety Sys2Proof.Laws

/-! ### Places in a CORE block -/

theorem regKey_coreCmd_ne_state (d c : Nat) : regKey d .coreCmd 0 ≠ regKey d .coreState c := by
  simp only [regKey, Reg.info]
  omega

theorem regKey_coreState_ne_freq (d c : Nat) : regKey d .coreState c ≠ regKey d .coreFreq c := by
  simp only [regKey, Reg.info]
  omega

theorem regKey_coreCmd_ne_freq (d c : Nat) : regKey d .coreCmd 0 ≠ regKey d .coreFreq c := by
  simp only [regKey, Reg.info]
  omega

theorem regKey_coreStart_ne_cmd (d : Nat) : regKey d .coreStart 0 ≠ regKey d .coreCmd 0 := by
  simp only [regKey, Reg.info]
  omega

/-- Nothing that a drain of a core reports goes to CORE_CMD of a host die. -/
theorem coreCmd_not_drainPlace {d c : Nat} (hd : d = 16 ∨ d = 17) (hc : c < 100) : ¬ drainPlace d c (regKey d .coreCmd 0) := by
  rintro (⟨e, r, hr, hk⟩ | ⟨e, b, r, he, hr, hk⟩)
  · obtain ⟨rfl, hslot, -⟩ := regKey_inj (by decide) hr.blk_ne_eng (by omega) (by omega) hk
    rcases hr with ⟨-, hb⟩ | ⟨hd', -⟩ | ⟨-, rfl | rfl⟩
    · rw [hb] at hslot
      rcases hd with rfl | rfl <;> exact absurd hslot (by decide)
    · omega
    all_goals rcases hd with rfl | rfl <;> exact absurd hslot (by decide)
  · have hb : b < 1024 := by rcases he with h | h <;> omega
    have hblk : r.info.blk ≠ .engB := by rcases hr with rfl | rfl <;> decide
    obtain ⟨-, -, hoff⟩ := regKey_inj (by decide) hblk (by omega) hb hk
    rcases hr with rfl | rfl <;> simp only [slotOff, Reg.info] at hoff <;> omega

/-! ### CORE_CMD -/

theorem fget_acceptCoreCmd (s : State) (d op c : Nat) :
    fget (acceptCoreCmd s d op c) d 0 Fl.CORE_CMD_BUSY = 1 ∧ fget (acceptCoreCmd s d op c) d 0 Fl.CORE_CMD_REJECTED = 0 ∧
      fget (acceptCoreCmd s d op c) d 0 Fl.CORE_CMD_OP = op % 4 ∧ fget (acceptCoreCmd s d op c) d 0 Fl.CORE_CMD_CORE = c % 128 := by
  simp (disch := decide) only [acceptCoreCmd, fget_fput, fget_fput_apart]
  exact ⟨rfl, rfl, rfl, rfl⟩

/-- CORE_CMD reads as before when a field of a core's state is set. -/
theorem fget_fput_coreState {f g : Fld} (hf : f.reg = .coreState) (hg : g.reg = .coreCmd) (s : State) (d c v : Nat) :
    fget (fput s d c f v) d 0 g = fget s d 0 g :=
  fget_fput_ne _ _ _ _ _ _ _ _ (by rw [hf, hg]; exact regKey_coreCmd_ne_state d c)

/-- Accepting a command writes CORE_CMD alone. -/
theorem acceptCoreCmd_regsBut (s : State) (d op c : Nat) : RegsBut s (acceptCoreCmd s d op c) [regKey d .coreCmd 0] := by
  have hin : regKey d .coreCmd 0 ∈ [regKey d .coreCmd 0] := List.mem_singleton_self _
  exact RegsBut.fput (RegsBut.fput (RegsBut.fput (RegsBut.fput (s := s) ⟨rfl, rfl⟩ _ hin) _ hin) _ hin) _ hin

theorem fget_acceptCoreCmd_ne {d e i : Nat} {g : Fld} (h : regKey e g.reg i ≠ regKey d .coreCmd 0) (s : State) (op c : Nat) :
    fget (acceptCoreCmd s d op c) e i g = fget s e i g := by
  rw [acceptCoreCmd, fget_fput_ne _ _ _ _ _ _ _ _ h, fget_fput_ne _ _ _ _ _ _ _ _ h, fget_fput_ne _ _ _ _ _ _ _ _ h,
    fget_fput_ne _ _ _ _ _ _ _ _ h]

theorem coreCmdBusy_of_idle {s : State} {d : Nat} (h : fget s d 0 Fl.CORE_CMD_BUSY = 0) : coreCmdBusy s d = false := by
  simp [coreCmdBusy, h]

theorem fget_refuseCoreCmd (s : State) (d : Nat) {result : Nat} (h : result < 256) :
    fget (refuseCoreCmd s d result) d 0 Fl.CORE_CMD_REJECTED = 1 ∧ fget (refuseCoreCmd s d result) d 0 Fl.CORE_CMD_RESULT = result := by
  simp (disch := decide) only [refuseCoreCmd, fget_fput, fget_fput_apart]
  exact ⟨rfl, Nat.mod_eq_of_lt h⟩

/-- A refused command writes CORE_CMD alone. -/
theorem refuseCoreCmd_regsBut (s : State) (d result : Nat) : RegsBut s (refuseCoreCmd s d result) [regKey d .coreCmd 0] :=
  RegsBut.fput (RegsBut.fput (s := s) ⟨rfl, rfl⟩ _ (List.mem_singleton_self _)) _ (List.mem_singleton_self _)

/-! ### OFFLINE -/

theorem getCore_of_cores {s t : State} (h : t.cores = s.cores) (d c : Nat) : getCore t d c = getCore s d c :=
  congrArg (smGetD · Core.fresh (coreKey d c)) h

theorem getCore_fput (s : State) (d c e i : Nat) (f : Fld) (v : Nat) : getCore (fput s e i f v) d c = getCore s d c := rfl

/-- A writeback changes no core. -/
theorem wbPut_cores (s : State) (h line : Nat) (data : List Byte) : (wbPut s h line data).cores = s.cores := by
  unfold wbPut linePut memPut
  dsimp only
  split
  · rfl
  · split <;> rfl

theorem getCore_flushCore (s : State) (d c : Nat) :
    getCore (flushCore s d c) d c = { getCore s d c with l1i := [], l1d := [], l2 := [] } := by
  unfold flushCore
  dsimp only
  rw [getCore_modCore, getCore_of_cores (s := s)]
  refine List.foldlRecOn (motive := fun t : State => t.cores = s.cores) _ _ rfl fun t ht x _ => ?_
  split
  · exact (wbPut_cores _ _ _ _).trans ht
  · exact ht

theorem forceDrain_stores (s : State) (d c : Nat) : (getCore (forceDrain s d c) d c).stores = [] := by
  unfold forceDrain
  dsimp only
  rw [getCore_modCore]

theorem forceDrain_stnt (s : State) (d c : Nat) : (getCore (forceDrain s d c) d c).stnt = [] :=
  List.eq_nil_of_subset_nil (drainAll_stnt s d c ▸ (Drains.forceDrain_drained (d₀ := d) (c₀ := c) (.inr ⟨rfl, rfl⟩) s).stnt d c)

theorem doCoreOffline_halted {s : State} {d c : Nat} (hb : fget s d 0 Fl.CORE_CMD_BUSY = 0) (hst : fget s d c Fl.CORE_STATE_STATE = 2)
    (hc : c < 100) : doCoreOffline d c s =
      fput (flushCore (forceDrain (acceptCoreCmd s d 1 c) d c) d c) d c Fl.CORE_STATE_STATE 0 := by
  simp [doCoreOffline, coreCmdBusy_of_idle hb, coreState, hst, hc]

theorem doCoreOffline_running {s : State} {d c : Nat} (hb : fget s d 0 Fl.CORE_CMD_BUSY = 0)
    (hst : fget s d c Fl.CORE_STATE_STATE = 1) : doCoreOffline d c s = refuseCoreCmd s d 1 := by
  simp [doCoreOffline, coreCmdBusy_of_idle hb, coreState, hst]

/-- What CORE_CMD shows of an accepted OFFLINE stands through the drain. -/
theorem fget_offline {s : State} {d c : Nat} (hd : d = 16 ∨ d = 17) (hc : c < 100) {f : Fld} (hf : f.reg = .coreCmd) :
    fget (fput (flushCore (forceDrain s d c) d c) d c Fl.CORE_STATE_STATE 0) d 0 f = fget s d 0 f := by
  have hdrain : Drains d c s (flushCore (forceDrain s d c) d c) := ((Drains.refl s).forceDrain (.inr ⟨rfl, rfl⟩)).flushCore
  rw [fget_fput_coreState rfl hf, fget, fget,
    hdrain.rget (by rw [hf]; exact coreCmd_not_drainPlace hd hc)]

/-! ### ONLINE -/

theorem fget_setCap {d c e i : Nat} {g : Fld} (h : regKey e g.reg i ≠ regKey d .coreFreq c) (s : State) :
    fget (setCap s d c) e i g = fget s e i g :=
  (fget_fput_ne _ _ _ _ _ _ _ _ h).trans (fget_fput_ne _ _ _ _ _ _ _ _ h)

theorem startCore_core (s : State) (d c pc : Nat) :
    getCore (startCore s d c pc) d c = { Core.fresh with pc := pc } ∧ CoresBut s (startCore s d c pc) d c ∧
      SameMem s (startCore s d c pc) :=
  ⟨(getCore_of_cores (s := putCore s d c { Core.fresh with pc := pc }) rfl d c).trans (getCore_putCore _ _ _ _),
    CoresBut.modCore (s := s) (t := s) rfl fun _ => { Core.fresh with pc := pc }, rfl, rfl, rfl⟩

/-- The core that starts as what an accepted ONLINE makes of it. -/
def onlined (s : State) (d c : Nat) : State :=
  startCore (fput (acceptCoreCmd s d 2 c) d c Fl.CORE_STATE_ROLE 0) d c (fget s d 0 Fl.CORE_START_PC * 4)

theorem doCoreOnline_accepted {s : State} {d c : Nat} (hc : c < 100) (hb : fget s d 0 Fl.CORE_CMD_BUSY = 0)
    (hst : fget s d c Fl.CORE_STATE_STATE = 0) (hrole : fget s d c Fl.CORE_STATE_ROLE ≤ 1) (hgood : unitGood s d c = true)
    (hroom : (onlineCores s d).length < 96) : doCoreOnline d c s = onlined s d c := by
  have hpc : fget (acceptCoreCmd s d 2 c) d 0 Fl.CORE_START_PC = fget s d 0 Fl.CORE_START_PC :=
    fget_acceptCoreCmd_ne (regKey_coreStart_ne_cmd d) _ _ _
  have hc' : ¬ (100 ≤ c ∨ 1 < coreRole s d c ∨ (!unitGood s d c) = true) := by
    simp only [coreRole, hgood]
    simp
    omega
  simp only [doCoreOnline, coreCmdBusy_of_idle hb, Bool.false_eq_true, if_false, if_neg hc', coreState, hst, ne_eq, not_true_eq_false,
    if_neg (Nat.not_le.2 hroom), hpc, onlined]

theorem fget_onlined (s : State) (d c : Nat) :
    fget (onlined s d c) d c Fl.CORE_STATE_STATE = 1 ∧ fget (onlined s d c) d c Fl.CORE_STATE_ROLE = 0 ∧
      fget (onlined s d c) d 0 Fl.CORE_CMD_BUSY = 1 := by
  have hput (t : State) (x : Core) (e i : Nat) (g : Fld) : fget (putCore t d c x) e i g = fget t e i g := rfl
  unfold onlined startCore
  rw [fget_setCap (regKey_coreState_ne_freq d c), fget_setCap (regKey_coreState_ne_freq d c), fget_setCap (regKey_coreCmd_ne_freq d c),
    fget_fput_coreState rfl rfl, hput, fget_fput_coreState rfl rfl,
    (fget_acceptCoreCmd s d 2 c).1]
  simp (disch := decide) only [fget_fput, fget_fput_apart, hput]
  exact ⟨rfl, rfl, trivial⟩

/-! ### RECALIBRATE and completion -/

theorem doCoreRecalibrate_accepted {s : State} {d c : Nat} (hc : c < 100) (hb : fget s d 0 Fl.CORE_CMD_BUSY = 0)
    (hst : fget s d c Fl.CORE_STATE_STATE = 0) : doCoreRecalibrate d c s = acceptCoreCmd s d 3 c := by
  simp [doCoreRecalibrate, coreCmdBusy_of_idle hb, coreState, hst, hc]

/-- The state with a command completed. -/
def cmdDone (s : State) (d result : Nat) : State := fput (fput s d 0 Fl.CORE_CMD_BUSY 0) d 0 Fl.CORE_CMD_RESULT result

theorem fget_cmdDone (s : State) (d : Nat) {result : Nat} (h : result < 256) :
    fget (cmdDone s d result) d 0 Fl.CORE_CMD_BUSY = 0 ∧ fget (cmdDone s d result) d 0 Fl.CORE_CMD_RESULT = result := by
  simp (disch := decide) only [cmdDone, fget_fput, fget_fput_apart]
  exact ⟨rfl, Nat.mod_eq_of_lt h⟩

theorem fget_cmdDone_ne {d e i : Nat} {g : Fld} (h : regKey e g.reg i ≠ regKey d .coreCmd 0) (s : State) (result : Nat) :
    fget (cmdDone s d result) e i g = fget s e i g :=
  (fget_fput_ne _ _ _ _ _ _ _ _ h).trans (fget_fput_ne _ _ _ _ _ _ _ _ h)

theorem cmdDone_mem {s t : State} (h : SameMem s t) (d result : Nat) : SameMem s (cmdDone t d result) := h

theorem doCoreCmdComplete_other {s : State} {d pass : Nat} (hb : fget s d 0 Fl.CORE_CMD_BUSY = 1) (hop : fget s d 0 Fl.CORE_CMD_OP ≠ 3) :
    doCoreCmdComplete d pass s = cmdDone s d 0 := by
  simp [doCoreCmdComplete, coreCmdBusy, hb, hop, cmdDone]

theorem doCoreCmdComplete_recalibrate {s : State} {d c pass : Nat} (hb : fget s d 0 Fl.CORE_CMD_BUSY = 1)
    (hop : fget s d 0 Fl.CORE_CMD_OP = 3) (hc : fget s d 0 Fl.CORE_CMD_CORE = c) :
    doCoreCmdComplete d pass s = cmdDone (recalibrated s d c pass).2 d (recalibrated s d c pass).1 := by
  simp [doCoreCmdComplete, coreCmdBusy, hb, hop, hc, cmdDone]

/-- A write of the persistent array changes no memory, and no register but its own status (R487, R489). -/
theorem persistField_frame (s : State) (n hi lo v : Nat) :
    SameMem s (persistField s n hi lo v) ∧ ∀ e i g, regKey e g.reg i ≠ regKey 24 .prsStatus 0 →
      fget (persistField s n hi lo v) e i g = fget s e i g := by
  unfold persistField persistPut persistCommitNow
  dsimp only
  split
  · exact ⟨⟨rfl, rfl, rfl⟩, fun e i g h => fget_fput_ne _ _ _ _ _ _ _ _ h⟩
  · split
    · split
      · exact ⟨⟨rfl, rfl, rfl⟩, fun _ _ _ _ => rfl⟩
      · split <;> exact ⟨⟨rfl, rfl, rfl⟩, fun _ _ _ _ => rfl⟩
    · exact ⟨⟨rfl, rfl, rfl⟩, fun _ _ _ _ => rfl⟩

/-- The status of the persistent array is no core's state. -/
theorem regKey_coreState_ne_prs {d c : Nat} (hd : d = 16 ∨ d = 17) (hc : c < 100) : regKey d .coreState c ≠ regKey 24 .prsStatus 0 :=
  fun hk => by
    obtain ⟨rfl, -, -⟩ := regKey_inj (by decide) (by decide) (by omega) (by omega) hk
    omega

/-- A core with a new DERATE, recorded in the persistent array and in effect. -/
def derated (s : State) (d c derate : Nat) : State :=
  setEffective (persistField (fput s d c Fl.CORE_STATE_DERATE derate) (derateReg d c) (c % 8 * 8 + 7) (c % 8 * 8) derate) d c

theorem derated_mem (s : State) (d c derate : Nat) : SameMem s (derated s d c derate) :=
  (persistField_frame (fput s d c Fl.CORE_STATE_DERATE derate) _ _ _ _).1

theorem fget_derated {d c : Nat} (hd : d = 16 ∨ d = 17) (hc : c < 100) {g : Fld} (hg : g.reg = .coreState) (s : State) (derate : Nat) :
    fget (derated s d c derate) d c g = fget (fput s d c Fl.CORE_STATE_DERATE derate) d c g :=
  (fget_fput_ne _ _ _ _ _ _ _ _ (by rw [hg]; exact regKey_coreState_ne_freq d c)).trans
    ((persistField_frame _ _ _ _ _).2 _ _ _ (by rw [hg]; exact regKey_coreState_ne_prs hd hc))

/-- DERATE, FMAX and ROLE of a core whose DERATE has risen to less than 256 units. -/
theorem derated_fields {d c : Nat} (hd : d = 16 ∨ d = 17) (hc : c < 100) (s : State) {derate : Nat} (h : derate < 256) :
    fget (derated s d c derate) d c Fl.CORE_STATE_DERATE = derate ∧
      fget (derated s d c derate) d c Fl.CORE_STATE_FMAX = fget s d c Fl.CORE_STATE_FMAX ∧
      fget (derated s d c derate) d c Fl.CORE_STATE_ROLE = fget s d c Fl.CORE_STATE_ROLE := by
  rw [fget_derated hd hc rfl, fget_derated hd hc rfl, fget_derated hd hc rfl]
  simp (disch := decide) only [fget_fput, fget_fput_apart]
  exact ⟨Nat.mod_eq_of_lt h, trivial, trivial⟩

theorem fmax_lt (s : State) (d c : Nat) : fget s d c Fl.CORE_STATE_FMAX < 256 := fldOf_lt _ _

/-- A recalibration that passes at 2.5 GHz or more, but below FMAX − DERATE, covers the gap and retires nothing (R322). -/
theorem recalibrated_slower {s : State} {d c pass : Nat} (hd : d = 16 ∨ d = 17) (hc : c < 100)
    (hlow : pass < (fget s d c Fl.CORE_STATE_FMAX - fget s d c Fl.CORE_STATE_DERATE) * 25) (hmin : 2500 ≤ pass) :
    recalibrated s d c pass = (0, derated s d c (fget s d c Fl.CORE_STATE_FMAX - pass / 25)) := by
  have hlt := fmax_lt s d c
  obtain ⟨hder, hmax, -⟩ := derated_fields hd hc s (derate := fget s d c Fl.CORE_STATE_FMAX - pass / 25) (by omega)
  have htop : ¬ coreTop (derated s d c (fget s d c Fl.CORE_STATE_FMAX - pass / 25)) d c < 100 := by
    rw [coreTop, hder, hmax]
    omega
  have hgap : ¬ coreTop s d c * 25 ≤ pass := Nat.not_le.2 hlow
  exact (if_neg hgap).trans (if_neg htop)

theorem retireStores_coresBut (s : State) (d c : Nat) : CoresBut s (retireStores s d c) d c := CoresBut.modCore rfl _

/-- Settles O4, a command at a time: CORE_CMD first, its completion, then interrupts. -/
theorem coreCommands : Obligations.CoreCommands := by
  unfold Obligations.CoreCommands
  refine ⟨?offline, ?running, ?online, ?recalibrate, ?complete, ?derate, ?message, ?ack, ?eoi, ?offered, ?none, ?own, ?other⟩
  case offline =>
    intro d c s hdead hd hc hb hst
    obtain ⟨hbusy, hrej, hop, hcore⟩ := fget_acceptCoreCmd s d 1 c
    have hexec := (onDie_of_alive hdead (doCoreOffline d c)).trans (doCoreOffline_halted hb hst hc)
    refine ⟨_, congrArg Host.Outcome.next hexec, ?_⟩
    rw [fget_offline hd hc rfl, fget_offline hd hc rfl, fget_offline hd hc rfl, fget_offline hd hc rfl, hbusy, hrej, hop, hcore]
    rw [getCore_fput, getCore_flushCore]
    dsimp only
    have hst := fget_fput (flushCore (forceDrain (acceptCoreCmd s d 1 c) d c) d c) d c Fl.CORE_STATE_STATE 0 (by decide) (by decide)
    exact ⟨hst, forceDrain_stores _ d c, forceDrain_stnt _ d c, rfl, rfl, rfl, rfl, Nat.mod_eq_of_lt (by omega)⟩
  case running =>
    intro d c s hdead hb hst
    obtain ⟨hrej, hres⟩ := fget_refuseCoreCmd s d (result := 1) (by omega)
    exact ⟨_, congrArg Host.Outcome.next ((onDie_of_alive hdead _).trans (doCoreOffline_running hb hst)), hrej, hres,
      ⟨rfl, rfl, rfl⟩, rfl, refuseCoreCmd_regsBut s d 1⟩
  case online =>
    intro d c s hdead _ hc hb hst hrole hgood hroom
    obtain ⟨hstate, hrole', hbusy⟩ := fget_onlined s d c
    exact ⟨_, congrArg Host.Outcome.next ((onDie_of_alive hdead _).trans (doCoreOnline_accepted hc hb hst hrole hgood hroom)),
      hstate, hrole', hbusy, startCore_core _ d c _⟩
  case recalibrate =>
    intro d c s hdead hc hb hst
    obtain ⟨hbusy, hrej, hop, hcore⟩ := fget_acceptCoreCmd s d 3 c
    exact ⟨_, congrArg Host.Outcome.next ((onDie_of_alive hdead _).trans (doCoreRecalibrate_accepted hc hb hst)), hbusy, hrej, hop,
      hcore.trans (Nat.mod_eq_of_lt (by omega)), ⟨rfl, rfl, rfl⟩, rfl, acceptCoreCmd_regsBut s d 3 c⟩
  case complete =>
    intro d pass s hb hop
    obtain ⟨hbusy, hres⟩ := fget_cmdDone s d (result := 0) (by omega)
    exact ⟨_, congrArg Host.Outcome.next (doCoreCmdComplete_other hb hop), hbusy, hres, ⟨rfl, rfl, rfl⟩, rfl,
      RegsBut.fput (RegsBut.fput (s := s) ⟨rfl, rfl⟩ _ (List.mem_singleton_self _)) _ (List.mem_singleton_self _)⟩
  case derate =>
    intro d c pass s hd hc hb hop hcore hlow hmin
    have hlt := fmax_lt s d c
    have hdone := doCoreCmdComplete_recalibrate (pass := pass) hb hop hcore
    rw [recalibrated_slower hd hc hlow hmin] at hdone
    dsimp only at hdone
    obtain ⟨hder, -, hrole⟩ := derated_fields hd hc s (derate := fget s d c Fl.CORE_STATE_FMAX - pass / 25) (by omega)
    obtain ⟨hbusy, hres⟩ := fget_cmdDone (derated s d c (fget s d c Fl.CORE_STATE_FMAX - pass / 25)) d (result := 0) (by omega)
    refine ⟨_, congrArg Host.Outcome.next hdone, hbusy, hres, ?_, ?_, cmdDone_mem (derated_mem s d c _) d 0⟩
    · exact (fget_cmdDone_ne (regKey_coreCmd_ne_state d c).symm _ _).trans hder
    · exact (fget_cmdDone_ne (regKey_coreCmd_ne_state d c).symm _ _).trans hrole
  case message =>
    intro v s hv
    obtain ⟨hmem, hcores, hirq, hregs⟩ := vecMessage_frame { s with irqOut := s.irqOut.erase v } v
    exact ⟨_, congrArg Host.Outcome.next (doIrqMessage_of_mem hv), (getVec_vecMessage _ v v).trans (if_pos rfl), hirq, hmem, hcores,
      hregs⟩
  case ack => exact fun d c s _ hr hq hw hl hm => exec_irqAck hr hq hw hl hm
  case eoi => exact fun d c v s _ hr hq hw hl hm => exec_irqEoi hr hq hw hl hm v
  case offered =>
    intro d c v s hdead hr hq hw hl hm hv _
    refine ⟨_, (exec_irqAck hr hq hw hl hm).trans
      (congrArg Host.Outcome.next (doIrqAck_offered (s := retireStores s d c) hdead hv)), ?_, ?_, ⟨rfl, rfl, rfl⟩,
      CoresBut.modCore (t := fsat (putVec _ _ _) _ _ _ _) (retireStores_coresBut s d c) _,
      RegsBut.modCore (irqCount_regsBut (t := putVec _ _ _) ⟨rfl, rfl⟩ rfl 1) _⟩
    · rw [getCore_modCore]
    · exact (getVec_putVec _ _ _ _).trans (if_pos rfl)
  case none =>
    intro d c s hdead hr hq hw hl hm hv
    refine ⟨_, (exec_irqAck hr hq hw hl hm).trans
      (congrArg Host.Outcome.next (doIrqAck_none (s := retireStores s d c) hdead hv)), ?_, rfl, ⟨rfl, rfl, rfl⟩,
      CoresBut.modCore (retireStores_coresBut s d c) _, rfl⟩
    rw [getCore_modCore]
  case own =>
    intro d c v s hdead hr hq hw hl hm hv
    exact ⟨_, (exec_irqEoi hr hq hw hl hm v).trans
      (congrArg Host.Outcome.next (doIrqEoi_own (s := retireStores s d c) hdead hv)), (getVec_putVec _ _ _ _).trans (if_pos rfl),
      ⟨rfl, rfl, rfl⟩, retireStores_coresBut s d c, rfl⟩
  case other =>
    intro d c v s hdead hr hq hw hl hm hv
    exact ⟨_, (exec_irqEoi hr hq hw hl hm v).trans
      (congrArg Host.Outcome.next (doIrqEoi_other (s := retireStores s d c) hdead hv)), rfl,
      fget_fsat (retireStores s d c) _ _ _ _ (by decide) (by decide), ⟨rfl, rfl, rfl⟩, retireStores_coresBut s d c,
      irqCount_regsBut (t := retireStores s d c) ⟨rfl, rfl⟩ rfl 1⟩

end Sys2Proof.Proofs
end

section
/-! Barriers, halt, exception entry, far timeouts, late store errors and droop of a core (R321, R328, R331, R333, R334). -/

namespace Sys2Proof.Proofs

open Sys2Proof.Machine Sys2Proof.Safety Sys2Proof.Laws

/-! ### One core written twice -/

theorem smPut_smPut {α : Type} (m : SMap α) (a : Nat) (v w : α) : smPut (smPut m a v) a w = smPut m a w := by
  induction m with
  | nil => simp [smPut]
  | cons p r ih =>
    obtain ⟨k, u⟩ := p
    simp only [smPut]
    split
    · simp [smPut]
    · split
      · simp [smPut]
      · next h1 h2 => simp [smPut, h1, h2, ih]

theorem modCore_modCore (s : State) (d c : Nat) (f g : Core → Core) : modCore (modCore s d c f) d c g = modCore s d c (g ∘ f) := by
  have hcore := getCore_modCore s d c f
  simp only [modCore, putCore] at hcore ⊢
  rw [hcore, smPut_smPut]
  rfl

/-- A change of one core depends on what it makes of that core alone. -/
theorem modCore_congr {s : State} {d c : Nat} {f g : Core → Core} (h : f (getCore s d c) = g (getCore s d c)) :
    modCore s d c f = modCore s d c g := congrArg (putCore s d c) h

theorem modCore_eq_putCore {s : State} {d c : Nat} {f : Core → Core} {x : Core} (h : f (getCore s d c) = x) :
    modCore s d c f = putCore s d c x := congrArg (putCore s d c) h

/-! ### Barriers -/

section
variable {s : State} {d c : Nat} (hr : coreRuns s d c = true) (hq : (getCore s d c).queue = [])
include hr hq

/-- A barrier or an access that completes. -/
theorem issue_started {x : CoreOp} {t : State} (h : startOp s d c x = (true, t)) : issue d c x s = t := by
  rw [issue_of_queue_nil s d c x hr hq, h]
  rfl

/-- A barrier or an access that waits. -/
theorem issue_waiting {x : CoreOp} {t : State} (h : startOp s d c x = (false, t)) :
    issue d c x s = modCore t d c fun k => { k with queue := k.queue ++ [x] } := by
  rw [issue_of_queue_nil s d c x hr hq, h]
  rfl

end

section
variable {s : State} {d c : Nat}

theorem startOp_ordS_complete (h : storesOut (drainAll s d c) d c = false) :
    startOp s d c .ordS = (true, takeStoreError (drainAll s d c) d c) := by
  simp [startOp, h]

theorem startOp_ordS_waits (h : storesOut (drainAll s d c) d c = true) : startOp s d c .ordS = (false, drainAll s d c) := by
  simp [startOp, h]

theorem startOp_ordLs_complete (h : storesOut (drainAll s d c) d c = false) (hl : loadsOut (getCore (drainAll s d c) d c) = false) :
    startOp s d c .ordLs = (true, takeStoreError (drainAll s d c) d c) := by
  simp [startOp, h, hl]

theorem startOp_ordLs_waits (hl : loadsOut (getCore (drainAll s d c) d c) = true) :
    startOp s d c .ordLs = (false, drainAll s d c) := by
  simp [startOp, hl]

/-- With an empty combining buffer, stores are out where the store buffer holds one or a write is open at a home. -/
theorem storesOut_of_stnt_nil (h : (getCore s d c).stnt = []) : storesOut s d c = (!(getCore s d c).stores.isEmpty || ntOpen s d c) := by
  simp [storesOut, h]

/-- A barrier leaves no error response, and the buffers and what waits as they are. -/
theorem getCore_takeStoreError (s : State) (d c : Nat) :
    (getCore (takeStoreError s d c) d c).storeError = none ∧ (getCore (takeStoreError s d c) d c).stores = (getCore s d c).stores ∧
      (getCore (takeStoreError s d c) d c).stnt = (getCore s d c).stnt ∧
      (getCore (takeStoreError s d c) d c).queue = (getCore s d c).queue := by
  rw [takeStoreError, getCore_modCore]
  split
  · exact ⟨rfl, rfl, rfl, rfl⟩
  · next h => exact ⟨Option.not_isSome_iff_eq_none.1 h, rfl, rfl, rfl⟩

/-- Both buffers are empty, and no home has answered a write: the drain is none. -/
theorem drainAll_of_empty (hst : (getCore s d c).stores = []) (hnt : (getCore s d c).stnt = []) (hret : s.coh.returned = []) :
    drainAll s d c = modCore s d c id := by
  have hretire : retireStores s d c = modCore s d c id := modCore_congr (by simp only [hst, List.map_nil, id]; rw [← hst])
  have hdrain : drainStores (retireStores s d c) d c (fun _ => true) = modCore s d c id := by
    rw [hretire, drainStores_of_none (by simp [hst]), modCore_modCore]
    rfl
  rw [drainAll, hdrain, drainNt_of_stnt_nil (by simpa using hnt), takeNt_of_returned_nil (s := modCore s d c id) hret]

theorem takeStoreError_modCore_id : takeStoreError (modCore s d c id) d c = takeStoreError s d c := modCore_modCore s d c id _

/-- While both buffers are empty and no home has a write of theirs, no store is out. -/
theorem storesOut_of_empty (hst : (getCore s d c).stores = []) (hnt : (getCore s d c).stnt = []) (hopen : ntOpen s d c = false) :
    storesOut (modCore s d c id) d c = false := by
  have hopen' : ntOpen (modCore s d c id) d c = false := hopen
  simp [storesOut, hst, hnt, hopen']

end

/-! ### A store to a line that the core holds -/

/-- Beside the caches and buffers of one core, the die's L3 and what leaves them for a home, cores, memory, registers and homes are as
before. -/
structure CachesOnly (s t : State) (d c : Nat) : Prop where
  mem : SameMem s t
  cores : CoresBut s t d c
  regs : t.regs = s.regs
  homes : t.coh.homes = s.coh.homes
  returned : t.coh.returned = s.coh.returned

namespace CachesOnly

theorem refl (s : State) (d c : Nat) : CachesOnly s s d c := ⟨⟨rfl, rfl, rfl⟩, rfl, rfl, rfl, rfl⟩

theorem modCore {s t : State} {d c : Nat} (h : CachesOnly s t d c) (f : Core → Core) : CachesOnly s (modCore t d c f) d c :=
  ⟨h.mem, CoresBut.modCore h.cores f, h.regs, h.homes, h.returned⟩

theorem update {s t : State} {d c : Nat} (h : CachesOnly s t d c) {fresh resps l3} :
    CachesOnly s { t with fresh := fresh, coh := { t.coh with resps := resps, l3 := l3 } } d c :=
  ⟨h.mem, h.cores, h.regs, h.homes, h.returned⟩

theorem trans {s t u : State} {d c : Nat} (h : CachesOnly s t d c) (h' : CachesOnly t u d c) : CachesOnly s u d c :=
  ⟨⟨h'.mem.1.trans h.mem.1, h'.mem.2.1.trans h.mem.2.1, h'.mem.2.2.trans h.mem.2.2⟩, h'.cores.trans h.cores, h'.regs.trans h.regs,
    h'.homes.trans h.homes, h'.returned.trans h.returned⟩

end CachesOnly

/-- A line that leaves an L2 is a message to its home, or goes to the die's L3. -/
theorem leaveL2_eq (s : State) (d : Nat) (x : CacheLine) :
    ∃ n resps l3, leaveL2 s d x = { s with fresh := n, coh := { s.coh with resps := resps, l3 := l3 } } := by
  unfold leaveL2
  split
  · exact ⟨_, _, _, rfl⟩
  · dsimp only
    split
    · exact ⟨_, _, _, rfl⟩
    · obtain ⟨v, n, hv⟩ := cacheVictim_eq (drawBelow s 2).2 .l3 ((smGetD (drawBelow s 2).2.coh.l3 [] d).map (·.line)) x.line
      simp only [putL3, hv]
      exact ⟨_, _, _, rfl⟩

/-- A core with a line in its L2 in place of what made way for it there; its first-level caches are trimmed or filled. -/
def TakesLine (x x' : Core) (y : CacheLine) : Prop :=
  ∃ v l1i l1d, x' = { x with l1i := l1i, l1d := l1d, l2 := cacheSet x.l2 v y }

theorem putL2_takesLine (s : State) (d c : Nat) (y : CacheLine) :
    TakesLine (getCore s d c) (getCore (putL2 s d c y) d c) y ∧ CachesOnly s (putL2 s d c y) d c := by
  obtain ⟨v, n, hv⟩ := cacheVictim_eq s .l2 ((getCore s d c).l2.map (·.line)) y.line
  have hcore : TakesLine (getCore s d c)
      (getCore (modCore { s with fresh := n } d c fun k => trimL1 { k with l2 := cacheSet k.l2 v y }) d c) y :=
    ⟨v, _, _, getCore_modCore _ _ _ _⟩
  have hput : CachesOnly s (modCore { s with fresh := n } d c fun k => trimL1 { k with l2 := cacheSet k.l2 v y }) d c :=
    (CachesOnly.refl s d c).update.modCore _
  simp only [putL2, hv]
  split
  · exact ⟨hcore, hput⟩
  · next z _ =>
    obtain ⟨m, resps, l3, hleave⟩ :=
      leaveL2_eq (modCore { s with fresh := n } d c fun k => trimL1 { k with l2 := cacheSet k.l2 v y }) d z
    rw [hleave]
    exact ⟨hcore, hput.update⟩

/-- A store into a line that the core holds makes it M with the store's bytes. -/
theorem writeL2_takesLine {s : State} {d c a : Nat} {bs : List Byte} {x : CacheLine} (hx : l2Find s d c (lineOf a) = some x) :
    TakesLine (getCore s d c) (getCore (writeL2 s d c a bs) d c) ⟨lineOf a, .m, overwrite x.data (a % 64) bs⟩ ∧
      CachesOnly s (writeL2 s d c a bs) d c := by
  obtain ⟨hcore, hput⟩ := putL2_takesLine s d c ⟨lineOf a, .m, overwrite x.data (a % 64) bs⟩
  simp only [writeL2, hx]
  obtain h | ⟨n, l, h⟩ := fillL1_eq (putL2 s d c ⟨lineOf a, .m, overwrite x.data (a % 64) bs⟩) d c (lineOf a)
  · rw [h]
    exact ⟨hcore, hput⟩
  · obtain ⟨v, l1i, l1d, hcore⟩ := hcore
    rw [h]
    refine ⟨⟨v, l1i, l, ?_⟩, hput.update.modCore _⟩
    rw [getCore_modCore]
    exact congrArg (fun k : Core => { k with l1d := l }) hcore

/-- The line that a cache has taken is the one that it finds. -/
theorem find?_cacheSet (l : List CacheLine) (v : Option Nat) (y : CacheLine) :
    (cacheSet l v y).find? (fun x => x.line == y.line) = some y := by
  have hout : (l.filter fun x => x.line != y.line && v != some x.line).find? (fun x => x.line == y.line) = none :=
    List.find?_eq_none.2 fun x hx => by simp_all
  simp [cacheSet, hout]

/-- Whether writes are open at the homes depends on the homes alone. -/
theorem ntOpen_of_homes {s t : State} (h : t.coh.homes = s.coh.homes) (d c : Nat) : ntOpen t d c = ntOpen s d c := by
  simp only [ntOpen, h]

/-- Where no error response waits, a barrier takes none. -/
theorem takeStoreError_of_none {s : State} {d c : Nat} (h : (getCore s d c).storeError = none) :
    takeStoreError s d c = modCore s d c id := modCore_congr (by simp [h])

section
variable {s : State} {d c a : Nat} {bs : List Byte} {r : Bool} {x : CacheLine} (hk : paKind s a = .ddr)
  (hst : (getCore s d c).stores = [⟨a, bs, r, false⟩]) (hx : l2Find s d c (lineOf a) = some x) (hs : x.st ≠ .s)
  (hw : lineWaits (getCore s d c) (lineOf a) = false)
include hk hst hx hs hw

/-- One buffered store, to a DDR line that the core may write, is performed in its L2 and leaves the buffer. -/
theorem drainStores_held : drainStores s d c (fun _ => true) = modCore (writeL2 s d c a bs) d c fun k => { k with stores := [] } := by
  have hhave : acquire s d c (lineOf a) true = (.held, s) := by simp [acquire, hx, hs]
  have hperform : performStore s d c ⟨a, bs, r, false⟩ = (true, writeL2 s d c a bs) := by
    simp [performStore, normalRefusal, hk, hhave]
  simp [drainStores, hst, drainList, storeHeld, hw, hperform]

/-- What a drain makes of a core whose one store is to such a line. -/
theorem drainAll_held (hnt : (getCore s d c).stnt = []) (hret : s.coh.returned = []) :
    TakesLine { getCore s d c with stores := [] } (getCore (drainAll s d c) d c) ⟨lineOf a, .m, overwrite x.data (a % 64) bs⟩ ∧
      CachesOnly s (drainAll s d c) d c := by
  have hcore : getCore (retireStores s d c) d c = { getCore s d c with stores := [⟨a, bs, true, false⟩] } := by
    simp [retireStores, hst, storeHeld, hw]
  have hx' : l2Find (retireStores s d c) d c (lineOf a) = some x := by
    rw [l2Find, hcore]
    exact hx
  have hdrain : drainStores (retireStores s d c) d c (fun _ => true) = _ :=
    drainStores_held (s := retireStores s d c) hk (congrArg Core.stores hcore) hx' hs (by rw [hcore]; exact hw)
  obtain ⟨⟨v, l1i, l1d, hwritten⟩, hwrite⟩ := writeL2_takesLine (bs := bs) hx'
  have hdrained : CachesOnly s (modCore (writeL2 (retireStores s d c) d c a bs) d c fun k => { k with stores := [] }) d c :=
    ((CachesOnly.refl s d c).modCore _ |>.trans hwrite).modCore _
  rw [drainAll, hdrain, drainNt_of_stnt_nil (by rw [getCore_modCore, hwritten, hcore]; exact hnt),
    takeNt_of_returned_nil (hdrained.returned.trans hret)]
  refine ⟨⟨v, l1i, l1d, ?_⟩, hdrained⟩
  rw [getCore_modCore, hwritten, hcore]

/-- ORD_S over such a store is complete with it. -/
theorem startOp_ordS_held (hnt : (getCore s d c).stnt = []) (hret : s.coh.returned = []) (hopen : ntOpen s d c = false)
    (herr : (getCore s d c).storeError = none) : startOp s d c .ordS = (true, modCore (drainAll s d c) d c id) := by
  obtain ⟨⟨v, l1i, l1d, hcore⟩, hdrain⟩ := drainAll_held hk hst hx hs hw hnt hret
  have hout : storesOut (drainAll s d c) d c = false := by
    simp [storesOut, hcore, hnt, ntOpen_of_homes hdrain.homes, hopen]
  rw [startOp_ordS_complete hout, takeStoreError_of_none (by rw [hcore]; exact herr)]

end

/-! ### Halt, far timeouts and the counters -/

/-- No store waits for a load where none is outstanding: all retire. -/
theorem retireStores_stores {s : State} {d c : Nat} (hl : loadsOut (getCore s d c) = false) :
    getCore (retireStores s d c) d c =
      { getCore s d c with stores := (getCore s d c).stores.map fun b => { b with retired := true } } := by
  simp [retireStores, storeHeld_of_loadsOut hl]

theorem startOp_halt {s : State} {d c : Nat} (hl : loadsOut (getCore s d c) = false) :
    startOp s d c .halt = (true, fput (retireStores s d c) d c Fl.CORE_STATE_STATE 2) := by
  simp [startOp, hl]

/-- A far store that times out, where no load waits for far memory, is dropped; its line is undefined. -/
theorem doCoreFarTimeout_store {s : State} {d c : Nat} {b : BufStore}
    (hw : (getCore s d c).waiting.find? (fun w => paKind s w.addr == .far) = none)
    (hm : (getCore s d c).misses.find? (fun m => !m.isStore && paKind s m.addr == .far) = none)
    (hb : (getCore s d c).stores.find? (fun b => paKind s b.addr == .far) = some b) :
    doCoreFarTimeout d c s = storeErr (freeLine (modCore s d c fun x => { x with
      stores := x.stores.erase b, misses := x.misses.filter fun m => !(m.isStore && m.line == lineOf b.addr) }) (lineOf b.addr))
        d c kFarTimeout b.addr := by
  simp only [doCoreFarTimeout, hw, hm, hb]

/-- The oldest waiting load, from far memory, times out in a bus error. -/
theorem doCoreFarTimeout_waiting {s : State} {d c : Nat} {w : CoreWait} {r : List CoreWait} (hk : paKind s w.addr = .far)
    (hw : (getCore s d c).waiting = w :: r) : doCoreFarTimeout d c s =
      modCore (coreErr (modCore s d c fun x => { x with waiting := x.waiting.erase w }) d c kFarTimeout w.addr) d c
        fun x => { x with result := .error, taken := .busErrorLoad } := by
  have hfind : (getCore s d c).waiting.find? (fun w => paKind s w.addr == .far) = some w := by simp [hw, hk]
  simp [doCoreFarTimeout, hfind, loadError, kFarTimeout, kPoison]

/-- Settles O3: a barrier by how its drain ends, then each event by what its operation says. -/
theorem barriersDrainAndTakeErrors : Obligations.BarriersDrainAndTakeErrors := by
  unfold Obligations.BarriersDrainAndTakeErrors
  refine ⟨?ordS, ?ordLsEmpty, ?ordLsLoads, ?ordSError, ?ordSHeld, ?ordL, ?ordLLoads, ?farStore, ?ordSDrained, ?ordLsDrained,
    ?exception, ?halt, ?lateError, ?farLoad, ?droop⟩
  case ordS =>
    intro d c s hr hq
    have hstnt := drainAll_stnt s d c
    have hqueue := (drainAll_queue s d c).trans hq
    cases hout : storesOut (drainAll s d c) d c with
    | false =>
      obtain ⟨herr, hst, hnt, hk⟩ := getCore_takeStoreError (drainAll s d c) d c
      refine ⟨_, congrArg Host.Outcome.next (issue_started hr hq (startOp_ordS_complete hout)), ?_⟩
      rw [storesOut_of_stnt_nil hstnt, Bool.or_eq_false_iff] at hout
      exact ⟨hnt.trans hstnt, .inl ⟨hst.trans (by simpa using hout.1), herr, hk.trans hqueue⟩⟩
    | true =>
      refine ⟨_, congrArg Host.Outcome.next (issue_waiting hr hq (startOp_ordS_waits hout)), ?_⟩
      rw [storesOut_of_stnt_nil hstnt, Bool.or_eq_true] at hout
      rw [getCore_modCore]
      exact ⟨hstnt, .inr ⟨hout.imp_left (by simp), by rw [hqueue]; rfl⟩⟩
  case ordLsEmpty =>
    intro d c s hr hq hst hnt hl hopen hret
    have hdrain := drainAll_of_empty hst hnt hret
    have hout := storesOut_of_empty hst hnt hopen
    rw [← hdrain] at hout
    have hdone := startOp_ordLs_complete hout (by rw [hdrain, getCore_modCore]; exact hl)
    rw [hdrain, takeStoreError_modCore_id] at hdone
    exact congrArg Host.Outcome.next (issue_started hr hq hdone)
  case ordLsLoads =>
    intro d c s hr hq hst hnt hret hl
    have hdrain := drainAll_of_empty hst hnt hret
    have hwaits := startOp_ordLs_waits (s := s) (d := d) (c := c) (by rw [hdrain, getCore_modCore]; exact hl)
    rw [hdrain] at hwaits
    refine congrArg Host.Outcome.next ((issue_waiting hr hq hwaits).trans ((modCore_modCore _ _ _ _ _).trans (modCore_eq_putCore ?_)))
    simp [hq]
  case ordSError =>
    intro d c a s hr hq hst hnt herr hopen hret
    have hdrain := drainAll_of_empty hst hnt hret
    have hout := storesOut_of_empty hst hnt hopen
    rw [← hdrain] at hout
    have hdone := startOp_ordS_complete hout
    rw [hdrain, takeStoreError_modCore_id] at hdone
    refine congrArg Host.Outcome.next ((issue_started hr hq hdone).trans (modCore_eq_putCore ?_))
    simp [herr]
  case ordSHeld =>
    intro d c a bs r x s hr hq hk hst hnt herr hx hs hw hopen hret
    obtain ⟨⟨v, l1i, l1d, hcore⟩, hdrain⟩ := drainAll_held hk hst hx hs hw hnt hret
    have hdone := hdrain.modCore id
    refine ⟨_, congrArg Host.Outcome.next (issue_started hr hq (startOp_ordS_held hk hst hx hs hw hnt hret hopen herr)), ?_⟩
    have hline := find?_cacheSet (getCore s d c).l2 v ⟨lineOf a, .m, overwrite x.data (a % 64) bs⟩
    rw [l2Find, getCore_modCore, hcore]
    exact ⟨rfl, hq, hline, hdone.mem, hdone.cores, hdone.regs⟩
  case ordL =>
    intro d c s hr hq hl
    exact congrArg Host.Outcome.next (issue_started hr hq (by simp [startOp, hl]))
  case ordLLoads =>
    intro d c s hr hq hl
    refine congrArg Host.Outcome.next ((issue_waiting hr hq (t := s) (by simp [startOp, hl])).trans (modCore_eq_putCore ?_))
    simp [hq]
  case farStore => exact fun d c b s hw hm hb => congrArg Host.Outcome.next (doCoreFarTimeout_store hw hm hb)
  case ordSDrained =>
    exact fun d c s hr hq hout => congrArg Host.Outcome.next (issue_started hr hq (startOp_ordS_complete hout))
  case ordLsDrained =>
    exact fun d c s hr hq hout hl => congrArg Host.Outcome.next (issue_started hr hq (startOp_ordLs_complete hout hl))
  case exception => exact fun d c s => rfl
  case halt =>
    intro d c s hr hq hl
    have hcore := retireStores_stores hl
    refine ⟨_, congrArg Host.Outcome.next (issue_started hr hq (startOp_halt hl)), ?_⟩
    rw [getCore_fput, hcore]
    exact ⟨fget_fput (retireStores s d c) _ _ _ _ (by decide) (by decide), ⟨rfl, rfl, rfl⟩, retireStores_coresBut s d c,
      RegsBut.fput (t := retireStores s d c) ⟨rfl, rfl⟩ _ (List.mem_singleton_self _), rfl, rfl, rfl⟩
  case lateError =>
    intro d c a s herr
    refine congrArg Host.Outcome.next (modCore_eq_putCore ?_)
    simp [herr]
  case farLoad =>
    intro d c w r s _ ha hk hw
    have honly := (((CoreOnly.refl s d c).modCore fun x => { x with waiting := x.waiting.erase w }).coreErr kFarTimeout w.addr).modCore
      fun x => { x with result := .error, taken := .busErrorLoad }
    refine ⟨_, congrArg Host.Outcome.next (doCoreFarTimeout_waiting hk hw), ?_⟩
    rw [fget_modCore, fget_modCore, fget_coreErr_addr _ _ _ _ _ ha, fget_coreErr_kind _ _ _ _ _ (by decide), getCore_modCore,
      getCore_coreErr, getCore_modCore]
    exact ⟨by simp [hw], rfl, rfl, rfl, rfl, honly.mem, honly.cores, honly.regs⟩
  case droop =>
    intro d c s
    exact ⟨_, rfl, fget_fsat _ _ _ _ _ (by decide) (by decide), ⟨rfl, rfl, rfl⟩, rfl,
      RegsBut.fput (s := s) ⟨rfl, rfl⟩ _ (List.mem_singleton_self _)⟩

end Sys2Proof.Proofs
end

section
/-! The state after power-on reset: its registers read their reset entries (R12, R480, R482, logs 10 and 11). -/

namespace Sys2Proof.Proofs

open Sys2Proof.Machine Sys2Proof.Safety Sys2Proof.Laws

/-! ### A word put together from its fields -/

/-- The number whose bits are the fields `l` with the values `v`. -/
def packed (v : Fld → Nat) (l : List Fld) : Nat := (l.map fun f => v f * 2 ^ f.lo).sum

/-- A value that fits its field. -/
def Fits (v : Fld → Nat) (f : Fld) : Prop := f.lo ≤ f.hi ∧ v f < 2 ^ (f.hi - f.lo + 1)

theorem Fits.shifted_lt {v : Fld → Nat} {f : Fld} (h : Fits v f) : v f * 2 ^ f.lo + 2 ^ f.lo ≤ 2 ^ (f.hi + 1) := by
  obtain ⟨hle, hlt⟩ := h
  calc v f * 2 ^ f.lo + 2 ^ f.lo = (v f + 1) * 2 ^ f.lo := by ring
    _ ≤ 2 ^ (f.hi - f.lo + 1) * 2 ^ f.lo := Nat.mul_le_mul_right _ hlt
    _ = 2 ^ (f.hi + 1) := by rw [← pow_add]; congr 1; omega

/-- Fields below bit `m` make a number below `2 ^ m`. -/
theorem packed_lt {v : Fld → Nat} {l : List Fld} (hl : l.Pairwise fun f g => g.hi < f.lo) (hv : ∀ f ∈ l, Fits v f) {m : Nat}
    (hm : ∀ f ∈ l, f.hi < m) : packed v l < 2 ^ m := by
  induction l generalizing m with
  | nil => exact Nat.two_pow_pos m
  | cons f r ih =>
    obtain ⟨hf, hr⟩ := List.pairwise_cons.1 hl
    have hrest : packed v r < 2 ^ f.lo := ih hr (fun g hg => hv g (List.mem_cons_of_mem _ hg)) hf
    have htop : 2 ^ (f.hi + 1) ≤ 2 ^ m := Nat.pow_le_pow_right (by omega) (hm f List.mem_cons_self)
    have hhead := (hv f List.mem_cons_self).shifted_lt
    simp only [packed, List.map_cons, List.sum_cons] at hrest ⊢
    omega

/-- Each field of such a number reads its value. -/
theorem bits_packed {v : Fld → Nat} {l : List Fld} (hl : l.Pairwise fun f g => g.hi < f.lo) (hv : ∀ f ∈ l, Fits v f) {f : Fld}
    (hf : f ∈ l) : bits (packed v l) f.hi f.lo = v f := by
  induction l with
  | nil => cases hf
  | cons g r ih =>
    obtain ⟨hg, hr⟩ := List.pairwise_cons.1 hl
    have hvr : ∀ f ∈ r, Fits v f := fun f hf => hv f (List.mem_cons_of_mem _ hf)
    have hcons : packed v (g :: r) = v g * 2 ^ g.lo + packed v r := by simp [packed]
    rw [hcons, bits, Nat.shiftRight_eq_div_pow]
    rcases List.mem_cons.1 hf with rfl | hf
    · have hrest : packed v r < 2 ^ f.lo := packed_lt hr hvr hg
      rw [Nat.add_comm, Nat.add_mul_div_right _ _ (Nat.two_pow_pos _), Nat.div_eq_of_lt hrest, Nat.zero_add,
        Nat.mod_eq_of_lt (hv f List.mem_cons_self).2]
    · have hlo : f.hi < g.lo := hg f hf
      have hle := (hvr f hf).1
      have hsplit : v g * 2 ^ g.lo = v g * 2 ^ (g.lo - (f.hi + 1)) * 2 ^ (f.hi - f.lo + 1) * 2 ^ f.lo := by
        rw [mul_assoc, mul_assoc, ← pow_add, ← pow_add]
        congr 2
        omega
      rw [hsplit, Nat.add_comm, Nat.add_mul_div_right _ _ (Nat.two_pow_pos _), Nat.add_mul_mod_self_right,
        ← ih hr hvr hf, bits, Nat.shiftRight_eq_div_pow]

/-! ### The register map's reset entries -/

/-- The register map lists the fields of a register from the highest bits down. -/
theorem fields_descend (r : Reg) : r.fields.Pairwise fun f g => g.hi < f.lo := by
  cases r <;> decide

def isLit : Rst → Bool
  | .lit _ => true
  | _ => false

/-- A literal reset entry fits its field. -/
def litFits (f : Fld) : Bool :=
  match f.rst with
  | .lit n => decide (n < 2 ^ (f.hi - f.lo + 1))
  | _ => true

theorem fields_litFits (r : Reg) : r.fields.all litFits = true := by
  cases r <;> decide

/-- The registers that have a literal reset entry beside one of another kind. -/
def mixedRegs : List Reg := [.engStatus, .engBinding, .coreState, .hbmMode, .netPortCfg, .secStatus, .dbgCtl, .dbgIdcode]

theorem lit_or_mixed (r : Reg) : r ∈ mixedRegs ∨ r.fields.all (fun f => isLit f.rst) = true ∨ r.fields.all (fun f => !isLit f.rst) = true := by
  cases r <;> decide

/-- Every field of such a register fits its value after reset, but for ENG_BINDING, which is filled for the pairs that exist. -/
theorem mixed_fits {r : Reg} (hr : r ∈ mixedRegs) (he : r ≠ .engBinding) {d i : Nat} (hd : d < 25) (hi : i < 256) :
    ∀ f ∈ r.fields, fieldReset d f i < 2 ^ (f.hi - f.lo + 1) := by
  simp only [mixedRegs, List.mem_cons, List.not_mem_nil, or_false] at hr
  rcases hr with rfl | rfl | rfl | rfl | rfl | rfl | rfl | rfl
  · simp [Reg.fields, fieldReset, fuse, Fl.ENG_STATUS_CONTEXT, Fl.ENG_STATUS_SLOT, Fl.ENG_STATUS_PLACED,
      Fl.ENG_STATUS_ARRAY_BUSY, Fl.ENG_STATUS_VECTOR_BUSY, Fl.ENG_STATUS_GEOMETRY, Fl.ENG_STATUS_ROLE]
    split <;> decide
  · exact absurd rfl he
  · simp [Reg.fields, fieldReset, fuse, Fl.CORE_STATE_ROLE, Fl.CORE_STATE_STATE, Fl.CORE_STATE_FMAX,
      Fl.CORE_STATE_DERATE]
    split <;> decide
  · simp [Reg.fields, fieldReset, plateDefault, Fl.HBM_MODE_RECOVERY, Fl.HBM_MODE_MODE, Fl.HBM_MODE_USABLE_GIB, Fl.HBM_MODE_GOOD_PCS]
  · simp [Reg.fields, fieldReset, fuse, Fl.NET_PORT_CFG_ENABLE, Fl.NET_PORT_CFG_MODE, Fl.NET_PORT_CFG_PFC_MASK, Fl.NET_PORT_CFG_MAC]
    omega
  · simp [Reg.fields, fieldReset, fuse, Fl.SEC_STATUS_REVOKED, Fl.SEC_STATUS_PROGRAMMED, Fl.SEC_STATUS_PLATE_SLOT,
      Fl.SEC_STATUS_LOCKOUT, Fl.SEC_STATUS_DEBUG_LEVEL]
  · simp [Reg.fields, fieldReset, Fl.DBG_CTL_TRACE_EN, Fl.DBG_CTL_EYEPIECE_EN]
  · simp [Reg.fields, fieldReset, fuse, Fl.DBG_IDCODE_VERSION, Fl.DBG_IDCODE_PART, Fl.DBG_IDCODE_MANUFACTURER, Fl.DBG_IDCODE_ONE]

theorem fits_of_lit {r : Reg} (he : r ≠ .engBinding) {d i : Nat} (hd : d < 25) (hi : i < 256) {f : Fld} (hf : f ∈ r.fields)
    (hl : isLit f.rst = true) : ∀ g ∈ r.fields, Fits (fun g => fieldReset d g i) g := by
  intro g hg
  refine ⟨(fields_ok r g hg).1, ?_⟩
  rcases lit_or_mixed r with hm | ha | hn
  · exact mixed_fits hm he hd hi g hg
  · have hlit := List.all_eq_true.1 ha g hg
    have hfit := List.all_eq_true.1 (fields_litFits r) g hg
    unfold litFits at hfit
    unfold fieldReset
    cases hrst : g.rst <;> simp_all [isLit]
  · simpa [hl] using List.all_eq_true.1 hn f hf

theorem rget_reset (d i : Nat) (r : Reg) : rget State.reset d r i = BitVec.ofNat 64 (packed (fun f => fieldReset d f i) r.fields) := rfl

/-- After reset a field with a literal entry reads it. -/
theorem fget_reset_of_lit {d i n : Nat} {r : Reg} {f : Fld} (hd : d < 25) (hi : i < 256) (hf : f ∈ r.fields) (hr : f.reg = r)
    (hl : f.rst = .lit n) : fget State.reset d i f = n := by
  rw [fget, hr, fldOf, rget_reset, BitVec.toNat_ofNat]
  by_cases he : r = .engBinding
  · subst he
    simp only [Reg.fields, List.mem_cons, List.not_mem_nil, or_false] at hf
    rcases hf with rfl | rfl
    · simp only [Fl.ENG_BINDING_BANK, Rst.lit.injEq] at hl
      subst hl
      simp only [packed, Reg.fields, List.map_cons, List.map_nil, List.sum_cons, List.sum_nil, fieldReset, fuse, bits,
        Nat.shiftRight_eq_div_pow, Fl.ENG_BINDING_BANK, Fl.ENG_BINDING_POWER_DOMAIN]
      omega
    · cases hl
  · have hfit := fits_of_lit he hd hi hf (by rw [hl]; rfl)
    have hlt : packed (fun f => fieldReset d f i) r.fields < 2 ^ 64 := packed_lt (fields_descend r) hfit fun g hg => (fields_ok r g hg).2
    rw [Nat.mod_eq_of_lt hlt, bits_packed (fields_descend r) hfit hf]
    simp only [fieldReset, hl]

/-- A field belongs to the register that lists it. -/
theorem fields_reg (r : Reg) : ∀ f ∈ r.fields, f.reg = r := by
  cases r <;> decide

/-- Settles O60: the reset state is written out, and its registers hold the words that their reset entries make. -/
theorem resetIsEmptyAndCanonical : Obligations.ResetIsEmptyAndCanonical := by
  unfold Obligations.ResetIsEmptyAndCanonical
  refine ⟨⟨rfl, ⟨rfl, rfl, rfl⟩, ⟨rfl, rfl, rfl, rfl, rfl, rfl, rfl, rfl, rfl, rfl, rfl⟩, rfl, rfl⟩, ?_⟩
  intro d i r f n hd hi hf hl
  exact fget_reset_of_lit hd hi hf (fields_reg r f hf) hl

end Sys2Proof.Proofs
end

section
/-! Registers outside a set of places, what the Heliostat's controls leave alone, and memories in part (R416 to R424, R428 to R431). -/

namespace Sys2Proof.Proofs

open Sys2Proof.Machine Sys2Proof.Safety Sys2Proof.Laws

/-! ### Registers outside a set of places -/

/-- From one state to another, registers at places outside `K` stay as they were. -/
structure RegsIn (K : Nat → Prop) (s t : State) : Prop where
  fuses : t.fuses = s.fuses
  regs : ∀ k, ¬ K k → smGet t.regs k = smGet s.regs k

namespace RegsIn

variable {K : Nat → Prop} {s t u : State}

theorem refl (s : State) : RegsIn K s s := ⟨rfl, fun _ _ => rfl⟩

theorem of_regs (hf : t.fuses = s.fuses) (hr : t.regs = s.regs) : RegsIn K s t := ⟨hf, fun _ _ => by rw [hr]⟩

theorem trans (h : RegsIn K s t) (h' : RegsIn K t u) : RegsIn K s u :=
  ⟨h'.fuses.trans h.fuses, fun k hk => (h'.regs k hk).trans (h.regs k hk)⟩

theorem mono {L : Nat → Prop} (h : RegsIn K s t) (hl : ∀ k, K k → L k) : RegsIn L s t :=
  ⟨h.fuses, fun k hk => h.regs k fun hK => hk (hl k hK)⟩

theorem rput (h : RegsIn K s t) {d i : Nat} {r : Reg} {w : BitVec 64} (hk : K (regKey d r i)) : RegsIn K s (Machine.rput t d r i w) :=
  ⟨h.fuses, fun k hn => (smGet_smPut_ne _ _ _ _ fun e : k = _ => hn (by rwa [e])).trans (h.regs k hn)⟩

theorem fput (h : RegsIn K s t) {d i : Nat} {f : Fld} {v : Nat} (hk : K (regKey d f.reg i)) : RegsIn K s (Machine.fput t d i f v) :=
  h.rput hk

theorem rget (h : RegsIn K s t) {d i : Nat} {r : Reg} (hk : ¬ K (regKey d r i)) : rget t d r i = rget s d r i := by
  simp only [Machine.rget, resetWord, h.regs _ hk, h.fuses]

theorem fget (h : RegsIn K s t) {d i : Nat} {f : Fld} (hk : ¬ K (regKey d f.reg i)) : fget t d i f = fget s d i f := by
  rw [Machine.fget, h.rget hk, Machine.fget]

end RegsIn

/-- A register in a slot of its own block lies apart from one in another slot. -/
theorem regKey_ne_of_slot {d e i j : Nat} {r q : Reg} (hr : r.info.blk ≠ .engB) (hq : q.info.blk ≠ .engB) (hi : i < 1024)
    (hj : j < 1024) (h : d ≠ e ∨ dieSlot d r.info.blk ≠ dieSlot e q.info.blk) : regKey d r i ≠ regKey e q j := fun hk => by
  obtain ⟨hd, hs, -⟩ := regKey_inj hr hq hi hj hk
  exact h.elim (· hd) (· hs)

/-- A field that was set with a value that fits it. -/
theorem fget_fput_of_lt (s : State) (d i : Nat) (f : Fld) {v : Nat} (hf : f.lo ≤ f.hi) (h64 : f.hi < 64)
    (hv : v < 2 ^ (f.hi - f.lo + 1)) : fget (fput s d i f v) d i f = v :=
  (fget_fput s d i f v hf h64).trans (Nat.mod_eq_of_lt hv)

/-- Two fields of one register that share no bit, the first to be written and the second to be read. -/
def apart (f g : Fld) : Bool :=
  g.reg == f.reg && decide (f.lo ≤ f.hi) && decide (g.lo ≤ g.hi) && decide (g.hi < 64) && (decide (g.hi < f.lo) || decide (f.hi < g.lo))

theorem fget_fput_other {f g : Fld} (h : apart f g = true) (s : State) (d i v : Nat) : fget (fput s d i f v) d i g = fget s d i g := by
  simp only [apart, Bool.and_eq_true, Bool.or_eq_true, decide_eq_true_eq, beq_iff_eq] at h
  obtain ⟨⟨⟨⟨hr, hf⟩, hg⟩, h64⟩, hfg⟩ := h
  exact fget_fput_apart s d i f g v hr hf hg h64 hfg

theorem fget_fsat_other {f g : Fld} (h : apart f g = true) (s : State) (d i n : Nat) : fget (fsat s d i f n) d i g = fget s d i g :=
  fget_fput_other h s d i _

/-! ### Steps of a frame -/

section
variable {s t u : State} {ks : List Nat}

theorem SameMem.fput (h : SameMem s t) (d i : Nat) (f : Fld) (v : Nat) : SameMem s (Machine.fput t d i f v) := h

theorem SameMem.raise (h : SameMem s t) (code sev src ctx : Nat) (x : BitVec 128) : SameMem s (raise t code sev src ctx x) := h

theorem RegsBut.refl (s : State) : RegsBut s s ks := ⟨rfl, rfl⟩

theorem RegsBut.of_regs (h : RegsBut s t ks) (hf : u.fuses = t.fuses) (hr : u.regs = t.regs) : RegsBut s u ks :=
  ⟨hf.trans h.1, by rw [hr]; exact h.2⟩

theorem RegsBut.raise (h : RegsBut s t ks) (code sev src ctx : Nat) (x : BitVec 128) : RegsBut s (raise t code sev src ctx x) ks := h

theorem fget_raise (s : State) (code sev src ctx : Nat) (x : BitVec 128) (d i : Nat) (f : Fld) :
    fget (Machine.raise s code sev src ctx x) d i f = fget s d i f := rfl

theorem RegsBut.of_power (h : RegsBut s t ks) (q : Power) : RegsBut s { t with power := q } ks := h

end

/-! ### What the controls of power set -/

/-- The places that they write: the pairs' registers, the frequencies of host cores, and PWR_STATUS. -/
def tunedKey (k : Nat) : Prop :=
  (∃ d p, d < 8 ∧ p < 17 ∧ k = regKey d .pwdPair p) ∨ (∃ d c, (d = 16 ∨ d = 17) ∧ c < 100 ∧ k = regKey d .coreFreq c) ∨
    k = regKey 24 .pwrStatus 0

/-- The Heliostat's state without what dividing the budget sets. -/
def settings (p : Power) : Power := { p with shareW := [], shareMv := [], budgetGate := [], finderRate := [], budgetCap := [] }

/-- A field of PWR_STATUS beside the four that show what limits apply. -/
def quietStatus (f : Fld) : Prop := f.reg = .pwrStatus ∧ f.lo ≤ f.hi ∧ f.hi < 64 ∧ (f.hi < 3 ∨ 6 < f.lo)

/-- From one state to another the controls of power were set afresh, and nothing else changed. -/
structure Tunes (s t : State) : Prop where
  rest : ∃ rs p n, t = { s with regs := rs, power := p, fresh := n }
  settings : settings t.power = settings s.power
  regs : RegsIn tunedKey s t
  status : ∀ f, quietStatus f → fget t 24 0 f = fget s 24 0 f

/-- No register outside PWR_STATUS, the pairs and the cores' frequencies is one that the controls write. -/
theorem not_tunedKey {d i : Nat} {r : Reg} (hr : r.info.blk ≠ .engB) (hi : i < 1024)
    (hp : d < 8 → dieSlot d r.info.blk ≠ 42) (hc : d = 16 ∨ d = 17 → dieSlot d r.info.blk ≠ 1)
    (hs : d = 24 → regKey d r i ≠ regKey 24 .pwrStatus 0) : ¬ tunedKey (regKey d r i) := by
  rintro (⟨e, p, he, hp', hk⟩ | ⟨e, c, he, hc', hk⟩ | hk)
  · obtain ⟨rfl, hslot, -⟩ := regKey_inj hr (by decide) hi (by omega) hk
    exact hp he (hslot.trans (by simp [dieSlot, Reg.info, blkSlot, dieType, he]))
  · obtain ⟨rfl, hslot, -⟩ := regKey_inj hr (by decide) hi (by omega) hk
    exact hc he (hslot.trans (by rcases he with rfl | rfl <;> rfl))
  · obtain ⟨rfl, -, -⟩ := regKey_inj hr (by decide) hi (by omega) hk
    exact hs rfl hk

/-- Registers of the system die beside PWR_STATUS are not among them. -/
theorem not_tunedKey_system {r : Reg} (hr : r.info.blk ≠ .engB) (hs : regKey 24 r 0 ≠ regKey 24 .pwrStatus 0) :
    ¬ tunedKey (regKey 24 r 0) :=
  not_tunedKey hr (by omega) (by omega) (by omega) fun _ => hs

namespace Tunes

variable {s t u : State}

theorem refl (s : State) : Tunes s s := ⟨⟨s.regs, s.power, s.fresh, rfl⟩, rfl, .refl s, fun _ _ => rfl⟩

theorem trans (h : Tunes s t) (h' : Tunes t u) : Tunes s u := by
  refine ⟨?_, h'.settings.trans h.settings, h.regs.trans h'.regs, fun f hf => (h'.status f hf).trans (h.status f hf)⟩
  obtain ⟨_, _, _, rfl⟩ := h.rest
  obtain ⟨rs, p, n, rfl⟩ := h'.rest
  exact ⟨rs, p, n, rfl⟩

theorem foldl {α : Type} {f : State → α → State} {l : List α} (h : Tunes s t) (hf : ∀ u, ∀ a ∈ l, Tunes u (f u a)) :
    Tunes s (l.foldl f t) :=
  List.foldlRecOn (motive := Tunes s) l f h fun u hu a ha => hu.trans (hf u a ha)

/-- What neither registers, power nor free values show is kept. -/
theorem get {α : Type} (h : Tunes s t) (f : State → α) (hf : ∀ rs p n, f { s with regs := rs, power := p, fresh := n } = f s) :
    f t = f s := by
  obtain ⟨rs, p, n, rfl⟩ := h.rest
  exact hf rs p n

theorem sameMem (h : Tunes s t) : SameMem s t := ⟨h.get _ fun _ _ _ => rfl, h.get _ fun _ _ _ => rfl, h.get _ fun _ _ _ => rfl⟩

theorem launches (h : Tunes s t) : t.launches = s.launches := h.get _ fun _ _ _ => rfl

theorem ctxs (h : Tunes s t) : t.ctxs = s.ctxs := h.get _ fun _ _ _ => rfl

theorem evt (h : Tunes s t) : t.evt = s.evt := h.get _ fun _ _ _ => rfl

theorem pins (h : Tunes s t) : t.pins = s.pins := h.get _ fun _ _ _ => rfl

/-- A setting of the Heliostat is kept. -/
theorem power {α : Type} (h : Tunes s t) (f : Power → α) (hf : ∀ p, f (Proofs.settings p) = f p) : f t.power = f s.power := by
  rw [← hf t.power, h.settings, hf]

/-- A register of the system die beside PWR_STATUS is kept. -/
theorem fget_system (h : Tunes s t) {f : Fld} (hf : f.reg.info.blk ≠ .engB)
    (hs : regKey 24 f.reg 0 ≠ regKey 24 .pwrStatus 0) : fget t 24 0 f = fget s 24 0 f :=
  h.regs.fget (not_tunedKey_system hf hs)

/-- A write of the place of a pair or of a core's frequency. -/
theorem fput (h : Tunes s t) {d i : Nat} {f : Fld} (v : Nat) (hk : tunedKey (regKey d f.reg i))
    (hs : regKey d f.reg i ≠ regKey 24 .pwrStatus 0) : Tunes s (fput t d i f v) := by
  refine h.trans ⟨⟨_, t.power, t.fresh, rfl⟩, rfl, (RegsIn.refl t).fput hk, fun g hg => ?_⟩
  exact fget_fput_ne _ _ _ _ _ _ _ _ (by rw [hg.1]; exact hs.symm)

/-- A write of a field of PWR_STATUS that shows what limits apply. -/
theorem show_ (h : Tunes s t) {f : Fld} (v : Nat) (hr : f.reg = .pwrStatus) (hf : f.lo ≤ f.hi) (hlo : 3 ≤ f.lo) (hhi : f.hi ≤ 6) :
    Tunes s (Machine.fput t 24 0 f v) := by
  refine h.trans ⟨⟨_, t.power, t.fresh, rfl⟩, rfl, (RegsIn.refl t).fput (.inr (.inr (by rw [hr]))), fun g hg => ?_⟩
  obtain ⟨hgr, hgf, hg64, hg⟩ := hg
  exact fget_fput_apart _ _ _ _ _ _ (hgr.trans hr.symm) hf hgf hg64 (by omega)

/-- A change of what dividing the budget sets. -/
theorem share (s : State) (p : Power) (hp : Proofs.settings p = Proofs.settings s.power) : Tunes s { s with power := p } :=
  ⟨⟨s.regs, p, s.fresh, rfl⟩, hp, .of_regs rfl rfl, fun _ _ => rfl⟩

end Tunes

/-! ### The operations of the Heliostat -/

theorem pairKey_ne_status {d p : Nat} (hd : d < 8) (hp : p < 17) : regKey d .pwdPair p ≠ regKey 24 .pwrStatus 0 :=
  regKey_ne_of_slot (by decide) (by decide) (by omega) (by omega) (.inl (by omega))

theorem freqKey_ne_status {d c : Nat} (hd : d = 16 ∨ d = 17) (hc : c < 100) : regKey d .coreFreq c ≠ regKey 24 .pwrStatus 0 :=
  regKey_ne_of_slot (by decide) (by decide) (by omega) (by omega) (.inl (by omega))

theorem setPair_tunes (s : State) {d p : Nat} (hd : d < 8) (hp : p < 17) : Tunes s (setPair s d p) := by
  have hput {t : State} (h : Tunes s t) (f : Fld) (v : Nat) (hf : f.reg = .pwdPair) : Tunes s (fput t d p f v) :=
    h.fput v (.inl ⟨d, p, hd, hp, by rw [hf]⟩) (by rw [hf]; exact pairKey_ne_status hd hp)
  unfold setPair
  dsimp only
  split
  · exact .refl s
  · exact hput (hput (hput (hput (.refl s) _ _ rfl) _ _ rfl) _ _ rfl) _ _ rfl

theorem setDiePairs_tunes (s : State) {d : Nat} (hd : d < 8) : Tunes s (setDiePairs s d) :=
  (Tunes.refl s).foldl fun t _ hp => setPair_tunes t hd (List.mem_range.1 hp)

theorem setAllPairs_tunes (s : State) : Tunes s (setAllPairs s) :=
  (Tunes.refl s).foldl fun t _ hd => setDiePairs_tunes t (List.mem_range.1 hd)

theorem setCap_tunes (s : State) {d c : Nat} (hd : d = 16 ∨ d = 17) (hc : c < 100) : Tunes s (setCap s d c) := by
  have hput {t : State} (h : Tunes s t) (f : Fld) (v : Nat) (hf : f.reg = .coreFreq) : Tunes s (fput t d c f v) :=
    h.fput v (.inr (.inl ⟨d, c, hd, hc, by rw [hf]⟩)) (by rw [hf]; exact freqKey_ne_status hd hc)
  exact hput (hput (.refl s) _ _ rfl) _ _ rfl

theorem onlineCores_lt {s : State} {d c : Nat} (h : c ∈ onlineCores s d) : c < 100 :=
  List.mem_range.1 (List.mem_filter.1 h).1

theorem setCaps_tunes (s : State) : Tunes s (setCaps s) :=
  (Tunes.refl s).foldl fun t d hd => (Tunes.refl t).foldl fun u _ hc =>
    setCap_tunes u (by simpa using hd) (onlineCores_lt hc)

/-- The fastest core is one of a host die. -/
theorem fastest_core {s : State} {d c : Nat} (h : fastest s = some (d, c)) : (d = 16 ∨ d = 17) ∧ c < 100 := by
  unfold fastest at h
  dsimp only at h
  split at h
  · cases h
  · obtain ⟨⟨k, e⟩, hk, rfl⟩ := Option.map_eq_some_iff.1 h
    have hm := List.mem_of_find?_eq_some hk
    simp only [List.mem_flatMap, List.mem_map] at hm
    obtain ⟨d', hd, c', hc, hk⟩ := hm
    simp only [Prod.mk.injEq] at hk
    obtain ⟨⟨rfl, rfl⟩, -⟩ := hk
    exact ⟨by simpa using hd, onlineCores_lt hc⟩

theorem lowerCaps_tunes (n : Nat) (s : State) : Tunes s (lowerCaps n s) := by
  induction n generalizing s with
  | zero => exact .refl s
  | succ n ih =>
    unfold lowerCaps
    split
    · exact .refl s
    · next d c hf =>
      obtain ⟨hd, hc⟩ := fastest_core hf
      have hs := Tunes.share s { s.power with
        budgetCap := smPut s.power.budgetCap (coreKey d c) (fget s d c Fl.CORE_FREQ_EFFECTIVE - 1) } rfl
      exact (hs.trans (setCap_tunes _ hd hc)).trans (ih _)

theorem drawBelow_tunes (s : State) (n : Nat) : Tunes s (drawBelow s n).2 := ⟨⟨s.regs, s.power, _, rfl⟩, rfl, .of_regs rfl rfl, fun _ _ => rfl⟩

theorem hostCaps_tunes (s : State) (short : Bool) : Tunes s (hostCaps s short) := by
  unfold hostCaps
  dsimp only
  split
  · exact (drawBelow_tunes s _).trans (lowerCaps_tunes _ _)
  · split
    · exact .refl s
    · exact (Tunes.share s { s.power with budgetCap := [] } rfl).trans (setCaps_tunes _)

/-- The matrix dies of a partition that exists. -/
theorem partDies_lt {s : State} {p d : Nat} (hp : p < partCount (modeOf s)) (h : d ∈ partDies s p) : d < 8 := by
  obtain ⟨i, hi, rfl⟩ := List.mem_map.1 h
  have hi := List.mem_range.1 hi
  have hmode : modeOf s = 0 ∧ partCount (modeOf s) = 1 ∧ hubsPer (modeOf s) = 4 ∨
      modeOf s = 1 ∧ partCount (modeOf s) = 2 ∧ hubsPer (modeOf s) = 2 ∨ partCount (modeOf s) = 4 ∧ hubsPer (modeOf s) = 1 := by
    unfold partCount hubsPer
    grind
  rcases hmode with ⟨-, hc, hh⟩ | ⟨-, hc, hh⟩ | ⟨hc, hh⟩ <;> rw [hh] at hi ⊢ <;> omega

theorem showPower_tunes (s : State) : Tunes s (showPower s) := by
  unfold showPower
  dsimp only
  exact ((((Tunes.refl s).show_ _ rfl (by decide) (by decide) (by decide)).show_ _ rfl (by decide) (by decide) (by decide)).show_ _ rfl
    (by decide) (by decide) (by decide)).show_ _ rfl (by decide) (by decide) (by decide)

theorem b2n_lt (b : Bool) : b2n b < 2 := by
  cases b <;> decide

theorem fget_showPower_clamp (s : State) : fget (showPower s) 24 0 Fl.PWR_STATUS_CLAMP = b2n (s.power.clampMv != 0) := by
  exact fget_fput_of_lt _ _ _ _ (by decide) (by decide) (b2n_lt _)

end Sys2Proof.Proofs
end

section
/-! The budget, its evaluation, the fast loop and thermal control (R403, R416 to R424, R428 to R431). -/

namespace Sys2Proof.Proofs

open Sys2Proof.Machine Sys2Proof.Safety Sys2Proof.Laws

/-! ### Dividing watts -/

/-- Shares in proportion to weights, each rounded down, add to no more than what is shared. -/
theorem sum_shares_le (l : List Nat) (w : Nat → Nat) (r : Nat) :
    (l.map fun p => r * w p / max 1 (l.map w).sum).sum ≤ r := by
  have hdiv (n : Nat) : (l.map fun p => r * w p / n).sum ≤ r * (l.map w).sum / n := by
    induction l with
    | nil => simp
    | cons a l ih =>
      simp only [List.map_cons, List.sum_cons, Nat.mul_add]
      calc r * w a / n + (l.map fun p => r * w p / n).sum ≤ r * w a / n + r * (l.map w).sum / n := Nat.add_le_add_left ih _
        _ ≤ (r * w a + r * (l.map w).sum) / n := Nat.div_add_div_le_add_div
  refine (hdiv _).trans (Nat.div_le_of_le_mul ?_)
  rw [Nat.mul_comm]
  exact Nat.mul_le_mul_right _ (le_max_right _ _)

/-- A part of a list adds to no more than the list. -/
theorem sum_filter_le (l : List Nat) (p : Nat → Bool) (f : Nat → Nat) : ((l.filter p).map f).sum ≤ (l.map f).sum :=
  (List.filter_sublist.map f).sum_le_sum fun _ _ => Nat.zero_le _

/-- Dividing watts gives out no more than there is. -/
theorem divide_sum_le (s : State) (n : Nat) (ps : List Nat) (r : Nat) : ((divide s n ps r).map (·.2)).sum ≤ r := by
  induction n generalizing ps r with
  | zero => exact Nat.zero_le _
  | succ n ih =>
    unfold divide
    dsimp only
    have hall := sum_shares_le ps (weightOf s) r
    split
    · simpa [Function.comp_def] using hall
    · set low := ps.filter fun p => decide (needW s p ≤ r * weightOf s p / max 1 (ps.map (weightOf s)).sum) with hlow
      have hneed : (low.map (needW s)).sum ≤ r :=
        calc (low.map (needW s)).sum ≤ (low.map fun p => r * weightOf s p / max 1 (ps.map (weightOf s)).sum).sum :=
              List.sum_le_sum fun p hp => of_decide_eq_true (List.mem_filter.1 hp).2
          _ ≤ (ps.map fun p => r * weightOf s p / max 1 (ps.map (weightOf s)).sum).sum := sum_filter_le ps _ _
          _ ≤ r := hall
      have hrest := ih (ps.filter fun p => !low.contains p) (r - (low.map (needW s)).sum)
      have hlowSum : (low.map ((·.2) ∘ fun p => (p, needW s p))).sum = (low.map (needW s)).sum := rfl
      rw [List.map_append, List.sum_append, List.map_map]
      omega

/-- The partitions that dividing names are those that were given. -/
theorem mem_divide {s : State} {n : Nat} {ps : List Nat} {r : Nat} {x : Nat × Nat} (h : x ∈ divide s n ps r) : x.1 ∈ ps := by
  induction n generalizing ps r with
  | zero => cases h
  | succ n ih =>
    unfold divide at h
    dsimp only at h
    split at h
    · obtain ⟨p, hp, rfl⟩ := List.mem_map.1 h
      exact hp
    · rcases List.mem_append.1 h with h | h
      · obtain ⟨p, hp, rfl⟩ := List.mem_map.1 h
        exact (List.mem_filter.1 hp).1
      · exact (List.mem_filter.1 (ih h)).1

/-! ### The budget -/

theorem Tunes.modeOf {s t : State} (h : Tunes s t) : modeOf t = modeOf s := h.fget_system (by decide) (by decide)

theorem applyShare_tunes (s : State) {p : Nat} (hp : p < partCount (modeOf s)) (w : Nat) : Tunes s (applyShare s p w) := by
  have hs (q : Power) (hq : settings q = settings s.power) : Tunes s ((partDies { s with power := q } p).foldl setDiePairs { s with power := q }) :=
    (Tunes.share s q hq).foldl fun t _ hd => setDiePairs_tunes t (partDies_lt hp hd)
  exact hs _ rfl

theorem budget_tunes (s : State) : Tunes s (budget s) := by
  unfold budget
  dsimp only
  refine Tunes.trans ?_ (showPower_tunes _)
  set u := hostCaps s _ with hu
  have hsu : Tunes s u := hostCaps_tunes s _
  refine List.foldlRecOn (motive := Tunes s) _ _ hsu fun t ht x hx => ht.trans (applyShare_tunes t ?_ _)
  have hm : x.1 ∈ activeParts u := mem_divide hx
  rw [ht.modeOf, ← hsu.modeOf]
  exact List.mem_range.1 (List.mem_filter.1 hm).1

/-! ### HELIOSTAT_EVALUATION and FAST_LOOP -/

theorem fsat_regs (s : State) (d i : Nat) (f : Fld) (n : Nat) : ∃ rs, fsat s d i f n = { s with regs := rs } := ⟨_, rfl⟩

/-- Counting what gates hold changes registers only. -/
theorem countGated_regs (s : State) : ∃ rs, countGated s = { s with regs := rs } := by
  refine List.foldlRecOn (motive := fun t => ∃ rs : SMap (BitVec 64), t = { s with regs := rs }) _ _ ⟨s.regs, rfl⟩ ?_
  rintro _ ⟨rs, rfl⟩ d -
  exact ⟨_, rfl⟩

/-- The state that a sample leaves, before anything is made of it. -/
theorem takeSample_regs (s : State) (p : PowerSample) : ∃ rs, takeSample s p =
    { s with regs := rs, power := { s.power with domW := p.domainW.foldl (fun m x => smPut m x.1 x.2) [], lastHost := p.hostDemandW } } :=
  ⟨_, rfl⟩

/-- Since when the ceiling is not met is noted in the Heliostat's state, and else in UNMET alone. -/
theorem noteUnmet_cases (s : State) (w : Nat) : ∃ x, noteUnmet s w = { s with power := { s.power with unmetSince := x } } ∨
    noteUnmet s w = fput { s with power := { s.power with unmetSince := x } } 24 0 Fl.PWR_STATUS_UNMET 0 := by
  unfold noteUnmet
  split
  · exact ⟨_, .inl rfl⟩
  · exact ⟨none, .inr rfl⟩

/-- The input that a sample shows. -/
theorem fget_takeSample (s : State) {p : PowerSample} (hmv : p.inputMv < 2 ^ 16) (hda : p.inputDeciAmps < 2 ^ 16) (hw : p.inputW < 2 ^ 16) :
    fget (takeSample s p) 24 0 Fl.PWR_INPUT_MILLIVOLTS = p.inputMv ∧
      fget (takeSample s p) 24 0 Fl.PWR_INPUT_DECIAMPS = p.inputDeciAmps ∧ fget (takeSample s p) 24 0 Fl.PWR_INPUT_WATTS = p.inputW := by
  unfold takeSample
  dsimp only
  refine ⟨?_, ?_, fget_fput_of_lt _ _ _ _ (by decide) (by decide) hw⟩
  · rw [fget_fput_other (by decide), fget_fput_other (by decide)]
    exact fget_fput_of_lt _ _ _ _ (by decide) (by decide) hmv
  · rw [fget_fput_other (by decide)]
    exact fget_fput_of_lt _ _ _ _ (by decide) (by decide) hda

/-- A sample leaves the sustained ceiling as it was. -/
theorem sustainedW_takeSample (s : State) (p : PowerSample) : sustainedW (takeSample s p) = sustainedW s := by
  have hf (f : Fld) (hr : f.reg = .pwrCeiling) : fget (takeSample s p) 24 0 f = fget s 24 0 f := by
    have hne : regKey 24 f.reg 0 ≠ regKey 24 .pwrInput 0 := by rw [hr]; decide
    exact ((fget_fput_ne _ _ _ _ _ _ _ _ hne).trans (fget_fput_ne _ _ _ _ _ _ _ _ hne)).trans (fget_fput_ne _ _ _ _ _ _ _ _ hne)
  simp only [sustainedW, hf Fl.PWR_CEILING_CEILING_W rfl, hf Fl.PWR_CEILING_CAP_REQ_W rfl]
  rfl

/-- What a sample leaves is the state that it found, with other registers and the sample. -/
theorem takeSample_spec (s : State) (p : PowerSample) (hmv : p.inputMv < 2 ^ 16) (hda : p.inputDeciAmps < 2 ^ 16) (hw : p.inputW < 2 ^ 16) :
    ∃ rs q, takeSample s p = { s with regs := rs, power := q } ∧ q.domW = p.domainW.foldl (fun m x => smPut m x.1 x.2) [] ∧
      q.lastHost = p.hostDemandW ∧ ∀ q', fget { s with regs := rs, power := q' } 24 0 Fl.PWR_INPUT_MILLIVOLTS = p.inputMv ∧
        fget { s with regs := rs, power := q' } 24 0 Fl.PWR_INPUT_DECIAMPS = p.inputDeciAmps ∧
        fget { s with regs := rs, power := q' } 24 0 Fl.PWR_INPUT_WATTS = p.inputW := by
  obtain ⟨rs, hrs⟩ := takeSample_regs s p
  have hin := fget_takeSample s hmv hda hw
  rw [hrs] at hin
  exact ⟨rs, _, hrs, rfl, rfl, fun _ => hin⟩

/-- Evaluating the budget after a sample: the clamp is handed back and the sample kept. -/
theorem doHeliostatEvaluation_spec (p : PowerSample) (s : State) (hmv : p.inputMv < 2 ^ 16) (hda : p.inputDeciAmps < 2 ^ 16)
    (hw : p.inputW < 2 ^ 16) :
    ∃ rs q v x, q.domW = p.domainW.foldl (fun m x => smPut m x.1 x.2) [] ∧ q.lastHost = p.hostDemandW ∧ q.clampMv = 0 ∧
      (fget { s with regs := rs, power := q } 24 0 Fl.PWR_INPUT_MILLIVOLTS = p.inputMv ∧
        fget { s with regs := rs, power := q } 24 0 Fl.PWR_INPUT_DECIAMPS = p.inputDeciAmps ∧
        fget { s with regs := rs, power := q } 24 0 Fl.PWR_INPUT_WATTS = p.inputW) ∧
      Tunes { s with regs := rs, power := q } v ∧
      (doHeliostatEvaluation p s = { v with power := { v.power with unmetSince := x } } ∨
        doHeliostatEvaluation p s = fput { v with power := { v.power with unmetSince := x } } 24 0 Fl.PWR_STATUS_UNMET 0) := by
  obtain ⟨rs₀, hrs₀⟩ := countGated_regs s
  obtain ⟨rs, q, hq, hdom, hlast, hin⟩ := takeSample_spec { s with regs := rs₀ } p hmv hda hw
  obtain ⟨x, hx⟩ := noteUnmet_cases (budget { takeSample (countGated s) p with
    power := { (takeSample (countGated s) p).power with clampMv := 0 } }) p.inputW
  rw [hrs₀, hq] at hx
  refine ⟨rs, { q with clampMv := 0 }, _, x, hdom, hlast, rfl, hin _, budget_tunes _, ?_⟩
  simpa only [doHeliostatEvaluation, hrs₀, hq] using hx

/-- The state of FAST_LOOP above the ceiling once the excursion is counted. -/
def countExcursion (s : State) : State :=
  if s.power.overSince.isSome then s
  else fsat (fput s 24 0 Fl.PWR_STATUS_EXCURSION 1) 24 0 Fl.PWR_STATUS_EXCURSIONS 1

theorem countExcursion_regs (s : State) : ∃ rs, countExcursion s = { s with regs := rs } := by
  unfold countExcursion
  split
  · exact ⟨s.regs, rfl⟩
  · exact ⟨_, rfl⟩

/-- A state in which an excursion began at a time, with the clamp set. -/
def clamped (s : State) (begun : Nat) : State := { s with power := { s.power with overSince := some begun, clampMv := 600 } }

/-- FAST_LOOP above 4,300 W and above the ceiling. -/
theorem doFastLoop_clamps {p : PowerSample} {s : State} (h : 4300 < p.inputW) (hc : sustainedW s < p.inputW) :
    doFastLoop p s = showPower (setAllPairs (clamped (countExcursion (takeSample s p))
      ((takeSample s p).power.overSince.getD (takeSample s p).time.toNat))) := by
  unfold doFastLoop
  dsimp only
  rw [if_neg (by rw [sustainedW_takeSample]; omega), if_pos (.inl h), clamped, countExcursion]

/-- A state in which an excursion has ended. -/
def excursionOver (s : State) : State := { s with power := { s.power with overSince := none, excursionEnd := some s.time.toNat } }

/-- FAST_LOOP within the ceiling, with no excursion begun. -/
theorem doFastLoop_within {p : PowerSample} {s : State} (h : p.inputW ≤ sustainedW s) (hs : s.power.overSince = none) :
    doFastLoop p s = takeSample s p := by
  have hover : (takeSample s p).power.overSince.isNone = true := by
    rw [show (takeSample s p).power.overSince = none from hs]
    rfl
  unfold doFastLoop
  dsimp only
  rw [if_pos (by rwa [sustainedW_takeSample]), if_pos hover]

/-- FAST_LOOP within the ceiling, once an excursion has begun. -/
theorem doFastLoop_ends {p : PowerSample} {s : State} {a : Nat} (h : p.inputW ≤ sustainedW s) (hs : s.power.overSince = some a) :
    doFastLoop p s = fput (excursionOver (takeSample s p)) 24 0 Fl.PWR_STATUS_EXCURSION 0 := by
  have hover : ¬ (takeSample s p).power.overSince.isNone = true := by
    rw [show (takeSample s p).power.overSince = some a from hs]
    exact Bool.false_ne_true
  unfold doFastLoop
  dsimp only
  rw [if_pos (by rwa [sustainedW_takeSample]), if_neg hover, excursionOver]

/-- Settles O30: what is divided is bounded by induction on the rounds, and the commands set what the budget or the clamp sets. -/
theorem theHeliostatDividesPower : Obligations.TheHeliostatDividesPower := by
  unfold Obligations.TheHeliostatDividesPower
  refine ⟨divide_sum_le, ?evaluation, ?clamps, ?within, ?ends⟩
  case evaluation =>
    intro p s hmv hda hw
    obtain ⟨rs, q, v, x, hdom, hlast, hclamp, ⟨h1, h2, h3⟩, hv, ht⟩ := doHeliostatEvaluation_spec p s hmv hda hw
    have hin {f : Fld} (hf : f.reg = .pwrInput) : fget (doHeliostatEvaluation p s) 24 0 f = fget { s with regs := rs, power := q } 24 0 f := by
      have hvf := hv.fget_system (f := f) (by rw [hf]; decide) (by rw [hf]; decide)
      rcases ht with ht | ht
      · rw [ht]
        exact hvf
      · rw [ht, fget_fput_ne _ _ _ _ _ _ _ _ (by rw [hf]; decide)]
        exact hvf
    have hkeep {α : Type} (f : State → α) (hf : ∀ u rs q, f { u with regs := rs, power := q } = f u) :
        f (doHeliostatEvaluation p s) = f v := by
      rcases ht with ht | ht <;> rw [ht]
      · exact hf v v.regs _
      · exact hf v _ _
    have hpow {α : Type} (f : Power → α) (hf : ∀ q x, f { q with unmetSince := x } = f q) (hs : ∀ q, f (settings q) = f q) :
        f (doHeliostatEvaluation p s).power = f q := by
      refine Eq.trans ?_ (hv.power f hs)
      rcases ht with ht | ht <;> rw [ht] <;> exact hf v.power x
    obtain ⟨hmem, hnear, hos⟩ := hv.sameMem
    exact ⟨_, rfl, (hpow (·.clampMv) (fun _ _ => rfl) fun _ => rfl).trans hclamp, (hpow (·.domW) (fun _ _ => rfl) fun _ => rfl).trans hdom,
      (hpow (·.lastHost) (fun _ _ => rfl) fun _ => rfl).trans hlast, (hin rfl).trans h1, (hin rfl).trans h2, (hin rfl).trans h3,
      ⟨(hkeep (·.mem) fun _ _ _ => rfl).trans hmem, (hkeep (·.near) fun _ _ _ => rfl).trans hnear,
        (hkeep (·.ostore) fun _ _ _ => rfl).trans hos⟩,
      (hkeep (·.launches) fun _ _ _ => rfl).trans hv.launches, (hkeep (·.ctxs) fun _ _ _ => rfl).trans hv.ctxs⟩
  case clamps =>
    intro p s h hc
    obtain ⟨rs, hrs⟩ := countExcursion_regs (takeSample s p)
    set u := clamped (countExcursion (takeSample s p)) ((takeSample s p).power.overSince.getD (takeSample s p).time.toNat) with hu
    have hpairs : Tunes u (setAllPairs u) := setAllPairs_tunes u
    have htune : Tunes u (showPower (setAllPairs u)) := hpairs.trans (showPower_tunes _)
    refine ⟨_, congrArg Host.Outcome.next (doFastLoop_clamps h hc), htune.power (·.clampMv) fun _ => rfl, ?_,
      htune.power (·.overSince) fun _ => rfl, ?_, htune.launches.trans (by rw [hu, hrs]; rfl)⟩
    · rw [fget_showPower_clamp, hpairs.power (·.clampMv) fun _ => rfl]
      rfl
    · obtain ⟨hmem, hnear, hos⟩ := htune.sameMem
      exact ⟨hmem.trans (by rw [hu, hrs]; rfl), hnear.trans (by rw [hu, hrs]; rfl), hos.trans (by rw [hu, hrs]; rfl)⟩
  case within => exact fun p s hle hs => congrArg Host.Outcome.next (doFastLoop_within hle hs)
  case ends =>
    intro p a s hle hs
    have hin : regKey 24 .pwrInput 0 ∈ [regKey 24 .pwrStatus 0, regKey 24 .pwrInput 0] := by simp
    have hst : regKey 24 .pwrStatus 0 ∈ [regKey 24 .pwrStatus 0, regKey 24 .pwrInput 0] := by simp
    refine ⟨_, congrArg Host.Outcome.next (doFastLoop_ends hle hs), rfl, rfl, fget_fput_of_lt _ _ _ _ (by decide) (by decide)
      (by decide), ⟨rfl, rfl, rfl⟩, ?_⟩
    have hsample : RegsBut s (takeSample s p) [regKey 24 .pwrStatus 0, regKey 24 .pwrInput 0] :=
      RegsBut.fput (RegsBut.fput (RegsBut.fput ⟨rfl, rfl⟩ _ hin) _ hin) _ hin
    exact RegsBut.fput (RegsBut.of_power hsample _) _ hst

end Sys2Proof.Proofs
end

section
/-! Temperatures, and the domain that is listed twice (R403, R413, R428 to R431). -/

namespace Sys2Proof.Proofs

open Sys2Proof.Machine Sys2Proof.Safety Sys2Proof.Laws

/-! ### THERMAL_SAMPLE -/

/-- An entry that was set is one of the map's. -/
theorem mem_smPut_self {α : Type} (m : SMap α) (a : Nat) (v : α) : (a, v) ∈ smPut m a v := by
  induction m with
  | nil => simp [smPut]
  | cons p r ih =>
    simp only [smPut]
    split
    · simp
    · split
      · simp
      · simp [ih]

/-- From one state to another limits were set for a temperature: the controls, and the limits of R429. -/
structure Limits (s t : State) : Prop where
  rest : ∃ rs p n, t = { s with regs := rs, power := p, fresh := n }
  lastTemp : t.power.lastTemp = s.power.lastTemp

theorem Tunes.limits {s t : State} (h : Tunes s t) : Limits s t := ⟨h.rest, h.power _ fun _ => rfl⟩

theorem Limits.trans {s t u : State} (h : Limits s t) (h' : Limits t u) : Limits s u := by
  refine ⟨?_, h'.lastTemp.trans h.lastTemp⟩
  obtain ⟨_, _, _, rfl⟩ := h.rest
  obtain ⟨rs, p, n, rfl⟩ := h'.rest
  exact ⟨rs, p, n, rfl⟩

theorem limits_power (s : State) (p : Power) (h : p.lastTemp = s.power.lastTemp) : Limits s { s with power := p } :=
  ⟨⟨s.regs, p, s.fresh, rfl⟩, h⟩

theorem setLimits_limits (s : State) (d t : Nat) : Limits s (setLimits s d t) := by
  unfold setLimits
  dsimp only
  split
  · next h =>
    have hd : d < 8 := by unfold dieType at h; grind
    refine Limits.trans ?_ (setDiePairs_tunes _ hd).limits
    exact limits_power s _ rfl
  · refine Limits.trans ?_ (setCaps_tunes _).limits
    exact limits_power s _ rfl
  · exact limits_power s _ rfl
  · exact limits_power s _ rfl
  · exact (Tunes.refl s).limits

/-- The sample of a die at its limit drives THERM_ALERT_N. -/
theorem showTherm_of_hot {s : State} {d t : Nat} (hm : (d, t) ∈ s.power.lastTemp) (ht : tMax d ≤ t) :
    ∃ rs, showTherm s = { s with regs := rs, pins := { s.pins with thermAlertDriven := true } } ∧
      fget (showTherm s) 24 0 Fl.PWR_THERM_ALERT = 1 := by
  have hhot : (s.power.lastTemp.any fun p => decide (tMax p.1 ≤ p.2)) = true :=
    List.any_eq_true.2 ⟨(d, t), hm, decide_eq_true ht⟩
  unfold showTherm
  simp only [hhot, if_true]
  split
  · exact ⟨_, rfl, fget_fput_of_lt _ _ _ _ (by decide) (by decide) (by decide)⟩
  · refine ⟨_, rfl, ?_⟩
    rw [fget_fput_other (by decide), fget_fput_other (by decide)]
    exact fget_fput_of_lt _ _ _ _ (by decide) (by decide) (by decide)

/-- The first time in a second that a die reaches its limit is an event. -/
theorem limitEvent_of_hot {s : State} {d t : Nat} (ht : tMax d ≤ t)
    (hs : smGet s.power.thermalRaised d ≠ some (s.time.toNat / 1000000000)) :
    ∃ rs p e, limitEvent s d t = { s with regs := rs, power := p, evt := { s.evt with arriving := s.evt.arriving ++ [e] } } ∧
      p.lastTemp = s.power.lastTemp ∧ e.code = 0x0F63 := by
  unfold limitEvent
  dsimp only
  rw [if_neg (not_or.2 ⟨Nat.not_lt.2 ht, hs⟩)]
  exact ⟨_, _, _, rfl, rfl, rfl⟩

/-- THERMAL_SAMPLE of a die at its limit. -/
theorem doThermalSample_of_hot {s : State} {d a : Nat} (hd : d < 25) (ht : tMax d ≤ a)
    (hs : smGet s.power.thermalRaised d ≠ some (s.time.toNat / 1000000000)) :
    ∃ t e rs p n, doThermalSample d a s = showPower t ∧ fget t 24 0 Fl.PWR_THERM_ALERT = 1 ∧
      p.lastTemp = smPut s.power.lastTemp d a ∧ e.code = 0x0F63 ∧
      t = { s with
        regs := rs, power := p, fresh := n, pins := { s.pins with thermAlertDriven := true }
        evt := { s.evt with arriving := s.evt.arriving ++ [e] } } := by
  obtain ⟨rs₁, p₁, e, h1, htemp, hcode⟩ := limitEvent_of_hot (s := { s with power := { s.power with lastTemp := smPut s.power.lastTemp d a } }) ht hs
  set v := limitEvent { s with power := { s.power with lastTemp := smPut s.power.lastTemp d a } } d a with hv
  have hvtemp : v.power.lastTemp = smPut s.power.lastTemp d a := by rw [h1]; exact htemp
  set w := if dieType d ≠ 1 ∧ mustSet v d a then setLimits (noteSet v d a) d a else v with hw
  have hlim : Limits v w := by
    rw [hw]
    split
    · refine Limits.trans ?_ (setLimits_limits _ _ _)
      exact limits_power v _ rfl
    · exact (Tunes.refl v).limits
  have hwtemp : w.power.lastTemp = smPut s.power.lastTemp d a := hlim.lastTemp.trans hvtemp
  obtain ⟨rs, hshow, halert⟩ := showTherm_of_hot (s := w) (by rw [hwtemp]; exact mem_smPut_self _ _ _) ht
  obtain ⟨rs₂, p, n, h2⟩ := hlim.rest
  refine ⟨showTherm w, e, rs, p, n, ?_, halert, by rw [← hwtemp, h2], hcode, by rw [hshow, h2, h1]⟩
  rw [doThermalSample, if_neg (by omega)]

/-! ### NS_THERMAL_SAMPLE and THERMAL_GATE_STEP -/

/-- A write of the register of a stack's thermal limits. -/
theorem nearTherm_not_tuned {d : Nat} (hd : d < 8) : ¬ tunedKey (regKey d .lnkStackThermal 0) :=
  not_tunedKey (by decide) (by omega) (fun _ => by simp [dieSlot, Reg.info, blkSlot]) (by omega) (by omega)

theorem nearLimit_lt (a : Nat) : nearLimit a < 2 ^ 16 := by
  unfold nearLimit step5
  grind

/-- The registers of a stack's limits after a sample that sets one, before the pairs follow. -/
def nearShown (s : State) (d a : Nat) : State :=
  let s := fput s (d - 8) 0 Fl.LNK_STACK_THERMAL_NS_TEMP_C (a / 10)
  let s := fput (noteSet s d a) (d - 8) 0 Fl.LNK_STACK_THERMAL_VLIMIT_MV (nearLimit a)
  if nearLimit a < 900 then fsat s (d - 8) 0 Fl.LNK_STACK_THERMAL_ENTRIES 1 else s

theorem fget_nearShown (s : State) (d : Nat) {a : Nat} (ha : a < 2560) :
    fget (nearShown s d a) (d - 8) 0 Fl.LNK_STACK_THERMAL_VLIMIT_MV = nearLimit a ∧
      fget (nearShown s d a) (d - 8) 0 Fl.LNK_STACK_THERMAL_NS_TEMP_C = a / 10 := by
  set u := noteSet (fput s (d - 8) 0 Fl.LNK_STACK_THERMAL_NS_TEMP_C (a / 10)) d a with hu
  have htemp : fget u (d - 8) 0 Fl.LNK_STACK_THERMAL_NS_TEMP_C = a / 10 :=
    fget_fput_of_lt s _ _ _ (by decide) (by decide) (by show a / 10 < 256; omega)
  have hlimit : fget (fput u (d - 8) 0 Fl.LNK_STACK_THERMAL_VLIMIT_MV (nearLimit a)) (d - 8) 0 Fl.LNK_STACK_THERMAL_VLIMIT_MV = nearLimit a :=
    fget_fput_of_lt _ _ _ _ (by decide) (by decide) (nearLimit_lt a)
  have hkept : fget (fput u (d - 8) 0 Fl.LNK_STACK_THERMAL_VLIMIT_MV (nearLimit a)) (d - 8) 0 Fl.LNK_STACK_THERMAL_NS_TEMP_C = a / 10 :=
    (fget_fput_other (by decide) _ _ _ _).trans htemp
  unfold nearShown
  dsimp only
  split
  · exact ⟨(fget_fsat_other (by decide) _ _ _ _).trans hlimit, (fget_fsat_other (by decide) _ _ _ _).trans hkept⟩
  · exact ⟨hlimit, hkept⟩

theorem nearShown_sameMem (s : State) (d a : Nat) : SameMem s (nearShown s d a) := by
  unfold nearShown
  dsimp only
  split <;> exact ⟨rfl, rfl, rfl⟩

theorem doNsThermalSample_of_mustSet {d a : Nat} {s : State} (h8 : 8 ≤ d) (h16 : d < 16) (hset : mustSet s d a = true) :
    doNsThermalSample d a s = setDiePairs { nearShown s d a with
      power := { (nearShown s d a).power with nearMv := smPut (nearShown s d a).power.nearMv (d - 8) (nearLimit a) } } (d - 8) := by
  have hset' : ¬ (!mustSet (fput s (d - 8) 0 Fl.LNK_STACK_THERMAL_NS_TEMP_C (a / 10)) d a) = true := by
    rw [show mustSet (fput s (d - 8) 0 Fl.LNK_STACK_THERMAL_NS_TEMP_C (a / 10)) d a = true from hset]
    decide
  unfold doNsThermalSample
  dsimp only
  rw [if_neg (by omega), if_neg hset', nearShown]

/-- A sample that must set a limit shows the temperature and the limit of its band. -/
theorem doNsThermalSample_sets {d a : Nat} {s : State} (h8 : 8 ≤ d) (h16 : d < 16) (ha : a < 2560) (hset : mustSet s d a = true) :
    ∃ t, exec (.nsThermalSample d a) s = .next t ∧
      fget t (d - 8) 0 Fl.LNK_STACK_THERMAL_VLIMIT_MV = nearLimit a ∧ fget t (d - 8) 0 Fl.LNK_STACK_THERMAL_NS_TEMP_C = a / 10 ∧
      smGet t.power.nearMv (d - 8) = some (nearLimit a) ∧ SameMem s t := by
  have hd : d - 8 < 8 := by omega
  obtain ⟨hlimit, htemp⟩ := fget_nearShown s d ha
  obtain ⟨hmem, hnear, hos⟩ := nearShown_sameMem s d a
  refine ⟨_, congrArg Host.Outcome.next (doNsThermalSample_of_mustSet h8 h16 hset), ?_⟩
  generalize nearShown s d a = u at hlimit htemp hmem hnear hos
  have htune := setDiePairs_tunes { u with power := { u.power with nearMv := smPut u.power.nearMv (d - 8) (nearLimit a) } } hd
  obtain ⟨hmem', hnear', hos'⟩ := htune.sameMem
  refine ⟨(htune.regs.fget (nearTherm_not_tuned hd)).trans hlimit, (htune.regs.fget (nearTherm_not_tuned hd)).trans htemp, ?_,
    hmem'.trans hmem, hnear'.trans hnear, hos'.trans hos⟩
  rw [htune.power (·.nearMv) fun _ => rfl]
  exact smGet_smPut_same _ _ _

/-- A step of the gate of a matrix die. -/
theorem doThermalGateStep_of_matrix (s : State) {d : Nat} (hd : d < 8) (a : Nat) :
    smGet (doThermalGateStep d a s).power.thermalGate d = some (if tMax d ≤ a ∧ smGetD s.power.thermalMv 900 d = 600 then
        min 7 (smGetD s.power.thermalGate 0 d + 1)
      else if a + 10 ≤ tMax d then smGetD s.power.thermalGate 0 d - 1 else smGetD s.power.thermalGate 0 d) ∧
      SameMem s (doThermalGateStep d a s) := by
  have hgate : gateDie s d = some (d, smGetD s.power.thermalMv 900 d == 600) := by rw [gateDie, if_pos hd]
  unfold doThermalGateStep
  simp only [hgate, beq_iff_eq]
  set g := if tMax d ≤ a ∧ smGetD s.power.thermalMv 900 d = 600 then _ else _
  have htune := (setDiePairs_tunes { s with power := { s.power with thermalGate := smPut s.power.thermalGate d g } } hd).trans
    (showPower_tunes _)
  refine ⟨?_, htune.sameMem⟩
  rw [htune.power (·.thermalGate) fun _ => rfl]
  exact smGet_smPut_same _ _ _

/-- Settles O32: a sample sets limits that leave the temperature and the alert alone; a gate moves by one eighth. -/
theorem thermalControl : Obligations.ThermalControl := by
  unfold Obligations.ThermalControl
  refine ⟨?sample, ?near, ?raises, ?lowers⟩
  case sample =>
    intro d a s hd ht hs
    obtain ⟨t, e, rs, p, n, hrun, halert, htemp, hcode, rfl⟩ := doThermalSample_of_hot hd ht hs
    have htune := showPower_tunes { s with
      regs := rs, power := p, fresh := n, pins := { s.pins with thermAlertDriven := true }
      evt := { s.evt with arriving := s.evt.arriving ++ [e] } }
    refine ⟨_, congrArg Host.Outcome.next hrun, ?_, htune.pins ▸ rfl, (htune.fget_system (by decide) (by decide)).trans halert, ?_,
      htune.sameMem⟩
    · rw [htune.evt, List.map_append, List.map_singleton, hcode]
    · rw [htune.power (·.lastTemp) fun _ => rfl, htemp]
      exact smGet_smPut_same _ _ _
  case near =>
    intro d a s h8 h16 ha hset
    exact doNsThermalSample_sets h8 h16 ha hset
  case raises =>
    intro d a s hd hv ht
    have hstep := doThermalGateStep_of_matrix s hd a
    rw [if_pos ⟨ht, hv⟩] at hstep
    exact ⟨_, rfl, hstep⟩
  case lowers =>
    intro d a s hd ht
    have hstep := doThermalGateStep_of_matrix s hd a
    rw [if_neg (by omega), if_pos ht] at hstep
    exact ⟨_, rfl, hstep⟩

/-! ### PWR_DOMAIN_OFF_REQ -/

/-- A state in which a port domain of PD0 is switched off, and listed twice. -/
def listedTwice : State := { State.reset with power := { State.reset.power with domOff := [unitId 22 7 0, unitId 22 7 0] } }

/-- Refutes O31, in its clause on the request to switch a port domain off. The clause gives the domains that are off after it as those
before it with the unit inserted, and does not ask that they are listed once each: of a state that lists the unit twice the request takes
both entries out before it inserts one. -/
theorem not_theBusDipsAndRecovers : ¬ Obligations.TheBusDipsAndRecovers := by
  unfold Obligations.TheBusDipsAndRecovers
  rintro ⟨-, -, -, -, -, -, -, -, -, -, -, hoff, -⟩
  obtain ⟨t, ht, hlist, -⟩ := hoff 22 0 listedTwice (by decide) (.inl rfl) (by decide) (by decide)
  have hrun : exec (.pwrDomainOffReq (unitId 22 7 0) true) listedTwice = .next (doPwrDomainOffReq (unitId 22 7 0) true listedTwice) :=
    congrArg Host.Outcome.next (onDie_of_alive (by decide) _)
  rw [hrun, Host.Outcome.next.injEq] at ht
  subst ht
  exact absurd hlist (by decide)

end Sys2Proof.Proofs
end

section
/-! Jobs across devices: reports of slack, grants, and a coordinator that is lost (R425 to R427, R449). -/

namespace Sys2Proof.Proofs

open Sys2Proof.Machine Sys2Proof.Safety Sys2Proof.Laws

/-! ### Sending a frame -/

/-- From one state to another nothing changed but ports, requests and free values. -/
def NetOnly (s t : State) : Prop := ∃ n m, t = { s with net := n, fresh := m }

theorem NetOnly.trans {s t u : State} (h : NetOnly s t) (h' : NetOnly t u) : NetOnly s u := by
  obtain ⟨_, _, rfl⟩ := h
  obtain ⟨n, m, rfl⟩ := h'
  exact ⟨n, m, rfl⟩

theorem hopLeave_netOnly (s : State) (p : Nat) : NetOnly s (hopLeave s p) := by
  unfold hopLeave
  dsimp only
  split
  · exact ⟨s.net, s.fresh, rfl⟩
  · exact ⟨_, s.fresh, rfl⟩

theorem hopSend_netOnly (s : State) (p kind : Nat) (f : Frame) : NetOnly s (hopSend s p kind f) := by
  unfold hopSend
  extract_lets x n t w
  have ht : NetOnly s t := ⟨_, s.fresh, rfl⟩
  have hw : NetOnly s w.2 := ht.trans ⟨t.net, _, rfl⟩
  split
  · exact ht
  · split
    · exact hw
    · exact hw.trans (hopLeave_netOnly _ p)

theorem fabricSend_netOnly {s t : State} {kind dev tag : Nat} {arg : BitVec 64} {payload : List Byte}
    (h : fabricSend s kind dev tag arg payload = some t) : NetOnly s t := by
  obtain ⟨w, -, hw⟩ := Option.bind_eq_some_iff.1 h
  dsimp only at hw
  split at hw
  · rw [← Option.some.inj hw]
    exact hopSend_netOnly _ _ _ _
  · cases hw

/-! ### Grants -/

/-- From one state to another nothing changed but registers, ports, requests and free values. -/
def GrantsOnly (s t : State) : Prop := ∃ rs n m, t = { s with regs := rs, net := n, fresh := m }

theorem sendGrant_only (s : State) (dev w : Nat) : GrantsOnly s (sendGrant s dev w) := by
  unfold sendGrant
  split
  · exact ⟨_, s.net, s.fresh, rfl⟩
  · cases h : fabricSend s kGrant dev 0 (BitVec.ofNat 64 (jobId s)) (leBytes 2 w) with
    | none => exact ⟨s.regs, s.net, s.fresh, rfl⟩
    | some t =>
      obtain ⟨n, m, rfl⟩ := fabricSend_netOnly h
      exact ⟨s.regs, n, m, rfl⟩

theorem sendGrants_only (s : State) (l : SMap Nat) : GrantsOnly s (l.foldl (fun s g => sendGrant s g.1 g.2) s) := by
  refine List.foldlRecOn (motive := GrantsOnly s) _ _ ⟨s.regs, s.net, s.fresh, rfl⟩ ?_
  rintro _ ⟨rs, n, m, rfl⟩ g -
  obtain ⟨rs', n', m', h⟩ := sendGrant_only { s with regs := rs, net := n, fresh := m } g.1 g.2
  exact ⟨rs', n', m', h⟩

/-- A watt taken from one member is given to the other. -/
theorem moved_grant (grants : SMap Nat) {h c : Nat} (hne : h ≠ c) {m : Nat} (hm : m ≤ smGetD grants 0 h) :
    smGetD (smPut (smPut grants h (smGetD grants 0 h - m)) c (smGetD grants 0 c + m)) 0 h +
        smGetD (smPut (smPut grants h (smGetD grants 0 h - m)) c (smGetD grants 0 c + m)) 0 c = smGetD grants 0 h + smGetD grants 0 c ∧
      smGetD grants 0 c ≤ smGetD (smPut (smPut grants h (smGetD grants 0 h - m)) c (smGetD grants 0 c + m)) 0 c := by
  simp only [smGetD_smPut, if_neg hne, if_true]
  omega

/-- What a distribution between two extremes comes to. -/
theorem doGrantDistribution_spec {s : State} {h c : Nat × Nat} (hc : coordinator s = true)
    (hw : s.power.budgets.any (fun b => (smGet s.power.reports b.1).isNone) = false)
    (he : extremes s.power.reports = some (h, c)) (hgap : c.2 + 50000 ≤ h.2) :
    ∃ m, m ≤ smGetD s.power.grants 0 h.1 ∧ ∃ rs n k, doGrantDistribution s =
      { s with
        regs := rs, net := n, fresh := k
        power := { s.power with
          reports := []
          grants := smPut (smPut s.power.grants h.1 (smGetD s.power.grants 0 h.1 - m)) c.1 (smGetD s.power.grants 0 c.1 + m) } } := by
  have hwait : ¬ (!coordinator s) = true ∧ ¬ (s.power.budgets.any fun b => (smGet s.power.reports b.1).isNone &&
      !decide (smGetD s.power.reportAt 0 b.1 + 10000000 ≤ s.time.toNat)) = true := by
    refine ⟨by rw [hc]; decide, fun ha => ?_⟩
    obtain ⟨b, hb, hn⟩ := List.any_eq_true.1 ha
    rw [List.any_eq_false] at hw
    exact hw b hb (Bool.and_eq_true_iff.1 hn).1
  refine ⟨min (fget s 24 0 Fl.PWR_JOB_CTL_STEP_W) (smGetD s.power.grants 0 h.1 - (smGetD s.power.budgets 0 h.1 + 9) / 10), by omega, ?_⟩
  unfold doGrantDistribution
  dsimp only
  rw [if_neg (not_or.2 hwait), he]
  dsimp only
  rw [if_pos hgap]
  obtain ⟨rs, n, k, hsend⟩ := sendGrants_only _ _
  exact ⟨rs, n, k, hsend⟩

/-! ### Registers of the job -/

theorem fget_fput_job {f g : Fld} (hf : f.reg = .pwrJobStatus) (hg : regKey 24 g.reg 0 ≠ regKey 24 .pwrJobStatus 0) (s : State) (v : Nat) :
    fget (fput s 24 0 f v) 24 0 g = fget s 24 0 g :=
  fget_fput_ne _ _ _ _ _ _ _ _ (by rw [hf]; exact hg)

/-- Showing a slack leaves the job's control, the grant and the device's ID as they were. -/
theorem job_showSlack (s : State) (v : Nat) : coordinator (fput s 24 0 Fl.PWR_JOB_STATUS_SLACK_US v) = coordinator s ∧
    grantW (fput s 24 0 Fl.PWR_JOB_STATUS_SLACK_US v) = grantW s ∧ deviceId (fput s 24 0 Fl.PWR_JOB_STATUS_SLACK_US v) = deviceId s := by
  refine ⟨?_, fget_fput_other (by decide) _ _ _ _, fget_fput_ne _ _ _ _ _ _ _ _ (by decide)⟩
  simp only [coordinator, jobOn, fget_fput_job (f := Fl.PWR_JOB_STATUS_SLACK_US) (g := Fl.PWR_JOB_CTL_ENABLE) rfl (by decide),
    fget_fput_job (f := Fl.PWR_JOB_STATUS_SLACK_US) (g := Fl.PWR_JOB_CTL_COORDINATOR) rfl (by decide)]

/-- What the coordinator's table holds once it has taken a report. -/
theorem takeReport_spec (s : State) (dev slack watts grant : Nat) :
    smGet (takeReport s dev slack watts grant).power.reports dev = some (slack, watts, grant) ∧
      smGet (takeReport s dev slack watts grant).power.reportAt dev = some s.time.toNat ∧
      SameMem s (takeReport s dev slack watts grant) ∧ (takeReport s dev slack watts grant).net = s.net :=
  ⟨smGet_smPut_same _ _ _, smGet_smPut_same _ _ _, ⟨rfl, rfl, rfl⟩, rfl⟩

/-- SLACK_REPORT of the coordinator enters its own report. -/
theorem doSlackReport_of_coordinator {s : State} (h : coordinator s = true) (sl w : Nat) :
    doSlackReport sl w s = takeReport (fput s 24 0 Fl.PWR_JOB_STATUS_SLACK_US (sl / 1000)) (deviceId s) sl w (grantW s) := by
  obtain ⟨hcoord, hgrant, hid⟩ := job_showSlack s (sl / 1000)
  have hon : jobOn s = true := (Bool.and_eq_true_iff.1 h).1
  unfold doSlackReport
  simp only [hon, hcoord, hgrant, hid, h, Bool.not_true, Bool.false_eq_true, if_false, if_true]

/-- JOB_COORDINATOR_LOST of a member. -/
theorem doJobCoordinatorLost_of_member {s : State} (hon : jobOn s = true) (hc : coordinator s = false) :
    doJobCoordinatorLost s = raise (fsat (setGrant s (fget s 24 0 Fl.PWR_JOB_CTL_BUDGET_W)) 24 0 Fl.PWR_JOB_STATUS_MISSED 1) 0x0F62 1 pwrUnit := by
  unfold doJobCoordinatorLost
  rw [if_neg (by simp [hon, hc])]

/-- Settles O33: a report is entered as it is, a distribution moves watts between the extremes, and a lost coordinator leaves the budget. -/
theorem jobsShareGrants : Obligations.JobsShareGrants := by
  unfold Obligations.JobsShareGrants
  refine ⟨?report, ?alone, ?distribution, ?lost⟩
  case report =>
    intro sl w s h
    obtain ⟨hreport, hat, ⟨hmem, hnear, hos⟩, hnet⟩ := takeReport_spec (fput s 24 0 Fl.PWR_JOB_STATUS_SLACK_US (sl / 1000)) (deviceId s) sl w (grantW s)
    rw [fput_time] at hat
    exact ⟨_, congrArg Host.Outcome.next (doSlackReport_of_coordinator h sl w), hreport, hat,
      ⟨hmem.trans (fput_mem ..), hnear.trans (fput_near ..), hos.trans (fput_ostore ..)⟩, hnet.trans (fput_net ..)⟩
  case alone =>
    intro sl w s h
    refine congrArg Host.Outcome.next ?_
    unfold doSlackReport
    rw [if_pos (by rw [h]; rfl)]
  case distribution =>
    intro h c s hc hw he hgap hne
    obtain ⟨m, hm, rs, n, k, ht⟩ := doGrantDistribution_spec hc hw he hgap
    obtain ⟨hsum, hle⟩ := moved_grant s.power.grants hne hm
    exact ⟨_, congrArg Host.Outcome.next ht, hsum, hle, rfl, rfl, rfl, rfl⟩
  case lost =>
    intro s hon hc
    have hin : regKey 24 .pwrJobStatus 0 ∈ [regKey 24 .pwrJobStatus 0] := List.mem_singleton_self _
    refine ⟨_, congrArg Host.Outcome.next (doJobCoordinatorLost_of_member hon hc), ?_, ?_,
      SameMem.raise (SameMem.fput (SameMem.fput ⟨rfl, rfl, rfl⟩ ..) ..) .., RegsBut.raise (RegsBut.fput (RegsBut.fput (RegsBut.refl s) _ hin) _ hin) ..⟩
    · rw [grantW, fget_raise, fget_fsat_other (by decide)]
      exact fget_fput_of_lt _ _ _ _ (by decide) (by decide) (fldOf_lt _ _)
    · simp [raise, setGrant, fsat]

end Sys2Proof.Proofs
end

section
/-! The Agaelen fabric: frames that this device takes, remote accesses, fabric counters, probes and job frames (R443 to R449). -/

namespace Sys2Proof.Proofs

open Sys2Proof.Machine Sys2Proof.Safety Sys2Proof.Laws

/-! ### Frames come and go -/

/-- From one state to another nothing changed but the hops of the ports and free values. -/
def PortsOnly (s t : State) : Prop := ∃ ps m, t = { s with net := { s.net with ports := ps }, fresh := m }

namespace PortsOnly

theorem refl (s : State) : PortsOnly s s := ⟨s.net.ports, s.fresh, rfl⟩

theorem trans {s t u : State} (h : PortsOnly s t) (h' : PortsOnly t u) : PortsOnly s u := by
  obtain ⟨_, _, rfl⟩ := h
  obtain ⟨ps, m, rfl⟩ := h'
  exact ⟨ps, m, rfl⟩

/-- What reads neither the hops nor the free values reads the same in both states. -/
theorem get {α : Type} {s t : State} (h : PortsOnly s t) {f : State → α}
    (hf : ∀ ps m, f { s with net := { s.net with ports := ps }, fresh := m } = f s) : f t = f s := by
  obtain ⟨ps, m, rfl⟩ := h
  exact hf ps m

theorem sameMem {s t : State} (h : PortsOnly s t) : SameMem s t := ⟨h.get fun _ _ => rfl, h.get fun _ _ => rfl, h.get fun _ _ => rfl⟩

theorem regs {s t : State} (h : PortsOnly s t) : t.regs = s.regs := h.get fun _ _ => rfl

theorem fget {s t : State} (h : PortsOnly s t) (d i : Nat) (f : Fld) : fget t d i f = fget s d i f := by
  obtain ⟨_, _, rfl⟩ := h
  rfl

theorem launches {s t : State} (h : PortsOnly s t) : t.launches = s.launches := h.get fun _ _ => rfl

theorem remotes {s t : State} (h : PortsOnly s t) : t.net.remotes = s.net.remotes := h.get (f := (·.net.remotes)) fun _ _ => rfl

theorem routes {s t : State} (h : PortsOnly s t) : t.net.routes = s.net.routes := h.get (f := (·.net.routes)) fun _ _ => rfl

end PortsOnly

theorem putFab_portsOnly (s : State) (p : Nat) (x : FabricPort) : PortsOnly s (putFab s p x) := ⟨_, s.fresh, rfl⟩

theorem ackTo_portsOnly (s : State) (p n : Nat) : PortsOnly s (ackTo s p n) := by
  unfold ackTo
  dsimp only
  split
  · exact .refl s
  · split
    · exact putFab_portsOnly ..
    · exact .refl s

theorem hopAck_portsOnly (s : State) (p : Nat) : PortsOnly s (hopAck s p) := putFab_portsOnly ..

theorem hopLeave_portsOnly (s : State) (p : Nat) : PortsOnly s (hopLeave s p) := by
  unfold hopLeave
  dsimp only
  split
  · exact .refl s
  · exact putFab_portsOnly ..

theorem hopSend_portsOnly (s : State) (p kind : Nat) (f : Frame) : PortsOnly s (hopSend s p kind f) := by
  unfold hopSend
  extract_lets x n t w
  have ht : PortsOnly s t := putFab_portsOnly ..
  have hw : PortsOnly s w.2 := ht.trans ⟨_, _, rfl⟩
  split
  · exact ht
  · split
    · exact hw
    · exact hw.trans (hopLeave_portsOnly _ p)

theorem fabricSend_portsOnly {s t : State} {kind dev tag : Nat} {arg : BitVec 64} {payload : List Byte}
    (h : fabricSend s kind dev tag arg payload = some t) : PortsOnly s t := by
  obtain ⟨w, -, hw⟩ := Option.bind_eq_some_iff.1 h
  dsimp only at hw
  split at hw
  · rw [← Option.some.inj hw]
    exact hopSend_portsOnly _ _ _ _
  · cases hw

/-- The state once a port has accepted and acknowledged a frame. -/
def taken (s : State) (p : Nat) (f : Frame) : State :=
  hopAck (ackTo (putFab s p { getFab s p with rxSeq := ((getFab s p).rxSeq + 1) % 2 ^ 32 }) p f.ack) p

theorem taken_portsOnly (s : State) (p : Nat) (f : Frame) : PortsOnly s (taken s p f) :=
  ((putFab_portsOnly ..).trans (ackTo_portsOnly ..)).trans (hopAck_portsOnly ..)

theorem takeFrame_of_next {s : State} {p : Nat} {f : Frame} (hup : fabricUp s p = true) (hlen : f.payload.length ≤ 8192)
    (hseq : f.seq = (getFab s p).rxSeq) : takeFrame s p f = some (taken s p f) := by
  unfold takeFrame
  exact if_pos ⟨hup, hseq, hlen⟩

/-- A frame for this device that is next in order is taken, and what its kind asks for is done. -/
theorem receiveFrame_of_next {s : State} {p : Nat} {f : Frame} (hup : fabricUp s p = true) (hlen : f.payload.length ≤ 8192)
    (hseq : f.seq = (getFab s p).rxSeq) (hdst : f.dst = deviceId s) (hid : deviceId s ≠ 0) (k : State → State) :
    receiveFrame s p f k = k (taken s p f) := by
  unfold receiveFrame
  rw [if_neg (by simp [hdst, hid]), takeFrame_of_next hup hlen hseq]

/-! ### Probes and job frames (R448, R449) -/

/-- From one state to another nothing changed but hops, tags, probes and free values. -/
def ProbesOnly (s t : State) : Prop := NetOnly s t ∧ t.net.routes = s.net.routes

theorem ProbesOnly.trans {s t u : State} (h : ProbesOnly s t) (h' : ProbesOnly t u) : ProbesOnly s u :=
  ⟨h.1.trans h'.1, h'.2.trans h.2⟩

theorem probeRoute_only (s : State) (k : Nat) (w : BitVec 64) : ProbesOnly s (probeRoute s k w) := by
  unfold probeRoute
  extract_lets p tag t
  split
  · exact ⟨⟨s.net, s.fresh, rfl⟩, rfl⟩
  · have ht : PortsOnly s t := hopSend_portsOnly ..
    have hn : NetOnly s t := hopSend_netOnly ..
    exact ⟨hn.trans ⟨_, t.fresh, rfl⟩, ht.routes⟩

theorem NetOnly.time {s t : State} (h : NetOnly s t) : t.time = s.time := by
  obtain ⟨_, _, rfl⟩ := h
  rfl

theorem NetOnly.regs {s t : State} (h : NetOnly s t) : t.regs = s.regs := by
  obtain ⟨_, _, rfl⟩ := h
  rfl

theorem NetOnly.sameMem {s t : State} (h : NetOnly s t) : SameMem s t := by
  obtain ⟨_, _, rfl⟩ := h
  exact ⟨rfl, rfl, rfl⟩

theorem NetOnly.fabricUp {s t : State} (h : NetOnly s t) (p : Nat) : fabricUp t p = fabricUp s p := by
  obtain ⟨_, _, rfl⟩ := h
  rfl

/-- A probe of a route whose port is up is on its way, stamped with the time. -/
theorem probeRoute_probes {s : State} {w : BitVec 64} (hup : fabricUp s (fldOf Fl.NET_ROUTE_PORT w) = true) (k : Nat) :
    (probeRoute s k w).net.probes = s.net.probes.filter (fun x => x.2.1 != k) ++ [(s.net.nextTag, k, s.time.toNat)] := by
  unfold probeRoute
  simp only [hup, Bool.not_true, Bool.false_eq_true, if_false]
  obtain ⟨ps, m, h⟩ := hopSend_portsOnly s (fldOf Fl.NET_ROUTE_PORT w) kProbe
    ⟨deviceId s, k % 4096, fldOf Fl.NET_ROUTE_HOPS w, 0, 0, s.net.nextTag, 0, []⟩
  rw [h]

/-- A probe that is on its way since now stays so while other routes are probed. -/
theorem probeRoute_keeps {s : State} {k : Nat} (h : ∃ tag, (tag, k, s.time.toNat) ∈ s.net.probes) (k' : Nat) (w : BitVec 64) :
    ∃ tag, (tag, k, s.time.toNat) ∈ (probeRoute s k' w).net.probes := by
  cases hup : fabricUp s (fldOf Fl.NET_ROUTE_PORT w) with
  | false =>
    unfold probeRoute
    simpa [hup] using h
  | true =>
    rw [probeRoute_probes hup]
    by_cases hk : k' = k
    · exact ⟨_, List.mem_append_right _ (by rw [hk]; exact List.mem_singleton_self _)⟩
    · obtain ⟨tag, htag⟩ := h
      exact ⟨tag, List.mem_append_left _ (List.mem_filter.2 ⟨htag, by simpa using Ne.symm hk⟩)⟩

/-- Probing a list of routes. -/
def probeAll (s : State) (l : List (Nat × BitVec 64)) : State := l.foldl (fun s r => probeRoute s r.1 r.2) s

theorem probeAll_only (s : State) (l : List (Nat × BitVec 64)) : ProbesOnly s (probeAll s l) :=
  List.foldlRecOn (motive := ProbesOnly s) _ _ ⟨⟨s.net, s.fresh, rfl⟩, rfl⟩ fun _ ht _ _ => ht.trans (probeRoute_only ..)

theorem probeAll_keeps (l : List (Nat × BitVec 64)) (s : State) {k : Nat} (h : ∃ tag, (tag, k, s.time.toNat) ∈ s.net.probes) :
    ∃ tag, (tag, k, s.time.toNat) ∈ (probeAll s l).net.probes := by
  induction l generalizing s with
  | nil => exact h
  | cons r l ih =>
    have ht := (probeRoute_only s r.1 r.2).1.time
    have := ih (probeRoute s r.1 r.2) (by rw [ht]; exact probeRoute_keeps h _ _)
    rwa [ht] at this

theorem probeAll_probes (l : List (Nat × BitVec 64)) (s : State) {k : Nat} {w : BitVec 64} (h : (k, w) ∈ l)
    (hup : fabricUp s (fldOf Fl.NET_ROUTE_PORT w) = true) : ∃ tag, (tag, k, s.time.toNat) ∈ (probeAll s l).net.probes := by
  induction l generalizing s with
  | nil => cases h
  | cons r l ih =>
    have hr := (probeRoute_only s r.1 r.2).1
    rcases List.mem_cons.1 h with rfl | hl
    · have := probeAll_keeps l (probeRoute s k w) (k := k) ⟨_, by rw [probeRoute_probes hup, hr.time]; exact List.mem_append_right _ (List.mem_singleton_self _)⟩
      rwa [hr.time] at this
    · have := ih (probeRoute s r.1 r.2) hl (by rw [hr.fabricUp]; exact hup)
      rwa [hr.time] at this

/-- Settles O40: a frame that is taken changes nothing but its port's hop, and then does what its kind says. -/
theorem probesAndJobFramesAreTaken : Obligations.ProbesAndJobFramesAreTaken := by
  unfold Obligations.ProbesAndJobFramesAreTaken
  refine ⟨?probe, ?route, ?response, ?slack, ?otherSlack, ?grant, ?otherGrant⟩
  case probe =>
    intro p f s hup hlen hseq hdst hid
    exact congrArg Host.Outcome.next (receiveFrame_of_next hup hlen hseq hdst hid _)
  case route =>
    intro k w s hkw hv hup
    have honly := probeAll_only s (s.net.routes.filter fun r => fldOf Fl.NET_ROUTE_VALID r.2 == 1)
    exact ⟨_, rfl, probeAll_probes _ s (List.mem_filter.2 ⟨hkw, by simpa using hv⟩) hup, honly.2, honly.1.sameMem, honly.1.regs⟩
  case response =>
    intro p tag k a f s hup hlen hseq hdst hid hx
    obtain ⟨ps, m, ht⟩ := taken_portsOnly s p f
    refine ⟨_, congrArg Host.Outcome.next (receiveFrame_of_next hup hlen hseq hdst hid _), ?_⟩
    rw [ht]
    simp only [hx]
    exact ⟨smGet_smPut_same _ _ _, ⟨rfl, rfl, rfl⟩, trivial, trivial⟩
  case slack =>
    intro p f s hup hlen hseq hdst hid hon hjob hco
    have honly := taken_portsOnly s p f
    have hof : coordinator (taken s p f) ∧ ofJob (taken s p f) f := by
      simp [coordinator, ofJob, jobOn, jobId, honly.fget, hon, hco, hjob]
    obtain ⟨hreport, hat, ⟨hmem, hnear, hos⟩, -⟩ := takeReport_spec (taken s p f) (payloadField f 0 2) (payloadField f 4 4) (payloadField f 8 2) (payloadField f 10 2)
    obtain ⟨hm, hn, ho⟩ := honly.sameMem
    have htime : (taken s p f).time = s.time := honly.get fun _ _ => rfl
    rw [htime] at hat
    exact ⟨_, congrArg Host.Outcome.next ((receiveFrame_of_next hup hlen hseq hdst hid _).trans (if_pos hof)), hreport, hat,
      ⟨hmem.trans hm, hnear.trans hn, hos.trans ho⟩, honly.regs⟩
  case otherSlack =>
    intro p f s hup hlen hseq hdst hid hjob
    have hof : ¬(coordinator (taken s p f) ∧ ofJob (taken s p f) f) := by
      simp [ofJob, jobId, (taken_portsOnly s p f).fget, hjob]
    exact congrArg Host.Outcome.next ((receiveFrame_of_next hup hlen hseq hdst hid _).trans (if_neg hof))
  case grant =>
    intro p f s hup hlen hseq hdst hid hon hjob
    have honly := taken_portsOnly s p f
    have hof : ofJob (taken s p f) f := by
      simp [ofJob, jobOn, jobId, honly.fget, hon, hjob]
    refine ⟨_, congrArg Host.Outcome.next ((receiveFrame_of_next hup hlen hseq hdst hid _).trans (if_pos hof)), ?_, SameMem.fput honly.sameMem .., ?_⟩
    · exact fget_fput _ _ _ _ _ (by decide) (by decide)
    · exact RegsBut.fput (RegsBut.of_regs (RegsBut.refl s) (honly.get fun _ _ => rfl) honly.regs) _ (List.mem_singleton_self _)
  case otherGrant =>
    intro p f s hup hlen hseq hdst hid hjob
    have hof : ¬ofJob (taken s p f) f := by
      simp [ofJob, jobId, (taken_portsOnly s p f).fget, hjob]
    exact congrArg Host.Outcome.next ((receiveFrame_of_next hup hlen hseq hdst hid _).trans (if_neg hof))

/-! ### Fabric counters (R446, R447) -/

/-- From one state to another nothing changed but the network's state, launches and free values. -/
def WakesOnly (s t : State) : Prop := ∃ n m ls, t = { s with net := n, fresh := m, launches := ls } ∧ n.ctrs = s.net.ctrs

namespace WakesOnly

theorem refl (s : State) : WakesOnly s s := ⟨s.net, s.fresh, s.launches, rfl, rfl⟩

theorem trans {s t u : State} (h : WakesOnly s t) (h' : WakesOnly t u) : WakesOnly s u := by
  obtain ⟨_, _, _, rfl, hc⟩ := h
  obtain ⟨n, m, ls, rfl, hc'⟩ := h'
  exact ⟨n, m, ls, rfl, hc'.trans hc⟩

theorem of_portsOnly {s t : State} (h : PortsOnly s t) : WakesOnly s t := by
  obtain ⟨ps, m, rfl⟩ := h
  exact ⟨_, m, s.launches, rfl, rfl⟩

theorem of_launchesOnly {s t : State} (h : LaunchesOnly s t) : WakesOnly s t := by
  obtain ⟨ls, rfl⟩ := h
  exact ⟨s.net, s.fresh, ls, rfl, rfl⟩

theorem regs {s t : State} (h : WakesOnly s t) : t.regs = s.regs := by
  obtain ⟨_, _, _, rfl, -⟩ := h
  rfl

theorem sameMem {s t : State} (h : WakesOnly s t) : SameMem s t := by
  obtain ⟨_, _, _, rfl, -⟩ := h
  exact ⟨rfl, rfl, rfl⟩

theorem getFctr {s t : State} (h : WakesOnly s t) (i : Nat) : getFctr t i = getFctr s i := by
  obtain ⟨_, _, _, rfl, hc⟩ := h
  simp only [Machine.getFctr, hc]

end WakesOnly

theorem getFctr_putFctr (s : State) (i : Nat) (x : FabCtr) : getFctr (putFctr s i x) i = x :=
  (smGetD_smPut ..).trans (if_pos rfl)

/-- A WAIT is registered at a counter. -/
def waitingAt (s : State) (i : Nat) (w : Nat × Nat × Nat) : State :=
  putFctr s i { getFctr s i with waits := (getFctr s i).waits ++ [w] }

theorem getFctr_waitingAt (s : State) (i : Nat) (w : Nat × Nat × Nat) :
    getFctr (waitingAt s i w) i = ⟨(getFctr s i).value, (getFctr s i).waits ++ [w]⟩ := getFctr_putFctr ..

/-- Releasing the WAITs that a counter satisfies leaves its value and the WAITs that it does not satisfy. -/
theorem wakeFabric_only (s : State) (i : Nat) :
    WakesOnly (putFctr s i { getFctr s i with waits := (getFctr s i).waits.filter fun w => !decide (w.2.2 ≤ (getFctr s i).value) })
      (wakeFabric s i) := by
  refine List.foldlRecOn (motive := WakesOnly _) _ _ (.refl _) fun t ht w _ => ht.trans ?_
  split
  · split
    · refine WakesOnly.trans ?_ (.of_launchesOnly (passWait_launchesOnly ..))
      exact ⟨_, t.fresh, t.launches, rfl, rfl⟩
    · exact .refl t
  · cases h : fabricSend t kRelease w.1 w.2.1 (tokenArg i 0) [] with
    | none => exact .refl t
    | some u => exact .of_portsOnly (fabricSend_portsOnly h)

/-- A counter that satisfies no WAIT releases none. -/
theorem wakeFabric_of_none {s : State} {i : Nat} (h : ∀ w ∈ (getFctr s i).waits, (getFctr s i).value < w.2.2) :
    wakeFabric s i = putFctr s i (getFctr s i) := by
  have hnone : (getFctr s i).waits.filter (fun w => decide (w.2.2 ≤ (getFctr s i).value)) = [] :=
    List.filter_eq_nil_iff.2 fun w hw => by simpa using h w hw
  have hall : (getFctr s i).waits.filter (fun w => !decide (w.2.2 ≤ (getFctr s i).value)) = (getFctr s i).waits :=
    List.filter_eq_self.2 fun w hw => by simpa using h w hw
  unfold wakeFabric
  simp only [hnone, hall, List.foldl_nil]

/-- The state once a remote request is taken off. -/
def taskOff (s : State) (r : RemoteReq) : State := { s with net := { s.net with remotes := s.net.remotes.erase r } }

/-- A RELEASE of the WAIT that an agent is held on lets the agent go on. -/
theorem doRelease_of_waiting {s : State} {p : Nat} {f : Frame} (hup : fabricUp s p = true) (hlen : f.payload.length ≤ 8192)
    (hseq : f.seq = (getFab s p).rxSeq) (hdst : f.dst = deviceId s) (hid : deviceId s ≠ 0) {r : RemoteReq}
    (hr : awaited (taken s p f) f (fun r => r.kind == kWait) = some r) {a : Agent} {c q : Nat} (hreq : r.req = .agent a c q)
    {l : Launch} {i : Nat} {b : Bool} {n tag : Nat} (ha : agentAt (taskOff (taken s p f) r) a = some (l, i, b, .remote n tag)) :
    doRelease p f s = advanceAgent (acquireRemote (taskOff (taken s p f) r) a) a := by
  refine (receiveFrame_of_next hup hlen hseq hdst hid _).trans ?_
  unfold taskOff at ha ⊢
  simp only [hr, hreq, ha]

/-- A SIGNAL that arrives in order adds to its counter, or is answered with what refuses it. -/
theorem doFabricSignal_of_next {s : State} {p : Nat} {f : Frame} (hup : fabricUp s p = true) (hlen : f.payload.length ≤ 8192)
    (hseq : f.seq = (getFab s p).rxSeq) (hdst : f.dst = deviceId s) (hid : deviceId s ≠ 0) (hi : argCounter f < 4096) :
    doFabricSignal p f s = (fabricAdd (taken s p f) (argCounter f) (argAmount f)).elim (reply (taken s p f) f kErrorResp 0x0121 []) id := by
  rw [doFabricSignal, receiveFrame_of_next hup hlen hseq hdst hid, if_neg (by omega)]
  cases fabricAdd (taken s p f) (argCounter f) (argAmount f) <;> rfl

/-- A WAIT that arrives in order is registered, and what its counter satisfies is released. -/
theorem doFabricWait_of_next {s : State} {p : Nat} {f : Frame} (hup : fabricUp s p = true) (hlen : f.payload.length ≤ 8192)
    (hseq : f.seq = (getFab s p).rxSeq) (hdst : f.dst = deviceId s) (hid : deviceId s ≠ 0) (hi : argCounter f < 4096) :
    doFabricWait p f s = wakeFabric (waitingAt (taken s p f) (argCounter f) (f.src, f.tag, argAmount f)) (argCounter f) := by
  rw [doFabricWait, receiveFrame_of_next hup hlen hseq hdst hid]
  exact if_neg (by omega)

/-- An amount that fits a counter on which nothing waits is added. -/
theorem fabricAdd_of_noWaits {s : State} {i amount : Nat} (hv : (getFctr s i).value + amount < 2 ^ 32) (hw : (getFctr s i).waits = []) :
    ∃ t, fabricAdd s i amount = some t ∧ getFctr t i = ⟨(getFctr s i).value + amount, []⟩ ∧ SameMem s t ∧ t.regs = s.regs ∧
      t.launches = s.launches := by
  refine ⟨putFctr (putFctr s i ⟨(getFctr s i).value + amount, []⟩) i ⟨(getFctr s i).value + amount, []⟩, ?_, getFctr_putFctr .., ⟨rfl, rfl, rfl⟩, rfl, rfl⟩
  unfold fabricAdd
  simp only [hw]
  rw [if_neg (by omega), wakeFabric_of_none (by simp [getFctr_putFctr]), getFctr_putFctr]

/-- A WAIT for more than a counter has, where nothing that waits is satisfied, stays there. -/
theorem wakeFabric_waitingAt {s : State} {i : Nat} {w : Nat × Nat × Nat} (hv : (getFctr s i).value < w.2.2)
    (hw : (getFctr s i).waits.all (fun x => decide ((getFctr s i).value < x.2.2)) = true) :
    ∃ t, wakeFabric (waitingAt s i w) i = t ∧ getFctr t i = ⟨(getFctr s i).value, (getFctr s i).waits ++ [w]⟩ ∧ SameMem s t ∧
      t.regs = s.regs ∧ t.launches = s.launches := by
  refine ⟨putFctr (waitingAt s i w) i ⟨(getFctr s i).value, (getFctr s i).waits ++ [w]⟩, ?_, getFctr_putFctr .., ⟨rfl, rfl, rfl⟩, rfl, rfl⟩
  rw [wakeFabric_of_none, getFctr_waitingAt]
  rw [getFctr_waitingAt]
  intro x hmem
  rcases List.mem_append.1 hmem with hold | hnew
  · simpa using List.all_eq_true.1 hw x hold
  · rw [List.mem_singleton.1 hnew]
    exact hv

/-- The agents' view of a state in which a frame was taken and a request taken off. -/
theorem slotOf_taskOff_taken (s : State) (p : Nat) (f : Frame) (r : RemoteReq) (d e : Nat) :
    slotOf (taskOff (taken s p f) r) d e = slotOf s d e := by
  obtain ⟨ps, m, h⟩ := taken_portsOnly s p f
  rw [h]
  rfl

theorem getFctr_taken (s : State) (p : Nat) (f : Frame) (i : Nat) : getFctr (taken s p f) i = getFctr s i :=
  (WakesOnly.of_portsOnly (taken_portsOnly s p f)).getFctr i

/-- A write of a counter's value. -/
theorem doNetFctrVal_spec (s : State) (d i : Nat) (v : BitVec 32) :
    (getFctr (doNetFctrVal d i v s) ((d - 22) * 2048 + i)).value = v.toNat ∧ SameMem s (doNetFctrVal d i v s) ∧
      (doNetFctrVal d i v s).regs = s.regs := by
  have h := wakeFabric_only (putFctr s ((d - 22) * 2048 + i) { getFctr s ((d - 22) * 2048 + i) with value := v.toNat }) ((d - 22) * 2048 + i)
  refine ⟨(congrArg FabCtr.value (h.getFctr _)).trans ?_, h.sameMem, h.regs⟩
  rw [getFctr_putFctr, getFctr_putFctr]

/-- Settles O39: what a frame does at a counter is what the counter's own operations do. -/
theorem fabricCountersSignalAndRelease : Obligations.FabricCountersSignalAndRelease := by
  unfold Obligations.FabricCountersSignalAndRelease
  refine ⟨?signal, ?refused, ?added, ?waits, ?wait, ?release, ?value, ?releaseAgent⟩
  case signal =>
    intro p f s hup hlen hseq hdst hid hi hv hw
    have honly := taken_portsOnly s p f
    rw [← getFctr_taken s p f] at hv hw
    obtain ⟨t, hadd, hctr, ⟨hmem, hnear, hos⟩, hregs, hlaunches⟩ := fabricAdd_of_noWaits hv hw
    rw [getFctr_taken] at hctr
    obtain ⟨hm, hn, ho⟩ := honly.sameMem
    have hstep := doFabricSignal_of_next hup hlen hseq hdst hid hi
    rw [hadd] at hstep
    exact ⟨t, congrArg Host.Outcome.next hstep, hctr, ⟨hmem.trans hm, hnear.trans hn, hos.trans ho⟩, hregs.trans honly.regs,
      hlaunches.trans honly.launches⟩
  case refused =>
    intro p f s hup hlen hseq hdst hid hi hadd
    have hstep := doFabricSignal_of_next hup hlen hseq hdst hid hi
    rw [show fabricAdd (taken s p f) (argCounter f) (argAmount f) = none from hadd] at hstep
    exact congrArg Host.Outcome.next hstep
  case added =>
    intro p f u s hup hlen hseq hdst hid hi hadd
    have hstep := doFabricSignal_of_next hup hlen hseq hdst hid hi
    rw [show fabricAdd (taken s p f) (argCounter f) (argAmount f) = some u from hadd] at hstep
    exact congrArg Host.Outcome.next hstep
  case waits =>
    intro p f s hup hlen hseq hdst hid hi hv hw
    have honly := taken_portsOnly s p f
    rw [← getFctr_taken s p f] at hv hw
    obtain ⟨t, hwake, hctr, ⟨hmem, hnear, hos⟩, hregs, hlaunches⟩ := wakeFabric_waitingAt (w := (f.src, f.tag, argAmount f)) hv hw
    rw [getFctr_taken] at hctr
    obtain ⟨hm, hn, ho⟩ := honly.sameMem
    exact ⟨t, congrArg Host.Outcome.next ((doFabricWait_of_next hup hlen hseq hdst hid hi).trans hwake), hctr,
      ⟨hmem.trans hm, hnear.trans hn, hos.trans ho⟩, hregs.trans honly.regs, hlaunches.trans honly.launches⟩
  case wait =>
    intro p f s hup hlen hseq hdst hid hi
    exact congrArg Host.Outcome.next (doFabricWait_of_next hup hlen hseq hdst hid hi)
  case release =>
    intro p d e c q i n tag x l f r s hup hlen hseq hdst hid hr hreq hslot hhold
    refine congrArg Host.Outcome.next (doRelease_of_waiting hup hlen hseq hdst hid hr hreq (l := l) (i := i) (b := false) (n := n) (tag := tag) ?_)
    simp only [agentAt, slotOf_taskOff_taken, hslot, Option.map_some, hhold]
  case value =>
    intro d i v s hdead hd hi
    exact ⟨_, congrArg Host.Outcome.next (onDie_of_alive hdead _), doNetFctrVal_spec s d i v⟩
  case releaseAgent =>
    intro p c q i n tag a f l b r s hup hlen hseq hdst hid hr hreq ha
    exact congrArg Host.Outcome.next (doRelease_of_waiting hup hlen hseq hdst hid hr hreq ha)

/-! ### Remote reads and writes (R445) -/

/-- A request to device 2 with tag 0. -/
def toDevice2 (kind : Nat) : RemoteReq := ⟨0, kind, 2, .pin 0 0, 0, false, [], 0⟩

/-- Device 1, with port 0 up in Agaelen mode, where a cancelled move's write and a write await device 2 under one tag. -/
def orphanFirst : State :=
  let s := fput (fput (fput State.reset 22 0 Fl.NET_DEVICE_DEVICE_ID 1) 22 0 Fl.NET_PORT_STATE_STATE 2) 22 0 Fl.NET_PORT_CFG_MODE 1
  { s with net := { s.net with remotes := [toDevice2 kOrphan, toDevice2 kWrite] } }

/-- The acknowledgement of device 2's write. -/
def writeAckFrame : Frame := ⟨2, 1, 1, 0, 0, 0, 0, []⟩

/-- Refutes O38, in its clause on WRITE_ACK. The clause looks for the first write that awaits the acknowledgement; the model also looks at
the writes of cancelled moves, and where one of those, with the same tag and device, stands first, it is that one which ends. -/
theorem not_remoteReadsAndWritesAreServed : ¬ Obligations.RemoteReadsAndWritesAreServed := by
  unfold Obligations.RemoteReadsAndWritesAreServed
  rintro ⟨-, -, -, -, -, -, hack, -⟩
  have h := hack 0 writeAckFrame (toDevice2 kWrite) orphanFirst (by decide) (by decide) (by decide) (by decide) (by decide) (by decide)
  have hnet : (doWriteAck 0 writeAckFrame orphanFirst).net.remotes = _ := congrArg (·.net.remotes) (Host.Outcome.next.inj h)
  exact absurd hnet (by decide)

end Sys2Proof.Proofs
end

section
/-! Flits of a Sahic link (R389 to R391). -/

namespace Sys2Proof.Proofs

open Sys2Proof.Machine Sys2Proof.Safety Sys2Proof.Laws

/-! ### What a flit says -/

theorem imgNum_first {n v : Nat} (r : List Byte) : imgNum (leBytes n v ++ r) 0 n = v % 256 ^ n := by
  rw [imgNum, List.drop_zero, List.take_left' (length_leBytes n v), Laws.leNat_leBytes]

theorem imgNum_append {a r : List Byte} {n : Nat} (off : Nat) (ha : a.length = off) : imgNum (a ++ r) off n = imgNum r 0 n := by
  rw [imgNum, imgNum, List.drop_left' ha, List.drop_zero]

/-- The kind of an idle flit, its NAK and what it acknowledges. -/
theorem idle_header (x : LinkPort) (hx : x.lastSeq < 4096) {seq : Nat} (hs : seq < 4096) (chan : Nat) (c : BitVec 24) (pl : List Byte) :
    flitKind (buildFlit x seq 2 chan c pl) = 2 ∧ flitNak (buildFlit x seq 2 chan c pl) = x.nakPending ∧
      flitAck (buildFlit x seq 2 chan c pl) = x.lastSeq := by
  have hfirst : imgNum (buildFlit x seq 2 chan c pl) 0 2 = seq + 2 * 4096 := by
    rw [buildFlit]
    simp only [List.append_assoc]
    rw [imgNum_first, Nat.mod_eq_of_lt (by omega)]
  have hsecond : imgNum (buildFlit x seq 2 chan c pl) 2 2 = x.lastSeq + b2n x.nakPending * 2 ^ 15 := by
    rw [buildFlit]
    simp only [List.append_assoc]
    rw [imgNum_append 2 (length_leBytes ..), imgNum_first, Nat.mod_eq_of_lt]
    have := b2n_lt x.nakPending
    omega
  refine ⟨?_, ?_, ?_⟩
  · rw [flitKind, hfirst]
    omega
  · rw [flitNak, hsecond, Nat.testBit_eq_decide_div_mod_eq]
    cases x.nakPending <;> simp only [b2n] <;> simp <;> omega
  · rw [flitAck, hsecond]
    omega

/-! ### Sending and taking flits -/

theorem getLnk_putLnk (s : State) (d p : Nat) (x : LinkPort) : getLnk (putLnk s d p x) d p = x :=
  (smGetD_smPut ..).trans (if_pos rfl)

/-- From one state to another nothing changed but one link's flits and free values. -/
def LinkBecomes (s t : State) (d p : Nat) (x : LinkPort) : Prop := ∃ ls m, t = { s with links := ls, fresh := m } ∧ getLnk t d p = x

namespace LinkBecomes
variable {s t : State} {d p : Nat} {x : LinkPort}

theorem put (s : State) (d p : Nat) (x : LinkPort) : LinkBecomes s (putLnk s d p x) d p x := ⟨_, s.fresh, rfl, getLnk_putLnk ..⟩

theorem trans {u : State} {y : LinkPort} (h : LinkBecomes s t d p x) (h' : LinkBecomes t u d p y) : LinkBecomes s u d p y := by
  obtain ⟨_, _, rfl, -⟩ := h
  obtain ⟨ls, m, rfl, hy⟩ := h'
  exact ⟨ls, m, rfl, hy⟩

theorem lnk (h : LinkBecomes s t d p x) : getLnk t d p = x := h.choose_spec.choose_spec.2

theorem sameMem (h : LinkBecomes s t d p x) : SameMem s t := by
  obtain ⟨_, _, rfl, -⟩ := h
  exact ⟨rfl, rfl, rfl⟩

theorem regs (h : LinkBecomes s t d p x) : t.regs = s.regs := by
  obtain ⟨_, _, rfl, -⟩ := h
  rfl

theorem fuses (h : LinkBecomes s t d p x) : t.fuses = s.fuses := by
  obtain ⟨_, _, rfl, -⟩ := h
  rfl

theorem cores (h : LinkBecomes s t d p x) : t.cores = s.cores := by
  obtain ⟨_, _, rfl, -⟩ := h
  rfl

theorem fget (h : LinkBecomes s t d p x) (a i : Nat) (f : Fld) : fget t a i f = fget s a i f := by
  obtain ⟨_, _, rfl, -⟩ := h
  rfl

end LinkBecomes

/-- An idle flit goes out with the link's acknowledgement and NAK. -/
theorem sendIdle_spec (s : State) (d p : Nat) (h : (getLnk s d p).lastSeq < 4096) :
    ∃ g, LinkBecomes s (sendIdle s d p) d p { getLnk s d p with out := (getLnk s d p).out ++ [g], nakPending := false } ∧
      flitKind g = 2 ∧ flitNak g = (getLnk s d p).nakPending ∧ flitAck g = (getLnk s d p).lastSeq :=
  ⟨_, ⟨_, _, rfl, getLnk_putLnk ..⟩, idle_header _ h (bits_lt _ _ _) _ _ _⟩

/-- A NAK goes out in an idle flit. -/
theorem sendNak_spec (s : State) (d p : Nat) (h : (getLnk s d p).lastSeq < 4096) :
    ∃ g, LinkBecomes s (sendNak s d p) d p { getLnk s d p with out := (getLnk s d p).out ++ [g], nakPending := false } ∧
      flitKind g = 2 ∧ flitNak g = true ∧ flitAck g = (getLnk s d p).lastSeq := by
  have hl := getLnk_putLnk s d p { getLnk s d p with nakPending := true }
  obtain ⟨g, hb, hg⟩ := sendIdle_spec (putLnk s d p { getLnk s d p with nakPending := true }) d p (by rw [hl]; exact h)
  rw [hl] at hb hg
  exact ⟨g, (LinkBecomes.put ..).trans hb, hg⟩

theorem lnkAck_spec (s : State) (d p n : Nat) : ∃ l, LinkBecomes s (lnkAck s d p n) d p { getLnk s d p with sent := l } := by
  unfold lnkAck
  dsimp only
  split
  · exact ⟨_, s.links, s.fresh, rfl, rfl⟩
  · split
    · exact ⟨_, .put ..⟩
    · exact ⟨_, s.links, s.fresh, rfl, rfl⟩

theorem takeCredits_spec (s : State) (d p : Nat) (f : List Byte) :
    ∃ u, LinkBecomes s (takeCredits s d p f) d p { getLnk s d p with used := u } := ⟨_, .put ..⟩

/-- What a flit without NAK carries for the reverse direction touches the replay buffer and the credits. -/
theorem takeReverse_spec (s : State) (d p : Nat) {f : List Byte} (h : flitNak f = false) :
    ∃ l u, LinkBecomes s (takeReverse s d p f) d p { getLnk s d p with sent := l, used := u } := by
  obtain ⟨l, hl⟩ := lnkAck_spec s d p (flitAck f)
  obtain ⟨u, hu⟩ := takeCredits_spec (lnkAck s d p (flitAck f)) d p f
  rw [hl.lnk] at hu
  refine ⟨l, u, ?_⟩
  rw [takeReverse, h, if_neg Bool.false_ne_true]
  exact hl.trans hu

/-- The acknowledgement of an accepted flit touches what has gone out. -/
theorem acknowledge_spec (s : State) (d p : Nat) (h : (getLnk s d p).lastSeq < 4096) (hn : (getLnk s d p).nakPending = false) :
    ∃ o, LinkBecomes s (acknowledge s d p) d p { getLnk s d p with out := o, nakPending := false } := by
  have hidle (m : Nat) : ∃ o, LinkBecomes s (sendIdle { s with fresh := m } d p) d p { getLnk s d p with out := o, nakPending := false } := by
    obtain ⟨g, hg, -⟩ := sendIdle_spec { s with fresh := m } d p h
    have hb : LinkBecomes s { s with fresh := m } d p (getLnk s d p) := ⟨s.links, m, rfl, rfl⟩
    exact ⟨_, hb.trans hg⟩
  unfold acknowledge
  split
  · exact hidle s.fresh
  · extract_lets n
    split
    · exact ⟨(getLnk s d p).out, s.links, _, rfl, by rw [← hn]; rfl⟩
    · exact hidle _

theorem flitSeq_lt (f : List Byte) : flitSeq f < 4096 := Nat.mod_lt _ (by decide)

/-- A flit that is next in order is delivered and acknowledged. -/
theorem doFlitReceive_of_next {s : State} {d p : Nat} {f : List Byte} (hup : lnkState s d p = 2) (hbond : isBond d p = false)
    (hkind : flitKind f < 2) (hcrc : flitCrcOk f = true) (hseq : flitSeq f = ((getLnk s d p).lastSeq + 1) % 4096) :
    doFlitReceive d p f s = acknowledge (putLnk (takeReverse s d p f) d p
      { getLnk (takeReverse s d p f) d p with
        lastSeq := flitSeq f, nakPending := false
        delivered := (getLnk (takeReverse s d p f) d p).delivered ++ [(flitChan f, (f.drop 8).take 240)] }) d p := by
  rw [doFlitReceive, if_neg (by simp [lUp, hup, hbond]), hcrc, if_neg (by decide), if_neg (by omega), if_pos ⟨hkind, hseq⟩]

/-- Settles O28: a flit is accepted in order or answered with a NAK, and neither reaches beyond its link. -/
theorem flitsArriveInOrder : Obligations.FlitsArriveInOrder := by
  unfold Obligations.FlitsArriveInOrder
  refine ⟨?accepted, ?badCrc, ?outOfOrder, ?acknowledged, ?notUp⟩
  case accepted =>
    intro d p f s hup hbond hkind hcrc hnak hseq
    obtain ⟨l, u, hrev⟩ := takeReverse_spec s d p hnak
    have hput := LinkBecomes.put (takeReverse s d p f) d p
      { getLnk (takeReverse s d p f) d p with
        lastSeq := flitSeq f, nakPending := false
        delivered := (getLnk (takeReverse s d p f) d p).delivered ++ [(flitChan f, (f.drop 8).take 240)] }
    obtain ⟨o, hack⟩ := acknowledge_spec _ d p (by rw [hput.lnk]; exact flitSeq_lt f) (by rw [hput.lnk])
    have hall := (hrev.trans hput).trans hack
    refine ⟨_, congrArg Host.Outcome.next (doFlitReceive_of_next hup hbond hkind hcrc hseq), ?_⟩
    refine ⟨?_, ?_, ?_, hall.sameMem, hall.regs, hall.cores⟩ <;> rw [hall.lnk, hput.lnk, hrev.lnk]
  case badCrc =>
    intro d p f s hup hbond hcrc hp hlast
    obtain ⟨g, hg, hkind, hnak, hack⟩ := sendNak_spec s d p hlast
    have hstep : doFlitReceive d p f s = fsat (sendNak s d p) d p Fl.LNK_PORT_ERR_CRC 1 := by
      rw [doFlitReceive, if_neg (by simp [lUp, hup, hbond]), hcrc]
      exact if_pos rfl
    have hlnk : getLnk (fsat (sendNak s d p) d p Fl.LNK_PORT_ERR_CRC 1) d p = getLnk (sendNak s d p) d p := by
      simp only [getLnk, fsat, fput_links]
    refine ⟨_, congrArg Host.Outcome.next hstep, ?_⟩
    rw [hlnk, hg.lnk]
    refine ⟨List.dropLast_concat, by simp [hkind, hnak, hack], rfl, rfl, SameMem.fput hg.sameMem .., (fput_cores ..).trans hg.cores, ?_, ?_⟩
    · exact RegsBut.fput (RegsBut.of_regs (RegsBut.refl s) hg.fuses hg.regs) _ (List.mem_singleton_self _)
    · rw [fget_fsat _ _ _ _ _ (by decide) (by decide), hg.fget]
  case outOfOrder =>
    intro d p f s hup hbond hkind hcrc hnak hseq hlast
    obtain ⟨g, hg, hgkind, hgnak, hgack⟩ := sendNak_spec s d p hlast
    have hstep : doFlitReceive d p f s = sendNak s d p := by
      rw [doFlitReceive, if_neg (by simp [lUp, hup, hbond]), hcrc, if_neg (by decide), if_neg (by omega), if_neg (by simp [hseq])]
    refine ⟨_, congrArg Host.Outcome.next hstep, ?_⟩
    rw [hg.lnk]
    exact ⟨List.dropLast_concat, by simp [hgkind, hgnak, hgack], rfl, rfl, hg.sameMem, hg.cores, hg.regs⟩
  case acknowledged =>
    intro d p f g r s hup hbond hkind hcrc hnak hsent hlo hhi
    have hack : lnkAck s d p (flitAck f) =
        putLnk s d p { getLnk s d p with sent := (getLnk s d p).sent.drop ((flitAck f + 1 + 4096 - flitSeq g.flit) % 4096) } := by
      unfold lnkAck
      simp only [hsent]
      exact if_pos ⟨hlo, by simpa using hhi⟩
    refine congrArg Host.Outcome.next ?_
    rw [doFlitReceive, if_neg (by simp [lUp, hup, hbond]), hcrc, if_neg (by decide), if_pos hkind, takeReverse, hnak, if_neg Bool.false_ne_true, hack]
  case notUp =>
    intro d p f s h
    exact congrArg Host.Outcome.next (if_pos h)

end Sys2Proof.Proofs
end

section
/-! The persistent array (R486, R487, R489). -/

namespace Sys2Proof.Proofs

open Sys2Proof.Machine Sys2Proof.Safety Sys2Proof.Laws

theorem getPersist_putPersist (s : State) (n m : Nat) (x : Persist) :
    getPersist (putPersist s n x) m = if m = n then x else getPersist s m := smGetD_smPut ..

/-- From one state to another one persistent register changed, and besides at most an event was raised. -/
structure PersistBecomes (s t : State) (n : Nat) (x : Persist) : Prop where
  same : getPersist t n = x
  others : ∀ m, m ≠ n → getPersist t m = getPersist s m
  regs : t.regs = s.regs
  mem : SameMem s t

theorem putPersist_becomes (s : State) (n : Nat) (x : Persist) : PersistBecomes s (putPersist s n x) n x :=
  ⟨(getPersist_putPersist ..).trans (if_pos rfl), fun _ h => (getPersist_putPersist ..).trans (if_neg h), rfl, rfl, rfl, rfl⟩

theorem PersistBecomes.raise {s t : State} {n : Nat} {x : Persist} (h : PersistBecomes s t n x) (code sev src : Nat) :
    PersistBecomes s (raise t code sev src) n x := ⟨h.same, h.others, h.regs, h.mem⟩

/-- A commit leaves the value, counted, with its window closed. -/
theorem persistCommitNow_becomes (s : State) (n : Nat) (v : BitVec 64) :
    PersistBecomes s (persistCommitNow s n v) n ⟨v, none, (getPersist s n).commits + 1, false⟩ := by
  have h := putPersist_becomes s n ⟨v, none, (getPersist s n).commits + 1, false⟩
  unfold persistCommitNow
  extract_lets x t
  split
  · exact h.raise _ _ _
  · split
    · exact h.raise _ _ _
    · exact h

theorem execPersistWrite_of_alive {s : State} (hd : windowDead s 24 = false) {n : Nat} (h64 : 64 ≤ n) (h256 : n < 256) (v : BitVec 64) :
    exec (.persistWrite n v) s = .next (persistPut s n v) :=
  congrArg Host.Outcome.next ((onDie_of_alive hd _).trans (if_pos ⟨h64, h256⟩))

/-- What a read returns of a register that has just been committed, or that has a pending value. -/
theorem persistRead_of_committed {t : State} {n c : Nat} {v : BitVec 64} {w : Bool} (h : getPersist t n = ⟨v, none, c, w⟩) :
    persistRead t n = v := by
  rw [persistRead, h]
  rfl

/-- Settles O47: with its window open a value is committed, with it closed it becomes the pending one. -/
theorem persistentRegistersCoalesceWrites : Obligations.PersistentRegistersCoalesceWrites := by
  unfold Obligations.PersistentRegistersCoalesceWrites
  refine ⟨?opened, ?closed, ?exhausted, ?readOnly, ?commit, ?opens⟩
  case opened =>
    intro n v s hd h64 h256 hopen hwear
    have h := persistCommitNow_becomes s n v
    have hput : persistPut s n v = persistCommitNow s n v := by
      rw [persistPut, if_neg (by omega), if_pos hopen]
    exact ⟨_, (execPersistWrite_of_alive hd h64 h256 v).trans (congrArg _ hput), h.same, persistRead_of_committed h.same, h.others, h.regs, h.mem⟩
  case closed =>
    intro n v s hd h64 h256 hclosed hwear
    have h := putPersist_becomes s n { getPersist s n with pendingV := some v }
    have hput : persistPut s n v = putPersist s n { getPersist s n with pendingV := some v } := by
      rw [persistPut, if_neg (by omega), if_neg (by simp [hclosed])]
    refine ⟨_, (execPersistWrite_of_alive hd h64 h256 v).trans (congrArg _ hput), h.same, ?_, h.others, h.regs, rfl, h.mem⟩
    rw [persistRead, h.same]
    rfl
  case exhausted =>
    intro n v s hd h64 h256 hwear
    exact (execPersistWrite_of_alive hd h64 h256 v).trans (congrArg _ (if_pos hwear))
  case readOnly =>
    intro n v s hd h64
    exact congrArg Host.Outcome.next ((onDie_of_alive hd _).trans (if_neg (by omega)))
  case commit =>
    intro n v s hp hwear
    have h := persistCommitNow_becomes s n v
    have hstep : doPersistCommit n s = persistCommitNow s n v := by
      unfold doPersistCommit
      simp only [hp]
      exact if_neg (by omega)
    exact ⟨_, congrArg Host.Outcome.next hstep, h.same, persistRead_of_committed h.same, h.others, h.regs, h.mem⟩
  case opens =>
    intro n s h256 hp hclosed
    refine congrArg Host.Outcome.next ?_
    unfold doPersistCommit
    simp only [hp]
    exact if_pos ⟨h256, by simp [hclosed]⟩

end Sys2Proof.Proofs
end

section
/-! Instructions of the Eyepiece (R508, R522). -/

namespace Sys2Proof.Proofs

open Sys2Proof.Machine Sys2Proof.Safety Sys2Proof.Laws

/-! ### Registers of the system die by their place -/

/-- The slots of the system die's blocks; it has no engines. -/
theorem blkSlot_of_blkAt {slot : Nat} (h : slot < 64) {b : Blk} (hb : blkAt 5 slot = some b) : b ≠ .engB ∧ (blkSlot 5 b).getD 0 = slot := by
  have hall : (List.range 64).all (fun k => (blkAt 5 k).all fun b => b != .engB && (blkSlot 5 b).getD 0 == k) = true := by decide
  have hk := List.all_eq_true.1 hall slot (List.mem_range.2 h)
  rw [hb] at hk
  simpa using hk

theorem off_of_instanceAt {n : RegInfo} {off i : Nat} (h : instanceAt n off = some i) : off = n.off + n.stride * i := by
  unfold instanceAt at h
  split at h
  · cases h
  · split at h
    · split at h
      · cases h
        omega
      · cases h
    · split at h
      · rename_i hlo _ hmod
        have hdiv := Nat.div_add_mod (off - n.off) n.stride
        rw [← Option.some.inj h]
        omega
      · cases h

/-- Where the register at a slot and offset of the system die lies. -/
theorem regKey_of_regAt {slot off i : Nat} {r : Reg} (hs : slot < 64) (h : regAt 24 slot off = some (r, i)) :
    regKey 24 r i = (24 * 64 + slot) * 0x100000 + off := by
  obtain ⟨b, hb, hr⟩ := Option.bind_eq_some_iff.1 h
  obtain ⟨hne, hslot⟩ := blkSlot_of_blkAt hs (Option.eq_some_of_filter_eq_some hb)
  obtain ⟨q, -, hq⟩ := List.exists_of_findSome?_eq_some hr
  split at hq
  · rename_i hblk
    obtain ⟨j, hj, hqi⟩ := Option.map_eq_some_iff.1 hq
    rw [Prod.mk.injEq] at hqi
    obtain ⟨rfl, rfl⟩ := hqi
    have hoff := off_of_instanceAt hj
    have hd : dieSlot 24 q.info.blk = slot := by
      rw [hblk]
      exact hslot
    rw [regKey_eq_slot 24 j q (by rw [hblk]; exact hne), hd, slotOff, hoff]
  · cases hq

/-- The system die has no interrupt controller. -/
theorem ne_irqAck_of_regAt {slot off i : Nat} {r : Reg} (hs : slot < 64) (h : regAt 24 slot off = some (r, i)) : r ≠ .irqAck := by
  rintro rfl
  obtain ⟨b, hb, hr⟩ := Option.bind_eq_some_iff.1 h
  obtain ⟨q, -, hq⟩ := List.exists_of_findSome?_eq_some hr
  split at hq
  · rename_i hblk
    obtain ⟨j, hj, hqi⟩ := Option.map_eq_some_iff.1 hq
    have hall : (List.range 64).all (fun k => (blkAt 5 k).all fun b => b != .irqB) = true := by decide
    have hk := List.all_eq_true.1 hall slot (List.mem_range.2 hs)
    rw [show blkAt 5 slot = some b from Option.eq_some_of_filter_eq_some hb, ← hblk, (Prod.mk.inj hqi).1] at hk
    exact absurd hk (by decide)
  · cases hq

/-! ### What a read changes -/

section
variable {s t : State} {d i : Nat} {r : Reg}

theorem gauge_in (h : RegsIn (· = regKey d r i) s t) {f : Fld} (hf : f.reg = r) : RegsIn (· = regKey d r i) s (gauge t d i f) :=
  (h.trans (u := (draw t).2) (.of_regs rfl rfl)).fput (by rw [hf])

theorem advance_in (h : RegsIn (· = regKey d r i) s t) {f : Fld} (hf : f.reg = r) : RegsIn (· = regKey d r i) s (advance t d i f) :=
  (h.trans (u := (draw t).2) (.of_regs rfl rfl)).fput (by rw [hf])

theorem accrue_in (h : RegsIn (· = regKey d r i) s t) {f : Fld} (hf : f.reg = r) : RegsIn (· = regKey d r i) s (accrue t d i f) :=
  (h.trans (u := (draw t).2) (.of_regs rfl rfl)).fput (by rw [hf])

theorem busyFlag_in (h : RegsIn (· = regKey d r i) s t) {f : Fld} (hf : f.reg = r) (on : Bool) :
    RegsIn (· = regKey d r i) s (busyFlag t d i f on) := by
  unfold busyFlag
  split
  · exact gauge_in h hf
  · split
    · exact h
    · exact h.fput (by rw [hf])

end

theorem RegsIn.ite {K : Nat → Prop} {s t u : State} {c : Prop} {_ : Decidable c} (ht : RegsIn K s t) (hu : RegsIn K s u) :
    RegsIn K s (if c then t else u) := by
  split
  · exact ht
  · exact hu

/-- What is measured up to a read is shown in the register that is read. -/
theorem measure_in (s : State) (d : Nat) (r : Reg) (i : Nat) : RegsIn (· = regKey d r i) s (Machine.measure s d r i) := by
  have h : RegsIn (· = regKey d r i) s s := .refl s
  unfold Machine.measure
  dsimp only
  split
  · exact .ite (advance_in h rfl) h
  · exact .ite (advance_in h rfl) h
  · exact .ite (advance_in h rfl) h
  · exact .ite (advance_in h rfl) h
  · exact busyFlag_in (busyFlag_in h rfl _) rfl _
  · exact busyFlag_in h rfl _
  · exact .ite h (advance_in h rfl)
  · exact .ite (gauge_in h rfl) h
  · exact accrue_in h rfl
  · exact .ite (advance_in h rfl) h
  · exact accrue_in h rfl
  · exact .ite h (gauge_in h rfl)
  · exact h

/-- A read changes at most the register that is read, where it acknowledges no interrupt. -/
theorem regRead_in (s : State) (d : Nat) {r : Reg} (i : Nat) (hr : r ≠ .irqAck) : RegsIn (· = regKey d r i) s (regRead s d r i).2 := by
  have h := measure_in s d r i
  unfold regRead
  extract_lets u
  split
  · exact absurd rfl hr
  · dsimp only
    split
    · exact h.trans (.of_regs rfl rfl)
    · exact h
  · split
    · exact h.rput rfl
    · exact h

/-- A read of a register of the system die leaves the Eyepiece as it was. -/
theorem eyepieceOn_regRead {s : State} {slot off i : Nat} {r : Reg} (hs : slot < 64) (ho : off < 0x100000) (h : regAt 24 slot off = some (r, i)) :
    eyepieceOn (regRead s 24 r i).2 = eyepieceOn s := by
  by_cases hk : regKey 24 .dbgCtl 0 = regKey 24 r i
  · have hctl : regKey 24 .dbgCtl 0 = (24 * 64 + 8) * 0x100000 + 0 := by decide
    rw [hctl, regKey_of_regAt hs h] at hk
    obtain ⟨rfl, rfl⟩ : slot = 8 ∧ off = 0 := by omega
    have hat : regAt 24 8 0 = some (.dbgCtl, 0) := by decide
    obtain ⟨rfl, rfl⟩ := Prod.mk.inj (Option.some.inj (hat.symm.trans h))
    rfl
  · rw [eyepieceOn, (regRead_in s 24 i (ne_irqAck_of_regAt hs h)).fget hk, eyepieceOn]

/-! ### Instructions -/

theorem eyepieceOn_of {s : State} (h : fget s 24 0 Fl.DBG_CTL_EYEPIECE_EN = 1) : eyepieceOn s = true := by
  rw [eyepieceOn, h]
  rfl

/-- An instruction that the port takes. -/
theorem tap_of_on {s : State} (h : eyepieceOn s = true) (ir : Nat) (dr : BitVec 64) (z : Bool) :
    tap s ir dr z = { s with jtag := ⟨ir, dr⟩, pins := { s.pins with tdoDriven := true, highZ := z } } := by
  rw [tap, if_pos h]

/-- An instruction changes only what the port shows. -/
theorem tap_only (s : State) (ir : Nat) (dr : BitVec 64) (z : Bool) : ∃ j p, tap s ir dr z = { s with jtag := j, pins := p } := by
  unfold tap
  split
  · exact ⟨_, _, rfl⟩
  · exact ⟨_, _, rfl⟩

/-- Settles O57: an instruction changes what the port shows, and DEBUG does besides what the register, the homes or the core does. -/
theorem theEyepieceLoadsInstructions : Obligations.TheEyepieceLoadsInstructions := by
  unfold Obligations.TheEyepieceLoadsInstructions
  refine ⟨?bypass, ?idcode, ?sample, ?extest, ?clamp, ?highz, ?extestLate, ?clampLate, ?highzLate, ?off, ?read, ?write, ?denied, ?memWrite,
    ?memRead, ?halt, ?low⟩
  case bypass =>
    intro s h
    exact congrArg Host.Outcome.next (tap_of_on (eyepieceOn_of h) _ _ _)
  case idcode =>
    intro s h
    exact ⟨_, congrArg Host.Outcome.next (tap_of_on (eyepieceOn_of h) _ _ _), rfl, rfl, ⟨rfl, rfl, rfl⟩, rfl⟩
  case sample =>
    intro v s h
    have hon := eyepieceOn_of h
    have hdraw : eyepieceOn (draw s).2 = true := hon
    have hstep : doSamplePreload v s = _ := (if_pos hon).trans (by rw [tap_of_on hdraw])
    exact ⟨_, congrArg Host.Outcome.next hstep, rfl, rfl, rfl, ⟨rfl, rfl, rfl⟩, rfl⟩
  case extest =>
    intro s h hrst
    have hdraw : eyepieceOn (draw s).2 = true := eyepieceOn_of h
    exact ⟨_, congrArg Host.Outcome.next ((if_pos hrst).trans (tap_of_on hdraw _ _ _)), rfl, rfl, ⟨rfl, rfl, rfl⟩, rfl⟩
  case clamp =>
    intro s h hrst
    exact ⟨_, congrArg Host.Outcome.next ((if_pos hrst).trans (tap_of_on (eyepieceOn_of h) _ _ _)), rfl, rfl, ⟨rfl, rfl, rfl⟩, rfl⟩
  case highz =>
    intro s h hrst
    exact ⟨_, congrArg Host.Outcome.next ((if_pos hrst).trans (tap_of_on (eyepieceOn_of h) _ _ _)), rfl, rfl, ⟨rfl, rfl, rfl⟩, rfl⟩
  case extestLate =>
    intro s h hrst
    have hdraw : eyepieceOn (draw s).2 = true := eyepieceOn_of h
    exact ⟨_, congrArg Host.Outcome.next ((if_neg (by simp [draw, hrst])).trans (tap_of_on hdraw _ _ _)), rfl, ⟨rfl, rfl, rfl⟩, rfl⟩
  case clampLate =>
    intro s h hrst
    exact congrArg Host.Outcome.next ((if_neg (by simp [hrst])).trans (tap_of_on (eyepieceOn_of h) _ _ _))
  case highzLate =>
    intro s h hrst
    exact congrArg Host.Outcome.next ((if_neg (by simp [hrst])).trans (tap_of_on (eyepieceOn_of h) _ _ _))
  case off =>
    intro s h
    have hoff (ir : Nat) (dr : BitVec 64) (z : Bool) :
        tap s ir dr z = { s with jtag := ⟨irIdcode, s.jtag.dr⟩, pins := { s.pins with tdoDriven := false } } :=
      if_neg (by simpa [eyepieceOn] using h)
    have hstep : tapInReset s irHighz 0 true = { s with jtag := ⟨irIdcode, s.jtag.dr⟩, pins := { s.pins with tdoDriven := false } } := by
      rw [tapInReset, hoff, hoff, ite_self]
    exact ⟨_, congrArg Host.Outcome.next hstep, rfl, rfl, rfl, ⟨rfl, rfl, rfl⟩, rfl⟩
  case read =>
    intro a i r v s h ha hlim hat hok
    have hon := eyepieceOn_of h
    have hq : eyepieceOn (regRead s 24 r i).2 = true := (eyepieceOn_regRead (Nat.mod_lt _ (by decide)) (Nat.mod_lt _ (by decide)) hat).trans hon
    have hstep : doDebug (.reg a) false v s = tap (regRead s 24 r i).2 irDebug (regRead s 24 r i).1 false := by
      rw [doDebug, hon, dbgReg, hat, hok, if_neg (by decide), if_neg (by simp [ha]; omega)]
      rfl
    exact ⟨_, congrArg Host.Outcome.next (hstep.trans (tap_of_on hq _ _ _)), rfl, rfl, ⟨rfl, rfl, rfl⟩⟩
  case write =>
    intro a i r v s h ha hlim hat hok
    have hstep : doDebug (.reg a) true v s = tap (regWrite s 24 r i v) irDebug v false := by
      rw [doDebug, eyepieceOn_of h, dbgReg, hat, hok, if_neg (by decide), if_neg (by simp [ha]; omega)]
      rfl
    obtain ⟨j, p, ht⟩ := tap_only (regWrite s 24 r i v) irDebug v false
    exact ⟨_, congrArg Host.Outcome.next (hstep.trans ht), rfl, ⟨rfl, rfl, rfl⟩, rfl⟩
  case denied =>
    intro a b v s h hno
    have hon := eyepieceOn_of h
    have hstep : doDebug (.reg a) b v s = tap s irDebug 0 false := by
      rw [doDebug, hon, dbgReg, hno, if_neg (by decide)]
      exact if_pos (.inr (.inr rfl))
    exact ⟨_, congrArg Host.Outcome.next (hstep.trans (tap_of_on hon _ _ _)), rfl, ⟨rfl, rfl, rfl⟩, rfl, rfl⟩
  case memWrite =>
    intro a v s h ha hlevel hdev hhole
    refine congrArg Host.Outcome.next ?_
    rw [doDebug, eyepieceOn_of h, if_neg (by decide), dbgMem, if_neg (by simp [ha, hdev, hhole]; omega)]
    rfl
  case memRead =>
    intro a v s h ha hlevel hdev hhole
    refine congrArg Host.Outcome.next ?_
    rw [doDebug, eyepieceOn_of h, if_neg (by decide), dbgMem, if_neg (by simp [ha, hdev, hhole]; omega)]
    rfl
  case halt =>
    intro d c b v s h hlevel hrun
    refine congrArg Host.Outcome.next ?_
    rw [doDebug, eyepieceOn_of h, if_neg (by decide), dbgHalt, if_neg (by simp [hrun]; omega)]
  case low =>
    intro o b v s h hlevel ho
    have hon := eyepieceOn_of h
    have hstep : doDebug o b v s = tap s irDebug 0 false := by
      unfold doDebug
      rw [hon, if_neg (by decide)]
      rcases List.mem_cons.1 ho with rfl | ho
      · exact if_pos (.inr (.inl hlevel))
      · rw [List.mem_singleton.1 ho]
        exact if_pos (.inl hlevel)
    exact ⟨_, congrArg Host.Outcome.next (hstep.trans (tap_of_on hon _ _ _)), rfl, ⟨rfl, rfl, rfl⟩, rfl, rfl⟩

end Sys2Proof.Proofs
end

section
/-! Media entries: where a command's write to another device is still awaited (R155, R265, R460 to R471). -/

namespace Sys2Proof.Proofs

open Sys2Proof.Machine Sys2Proof.Safety Sys2Proof.Laws Sys2Proof.Tests

/-- A write of command 1 of context 5 to device 2, which the command has broken off and device 2 has not acknowledged. -/
def brokenOff : RemoteReq := ⟨0, kOrphan, 2, .cmd 5 1, 0, false, [], 0⟩

/-- A state in which that write is awaited. -/
def withBrokenOff (s : State) : State := { s with net := { s.net with remotes := [brokenOff] } }

/-- Refutes O42, in its clause on an entry that breaks the rules. The clause says that the command has then ended; the model holds its
record back while a write that the command has broken off is not acknowledged. -/
theorem not_mediaEntriesAreAssigned : ¬ Obligations.MediaEntriesAreAssigned := by
  unfold Obligations.MediaEntriesAreAssigned
  rintro ⟨-, hbad, -⟩
  obtain ⟨t, ht, hgone, -⟩ := hbad 5 1 0 mCmd (List.replicate 112 0) (withBrokenOff (medSt [] mCmd)) (by decide) (by decide) (by decide)
    (by decide) (by decide) (by decide) (by decide) (by decide) (by decide) (by decide)
  have ht : doMedia 5 1 .none (withBrokenOff (medSt [] mCmd)) = t := Host.Outcome.next.inj ht
  rw [← ht] at hgone
  exact absurd hgone (by decide)

/-- Refutes O43, in its clause on an uncorrected error of a decoder's buffer. The clause says that the command is then gone; the model
holds its record back while a write that the command has broken off is not acknowledged. -/
theorem not_mediaEntriesAreCarriedOut : ¬ Obligations.MediaEntriesAreCarriedOut := by
  unfold Obligations.MediaEntriesAreCarriedOut
  rintro ⟨-, -, hue, -⟩
  obtain ⟨t, ht, hgone, -⟩ := hue 22 2 5 { mCmd with pipe := some (22, 2), entry := mEntry 1 8 } (withBrokenOff (pipeSt 2 (mEntry 1 8)))
    (by decide) (by decide) (by decide) (by decide) (by decide) (by decide) (by decide) (by decide) (by decide)
  have ht : doDecodeEntry 22 2 .ue (withBrokenOff (pipeSt 2 (mEntry 1 8))) = t := Host.Outcome.next.inj ht
  rw [← ht] at hgone
  exact absurd hgone (by decide)

end Sys2Proof.Proofs
end

section
/-! An update whose image lies in a line with a corrected error (R377, R378, R496, R505). -/

namespace Sys2Proof.Proofs

open Sys2Proof.Machine Sys2Proof.Safety Sys2Proof.Laws Sys2Proof.Tests

/-- An image of four blank lines at address 0, the first of which reads with a corrected error that reaches its channel's threshold. -/
def flawedImage : State :=
  { fput (fput cpu3 24 0 Fl.SEC_UPDATE_LEN_VALUE 256) 16 0 Fl.DDR_BG_CE_THRESHOLD 1 with flaws := [(0, false)] }

set_option maxRecDepth 20000 in
/-- Refutes O45, in its clause on an image that is read and fails a check. The clause says that the failure's event is then the only one
that arrives; the reading of the image raises 0x0F54 before it where it meets a corrected error that reaches the threshold. -/
theorem not_updatesAndUnlocksAreChecked : ¬ Obligations.UpdatesAndUnlocksAreChecked := by
  unfold Obligations.UpdatesAndUnlocksAreChecked
  rintro ⟨hread, -⟩
  obtain ⟨t, ht, hfails, -⟩ := hread 1 false (List.replicate 256 0) flawedImage (by decide) (by decide) (by decide) (by decide) (by decide)
  obtain ⟨-, -, hevents⟩ := hfails 0 (by decide)
  have ht : onDie flawedImage 24 (doSecUpdate 1 false) = t := Host.Outcome.next.inj ht
  rw [← ht] at hevents
  exact absurd hevents (by decide)

end Sys2Proof.Proofs
end

section
/-! A request for a report that another device answers short (R445, R501 to R503). -/

namespace Sys2Proof.Proofs

open Sys2Proof.Machine Sys2Proof.Safety Sys2Proof.Laws Sys2Proof.Tests

/-- The response of device 2 to a read of one of its lines for command 1 of context 5. -/
def answered (line : Nat) (data : List Byte) : RemoteReq := ⟨line, kReadReq, 2, .cmd 5 1, line, true, data, 0⟩

/-- An ATTEST whose request lies in a page of device 2, of which the second line has come with two bytes. -/
def shortRequest : State :=
  let s := attSt attCmd []
  { s with
    regions := [⟨5, 0, 0, false, [BitVec.ofNat 64 (3 * 2 ^ 60 + 2 * 2 ^ 27)]⟩]
    xlat := { s.xlat with hub := [(18, [⟨5, 0, Config.page2M, 0, true⟩])] }
    net := { s.net with remotes := [answered 0x10000 (attReq.take 64), answered 0x10040 ((attReq.drop 64).take 2)] } }

/-- Refutes O46, in its first clause. The clause says that the command is accepted with its report; the model makes a
report only of a request of 72 bytes, and keeps the 66 bytes that the lines of another device give here. -/
theorem not_reportsAreSigned : ¬ Obligations.ReportsAreSigned := by
  unfold Obligations.ReportsAreSigned
  rintro ⟨hfirst, -⟩
  obtain ⟨t, ht, haccepted, -⟩ := hfirst 5 1 attCmd (attReq.take 66) shortRequest (by decide) (by decide) (by decide) (by decide) (by decide)
    (by decide) (by decide) (by decide)
  have ht : doAttest 5 1 shortRequest = t := Host.Outcome.next.inj ht
  rw [← ht] at haccepted
  have hentry := congrArg (fun k => k.bind (·.entry.head?)) haccepted
  exact absurd hentry (by decide)

end Sys2Proof.Proofs
end

section
/-! Keys, measurement registers and anti-rollback counters of the security unit (R492, R493, R497 to R500). -/

namespace Sys2Proof.Proofs

open Sys2Proof.Machine Sys2Proof.Safety Sys2Proof.Laws

/-! ### Keys -/

theorem testBit_or_two_pow_mod {n k w : Nat} (hk : k < w) : ((n ||| 2 ^ k) % 2 ^ w).testBit k = true := by
  rw [Nat.testBit_mod_two_pow, Nat.testBit_or, Nat.testBit_two_pow_self, Bool.or_true, decide_eq_true hk, Bool.and_self]

/-- Blowing a fuse bit: the register shows it, also after a reset, and nothing else of the unit changes. -/
theorem blowSec_spec (s : State) {f : Fld} (hf : f.lo ≤ f.hi) (h64 : f.hi < 64) {k : Nat} (hk : k < f.hi - f.lo + 1) :
    (fget (blowSec s f k) 24 0 f).testBit k = true ∧ (fldOf f (resetWord (blowSec s f k) 24 .secStatus 0)).testBit k = true ∧
      (blowSec s f k).sec = s.sec ∧ SameMem s (blowSec s f k) := by
  refine ⟨?_, ?_, rfl, rfl, rfl, rfl⟩
  · rw [blowSec, fget_fput _ _ _ _ _ hf h64]
    exact testBit_or_two_pow_mod hk
  · have hw : resetWord (blowSec s f k) 24 .secStatus 0 =
        fldSet f (resetWord s 24 .secStatus 0) (fldOf f (resetWord s 24 .secStatus 0) ||| 2 ^ k) := by
      simp only [blowSec, resetWord, fput_fuses, smGet_smPut_same]
    rw [hw, fldOf_fldSet _ _ _ hf h64]
    exact testBit_or_two_pow_mod hk

/-- What the answer to a key command leaves as it was. -/
theorem secKeyRejected_spec (s : State) (b : Bool) : (∀ f : Fld, f.reg = .secStatus → fget (secKeyRejected s b) 24 0 f = fget s 24 0 f) ∧
    resetWord (secKeyRejected s b) 24 .secStatus 0 = resetWord s 24 .secStatus 0 ∧ fget (secKeyRejected s b) 24 0 Fl.SEC_KEY_CTL_REJECTED = b2n b ∧
    (secKeyRejected s b).sec = s.sec ∧ SameMem s (secKeyRejected s b) := by
  refine ⟨fun f hf => fget_fput_ne _ _ _ _ _ _ _ _ ?_, rfl, fget_fput_of_lt _ _ _ _ (by decide) (by decide) (b2n_lt b), rfl, rfl, rfl, rfl⟩
  rw [hf]
  decide

/-! ### Measurement registers -/

theorem mrGet_mrExtend (s : State) (i j : Nat) (d : BitVec 384) : mrGet (mrExtend s i d) j =
    if j = i then Config.sha384 (beBytes 48 (mrGet s i).toNat ++ beBytes 48 d.toNat) else mrGet s j := smGetD_smPut ..

theorem mrData_fput {f : Fld} (hf : f.reg = .secMrExtend) (s : State) (v : Nat) : mrData (fput s 24 0 f v) = mrData s := by
  have hk (k : Nat) (hk : k < 6) : rget (fput s 24 0 f v) 24 .secMrData k = rget s 24 .secMrData k := by
    rw [fput, rget_rput, if_neg]
    rw [hf]
    interval_cases k <;> decide
  have hbytes : secRegBytes (fput s 24 0 f v) .secMrData 6 = secRegBytes s .secMrData 6 :=
    List.flatMap_congr fun k hm => by rw [hk k (List.mem_range.1 hm)]
  rw [mrData, hbytes, mrData]

/-- The state in which an extension has been accepted, as its register shows it. -/
def extendAccepted (s : State) (i : Nat) : State :=
  fput (fput (fput (fput s 24 0 Fl.SEC_MR_EXTEND_INDEX i) 24 0 Fl.SEC_MR_EXTEND_REJECTED 0) 24 0 Fl.SEC_MR_EXTEND_BUSY 1) 24 0 Fl.SEC_MR_EXTEND_START 1

/-- The state in which an accepted extension runs. -/
def extendRuns (u : State) (i m : Nat) (d : BitVec 384) : State :=
  { u with fresh := m, sec := { u.sec with extending := some (i, d) } }

/-- The state in which it has ended. -/
def extendEnded (u : State) (i m : Nat) (d : BitVec 384) : State :=
  mrExtend (fput (fput { u with fresh := m, sec := { u.sec with extending := none } } 24 0 Fl.SEC_MR_EXTEND_BUSY 0) 24 0
    Fl.SEC_MR_EXTEND_START 0) i d

/-- An extension that begins runs or has ended. -/
theorem begun_extension (u : State) (i : Nat) (d : BitVec 384) : ∃ m,
    (if (drawBelow (extendRuns u i u.fresh d) 2).1 = 1 then (drawBelow (extendRuns u i u.fresh d) 2).2
      else endExtend (drawBelow (extendRuns u i u.fresh d) 2).2) = extendRuns u i m d ∨
    (if (drawBelow (extendRuns u i u.fresh d) 2).1 = 1 then (drawBelow (extendRuns u i u.fresh d) 2).2
      else endExtend (drawBelow (extendRuns u i u.fresh d) 2).2) = extendEnded u i m d := by
  split
  · exact ⟨_, .inl rfl⟩
  · exact ⟨_, .inr rfl⟩

/-- An accepted extension begins. -/
theorem doSecMrExtend_of_idle {s : State} {i : Nat} (h8 : 8 ≤ i) (h16 : i < 16) (h : s.sec.extending = none) :
    ∃ m, doSecMrExtend i s = extendRuns (extendAccepted s i) i m (mrData s) ∨
      doSecMrExtend i s = extendEnded (extendAccepted s i) i m (mrData s) := by
  have hdata : mrData (extendAccepted s i) = mrData s := by
    rw [extendAccepted, mrData_fput rfl, mrData_fput rfl, mrData_fput rfl, mrData_fput rfl]
  have hidle : ¬(i < 8 ∨ 16 ≤ i ∨ (fput s 24 0 Fl.SEC_MR_EXTEND_INDEX i).sec.extending.isSome = true) := by
    rw [fput_sec, h]
    simp
    omega
  obtain ⟨m, hm⟩ := begun_extension (extendAccepted s i) i (mrData (extendAccepted s i))
  rw [hdata] at hm
  refine ⟨m, ?_⟩
  rw [doSecMrExtend, if_neg hidle]
  rw [← hdata] at hm ⊢
  exact hm

/-- What an extension that runs or has ended keeps of an accepted one. -/
theorem extendRuns_frame {s u : State} (h : RegsBut s u [regKey 24 .secMrExtend 0]) (i m : Nat) (d : BitVec 384) :
    RegsBut s (extendRuns u i m d) [regKey 24 .secMrExtend 0] ∧ SameMem u (extendRuns u i m d) ∧
      fget (extendRuns u i m d) 24 0 Fl.SEC_MR_EXTEND_REJECTED = fget u 24 0 Fl.SEC_MR_EXTEND_REJECTED ∧
      (extendRuns u i m d).sec.extending = some (i, d) ∧ ∀ j, mrGet (extendRuns u i m d) j = mrGet u j :=
  ⟨h, ⟨rfl, rfl, rfl⟩, rfl, rfl, fun _ => rfl⟩

theorem extendEnded_frame {s u : State} (h : RegsBut s u [regKey 24 .secMrExtend 0]) (i m : Nat) (d : BitVec 384) :
    RegsBut s (extendEnded u i m d) [regKey 24 .secMrExtend 0] ∧ SameMem u (extendEnded u i m d) ∧
      fget (extendEnded u i m d) 24 0 Fl.SEC_MR_EXTEND_REJECTED = fget u 24 0 Fl.SEC_MR_EXTEND_REJECTED ∧
      (extendEnded u i m d).sec.extending = none ∧ ∀ j, mrGet (extendEnded u i m d) j =
        if j = i then Config.sha384 (beBytes 48 (mrGet u i).toNat ++ beBytes 48 d.toNat) else mrGet u j := by
  have hin : regKey 24 .secMrExtend 0 ∈ [regKey 24 .secMrExtend 0] := List.mem_singleton_self _
  have hu : RegsBut s { u with fresh := m, sec := { u.sec with extending := none } } [regKey 24 .secMrExtend 0] := h
  exact ⟨RegsBut.fput (RegsBut.fput hu _ hin) _ hin, ⟨rfl, rfl, rfl⟩,
    (fget_fput_other (by decide) _ _ _ _).trans (fget_fput_other (by decide) _ _ _ _), rfl, fun j => mrGet_mrExtend ..⟩

theorem extendAccepted_sec (s : State) (i : Nat) : (extendAccepted s i).sec = s.sec := by
  rw [extendAccepted, fput_sec, fput_sec, fput_sec, fput_sec]

/-- What an accepted extension keeps of the registers and the memories. -/
theorem extendAccepted_frame (s : State) (i : Nat) : RegsBut s (extendAccepted s i) [regKey 24 .secMrExtend 0] ∧
    SameMem s (extendAccepted s i) ∧ fget (extendAccepted s i) 24 0 Fl.SEC_MR_EXTEND_REJECTED = 0 := by
  have hin : regKey 24 .secMrExtend 0 ∈ [regKey 24 .secMrExtend 0] := List.mem_singleton_self _
  refine ⟨RegsBut.fput (RegsBut.fput (RegsBut.fput (RegsBut.fput (RegsBut.refl s) _ hin) _ hin) _ hin) _ hin, ⟨rfl, rfl, rfl⟩, ?_⟩
  rw [extendAccepted, fget_fput_other (by decide), fget_fput_other (by decide)]
  exact fget_fput_of_lt _ _ _ _ (by decide) (by decide) (by decide)

/-- An extension that is refused sets REJECTED. -/
theorem doSecMrExtend_of_refused {s : State} {i : Nat} (h : i < 8 ∨ 16 ≤ i ∨ s.sec.extending.isSome = true) :
    doSecMrExtend i s = fput (fput s 24 0 Fl.SEC_MR_EXTEND_INDEX i) 24 0 Fl.SEC_MR_EXTEND_REJECTED 1 := if_pos h

theorem extendRefused_spec (s : State) (i : Nat) :
    (fput (fput s 24 0 Fl.SEC_MR_EXTEND_INDEX i) 24 0 Fl.SEC_MR_EXTEND_REJECTED 1).sec = s.sec ∧
      fget (fput (fput s 24 0 Fl.SEC_MR_EXTEND_INDEX i) 24 0 Fl.SEC_MR_EXTEND_REJECTED 1) 24 0 Fl.SEC_MR_EXTEND_REJECTED = 1 ∧
      RegsBut s (fput (fput s 24 0 Fl.SEC_MR_EXTEND_INDEX i) 24 0 Fl.SEC_MR_EXTEND_REJECTED 1) [regKey 24 .secMrExtend 0] ∧
      SameMem s (fput (fput s 24 0 Fl.SEC_MR_EXTEND_INDEX i) 24 0 Fl.SEC_MR_EXTEND_REJECTED 1) := by
  have hin : regKey 24 .secMrExtend 0 ∈ [regKey 24 .secMrExtend 0] := List.mem_singleton_self _
  exact ⟨rfl, fget_fput_of_lt _ _ _ _ (by decide) (by decide) (by decide), RegsBut.fput (RegsBut.fput (RegsBut.refl s) _ hin) _ hin, rfl, rfl, rfl⟩

/-! ### Counters -/

/-- A write of a register with commits left leaves the value, committed or pending, and its event at most. -/
theorem persistPut_becomes {s : State} {n : Nat} (h : (getPersist s n).commits < wearEnd) (v : BitVec 64) :
    ∃ x, PersistBecomes s (persistPut s n v) n x ∧ x.pendingV.getD x.value = v := by
  unfold persistPut
  rw [if_neg (by omega)]
  split
  · exact ⟨_, persistCommitNow_becomes s n v, rfl⟩
  · exact ⟨_, putPersist_becomes .., rfl⟩

theorem rollback_of_persist {s t : State} {i : Nat} {x : Persist} (h : PersistBecomes s t (28 + i) x) :
    rollback t i = (x.pendingV.getD x.value).toNat % 2 ^ 32 ∧ ∀ j, j ≠ i → rollback t j = rollback s j := by
  refine ⟨by rw [rollback, persistRead, h.same], fun j hj => ?_⟩
  rw [rollback, persistRead, h.others _ (by omega), rollback, persistRead]

/-- An accepted value of a counter is above the old one. -/
theorem lt_of_rollbackOk {s : State} {i v : Nat} (h : rollbackOk s i v = true) : rollback s i < v := by
  simp only [rollbackOk, Bool.and_eq_true, decide_eq_true_eq] at h
  exact h.1.2

theorem PersistBecomes.fget {s t : State} {n : Nat} {x : Persist} (h : PersistBecomes s t n x) (hf : t.fuses = s.fuses) (d i : Nat) (f : Fld) :
    fget t d i f = fget s d i f := by
  simp only [Machine.fget, rget, resetWord, h.regs, hf]

theorem persistPut_fuses (s : State) (n : Nat) (v : BitVec 64) : (persistPut s n v).fuses = s.fuses := by
  unfold persistPut persistCommitNow
  dsimp only
  split
  · rfl
  · split
    · split
      · rfl
      · split <;> rfl
    · rfl

/-- Settles O44: each operation either refuses, which shows in its REJECTED alone, or changes the one thing that it names. -/
theorem keysMeasurementsAndCounters : Obligations.KeysMeasurementsAndCounters := by
  unfold Obligations.KeysMeasurementsAndCounters
  refine ⟨?program, ?programRefused, ?revoke, ?revokeRefused, ?extend, ?extendBusy, ?extendLow, ?rollback, ?rollbackRefused⟩
  case program =>
    intro k s hd h2 h4 hp
    have hstep : doSecKeyProgram k s =
        secKeyRejected (blowSec { s with sec := { s.sec with keys := smPut s.sec.keys k (mrData s) } } Fl.SEC_STATUS_PROGRAMMED k) false := by
      rw [doSecKeyProgram, if_neg (by simp [hp]; omega)]
    obtain ⟨hshown, hkept, hsec, hmem⟩ := blowSec_spec { s with sec := { s.sec with keys := smPut s.sec.keys k (mrData s) } }
      (f := Fl.SEC_STATUS_PROGRAMMED) (by decide) (by decide) (k := k) h4
    obtain ⟨hfields, hreset, hrejected, hsec', hmem'⟩ := secKeyRejected_spec
      (blowSec { s with sec := { s.sec with keys := smPut s.sec.keys k (mrData s) } } Fl.SEC_STATUS_PROGRAMMED k) false
    refine ⟨_, congrArg Host.Outcome.next ((onDie_of_alive hd _).trans hstep), ?_, ?_, hrejected, ?_, ?_, sameMem_trans hmem hmem'⟩
    · rw [slotDigest, hsec', hsec]
      simp only [smGet_smPut_same, Option.getD_some]
    · rw [slotProgrammed, hfields _ rfl, hshown]
    · rw [hreset, hkept]
    · rw [hsec', hsec]
  case programRefused =>
    intro k s hd hk
    exact congrArg Host.Outcome.next ((onDie_of_alive hd _).trans (if_pos (by tauto)))
  case revoke =>
    intro k s hd h4 hk
    have hstep : doSecKeyRevoke k s = secKeyRejected (blowSec s Fl.SEC_STATUS_REVOKED k) false := by
      rw [doSecKeyRevoke, if_neg (by omega)]
    obtain ⟨hshown, hkept, hsec, hmem⟩ := blowSec_spec s (f := Fl.SEC_STATUS_REVOKED) (by decide) (by decide) (k := k) h4
    obtain ⟨hfields, hreset, hrejected, hsec', hmem'⟩ := secKeyRejected_spec (blowSec s Fl.SEC_STATUS_REVOKED k) false
    refine ⟨_, congrArg Host.Outcome.next ((onDie_of_alive hd _).trans hstep), ?_, hrejected, ?_, hsec'.trans hsec, sameMem_trans hmem hmem'⟩
    · rw [slotRevoked, hfields _ rfl, hshown]
    · rw [hreset, hkept]
  case revokeRefused =>
    intro s hd
    exact congrArg Host.Outcome.next ((onDie_of_alive hd _).trans (if_pos (.inr rfl)))
  case extend =>
    intro i s hd h8 h16 hidle
    obtain ⟨hregs, hmem, hrej⟩ := extendAccepted_frame s i
    have hmr (j : Nat) : mrGet (extendAccepted s i) j = mrGet s j := by rw [mrGet, extendAccepted_sec, mrGet]
    obtain ⟨m, hstep | hstep⟩ := doSecMrExtend_of_idle h8 h16 hidle
    · obtain ⟨hr, hm, hrej', hruns, hmrs⟩ := extendRuns_frame hregs i m (mrData s)
      exact ⟨_, congrArg Host.Outcome.next ((onDie_of_alive hd _).trans hstep), .inr ⟨hruns, (hmrs i).trans (hmr i)⟩,
        fun j _ => (hmrs j).trans (hmr j), hrej'.trans hrej, hr, sameMem_trans hmem hm⟩
    · obtain ⟨hr, hm, hrej', hnone, hmrs⟩ := extendEnded_frame hregs i m (mrData s)
      refine ⟨_, congrArg Host.Outcome.next ((onDie_of_alive hd _).trans hstep), .inl ⟨hnone, ?_⟩, fun j hj => ?_, hrej'.trans hrej, hr,
        sameMem_trans hmem hm⟩
      · rw [hmrs, if_pos rfl, hmr]
      · rw [hmrs, if_neg hj, hmr]
  case extendBusy =>
    intro i e s hd he
    exact ⟨_, congrArg Host.Outcome.next ((onDie_of_alive hd _).trans (doSecMrExtend_of_refused (.inr (.inr (by simp [he]))))), extendRefused_spec s i⟩
  case extendLow =>
    intro i s hd hi
    exact ⟨_, congrArg Host.Outcome.next ((onDie_of_alive hd _).trans (doSecMrExtend_of_refused (.inl hi))), extendRefused_spec s i⟩
  case rollback =>
    intro i v s hd hok hwear
    have hwear' : (getPersist (fput s 24 0 Fl.SEC_ROLLBACK_REJECTED 0) (28 + i)).commits < wearEnd := hwear
    obtain ⟨x, hx, hv⟩ := persistPut_becomes hwear' (v.setWidth 64)
    have hfuses := persistPut_fuses (fput s 24 0 Fl.SEC_ROLLBACK_REJECTED 0) (28 + i) (v.setWidth 64)
    obtain ⟨hvalue, hothers⟩ := rollback_of_persist hx
    refine ⟨_, congrArg Host.Outcome.next ((onDie_of_alive hd _).trans (if_pos hok)), ?_, lt_of_rollbackOk hok, ?_, hothers,
      sameMem_trans (SameMem.fput ⟨rfl, rfl, rfl⟩ ..) hx.mem, ?_⟩
    · rw [hvalue, hv, BitVec.toNat_setWidth]
      omega
    · rw [hx.fget hfuses]
      exact fget_fput_of_lt _ _ _ _ (by decide) (by decide) (by decide)
    · exact RegsBut.of_regs (RegsBut.fput (RegsBut.refl s) _ (List.mem_singleton_self _)) hfuses hx.regs
  case rollbackRefused =>
    intro i v s hd hok
    exact congrArg Host.Outcome.next ((onDie_of_alive hd _).trans (if_neg (by simp [hok])))

end Sys2Proof.Proofs
end

section
/-! Power-on resets: what commits, what drains, and what is left (R408, R409, R432, R475, R477, R480, R486, R488). -/

namespace Sys2Proof.Proofs

open Sys2Proof.Machine Sys2Proof.Safety Sys2Proof.Laws

/-! ### Draining the cores' buffers -/

namespace HomesOnly
variable {s t : State} (hs : HomesOnly s t)
include hs

theorem leaveNt {d c : Nat} {l : NtLine} : HomesOnly s (Machine.leaveNt t d c l) := by
  unfold Machine.leaveNt
  dsimp only
  split
  · exact hs.modCore.storeErr
  · exact hs.modCore.ncReq.storeErr.ite hs.modCore.ncReq

theorem drainAll {d c : Nat} : HomesOnly s (Machine.drainAll t d c) := by
  have hstores : HomesOnly s (Machine.drainStores (Machine.retireStores t d c) d c fun _ => true) :=
    (hs.modCore : HomesOnly s (Machine.retireStores t d c)).drainStores
  have hnt : HomesOnly s (Machine.drainNt (Machine.drainStores (Machine.retireStores t d c) d c fun _ => true) d c) :=
    hstores.foldl fun _ _ hu => hu.leaveNt
  exact hnt.update.foldl fun _ _ hu => hu.storeErr.ite hu

theorem forceDrain {d c : Nat} : HomesOnly s (Machine.forceDrain t d c) := by
  unfold Machine.forceDrain
  refine (hs.drainAll.foldl fun _ _ hu => ?_).modCore
  split
  · exact hu.storeErr
  · exact hu.ncReq.storeErr.ite hu.ncReq

end HomesOnly

/-! ### Commits of pending values -/

/-- From one state to another at most the persistent array and the events differ. -/
def PersistOnly (s t : State) : Prop := ∃ ps e, t = { s with persist := ps, evt := e }

namespace PersistOnly

theorem refl (s : State) : PersistOnly s s := ⟨s.persist, s.evt, rfl⟩

theorem trans {s t u : State} (h : PersistOnly s t) (h' : PersistOnly t u) : PersistOnly s u := by
  obtain ⟨_, _, rfl⟩ := h
  obtain ⟨ps, e, rfl⟩ := h'
  exact ⟨ps, e, rfl⟩

end PersistOnly

theorem persistCommitNow_only (s : State) (n : Nat) (v : BitVec 64) : PersistOnly s (persistCommitNow s n v) := by
  unfold persistCommitNow
  extract_lets x t
  split
  · exact ⟨_, _, rfl⟩
  · split
    · exact ⟨_, _, rfl⟩
    · exact ⟨_, s.evt, rfl⟩

/-- The commit of one entry of the persistent array. -/
def commitEntry (s : State) (p : Nat × Persist) : State := match p.2.pendingV with
  | some v => if wearEnd ≤ p.2.commits then s else persistCommitNow s p.1 v
  | none => s

theorem commitFirst_eq (s : State) (n : Nat) :
    commitFirst s n = ((s.persist.filter fun p => p.2.pendingV.isSome).take n).foldl commitEntry s := rfl

theorem commitEntry_only (s : State) (p : Nat × Persist) : PersistOnly s (commitEntry s p) := by
  unfold commitEntry
  split
  · split
    · exact .refl s
    · exact persistCommitNow_only ..
  · exact .refl s

theorem commitEntry_commits (s : State) (p : Nat × Persist) (n : Nat) :
    (getPersist (commitEntry s p) n).commits ≤ (getPersist s n).commits + 1 := by
  unfold commitEntry
  split
  · split
    · omega
    · rename_i v _ _
      have h := persistCommitNow_becomes s p.1 v
      by_cases hn : n = p.1
      · rw [hn, h.same]
      · rw [h.others n hn]
        omega
  · omega

theorem commitEntry_other {s : State} {p : Nat × Persist} {n : Nat} (h : p.1 ≠ n) : getPersist (commitEntry s p) n = getPersist s n := by
  unfold commitEntry
  split
  · split
    · rfl
    · exact (persistCommitNow_becomes s p.1 _).others n (Ne.symm h)
  · rfl

theorem commitEntries_only (l : List (Nat × Persist)) (s : State) : PersistOnly s (l.foldl commitEntry s) :=
  List.foldlRecOn (motive := PersistOnly s) _ _ (.refl s) fun _ ht p _ => ht.trans (commitEntry_only _ p)

theorem commitEntries_commits (l : List (Nat × Persist)) (s : State) (n : Nat) :
    (getPersist (l.foldl commitEntry s) n).commits ≤ (getPersist s n).commits + l.length := by
  induction l generalizing s with
  | nil => exact Nat.le_refl _
  | cons p l ih =>
    have h := ih (commitEntry s p)
    have hp := commitEntry_commits s p n
    rw [List.foldl_cons, List.length_cons]
    omega

theorem commitEntries_other {l : List (Nat × Persist)} {n : Nat} (h : l.filter (·.1 == n) = []) (s : State) :
    getPersist (l.foldl commitEntry s) n = getPersist s n := by
  refine List.foldlRecOn (motive := fun t => getPersist t n = getPersist s n) _ _ rfl fun t ht p hp => ?_
  rw [commitEntry_other (by simpa using List.filter_eq_nil_iff.1 h p hp), ht]

/-- An entry that the list holds once, with a value pending and commits left, is committed. -/
theorem commitEntries_unique {l : List (Nat × Persist)} {n : Nat} {x : Persist} {v : BitVec 64} (h : l.filter (·.1 == n) = [(n, x)])
    (hv : x.pendingV = some v) (hx : x.commits < wearEnd) (s : State) : (getPersist (l.foldl commitEntry s) n).value = v := by
  obtain ⟨a, b, rfl, ha, -, hb⟩ := List.filter_eq_cons_iff.1 h
  have hb : b.filter (·.1 == n) = [] := hb
  rw [List.foldl_append, List.foldl_cons, commitEntries_other hb]
  have hentry : commitEntry (a.foldl commitEntry s) (n, x) = persistCommitNow (a.foldl commitEntry s) n v := by
    unfold commitEntry
    simp only [hv]
    exact if_neg (by omega)
  rw [hentry, (persistCommitNow_becomes _ n v).same]

/-- The entry of a register, as a part of those that have a value pending. -/
theorem pendingEntries_unique {m : SMap Persist} {n : Nat} {x : Persist} {v : BitVec 64} (h : m.filter (·.1 == n) = [(n, x)])
    (hv : x.pendingV = some v) : (m.filter fun p => p.2.pendingV.isSome).filter (·.1 == n) = [(n, x)] := by
  rw [List.filter_comm, h]
  simp [hv]

/-- At an orderly stop a register's entry is committed or not. -/
theorem commitFirst_unique {s : State} {n : Nat} {x : Persist} {v : BitVec 64} (h : s.persist.filter (·.1 == n) = [(n, x)])
    (hv : x.pendingV = some v) (hx : x.commits < wearEnd) (k : Nat) :
    (getPersist (commitFirst s k) n).value = v ∨ getPersist (commitFirst s k) n = getPersist s n := by
  have hsub := ((List.take_sublist k (s.persist.filter fun p => p.2.pendingV.isSome)).filter (·.1 == n))
  rw [pendingEntries_unique h hv, List.sublist_singleton] at hsub
  rw [commitFirst_eq]
  rcases hsub with hnone | hone
  · exact .inr (commitEntries_other hnone s)
  · exact .inl (commitEntries_unique hone hv hx s)

theorem commitAll_unique {s : State} {n : Nat} {x : Persist} {v : BitVec 64} (h : s.persist.filter (·.1 == n) = [(n, x)])
    (hv : x.pendingV = some v) (hx : x.commits < wearEnd) : (getPersist (commitAll s) n).value = v := by
  rw [commitAll, commitFirst_eq, List.take_of_length_le (List.length_filter_le _ _)]
  exact commitEntries_unique (pendingEntries_unique h hv) hv hx s

theorem commitFirst_commits (s : State) (k n : Nat) : (getPersist (commitFirst s k) n).commits ≤ (getPersist s n).commits + s.persist.length := by
  have h := commitEntries_commits ((s.persist.filter fun p => p.2.pendingV.isSome).take k) s n
  have hlen := List.length_filter_le (fun p : Nat × Persist => p.2.pendingV.isSome) s.persist
  rw [List.length_take] at h
  rw [commitFirst_eq]
  omega

/-! ### What a power-on reset leaves -/

theorem clearRegs_regs (s : State) (p : Nat → Dom → Bool) : (clearRegs s p).regs = s.regs.filter fun x => !clearedBy p x.1 := by
  unfold clearRegs clearedBy
  refine List.filter_congr fun x _ => ?_
  cases regOfKey x.1 <;> rfl

/-- A power-on reset is in progress, everything that one clears is clear, and register 0 holds the record of its source. -/
structure PoweredOn (s t : State) (record : BitVec 64) : Prop where
  kind : t.rst.kind = .powerOn
  emptied : Emptied t
  fuses : t.fuses = s.fuses
  keys : t.sec.keys = s.sec.keys
  mrs : t.sec.mrs = []
  regs : ∀ x ∈ t.regs, clearedBy byPowerOn x.1 = false
  value : (getPersist t 0).value = record
  pending : (getPersist t 0).pendingV = none

theorem clearPowerOn_persist (u : State) (n : Nat) : getPersist (clearPowerOn u) n = getPersist u n := rfl

theorem clearPowerOn_poweredOn {s u : State} (hf : u.fuses = s.fuses) (hk : u.sec.keys = s.sec.keys) :
    PoweredOn s (clearPowerOn u) (getPersist u 0).value ∨ (getPersist u 0).pendingV ≠ none := by
  by_cases hp : (getPersist u 0).pendingV = none
  · refine .inl ⟨rfl, ⟨rfl, rfl, rfl, rfl, rfl, rfl, rfl, rfl, rfl, rfl, rfl⟩, hf, hk, rfl, fun x hx => ?_, rfl, hp⟩
    have hx : x ∈ (clearRegs u byPowerOn).regs := hx
    rw [clearRegs_regs] at hx
    simpa using (List.mem_filter.1 hx).2
  · exact .inr hp

theorem keepRecord_eq {u : State} (h : (getPersist u 0).commits < wearEnd) (source unit : Nat) :
    keepRecord u source unit = persistCommitNow u 0 (causeRecord source unit) := if_neg (by omega)

/-- A power-on reset, once what commits before it has committed. -/
theorem powerOn_of_committed {s u : State} (hf : u.fuses = s.fuses) (hk : u.sec.keys = s.sec.keys) (hw : (getPersist u 0).commits < wearEnd)
    (source unit : Nat) : PoweredOn s (clearPowerOn (keepRecord u source unit)) (causeRecord source unit) ∧
      ∀ n, n ≠ 0 → getPersist (clearPowerOn (keepRecord u source unit)) n = getPersist u n := by
  have hb := persistCommitNow_becomes u 0 (causeRecord source unit)
  rw [keepRecord_eq hw]
  obtain ⟨ps, e, ho⟩ := persistCommitNow_only u 0 (causeRecord source unit)
  constructor
  · have h := clearPowerOn_poweredOn (s := s) (u := persistCommitNow u 0 (causeRecord source unit)) (by rw [ho]; exact hf) (by rw [ho]; exact hk)
    rw [hb.same] at h
    exact h.resolve_right (by simp)
  · intro n hn
    rw [clearPowerOn_persist, hb.others n hn]

theorem stayStopped_poweredOn {s u t : State} {w : BitVec 64} (h : PoweredOn u t w) : PoweredOn u (stayStopped s t) w := by
  unfold stayStopped
  split
  · exact ⟨h.kind, h.emptied, h.fuses, h.keys, h.mrs, h.regs, h.value, h.pending⟩
  · exact h

theorem stayStopped_persist (s t : State) (n : Nat) : getPersist (stayStopped s t) n = getPersist t n := by
  unfold stayStopped
  split <;> rfl

theorem pinsSet_poweredOn {s t : State} {w : BitVec 64} (h : PoweredOn s t w) (p : Pins) : PoweredOn s { t with pins := p } w :=
  ⟨h.kind, h.emptied, h.fuses, h.keys, h.mrs, h.regs, h.value, h.pending⟩

theorem getPersist_pinsSet (t : State) (p : Pins) (n : Nat) : getPersist { t with pins := p } n = getPersist t n := rfl

/-! ### The sources -/

/-- A source of power-on level: every pending value commits. -/
theorem powerOnReset_spec {s : State} (h : s.rst.kind ≠ .powerOn) (hw : (getPersist s 0).commits + 2 * s.persist.length < wearEnd)
    (source unit : Nat) : PoweredOn s (powerOnReset s source unit) (causeRecord source unit) ∧
      ∀ n x v, n ≠ 0 → getPersist s n = x → s.persist.filter (·.1 == n) = [(n, x)] → x.pendingV = some v → x.commits < wearEnd →
        (getPersist (powerOnReset s source unit) n).value = v := by
  have hcommits : (getPersist (commitAll s) 0).commits ≤ _ := commitFirst_commits s s.persist.length 0
  obtain ⟨ps, e, ho⟩ := commitEntries_only ((s.persist.filter fun p => p.2.pendingV.isSome).take s.persist.length) s
  rw [← commitFirst_eq] at ho
  have hf : (commitAll s).fuses = s.fuses := by rw [commitAll, ho]
  have hk : (commitAll s).sec.keys = s.sec.keys := by rw [commitAll, ho]
  obtain ⟨hon, hothers⟩ := powerOn_of_committed hf hk (by omega) source unit
  have hstep : powerOnReset s source unit = stayStopped s (clearPowerOn (keepRecord (commitAll s) source unit)) := if_neg (fun hc => h hc.1)
  rw [hstep]
  refine ⟨stayStopped_poweredOn hon, fun n x v hn hx hu hv hc => ?_⟩
  rw [stayStopped_persist, hothers n hn, commitAll_unique hu hv hc]

/-- An orderly stop drains the cores' buffers and commits a part of the pending values. -/
theorem orderlyStop_spec (s : State) : ∃ u k, HomesOnly { s with engines := s.engines.map fun e => (e.1, { e.2 with region := none }) } u ∧
    orderlyStop s = commitFirst u k := by
  unfold orderlyStop
  extract_lets e l h n
  have hn : HomesOnly e n.2 := by
    have hh : HomesOnly e h.2 := (HomesOnly.refl e).drawBelow
    simp only [n]
    split
    · exact hh
    · exact hh.drawBelow
  exact ⟨_, _, hn.foldl fun _ _ hu => hu.forceDrain, rfl⟩

/-- What the orderly stop leads to: every pending value is committed or lost. -/
theorem orderly_powerOn {s : State} (hw : (getPersist s 0).commits + 2 * s.persist.length < wearEnd) (source unit : Nat) :
    PoweredOn s (clearPowerOn (keepRecord (orderlyStop s) source unit)) (causeRecord source unit) ∧
      ∀ n x v, n ≠ 0 → getPersist s n = x → s.persist.filter (·.1 == n) = [(n, x)] → x.pendingV = some v → x.commits < wearEnd →
        (getPersist (clearPowerOn (keepRecord (orderlyStop s) source unit)) n).value = v ∨
          (getPersist (clearPowerOn (keepRecord (orderlyStop s) source unit)) n).value = x.value := by
  obtain ⟨u, k, hu, hstop⟩ := orderlyStop_spec s
  have hpersist : u.persist = s.persist := hu.get (f := State.persist)
  have hget (n : Nat) : getPersist u n = getPersist s n := by rw [getPersist, hpersist, getPersist]
  have hcommits := commitFirst_commits u k 0
  rw [hget, hpersist] at hcommits
  obtain ⟨ps, e, ho⟩ := commitEntries_only ((u.persist.filter fun p => p.2.pendingV.isSome).take k) u
  rw [← commitFirst_eq] at ho
  have hf : (commitFirst u k).fuses = s.fuses := by
    rw [ho]
    exact hu.get (f := State.fuses)
  have hk : (commitFirst u k).sec.keys = s.sec.keys := by
    rw [ho]
    exact hu.get (f := fun s => s.sec.keys)
  obtain ⟨hon, hothers⟩ := powerOn_of_committed hf hk (by omega) source unit
  rw [hstop]
  refine ⟨hon, fun n x v hn hx hq hv hc => ?_⟩
  rw [hothers n hn]
  rw [← hpersist] at hq
  rcases commitFirst_unique hq hv hc k with hv | hsame
  · exact .inl hv
  · exact .inr (by rw [hsame, hget, hx])

theorem doPwrGoodFall_of_high {s : State} (h : s.pins.pwrGood = true) : doPwrGoodFall s =
    { clearPowerOn (keepRecord (orderlyStop s) 0x02 0) with
      pins := { (clearPowerOn (keepRecord (orderlyStop s) 0x02 0)).pins with pwrGood := false } } := if_neg (by simp [h])

/-- Settles O49: what commits before a power-on reset is counted entry by entry, and the reset then clears all else. -/
theorem powerOnResetsClear : Obligations.PowerOnResetsClear := by
  unfold Obligations.PowerOnResetsClear
  refine ⟨?brownout, ?trip, ?configuration, ?fall, ?low, ?rise⟩
  case brownout =>
    intro s h hw
    obtain ⟨hon, hothers⟩ := orderly_powerOn hw 0x03 0
    have hon := stayStopped_poweredOn (s := s) hon
    have hstep : doBrownout s = stayStopped s (clearPowerOn (keepRecord (orderlyStop s) 0x03 0)) := if_neg (fun hc => h hc.1)
    refine ⟨_, congrArg Host.Outcome.next hstep, hon.kind, hon.emptied, hon.fuses, hon.keys, hon.mrs, hon.regs, hon.value, hon.pending, ?_⟩
    intro n
    rw [stayStopped_persist]
    exact hothers n
  case trip =>
    intro d s h hw
    obtain ⟨hon, hothers⟩ := powerOnReset_spec h hw 0x04 (unitId d 0 0)
    exact ⟨_, rfl, hon.kind, hon.emptied, hon.fuses, hon.keys, hon.mrs, hon.regs, hon.value, hon.pending, hothers⟩
  case configuration =>
    intro u s h hw
    obtain ⟨hon, hothers⟩ := powerOnReset_spec h hw 0x05 u
    exact ⟨_, rfl, hon.kind, hon.emptied, hon.fuses, hon.keys, hon.mrs, hon.regs, hon.value, hon.pending, hothers⟩
  case fall =>
    intro s h hw
    obtain ⟨hon, hothers⟩ := orderly_powerOn hw 0x02 0
    have hstep := doPwrGoodFall_of_high h
    generalize clearPowerOn (keepRecord (orderlyStop s) 0x02 0) = t at hon hothers hstep
    have hon := pinsSet_poweredOn hon { t.pins with pwrGood := false }
    refine ⟨_, congrArg Host.Outcome.next hstep, hon.kind, hon.emptied, hon.fuses, hon.keys, hon.mrs, hon.regs, hon.value, hon.pending, ?_, rfl⟩
    intro n
    rw [getPersist_pinsSet]
    exact hothers n
  case low =>
    intro s h
    exact congrArg Host.Outcome.next (if_pos (by simp [h]))
  case rise =>
    intro s h hk
    exact congrArg Host.Outcome.next (if_neg (by simp [h, hk]))

end Sys2Proof.Proofs
end

section
/-! System resets: what they clear, and what they record (R475, R478 to R481). -/

namespace Sys2Proof.Proofs

open Sys2Proof.Machine Sys2Proof.Safety Sys2Proof.Laws

/-! ### The history -/

/-- The history before its first entry is written: each entry moves on by one. -/
def histShift (s : State) : State := (List.range 15).foldl (fun t i => rput t 24 .rstHist (15 - i) (rget s 24 .rstHist (14 - i))) s

theorem histPush_eq (s : State) (w : BitVec 64) : histPush s w = rput (histShift s) 24 .rstHist 0 (w ||| (1 <<< 63)) := rfl

/-- A register that every write of a sequence, whenever it writes it, gives the same word. -/
theorem rget_foldl_rput {α : Type} {l : List α} {key : α → Nat} {word : α → BitVec 64} {d j : Nat} {r : Reg} {w : BitVec 64}
    (hl : ∀ a ∈ l, regKey d r (key a) = regKey d r j → word a = w) (s : State)
    (hs : rget s d r j = w ∨ ∃ a ∈ l, regKey d r (key a) = regKey d r j) :
    rget (l.foldl (fun t a => rput t d r (key a) (word a)) s) d r j = w := by
  induction l generalizing s with
  | nil => exact hs.resolve_right (by simp)
  | cons a l ih =>
    refine ih (fun b hb => hl b (List.mem_cons_of_mem _ hb)) _ ?_
    rw [rget_rput]
    by_cases ha : regKey d r (key a) = regKey d r j
    · rw [if_pos ha.symm]
      exact .inl (hl a List.mem_cons_self ha)
    · rw [if_neg (Ne.symm ha)]
      refine hs.imp id fun ⟨b, hb, hk⟩ => ⟨b, ?_, hk⟩
      exact (List.mem_cons.1 hb).resolve_left fun hba => ha (hba ▸ hk)

theorem histKey_inj : ∀ i < 16, ∀ j < 16, regKey 24 .rstHist i = regKey 24 .rstHist j → i = j := by decide

theorem rget_histPush_zero (s : State) (w : BitVec 64) : rget (histPush s w) 24 .rstHist 0 = w ||| (1 <<< 63) := by
  rw [histPush_eq, rget_rput_same]

theorem rget_histPush_succ (s : State) (w : BitVec 64) {i : Nat} (hi : i < 15) :
    rget (histPush s w) 24 .rstHist (i + 1) = rget s 24 .rstHist i := by
  rw [histPush_eq, rget_rput, if_neg fun h => absurd (histKey_inj _ (by omega) _ (by omega) h) (by omega)]
  refine rget_foldl_rput (fun a ha hk => ?_) s (.inr ⟨14 - i, List.mem_range.2 (by omega), by rw [show 15 - (14 - i) = i + 1 by omega]⟩)
  have ha := List.mem_range.1 ha
  have hkey := histKey_inj _ (by omega) _ (by omega) hk
  rw [show 14 - a = i by omega]

/-- A register that is no entry of the history. -/
theorem rget_histPush_other (s : State) (w : BitVec 64) {d i : Nat} {r : Reg} (h : ∀ j < 16, regKey d r i ≠ regKey 24 .rstHist j) :
    rget (histPush s w) d r i = rget s d r i := by
  rw [histPush_eq, rget_rput, if_neg (h 0 (by omega))]
  refine List.foldlRecOn (motive := fun t => rget t d r i = rget s d r i) _ _ rfl fun t ht j _ => ?_
  rw [rget_rput, if_neg (h _ (by omega)), ht]

/-- What recording a source changes: registers. -/
theorem histPush_only (s : State) (w : BitVec 64) : ∃ rs, histPush s w = { s with regs := rs } := by
  have h : ∃ rs, histShift s = { s with regs := rs } := by
    refine List.foldlRecOn (motive := fun t : State => ∃ rs, t = { s with regs := rs }) _ _ ⟨s.regs, rfl⟩ fun t ht i _ => ?_
    obtain ⟨rs, rfl⟩ := ht
    exact ⟨_, rfl⟩
  obtain ⟨rs, hrs⟩ := h
  exact ⟨_, by rw [histPush_eq, hrs]; rfl⟩

/-! ### What a reset clears -/

namespace RegsCleared
variable {s t u : State} {p : Nat → Dom → Bool} {ks : List Nat}

theorem of_regs (h : Safety.RegsCleared s t p ks) (hr : u.regs = t.regs) : Safety.RegsCleared s u p ks := by
  unfold Safety.RegsCleared
  rw [hr]
  exact h

theorem clearRegs (s : State) (p : Nat → Dom → Bool) (ks : List Nat) : Safety.RegsCleared s (Machine.clearRegs s p) p ks := by
  rw [Safety.RegsCleared, clearRegs_regs]
  constructor
  · intro x hx hc
    simp [hc] at hx
  · rw [List.filter_filter]
    refine List.filter_congr fun x _ => ?_
    cases clearedBy p x.1 <;> simp

theorem rput (h : Safety.RegsCleared s t p ks) {d i : Nat} {r : Reg} (w : BitVec 64) (hk : regKey d r i ∈ ks) :
    Safety.RegsCleared s (Machine.rput t d r i w) p ks := by
  obtain ⟨hin, hsame⟩ := h
  constructor
  · intro x hx hc
    rcases mem_smPut hx with rfl | hx
    · exact hk
    · exact hin x hx hc
  · exact (filter_smPut t.regs _ w (fun k => !clearedBy p k && !ks.contains k) (by simp [hk])).trans hsame

theorem fput (h : Safety.RegsCleared s t p ks) {d i : Nat} {f : Fld} (v : Nat) (hk : regKey d f.reg i ∈ ks) :
    Safety.RegsCleared s (Machine.fput t d i f v) p ks := rput h _ hk

theorem foldl {α : Type} {l : List α} {g : State → α → State} (h : Safety.RegsCleared s t p ks)
    (hg : ∀ u, ∀ a ∈ l, Safety.RegsCleared s u p ks → Safety.RegsCleared s (g u a) p ks) : Safety.RegsCleared s (l.foldl g t) p ks :=
  List.foldlRecOn (motive := fun u => Safety.RegsCleared s u p ks) _ _ h fun u hu a ha => hg u a ha hu

theorem histPush (h : Safety.RegsCleared s t p ks) (hk : ∀ i < 16, regKey 24 .rstHist i ∈ ks) (w : BitVec 64) :
    Safety.RegsCleared s (Machine.histPush t w) p ks :=
  rput (foldl h fun _ _ _ hu => rput hu _ (hk _ (by omega))) _ (hk 0 (by omega))

/-- What was written before the reset cleared it is of no account. -/
theorem of_rput {d i : Nat} {r : Reg} {w : BitVec 64} (h : Safety.RegsCleared (Machine.rput s d r i w) t p ks) (hk : regKey d r i ∈ ks) :
    Safety.RegsCleared s t p ks :=
  ⟨h.1, h.2.trans (filter_smPut s.regs _ w (fun k => !clearedBy p k && !ks.contains k) (by simp [hk]))⟩

end RegsCleared

/-! ### Every core stops -/

theorem coreState_zero (s : State) (x y : Nat × Nat) (h : fget s x.1 x.2 Fl.CORE_STATE_STATE = 0 ∨ x = y) :
    fget (fput s y.1 y.2 Fl.CORE_STATE_STATE 0) x.1 x.2 Fl.CORE_STATE_STATE = 0 := by
  by_cases hk : regKey x.1 .coreState x.2 = regKey y.1 .coreState y.2
  · have hword : rget (fput s y.1 y.2 Fl.CORE_STATE_STATE 0) x.1 .coreState x.2 =
        fldSet Fl.CORE_STATE_STATE (rget s y.1 .coreState y.2) 0 := (rget_rput ..).trans (if_pos hk)
    exact (congrArg (fldOf Fl.CORE_STATE_STATE) hword).trans (fldOf_fldSet _ _ _ (by decide) (by decide))
  · rw [fget_fput_ne _ _ _ _ _ _ _ _ hk]
    exact h.resolve_right fun hxy => hk (by rw [hxy])

theorem stopCores_states (s : State) {x : Nat × Nat} (hx : x ∈ everyCore) : fget (stopCores s) x.1 x.2 Fl.CORE_STATE_STATE = 0 := by
  have hstep (l : List (Nat × Nat)) : ∀ t, fget t x.1 x.2 Fl.CORE_STATE_STATE = 0 ∨ x ∈ l →
      fget (l.foldl (fun s x => fput s x.1 x.2 Fl.CORE_STATE_STATE 0) t) x.1 x.2 Fl.CORE_STATE_STATE = 0 := by
    induction l with
    | nil => exact fun t h => h.resolve_right (by simp)
    | cons y l ih =>
      refine fun t h => ih _ ?_
      by_cases hl : x ∈ l
      · exact .inr hl
      · refine .inl (coreState_zero t x y (h.imp id fun hm => (List.mem_cons.1 hm).resolve_right hl))
  refine hstep _ s ?_
  by_cases h0 : fget s x.1 x.2 Fl.CORE_STATE_STATE = 0
  · exact .inl h0
  · exact .inr (List.mem_filter.2 ⟨hx, by simpa using h0⟩)

theorem stopCores_fuses (s : State) : (stopCores s).fuses = s.fuses :=
  List.foldlRecOn (motive := fun t : State => t.fuses = s.fuses) _ _ rfl fun _ ht _ _ => ht

theorem mem_everyCore {x : Nat × Nat} (h : x ∈ everyCore) : (x.1 = 16 ∨ x.1 = 17) ∧ x.2 < 100 := by
  obtain ⟨d, hd, hc⟩ := List.mem_flatMap.1 h
  obtain ⟨c, hr, rfl⟩ := List.mem_map.1 hc
  exact ⟨by simpa using hd, List.mem_range.1 hr⟩

/-! ### The sources -/

/-- The places that a system reset writes itself. -/
def resetKeys : List Nat :=
  regKey 24 .rstCause 0 :: regKey 24 .rstCtl 0 :: ((List.range 16).map (fun i => regKey 24 .rstHist i) ++ everyCore.map fun x => regKey x.1 .coreState x.2)

theorem histKey_mem {i : Nat} (h : i < 16) : regKey 24 .rstHist i ∈ resetKeys :=
  List.mem_cons_of_mem _ (List.mem_cons_of_mem _ (List.mem_append_left _ (List.mem_map_of_mem (List.mem_range.2 h))))

theorem stateKey_mem {x : Nat × Nat} (h : x ∈ everyCore) : regKey x.1 .coreState x.2 ∈ resetKeys :=
  List.mem_cons_of_mem _ (List.mem_cons_of_mem _ (List.mem_append_right _ (List.mem_map_of_mem h)))

/-- A system reset is in progress, and everything that one clears is clear. -/
structure SystemCleared (s t : State) : Prop where
  kind : t.rst.kind = .system
  emptied : Emptied t
  driven : t.pins.sysRstDriven = true
  persist : t.persist = s.persist
  fuses : t.fuses = s.fuses
  keys : t.sec.keys = s.sec.keys
  mrs : t.sec.mrs = []
  regs : Safety.RegsCleared s t bySystem resetKeys
  states : ∀ x ∈ everyCore, fget t x.1 x.2 Fl.CORE_STATE_STATE = 0

namespace SystemCleared
variable {s t u : State}

theorem clearSystem (s : State) : SystemCleared s (Machine.clearSystem s) := by
  refine ⟨rfl, ⟨rfl, rfl, rfl, rfl, rfl, rfl, rfl, rfl, rfl, rfl, rfl⟩, rfl, rfl, rfl, rfl, rfl, ?_, fun x hx => ?_⟩
  · have h : Safety.RegsCleared s (stopCores (Machine.clearRegs s bySystem)) bySystem resetKeys :=
      RegsCleared.foldl (RegsCleared.clearRegs s bySystem resetKeys) fun u x hx hu =>
        RegsCleared.fput hu 0 (stateKey_mem (List.mem_filter.1 hx).1)
    exact RegsCleared.of_regs h rfl
  · have h := stopCores_states (Machine.clearRegs s bySystem) hx
    unfold fget rget resetWord at h ⊢
    rw [stopCores_fuses] at h
    exact h

theorem of_regsOnly (h : SystemCleared s t) {rs : SMap (BitVec 64)} (hr : Safety.RegsCleared s { t with regs := rs } bySystem resetKeys)
    (hs : ∀ x ∈ everyCore, fget { t with regs := rs } x.1 x.2 Fl.CORE_STATE_STATE = 0) : SystemCleared s { t with regs := rs } :=
  ⟨h.kind, h.emptied, h.driven, h.persist, h.fuses, h.keys, h.mrs, hr, hs⟩

theorem recordCause (h : SystemCleared s t) (source level unit : Nat) : SystemCleared s (Machine.recordCause t source level unit) := by
  have hregs := RegsCleared.histPush (RegsCleared.rput h.regs (causeWord source level unit) (List.mem_cons_self : regKey 24 .rstCause 0 ∈ resetKeys))
    (fun i hi => histKey_mem hi) (causeWord source level unit)
  have hstates : ∀ x ∈ everyCore, fget (Machine.recordCause t source level unit) x.1 x.2 Fl.CORE_STATE_STATE = 0 := by
    intro x hx
    obtain ⟨hd, hc⟩ := mem_everyCore hx
    have hkey {r : Reg} {j : Nat} (hr : r.info.blk ≠ .engB) (hj : j < 1024) : regKey x.1 .coreState x.2 ≠ regKey 24 r j :=
      regKey_ne_of_slot (by decide) hr (by omega) hj (.inl (by omega))
    have hword : rget (Machine.recordCause t source level unit) x.1 .coreState x.2 = rget t x.1 .coreState x.2 := by
      rw [Machine.recordCause, rget_histPush_other _ _ fun j hj => hkey (by decide) (by omega), rget_rput, if_neg (hkey (by decide) (by omega))]
    exact (congrArg (fldOf Fl.CORE_STATE_STATE) hword).trans (h.states x hx)
  obtain ⟨rs, hrs⟩ := histPush_only (Machine.rput t 24 .rstCause 0 (causeWord source level unit)) (causeWord source level unit)
  have hrec : Machine.recordCause t source level unit = { t with regs := rs } := hrs
  rw [hrec] at hstates ⊢
  exact h.of_regsOnly (hrec ▸ hregs) hstates

theorem stayStopped (h : SystemCleared s t) (v : State) : SystemCleared s (Machine.stayStopped v t) := by
  unfold Machine.stayStopped
  split
  · exact ⟨h.kind, h.emptied, h.driven, h.persist, h.fuses, h.keys, h.mrs, h.regs, h.states⟩
  · exact h

end SystemCleared

theorem stayStopped_rget (s t : State) (d i : Nat) (r : Reg) : rget (stayStopped s t) d r i = rget t d r i := by
  unfold stayStopped
  split <;> rfl

theorem rget_recordCause (s : State) (source level unit : Nat) :
    rget (recordCause s source level unit) 24 .rstCause 0 = causeWord source level unit ∧
    rget (recordCause s source level unit) 24 .rstHist 0 = causeWord source level unit ||| (1 <<< 63) := by
  unfold recordCause
  rw [rget_histPush_zero, rget_histPush_other _ _ (by decide), rget_rput_same]
  exact ⟨rfl, rfl⟩

/-- A source of system level while no system or power-on reset is in progress. -/
theorem systemReset_spec {s : State} (h : s.rst.kind.rank < 2) (source unit : Nat) : SystemCleared s (systemReset s source unit) ∧
    rget (systemReset s source unit) 24 .rstCause 0 = causeWord source 2 unit ∧
    rget (systemReset s source unit) 24 .rstHist 0 = causeWord source 2 unit ||| (1 <<< 63) := by
  have hstep : systemReset s source unit = if source = 0x06 then recordCause (clearSystem s) source 2 unit
      else stayStopped s (recordCause (clearSystem s) source 2 unit) := if_neg (by omega)
  have hclear := (SystemCleared.clearSystem s).recordCause source 2 unit
  have hrec := rget_recordCause (clearSystem s) source 2 unit
  rw [hstep]
  split
  · exact ⟨hclear, hrec⟩
  · rw [stayStopped_rget, stayStopped_rget]
    exact ⟨hclear.stayStopped s, hrec⟩

theorem systemReset_absorbed {s : State} (h : 2 ≤ s.rst.kind.rank) (hs : s.rst.stopped = false) (source unit : Nat) :
    systemReset s source unit = histPush s (causeWord source 2 unit) := if_pos ⟨h, by simp [hs]⟩

/-- Settles O48: a system reset is the same, and clears the same, whatever its source. -/
theorem systemResetsClear : Obligations.SystemResetsClear := by
  unfold Obligations.SystemResetsClear
  refine ⟨?pin, ?noPower, ?dome, ?fatal, ?absorbed, ?control, ?rejected, ?history⟩
  case pin =>
    intro s h hp hd
    have hstep : doSysRstN s = systemReset { s with pins := { s.pins with sysRstBoard := true } } 0x06 0 := by
      simp [doSysRstN, hp, hd]
    obtain ⟨hc, hrec⟩ := systemReset_spec (s := { s with pins := { s.pins with sysRstBoard := true } }) h 0x06 0
    exact ⟨_, congrArg Host.Outcome.next hstep, hc.kind, hc.emptied, hc.driven, hc.persist, hc.fuses, hc.keys, hc.mrs, hc.regs, hc.states, hrec⟩
  case noPower =>
    intro s h
    exact congrArg Host.Outcome.next (if_pos (by simp [h]))
  case dome =>
    intro s h hs
    obtain ⟨hc, hrec⟩ := systemReset_spec h 0x07 (unitId 24 0 0)
    exact ⟨_, congrArg Host.Outcome.next (if_neg (by simp [hs])), hc.kind, hc.emptied, hc.driven, hc.persist, hc.fuses, hc.keys, hc.mrs, hc.regs,
      hc.states, hrec⟩
  case fatal =>
    intro u s h
    obtain ⟨hc, hrec⟩ := systemReset_spec h 0x09 u
    exact ⟨_, rfl, hc.kind, hc.emptied, hc.driven, hc.persist, hc.fuses, hc.keys, hc.mrs, hc.regs, hc.states, hrec⟩
  case absorbed =>
    intro u s h hs
    exact congrArg Host.Outcome.next (systemReset_absorbed h hs 0x09 u)
  case control =>
    intro s hw h
    have hstep : rstCtl s 0xA5 2 0 = systemReset (fput s 24 0 Fl.RST_CTL_REJECTED 0) 0x08 0 := by
      simp [rstCtl]
    have hrank : (fput s 24 0 Fl.RST_CTL_REJECTED 0).rst.kind.rank < 2 := h
    obtain ⟨hc, hrec⟩ := systemReset_spec hrank 0x08 0
    have hregs := RegsCleared.of_rput hc.regs (List.mem_cons_of_mem _ List.mem_cons_self : regKey 24 .rstCtl 0 ∈ resetKeys)
    exact ⟨_, congrArg Host.Outcome.next ((onDie_of_alive hw _).trans hstep), hc.kind, hc.emptied, hc.driven, hc.persist, hc.fuses, hc.keys, hc.mrs,
      hregs, hc.states, hrec⟩
  case rejected =>
    intro k s hw hk
    exact congrArg Host.Outcome.next ((onDie_of_alive hw _).trans (if_pos (.inl hk)))
  case history =>
    exact fun s w => ⟨rget_histPush_zero s w, fun i hi => rget_histPush_succ s w hi⟩

end Sys2Proof.Proofs
end

section
/-! Writes of agents without a cache at the home of a line that nobody holds (R346, R349, R353, R354, R357, R360, R361). -/

namespace Sys2Proof.Proofs

open Sys2Proof.Machine Sys2Proof.Safety Sys2Proof.Laws

/-! ### Up to the write itself -/

/-- The places in which a home shows the requests that it serves. -/
def homeKey (h k : Nat) : Prop := k = regKey h .cohWrites 0 ∨ k = regKey h .cohProbes 0 ∨ k = regKey h .cohOccupancy 0

/-- The home has taken a request of a line that no entry names any more; the line itself is as it was. -/
structure Taken (h line : Nat) (s u : State) : Prop where
  rest : ∃ rs hs, u = { s with regs := rs, coh := { s.coh with homes := hs } }
  served : Served s u
  regs : RegsIn (homeKey h) s u
  unheld : dirFind (getHome u h) line = none

/-- What a write does at its home, once the line has no entry. -/
def putWrite (s : State) (h : Nat) (r : CohReq) : State :=
  if r.code = cWrFull ∨ r.code = cWrStash then
    let m := if r.mask = BitVec.allOnes 64 then (r.data, false, s) else memFetch s r.line .none
    let old := if m.2.1 then List.replicate 64 0 else m.1
    let s := sendReturn (linePut m.2.2 r.line (mergeMask old r.data r.mask)) r (farDown s r.line) []
    if r.code = cWrFull then s
    else if stashUnit s r.target then
      let s := setEntry (stashPut s r.target r.line) h r.line true (bitOf (holderOf (bits r.target 13 9)))
      fsat s h 0 Fl.COH_STASH_INSTALLED 1
    else fsat s h 0 Fl.COH_STASH_DROPPED 1
  else
    let m := memFetch s r.line .none
    if m.2.1 then sendReturn m.2.2 r true []
    else
      let new := if r.code = cWrPart then mergeMask m.1 r.data r.mask else rmwBytes m.1 r.clear r.data
      sendReturn (memPut m.2.2 r.line new) r false []

/-- The codes of writes. -/
def isWrite (r : CohReq) : Prop := cWrFull ≤ r.code

theorem finishReq_write {s : State} {h : Nat} {t : Txn} (hc : isWrite t.req) :
    finishReq s h t = putWrite (setEntry s h t.req.line false 0) h t.req := by
  unfold isWrite cWrFull at hc
  unfold finishReq
  dsimp only
  rw [if_neg (by unfold cRdShared; omega), if_neg (by unfold cRdOwn; omega), if_neg (by unfold cUpgrade; omega),
    if_neg (by unfold cRdNc; omega)]
  rfl

theorem countServed_write {s : State} {h code : Nat} (hc : cWrFull ≤ code) : countServed s h code = fsat s h 0 Fl.COH_WRITES_DEVICE 1 := by
  unfold cWrFull at hc
  unfold countServed
  rw [if_neg (by unfold cRdOwn cUpgrade; omega), if_neg (by unfold cRdShared cRdNc; omega)]

theorem dirFind_filter (x : Home) (line : Nat) : dirFind { x with dir := x.dir.filter (·.line != line) } line = none := by
  refine List.find?_eq_none.2 fun e he => ?_
  simpa using (List.mem_filter.1 he).2

theorem setEntry_none (s : State) (h line : Nat) : dirFind (getHome (setEntry s h line false 0) h) line = none := by
  unfold setEntry modHome
  rw [getHome_putHome]
  exact dirFind_filter _ line

/-- A write to a line without an entry waits for no answer. -/
theorem serveReq_write {s : State} {h : Nat} {r : CohReq} (hc : isWrite r) (he : dirFind (getHome s h) r.line = none) (hh : 16 ≤ h ∧ h < 22)
    (hroom : needsEntry s r = true → (dirWays (getHome s h) h r.line).length < 16) :
    ∃ u, Taken h r.line s u ∧ serveReq s h r = putWrite u h r := by
  have has : asServed s r = r := if_neg fun hup => absurd hc (by unfold isWrite; rw [hup.1]; decide)
  have hno : ¬ (needsEntry s r = true ∧ (!hasRoom (getHome s h) h r.line) = true) := by
    rintro ⟨hn, hr⟩
    simp [hasRoom, hroom hn] at hr
  have hserve : serveReq s h r = closeReq (openTxn s h r).1 h ⟨r.line, r, [], [], false⟩ := by
    unfold serveReq
    dsimp only
    rw [has, if_neg hno, openTxn, he]
    rfl
  have hopen : (openTxn s h r).1 = (fhigh (modHome (fsat (fsat s h 0 Fl.COH_WRITES_DEVICE 1) h 0 Fl.COH_PROBES_RECALLS 0) h fun x => { x with
      dir := if needsEntry (fsat (fsat s h 0 Fl.COH_WRITES_DEVICE 1) h 0 Fl.COH_PROBES_RECALLS 0) r ∧ (none : Option DirEntry).isNone
        then x.dir ++ [⟨r.line, false, 0⟩] else x.dir
      txns := x.txns ++ [⟨r.line, r, [], [], false⟩] }) h 0 Fl.COH_OCCUPANCY_OPEN_HIGH_WATER ((getHome s h).txns.length + 1)) := by
    simp only [openTxn, he, probesFor, countServed_write hc]
    rfl
  refine ⟨setEntry (modHome (openTxn s h r).1 h fun x => { x with txns := x.txns.filter fun y => y.line != r.line }) h r.line false 0, ?_, ?_⟩
  · have hs : Served s (openTxn s h r).1 := by
      rw [hopen]
      exact served_coh ((served_coh (served_coh (.refl s) hh _ rfl) hh _ rfl).trans (modHome_served _ _ _)) hh _ rfl
    have hr : RegsIn (homeKey h) s (openTxn s h r).1 := by
      rw [hopen]
      have hcount : RegsIn (homeKey h) s (fsat (fsat s h 0 Fl.COH_WRITES_DEVICE 1) h 0 Fl.COH_PROBES_RECALLS 0) :=
        ((RegsIn.refl s).fput (Or.inl rfl)).fput (Or.inr (Or.inl rfl))
      have hmod (t : State) (f : Home → Home) (n : Nat) (ht : RegsIn (homeKey h) s t) :
          RegsIn (homeKey h) s (fhigh (modHome t h f) h 0 Fl.COH_OCCUPANCY_OPEN_HIGH_WATER n) :=
        have hm : RegsIn (homeKey h) s (modHome t h f) := ht.trans (.of_regs rfl rfl)
        hm.fput (Or.inr (Or.inr rfl))
      exact hmod _ _ _ hcount
    have hrest : ∃ rs hs, (openTxn s h r).1 = { s with regs := rs, coh := { s.coh with homes := hs } } := by
      rw [hopen]
      exact ⟨_, _, rfl⟩
    obtain ⟨rs, hs', hrest⟩ := hrest
    refine ⟨?_, (hs.trans (modHome_served _ _ _)).trans (modHome_served _ _ _), hr.trans (.of_regs rfl rfl), setEntry_none _ _ _⟩
    rw [hrest]
    exact ⟨_, _, rfl⟩
  · rw [hserve, closeReq]
    exact finishReq_write hc

/-- A write arrives at the home of an idle line that nobody holds. -/
theorem arriveReq_write {s : State} {h : Nat} {r : CohReq} (hc : isWrite r) (hh : homeOf s r.line = h) (hd : deadLine s r.line = false)
    (hb : lineBusy (getHome s h) r.line = false) (he : dirFind (getHome s h) r.line = none)
    (hroom : needsEntry s r = true → (dirWays (getHome s h) h r.line).length < 16) :
    ∃ u, Taken h r.line s u ∧ arriveReq s h r = showHome (putWrite u h r) h := by
  obtain ⟨u, hu, hserve⟩ := serveReq_write hc he (hh ▸ homeOf_range s r.line) hroom
  exact ⟨u, hu, by rw [arriveReq_of_quiet hd hh hb, hserve]⟩

/-! ### The line's bytes -/

theorem memReadN_memWriteN (m : Memory) (a : Nat) (bs : List Byte) (h : m.wf = true) : memReadN (memWriteN m a bs) a bs.length = bs := by
  refine List.ext_getElem (by simp) fun i _ hi => ?_
  simp only [memReadN, List.getElem_map, List.getElem_range]
  exact memRead_memWriteN_in bs m a i h hi

/-- Under a mask of every byte nothing old is left. -/
theorem mergeMask_all {old new : List Byte} (h : old.length = new.length) (h64 : new.length ≤ 64) :
    mergeMask old new (BitVec.allOnes 64) = new := by
  refine List.ext_getElem (by rw [length_mergeMask, h, Nat.min_self]) fun i hi hn => ?_
  exact getElem_mergeMask hi hn (by rw [BitVec.getLsbD_allOnes]; simp; omega)

theorem length_rmwBytes (old clear set : List Byte) : (rmwBytes old clear set).length = min (min old.length clear.length) set.length := by
  simp [rmwBytes]

/-- The state once a line's bytes have been replaced. -/
def heldLine (s : State) (line : Nat) (bs : List Byte) : State :=
  { s with mem := memWriteN s.mem line bs, poison := s.poison.filter (· != line), flaws := smDel s.flaws line }

theorem heldLine_poison (s : State) (line : Nat) (bs : List Byte) : (heldLine s line bs).poison.contains line = false := by simp [heldLine]

/-- A line of a working channel takes whole lines. -/
theorem linePut_alive {s : State} {line : Nat} {bs : List Byte} (hd : deadLine s line = false) (hl : line % 64 = 0) (hb : bs.length = 64) :
    linePut s line bs = heldLine s line bs := by
  have hline : lineOf line = line := by unfold lineOf; omega
  have hd' : deadLine { s with poison := s.poison.filter (· != line), flaws := smDel s.flaws line } line = false := hd
  rw [linePut, List.take_of_length_le hb.le, memPut, hline, hd', if_neg (by simp), heldLine]

theorem memPut_alive {s : State} {line : Nat} {bs : List Byte} (hd : deadLine s line = false) (hl : line % 64 = 0) :
    memPut s line bs = { s with mem := memWriteN s.mem line bs } := by
  have hline : lineOf line = line := by unfold lineOf; omega
  rw [memPut, hline, hd, if_neg (by simp)]

theorem farDown_of_alive {s : State} {line : Nat} (h : deadLine s line = false) : farDown s line = false := by
  unfold deadLine at h
  unfold farDown
  cases hk : paKind s line <;> simp_all

/-- What memory holds after its line was written, and what it holds elsewhere. -/
theorem line_written {m : Memory} {line : Nat} {bs : List Byte} (hw : m.wf = true) (hb : bs.length = 64) :
    memReadN (memWriteN m line bs) line 64 = bs ∧ ∀ a, (a < line ∨ line + 64 ≤ a) → memRead (memWriteN m line bs) a = memRead m a :=
  ⟨hb ▸ memReadN_memWriteN m line bs hw, fun _ ha => memRead_memWriteN_out bs m line _ hw (by rwa [hb])⟩

namespace Taken
variable {h line : Nat} {s u : State} (hu : Taken h line s u)
include hu

theorem deadLine : Machine.deadLine u line = Machine.deadLine s line := congrFun hu.served.map.deadLine line

theorem farDown : Machine.farDown u line = Machine.farDown s line := by
  simp only [Machine.farDown, hu.served.map.paKind, hu.served.map.farUp]

theorem mem : u.mem = s.mem := by obtain ⟨rs, hs, rfl⟩ := hu.rest; rfl

theorem cores : u.cores = s.cores := by obtain ⟨rs, hs, rfl⟩ := hu.rest; rfl

theorem poison : u.poison = s.poison := by obtain ⟨rs, hs, rfl⟩ := hu.rest; rfl

theorem flaws : u.flaws = s.flaws := by obtain ⟨rs, hs, rfl⟩ := hu.rest; rfl

theorem returned : u.coh.returned = s.coh.returned := by obtain ⟨rs, hs, rfl⟩ := hu.rest; rfl

theorem l3 : u.coh.l3 = s.coh.l3 := by obtain ⟨rs, hs, rfl⟩ := hu.rest; rfl

theorem link : u.coh.link = s.coh.link := by obtain ⟨rs, hs, rfl⟩ := hu.rest; rfl

theorem poisoned : Machine.poisoned u line = Machine.poisoned s line := by
  have hmap := hu.served.map
  simp only [Machine.poisoned, hu.poison, hmap.paKind, hmap.hbmDecode, hmap.failedPcs, hmap.ddrDecode,
    hmap.ddrPopulation (f := Fl.DDR_POPULATION_FAILED) rfl]

/-- What a sound line reads. -/
theorem memFetch (hp : Machine.poisoned s line = false) (hf : Machine.farDown s line = false) (hn : smGet s.flaws line = none) :
    Machine.memFetch u line .none = (memReadN s.mem line 64, false, { u with flaws := smDel u.flaws line }) := by
  have hpu := hu.poisoned.trans hp
  have hecc : memEcc u line .none = { u with flaws := smDel u.flaws line } := by
    have hfind : findEcc u line .none = .none := by simp only [findEcc, hu.flaws, hn]
    rw [memEcc, hpu, hfind]
    rfl
  have hpt : Machine.poisoned { u with flaws := smDel u.flaws line } line = false := hpu
  unfold Machine.memFetch
  dsimp only
  rw [hu.farDown, hf, if_neg (by simp), hecc, hpt, ← hu.mem]

end Taken

/-! ### The writes -/

/-- WR_FULL, and WR_STASH up to its stash. -/
theorem putWrite_full {u : State} {h : Nat} {r : CohReq} (hc : r.code = cWrFull ∨ r.code = cWrStash) (hm : r.mask = BitVec.allOnes 64)
    (hr : r.data.length = 64) (hd : deadLine u r.line = false) (hl : r.line % 64 = 0) :
    putWrite u h r =
      let v : State := sendReturn (heldLine u r.line r.data) r false []
      if r.code = cWrFull then v
      else if stashUnit v r.target then
        fsat (setEntry (stashPut v r.target r.line) h r.line true (bitOf (holderOf (bits r.target 13 9)))) h 0 Fl.COH_STASH_INSTALLED 1
      else fsat v h 0 Fl.COH_STASH_DROPPED 1 := by
  rw [putWrite, if_pos hc, if_pos hm]
  simp only [Bool.false_eq_true, if_false]
  rw [hm, mergeMask_all rfl hr.le, linePut_alive hd hl hr, farDown_of_alive hd]

/-- WR_PART and RMW_HOME of a line that reads soundly. -/
theorem putWrite_merge {s u : State} {h : Nat} {r : CohReq} (hu : Taken h r.line s u) (hc : r.code = cWrPart ∨ r.code = cRmwHome)
    (hp : poisoned s r.line = false) (hf : farDown s r.line = false) (hn : smGet s.flaws r.line = none) (hd : deadLine s r.line = false)
    (hl : r.line % 64 = 0) : putWrite u h r = sendReturn { u with
      flaws := smDel u.flaws r.line
      mem := memWriteN u.mem r.line (if r.code = cWrPart then mergeMask (memReadN s.mem r.line 64) r.data r.mask
        else rmwBytes (memReadN s.mem r.line 64) r.clear r.data) } r false [] := by
  have hd' : deadLine { u with flaws := smDel u.flaws r.line } r.line = false := hu.deadLine.trans hd
  have hcode : ¬ (r.code = cWrFull ∨ r.code = cWrStash) := by
    rcases hc with hc | hc <;> rw [hc] <;> decide
  rw [putWrite, if_neg hcode, hu.memFetch hp hf hn]
  dsimp only
  rw [if_neg (by simp), memPut_alive hd' hl]

/-! ### Stashes -/

theorem bitOf_ne_zero {n : Nat} (h : n < 6) : bitOf n ≠ 0 := by
  have hall : ∀ n < 6, bitOf n ≠ 0 := by decide
  exact hall n h

/-- An entry that was recorded is found. -/
theorem dirFind_dirSet (x : Home) (line : Nat) (em : Bool) {v : BitVec 6} (hv : v ≠ 0) : dirFind (dirSet x line em v) line = some ⟨line, em, v⟩ := by
  unfold dirSet dirFind
  rw [if_neg hv]
  split
  · rename_i h
    obtain ⟨e, he, hl⟩ := List.any_eq_true.1 h
    have hmem : (⟨line, em, v⟩ : DirEntry) ∈ x.dir.map fun d => if d.line = line then ⟨line, em, v⟩ else d :=
      List.mem_map.2 ⟨e, he, if_pos (by simpa using hl)⟩
    cases hf : (x.dir.map fun d => if d.line = line then ⟨line, em, v⟩ else d).find? (·.line == line) with
    | none => exact absurd (List.find?_eq_none.1 hf _ hmem) (by simp)
    | some e =>
      obtain ⟨d, -, rfl⟩ := List.mem_map.1 (List.mem_of_find?_eq_some hf)
      have hline : (if d.line = line then (⟨line, em, v⟩ : DirEntry) else d).line = line := by simpa using List.find?_some hf
      by_cases hd : d.line = line
      · rw [if_pos hd]
      · rw [if_neg hd] at hline
        exact absurd hline hd
  · rename_i h
    have hnone : x.dir.find? (·.line == line) = none := by
      rw [List.find?_eq_none]
      intro e he
      simp only [List.any_eq_true, not_exists, not_and] at h
      exact h e he
    simp [hnone]

theorem holderCopies_ne_nil {s : State} {holder line : Nat} {x : CacheLine} (hl : x.line = line)
    (hx : x ∈ if holder < 2 then (s.cores.filter fun c => c.1 / 128 == holderDie holder).flatMap (fun c => c.2.l2) ++ smGetD s.coh.l3 [] (holderDie holder)
      else smGetD s.coh.link [] (holderDie holder)) : holderCopies s holder line ≠ [] :=
  List.ne_nil_of_mem (List.mem_filter.2 ⟨hx, by simp [hl]⟩)

theorem holderDie_of_host {d : Nat} (hd : d = 16 ∨ d = 17) : holderOf d < 2 ∧ holderDie (holderOf d) = d := by
  rcases hd with rfl | rfl <;> decide

theorem holderDie_of_hub {d : Nat} (hd : 18 ≤ d ∧ d < 22) : 2 ≤ holderOf d ∧ holderOf d < 6 ∧ holderDie (holderOf d) = d := by
  unfold holderDie holderOf
  rw [if_neg (by omega), if_neg (by omega)]
  omega

theorem mem_cacheSet (l : List CacheLine) (v : Option Nat) (c : CacheLine) : c ∈ cacheSet l v c := by simp [cacheSet]

theorem cacheVictim_state (s : State) (k : CacheKind) (l : List Nat) (line : Nat) : ∃ n, (cacheVictim s k l line).2 = { s with fresh := n } := by
  unfold cacheVictim
  dsimp only
  split
  · exact ⟨s.fresh, rfl⟩
  · exact ⟨_, rfl⟩

theorem putL3_holds (s : State) {d : Nat} (hd : d = 16 ∨ d = 17) (c : CacheLine) : holderCopies (putL3 s d c) (holderOf d) c.line ≠ [] := by
  obtain ⟨hh, hdie⟩ := holderDie_of_host hd
  refine holderCopies_ne_nil (x := c) rfl ?_
  rw [if_pos hh, hdie, putL3]
  refine List.mem_append_right _ ?_
  rw [smGetD_smPut, if_pos rfl]
  exact mem_cacheSet _ _ c

theorem putLink_holds (s : State) {d : Nat} (hd : 18 ≤ d ∧ d < 22) (c : CacheLine) : holderCopies (putLink s d c) (holderOf d) c.line ≠ [] := by
  obtain ⟨hh, -, hdie⟩ := holderDie_of_hub hd
  refine holderCopies_ne_nil (x := c) rfl ?_
  rw [if_neg (by omega), hdie, putLink]
  dsimp only
  rw [smGetD_smPut, if_pos rfl]
  exact mem_cacheSet _ _ c

theorem putL3_rest (s : State) (d : Nat) (c : CacheLine) : (putL3 s d c).mem = s.mem ∧ (putL3 s d c).cores = s.cores := by
  obtain ⟨n, hn⟩ := cacheVictim_state s .l3 ((smGetD s.coh.l3 [] d).map (·.line)) c.line
  unfold putL3
  dsimp only
  rw [hn]
  exact ⟨rfl, rfl⟩

theorem putLink_mem (s : State) (d : Nat) (c : CacheLine) : (putLink s d c).mem = s.mem := by
  obtain ⟨n, hn⟩ := cacheVictim_state s .link ((smGetD s.coh.link [] d).map (·.line)) c.line
  unfold putLink
  dsimp only
  rw [hn]

theorem leaveL2_rest (s : State) (d : Nat) (x : CacheLine) : (leaveL2 s d x).mem = s.mem ∧ (leaveL2 s d x).cores = s.cores := by
  unfold leaveL2
  split
  · exact ⟨rfl, rfl⟩
  · dsimp only
    split
    · exact ⟨rfl, rfl⟩
    · exact putL3_rest _ d x

/-- A line that comes into an L2 is in it, whatever leaves. -/
theorem putL2_rest (s : State) (d c : Nat) (x : CacheLine) : (putL2 s d c x).mem = s.mem ∧
    ∃ k, x ∈ k.l2 ∧ (putL2 s d c x).cores = smPut s.cores (coreKey d c) k := by
  obtain ⟨n, hn⟩ := cacheVictim_state s .l2 ((getCore s d c).l2.map (·.line)) x.line
  have hput (v : Option Nat) : let t := modCore { s with fresh := n } d c fun k => trimL1 { k with l2 := cacheSet k.l2 v x }
      t.mem = s.mem ∧ ∃ k, x ∈ k.l2 ∧ t.cores = smPut s.cores (coreKey d c) k :=
    ⟨rfl, _, mem_cacheSet _ v x, rfl⟩
  unfold putL2
  dsimp only
  rw [hn]
  split
  · exact hput _
  · rw [(leaveL2_rest _ _ _).1, (leaveL2_rest _ _ _).2]
    exact hput _

theorem putL2_holds (s : State) {d c : Nat} (hd : d = 16 ∨ d = 17) (hc : c < 100) (x : CacheLine) :
    holderCopies (putL2 s d c x) (holderOf d) x.line ≠ [] := by
  obtain ⟨hh, hdie⟩ := holderDie_of_host hd
  obtain ⟨-, k, hx, hcores⟩ := putL2_rest s d c x
  refine holderCopies_ne_nil (x := x) rfl ?_
  rw [if_pos hh, hdie, hcores]
  refine List.mem_append_left _ (List.mem_flatMap.2 ⟨_, List.mem_filter.2 ⟨mem_smPut_self s.cores (coreKey d c) k, ?_⟩, hx⟩)
  have hkey : coreKey d c / 128 = d := by unfold coreKey; omega
  simp [hkey]

/-- A unit that can take a line is a core, a slice or a hub. -/
theorem stashUnit_cases {s : State} {tg : Nat} (h : stashUnit s tg = true) :
    (bits tg 15 14 = 1 ∧ (bits tg 13 9 = 16 ∨ bits tg 13 9 = 17) ∧ bits tg 6 0 < 100 ∧ coreUp s (bits tg 13 9) (bits tg 6 0) = true) ∨
    (bits tg 15 14 = 2 ∧ (bits tg 13 9 = 16 ∨ bits tg 13 9 = 17)) ∨
    (bits tg 15 14 = 3 ∧ (18 ≤ bits tg 13 9 ∧ bits tg 13 9 < 22)) := by
  unfold stashUnit at h
  dsimp only at h
  split at h <;> simp_all

theorem stashPut_holds {s v : State} {tg : Nat} (h : stashUnit s tg = true) (line : Nat) :
    holderCopies (stashPut v tg line) (holderOf (bits tg 13 9)) line ≠ [] ∧ (stashPut v tg line).mem = v.mem ∧ holderOf (bits tg 13 9) < 6 := by
  unfold stashPut
  rcases stashUnit_cases h with ⟨hk, hd, hc, -⟩ | ⟨hk, hd⟩ | ⟨hk, hd⟩ <;> rw [hk]
  · exact ⟨putL2_holds v hd hc _, (putL2_rest ..).1, (holderDie_of_host hd).1.trans (by decide)⟩
  · exact ⟨putL3_holds v hd _, (putL3_rest ..).1, (holderDie_of_host hd).1.trans (by decide)⟩
  · exact ⟨putLink_holds v hd _, putLink_mem .., (holderDie_of_hub hd).2.1⟩

namespace Taken
variable {h line : Nat} {s u : State} (hu : Taken h line s u)
include hu

theorem coreUp (hh : 16 ≤ h ∧ h < 22) {d i : Nat} (hd : d = 16 ∨ d = 17) (hi : i < 100) : Machine.coreUp u d i = Machine.coreUp s d i := by
  have hkey : ¬ homeKey h (regKey d .coreState i) := by
    have hslot : d = h → dieSlot d .coreB ≠ dieSlot h .cohB := by
      rintro rfl
      rcases hd with rfl | rfl <;> decide
    have hne (r : Reg) (hr : r.info.blk = .cohB) : regKey d .coreState i ≠ regKey h r 0 :=
      regKey_ne_of_slot (by decide) (by simp [hr]) (by omega) (by omega) (by
        rw [hr]
        exact (Decidable.em (d = h)).symm.imp id hslot)
    rintro (hk | hk | hk)
    · exact hne .cohWrites rfl hk
    · exact hne .cohProbes rfl hk
    · exact hne .cohOccupancy rfl hk
  have hf : fget u d i Fl.CORE_STATE_STATE = fget s d i Fl.CORE_STATE_STATE := hu.regs.fget hkey
  rw [Machine.coreUp, hf, Machine.coreUp]

theorem windowDead (d : Nat) : Machine.windowDead u d = Machine.windowDead s d := by
  have hmap := hu.served.map
  simp only [Machine.windowDead, heldInReset, hmap.rst, diePart, hmap.modeOf]

theorem stashUnit (hh : 16 ≤ h ∧ h < 22) (tg : Nat) : Machine.stashUnit u tg = Machine.stashUnit s tg := by
  unfold Machine.stashUnit
  dsimp only
  split
  · by_cases hd : bits tg 13 9 = 16 ∨ bits tg 13 9 = 17
    · by_cases hi : bits tg 6 0 < 100
      · rw [hu.coreUp hh hd hi]
      · rw [decide_eq_false hi, Bool.and_false, Bool.false_and, Bool.false_and]
    · have hno : (bits tg 13 9 == 16 || bits tg 13 9 == 17) = false := by simpa using hd
      rw [hno, Bool.false_and, Bool.false_and, Bool.false_and]
  · rfl
  · rw [hu.windowDead]
  · rfl

end Taken

/-! ### The commands -/

theorem getHome_setEntry (s : State) (h line : Nat) (em : Bool) (v : BitVec 6) : getHome (setEntry s h line em v) h = dirSet (getHome s h) line em v := by
  rw [setEntry, modHome, getHome_putHome]

/-- What the end of a stash leaves as it was. -/
theorem stash_shown (v : State) (h line : Nat) (em : Bool) (w : BitVec 6) :
    let t := showHome (fsat (setEntry v h line em w) h 0 Fl.COH_STASH_INSTALLED 1) h
    t.mem = v.mem ∧ getHome t h = dirSet (getHome v h) line em w ∧ ∀ holder l, holderCopies t holder l = holderCopies v holder l :=
  ⟨rfl, getHome_setEntry v h line em w, fun _ _ => rfl⟩

theorem drop_shown (v : State) (h : Nat) :
    let t := showHome (fsat v h 0 Fl.COH_STASH_DROPPED 1) h
    t.mem = v.mem ∧ getHome t h = getHome v h ∧ t.cores = v.cores ∧ t.coh = v.coh := ⟨rfl, rfl, rfl, rfl⟩

theorem stashKey_ne {h : Nat} {r : Reg} (hr : r = .cohWrites ∨ r = .cohProbes ∨ r = .cohOccupancy) : regKey h .cohStash 0 ≠ regKey h r 0 := by
  intro hk
  have hb : r.info.blk ≠ .engB := by rcases hr with rfl | rfl | rfl <;> decide
  obtain ⟨-, -, hoff⟩ := regKey_inj (by decide) hb (by omega) (by omega) hk
  rcases hr with rfl | rfl | rfl <;> exact absurd hoff (by decide)

theorem fget_showHome_dropped (s : State) (h : Nat) : fget (showHome s h) h 0 Fl.COH_STASH_DROPPED = fget s h 0 Fl.COH_STASH_DROPPED := by
  have hne {f : Fld} (hf : f.reg = .cohOccupancy) (t : State) (v : Nat) : fget (fput t h 0 f v) h 0 Fl.COH_STASH_DROPPED = fget t h 0 Fl.COH_STASH_DROPPED :=
    fget_fput_ne _ _ _ _ _ _ _ _ (by rw [hf]; exact stashKey_ne (.inr (.inr rfl)))
  exact (hne rfl _ _).trans ((hne rfl _ _).trans (hne rfl _ _))

theorem Taken.dropped {h line : Nat} {s u : State} (hu : Taken h line s u) : fget u h 0 Fl.COH_STASH_DROPPED = fget s h 0 Fl.COH_STASH_DROPPED :=
  hu.regs.fget fun hk => by
    rcases hk with hk | hk | hk
    · exact stashKey_ne (.inl rfl) hk
    · exact stashKey_ne (.inr (.inl rfl)) hk
    · exact stashKey_ne (.inr (.inr rfl)) hk

/-- A stash up to its target: the line holds its bytes, and the unit asked for is as before. -/
theorem arriveReq_stash {s : State} {h line u tg : Nat} {data : List Byte} (hh : homeOf s line = h) (hb : lineBusy (getHome s h) line = false)
    (he : dirFind (getHome s h) line = none) (hroom : (dirWays (getHome s h) h line).length < 16) (hd : deadLine s line = false)
    (hl : line % 64 = 0) (hdata : data.length = 64) :
    ∃ v, v.mem = memWriteN s.mem line data ∧ dirFind (getHome v h) line = none ∧ v.cores = s.cores ∧ v.coh.l3 = s.coh.l3 ∧
      v.coh.link = s.coh.link ∧ fget v h 0 Fl.COH_STASH_DROPPED = fget s h 0 Fl.COH_STASH_DROPPED ∧
      exec (.wrStash h line u tg data) s = .next (showHome (if stashUnit s tg then
        fsat (setEntry (stashPut v tg line) h line true (bitOf (holderOf (bits tg 13 9)))) h 0 Fl.COH_STASH_INSTALLED 1
        else fsat v h 0 Fl.COH_STASH_DROPPED 1) h) := by
  obtain ⟨w, hu, ht⟩ := arriveReq_write (r := { bareReq cWrStash line 6 u .none with target := tg, data := data })
    (show cWrFull ≤ cWrStash by decide) hh hd hb he fun _ => hroom
  have hput := putWrite_full (u := w) (h := h) (r := { bareReq cWrStash line 6 u .none with target := tg, data := data }) (.inr rfl) rfl hdata
    (hu.deadLine.trans hd) hl
  have hstash := hu.stashUnit (hh ▸ homeOf_range s line) tg
  rw [hput] at ht
  refine ⟨sendReturn (heldLine w line data) { bareReq cWrStash line 6 u .none with target := tg, data := data } false [],
    by rw [← hu.mem]; rfl, hu.unheld, hu.cores, hu.l3, hu.link, hu.dropped, (congrArg Host.Outcome.next ht).trans ?_⟩
  rw [← hstash]
  rfl

/-- Settles O25: a write to a line without an entry waits for nobody, so what it does at its home is done at once. -/
theorem homesWriteLines : Obligations.HomesWriteLines := by
  unfold Obligations.HomesWriteLines
  refine ⟨?full, ?part, ?rmw, ?stash, ?dropped⟩
  case full =>
    intro h line u data s hh _ _ _ hb he hd hl hw hdata
    obtain ⟨w, hu, ht⟩ := arriveReq_write (r := { bareReq cWrFull line 6 u .none with data := data })
      (show cWrFull ≤ cWrFull by decide) hh hd hb he (fun hn => absurd hn (by simp [needsEntry, bareReq, cWrFull, cUpgrade, cWrStash]))
    rw [putWrite_full (.inl rfl) rfl hdata (hu.deadLine.trans hd) hl] at ht
    obtain ⟨hline, hout⟩ := line_written (line := line) hw hdata
    rw [← hu.mem] at hline hout ⊢
    refine ⟨_, congrArg Host.Outcome.next ht, hline, heldLine_poison w line data, hout, ?_, hu.cores⟩
    rw [← hu.returned]
    rfl
  case part =>
    intro h line u mask data s hh _ _ _ hb he hd hl hw hp hf hn hdata
    obtain ⟨w, hu, ht⟩ := arriveReq_write (r := { bareReq cWrPart line 6 u .none with mask := mask, data := data })
      (show cWrFull ≤ cWrPart by decide) hh hd hb he (fun hn => absurd hn (by simp [needsEntry, bareReq, cWrPart, cUpgrade, cWrStash]))
    rw [putWrite_merge hu (.inl rfl) hp hf hn hd hl] at ht
    obtain ⟨hline, hout⟩ := line_written (m := w.mem) (line := line) (bs := mergeMask (memReadN s.mem line 64) data mask) (hu.mem ▸ hw)
      (by rw [length_mergeMask, length_memReadN, hdata, Nat.min_self])
    exact ⟨_, congrArg Host.Outcome.next ht, hline, fun a ha => (hout a ha).trans (by rw [hu.mem]), hu.cores⟩
  case rmw =>
    intro h line u clr st s hh _ _ _ hb he hd hl hw hp hf hn hclr hst
    obtain ⟨w, hu, ht⟩ := arriveReq_write (r := { bareReq cRmwHome line 6 u .none with clear := clr, data := st })
      (show cWrFull ≤ cRmwHome by decide) hh hd hb he (fun hn => absurd hn (by simp [needsEntry, bareReq, cRmwHome, cUpgrade, cWrStash]))
    rw [putWrite_merge hu (.inr rfl) hp hf hn hd hl] at ht
    obtain ⟨hline, hout⟩ := line_written (m := w.mem) (line := line) (bs := rmwBytes (memReadN s.mem line 64) clr st) (hu.mem ▸ hw)
      (by rw [length_rmwBytes, length_memReadN, hclr, hst, Nat.min_self, Nat.min_self])
    exact ⟨_, congrArg Host.Outcome.next ht, hline, fun a ha => (hout a ha).trans (by rw [hu.mem]), hu.cores⟩
  case stash =>
    intro h line u tg data s hh _ _ _ hb he hroom hd hl hw hdata htg
    obtain ⟨v, hmem, -, -, -, -, -, ht⟩ := arriveReq_stash (u := u) (tg := tg) hh hb he hroom hd hl hdata
    rw [htg, if_pos rfl] at ht
    obtain ⟨hholds, hkeeps, hholder⟩ := stashPut_holds (v := v) htg line
    obtain ⟨hm, hhome, hcopies⟩ := stash_shown (stashPut v tg line) h line true (bitOf (holderOf (bits tg 13 9)))
    refine ⟨_, ht, ?_, ?_, ?_⟩
    · rw [hm, hkeeps, hmem]
      exact (line_written hw hdata).1
    · rw [hhome]
      exact dirFind_dirSet _ _ _ (bitOf_ne_zero hholder)
    · rw [hcopies]
      exact hholds
  case dropped =>
    intro h line u tg data s hh _ _ _ hb he hroom hd hl hw hdata htg
    obtain ⟨v, hmem, hgone, hcores, hl3, hlink, hdropped, ht⟩ := arriveReq_stash (u := u) (tg := tg) hh hb he hroom hd hl hdata
    rw [htg, if_neg (by simp)] at ht
    obtain ⟨hm, hhome, hc, hcoh⟩ := drop_shown v h
    refine ⟨_, ht, ?_, ?_, hc.trans hcores, ?_, ?_, ?_⟩
    · rw [hm, hmem]
      exact (line_written hw hdata).1
    · rw [hhome]
      exact hgone
    · rw [hcoh]
      exact hl3
    · rw [hcoh]
      exact hlink
    · rw [fget_showHome_dropped, fget_fsat _ _ _ _ _ (by decide) (by decide), hdropped]

end Sys2Proof.Proofs
end

section
/-! Queue pairs: how they start and stop, and how their requests complete (R438 to R441). -/

namespace Sys2Proof.Proofs

open Sys2Proof.Machine Sys2Proof.Safety Sys2Proof.Laws

/-! ### What a record leaves of the address map -/

/-- The registers that the address map reads lie below those in which cores report, whatever their dies. -/
theorem not_drainPlace_map {d i : Nat} {r : Reg} (h : mapReg r i) : ¬ drainPlace 16 0 (regKey d r i) := by
  have hi : i < 1024 := by rcases h with h | h | h | h | h | h <;> omega
  rintro (⟨e, q, hq, hk⟩ | ⟨e, c, q, hc, hq, hk⟩)
  · exact regKey_map_ne_report hq h hk
  · have hc' : c < 1024 := by rcases hc with ⟨-, hc⟩ | ⟨-, rfl⟩ <;> omega
    have hq' : q.info.blk ≠ .engB := by rcases hq with rfl | rfl <;> decide
    obtain ⟨-, -, hoff⟩ := regKey_inj h.blk_ne_eng hq' hi hc' hk
    rcases h with ⟨rfl, hi⟩ | ⟨rfl, hi⟩ | ⟨rfl, hi⟩ | ⟨rfl, hi⟩ | ⟨rfl, hi⟩ | ⟨rfl, hi⟩ <;> rcases hq with rfl | rfl <;>
      simp only [slotOff, Reg.info] at hoff <;> omega

/-- A record is written at its line's home; the address map stays. -/
theorem recWrite_map (s : State) (a : Nat) (bs : List Byte) : SameMap s (recWrite s a bs) := by
  have hh : HomesOnly s (recWrite s a bs) := (HomesOnly.refl s).recWrite
  have hd : Drains 16 0 s (recWrite s a bs) := (Drains.refl s).ncReq
  exact ⟨hh.get (f := State.rst), hh.get (f := State.failedPcs), fun _ _ _ hr => hd.rget (not_drainPlace_map hr)⟩

theorem SameMap.ringRefusal {s t : State} (h : SameMap s t) (c a : Nat) : ringRefusal t c a = Machine.ringRefusal s c a := by
  simp only [Machine.ringRefusal, accelRefusal, ctxPart, h.modeOf, h.paKind, h.hbmPart, h.farUp] <;> rfl

/-! ### Records of queue pairs -/

@[simp] theorem getQp_putQp (s : State) (pd n : Nat) (q : Qp) : getQp (putQp s pd n q) pd n = some q := smGet_smPut_same _ _ _

theorem modQp_of_get {s : State} {pd n : Nat} {q : Qp} (h : getQp s pd n = some q) (f : Qp → Qp) : modQp s pd n f = putQp s pd n (f q) := by
  rw [modQp, h]

/-- What a completed request of a queue pair leaves alone. -/
structure Recorded (s t : State) : Prop where
  map : SameMap s t
  launches : t.launches = s.launches
  ctxs : t.ctxs = s.ctxs

namespace Recorded

theorem refl (s : State) : Recorded s s := ⟨.refl s, rfl, rfl⟩

theorem trans {s t u : State} (h : Recorded s t) (h' : Recorded t u) : Recorded s u :=
  ⟨h.map.trans h'.map, h'.launches.trans h.launches, h'.ctxs.trans h.ctxs⟩

theorem putQp {s t : State} (h : Recorded s t) (pd n : Nat) (q : Qp) : Recorded s (putQp t pd n q) :=
  h.trans ⟨.of_regs rfl rfl rfl rfl, rfl, rfl⟩

theorem sendIrq {s t : State} (h : Recorded s t) (v : Nat) : Recorded s (sendIrq t v) :=
  h.trans ⟨.of_regs rfl rfl rfl rfl, rfl, rfl⟩

theorem recWrite (s : State) (a : Nat) (bs : List Byte) : Recorded s (recWrite s a bs) := by
  have hh : HomesOnly s (Machine.recWrite s a bs) := (HomesOnly.refl s).recWrite
  exact ⟨recWrite_map s a bs, hh.get (f := State.launches), hh.get (f := State.ctxs)⟩

end Recorded

/-- A record that has a place to go to moves the completion tail on by one. -/
theorem qpRecord_spec {s : State} {pd n : Nat} {q : Qp} (h : getQp s pd n = some q) (hr : ringRefusal s q.context q.cqPa = none)
    (status flags seq : Nat) (detail : BitVec 64) : Recorded s (qpRecord s pd n status flags seq detail) ∧
      getQp (qpRecord s pd n status flags seq detail) pd n = some { q with cqTail := (q.cqTail + 1) % 2 ^ 32 } := by
  have hbind : ((some q).bind fun q => ringRefusal s q.context q.cqPa) = none := hr
  rw [qpRecord, h, hbind]
  dsimp only
  have hput := (Recorded.recWrite s (q.cqPa + q.cqTail % 2 ^ q.cqLog2 * 32)
    (completionBytes (handleOf q.context seq) status flags s.time.toNat detail)).putQp pd n { q with cqTail := (q.cqTail + 1) % 2 ^ 32 }
  split
  · exact ⟨hput.sendIrq _, getQp_putQp ..⟩
  · exact ⟨hput, getQp_putQp ..⟩

theorem ringFull_of_room {s : State} {q : Qp} (h : q.cqTail < 2 ^ q.cqLog2) : ringFull s q = (false, s) := if_pos h

/-- In the error state every posted request completes, where the completion ring has room for them. -/
theorem endPosted_spec (k : Nat) {s : State} {pd n : Nat} {q : Qp} (h : getQp s pd n = some q) (hs : q.state = 2) (hk : q.tail = q.head + k)
    (hroom : q.cqTail + k ≤ 2 ^ q.cqLog2) (h32 : q.cqLog2 < 32) (hr : ringRefusal s q.context q.cqPa = none) :
    Recorded s (endPosted k s pd n) ∧ ∃ x, getQp (endPosted k s pd n) pd n = some x ∧ x.state = 2 ∧ x.head = q.tail ∧
      x.cqTail = q.cqTail + k ∧ x.errStatus = q.errStatus := by
  induction k generalizing s q with
  | zero => exact ⟨.refl s, q, h, hs, hk.symm, rfl, rfl⟩
  | succ k ih =>
    have hlt : 2 ^ q.cqLog2 < 2 ^ 32 := Nat.pow_lt_pow_right (by omega) h32
    have hfull : ringFull s q = (false, s) := ringFull_of_room (by omega)
    obtain ⟨hrec, hget⟩ := qpRecord_spec h hr q.errStatus (q.flags % 2) q.head 0
    have hmod := modQp_of_get hget fun x => { x with head := q.head + 1, flags := 0, ended := none, state := if x.state = 3 then 0 else x.state }
    have hstep : endPosted (k + 1) s pd n = endPosted k (putQp (qpRecord s pd n q.errStatus (q.flags % 2) q.head 0) pd n
        { q with cqTail := (q.cqTail + 1) % 2 ^ 32, head := q.head + 1, flags := 0, ended := none, state := if q.state = 3 then 0 else q.state }) pd n := by
      rw [endPosted, h]
      dsimp only
      rw [if_pos hs, hfull]
      dsimp only
      rw [if_neg (by omega), if_neg (by simp), hmod]
    have hmod32 : (q.cqTail + 1) % 2 ^ 32 = q.cqTail + 1 := Nat.mod_eq_of_lt (by omega)
    have hall := hrec.putQp pd n { q with
      cqTail := (q.cqTail + 1) % 2 ^ 32, head := q.head + 1, flags := 0, ended := none, state := if q.state = 3 then 0 else q.state }
    obtain ⟨hrest, x, hx, hstate, hhead, htail, herr⟩ := ih (q := { q with
      cqTail := (q.cqTail + 1) % 2 ^ 32, head := q.head + 1, flags := 0, ended := none, state := if q.state = 3 then 0 else q.state })
      (getQp_putQp ..) (show (if q.state = 3 then 0 else q.state) = 2 by rw [if_neg (by omega), hs])
      (show q.tail = q.head + 1 + k by omega) (show (q.cqTail + 1) % 2 ^ 32 + k ≤ 2 ^ q.cqLog2 by omega) h32
      ((hall.map.ringRefusal q.context q.cqPa).trans hr)
    rw [hstep]
    exact ⟨hall.trans hrest, x, hx, hstate, hhead, htail.trans (show (q.cqTail + 1) % 2 ^ 32 + k = q.cqTail + (k + 1) by omega), herr⟩

/-- What has been posted in the error state completes. -/
theorem settleQp_spec {s : State} {pd n : Nat} {q : Qp} (h : getQp s pd n = some q) (hs : q.state = 2) (hle : q.head ≤ q.tail)
    (hroom : q.cqTail + (q.tail - q.head) ≤ 2 ^ q.cqLog2) (h32 : q.cqLog2 < 32) (hr : ringRefusal s q.context q.cqPa = none) :
    (getQp (settleQp s pd n) pd n).map (fun x => (x.state, x.head, x.cqTail)) = some (2, q.tail, (q.cqTail + (q.tail - q.head)) % 2 ^ 32) ∧
      (getQp (settleQp s pd n) pd n).map (·.errStatus) = some q.errStatus ∧ (settleQp s pd n).launches = s.launches ∧
      (settleQp s pd n).ctxs = s.ctxs := by
  have hlt : 2 ^ q.cqLog2 < 2 ^ 32 := Nat.pow_lt_pow_right (by omega) h32
  obtain ⟨hrec, x, hx, hstate, hhead, htail, herr⟩ := endPosted_spec (q.tail - q.head) h hs (by omega) hroom h32 hr
  have hstep : settleQp s pd n = endPosted (q.tail - q.head) s pd n := by rw [settleQp, h]
  rw [hstep, hx]
  refine ⟨?_, congrArg some herr, hrec.launches, hrec.ctxs⟩
  rw [Option.map_some, hstate, hhead, htail, Nat.mod_eq_of_lt (by omega)]

/-! ### The commands -/

theorem doNetQpEnable_of_off {s : State} {pd n : Nat} {r : BitVec 64} (h : qpState s pd n = 0) (hk : paKind s (bits r.toNat 47 8 * 256) ≠ .ddr) :
    doNetQpEnable pd n r s = putQp s pd n { parseQp (List.replicate 256 0) (bits r.toNat 47 8 * 256) with
      state := 2
      errStatus := match paKind s (bits r.toNat 47 8 * 256) with
        | .far => 0x0102
        | .hbm _ => 0x0102
        | _ => 0x0210 } := by
  unfold doNetQpEnable
  rw [if_neg (by omega)]
  dsimp only
  cases hp : paKind s (bits r.toNat 47 8 * 256) with
  | ddr => exact absurd hp hk
  | _ => rfl

/-- Settles O34: a queue pair is what its record says, and in the error state each posted request completes in turn. -/
theorem queuePairsStartStopAndPost : Obligations.QueuePairsStartStopAndPost := by
  unfold Obligations.QueuePairsStartStopAndPost
  refine ⟨?enable, ?elsewhere, ?on, ?disable, ?post, ?outside, ?failed⟩
  case enable =>
    intro pd n r bs u s hw h hk hf hok
    refine congrArg Host.Outcome.next ((onDie_of_alive hw _).trans ?_)
    unfold doNetQpEnable
    rw [if_neg (by omega)]
    dsimp only
    rw [hk]
    dsimp only
    rw [hf]
    dsimp only
    rw [if_pos hok]
  case elsewhere =>
    intro pd n r s hw h hk
    refine ⟨_, congrArg Host.Outcome.next ((onDie_of_alive hw _).trans (doNetQpEnable_of_off h hk)), ?_, ⟨rfl, rfl, rfl⟩, rfl, ?_⟩
    · rw [qpState, getQp_putQp]
    · rw [getQp_putQp]
      rfl
  case on =>
    intro pd n r s hw h
    exact congrArg Host.Outcome.next ((onDie_of_alive hw _).trans (if_pos h))
  case disable =>
    intro pd n q s hw h hs hq
    refine congrArg Host.Outcome.next ((onDie_of_alive hw _).trans ((modQp_of_get h _).trans ?_))
    have hno : ¬ (q.state = 1 ∧ q.stalled.isSome = true ∧ q.head ≠ q.tail) := by
      rintro ⟨-, hstall, hne⟩
      rcases hq with hq | hq
      · simp [hq] at hstall
      · exact hne hq
    rw [if_neg hno, if_neg hs]
  case post =>
    intro pd n v q s hw h hs hlo hhi
    refine congrArg Host.Outcome.next ((onDie_of_alive hw _).trans ?_)
    unfold doNetQpDoorbell
    rw [h]
    dsimp only
    rw [if_neg (by omega), if_pos hs]
  case outside =>
    intro pd n v q s hw h hout
    refine congrArg Host.Outcome.next ((onDie_of_alive hw _).trans ?_)
    unfold doNetQpDoorbell
    rw [h]
    exact if_pos hout
  case failed =>
    intro pd n v q s hw h hs hle hlo hhi hroom h32 hr
    have hring : ringRefusal (putQp s pd n { q with tail := v }) q.context q.cqPa = none := hr
    have hstep : doNetQpDoorbell pd n v s = settleQp (putQp s pd n { q with tail := v }) pd n := by
      unfold doNetQpDoorbell
      rw [h]
      dsimp only
      rw [if_neg (by omega), if_neg (by omega), if_pos hs]
    exact ⟨_, congrArg Host.Outcome.next ((onDie_of_alive hw _).trans hstep),
      settleQp_spec (getQp_putQp ..) hs (show q.head ≤ v by omega) hroom h32 hring⟩

end Sys2Proof.Proofs
end

section
/-! Inbound frames of queue pairs, and requests that are refused or sent again (R437, R440, R441). -/

namespace Sys2Proof.Proofs

open Sys2Proof.Machine Sys2Proof.Safety Sys2Proof.Laws

/-! ### Inbound frames -/

/-- The state once an ECN mark has been answered. -/
def marked (s : State) (pd n : Nat) (ecn : Bool) : State := if ecn then modQp s pd n fun y => { y with cnps := y.cnps + 1 } else s

/-- The commands of inbound frames, with the frame and the key that they bring. -/
theorem exec_inbound {pd n va len k : Nat} {d : Payload} {imm : BitVec 32} {im : Option (BitVec 32)} {x : Instr × Inbound × Nat}
    (h : x ∈ [(Instr.inboundSend pd n d imm, Inbound.send d.bytes imm, 0), (.inboundRdma pd n k va len (.write im) d, .write va (d.bytes.take len) im, k),
      (.inboundRdma pd n k va len .read d, .read va len, k)]) (s : State) : exec x.1 s = .next (inbound pd n x.2.2 d.ecn x.2.1 s) := by
  simp only [List.mem_cons, List.not_mem_nil, or_false] at h
  rcases h with rfl | rfl | rfl <;> rfl

theorem marked_held {s : State} {pd n : Nat} {q r : Qp} {ecn : Bool} (h : getQp s pd n = some q) (hr : getQp (marked s pd n ecn) pd n = some r) :
    r.held = q.held := by
  unfold marked at hr
  split at hr
  · rw [modQp_of_get h, getQp_putQp] at hr
    rw [← Option.some.inj hr]
  · rw [h] at hr
    rw [← Option.some.inj hr]

/-- A frame at a pair that runs and holds none: what follows turns on the pair once an ECN mark has been answered. -/
theorem inbound_of_running {s : State} {pd n rkey : Nat} {ecn : Bool} {x : Inbound} {q r : Qp} (h : getQp s pd n = some q) (hs : q.state = 1)
    (hp : ethUp s q.port = true) (hr : getQp (marked s pd n ecn) pd n = some r) (hh : r.held = []) :
    inbound pd n rkey ecn x s =
      let full := ringFull (marked s pd n ecn) r
      if r.stalled.isSome ∨ full.1 then rnrPeer full.2 pd n
      else match inboundNak r rkey x with
        | some k => nakPeer full.2 pd n k
        | none =>
          let t := serveInbound full.2 pd n r x
          if t.1 then t.2
          else if (getQp t.2 pd n).any (·.stalled.isSome) then rnrPeer t.2 pd n
          else modQp t.2 pd n fun y => { y with held := y.held ++ [x] } := by
  have hheld : q.held = [] := (marked_held h hr).symm.trans hh
  have htakes : (!takesInbound s q) = false := by simp [takesInbound, hs, hp]
  have hrun (v : State) : runHeld q.held.length v pd n = v := by rw [hheld]; rfl
  unfold marked at hr ⊢
  unfold inbound
  rw [h]
  dsimp only
  rw [if_neg (by omega), htakes, if_neg (by simp), hrun, hr, Option.getD_some, hh]
  rfl

/-! ### Requests that fail -/

theorem qpBusy_of_posted {q : Qp} (hs : q.state = 1) (h : q.head < q.tail) : qpBusy q = true := by
  have hne : q.head ≠ q.tail := by omega
  simp [qpBusy, hs, hne]

theorem doRemoteNak_of_busy {s : State} {pd n : Nat} {q : Qp} (h : getQp s pd n = some q) (hb : qpBusy q = true) :
    doRemoteNak pd n s = qpError s pd n 0x0701 := by
  rw [doRemoteNak, h]
  exact if_pos hb

theorem doRetryExceeded_of_tried {s : State} {pd n : Nat} {q : Qp} (h : getQp s pd n = some q) (hb : qpBusy q = true) (hu : q.ud = false)
    (h7 : q.retransmits = 7) : doRetryExceeded pd n s = qpError s pd n 0x0702 := by
  rw [doRetryExceeded, h]
  exact if_pos ⟨hb, by simp [hu], h7⟩

/-- An error of a queue pair whose completion ring has room for all that is posted. -/
theorem qpError_spec {s : State} {pd n : Nat} {q : Qp} (h : getQp s pd n = some q) (hlt : q.head < q.tail)
    (hroom : q.cqTail + (q.tail - q.head) ≤ 2 ^ q.cqLog2) (h32 : q.cqLog2 < 32) (hr : ringRefusal s q.context q.cqPa = none) (status : Nat) :
    (getQp (qpError s pd n status) pd n).map (fun x => (x.state, x.head, x.cqTail)) = some (2, q.tail, (q.cqTail + (q.tail - q.head)) % 2 ^ 32) ∧
      (getQp (qpError s pd n status) pd n).map (·.errStatus) = some status ∧ (qpError s pd n status).launches = s.launches ∧
      (qpError s pd n status).ctxs = s.ctxs := by
  have hring : ringRefusal (putQp s pd n { q with state := 2, errStatus := status, stalled := none, ended := none, held := [] }) q.context q.cqPa = none := hr
  rw [qpError, modQp_of_get h]
  exact settleQp_spec (getQp_putQp s pd n { q with state := 2, errStatus := status, stalled := none, ended := none, held := [] }) rfl hlt.le hroom h32 hring

/-- A frame whose access succeeds is done with. -/
theorem serveInbound_of_ok {s : State} {pd n : Nat} {q : Qp} {x : Inbound} (h : (inboundAccess s pd n q x).1 = .ok ()) :
    serveInbound s pd n q x =
      (true, modQp (inboundDone (dropRemotes (inboundAccess s pd n q x).2 (.qp pd n)) pd n x) pd n fun y => { y with rnr := false }) := by
  unfold serveInbound
  generalize inboundAccess s pd n q x = a at h ⊢
  obtain ⟨e, u⟩ := a
  subst h
  rfl

/-- Settles O36: what a frame meets is the pair at its arrival, and an error of a request is one of every request posted. -/
theorem inboundTrafficIsServedOrRefused : Obligations.InboundTrafficIsServedOrRefused := by
  unfold Obligations.InboundTrafficIsServedOrRefused
  refine ⟨?served, ?refused, ?waits, ?atomic, ?cnp, ?nak, ?retry, ?nakEnds, ?retryEnds, ?again, ?idle, ?early⟩
  case served =>
    intro pd n q r x va len k d imm im s h hs hp hx hr hstall hh hfull hn hok
    refine (exec_inbound hx s).trans (congrArg Host.Outcome.next ((inbound_of_running h hs hp hr hh).trans ?_))
    unfold marked
    dsimp only
    rw [if_neg (by simp [hstall, hfull]), hn]
    dsimp only
    rw [serveInbound_of_ok hok, if_pos rfl]
  case refused =>
    intro pd n q r x y va len k d imm im s h hs hp hx hr hstall hh hfull hn
    refine (exec_inbound hx s).trans (congrArg Host.Outcome.next ((inbound_of_running h hs hp hr hh).trans ?_))
    unfold marked
    dsimp only
    rw [if_neg (by simp [hstall, hfull]), hn]
  case waits =>
    intro pd n q r x va len k d imm im s h hs hp hx hr hh hfull
    refine (exec_inbound hx s).trans (congrArg Host.Outcome.next ((inbound_of_running h hs hp hr hh).trans ?_))
    exact if_pos hfull
  case atomic =>
    intro pd n q s h hs hp
    have htakes : takesInbound s q = true := by simp [takesInbound, hs, hp]
    refine congrArg Host.Outcome.next ?_
    rw [doInboundAtomic, h]
    dsimp only
    rw [if_pos htakes, nakPeer, modQp_of_get h]
  case cnp =>
    intro pd n q s h hs hp hrate
    have htakes : takesInbound s q = true := by simp [takesInbound, hs, hp]
    have hdrawn : getQp (drawBelow s q.rate).2 pd n = some q := h
    have hstep : doCnp pd n s = putQp (drawBelow s q.rate).2 pd n { q with rate := (drawBelow s q.rate).1 } := by
      rw [doCnp, h]
      dsimp only
      rw [htakes, if_neg (by simp), modQp_of_get hdrawn]
    exact ⟨_, congrArg Host.Outcome.next hstep, ⟨_, Nat.mod_lt _ hrate, getQp_putQp ..⟩, ⟨rfl, rfl, rfl⟩, rfl⟩
  case nak =>
    intro pd n q s h hb
    exact congrArg Host.Outcome.next (doRemoteNak_of_busy h hb)
  case retry =>
    intro pd n q s h hb hu h7
    exact congrArg Host.Outcome.next (doRetryExceeded_of_tried h hb hu h7)
  case nakEnds =>
    intro pd n q s h hs hlt hroom h32 hr
    exact ⟨_, congrArg Host.Outcome.next (doRemoteNak_of_busy h (qpBusy_of_posted hs hlt)), qpError_spec h hlt hroom h32 hr 0x0701⟩
  case retryEnds =>
    intro pd n q s h hs hlt hroom h32 hr hu h7
    exact ⟨_, congrArg Host.Outcome.next (doRetryExceeded_of_tried h (qpBusy_of_posted hs hlt) hu h7), qpError_spec h hlt hroom h32 hr 0x0702⟩
  case again =>
    intro pd n q s h hs hlt _ _ _ hu h7
    refine congrArg Host.Outcome.next ((modQp_of_get h _).trans ?_)
    rw [if_pos ⟨qpBusy_of_posted hs hlt, by simp [hu], h7⟩]
  case idle =>
    intro pd n q s h hht
    have hb : qpBusy q = false := by simp [qpBusy, hht]
    refine congrArg Host.Outcome.next ?_
    rw [doRemoteNak, h]
    exact if_neg (by simp [hb])
  case early =>
    intro pd n q s h h7
    refine congrArg Host.Outcome.next ?_
    rw [doRetryExceeded, h]
    exact if_neg fun hc => absurd hc.2.2 (by omega)

end Sys2Proof.Proofs
end

section
/-! Requests of queue pairs: what their accesses change, and what the request at the head of a ring does (R437, R439, R440). -/

namespace Sys2Proof.Proofs

open Sys2Proof.Machine Sys2Proof.Safety Sys2Proof.Laws

/-! ### Accesses that are done -/

/-- From one state to another at most what serving an access changes differs: the homes and what they hold, translations, tiered
regions and the interrupts of hints. -/
def AccessOnly (s t : State) : Prop :=
  ∃ u xl rs irq, HomesOnly s u ∧ t = { u with xlat := xl, regions := rs, irqOut := irq }

namespace AccessOnly

theorem refl (s : State) : AccessOnly s s := ⟨s, s.xlat, s.regions, s.irqOut, .refl s, rfl⟩

theorem of_homes {s t : State} (h : HomesOnly s t) : AccessOnly s t := ⟨t, t.xlat, t.regions, t.irqOut, h, rfl⟩

theorem trans {s t u : State} (h : AccessOnly s t) (h' : AccessOnly t u) : AccessOnly s u := by
  obtain ⟨_, _, _, _, ⟨_, _, _, _, _, _, _, _, _, rfl⟩, rfl⟩ := h
  obtain ⟨_, _, _, _, ⟨fresh, regs, mem, poison, flaws, ceLog, cores, coh, evt, rfl⟩, rfl⟩ := h'
  exact ⟨_, _, _, _, ⟨fresh, regs, mem, poison, flaws, ceLog, cores, coh, evt, rfl⟩, rfl⟩

/-- What looks at none of these is as before. -/
theorem get {α : Type} {s t : State} (h : AccessOnly s t) {f : State → α}
    (hf : ∀ fresh regs mem poison flaws ceLog cores coh evt xl rs irq, f { s with
      fresh := fresh, regs := regs, mem := mem, poison := poison, flaws := flaws, ceLog := ceLog, cores := cores, coh := coh,
      evt := evt, xlat := xl, regions := rs, irqOut := irq } = f s := by intros; rfl) : f t = f s := by
  obtain ⟨_, _, _, _, ⟨_, _, _, _, _, _, _, _, _, rfl⟩, rfl⟩ := h
  exact hf ..

theorem getQp {s t : State} (h : AccessOnly s t) (pd n : Nat) : getQp t pd n = Machine.getQp s pd n := h.get (f := fun s => Machine.getQp s pd n)

theorem ite {s a b : State} {c : Prop} {_ : Decidable c} (ha : AccessOnly s a) (hb : AccessOnly s b) : AccessOnly s (if c then a else b) := by
  split
  · exact ha
  · exact hb

variable {s t : State} (hs : AccessOnly s t)
include hs

theorem fput (d i : Nat) (f : Fld) (v : Nat) : AccessOnly s (fput t d i f v) := hs.trans (.of_homes (.fput (.refl t)))

theorem drawBelow (n : Nat) : AccessOnly s (drawBelow t n).2 := hs.trans (.of_homes (.drawBelow (.refl t)))

theorem xlat (xl : Xlat) : AccessOnly s { t with xlat := xl } := hs.trans ⟨t, xl, t.regions, t.irqOut, .refl t, rfl⟩

theorem regions (rs : List TRegion) : AccessOnly s { t with regions := rs } := hs.trans ⟨t, t.xlat, rs, t.irqOut, .refl t, rfl⟩

theorem sendIrq (v : Nat) : AccessOnly s (sendIrq t v) := hs.trans ⟨t, t.xlat, t.regions, _, .refl t, rfl⟩

theorem recWrite (a : Nat) (bs : List Byte) : AccessOnly s (recWrite t a bs) := hs.trans (.of_homes (.recWrite (.refl t)))

theorem countHits (h size : Nat) : AccessOnly s (countHits t h size) := ((hs.drawBelow _).fput _ _ _ _).fput _ _ _ _ |>.ite ((hs.drawBelow _).fput _ _ _ _)

theorem tlbFill (l : List Tlb) (x : Tlb) (ways : Nat) (rival : Tlb → Bool) : AccessOnly s (tlbFill t l x ways rival).2 := by
  unfold Machine.tlbFill
  dsimp only
  split
  · exact hs
  · dsimp only
    exact hs.drawBelow _

theorem hubInstall (h : Nat) (x : Tlb) : AccessOnly s (hubInstall t h x) := (hs.tlbFill _ _ _ _).xlat _

theorem lookTiered (c : Nat) (x : Tlb) : AccessOnly s (lookTiered t c x none) := (hs.countHits _ _).ite ((hs.hubInstall _ _).fput _ _ _ _)

theorem endHeld (r : Requester) (page : Nat) : AccessOnly s (endHeld t r page) := (hs.xlat _).ite hs

theorem modPage (c va : Nat) (f : BitVec 64 → BitVec 64) : AccessOnly s (modPage t c va f) := hs.regions _

theorem writeHint (h c page : Nat) (w : BitVec 64) : AccessOnly s (writeHint t h c page w) :=
  (hs.fput _ _ _ _).ite ((((hs.recWrite _ _).fput _ _ _ _).sendIrq _).ite ((hs.recWrite _ _).fput _ _ _ _))

theorem touchPage (c va lines : Nat) : AccessOnly s (touchPage t c va lines) := by
  unfold Machine.touchPage
  split
  · exact hs
  · exact (((hs.drawBelow _).modPage _ _ _).writeHint _ _ _ _).ite ((hs.drawBelow _).modPage _ _ _)

theorem touchRange (c : Nat) (l : List (Nat × Nat)) : AccessOnly s (touchRange t c l) :=
  List.foldlRecOn (motive := AccessOnly s) _ _ hs fun _ hu _ _ => hu.touchPage _ _ _

end AccessOnly

/-- A translation that neither waits nor fails. -/
theorem xlate_accessOnly (s : State) (r : Requester) (c va : Nat) (write : Bool) : (xlate s r c va write none).1 = .wait ∨
    (∃ st, (xlate s r c va write none).1 = .fail st) ∨ AccessOnly s (xlate s r c va write none).2 := by
  unfold xlate
  dsimp only
  split
  · split
    · exact .inr (.inl ⟨_, rfl⟩)
    · split
      · exact .inl rfl
      · have hlook (page : Nat) (x : Tlb) := ((AccessOnly.refl s).endHeld r page).lookTiered c x
        split
        · exact .inr (.inr (hlook _ _))
        · exact .inr (.inr (hlook _ _))
  · simp only [Option.bind_none]
    split
    · split
      · exact .inl rfl
      · exact .inr (.inr ((AccessOnly.refl s).countHits _ _))
    · exact .inr (.inr (.refl s))
    · exact .inl rfl

theorem xlateChunks_accessOnly (r : Requester) (c : Nat) (write : Bool) (l : List (Nat × Nat)) (s : State) :
    (∃ e, (xlateChunks s r c write l).1 = .error e) ∨ AccessOnly s (xlateChunks s r c write l).2 := by
  induction l generalizing s with
  | nil => exact .inr (.refl s)
  | cons x rest ih =>
    obtain ⟨va, n⟩ := x
    have hx := xlate_accessOnly s r c va write
    unfold xlateChunks
    generalize xlate s r c va write none = a at hx
    obtain ⟨x, t⟩ := a
    have hrest := ih t
    cases x with
    | wait => exact .inl ⟨_, rfl⟩
    | fail st => exact .inl ⟨_, rfl⟩
    | ok pa =>
      have ht : AccessOnly s t := by simpa using hx
      dsimp only
      generalize xlateChunks t r c write rest = b at hrest ⊢
      obtain ⟨y, u⟩ := b
      split
      · exact .inl ⟨_, rfl⟩
      · cases y with
        | error e => exact .inl ⟨e, rfl⟩
        | ok l => exact .inr (ht.trans (by simpa using hrest))
    | remote d a =>
      have ht : AccessOnly s t := by simpa using hx
      dsimp only
      generalize xlateChunks t r c write rest = b at hrest ⊢
      obtain ⟨y, u⟩ := b
      cases y with
      | error e => exact .inl ⟨e, rfl⟩
      | ok l => exact .inr (ht.trans (by simpa using hrest))

/-- Lines of another device that have all come leave nothing to ask for. -/
theorem remoteLines_rest (r : Requester) (dev : Nat) (l : List Nat) (s : State) :
    (∃ e, (remoteLines s r dev l).1 = .error e) ∨ (remoteLines s r dev l).2 = s := by
  induction l generalizing s with
  | nil => exact .inr rfl
  | cons a rest ih =>
    unfold remoteLines
    split
    · have hrest := ih s
      generalize remoteLines s r dev rest = b at hrest
      obtain ⟨y, u⟩ := b
      cases y with
      | error e => exact .inl ⟨e, rfl⟩
      | ok d => exact .inr (by simpa using hrest)
    · split
      · exact .inl ⟨_, rfl⟩
      · rename_i u _
        generalize remoteLines u r dev rest = b
        obtain ⟨y, v⟩ := b
        cases y <;> exact .inl ⟨_, rfl⟩

theorem remoteRead_rest (s : State) (r : Requester) (dev a n : Nat) :
    (∃ e, (remoteRead s r dev a n).1 = .error e) ∨ (remoteRead s r dev a n).2 = s := by
  have h := remoteLines_rest r dev (linesOf a n) s
  unfold remoteRead
  generalize remoteLines s r dev (linesOf a n) = b at h
  obtain ⟨y, u⟩ := b
  cases y with
  | error e => exact .inl ⟨e, rfl⟩
  | ok d => exact .inr (by simpa using h)

theorem remoteWrite_rest (s : State) (r : Requester) (dev a : Nat) (bs : List Byte) :
    (∃ e, (remoteWrite s r dev a bs).1 = .error e) ∨ (remoteWrite s r dev a bs).2 = s := by
  unfold remoteWrite
  split
  · exact .inr rfl
  · split <;> exact .inl ⟨_, rfl⟩

theorem ncFetch_accessOnly (s : State) (a n hub : Nat) : AccessOnly s (ncFetch s a n hub).2 :=
  .of_homes (.foldl (.refl s) fun _ _ hu => by
    unfold ncReadLine
    split
    · exact hu
    · exact hu.ncReq)

theorem readPieces_accessOnly (r : Requester) (l : List (Tr × Nat)) (s : State) :
    (∃ e, (readPieces s r l).1 = .error e) ∨ AccessOnly s (readPieces s r l).2 := by
  induction l generalizing s with
  | nil => exact .inr (.refl s)
  | cons x rest ih =>
    obtain ⟨x, n⟩ := x
    cases x with
    | wait => exact .inl ⟨_, rfl⟩
    | fail st => exact .inl ⟨_, rfl⟩
    | ok pa =>
      have ht := ncFetch_accessOnly s pa n (reqHub r)
      unfold readPieces
      generalize ncFetch s pa n (reqHub r) = a at ht
      obtain ⟨x, t⟩ := a
      have hrest := ih t
      cases x with
      | none => exact .inl ⟨_, rfl⟩
      | some bs =>
        dsimp only
        generalize readPieces t r rest = b at hrest ⊢
        obtain ⟨y, u⟩ := b
        cases y with
        | error e => exact .inl ⟨e, rfl⟩
        | ok d => exact .inr (ht.trans (by simpa using hrest))
    | remote dev a =>
      have ht := remoteRead_rest s r dev a n
      unfold readPieces
      generalize remoteRead s r dev a n = b at ht
      obtain ⟨x, t⟩ := b
      have hrest := ih t
      cases x with
      | error e => cases e <;> exact .inl ⟨_, rfl⟩
      | ok d =>
        dsimp only
        generalize readPieces t r rest = b at hrest ⊢
        obtain ⟨y, u⟩ := b
        cases y with
        | error e => exact .inl ⟨e, rfl⟩
        | ok d2 =>
          obtain rfl : t = s := by simpa using ht
          exact .inr (by simpa using hrest)

theorem writePieces_accessOnly (r : Requester) (l : List (Tr × Nat)) (bs : List Byte) (s : State) :
    (∃ e, (writePieces s r l bs).1 = .error e) ∨ AccessOnly s (writePieces s r l bs).2 := by
  induction l generalizing s bs with
  | nil => exact .inr (.refl s)
  | cons x rest ih =>
    obtain ⟨x, n⟩ := x
    cases x with
    | wait => exact .inl ⟨_, rfl⟩
    | fail st => exact .inl ⟨_, rfl⟩
    | ok pa =>
      have ht : AccessOnly s (ncWrite s pa (bs.take n)).2 := .of_homes (.ncWrite (.refl s))
      unfold writePieces
      dsimp only
      split
      · exact .inl ⟨_, rfl⟩
      · exact (ih (bs.drop n) _).imp id ht.trans
    | remote dev a =>
      have ht := remoteWrite_rest s r dev a (bs.take n)
      unfold writePieces
      generalize remoteWrite s r dev a (bs.take n) = b at ht
      obtain ⟨x, t⟩ := b
      cases x with
      | error e => cases e <;> exact .inl ⟨_, rfl⟩
      | ok d =>
        obtain rfl : t = s := by simpa using ht
        exact ih (bs.drop n) _

/-- A read that is done changes what serving it changes. -/
theorem readVa_accessOnly {s : State} {r : Requester} {c va n : Nat} {d : List Byte} (h : (readVa s r c va n).1 = .ok d) :
    AccessOnly s (readVa s r c va n).2 := by
  have hx := xlateChunks_accessOnly r c false (pageChunks va n) s
  unfold readVa at h ⊢
  unfold xlateRange at h ⊢
  generalize xlateChunks s r c false (pageChunks va n) = a at hx h ⊢
  obtain ⟨x, t⟩ := a
  cases x with
  | error e => cases h
  | ok l =>
    have hp := readPieces_accessOnly r l t
    dsimp only at h ⊢
    generalize readPieces t r l = b at hp h ⊢
    obtain ⟨y, u⟩ := b
    cases y with
    | error e => cases h
    | ok b =>
      have ht : AccessOnly s t := by simpa using hx
      have hu : AccessOnly t u := by simpa using hp
      exact (ht.trans hu).touchRange _ _

theorem writeVa_accessOnly {s : State} {r : Requester} {c va : Nat} {bs : List Byte} (h : (writeVa s r c va bs).1 = .ok ()) :
    AccessOnly s (writeVa s r c va bs).2 := by
  have hx := xlateChunks_accessOnly r c true (pageChunks va bs.length) s
  unfold writeVa at h ⊢
  unfold xlateRange at h ⊢
  generalize xlateChunks s r c true (pageChunks va bs.length) = a at hx h ⊢
  obtain ⟨x, t⟩ := a
  cases x with
  | error e => cases h
  | ok l =>
    have hp := writePieces_accessOnly r l bs t
    dsimp only at h ⊢
    generalize writePieces t r l bs = b at hp h ⊢
    obtain ⟨y, u⟩ := b
    cases y with
    | error e => cases h
    | ok b =>
      have ht : AccessOnly s t := by simpa using hx
      have hu : AccessOnly t u := by simpa using hp
      exact (ht.trans hu).touchRange _ _

/-! ### The request at the head of a ring -/

theorem performRequest_send {s : State} {pd n : Nat} {q : Qp} {w data bs : List Byte} (h5 : recField w 0 1 ≠ 5)
    (h : (readVa s (.qp pd n) q.context (recField w 8 8) (recField w 4 4)).1 = .ok bs) : performRequest s pd n q w data =
      endRequest (sendRoce (readVa s (.qp pd n) q.context (recField w 8 8) (recField w 4 4)).2 (roceMsg q w bs)) pd n 0 (recField w 1 1 % 2) := by
  unfold performRequest
  rw [if_neg h5]
  generalize readVa s (.qp pd n) q.context (recField w 8 8) (recField w 4 4) = a at h ⊢
  obtain ⟨x, t⟩ := a
  subst h
  rfl

theorem performRequest_read {s : State} {pd n : Nat} {q : Qp} {w data : List Byte} (h5 : recField w 0 1 = 5) (hlen : data.length = recField w 4 4)
    (h : (writeVa s (.qp pd n) q.context (recField w 8 8) data).1 = .ok ()) : performRequest s pd n q w data =
      endRequest (sendRoce (writeVa s (.qp pd n) q.context (recField w 8 8) data).2 (roceMsg q w [])) pd n 0 (recField w 1 1 % 2) := by
  unfold performRequest
  dsimp only
  rw [if_pos h5, if_neg (by omega)]
  generalize writeVa s (.qp pd n) q.context (recField w 8 8) data = a at h ⊢
  obtain ⟨x, t⟩ := a
  subst h
  rfl

/-- The state in which a request that was read with a right stamp is looked at. -/
def stamped (s : State) (pd n : Nat) (q : Qp) (w : List Byte) : State :=
  modQp (readVa s (.qp pd n) q.context (q.sqVa + q.head % 2 ^ q.sqLog2 * 64) 64).2 pd n fun x => { x with stale := 0, flags := recField w 1 1 % 2 }

section
variable {s : State} {pd n op : Nat} {q : Qp} {w data : List Byte} (hq : getQp (settleQp s pd n) pd n = some q)
  (ht : (takesRequest (settleQp s pd n) q).1 = true)
  (hw : (readVa (takesRequest (settleQp s pd n) q).2 (.qp pd n) q.context (q.sqVa + q.head % 2 ^ q.sqLog2 * 64) 64).1 = .ok w)
  (hstamp : recField w 2 2 = q.head % 65536) (hop : recField w 0 1 = op) (hcode : 1 ≤ op ∧ op ≤ 5) (hud : q.ud = false ∨ op ≤ 2)
include hq ht hw hstamp hop hcode hud

/-- A request with its stamp right and the command's opcode. -/
theorem runRequest_of_read : runRequest s pd n op data =
    let u := stamped (takesRequest (settleQp s pd n) q).2 pd n q w
    if recField w 4 4 = 0 then endRequest u pd n 0x0101 (recField w 1 1 % 2)
    else if 2 ^ 31 < recField w 4 4 then endRequest u pd n 0x0103 (recField w 1 1 % 2)
    else performRequest u pd n q w data := by
  have hok : ¬ (recField w 0 1 = 0 ∨ 5 < recField w 0 1 ∨ (q.ud = true ∧ 2 < recField w 0 1)) := by
    rintro (h | h | ⟨hu, h⟩)
    · omega
    · omega
    · rcases hud with hud | hud
      · simp [hu] at hud
      · omega
  unfold runRequest stamped
  dsimp only
  rw [hq]
  dsimp only
  rw [ht, if_neg (by simp)]
  generalize readVa (takesRequest (settleQp s pd n) q).2 (.qp pd n) q.context (q.sqVa + q.head % 2 ^ q.sqLog2 * 64) 64 = a at hw ⊢
  obtain ⟨x, t⟩ := a
  subst hw
  dsimp only
  rw [if_neg (by omega), if_neg hok, if_neg (by omega)]

theorem runRequest_empty (h0 : recField w 4 4 = 0) :
    runRequest s pd n op data = endRequest (stamped (takesRequest (settleQp s pd n) q).2 pd n q w) pd n 0x0101 (recField w 1 1 % 2) :=
  (runRequest_of_read hq ht hw hstamp hop hcode hud).trans (if_pos h0)

theorem runRequest_full (h1 : 1 ≤ recField w 4 4) (h31 : recField w 4 4 ≤ 2 ^ 31) :
    runRequest s pd n op data = performRequest (stamped (takesRequest (settleQp s pd n) q).2 pd n q w) pd n q w data := by
  rw [runRequest_of_read hq ht hw hstamp hop hcode hud]
  dsimp only
  rw [if_neg (by omega), if_neg (by omega)]

end

/-! ### The end of a request -/

/-- A running pair's request ends: its record is written, and the pair goes on with the next. -/
theorem endRequest_spec {s : State} {pd n : Nat} {q : Qp} (h : getQp s pd n = some q) (hs : q.state = 1)
    (hr : ringRefusal s q.context q.cqPa = none) (status flags : Nat) :
    (getQp (endRequest s pd n status flags) pd n).map (fun x => (x.state, x.head, x.cqTail)) = some (1, q.head + 1, (q.cqTail + 1) % 2 ^ 32) ∧
      (endRequest s pd n status flags).launches = s.launches := by
  have hget : getQp (dropRemotes s (.qp pd n)) pd n = some q := h
  have hring : ringRefusal (dropRemotes s (.qp pd n)) q.context q.cqPa = none := hr
  obtain ⟨hrec, hq⟩ := qpRecord_spec hget hring status flags q.head 0
  have hend : endRequest s pd n status flags = putQp (qpRecord (dropRemotes s (.qp pd n)) pd n status flags q.head 0) pd n
      { q with cqTail := (q.cqTail + 1) % 2 ^ 32, head := q.head + 1, retransmits := 0, flags := 0, state := if q.state = 3 then 0 else q.state } := by
    rw [endRequest, h]
    exact modQp_of_get hq _
  rw [hend, getQp_putQp, Option.map_some]
  dsimp only
  rw [if_neg (by omega), hs]
  exact ⟨rfl, hrec.launches⟩

/-- So it does once its message has left. -/
theorem endRequest_sent {s : State} {pd n : Nat} {q : Qp} (h : getQp s pd n = some q) (hs : q.state = 1)
    (hr : ringRefusal s q.context q.cqPa = none) (m : RoceMsg) (status flags : Nat) :
    (getQp (endRequest (sendRoce s m) pd n status flags) pd n).map (fun x => (x.state, x.head, x.cqTail)) =
        some (1, q.head + 1, (q.cqTail + 1) % 2 ^ 32) ∧ (endRequest (sendRoce s m) pd n status flags).launches = s.launches := by
  have hget : getQp (sendRoce s m) pd n = some q := h
  have hring : ringRefusal (sendRoce s m) q.context q.cqPa = none := hr
  exact endRequest_spec hget hs hring status flags

/-- A running pair has nothing to settle. -/
theorem settleQp_of_running {s : State} {pd n : Nat} {q : Qp} (h : getQp s pd n = some q) (hs : q.state = 1) (he : q.ended = none) :
    settleQp s pd n = s := by
  rw [settleQp, h]
  dsimp only
  cases q.tail - q.head with
  | zero => rfl
  | succ k =>
    rw [endPosted, h]
    dsimp only
    rw [if_neg (by omega), he]

theorem takesRequest_of_running {s : State} {q : Qp} (hs : q.state = 1) (hstall : q.stalled = none) (he : q.ended = none) (hht : q.head ≠ q.tail)
    (hp : ethUp s q.port = true) (hpause : pfcPaused s q = false) (hroom : q.cqTail < 2 ^ q.cqLog2) : takesRequest s q = (true, s) := by
  have hno : ¬ ((q.state ≠ 1 ∧ q.state ≠ 3) ∨ q.stalled.isSome = true ∨ q.ended.isSome = true ∨ q.head = q.tail ∨ (!ethUp s q.port) = true ∨
      pfcPaused s q = true) := by simp [hs, hstall, he, hht, hp, hpause]
  unfold takesRequest
  rw [if_neg hno, ringFull_of_room hroom]
  rfl

theorem stamped_spec {s : State} {pd n : Nat} {q : Qp} {w : List Byte} (hq : getQp s pd n = some q)
    (hw : (readVa s (.qp pd n) q.context (q.sqVa + q.head % 2 ^ q.sqLog2 * 64) 64).1 = .ok w) :
    getQp (stamped s pd n q w) pd n = some { q with stale := 0, flags := recField w 1 1 % 2 } ∧ (stamped s pd n q w).launches = s.launches := by
  have hacc := readVa_accessOnly hw
  have hget := (hacc.getQp pd n).trans hq
  rw [stamped, modQp_of_get hget]
  exact ⟨getQp_putQp .., hacc.get (f := State.launches)⟩

section
variable {s : State} {pd n : Nat} {q : Qp} {w : List Byte} (hq : getQp s pd n = some q) (hs : q.state = 1) (hstall : q.stalled = none)
  (he : q.ended = none) (hht : q.head ≠ q.tail) (hp : ethUp s q.port = true) (hpause : pfcPaused s q = false) (hroom : q.cqTail < 2 ^ q.cqLog2)
  (hw : (readVa s (.qp pd n) q.context (q.sqVa + q.head % 2 ^ q.sqLog2 * 64) 64).1 = .ok w)
  (hstamp : recField w 2 2 = q.head % 65536)
include hq hs hstall he hht hp hpause hroom hw hstamp

/-- SEND, SEND_IMM, RDMA_WRITE and RDMA_WRITE_IMM of a running pair. -/
theorem runRequest_sends {op : Nat} {d : List Byte} (hop : recField w 0 1 = op) (hcode : 1 ≤ op ∧ op ≤ 4) (hud : q.ud = false ∨ op ≤ 2)
    (h1 : 1 ≤ recField w 4 4) (h31 : recField w 4 4 ≤ 2 ^ 31)
    (hd : (readVa (stamped s pd n q w) (.qp pd n) q.context (recField w 8 8) (recField w 4 4)).1 = .ok d)
    (hr : ringRefusal (readVa (stamped s pd n q w) (.qp pd n) q.context (recField w 8 8) (recField w 4 4)).2 q.context q.cqPa = none) :
    (getQp (runRequest s pd n op []) pd n).map (fun x => (x.state, x.head, x.cqTail)) = some (1, q.head + 1, (q.cqTail + 1) % 2 ^ 32) ∧
      (runRequest s pd n op []).launches = s.launches := by
  have hset := settleQp_of_running hq hs he
  have htake := takesRequest_of_running hs hstall he hht hp hpause hroom
  have hrun := runRequest_full (s := s) (pd := pd) (n := n) (op := op) (q := q) (w := w) (data := []) (by rw [hset, hq]) (by rw [hset, htake])
    (by rw [hset, htake]; exact hw) hstamp hop (by omega) hud h1 h31
  rw [hset, htake] at hrun
  obtain ⟨hget, hlaunch⟩ := stamped_spec hq hw
  have hacc := readVa_accessOnly hd
  have hend := endRequest_sent ((hacc.getQp pd n).trans hget) hs hr (roceMsg q w d) 0 (recField w 1 1 % 2)
  rw [hrun, performRequest_send (by omega) hd]
  exact ⟨hend.1, hend.2.trans ((hacc.get (f := State.launches)).trans hlaunch)⟩

/-- RDMA_READ of a running pair. -/
theorem runRequest_reads {d : List Byte} (hop : recField w 0 1 = 5) (hud : q.ud = false) (h1 : 1 ≤ recField w 4 4) (h31 : recField w 4 4 ≤ 2 ^ 31)
    (hlen : d.length = recField w 4 4) (hd : (writeVa (stamped s pd n q w) (.qp pd n) q.context (recField w 8 8) d).1 = .ok ())
    (hr : ringRefusal (writeVa (stamped s pd n q w) (.qp pd n) q.context (recField w 8 8) d).2 q.context q.cqPa = none) :
    (getQp (runRequest s pd n 5 d) pd n).map (fun x => (x.state, x.head, x.cqTail)) = some (1, q.head + 1, (q.cqTail + 1) % 2 ^ 32) ∧
      (runRequest s pd n 5 d).launches = s.launches := by
  have hset := settleQp_of_running hq hs he
  have htake := takesRequest_of_running hs hstall he hht hp hpause hroom
  have hrun := runRequest_full (s := s) (pd := pd) (n := n) (op := 5) (q := q) (w := w) (data := d) (by rw [hset, hq]) (by rw [hset, htake])
    (by rw [hset, htake]; exact hw) hstamp hop (by omega) (.inl hud) h1 h31
  rw [hset, htake] at hrun
  obtain ⟨hget, hlaunch⟩ := stamped_spec hq hw
  have hacc := writeVa_accessOnly hd
  have hend := endRequest_sent ((hacc.getQp pd n).trans hget) hs hr (roceMsg q w []) 0 (recField w 1 1 % 2)
  rw [hrun, performRequest_read hop hlen hd]
  exact ⟨hend.1, hend.2.trans ((hacc.get (f := State.launches)).trans hlaunch)⟩

/-- SEND of no bytes. -/
theorem runRequest_sendsNothing (hop : recField w 0 1 = 1) (h0 : recField w 4 4 = 0)
    (hr : ringRefusal (readVa s (.qp pd n) q.context (q.sqVa + q.head % 2 ^ q.sqLog2 * 64) 64).2 q.context q.cqPa = none) :
    (getQp (runRequest s pd n 1 []) pd n).map (fun x => (x.state, x.head, x.cqTail)) = some (1, q.head + 1, (q.cqTail + 1) % 2 ^ 32) ∧
      (runRequest s pd n 1 []).launches = s.launches := by
  have hset := settleQp_of_running hq hs he
  have htake := takesRequest_of_running hs hstall he hht hp hpause hroom
  have hrun := runRequest_empty (s := s) (pd := pd) (n := n) (op := 1) (q := q) (w := w) (data := []) (by rw [hset, hq]) (by rw [hset, htake])
    (by rw [hset, htake]; exact hw) hstamp hop (by omega) (.inr (by omega)) h0
  rw [hset, htake] at hrun
  obtain ⟨hget, hlaunch⟩ := stamped_spec hq hw
  have hring : ringRefusal (stamped s pd n q w) q.context q.cqPa = none := by
    rw [stamped, modQp_of_get ((readVa_accessOnly hw).getQp pd n |>.trans hq)]
    exact hr
  have hend := endRequest_spec hget hs hring 0x0101 (recField w 1 1 % 2)
  rw [hrun]
  exact ⟨hend.1, hend.2.trans hlaunch⟩

end

/-- The commands of requests that send, with their opcodes. -/
theorem exec_sends {pd n : Nat} {i : Nat × Instr} (h : i ∈ [(1, Instr.send pd n), (2, .sendImm pd n), (3, .rdmaWrite pd n), (4, .rdmaWriteImm pd n)])
    (s : State) : exec i.2 s = .next (runRequest s pd n i.1 []) ∧ 1 ≤ i.1 ∧ i.1 ≤ 4 := by
  simp only [List.mem_cons, List.not_mem_nil, or_false] at h
  rcases h with rfl | rfl | rfl | rfl <;> exact ⟨rfl, by simp, by simp⟩

theorem exec_requests {pd n : Nat} {i : Nat × Instr}
    (h : i ∈ [(1, Instr.send pd n), (2, .sendImm pd n), (3, .rdmaWrite pd n), (4, .rdmaWriteImm pd n), (5, .rdmaRead pd n [])])
    (s : State) : exec i.2 s = .next (runRequest s pd n i.1 []) ∧ 1 ≤ i.1 ∧ i.1 ≤ 5 := by
  simp only [List.mem_cons, List.not_mem_nil, or_false] at h
  rcases h with rfl | rfl | rfl | rfl | rfl <;> exact ⟨rfl, by simp, by simp⟩

/-- Settles O35: an access that is done leaves the queue pairs and the launches, so the request that made it ends at its own pair. -/
theorem requestsOfQueuePairsComplete : Obligations.RequestsOfQueuePairsComplete := by
  unfold Obligations.RequestsOfQueuePairsComplete
  refine ⟨?send, ?sendImm, ?write, ?writeImm, ?read, ?empty, ?idle, ?sends, ?reads, ?nothing⟩
  case send =>
    intro pd n q w d s hq hs hstall he hht hp hpause hroom hw hstamp hop h1 h31 hd hr
    exact ⟨_, rfl, runRequest_sends hq hs hstall he hht hp hpause hroom hw hstamp hop (by omega) (.inr (by omega)) h1 h31 hd hr⟩
  case sendImm =>
    intro pd n q w d s hq hs hstall he hht hp hpause hroom hw hstamp hop h1 h31 hd hr
    exact ⟨_, rfl, runRequest_sends hq hs hstall he hht hp hpause hroom hw hstamp hop (by omega) (.inr (by omega)) h1 h31 hd hr⟩
  case write =>
    intro pd n q w d s hq hs hstall he hht hp hpause hroom hw hstamp hop hud h1 h31 hd hr
    exact ⟨_, rfl, runRequest_sends hq hs hstall he hht hp hpause hroom hw hstamp hop (by omega) (.inl hud) h1 h31 hd hr⟩
  case writeImm =>
    intro pd n q w d s hq hs hstall he hht hp hpause hroom hw hstamp hop hud h1 h31 hd hr
    exact ⟨_, rfl, runRequest_sends hq hs hstall he hht hp hpause hroom hw hstamp hop (by omega) (.inl hud) h1 h31 hd hr⟩
  case read =>
    intro pd n q w d s hq hs hstall he hht hp hpause hroom hw hstamp hop hud h1 h31 hlen hd hr
    exact ⟨_, rfl, runRequest_reads hq hs hstall he hht hp hpause hroom hw hstamp hop hud h1 h31 hlen hd hr⟩
  case empty =>
    intro pd n q w s hq hs hstall he hht hp hpause hroom hw hstamp hop h0 hr
    exact ⟨_, rfl, runRequest_sendsNothing hq hs hstall he hht hp hpause hroom hw hstamp hop h0 hr⟩
  case idle =>
    intro pd n q s hq hs he hht
    refine congrArg Host.Outcome.next ?_
    have htake : takesRequest s q = (false, s) := if_pos (.inr (.inr (.inr (.inl hht))))
    unfold runRequest
    rw [settleQp_of_running hq hs he]
    dsimp only
    rw [hq]
    dsimp only
    rw [htake]
    exact if_pos (by simp)
  case sends =>
    intro pd n i q w b s hi hq ht hw hstamp hop hud h1 h31 hb
    obtain ⟨hexec, hlo, hhi⟩ := exec_sends hi s
    refine hexec.trans (congrArg Host.Outcome.next ?_)
    exact (runRequest_full hq ht hw hstamp hop (by omega) hud h1 h31).trans (performRequest_send (by omega) hb)
  case reads =>
    intro pd n q w d s hq ht hw hstamp hop hud h1 h31 hlen hd
    refine congrArg Host.Outcome.next ?_
    exact (runRequest_full hq ht hw hstamp hop (by omega) (.inl hud) h1 h31).trans (performRequest_read hop hlen hd)
  case nothing =>
    intro pd n i q w s hi hq ht hw hstamp hop hud h0
    obtain ⟨hexec, hlo, hhi⟩ := exec_requests hi s
    exact hexec.trans (congrArg Host.Outcome.next (runRequest_empty hq ht hw hstamp hop ⟨hlo, hhi⟩ hud h0))

end Sys2Proof.Proofs
end

section
/-! The event log when the memory of its ring has an error (R377, R516 to R518). -/

namespace Sys2Proof.Proofs

open Sys2Proof.Machine Sys2Proof.Safety Sys2Proof.Laws Sys2Proof.Tests

/-- A device whose log is off, where one record waits and the line of its slot has an uncorrectable error. -/
def flawedLog : State := { cpu3 with flaws := [(0, true)], evt := { cpu3.evt with waiting := [⟨0, 0x0F10, 3, 0, 0, 0⟩] } }

/-- The record fills half of the line: the other half is read at the home, and the error there raises event 0x0F52. -/
theorem flawedLog_arriving : (doEvtLogEnable 0 flawedLog).evt.arriving.map (·.code) = [0x0F52] := by decide

/-- Refutes O56: to turn the log on writes the record that waits into its slot, half of a line of DDR; its home reads the rest of the
line, finds an uncorrectable error and raises event 0x0F52, so that one more event arrives. -/
theorem not_eventsAreLogged : ¬ Obligations.EventsAreLogged := by
  unfold Obligations.EventsAreLogged
  rintro ⟨-, -, -, -, hon, -⟩
  obtain ⟨t, ht, -, harriving, -⟩ := hon 0 flawedLog (by decide) (by decide)
  have ht : doEvtLogEnable 0 flawedLog = t := (onDie_of_alive (by decide) _).symm.trans (Host.Outcome.next.inj ht)
  have hcodes := flawedLog_arriving
  rw [ht, harriving] at hcodes
  exact absurd hcodes (by decide)

end Sys2Proof.Proofs
end


section
/-! Event records that are on their way to the log stay on their way, whatever the homes and the cores' caches do. -/

namespace Sys2Proof.Proofs

open Sys2Proof.Machine Sys2Proof.Safety Sys2Proof.Laws

/-- From one state to another every event that is on its way to the log stays on its way. -/
def Grows (s t : State) : Prop := ∀ e ∈ s.evt.arriving, e ∈ t.evt.arriving

namespace Grows

theorem refl (s : State) : Grows s s := fun _ => id

theorem trans {s t u : State} (h : Grows s t) (h' : Grows t u) : Grows s u := fun e he => h' e (h e he)

/-- A change of anything but events. -/
theorem update {s t : State} (h : Grows s t) {pending time fresh regs fuses rowFuses rowMap mem near ostore poison flaws failedPcs ceLog
    scrubFrom recals cores vecs irqOut engines rdc tok launches ctxs rrNext mediaQ regions xlat coh links parcels net power persist rst
    pins uart0 sec jtag ddr} :
    Grows s ⟨pending, time, fresh, regs, fuses, rowFuses, rowMap, mem, near, ostore, poison, flaws, failedPcs, ceLog, scrubFrom, recals,
      cores, vecs, irqOut, engines, rdc, tok, launches, ctxs, rrNext, mediaQ, regions, xlat, coh, links, parcels, net, power, persist,
      rst, pins, uart0, sec, t.evt, jtag, ddr⟩ := h

theorem ite {s a b : State} {c : Prop} {_ : Decidable c} (ha : Grows s a) (hb : Grows s b) : Grows s (if c then a else b) := by
  split
  · exact ha
  · exact hb

theorem foldl {α : Type} {s t : State} {f : State → α → State} {l : List α} (h : Grows s t)
    (hf : ∀ u a, Grows s u → Grows s (f u a)) : Grows s (l.foldl f t) :=
  List.foldlRecOn (motive := Grows s) l f h fun u hu a _ => hf u a hu

theorem foldlSnd {α β : Type} {s t : State} {b : β} {f : β × State → α → β × State} {l : List α} (h : Grows s t)
    (hf : ∀ p a, Grows s p.2 → Grows s (f p a).2) : Grows s (l.foldl f (b, t)).2 :=
  List.foldlRecOn (motive := fun p => Grows s p.2) l f h fun p hp a _ => hf p a hp

/-- The state of an answer that was taken apart. -/
theorem snd {α : Type} {s t : State} {p : α × State} {a : α} (h : Grows s p.2) (e : p = (a, t)) : Grows s t := by
  rw [e] at h
  exact h

variable {s t : State} (hs : Grows s t)
include hs

theorem fput {d i : Nat} {f : Fld} {v : Nat} : Grows s (Machine.fput t d i f v) := hs.update

theorem fsat {d i : Nat} {f : Fld} {n : Nat} : Grows s (Machine.fsat t d i f n) := hs.update

theorem fhigh {d i : Nat} {f : Fld} {n : Nat} : Grows s (Machine.fhigh t d i f n) := hs.update

theorem draw : Grows s (Machine.draw t).2 := hs.update

theorem drawBelow {n : Nat} : Grows s (Machine.drawBelow t n).2 := hs.update

theorem memPut {a : Nat} {bs : List Byte} : Grows s (Machine.memPut t a bs) := hs.ite hs.update

theorem linePut {line : Nat} {bs : List Byte} : Grows s (Machine.linePut t line bs) := hs.update.memPut

theorem putHome {h : Nat} {x : Home} : Grows s (Machine.putHome t h x) := hs.update

theorem modHome {h : Nat} {f : Home → Home} : Grows s (Machine.modHome t h f) := hs.update

theorem notePoison {line : Nat} : Grows s (Machine.notePoison t line) := by
  unfold Machine.notePoison
  split
  · exact hs
  · split
    · split
      · exact hs.fput.fput.fput
      · exact hs
    · split
      · exact hs.fput.fput.fput
      · exact hs
    · exact hs

theorem modCore {d c : Nat} {f : Core → Core} : Grows s (Machine.modCore t d c f) := hs.update

theorem raise {code sev src ctx : Nat} {detail : BitVec 128} : Grows s (Machine.raise t code sev src ctx detail) :=
  fun e he => List.mem_append_left _ (hs e he)

theorem lastError {c : Nat × Bool × Nat} {kind line : Nat} : Grows s (Machine.lastError t c kind line) :=
  hs.fput.fput.fput.ite hs.fput.fput.fput

theorem ceRate {c : Nat × Bool × Nat} : Grows s (Machine.ceRate t c) := hs.update.raise.ite hs.update

theorem memCe {line : Nat} : Grows s (Machine.memCe t line) := by
  unfold Machine.memCe
  split
  · exact hs
  · exact hs.fsat.lastError.ceRate

theorem poisonLine {line : Nat} : Grows s (Machine.poisonLine t line) := hs.update

theorem memUe {line : Nat} : Grows s (Machine.memUe t line) := by
  unfold Machine.memUe
  split
  · exact hs.poisonLine
  · exact hs.fsat.lastError.poisonLine.raise

theorem memEcc {line : Nat} {e : Ecc} : Grows s (Machine.memEcc t line e) := by
  unfold Machine.memEcc
  split
  · exact hs.notePoison
  · split
    · exact hs.update
    · exact hs.update.memCe
    · exact hs.update.memUe

theorem memFetch {line : Nat} {e : Ecc} : Grows s (Machine.memFetch t line e).2.2 := by
  unfold Machine.memFetch
  split
  · exact hs
  · exact hs.memEcc

theorem showHome {h : Nat} : Grows s (Machine.showHome t h) := hs.update

theorem countServed {h code : Nat} : Grows s (Machine.countServed t h code) := hs.fsat.ite (hs.fsat.ite hs.fsat)

theorem mapHolder {holder line : Nat} {f : CacheLine → Option CacheLine} : Grows s (Machine.mapHolder t holder line f) :=
  hs.update.update.ite hs.update

theorem cacheVictim {k : CacheKind} {l : List Nat} {line : Nat} : Grows s (Machine.cacheVictim t k l line).2 := by
  unfold Machine.cacheVictim
  dsimp only
  split
  · exact hs
  · exact hs.draw

theorem fillL1 {d c line : Nat} {code : Bool} : Grows s (Machine.fillL1 t d c line code) := hs.ite hs.cacheVictim.modCore

theorem putL3 {d : Nat} {c : CacheLine} : Grows s (Machine.putL3 t d c) := hs.cacheVictim.update

theorem putLink {d : Nat} {c : CacheLine} : Grows s (Machine.putLink t d c) := hs.cacheVictim.update

theorem sendProbe {home line : Nat} {inval : Bool} {holder : Nat} : Grows s (Machine.sendProbe t home line inval holder) :=
  hs.update

theorem sendResp {m : RespMsg} : Grows s (Machine.sendResp t m) := hs.update

theorem sendData {r : CohReq} {st : Mesi} {poison : Bool} {data : List Byte} : Grows s (Machine.sendData t r st poison data) :=
  hs.update

theorem sendReturn {r : CohReq} {poison : Bool} {data : List Byte} : Grows s (Machine.sendReturn t r poison data) :=
  hs.update

theorem leaveL2 {d : Nat} {x : CacheLine} : Grows s (Machine.leaveL2 t d x) := hs.sendResp.ite (hs.drawBelow.ite hs.drawBelow.putL3)

theorem putL2 {d c : Nat} {x : CacheLine} : Grows s (Machine.putL2 t d c x) := by
  unfold Machine.putL2
  dsimp only
  split
  · exact hs.cacheVictim.modCore
  · exact hs.cacheVictim.modCore.leaveL2

theorem stashPut {target line : Nat} : Grows s (Machine.stashPut t target line) := by
  unfold Machine.stashPut
  split
  · exact hs.putL2
  · exact hs.putL3
  · exact hs.putLink

theorem openTxn {h : Nat} {r : CohReq} : Grows s (Machine.openTxn t h r).1 :=
  hs.countServed.fsat.modHome.fhigh.foldl fun _ _ hu => hu.sendProbe

theorem openEvict {h : Nat} {v : DirEntry} {r : CohReq} : Grows s (Machine.openEvict t h v r) :=
  (hs.fsat.fsat.ite hs.fsat).modHome.fhigh.foldl fun _ _ hu => hu.sendProbe

theorem toRetry {h : Nat} {r : CohReq} : Grows s (Machine.toRetry t h r) := hs.fsat.modHome.ite hs.modHome

theorem setEntry {h line : Nat} {em : Bool} {v : BitVec 6} : Grows s (Machine.setEntry t h line em v) := hs.update

theorem finishReq {h : Nat} {y : Txn} : Grows s (Machine.finishReq t h y) := by
  unfold Machine.finishReq
  refine .ite ?_ (.ite ?_ (.ite hs.setEntry.sendData (.ite hs.memFetch.setEntry.sendReturn (.ite ?_ ?_))))
  · exact hs.memFetch.setEntry.sendData.ite (hs.memFetch.setEntry.sendData.ite hs.memFetch.setEntry.sendData)
  · exact hs.memFetch.setEntry.sendData.ite hs.memFetch.setEntry.sendData
  · by_cases hm : y.req.mask = BitVec.allOnes 64
    · simp only [hm, if_true]
      exact hs.setEntry.linePut.sendReturn.ite
        (hs.setEntry.linePut.sendReturn.stashPut.setEntry.fsat.ite hs.setEntry.linePut.sendReturn.fsat)
    · simp only [hm, if_false]
      exact hs.setEntry.memFetch.linePut.sendReturn.ite
        (hs.setEntry.memFetch.linePut.sendReturn.stashPut.setEntry.fsat.ite hs.setEntry.memFetch.linePut.sendReturn.fsat)
  · exact hs.setEntry.memFetch.sendReturn.ite hs.setEntry.memFetch.memPut.sendReturn

theorem closeReq {h : Nat} {y : Txn} : Grows s (Machine.closeReq t h y) := hs.modHome.finishReq

theorem serveReq {h : Nat} {r : CohReq} : Grows s (Machine.serveReq t h r) := by
  unfold Machine.serveReq
  dsimp only
  split
  · split
    · exact hs.openEvict
    · exact hs.toRetry
  · exact hs.openTxn.closeReq.ite hs.openTxn

theorem arriveReq {h : Nat} {r : CohReq} : Grows s (Machine.arriveReq t h r) :=
  hs.ite (hs.modHome.showHome.ite hs.serveReq.showHome)

omit hs in
theorem serveQueue {s t : State} (hs : Grows s t) {n m k : Nat} : Grows s (Machine.serveQueue n t m k) := by
  unfold Machine.serveQueue
  dsimp only
  split
  · exact hs
  · split
    · exact hs
    · split
      · exact hs
      · exact hs.putHome.serveReq.serveQueue

theorem serveNext {h line : Nat} : Grows s (Machine.serveNext t h line) := hs.serveQueue.showHome

theorem closeTxn {h : Nat} {y : Txn} : Grows s (Machine.closeTxn t h y) :=
  hs.modHome.setEntry.serveReq.serveNext.serveNext.ite hs.closeReq.serveNext

theorem doProbe {holder line : Nat} : Grows s (Machine.doProbe holder line t) := by
  unfold Machine.doProbe
  split
  · exact hs
  · exact hs.update.sendResp.ite (hs.ite hs.update.mapHolder.sendResp)

theorem discardLate {h : Nat} : Grows s (Machine.discardLate t h) := hs.update

theorem answered {h : Nat} {y : Txn} {holder : Nat} {kept : Bool} : Grows s (Machine.answered t h y holder kept) :=
  hs.closeTxn.ite hs.modHome

theorem wbPut {h line : Nat} {d : List Byte} : Grows s (Machine.wbPut t h line d) := hs.fsat.ite hs.fsat.linePut

theorem recallPut {h : Nat} {y : Txn} {line : Nat} {d : List Byte} : Grows s (Machine.recallPut t h y line d) := hs.ite hs.wbPut

theorem takeResp {m : RespMsg} : Grows s (Machine.takeResp t m) := by
  unfold Machine.takeResp
  dsimp only
  split
  · exact hs.update.discardLate
  · split
    · exact hs.update.wbPut
    · exact (hs.update.wbPut.ite hs.update.wbPut.setEntry).ite hs.update.discardLate
    · exact hs.update.recallPut.answered
    · exact hs.update.discardLate
    · exact hs.update.fsat.answered
    · exact hs.update.discardLate
    · exact hs.update.answered
    · exact hs.update.discardLate

omit hs in
theorem settleReq {s t : State} (hs : Grows s t) {n m k : Nat} : Grows s (Machine.settleReq n t m k) := by
  unfold Machine.settleReq
  dsimp only
  split
  · exact hs
  · split
    · exact hs.doProbe.settleReq
    · split
      · exact hs.takeResp.showHome.settleReq
      · exact hs

theorem coreErr {d c kind addr : Nat} : Grows s (Machine.coreErr t d c kind addr) := hs.update

theorem loadError {d c kind addr : Nat} : Grows s (Machine.loadError t d c kind addr) := hs.update

theorem storeErr {d c kind addr : Nat} : Grows s (Machine.storeErr t d c kind addr) := hs.coreErr.modCore.ite hs.coreErr.modCore

theorem installLine {d c : Nat} {m : DataMsg} : Grows s (Machine.installLine t d c m) := (hs.mapHolder.ite hs).putL2

theorem takeData {d c : Nat} {m : DataMsg} : Grows s (Machine.takeData t d c m).2 := by
  unfold Machine.takeData
  split
  · exact hs.update
  · exact hs.update.installLine

theorem l3Fill {u : State} {d c line : Nat} {own : Bool} (hu : Machine.l3Fill t d c line own = some u) : Grows s u := by
  unfold Machine.l3Fill at hu
  split at hu
  · cases hu
  · split at hu
    · cases hu
    · rw [← Option.some.inj hu]
      exact hs.update.putL2

theorem acquire {d c line : Nat} {own : Bool} : Grows s (Machine.acquire t d c line own).2 := by
  unfold Machine.acquire
  dsimp only
  split
  · exact hs
  · split
    · exact hs.l3Fill ‹_›
    · split
      · exact hs
      · split
        · exact hs.arriveReq.settleReq.takeData
        · exact hs.arriveReq.settleReq

theorem writeL2 {d c a : Nat} {bs : List Byte} : Grows s (Machine.writeL2 t d c a bs) := by
  unfold Machine.writeL2
  split
  · exact hs
  · exact hs.putL2.fillL1

theorem missStore {d c : Nat} {b : BufStore} : Grows s (Machine.missStore t d c b) := hs.update

theorem performStore {d c : Nat} {b : BufStore} : Grows s (Machine.performStore t d c b).2 := by
  unfold Machine.performStore
  split
  · exact hs.storeErr
  · split
    · exact (hs.acquire.snd ‹_›).writeL2
    · exact (hs.acquire.snd ‹_›).storeErr
    · exact (hs.acquire.snd ‹_›).missStore

omit hs in
theorem drainList {s t : State} (hs : Grows s t) {p : BufStore → Bool} {l : List BufStore} {n m : Nat} :
    Grows s (Machine.drainList p l t n m).2 := by
  unfold Machine.drainList
  dsimp only
  split
  · exact hs
  · split
    · exact hs.drainList
    · split <;> exact hs.performStore.drainList

theorem drainStores {d c : Nat} {p : BufStore → Bool} : Grows s (Machine.drainStores t d c p) := by
  unfold Machine.drainStores
  exact hs.drainList.modCore

theorem bindLoad {d c a n : Nat} {line : List Byte} : Grows s (Machine.bindLoad t d c a n line) := hs.update

theorem bindLine {d c a n : Nat} {own : BitVec 64 × List Byte} : Grows s (Machine.bindLine t d c a n own) := by
  unfold Machine.bindLine
  split
  · exact hs.fillL1.bindLoad
  · exact hs

theorem retireFor {d c line : Nat} : Grows s (Machine.retireFor t d c line) := hs.update

theorem deliver {d c line : Nat} : Grows s (Machine.deliver t d c line) := by
  unfold Machine.deliver
  split
  · split
    · exact hs
    · exact ((hs.takeData.modCore.foldl fun _ _ hu => hu.ite (hu.loadError.ite hu.bindLine)).ite
        (hs.takeData.modCore.foldl fun _ _ hu => hu.ite (hu.loadError.ite hu.bindLine)).modCore.storeErr).ite
        ((hs.takeData.modCore.foldl fun _ _ hu => hu.ite (hu.loadError.ite hu.bindLine)).ite
        (hs.takeData.modCore.foldl fun _ _ hu => hu.ite (hu.loadError.ite hu.bindLine)).retireFor.drainStores)
  · split
    · exact hs
    · exact hs.update.ite hs.update.putLink

omit hs in
theorem settleLine {s t : State} (hs : Grows s t) {n m : Nat} : Grows s (Machine.settleLine n t m) := by
  unfold Machine.settleLine
  dsimp only
  split
  · exact hs
  · split
    · exact hs.doProbe.settleLine
    · split
      · exact hs.takeResp.showHome.settleLine
      · split
        · exact (hs.deliver.ite hs.deliver).settleLine
        · split
          · exact hs.takeResp.showHome.settleLine
          · exact hs

theorem ncReq {r : CohReq} : Grows s (Machine.ncReq t r).2 := by
  unfold Machine.ncReq
  dsimp only
  split
  · split
    · exact hs.settleLine.arriveReq.settleLine.update
    · exact hs.settleLine.arriveReq.settleLine
  · exact hs.settleLine.arriveReq.settleLine

theorem ncWrite1 {a : Nat} {bs : List Byte} : Grows s (Machine.ncWrite1 t a bs).2 := hs.ncReq

theorem ncWrite {a : Nat} {bs : List Byte} : Grows s (Machine.ncWrite t a bs).2 := hs.foldlSnd fun _ _ hu => hu.ncWrite1

theorem recPut {a : Nat} {bs : List Byte} {target : Nat} : Grows s (Machine.recPut t a bs target).2 := hs.ncReq

theorem recWrite {a : Nat} {bs : List Byte} : Grows s (Machine.recWrite t a bs) := hs.recPut

theorem recStash {die a : Nat} {bs : List Byte} : Grows s (Machine.recStash t die a bs) := hs.recPut

end Grows

end Sys2Proof.Proofs
end


section
/-! What the end of requests at a port and the settling of stalled streams leave as it is: resets, link ports, Ethernet ports that
are not up, and events on their way. -/

namespace Sys2Proof.Proofs

open Sys2Proof.Machine Sys2Proof.Safety Sys2Proof.Laws

/-- The places of the state of the link ports, and with `net` of that of the Ethernet ports and of their configuration. -/
def portPlace (net : Bool) (k : Nat) : Prop :=
  ∃ d r i, i < 1024 ∧ k = regKey d r i ∧
    (r = .lnkPortState ∨ net = true ∧ (d = 22 ∨ d = 23) ∧ (r = .netPortState ∨ r = .netPortCfg))

/-- A register of a block that has no slot of the link ports or of the Ethernet ports lies at none of these places. -/
theorem portPlace_ne {net : Bool} {k e j : Nat} {q : Reg} (hk : portPlace net k) (hq : q.info.blk ∉ [.engB, .lnkB, .netB])
    (hj : j < 1024) : k ≠ regKey e q j := by
  obtain ⟨d, r, i, hi, rfl, hr⟩ := hk
  intro h
  have hb : r.info.blk ≠ .engB := by rcases hr with rfl | ⟨-, -, rfl | rfl⟩ <;> decide
  obtain ⟨rfl, hs, -⟩ := regKey_inj hb (fun h => hq (by simp [h])) hi hj h
  revert hs hq
  rcases hr with rfl | ⟨-, rfl | rfl, rfl | rfl⟩
  · cases q.info.blk <;> simp [dieSlot, blkSlot, Reg.info] <;> grind
  all_goals cases q.info.blk <;> decide

/-- From one state to another resets, fuses, the places of the ports, what is on its way to the event log and, with `net`, the
Ethernet ports that are not up, stay as they were. -/
structure Beside (net : Bool) (s t : State) : Prop where
  rst : t.rst = s.rst
  fuses : t.fuses = s.fuses
  regs : ∀ k, portPlace net k → smGet t.regs k = smGet s.regs k
  ports : net = true → ∀ p < 8, fabricUp s p = false → getFab t p = getFab s p
  events : Grows s t

namespace Beside

variable {net : Bool}

theorem refl (s : State) : Beside net s s := ⟨rfl, rfl, fun _ _ => rfl, fun _ _ _ _ => rfl, .refl s⟩

theorem ite {s a b : State} {c : Prop} {_ : Decidable c} (ha : Beside net s a) (hb : Beside net s b) :
    Beside net s (if c then a else b) := by
  split
  · exact ha
  · exact hb

theorem foldl {α : Type} {s t : State} {f : State → α → State} {l : List α} (h : Beside net s t)
    (hf : ∀ u a, Beside net s u → Beside net s (f u a)) : Beside net s (l.foldl f t) :=
  List.foldlRecOn (motive := Beside net s) l f h fun u hu a _ => hf u a hu

theorem foldlSnd {α β : Type} {s t : State} {b : β} {f : β × State → α → β × State} {l : List α} (h : Beside net s t)
    (hf : ∀ p a, Beside net s p.2 → Beside net s (f p a).2) : Beside net s (l.foldl f (b, t)).2 :=
  List.foldlRecOn (motive := fun p => Beside net s p.2) l f h fun p hp a _ => hf p a hp

/-- A register of a port reads as before. -/
theorem fget {s t : State} (h : Beside net s t) {d i : Nat} {f : Fld} (hk : portPlace net (regKey d f.reg i)) :
    fget t d i f = fget s d i f := by
  simp only [Machine.fget, Machine.rget, resetWord, h.regs _ hk, h.fuses]

/-- An Ethernet port stays up or not up. -/
theorem fabricUp {s t : State} (h : Beside true s t) {p : Nat} (hp : p < 8) : fabricUp t p = fabricUp s p := by
  have hd : 22 + p / 4 = 22 ∨ 22 + p / 4 = 23 := by omega
  have hi : p % 4 < 1024 := by omega
  rw [Machine.fabricUp, h.fget ⟨_, _, _, hi, rfl, .inr ⟨rfl, hd, .inl rfl⟩⟩,
    h.fget ⟨_, _, _, hi, rfl, .inr ⟨rfl, hd, .inr rfl⟩⟩, Machine.fabricUp]

variable {s t : State} (hs : Beside net s t)
include hs

omit hs in
/-- A change of anything else. -/
theorem update {s t : State} (h : Beside net s t) {pending time fresh rowFuses rowMap mem near ostore poison flaws failedPcs ceLog
    scrubFrom recals cores vecs irqOut engines rdc tok launches ctxs rrNext mediaQ regions xlat coh links parcels routes ctrs qps remotes
    nextTag probes pcie roce power persist pins uart0 sec jtag ddr} :
    Beside net s ⟨pending, time, fresh, t.regs, t.fuses, rowFuses, rowMap, mem, near, ostore, poison, flaws, failedPcs, ceLog, scrubFrom,
      recals, cores, vecs, irqOut, engines, rdc, tok, launches, ctxs, rrNext, mediaQ, regions, xlat, coh, links, parcels,
      ⟨routes, ctrs, qps, t.net.ports, remotes, nextTag, probes, pcie, roce⟩, power, persist, t.rst, pins, uart0, sec, t.evt, jtag,
      ddr⟩ :=
  ⟨h.rst, h.fuses, h.regs, h.ports, h.events⟩

theorem fput {d i : Nat} {f : Fld} {v : Nat} (hf : f.reg.info.blk ∉ [.engB, .lnkB, .netB] := by decide)
    (hi : i < 1024 := by decide) : Beside net s (Machine.fput t d i f v) :=
  ⟨hs.rst, hs.fuses, fun k hk => (smGet_smPut_ne _ _ _ _ (portPlace_ne hk hf hi)).trans (hs.regs k hk), hs.ports, hs.events.update⟩

theorem fsat {d i : Nat} {f : Fld} {n : Nat} (hf : f.reg.info.blk ∉ [.engB, .lnkB, .netB] := by decide)
    (hi : i < 1024 := by decide) : Beside net s (Machine.fsat t d i f n) := hs.fput hf hi

theorem fhigh {d i : Nat} {f : Fld} {n : Nat} (hf : f.reg.info.blk ∉ [.engB, .lnkB, .netB] := by decide)
    (hi : i < 1024 := by decide) : Beside net s (Machine.fhigh t d i f n) := hs.fput hf hi

theorem raise {code sev src ctx : Nat} {detail : BitVec 128} : Beside net s (Machine.raise t code sev src ctx detail) :=
  ⟨hs.rst, hs.fuses, hs.regs, hs.ports, hs.events.raise⟩

theorem draw : Beside net s (Machine.draw t).2 := hs.update

/-- A request at the homes. -/
theorem ncReq {r : CohReq} : Beside net s (Machine.ncReq t r).2 := by
  have hh : HomesOnly t (Machine.ncReq t r).2 := (HomesOnly.refl t).ncReq
  have hd : Drains 16 0 t (Machine.ncReq t r).2 := (Drains.refl t).ncReq
  refine ⟨(hh.get (f := State.rst)).trans hs.rst, hd.fuses.trans hs.fuses, fun k hk => (hd.regs k ?_).trans (hs.regs k hk),
    fun h p hp hup => (hh.get (f := fun u => getFab u p)).trans (hs.ports h p hp hup), hs.events.ncReq⟩
  rintro (⟨d, q, hq, hkq⟩ | ⟨d, c, q, hc, hq, hkq⟩)
  · refine portPlace_ne hk ?_ (by decide) hkq
    rcases hq with ⟨-, hb⟩ | ⟨-, rfl | rfl⟩ | ⟨-, rfl | rfl⟩
    · rw [hb]
      decide
    all_goals decide
  · refine portPlace_ne hk ?_ ?_ hkq
    · rcases hq with rfl | rfl <;> decide
    · rcases hc with ⟨-, hc⟩ | ⟨-, hc⟩ <;> omega

theorem ncWrite {a : Nat} {bs : List Byte} : Beside net s (Machine.ncWrite t a bs).2 := hs.foldlSnd fun _ _ hu => hu.ncReq

theorem recWrite {a : Nat} {bs : List Byte} : Beside net s (Machine.recWrite t a bs) := hs.ncReq

theorem recStash {die a : Nat} {bs : List Byte} : Beside net s (Machine.recStash t die a bs) := hs.ncReq

theorem sendIrq {v : Nat} : Beside net s (Machine.sendIrq t v) := hs.update

theorem modCmd {c seq : Nat} {f : Cmd → Cmd} : Beside net s (Machine.modCmd t c seq f) := hs.update

theorem modLaunch {c seq : Nat} {f : Launch → Launch} : Beside net s (Machine.modLaunch t c seq f) := hs.update

theorem launchErr {c seq status : Nat} {detail : BitVec 64} : Beside net s (Machine.launchErr t c seq status detail) :=
  hs.update

theorem modSlot {c seq i : Nat} {f : Slot → Slot} : Beside net s (Machine.modSlot t c seq i f) := hs.update

theorem modStream {c seq i : Nat} {f : Machine.Stream → Machine.Stream} : Beside net s (Machine.modStream t c seq i f) :=
  hs.update

theorem elWrite {d e a : Nat} {bs : List Byte} : Beside net s (Machine.elWrite t d e a bs) :=
  .ite hs.update hs.update

theorem noteNear {c q : Nat} {w : Agent} {d e a n : Nat} {group : Option Nat} {done rising : Bool} :
    Beside net s (Machine.noteNear t c q w d e a n group done rising) :=
  hs.update

theorem observe {a : Agent} {c q : Nat} {may : Fog → Bool} : Beside net s (Machine.observe t a c q may) := by
  unfold Machine.observe
  split
  · exact hs
  · exact hs.ite hs.update.modLaunch

/-- The queue and the list of an Ethernet port that is up. -/
theorem putFab {p : Nat} {x : FabricPort} (hup : net = true → Machine.fabricUp t p = true) :
    Beside net s (Machine.putFab t p x) := by
  refine ⟨hs.rst, hs.fuses, hs.regs, fun h q hq hdown => ?_, hs.events.update⟩
  subst h
  have hne : q ≠ p := by
    rintro rfl
    rw [hs.fabricUp hq, hdown] at hup
    cases hup rfl
  exact ((smGetD_smPut ..).trans (if_neg hne)).trans (hs.ports rfl q hq hdown)

theorem hopSend {p kind : Nat} {f : Frame} (hup : net = true → Machine.fabricUp t p = true) :
    Beside net s (Machine.hopSend t p kind f) := by
  have hleave {u : State} (hu : Beside net s u) (h : net = true → Machine.fabricUp u p = true) :
      Beside net s (Machine.hopLeave u p) := by
    unfold Machine.hopLeave
    dsimp only
    split
    · exact hu
    · exact hu.putFab h
  exact (hs.putFab hup).ite (.ite (hs.putFab hup).update (hleave (hs.putFab hup).update hup))

theorem fabricSend {u : State} {kind dev tag : Nat} {arg : BitVec 64} {payload : List Byte}
    (hu : Machine.fabricSend t kind dev tag arg payload = some u) : Beside net s u := by
  obtain ⟨w, -, hw⟩ := Option.bind_eq_some_iff.1 hu
  dsimp only at hw
  split at hw
  · rw [← Option.some.inj hw]
    exact hs.hopSend fun _ => ‹_›
  · cases hw

theorem fabricRequest {u : State} {kind dev addr : Nat} {arg : BitVec 64} {req : Requester} {payload : List Byte}
    {detail : BitVec 64} (hu : Machine.fabricRequest t kind dev addr arg req payload detail = some u) : Beside net s u := by
  obtain ⟨v, hv, rfl⟩ := Option.map_eq_some_iff.1 hu
  exact (hs.fabricSend hv).update

theorem modAgent {a : Agent} {f : Slot → Slot} {g : Machine.Stream → Machine.Stream} : Beside net s (Machine.modAgent t a f g) := by
  unfold Machine.modAgent
  split
  · split
    · exact hs.modSlot
    · exact hs
  · split
    · exact hs.modStream
    · exact hs

theorem holdAgent {a : Agent} {h : Hold} : Beside net s (Machine.holdAgent t a h) := hs.modAgent

theorem putQp {pd n : Nat} {q : Qp} : Beside net s (Machine.putQp t pd n q) := hs.update

theorem modQp {pd n : Nat} {f : Qp → Qp} : Beside net s (Machine.modQp t pd n f) := by
  unfold Machine.modQp
  split
  · exact hs.putQp
  · exact hs

theorem qpRecord {pd n status flags seq : Nat} {detail : BitVec 64} :
    Beside net s (Machine.qpRecord t pd n status flags seq detail) := by
  unfold Machine.qpRecord
  split
  · exact hs
  · exact hs.putQp
  · exact hs.recWrite.putQp.sendIrq.ite hs.recWrite.putQp

theorem ringFull {q : Qp} : Beside net s (Machine.ringFull t q).2 := by
  unfold Machine.ringFull
  split
  · exact hs
  · exact hs.draw

omit hs in
theorem endPosted {s t : State} (hs : Beside net s t) {n m k : Nat} : Beside net s (Machine.endPosted n t m k) := by
  unfold Machine.endPosted
  dsimp only
  split
  · exact hs
  · split
    · exact hs
    · split
      · exact hs
      · exact hs.ite (hs.ringFull.ite hs.ringFull.qpRecord.modQp.endPosted)

theorem settleQp {pd n : Nat} : Beside net s (Machine.settleQp t pd n) := by
  unfold Machine.settleQp
  split
  · exact hs
  · exact hs.endPosted

theorem qpError {pd n status : Nat} : Beside net s (Machine.qpError t pd n status) := hs.modQp.settleQp

theorem nakPeer {pd n : Nat} {k : Nak} : Beside net s (Machine.nakPeer t pd n k) := hs.modQp

theorem qpFail {pd n status : Nat} : Beside net s (Machine.qpFail t pd n status) := hs.qpError.nakPeer.ite hs.modQp.settleQp

/-- Setting an error bit of the Finders of a hub. -/
theorem errFlag {h : Nat} {x : Fld} (hx : x.reg = .fndErrStatus) : Beside net s (Machine.fput t h 0 x 1) :=
  hs.fput (by rw [hx]; decide)

theorem finderError {h f c stream ctx status : Nat} {command : Bool} :
    Beside net s (Machine.finderError t h f c stream ctx status command) := by
  unfold Machine.finderError
  dsimp only
  split
  · split
    · exact hs.fput.fsat.fput.fput.fput.fput.fput.fput.fsat.raise
    · exact hs.fput.fsat.fput.fput.fput.fput.fput.fput.fsat.raise
    · split
      · next hx => exact (hs.errFlag (by split_ifs at hx <;> cases hx <;> rfl)).fsat.fput.fput.fput.fput.fput.fput.raise
      · exact hs.fsat.fput.fput.fput.fput.fput.fput.raise
  · split
    · exact hs.fput.fsat.fput.fput.fput.fput.fput.fput.fsat
    · exact hs.fput.fsat.fput.fput.fput.fput.fput.fput.fsat
    · split
      · next hx => exact (hs.errFlag (by split_ifs at hx <;> cases hx <;> rfl)).fsat.fput.fput.fput.fput.fput.fput
      · exact hs.fsat.fput.fput.fput.fput.fput.fput

theorem failReq {r : Requester} {status record : Nat} : Beside net s (Machine.failReq t r status record) := by
  unfold Machine.failReq
  split
  · exact hs.holdAgent.launchErr
  · exact hs.finderError.modAgent.launchErr
  · exact hs.modCmd
  · exact hs.modCmd
  · exact hs.qpFail

theorem writeFault {r : FaultRec} : Beside net s (Machine.writeFault t r) := hs.recStash

theorem putFaults {l : List FaultRec} : Beside net s (Machine.putFaults t l) :=
  hs.update.fput (t := { t with xlat := { t.xlat with faults := l } })

theorem withdraw {p : Requester → Bool} : Beside net s (Machine.withdraw t p) := hs.update.putFaults.foldl fun _ _ hu => hu.writeFault

theorem remoteWrite {r : Requester} {dev a : Nat} {bs : List Byte} : Beside net s (Machine.remoteWrite t r dev a bs).2 := by
  unfold Machine.remoteWrite
  split
  · exact hs
  · split
    · exact hs.fabricRequest ‹_›
    · exact hs

theorem putRdc {md : Nat} {x : RdCache} : Beside net s (Machine.putRdc t md x) := hs.update

theorem failFill {md : Nat} {f : Fill} {status : Nat} : Beside net s (Machine.failFill t md f status) := by
  unfold Machine.failFill
  refine hs.putRdc.foldl fun _ _ hu => ?_
  split
  · exact hu.failReq
  · exact hu

theorem endFill {md tag status : Nat} : Beside net s (Machine.endFill t md tag status) := by
  unfold Machine.endFill
  split
  · exact hs
  · exact hs.failFill

theorem failAccess {r : RemoteReq} {status : Nat} : Beside net s (Machine.failAccess t r status) := by
  unfold Machine.failAccess
  split
  · exact hs.endFill.ite hs.failReq
  · exact hs.failReq
  · exact hs.failReq
  · exact hs.failReq
  · exact hs.failReq

theorem observeReq {r : Requester} : Beside net s (Machine.observeReq t r) := by
  unfold Machine.observeReq
  split
  · exact hs.observe
  · exact hs
  · exact hs
  · exact hs

theorem noteWrite {r : Requester} {tag : Nat} {l : Loc} {n : Nat} : Beside net s (Machine.noteWrite t r tag l n) := by
  unfold Machine.noteWrite
  split
  · exact hs.noteNear
  · exact hs.modLaunch
  · exact hs

theorem putLine {r : Requester} {tag : Nat} {x : Loc × List Flagged} : Beside net s (Machine.putLine t r tag x).2 := by
  unfold Machine.putLine
  split
  · exact hs.noteWrite.elWrite
  · exact hs.noteWrite.ncWrite
  · exact hs.remoteWrite
  · exact hs

theorem putSome {r : Requester} {tag : Nat} {ls : List (Loc × List Flagged)} : Beside net s (Machine.putSome t r tag ls).2 := by
  unfold Machine.putSome
  refine hs.foldlSnd fun _ _ hu => ?_
  dsimp only
  split
  · exact hu.draw.putLine
  · exact hu.draw

theorem dropData {r : Requester} : Beside net s (Machine.dropData t r) := hs.update

theorem cancelJob {r : Requester} {c : Nat} {j : Job} {blk : List (Loc × Nat)} : Beside net s (Machine.cancelJob t r c j blk).2 := by
  unfold Machine.cancelJob
  dsimp only
  split
  · exact hs.observeReq.putSome.dropData
  · exact hs.observeReq.dropData

theorem showFinders {h : Nat} : Beside net s (Machine.showFinders t h) := by
  refine List.foldlRecOn (motive := Beside net s) _ _ hs.fput.fhigh fun u hu f hf => ?_
  have hf : f < 1024 := by
    have := List.mem_range.1 hf
    omega
  exact (((hu.fput (by decide) hf).fput (by decide) hf).fput (by decide) hf).fput (by decide) hf

omit hs in
theorem breakMoves {s t : State} (hs : Beside net s t) {r : Requester} {l : Launch} {p : Move → Bool} {ls : List Move}
    {rs : List (Loc × Nat)} : Beside net s (Machine.breakMoves r l p ls rs t) := by
  unfold Machine.breakMoves
  split
  · exact hs
  · exact hs.cancelJob.breakMoves.ite hs.breakMoves

theorem cancelMoves {h f c : Nat} {l : Launch} {i : Nat} {x : Machine.Stream} {p : Move → Bool} {blk : List (Loc × Nat)} :
    Beside net s (Machine.cancelMoves t h f c l i x p blk) := by
  unfold Machine.cancelMoves
  exact (hs.breakMoves.withdraw.ite hs.breakMoves).fsat.modStream.showFinders

theorem beginStall {h f c : Nat} {l : Launch} {i : Nat} {m : Move} : Beside net s (Machine.beginStall t h f c l i m) :=
  hs.ite hs.cancelJob.modStream

theorem endHeadMove {h f c : Nat} {left : List (Loc × Nat)} : Beside net s (Machine.endHeadMove t h f c left) := by
  unfold Machine.endHeadMove
  split
  · exact hs
  · exact hs.modStream.cancelMoves

theorem settleStream {a : Nat × Nat × Nat} : Beside net s (Machine.settleStream t a) := by
  unfold Machine.settleStream
  split
  · exact hs
  · split
    · exact hs.showFinders
    · split
      · split
        · exact hs.endHeadMove
        · exact hs.cancelJob.endHeadMove
      · exact (hs.beginStall.showFinders.ite hs.beginStall.cancelMoves).ite hs.showFinders

theorem settleStalls : Beside net s (Machine.settleStalls t) := hs.foldl fun _ _ hu => hu.settleStream

theorem forgetRemote {r : RemoteReq} : Beside net s (Machine.forgetRemote t r) := hs.update

theorem failRemote {r : RemoteReq} : Beside net s (Machine.failRemote t r) := by
  unfold Machine.failRemote
  split
  · exact hs.forgetRemote
  · split
    · split
      · exact hs.forgetRemote.holdAgent.launchErr
      · exact hs.forgetRemote
      · exact hs.forgetRemote
      · exact hs.forgetRemote
    · exact hs.forgetRemote.failAccess

theorem qpsPortDown {p : Nat} : Beside net s (Machine.qpsPortDown t p) := hs.foldl fun _ _ hu => hu.qpError

end Beside

end Sys2Proof.Proofs
end


section
/-! Hops and the links of the Ethernet ports (R435, R436, R442 to R445). -/

namespace Sys2Proof.Proofs

open Sys2Proof.Machine Sys2Proof.Safety Sys2Proof.Laws

/-! ### Hops (R443, R444) -/

@[simp] theorem getFab_putFab (s : State) (p : Nat) (x : FabricPort) : getFab (putFab s p x) p = x := by
  simp [getFab, putFab]

theorem fget_putFab (s : State) (p : Nat) (x : FabricPort) (d i : Nat) (f : Fld) : fget (putFab s p x) d i f = fget s d i f := rfl

/-- Frames up to the acknowledged one leave the list of a hop. -/
theorem ackTo_of_tx {s : State} {p n : Nat} {x : TxFrame} {r : List TxFrame} (htx : (getFab s p).tx = x :: r)
    (hn : (n + 2 ^ 32 - x.frame.seq) % 2 ^ 32 ≤ r.length + 1) :
    ackTo s p n = putFab s p { getFab s p with tx := (x :: r).drop ((n + 2 ^ 32 - x.frame.seq) % 2 ^ 32) } := by
  unfold ackTo
  simp only [htx, List.length_cons]
  exact if_pos hn

theorem getFab_raise (s : State) (code sev src ctx : Nat) (x : BitVec 128) (p : Nat) :
    getFab (raise s code sev src ctx x) p = getFab s p := rfl

/-- An event that is raised is on its way to the log. -/
theorem code_mem_raise (s : State) (code sev src ctx : Nat) (x : BitVec 128) :
    code ∈ (raise s code sev src ctx x).evt.arriving.map (·.code) :=
  List.mem_map_of_mem (List.mem_append_right _ (List.mem_singleton_self _))

/-- The retransmission of a list whose first frame has tries left. -/
theorem doHopRetransmit_of_tries {s : State} {p : Nat} {x : TxFrame} {r : List TxFrame} (hup : fabricUp s p = true)
    (htx : (getFab s p).tx = x :: r) (ht : x.tries < 16) :
    ∃ out, doHopRetransmit p s =
      fsat (putFab s p { getFab s p with tx := (x :: r).map fun y => { y with tries := y.tries + 1 }, out := out })
        (22 + p / 4) (p % 4) Fl.NET_PORT_STATE_RETRANSMITS (r.length + 1) := by
  unfold doHopRetransmit
  simp only [htx, hup, ht, Bool.not_true, Bool.false_eq_true, if_false, if_true]
  exact ⟨_, rfl⟩

/-- The retransmission of a list whose first frame has none. -/
theorem doHopRetransmit_of_spent {s : State} {p : Nat} {x : TxFrame} {r : List TxFrame} (hup : fabricUp s p = true)
    (htx : (getFab s p).tx = x :: r) (ht : 16 ≤ x.tries) :
    doHopRetransmit p s = raise (portDown s p 1) 0x0703 2 (portUnit p) := by
  unfold doHopRetransmit
  simp only [htx, hup, Nat.not_lt.2 ht, Bool.not_true, Bool.false_eq_true, if_false]

/-- A frame for another device that a port takes with hops left leaves by the route's port. -/
theorem doFrameForward_of_taken {s : State} {p k e : Nat} {f : Frame} (ht : takeFrame s p f = some (taken s p f))
    (hdst : f.dst ≠ deviceId s) (httl : 1 < f.ttl) (he : egress (taken s p f) f.dst = some e)
    (hup : fabricUp (taken s p f) e = true) :
    doFrameForward p k f s = hopSend (taken s p f) e k { f with ttl := f.ttl - 1 } := by
  unfold doFrameForward
  simp only [if_neg hdst, ht, if_neg (Nat.not_le.2 httl), he, if_pos hup]

/-- One without is dropped. -/
theorem doFrameForward_of_spent {s : State} {p k : Nat} {f : Frame} (ht : takeFrame s p f = some (taken s p f))
    (hdst : f.dst ≠ deviceId s) (httl : f.ttl ≤ 1) :
    doFrameForward p k f s = fsat (taken s p f) (22 + p / 4) (p % 4) Fl.NET_PORT_STATE_TTL_DROPS 1 := by
  unfold doFrameForward
  simp only [if_neg hdst, ht, if_pos httl]

/-- One out of order changes nothing. -/
theorem doFrameForward_of_disorder {s : State} {p : Nat} {f : Frame} (hseq : f.seq ≠ (getFab s p).rxSeq) (k : Nat) :
    doFrameForward p k f s = s := by
  have ht : takeFrame s p f = none := if_neg fun h => hseq h.2.1
  unfold doFrameForward
  rw [ht]
  exact ite_self s

/-- A frame put on a hop where none waits, waits there or has left with the hop's next sequence number. -/
theorem hopSend_of_empty {s : State} {p : Nat} (hq : (getFab s p).queue = []) (k : Nat) (f : Frame) :
    ((getFab (hopSend s p k f) p).queue = [(k, f)] ∧ (getFab (hopSend s p k f) p).tx = (getFab s p).tx) ∨
      ((getFab (hopSend s p k f) p).queue = [] ∧ (getFab (hopSend s p k f) p).tx =
        (getFab s p).tx ++ [⟨k, { f with seq := (getFab s p).txSeq, ack := (getFab s p).rxSeq }, 0⟩]) := by
  have hwait : getFab (drawBelow (putFab s p { getFab s p with queue := [(k, f)] }) 2).2 p = { getFab s p with queue := [(k, f)] } :=
    getFab_putFab ..
  unfold hopSend
  simp only [hq, List.takeWhile_nil, List.length_nil, ite_self, List.take_nil, List.drop_nil, List.nil_append, List.isEmpty_nil,
    Bool.not_true, Bool.false_eq_true, if_false]
  split
  · exact .inl (by rw [hwait]; exact ⟨rfl, rfl⟩)
  · refine .inr ?_
    unfold hopLeave
    simp only [hwait, getFab_putFab, true_and]

/-! ### Links of the ports (R436) -/

/-- A port whose requests are still to end: not up, and without frames. -/
def emptied (s : State) (p state : Nat) : State :=
  putFab (fput s (22 + p / 4) (p % 4) Fl.NET_PORT_STATE_STATE state) p { FabricPort.fresh with out := (getFab s p).out }

/-- The end of the requests of a port leaves the port as it is. -/
theorem portDown_beside {net : Bool} (s : State) (p state : Nat) : Beside net (emptied s p state) (portDown s p state) := by
  unfold portDown
  exact ((Beside.refl (emptied s p state)).foldl fun _ _ hu => hu.failRemote).settleStalls

theorem emptied_state (s : State) (p : Nat) {state : Nat} (h : state < 4) :
    fget (emptied s p state) (22 + p / 4) (p % 4) Fl.NET_PORT_STATE_STATE = state :=
  fget_fput_of_lt s _ _ Fl.NET_PORT_STATE_STATE (by decide) (by decide) h

/-- With no request of another device on its way and no busy stream nothing else happens. -/
theorem portDown_of_quiet {s : State} (hr : s.net.remotes = []) (hb : busyStreams s = []) (p state : Nat) :
    portDown s p state = emptied s p state := by
  have hr : (emptied s p state).net.remotes = [] := hr
  have hb : busyStreams (emptied s p state) = [] := hb
  change settleStalls (((emptied s p state).net.remotes.filter _).foldl failRemote (emptied s p state)) = _
  rw [hr, List.filter_nil, List.foldl_nil, settleStalls, hb, List.foldl_nil]

/-- A port that went down keeps its STATE, and nothing of its hop. -/
theorem portDown_spec (s : State) {p : Nat} (hp : p < 8) :
    fget (portDown s p 1) (22 + p / 4) (p % 4) Fl.NET_PORT_STATE_STATE = 1 ∧ (getFab (portDown s p 1) p).tx = [] := by
  have hd : Beside true (emptied s p 1) (portDown s p 1) := portDown_beside s p 1
  have hstate := emptied_state s p (state := 1) (by decide)
  have hup : fabricUp (emptied s p 1) p = false := by
    unfold fabricUp
    rw [hstate]
    rfl
  refine ⟨(hd.fget ⟨_, _, _, by omega, rfl, .inr ⟨rfl, by omega, .inl rfl⟩⟩).trans hstate, ?_⟩
  rw [hd.ports rfl p hp hup, emptied, getFab_putFab]
  rfl

theorem RegsBut.putFab {s t : State} {ks : List Nat} (h : RegsBut s t ks) (p : Nat) (x : FabricPort) :
    RegsBut s (putFab t p x) ks := h

/-- Settles O37: what ends with a port neither brings it up again nor sends by it. -/
theorem hopsDeliverInOrder : Obligations.HopsDeliverInOrder := by
  have hin (p : Nat) : regKey (22 + p / 4) .netPortState (p % 4) ∈ [regKey (22 + p / 4) .netPortState (p % 4)] :=
    List.mem_singleton_self _
  refine ⟨?ack, ?again, ?spent, ?forward, ?send, ?drop, ?disorder, ?up, ?noClock, ?noId, ?quiet, ?down⟩
  case ack =>
    intro p n x r s hup htx hn
    exact congrArg Host.Outcome.next ((if_pos hup).trans (ackTo_of_tx htx hn))
  case again =>
    intro p x r s hp hup htx ht
    obtain ⟨out, hs⟩ := doHopRetransmit_of_tries hup htx ht
    refine ⟨_, congrArg Host.Outcome.next hs, ?_, ⟨rfl, rfl, rfl⟩, rfl, RegsBut.fput (RegsBut.refl s) _ (hin p)⟩
    exact congrArg FabricPort.tx (getFab_putFab ..)
  case spent =>
    intro p x r s hp hup htx ht
    obtain ⟨hstate, hlist⟩ := portDown_spec s hp
    refine ⟨_, congrArg Host.Outcome.next (doHopRetransmit_of_spent hup htx ht), ?_, ?_, code_mem_raise ..⟩
    · rw [fget_raise]
      exact hstate
    · rw [getFab_raise]
      exact hlist
  case forward =>
    intro p e k f s hup hlen hseq hdst httl he hup'
    exact congrArg Host.Outcome.next (doFrameForward_of_taken (takeFrame_of_next hup hlen hseq) hdst httl he hup')
  case send =>
    intro s p k f hq
    exact hopSend_of_empty hq k f
  case drop =>
    intro p k f s _ hup hlen hseq hdst httl
    exact congrArg Host.Outcome.next (doFrameForward_of_spent (takeFrame_of_next hup hlen hseq) hdst httl)
  case disorder =>
    intro p k f s hseq
    exact congrArg Host.Outcome.next (doFrameForward_of_disorder hseq k)
  case up =>
    intro p q s hp hq hen hst hid hclk
    have hgo : doNetPortLinkUp p q s =
        putFab (fput (fput s (22 + p / 4) (p % 4) Fl.NET_PORT_STATE_STATE 2) (22 + p / 4) (p % 4) Fl.NET_PORT_STATE_PEER
          (if fget s (22 + p / 4) (p % 4) Fl.NET_PORT_CFG_MODE = 1 then q else 0)) p FabricPort.fresh := by
      unfold doNetPortLinkUp
      refine if_neg ?_
      simp only [hen, hst, hclk, Bool.not_true]
      rintro (h | h | ⟨h, h'⟩ | h)
      · cases h
      · exact h rfl
      · exact hid.elim (· h') fun h0 => by omega
      · cases h
    refine ⟨_, congrArg Host.Outcome.next hgo, ?_, getFab_putFab .., ⟨rfl, rfl, rfl⟩, ?_,
      RegsBut.putFab (RegsBut.fput (RegsBut.fput (RegsBut.refl s) _ (hin p)) _ (hin p)) ..⟩
    · rw [fget_putFab, fget_fput_other (by decide), fget_fput_of_lt _ _ _ _ (by decide) (by decide) (by decide)]
    · rw [fget_putFab]
      refine fget_fput_of_lt _ _ _ Fl.NET_PORT_STATE_PEER (by decide) (by decide) ?_
      split
      · exact hq
      · decide
  case noClock =>
    intro p q s hclk
    exact congrArg Host.Outcome.next (if_pos (by simp [hclk]))
  case noId =>
    intro p q s hid hm
    exact congrArg Host.Outcome.next (if_pos (.inr (.inr (.inl ⟨hm, hid⟩))))
  case quiet =>
    intro p s hp hst hr hb
    refine ⟨_, congrArg Host.Outcome.next ((if_pos hst).trans (portDown_of_quiet hr hb p 1)), emptied_state s p (by decide),
      getFab_putFab .., ⟨rfl, rfl, rfl⟩, RegsBut.fput (RegsBut.refl s) _ (hin p)⟩
  case down =>
    intro p s hst
    exact congrArg Host.Outcome.next (if_pos hst)

end Sys2Proof.Proofs
end


section
/-! Sahic links: training, retraining and loss (R392 to R401). -/

namespace Sys2Proof.Proofs

open Sys2Proof.Machine Sys2Proof.Safety Sys2Proof.Laws

/-! ### The two ends of a link -/

theorem dieType_of_ge {d : Nat} (h : 25 ≤ d) : dieType d = dieType 24 := by
  rw [dieType, if_neg (by omega), if_neg (by omega), if_neg (by omega), if_neg (by omega), if_neg (by omega)]
  rfl

theorem linkEnd_of_ge {d : Nat} (h : 25 ≤ d) (p : Nat) : linkEnd d p = linkEnd 24 p := by
  unfold linkEnd
  rw [dieType_of_ge h]
  rfl

/-- The far end of a port: another die, a port number below 16, and as many lanes. -/
theorem lnkPeer_of_exists {d p : Nat} (h : lnkExists d p = true) :
    p < 16 ∧ (lnkPeer d p).1 ≠ d ∧ (lnkPeer d p).2 < 16 ∧ laneCount (lnkPeer d p).1 (lnkPeer d p).2 = laneCount d p ∧
      lnkActive d p < 512 := by
  have hsmall : ∀ d < 25, ∀ p < 16, lnkExists d p = true → (lnkPeer d p).1 ≠ d ∧ (lnkPeer d p).1 < 25 ∧ (lnkPeer d p).2 < 16 ∧
      laneCount (lnkPeer d p).1 (lnkPeer d p).2 = laneCount d p ∧ lnkActive d p < 512 := by decide
  have hp : p < 16 := by
    have : linkPorts d ≤ 16 := by unfold linkPorts; split <;> omega
    have := of_decide_eq_true h
    omega
  refine ⟨hp, ?_⟩
  by_cases hd : d < 25
  · obtain ⟨hne, -, hq⟩ := hsmall d hd p hp h
    exact ⟨hne, hq⟩
  · have ht := dieType_of_ge (d := d) (by omega)
    have he := linkEnd_of_ge (d := d) (by omega) p
    have hx : lnkExists 24 p = true := by rw [← h]; unfold lnkExists linkPorts; rw [ht]
    obtain ⟨-, hlt, hq⟩ := hsmall 24 (by decide) p hp hx
    have hpeer : lnkPeer d p = lnkPeer 24 p := by unfold lnkPeer; rw [he]
    have hcount : laneCount d p = laneCount 24 p := by unfold laneCount lnkKind lnkActive lnkSpares; rw [he]
    have hactive : lnkActive d p = lnkActive 24 p := by unfold lnkActive; rw [he]
    rw [hpeer, hcount, hactive]
    exact ⟨by omega, hq⟩

/-- No other block has the slot of the link ports. -/
theorem dieSlot_lnk {d : Nat} {b : Blk} (h : dieSlot d b = dieSlot d .lnkB) : b = .lnkB := by
  cases b <;> simp only [dieSlot, blkSlot] at h <;> grind

/-- From one state to another at most the port registers of one die, the link state of one of its ports, the messages that wait
for a link and free values differ. -/
structure EndOnly (e q : Nat) (s t : State) : Prop where
  rest : ∃ regs links parcels fresh, t = { s with regs := regs, links := links, parcels := parcels, fresh := fresh }
  regs : ∀ d r i, r.info.blk ≠ .engB → i < 1024 → (r.info.blk ≠ .lnkB ∨ d ≠ e) →
    smGet t.regs (regKey d r i) = smGet s.regs (regKey d r i)
  links : ∀ k, k ≠ lnkKey e q → smGet t.links k = smGet s.links k

namespace EndOnly

variable {e q : Nat} {s t u : State}

theorem refl (s : State) : EndOnly e q s s := ⟨⟨_, _, _, _, rfl⟩, fun _ _ _ _ _ _ => rfl, fun _ _ => rfl⟩

theorem trans (h : EndOnly e q s t) (h' : EndOnly e q t u) : EndOnly e q s u := by
  refine ⟨?_, fun d r i hb hi hd => (h'.regs d r i hb hi hd).trans (h.regs d r i hb hi hd),
    fun k hk => (h'.links k hk).trans (h.links k hk)⟩
  obtain ⟨_, _, _, _, rfl⟩ := h.rest
  obtain ⟨_, _, _, _, hu⟩ := h'.rest
  exact ⟨_, _, _, _, hu⟩

theorem fuses (h : EndOnly e q s t) : t.fuses = s.fuses := by
  obtain ⟨_, _, _, _, rfl⟩ := h.rest
  rfl

theorem fput (h : EndOnly e q s t) {f : Fld} (v : Nat) (hq : q < 1024 := by omega) (hf : f.reg.info.blk = .lnkB := by rfl) :
    EndOnly e q s (Machine.fput t e q f v) := by
  refine h.trans ⟨⟨_, _, _, _, rfl⟩, fun d r i hb hi hd => smGet_smPut_ne _ _ _ _ ?_, fun _ _ => rfl⟩
  refine regKey_ne_of_slot hb (by rw [hf]; decide) hi hq ?_
  rcases hd with hd | hd
  · by_cases hde : d = e
    · subst hde
      exact .inr fun hs => hd (dieSlot_lnk (hs.trans (by rw [hf])))
    · exact .inl hde
  · exact .inl hd

theorem fsat (h : EndOnly e q s t) {f : Fld} (n : Nat) (hq : q < 1024 := by omega) (hf : f.reg.info.blk = .lnkB := by rfl) :
    EndOnly e q s (Machine.fsat t e q f n) := h.fput _ hq hf

theorem fwrap (h : EndOnly e q s t) {f : Fld} (n : Nat) (hq : q < 1024 := by omega) (hf : f.reg.info.blk = .lnkB := by rfl) :
    EndOnly e q s (Machine.fwrap t e q f n) := h.fput _ hq hf

theorem putLnk (h : EndOnly e q s t) (x : LinkPort) : EndOnly e q s (Machine.putLnk t e q x) :=
  h.trans ⟨⟨_, _, _, _, rfl⟩, fun _ _ _ _ _ _ => rfl, fun _ hk => smGet_smPut_ne _ _ _ _ hk⟩

/-- A register of another die reads as before. -/
theorem fget (h : EndOnly e q s t) {d i : Nat} {f : Fld} (hd : f.reg.info.blk ≠ .lnkB ∨ d ≠ e) (hb : f.reg.info.blk ≠ .engB)
    (hi : i < 1024) : fget t d i f = fget s d i f := by
  simp only [Machine.fget, Machine.rget, resetWord, h.regs d f.reg i hb hi hd, h.fuses]

/-- The link state of a port of another die is as before. -/
theorem getLnk (h : EndOnly e q s t) {d p : Nat} (hd : d ≠ e) (hp : p < 16) (hq : q < 16) : getLnk t d p = getLnk s d p := by
  have hk : lnkKey d p ≠ lnkKey e q := by
    unfold lnkKey
    omega
  simp only [Machine.getLnk, smGetD, h.links _ hk]

theorem sendFrame (h : EndOnly e q s t) (test : List Bool) : EndOnly e q s (Machine.sendFrame t e q test) := h.putLnk _

theorem takeTraining (h : EndOnly e q s t) (f : TrainFrame) : EndOnly e q s (Machine.takeTraining t e q f) := by
  unfold Machine.takeTraining
  dsimp only
  split
  · exact h.putLnk _
  · exact h.putLnk _

end EndOnly

/-- From one state to another at most the registers of link ports, link states, the messages that wait for a link and free values
differ. -/
structure LinksOnly (s t : State) : Prop where
  rest : ∃ regs links parcels fresh, t = { s with regs := regs, links := links, parcels := parcels, fresh := fresh }
  regs : ∀ d r i, r.info.blk ≠ .engB → i < 1024 → r.info.blk ≠ .lnkB → smGet t.regs (regKey d r i) = smGet s.regs (regKey d r i)

theorem EndOnly.linksOnly {e q : Nat} {s t : State} (h : EndOnly e q s t) : LinksOnly s t :=
  ⟨h.rest, fun d r i hb hi hn => h.regs d r i hb hi (.inl hn)⟩

namespace LinksOnly

variable {s t u : State}

theorem refl (s : State) : LinksOnly s s := ⟨⟨_, _, _, _, rfl⟩, fun _ _ _ _ _ _ => rfl⟩

theorem trans (h : LinksOnly s t) (h' : LinksOnly t u) : LinksOnly s u := by
  refine ⟨?_, fun d r i hb hi hn => (h'.regs d r i hb hi hn).trans (h.regs d r i hb hi hn)⟩
  obtain ⟨_, _, _, _, rfl⟩ := h.rest
  obtain ⟨_, _, _, _, hu⟩ := h'.rest
  exact ⟨_, _, _, _, hu⟩

/-- What reads none of these reads the same. -/
theorem get {α : Type} (h : LinksOnly s t) {f : State → α}
    (hf : ∀ regs links parcels fresh, f { s with regs := regs, links := links, parcels := parcels, fresh := fresh } = f s := by
      intros; rfl) : f t = f s := by
  obtain ⟨_, _, _, _, rfl⟩ := h.rest
  exact hf ..

theorem sameMem (h : LinksOnly s t) : SameMem s t := ⟨h.get, h.get, h.get⟩

/-- A register of another block reads as before. -/
theorem fget (h : LinksOnly s t) {d i : Nat} {f : Fld} (hb : f.reg.info.blk ≠ .engB) (hi : i < 1024) (hn : f.reg.info.blk ≠ .lnkB) :
    fget t d i f = fget s d i f := by
  have hfuses : t.fuses = s.fuses := h.get
  simp only [Machine.fget, Machine.rget, resetWord, h.regs d f.reg i hb hi hn, hfuses]

end LinksOnly

/-- What is done at both ends of a link is done at this end first, and then at the far one. -/
theorem bothEnds_endOnly {d p : Nat} {f : State → Nat → Nat → State} (s : State)
    (hf : ∀ u, EndOnly (lnkPeer d p).1 (lnkPeer d p).2 u (f u (lnkPeer d p).1 (lnkPeer d p).2)) :
    EndOnly (lnkPeer d p).1 (lnkPeer d p).2 (f s d p) (bothEnds s d p f) := hf _

@[simp] theorem getLnk_fput (s : State) (d p e q : Nat) (f : Fld) (v : Nat) : getLnk (fput s e q f v) d p = getLnk s d p := rfl

@[simp] theorem fget_putLnk (s : State) (d p e q : Nat) (f : Fld) (x : LinkPort) : fget (putLnk s e q x) d p f = fget s d p f := rfl

/-- Two registers of a link port are apart. -/
theorem fget_fput_port {f g : Fld}
    (h : f.reg.info.blk = .lnkB ∧ g.reg.info.blk = .lnkB ∧ f.reg.info.stride = 64 ∧ g.reg.info.stride = 64 ∧
    f.reg.info.off % 64 ≠ g.reg.info.off % 64) (s : State) (d p v : Nat) :
    fget (fput s d p f v) d p g = fget s d p g := by
  obtain ⟨hf, hg, hsf, hsg, hoff⟩ := h
  have hne : regKey d f.reg p ≠ regKey d g.reg p := by
    rw [regKey_eq_slot d p f.reg (by rw [hf]; decide), regKey_eq_slot d p g.reg (by rw [hg]; decide), hf, hg, slotOff, slotOff, hsf, hsg]
    omega
  exact fget_fput_ne _ _ _ _ _ _ _ _ hne.symm

/-! ### Retraining (R392) -/

/-- The registers of one end at a retrain. -/
def retrained (s : State) (d p : Nat) : State :=
  fsat (fput s d p Fl.LNK_PORT_STATE_STATE lRetraining) d p Fl.LNK_PORT_ERR_RETRAINS 1

/-- What a retrain does at one end. -/
def retrainEnd (s : State) (d p : Nat) : State := sendFrame (retrained s d p) d p []

theorem startRetrain_of_up {s : State} {d p : Nat} (hup : lnkState s d p = 2) : startRetrain s d p = bothEnds s d p retrainEnd :=
  if_neg (not_not_intro hup)

theorem retrainEnd_endOnly (s : State) (d : Nat) {p : Nat} (hp : p < 1024) : EndOnly d p s (retrainEnd s d p) :=
  (((EndOnly.refl s).fput _).fsat _).sendFrame _

theorem fget_sendFrame (s : State) (d p : Nat) (test : List Bool) (e q : Nat) (f : Fld) :
    fget (sendFrame s d p test) e q f = fget s e q f := rfl

theorem retrainEnd_state (s : State) (d p : Nat) : lnkState (retrainEnd s d p) d p = 3 := by
  unfold lnkState retrainEnd
  rw [fget_sendFrame, retrained, fsat, fget_fput_port (by decide), fget_fput_of_lt _ _ _ _ (by decide) (by decide) (by decide)]
  rfl

theorem getLnk_sendFrame (s : State) (d p : Nat) (test : List Bool) :
    getLnk (sendFrame s d p test) d p = { getLnk s d p with
      frame := some ⟨(getLnk s d p).ownMap.getD ((test ++ List.replicate (laneCount d p) true).take (laneCount d p)),
        (getLnk s d p).record, fget s d 0 Fl.DIE_EPOCH_FEATURE_EPOCH⟩
      good := none } := getLnk_putLnk ..

theorem getLnk_retrainEnd (s : State) (d p : Nat) :
    ∃ f, getLnk (retrainEnd s d p) d p = { getLnk s d p with frame := f, good := none } := ⟨_, getLnk_sendFrame ..⟩

/-- A retrain leaves a link retraining, with the maps that its ends have recorded. -/
structure Retrains (s t : State) (d p : Nat) : Prop where
  links : LinksOnly s t
  state : lnkState t d p = 3
  near : ∃ f, getLnk t d p = { getLnk s d p with frame := f, good := none }
  far : ∃ f, getLnk t (lnkPeer d p).1 (lnkPeer d p).2 = { getLnk s (lnkPeer d p).1 (lnkPeer d p).2 with frame := f, good := none }

theorem startRetrain_retrains {s : State} {d p : Nat} (hx : lnkExists d p = true) (hup : lnkState s d p = 2) :
    Retrains s (startRetrain s d p) d p := by
  obtain ⟨hp, hne, hq, -⟩ := lnkPeer_of_exists hx
  rw [startRetrain_of_up hup]
  have h1 : EndOnly d p s (retrainEnd s d p) := retrainEnd_endOnly s d (by omega)
  have h2 := bothEnds_endOnly (f := retrainEnd) s fun u => retrainEnd_endOnly u (lnkPeer d p).1 (by omega : (lnkPeer d p).2 < 1024)
  refine ⟨h1.linksOnly.trans h2.linksOnly, ?_, ?_, ?_⟩
  · exact (h2.fget (.inr hne.symm) (by decide) (by omega)).trans (retrainEnd_state s d p)
  · rw [h2.getLnk hne.symm hp hq]
    exact getLnk_retrainEnd s d p
  · rw [← h1.getLnk hne hq hp]
    exact getLnk_retrainEnd ..

/-! ### Training (R394 to R397) -/

/-- The map that a side sends: the one on record, or what its test finds. -/
def mapSent (s : State) (d p : Nat) (test : List Bool) : List Bool :=
  (getLnk s d p).ownMap.getD ((test ++ List.replicate (laneCount d p) true).take (laneCount d p))

/-- A side that computes a good set from the other's frame keeps it. -/
theorem takeTraining_of_good {s : State} {d p : Nat} {f : TrainFrame} {g : List Bool} (h : goodSet (getLnk s d p) f = some g) :
    takeTraining s d p f = putLnk s d p { getLnk s d p with
      ownMap := some (sentMap (getLnk s d p)), record := some f.ownMap, good := some g } := by
  unfold takeTraining
  simp only [h]

/-- The good set of a side whose map and record agree with the other's. -/
theorem goodSet_of_agree {x : LinkPort} {f : TrainFrame} {a b : List Bool} (hsent : sentMap x = a) (hown : f.ownMap = b)
    (hx : (x.record.all fun r => r == b) = true) (hf : (f.peerRecord.all fun r => r == a) = true) :
    goodSet x f = some (List.zipWith (fun u v => u && v) a b) := by
  subst hsent hown
  unfold goodSet
  rw [hx, hf]
  rfl

theorem getLnk_takeTraining {s : State} {d p : Nat} {f : TrainFrame} {g : List Bool} (h : goodSet (getLnk s d p) f = some g) :
    (getLnk (takeTraining s d p f) d p).good = some g := by
  rw [takeTraining_of_good h, getLnk_putLnk]

/-- Two sides that take each other's frames, of which maps and records agree, have both computed a good set. -/
theorem exchange_good {s : State} {d p e q : Nat} {a b : List Bool} {f g : TrainFrame} (hne : e ≠ d) (hp : p < 16) (hq : q < 16)
    (hx : goodSet (getLnk s d p) g = some a) (hy : goodSet (getLnk s e q) f = some b) :
    LinksOnly s (takeTraining (takeTraining s d p g) e q f) ∧
      (getLnk (takeTraining (takeTraining s d p g) e q f) d p).good = some a ∧
      (getLnk (takeTraining (takeTraining s d p g) e q f) e q).good = some b := by
  have h1 : EndOnly d p s (takeTraining s d p g) := (EndOnly.refl s).takeTraining g
  have h2 : EndOnly e q (takeTraining s d p g) (takeTraining (takeTraining s d p g) e q f) := (EndOnly.refl _).takeTraining f
  refine ⟨h1.linksOnly.trans h2.linksOnly, ?_, getLnk_takeTraining (by rwa [h1.getLnk hne hq hp])⟩
  rw [h2.getLnk hne.symm hp hq]
  exact getLnk_takeTraining hx

/-- A first attempt in which the sides agree ends the training with the width of what is good in both maps. -/
theorem attempts_of_agree {s : State} {d p : Nat} {a b : List Bool} (r : List (List Bool × List Bool)) (hx : lnkExists d p = true)
    (hnear : ((getLnk s d p).record.all fun m => m == mapSent s (lnkPeer d p).1 (lnkPeer d p).2 b) = true)
    (hfar : ((getLnk s (lnkPeer d p).1 (lnkPeer d p).2).record.all fun m => m == mapSent s d p a) = true) :
    ∃ u, LinksOnly s u ∧ attempts s d p ((a, b) :: r) =
      setWidth u d p (List.zipWith (fun x y => x && y) (mapSent s d p a) (mapSent s (lnkPeer d p).1 (lnkPeer d p).2 b)) := by
  obtain ⟨hp, hne, hq, -⟩ := lnkPeer_of_exists hx
  have h1 : EndOnly d p s (sendFrame s d p a) := (EndOnly.refl s).sendFrame a
  have h2 := (EndOnly.refl (e := (lnkPeer d p).1) (q := (lnkPeer d p).2) (sendFrame s d p a)).sendFrame b
  have hx2 := (h2.getLnk hne.symm hp hq).trans (getLnk_sendFrame s d p a)
  have hy2 := getLnk_sendFrame (sendFrame s d p a) (lnkPeer d p).1 (lnkPeer d p).2 b
  rw [h1.getLnk hne hq hp] at hy2
  have hgx := goodSet_of_agree (x := getLnk (sendFrame (sendFrame s d p a) (lnkPeer d p).1 (lnkPeer d p).2 b) d p)
    (f := ⟨mapSent s (lnkPeer d p).1 (lnkPeer d p).2 b, (getLnk s (lnkPeer d p).1 (lnkPeer d p).2).record,
      fget (sendFrame s d p a) (lnkPeer d p).1 0 Fl.DIE_EPOCH_FEATURE_EPOCH⟩) (a := mapSent s d p a) (by rw [hx2]; rfl) rfl
    (by rw [hx2]; exact hnear) hfar
  have hgy := goodSet_of_agree
    (x := getLnk (sendFrame (sendFrame s d p a) (lnkPeer d p).1 (lnkPeer d p).2 b) (lnkPeer d p).1 (lnkPeer d p).2)
    (f := ⟨mapSent s d p a, (getLnk s d p).record, fget s d 0 Fl.DIE_EPOCH_FEATURE_EPOCH⟩)
    (a := mapSent s (lnkPeer d p).1 (lnkPeer d p).2 b) (by rw [hy2]; rfl) rfl (by rw [hy2]; exact hfar) hnear
  obtain ⟨hl, hgood, hgood'⟩ := exchange_good hne hp hq hgx hgy
  refine ⟨_, (h1.linksOnly.trans h2.linksOnly).trans hl, ?_⟩
  unfold mapSent at hgood hgood' ⊢
  unfold attempts
  simp only [hx2, hy2, Option.elim_some, hgood, hgood']

/-! ### Width (R395) -/

theorem guides_length (n : Nat) (l : List Bool) : (guides n l).length = n := by
  induction n generalizing l with
  | zero => rfl
  | succ n ih => exact congrArg (· + 1) (ih _)

/-- A link trains at no more than its lanes or waveguides in use. -/
theorem lnkWidth_le {d p : Nat} {l : List Bool} {w : Nat × Nat} (h : lnkWidth d p l = some w) : w.1 ≤ lnkActive d p := by
  have hle (f : Nat → Bool) : ((guides (lnkActive d p) l).filter f).length ≤ lnkActive d p :=
    (List.length_filter_le ..).trans_eq (guides_length ..)
  unfold lnkWidth at h
  dsimp only at h
  split_ifs at h <;> cases h
  · exact hle _
  · exact Nat.le_refl _
  · exact Nat.div_le_of_le_mul (by omega)
  · exact Nat.div_le_self ..

/-- What coming up does at one end, up to the replay. -/
def upEnd (n : Nat) (w : Nat × Nat) (s : State) (d p : Nat) : State :=
  let s := fput s d p Fl.LNK_PORT_STATE_STATE lUp
  let s := fput s d p Fl.LNK_PORT_STATE_WIDTH w.1
  let s := fput s d p Fl.LNK_PORT_STATE_SPARES_LEFT w.2
  let s := fput s d p Fl.LNK_PORT_STATE_EPOCH (lnkEpoch s d p)
  fput s d p Fl.LNK_PORT_STATE_ATTEMPTS n

/-- What coming up does at one end. -/
def comeUpEnd (n : Nat) (w : Nat × Nat) (s : State) (d p : Nat) : State :=
  let s := fput (upEnd n w s d p) d p Fl.LNK_PORT_CTL_RETRAIN 0
  let x := getLnk s d p
  let s := putLnk s d p { x with
    nakPending := false, frame := none, good := none, disagreements := 0
    sent := x.sent.map fun f => { f with times := 1 }
    out := x.out ++ x.sent.map (·.flit) }
  fwrap s d p Fl.LNK_PORT_FLITS_SENT x.sent.length

theorem lnkComeUp_eq (s : State) (d p n : Nat) (w : Nat × Nat) : lnkComeUp s d p n w =
    if w.1 < lnkActive d p then raise (bothEnds s d p (comeUpEnd n w)) 0x0510 1 (lnkUnit d p) else bothEnds s d p (comeUpEnd n w) := rfl

theorem comeUpEnd_endOnly (n : Nat) (w : Nat × Nat) (s : State) (d : Nat) {p : Nat} (hp : p < 1024) :
    EndOnly d p s (comeUpEnd n w s d p) :=
  ((((((((EndOnly.refl s).fput _).fput _).fput _).fput _).fput _).fput _).putLnk _).fwrap _

theorem fget_comeUpEnd {f : Fld} (hf : f.reg = .lnkPortState) (n : Nat) (w : Nat × Nat) (s : State) (d p : Nat) :
    fget (comeUpEnd n w s d p) d p f = fget (upEnd n w s d p) d p f := by
  unfold comeUpEnd
  rw [fwrap, fget_fput_port (by rw [hf]; decide), fget_putLnk, fget_fput_port (by rw [hf]; decide)]

theorem comeUpEnd_state (n : Nat) (w : Nat × Nat) (s : State) (d p : Nat) : lnkState (comeUpEnd n w s d p) d p = 2 := by
  unfold lnkState
  rw [fget_comeUpEnd rfl]
  unfold upEnd
  rw [fget_fput_other (by decide), fget_fput_other (by decide), fget_fput_other (by decide), fget_fput_other (by decide),
    fget_fput_of_lt _ _ _ _ (by decide) (by decide) (by decide)]
  rfl

theorem comeUpEnd_width (n : Nat) {w : Nat × Nat} (hw : w.1 < 512) (s : State) (d p : Nat) :
    fget (comeUpEnd n w s d p) d p Fl.LNK_PORT_STATE_WIDTH = w.1 := by
  rw [fget_comeUpEnd rfl]
  unfold upEnd
  rw [fget_fput_other (by decide), fget_fput_other (by decide), fget_fput_other (by decide),
    fget_fput_of_lt _ _ _ _ (by decide) (by decide) hw]

/-- What a training that brings the link up leaves. -/
structure ComesUp (s t : State) (d p : Nat) (w : Nat × Nat) : Prop where
  state : lnkState t d p = 2
  width : fget t d p Fl.LNK_PORT_STATE_WIDTH = w.1
  mem : SameMem s t
  cores : t.cores = s.cores
  rst : t.rst = s.rst
  pins : t.pins = s.pins

theorem ComesUp.of_links {s u t : State} {d p : Nat} {w : Nat × Nat} (h : LinksOnly s u) (h' : ComesUp u t d p w) : ComesUp s t d p w :=
  by
  obtain ⟨hm, hn, ho⟩ := h'.mem
  obtain ⟨hm', hn', ho'⟩ := h.sameMem
  exact ⟨h'.state, h'.width, ⟨hm.trans hm', hn.trans hn', ho.trans ho'⟩, h'.cores.trans h.get, h'.rst.trans h.get,
    h'.pins.trans h.get⟩

theorem ComesUp.raise {s t : State} {d p : Nat} {w : Nat × Nat} (h : ComesUp s t d p w) (code sev src ctx : Nat) (x : BitVec 128) :
    ComesUp s (raise t code sev src ctx x) d p w := ⟨h.state, h.width, h.mem, h.cores, h.rst, h.pins⟩

theorem lnkComeUp_comesUp (s : State) {d p : Nat} (hx : lnkExists d p = true) (n : Nat) {w : Nat × Nat} (hw : w.1 ≤ lnkActive d p) :
    ComesUp s (lnkComeUp s d p n w) d p w := by
  obtain ⟨hp, hne, hq, -, ha⟩ := lnkPeer_of_exists hx
  have h1 : EndOnly d p s (comeUpEnd n w s d p) := comeUpEnd_endOnly n w s d (by omega)
  have h2 := bothEnds_endOnly (f := comeUpEnd n w) s fun u =>
    comeUpEnd_endOnly n w u (lnkPeer d p).1 (by omega : (lnkPeer d p).2 < 1024)
  have hl := h1.linksOnly.trans h2.linksOnly
  have hstate : lnkState (bothEnds s d p (comeUpEnd n w)) d p = 2 :=
    (h2.fget (.inr hne.symm) (by decide) (by omega)).trans (comeUpEnd_state n w s d p)
  have hwidth : fget (bothEnds s d p (comeUpEnd n w)) d p Fl.LNK_PORT_STATE_WIDTH = w.1 :=
    (h2.fget (.inr hne.symm) (by decide) (by omega)).trans (comeUpEnd_width n (by omega) s d p)
  have hboth : ComesUp s (bothEnds s d p (comeUpEnd n w)) d p w := ⟨hstate, hwidth, hl.sameMem, hl.get, hl.get, hl.get⟩
  rw [lnkComeUp_eq]
  split
  · exact hboth.raise ..
  · exact hboth

/-- A training whose good set has a width brings the link up with it. -/
theorem endTraining_of_width (s : State) {d p : Nat} (hx : lnkExists d p = true) {l : List Bool} {w : Nat × Nat}
    (hw : lnkWidth d p l = some w) : ComesUp s (endTraining d p (setWidth s d p l)) d p w := by
  unfold setWidth
  rw [hw]
  exact lnkComeUp_comesUp s hx _ (lnkWidth_le hw)

/-- RETRAIN runs the attempts of a link that is retraining. -/
theorem doRetrain_of_retraining {s : State} {d p : Nat} (hx : lnkExists d p = true) (hb : isBond d p = false)
    (hin : lnkState (startRetrain s d p) d p = 3) (l : List (List Bool × List Bool)) :
    doRetrain d p l s = endTraining d p (attempts (startRetrain s d p) d p l) := by
  unfold doRetrain
  rw [if_neg (by simp [hx, hb])]
  exact if_pos hin

/-- A retrain of a link that is up, in which the maps and records of both sides agree, brings it up. -/
theorem doRetrain_comesUp {s : State} {d p : Nat} {a b ma mb : List Bool} {w : Nat × Nat} (r : List (List Bool × List Bool))
    (hx : lnkExists d p = true) (hb : isBond d p = false) (hst : lnkState s d p = 2) (hma : mapSent s d p a = ma)
    (hmb : mapSent s (lnkPeer d p).1 (lnkPeer d p).2 b = mb) (hnear : ((getLnk s d p).record.all fun m => m == mb) = true)
    (hfar : ((getLnk s (lnkPeer d p).1 (lnkPeer d p).2).record.all fun m => m == ma) = true)
    (hw : lnkWidth d p (List.zipWith (fun x y => x && y) ma mb) = some w) :
    ComesUp s (doRetrain d p ((a, b) :: r) s) d p w := by
  have h := startRetrain_retrains hx hst
  obtain ⟨f, hx1⟩ := h.near
  obtain ⟨g, hy1⟩ := h.far
  have hma' : mapSent (startRetrain s d p) d p a = ma := by
    rw [← hma]
    unfold mapSent
    rw [hx1]
  have hmb' : mapSent (startRetrain s d p) (lnkPeer d p).1 (lnkPeer d p).2 b = mb := by
    rw [← hmb]
    unfold mapSent
    rw [hy1]
  obtain ⟨u, hu, hatt⟩ := attempts_of_agree (s := startRetrain s d p) (a := a) (b := b) r hx (by rw [hmb', hx1]; exact hnear)
    (by rw [hma', hy1]; exact hfar)
  rw [doRetrain_of_retraining hx hb h.state, hatt, hma', hmb']
  exact (endTraining_of_width u hx hw).of_links (h.links.trans hu)

/-- A side without a map on record sends what its test of every lane finds. -/
theorem mapSent_of_none {s : State} {d p : Nat} {a : List Bool} (h : (getLnk s d p).ownMap = none) (ha : a.length = laneCount d p) :
    mapSent s d p a = a := by
  unfold mapSent
  rw [h, ← ha]
  exact List.take_left

/-- A side with one sends it. -/
theorem mapSent_of_some {s : State} {d p : Nat} {m : List Bool} (h : (getLnk s d p).ownMap = some m) (a : List Bool) :
    mapSent s d p a = m := by
  unfold mapSent
  rw [h]
  rfl

/-- What a training frame does at a link that trains. -/
theorem doTrainingFrame_of_training {s : State} {d p : Nat} (hx : lnkExists d p = true) (hst : lnkState s d p = 3) (f : TrainFrame) :
    doTrainingFrame d p f s =
      match (getLnk (takeTraining s d p f) d p).good, (getLnk (takeTraining s d p f) (lnkPeer d p).1 (lnkPeer d p).2).good with
      | none, _ => fromScratch (takeTraining s d p f) d p
      | some _, none => takeTraining s d p f
      | some g, some h =>
        if g = h then endTraining d p (setWidth (takeTraining s d p f) d p g) else fromScratch (takeTraining s d p f) d p :=
  if_neg (by rw [hx, hst]; decide)

/-- A frame leaves what the other side has computed. -/
theorem far_takeTraining {s : State} {d p : Nat} (hx : lnkExists d p = true) (f : TrainFrame) :
    getLnk (takeTraining s d p f) (lnkPeer d p).1 (lnkPeer d p).2 = getLnk s (lnkPeer d p).1 (lnkPeer d p).2 := by
  obtain ⟨hp, hne, hq, -⟩ := lnkPeer_of_exists hx
  exact ((EndOnly.refl s).takeTraining f).getLnk hne hq hp

/-! ### Loss (R400, R401) -/

/-- What going down does at one end. -/
def downEnd (s : State) (d p : Nat) : State :=
  let s := fput s d p Fl.LNK_PORT_STATE_STATE lDown
  let s := fput (fput s d p Fl.LNK_PORT_STATE_WIDTH 0) d p Fl.LNK_PORT_STATE_SPARES_LEFT 0
  fput s d p Fl.LNK_PORT_CTL_RETRAIN 0

theorem downEnd_endOnly (s : State) (d : Nat) {p : Nat} (hp : p < 1024) : EndOnly d p s (downEnd s d p) :=
  ((((EndOnly.refl s).fput _).fput _).fput _).fput _

theorem downEnd_state (s : State) (d p : Nat) : lnkState (downEnd s d p) d p = 0 := by
  unfold lnkState downEnd
  rw [fget_fput_port (by decide), fget_fput_other (by decide), fget_fput_other (by decide),
    fget_fput_of_lt _ _ _ _ (by decide) (by decide) (by decide)]
  rfl

theorem sendElsewhere_linksOnly (s : State) (d p : Nat) : LinksOnly s (sendElsewhere s d p) :=
  ⟨⟨_, _, _, _, rfl⟩, fun _ _ _ _ _ _ => rfl⟩

theorem fget_sendElsewhere (s : State) (d p e q : Nat) (f : Fld) : fget (sendElsewhere s d p) e q f = fget s e q f := rfl

/-- The state of a lost link whose flits wait to go another way. -/
def lost (s : State) (d p : Nat) : State := bothEnds (lnkGoDown s d p) d p sendElsewhere

theorem lost_linksOnly {s : State} {d p : Nat} (hx : lnkExists d p = true) : LinksOnly s (lost s d p) := by
  obtain ⟨hp, -, hq, -⟩ := lnkPeer_of_exists hx
  have h1 : EndOnly d p s (downEnd s d p) := downEnd_endOnly s d (by omega)
  have h2 := bothEnds_endOnly (f := downEnd) s fun u => downEnd_endOnly u (lnkPeer d p).1 (by omega : (lnkPeer d p).2 < 1024)
  exact ((h1.linksOnly.trans h2.linksOnly).trans (sendElsewhere_linksOnly _ d p)).trans (sendElsewhere_linksOnly ..)

theorem lost_state {s : State} {d p : Nat} (hx : lnkExists d p = true) : lnkState (lost s d p) d p = 0 := by
  obtain ⟨hp, hne, hq, -⟩ := lnkPeer_of_exists hx
  have h2 := bothEnds_endOnly (f := downEnd) s fun u => downEnd_endOnly u (lnkPeer d p).1 (by omega : (lnkPeer d p).2 < 1024)
  have hdown : lnkState (lnkGoDown s d p) d p = 0 :=
    (h2.fget (.inr hne.symm) (by decide) (by omega)).trans (downEnd_state s d p)
  unfold lnkState lost bothEnds
  rw [fget_sendElsewhere, fget_sendElsewhere]
  exact hdown

/-- What the detachment of a die leaves as it is: the kind of reset under way, the STATE of every link port, and events. -/
structure Detaches (s t : State) : Prop where
  kind : t.rst.kind = s.rst.kind
  state : ∀ d p, p < 1024 → lnkState t d p = lnkState s d p
  events : Grows s t

namespace Detaches

variable {s t u : State}

theorem refl (s : State) : Detaches s s := ⟨rfl, fun _ _ _ => rfl, .refl s⟩

theorem trans (h : Detaches s t) (h' : Detaches t u) : Detaches s u :=
  ⟨h'.kind.trans h.kind, fun d p hp => (h'.state d p hp).trans (h.state d p hp), h.events.trans h'.events⟩

theorem of_beside (h : Beside false s t) : Detaches s t :=
  ⟨congrArg (·.kind) h.rst, fun d p hp => h.fget ⟨d, _, p, hp, rfl, .inl rfl⟩, h.events⟩

/-- A register of an Ethernet port is none of a link. -/
theorem fput (h : Detaches s t) {d i : Nat} {f : Fld} (v : Nat) (hf : f.reg.info.blk = .netB) (hi : i < 1024) :
    Detaches s (Machine.fput t d i f v) := by
  refine h.trans ⟨rfl, fun e p hp => fget_fput_ne _ _ _ _ _ _ _ _ ?_, .refl t⟩
  refine regKey_ne_of_slot (by decide) (by rw [hf]; decide) hp hi ?_
  by_cases he : e = d
  · subst he
    exact .inr fun hs => absurd (dieSlot_lnk (hs.symm.trans rfl)) (by rw [hf]; decide)
  · exact .inl he

theorem putFab (h : Detaches s t) (p : Nat) (x : FabricPort) : Detaches s (Machine.putFab t p x) :=
  h.trans ⟨rfl, fun _ _ _ => rfl, .refl t⟩

theorem portDown (h : Detaches s t) (p state : Nat) : Detaches s (Machine.portDown t p state) := by
  have hi : p % 4 < 1024 := by omega
  have hempty : Detaches s (emptied t p state) := (h.fput (f := Fl.NET_PORT_STATE_STATE) state rfl hi).putFab p _
  exact hempty.trans (.of_beside (portDown_beside t p state))

theorem disablePort (h : Detaches s t) (p : Nat) : Detaches s (Machine.disablePort t p) :=
  (h.fput (f := Fl.NET_PORT_CFG_ENABLE) 0 rfl (by omega : p % 4 < 1024)).portDown p 0

theorem qpsPortDown (h : Detaches s t) (p : Nat) : Detaches s (Machine.qpsPortDown t p) := h.trans (.of_beside (Beside.refl t).qpsPortDown)

theorem detach (h : Detaches s t) (d : Nat) : Detaches s (Machine.detach t d) := by
  unfold Machine.detach
  split
  · exact h
  · split
    · exact List.foldlRecOn (motive := Detaches s) _ _ h fun u hu i _ => (hu.disablePort _).qpsPortDown _
    · split
      · exact h.trans ⟨rfl, fun _ _ _ => rfl, .refl t⟩
      · exact h

end Detaches

/-- A link loses its port die or the system die. -/
theorem linkLoss_of_outer {s : State} {d p : Nat} (c : Nat) (h : lossClass d p = 2) :
    Detaches (raise (lost s d p) 0x0511 2 (lnkUnit d p) 0 (lossDetail d p c)) (linkLoss s d p c) := by
  have hgo : linkLoss s d p c = 
      (let u := raise (lost s d p) 0x0511 2 (lnkUnit d p) 0 (lossDetail d p c)
       let u := if 4 ≤ dieType d then detach u d else u
       if 4 ≤ dieType (lnkPeer d p).1 then detach u (lnkPeer d p).1 else u) := by
    unfold linkLoss
    rw [h]
    rfl
  have h0 := Detaches.refl (raise (lost s d p) 0x0511 2 (lnkUnit d p) 0 (lossDetail d p c))
  rw [hgo]
  dsimp only
  split <;> split
  · exact (h0.detach d).detach _
  · exact h0.detach _
  · exact h0.detach d
  · exact h0

/-- What a partition full reset leaves as it is beside the state of resets: fuses, the persistent array, and which resets are under
way. -/
structure Resets (s t : State) : Prop where
  rst : t.rst = s.rst
  fuses : t.fuses = s.fuses
  persist : t.persist = s.persist

namespace Resets

theorem refl (s : State) : Resets s s := ⟨rfl, rfl, rfl⟩

variable {s t : State}

theorem ite {a b : State} {c : Prop} {_ : Decidable c} (ha : Resets s a) (hb : Resets s b) : Resets s (if c then a else b) := by
  split
  · exact ha
  · exact hb

theorem foldl {α : Type} {f : State → α → State} {l : List α} (h : Resets s t) (hf : ∀ u a, Resets s u → Resets s (f u a)) :
    Resets s (l.foldl f t) :=
  List.foldlRecOn (motive := Resets s) l f h fun u hu a _ => hf u a hu

variable (hs : Resets s t)
include hs

/-- A change of anything else. -/
theorem update {pending time fresh regs rowFuses rowMap mem near ostore poison flaws failedPcs ceLog scrubFrom recals cores vecs irqOut
    engines rdc tok launches ctxs rrNext mediaQ regions xlat coh links parcels net power pins uart0 sec evt jtag ddr} :
    Resets s ⟨pending, time, fresh, regs, t.fuses, rowFuses, rowMap, mem, near, ostore, poison, flaws, failedPcs, ceLog, scrubFrom, recals,
      cores, vecs, irqOut, engines, rdc, tok, launches, ctxs, rrNext, mediaQ, regions, xlat, coh, links, parcels, net, power, t.persist,
      t.rst, pins, uart0, sec, evt, jtag, ddr⟩ := ⟨hs.rst, hs.fuses, hs.persist⟩

theorem homes {u : State} (h : HomesOnly t u) : Resets s u :=
  ⟨(h.get (f := State.rst)).trans hs.rst, (h.get (f := State.fuses)).trans hs.fuses, (h.get (f := State.persist)).trans hs.persist⟩

theorem withdraw {p : Requester → Bool} : Resets s (Machine.withdraw t p) :=
  hs.update.foldl fun _ _ hu => hu.homes (.recStash (.refl _))

theorem resetRecord {c : Nat} : Resets s (Machine.resetRecord t c) := hs.ite (hs.homes (.recWrite (.refl t)))

theorem dropMisses {r : Nat × Nat} {d c : Nat} : Resets s (Machine.dropMisses t r d c) := hs.update.foldl fun _ _ hu => hu.update

theorem dropRange {r : Nat × Nat} : Resets s (Machine.dropRange t r) := hs.update.foldl fun _ _ hu => hu.dropMisses

theorem wipeHbm {p : Nat} : Resets s (Machine.wipeHbm t p) := hs.update

theorem clearHbm {p : Nat} : Resets s (Machine.clearHbm t p) := hs.dropRange.wipeHbm.update

theorem clearPipes {p : Nat} : Resets s (Machine.clearPipes t p) := hs.foldl fun _ _ hu => hu.update.ite hu

theorem clearAccel {p : Nat} : Resets s (Machine.clearAccel t p) := by
  unfold Machine.clearAccel
  exact (hs.withdraw.foldl fun _ _ hu => hu.update.ite hu).update

end Resets

/-- A partition full reset that starts. -/
theorem resetPart_spec (s : State) (k : Nat) :
    (resetPart s k).rst.parts.contains k = true ∧ (resetPart s k).fuses = s.fuses ∧ (resetPart s k).persist = s.persist := by
  have h : Resets { s with rst := { s.rst with parts := insertNat s.rst.parts k, fenced := s.rst.fenced.filter (· != k) } }
      (resetPart s k) := by
    unfold resetPart
    exact ((((((Resets.refl _).update.foldl fun _ _ hu => hu.resetRecord).update).clearHbm).clearPipes).clearAccel).update
  refine ⟨?_, h.fuses, h.persist⟩
  rw [h.rst]
  exact List.contains_iff_mem.2 (mem_insertNat _ k)

/-- A partition full reset of a partition of the mode in force, with none under way and no other reset, starts. -/
theorem partReset_spec {s : State} {k : Nat} (hk : k < partCount (modeOf s)) (hrank : s.rst.kind.rank < 2)
    (hparts : s.rst.parts.contains k = false) (source : Nat) : (partReset s k source).rst.parts.contains k = true ∧
      (partReset s k source).fuses = s.fuses ∧ (partReset s k source).persist = s.persist := by
  have hgo : partReset s k source = resetPart (recordCause s source 3 k) k := by
    unfold partReset
    rw [if_neg (Nat.not_le.2 hk), if_neg (by rw [hparts]; simp; omega)]
  have hrec : Resets s (recordCause s source 3 k) := ((Resets.refl s).update.foldl fun _ _ hu => hu.update).update
  obtain ⟨h1, h2, h3⟩ := resetPart_spec (recordCause s source 3 k) k
  rw [hgo]
  exact ⟨h1, h2.trans hrec.fuses, h3.trans hrec.persist⟩

/-- The partition that owns a matrix die is one of the mode in force. -/
theorem diePart_lt {s : State} {m k : Nat} (hm : m < 8) (h : diePart s m = some k) : k < partCount (modeOf s) := by
  unfold diePart at h
  rw [if_pos hm] at h
  obtain rfl := Option.some.inj h
  unfold hubsPer partCount
  split_ifs <;> omega

/-- A link of a matrix or near-store die belongs to a matrix die. -/
theorem lnkMatrix_lt {d p : Nat} (hx : lnkExists d p = true) (h : lossClass d p = 1) : lnkMatrix d p < 8 := by
  have hsmall : ∀ d < 25, ∀ p < 16, lnkExists d p = true → lossClass d p = 1 → lnkMatrix d p < 8 := by decide
  obtain ⟨hp, -⟩ := lnkPeer_of_exists hx
  by_cases hd : d < 25
  · exact hsmall d hd p hp hx h
  · exfalso
    have ht := dieType_of_ge (d := d) (by omega)
    have hpeer : lnkPeer d p = lnkPeer 24 p := by unfold lnkPeer; rw [linkEnd_of_ge (by omega)]
    have houter : ∀ p < 16, lossClass 24 p ≠ 1 := by decide
    refine houter p hp ?_
    rw [← h]
    unfold lossClass
    rw [ht, hpeer]

/-- A write of 1 to RETRAIN of a link that is up. -/
theorem doLnkPortCtlRetrain_retrains {s : State} {d p : Nat} (hx : lnkExists d p = true) (hb : isBond d p = false)
    (hst : lnkState s d p = 2) : lnkState (doLnkPortCtlRetrain d p s) d p = 3 ∧
      fget (doLnkPortCtlRetrain d p s) d p Fl.LNK_PORT_CTL_REJECTED = 0 ∧ LinksOnly s (doLnkPortCtlRetrain d p s) := by
  obtain ⟨hp, hne, hq, -⟩ := lnkPeer_of_exists hx
  have hgo : doLnkPortCtlRetrain d p s =
      startRetrain (fput (fput s d p Fl.LNK_PORT_CTL_REJECTED 0) d p Fl.LNK_PORT_CTL_RETRAIN 1) d p := by
    unfold doLnkPortCtlRetrain
    rw [if_neg (by rw [hx]; decide), if_neg (by rw [hst, hb]; decide)]
  have hup : lnkState (fput (fput s d p Fl.LNK_PORT_CTL_REJECTED 0) d p Fl.LNK_PORT_CTL_RETRAIN 1) d p = 2 := by
    unfold lnkState
    rw [fget_fput_port (by decide), fget_fput_port (by decide)]
    exact hst
  have hput : EndOnly d p s (fput (fput s d p Fl.LNK_PORT_CTL_REJECTED 0) d p Fl.LNK_PORT_CTL_RETRAIN 1) :=
    ((EndOnly.refl s).fput _).fput _
  have h := startRetrain_retrains hx hup
  have h2 := bothEnds_endOnly (f := retrainEnd) (fput (fput s d p Fl.LNK_PORT_CTL_REJECTED 0) d p Fl.LNK_PORT_CTL_RETRAIN 1) fun u =>
    retrainEnd_endOnly u (lnkPeer d p).1 (by omega : (lnkPeer d p).2 < 1024)
  rw [← startRetrain_of_up hup] at h2
  rw [hgo]
  refine ⟨h.state, (h2.fget (.inr hne.symm) (by decide) (by omega)).trans ?_, hput.linksOnly.trans h.links⟩
  unfold retrainEnd
  rw [fget_sendFrame, retrained, fsat, fget_fput_port (by decide), fget_fput_port (by decide), fget_fput_other (by decide),
    fget_fput_of_lt _ _ _ _ (by decide) (by decide) (by decide)]

theorem doLinkDown_of_up {s : State} {d p : Nat} (hx : lnkExists d p = true) (hst : lnkState s d p = 2) (c : Nat) :
    doLinkDown d p c s = linkLoss s d p c := if_neg (by rw [hx, hst]; decide)

/-- The loss of a link of a port die or the system die. -/
theorem linkLoss_outer_spec {s : State} {d p : Nat} (hx : lnkExists d p = true) (c : Nat) (h : lossClass d p = 2) :
    lnkState (linkLoss s d p c) d p = 0 ∧ 0x0511 ∈ (linkLoss s d p c).evt.arriving.map (·.code) ∧
      (linkLoss s d p c).rst.kind = s.rst.kind := by
  obtain ⟨hp, -⟩ := lnkPeer_of_exists hx
  have hl := linkLoss_of_outer (s := s) c h
  obtain ⟨e, he, hcode⟩ := List.mem_map.1 (code_mem_raise (lost s d p) 0x0511 2 (lnkUnit d p) 0 (lossDetail d p c))
  refine ⟨?_, List.mem_map.2 ⟨e, hl.events e he, hcode⟩, ?_⟩
  · rw [hl.state d p (by omega), lnkState, fget_raise]
    exact lost_state hx
  · rw [hl.kind, raise_rst]
    exact (lost_linksOnly hx).get (f := fun u => u.rst.kind)

/-- The loss of a link between host dies and hubs. -/
theorem linkLoss_host_spec {s : State} {d p : Nat} (hx : lnkExists d p = true) (c : Nat) (h : lossClass d p = 0)
    (hrank : s.rst.kind.rank < 2) : SystemCleared (raise (lost s d p) 0x0511 3 (lnkUnit d p) 0 (lossDetail d p c)) (linkLoss s d p c) := by
  have hgo : linkLoss s d p c = systemReset (raise (lost s d p) 0x0511 3 (lnkUnit d p) 0 (lossDetail d p c)) 0x09 (lnkUnit d p) := by
    unfold linkLoss
    rw [h]
    rfl
  have hrst : (lost s d p).rst = s.rst := (lost_linksOnly hx).get (f := State.rst)
  rw [hgo]
  exact (systemReset_spec (by rw [raise_rst, hrst]; exact hrank) 0x09 (lnkUnit d p)).1

/-- A partition is fenced and shown as such. -/
def fenceOff (s : State) (k : Nat) : State :=
  setPartState { s with rst := { s.rst with fenced := insertNat s.rst.fenced k } } k 2

theorem modeOf_fenceOff (s : State) (k : Nat) : modeOf (fenceOff s k) = modeOf s := by
  unfold modeOf fenceOff setPartState fget
  rw [rget_rput, if_neg (by decide)]
  rfl

/-- A partition of the mode in force that is fenced is reset. -/
theorem fenceReset_spec {s : State} {k : Nat} (hk : k < partCount (modeOf s)) (hrank : s.rst.kind.rank < 2)
    (hparts : s.rst.parts.contains k = false) :
    (fenceReset s k).rst.parts.contains k = true ∧ (fenceReset s k).fuses = s.fuses ∧ (fenceReset s k).persist = s.persist :=
  partReset_spec (s := fenceOff s k) (by rwa [modeOf_fenceOff]) hrank hparts 0x0B

/-- The loss of a link of a matrix or near-store die. -/
theorem linkLoss_matrix_spec {s : State} {d p k : Nat} (hx : lnkExists d p = true) (c : Nat) (h : lossClass d p = 1)
    (hrank : s.rst.kind.rank < 2) (hk : diePart s (lnkMatrix d p) = some k) (hparts : s.rst.parts.contains k = false) :
    (linkLoss s d p c).rst.parts.contains k = true ∧ (linkLoss s d p c).fuses = s.fuses ∧ (linkLoss s d p c).persist = s.persist := by
  have hl : LinksOnly s (lost s d p) := lost_linksOnly hx
  have hmode : modeOf (lost s d p) = modeOf s := hl.fget (by decide) (by decide) (by decide)
  have hpart : diePart (lost s d p) (lnkMatrix d p) = some k := by
    rw [← hk]
    unfold diePart
    rw [hmode]
  have hgo : linkLoss s d p c = fenceReset (raise (lost s d p) 0x0511 3 (lnkUnit d p) 0 (lossDetail d p c)) k := by
    unfold linkLoss
    rw [h]
    exact congrArg (fenceReset _) (congrArg (·.getD 4) hpart)
  have hrst : (lost s d p).rst = s.rst := hl.get (f := State.rst)
  have hmode' : modeOf (raise (lost s d p) 0x0511 3 (lnkUnit d p) 0 (lossDetail d p c)) = modeOf s := (fget_raise ..).trans hmode
  obtain ⟨h1, h2, h3⟩ := fenceReset_spec (s := raise (lost s d p) 0x0511 3 (lnkUnit d p) 0 (lossDetail d p c)) (k := k)
    (by rw [hmode']; exact diePart_lt (lnkMatrix_lt hx h) hk) (by rw [raise_rst, hrst]; exact hrank)
    (by rw [raise_rst, hrst]; exact hparts)
  rw [hgo]
  exact ⟨h1, h2.trans ((raise_fuses ..).trans (hl.get (f := State.fuses))),
    h3.trans ((raise_persist ..).trans (hl.get (f := State.persist)))⟩

/-- Settles O29: what one end of a link does leaves the other's registers and maps, and a loss ends in what is reset or detached. -/
theorem linksTrainAndFall : Obligations.LinksTrainAndFall := by
  refine ⟨?retrain, ?fresh, ?recorded, ?frame, ?waits, ?differs, ?spare, ?recal, ?control, ?bond, ?outer, ?host, ?matrix⟩
  case retrain =>
    intro d p l s hx hb hst
    have hin : lnkState (startRetrain s d p) d p = 3 := by
      rcases hst with h | h
      · exact (startRetrain_retrains hx h).state
      · rw [startRetrain, if_pos (by rw [h]; decide)]
        exact h
    exact congrArg Host.Outcome.next (doRetrain_of_retraining hx hb hin l)
  case fresh =>
    intro d p a b r w s hx hb hst ha hbl hna hnr hma hmr hw
    obtain ⟨-, -, -, hl, -⟩ := lnkPeer_of_exists hx
    have h := doRetrain_comesUp r hx hb hst (mapSent_of_none hna ha) (mapSent_of_none hma (hbl.trans hl.symm)) (by rw [hnr]; rfl)
      (by rw [hmr]; rfl) hw
    exact ⟨_, rfl, h.state, h.width, h.mem, h.cores, h.rst⟩
  case recorded =>
    intro d p a b q r w s hx hb hst hna hnr hma hmr hw _
    have h := doRetrain_comesUp (a := q.1) (b := q.2) r hx hb hst (mapSent_of_some hna _) (mapSent_of_some hma _)
      (by rw [hnr]; exact beq_self_eq_true b) (by rw [hmr]; exact beq_self_eq_true a) hw
    exact ⟨_, rfl, h.state, h.width, h.mem, h.cores, h.rst⟩
  case frame =>
    intro d p f g w s hx hst hg hfar hw
    have hgo : doTrainingFrame d p f s = endTraining d p (setWidth (takeTraining s d p f) d p g) := by
      rw [doTrainingFrame_of_training hx hst, getLnk_takeTraining hg, far_takeTraining hx, hfar]
      exact if_pos rfl
    have h := (endTraining_of_width (takeTraining s d p f) hx hw).of_links ((EndOnly.refl s).takeTraining f).linksOnly
    exact ⟨_, congrArg Host.Outcome.next hgo, h.state, h.width, h.mem, h.cores, h.rst⟩
  case waits =>
    intro d p f g s hx hst hg hfar
    have hgo : doTrainingFrame d p f s = takeTraining s d p f := by
      rw [doTrainingFrame_of_training hx hst, getLnk_takeTraining hg, far_takeTraining hx, hfar]
    exact congrArg Host.Outcome.next (hgo.trans (takeTraining_of_good hg))
  case differs =>
    intro d p f s hx hst hg
    have ht : takeTraining s d p f = putLnk s d p { getLnk s d p with good := none } := by
      unfold takeTraining
      simp only [hg]
    have hgo : doTrainingFrame d p f s = fromScratch (takeTraining s d p f) d p := by
      rw [doTrainingFrame_of_training hx hst, ht, getLnk_putLnk]
    exact congrArg Host.Outcome.next (hgo.trans (by rw [ht]))
  case spare =>
    intro d p q s h
    exact congrArg Host.Outcome.next (if_pos (.inr (.inr (.inl h))))
  case recal =>
    intro d p s hx hb hst hno
    have h := startRetrain_retrains hx hst
    exact ⟨_, congrArg Host.Outcome.next (if_neg (by simp [hx, hb, hno])), h.state, h.links.sameMem, h.links.get⟩
  case control =>
    intro d p s hd hx hb hst
    obtain ⟨hstate, hrej, hl⟩ := doLnkPortCtlRetrain_retrains hx hb hst
    exact ⟨_, congrArg Host.Outcome.next (onDie_of_alive hd _), hstate, hrej, hl.sameMem, hl.get⟩
  case bond =>
    intro d p s hd hx hb
    refine congrArg Host.Outcome.next ((onDie_of_alive hd _).trans ?_)
    unfold doLnkPortCtlRetrain
    rw [if_neg (by rw [hx]; decide), if_pos (.inr hb)]
  case outer =>
    intro d p c s hx hst hc
    obtain ⟨hstate, hevent, hkind⟩ := linkLoss_outer_spec (s := s) hx c hc
    exact ⟨_, congrArg Host.Outcome.next (doLinkDown_of_up hx hst c), hstate, hevent, hkind⟩
  case host =>
    intro d p c s hx hst hc hrank
    have h := linkLoss_host_spec hx c hc hrank
    exact ⟨_, congrArg Host.Outcome.next (doLinkDown_of_up hx hst c), h.kind, h.emptied.1, h.driven⟩
  case matrix =>
    intro d p c k s hx hst hc hrank hk hparts
    exact ⟨_, congrArg Host.Outcome.next (doLinkDown_of_up hx hst c), linkLoss_matrix_spec hx c hc hrank hk hparts⟩

end Sys2Proof.Proofs
end


section
/-! The start-up after a system reset (R482 to R485). -/

namespace Sys2Proof.Proofs

open Sys2Proof.Machine Sys2Proof.Safety Sys2Proof.Laws

/-! ### What the steps of the start leave as it is -/

/-- From one state to another the reset under way, the plate, whether the start has stopped, and the pin SYS_RST_N stay. -/
structure Boots (s t : State) : Prop where
  kind : t.rst.kind = s.rst.kind
  plate : t.rst.plate = s.rst.plate
  stopped : t.rst.stopped = s.rst.stopped
  driven : t.pins.sysRstDriven = s.pins.sysRstDriven

namespace Boots

theorem refl (s : State) : Boots s s := ⟨rfl, rfl, rfl, rfl⟩

variable {s t u : State}

theorem trans (h : Boots s t) (h' : Boots t u) : Boots s u :=
  ⟨h'.kind.trans h.kind, h'.plate.trans h.plate, h'.stopped.trans h.stopped, h'.driven.trans h.driven⟩

theorem of_rst (hr : t.rst = s.rst) (hp : t.pins = s.pins) : Boots s t :=
  ⟨congrArg (·.kind) hr, congrArg (·.plate) hr, congrArg (·.stopped) hr, congrArg (·.sysRstDriven) hp⟩

theorem ite {a b : State} {c : Prop} {_ : Decidable c} (ha : Boots s a) (hb : Boots s b) : Boots s (if c then a else b) := by
  split
  · exact ha
  · exact hb

theorem foldl {α : Type} {f : State → α → State} {l : List α} (h : Boots s t) (hf : ∀ u a, Boots s u → Boots s (f u a)) :
    Boots s (l.foldl f t) :=
  List.foldlRecOn (motive := Boots s) l f h fun u hu a _ => hf u a hu

variable (hs : Boots s t)
include hs

/-- A change of anything but resets and pins. -/
theorem update {pending time fresh regs fuses rowFuses rowMap mem near ostore poison flaws failedPcs ceLog scrubFrom recals cores vecs irqOut
    engines rdc tok launches ctxs rrNext mediaQ regions xlat coh links parcels net power persist uart0 sec evt jtag ddr} :
    Boots s ⟨pending, time, fresh, regs, fuses, rowFuses, rowMap, mem, near, ostore, poison, flaws, failedPcs, ceLog, scrubFrom, recals,
      cores, vecs, irqOut, engines, rdc, tok, launches, ctxs, rrNext, mediaQ, regions, xlat, coh, links, parcels, net, power, persist,
      t.rst, t.pins, uart0, sec, evt, jtag, ddr⟩ := ⟨hs.kind, hs.plate, hs.stopped, hs.driven⟩

theorem homes {u : State} (h : HomesOnly t u) : Boots s u := hs.trans (.of_rst (h.get (f := State.rst)) (h.get (f := State.pins)))

/-! ### Self-test and training of memory -/

theorem persistField {n hi lo v : Nat} : Boots s (Machine.persistField t n hi lo v) :=
  .ite hs.update (.ite (.ite hs.update (.ite hs.update hs.update)) hs.update)

theorem excludeStack {h k : Nat} : Boots s (Machine.excludeStack t h k) :=
  have hr : Boots s (Machine.raise t 0x0F50 3 (unitId h 2 k)) := hs.update
  hr.persistField

theorem trainStack {f : Findings} {h k : Nat} : Boots s (Machine.trainStack f h t k) := by
  unfold Machine.trainStack
  dsimp only
  have hnoted : Boots s { t with failedPcs := t.failedPcs.filter fun pc => pc / 32 != (h - 18) * 4 + k } := hs.update
  split
  · exact hnoted.update
  · split
    · exact hnoted.excludeStack.update
    · have hraised := hnoted.foldl (l := (List.range 32).filter fun i => mapsOut f t (32 * ((h - 18) * 4 + k) + i))
        (f := fun s i => Machine.raise s 0x0F55 1 (unitId h 3 (32 * k + i))) fun _ _ hu => hu.update
      split
      · exact hraised.excludeStack.update
      · exact hraised.update

theorem trainHbm {f : Findings} {p : Nat} : Boots s (Machine.trainHbm f t p) := by
  have hstacks : Boots s ((partHubs t p).foldl (fun s h => (List.range 4).foldl (Machine.trainStack f h) s) t) :=
    hs.foldl fun _ _ hu => hu.foldl fun _ _ hv => hv.trainStack
  exact hstacks.update.foldl fun _ _ hu => hu.update

theorem setDdr {d : DdrFound} : Boots s (Machine.setDdr t d) := ⟨hs.kind, hs.plate, hs.stopped, hs.driven⟩

theorem repairNear {f : Findings} {md : Nat} : Boots s (Machine.repairNear f t md) :=
  have hbanks : Boots s ((List.range 32).foldl (repairBank f (md + 8)) t) :=
    hs.foldl fun _ _ hu => .ite hu.update (.ite hu.update hu.update)
  hbanks.update

theorem pairOn {d p : Nat} : Boots s (Machine.pairOn t d p) := by
  unfold Machine.pairOn Machine.setPair
  exact .ite (.ite hs.update hs.update) hs

theorem countHandshakes {d e : Nat} : Boots s (Machine.countHandshakes t d e) := hs.foldl fun _ _ hu => hu.update

theorem fput {d i : Nat} {f : Fld} {v : Nat} : Boots s (Machine.fput t d i f v) := hs.update

theorem setColmap {d e m : Nat} : Boots s (Machine.setColmap t d e m) := hs.update

theorem testEngine {f : Findings} {d e : Nat} : Boots s (Machine.testEngine f d t e) := by
  unfold Machine.testEngine
  dsimp only
  split
  · split
    · exact hs.pairOn.countHandshakes.setColmap
    · exact hs.pairOn.countHandshakes.setColmap.fput
  · exact hs.setColmap

theorem placeRole {quals banks : List Nat} {d e : Nat} : Boots s (Machine.placeRole quals banks d t e) := by
  unfold Machine.placeRole bindBank
  split
  · split
    · exact .ite hs.update hs.update
    · exact hs.update
  · exact hs.update

theorem testEngines {f : Findings} {d : Nat} : Boots s (Machine.testEngines f t d) := by
  unfold Machine.testEngines
  dsimp only
  have hroles {quals banks : List Nat} : Boots s ((List.range 34).foldl (Machine.placeRole quals banks d)
      ((List.range 34).foldl (Machine.testEngine f d) t)) :=
    (hs.foldl fun _ _ hu => hu.testEngine).foldl fun _ _ hu => hu.placeRole
  exact .ite hroles.update hroles

theorem testDies {f : Findings} {l : List Nat} : Boots s (Machine.testDies f t l) := hs.foldl fun _ _ hu => hu.repairNear.testEngines

/-! ### The plate, and what follows the tests -/

theorem setMode {mode : Nat} : Boots s (Machine.setMode t mode) := hs.foldl fun _ _ hu => hu.update

theorem setEpochs : Boots s (Machine.setEpochs t) := hs.foldl fun _ _ hu => hu.update

theorem recWrite {a : Nat} {bs : List Byte} : Boots s (Machine.recWrite t a bs) := hs.homes (.recWrite (.refl t))

theorem writeEvent {e : Event} : Boots s (Machine.writeEvent t e) := by
  unfold Machine.writeEvent
  extract_lets prod cons u v w
  have hu : Boots s u := .ite hs.update hs
  have hw : Boots s w := hu.recWrite.fput
  exact .ite hw.update hw

theorem doEvtLogEnable {w : BitVec 64} : Boots s (Machine.doEvtLogEnable w t) :=
  .ite hs (hs.update.foldl fun _ _ hu => hu.writeEvent)

theorem loadDerate : Boots s (Machine.loadDerate t) := hs.foldl fun _ _ hu => .ite hu (.ite hu.update hu.update)

theorem releaseCores {pl : Plate} : Boots s (Machine.releaseCores t pl) := hs.foldl fun _ _ hu => .ite hu.update hu

end Boots

/-! ### Links of a reset device train (R397) -/

/-- Findings without a lost link, a bad lane or a bad pad. -/
structure Sound (f : Findings) : Prop where
  links : f.badLinks = []
  lanes : f.lanes = []
  pads : f.bondPads = []

/-- A test of every lane of a link that finds all of them good. -/
def allGood (d p : Nat) : List Bool := List.replicate (laneCount d p) true

theorem laneTest_of_sound {f : Findings} (h : Sound f) (d p i : Nat) : laneTest f d p i = allGood d p := by
  unfold laneTest allGood
  rw [h.lanes]
  exact (List.map_const' ..).trans (by rw [List.length_range])

theorem countTrue_replicate (n : Nat) : countTrue (List.replicate n true) = n := by
  simp [countTrue]

theorem guides_replicate (n : Nat) : guides n (List.replicate (9 * n) true) = List.replicate n 9 := by
  induction n with
  | zero => rfl
  | succ n ih =>
    unfold guides
    rw [List.take_replicate, List.drop_replicate, countTrue_replicate, Nat.min_eq_left (by omega), Nat.mul_succ, Nat.add_sub_cancel, ih]
    rfl

/-- A link all of whose lanes are good has a width. -/
theorem lnkWidth_allGood (d p : Nat) : ∃ w, lnkWidth d p (allGood d p) = some w := by
  unfold lnkWidth allGood laneCount
  dsimp only
  split
  · rw [guides_replicate, List.filter_replicate]
    have h8 : decide (8 ≤ 9) = true := rfl
    rw [h8, if_pos rfl, List.length_replicate, if_pos (by omega)]
    exact ⟨_, rfl⟩
  · rw [countTrue_replicate, if_pos (by omega)]
    exact ⟨_, rfl⟩

theorem lnkExists_of_mem {x : Nat × Nat} (h : x ∈ allLinks) : lnkExists x.1 x.2 = true := by
  obtain ⟨d, -, hx⟩ := List.mem_flatMap.1 h
  obtain ⟨p, hp, rfl⟩ := List.mem_map.1 hx
  exact decide_eq_true (List.mem_range.1 (List.mem_filter.1 hp).1)

/-- From one state to another the resets and the pins stay. -/
theorem LinksOnly.boots {s t : State} (h : LinksOnly s t) : Boots s t := .of_rst (h.get (f := State.rst)) (h.get (f := State.pins))

theorem startEnd_endOnly (fresh : Nat → Bool) (s : State) (d p : Nat) : EndOnly d p s (startEnd fresh s d p) := (EndOnly.refl s).putLnk _

theorem getLnk_startEnd (s : State) (d p : Nat) : getLnk (startEnd (fun _ => true) s d p) d p = LinkPort.fresh := getLnk_putLnk ..

theorem lnkComeUp_boots (s : State) {d p : Nat} (hx : lnkExists d p = true) (n : Nat) (w : Nat × Nat) :
    Boots s (lnkComeUp s d p n w) := by
  obtain ⟨hp, -, hq, -⟩ := lnkPeer_of_exists hx
  have h1 : EndOnly d p s (comeUpEnd n w s d p) := comeUpEnd_endOnly n w s d (by omega)
  have h2 := bothEnds_endOnly (f := comeUpEnd n w) s fun u =>
    comeUpEnd_endOnly n w u (lnkPeer d p).1 (by omega : (lnkPeer d p).2 < 1024)
  have hboth := (h1.linksOnly.trans h2.linksOnly).boots
  rw [lnkComeUp_eq]
  exact .ite hboth.update hboth

/-- Every link trains when nothing is wrong with it, and nothing but links and events changes. -/
theorem trainLink_of_sound {f : Findings} (h : Sound f) (s : State) {d p : Nat} (hx : lnkExists d p = true) :
    ∃ t, trainLink f (fun _ => true) s d p = (none, t) ∧ Boots s t := by
  obtain ⟨hp, hne, hq, hl, ha⟩ := lnkPeer_of_exists hx
  unfold trainLink
  split
  · exact ⟨_, rfl, (Boots.refl s).fput.fput⟩
  · split
    · have hpads : bondBad f d p = false := by
        unfold bondBad
        rw [h.pads]
        rfl
      rw [hpads]
      exact ⟨_, rfl, lnkComeUp_boots s hx 1 _⟩
    · have htests : laneTests f d p = (allGood d p, allGood (lnkPeer d p).1 (lnkPeer d p).2) ::
          [(allGood d p, allGood (lnkPeer d p).1 (lnkPeer d p).2), (allGood d p, allGood (lnkPeer d p).1 (lnkPeer d p).2)] := by
        unfold laneTests
        simp only [h.links, List.contains_nil, Bool.or_self, Bool.false_eq_true, if_false, laneTest_of_sound h]
        rfl
      have h1 := startEnd_endOnly (fun _ => true) s d p
      have h2 := bothEnds_endOnly (d := d) (p := p) (f := startEnd fun _ => true) s fun u => startEnd_endOnly _ u _ _
      have hnear : getLnk (bothEnds s d p (startEnd fun _ => true)) d p = LinkPort.fresh :=
        (h2.getLnk hne.symm hp hq).trans (getLnk_startEnd ..)
      have hfar : getLnk (bothEnds s d p (startEnd fun _ => true)) (lnkPeer d p).1 (lnkPeer d p).2 = LinkPort.fresh := getLnk_startEnd ..
      have hgood : allGood (lnkPeer d p).1 (lnkPeer d p).2 = allGood d p := by
        unfold allGood
        rw [hl]
      have hma := mapSent_of_none (a := allGood d p) (congrArg LinkPort.ownMap hnear) List.length_replicate
      have hmb := mapSent_of_none (a := allGood d p) (congrArg LinkPort.ownMap hfar) (List.length_replicate.trans hl.symm)
      obtain ⟨u, hu, hatt⟩ := attempts_of_agree (s := bothEnds s d p (startEnd fun _ => true)) (a := allGood d p) (b := allGood d p)
        [(allGood d p, allGood d p), (allGood d p, allGood d p)] hx (by rw [hnear]; rfl) (by rw [hfar]; rfl)
      obtain ⟨w, hw⟩ := lnkWidth_allGood d p
      have hzip : List.zipWith (fun a b => a && b) (allGood d p) (allGood d p) = allGood d p := by
        unfold allGood
        rw [List.zipWith_replicate, Nat.min_self]
        rfl
      rw [htests, hgood, hatt, hma, hmb, hzip, setWidth, hw]
      exact ⟨_, rfl, ((h1.linksOnly.trans h2.linksOnly).boots.trans hu.boots).trans (lnkComeUp_boots u hx _ w)⟩

/-- The links that a start trains. -/
theorem trainLinks_of_sound {f : Findings} (h : Sound f) (s : State) (sel : Nat → Nat → Bool) :
    (trainLinks s f (fun _ => true) sel).1 = [] ∧ Boots s (trainLinks s f (fun _ => true) sel).2 := by
  unfold trainLinks
  refine List.foldlRecOn (motive := fun q : List (Nat × Nat × Nat) × State => q.1 = [] ∧ Boots s q.2) _ _ ⟨rfl, .refl s⟩
    fun q hq x hx => ?_
  obtain ⟨hbad, hboots⟩ := hq
  obtain ⟨t, ht, hb⟩ := trainLink_of_sound h q.2 (lnkExists_of_mem (List.mem_filter.1 hx).1)
  rw [ht]
  exact ⟨hbad, hboots.trans hb⟩

/-! ### The steps of the start (R482, R485) -/

theorem applyPlate_boots (s : State) (pl : Plate) : Boots s (applyPlate s pl false) := by
  unfold applyPlate
  extract_lets mode cat ceiling net pins gpio cap power req
  have hcat : Boots s cat := (Boots.refl s).foldl fun _ _ hu => hu.fput.fput
  have hnet : Boots s net := (hcat.fput.fput : Boots s ceiling).foldl fun _ _ hu => hu.fput.fput.fput
  have hgpio : Boots s gpio := ⟨hnet.kind, hnet.plate, hnet.stopped, hnet.driven⟩
  exact (hgpio.update.fput : Boots s req).foldl fun _ _ hu => hu.fput

theorem loadDerate_grows (s : State) : Grows s (loadDerate s) := by
  refine (Grows.refl s).foldl fun u x hu => ?_
  dsimp only
  split
  · exact hu
  · split
    · exact hu.fput.fput.raise
    · exact hu.fput

theorem releaseCores_grows (s : State) (pl : Plate) : Grows s (releaseCores s pl) :=
  (Grows.refl s).foldl fun _ _ hu => .ite hu.update hu

/-- What the last steps of the start leave. -/
structure Opened (s t : State) : Prop where
  boots : Boots s t
  stage : fget t 24 0 Fl.BOOT_STATUS_STAGE = 11
  started : 0x0F73 ∈ t.evt.arriving.map (·.code)

theorem Opened.of_boots {s u t : State} (h : Boots s u) (h' : Opened u t) : Opened s t := ⟨h.trans h'.boots, h'.stage, h'.started⟩

/-- Once the start is recorded, the cores are released and STAGE shows it. -/
theorem released_opened (s : State) (pl : Plate) (x : BitVec 128) :
    Opened s (fput (releaseCores (loadDerate (raise s 0x0F73 0 rstUnit 0 x)) pl) 24 0 Fl.BOOT_STATUS_STAGE 11) := by
  have hraise : Boots s (raise s 0x0F73 0 rstUnit 0 x) := (Boots.refl s).update
  have hgrow := (loadDerate_grows (raise s 0x0F73 0 rstUnit 0 x)).trans (releaseCores_grows _ pl)
  obtain ⟨e, he, hcode⟩ := List.mem_map.1 (code_mem_raise s 0x0F73 0 rstUnit 0 x)
  exact ⟨hraise.loadDerate.releaseCores.fput, fget_fput_of_lt _ _ _ _ (by decide) (by decide) (by decide),
    List.mem_map.2 ⟨e, hgrow e he, hcode⟩⟩

theorem openStart_opened (s : State) (pl : Plate) (fallback unstable : Bool) : Opened s (openStart s pl fallback unstable) := by
  unfold openStart
  extract_lets u v w
  have hu : Boots s u := by
    simp only [u]
    split
    · exact .ite (Boots.refl s).doEvtLogEnable (Boots.refl s).fput
    · exact .refl s
  have hv : Boots s v := .ite hu.update hu
  have hw : Boots s w := .ite hv.update hv
  exact .of_boots hw (released_opened w pl _)

/-- Steps 6 to 11 with acceptable steppings and a valid DDR population. -/
theorem startRest_opened (s : State) {b : BootInput} (hstep : steppingOk b.epochs = true) (hddr : ddrValid b.ddr = true) (pl : Plate)
    (powerOn fallback : Bool) : Opened s (startRest s b pl powerOn fallback) := by
  unfold startRest
  rw [hstep, hddr]
  have htrained (l : List Nat) : Boots s (l.foldl (trainHbm b.findings) (setEpochs s)) :=
    (Boots.refl s).setEpochs.foldl fun _ _ hu => hu.trainHbm
  exact .of_boots (htrained _).setDdr.testDies (openStart_opened ..)

/-- SYS_RST_N is released, the port dies' clocks are as found, and the debug port leaves what a reset ends. -/
def step5 (s : State) (b : BootInput) (pl : Plate) : State :=
  let s := applyPlate s pl false
  fuseEpochs { s with
    pins := { s.pins with sysRstDriven := false, sysRstBoard := false, highZ := false, clocks := b.portClocks }
    jtag := { s.jtag with ir := if 3 ≤ s.jtag.ir ∧ s.jtag.ir ≤ 5 then 0 else s.jtag.ir } } b.epochs

/-- How the start goes on after the training of the links: the links that failed, and the state. -/
def afterTraining (b : BootInput) (pl : Plate) (fallback : Bool) (t : List (Nat × Nat × Nat) × State) : State :=
  match t.1.find? fun x => hostHub x.1 x.2.1 with
  | some x => failStart (raise t.2 0x0511 3 (lnkUnit x.1 x.2.1) 0 (lossDetail x.1 x.2.1 x.2.2)) 5
  | none =>
    if !b.linkClock then failStart t.2 5
    else
    let s := bootLinkFails { t.2 with rst := { t.2.rst with kind := .none } } t.1
    if s.rst.kind = .none then startRest s b pl false fallback else s

theorem startFrom5_eq (s : State) (b : BootInput) (pl : Plate) (fallback : Bool) : startFrom5 s b pl false fallback =
    afterTraining b pl fallback
      (if b.linkClock then trainLinks (step5 s b pl) b.findings (fun _ => true) fun _ _ => true else ([], step5 s b pl)) := rfl

theorem afterTraining_of_none {b : BootInput} (hclk : b.linkClock = true) (u : State) (pl : Plate) (fallback : Bool) :
    afterTraining b pl fallback ([], u) = startRest { u with rst := { u.rst with kind := .none } } b pl false fallback := by
  unfold afterTraining
  rw [hclk]
  rfl

/-- Steps 5 to 11 with every link and pad good. -/
theorem startFrom5_of_sound {b : BootInput} (hclk : b.linkClock = true) (hf : Sound b.findings) (s : State) (pl : Plate)
    (fallback : Bool) : ∃ u, Boots (step5 s b pl) u ∧
      startFrom5 s b pl false fallback = startRest { u with rst := { u.rst with kind := .none } } b pl false fallback := by
  obtain ⟨hbad, hboots⟩ := trainLinks_of_sound hf (step5 s b pl) fun _ _ => true
  refine ⟨_, hboots, ?_⟩
  rw [startFrom5_eq, if_pos hclk, ← afterTraining_of_none hclk]
  exact congrArg _ (Prod.ext hbad rfl)

theorem fuseEpochs_rst (s : State) (l : List Nat) : (fuseEpochs s l).rst = s.rst := rfl

theorem fuseEpochs_pins (s : State) (l : List Nat) : (fuseEpochs s l).pins = s.pins := rfl

theorem step5_rst (s : State) (b : BootInput) (pl : Plate) : (step5 s b pl).rst = (applyPlate s pl false).rst := by
  unfold step5
  rw [fuseEpochs_rst]

theorem step5_driven (s : State) (b : BootInput) (pl : Plate) : (step5 s b pl).pins.sysRstDriven = false := by
  unfold step5
  rw [fuseEpochs_pins]

/-- What a start that runs to its end leaves of the reset. -/
structure Started (s t : State) : Prop where
  stage : fget t 24 0 Fl.BOOT_STATUS_STAGE = 11
  kind : t.rst.kind = .none
  plate : t.rst.plate = s.rst.plate
  stopped : t.rst.stopped = s.rst.stopped
  driven : t.pins.sysRstDriven = false
  event : 0x0F73 ∈ t.evt.arriving.map (·.code)

theorem Opened.started_of {u t : State} (h : Opened { u with rst := { u.rst with kind := .none } } t)
    (hdriven : u.pins.sysRstDriven = false) : Started u t :=
  ⟨h.stage, h.boots.kind, h.boots.plate, h.boots.stopped, h.boots.driven.trans hdriven, h.started⟩

theorem startFrom5_started {b : BootInput} (hclk : b.linkClock = true) (hf : Sound b.findings) (hstep : steppingOk b.epochs = true)
    (hddr : ddrValid b.ddr = true) (s : State) (pl : Plate) (fallback : Bool) : Started s (startFrom5 s b pl false fallback) := by
  obtain ⟨u, hu, hgo⟩ := startFrom5_of_sound hclk hf s pl fallback
  have hplate := applyPlate_boots s pl
  have hall := (startRest_opened { u with rst := { u.rst with kind := .none } } hstep hddr pl false fallback).started_of
    (hu.driven.trans (step5_driven s b pl))
  rw [hgo]
  refine ⟨hall.stage, hall.kind, ?_, ?_, hall.driven, hall.event⟩
  · rw [hall.plate, hu.plate, step5_rst, hplate.plate]
  · rw [hall.stopped, hu.stopped, step5_rst, hplate.stopped]

/-- Entering a plate puts it in force. -/
theorem enterPlate_rst (s : State) (b : BootInput) (n : Nat) (x : PlateImage) :
    (enterPlate s b n x).rst = { s.rst with plate := some x.plate } := by
  have hfold (l : List (BitVec 384 × Nat)) (u : State) : (l.foldl (fun s d => mrExtend s (d.2 + 1) d.1) u).rst = u.rst :=
    List.foldlRecOn (motive := fun v : State => v.rst = u.rst) l _ rfl fun _ hv _ _ => hv
  unfold enterPlate
  dsimp only
  split
  · rw [hfold]
    rfl
  · rw [mrDebug, mrExtend, hfold]
    rfl

theorem plateSource_rst (s : State) (powerOn : Bool) : (plateSource s powerOn).2.rst = s.rst := by
  unfold plateSource
  split <;> rfl

/-- START_UP in a system reset that has not stopped, with the pins as they must be and SYSREF25: the plate is sought. -/
theorem doStartUp_of_system {s : State} {b : BootInput} (hkind : s.rst.kind = .system) (hpwr : s.pins.pwrGood = true)
    (hstop : s.rst.stopped = false) (hboard : s.pins.sysRstBoard = false ∨ b.boardHolds = false) (hsys : b.sysref = true) :
    doStartUp b s = match choosePlate (plateSource s false).2 b (plateSource s false).1 with
      | .error code => failStart (plateSource s false).2 code
      | .ok (source, x, fallback) =>
        startFrom5 (enterPlate (plateSource s false).2 b source x) b x.plate false fallback := by
  have hpower : decide (s.rst.kind = .powerOn) = false := by rw [hkind]; rfl
  have hgo : ¬ (s.rst.kind.rank < 2 ∨ (!s.pins.pwrGood) = true ∨ s.rst.stopped = true) := by
    rw [hkind, hpwr, hstop]
    decide
  have hfree : ¬ (s.rst.kind = .system ∧ s.pins.sysRstBoard = true ∧ b.boardHolds = true) := by
    rintro ⟨-, h1, h2⟩
    rw [h1, h2] at hboard
    simp at hboard
  unfold doStartUp
  simp only [hpower]
  rw [if_neg hgo, if_neg hfree, if_neg (by rw [hsys]; decide)]
  rfl

/-- Without a plate in either flash bank, and with neither BOOT_NEXT nor the strap naming another source, none is found. -/
theorem choosePlate_of_empty {s : State} {b : BootInput} (ha : b.flashA = none) (hb : b.flashB = none) {source : Nat}
    (hs : source ≤ 1) : choosePlate s b source = .error 1 := by
  unfold choosePlate
  rw [ha, hb]
  simp only [ite_self, if_pos hs]
  rfl

theorem plateSource_of_strap {s : State} (h : fget s 24 0 Fl.BOOT_NEXT_VALID = 0) :
    plateSource s false = (fget s 24 0 Fl.STRAP_STATUS_BOOT_SOURCE, s) := by
  unfold plateSource
  exact if_neg fun hc => by omega

/-- The sequence stops with every die but the system die off. -/
def stopWith (u : State) (code : Nat) : State :=
  { u with
    rst := { u.rst with stopped := true, deadDies := List.range 24 }
    uart0 := u.uart0 ++ [code] }

theorem failStart_eq (s : State) (code : Nat) :
    failStart s code = stopWith (fput (fput s 24 0 Fl.BOOT_STATUS_STAGE 15) 24 0 Fl.BOOT_STATUS_CODE code) code := rfl

theorem fget_stopWith (u : State) (code d i : Nat) (f : Fld) : fget (stopWith u code) d i f = fget u d i f := rfl

/-- A start that fails shows STAGE 15 and its code. -/
theorem failStart_shows (s : State) {code : Nat} (hc : code < 2 ^ (Fl.BOOT_STATUS_CODE.hi - Fl.BOOT_STATUS_CODE.lo + 1)) :
    fget (failStart s code) 24 0 Fl.BOOT_STATUS_STAGE = 15 ∧ fget (failStart s code) 24 0 Fl.BOOT_STATUS_CODE = code := by
  rw [failStart_eq, fget_stopWith, fget_stopWith]
  refine ⟨?_, fget_fput_of_lt _ _ _ _ (by decide) (by decide) hc⟩
  rw [fget_fput_other (by decide), fget_fput_of_lt _ _ _ _ (by decide) (by decide) (by decide)]

/-- START_UP without SYSREF25 stays at step 1. -/
theorem doStartUp_of_noClock {s : State} {b : BootInput} (hrank : 2 ≤ s.rst.kind.rank) (hpwr : s.pins.pwrGood = true)
    (hstop : s.rst.stopped = false) (hheld : s.rst.kind ≠ .system ∨ s.pins.sysRstBoard = false ∨ b.boardHolds = false)
    (hsys : b.sysref = false) : doStartUp b s = fput s 24 0 Fl.BOOT_STATUS_STAGE 1 := by
  have hgo : ¬ (s.rst.kind.rank < 2 ∨ (!s.pins.pwrGood) = true ∨ s.rst.stopped = true) := by
    rw [hpwr, hstop]
    simp only [Bool.not_true, Bool.false_eq_true, or_self, or_false]
    omega
  have hfree : ¬ (s.rst.kind = .system ∧ s.pins.sysRstBoard = true ∧ b.boardHolds = true) := by
    rintro ⟨h1, h2, h3⟩
    rw [h2, h3] at hheld
    simp [h1] at hheld
  unfold doStartUp
  dsimp only
  rw [if_neg hgo, if_neg hfree, if_pos (by rw [hsys]; rfl)]

/-- Settles O52: with nothing wrong every link trains, and no later step touches the reset, the plate or the pin. -/
theorem startUpRunsOrFails : Obligations.StartUpRunsOrFails := by
  refine ⟨?runs, ?noPlate, ?noClock, ?idle⟩
  case runs =>
    intro b n x fb s hkind hpwr hstop hsys hclk hboard hlinks hlanes hpads hstep hddr hx
    have h := startFrom5_started hclk ⟨hlinks, hlanes, hpads⟩ hstep hddr (enterPlate (plateSource s false).2 b n x) x.plate fb
    have hrst : (enterPlate (plateSource s false).2 b n x).rst = { s.rst with plate := some x.plate } := by
      rw [enterPlate_rst, plateSource_rst]
    have hgo := doStartUp_of_system hkind hpwr hstop hboard hsys
    rw [hx] at hgo
    refine ⟨_, congrArg Host.Outcome.next hgo, h.stage, h.kind, ?_, ?_, h.driven, h.event⟩
    · rw [h.plate, hrst]
    · rw [h.stopped, hrst]
      exact hstop
  case noPlate =>
    intro b s hkind hpwr hstop hboard hsys ha hb hnext hstrap
    have hgo := doStartUp_of_system hkind hpwr hstop hboard hsys
    rw [plateSource_of_strap hnext, choosePlate_of_empty ha hb hstrap] at hgo
    obtain ⟨hstage, hcode⟩ := failStart_shows s (code := 1) (by decide)
    exact ⟨_, congrArg Host.Outcome.next hgo, hstage, hcode, rfl, rfl, rfl, ⟨rfl, rfl, rfl⟩⟩
  case noClock =>
    intro b s hrank hpwr hstop hheld hsys
    exact congrArg Host.Outcome.next (doStartUp_of_noClock hrank hpwr hstop hheld hsys)
  case idle =>
    intro b s h
    refine congrArg Host.Outcome.next (if_pos ?_)
    rcases h with h | h | h
    · exact .inl h
    · exact .inr (.inl (by rw [h]; rfl))
    · exact .inr (.inr h)

end Sys2Proof.Proofs
end
